-- ==== Sys2Proof/Word.lean ====
section
/-! DEFINITION. The word types of the block: a control-port word, a byte, an atom of 64 bytes with its code. -/

namespace Sys2Proof

/-- A control-port word (R87). -/
abbrev Word := BitVec 64

/-- A byte. -/
abbrev Byte := BitVec 8

/-- The 64 data bytes of an atom, byte i in bits [8i+7:8i]. -/
abbrev Atom := BitVec 512

/-- The 72 stored symbols of an atom (R259): 64 data symbols, C0 to C6, the metadata symbol; symbol i in bits [8i+7:8i]. -/
abbrev Stored := BitVec 576

/-- The data bytes of a request: up to 4 KiB, byte i in bits [8i+7:8i]. -/
abbrev Payload := BitVec 32768

end Sys2Proof
end

