-- ==== Sys2Proof/Syntax.lean ====
section
/-! DEFINITION. The commands of the block: one constructor for each row of the table of operations and events, with the
row's operands. The block takes no instruction stream: a command is a request at a port, a register write, an event on
a pin, or the moment at which one of the block's own engines takes its next step (spec/95_what_each_step_holds.md).
What the outside world decides at such a moment (a measured speed, a conversion of a diode, which lanes train, which
stored symbols a fault has changed) is an operand. -/

namespace Sys2Proof

/-- One conversion of a thermal diode (R396, R397). -/
inductive Conv where
  | openCircuit
  | shortCircuit
  | reading (t : BitVec 16)
deriving DecidableEq, Repr

/-- One lane that has no working setting, and the timing sets at which that is so (R248, R250, R253). For a
command/address lane `pc` is either PC of the channel. -/
structure LaneFail where
  stack : Nat
  pc : Nat
  ca : Bool
  lane : Nat
  sets : List Nat
deriving DecidableEq, Repr

/-- What training meets at the stacks (R227, R248): the height each stack reports where it differs from the built one,
and the lanes that fail. DESIGN CHOICE, log entry 39. -/
structure TrainEnv where
  heights : List (Nat × Nat)
  fails : List LaneFail
deriving DecidableEq, Repr

/-- A credit message on a credit channel (Table 2.14). -/
structure CrMsg where
  clrAll : Bool
  count : Nat
  label : Nat
deriving DecidableEq, Repr

/-- The commands. A request's `flits` are its flits up to the first with RQ_LAST = 1, or up to the next header where that came first
(`cut`, R63). The credit messages of the sibling (Table 2.14), for which the table has no row, come with its answers and with the Bridge
(DESIGN CHOICE, log entry 92). -/
inductive Instr where
  /-- HEADROOM_SAMPLE (R31). -/
  | headroomSample (speed : BitVec 16) (area : BitVec 8)
  /-- CADENCE_PLL_LOCK (R37). -/
  | cadencePllLock (env : TrainEnv)
  /-- CAD_SYNC_ARM (R44). -/
  | cadSyncArm (value : Word)
  /-- SYNC_EDGE (R39). -/
  | syncEdge
  /-- CADENCE_PAUSE_END (R40). -/
  | cadencePauseEnd
  /-- SCHEDULER_HANDOVER (R23). -/
  | schedulerHandover (s : Fin 8) (p : Fin 64) (column : Bool) (slot : Nat)
  /-- WARDEN_ISSUE (R22). -/
  | wardenIssue (s : Fin 8) (p : Fin 64) (slot : Nat)
  /-- READ (R66). -/
  | read (port : Fin 112) (header : BitVec 128) (flits : Nat) (cut : Bool)
  /-- WRITE (R70). -/
  | write (port : Fin 112) (header : BitVec 128) (flits : Nat) (cut : Bool) (data : Payload)
  /-- WRITE_PARTIAL (R57). -/
  | writePartial (port : Fin 112) (header : BitVec 128) (flits : Nat) (cut : Bool) (data : Payload) (enables : BitVec 256)
  /-- ATOMIC_ADD_BESIDE (R73). -/
  | atomicAddBeside (port : Fin 112) (header : BitVec 128) (flits : Nat) (cut : Bool) (data : Payload)
  /-- FENCE (R71). -/
  | fence (port : Fin 112) (header : BitVec 128) (flits : Nat) (cut : Bool)
  /-- PROBE (R72). -/
  | probe (port : Fin 112) (header : BitVec 128) (flits : Nat) (cut : Bool)
  /-- RESERVED_OPCODE (R55). -/
  | reservedOpcode (port : Fin 112) (seven : Bool) (header : BitVec 128) (flits : Nat) (cut : Bool)
  /-- STRAY_DATA_FLIT (R62). -/
  | strayDataFlit (port : Fin 113)
  /-- HELD_HEADER_ACCEPTED (R77). -/
  | heldHeaderAccepted (port : Fin 113)
  /-- MISS_HOLD_RELEASE (R131). -/
  | missHoldRelease (port : Fin 112)
  /-- RESPONSE_FLIT_ACK (R76). -/
  | responseFlitAck (port : Fin 113)
  /-- CREDIT_RETURN (R165). -/
  | creditReturn (port : Fin 113) (label : Fin 64)
  /-- RESPONSE_STALL (R74). -/
  | responseStall (port : Fin 113)
  /-- PORT_ENABLE (R78). -/
  | portEnable (port : Fin 113) (value : Word)
  /-- PORT_DISABLE (R78). -/
  | portDisable (port : Fin 113) (value : Word)
  /-- FENCE_COMPLETE (R71). -/
  | fenceComplete (port : Fin 112)
  /-- BRIDGE_REQUEST (R84). -/
  | bridgeRequest (header : BitVec 128) (flits : Nat) (cut : Bool) (data : Payload) (enables : BitVec 256)
  /-- BRIDGE_RESPONSE (R84). -/
  | bridgeResponse (id : Nat) (status : List (BitVec 3)) (data : Payload) (poison : BitVec 64) (credits : List CrMsg)
  /-- BRIDGE_FORWARD_TIMEOUT (R86). -/
  | bridgeForwardTimeout (id : Nat)
  /-- BRIDGE_DOWN (R85). -/
  | bridgeDown
  /-- BRIDGE_UP (R85). -/
  | bridgeUp (size : BitVec 42) (credits : List CrMsg)
  /-- REGISTER_WRITE (R88). -/
  | registerWrite (addr : BitVec 24) (value : Word)
  /-- ADDR_ORDER_WRITE (R102). -/
  | addrOrderWrite (value : Word)
  /-- PCMAP_EDIT_OPEN (R106). -/
  | pcmapEditOpen (s : Fin 8)
  /-- PCMAP_ENTRY_WRITE (R106). -/
  | pcmapEntryWrite (s : Fin 8) (l : Fin 64) (value : Word)
  /-- PCMAP_FAILED_WRITE (R106). -/
  | pcmapFailedWrite (s : Fin 8) (value : Word)
  /-- PCMAP_EDIT_CLOSE (R106). -/
  | pcmapEditClose (s : Fin 8)
  /-- ACC_COMMIT (R113). -/
  | accCommit (s : Fin 8) (index : Fin 128)
  /-- ACC_LOAD (R113). -/
  | accLoad (s : Fin 8) (index : Fin 128)
  /-- ACC_CLEAR (R113). -/
  | accClear (s : Fin 8) (index : Fin 128)
  /-- ACC_LOCK_SET (R115). -/
  | accLockSet
  /-- INGRESS_GRANT (R187). -/
  | ingressGrant (s : Fin 8) (p : Fin 64)
  /-- RETIRED_LOSS_ANSWER (R104). -/
  | retiredLossAnswer (s : Fin 8)
  /-- DESCRIPTOR_FETCH_START (R130). -/
  | descriptorFetchStart (stream : BitVec 20)
  /-- DESCRIPTOR_FETCH_RETURN (R128). -/
  | descriptorFetchReturn (stream : BitVec 20)
  /-- WRITEBACK_DONE (R129). -/
  | writebackDone (stream : BitVec 20)
  /-- RED_HEAD_REEVAL (R136). -/
  | redHeadReeval (stream : BitVec 20)
  /-- STREAM_LOAD (R142). -/
  | streamLoad (stream : BitVec 20) (tokZero : Bool) (force : Bool)
  /-- STREAM_FLUSH (R141). -/
  | streamFlush (stream : BitVec 20)
  /-- STREAM_PIN (R145). -/
  | streamPin (stream : BitVec 20)
  /-- STREAM_UNPIN (R141). -/
  | streamUnpin (stream : BitVec 20)
  /-- STREAM_VIEW (R141). -/
  | streamView (stream : BitVec 20)
  /-- STREAM_CMD_RESERVED (R141). -/
  | streamCmdReserved (seven : Bool) (stream : BitVec 20)
  /-- STREAM_SAMPLE (R146). -/
  | streamSample (stream : BitVec 20)
  /-- GATE_ENTRY_WRITE (R152). -/
  | gateEntryWrite (g : Fin 16) (bank : Fin 2) (j : Fin 128) (value : Word)
  /-- GATE_ARM (R153). -/
  | gateArm (g : Fin 16) (en : Bool)
  /-- GATE_CANCEL (R155). -/
  | gateCancel (g : Fin 16) (en : Bool)
  /-- GATE_SWAP_TAKE (R154). -/
  | gateSwapTake (g : Fin 16)
  /-- PORT_GROUP_ATOM_START (R161). -/
  | portGroupAtomStart (g : Fin 16)
  /-- QUOTA_WINDOW_START (R189). -/
  | quotaWindowStart (s : Fin 8)
  /-- BANK_GRANT (R177). -/
  | bankGrant (s : Fin 8) (p : Fin 64) (bank : Fin 64)
  /-- ROW_GRANT (R181). -/
  | rowGrant (s : Fin 8) (p : Fin 64)
  /-- COLUMN_GRANT (R177). -/
  | columnGrant (s : Fin 8) (p : Fin 64)
  /-- COLUMN_PREEMPT (R183). -/
  | columnPreempt (s : Fin 8) (p : Fin 64) (bank : Fin 64)
  /-- ING_CAPO_WRITE (R193). -/
  | ingCapoWrite (s : Fin 8) (mask : Word)
  /-- PCC_CAPO_WRITE (R193). -/
  | pccCapoWrite (s : Fin 8) (mask : Word)
  /-- PG_CAPO_WRITE (R193). -/
  | pgCapoWrite (mask : BitVec 16)
  /-- CAPO_SOFT_TO_HARD (R194). -/
  | capoSoftToHard (s : Fin 8) (p : Fin 64)
  /-- CAPO_DRAINED (R194). -/
  | capoDrained (s : Fin 8) (p : Fin 64)
  /-- CAPO_DRAIN_SLOW (R196). -/
  | capoDrainSlow (s : Fin 8) (p : Fin 64)
  /-- HAZARD_CLEAR (R202). -/
  | hazardClear (s : Fin 8) (p : Fin 64)
  /-- STACK_READ_DATA (R242). -/
  | stackReadData (s : Fin 8) (p : Fin 64) (fault : Stored)
  /-- ZMAP_LINE_FILL (R215). -/
  | zmapLineFill (s : Fin 8) (p : Fin 64) (line : BitVec 16)
  /-- ZMAP_LINE_WRITEBACK_DONE (R216). -/
  | zmapLineWritebackDone (s : Fin 8) (p : Fin 64) (line : BitVec 16)
  /-- PAGE_TIMER_EXPIRY (R205). -/
  | pageTimerExpiry (s : Fin 8) (p : Fin 64) (bank : Fin 64)
  /-- WRITE_MODE_AGE (R211). -/
  | writeModeAge (s : Fin 8) (p : Fin 64)
  /-- ZMAP_ADOPT (R212). -/
  | zmapAdopt (s : Fin 8) (p : Fin 64)
  /-- ZMAP_CLEAR (R212). -/
  | zmapClear (s : Fin 8) (p : Fin 64)
  /-- ZMAP_DISABLE (R212). -/
  | zmapDisable (s : Fin 8) (p : Fin 64)
  /-- ZMAP_FLUSH (R212). -/
  | zmapFlush (s : Fin 8) (p : Fin 64)
  /-- ZMAP_OP_RESERVED (R212). -/
  | zmapOpReserved (s : Fin 8) (p : Fin 64) (op : Fin 3)
  /-- ZMAP_CLEAR_DONE (R212). -/
  | zmapClearDone (s : Fin 8) (p : Fin 64)
  /-- ZMAP_DISABLE_DONE (R212). -/
  | zmapDisableDone (s : Fin 8) (p : Fin 64)
  /-- PRED_EN_WRITE (R215). -/
  | predEnWrite (s : Fin 8) (p : Fin 64) (en : Bool)
  /-- SORT_GROUP_RELEASE (R220). -/
  | sortGroupRelease (s : Fin 8)
  /-- ACTIVATE_HINT (R221). -/
  | activateHint (addr : BitVec 42)
  /-- REFRESH_DUE (R234). -/
  | refreshDue (s : Fin 8) (p : Fin 64) (bank : Fin 64)
  /-- FREQ_CHANGE (R240). -/
  | freqChange (s : Fin 8) (set : Fin 4) (env : TrainEnv)
  /-- TSET_WRITE (R232). -/
  | tsetWrite (s : Fin 8) (k : Fin 4) (reg : Fin 4) (value : Word)
  /-- COMMAND_CONFIRMED (R242). -/
  | commandConfirmed (s : Fin 8) (p : Fin 64)
  /-- REPLAY_ERROR (R244). -/
  | replayError (s : Fin 8) (p : Fin 64) (parity : Bool) (env : TrainEnv)
  /-- REPLAY_DONE (R244). -/
  | replayDone (s : Fin 8) (p : Fin 64)
  /-- MERGE_READ_DONE (R267). -/
  | mergeReadDone (s : Fin 8) (p : Fin 64)
  /-- FRET_CMD_INSTALL (R272). -/
  | fretCmdInstall (s : Fin 8) (p : Fin 64) (atom : BitVec 25)
  /-- FRET_CMD_REMOVE (R272). -/
  | fretCmdRemove (s : Fin 8) (p : Fin 64) (atom : BitVec 25)
  /-- FRET_INSTALL (R271). -/
  | fretInstall (s : Fin 8) (p : Fin 64)
  /-- HISTORY_CLEAR (R275). -/
  | historyClear (s : Fin 8) (p : Fin 64)
  /-- MIG_RETIRE_CMD (R276). -/
  | migRetireCmd (s : Fin 8) (lpc : Fin 64)
  /-- RETIREMENT_START (R277). -/
  | retirementStart (s : Fin 8)
  /-- MIGRATION_CHUNK_DONE (R279). -/
  | migrationChunkDone (s : Fin 8)
  /-- SCRUB_EN_WRITE (R365). -/
  | scrubEnWrite (s : Fin 8) (value : Word)
  /-- BOW_CHUNK_START (R364). -/
  | bowChunkStart (s : Fin 8)
  /-- DOORBELL (R288). -/
  | doorbell (value : Word)
  /-- SLOT_LOAD (R291). -/
  | slotLoad
  /-- SWAP_OUT (R292). -/
  | swapOut (c : Fin 256)
  /-- SAVE_DONE (R293). -/
  | saveDone (c : Fin 256)
  /-- SLOT_BASE_WRITE (R322). -/
  | slotBaseWrite (value : Word)
  /-- MOVE (R300). -/
  | seqMove (c : Fin 256)
  /-- FILL (R300). -/
  | seqFill (c : Fin 256)
  /-- GATHER (R300). -/
  | seqGather (c : Fin 256)
  /-- SCATTER (R300). -/
  | seqScatter (c : Fin 256)
  /-- REWRITE (R264). -/
  | seqRewrite (c : Fin 256)
  /-- NMU_UPDATE (R339). -/
  | nmuUpdate (c : Fin 256)
  /-- NMU_REDUCE (R341). -/
  | nmuReduce (c : Fin 256)
  /-- NMU_CAST (R344). -/
  | nmuCast (c : Fin 256)
  /-- CHECK (R307). -/
  | seqCheck (c : Fin 256)
  /-- WAIT_CADENCE (R308). -/
  | waitCadence (c : Fin 256)
  /-- WAIT_CADENCE_RELEASE (R308). -/
  | waitCadenceRelease (c : Fin 256)
  /-- WAIT_TOKEN (R309). -/
  | waitToken (c : Fin 256)
  /-- SIGNAL (R309). -/
  | seqSignal (c : Fin 256)
  /-- SEQ_FENCE (R310). -/
  | seqFence (c : Fin 256)
  /-- GATE_SWAP (R311). -/
  | gateSwap (c : Fin 256)
  /-- SET_STREAM (R312). -/
  | setStream (c : Fin 256)
  /-- SET_STREAM_LOAD (R312). -/
  | setStreamLoad (c : Fin 256)
  /-- LOOP (R313). -/
  | seqLoop (c : Fin 256)
  /-- BRANCH (R314). -/
  | seqBranch (c : Fin 256)
  /-- END (R315). -/
  | seqEnd (c : Fin 256)
  /-- TRAP (R315). -/
  | seqTrap (c : Fin 256)
  /-- SEQ_REQUEST_FAILED (R303). -/
  | seqRequestFailed (c : Fin 256)
  /-- SLOT_FINISHED (R316). -/
  | slotFinished (slot : Fin 4096)
  /-- SEQ_ABORT (R319). -/
  | seqAbort (slot : Fin 4096)
  /-- TOKEN_WRITE (R309). -/
  | tokenWrite (t : Fin 1024) (value : BitVec 32)
  /-- CONTEXT_PARITY_ERROR (R320). -/
  | contextParityError (c : Fin 256)
  /-- NMU_WORK_ATOM (R331). -/
  | nmuWorkAtom (n : Fin 32) (job : Nat) (k : Nat)
  /-- NMU_INSTRUCTION_DONE (R347). -/
  | nmuInstructionDone (job : Nat)
  /-- ATOMIC_ADD_NMU (R333). -/
  | atomicAddNmu (s : Fin 8) (p : Fin 64)
  /-- NMU_PARITY_ERROR (R350). -/
  | nmuParityError (n : Fin 32)
  /-- NMU_WATCHDOG (R351). -/
  | nmuWatchdog (n : Fin 32)
  /-- NMU_OFFLINE (R350). -/
  | nmuOffline (n : Fin 32)
  /-- CHK_START (R358). -/
  | chkStart (u : Fin 4)
  /-- CHK_FINISH (R358). -/
  | chkFinish (u : Fin 4)
  /-- CHK_ABORT (R358). -/
  | chkAbort (u : Fin 4)
  /-- CHK_SCAN (R361). -/
  | chkScan (u : Fin 4) (stack : Fin 8)
  /-- CHK_OP_RESERVED (R358). -/
  | chkOpReserved (u : Fin 4) (op : Fin 3)
  /-- FEED_B (R359). -/
  | feedB (u : Fin 4) (byte : BitVec 8)
  /-- FEED_H (R359). -/
  | feedH (u : Fin 4) (half : BitVec 32)
  /-- FEED_W (R359). -/
  | feedW (u : Fin 4) (word : Word)
  /-- CHK_CONFIG_WRITE (R358). -/
  | chkConfigWrite (u : Fin 4) (reg : Fin 8) (value : Word)
  /-- SCAN_READ_RETURN (R362). -/
  | scanReadReturn (u : Fin 4)
  /-- BOW_SANITISE (R368). -/
  | bowSanitise (s : Fin 8)
  /-- BOW_CANARY_WRITE (R366). -/
  | bowCanaryWrite (s : Fin 8)
  /-- BOW_CANARY_CHECK (R367). -/
  | bowCanaryCheck (s : Fin 8)
  /-- SANITISE_DONE (R368). -/
  | sanitiseDone (s : Fin 8)
  /-- CANARY_CHECK_DONE (R367). -/
  | canaryCheckDone (s : Fin 8)
  /-- PWR_ACTIVE (R374). -/
  | pwrActive
  /-- PWR_QUIET (R375). -/
  | pwrQuiet
  /-- PWR_RETAIN (R377). -/
  | pwrRetain
  /-- PWR_OFF (R373). -/
  | pwrOff
  /-- PWR_CMD_RESERVED (R374). -/
  | pwrCmdReserved (op : Fin 3)
  /-- QUIET_ENTRY_DONE (R375). -/
  | quietEntryDone
  /-- JOINT_TIMEOUT (R392). -/
  | jointTimeout
  /-- SIBLING_READY (R392). -/
  | siblingReady
  /-- WAKE_N (R379). -/
  | wakeN (env : TrainEnv)
  /-- WAKE_EDGE (R379). -/
  | wakeEdge (env : TrainEnv)
  /-- DRONE_ALARM (R379). -/
  | droneAlarm (env : TrainEnv)
  /-- SIBLING_WAKE (R392). -/
  | siblingWake (env : TrainEnv)
  /-- PAD_RELEASE (R382). -/
  | padRelease (env : TrainEnv)
  /-- CORE_SUPPLY_LOST (R373). -/
  | coreSupplyLost
  /-- DRONE_SUPPLY_LOST (R373). -/
  | droneSupplyLost
  /-- DRONE_POWER_ON (R385). -/
  | dronePowerOn
  /-- SLOWCLK_STOPPED (R390). -/
  | slowclkStopped
  /-- THERMAL_SAMPLE (R396). -/
  | thermalSample (diodes : List Conv) (therms : List (BitVec 16)) (roCycles : BitVec 16)
  /-- HOLD_TIMEOUT (R404). -/
  | holdTimeout (s : Fin 8) (p : Fin 64)
  /-- LC_CMD (R412). -/
  | lcCmd (value : Word)
  /-- FUSE_PROGRAM_DONE (R412). -/
  | fuseProgramDone
  /-- TRIM_RELOAD (R414). -/
  | trimReload
  /-- TRIM_COMMIT (R414). -/
  | trimCommit
  /-- TALLY_GO (R422). -/
  | tallyGo
  /-- TALLY_PERIODIC (R422). -/
  | tallyPeriodic
  /-- TALLY_SWEEP_DONE (R423). -/
  | tallySweepDone
  /-- EVENT_RECORD_WRITE (R427). -/
  | eventRecordWrite
  /-- EVENT_IRQ_AGE (R431). -/
  | eventIrqAge
  /-- EV_RING_ENABLE (R430). -/
  | evRingEnable (value : Word)
  /-- EV_TAIL_WRITE (R430). -/
  | evTailWrite (value : Word)
  /-- RESET_CMD (R433). -/
  | resetCmd (value : Word) (env : TrainEnv)
  /-- CORE_POWER_ON (R433). -/
  | corePowerOn (env : TrainEnv)
  /-- UCODE_DATA_WRITE (R439). -/
  | ucodeDataWrite (value : Word)
  /-- RC_REGISTER_READ (R13). -/
  | rcRegisterRead (addr : BitVec 24)
  /-- CAP_CFG_WRITE (R167). -/
  | capCfgWrite (value : Word)
  /-- SLOT_ENTRY_PARITY_ERROR (R320). -/
  | slotEntryParityError (slot : Fin 4096)
deriving DecidableEq, Repr

end Sys2Proof
end

