-- ==== Sys2Proof/WellFormed.lean ====
section
/-! DEFINITION. What makes a command well-formed: operands that belong to its row. The opcode of a header is the row's
(Table 2.6), EN of a register write is what the row says, the numbers of what training and canaries meet exist, and a sample
has no more conversions than there are diodes and thermistors (R396, R407). -/

namespace Sys2Proof

/-- A header whose opcode is `op` (Table 2.5). -/
def headerIs (h : BitVec 128) (op : Nat) : Bool := (h.extractLsb' 0 3).toNat == op

/-- One failing lane names a stack, PC, lane and timing sets that exist (R229: 36 data lanes and 2 spares of a PC; 24 CA lanes and a spare
of a channel; both fit in six bits). -/
def LaneFail.wf (f : LaneFail) : Bool := f.stack < 8 && f.pc < 64 && f.lane < 64 && f.sets.all fun t => t < 4

/-- What training meets names stacks that exist, and heights a field of five bits holds (Table 8.16). -/
def TrainEnv.wf (e : TrainEnv) : Bool := (e.heights.all fun h => h.1 < 8 && h.2 < 32) && e.fails.all LaneFail.wf

/-- A credit message's fields hold their bits (Table 2.14). -/
def CrMsg.wf (m : CrMsg) : Bool := m.count < 1024 && m.label < 64

/-- A command is well-formed. -/
def Instr.wf : Instr → Bool
  | .read _ h flits _ => headerIs h 0 && 1 ≤ flits
  | .write _ h flits _ _ => headerIs h 1 && 1 ≤ flits
  | .writePartial _ h flits _ _ _ => headerIs h 2 && 1 ≤ flits
  | .atomicAddBeside _ h flits _ _ => headerIs h 3 && 1 ≤ flits
  | .fence _ h flits _ => headerIs h 4 && 1 ≤ flits
  | .probe _ h flits _ => headerIs h 5 && 1 ≤ flits
  | .reservedOpcode _ seven h flits _ => headerIs h (if seven then 7 else 6) && 1 ≤ flits
  | .portEnable _ w => w.getLsbD 0
  | .portDisable _ w => !w.getLsbD 0
  | .evRingEnable w => w.getLsbD 63
  | .freqChange _ _ e | .replayError _ _ _ e | .padRelease e | .resetCmd _ e | .corePowerOn e | .cadencePllLock e | .wakeN e | .wakeEdge e
  | .droneAlarm e | .siblingWake e => e.wf
  | .bridgeRequest _ flits _ _ _ => 1 ≤ flits
  | .bridgeResponse _ _ _ _ cr | .bridgeUp _ cr => cr.all CrMsg.wf
  | .thermalSample d t _ => d.length ≤ 16 && t.length ≤ 8
  | .headroomSample .. | .cadSyncArm .. | .syncEdge | .cadencePauseEnd | .schedulerHandover .. | .wardenIssue ..
  | .strayDataFlit .. | .heldHeaderAccepted .. | .missHoldRelease .. | .responseFlitAck .. | .creditReturn .. | .responseStall ..
  | .fenceComplete .. | .bridgeForwardTimeout .. | .bridgeDown
  | .registerWrite .. | .addrOrderWrite .. | .pcmapEditOpen .. | .pcmapEntryWrite .. | .pcmapFailedWrite .. | .pcmapEditClose ..
  | .accCommit .. | .accLoad .. | .accClear .. | .accLockSet | .ingressGrant .. | .retiredLossAnswer .. | .descriptorFetchStart ..
  | .descriptorFetchReturn .. | .writebackDone .. | .redHeadReeval .. | .streamLoad .. | .streamFlush .. | .streamPin ..
  | .streamUnpin .. | .streamView .. | .streamCmdReserved .. | .streamSample .. | .gateEntryWrite .. | .gateArm .. | .gateCancel ..
  | .gateSwapTake .. | .portGroupAtomStart .. | .quotaWindowStart .. | .bankGrant .. | .rowGrant .. | .columnGrant ..
  | .columnPreempt .. | .ingCapoWrite .. | .pccCapoWrite .. | .pgCapoWrite .. | .capoSoftToHard .. | .capoDrained ..
  | .capoDrainSlow .. | .hazardClear .. | .stackReadData .. | .zmapLineFill .. | .zmapLineWritebackDone .. | .pageTimerExpiry ..
  | .writeModeAge .. | .zmapAdopt .. | .zmapClear .. | .zmapDisable .. | .zmapFlush .. | .zmapOpReserved .. | .zmapClearDone ..
  | .zmapDisableDone .. | .predEnWrite .. | .sortGroupRelease .. | .activateHint .. | .refreshDue .. | .tsetWrite ..
  | .commandConfirmed .. | .replayDone .. | .mergeReadDone .. | .fretCmdInstall .. | .fretCmdRemove .. | .fretInstall ..
  | .historyClear .. | .migRetireCmd .. | .retirementStart .. | .migrationChunkDone .. | .scrubEnWrite .. | .bowChunkStart ..
  | .doorbell .. | .slotLoad | .swapOut .. | .saveDone .. | .slotBaseWrite .. | .seqMove .. | .seqFill .. | .seqGather ..
  | .seqScatter .. | .seqRewrite .. | .nmuUpdate .. | .nmuReduce .. | .nmuCast .. | .seqCheck .. | .waitCadence ..
  | .waitCadenceRelease .. | .waitToken .. | .seqSignal .. | .seqFence .. | .gateSwap .. | .setStream .. | .setStreamLoad ..
  | .seqLoop .. | .seqBranch .. | .seqEnd .. | .seqTrap .. | .seqRequestFailed .. | .slotFinished .. | .seqAbort ..
  | .tokenWrite .. | .contextParityError .. | .nmuWorkAtom .. | .nmuInstructionDone .. | .atomicAddNmu .. | .nmuParityError ..
  | .nmuWatchdog .. | .nmuOffline .. | .chkStart .. | .chkFinish .. | .chkAbort .. | .chkScan .. | .chkOpReserved .. | .feedB ..
  | .feedH .. | .feedW .. | .chkConfigWrite .. | .scanReadReturn .. | .bowSanitise .. | .bowCanaryWrite ..
  | .bowCanaryCheck .. | .sanitiseDone ..
  | .canaryCheckDone .. | .pwrActive | .pwrQuiet | .pwrRetain | .pwrOff | .pwrCmdReserved .. | .quietEntryDone | .jointTimeout
  | .siblingReady | .coreSupplyLost | .droneSupplyLost | .dronePowerOn
  | .slowclkStopped | .holdTimeout .. | .lcCmd .. | .fuseProgramDone | .trimReload | .trimCommit | .tallyGo | .tallyPeriodic
  | .tallySweepDone | .eventRecordWrite | .eventIrqAge | .evTailWrite .. | .ucodeDataWrite .. | .rcRegisterRead ..
  | .capCfgWrite .. | .slotEntryParityError .. => true

end Sys2Proof
end

