-- ==== Sys2Proof/Config.lean ====
section
/-! DEFINITION. The values the spec leaves open: opaque constants, applied to the free counter of State or to what they
depend on. Nothing can evaluate them, so whatever is proved holds for every value of them. -/

namespace Sys2Proof.Config

/-- The contents of an atom that the spec leaves unspecified after an operation (R331). DESIGN CHOICE, log entry 2. -/
opaque freeAtom : Nat → Atom

/-- The reduction binding an owning instance uses for an atomic-add-beside that came over the Bridge (R119: the owner
never looks up the stream, and the header of R83 carries no binding). DESIGN CHOICE, log entry 14. -/
opaque bridgeBinding : Nat → BitVec 9

/-- The origin port number in the Bridge header of a request that the program of this context made: it came through no port, and R83 gives it
none. DESIGN CHOICE, log entry 100. -/
opaque seqOrigin : Nat → BitVec 7

/-- The tested microcode pairs (R441): the list is the vendor's. DESIGN CHOICE, log entry 7. -/
opaque matrixLoader : BitVec 8 → BitVec 32
opaque matrixTraining : BitVec 8 → BitVec 32

/-- Argument 1 of REPLAY_EXHAUSTED from the counts of parity and of CRC errors: R245 says that it holds "the error counts" and
not where in the word. DESIGN CHOICE, log entry 16. -/
opaque replayCounts : Nat → Nat → Nat

/-- Argument 0 of HEADROOM_LOW from SPEED and REQUIRED: R32 says that it holds both and not where in the word. DESIGN CHOICE, log entry 16. -/
opaque headroomArg : Nat → Nat → Nat

/-- The PHY's training pattern at the last-row cell of this number (R251, R366): the spec says that atoms 0 to 7 of the row hold them, and
not what they are. DESIGN CHOICE, log entry 101. -/
opaque trainPattern : Nat → Stored

/-- Whether the PHY reads the training row at an idle bank (R249): the spec says that it does so, and not when. DESIGN CHOICE, log entry 101. -/
opaque trackRead : Nat → Bool

end Sys2Proof.Config
end

