-- ==== Sys2Proof/Machine/SMap.lean ====
section
/-! DEFINITION. Sparse maps in one canonical form: a list of keys and values, keys strictly rising, no value equal to
what an unlisted key reads as. Equal maps are equal lists. -/

namespace Sys2Proof.Machine

/-- A sparse map from numbers. What an unlisted key reads as is given at each use. -/
abbrev SMap (α : Type) := List (Nat × α)

/-- The entry listed under `i`. -/
def SMap.get? {α : Type} : SMap α → Nat → Option α
  | [], _ => none
  | (k, v) :: m, i => if k = i then some v else SMap.get? m i

/-- The value at `i`, with `d` for an unlisted key. -/
def SMap.get {α : Type} (m : SMap α) (d : α) (i : Nat) : α := (SMap.get? m i).getD d

/-- Remove the entry under `i`. -/
def SMap.erase {α : Type} (m : SMap α) (i : Nat) : SMap α := m.filter fun e => decide (e.1 ≠ i)

/-- Put an entry in its place by key. -/
def SMap.insert {α : Type} : SMap α → Nat → α → SMap α
  | [], i, v => [(i, v)]
  | (k, w) :: m, i, v =>
    if i < k then (i, v) :: (k, w) :: m
    else if i = k then (i, v) :: m
    else (k, w) :: SMap.insert m i v

/-- Write `v` at `i`, where an unlisted `i` reads as `d`: the canonical form is kept. (The match on the map stands first so that
a write into an unknown map does not unfold.) -/
def SMap.put {α : Type} [DecidableEq α] (m : SMap α) (d : α) (i : Nat) (v : α) : SMap α :=
  match m with
  | [] => if v = d then [] else [(i, v)]
  | e :: t => if v = d then SMap.erase (e :: t) i else SMap.insert (e :: t) i v

/-- The canonical form, for a map whose unlisted key `i` reads as `d i`. -/
abbrev SMap.Wf {α : Type} [DecidableEq α] (d : Nat → α) (m : SMap α) : Prop :=
  m.Pairwise (fun a b => a.1 < b.1) ∧ ∀ e ∈ m, e.2 ≠ d e.1

end Sys2Proof.Machine
end

