-- ==== Sys2Proof/Machine/Registers.lean ====
section
/-! DEFINITION. The control-port registers of the block: their addresses (R12, Tables 0.7 and 0.8), the fields of
each with its access code (Table 0.9) and its reset value, as the register tables of the chapters give them. -/

namespace Sys2Proof.Machine

/-- A field of a register: the register's control-port address and the field's bits [hi:lo]. -/
structure Fld where
  addr : Nat
  hi : Nat
  lo : Nat
deriving DecidableEq, Repr

/-- One register or array of registers. The masks say which bits have each access code of Table 0.9 (a bit in no
mask is RO or reserved); `save` holds the bits of the hardware save list (Table 13.5); `drone` marks the registers
that only Drone power-on resets (R394, R415); `rst` is the reset value by the first two indices. -/
structure RegDef where
  base : Nat
  dims : List (Nat × Nat)
  known : Nat
  rw : Nat
  rwl : Nat
  w1c : Nat
  w1s : Nat
  rc : Nat
  save : Nat
  drone : Bool
  rst : Nat → Nat → Nat

/-- The indices of the register at offset `off` of an array with the given (count, stride) dimensions. -/
def RegDef.indices : List (Nat × Nat) → Nat → Option (List Nat)
  | [], off => if off = 0 then some [] else none
  | (c, st) :: ds, off =>
    if off / st < c then (RegDef.indices ds (off % st)).map (off / st :: ·) else none

/-- The reset value of the register of `r` at address `a`, if `r` has one there. -/
def RegDef.resetAt (r : RegDef) (a : Nat) : Option Nat :=
  if r.base ≤ a then (RegDef.indices r.dims (a - r.base)).map fun ix => r.rst (ix.getD 0 0) (ix.getD 1 0) else none

namespace A

/-- Table 0.4. -/
def glbId : Nat := 0x000000
/-- Table 0.5. -/
def glbHwVersion : Nat := 0x000008
/-- Table 0.6. -/
def glbOptions : Nat := 0x000010
/-- Table 15.11. -/
def glbReset : Nat := 0x000020
/-- Table 15.11. -/
def glbResetStatus : Nat := 0x000028
/-- Table 1.10. -/
def glbCadence : Nat := 0x000100
/-- Table 1.11. -/
def glbCadStatus : Nat := 0x000108
/-- Table 1.12. -/
def glbCadSyncValue : Nat := 0x000110
/-- Table 1.13. -/
def glbCadSyncCtl : Nat := 0x000118
/-- Table 1.14. -/
def glbCadSyncDelta : Nat := 0x000120
/-- Table 1.7. -/
def glbHeadroom : Nat := 0x000140
/-- Table 1.8. -/
def glbHeadroomCfg : Nat := 0x000148
/-- Table 1.9. -/
def glbHeadroomMin : Nat := 0x000150
/-- Table 3.21. -/
def glbAddrCfg : Nat := 0x000200
/-- Table 3.21. -/
def glbAddrBase : Nat := 0x000208
/-- Table 3.21. -/
def glbAddrSize : Nat := 0x000210
/-- Table 3.21. -/
def glbSiblingSize : Nat := 0x000218
/-- Table 3.20. -/
def glbAccLock : Nat := 0x000220
/-- Table 15.12. -/
def glbEvBase : Nat := 0x000300
/-- Table 15.12. -/
def glbEvCfg : Nat := 0x000308
/-- Table 15.13. -/
def glbEvHead : Nat := 0x000310
/-- Table 15.13. -/
def glbEvTail : Nat := 0x000318
/-- Table 15.13. -/
def glbEvStatus : Nat := 0x000320
/-- Table 15.14. -/
def glbUcodeCtl : Nat := 0x000400
/-- Table 15.14. -/
def glbUcodeAddr : Nat := 0x000408
/-- Table 15.14. -/
def glbUcodeData : Nat := 0x000410
/-- Table 15.14. -/
def glbUcodeStatus : Nat := 0x000418
/-- Table 15.14. -/
def glbUcodeVer : Nat := 0x000420
/-- Table 15.14. -/
def glbUcodeRom : Nat := 0x000428
/-- Table 15.14. -/
def glbUcodeMatrixSel : Nat := 0x000430
/-- Table 15.14. -/
def glbUcodeMatrix : Nat := 0x000438
/-- Table 2.15. -/
def glbPortCfg (i : Nat) : Nat := 0x001000 + i * 0x10
/-- Table 2.16. -/
def glbPortStatus (i : Nat) : Nat := 0x001008 + i * 0x10
/-- Table 2.17. -/
def glbPrivPort (i : Nat) : Nat := 0x001800 + i * 0x8
/-- Table 2.18. -/
def glbBridgeCfg : Nat := 0x001900
/-- Table 2.19. -/
def glbBridgeStatus : Nat := 0x001908
/-- Table 3.9. -/
def glbGroupMap (i : Nat) : Nat := 0x002000 + i * 0x8
/-- Table 13.7. -/
def pwrCmd : Nat := 0x004000
/-- Table 13.7. -/
def pwrState : Nat := 0x004008
/-- Table 13.8. -/
def pwrCfg : Nat := 0x004010
/-- Table 13.8. -/
def pwrPadRelease : Nat := 0x004018
/-- Table 13.9. -/
def pwrWakeStatus : Nat := 0x004020
/-- Table 13.10. -/
def pwrRtc : Nat := 0x004028
/-- Table 13.10. -/
def pwrAlarm : Nat := 0x004030
/-- Table 13.10. -/
def pwrCadFrac : Nat := 0x004038
/-- Table 13.10. -/
def pwrCadUncert : Nat := 0x004040
/-- Table 13.10. -/
def pwrRoCal : Nat := 0x004048
/-- Table 13.11. -/
def pwrRes (i : Nat) : Nat := 0x004100 + i * 0x8
/-- Table 13.11. -/
def pwrEnt (i : Nat) : Nat := 0x004120 + i * 0x8
/-- Table 14.7. -/
def thmCfg : Nat := 0x006000
/-- Table 14.7. -/
def thmStatus : Nat := 0x006010
/-- Table 14.8. -/
def thmDiode (i : Nat) : Nat := 0x006100 + i * 0x8
/-- Table 14.9. -/
def thmStk (i : Nat) : Nat := 0x006200 + i * 0x8
/-- Table 14.10. -/
def thmPkg (i : Nat) : Nat := 0x006300 + i * 0x8
/-- Table 14.11. -/
def fusLifecycle : Nat := 0x008000
/-- Table 14.11. -/
def fusLcCmd : Nat := 0x008008
/-- Table 14.12. -/
def fusStatus : Nat := 0x008010
/-- Table 14.12. -/
def fusCmd : Nat := 0x008018
/-- Table 14.13. -/
def fusPhyTrim (i : Nat) : Nat := 0x008100 + i * 0x10
/-- Table 14.13. -/
def fusPhyTrimActive (i : Nat) : Nat := 0x008108 + i * 0x10
/-- Table 14.14. -/
def fusDiodeTrim (i : Nat) : Nat := 0x008200 + i * 0x10
/-- Table 14.14. -/
def fusDiodeTrimActive (i : Nat) : Nat := 0x008208 + i * 0x10
/-- Table 14.14. -/
def fusWord (i : Nat) : Nat := 0x008800 + i * 0x8
/-- Table 15.15. -/
def talCfg : Nat := 0x00A000
/-- Table 15.15. -/
def talBufBase : Nat := 0x00A008
/-- Table 15.16. -/
def talCmd : Nat := 0x00A010
/-- Table 15.16. -/
def talStatus : Nat := 0x00A018
/-- Table 15.16. -/
def talFirst : Nat := 0x00A020
/-- Table 15.16. -/
def talLast : Nat := 0x00A028
/-- Table 15.16. -/
def talCount : Nat := 0x00A030
/-- Table 12.5. -/
def chkCfg (i : Nat) : Nat := 0x00C000 + i * 0x80
/-- Table 12.6. -/
def chkPoly (i : Nat) : Nat := 0x00C008 + i * 0x80
/-- Table 12.6. -/
def chkInit (i : Nat) : Nat := 0x00C010 + i * 0x80
/-- Table 12.6. -/
def chkXorout (i : Nat) : Nat := 0x00C018 + i * 0x80
/-- Table 12.6. -/
def chkFoldBase (i : Nat) : Nat := 0x00C020 + i * 0x80
/-- Table 12.7. -/
def chkCmd (i : Nat) : Nat := 0x00C028 + i * 0x80
/-- Table 12.8. -/
def chkFeedB (i : Nat) : Nat := 0x00C030 + i * 0x80
/-- Table 12.8. -/
def chkFeedH (i : Nat) : Nat := 0x00C038 + i * 0x80
/-- Table 12.8. -/
def chkFeedW (i : Nat) : Nat := 0x00C040 + i * 0x80
/-- Table 12.8. -/
def chkScanStart (i : Nat) : Nat := 0x00C048 + i * 0x80
/-- Table 12.8. -/
def chkScanLen (i : Nat) : Nat := 0x00C050 + i * 0x80
/-- Table 12.8. -/
def chkScanCmp (i : Nat) : Nat := 0x00C058 + i * 0x80
/-- Table 12.9. -/
def chkStatus (i : Nat) : Nat := 0x00C060 + i * 0x80
/-- Table 12.9. -/
def chkResult (i : Nat) : Nat := 0x00C068 + i * 0x80
/-- Table 12.9. -/
def chkStored (i : Nat) : Nat := 0x00C070 + i * 0x80
/-- Table 12.9. -/
def chkHaltAddr (i : Nat) : Nat := 0x00C078 + i * 0x80
/-- Table 10.11. -/
def seqCfg : Nat := 0x010000
/-- Table 10.12. -/
def seqSlotBase : Nat := 0x010008
/-- Table 10.13. -/
def seqDoorbell : Nat := 0x010010
/-- Table 10.14. -/
def seqLaunchStatus : Nat := 0x010018
/-- Table 10.14. -/
def seqAbort : Nat := 0x010020
/-- Table 10.15. -/
def seqStatus : Nat := 0x010028
/-- Table 10.16. -/
def seqLaunches : Nat := 0x010040
/-- Table 10.16. -/
def seqDone : Nat := 0x010048
/-- Table 10.16. -/
def seqTraps : Nat := 0x010050
/-- Table 10.16. -/
def seqSwaps : Nat := 0x010058
/-- Table 11.17. -/
def seqNmuWatchCfg : Nat := 0x010080
/-- Table 11.18. -/
def seqNmuShadowCfg : Nat := 0x010088
/-- Table 11.18. -/
def seqNmuDiverged : Nat := 0x010090
/-- Table 10.17. -/
def seqSlotState (i : Nat) : Nat := 0x011000 + i * 0x8
/-- Table 10.17. -/
def seqToken (i : Nat) : Nat := 0x019000 + i * 0x8
/-- Table 11.19. -/
def seqNmuWatch (i : Nat) : Nat := 0x01C000 + i * 0x8
/-- Table 4.4. -/
def trfCacheCfg : Nat := 0x020000
/-- Table 4.5. -/
def trfCacheStatus : Nat := 0x020008
/-- Table 4.6. -/
def trfCacheMisses : Nat := 0x020010
/-- Table 4.7. -/
def trfCacheEvictions : Nat := 0x020018
/-- Table 4.8. -/
def trfMissHolds : Nat := 0x020020
/-- Table 4.9. -/
def trfStreamCmd : Nat := 0x020040
/-- Table 4.10. -/
def trfStreamStatus : Nat := 0x020048
/-- Table 4.11. -/
def trfStreamView (i : Nat) : Nat := 0x020080 + i * 0x8
/-- Table 5.15. -/
def trfCapCfg : Nat := 0x020100
/-- Table 5.16. -/
def trfCommitLedger : Nat := 0x020108
/-- Table 5.16. -/
def trfCapInst : Nat := 0x020110
/-- Table 5.17. -/
def trfScale : Nat := 0x020118
/-- Table 5.18. -/
def trfNmuBind : Nat := 0x020120
/-- Table 5.18. -/
def trfBowBind : Nat := 0x020128
/-- Table 7.11. -/
def trfSortCfg : Nat := 0x020130
/-- Table 7.12. -/
def trfSortStat (i : Nat) : Nat := 0x020140 + i * 0x8
/-- Table 5.5. -/
def trfGateCtl (i : Nat) : Nat := 0x021000 + i * 0x40
/-- Table 5.6. -/
def trfGateStatus (i : Nat) : Nat := 0x021008 + i * 0x40
/-- Table 5.7. -/
def trfGateNextBase (i : Nat) : Nat := 0x021010 + i * 0x40
/-- Table 5.8. -/
def trfGateNextCfg (i : Nat) : Nat := 0x021018 + i * 0x40
/-- Table 5.9. -/
def trfGateActBase (i : Nat) : Nat := 0x021020 + i * 0x40
/-- Table 5.10. -/
def trfGateActCfg (i : Nat) : Nat := 0x021028 + i * 0x40
/-- Table 5.11. -/
def trfGateSwaps (i : Nat) : Nat := 0x021030 + i * 0x40
/-- Table 5.11. -/
def trfGateDeferrals (i : Nat) : Nat := 0x021038 + i * 0x40
/-- Table 5.13. -/
def trfLabelCfg (i : Nat) : Nat := 0x022000 + i * 0x10
/-- Table 5.14. -/
def trfLabelStat (i : Nat) : Nat := 0x022008 + i * 0x10
/-- Table 5.12. -/
def trfGateEnt (i j k : Nat) : Nat := 0x028000 + i * 0x800 + j * 0x400 + k * 0x8
/-- Table 6.9. -/
def arbPgCapo : Nat := 0x030000
/-- Table 6.10. -/
def arbLaneCfg : Nat := 0x030008
/-- Table 6.11. -/
def arbStkCfg (i : Nat) : Nat := 0x031000 + i * 0x100
/-- Table 6.12. -/
def arbStkBase (i : Nat) : Nat := 0x031008 + i * 0x100
/-- Table 6.13. -/
def arbStkQuotaLo (i : Nat) : Nat := 0x031010 + i * 0x100
/-- Table 6.13. -/
def arbStkQuotaHi (i : Nat) : Nat := 0x031018 + i * 0x100
/-- Table 6.14. -/
def arbStkIngCapo (i : Nat) : Nat := 0x031020 + i * 0x100
/-- Table 6.14. -/
def arbStkPccCapo (i : Nat) : Nat := 0x031028 + i * 0x100
/-- Table 6.15. -/
def arbStkIngHard (i : Nat) : Nat := 0x031030 + i * 0x100
/-- Table 6.15. -/
def arbStkIngDrained (i : Nat) : Nat := 0x031038 + i * 0x100
/-- Table 6.15. -/
def arbStkPccDrained (i : Nat) : Nat := 0x031040 + i * 0x100
/-- Table 6.15. -/
def arbStkHwCapo (i : Nat) : Nat := 0x031048 + i * 0x100
/-- Table 6.16. -/
def arbStkPreempts (i : Nat) : Nat := 0x031050 + i * 0x100
/-- Table 6.16. -/
def arbStkQuotaMasks (i : Nat) : Nat := 0x031058 + i * 0x100
/-- Table 6.16. -/
def arbStkHardMax (i : Nat) : Nat := 0x031060 + i * 0x100
/-- Table 11.13. -/
def nmuCtl (i : Nat) : Nat := 0x040000 + i * 0x800
/-- Table 11.14. -/
def nmuCfg (i : Nat) : Nat := 0x040008 + i * 0x800
/-- Table 11.15. -/
def nmuStatus (i : Nat) : Nat := 0x040010 + i * 0x800
/-- Table 11.16. -/
def nmuElements (i : Nat) : Nat := 0x040040 + i * 0x800
/-- Table 11.16. -/
def nmuAtomicAtoms (i : Nat) : Nat := 0x040048 + i * 0x800
/-- Table 11.16. -/
def nmuExchangeAtoms (i : Nat) : Nat := 0x040050 + i * 0x800
/-- Table 11.16. -/
def nmuSaturated (i : Nat) : Nat := 0x040058 + i * 0x800
/-- Table 11.16. -/
def nmuUnderflowed (i : Nat) : Nat := 0x040060 + i * 0x800
/-- Table 11.16. -/
def nmuNonfinite (i : Nat) : Nat := 0x040068 + i * 0x800
/-- Table 11.16. -/
def nmuParityErrs (i : Nat) : Nat := 0x040070 + i * 0x800
/-- Table 11.16. -/
def nmuHalts (i : Nat) : Nat := 0x040078 + i * 0x800
/-- Table 3.12. -/
def accStageBase (i : Nat) : Nat := 0x100000 + i * 0x20000
/-- Table 3.12. -/
def accStageLimit (i : Nat) : Nat := 0x100008 + i * 0x20000
/-- Table 3.13. -/
def accStageCtl (i : Nat) : Nat := 0x100010 + i * 0x20000
/-- Table 3.14. -/
def accStageRead (i j : Nat) : Nat := 0x100040 + i * 0x20000 + j * 0x8
/-- Table 3.14. -/
def accStageWrite (i j : Nat) : Nat := 0x100060 + i * 0x20000 + j * 0x8
/-- Table 3.14. -/
def accStageFetch (i j : Nat) : Nat := 0x100080 + i * 0x20000 + j * 0x8
/-- Table 3.14. -/
def accStageNmu (i j : Nat) : Nat := 0x1000A0 + i * 0x20000 + j * 0x8
/-- Table 3.15. -/
def accCmd (i : Nat) : Nat := 0x100100 + i * 0x20000
/-- Table 3.16. -/
def accStatus (i : Nat) : Nat := 0x100108 + i * 0x20000
/-- Table 3.17. -/
def accDenied (i : Nat) : Nat := 0x100110 + i * 0x20000
/-- Table 3.18. -/
def accDenyAddr (i : Nat) : Nat := 0x100118 + i * 0x20000
/-- Table 3.19. -/
def accDenyInfo (i : Nat) : Nat := 0x100120 + i * 0x20000
/-- Table 3.5. -/
def pcmapEntry (i j : Nat) : Nat := 0x102000 + i * 0x20000 + j * 0x8
/-- Table 3.6. -/
def pcmapSpare (i : Nat) : Nat := 0x102200 + i * 0x20000
/-- Table 3.7. -/
def pcmapFailed (i : Nat) : Nat := 0x102208 + i * 0x20000
/-- Table 3.8. -/
def pcmapEdit (i : Nat) : Nat := 0x102210 + i * 0x20000
/-- Table 9.13. -/
def migCtl (i : Nat) : Nat := 0x102220 + i * 0x20000
/-- Table 9.14. -/
def migStatus (i : Nat) : Nat := 0x102228 + i * 0x20000
/-- Table 9.15. -/
def migPending (i : Nat) : Nat := 0x102230 + i * 0x20000
/-- Table 9.15. -/
def migTime (i : Nat) : Nat := 0x102238 + i * 0x20000
/-- Table 9.15. -/
def errlogHead (i : Nat) : Nat := 0x102300 + i * 0x20000
/-- Table 9.6. -/
def errlog0 (i j : Nat) : Nat := 0x102400 + i * 0x20000 + j * 0x10
/-- Table 9.6. -/
def errlog1 (i j : Nat) : Nat := 0x102408 + i * 0x20000 + j * 0x10
/-- Table 12.10. -/
def bowCfg (i : Nat) : Nat := 0x103000 + i * 0x20000
/-- Table 12.11. -/
def bowScrubPos (i : Nat) : Nat := 0x103008 + i * 0x20000
/-- Table 12.11. -/
def bowCmd (i : Nat) : Nat := 0x103010 + i * 0x20000
/-- Table 12.12. -/
def bowStatus (i : Nat) : Nat := 0x103018 + i * 0x20000
/-- Table 12.12. -/
def bowCanaryGen (i : Nat) : Nat := 0x103020 + i * 0x20000
/-- Table 12.12. -/
def bowSanFail (i : Nat) : Nat := 0x103028 + i * 0x20000
/-- Table 12.13. -/
def bowScrubAtoms (i : Nat) : Nat := 0x103040 + i * 0x20000
/-- Table 12.13. -/
def bowCopyAtoms (i : Nat) : Nat := 0x103048 + i * 0x20000
/-- Table 12.13. -/
def bowSanAtoms (i : Nat) : Nat := 0x103050 + i * 0x20000
/-- Table 12.13. -/
def bowRetainPoisoned (i : Nat) : Nat := 0x103058 + i * 0x20000
/-- Table 12.13. -/
def bowCanaryMask (i j : Nat) : Nat := 0x103100 + i * 0x20000 + j * 0x8
/-- Table 8.10. -/
def phyTsetCtl (i j : Nat) : Nat := 0x104000 + i * 0x20000 + j * 0x20
/-- Table 8.11. -/
def phyTsetRow (i j : Nat) : Nat := 0x104008 + i * 0x20000 + j * 0x20
/-- Table 8.12. -/
def phyTsetLat (i j : Nat) : Nat := 0x104010 + i * 0x20000 + j * 0x20
/-- Table 8.13. -/
def phyTsetRef (i j : Nat) : Nat := 0x104018 + i * 0x20000 + j * 0x20
/-- Table 8.14. -/
def phyFreqCmd (i : Nat) : Nat := 0x104100 + i * 0x20000
/-- Table 8.15. -/
def phyFreqStatus (i : Nat) : Nat := 0x104108 + i * 0x20000
/-- Table 8.16. -/
def phyCfg (i : Nat) : Nat := 0x104110 + i * 0x20000
/-- Table 8.16. -/
def phyStackInfo (i : Nat) : Nat := 0x104118 + i * 0x20000
/-- Table 8.17. -/
def phyLaneMap (i j : Nat) : Nat := 0x104180 + i * 0x20000 + j * 0x8
/-- Table 7.6. -/
def pccRqCfg (i j : Nat) : Nat := 0x108000 + i * 0x20000 + j * 0x200
/-- Table 7.7. -/
def pccPageCfg (i j : Nat) : Nat := 0x108008 + i * 0x20000 + j * 0x200
/-- Table 7.8. -/
def pccZmapCtl (i j : Nat) : Nat := 0x108010 + i * 0x20000 + j * 0x200
/-- Table 7.9. -/
def pccZmapStatus (i j : Nat) : Nat := 0x108018 + i * 0x20000 + j * 0x200
/-- Table 7.10. -/
def pccBufStatus (i j : Nat) : Nat := 0x108020 + i * 0x20000 + j * 0x200
/-- Table 7.10. -/
def pccZmElidedWr (i j : Nat) : Nat := 0x108040 + i * 0x20000 + j * 0x200
/-- Table 7.10. -/
def pccZmElidedRd (i j : Nat) : Nat := 0x108048 + i * 0x20000 + j * 0x200
/-- Table 7.10. -/
def pccZmMisses (i j : Nat) : Nat := 0x108050 + i * 0x20000 + j * 0x200
/-- Table 7.10. -/
def pccZmReplays (i j : Nat) : Nat := 0x108058 + i * 0x20000 + j * 0x200
/-- Table 7.10. -/
def pccZmWasted (i j : Nat) : Nat := 0x108060 + i * 0x20000 + j * 0x200
/-- Table 7.10. -/
def pccForwards (i j : Nat) : Nat := 0x108068 + i * 0x20000 + j * 0x200
/-- Table 7.10. -/
def pccHintsAct (i j : Nat) : Nat := 0x108070 + i * 0x20000 + j * 0x200
/-- Table 7.10. -/
def pccHintsDrop (i j : Nat) : Nat := 0x108078 + i * 0x20000 + j * 0x200
/-- Table 8.18. -/
def pccRefStatus (i j : Nat) : Nat := 0x108080 + i * 0x20000 + j * 0x200
/-- Table 8.19. -/
def pccRefIssued (i j : Nat) : Nat := 0x108088 + i * 0x20000 + j * 0x200
/-- Table 8.19. -/
def pccRefForced (i j : Nat) : Nat := 0x108090 + i * 0x20000 + j * 0x200
/-- Table 8.19. -/
def pccReplayStatus (i j : Nat) : Nat := 0x1080A0 + i * 0x20000 + j * 0x200
/-- Table 8.19. -/
def pccReplays (i j : Nat) : Nat := 0x1080A8 + i * 0x20000 + j * 0x200
/-- Table 8.19. -/
def pccParityErrs (i j : Nat) : Nat := 0x1080B0 + i * 0x20000 + j * 0x200
/-- Table 8.19. -/
def pccCrcErrs (i j : Nat) : Nat := 0x1080B8 + i * 0x20000 + j * 0x200
/-- Table 8.19. -/
def pccReplayFull (i j : Nat) : Nat := 0x1080C0 + i * 0x20000 + j * 0x200
/-- Table 9.7. -/
def pccFretCmd (i j : Nat) : Nat := 0x1080C8 + i * 0x20000 + j * 0x200
/-- Table 9.8. -/
def pccFretStatus (i j : Nat) : Nat := 0x1080D0 + i * 0x20000 + j * 0x200
/-- Table 9.9. -/
def pccEccCtl (i j : Nat) : Nat := 0x1080D8 + i * 0x20000 + j * 0x200
/-- Table 9.10. -/
def pccCeCount (i j : Nat) : Nat := 0x1080E0 + i * 0x20000 + j * 0x200
/-- Table 9.10. -/
def pccCeBySyms (i j : Nat) : Nat := 0x1080E8 + i * 0x20000 + j * 0x200
/-- Table 9.10. -/
def pccCheckSymbol (i j : Nat) : Nat := 0x1080F0 + i * 0x20000 + j * 0x200
/-- Table 9.10. -/
def pccUeCount (i j : Nat) : Nat := 0x1080F8 + i * 0x20000 + j * 0x200
/-- Table 9.10. -/
def pccPoisonReads (i j : Nat) : Nat := 0x108100 + i * 0x20000 + j * 0x200
/-- Table 9.11. -/
def pccHistory (i j : Nat) : Nat := 0x108108 + i * 0x20000 + j * 0x200
/-- Table 9.12. -/
def pccRetCfg (i j : Nat) : Nat := 0x108110 + i * 0x20000 + j * 0x200
/-- Table 9.12. -/
def pccFretEnt (i j k : Nat) : Nat := 0x108140 + i * 0x20000 + j * 0x200 + k * 0x8
/-- Table 1.3. -/
def pccWardenHolds (i j : Nat) : Nat := 0x1081C0 + i * 0x20000 + j * 0x200
/-- Table 1.4. -/
def pccWardenRefreshHolds (i j : Nat) : Nat := 0x1081C8 + i * 0x20000 + j * 0x200

end A

namespace F

def glbId_ID : Fld := ⟨A.glbId, 31, 0⟩
def glbHwVersion_MAJOR : Fld := ⟨A.glbHwVersion, 31, 24⟩
def glbHwVersion_MINOR : Fld := ⟨A.glbHwVersion, 23, 16⟩
def glbHwVersion_PATCH : Fld := ⟨A.glbHwVersion, 15, 8⟩
def glbHwVersion_SI_LETTER : Fld := ⟨A.glbHwVersion, 7, 4⟩
def glbHwVersion_SI_STEP : Fld := ⟨A.glbHwVersion, 3, 0⟩
def glbOptions_HEIGHT : Fld := ⟨A.glbOptions, 36, 32⟩
def glbOptions_XSI_LEVEL : Fld := ⟨A.glbOptions, 27, 24⟩
def glbOptions_SPARE_PC : Fld := ⟨A.glbOptions, 19, 17⟩
def glbOptions_BRIDGE : Fld := ⟨A.glbOptions, 16, 16⟩
def glbOptions_NMUS : Fld := ⟨A.glbOptions, 13, 8⟩
def glbOptions_STACKS : Fld := ⟨A.glbOptions, 3, 0⟩
def glbReset_KEY : Fld := ⟨A.glbReset, 15, 8⟩
def glbReset_GO : Fld := ⟨A.glbReset, 0, 0⟩
def glbResetStatus_SAN_STACKS : Fld := ⟨A.glbResetStatus, 23, 16⟩
def glbResetStatus_SANITISING : Fld := ⟨A.glbResetStatus, 5, 5⟩
def glbResetStatus_READY : Fld := ⟨A.glbResetStatus, 4, 4⟩
def glbResetStatus_CAUSE : Fld := ⟨A.glbResetStatus, 3, 0⟩
def glbCadence_VALUE : Fld := ⟨A.glbCadence, 63, 0⟩
def glbCadStatus_SYNC_EDGES : Fld := ⟨A.glbCadStatus, 63, 32⟩
def glbCadStatus_PAUSING : Fld := ⟨A.glbCadStatus, 4, 4⟩
def glbCadStatus_SYNC_REFUSED : Fld := ⟨A.glbCadStatus, 3, 3⟩
def glbCadStatus_LOCKED : Fld := ⟨A.glbCadStatus, 2, 2⟩
def glbCadStatus_CADENCE_INVALID : Fld := ⟨A.glbCadStatus, 1, 1⟩
def glbCadStatus_CADENCE_ESTIMATED : Fld := ⟨A.glbCadStatus, 0, 0⟩
def glbCadSyncValue_VALUE : Fld := ⟨A.glbCadSyncValue, 63, 0⟩
def glbCadSyncCtl_ARM : Fld := ⟨A.glbCadSyncCtl, 0, 0⟩
def glbCadSyncDelta_DELTA : Fld := ⟨A.glbCadSyncDelta, 63, 0⟩
def glbHeadroom_SHORT : Fld := ⟨A.glbHeadroom, 40, 40⟩
def glbHeadroom_MIN_AREA : Fld := ⟨A.glbHeadroom, 39, 32⟩
def glbHeadroom_REQUIRED : Fld := ⟨A.glbHeadroom, 31, 16⟩
def glbHeadroom_SPEED : Fld := ⟨A.glbHeadroom, 15, 0⟩
def glbHeadroomCfg_HOLD : Fld := ⟨A.glbHeadroomCfg, 23, 16⟩
def glbHeadroomCfg_MARGIN : Fld := ⟨A.glbHeadroomCfg, 7, 0⟩
def glbHeadroomMin_SPEED_MIN : Fld := ⟨A.glbHeadroomMin, 15, 0⟩
def glbAddrCfg_ORDER_REFUSED : Fld := ⟨A.glbAddrCfg, 8, 8⟩
def glbAddrCfg_ORDER : Fld := ⟨A.glbAddrCfg, 1, 0⟩
def glbAddrBase_BASE : Fld := ⟨A.glbAddrBase, 41, 0⟩
def glbAddrSize_SIZE : Fld := ⟨A.glbAddrSize, 41, 0⟩
def glbSiblingSize_SIZE : Fld := ⟨A.glbSiblingSize, 41, 0⟩
def glbAccLock_LOCK : Fld := ⟨A.glbAccLock, 0, 0⟩
def glbEvBase_BASE : Fld := ⟨A.glbEvBase, 41, 0⟩
def glbEvCfg_EN : Fld := ⟨A.glbEvCfg, 63, 63⟩
def glbEvCfg_LOG2_SIZE : Fld := ⟨A.glbEvCfg, 52, 48⟩
def glbEvCfg_IRQ_AGE : Fld := ⟨A.glbEvCfg, 47, 32⟩
def glbEvCfg_IRQ_LEVEL : Fld := ⟨A.glbEvCfg, 19, 0⟩
def glbEvHead_HEAD : Fld := ⟨A.glbEvHead, 31, 0⟩
def glbEvTail_TAIL : Fld := ⟨A.glbEvTail, 31, 0⟩
def glbEvStatus_DROPPED : Fld := ⟨A.glbEvStatus, 63, 32⟩
def glbEvStatus_WRITE_LOST : Fld := ⟨A.glbEvStatus, 31, 16⟩
def glbEvStatus_TAIL_REFUSED : Fld := ⟨A.glbEvStatus, 8, 8⟩
def glbEvStatus_CFG_REFUSED : Fld := ⟨A.glbEvStatus, 7, 7⟩
def glbEvStatus_QUEUED : Fld := ⟨A.glbEvStatus, 6, 0⟩
def glbUcodeCtl_USE_STAGED : Fld := ⟨A.glbUcodeCtl, 0, 0⟩
def glbUcodeAddr_OFFSET : Fld := ⟨A.glbUcodeAddr, 17, 3⟩
def glbUcodeData_WORD : Fld := ⟨A.glbUcodeData, 63, 0⟩
def glbUcodeStatus_STAGED_USED : Fld := ⟨A.glbUcodeStatus, 4, 4⟩
def glbUcodeStatus_FALLBACK : Fld := ⟨A.glbUcodeStatus, 3, 3⟩
def glbUcodeStatus_REASON : Fld := ⟨A.glbUcodeStatus, 2, 0⟩
def glbUcodeVer_LOADER : Fld := ⟨A.glbUcodeVer, 63, 32⟩
def glbUcodeVer_TRAINING : Fld := ⟨A.glbUcodeVer, 31, 0⟩
def glbUcodeRom_LOADER : Fld := ⟨A.glbUcodeRom, 63, 32⟩
def glbUcodeRom_TRAINING : Fld := ⟨A.glbUcodeRom, 31, 0⟩
def glbUcodeMatrixSel_INDEX : Fld := ⟨A.glbUcodeMatrixSel, 7, 0⟩
def glbUcodeMatrix_LOADER : Fld := ⟨A.glbUcodeMatrix, 63, 32⟩
def glbUcodeMatrix_TRAINING : Fld := ⟨A.glbUcodeMatrix, 31, 0⟩
def glbPortCfg_MID (i : Nat) : Fld := ⟨(A.glbPortCfg i), 63, 52⟩
def glbPortCfg_MID_MASK (i : Nat) : Fld := ⟨(A.glbPortCfg i), 51, 40⟩
def glbPortCfg_MID_MODE (i : Nat) : Fld := ⟨(A.glbPortCfg i), 39, 38⟩
def glbPortCfg_STALL_LIMIT (i : Nat) : Fld := ⟨(A.glbPortCfg i), 31, 16⟩
def glbPortCfg_EN (i : Nat) : Fld := ⟨(A.glbPortCfg i), 0, 0⟩
def glbPortStatus_CREDIT_VIOL (i : Nat) : Fld := ⟨(A.glbPortStatus i), 63, 48⟩
def glbPortStatus_FLIT_MISMATCH (i : Nat) : Fld := ⟨(A.glbPortStatus i), 47, 32⟩
def glbPortStatus_OUTSTANDING (i : Nat) : Fld := ⟨(A.glbPortStatus i), 20, 10⟩
def glbPortStatus_STALLED (i : Nat) : Fld := ⟨(A.glbPortStatus i), 2, 2⟩
def glbPortStatus_IDLE (i : Nat) : Fld := ⟨(A.glbPortStatus i), 1, 1⟩
def glbPortStatus_CREDITED (i : Nat) : Fld := ⟨(A.glbPortStatus i), 0, 0⟩
def glbPrivPort_VALID (i : Nat) : Fld := ⟨(A.glbPrivPort i), 7, 7⟩
def glbPrivPort_PORT (i : Nat) : Fld := ⟨(A.glbPrivPort i), 6, 0⟩
def glbBridgeCfg_TIMEOUT : Fld := ⟨A.glbBridgeCfg, 15, 0⟩
def glbBridgeStatus_TIMEOUTS : Fld := ⟨A.glbBridgeStatus, 63, 32⟩
def glbBridgeStatus_SIBLING : Fld := ⟨A.glbBridgeStatus, 1, 1⟩
def glbBridgeStatus_UP : Fld := ⟨A.glbBridgeStatus, 0, 0⟩
def pwrCmd_OP : Fld := ⟨A.pwrCmd, 2, 0⟩
def pwrState_REFUSED : Fld := ⟨A.pwrState, 8, 8⟩
def pwrState_REASON : Fld := ⟨A.pwrState, 7, 4⟩
def pwrState_PADS_LATCHED : Fld := ⟨A.pwrState, 3, 3⟩
def pwrState_STATE : Fld := ⟨A.pwrState, 2, 0⟩
def pwrCfg_JOINT_TO : Fld := ⟨A.pwrCfg, 31, 16⟩
def pwrCfg_WAKE_EN : Fld := ⟨A.pwrCfg, 11, 8⟩
def pwrCfg_JOINT : Fld := ⟨A.pwrCfg, 0, 0⟩
def pwrPadRelease_RELEASE : Fld := ⟨A.pwrPadRelease, 0, 0⟩
def pwrWakeStatus_JOINT_ALONE : Fld := ⟨A.pwrWakeStatus, 10, 10⟩
def pwrWakeStatus_RESTORE_FAIL : Fld := ⟨A.pwrWakeStatus, 8, 8⟩
def pwrWakeStatus_FROM : Fld := ⟨A.pwrWakeStatus, 6, 4⟩
def pwrWakeStatus_SOURCES : Fld := ⟨A.pwrWakeStatus, 3, 0⟩
def pwrRtc_TICKS : Fld := ⟨A.pwrRtc, 47, 0⟩
def pwrAlarm_EN : Fld := ⟨A.pwrAlarm, 63, 63⟩
def pwrAlarm_VALUE : Fld := ⟨A.pwrAlarm, 47, 0⟩
def pwrCadFrac_FRAC : Fld := ⟨A.pwrCadFrac, 5, 0⟩
def pwrCadUncert_CT : Fld := ⟨A.pwrCadUncert, 63, 0⟩
def pwrRoCal_STOPPED : Fld := ⟨A.pwrRoCal, 16, 16⟩
def pwrRoCal_CYCLES : Fld := ⟨A.pwrRoCal, 15, 0⟩
def pwrRes_TICKS (i : Nat) : Fld := ⟨(A.pwrRes i), 47, 0⟩
def pwrEnt_COUNT (i : Nat) : Fld := ⟨(A.pwrEnt i), 31, 0⟩
def thmCfg_HOLD_TO : Fld := ⟨A.thmCfg, 31, 16⟩
def thmCfg_HOLD_SLOTS : Fld := ⟨A.thmCfg, 14, 8⟩
def thmCfg_HYST : Fld := ⟨A.thmCfg, 7, 0⟩
def thmStatus_TRIP_CH : Fld := ⟨A.thmStatus, 7, 4⟩
def thmStatus_TRIPPED : Fld := ⟨A.thmStatus, 0, 0⟩
def thmDiode_FAULT (i : Nat) : Fld := ⟨(A.thmDiode i), 17, 17⟩
def thmDiode_IGNORE (i : Nat) : Fld := ⟨(A.thmDiode i), 16, 16⟩
def thmDiode_TEMP (i : Nat) : Fld := ⟨(A.thmDiode i), 15, 0⟩
def thmStk_HOLD_TIMEOUTS (i : Nat) : Fld := ⟨(A.thmStk i), 63, 32⟩
def thmStk_HELD (i : Nat) : Fld := ⟨(A.thmStk i), 28, 16⟩
def thmStk_WINDOW_CLOSED (i : Nat) : Fld := ⟨(A.thmStk i), 4, 4⟩
def thmStk_LEVEL (i : Nat) : Fld := ⟨(A.thmStk i), 1, 0⟩
def thmPkg_LIMIT (i : Nat) : Fld := ⟨(A.thmPkg i), 47, 32⟩
def thmPkg_OVER (i : Nat) : Fld := ⟨(A.thmPkg i), 16, 16⟩
def thmPkg_RAW (i : Nat) : Fld := ⟨(A.thmPkg i), 15, 0⟩
def fusLifecycle_SAN_PENDING : Fld := ⟨A.fusLifecycle, 9, 9⟩
def fusLifecycle_SAN : Fld := ⟨A.fusLifecycle, 8, 8⟩
def fusLifecycle_PENDING : Fld := ⟨A.fusLifecycle, 5, 4⟩
def fusLifecycle_STATE : Fld := ⟨A.fusLifecycle, 1, 0⟩
def fusLcCmd_GO : Fld := ⟨A.fusLcCmd, 63, 63⟩
def fusLcCmd_SAN : Fld := ⟨A.fusLcCmd, 2, 2⟩
def fusLcCmd_TARGET : Fld := ⟨A.fusLcCmd, 1, 0⟩
def fusStatus_COMMIT_REFUSED : Fld := ⟨A.fusStatus, 4, 4⟩
def fusStatus_LC_REFUSED : Fld := ⟨A.fusStatus, 3, 3⟩
def fusStatus_LOAD_ERR : Fld := ⟨A.fusStatus, 2, 2⟩
def fusStatus_COMMIT_BUSY : Fld := ⟨A.fusStatus, 1, 1⟩
def fusStatus_PROG_BUSY : Fld := ⟨A.fusStatus, 0, 0⟩
def fusCmd_OP : Fld := ⟨A.fusCmd, 1, 0⟩
def fusPhyTrim_VREF_CA (i : Nat) : Fld := ⟨(A.fusPhyTrim i), 31, 24⟩
def fusPhyTrim_VREF_DQ (i : Nat) : Fld := ⟨(A.fusPhyTrim i), 23, 16⟩
def fusPhyTrim_ODT (i : Nat) : Fld := ⟨(A.fusPhyTrim i), 15, 8⟩
def fusPhyTrim_DRIVE (i : Nat) : Fld := ⟨(A.fusPhyTrim i), 7, 0⟩
def fusPhyTrimActive_VREF_CA (i : Nat) : Fld := ⟨(A.fusPhyTrimActive i), 31, 24⟩
def fusPhyTrimActive_VREF_DQ (i : Nat) : Fld := ⟨(A.fusPhyTrimActive i), 23, 16⟩
def fusPhyTrimActive_ODT (i : Nat) : Fld := ⟨(A.fusPhyTrimActive i), 15, 8⟩
def fusPhyTrimActive_DRIVE (i : Nat) : Fld := ⟨(A.fusPhyTrimActive i), 7, 0⟩
def fusDiodeTrim_GAIN (i : Nat) : Fld := ⟨(A.fusDiodeTrim i), 15, 8⟩
def fusDiodeTrim_OFFSET (i : Nat) : Fld := ⟨(A.fusDiodeTrim i), 7, 0⟩
def fusDiodeTrimActive_GAIN (i : Nat) : Fld := ⟨(A.fusDiodeTrimActive i), 15, 8⟩
def fusDiodeTrimActive_OFFSET (i : Nat) : Fld := ⟨(A.fusDiodeTrimActive i), 7, 0⟩
def fusWord_VALUE (i : Nat) : Fld := ⟨(A.fusWord i), 63, 0⟩
def talCfg_PERIOD_SHIFT : Fld := ⟨A.talCfg, 13, 8⟩
def talCfg_DONE_EV : Fld := ⟨A.talCfg, 1, 1⟩
def talCfg_EN : Fld := ⟨A.talCfg, 0, 0⟩
def talBufBase_BASE : Fld := ⟨A.talBufBase, 41, 6⟩
def talCmd_GO : Fld := ⟨A.talCmd, 0, 0⟩
def talStatus_SEQ : Fld := ⟨A.talStatus, 63, 32⟩
def talStatus_OVERRUN : Fld := ⟨A.talStatus, 2, 2⟩
def talStatus_REFUSED : Fld := ⟨A.talStatus, 1, 1⟩
def talStatus_BUSY : Fld := ⟨A.talStatus, 0, 0⟩
def talFirst_CT : Fld := ⟨A.talFirst, 63, 0⟩
def talLast_CT : Fld := ⟨A.talLast, 63, 0⟩
def talCount_N : Fld := ⟨A.talCount, 15, 0⟩
def chkCfg_FOLD (i : Nat) : Fld := ⟨(A.chkCfg i), 13, 12⟩
def chkCfg_REFOUT (i : Nat) : Fld := ⟨(A.chkCfg i), 9, 9⟩
def chkCfg_REFIN (i : Nat) : Fld := ⟨(A.chkCfg i), 8, 8⟩
def chkCfg_WIDTH (i : Nat) : Fld := ⟨(A.chkCfg i), 6, 0⟩
def chkPoly_VALUE (i : Nat) : Fld := ⟨(A.chkPoly i), 63, 0⟩
def chkInit_VALUE (i : Nat) : Fld := ⟨(A.chkInit i), 63, 0⟩
def chkXorout_VALUE (i : Nat) : Fld := ⟨(A.chkXorout i), 63, 0⟩
def chkFoldBase_VALUE (i : Nat) : Fld := ⟨(A.chkFoldBase i), 63, 0⟩
def chkCmd_STACK (i : Nat) : Fld := ⟨(A.chkCmd i), 10, 8⟩
def chkCmd_OP (i : Nat) : Fld := ⟨(A.chkCmd i), 2, 0⟩
def chkFeedB_BYTE (i : Nat) : Fld := ⟨(A.chkFeedB i), 7, 0⟩
def chkFeedH_HALF (i : Nat) : Fld := ⟨(A.chkFeedH i), 31, 0⟩
def chkFeedW_WORD (i : Nat) : Fld := ⟨(A.chkFeedW i), 63, 0⟩
def chkScanStart_ADDR (i : Nat) : Fld := ⟨(A.chkScanStart i), 41, 0⟩
def chkScanLen_LEN (i : Nat) : Fld := ⟨(A.chkScanLen i), 39, 0⟩
def chkScanCmp_VALID (i : Nat) : Fld := ⟨(A.chkScanCmp i), 63, 63⟩
def chkScanCmp_ADDR (i : Nat) : Fld := ⟨(A.chkScanCmp i), 41, 3⟩
def chkStatus_FED (i : Nat) : Fld := ⟨(A.chkStatus i), 63, 24⟩
def chkStatus_LAST (i : Nat) : Fld := ⟨(A.chkStatus i), 18, 16⟩
def chkStatus_OWNER_ID (i : Nat) : Fld := ⟨(A.chkStatus i), 15, 8⟩
def chkStatus_OWNER (i : Nat) : Fld := ⟨(A.chkStatus i), 1, 0⟩
def chkResult_VALUE (i : Nat) : Fld := ⟨(A.chkResult i), 63, 0⟩
def chkStored_VALUE (i : Nat) : Fld := ⟨(A.chkStored i), 63, 0⟩
def chkHaltAddr_ADDR (i : Nat) : Fld := ⟨(A.chkHaltAddr i), 41, 0⟩
def seqCfg_QUANTUM : Fld := ⟨A.seqCfg, 63, 48⟩
def seqCfg_SWAP_WAIT : Fld := ⟨A.seqCfg, 47, 32⟩
def seqCfg_RUNAHEAD : Fld := ⟨A.seqCfg, 23, 16⟩
def seqCfg_EN : Fld := ⟨A.seqCfg, 0, 0⟩
def seqSlotBase_BASE : Fld := ⟨A.seqSlotBase, 41, 12⟩
def seqDoorbell_EVENT : Fld := ⟨A.seqDoorbell, 34, 34⟩
def seqDoorbell_PIN : Fld := ⟨A.seqDoorbell, 33, 33⟩
def seqDoorbell_PRIV : Fld := ⟨A.seqDoorbell, 32, 32⟩
def seqDoorbell_MID : Fld := ⟨A.seqDoorbell, 27, 16⟩
def seqDoorbell_SLOT : Fld := ⟨A.seqDoorbell, 11, 0⟩
def seqLaunchStatus_SEQNUM : Fld := ⟨A.seqLaunchStatus, 63, 32⟩
def seqLaunchStatus_SLOT : Fld := ⟨A.seqLaunchStatus, 19, 8⟩
def seqLaunchStatus_RESULT : Fld := ⟨A.seqLaunchStatus, 2, 0⟩
def seqAbort_GO : Fld := ⟨A.seqAbort, 63, 63⟩
def seqAbort_SLOT : Fld := ⟨A.seqAbort, 11, 0⟩
def seqStatus_BASE_REFUSED : Fld := ⟨A.seqStatus, 32, 32⟩
def seqStatus_QUEUED : Fld := ⟨A.seqStatus, 28, 16⟩
def seqStatus_RESIDENT : Fld := ⟨A.seqStatus, 8, 0⟩
def seqLaunches_COUNT : Fld := ⟨A.seqLaunches, 63, 0⟩
def seqDone_COUNT : Fld := ⟨A.seqDone, 63, 0⟩
def seqTraps_COUNT : Fld := ⟨A.seqTraps, 63, 0⟩
def seqSwaps_COUNT : Fld := ⟨A.seqSwaps, 63, 0⟩
def seqNmuWatchCfg_RUN_LIMIT : Fld := ⟨A.seqNmuWatchCfg, 30, 16⟩
def seqNmuWatchCfg_RATIO : Fld := ⟨A.seqNmuWatchCfg, 15, 0⟩
def seqNmuShadowCfg_EN : Fld := ⟨A.seqNmuShadowCfg, 16, 16⟩
def seqNmuShadowCfg_DIV_SHIFT : Fld := ⟨A.seqNmuShadowCfg, 12, 8⟩
def seqNmuShadowCfg_K : Fld := ⟨A.seqNmuShadowCfg, 3, 0⟩
def seqNmuDiverged_COUNT : Fld := ⟨A.seqNmuDiverged, 63, 0⟩
def seqSlotState_MID (i : Nat) : Fld := ⟨(A.seqSlotState i), 35, 24⟩
def seqSlotState_PIN (i : Nat) : Fld := ⟨(A.seqSlotState i), 23, 23⟩
def seqSlotState_PRIV (i : Nat) : Fld := ⟨(A.seqSlotState i), 22, 22⟩
def seqSlotState_CTX (i : Nat) : Fld := ⟨(A.seqSlotState i), 19, 12⟩
def seqSlotState_STATE (i : Nat) : Fld := ⟨(A.seqSlotState i), 3, 0⟩
def seqToken_WAITERS (i : Nat) : Fld := ⟨(A.seqToken i), 47, 32⟩
def seqToken_VALUE (i : Nat) : Fld := ⟨(A.seqToken i), 31, 0⟩
def trfCacheCfg_PIN_MAX : Fld := ⟨A.trfCacheCfg, 13, 0⟩
def trfCacheStatus_RESIDENT : Fld := ⟨A.trfCacheStatus, 46, 32⟩
def trfCacheStatus_BUSY : Fld := ⟨A.trfCacheStatus, 30, 16⟩
def trfCacheStatus_PINNED : Fld := ⟨A.trfCacheStatus, 13, 0⟩
def trfCacheMisses_COUNT : Fld := ⟨A.trfCacheMisses, 63, 0⟩
def trfCacheEvictions_COUNT : Fld := ⟨A.trfCacheEvictions, 63, 0⟩
def trfMissHolds_COUNT : Fld := ⟨A.trfMissHolds, 63, 0⟩
def trfStreamCmd_OP : Fld := ⟨A.trfStreamCmd, 26, 24⟩
def trfStreamCmd_TOK_ZERO : Fld := ⟨A.trfStreamCmd, 23, 23⟩
def trfStreamCmd_FORCE : Fld := ⟨A.trfStreamCmd, 22, 22⟩
def trfStreamCmd_ID : Fld := ⟨A.trfStreamCmd, 19, 0⟩
def trfStreamStatus_ID : Fld := ⟨A.trfStreamStatus, 22, 3⟩
def trfStreamStatus_RESULT : Fld := ⟨A.trfStreamStatus, 2, 0⟩
def trfStreamView_WORD (i : Nat) : Fld := ⟨(A.trfStreamView i), 63, 0⟩
def trfCapCfg_UTIL : Fld := ⟨A.trfCapCfg, 15, 8⟩
def trfCapCfg_REF_LOSS : Fld := ⟨A.trfCapCfg, 7, 0⟩
def trfCommitLedger_OVER : Fld := ⟨A.trfCommitLedger, 63, 63⟩
def trfCommitLedger_SUM : Fld := ⟨A.trfCommitLedger, 39, 0⟩
def trfCapInst_CAP : Fld := ⟨A.trfCapInst, 39, 0⟩
def trfScale_THROTTLE : Fld := ⟨A.trfScale, 26, 26⟩
def trfScale_MULT : Fld := ⟨A.trfScale, 25, 24⟩
def trfScale_STACK : Fld := ⟨A.trfScale, 22, 20⟩
def trfScale_SCALE : Fld := ⟨A.trfScale, 16, 0⟩
def trfNmuBind_OVERHEAD : Fld := ⟨A.trfNmuBind, 23, 16⟩
def trfNmuBind_PGROUP : Fld := ⟨A.trfNmuBind, 11, 8⟩
def trfNmuBind_CLASS : Fld := ⟨A.trfNmuBind, 6, 4⟩
def trfNmuBind_GATED : Fld := ⟨A.trfNmuBind, 0, 0⟩
def trfBowBind_OVERHEAD : Fld := ⟨A.trfBowBind, 23, 16⟩
def trfBowBind_PGROUP : Fld := ⟨A.trfBowBind, 11, 8⟩
def trfBowBind_CLASS : Fld := ⟨A.trfBowBind, 6, 4⟩
def trfBowBind_GATED : Fld := ⟨A.trfBowBind, 0, 0⟩
def trfSortCfg_EN : Fld := ⟨A.trfSortCfg, 32, 32⟩
def trfSortCfg_SORT_WAIT : Fld := ⟨A.trfSortCfg, 31, 16⟩
def trfSortCfg_GROUP_MAX : Fld := ⟨A.trfSortCfg, 7, 0⟩
def trfSortStat_GROUPS (i : Nat) : Fld := ⟨(A.trfSortStat i), 63, 32⟩
def trfSortStat_OCC (i : Nat) : Fld := ⟨(A.trfSortStat i), 8, 0⟩
def trfGateCtl_CANCEL (i : Nat) : Fld := ⟨(A.trfGateCtl i), 2, 2⟩
def trfGateCtl_ARM (i : Nat) : Fld := ⟨(A.trfGateCtl i), 1, 1⟩
def trfGateCtl_EN (i : Nat) : Fld := ⟨(A.trfGateCtl i), 0, 0⟩
def trfGateStatus_C7_GAP (i : Nat) : Fld := ⟨(A.trfGateStatus i), 63, 32⟩
def trfGateStatus_WRITE_REFUSED (i : Nat) : Fld := ⟨(A.trfGateStatus i), 5, 5⟩
def trfGateStatus_ARM_REFUSED (i : Nat) : Fld := ⟨(A.trfGateStatus i), 4, 4⟩
def trfGateStatus_BASE_ADVANCED (i : Nat) : Fld := ⟨(A.trfGateStatus i), 3, 3⟩
def trfGateStatus_PENDING (i : Nat) : Fld := ⟨(A.trfGateStatus i), 2, 2⟩
def trfGateStatus_ACTIVE_VALID (i : Nat) : Fld := ⟨(A.trfGateStatus i), 1, 1⟩
def trfGateStatus_ACTIVE_BANK (i : Nat) : Fld := ⟨(A.trfGateStatus i), 0, 0⟩
def trfGateNextBase_BASE (i : Nat) : Fld := ⟨(A.trfGateNextBase i), 63, 0⟩
def trfGateNextCfg_LEN (i : Nat) : Fld := ⟨(A.trfGateNextCfg i), 40, 32⟩
def trfGateNextCfg_CYCLE (i : Nat) : Fld := ⟨(A.trfGateNextCfg i), 31, 0⟩
def trfGateActBase_T (i : Nat) : Fld := ⟨(A.trfGateActBase i), 63, 0⟩
def trfGateActCfg_LEN (i : Nat) : Fld := ⟨(A.trfGateActCfg i), 40, 32⟩
def trfGateActCfg_CYCLE (i : Nat) : Fld := ⟨(A.trfGateActCfg i), 31, 0⟩
def trfGateSwaps_COUNT (i : Nat) : Fld := ⟨(A.trfGateSwaps i), 63, 0⟩
def trfGateDeferrals_COUNT (i : Nat) : Fld := ⟨(A.trfGateDeferrals i), 63, 0⟩
def trfLabelCfg_TARGET (i : Nat) : Fld := ⟨(A.trfLabelCfg i), 63, 44⟩
def trfLabelCfg_SHARE (i : Nat) : Fld := ⟨(A.trfLabelCfg i), 38, 32⟩
def trfLabelCfg_L_CREDITS (i : Nat) : Fld := ⟨(A.trfLabelCfg i), 25, 16⟩
def trfLabelCfg_T_CREDITS (i : Nat) : Fld := ⟨(A.trfLabelCfg i), 8, 0⟩
def trfLabelStat_LATE (i : Nat) : Fld := ⟨(A.trfLabelStat i), 63, 32⟩
def trfLabelStat_WITHHELD (i : Nat) : Fld := ⟨(A.trfLabelStat i), 8, 8⟩
def trfLabelStat_OCC (i : Nat) : Fld := ⟨(A.trfLabelStat i), 6, 0⟩
def trfGateEnt_MASK_HI (i j k : Nat) : Fld := ⟨(A.trfGateEnt i j k), 63, 56⟩
def trfGateEnt_DUR_HI (i j k : Nat) : Fld := ⟨(A.trfGateEnt i j k), 55, 32⟩
def trfGateEnt_MASK_LO (i j k : Nat) : Fld := ⟨(A.trfGateEnt i j k), 31, 24⟩
def trfGateEnt_DUR_LO (i j k : Nat) : Fld := ⟨(A.trfGateEnt i j k), 23, 0⟩
def arbPgCapo_DRAINED : Fld := ⟨A.arbPgCapo, 31, 16⟩
def arbPgCapo_CAPO : Fld := ⟨A.arbPgCapo, 15, 0⟩
def arbLaneCfg_BRIDGE_CLASS : Fld := ⟨A.arbLaneCfg, 2, 0⟩
def arbStkCfg_QWIN (i : Nat) : Fld := ⟨(A.arbStkCfg i), 47, 32⟩
def arbStkCfg_DRAIN_WARN (i : Nat) : Fld := ⟨(A.arbStkCfg i), 31, 24⟩
def arbStkCfg_CEILING (i : Nat) : Fld := ⟨(A.arbStkCfg i), 21, 16⟩
def arbStkCfg_PARK_MAX (i : Nat) : Fld := ⟨(A.arbStkCfg i), 13, 12⟩
def arbStkCfg_DELTA (i : Nat) : Fld := ⟨(A.arbStkCfg i), 10, 8⟩
def arbStkCfg_RSV7 (i : Nat) : Fld := ⟨(A.arbStkCfg i), 6, 0⟩
def arbStkIngCapo_MASK (i : Nat) : Fld := ⟨(A.arbStkIngCapo i), 63, 0⟩
def arbStkPccCapo_MASK (i : Nat) : Fld := ⟨(A.arbStkPccCapo i), 63, 0⟩
def arbStkIngHard_MASK (i : Nat) : Fld := ⟨(A.arbStkIngHard i), 63, 0⟩
def arbStkIngDrained_MASK (i : Nat) : Fld := ⟨(A.arbStkIngDrained i), 63, 0⟩
def arbStkPccDrained_MASK (i : Nat) : Fld := ⟨(A.arbStkPccDrained i), 63, 0⟩
def arbStkHwCapo_MASK (i : Nat) : Fld := ⟨(A.arbStkHwCapo i), 63, 0⟩
def arbStkPreempts_COUNT (i : Nat) : Fld := ⟨(A.arbStkPreempts i), 63, 0⟩
def arbStkQuotaMasks_COUNT (i : Nat) : Fld := ⟨(A.arbStkQuotaMasks i), 63, 0⟩
def arbStkHardMax_COUNT (i : Nat) : Fld := ⟨(A.arbStkHardMax i), 63, 0⟩
def nmuCtl_OFFLINE (i : Nat) : Fld := ⟨(A.nmuCtl i), 0, 0⟩
def nmuCfg_WATCHDOG (i : Nat) : Fld := ⟨(A.nmuCfg i), 15, 0⟩
def nmuStatus_SERVES (i : Nat) : Fld := ⟨(A.nmuStatus i), 11, 8⟩
def nmuStatus_BUSY (i : Nat) : Fld := ⟨(A.nmuStatus i), 4, 4⟩
def nmuStatus_STATE (i : Nat) : Fld := ⟨(A.nmuStatus i), 1, 0⟩
def nmuElements_COUNT (i : Nat) : Fld := ⟨(A.nmuElements i), 63, 0⟩
def nmuAtomicAtoms_COUNT (i : Nat) : Fld := ⟨(A.nmuAtomicAtoms i), 63, 0⟩
def nmuExchangeAtoms_COUNT (i : Nat) : Fld := ⟨(A.nmuExchangeAtoms i), 63, 0⟩
def nmuSaturated_COUNT (i : Nat) : Fld := ⟨(A.nmuSaturated i), 63, 0⟩
def nmuUnderflowed_COUNT (i : Nat) : Fld := ⟨(A.nmuUnderflowed i), 63, 0⟩
def nmuNonfinite_COUNT (i : Nat) : Fld := ⟨(A.nmuNonfinite i), 63, 0⟩
def nmuParityErrs_COUNT (i : Nat) : Fld := ⟨(A.nmuParityErrs i), 63, 0⟩
def nmuHalts_COUNT (i : Nat) : Fld := ⟨(A.nmuHalts i), 63, 0⟩
def accStageBase_GRANULE (i : Nat) : Fld := ⟨(A.accStageBase i), 41, 12⟩
def accStageLimit_GRANULE (i : Nat) : Fld := ⟨(A.accStageLimit i), 41, 12⟩
def accStageCtl_VALID (i : Nat) : Fld := ⟨(A.accStageCtl i), 0, 0⟩
def accStageRead_GROUPS (i j : Nat) : Fld := ⟨(A.accStageRead i j), 63, 0⟩
def accStageWrite_GROUPS (i j : Nat) : Fld := ⟨(A.accStageWrite i j), 63, 0⟩
def accStageFetch_GROUPS (i j : Nat) : Fld := ⟨(A.accStageFetch i j), 63, 0⟩
def accStageNmu_GROUPS (i j : Nat) : Fld := ⟨(A.accStageNmu i j), 63, 0⟩
def accCmd_OP (i : Nat) : Fld := ⟨(A.accCmd i), 15, 14⟩
def accCmd_INDEX (i : Nat) : Fld := ⟨(A.accCmd i), 6, 0⟩
def accStatus_LOCKED_REFUSED (i : Nat) : Fld := ⟨(A.accStatus i), 1, 1⟩
def accStatus_BAD_RANGE (i : Nat) : Fld := ⟨(A.accStatus i), 0, 0⟩
def accDenied_COUNT (i : Nat) : Fld := ⟨(A.accDenied i), 63, 0⟩
def accDenyAddr_VALID (i : Nat) : Fld := ⟨(A.accDenyAddr i), 63, 63⟩
def accDenyAddr_ADDR (i : Nat) : Fld := ⟨(A.accDenyAddr i), 41, 0⟩
def accDenyInfo_GROUP (i : Nat) : Fld := ⟨(A.accDenyInfo i), 39, 32⟩
def accDenyInfo_MID (i : Nat) : Fld := ⟨(A.accDenyInfo i), 31, 20⟩
def accDenyInfo_SOURCE (i : Nat) : Fld := ⟨(A.accDenyInfo i), 19, 18⟩
def accDenyInfo_MASK (i : Nat) : Fld := ⟨(A.accDenyInfo i), 17, 16⟩
def accDenyInfo_UNIT (i : Nat) : Fld := ⟨(A.accDenyInfo i), 15, 8⟩
def accDenyInfo_NO_WINDOW (i : Nat) : Fld := ⟨(A.accDenyInfo i), 7, 7⟩
def accDenyInfo_WINDOW (i : Nat) : Fld := ⟨(A.accDenyInfo i), 6, 0⟩
def pcmapEntry_STATE (i j : Nat) : Fld := ⟨(A.pcmapEntry i j), 63, 62⟩
def pcmapEntry_SET_LOST (i j : Nat) : Fld := ⟨(A.pcmapEntry i j), 61, 61⟩
def pcmapEntry_TARGET (i j : Nat) : Fld := ⟨(A.pcmapEntry i j), 53, 48⟩
def pcmapEntry_VALID (i j : Nat) : Fld := ⟨(A.pcmapEntry i j), 6, 6⟩
def pcmapEntry_PPC (i j : Nat) : Fld := ⟨(A.pcmapEntry i j), 5, 0⟩
def pcmapSpare_MASK (i : Nat) : Fld := ⟨(A.pcmapSpare i), 63, 0⟩
def pcmapFailed_MASK (i : Nat) : Fld := ⟨(A.pcmapFailed i), 63, 0⟩
def pcmapEdit_EDIT_REFUSED (i : Nat) : Fld := ⟨(A.pcmapEdit i), 1, 1⟩
def pcmapEdit_EDIT (i : Nat) : Fld := ⟨(A.pcmapEdit i), 0, 0⟩
def migCtl_RETIRE (i : Nat) : Fld := ⟨(A.migCtl i), 7, 7⟩
def migCtl_LPC (i : Nat) : Fld := ⟨(A.migCtl i), 5, 0⟩
def migStatus_ACTIVE (i : Nat) : Fld := ⟨(A.migStatus i), 63, 63⟩
def migStatus_REFUSED (i : Nat) : Fld := ⟨(A.migStatus i), 62, 62⟩
def migStatus_LPC (i : Nat) : Fld := ⟨(A.migStatus i), 61, 56⟩
def migStatus_FROM (i : Nat) : Fld := ⟨(A.migStatus i), 55, 50⟩
def migStatus_TO (i : Nat) : Fld := ⟨(A.migStatus i), 49, 44⟩
def migStatus_SALVAGED (i : Nat) : Fld := ⟨(A.migStatus i), 38, 32⟩
def migStatus_POINTER (i : Nat) : Fld := ⟨(A.migStatus i), 24, 0⟩
def migPending_MASK (i : Nat) : Fld := ⟨(A.migPending i), 63, 0⟩
def migTime_CT (i : Nat) : Fld := ⟨(A.migTime i), 63, 0⟩
def errlogHead_OVERFLOWS (i : Nat) : Fld := ⟨(A.errlogHead i), 63, 32⟩
def errlogHead_NEXT (i : Nat) : Fld := ⟨(A.errlogHead i), 3, 0⟩
def errlog0_VALID (i j : Nat) : Fld := ⟨(A.errlog0 i j), 63, 63⟩
def errlog0_TYPE (i j : Nat) : Fld := ⟨(A.errlog0 i j), 62, 60⟩
def errlog0_SOURCE (i j : Nat) : Fld := ⟨(A.errlog0 i j), 59, 58⟩
def errlog0_PPC (i j : Nat) : Fld := ⟨(A.errlog0 i j), 57, 52⟩
def errlog0_SYMS (i j : Nat) : Fld := ⟨(A.errlog0 i j), 51, 48⟩
def errlog0_FIRST_SYM (i j : Nat) : Fld := ⟨(A.errlog0 i j), 47, 41⟩
def errlog0_META (i j : Nat) : Fld := ⟨(A.errlog0 i j), 40, 40⟩
def errlog0_CADENCE (i j : Nat) : Fld := ⟨(A.errlog0 i j), 39, 0⟩
def errlog1_ADDR (i j : Nat) : Fld := ⟨(A.errlog1 i j), 41, 0⟩
def bowCfg_COPY_RATE (i : Nat) : Fld := ⟨(A.bowCfg i), 63, 48⟩
def bowCfg_SCAN_RATE (i : Nat) : Fld := ⟨(A.bowCfg i), 47, 32⟩
def bowCfg_SCRUB_RATE (i : Nat) : Fld := ⟨(A.bowCfg i), 31, 16⟩
def bowCfg_SCRUB_EN (i : Nat) : Fld := ⟨(A.bowCfg i), 0, 0⟩
def bowScrubPos_PASSES (i : Nat) : Fld := ⟨(A.bowScrubPos i), 63, 40⟩
def bowScrubPos_ROW (i : Nat) : Fld := ⟨(A.bowScrubPos i), 31, 17⟩
def bowScrubPos_BANK (i : Nat) : Fld := ⟨(A.bowScrubPos i), 13, 8⟩
def bowScrubPos_PPC (i : Nat) : Fld := ⟨(A.bowScrubPos i), 5, 0⟩
def bowCmd_OP (i : Nat) : Fld := ⟨(A.bowCmd i), 1, 0⟩
def bowStatus_REFUSED (i : Nat) : Fld := ⟨(A.bowStatus i), 8, 8⟩
def bowStatus_SCAN (i : Nat) : Fld := ⟨(A.bowStatus i), 4, 4⟩
def bowStatus_SANITISE (i : Nat) : Fld := ⟨(A.bowStatus i), 3, 3⟩
def bowStatus_CANARY (i : Nat) : Fld := ⟨(A.bowStatus i), 2, 2⟩
def bowStatus_COPY (i : Nat) : Fld := ⟨(A.bowStatus i), 1, 1⟩
def bowStatus_SCRUB (i : Nat) : Fld := ⟨(A.bowStatus i), 0, 0⟩
def bowCanaryGen_GEN (i : Nat) : Fld := ⟨(A.bowCanaryGen i), 7, 0⟩
def bowSanFail_MASK (i : Nat) : Fld := ⟨(A.bowSanFail i), 63, 0⟩
def bowScrubAtoms_COUNT (i : Nat) : Fld := ⟨(A.bowScrubAtoms i), 63, 0⟩
def bowCopyAtoms_COUNT (i : Nat) : Fld := ⟨(A.bowCopyAtoms i), 63, 0⟩
def bowSanAtoms_COUNT (i : Nat) : Fld := ⟨(A.bowSanAtoms i), 63, 0⟩
def bowRetainPoisoned_COUNT (i : Nat) : Fld := ⟨(A.bowRetainPoisoned i), 63, 0⟩
def bowCanaryMask_BANKS (i j : Nat) : Fld := ⟨(A.bowCanaryMask i j), 63, 0⟩
def phyTsetCtl_VALID (i j : Nat) : Fld := ⟨(A.phyTsetCtl i j), 7, 7⟩
def phyTsetCtl_BIN (i j : Nat) : Fld := ⟨(A.phyTsetCtl i j), 2, 0⟩
def phyTsetRow_TRCD (i j : Nat) : Fld := ⟨(A.phyTsetRow i j), 63, 56⟩
def phyTsetRow_TRP (i j : Nat) : Fld := ⟨(A.phyTsetRow i j), 55, 48⟩
def phyTsetRow_TRAS (i j : Nat) : Fld := ⟨(A.phyTsetRow i j), 47, 40⟩
def phyTsetRow_TRC (i j : Nat) : Fld := ⟨(A.phyTsetRow i j), 39, 32⟩
def phyTsetRow_TRRD (i j : Nat) : Fld := ⟨(A.phyTsetRow i j), 31, 24⟩
def phyTsetRow_TFAW (i j : Nat) : Fld := ⟨(A.phyTsetRow i j), 23, 16⟩
def phyTsetRow_TCCD (i j : Nat) : Fld := ⟨(A.phyTsetRow i j), 15, 8⟩
def phyTsetRow_TRTW (i j : Nat) : Fld := ⟨(A.phyTsetRow i j), 7, 0⟩
def phyTsetLat_RL (i j : Nat) : Fld := ⟨(A.phyTsetLat i j), 63, 56⟩
def phyTsetLat_WL (i j : Nat) : Fld := ⟨(A.phyTsetLat i j), 55, 48⟩
def phyTsetLat_TWTR (i j : Nat) : Fld := ⟨(A.phyTsetLat i j), 47, 40⟩
def phyTsetLat_PARITY_LAT (i j : Nat) : Fld := ⟨(A.phyTsetLat i j), 39, 32⟩
def phyTsetLat_WCRC_LAT (i j : Nat) : Fld := ⟨(A.phyTsetLat i j), 31, 24⟩
def phyTsetRef_TREFI (i j : Nat) : Fld := ⟨(A.phyTsetRef i j), 63, 48⟩
def phyTsetRef_TRFCAB (i j : Nat) : Fld := ⟨(A.phyTsetRef i j), 47, 36⟩
def phyTsetRef_TRFCPB (i j : Nat) : Fld := ⟨(A.phyTsetRef i j), 35, 24⟩
def phyTsetRef_PPL (i j : Nat) : Fld := ⟨(A.phyTsetRef i j), 23, 20⟩
def phyFreqCmd_GO (i : Nat) : Fld := ⟨(A.phyFreqCmd i), 2, 2⟩
def phyFreqCmd_SET (i : Nat) : Fld := ⟨(A.phyFreqCmd i), 1, 0⟩
def phyFreqStatus_LAST_TIME (i : Nat) : Fld := ⟨(A.phyFreqStatus i), 63, 32⟩
def phyFreqStatus_FALLEN (i : Nat) : Fld := ⟨(A.phyFreqStatus i), 11, 11⟩
def phyFreqStatus_CHAIN (i : Nat) : Fld := ⟨(A.phyFreqStatus i), 10, 10⟩
def phyFreqStatus_FAILED (i : Nat) : Fld := ⟨(A.phyFreqStatus i), 9, 9⟩
def phyFreqStatus_REFUSED (i : Nat) : Fld := ⟨(A.phyFreqStatus i), 8, 8⟩
def phyFreqStatus_WRITE_REFUSED (i : Nat) : Fld := ⟨(A.phyFreqStatus i), 7, 7⟩
def phyFreqStatus_BUSY (i : Nat) : Fld := ⟨(A.phyFreqStatus i), 6, 6⟩
def phyFreqStatus_BIN (i : Nat) : Fld := ⟨(A.phyFreqStatus i), 5, 3⟩
def phyFreqStatus_ACTIVE (i : Nat) : Fld := ⟨(A.phyFreqStatus i), 1, 0⟩
def phyCfg_REPLAY_LIMIT (i : Nat) : Fld := ⟨(A.phyCfg i), 7, 4⟩
def phyCfg_TRACK_EN (i : Nat) : Fld := ⟨(A.phyCfg i), 0, 0⟩
def phyStackInfo_REPORTED (i : Nat) : Fld := ⟨(A.phyStackInfo i), 20, 16⟩
def phyStackInfo_MISMATCH (i : Nat) : Fld := ⟨(A.phyStackInfo i), 8, 8⟩
def phyStackInfo_HEIGHT (i : Nat) : Fld := ⟨(A.phyStackInfo i), 4, 0⟩
def phyLaneMap_CA_USED (i j : Nat) : Fld := ⟨(A.phyLaneMap i j), 39, 39⟩
def phyLaneMap_CA_LANE (i j : Nat) : Fld := ⟨(A.phyLaneMap i j), 36, 32⟩
def phyLaneMap_P1_S1_USED (i j : Nat) : Fld := ⟨(A.phyLaneMap i j), 31, 31⟩
def phyLaneMap_P1_S1_LANE (i j : Nat) : Fld := ⟨(A.phyLaneMap i j), 29, 24⟩
def phyLaneMap_P1_S0_USED (i j : Nat) : Fld := ⟨(A.phyLaneMap i j), 23, 23⟩
def phyLaneMap_P1_S0_LANE (i j : Nat) : Fld := ⟨(A.phyLaneMap i j), 21, 16⟩
def phyLaneMap_P0_S1_USED (i j : Nat) : Fld := ⟨(A.phyLaneMap i j), 15, 15⟩
def phyLaneMap_P0_S1_LANE (i j : Nat) : Fld := ⟨(A.phyLaneMap i j), 13, 8⟩
def phyLaneMap_P0_S0_USED (i j : Nat) : Fld := ⟨(A.phyLaneMap i j), 7, 7⟩
def phyLaneMap_P0_S0_LANE (i j : Nat) : Fld := ⟨(A.phyLaneMap i j), 5, 0⟩
def pccRqCfg_WR_AGE (i j : Nat) : Fld := ⟨(A.pccRqCfg i j), 47, 32⟩
def pccRqCfg_HIT_RUN (i j : Nat) : Fld := ⟨(A.pccRqCfg i j), 31, 28⟩
def pccRqCfg_WR_HIGH (i j : Nat) : Fld := ⟨(A.pccRqCfg i j), 22, 16⟩
def pccRqCfg_WR_LOW (i j : Nat) : Fld := ⟨(A.pccRqCfg i j), 14, 8⟩
def pccRqCfg_BANK_LIMIT (i j : Nat) : Fld := ⟨(A.pccRqCfg i j), 6, 0⟩
def pccPageCfg_HINT_EN (i j : Nat) : Fld := ⟨(A.pccPageCfg i j), 32, 32⟩
def pccPageCfg_KEEP_TO (i j : Nat) : Fld := ⟨(A.pccPageCfg i j), 31, 16⟩
def pccPageCfg_IDLE_TO (i j : Nat) : Fld := ⟨(A.pccPageCfg i j), 15, 0⟩
def pccZmapCtl_STATE (i j : Nat) : Fld := ⟨(A.pccZmapCtl i j), 11, 10⟩
def pccZmapCtl_WRITTEN (i j : Nat) : Fld := ⟨(A.pccZmapCtl i j), 9, 9⟩
def pccZmapCtl_PRED_EN (i j : Nat) : Fld := ⟨(A.pccZmapCtl i j), 4, 4⟩
def pccZmapCtl_OP (i j : Nat) : Fld := ⟨(A.pccZmapCtl i j), 2, 0⟩
def pccZmapStatus_POISONED_LINES (i j : Nat) : Fld := ⟨(A.pccZmapStatus i j), 63, 48⟩
def pccZmapStatus_REFUSED (i j : Nat) : Fld := ⟨(A.pccZmapStatus i j), 2, 2⟩
def pccZmapStatus_DIRTY (i j : Nat) : Fld := ⟨(A.pccZmapStatus i j), 1, 1⟩
def pccZmapStatus_BUSY (i j : Nat) : Fld := ⟨(A.pccZmapStatus i j), 0, 0⟩
def pccBufStatus_MODE (i j : Nat) : Fld := ⟨(A.pccBufStatus i j), 40, 40⟩
def pccBufStatus_PARKED (i j : Nat) : Fld := ⟨(A.pccBufStatus i j), 33, 32⟩
def pccBufStatus_MAX_BANK (i j : Nat) : Fld := ⟨(A.pccBufStatus i j), 30, 24⟩
def pccBufStatus_WRITES (i j : Nat) : Fld := ⟨(A.pccBufStatus i j), 22, 16⟩
def pccBufStatus_HELD (i j : Nat) : Fld := ⟨(A.pccBufStatus i j), 14, 8⟩
def pccBufStatus_OCC (i j : Nat) : Fld := ⟨(A.pccBufStatus i j), 6, 0⟩
def pccZmElidedWr_COUNT (i j : Nat) : Fld := ⟨(A.pccZmElidedWr i j), 63, 0⟩
def pccZmElidedRd_COUNT (i j : Nat) : Fld := ⟨(A.pccZmElidedRd i j), 63, 0⟩
def pccZmMisses_COUNT (i j : Nat) : Fld := ⟨(A.pccZmMisses i j), 63, 0⟩
def pccZmReplays_COUNT (i j : Nat) : Fld := ⟨(A.pccZmReplays i j), 63, 0⟩
def pccZmWasted_COUNT (i j : Nat) : Fld := ⟨(A.pccZmWasted i j), 63, 0⟩
def pccForwards_COUNT (i j : Nat) : Fld := ⟨(A.pccForwards i j), 63, 0⟩
def pccHintsAct_COUNT (i j : Nat) : Fld := ⟨(A.pccHintsAct i j), 63, 0⟩
def pccHintsDrop_COUNT (i j : Nat) : Fld := ⟨(A.pccHintsDrop i j), 63, 0⟩
def pccRefStatus_REF_LATE (i j : Nat) : Fld := ⟨(A.pccRefStatus i j), 63, 32⟩
def pccRefStatus_THROTTLE (i j : Nat) : Fld := ⟨(A.pccRefStatus i j), 11, 11⟩
def pccRefStatus_MULT (i j : Nat) : Fld := ⟨(A.pccRefStatus i j), 9, 8⟩
def pccRefStatus_OWED_MAX (i j : Nat) : Fld := ⟨(A.pccRefStatus i j), 7, 4⟩
def pccRefIssued_COUNT (i j : Nat) : Fld := ⟨(A.pccRefIssued i j), 63, 0⟩
def pccRefForced_COUNT (i j : Nat) : Fld := ⟨(A.pccRefForced i j), 63, 0⟩
def pccReplayStatus_ATTEMPTS (i j : Nat) : Fld := ⟨(A.pccReplayStatus i j), 13, 10⟩
def pccReplayStatus_STATE (i j : Nat) : Fld := ⟨(A.pccReplayStatus i j), 9, 7⟩
def pccReplayStatus_ENTRIES (i j : Nat) : Fld := ⟨(A.pccReplayStatus i j), 5, 0⟩
def pccReplays_COUNT (i j : Nat) : Fld := ⟨(A.pccReplays i j), 63, 0⟩
def pccParityErrs_COUNT (i j : Nat) : Fld := ⟨(A.pccParityErrs i j), 63, 0⟩
def pccCrcErrs_COUNT (i j : Nat) : Fld := ⟨(A.pccCrcErrs i j), 63, 0⟩
def pccReplayFull_COUNT (i j : Nat) : Fld := ⟨(A.pccReplayFull i j), 63, 0⟩
def pccFretCmd_OP (i j : Nat) : Fld := ⟨(A.pccFretCmd i j), 63, 62⟩
def pccFretCmd_ATOM (i j : Nat) : Fld := ⟨(A.pccFretCmd i j), 24, 0⟩
def pccFretStatus_INSTALLS (i j : Nat) : Fld := ⟨(A.pccFretStatus i j), 63, 32⟩
def pccFretStatus_REFUSED (i j : Nat) : Fld := ⟨(A.pccFretStatus i j), 17, 17⟩
def pccFretStatus_BUSY (i j : Nat) : Fld := ⟨(A.pccFretStatus i j), 16, 16⟩
def pccFretStatus_USED (i j : Nat) : Fld := ⟨(A.pccFretStatus i j), 15, 0⟩
def pccEccCtl_FRET_AUTO (i j : Nat) : Fld := ⟨(A.pccEccCtl i j), 2, 2⟩
def pccEccCtl_LOG_CE (i j : Nat) : Fld := ⟨(A.pccEccCtl i j), 1, 1⟩
def pccEccCtl_SCRUB_FEED (i j : Nat) : Fld := ⟨(A.pccEccCtl i j), 0, 0⟩
def pccCeCount_COUNT (i j : Nat) : Fld := ⟨(A.pccCeCount i j), 63, 0⟩
def pccCeBySyms_THREE (i j : Nat) : Fld := ⟨(A.pccCeBySyms i j), 47, 32⟩
def pccCeBySyms_TWO (i j : Nat) : Fld := ⟨(A.pccCeBySyms i j), 31, 16⟩
def pccCeBySyms_ONE (i j : Nat) : Fld := ⟨(A.pccCeBySyms i j), 15, 0⟩
def pccCheckSymbol_COUNT (i j : Nat) : Fld := ⟨(A.pccCheckSymbol i j), 63, 0⟩
def pccUeCount_COUNT (i j : Nat) : Fld := ⟨(A.pccUeCount i j), 63, 0⟩
def pccPoisonReads_COUNT (i j : Nat) : Fld := ⟨(A.pccPoisonReads i j), 63, 0⟩
def pccHistory_REASON (i j : Nat) : Fld := ⟨(A.pccHistory i j), 63, 56⟩
def pccHistory_STRANDED (i j : Nat) : Fld := ⟨(A.pccHistory i j), 47, 47⟩
def pccHistory_SALVAGE (i j : Nat) : Fld := ⟨(A.pccHistory i j), 46, 46⟩
def pccHistory_CLEAR (i j : Nat) : Fld := ⟨(A.pccHistory i j), 44, 44⟩
def pccHistory_CMD_ERRS (i j : Nat) : Fld := ⟨(A.pccHistory i j), 39, 32⟩
def pccHistory_FRET_OVF (i j : Nat) : Fld := ⟨(A.pccHistory i j), 23, 16⟩
def pccHistory_UE_ATOMS (i j : Nat) : Fld := ⟨(A.pccHistory i j), 7, 0⟩
def pccRetCfg_AUTO (i j : Nat) : Fld := ⟨(A.pccRetCfg i j), 16, 16⟩
def pccRetCfg_FRET_OVF_LIMIT (i j : Nat) : Fld := ⟨(A.pccRetCfg i j), 15, 8⟩
def pccRetCfg_UE_LIMIT (i j : Nat) : Fld := ⟨(A.pccRetCfg i j), 7, 0⟩
def pccFretEnt_VALID (i j k : Nat) : Fld := ⟨(A.pccFretEnt i j k), 63, 63⟩
def pccFretEnt_POISONED (i j k : Nat) : Fld := ⟨(A.pccFretEnt i j k), 62, 62⟩
def pccFretEnt_ATOM (i j k : Nat) : Fld := ⟨(A.pccFretEnt i j k), 24, 0⟩
def pccWardenHolds_COUNT (i j : Nat) : Fld := ⟨(A.pccWardenHolds i j), 63, 0⟩
def pccWardenRefreshHolds_COUNT (i j : Nat) : Fld := ⟨(A.pccWardenRefreshHolds i j), 63, 0⟩
/-- The group of master ID `m`: byte m mod 8 of GROUP_MAP[m / 8] (Table 3.9). -/
def groupOf (m : Nat) : Fld := ⟨A.glbGroupMap (m / 8), 8 * (m % 8) + 7, 8 * (m % 8)⟩
/-- ARB.STK[s].BASE, class `c` (Table 6.12). -/
def arbBase (s c : Nat) : Fld := ⟨A.arbStkBase s, 8 * c + 5, 8 * c⟩
/-- The quota of class `c` (Table 6.13): QUOTA_LO holds classes 0 to 3, QUOTA_HI 4 to 7. -/
def arbQuota (s c : Nat) : Fld :=
  ⟨if c < 4 then A.arbStkQuotaLo s else A.arbStkQuotaHi s, 16 * (c % 4) + 15, 16 * (c % 4)⟩
/-- The run length of underflow-watch tag `t` (Table 11.19: four tags a register). -/
def watchRun (t : Nat) : Fld := ⟨A.seqNmuWatch (t / 4), 16 * (t % 4) + 14, 16 * (t % 4)⟩
/-- The ALERTED bit of underflow-watch tag `t` (Table 11.19). -/
def watchAlerted (t : Nat) : Fld := ⟨A.seqNmuWatch (t / 4), 16 * (t % 4) + 15, 16 * (t % 4) + 15⟩

end F

namespace RegFile

/-- Registers of GLB, part 1: base, dimensions, masks known, RW, RWL, W1C, W1S, RC, saved. -/
def glb0 : List RegDef := [
  ⟨0x000000, [], 0xFFFFFFFF, 0x0, 0x0, 0x0, 0x0, 0x0, 0x0, false, fun _ _ => 0x58495338⟩,
  ⟨0x000008, [], 0xFFFFFFFF, 0x0, 0x0, 0x0, 0x0, 0x0, 0x0, false, fun _ _ => 0x3000110⟩,
  ⟨0x000010, [], 0x1F0F0F3F0F, 0x0, 0x0, 0x0, 0x0, 0x0, 0x0, false, fun _ _ => 0x3000000⟩,
  ⟨0x000020, [], 0x0, 0x0, 0x0, 0x0, 0x0, 0x0, 0x0, false, fun _ _ => 0x0⟩,
  ⟨0x000028, [], 0xFF003F, 0x0, 0x0, 0x0, 0x0, 0x0, 0xF, false, fun _ _ => 0x0⟩,
  ⟨0x000100, [], 0xFFFFFFFFFFFFFFFF, 0x0, 0x0, 0x0, 0x0, 0x0, 0x0, false, fun _ _ => 0x0⟩,
  ⟨0x000108, [], 0xFFFFFFFF0000001F, 0x0, 0x0, 0x8, 0x0, 0x0, 0x0, false, fun _ _ => 0x0⟩,
  ⟨0x000110, [], 0xFFFFFFFFFFFFFFFF, 0xFFFFFFFFFFFFFFFF, 0x0, 0x0, 0x0, 0x0, 0xFFFFFFFFFFFFFFFF, false, fun _ _ => 0x0⟩,
  ⟨0x000118, [], 0x1, 0x1, 0x0, 0x0, 0x0, 0x0, 0x0, false, fun _ _ => 0x0⟩,
  ⟨0x000120, [], 0xFFFFFFFFFFFFFFFF, 0x0, 0x0, 0x0, 0x0, 0x0, 0x0, false, fun _ _ => 0x0⟩,
  ⟨0x000140, [], 0x1FFFFFFFFFF, 0x0, 0x0, 0x0, 0x0, 0x0, 0x0, false, fun _ _ => 0x0⟩,
  ⟨0x000148, [], 0xFF00FF, 0xFF00FF, 0x0, 0x0, 0x0, 0x0, 0xFF00FF, false, fun _ _ => 0x100004⟩,
  ⟨0x000150, [], 0xFFFF, 0x0, 0x0, 0x0, 0x0, 0xFFFF, 0x0, false, fun _ _ => 0xFFFF⟩,
  ⟨0x000200, [], 0x103, 0x0, 0x3, 0x100, 0x0, 0x0, 0x3, false, fun _ _ => 0x0⟩,
  ⟨0x000208, [], 0x3FFFFFFFFFF, 0x0, 0x0, 0x0, 0x0, 0x0, 0x0, false, fun _ _ => 0x0⟩,
  ⟨0x000210, [], 0x3FFFFFFFFFF, 0x0, 0x0, 0x0, 0x0, 0x0, 0x0, false, fun _ _ => 0x0⟩,
  ⟨0x000218, [], 0x3FFFFFFFFFF, 0x0, 0x0, 0x0, 0x0, 0x0, 0x0, false, fun _ _ => 0x0⟩,
  ⟨0x000220, [], 0x1, 0x0, 0x0, 0x0, 0x1, 0x0, 0x1, false, fun _ _ => 0x0⟩,
  ⟨0x000300, [], 0x3FFFFFFFFFF, 0x3FFFFFFFFFF, 0x0, 0x0, 0x0, 0x0, 0x3FFFFFFFFFF, false, fun _ _ => 0x0⟩,
  ⟨0x000308, [], 0x801FFFFF000FFFFF, 0x801FFFFF000FFFFF, 0x0, 0x0, 0x0, 0x0, 0x801FFFFF000FFFFF, false, fun _ _ => 0xA000000000001⟩]

/-- Registers of GLB, part 2: base, dimensions, masks known, RW, RWL, W1C, W1S, RC, saved. -/
def glb1 : List RegDef := [
  ⟨0x000310, [], 0xFFFFFFFF, 0x0, 0x0, 0x0, 0x0, 0x0, 0xFFFFFFFF, false, fun _ _ => 0x0⟩,
  ⟨0x000318, [], 0xFFFFFFFF, 0xFFFFFFFF, 0x0, 0x0, 0x0, 0x0, 0xFFFFFFFF, false, fun _ _ => 0x0⟩,
  ⟨0x000320, [], 0xFFFFFFFFFFFF01FF, 0x0, 0x0, 0x180, 0x0, 0xFFFFFFFFFFFF0000, 0x0, false, fun _ _ => 0x0⟩,
  ⟨0x000400, [], 0x1, 0x1, 0x0, 0x0, 0x0, 0x0, 0x0, false, fun _ _ => 0x0⟩,
  ⟨0x000408, [], 0x3FFF8, 0x3FFF8, 0x0, 0x0, 0x0, 0x0, 0x0, false, fun _ _ => 0x0⟩,
  ⟨0x000410, [], 0x0, 0x0, 0x0, 0x0, 0x0, 0x0, 0x0, false, fun _ _ => 0x0⟩,
  ⟨0x000418, [], 0x1F, 0x0, 0x0, 0x0, 0x0, 0x0, 0x0, false, fun _ _ => 0x0⟩,
  ⟨0x000420, [], 0xFFFFFFFFFFFFFFFF, 0x0, 0x0, 0x0, 0x0, 0x0, 0x0, false, fun _ _ => 0x300000403000007⟩,
  ⟨0x000428, [], 0xFFFFFFFFFFFFFFFF, 0x0, 0x0, 0x0, 0x0, 0x0, 0x0, false, fun _ _ => 0x300000403000007⟩,
  ⟨0x000430, [], 0xFF, 0xFF, 0x0, 0x0, 0x0, 0x0, 0x0, false, fun _ _ => 0x0⟩,
  ⟨0x000438, [], 0xFFFFFFFFFFFFFFFF, 0x0, 0x0, 0x0, 0x0, 0x0, 0x0, false, fun _ _ => 0x0⟩,
  ⟨0x001000, [(113, 0x10)], 0xFFFFFFC0FFFF0001, 0xFFFF0001, 0xFFFFFFC000000000, 0x0, 0x0, 0x0, 0xFFFFFFC0FFFF0000, false, fun i _ => if i < 96 then i * 2^52 + 0xFFF * 2^40 + 1 * 2^38 + 0x10 * 2^16 else 0xFFF * 2^40 + 0x10 * 2^16⟩,
  ⟨0x001008, [(113, 0x10)], 0xFFFFFFFF001FFC07, 0x0, 0x0, 0x0, 0x0, 0xFFFFFFFF00000000, 0x0, false, fun _ _ => 0x2⟩,
  ⟨0x001800, [(8, 0x8)], 0xFF, 0xFF, 0x0, 0x0, 0x0, 0x0, 0xFF, false, fun _ _ => 0x0⟩,
  ⟨0x001900, [], 0xFFFF, 0xFFFF, 0x0, 0x0, 0x0, 0x0, 0xFFFF, false, fun _ _ => 0x64⟩,
  ⟨0x001908, [], 0xFFFFFFFF00000003, 0x0, 0x0, 0x0, 0x0, 0xFFFFFFFF00000000, 0x0, false, fun _ _ => 0x0⟩,
  ⟨0x002000, [(512, 0x8)], 0xFFFFFFFFFFFFFFFF, 0x0, 0xFFFFFFFFFFFFFFFF, 0x0, 0x0, 0x0, 0xFFFFFFFFFFFFFFFF, false, fun _ _ => 0x0⟩]

/-- Registers of GLB. -/
def glb : List RegDef := glb0 ++ glb1

/-- Registers of PWR, THM, FUS, TAL and CHK, part 1: base, dimensions, masks known, RW, RWL, W1C, W1S, RC, saved. -/
def die0 : List RegDef := [
  ⟨0x004000, [], 0x0, 0x0, 0x0, 0x0, 0x0, 0x0, 0x0, false, fun _ _ => 0x0⟩,
  ⟨0x004008, [], 0x1FF, 0x0, 0x0, 0x100, 0x0, 0x0, 0x0, false, fun _ _ => 0x0⟩,
  ⟨0x004010, [], 0xFFFF0F01, 0xFFFF0F01, 0x0, 0x0, 0x0, 0x0, 0x0, false, fun _ _ => 0x3E80F00⟩,
  ⟨0x004018, [], 0x1, 0x0, 0x0, 0x0, 0x1, 0x0, 0x0, false, fun _ _ => 0x0⟩,
  ⟨0x004020, [], 0x57F, 0x0, 0x0, 0x500, 0x0, 0x0, 0x0, true, fun _ _ => 0x0⟩,
  ⟨0x004028, [], 0xFFFFFFFFFFFF, 0x0, 0x0, 0x0, 0x0, 0x0, 0x0, true, fun _ _ => 0x0⟩,
  ⟨0x004030, [], 0x8000FFFFFFFFFFFF, 0x8000FFFFFFFFFFFF, 0x0, 0x0, 0x0, 0x0, 0x0, true, fun _ _ => 0x0⟩,
  ⟨0x004038, [], 0x3F, 0x0, 0x0, 0x0, 0x0, 0x0, 0x0, true, fun _ _ => 0x0⟩,
  ⟨0x004040, [], 0xFFFFFFFFFFFFFFFF, 0x0, 0x0, 0x0, 0x0, 0x0, 0x0, true, fun _ _ => 0x0⟩,
  ⟨0x004048, [], 0x1FFFF, 0x0, 0x0, 0x0, 0x0, 0x0, 0x0, true, fun _ _ => 0x0⟩,
  ⟨0x004100, [(4, 0x8)], 0xFFFFFFFFFFFF, 0x0, 0x0, 0x0, 0x0, 0x0, 0x0, true, fun _ _ => 0x0⟩,
  ⟨0x004120, [(4, 0x8)], 0xFFFFFFFF, 0x0, 0x0, 0x0, 0x0, 0x0, 0x0, true, fun _ _ => 0x0⟩,
  ⟨0x006000, [], 0xFFFF7FFF, 0xFFFF7FFF, 0x0, 0x0, 0x0, 0x0, 0x0, true, fun _ _ => 0x1F42020⟩,
  ⟨0x006010, [], 0xF1, 0x0, 0x0, 0x0, 0x0, 0x0, 0x0, true, fun _ _ => 0x0⟩,
  ⟨0x006100, [(16, 0x8)], 0x3FFFF, 0x10000, 0x0, 0x0, 0x0, 0x0, 0x0, true, fun _ _ => 0x0⟩,
  ⟨0x006200, [(8, 0x8)], 0xFFFFFFFF1FFF0013, 0x0, 0x0, 0x0, 0x0, 0xFFFFFFFF00000000, 0x0, true, fun _ _ => 0x0⟩,
  ⟨0x006300, [(8, 0x8)], 0xFFFF0001FFFF, 0xFFFF00000000, 0x0, 0x0, 0x0, 0x0, 0x0, true, fun _ _ => 0x0⟩,
  ⟨0x008000, [], 0x333, 0x0, 0x0, 0x0, 0x0, 0x0, 0x333, false, fun _ _ => 0x0⟩,
  ⟨0x008008, [], 0x0, 0x0, 0x0, 0x0, 0x0, 0x0, 0x0, false, fun _ _ => 0x0⟩,
  ⟨0x008010, [], 0x1F, 0x0, 0x0, 0x18, 0x0, 0x0, 0x4, false, fun _ _ => 0x0⟩]

/-- Registers of PWR, THM, FUS, TAL and CHK, part 2: base, dimensions, masks known, RW, RWL, W1C, W1S, RC, saved. -/
def die1 : List RegDef := [
  ⟨0x008018, [], 0x0, 0x0, 0x0, 0x0, 0x0, 0x0, 0x0, false, fun _ _ => 0x0⟩,
  ⟨0x008100, [(8, 0x10)], 0xFFFFFFFF, 0xFFFFFFFF, 0x0, 0x0, 0x0, 0x0, 0xFFFFFFFF, false, fun _ _ => 0x0⟩,
  ⟨0x008108, [(8, 0x10)], 0xFFFFFFFF, 0x0, 0x0, 0x0, 0x0, 0x0, 0xFFFFFFFF, false, fun _ _ => 0x0⟩,
  ⟨0x008200, [(16, 0x10)], 0xFFFF, 0xFFFF, 0x0, 0x0, 0x0, 0x0, 0xFFFF, false, fun _ _ => 0x0⟩,
  ⟨0x008208, [(16, 0x10)], 0xFFFF, 0x0, 0x0, 0x0, 0x0, 0x0, 0xFFFF, false, fun _ _ => 0x0⟩,
  ⟨0x008800, [(256, 0x8)], 0xFFFFFFFFFFFFFFFF, 0x0, 0x0, 0x0, 0x0, 0x0, 0x0, false, fun _ _ => 0x0⟩,
  ⟨0x00A000, [], 0x3F03, 0x3F03, 0x0, 0x0, 0x0, 0x0, 0x3F03, false, fun _ _ => 0x1E00⟩,
  ⟨0x00A008, [], 0x3FFFFFFFFC0, 0x3FFFFFFFFC0, 0x0, 0x0, 0x0, 0x0, 0x3FFFFFFFFC0, false, fun _ _ => 0x0⟩,
  ⟨0x00A010, [], 0x1, 0x0, 0x0, 0x0, 0x1, 0x0, 0x0, false, fun _ _ => 0x0⟩,
  ⟨0x00A018, [], 0xFFFFFFFF00000007, 0x0, 0x0, 0x6, 0x0, 0x0, 0x0, false, fun _ _ => 0x0⟩,
  ⟨0x00A020, [], 0xFFFFFFFFFFFFFFFF, 0x0, 0x0, 0x0, 0x0, 0x0, 0x0, false, fun _ _ => 0x0⟩,
  ⟨0x00A028, [], 0xFFFFFFFFFFFFFFFF, 0x0, 0x0, 0x0, 0x0, 0x0, 0x0, false, fun _ _ => 0x0⟩,
  ⟨0x00A030, [], 0xFFFF, 0x0, 0x0, 0x0, 0x0, 0x0, 0x0, false, fun _ _ => 0x0⟩,
  ⟨0x00C000, [(4, 0x80)], 0x337F, 0x337F, 0x0, 0x0, 0x0, 0x0, 0x337F, false, fun _ _ => 0x20⟩,
  ⟨0x00C008, [(4, 0x80)], 0xFFFFFFFFFFFFFFFF, 0xFFFFFFFFFFFFFFFF, 0x0, 0x0, 0x0, 0x0, 0xFFFFFFFFFFFFFFFF, false, fun _ _ => 0x4C11DB7⟩,
  ⟨0x00C010, [(4, 0x80)], 0xFFFFFFFFFFFFFFFF, 0xFFFFFFFFFFFFFFFF, 0x0, 0x0, 0x0, 0x0, 0xFFFFFFFFFFFFFFFF, false, fun _ _ => 0xFFFFFFFF⟩,
  ⟨0x00C018, [(4, 0x80)], 0xFFFFFFFFFFFFFFFF, 0xFFFFFFFFFFFFFFFF, 0x0, 0x0, 0x0, 0x0, 0xFFFFFFFFFFFFFFFF, false, fun _ _ => 0xFFFFFFFF⟩,
  ⟨0x00C020, [(4, 0x80)], 0xFFFFFFFFFFFFFFFF, 0xFFFFFFFFFFFFFFFF, 0x0, 0x0, 0x0, 0x0, 0xFFFFFFFFFFFFFFFF, false, fun _ _ => 0x0⟩,
  ⟨0x00C028, [(4, 0x80)], 0x0, 0x0, 0x0, 0x0, 0x0, 0x0, 0x0, false, fun _ _ => 0x0⟩,
  ⟨0x00C030, [(4, 0x80)], 0x0, 0x0, 0x0, 0x0, 0x0, 0x0, 0x0, false, fun _ _ => 0x0⟩]

/-- Registers of PWR, THM, FUS, TAL and CHK, part 3: base, dimensions, masks known, RW, RWL, W1C, W1S, RC, saved. -/
def die2 : List RegDef := [
  ⟨0x00C038, [(4, 0x80)], 0x0, 0x0, 0x0, 0x0, 0x0, 0x0, 0x0, false, fun _ _ => 0x0⟩,
  ⟨0x00C040, [(4, 0x80)], 0x0, 0x0, 0x0, 0x0, 0x0, 0x0, 0x0, false, fun _ _ => 0x0⟩,
  ⟨0x00C048, [(4, 0x80)], 0x3FFFFFFFFFF, 0x3FFFFFFFFFF, 0x0, 0x0, 0x0, 0x0, 0x3FFFFFFFFFF, false, fun _ _ => 0x0⟩,
  ⟨0x00C050, [(4, 0x80)], 0xFFFFFFFFFF, 0xFFFFFFFFFF, 0x0, 0x0, 0x0, 0x0, 0xFFFFFFFFFF, false, fun _ _ => 0x0⟩,
  ⟨0x00C058, [(4, 0x80)], 0x800003FFFFFFFFF8, 0x800003FFFFFFFFF8, 0x0, 0x0, 0x0, 0x0, 0x800003FFFFFFFFF8, false, fun _ _ => 0x0⟩,
  ⟨0x00C060, [(4, 0x80)], 0xFFFFFFFFFF07FF03, 0x0, 0x0, 0x0, 0x0, 0x0, 0x0, false, fun _ _ => 0x0⟩,
  ⟨0x00C068, [(4, 0x80)], 0xFFFFFFFFFFFFFFFF, 0x0, 0x0, 0x0, 0x0, 0x0, 0x0, false, fun _ _ => 0x0⟩,
  ⟨0x00C070, [(4, 0x80)], 0xFFFFFFFFFFFFFFFF, 0x0, 0x0, 0x0, 0x0, 0x0, 0x0, false, fun _ _ => 0x0⟩,
  ⟨0x00C078, [(4, 0x80)], 0x3FFFFFFFFFF, 0x0, 0x0, 0x0, 0x0, 0x0, 0x0, false, fun _ _ => 0x0⟩]

/-- Registers of PWR, THM, FUS, TAL and CHK. -/
def die : List RegDef := die0 ++ die1 ++ die2

/-- Registers of SEQ: base, dimensions, masks known, RW, RWL, W1C, W1S, RC, saved. -/
def seq : List RegDef := [
  ⟨0x010000, [], 0xFFFFFFFF00FF0001, 0xFFFFFFFF00FF0001, 0x0, 0x0, 0x0, 0x0, 0xFFFFFFFF00FF0001, false, fun _ _ => 0x1000200000⟩,
  ⟨0x010008, [], 0x3FFFFFFF000, 0x3FFFFFFF000, 0x0, 0x0, 0x0, 0x0, 0x3FFFFFFF000, false, fun _ _ => 0x0⟩,
  ⟨0x010010, [], 0x0, 0x0, 0x0, 0x0, 0x0, 0x0, 0x0, false, fun _ _ => 0x0⟩,
  ⟨0x010018, [], 0xFFFFFFFF000FFF07, 0x0, 0x0, 0x0, 0x0, 0x0, 0x0, false, fun _ _ => 0x0⟩,
  ⟨0x010020, [], 0x0, 0x0, 0x0, 0x0, 0x0, 0x0, 0x0, false, fun _ _ => 0x0⟩,
  ⟨0x010028, [], 0x11FFF01FF, 0x0, 0x0, 0x100000000, 0x0, 0x0, 0x0, false, fun _ _ => 0x0⟩,
  ⟨0x010040, [], 0xFFFFFFFFFFFFFFFF, 0x0, 0x0, 0x0, 0x0, 0x0, 0x0, false, fun _ _ => 0x0⟩,
  ⟨0x010048, [], 0xFFFFFFFFFFFFFFFF, 0x0, 0x0, 0x0, 0x0, 0x0, 0x0, false, fun _ _ => 0x0⟩,
  ⟨0x010050, [], 0xFFFFFFFFFFFFFFFF, 0x0, 0x0, 0x0, 0x0, 0x0, 0x0, false, fun _ _ => 0x0⟩,
  ⟨0x010058, [], 0xFFFFFFFFFFFFFFFF, 0x0, 0x0, 0x0, 0x0, 0x0, 0x0, false, fun _ _ => 0x0⟩,
  ⟨0x010080, [], 0x7FFFFFFF, 0x7FFFFFFF, 0x0, 0x0, 0x0, 0x0, 0x7FFFFFFF, false, fun _ _ => 0x10F000⟩,
  ⟨0x010088, [], 0x11F0F, 0x11F0F, 0x0, 0x0, 0x0, 0x0, 0x11F0F, false, fun _ _ => 0x1040A⟩,
  ⟨0x010090, [], 0xFFFFFFFFFFFFFFFF, 0x0, 0x0, 0x0, 0x0, 0x0, 0x0, false, fun _ _ => 0x0⟩,
  ⟨0x011000, [(4096, 0x8)], 0xFFFCFF00F, 0x0, 0x0, 0x0, 0x0, 0x0, 0x0, false, fun _ _ => 0x0⟩,
  ⟨0x019000, [(1024, 0x8)], 0xFFFFFFFFFFFF, 0xFFFFFFFF, 0x0, 0x0, 0x0, 0x0, 0x0, false, fun _ _ => 0x0⟩,
  ⟨0x01C000, [(1024, 0x8)], 0xFFFFFFFFFFFFFFFF, 0xFFFFFFFFFFFFFFFF, 0x0, 0x0, 0x0, 0x0, 0xFFFFFFFFFFFFFFFF, false, fun _ _ => 0x0⟩]

/-- Registers of TRF, part 1: base, dimensions, masks known, RW, RWL, W1C, W1S, RC, saved. -/
def trf0 : List RegDef := [
  ⟨0x020000, [], 0x3FFF, 0x3FFF, 0x0, 0x0, 0x0, 0x0, 0x3FFF, false, fun _ _ => 0x1000⟩,
  ⟨0x020008, [], 0x7FFF7FFF3FFF, 0x0, 0x0, 0x0, 0x0, 0x0, 0x0, false, fun _ _ => 0x0⟩,
  ⟨0x020010, [], 0xFFFFFFFFFFFFFFFF, 0x0, 0x0, 0x0, 0x0, 0x0, 0x0, false, fun _ _ => 0x0⟩,
  ⟨0x020018, [], 0xFFFFFFFFFFFFFFFF, 0x0, 0x0, 0x0, 0x0, 0x0, 0x0, false, fun _ _ => 0x0⟩,
  ⟨0x020020, [], 0xFFFFFFFFFFFFFFFF, 0x0, 0x0, 0x0, 0x0, 0x0, 0x0, false, fun _ _ => 0x0⟩,
  ⟨0x020040, [], 0x0, 0x0, 0x0, 0x0, 0x0, 0x0, 0x0, false, fun _ _ => 0x0⟩,
  ⟨0x020048, [], 0x7FFFFF, 0x0, 0x0, 0x0, 0x0, 0x0, 0x0, false, fun _ _ => 0x0⟩,
  ⟨0x020080, [(8, 0x8)], 0xFFFFFFFFFFFFFFFF, 0x0, 0x0, 0x0, 0x0, 0x0, 0x0, false, fun _ _ => 0x0⟩,
  ⟨0x020100, [], 0xFFFF, 0xFFFF, 0x0, 0x0, 0x0, 0x0, 0xFFFF, false, fun _ _ => 0xE620⟩,
  ⟨0x020108, [], 0x800000FFFFFFFFFF, 0x0, 0x0, 0x0, 0x0, 0x0, 0x0, false, fun _ _ => 0x0⟩,
  ⟨0x020110, [], 0xFFFFFFFFFF, 0x0, 0x0, 0x0, 0x0, 0x0, 0x0, false, fun _ _ => 0x0⟩,
  ⟨0x020118, [], 0x771FFFF, 0x0, 0x0, 0x0, 0x0, 0x0, 0x0, false, fun _ _ => 0x10000⟩,
  ⟨0x020120, [], 0xFF0F71, 0xFF0F71, 0x0, 0x0, 0x0, 0x0, 0xFF0F71, false, fun _ _ => 0x80F60⟩,
  ⟨0x020128, [], 0xFF0F71, 0xFF0F71, 0x0, 0x0, 0x0, 0x0, 0xFF0F71, false, fun _ _ => 0x80F10⟩,
  ⟨0x020130, [], 0x1FFFF00FF, 0x1FFFF00FF, 0x0, 0x0, 0x0, 0x0, 0x1FFFF00FF, false, fun _ _ => 0x100800008⟩,
  ⟨0x020140, [(8, 0x8)], 0xFFFFFFFF000001FF, 0x0, 0x0, 0x0, 0x0, 0x0, 0x0, false, fun _ _ => 0x0⟩,
  ⟨0x021000, [(16, 0x40)], 0x7, 0x1, 0x0, 0x0, 0x6, 0x0, 0x1, false, fun _ _ => 0x0⟩,
  ⟨0x021008, [(16, 0x40)], 0xFFFFFFFF0000003F, 0x0, 0x0, 0x38, 0x0, 0x0, 0xFFFFFFFF0000003F, false, fun _ _ => 0x0⟩,
  ⟨0x021010, [(16, 0x40)], 0xFFFFFFFFFFFFFFFF, 0xFFFFFFFFFFFFFFFF, 0x0, 0x0, 0x0, 0x0, 0xFFFFFFFFFFFFFFFF, false, fun _ _ => 0x0⟩,
  ⟨0x021018, [(16, 0x40)], 0x1FFFFFFFFFF, 0x1FFFFFFFFFF, 0x0, 0x0, 0x0, 0x0, 0x1FFFFFFFFFF, false, fun _ _ => 0x0⟩]

/-- Registers of TRF, part 2: base, dimensions, masks known, RW, RWL, W1C, W1S, RC, saved. -/
def trf1 : List RegDef := [
  ⟨0x021020, [(16, 0x40)], 0xFFFFFFFFFFFFFFFF, 0x0, 0x0, 0x0, 0x0, 0x0, 0xFFFFFFFFFFFFFFFF, false, fun _ _ => 0x0⟩,
  ⟨0x021028, [(16, 0x40)], 0x1FFFFFFFFFF, 0x0, 0x0, 0x0, 0x0, 0x0, 0x1FFFFFFFFFF, false, fun _ _ => 0x0⟩,
  ⟨0x021030, [(16, 0x40)], 0xFFFFFFFFFFFFFFFF, 0x0, 0x0, 0x0, 0x0, 0x0, 0x0, false, fun _ _ => 0x0⟩,
  ⟨0x021038, [(16, 0x40)], 0xFFFFFFFFFFFFFFFF, 0x0, 0x0, 0x0, 0x0, 0x0, 0x0, false, fun _ _ => 0x0⟩,
  ⟨0x022000, [(64, 0x10)], 0xFFFFF07F03FF01FF, 0xFFFFF07F03FF01FF, 0x0, 0x0, 0x0, 0x0, 0xFFFFF07F03FF01FF, false, fun _ _ => 0x4000080004⟩,
  ⟨0x022008, [(64, 0x10)], 0xFFFFFFFF0000017F, 0x0, 0x0, 0x0, 0x0, 0xFFFFFFFF00000000, 0x0, false, fun _ _ => 0x0⟩,
  ⟨0x028000, [(16, 0x800), (2, 0x400), (128, 0x8)], 0xFFFFFFFFFFFFFFFF, 0xFFFFFFFFFFFFFFFF, 0x0, 0x0, 0x0, 0x0, 0xFFFFFFFFFFFFFFFF, false, fun _ _ => 0x0⟩]

/-- Registers of TRF. -/
def trf : List RegDef := trf0 ++ trf1

/-- Registers of ARB: base, dimensions, masks known, RW, RWL, W1C, W1S, RC, saved. -/
def arb : List RegDef := [
  ⟨0x030000, [], 0xFFFFFFFF, 0xFFFF, 0x0, 0x0, 0x0, 0x0, 0xFFFF, false, fun _ _ => 0x0⟩,
  ⟨0x030008, [], 0x7, 0x7, 0x0, 0x0, 0x0, 0x0, 0x7, false, fun _ _ => 0x5⟩,
  ⟨0x031000, [(8, 0x100)], 0xFFFFFF3F377F, 0xFFFFFF3F377F, 0x0, 0x0, 0x0, 0x0, 0xFFFFFF3F377F, false, fun _ _ => 0x400103F2202⟩,
  ⟨0x031008, [(8, 0x100)], 0x3F3F3F3F3F3F3F3F, 0x3F3F3F3F3F3F3F3F, 0x0, 0x0, 0x0, 0x0, 0x3F3F3F3F3F3F3F3F, false, fun _ _ => 0x3830282018100800⟩,
  ⟨0x031010, [(8, 0x100)], 0xFFFFFFFFFFFFFFFF, 0xFFFFFFFFFFFFFFFF, 0x0, 0x0, 0x0, 0x0, 0xFFFFFFFFFFFFFFFF, false, fun _ _ => 0x0⟩,
  ⟨0x031018, [(8, 0x100)], 0xFFFFFFFFFFFFFFFF, 0xFFFFFFFFFFFFFFFF, 0x0, 0x0, 0x0, 0x0, 0xFFFFFFFFFFFFFFFF, false, fun _ _ => 0x2000600000000000⟩,
  ⟨0x031020, [(8, 0x100)], 0xFFFFFFFFFFFFFFFF, 0xFFFFFFFFFFFFFFFF, 0x0, 0x0, 0x0, 0x0, 0xFFFFFFFFFFFFFFFF, false, fun _ _ => 0x0⟩,
  ⟨0x031028, [(8, 0x100)], 0xFFFFFFFFFFFFFFFF, 0xFFFFFFFFFFFFFFFF, 0x0, 0x0, 0x0, 0x0, 0xFFFFFFFFFFFFFFFF, false, fun _ _ => 0x0⟩,
  ⟨0x031030, [(8, 0x100)], 0xFFFFFFFFFFFFFFFF, 0x0, 0x0, 0x0, 0x0, 0x0, 0x0, false, fun _ _ => 0x0⟩,
  ⟨0x031038, [(8, 0x100)], 0xFFFFFFFFFFFFFFFF, 0x0, 0x0, 0x0, 0x0, 0x0, 0x0, false, fun _ _ => 0x0⟩,
  ⟨0x031040, [(8, 0x100)], 0xFFFFFFFFFFFFFFFF, 0x0, 0x0, 0x0, 0x0, 0x0, 0x0, false, fun _ _ => 0x0⟩,
  ⟨0x031048, [(8, 0x100)], 0xFFFFFFFFFFFFFFFF, 0x0, 0x0, 0x0, 0x0, 0x0, 0x0, false, fun _ _ => 0x0⟩,
  ⟨0x031050, [(8, 0x100)], 0xFFFFFFFFFFFFFFFF, 0x0, 0x0, 0x0, 0x0, 0x0, 0x0, false, fun _ _ => 0x0⟩,
  ⟨0x031058, [(8, 0x100)], 0xFFFFFFFFFFFFFFFF, 0x0, 0x0, 0x0, 0x0, 0x0, 0x0, false, fun _ _ => 0x0⟩,
  ⟨0x031060, [(8, 0x100)], 0xFFFFFFFFFFFFFFFF, 0x0, 0x0, 0x0, 0x0, 0xFFFFFFFFFFFFFFFF, 0x0, false, fun _ _ => 0x0⟩]

/-- Registers of NMU[n]: base, dimensions, masks known, RW, RWL, W1C, W1S, RC, saved. -/
def nmu : List RegDef := [
  ⟨0x040000, [(32, 0x800)], 0x1, 0x0, 0x0, 0x0, 0x1, 0x0, 0x0, false, fun _ _ => 0x0⟩,
  ⟨0x040008, [(32, 0x800)], 0xFFFF, 0xFFFF, 0x0, 0x0, 0x0, 0x0, 0xFFFF, false, fun _ _ => 0x40⟩,
  ⟨0x040010, [(32, 0x800)], 0xF13, 0x0, 0x0, 0x0, 0x0, 0x0, 0xF03, false, fun n _ => 2^(n % 4) * 2^8⟩,
  ⟨0x040040, [(32, 0x800)], 0xFFFFFFFFFFFFFFFF, 0x0, 0x0, 0x0, 0x0, 0x0, 0x0, false, fun _ _ => 0x0⟩,
  ⟨0x040048, [(32, 0x800)], 0xFFFFFFFFFFFFFFFF, 0x0, 0x0, 0x0, 0x0, 0x0, 0x0, false, fun _ _ => 0x0⟩,
  ⟨0x040050, [(32, 0x800)], 0xFFFFFFFFFFFFFFFF, 0x0, 0x0, 0x0, 0x0, 0x0, 0x0, false, fun _ _ => 0x0⟩,
  ⟨0x040058, [(32, 0x800)], 0xFFFFFFFFFFFFFFFF, 0x0, 0x0, 0x0, 0x0, 0x0, 0x0, false, fun _ _ => 0x0⟩,
  ⟨0x040060, [(32, 0x800)], 0xFFFFFFFFFFFFFFFF, 0x0, 0x0, 0x0, 0x0, 0x0, 0x0, false, fun _ _ => 0x0⟩,
  ⟨0x040068, [(32, 0x800)], 0xFFFFFFFFFFFFFFFF, 0x0, 0x0, 0x0, 0x0, 0x0, 0x0, false, fun _ _ => 0x0⟩,
  ⟨0x040070, [(32, 0x800)], 0xFFFFFFFFFFFFFFFF, 0x0, 0x0, 0x0, 0x0, 0x0, 0x0, false, fun _ _ => 0x0⟩,
  ⟨0x040078, [(32, 0x800)], 0xFFFFFFFFFFFFFFFF, 0x0, 0x0, 0x0, 0x0, 0x0, 0x0, false, fun _ _ => 0x0⟩]

/-- Registers of STK[s], part 1: base, dimensions, masks known, RW, RWL, W1C, W1S, RC, saved. -/
def stk0 : List RegDef := [
  ⟨0x100000, [(8, 0x20000)], 0x3FFFFFFF000, 0x3FFFFFFF000, 0x0, 0x0, 0x0, 0x0, 0x0, false, fun _ _ => 0x0⟩,
  ⟨0x100008, [(8, 0x20000)], 0x3FFFFFFF000, 0x3FFFFFFF000, 0x0, 0x0, 0x0, 0x0, 0x0, false, fun _ _ => 0x0⟩,
  ⟨0x100010, [(8, 0x20000)], 0x1, 0x1, 0x0, 0x0, 0x0, 0x0, 0x0, false, fun _ _ => 0x0⟩,
  ⟨0x100040, [(8, 0x20000), (4, 0x8)], 0xFFFFFFFFFFFFFFFF, 0xFFFFFFFFFFFFFFFF, 0x0, 0x0, 0x0, 0x0, 0x0, false, fun _ _ => 0x0⟩,
  ⟨0x100060, [(8, 0x20000), (4, 0x8)], 0xFFFFFFFFFFFFFFFF, 0xFFFFFFFFFFFFFFFF, 0x0, 0x0, 0x0, 0x0, 0x0, false, fun _ _ => 0x0⟩,
  ⟨0x100080, [(8, 0x20000), (4, 0x8)], 0xFFFFFFFFFFFFFFFF, 0xFFFFFFFFFFFFFFFF, 0x0, 0x0, 0x0, 0x0, 0x0, false, fun _ _ => 0x0⟩,
  ⟨0x1000A0, [(8, 0x20000), (4, 0x8)], 0xFFFFFFFFFFFFFFFF, 0xFFFFFFFFFFFFFFFF, 0x0, 0x0, 0x0, 0x0, 0x0, false, fun _ _ => 0x0⟩,
  ⟨0x100100, [(8, 0x20000)], 0x0, 0x0, 0x0, 0x0, 0x0, 0x0, 0x0, false, fun _ _ => 0x0⟩,
  ⟨0x100108, [(8, 0x20000)], 0x3, 0x0, 0x0, 0x3, 0x0, 0x0, 0x0, false, fun _ _ => 0x0⟩,
  ⟨0x100110, [(8, 0x20000)], 0xFFFFFFFFFFFFFFFF, 0x0, 0x0, 0x0, 0x0, 0xFFFFFFFFFFFFFFFF, 0x0, false, fun _ _ => 0x0⟩,
  ⟨0x100118, [(8, 0x20000)], 0x800003FFFFFFFFFF, 0x0, 0x0, 0x8000000000000000, 0x0, 0x0, 0x0, false, fun _ _ => 0x0⟩,
  ⟨0x100120, [(8, 0x20000)], 0xFFFFFFFFFF, 0x0, 0x0, 0x0, 0x0, 0x0, 0x0, false, fun _ _ => 0x0⟩,
  ⟨0x102000, [(8, 0x20000), (64, 0x8)], 0xC03F00000000007F, 0x0, 0x3F, 0x0, 0x0, 0x0, 0xC03F00000000007F, false, fun _ _ => 0x0⟩,
  ⟨0x102200, [(8, 0x20000)], 0xFFFFFFFFFFFFFFFF, 0x0, 0x0, 0x0, 0x0, 0x0, 0xFFFFFFFFFFFFFFFF, false, fun _ _ => 0x0⟩,
  ⟨0x102208, [(8, 0x20000)], 0xFFFFFFFFFFFFFFFF, 0x0, 0xFFFFFFFFFFFFFFFF, 0x0, 0x0, 0x0, 0xFFFFFFFFFFFFFFFF, false, fun _ _ => 0x0⟩,
  ⟨0x102210, [(8, 0x20000)], 0x3, 0x0, 0x1, 0x2, 0x0, 0x0, 0x0, false, fun _ _ => 0x0⟩,
  ⟨0x102220, [(8, 0x20000)], 0x0, 0x0, 0x0, 0x0, 0x0, 0x0, 0x0, false, fun _ _ => 0x0⟩,
  ⟨0x102228, [(8, 0x20000)], 0xFFFFF07F01FFFFFF, 0x0, 0x0, 0x4000000000000000, 0x0, 0x0, 0xFFFFF07F01FFFFFF, false, fun _ _ => 0x0⟩,
  ⟨0x102230, [(8, 0x20000)], 0xFFFFFFFFFFFFFFFF, 0x0, 0x0, 0x0, 0x0, 0x0, 0xFFFFFFFFFFFFFFFF, false, fun _ _ => 0x0⟩,
  ⟨0x102238, [(8, 0x20000)], 0xFFFFFFFFFFFFFFFF, 0x0, 0x0, 0x0, 0x0, 0x0, 0x0, false, fun _ _ => 0x0⟩]

/-- Registers of STK[s], part 2: base, dimensions, masks known, RW, RWL, W1C, W1S, RC, saved. -/
def stk1 : List RegDef := [
  ⟨0x102300, [(8, 0x20000)], 0xFFFFFFFF0000000F, 0x0, 0x0, 0x0, 0x0, 0xFFFFFFFF00000000, 0xFFFFFFFF0000000F, false, fun _ _ => 0x0⟩,
  ⟨0x102400, [(8, 0x20000), (16, 0x10)], 0xFFFFFFFFFFFFFFFF, 0x0, 0x0, 0x0, 0x0, 0x0, 0xFFFFFFFFFFFFFFFF, false, fun _ _ => 0x0⟩,
  ⟨0x102408, [(8, 0x20000), (16, 0x10)], 0x3FFFFFFFFFF, 0x0, 0x0, 0x0, 0x0, 0x0, 0x3FFFFFFFFFF, false, fun _ _ => 0x0⟩,
  ⟨0x103000, [(8, 0x20000)], 0xFFFFFFFFFFFF0001, 0xFFFFFFFFFFFF0001, 0x0, 0x0, 0x0, 0x0, 0xFFFFFFFFFFFF0001, false, fun _ _ => 0x4E202EE004000001⟩,
  ⟨0x103008, [(8, 0x20000)], 0xFFFFFF00FFFE3F3F, 0x0, 0x0, 0x0, 0x0, 0x0, 0xFFFFFF00FFFE3F3F, false, fun _ _ => 0x0⟩,
  ⟨0x103010, [(8, 0x20000)], 0x0, 0x0, 0x0, 0x0, 0x0, 0x0, 0x0, false, fun _ _ => 0x0⟩,
  ⟨0x103018, [(8, 0x20000)], 0x11F, 0x0, 0x0, 0x100, 0x0, 0x0, 0x0, false, fun _ _ => 0x0⟩,
  ⟨0x103020, [(8, 0x20000)], 0xFF, 0x0, 0x0, 0x0, 0x0, 0x0, 0xFF, false, fun _ _ => 0x0⟩,
  ⟨0x103028, [(8, 0x20000)], 0xFFFFFFFFFFFFFFFF, 0x0, 0x0, 0x0, 0x0, 0x0, 0x0, false, fun _ _ => 0x0⟩,
  ⟨0x103040, [(8, 0x20000)], 0xFFFFFFFFFFFFFFFF, 0x0, 0x0, 0x0, 0x0, 0x0, 0x0, false, fun _ _ => 0x0⟩,
  ⟨0x103048, [(8, 0x20000)], 0xFFFFFFFFFFFFFFFF, 0x0, 0x0, 0x0, 0x0, 0x0, 0x0, false, fun _ _ => 0x0⟩,
  ⟨0x103050, [(8, 0x20000)], 0xFFFFFFFFFFFFFFFF, 0x0, 0x0, 0x0, 0x0, 0x0, 0x0, false, fun _ _ => 0x0⟩,
  ⟨0x103058, [(8, 0x20000)], 0xFFFFFFFFFFFFFFFF, 0x0, 0x0, 0x0, 0x0, 0x0, 0x0, false, fun _ _ => 0x0⟩,
  ⟨0x103100, [(8, 0x20000), (64, 0x8)], 0xFFFFFFFFFFFFFFFF, 0x0, 0x0, 0x0, 0x0, 0x0, 0x0, false, fun _ _ => 0x0⟩,
  ⟨0x104000, [(8, 0x20000), (4, 0x20)], 0x87, 0x87, 0x0, 0x0, 0x0, 0x0, 0x87, false, fun _ k => if k = 0 then 0x80 else 0⟩,
  ⟨0x104008, [(8, 0x20000), (4, 0x20)], 0xFFFFFFFFFFFFFFFF, 0xFFFFFFFFFFFFFFFF, 0x0, 0x0, 0x0, 0x0, 0xFFFFFFFFFFFFFFFF, false, fun _ k => if k = 0 then 10 * 2^56 + 10 * 2^48 + 23 * 2^40 + 33 * 2^32 + 4 * 2^24 + 13 * 2^16 + 2 * 2^8 + 10 else 0⟩,
  ⟨0x104010, [(8, 0x20000), (4, 0x20)], 0xFFFFFFFFFF000000, 0xFFFFFFFFFF000000, 0x0, 0x0, 0x0, 0x0, 0xFFFFFFFFFF000000, false, fun _ k => if k = 0 then 12 * 2^56 + 6 * 2^48 + 10 * 2^40 + 4 * 2^32 + 8 * 2^24 else 0⟩,
  ⟨0x104018, [(8, 0x20000), (4, 0x20)], 0xFFFFFFFFFFF00000, 0xFFFFFFFFFFF00000, 0x0, 0x0, 0x0, 0x0, 0xFFFFFFFFFFF00000, false, fun _ k => if k = 0 then 3120 * 2^48 + 280 * 2^36 + 96 * 2^24 + 4 * 2^20 else 0⟩,
  ⟨0x104100, [(8, 0x20000)], 0x0, 0x0, 0x0, 0x0, 0x0, 0x0, 0x0, false, fun _ _ => 0x0⟩,
  ⟨0x104108, [(8, 0x20000)], 0xFFFFFFFF00000FFB, 0x0, 0x0, 0x380, 0x0, 0x0, 0x803, false, fun _ _ => 0x0⟩]

/-- Registers of STK[s], part 3: base, dimensions, masks known, RW, RWL, W1C, W1S, RC, saved. -/
def stk2 : List RegDef := [
  ⟨0x104110, [(8, 0x20000)], 0xF1, 0xF1, 0x0, 0x0, 0x0, 0x0, 0xF1, false, fun _ _ => 0x41⟩,
  ⟨0x104118, [(8, 0x20000)], 0x1F011F, 0x0, 0x0, 0x0, 0x0, 0x0, 0x0, false, fun _ _ => 0x0⟩,
  ⟨0x104180, [(8, 0x20000), (32, 0x8)], 0x9FBFBFBFBF, 0x0, 0x0, 0x0, 0x0, 0x0, 0x9FBFBFBFBF, false, fun _ _ => 0x0⟩,
  ⟨0x108000, [(8, 0x20000), (64, 0x200)], 0xFFFFF07F7F7F, 0xFFFFF07F7F7F, 0x0, 0x0, 0x0, 0x0, 0xFFFFF07F7F7F, false, fun _ _ => 0x20080180808⟩,
  ⟨0x108008, [(8, 0x20000), (64, 0x200)], 0x1FFFFFFFF, 0x1FFFFFFFF, 0x0, 0x0, 0x0, 0x0, 0x1FFFFFFFF, false, fun _ _ => 0x104000040⟩,
  ⟨0x108010, [(8, 0x20000), (64, 0x200)], 0xE10, 0x10, 0x0, 0x0, 0x0, 0x0, 0xE10, false, fun _ _ => 0x10⟩,
  ⟨0x108018, [(8, 0x20000), (64, 0x200)], 0xFFFF000000000007, 0x0, 0x0, 0x4, 0x0, 0xFFFF000000000000, 0x0, false, fun _ _ => 0x0⟩,
  ⟨0x108020, [(8, 0x20000), (64, 0x200)], 0x1037F7F7F7F, 0x0, 0x0, 0x0, 0x0, 0x0, 0x0, false, fun _ _ => 0x0⟩,
  ⟨0x108040, [(8, 0x20000), (64, 0x200)], 0xFFFFFFFFFFFFFFFF, 0x0, 0x0, 0x0, 0x0, 0x0, 0x0, false, fun _ _ => 0x0⟩,
  ⟨0x108048, [(8, 0x20000), (64, 0x200)], 0xFFFFFFFFFFFFFFFF, 0x0, 0x0, 0x0, 0x0, 0x0, 0x0, false, fun _ _ => 0x0⟩,
  ⟨0x108050, [(8, 0x20000), (64, 0x200)], 0xFFFFFFFFFFFFFFFF, 0x0, 0x0, 0x0, 0x0, 0x0, 0x0, false, fun _ _ => 0x0⟩,
  ⟨0x108058, [(8, 0x20000), (64, 0x200)], 0xFFFFFFFFFFFFFFFF, 0x0, 0x0, 0x0, 0x0, 0x0, 0x0, false, fun _ _ => 0x0⟩,
  ⟨0x108060, [(8, 0x20000), (64, 0x200)], 0xFFFFFFFFFFFFFFFF, 0x0, 0x0, 0x0, 0x0, 0x0, 0x0, false, fun _ _ => 0x0⟩,
  ⟨0x108068, [(8, 0x20000), (64, 0x200)], 0xFFFFFFFFFFFFFFFF, 0x0, 0x0, 0x0, 0x0, 0x0, 0x0, false, fun _ _ => 0x0⟩,
  ⟨0x108070, [(8, 0x20000), (64, 0x200)], 0xFFFFFFFFFFFFFFFF, 0x0, 0x0, 0x0, 0x0, 0x0, 0x0, false, fun _ _ => 0x0⟩,
  ⟨0x108078, [(8, 0x20000), (64, 0x200)], 0xFFFFFFFFFFFFFFFF, 0x0, 0x0, 0x0, 0x0, 0x0, 0x0, false, fun _ _ => 0x0⟩,
  ⟨0x108080, [(8, 0x20000), (64, 0x200)], 0xFFFFFFFF00000BF0, 0x0, 0x0, 0x0, 0x0, 0xFFFFFFFF000000F0, 0x0, false, fun _ _ => 0x0⟩,
  ⟨0x108088, [(8, 0x20000), (64, 0x200)], 0xFFFFFFFFFFFFFFFF, 0x0, 0x0, 0x0, 0x0, 0x0, 0x0, false, fun _ _ => 0x0⟩,
  ⟨0x108090, [(8, 0x20000), (64, 0x200)], 0xFFFFFFFFFFFFFFFF, 0x0, 0x0, 0x0, 0x0, 0x0, 0x0, false, fun _ _ => 0x0⟩,
  ⟨0x1080A0, [(8, 0x20000), (64, 0x200)], 0x3FBF, 0x0, 0x0, 0x0, 0x0, 0x0, 0x0, false, fun _ _ => 0x0⟩]

/-- Registers of STK[s], part 4: base, dimensions, masks known, RW, RWL, W1C, W1S, RC, saved. -/
def stk3 : List RegDef := [
  ⟨0x1080A8, [(8, 0x20000), (64, 0x200)], 0xFFFFFFFFFFFFFFFF, 0x0, 0x0, 0x0, 0x0, 0x0, 0x0, false, fun _ _ => 0x0⟩,
  ⟨0x1080B0, [(8, 0x20000), (64, 0x200)], 0xFFFFFFFFFFFFFFFF, 0x0, 0x0, 0x0, 0x0, 0x0, 0x0, false, fun _ _ => 0x0⟩,
  ⟨0x1080B8, [(8, 0x20000), (64, 0x200)], 0xFFFFFFFFFFFFFFFF, 0x0, 0x0, 0x0, 0x0, 0x0, 0x0, false, fun _ _ => 0x0⟩,
  ⟨0x1080C0, [(8, 0x20000), (64, 0x200)], 0xFFFFFFFFFFFFFFFF, 0x0, 0x0, 0x0, 0x0, 0x0, 0x0, false, fun _ _ => 0x0⟩,
  ⟨0x1080C8, [(8, 0x20000), (64, 0x200)], 0x0, 0x0, 0x0, 0x0, 0x0, 0x0, 0x0, false, fun _ _ => 0x0⟩,
  ⟨0x1080D0, [(8, 0x20000), (64, 0x200)], 0xFFFFFFFF0003FFFF, 0x0, 0x0, 0x20000, 0x0, 0x0, 0x0, false, fun _ _ => 0x0⟩,
  ⟨0x1080D8, [(8, 0x20000), (64, 0x200)], 0x7, 0x7, 0x0, 0x0, 0x0, 0x0, 0x7, false, fun _ _ => 0x5⟩,
  ⟨0x1080E0, [(8, 0x20000), (64, 0x200)], 0xFFFFFFFFFFFFFFFF, 0x0, 0x0, 0x0, 0x0, 0x0, 0x0, false, fun _ _ => 0x0⟩,
  ⟨0x1080E8, [(8, 0x20000), (64, 0x200)], 0xFFFFFFFFFFFF, 0x0, 0x0, 0x0, 0x0, 0xFFFFFFFFFFFF, 0x0, false, fun _ _ => 0x0⟩,
  ⟨0x1080F0, [(8, 0x20000), (64, 0x200)], 0xFFFFFFFFFFFFFFFF, 0x0, 0x0, 0x0, 0x0, 0x0, 0x0, false, fun _ _ => 0x0⟩,
  ⟨0x1080F8, [(8, 0x20000), (64, 0x200)], 0xFFFFFFFFFFFFFFFF, 0x0, 0x0, 0x0, 0x0, 0x0, 0x0, false, fun _ _ => 0x0⟩,
  ⟨0x108100, [(8, 0x20000), (64, 0x200)], 0xFFFFFFFFFFFFFFFF, 0x0, 0x0, 0x0, 0x0, 0x0, 0x0, false, fun _ _ => 0x0⟩,
  ⟨0x108108, [(8, 0x20000), (64, 0x200)], 0xFF00C0FF00FF00FF, 0x0, 0x0, 0x0, 0x0, 0x0, 0xFF00C0FF00FF00FF, false, fun _ _ => 0x0⟩,
  ⟨0x108110, [(8, 0x20000), (64, 0x200)], 0x1FFFF, 0x1FFFF, 0x0, 0x0, 0x0, 0x0, 0x1FFFF, false, fun _ _ => 0x10408⟩,
  ⟨0x108140, [(8, 0x20000), (64, 0x200), (16, 0x8)], 0xC000000001FFFFFF, 0x0, 0x0, 0x0, 0x0, 0x0, 0xC000000001FFFFFF, false, fun _ _ => 0x0⟩,
  ⟨0x1081C0, [(8, 0x20000), (64, 0x200)], 0xFFFFFFFFFFFFFFFF, 0x0, 0x0, 0x0, 0x0, 0x0, 0x0, false, fun _ _ => 0x0⟩,
  ⟨0x1081C8, [(8, 0x20000), (64, 0x200)], 0xFFFFFFFFFFFFFFFF, 0x0, 0x0, 0x0, 0x0, 0x0, 0x0, false, fun _ _ => 0x0⟩]

/-- Registers of STK[s]. -/
def stk : List RegDef := stk0 ++ stk1 ++ stk2 ++ stk3

/-- The register tables of the block that holds address `a` (Table 0.7). -/
def tableFor (a : Nat) : List RegDef :=
  if a < 0x004000 then glb
  else if a < 0x010000 then die
  else if a < 0x020000 then seq
  else if a < 0x030000 then trf
  else if a < 0x040000 then arb
  else if a < 0x100000 then nmu
  else stk

/-- The definition of the register at address `a`: none for an offset assigned to no register (R13). -/
@[irreducible] def find (a : Nat) : Option RegDef := (tableFor a).find? fun r => (r.resetAt a).isSome

/-- The reset value of the register at `a`; 0 where no register is (R13). -/
@[irreducible] def reset (a : Nat) : BitVec 64 := BitVec.ofNat 64 ((((find a).bind fun r => r.resetAt a)).getD 0)

end RegFile

end Sys2Proof.Machine
end

