-- ==== Sys2Proof/Machine/State.lean ====
section
/-! DEFINITION. The state of the block: everything the spec gives it that an outside party or a command can depend on.
Every register field is in `regs` (one home, keyed by control-port address); the other fields hold what no register
holds. All of it is plain data. -/

namespace Sys2Proof.Machine

/-- Why a command stops the machine. -/
inductive Fault where
  /-- An acknowledgement on a response channel that is idle (raised by RESPONSE_FLIT_ACK): R50 forbids it and gives it
  no effect. Safe: the block never sees it from a master that keeps R50. -/
  | ackOnIdleChannel
deriving DecidableEq, Repr

/-- Why a command has no meaning. -/
inductive Refusal where
  /-- The arm of the command in `exec` has no meaning yet. Safe: nothing is claimed of it. -/
  | notModelled (mnemonic : String)
deriving DecidableEq, Repr

/-- The build options (R4, Table 0.1) and the instance's number in the package (Table 2.19). -/
structure Build where
  nStacks : Nat
  height : Nat
  spares : Nat
  nmus : Bool
  bridge : Bool
  sibling : Nat
deriving DecidableEq, Repr

/-- An event record waiting in the event queue (Table 15.3). -/
structure Event where
  code : Nat
  unit : Nat
  stamp : Nat
  arg0 : Word
  arg1 : Word
deriving DecidableEq, Repr

/-- What the block reads or writes for itself, through lanes 17 to 19 or a launch stream: a descriptor (R128), the store's copy for a
LOAD (R142), a write-back (R129), a queue sample (R146), a slot word for a doorbell (R288), an event record (R427), a Tally write by its place in the sweep (R423),
a program's service traffic and instructions (R287, R294), the operands, results and parameter block of an NMU instruction (R331, R338), a migration chunk
(R279), a chunk of a check unit's scan and the word it is compared with (R361, R362); or what waits for a descriptor that a doorbell, or a
context, has to look at (R288, R297, R312). -/
inductive Own where
  | fetch (stream : Nat)
  | load (stream : Nat)
  | writeback (stream : Nat)
  | sample (stream : Nat)
  | bell (i : Nat)
  | event
  | sweep (i : Nat)
  | prog (slot i : Nat)
  | code (slot : Nat)
  | nmuRead (job k i : Nat)
  | nmuWrite (job k i : Nat)
  | param (job : Nat)
  | copyRead (k : Nat)
  | copyWrite (k : Nat)
  | scan (u i : Nat)
  | stored (u : Nat)
  | look (who : Option Nat)
deriving DecidableEq, Repr

/-- Who made a request that passes through the request records: a data port, the sibling over the Bridge, a
sequencer context, or the block for itself. -/
inductive Src where
  | port (n : Nat)
  | bridge
  | ctx (c : Nat)
  | own (o : Own)
deriving DecidableEq, Repr

/-- What has become of one atom of a request (R67, Table 2.11). -/
inductive AtomSt where
  | waiting
  | ok
  | poison
  | denied
  | lost
  | timeout
deriving DecidableEq, Repr

/-- One atom of a request: its outcome, whether a write of it has reached its visibility point (R70), its data. -/
structure AtomRes where
  st : AtomSt
  visible : Bool
  data : Atom
deriving DecidableEq, Repr

/-- A request accepted and not yet fully answered. `refused` holds the status of a request refused at the port (R68).
`started` counts the atoms its port group has started (R161); `deferred` is the end of the
window into which its next atom did not fit (R159); `red` the reduction binding of its stream
(RED_FMT, RED_KIND, RED_OP, R73) as served; `sorted` and `batch` the
flags SORT and BATCH of a sequencer's element (R301); `flits` the response flits sent (R65); `entered` when it entered its
stream (R146). -/
structure Req where
  src : Src
  origin : Nat
  op : Nat
  atoms : Nat
  addr : Nat
  mid : Nat
  stream : Nat
  label : Nat
  tag : Nat
  page : Nat
  order : Bool
  colour : Nat
  arrival : Nat
  red : Nat
  data : Payload
  be : BitVec 256
  wpoison : BitVec 64
  res : List AtomRes
  refused : Option Nat
  started : Nat
  deferred : Option Nat
  forwarded : Bool
  sorted : Bool
  batch : Bool
  flits : Nat
  lastSent : Bool
  fenceDone : Bool
  probe : Word
  entered : Nat
deriving DecidableEq, Repr

/-- A response flit on its way to the master (Table 2.10). -/
structure Flit where
  req : Nat
  label : Nat
  index : Nat
  last : Bool
  dv : Bool
  op : Nat
  status : Nat
  mid : Nat
  tag : Nat
  apoison : BitVec 4
  data : BitVec 2048
deriving DecidableEq, Repr

/-- Why a header flit stays unacknowledged: the port was never enabled (R78), no credit (R77), no miss slot (R131). -/
inductive HoldWhy where
  | notEnabled
  | noCredit
  | noMissSlot
deriving DecidableEq, Repr

/-- A header flit held unacknowledged on a request channel, with the whole request it begins: its flits, whether the next header cut it
off (R63); `lost` once the credit it consumed is not to be returned (R76, R78). -/
structure HeldHdr where
  why : HoldWhy
  op : Nat
  header : BitVec 128
  flits : Nat
  cut : Bool
  data : Payload
  be : BitVec 256
  lost : Bool
deriving DecidableEq, Repr

/-- A credit a request has consumed and that has not been returned (R76): `acked` once the LAST flit is acknowledged. -/
structure Spent where
  req : Nat
  label : Nat
  acked : Bool
deriving DecidableEq, Repr

/-- What a data port holds beside its registers; `crs` are the credit messages that its last enable or credit return sent (Table 2.14). -/
structure Port where
  everEn : Bool
  credited : Bool
  credits : SMap Nat
  spent : List Spent
  hdr : Option HeldHdr
  rsq : List Flit
  since : Nat
  crs : List CrMsg
deriving DecidableEq, Repr

/-- A port as reset leaves it. -/
def Port.init : Port := ⟨false, false, [], [], none, [], 0, []⟩

/-- A request forwarded over the Bridge and not answered (R84, R86): its Bridge header (R83), when it was forwarded, and whether it has had
a credit of the sibling's (R75). -/
structure Fwd where
  req : Nat
  header : BitVec 128
  since : Nat
  sent : Bool
deriving DecidableEq, Repr

/-- A PC map as it stood when an edit opened (R106). -/
structure MapSave where
  entries : List Word
  failed : Word
  spare : Word
deriving DecidableEq, Repr

/-- An access window (R108): a range of 4 KiB granules and four masks of 256 master groups. -/
structure Window where
  valid : Bool
  base : Nat
  limit : Nat
  read : BitVec 256
  write : BitVec 256
  fetch : BitVec 256
  nmu : BitVec 256
deriving DecidableEq, Repr

/-- A window's reset state (R113). -/
def Window.init : Window := ⟨false, 0, 0, 0, 0, 0, 0⟩

/-- States of a stream cache entry (Table 4.2). -/
inductive CacheSt where
  | free | filling | idle | busy | draining | writeback
deriving DecidableEq, Repr

/-- The colour of a stream's head (R136): `uncoloured` when the queue is empty. -/
inductive Colour where
  | uncoloured | green | yellow | red
deriving DecidableEq, Repr

/-- A stream cache entry. `desc` holds the eight words of Table 4.1; `old` the words still served while DRAINING
(R144). `start`, `hcls`, `hpg` and the words `head` belong to the eligible head; `sampled` is the cadence value of the last sample (R146). -/
structure Entry where
  st : CacheSt
  stream : Nat
  desc : Atom
  old : Atom
  fin : Nat
  queue : List Nat
  colour : Colour
  start : Nat
  hcls : Nat
  hpg : Nat
  head : Atom
  evict : Bool
  pinned : Bool
  last : Nat
  sampled : Option Nat
deriving DecidableEq, Repr

/-- A free entry. -/
def Entry.init : Entry := ⟨.free, 0, 0, 0, 0, [], .uncoloured, 0, 0, 0, 0, false, false, 0, none⟩

/-- A stream miss waiting for its fetch (R130): the requests that wait with it, whether it has found an entry, the port whose slot it holds
(R131), and whether it has had to wait for an entry. -/
structure Miss where
  stream : Nat
  reqs : List Nat
  started : Bool
  port : Option Nat
  waited : Bool
deriving DecidableEq, Repr

/-- A STREAM_CMD that has not completed (R141), from the control port or from a context (R312); `begun` once it has begun the fetch or the
write-back that it waits for. -/
structure SCmd where
  stream : Nat
  op : Nat
  tokZero : Bool
  force : Bool
  ctx : Option Nat
  begun : Bool
deriving DecidableEq, Repr

/-- The armed list of a port group (R153). -/
structure GateArm where
  t : Nat
  cycle : Nat
  len : Nat
deriving DecidableEq, Repr

/-- What a piece does at its PCC. The Bow engine writes and reads canaries (R366, R367), scans for retention and writes what it finds
uncorrectable poisoned (R367), and sanitises (R368). The PCC makes the last ten itself: the read and the write of a merge entry (R267), a
zero-map line's fill and write-back (R216), the reads of a Fret install and removal and their writes (R271, R272), poisoned atoms (R217), the
PHY's reads of the training row (R249). -/
inductive PKind where
  | read | write | partialWrite | atomicAdd | probe | rewrite
  | canaryWrite | canaryRead | retain | sanWrite
  | mergeRead | mergeWrite | fill | lineWrite | fretRead | fretTake | fretWrite | fretBack | poisonWrite | track
deriving DecidableEq, Repr

/-- The masks of an access window, as DENY_INFO.MASK numbers them. -/
inductive AMask where
  | read | write | fetch | nmu
deriving DecidableEq, Repr

/-- Origin of a piece for checks and records (Table 3.19, Table 9.6). -/
inductive POrigin where
  | port (n : Nat) | ctx (c : Nat) | nmu (n : Nat) | bow | service
deriving DecidableEq, Repr

/-- States of a piece (Table 7.1). `lane` before its ingress output; `drain` when every burst has been handed and read
data is still to come. -/
inductive PieceSt where
  | lane | held | queued | opening | column | parked | confirm | drain
deriving DecidableEq, Repr

/-- A piece of a request (R67): `n` atoms in consecutive columns of one row of one bank, from atom `first` of the
request, the first with PC-local index `u`; with `inMeta` a metadata atom, `u` its number. `slotless` work of the PCC takes no
request-buffer slot; `aged` says whether its key rises with age (Table 6.3). `checks` are the masks its decode checks, `dest` the
physical PC it goes to whatever the map says (R279). `sortable` and `batchEnd` are its marks for the sort buffer (R219, R220). `todo`
lists the atoms that still need a burst, `pend` those whose data is still to come, `conf` whether the
zero-map line is awaited, `guess` the atoms not read because of the guess and `got` the data that waits for the line
(R215) or for an NMU (R333), with whether it is poisoned and whether it was uncorrectable; `zpend` the atoms whose map update waits (R216), `left` those that a REWRITE, a retention scan or an atomic
add has still to write, `wr` whether it has come to its writes. -/
structure Piece where
  id : Nat
  req : Nat
  first : Nat
  n : Nat
  kind : PKind
  lane : Nat
  org : POrigin
  cls : Nat
  label : Nat
  arrival : Nat
  mid : Nat
  page : Nat
  order : Bool
  stream : Nat
  red : Nat
  addr : Nat
  stack : Nat
  lpc : Nat
  ppc : Nat
  bank : Nat
  row : Nat
  u : Nat
  inMeta : Bool
  slotless : Bool
  aged : Bool
  checks : List AMask
  dest : Option Nat
  sortable : Bool
  batchEnd : Bool
  data : List Atom
  be : List (BitVec 64)
  poison : List Bool
  aging : Nat
  since : Nat
  st : PieceSt
  slot : Nat
  beats : Nat
  todo : List Nat
  pend : List Nat
  conf : Bool
  guess : List Nat
  got : List (Nat × Atom × Bool × Bool)
  zpend : List Nat
  left : List Nat
  wr : Bool
  hold : Bool
  holdAt : Nat
deriving DecidableEq, Repr

/-- States of an ingress output (Table 6.6). -/
inductive OutSt where
  | run | soft | hard | drained
deriving DecidableEq, Repr

/-- Hardware holds (Table 6.7) and the hold of a stack in training (R248). -/
inductive HwHold where
  | retire | trim | freq | train
deriving DecidableEq, Repr

/-- An ingress output: its state, when the present hold was set and whether CAPO_DRAIN_SLOW has been posted for it,
when it entered HARD, the last winner of its rotation and the last of the four NMUs that lane 17 offered there (R186), and the
hardware holds on it and on its PCC. -/
structure Output where
  st : OutSt
  holdAt : Nat
  warned : Bool
  hardAt : Nat
  rot : Nat
  nmuRot : Nat
  hwIng : List HwHold
  hwPcc : List HwHold
deriving DecidableEq, Repr

/-- An output as reset leaves it. -/
def Output.init : Output := ⟨.run, 0, false, 0, 19, 3, [], []⟩

/-- The present quota window of a stack (R189): its start, atoms granted by class, classes masked. -/
structure Quota where
  window : Nat
  counts : List Nat
  masked : List Nat
deriving DecidableEq, Repr

/-- A quota window with nothing granted. -/
def Quota.init : Quota := ⟨0, [0, 0, 0, 0, 0, 0, 0, 0], []⟩

/-- States of a bank engine (Table 7.2). -/
inductive BankSt where
  | closed | openIdle | owned | refreshing
deriving DecidableEq, Repr

/-- A bank engine: open row, governing hint, owner, page timer, the count of R206, refresh debt (R234), whether a command to it has
been declined (R24), last slots of its commands (slot + 1; 0 = never), its rotation. `due` is its next due point in tCK since the PCC
started refreshing; none before its first, at (i + 1) × TREFI / (m × 16H) (R234; log entry 29). -/
structure Bank where
  st : BankSt
  row : Option Nat
  hint : Nat
  owner : Option Nat
  idleAt : Nat
  expired : Bool
  hits : Nat
  missKey : Option Nat
  owed : Nat
  due : Option Nat
  refHanded : Bool
  declined : Bool
  ap : Bool
  act : Nat
  pre : Nat
  ref : Nat
  rot : Nat
deriving DecidableEq, Repr

/-- A closed bank. -/
def Bank.init : Bank := ⟨.closed, none, 0, none, 0, false, 0, none, 0, none, false, false, false, 0, 0, 0, 191⟩

/-- Commands to the stack. -/
inductive CmdKind where
  | act | pre | ref | rd | wr
deriving DecidableEq, Repr

/-- A command handed to the warden and not yet confirmed (R23, R243): bank, row; for a column command the piece and
its atom, the atom's number, its device address or metadata offset and fold, for a read the word the stack will return and for
a write the word written, the lane of its piece, the slot at which it was handed over, whether it carries auto-precharge, whether it has been issued
before, its place among the commands issued (0: not issued), and what its PCC key is formed from (R244). For a REFRESH `piece` is 1 at key 8, for an
ACTIVATE 1 for a hint. -/
structure Cmd where
  kind : CmdKind
  bank : Nat
  row : Nat
  piece : Nat
  atom : Nat
  u : Nat
  inMeta : Bool
  addr : Nat
  fold : BitVec 40
  stored : Stored
  lane : Nat
  hand : Nat
  ap : Bool
  seen : Bool
  ord : Nat
  confirmed : Bool
  cls : Nat
  label : Nat
  arrival : Nat
  aged : Bool
deriving DecidableEq, Repr

/-- The command the row path has granted (R181): ACTIVATE, PRECHARGE or REFRESH, whether at key 8, whether for a hint, and whether the
refresh machine asked for it. -/
structure RowCmd where
  kind : CmdKind
  bank : Nat
  row : Nat
  key8 : Bool
  hint : Bool
  refresh : Bool
deriving DecidableEq, Repr

/-- Stages of a merge entry (R267). -/
inductive MergeSt where
  | reading | merged
deriving DecidableEq, Repr

/-- A merge entry: the request's atom, its PC-local index and device address, enabled bytes, new bytes, the old atom once it has been
obtained; once MERGED the merged atom and its poison (R268). -/
structure Merge where
  id : Nat
  req : Nat
  atom : Nat
  u : Nat
  addr : Nat
  lpc : Nat
  lane : Nat
  org : POrigin
  cls : Nat
  label : Nat
  arrival : Nat
  aged : Bool
  be : BitVec 64
  new : Atom
  st : MergeSt
  old : Option (Atom × Bool)
  data : Atom
  poison : Bool
deriving DecidableEq, Repr

/-- States of a zero-map line (R216). -/
inductive ZLineSt where
  | filling | clean | dirty | writeback
deriving DecidableEq, Repr

/-- A change of a map bit recorded while its line fills (R216): the place in buffer order of the write that made it, the bit and its
new value. -/
structure ZUpd where
  id : Nat
  bit : Nat
  v : Bool
deriving DecidableEq, Repr

/-- A zero-map line: its number, state, bits, the changes recorded while it fills, when it was last used, the place in buffer order of
the piece that caused its fill and what that piece's key is formed from, the word its fill has read, and whether that read has failed
(R282). -/
structure ZLine where
  line : Nat
  st : ZLineSt
  bits : BitVec 512
  upds : List ZUpd
  used : Nat
  cause : Nat
  cls : Nat
  label : Nat
  arrival : Nat
  aged : Bool
  word : Option Stored
  bad : Bool
deriving DecidableEq, Repr

/-- A fault suspect (R272): atom, corrected symbols, whether written since. -/
structure Suspect where
  u : Nat
  mask : BitVec 72
  written : Bool
deriving DecidableEq, Repr

/-- Stages of a Fret install or removal (R271, R272): its read to come, its write to come, its write handed over. -/
inductive FretSt where
  | reading | writing | written
deriving DecidableEq, Repr

/-- A Fret install or removal (R271, R272): its place in buffer order, its atom, its entry, whether the programmer asked for it, whether it
is a removal, its stage, whether its read was uncorrectable. -/
structure FretJob where
  id : Nat
  u : Nat
  entry : Nat
  byCmd : Bool
  remove : Bool
  st : FretSt
  lost : Bool
deriving DecidableEq, Repr

/-- States of the replay engine (Table 8.6, Table 8.19). -/
inductive ReplaySt where
  | run | halt | retrain | reopen | reissue | fullTrain | lostLanes
deriving DecidableEq, Repr

/-- A PC controller. `buf` holds the request buffer in buffer order, with the PCC's own work, which takes no slot; `rb` the
commands handed and not confirmed, in warden order, `issued` the count of commands issued; `env` what the retrain of the present replay
meets, `fullOnce` whether its full training has been used, `ropen` the banks whose rows a replay has still to close, or has opened, with
those rows (R244); `clock` the PHY clock in tCK since the PCC started refreshing, as far as its commands and due points have shown it. -/
structure Pcc where
  buf : List Piece
  banks : SMap Bank
  writeMode : Bool
  column : Option Nat
  rowCmd : Option RowCmd
  rotCol : Nat
  rotRow : Nat
  rb : List Cmd
  issued : Nat
  slot : Nat
  acts : List Nat
  recent : List Nat
  lastCol : Nat
  lastRd : Nat
  lastWr : Nat
  clock : Nat
  replay : ReplaySt
  attempts : Nat
  fullOnce : Bool
  env : TrainEnv
  ropen : List (Nat × Nat)
  merges : List Merge
  lines : List ZLine
  pred : SMap Nat
  suspects : List Suspect
  ueList : List Nat
  fretQ : List FretJob
  hints : List (Nat × Nat)
  zflush : Bool
deriving DecidableEq, Repr

/-- A PCC as reset leaves it. -/
def Pcc.init : Pcc where
  buf := []
  banks := []
  writeMode := false
  column := none
  rowCmd := none
  rotCol := 64
  rotRow := 64
  rb := []
  issued := 0
  slot := 0
  acts := []
  recent := []
  lastCol := 0
  lastRd := 0
  lastWr := 0
  clock := 0
  replay := .run
  attempts := 0
  fullOnce := false
  env := ⟨[], []⟩
  ropen := []
  merges := []
  lines := []
  pred := []
  suspects := []
  ueList := []
  fretQ := []
  hints := []
  zflush := false

/-- The step of Table 9.4 a retirement stands at. -/
inductive MigSt where
  | clearing | startHold | copying | swapHold
deriving DecidableEq, Repr

/-- The retirement running at a stack (Table 9.4): logical PC, old and new physical PC, when step 1 began, the atom at
which the chunk being copied starts, the salvage list. -/
structure Mig where
  st : MigSt
  lpc : Nat
  src : Nat
  dst : Nat
  began : Nat
  chunk : Option Nat
  oldLost : Bool
deriving DecidableEq, Repr

/-- The headroom monitor beside its registers (R31, R32): consecutive short samples, the cadence value of the first of
them, whether HEADROOM_LOW stands, and the sample instant last taken (in units of 1,024 ct). -/
structure Headroom where
  shortRun : Nat
  firstShort : Nat
  low : Bool
  sampled : Nat
deriving DecidableEq, Repr

/-- States of a program slot (Table 10.3). -/
inductive SlotSt where
  | free | queued | loading | running | waiting | saving | swapped | finishing
deriving DecidableEq, Repr

/-- How a program ends (R316): trapped or not, the trap's code and arguments, the PC of the record, whether words 4 to
39 are written. -/
structure Ending where
  trapped : Bool
  code : Nat
  arg0 : Nat
  arg1 : Nat
  pc : Nat
  words : Bool
deriving DecidableEq, Repr

/-- The on-die entry of a program slot (R289): what the doorbell and the slot's words 0 to 3 gave, the class and port
group of the launch stream at acceptance (R287), whether its state has been saved, the PC it holds, an abort that waits
for LOADING or SAVING to end, the counts of its record (R302), and how it ends. `tokWait` is the wait it was saved
from; `wedged` follows a parity error in the entry (R320). -/
structure Slot where
  st : SlotSt
  mid : Nat
  priv : Bool
  pin : Bool
  event : Bool
  launch : Nat
  seqnum : Nat
  ctx : Option Nat
  code : Nat
  tb0 : Nat
  stream : Nat
  label : Nat
  done : Nat
  cls : Nat
  pg : Nat
  saved : Bool
  pc : Nat
  tokWait : Bool
  abort : Bool
  wedged : Bool
  copied : Nat
  unwritten : Nat
  firstPoison : Option Nat
  fin : Option Ending
deriving DecidableEq, Repr

/-- A free slot. -/
def Slot.init : Slot :=
  ⟨.free, 0, false, false, false, 0, 0, none, 0, 0, 0, 0, 0, 0, 0, false, 0, false, false, false, 0, 0, none, none⟩

/-- A loop entry (R313). -/
structure LoopEnt where
  start : Nat
  body : Nat
  remaining : Nat
deriving DecidableEq, Repr

/-- What a context waits for (R308, R309, R312). -/
inductive Wait where
  | cadence (target : Nat)
  | token (t : Nat)
  | load
deriving DecidableEq, Repr

/-- An instruction in progress: its words, how far its index reads, data reads, writes, and the hints ahead of reads and writes have come (in atoms),
the index atoms and the read atoms that wait for their use, and the value a CHECK has to store. -/
structure Cur where
  word : BitVec 128
  ipos : Nat
  rpos : Nat
  wpos : Nat
  hpos : Nat
  hwpos : Nat
  idx : List (Nat × Atom)
  got : List (Nat × Atom × Bool)
  stored : Option Nat
deriving DecidableEq, Repr

/-- A sequencer context (R291): the program's registers, its loop stack (innermost first), fetch buffer, wait, the
cadence values at which it left LOADING and began to wait, the instruction in progress, and a trap of an ASYNC
instruction waiting for the next boundary (R306). -/
structure Ctx where
  slot : Nat
  pc : Nat
  tb : Nat
  stream : Nat
  a : List Nat
  c : List Nat
  loops : List LoopEnt
  fetch : Option (Nat × Atom)
  wait : Option Wait
  waitAt : Nat
  runAt : Nat
  cur : Option Cur
  asyncTrap : Option Ending
deriving DecidableEq, Repr

/-- A waiter of a token (R309): its slot and N. -/
structure Waiter where
  slot : Nat
  n : Nat
deriving DecidableEq, Repr

/-- A change of a stack's timing set in progress (Table 8.5), or a lane chain that waits for the stack to drain (R253):
the set to go to, what training will meet, when it began; `next` the set of a programmer's change that a chain put off
(Table 8.9). -/
structure PhyJob where
  chain : Bool
  set : Nat
  env : TrainEnv
  began : Nat
  next : Option Nat
deriving DecidableEq, Repr


/-- The pacing of a Bow duty (R364): t0 and the bytes since. -/
structure Pace where
  t0 : Nat
  bytes : Nat
deriving DecidableEq, Repr

/-- A canary operation of a Bow engine (Table 12.3): it writes or reads the canaries from linear position `pos` on, or scans the banks that
differed, from row `row` of bank number `i` on. -/
inductive CanarySt where
  | idle
  | writing (pos : Nat)
  | checking (pos : Nat)
  | scanning (i row : Nat)
deriving DecidableEq, Repr

/-- A Bow engine beside its registers: the pacing of migration copies, of scans and of the scrub, the physical PCs the last canary write
covered (R366), the canary operation that runs, and the linear position of the next chunk of a sanitisation (R368). -/
structure Bow where
  copy : Pace
  scan : Pace
  scrub : Pace
  covered : Nat
  canary : CanarySt
  san : Nat
deriving DecidableEq, Repr

/-- A Bow engine as reset leaves it. -/
def Bow.init : Bow := ⟨⟨0, 0⟩, ⟨0, 0⟩, ⟨0, 0⟩, 0, .idle, 0⟩

/-- States of a check unit (Table 12.1). -/
inductive ChkSt where
  | idle
  | heldCp
  | heldSeq (c : Nat)
  | scanning (k : Nat)
deriving DecidableEq, Repr

/-- A check unit beside its registers: the configuration latched when it left IDLE (R355), its register, the folded words so far, for a
scan the address of the atom to be fed next, and the address up to which its reads have started. -/
structure Chk where
  st : ChkSt
  width : Nat
  poly : Nat
  xorout : Nat
  refin : Bool
  refout : Bool
  fold : Nat
  foldBase : Nat
  crc : Nat
  i : Nat
  pos : Nat
  started : Nat
deriving DecidableEq, Repr

/-- An idle check unit. -/
def Chk.init : Chk := ⟨.idle, 0, 0, 0, false, false, 0, 0, 0, 0, 0, 0⟩

/-- An NMU instruction handed to the NMUs (R305, R331): its context and slot, where it stands, its words and whether it is
ASYNC; the operand extents as its launch derived them (base and length, by role); its work atoms, those that are done, the
parameter block once read; the counts of R348, and for each sampled tile max(e) and max(m) of every narrow output in order
(R346). `scan` holds what each work atom of a scan has given
(R343): its group sums, its largest magnitude, its zeros and its non-finite elements. `began` is the launch's cadence value. -/
structure Job where
  ctx : Nat
  slot : Nat
  pc : Nat
  word : BitVec 128
  async : Bool
  ext : List (Nat × Nat)
  atoms : Nat
  done : List Nat
  params : Option Atom
  lost : Nat
  zero : Nat
  tiles : SMap (List (Nat × Nat))
  scan : SMap (List Nat)
  began : Nat
deriving DecidableEq, Repr

/-- The states of the power manager (Table 13.1), and `dead` where the Drone has no supply. -/
inductive PwrSt where
  | active | quietEntry | quiet | entering | retain | waking | restored | checking | off | dead
deriving DecidableEq, Repr

/-- The Drone domain beside its registers: whether the core and PHYs are supplied; R_entry, C_entry and C_last (Table 13.3);
the estimated ticks of the present sleep and the real ticks since SLOWCLK resumed (R390); the wake sources held (R380), and
those that began the exit in progress; the step of Table 13.3 at which an entry stands, and whether it leads to OFF (Table 13.1); the
cadence value at which step 6 of the entry was reached where it waits for the sibling, and whether the sibling has
reached its own (R392); in a wake, once the cadence PLL has locked, what a training would meet (Table 13.4, step 2). -/
structure Drone where
  supplied : Bool
  rEntry : Nat
  cEntry : Nat
  cLast : Nat
  estTicks : Nat
  runTicks : Nat
  held : Nat
  waking : Nat
  step : Nat
  toOff : Bool
  joint : Option Nat
  sibReady : Bool
  locked : Option TrainEnv
deriving DecidableEq, Repr

/-- The image in Drone SRAM (R384), complete: the saved register bits and what the saved lists hold. -/
structure Image where
  regs : SMap Word
  windows : SMap Window
  gates : SMap GateArm
  salvage : SMap (List Nat)
  ueLists : SMap (List Nat)
  migs : SMap (Option Mig)
  migReasons : SMap Nat
deriving DecidableEq, Repr

/-- A Tally sweep that runs (R423): the buffer's base, the counter read next, the cadence values of the first and the last
read, whether a write has failed, and whether the first header is still to be written. -/
structure Sweep where
  base : Nat
  next : Nat
  first : Nat
  last : Nat
  lost : Bool
  opened : Bool
deriving DecidableEq, Repr

/-- The block. `syncAt` is the counter and what was left of a pause when the last SYNC edge had been taken (R45); `nmuSince` when each NMU last
completed an item (R351), `nmuTurn` the share, or 4 for atomic work, that it served last (R335, R351). -/
structure State where
  pending : List Instr
  cpWaiting : List Instr
  regs : SMap Word
  cpRData : Word
  cpErr : Bool
  free : Nat
  build : Build
  peg : SMap Word
  cadence : Nat
  pauseLeft : Nat
  syncAt : Option (Nat × Nat)
  headroom : Headroom
  ports : SMap Port
  reqs : SMap Req
  nextReq : Nat
  nextPiece : Nat
  fwds : SMap Fwd
  bridgeCr : SMap Nat
  mapSave : SMap (Option MapSave)
  windows : SMap Window
  cache : SMap Entry
  misses : List Miss
  scmds : List SCmd
  cacheFull : Bool
  vtime : SMap Nat
  gates : SMap GateArm
  lanes : List Piece
  sorting : List Piece
  outputs : SMap Output
  quota : SMap Quota
  pccs : SMap Pcc
  mults : SMap Nat
  dram : SMap Stored
  fills : SMap (Option Nat)
  migs : SMap (Option Mig)
  migReasons : SMap Nat
  salvage : SMap (List Nat)
  events : List Event
  dropCount : Nat
  dropStamp : Nat
  phyJobs : SMap (Option PhyJob)
  slots : SMap Slot
  launchQ : List Nat
  ctxs : SMap (Option Ctx)
  waiters : SMap (List Waiter)
  bows : SMap Bow
  chks : SMap Chk
  jobs : SMap Job
  nextJob : Nat
  nmuSince : SMap Nat
  nmuTurn : SMap Nat
  nmuLast : SMap Nat
  power : PwrSt
  drone : Drone
  image : Option Image
  levels : SMap Nat
  fuses : SMap Word
  prog : Word
  ucode : SMap Word
  trainLost : Nat
  sweep : Option Sweep
  tallyAt : Nat
deriving DecidableEq, Repr

/-- The largest configuration (Table 1.1) with two spare PCs and NMUs, no Bridge (DESIGN CHOICE, log entry 4). -/
def Build.largest : Build := ⟨8, 16, 2, true, false, 0⟩

/-- The Peg bank of a device with no failed PC, no lane repair, lifecycle state 0 and default trims (Table 14.2): word 2 holds
the build, words 16 to 143 say that every spare lane is unused, word 251 is the CRC (R410). -/
def pegReset : SMap Word :=
  (2, 0x100218) :: (List.range 128).map (fun i => (16 + i, 0x3FFFFFFF3FFFFFFF)) ++
    (List.range 8).map (fun k => (144 + k, 0x40400404)) ++ [(251, 0x448618A6)]

/-- Registers of stack `k` that reset leaves at other values than the register tables': entry l of the PC map names physical
PC l (R105), PCs 62 and 63 are spare, the scrub runs (R365), the stack has reported its height (R227). -/
def stackReset (k : Nat) : SMap Word :=
  (List.range 61).map (fun l => (A.pcmapEntry k (l + 1), BitVec.ofNat 64 (l + 1))) ++
    [(A.pcmapSpare k, 0xC000000000000000), (A.bowStatus k, 1), (A.phyStackInfo k, 0x100000)]

/-- Registers that reset leaves at other values than the register tables': READY and CAUSE (R434), one entry into ACTIVE and one
into OFF (R391), the trims of Table 14.4, and those of the stacks. DESIGN CHOICE, log entry 20. -/
def regsReset : SMap Word :=
  (A.glbResetStatus, 0x11) :: (A.pwrEnt 0, 1) :: (A.pwrEnt 3, 1) ::
    (List.range 8).flatMap (fun k => [(A.fusPhyTrim k, 0x40400404), (A.fusPhyTrimActive k, 0x40400404)]) ++
    (List.range 8).flatMap stackReset

/-- The block right after the full reset that follows core power-on (R433, R434): READY, RESET_DONE queued, memory with nothing
listed, every queue empty. -/
def State.reset : State where
  pending := []
  cpWaiting := []
  regs := regsReset
  cpRData := 0
  cpErr := false
  free := 0
  build := Build.largest
  peg := pegReset
  cadence := 0
  pauseLeft := 0
  syncAt := none
  headroom := ⟨0, 0, false, 0⟩
  ports := []
  reqs := []
  nextReq := 1
  nextPiece := 64
  fwds := []
  bridgeCr := []
  mapSave := []
  windows := []
  cache := []
  misses := []
  scmds := []
  cacheFull := false
  vtime := []
  gates := []
  lanes := []
  sorting := []
  outputs := []
  quota := []
  pccs := []
  mults := []
  dram := []
  fills := []
  migs := []
  migReasons := []
  salvage := []
  events := [⟨0x041C, 0, 0, 1, 0⟩]
  dropCount := 0
  dropStamp := 0
  phyJobs := []
  slots := []
  launchQ := []
  ctxs := []
  waiters := []
  bows := []
  chks := []
  jobs := []
  nextJob := 0
  nmuSince := []
  nmuTurn := []
  nmuLast := []
  power := .active
  drone := ⟨true, 0, 0, 0, 0, 0, 0, 0, 0, false, none, false, none⟩
  image := none
  levels := []
  fuses := pegReset
  prog := 0
  ucode := []
  trainLost := 0
  sweep := none
  tallyAt := 0

end Sys2Proof.Machine
end

