-- ==== Sys2Proof/Machine/Ops.lean ====
section
/-! DEFINITION. The named operations every meaning uses: register fields, counters, event records, the cadence, the
records of State, and the choice an arbiter makes. -/

namespace Sys2Proof.Machine

/-- Bits [hi:lo] of a number. -/
def bitsOf (w hi lo : Nat) : Nat := w / 2 ^ lo % 2 ^ (hi + 1 - lo)

/-- `w` with bits [hi:lo] replaced by the low bits of `v`. -/
def bitsPut (w hi lo v : Nat) : Nat :=
  w / 2 ^ (hi + 1) * 2 ^ (hi + 1) + v % 2 ^ (hi + 1 - lo) * 2 ^ lo + w % 2 ^ lo

/-- A Bool as the value of a one-bit field. -/
def bit (b : Bool) : Nat := if b then 1 else 0

/-- A number read as a signed value of `w` bits. -/
def signed (w v : Nat) : Int := if v % 2 ^ w < 2 ^ (w - 1) then (v % 2 ^ w : Nat) else (v % 2 ^ w : Nat) - (2 ^ w : Nat)

/-- A signed value in `w` bits. -/
def unsigned (w : Nat) (v : Int) : Nat := (v % (2 ^ w : Nat)).toNat

/-- Division rounding up. -/
def ceilDiv (a b : Nat) : Nat := (a + b - 1) / b

/-- The register at control-port address `a` as it is held (the fields another part of State holds are added when a
register is read, see RegRead). -/
def State.reg (s : State) (a : Nat) : Word := SMap.get s.regs (RegFile.reset a) a

/-- Hold `w` in the register at `a`. -/
def State.setReg (s : State) (a : Nat) (w : Word) : State := { s with regs := SMap.put s.regs (RegFile.reset a) a w }

/-- A register field's value. -/
def State.fget (s : State) (f : Fld) : Nat := bitsOf (s.reg f.addr).toNat f.hi f.lo

/-- The bits of a field lie in a word, in order. -/
abbrev Fld.Ok (f : Fld) : Prop := f.lo ≤ f.hi ∧ f.hi < 64

/-- Two fields do not share a bit. -/
abbrev Fld.Apart (f g : Fld) : Prop := f.addr ≠ g.addr ∨ g.hi < f.lo ∨ f.hi < g.lo

/-- Set a register field. -/
def State.fset (s : State) (f : Fld) (v : Nat) : State :=
  s.setReg f.addr (BitVec.ofNat 64 (bitsPut (s.reg f.addr).toNat f.hi f.lo v))

/-- A one-bit field as a Bool. -/
def State.flag (s : State) (f : Fld) : Bool := s.fget f == 1

/-- Set a field that is a flag or a sticky bit to 1. -/
def State.raise (s : State) (f : Fld) : State := s.fset f 1

/-- Add `n` to a counter, modulo its width (R418). -/
def State.count (s : State) (f : Fld) (n : Nat) : State := s.fset f (s.fget f + n)

/-- Add `n` to a field that saturates. -/
def State.countSat (s : State) (f : Fld) (n : Nat) : State :=
  s.fset f (min (2 ^ (f.hi + 1 - f.lo) - 1) (s.fget f + n))

/-- Bit `i` of a 64-bit mask register. -/
def State.maskBit (s : State) (f : Fld) (i : Nat) : Bool := (s.fget f).testBit i

/-- Write bit `i` of a mask register. -/
def State.setMaskBit (s : State) (f : Fld) (i : Nat) (b : Bool) : State :=
  s.fset f (bitsPut (s.fget f) i i (bit b))

/-- Post an event (R426): a record in the event queue stamped with the present cadence value, or, with 64 records
queued, a drop (R428). -/
def State.post (s : State) (code unit : Nat) (arg0 arg1 : Nat) : State :=
  if s.events.length < 64 then
    { s with events := s.events ++ [⟨code, unit, s.cadence, BitVec.ofNat 64 arg0, BitVec.ofNat 64 arg1⟩] }
  else
    { (s.countSat F.glbEvStatus_DROPPED 1) with
      dropCount := s.dropCount + 1
      dropStamp := if s.dropCount = 0 then s.cadence else s.dropStamp }

/-- The next free value's index is used up (DESIGN CHOICE, log entry 2). -/
def State.freed (s : State) : State := { s with free := s.free + 1 }

/-- The cadence counter advances: locked and not pausing (R37, R40). -/
def State.running (s : State) : Bool := s.flag F.glbCadStatus_LOCKED && !s.flag F.glbCadStatus_PAUSING

/-- The block at the moment a happening due at cadence value `due` takes place: the counter has reached `due`; none
while the counter stands and `due` is ahead (DESIGN CHOICE, log entry 8). -/
def State.atCadence (s : State) (due : Nat) : Option State :=
  if due ≤ s.cadence then some s
  else if s.running then some { s with cadence := due } else none

/-- The control port answers: the core is powered (R373). -/
def State.cpUp (s : State) : Bool :=
  match s.power with
  | .retain | .waking | .off | .dead => false
  | _ => true

/-- A STREAM_CMD of the control port has not completed: its write is not answered yet (R141), and no command behind it takes
effect before it has (R88). DEDUCED, log entry 3. -/
def State.cpStream (s : State) : Bool := s.scmds.any fun c => c.ctx == none

/-- A control-port command: while the core has no power it waits, unacknowledged (R373), and so do those behind it; it waits
behind a command that has not taken effect (R88). Its response carries CP_ERR = 0 unless its address is no multiple of 8 (R89). -/
def State.cpDo (s : State) (c : Instr) (f : State → State) : Host.Outcome State Fault Refusal :=
  .next (if s.cpUp && s.cpWaiting == [] && !s.cpStream then f { s with cpErr := false } else { s with cpWaiting := s.cpWaiting ++ [c] })

/-- A control-port command for a stack: the registers of a stack that is not built ignore writes (R13). -/
def State.cpStk (s : State) (k : Fin 8) (c : Instr) (f : State → State) : Host.Outcome State Fault Refusal :=
  s.cpDo c fun s => if k.val < s.build.nStacks then f s else s

/-- The core runs, the stacks are out of self-refresh and the pads are not latched (Tables 13.1 and 13.3, R383). -/
def State.coreOn (s : State) : Bool :=
  match s.power with
  | .active | .quietEntry | .quiet | .checking => true
  | .entering => decide (s.drone.step < 6)
  | _ => false

/-- SIDs of a stack (R4). -/
def Build.H (b : Build) : Nat := b.height / 4

/-- Logical PCs of a stack (R99). -/
def Build.N (b : Build) : Nat := 64 - b.spares

/-- Data rows of a bank (R98). -/
def dataRows : Nat := 24527

/-- Data atoms of a PC: D × 16H × 16. -/
def Build.dataAtoms (b : Build) : Nat := dataRows * (16 * b.H) * 16

/-- GLB.ADDR_SIZE (R99). -/
def Build.addrSize (b : Build) : Nat := b.nStacks * b.N * (16 * b.H) * dataRows * 1024

/-- GLB.ADDR_BASE (R96). -/
def Build.addrBase (b : Build) : Nat := if b.bridge then b.sibling * 0x20000000000 else 0

/-- Whether `[a, a + n)` lies wholly within the instance range (R96). -/
def Build.inRange (b : Build) (a n : Nat) : Bool := b.addrBase ≤ a && a + n ≤ b.addrBase + b.addrSize

/-- The built stacks. -/
def State.stacks (s : State) : List Nat := List.range s.build.nStacks

/-- The bin of stack `k`'s active set; codes 5 to 7 count as 0 (Table 8.10). -/
def State.stackBin (s : State) (k : Nat) : Nat :=
  let b := s.fget (F.phyTsetCtl_BIN k (s.fget (F.phyFreqStatus_ACTIVE k)))
  if b ≤ 4 then b else 0

/-- The instance bin: the highest active on any built stack (R233). -/
def State.instBin (s : State) : Nat := s.stacks.foldl (fun m k => max m (s.stackBin k)) 0

def State.port (s : State) (n : Nat) : Port := SMap.get s.ports Port.init n
def State.setPort (s : State) (n : Nat) (p : Port) : State := { s with ports := SMap.put s.ports Port.init n p }
def State.modPort (s : State) (n : Nat) (f : Port → Port) : State := s.setPort n (f (s.port n))

def State.req? (s : State) (i : Nat) : Option Req := SMap.get? s.reqs i
def State.putReq (s : State) (i : Nat) (r : Req) : State := { s with reqs := SMap.insert s.reqs i r }
def State.modReq (s : State) (i : Nat) (f : Req → Req) : State :=
  match s.req? i with
  | some r => s.putReq i (f r)
  | none => s
def State.dropReq (s : State) (i : Nat) : State := { s with reqs := SMap.erase s.reqs i }

/-- The index of PCC `p` of stack `k`, for every map kept per physical PC. -/
def pcIx (k p : Nat) : Nat := k * 64 + p

def State.pcc (s : State) (k p : Nat) : Pcc := SMap.get s.pccs Pcc.init (pcIx k p)
def State.setPcc (s : State) (k p : Nat) (c : Pcc) : State :=
  { s with pccs := SMap.put s.pccs Pcc.init (pcIx k p) c }
def State.modPcc (s : State) (k p : Nat) (f : Pcc → Pcc) : State := s.setPcc k p (f (s.pcc k p))

def State.out (s : State) (k p : Nat) : Output := SMap.get s.outputs Output.init (pcIx k p)
def State.setOut (s : State) (k p : Nat) (o : Output) : State :=
  { s with outputs := SMap.put s.outputs Output.init (pcIx k p) o }
def State.modOut (s : State) (k p : Nat) (f : Output → Output) : State := s.setOut k p (f (s.out k p))

def State.bow (s : State) (k : Nat) : Bow := SMap.get s.bows Bow.init k
def State.setBow (s : State) (k : Nat) (b : Bow) : State := { s with bows := SMap.put s.bows Bow.init k b }

def Pcc.bank (c : Pcc) (b : Nat) : Bank := SMap.get c.banks Bank.init b
def Pcc.setBank (c : Pcc) (b : Nat) (x : Bank) : Pcc := { c with banks := SMap.put c.banks Bank.init b x }
def Pcc.modBank (c : Pcc) (b : Nat) (f : Bank → Bank) : Pcc := c.setBank b (f (c.bank b))

/-- Change the buffered piece with number `id`. -/
def Pcc.modPiece (c : Pcc) (id : Nat) (f : Piece → Piece) : Pcc :=
  { c with buf := c.buf.map fun q => if q.id = id then f q else q }

/-- Apply `f` once for each element, left to right. -/
def State.forEach {α : Type} (s : State) (l : List α) (f : State → α → State) : State := l.foldl f s

/-- An arbiter's choice (R177): the highest key; among equals the first in rotation order after the last winner, of
`n` requesters numbered from 0. Candidates are (number, key). DESIGN CHOICE, log entry 69. -/
def arbitrate (n last : Nat) (l : List (Nat × Nat)) : Option Nat :=
  (l.foldl (fun (b : Option (Nat × Nat)) c =>
    match b with
    | none => some c
    | some d =>
      if d.2 < c.2 || (d.2 == c.2 && (c.1 + 2 * n - last - 1) % n < (d.1 + 2 * n - last - 1) % n)
      then some c else some d) none).map (·.1)

/-- The urgency of a request of age `age` under TARGET `t` (R162). -/
def urgency (age t : Nat) : Nat :=
  if t = 0 then 0 else if t ≤ age then 4 else if 7 * t ≤ 8 * age then 3
  else if 3 * t ≤ 4 * age then 2 else if t ≤ 2 * age then 1 else 0

/-- The urgency now of a request or piece accepted at `arrival` under `label`. -/
def State.urgencyOf (s : State) (arrival label : Nat) : Nat :=
  urgency (s.cadence - arrival) (s.fget (F.trfLabelCfg_TARGET label))

/-- The PCC key of class `c` at urgency `u` (R181). -/
def pccKey (c u : Nat) : Nat := if c = 7 then 7 else if u = 4 then 6 else min 6 (c + u)

/-- The stack and physical PC as event arguments carry them (R196). -/
def argPc (k p : Nat) : Nat := k + p * 2 ^ 8

/-- The unit field of a level-2 or level-3 event (Table 15.3): stack, and physical PC where the event names one. -/
def unitPc (k p : Nat) : Nat := k * 2 ^ 8 + p

end Sys2Proof.Machine
end

