-- ==== Sys2Proof/Machine/Fields.lean ====
section
/-! DEFINITION. The words of a program's instructions: opcodes, flags and fields (R294, Tables 10.4 and 10.5), and the element formats of NMU
instructions (R324, R328). -/

namespace Sys2Proof.Machine

/-- The opcode of an instruction. -/
def insOp (w : Nat) : Nat := bitsOf w 127 120

/-- Opcodes (Table 10.4). -/
def iMove : Nat := 0x01
def iFill : Nat := 0x02
def iGather : Nat := 0x03
def iScatter : Nat := 0x04
def iRewrite : Nat := 0x05
def iUpdate : Nat := 0x10
def iReduce : Nat := 0x11
def iCast : Nat := 0x12
def iCheck : Nat := 0x18
def iWaitCadence : Nat := 0x20
def iWaitToken : Nat := 0x21
def iSignal : Nat := 0x22
def iFence : Nat := 0x23
def iGateSwap : Nat := 0x28
def iSetStream : Nat := 0x29
def iLoop : Nat := 0x30
def iBranch : Nat := 0x31
def iEnd : Nat := 0x3E
def iTrap : Nat := 0x3F

/-- A flag of an instruction (Table 10.5). -/
def flEvent (w : Nat) : Bool := w.testBit 118
def flBatch (w : Nat) : Bool := w.testBit 117
def flSort (w : Nat) : Bool := w.testBit 116
def flAsync (w : Nat) : Bool := w.testBit 115
def flNoHint (w : Nat) : Bool := w.testBit 114
def flInc (w : Nat) : Bool := w.testBit 113
def flLr (w : Nat) : Bool := w.testBit 112

/-- The instruction takes a 40-bit length. -/
def hasLen (op : Nat) : Bool := (1 ≤ op && op ≤ 5) || (0x10 ≤ op && op ≤ 0x12) || op == iCheck

/-- A MOVE, FILL, GATHER, SCATTER, REWRITE or CHECK (Table 10.6, check 9). -/
def onStream (op : Nat) : Bool := (1 ≤ op && op ≤ 5) || op == iCheck

/-- An NMU instruction. -/
def isNmu (op : Nat) : Bool := 0x10 ≤ op && op ≤ 0x12

/-- Fields shared by the data instructions (Table 10.4). -/
def fR1 (w : Nat) : Nat := bitsOf w 111 108
def fR2 (w : Nat) : Nat := bitsOf w 107 104
def fR3 (w : Nat) : Nat := bitsOf w 103 100
def fEsz (w : Nat) : Nat := bitsOf w 96 94
def fCb (w : Nat) : Nat := bitsOf w 99 97
def fCr (w : Nat) : Nat := bitsOf w 105 103

/-- Fields of NMU_UPDATE. -/
def uOp (w : Nat) : Nat := bitsOf w 87 85
def uRv (w : Nat) : Nat := bitsOf w 99 96
def uRg (w : Nat) : Nat := bitsOf w 95 92
def uRp (w : Nat) : Nat := bitsOf w 91 88
def uGfmt (w : Nat) : Nat := bitsOf w 84 81
def uMfmt (w : Nat) : Nat := bitsOf w 80 77
def uVfmt (w : Nat) : Nat := bitsOf w 76 73
def uTag (w : Nat) : Nat := bitsOf w 72 61

/-- Fields of NMU_REDUCE. -/
def rK (w : Nat) : Nat := bitsOf w 103 101 + 1
def rFmt (w : Nat) : Nat := bitsOf w 100 97
def rKind (w : Nat) : Nat := bitsOf w 96 94
def rOp (w : Nat) : Nat := bitsOf w 93 92

/-- Fields of NMU_CAST. -/
def cSfmt (w : Nat) : Nat := bitsOf w 103 100
def cDfmt (w : Nat) : Nat := bitsOf w 99 96
def cKind (w : Nat) : Nat := bitsOf w 95 93

/-- The update keeps a first moment, a second moment, a remainder (Table 11.4). -/
def updHasM (op : Nat) : Bool := op == 0 || op == 1 || op == 3 || op == 4
def updHasV (op : Nat) : Bool := op == 0 || op == 3
def updComp (op : Nat) : Bool := op ≤ 2

/-- The paired layout is selected (R337). -/
def uPaired (w : Nat) : Bool := updHasV (uOp w) && fR3 w == uRv w

/-- Bits per element of a format (Table 11.1). -/
def fmtBits (f : Nat) : Nat := if f = 1 then 32 else if f = 2 ∨ f = 3 then 16 else if f = 8 then 4 else 8

/-- A microscaling format (R328). -/
def isMx (f : Nat) : Bool := 6 ≤ f && f ≤ 9

/-- Bytes of `n` elements of format `f`, scale bytes included (R328). -/
def fmtBytes (n f : Nat) : Nat := n * fmtBits f / 8 + (if isMx f then n / 32 else 0)

end Sys2Proof.Machine
end

