-- ==== Sys2Proof/Machine/AddrMap.lean ====
section
/-! DEFINITION. Where a device address lies (R96–R103), the PC map as decodes use it (R104, R280), master groups and the
access tables (R107–R112). -/

namespace Sys2Proof.Machine

/-- The digits an interleave order splits an offset into (Table 3.3). -/
inductive Dig where
  | byte | colLo | colHi | col | stack | lpc | bg | bank | sid | row
deriving DecidableEq, Repr

/-- The location of a byte (R101). -/
structure Loc where
  byte : Nat
  col : Nat
  stack : Nat
  lpc : Nat
  bg : Nat
  bank : Nat
  sid : Nat
  row : Nat
deriving DecidableEq, Repr

/-- The radix of a digit (Table 3.3). -/
def Dig.radix (b : Build) : Dig → Nat
  | .byte => 64
  | .colLo => 4
  | .colHi => 4
  | .col => 16
  | .stack => b.nStacks
  | .lpc => b.N
  | .bg => 4
  | .bank => 4
  | .sid => b.H
  | .row => dataRows

/-- The digits of an order, least significant first (Table 3.3). -/
def orderDigits (o : Nat) : List Dig :=
  if o = 0 then [.byte, .colLo, .stack, .lpc, .colHi, .bg, .bank, .sid, .row]
  else if o = 1 then [.byte, .col, .lpc, .stack, .bg, .bank, .sid, .row]
  else if o = 2 then [.byte, .bg, .stack, .lpc, .bank, .col, .sid, .row]
  else [.byte, .col, .lpc, .bg, .bank, .sid, .row, .stack]

/-- Mixed-radix digits: each the remainder of the running quotient, the last the whole quotient (R101). -/
def splitDigits : List Nat → Nat → List Nat
  | [], _ => []
  | [_], a => [a]
  | r :: rs, a => a % r :: splitDigits rs (a / r)

/-- The number with the given mixed-radix digits. -/
def joinDigits : List Nat → List Nat → Nat
  | r :: rs, d :: ds => d + r * joinDigits rs ds
  | _, _ => 0

/-- Place a digit in a location. -/
def Loc.put (l : Loc) : Dig → Nat → Loc
  | .byte, v => { l with byte := v }
  | .colLo, v => { l with col := l.col / 4 * 4 + v }
  | .colHi, v => { l with col := l.col % 4 + 4 * v }
  | .col, v => { l with col := v }
  | .stack, v => { l with stack := v }
  | .lpc, v => { l with lpc := v }
  | .bg, v => { l with bg := v }
  | .bank, v => { l with bank := v }
  | .sid, v => { l with sid := v }
  | .row, v => { l with row := v }

/-- A digit of a location. -/
def Loc.dig (l : Loc) : Dig → Nat
  | .byte => l.byte
  | .colLo => l.col % 4
  | .colHi => l.col / 4
  | .col => l.col
  | .stack => l.stack
  | .lpc => l.lpc
  | .bg => l.bg
  | .bank => l.bank
  | .sid => l.sid
  | .row => l.row

/-- The location of offset `a` under order `o` (R101). -/
def decodeOffset (b : Build) (o a : Nat) : Loc :=
  ((orderDigits o).zip (splitDigits ((orderDigits o).map (Dig.radix b)) a)).foldl
    (fun l dv => l.put dv.1 dv.2) ⟨0, 0, 0, 0, 0, 0, 0, 0⟩

/-- The offset of a location under order `o`. -/
def encodeOffset (b : Build) (o : Nat) (l : Loc) : Nat :=
  joinDigits ((orderDigits o).map (Dig.radix b)) ((orderDigits o).map l.dig)

/-- The linear bank of a location (R103). -/
def Loc.lin (l : Loc) : Nat := l.sid * 16 + l.bg * 4 + l.bank

/-- The PC-local atom index u (R103). -/
def Loc.u (b : Build) (l : Loc) : Nat := (((l.row * b.H + l.sid) * 4 + l.bank) * 4 + l.bg) * 16 + l.col

/-- The location of atom `u` of logical PC `lpc` of stack `k`. -/
def locOfU (b : Build) (k lpc u : Nat) : Loc :=
  ⟨0, u % 16, k, lpc, u / 16 % 4, u / 64 % 4, u / 256 % b.H, u / (256 * b.H)⟩

/-- The device address of atom `u` of logical PC `lpc` of stack `k` under order `o`. -/
def addrOfU (b : Build) (o k lpc u : Nat) : Nat := b.addrBase + encodeOffset b o (locOfU b k lpc u)

/-- The interleave order in force. -/
def State.order (s : State) : Nat := s.fget F.glbAddrCfg_ORDER

/-- The location of device address `a` now. -/
def State.locOf (s : State) (a : Nat) : Loc := decodeOffset s.build s.order (a - s.build.addrBase)

/-- The number under which the first atom of the last row of bank 0 is held: the last row is no part of the metadata space (Table 3.1, R103),
and its atoms are numbered bank × 16 + column from here. -/
def lastBase : Nat := 2 ^ 24

/-- Linear bank and row of metadata offset `m` (R103), or of an atom of the last row. -/
def metaBank (b : Build) (m : Nat) : Nat := if lastBase * 64 ≤ m then (m - lastBase * 64) / 1024 else m / 1024 % (16 * b.H)
def metaRow (b : Build) (m : Nat) : Nat := if lastBase * 64 ≤ m then dataRows + 48 else dataRows + m / 1024 / (16 * b.H)

/-- The zero-map line of atom `u`: the metadata atom number of its map word (R103, Zero-atom elision). -/
def zLineOf (u : Nat) : Nat := (1024 + 8 * (u / 64)) / 64

/-- The bit of atom `u` in its zero-map line. -/
def zBitOf (u : Nat) : Nat := (1024 + 8 * (u / 64)) % 64 * 8 + u % 64

/-- Whether atom `u`'s zero-map line is in the atom's own bank (same-bank). -/
def sameBank (b : Build) (u : Nat) : Bool := metaBank b (zLineOf u * 64) == (locOfU b 0 0 u).lin

/-- The fold of a data atom at device address `a` (R260). -/
def dataFold (a : Nat) : BitVec 40 := BitVec.ofNat 40 (a / 64 % 2 ^ 36)

/-- The fold of metadata atom `m` (offset / 64) of logical PC `lpc` of stack `k` (R260). -/
def metaFold (k lpc m : Nat) : BitVec 40 := BitVec.ofNat 40 (8 * 2 ^ 36 + k * 2 ^ 33 + lpc * 2 ^ 27 + m % 2 ^ 16)

/-- The logical PC that physical PC `p` of stack `k` serves: named by an entry in service or migrating, or the target
of a migration (R272); none for a spare, a failed PC or the PC of a lost entry. -/
def State.lpcOf (s : State) (k p : Nat) : Option Nat :=
  (List.range s.build.N).find? fun l =>
    let st := s.fget (F.pcmapEntry_STATE k l)
    (st != 3 && s.fget (F.pcmapEntry_PPC k l) == p) || (st == 1 && s.fget (F.pcmapEntry_TARGET k l) == p)

/-- Where a piece of logical PC `lpc` at atom `u` goes at its ingress decision (R104, R280). -/
inductive Route where
  | goes (p : Nat)
  | wait
  | lost
deriving DecidableEq, Repr

/-- The retirement running at a stack. -/
def State.mig (s : State) (k : Nat) : Option Mig := SMap.get s.migs none k

def State.setMig (s : State) (k : Nat) (m : Option Mig) : State := { s with migs := SMap.put s.migs none k m }

/-- The old PC of the migration of logical PC `lpc` has been lost (R283). -/
def State.oldLost (s : State) (k lpc : Nat) : Bool := (s.mig k).any fun m => m.lpc == lpc && m.oldLost

/-- R104 and R280; pieces at or above the pointer have nowhere to go once the old PC is lost (R283). -/
def State.route (s : State) (k lpc u : Nat) : Route :=
  let st := s.fget (F.pcmapEntry_STATE k lpc)
  if st = 3 then .lost
  else if st != 1 && s.oldLost k lpc then .lost
  else if st = 1 then
    if u / 16 * 16 + 16 ≤ s.fget (F.migStatus_POINTER k) then .goes (s.fget (F.pcmapEntry_TARGET k lpc))
    else match s.mig k with
      | some m =>
        if m.oldLost then .lost
        else if m.chunk = some (u / 16 * 16) then .wait
        else .goes (s.fget (F.pcmapEntry_PPC k lpc))
      | none => .goes (s.fget (F.pcmapEntry_PPC k lpc))
  else .goes (s.fget (F.pcmapEntry_PPC k lpc))

/-- The master group of a master ID (R107). -/
def State.group (s : State) (mid : Nat) : Nat := s.fget (F.groupOf mid)

def AMask.code : AMask → Nat
  | .read => 0
  | .write => 1
  | .fetch => 2
  | .nmu => 3

def Window.mask (w : Window) : AMask → BitVec 256
  | .read => w.read
  | .write => w.write
  | .fetch => w.fetch
  | .nmu => w.nmu

def State.window (s : State) (k w : Nat) : Window := SMap.get s.windows Window.init (k * 128 + w)

/-- The deciding window of address `a` at stack `k`: the lowest-numbered that matches (R108). -/
def State.deciding (s : State) (k a : Nat) : Option Nat :=
  (List.range 128).find? fun i =>
    let w := s.window k i
    w.valid && w.base ≤ a / 4096 && a / 4096 ≤ w.limit

/-- A refusal by an access table: the deciding window, if one matched, and the mask that refused (R112). -/
structure Denial where
  window : Option Nat
  mask : AMask
deriving DecidableEq, Repr

/-- The access check (R108, R109): none when every listed mask grants group `g`. -/
def State.access (s : State) (k a g : Nat) (masks : List AMask) : Option Denial :=
  match s.deciding k a with
  | none => masks.head?.map fun m => ⟨none, m⟩
  | some i => (masks.find? fun m => !((s.window k i).mask m).getLsbD g).map fun m => ⟨some i, m⟩

/-- Code and unit of a piece's origin in DENY_INFO (Table 3.19). -/
def POrigin.source : POrigin → Nat × Nat
  | .port n => (0, n)
  | .ctx c => (1, c)
  | .nmu n => (2, n)
  | .bow => (3, 0)
  | .service => (3, 0)

/-- A denial at stack `k` (R112): counted, and captured with ACC_DENIED posted when the capture is free. -/
def State.deny (s : State) (k a mid : Nat) (o : POrigin) (d : Denial) : State :=
  let s := s.count (F.accDenied_COUNT k) 1
  if s.flag (F.accDenyAddr_VALID k) then s
  else
    let s := (s.fset (F.accDenyAddr_ADDR k) a).raise (F.accDenyAddr_VALID k)
    let s := s.setReg (A.accDenyInfo k) (BitVec.ofNat 64
      (s.group mid * 2 ^ 32 + mid * 2 ^ 20 + o.source.1 * 2 ^ 18 + d.mask.code * 2 ^ 16 + o.source.2 * 2 ^ 8 +
        (match d.window with | none => 2 ^ 7 | some w => w)))
    s.post 0x0301 (unitPc k 0) (s.reg (A.accDenyAddr k)).toNat (s.reg (A.accDenyInfo k)).toNat

/-- The masks of a piece's operation (Table 3.10). An NMU access is the read or write mask, and the NMU mask. -/
def PKind.masks : PKind → List AMask
  | .read => [.read]
  | .probe => [.read]
  | .write => [.write]
  | .partialWrite => [.write]
  | .atomicAdd => [.write, .nmu]
  | .rewrite => [.read, .write]
  | .canaryWrite => []
  | .canaryRead => []
  | .retain => []
  | .sanWrite => []
  | .mergeRead => []
  | .mergeWrite => []
  | .fill => []
  | .lineWrite => []
  | .fretRead => []
  | .fretTake => []
  | .fretWrite => []
  | .fretBack => []
  | .poisonWrite => []
  | .track => []

/-- The probe record (Table 2.12) of address `a` for master group `g`, in the deciding window `w`. INSTANCE is 1
for a probe that came over the Bridge: the owner is the requester's sibling (DEDUCED, log entry 9). -/
def State.probeRecord (s : State) (a g w : Nat) (fromBridge : Bool) : Nat :=
  let l := s.locOf a
  let k := l.stack
  let u := l.u s.build
  let st := s.fget (F.pcmapEntry_STATE k l.lpc)
  let below := u / 16 * 16 + 16 ≤ s.fget (F.migStatus_POINTER k)
  let pcst := if st = 3 then 3 else if st = 1 then (if below then 1 else 2) else 0
  let ppc := if st = 1 && below then s.fget (F.pcmapEntry_TARGET k l.lpc) else s.fget (F.pcmapEntry_PPC k l.lpc)
  let win := s.window k w
  let fret := (List.range 16).any fun i => s.flag (F.pccFretEnt_VALID k ppc i) && s.fget (F.pccFretEnt_ATOM k ppc i) == u
  pcst * 2 ^ 62 + bit (win.nmu.getLsbD g) * 2 ^ 61 + bit (win.write.getLsbD g) * 2 ^ 60 +
    bit (win.read.getLsbD g) * 2 ^ 59 + w * 2 ^ 52 + bit fromBridge * 2 ^ 51 + k * 2 ^ 48 + l.lpc * 2 ^ 42 +
    s.fget (F.pcmapEntry_PPC k l.lpc) * 2 ^ 36 + l.sid * 2 ^ 34 + l.bg * 2 ^ 32 + l.bank * 2 ^ 30 + l.row * 2 ^ 15 +
    l.col * 2 ^ 11 + bit fret * 2 ^ 10

end Sys2Proof.Machine
end

