-- ==== Sys2Proof/Machine/Code.lean ====
section
/-! DEFINITION. The atom code (R258–R262): the Reed–Solomon code (77, 70) over GF(2⁸) with the fold, the stored word of 72
symbols, encoding, decoding by syndromes, and the outcomes of Table 9.2. -/

namespace Sys2Proof.Machine

/-- α times a field element, in GF(2⁸) with polynomial 0x11D. -/
def gfX (a : Nat) : Nat := if a < 128 then 2 * a else (2 * a) ^^^ 0x11D

/-- The product of two field elements, by the bits of the second from the highest. -/
def gfMulBits : Nat → Nat → Nat → Nat
  | 0, _, _ => 0
  | k + 1, a, b => gfX (gfMulBits k a (b / 2)) ^^^ (if b % 2 = 1 then a else 0)

/-- The product of two field elements. -/
def gfMul (a b : Nat) : Nat := gfMulBits 8 a b

/-- α to the power `n`. -/
def gfPow : Nat → Nat
  | 0 => 1
  | n + 1 => gfX (gfPow n)

/-- The inverse of a nonzero field element: its 254th power. -/
def gfInv (a : Nat) : Nat :=
  let a2 := gfMul a a; let a4 := gfMul a2 a2; let a8 := gfMul a4 a4; let a16 := gfMul a8 a8
  let a32 := gfMul a16 a16; let a64 := gfMul a32 a32; let a128 := gfMul a64 a64
  gfMul a128 (gfMul a64 (gfMul a32 (gfMul a16 (gfMul a8 (gfMul a4 a2)))))

/-- A polynomial, highest coefficient first, at `x`. -/
def polyAt (l : List Nat) (x : Nat) : Nat := l.foldl (fun acc c => gfMul acc x ^^^ c) 0

/-- Coefficients of g(x) below x⁷, highest first (R258): g(x) = (x − α⁰)…(x − α⁶). -/
def genPoly : List Nat :=
  ((List.range 7).foldl (fun (g : List Nat) i =>
    List.zipWith (fun a b => a ^^^ gfMul (gfPow i) b) (g ++ [0]) (0 :: g)) [1]).drop 1

/-- The remainder of M(x)·x⁷ by g(x): the check symbols C₀ … C₆ of a message. -/
def checkSymbols (m : List Nat) : List Nat :=
  m.foldl (fun (r : List Nat) c =>
    let f := r.headD 0 ^^^ c
    List.zipWith (fun a b => a ^^^ gfMul f b) (r.drop 1 ++ [0]) genPoly) [0, 0, 0, 0, 0, 0, 0]

/-- The five fold bytes m₀ … m₄. -/
def foldBytes (f : BitVec 40) : List Nat := (List.range 5).map fun i => f.toNat / 2 ^ (8 * (4 - i)) % 256

/-- Byte `i` of a number. -/
def byteOf (n i : Nat) : Nat := n / 2 ^ (8 * i) % 256

/-- A number from its bytes, lowest first. -/
def ofBytes : List Nat → Nat
  | [] => 0
  | b :: bs => b + 256 * ofBytes bs

/-- The metadata byte of an atom (R261). -/
def metaByte (d : Atom) (poison : Bool) : Nat := bit (d == 0) + 2 * bit poison

/-- The stored word of an atom (R258, Table 9.1): data, C₀ … C₆, metadata byte. -/
def encodeAtom (f : BitVec 40) (d : Atom) (poison : Bool) : Stored :=
  let db := (List.range 64).map (byteOf d.toNat)
  let m := metaByte d poison
  BitVec.ofNat 576 (ofBytes (db ++ checkSymbols (foldBytes f ++ m :: db) ++ [m]))

/-- The 77 symbols of the codeword the decoder sees: fold bytes it expects, then the stored symbols. -/
def codewordOf (f : BitVec 40) (w : Stored) : List Nat :=
  foldBytes f ++ byteOf w.toNat 71 :: (List.range 71).map (byteOf w.toNat)

/-- The seven syndromes. -/
def syndromes (c : List Nat) : List Nat := (List.range 7).map fun j => polyAt c (gfPow j)

/-- One step of the search for the error locator (Berlekamp–Massey), polynomials lowest coefficient first: locator,
previous locator, its length, gap, last discrepancy. -/
def bmStep (syn : List Nat) (st : List Nat × List Nat × Nat × Nat × Nat) (n : Nat) :
    List Nat × List Nat × Nat × Nat × Nat :=
  let (c, b, l, m, bd) := st
  let d := (List.range (l + 1)).foldl (fun acc i => acc ^^^ gfMul (c.getD i 0) (syn.getD (n - i) 0)) 0
  if d = 0 then (c, b, l, m + 1, bd)
  else
    let coef := gfMul d (gfInv bd)
    let c' := (List.range 8).map fun i => c.getD i 0 ^^^ (if m ≤ i then gfMul coef (b.getD (i - m) 0) else 0)
    if 2 * l ≤ n then (c', c, n + 1 - l, 1, d) else (c', b, l, m + 1, bd)

/-- The error locator of the syndromes and its degree. -/
def locator (syn : List Nat) : List Nat × Nat :=
  let r := (List.range 7).foldl (bmStep syn) ([1], [1], 0, 1, 1)
  (r.1, r.2.2.1)

/-- A polynomial, lowest coefficient first, at `x`. -/
def polyLow (l : List Nat) (x : Nat) : Nat := polyAt l.reverse x

/-- Positions (0 = m₀ … 76 = C₆) of the roots of the locator. -/
def errorPositions (lam : List Nat) : List Nat :=
  (List.range 77).filter fun k => polyLow lam (gfInv (gfPow (76 - k))) == 0

/-- The error value at position `k` (Forney): X·Ω(X⁻¹) / Λ′(X⁻¹). -/
def errorValue (syn lam : List Nat) (k : Nat) : Nat :=
  let x := gfPow (76 - k)
  let xi := gfInv x
  let om := (List.range 7).map fun i =>
    (List.range (i + 1)).foldl (fun acc j => acc ^^^ gfMul (lam.getD j 0) (syn.getD (i - j) 0)) 0
  let dv := (List.range 8).map fun i => if i % 2 = 0 then lam.getD (i + 1) 0 else 0
  gfMul x (gfMul (polyLow om xi) (gfInv (polyLow dv xi)))

/-- Outcomes of a decode (Table 9.2). -/
inductive Outcome9 where
  | clean | check | corrected | uncorrectable
deriving DecidableEq, Repr

/-- A decode: its outcome, the data delivered, the stored POISON flag, the symbols corrected by index of Table 9.1. -/
structure Decoded where
  out : Outcome9
  data : Atom
  poison : Bool
  syms : List Nat
deriving DecidableEq, Repr

/-- An uncorrectable decode delivers 64 zero bytes, marked poisoned. -/
def Decoded.ue : Decoded := ⟨.uncorrectable, 0, true, []⟩

/-- The index of Table 9.1 of codeword position `k` (5 or more). -/
def symIndex (k : Nat) : Nat := if k = 5 then 71 else k - 6

/-- Decode stored word `w` with the fold the decoder expects (R258, R260, R262). -/
def decodeAtom (f : BitVec 40) (w : Stored) : Decoded :=
  let c := codewordOf f w
  let syn := syndromes c
  let fin (c : List Nat) (ps : List Nat) : Decoded :=
    let data : Atom := BitVec.ofNat 512 (ofBytes ((c.drop 6).take 64))
    let m := c.getD 5 0
    if (m % 2 == 1) != (data == 0) then Decoded.ue
    else
      let syms := (ps.map symIndex).mergeSort
      ⟨if ps = [] then .clean else if ps.length = 1 && 70 ≤ ps.headD 0 then .check else .corrected,
        data, m / 2 % 2 == 1, syms⟩
  if syn.all (· == 0) then fin c []
  else
    let (lam, deg) := locator syn
    let ps := errorPositions lam
    if 3 < deg || ps.length ≠ deg || ps.any (· < 5) then Decoded.ue
    else
      let c' := (c.zip (List.range 77)).map fun ck =>
        if ps.contains ck.2 then ck.1 ^^^ errorValue syn lam ck.2 else ck.1
      if (syndromes c').all (· == 0) then fin c' ps else Decoded.ue

end Sys2Proof.Machine
end

