-- ==== Sys2Proof/Machine/Mem.lean ====
section
/-! DEFINITION. The stacks' cells as the PCCs reach them: stored words, the Fret table (R270), decode accounting and the error
history (R262, R272, R275, R285), the work a PCC makes for itself, the order of pieces at an atom (R207, R208, R210), the zero map and its
lines (R212–R216), and the data a read would see. -/

namespace Sys2Proof.Machine

/-- The number of a cell: physical PC, data or metadata rows, atom index u or metadata offset / 64. -/
def cellKey (k p : Nat) (inMeta : Bool) (i : Nat) : Nat := pcIx k p * 2 ^ 26 + bit inMeta * 2 ^ 25 + i

/-- The logical PC for which the map words of a PC's unlisted metadata cells are coded zero: none while nothing has written them (R212). -/
def State.fill (s : State) (k p : Nat) : Option Nat := SMap.get s.fills none (pcIx k p)

def State.setFill (s : State) (k p : Nat) (f : Option Nat) : State := { s with fills := SMap.put s.fills none (pcIx k p) f }

/-- What the unlisted cell of number `key` reads as, its PC's map words being as `f` says: the PHY's patterns in atoms 0 to 7 of the last row
(R251), coded zero map words where the map has been cleared (R212), else zero symbols, which no fold codes (DESIGN CHOICE, log entry 6). -/
def unlistedWord (f : Option Nat) (key : Nat) : Stored :=
  let i := key % 2 ^ 25
  if key / 2 ^ 25 % 2 = 1 then
    if lastBase ≤ i then (if i % 16 < 8 then Config.trainPattern key else 0)
    else match f with
      | some l => if 16 ≤ i then encodeAtom (metaFold (key / 2 ^ 26 / 64) l i) 0 false else 0
      | none => 0
  else 0

/-- What the cell of number `key` reads as while it is unlisted. -/
def State.unlistedAt (s : State) (key : Nat) : Stored := unlistedWord (SMap.get s.fills none (key / 2 ^ 26)) key

/-- What an unlisted cell of a PC reads as. -/
def State.unlisted (s : State) (k p : Nat) (inMeta : Bool) (i : Nat) : Stored := s.unlistedAt (cellKey k p inMeta i)

/-- The canonical form of the stacks' contents: cells listed in rising order, none that holds what it would read as unlisted. -/
abbrev Memory.wf (s : State) : Prop := SMap.Wf s.unlistedAt s.dram

/-- The stored word of a cell. -/
def State.cell (s : State) (k p : Nat) (inMeta : Bool) (i : Nat) : Stored :=
  SMap.get s.dram (s.unlisted k p inMeta i) (cellKey k p inMeta i)

/-- Store a word in a cell. -/
def State.setCell (s : State) (k p : Nat) (inMeta : Bool) (i : Nat) (w : Stored) : State :=
  { s with dram := SMap.put s.dram (s.unlisted k p inMeta i) (cellKey k p inMeta i) w }

/-- Forget the listed cells of the zero map of a PC. -/
def State.clearMapCells (s : State) (k p : Nat) : State :=
  { s with dram := s.dram.filter fun e => decide (e.1 < cellKey k p true 16 ∨ cellKey k p true lastBase ≤ e.1) }

/-- The atoms of a bank's last row, by physical PC (R251, R366): column `j` of linear bank `b`. -/
def lastAtom (b j : Nat) : Nat := lastBase + b * 16 + j

/-- Training writes its patterns at every PC of stack `k` (R251). -/
def State.writePatterns (s : State) (k : Nat) : State :=
  { s with dram := s.dram.filter fun e =>
      !(e.1 / 2 ^ 26 / 64 == k && e.1 / 2 ^ 25 % 2 == 1 && decide (lastBase ≤ e.1 % 2 ^ 25) && decide (e.1 % 16 < 8)) }

/-- The Fret entry that remaps atom `u`, if any (R270). -/
def State.fretOf (s : State) (k p u : Nat) : Option Nat :=
  (List.range 16).find? fun i => s.flag (F.pccFretEnt_VALID k p i) && s.fget (F.pccFretEnt_ATOM k p i) == u

/-- The stored word every access to data atom `u` reaches: the spare atom's when the Fret table remaps it (R270). -/
def State.atomWord (s : State) (k p u : Nat) : Stored :=
  match s.fretOf k p u with
  | some i => s.cell k p true i
  | none => s.cell k p false u

/-- Store a word where every access to data atom `u` reaches it. -/
def State.setAtomWord (s : State) (k p u : Nat) (w : Stored) : State :=
  match s.fretOf k p u with
  | some i => s.setCell k p true i w
  | none => s.setCell k p false u w

/-- Add a record to a stack's error log (R285). DEDUCED, log entry 33. -/
def State.errLog (s : State) (k type src ppc syms first : Nat) (inMeta : Bool) (addr : Nat) : State :=
  let i := s.fget (F.errlogHead_NEXT k)
  let s := if s.flag (F.errlog0_VALID k i) then s.countSat (F.errlogHead_OVERFLOWS k) 1 else s
  let s := s.setReg (A.errlog0 k i) (BitVec.ofNat 64
    (2 ^ 63 + type * 2 ^ 60 + src * 2 ^ 58 + ppc * 2 ^ 52 + syms * 2 ^ 48 + first * 2 ^ 41 + bit inMeta * 2 ^ 40 +
      s.cadence % 2 ^ 40))
  (s.setReg (A.errlog1 k i) (BitVec.ofNat 64 (addr % 2 ^ 42))).fset (F.errlogHead_NEXT k) (i + 1)

/-- SOURCE of a log record by ingress lane (Table 9.6). -/
def laneSource (lane : Nat) : Nat := if lane = 17 then 1 else if lane = 18 then 2 else if lane = 20 then 3 else 0

/-- A retirement of the logical PC that physical PC `p` serves falls due (R276): none while it is pending or migrating. -/
def State.retireDue (s : State) (k p reason : Nat) : State :=
  match s.lpcOf k p with
  | none => s
  | some l =>
    if s.maskBit (F.migPending_MASK k) l || (s.flag (F.migStatus_ACTIVE k) && s.fget (F.migStatus_LPC k) == l) then s
    else
      let s := (s.setMaskBit (F.migPending_MASK k) l true).fset (F.pccHistory_REASON k p) reason
      { s with migReasons := SMap.put s.migReasons 0 (k * 64 + l) reason }

/-- UE_ATOMS increments, and the threshold of R276 is tested. -/
def State.ueAtom (s : State) (k p : Nat) : State :=
  let s := s.countSat (F.pccHistory_UE_ATOMS k p) 1
  let lim := s.fget (F.pccRetCfg_UE_LIMIT k p)
  if s.flag (F.pccRetCfg_AUTO k p) && lim != 0 && lim ≤ s.fget (F.pccHistory_UE_ATOMS k p)
  then s.retireDue k p 1 else s

/-- A Fret install finds no free entry (R272). -/
def State.fretOverflow (s : State) (k p u : Nat) : State :=
  let a := addrOfU s.build s.order k ((s.lpcOf k p).getD 0) u
  let s := s.countSat (F.pccHistory_FRET_OVF k p) 1
  let s := (s.errLog k 5 3 p 0 0 false a).post 0x0203 (unitPc k p) (argPc k p) a
  let lim := s.fget (F.pccRetCfg_FRET_OVF_LIMIT k p)
  if s.flag (F.pccRetCfg_AUTO k p) && lim != 0 && lim ≤ s.fget (F.pccHistory_FRET_OVF k p)
  then s.retireDue k p 2 else s

/-- Index within the piece of atom `u`, if the piece covers it: a metadata piece covers no data atom. -/
def Piece.at? (q : Piece) (u : Nat) : Option Nat := if !q.inMeta ∧ q.u ≤ u ∧ u < q.u + q.n then some (u - q.u) else none

/-- The piece is treated as a write (R207, R401): a Fret install or removal is one from its read on, and so is a retention scan, which may
come to write (DEDUCED, log entry 102). -/
def Piece.isWrite (q : Piece) : Bool :=
  match q.kind with
  | .read | .probe | .mergeRead | .fill | .canaryRead | .track => false
  | _ => true

/-- The atoms of a write piece whose write has not taken effect. -/
def Piece.owes (q : Piece) : List Nat :=
  match q.kind with
  | .write | .partialWrite | .mergeWrite | .poisonWrite | .sanWrite => q.todo ++ q.zpend
  | .atomicAdd | .rewrite | .retain => q.left
  | _ => []

/-- The piece will still write atom `u`. -/
def Piece.writes (q : Piece) (u : Nat) : Bool := match q.at? u with | some i => q.owes.contains i | none => false

/-- The piece will still read atom `u`: its command for the atom is to be handed over, or the atom's zero bit is not known and none
was (R207). -/
def Piece.reads (q : Piece) (u : Nat) : Bool :=
  (q.kind == .read || q.kind == .mergeRead) &&
    (match q.at? u with | some i => q.todo.contains i || q.guess.contains i | none => false)

/-- The latest of a list of pieces, by place in buffer order. -/
def latest : List Piece → Option Piece
  | [] => none
  | q :: l => match latest l with
    | some o => if q.id ≤ o.id then some o else some q
    | none => some q

/-- What stands before a younger piece at an atom: nothing, a write whose data a read may be given, or something it has
to wait for. -/
inductive Ahead where
  | clear
  | forward (data : Atom) (poison : Bool)
  | wait
deriving DecidableEq, Repr

/-- What a read at place `id` meets at atom `u` (R207, R208, R269, R402). -/
def Pcc.aheadOfRead (c : Pcc) (id u : Nat) : Ahead :=
  let barrier := (((c.merges.filter fun m => m.id < id && m.u == u).map (·.id)) ++
    ((c.fretQ.filter fun f => f.id < id && f.u == u).map (·.id))).foldl max 0
  match latest (c.buf.filter fun o => o.id < id && o.writes u) with
  | none => if barrier = 0 then .clear else .wait
  | some o =>
    if o.id ≤ barrier then .wait
    else if o.kind == .write && !o.hold then
      match o.at? u with
      | some i => .forward (o.data.getD i 0) (o.poison.getD i false)
      | none => .wait
    else .wait

/-- A write of atom `u` at place `id` has to wait for something older (R207, R269); a write-partial (`part`) does not wait for an older
one. -/
def Pcc.writeWaits (c : Pcc) (id u : Nat) (part : Bool) : Bool :=
  (c.buf.any fun o => o.id < id &&
    (o.reads u || (o.writes u && !(part && (o.kind == .partialWrite || o.kind == .mergeWrite))))) ||
  (c.merges.any fun m => m.id < id && m.u == u && !part) ||
  (c.fretQ.any fun f => f.id < id && f.u == u)

/-- An older piece in the same row of the same bank holds an ordered piece (R210). -/
def Pcc.orderWaits (c : Pcc) (q : Piece) : Bool :=
  q.order && c.buf.any fun o => o.id < q.id && !o.slotless && o.bank == q.bank && o.row == q.row

/-- The Fret job behind a piece. -/
def Pcc.fretJob (c : Pcc) (id : Nat) : Option FretJob := c.fretQ.find? fun f => f.id == id

/-- Something older at the metadata atoms of a piece has not been handed over, one of the two a write (R207). -/
def Pcc.metaWaits (c : Pcc) (q : Piece) : Bool :=
  c.buf.any fun o => o.id < q.id && o.inMeta && o.u < q.u + q.n && q.u < o.u + o.n && o.todo != [] && (o.isWrite || q.isWrite)

/-- The piece meets a hazard now (R207, R210, R271). A merged write and its read come after every older piece at their atom but the
entries that merged before (R267, R269). -/
def Pcc.hazard (c : Pcc) (q : Piece) : Bool :=
  if q.inMeta && !q.slotless then c.metaWaits q
  else match q.kind with
  | .fill | .lineWrite | .fretWrite | .fretBack | .track => false
  | .fretRead | .fretTake => (c.fretJob q.id).any fun f => c.writeWaits f.id f.u false
  | .read => c.orderWaits q || (!q.inMeta && q.todo.any fun i => c.aheadOfRead q.id (q.u + i) == .wait)
  | .probe => false
  | k => c.orderWaits q || q.todo.any fun i => c.writeWaits q.id (q.u + i) (k == .partialWrite)

/-- A piece that the PCC makes for itself, at key 0 and without a slot, before its place is given. -/
def Piece.own (k p : Nat) (kind : PKind) : Piece where
  id := 0
  req := 0
  first := 0
  n := 1
  kind := kind
  lane := 20
  org := .service
  cls := 0
  label := 0
  arrival := 0
  mid := 0
  page := 0
  order := false
  stream := 0
  red := 0
  addr := 0
  stack := k
  lpc := 64
  ppc := p
  bank := 0
  row := 0
  u := 0
  inMeta := false
  slotless := true
  aged := false
  checks := []
  dest := none
  sortable := false
  batchEnd := false
  data := []
  be := []
  poison := []
  aging := 0
  since := 0
  st := .queued
  slot := 64
  beats := 0
  todo := [0]
  pend := []
  conf := false
  guess := []
  got := []
  zpend := []
  left := []
  wr := false
  hold := false
  holdAt := 0

/-- The piece at a data atom. -/
def Piece.atData (q : Piece) (b : Build) (u a : Nat) : Piece :=
  { q with u := u, addr := a, bank := (locOfU b 0 0 u).lin, row := (locOfU b 0 0 u).row }

/-- The piece at metadata atom `m`. -/
def Piece.atMeta (q : Piece) (b : Build) (m : Nat) : Piece :=
  { q with inMeta := true, u := m, addr := m * 64, bank := metaBank b (m * 64), row := metaRow b (m * 64) }

/-- The lowest rotation number that no piece without a slot holds: the numbers after the 64 slots are theirs (R177; DESIGN CHOICE, log
entry 78). -/
def Pcc.freeTurn (c : Pcc) : Nat := ((List.range' 64 127).find? fun i => !(c.buf.any fun q => q.slotless && q.slot == i)).getD 191

/-- Put a piece at its place in buffer order. -/
def Pcc.insertPiece (c : Pcc) (q : Piece) : Pcc :=
  { c with buf := (c.buf.filter fun o => o.id < q.id) ++ q :: c.buf.filter fun o => q.id ≤ o.id }

/-- Put a piece without a slot at its place. -/
def Pcc.insertOwn (c : Pcc) (q : Piece) : Pcc := c.insertPiece { q with slot := c.freeTurn }

/-- The write window of stack `k` is closed (R400). -/
def State.windowClosed (s : State) (k : Nat) : Bool := s.flag (F.thmStk_WINDOW_CLOSED k)

/-- A piece that the PCC makes for itself takes the next place in buffer order; a write under a closed window is held (R218, R401). -/
def State.pushOwn (s : State) (k p : Nat) (q : Piece) : State :=
  let hold := q.isWrite && s.windowClosed k
  let q := { q with id := s.nextPiece, since := s.cadence, hold := hold, holdAt := s.cadence, st := if hold then .held else q.st }
  { (s.modPcc k p fun c => c.insertOwn q) with nextPiece := s.nextPiece + 64 }

/-- The fold of a PC's metadata is that of the logical PC it serves; a PC that serves none takes logical PC 0 (DEDUCED, log entry 11). -/
def State.metaLpc (s : State) (k p : Nat) : Nat := (s.lpcOf k p).getD 0

/-- The device address of atom `u` of a physical PC. -/
def State.addrAt (s : State) (k p u : Nat) : Nat := addrOfU s.build s.order k (s.metaLpc k p) u

/-- The Fret entries that an install may take: not valid, and not taken by an install that is due. -/
def State.fretFree (s : State) (k p : Nat) : Option Nat :=
  (List.range 16).find? fun i => !s.flag (F.pccFretEnt_VALID k p i) && !((s.pcc k p).fretQ.any fun f => !f.remove && f.entry == i)

/-- A Fret install or removal takes its place in buffer order (R271, R272): its read waits for what is older at the atom. -/
def State.fretPut (s : State) (k p u entry : Nat) (byCmd remove : Bool) : State :=
  let q := (Piece.own k p (if remove then .fretTake else .fretRead)).atData s.build u (s.addrAt k p u)
  let job : FretJob := ⟨s.nextPiece, u, entry, byCmd, remove, .reading, false⟩
  let s := s.modPcc k p fun c => { c with fretQ := c.fretQ ++ [job] }
  let wait := (s.pcc k p).writeWaits s.nextPiece u false
  s.pushOwn k p { q with st := if wait || remove then .held else .queued }

/-- A Fret install of atom `u` falls due: it takes its place in buffer order, or overflows when no entry is free (R272).
`byCmd` marks the programmer's. None is made at the old PC of a migration once its last hold has begun (Table 9.5). -/
def State.fretDue (s : State) (k p u : Nat) (byCmd : Bool) : State :=
  if (s.mig k).any fun m => m.st == .swapHold && m.src == p then s
  else match s.fretFree k p with
    | none => s.fretOverflow k p u
    | some i => s.fretPut k p u i byCmd false

/-- The suspect for atom `u`. -/
def Pcc.suspect (c : Pcc) (u : Nat) : Option Suspect := c.suspects.find? fun e => e.u == u

/-- on_corrected() of R272 (R447): symbols `m` of atom `u` were corrected. An atom already in the Fret table, or whose
install is due, is not installed again (DEDUCED, log entry 10). -/
def State.onCorrected (s : State) (k p u : Nat) (m : BitVec 72) : State :=
  let c := s.pcc k p
  let others := c.suspects.filter fun e => e.u != u
  let known := (s.fretOf k p u).isSome || c.fretQ.any fun e => e.u == u
  match c.suspect u with
  | some e =>
    if e.written && (e.mask &&& m) != 0 then
      if s.flag (F.pccEccCtl_FRET_AUTO k p) && !known then
        (s.modPcc k p fun c => { c with suspects := others }).fretDue k p u false
      else s
    else s.modPcc k p fun c =>
      { c with suspects := c.suspects.map fun x => if x.u = u then ⟨u, m, false⟩ else x }
  | none => s.modPcc k p fun c =>
      { c with suspects := (if 8 ≤ c.suspects.length then c.suspects.drop 1 else c.suspects) ++ [⟨u, m, false⟩] }

/-- on_burst_write() of R272. -/
def Pcc.onBurstWrite (c : Pcc) (u : Nat) : Pcc :=
  { c with suspects := c.suspects.map fun e => if e.u = u then { e with written := true } else e }

/-- on_clean() of R272. -/
def Pcc.onClean (c : Pcc) (u : Nat) : Pcc :=
  { c with suspects := c.suspects.filter fun e => !(e.u == u && e.written) }

/-- The symbols a decode corrected, as a mask. -/
def Decoded.mask (d : Decoded) : BitVec 72 := BitVec.ofNat 72 (d.syms.foldl (fun m i => m ||| 2 ^ i) 0)

/-- The accounting of one decode (R262, R272, R275, R285) of atom `i` (data atom u, or metadata atom) at device address
or metadata offset `addr`, for a piece that entered on `lane`; `feed` whether it feeds the suspects (R274). -/
def State.countDecode (s : State) (k p : Nat) (inMeta : Bool) (i addr lane : Nat) (feed : Bool) (d : Decoded) : State :=
  let src := laneSource lane
  let s := if d.poison && d.out != .uncorrectable then s.count (F.pccPoisonReads_COUNT k p) 1 else s
  let n := d.syms.length
  match d.out with
  | .clean => if inMeta || !feed then s else s.modPcc k p fun c => c.onClean i
  | .check =>
    let s := s.count (F.pccCheckSymbol_COUNT k p) 1
    let s := if s.flag (F.pccEccCtl_LOG_CE k p) then s.errLog k 1 src p n (d.syms.headD 0) inMeta addr else s
    if inMeta || !feed then s else s.onCorrected k p i d.mask
  | .corrected =>
    let s := (s.count (F.pccCeCount_COUNT k p) 1).countSat
      (if n = 1 then F.pccCeBySyms_ONE k p else if n = 2 then F.pccCeBySyms_TWO k p else F.pccCeBySyms_THREE k p) 1
    let s := if s.flag (F.pccEccCtl_LOG_CE k p) then s.errLog k 0 src p n (d.syms.headD 0) inMeta addr else s
    if inMeta || !feed then s else s.onCorrected k p i d.mask
  | .uncorrectable =>
    let s := s.count (F.pccUeCount_COUNT k p) 1
    if inMeta || (s.pcc k p).ueList.contains i then s
    else
      let s := s.modPcc k p fun c => { c with ueList := (if 4 ≤ c.ueList.length then c.ueList.drop 1 else c.ueList) ++ [i] }
      let s := (s.errLog k 2 src p 4 0 false addr).post 0x0201 (unitPc k p) (argPc k p) addr
      s.ueAtom k p

/-- Word `w` of canary atom `j` in linear bank `b` of physical PC `p` of stack `k`, generation `g` (R366). -/
def canaryWordAt (g k p b j w : Nat) : Nat :=
  0xC0DA000000000000 ||| g <<< 40 ||| k <<< 32 ||| p <<< 24 ||| b <<< 16 ||| j <<< 8 ||| w

/-- The stored canary atom: the row is not coded, and the check lanes carry data bytes 0 to 7 inverted (R366). -/
def canaryStored (g k p b j : Nat) : Stored :=
  let data := ((List.range 8).map fun w => canaryWordAt g k p b j w * 2 ^ (64 * w)).sum
  BitVec.ofNat 576 (data + (2 ^ 64 - 1 - canaryWordAt g k p b j 0) * 2 ^ 512)

/-- Zero-map states (Table 7.8). -/
def zmOff : Nat := 0
def zmOn : Nat := 1
def zmClearing : Nat := 2
def zmDisabling : Nat := 3

def State.zmState (s : State) (k p : Nat) : Nat := s.fget (F.pccZmapCtl_STATE k p)

/-- Reads consult the map and writes update it (R212). -/
def State.zmUsed (s : State) (k p : Nat) : Bool := s.zmState k p == zmOn || s.zmState k p == zmDisabling

def Pcc.line (c : Pcc) (l : Nat) : Option ZLine := c.lines.find? fun z => z.line == l

/-- Replace a line of the cache. -/
def Pcc.setLine (c : Pcc) (z : ZLine) : Pcc :=
  { c with lines := c.lines.map fun y => if y.line = z.line then z else y }

/-- A bit of a 512-bit line. -/
def lineBit (w : BitVec 512) (i : Nat) : Bool := w.toNat.testBit i

/-- A line with bit `i` written. -/
def lineSet (w : BitVec 512) (i : Nat) (v : Bool) : BitVec 512 := BitVec.ofNat 512 (bitsPut w.toNat i i (bit v))

/-- The line as its metadata atom holds it: zero bits where the atom is uncorrectable (R217). -/
def State.lineInMemory (s : State) (k p l : Nat) : BitVec 512 :=
  (decodeAtom (metaFold k ((s.lpcOf k p).getD 0) l) (s.cell k p true l)).data

/-- A line's bits with the changes recorded before place `id` applied (R216). -/
def ZLine.before (z : ZLine) (id : Nat) (bits : BitVec 512) : BitVec 512 :=
  (z.upds.filter fun e => e.id < id).foldl (fun w e => lineSet w e.bit e.v) bits

/-- A line's bits with every recorded change applied (R216). -/
def ZLine.applied (z : ZLine) (bits : BitVec 512) : BitVec 512 := z.upds.foldl (fun w e => lineSet w e.bit e.v) bits

/-- The bits of line `l` as they stand, changes applied. -/
def State.lineNow (s : State) (k p l : Nat) : BitVec 512 :=
  match (s.pcc k p).line l with
  | some z => if z.st = .filling then z.applied (s.lineInMemory k p l) else z.bits
  | none => s.lineInMemory k p l

/-- The map bit of atom `u` now: what a read entering now would be told (R215). -/
def State.zBit (s : State) (k p u : Nat) : Bool :=
  if !s.zmUsed k p || sameBank s.build u then false else lineBit (s.lineNow k p (zLineOf u)) (zBitOf u)

/-- Lines of the cache that a fill may take: CLEAN or INVALID (R216). -/
def Pcc.freeLines (c : Pcc) : Nat := 16 - (c.lines.filter fun z => z.st != .clean).length

/-- Lines DIRTY or WRITEBACK, and those that will be when their fill returns. -/
def Pcc.dirtyLines (c : Pcc) : Nat :=
  (c.lines.filter fun z => z.st == .dirty || z.st == .writeback || (z.st == .filling && z.upds != [])).length

/-- The least recently used CLEAN line. -/
def Pcc.lruClean (c : Pcc) : Option ZLine :=
  (c.lines.filter fun z => z.st == .clean).foldl (fun (b : Option ZLine) z =>
    match b with
    | none => some z
    | some y => if z.used < y.used then some z else some y) none

/-- A line FILLING takes the place of an INVALID line, else of the least recently used CLEAN one (R216). -/
def Pcc.takeLine (c : Pcc) (z : ZLine) : Option Pcc :=
  if c.lines.length < 16 then some { c with lines := c.lines ++ [z] }
  else c.lruClean.map fun v => { c with lines := (c.lines.filter fun y => y.line != v.line) ++ [z] }

/-- Start the fill of line `l` for piece `q`, with the changes `q` records in it; none while no line may be taken: pieces below class 7
leave one line CLEAN or INVALID (R216). The fill takes the piece's key and no slot. -/
def State.startFill (s : State) (k p : Nat) (q : Piece) (l : Nat) (upds : List ZUpd) : Option State :=
  let c := s.pcc k p
  if c.freeLines < (if q.cls = 7 then 1 else 2) then none
  else
    (c.takeLine ⟨l, .filling, 0, upds, s.cadence, q.id, q.cls, q.label, q.arrival, q.aged, none, false⟩).map fun c =>
      (s.setPcc k p c).pushOwn k p
        { (Piece.own k p .fill).atMeta s.build l with cls := q.cls, label := q.label, arrival := q.arrival, aged := q.aged }

/-- Record in the map that piece `q` makes the bit of atom `u` `v` (R213, R216): none while the update has to wait. -/
def State.zWrite (s : State) (k p : Nat) (q : Piece) (u : Nat) (v : Bool) : Option State :=
  if !s.zmUsed k p || sameBank s.build u then some s
  else
    let c := s.pcc k p
    let l := zLineOf u
    let i := zBitOf u
    match c.line l with
    | some z =>
      if z.st = .filling then
        if z.upds = [] && 14 ≤ c.dirtyLines then none
        else some (s.setPcc k p (c.setLine { z with upds := z.upds ++ [⟨q.id, i, v⟩] }))
      else if lineBit z.bits i = v then some (s.setPcc k p (c.setLine { z with used := s.cadence }))
      else if z.st = .clean && (14 ≤ c.dirtyLines || (q.cls != 7 && c.freeLines < 2)) then none
      else some (s.setPcc k p (c.setLine { z with bits := lineSet z.bits i v, st := .dirty, used := s.cadence }))
    | none => if 14 ≤ c.dirtyLines then none else s.startFill k p q l [⟨q.id, i, v⟩]

/-- The salvage list of a physical PC (R282). -/
def State.salvageOf (s : State) (k p : Nat) : List Nat := SMap.get s.salvage [] (pcIx k p)

def State.setSalvage (s : State) (k p : Nat) (l : List Nat) : State :=
  { s with salvage := SMap.put s.salvage [] (pcIx k p) l }

/-- What memory (buffers apart) holds for data atom `u` at device address `a`: data, poison, and the decode behind it
where there was one. -/
def State.memAtom (s : State) (k p u a : Nat) : Atom × Bool × Option Decoded :=
  if (s.salvageOf k p).contains u then (0, true, none)
  else if s.zBit k p u then (0, false, none)
  else
    let d := decodeAtom (dataFold a) (s.atomWord k p u)
    (d.data, d.poison, some d)

/-- Bytes enabled in `be` taken from `new`, the others from `old` (R267). -/
def mergeBytes (old new : Atom) (be : BitVec 64) : Atom :=
  BitVec.ofNat 512 (ofBytes ((List.range 64).map fun i =>
    if be.getLsbD i then byteOf new.toNat i else byteOf old.toNat i))

/-- The data that a write piece carries for atom `i`: of a write marked poisoned, zero bytes (R266); a merge over poison, a REWRITE and a
Fret install keep theirs (R264, R268, R271). -/
def Piece.writeData (q : Piece) (i : Nat) : Atom := if q.kind = .write ∧ q.poison.getD i false = true then 0 else q.data.getD i 0

/-- The effect of a buffered piece on the value of atom `u` that a later read sees. -/
def Piece.effect (q : Piece) (u : Nat) (v : Atom × Bool) : Atom × Bool :=
  match q.at? u with
  | none => v
  | some i =>
    if !q.owes.contains i then v
    else match q.kind with
      | .write | .mergeWrite => (q.writeData i, q.poison.getD i false)
      | .poisonWrite => (0, true)
      | .sanWrite => (0, false)
      | .partialWrite => (if v.2 then (mergeBytes 0 (q.data.getD i 0) (q.be.getD i 0), true)
          else (mergeBytes v.1 (q.data.getD i 0) (q.be.getD i 0), false))
      | _ => v

/-- The effect of a merge entry that has not obtained the old atom (R267, R268). -/
def Merge.effect (m : Merge) (u : Nat) (v : Atom × Bool) : Atom × Bool :=
  if m.u = u && m.st = .reading then
    (if v.2 then (mergeBytes 0 m.new m.be, true) else (mergeBytes v.1 m.new m.be, false)) else v

/-- What a read entering the buffer now would be given for atom `u` once every older piece has taken effect (R207). -/
def State.valueAt (s : State) (k p u a : Nat) : Atom × Bool :=
  let c := s.pcc k p
  let m := s.memAtom k p u a
  let effs := (c.merges.map fun e => (e.id, e.effect u)) ++ (c.buf.map fun q => (q.id, q.effect u))
  (effs.mergeSort fun x y => x.1 ≤ y.1).foldl (fun v e => e.2 v) (m.1, m.2.1)

/-- Some buffered atomic add still has to change atom `u`, so its value is not known yet. -/
def State.addPending (s : State) (k p u : Nat) : Bool :=
  (s.pcc k p).buf.any fun q => q.kind == .atomicAdd && q.writes u

end Sys2Proof.Machine
end

