-- ==== Sys2Proof/Machine/Operands.lean ====
section
/-! DEFINITION. The operand forms of the port commands: the fields of a request header (Table 2.5), sizes and flit counts
(Table 2.7), data and byte enables by atom, and the fields of a register write's operand. -/

namespace Sys2Proof.Machine

/-- Bits [hi:lo] of a request header. -/
def hdr (h : BitVec 128) (hi lo : Nat) : Nat := bitsOf h.toNat hi lo

def hdrColour (h : BitVec 128) : Nat := hdr h 101 100
def hdrTag (h : BitVec 128) : Nat := hdr h 99 90
def hdrOrder (h : BitVec 128) : Bool := hdr h 89 89 == 1
def hdrPage (h : BitVec 128) : Nat := hdr h 88 87
def hdrLabel (h : BitVec 128) : Nat := hdr h 86 81
def hdrStream (h : BitVec 128) : Nat := hdr h 80 61
def hdrMid (h : BitVec 128) : Nat := hdr h 60 49
def hdrAddr (h : BitVec 128) : Nat := hdr h 48 7
def hdrSize (h : BitVec 128) : Nat := hdr h 6 3
def hdrOp (h : BitVec 128) : Nat := hdr h 2 0
/-- The origin port of a Bridge request (R83). -/
def hdrOrigin (h : BitVec 128) : Nat := hdr h 108 102

/-- Opcodes (Table 2.6). -/
def opRead : Nat := 0
def opWrite : Nat := 1
def opPartial : Nat := 2
def opAtomic : Nat := 3
def opFence : Nat := 4
def opProbe : Nat := 5

/-- The opcode carries data flits. -/
def opHasData (op : Nat) : Bool := op == opWrite || op == opPartial || op == opAtomic

/-- Atoms of size code `n` (Table 2.7). -/
def sizeAtoms (n : Nat) : Nat := 2 ^ n

/-- Atoms in one flit of port `n`: 128 bytes on a tensor port, 256 on a link or the Bridge port (Table 2.1). -/
def flitAtoms (port : Nat) : Nat := if port < 96 then 2 else 4

/-- The outstanding limit of a port (Table 2.1). -/
def portLimit (port : Nat) : Nat := if port < 96 then 256 else if port < 112 then 512 else 1024

/-- The flit count expected of a request (R62); none where no count is expected. -/
def expectedFlits (port op size : Nat) : Option Nat :=
  if op = opRead ∨ op = opFence ∨ op = opProbe then some 1
  else if opHasData op && size ≤ 6 then some (ceilDiv (sizeAtoms size) (flitAtoms port))
  else none

/-- Atom `i` of a payload. -/
def payloadAtom (d : Payload) (i : Nat) : Atom := BitVec.ofNat 512 (d.toNat / 2 ^ (512 * i))

/-- Byte enables of atom `i` of a write-partial. -/
def enablesAtom (be : BitVec 256) (i : Nat) : BitVec 64 := BitVec.ofNat 64 (be.toNat / 2 ^ (64 * i))

/-- The page hint passed to the PCC (R125): the header's PAGE when 1 or 2, else the stream's default. -/
def pageHint (page dflt : Nat) : Nat := if page = 1 ∨ page = 2 then page else if dflt = 3 then 0 else dflt

end Sys2Proof.Machine
end

