-- ==== Sys2Proof/Machine/Flags.lean ====
section
/-! DEFINITION. Status codes and their ranks (Table 2.11), as responses, traps and records carry them. -/

namespace Sys2Proof.Machine

/-- Status codes (Table 2.11). -/
def stOk : Nat := 0
def stPoison : Nat := 1
def stDenied : Nat := 2
def stDecode : Nat := 3
def stSize : Nat := 4
def stLost : Nat := 5
def stTimeout : Nat := 6

/-- The status code of an atom's outcome. -/
def AtomSt.code : AtomSt → Nat
  | .waiting => stOk
  | .ok => stOk
  | .poison => stPoison
  | .denied => stDenied
  | .lost => stLost
  | .timeout => stTimeout

/-- The rank of a status (Table 2.11). -/
def statusRank (c : Nat) : Nat :=
  if c = stPoison then 1 else if c = stTimeout then 2 else if c = stLost then 3 else if c = stDenied then 4 else 0

/-- The highest-ranked status of a list of atoms (R67). -/
def worstStatus (l : List AtomRes) : Nat :=
  l.foldl (fun c r => if statusRank c < statusRank r.st.code then r.st.code else c) stOk

/-- The atom is returned with its ATOM_POISON bit set (R69, Table 9.3). -/
def AtomRes.poisoned (r : AtomRes) : Bool := r.st == .poison || r.st == .denied || r.st == .lost

/-- Every atom in `l` has its outcome. -/
def allDecided (l : List AtomRes) : Bool := l.all fun r => r.st != .waiting

end Sys2Proof.Machine
end

