-- ==== Sys2Proof/Machine/Share.lean ====
section
/-! DEFINITION. Which NMU serves an atom (R330, R351), the items that it holds, and since when its watchdog counts (R351, R404). -/

namespace Sys2Proof.Machine

/-- NMU `n` is ACTIVE (Table 11.11). -/
def State.nmuActive (s : State) (n : Nat) : Bool := s.fget (F.nmuStatus_STATE n) == 0

/-- The ACTIVE NMU that serves share `j` of stack `k` (R330, R351). -/
def State.serving (s : State) (k j : Nat) : Option Nat :=
  ((List.range 4).map (4 * k + ·)).find? fun n => s.nmuActive n && (s.fget (F.nmuStatus_SERVES n)).testBit j

/-- The ACTIVE NMU that serves the atom at address `a`. -/
def State.servingAt (s : State) (a : Nat) : Option Nat :=
  let l := s.locOf a
  s.serving l.stack (l.lpc % 4)

/-- The operand extents of a job, by place in Tables 11.5, 11.7 and R344. -/
def Job.base (j : Job) (i : Nat) : Nat := (j.ext.getD i (0, 0)).1

/-- The word of a job. -/
def Job.w (j : Job) : Nat := j.word.toNat

/-- The extent of the primary operand. -/
def Job.primary (j : Job) : Nat := if insOp j.w = iReduce ∧ rOp j.w = 3 then 1 else 0

/-- The address of the primary atom of work atom `k`. -/
def Job.atomAt (j : Job) (k : Nat) : Nat := j.base j.primary + 64 * k

/-- The work atom that NMU `n` has in progress: its job and number. -/
def State.nmuItem (s : State) (n : Nat) : Option (Nat × Nat) :=
  s.reqs.findSome? fun e => match e.2.src with
    | .own (.nmuRead j k _) | .own (.nmuWrite j k _) => if e.2.tag = n ∧ (SMap.get? s.jobs j).isSome then some (j, k) else none
    | _ => none

/-- The work atom of job `id` that NMU `n` has in progress, or is to do next. -/
def State.workOf (s : State) (n id : Nat) (j : Job) : Option Nat :=
  match s.nmuItem n with
  | some (i, k) => if i = id then some k else (List.range j.atoms).find? fun k => !j.done.contains k && s.servingAt (j.atomAt k) == some n
  | none => (List.range j.atoms).find? fun k => !j.done.contains k && s.servingAt (j.atomAt k) == some n

/-- The cadence values since when NMU `n` has held the items it holds (R351): instructions, and atomic-add-beside pieces. -/
def State.itemsSince (s : State) (n : Nat) : List Nat :=
  ((s.jobs.filter fun e => (s.workOf n e.1 e.2).isSome).map fun e => e.2.began) ++
    s.pccs.flatMap fun e => (e.2.buf.filter fun q => q.kind == .atomicAdd && !q.hold && s.serving q.stack (q.lpc % 4) == some n).map
      (·.since)

/-- Since when the watchdog of NMU `n` counts: it has completed no item since, and held one; none where it holds none (R351). -/
def State.dogSince (s : State) (n : Nat) : Option Nat :=
  match s.itemsSince n with
  | [] => none
  | a :: l => some (max (SMap.get s.nmuSince 0 n) (l.foldl min a))

end Sys2Proof.Machine
end

