-- ==== Sys2Proof/Machine/Reply.lean ====
section
/-! DEFINITION. Responses (R64–R70): the flits of a request are formed as its atoms are decided, in ascending INDEX order, and
wait on the port's response channel for the master's acknowledgement. -/

namespace Sys2Proof.Machine

/-- The port whose response channel carries the request's flits: none for a sequencer's request or the block's own. -/
def Src.port? : Src → Option Nat
  | .port n => some n
  | .bridge => some 112
  | .ctx _ => none
  | .own _ => none

/-- A read that the port did not refuse: its response has data flits (R66). -/
def Req.dataFlits (r : Req) : Bool := r.op == opRead && r.refused.isNone

/-- Flits of the request's response (R66, R68). -/
def Req.flitCount (r : Req) (port : Nat) : Nat := if r.dataFlits then ceilDiv r.atoms (flitAtoms port) else 1

/-- The status of the whole request. -/
def Req.status (r : Req) : Nat := r.refused.getD (worstStatus r.res)

/-- The atoms flit `k` carries. -/
def Req.flitRes (r : Req) (port k : Nat) : List AtomRes := (r.res.drop (k * flitAtoms port)).take (flitAtoms port)

/-- Flit `k` can be sent: its atoms, or for a response of one flit the whole request, are decided (R65, R70). A fence
answers when it completes (R71). -/
def Req.flitReady (r : Req) (port k : Nat) : Bool :=
  r.refused.isSome || (if r.op == opFence then r.fenceDone
    else if r.dataFlits then allDecided (r.flitRes port k) else allDecided r.res)

/-- The data of a list of atoms, lowest first; an atom refused or lost is zero bytes (R69). -/
def atomsData : List AtomRes → Nat
  | [] => 0
  | r :: l => (if r.st == .denied || r.st == .lost then 0 else r.data.toNat) + 2 ^ 512 * atomsData l

/-- ATOM_POISON of a list of atoms. -/
def atomsPoison : List AtomRes → Nat
  | [] => 0
  | r :: l => bit r.poisoned + 2 * atomsPoison l

/-- Flit `k` of the response (Table 2.10). A probe answered OK returns its record in the first bytes (R72). -/
def Req.flit (r : Req) (id port k : Nat) : Flit :=
  let last := k + 1 == r.flitCount port
  let atoms := r.flitRes port k
  let probeOk := r.op == opProbe && r.status == stOk
  { req := id, label := r.label, index := k, last := last
    dv := r.dataFlits || probeOk
    op := r.op
    status := if last then r.status else worstStatus atoms
    mid := r.mid, tag := r.tag
    apoison := if r.refused.isSome || r.op == opProbe then 0 else BitVec.ofNat 4 (atomsPoison atoms)
    data := if r.dataFlits then BitVec.ofNat 2048 (atomsData atoms)
      else if probeOk then BitVec.ofNat 2048 r.probe.toNat else 0 }

/-- A flit becomes pending on its channel, which sends it: LATE is counted at a LAST flit when the age exceeds TARGET (R166). A label
with TARGET 0 has no target and counts nothing (DESIGN CHOICE, log entry 80). -/
def State.flitSent (s : State) (f : Flit) : State :=
  match s.req? f.req with
  | some r =>
    let t := s.fget (F.trfLabelCfg_TARGET r.label)
    if f.last && t != 0 && t < s.cadence - r.arrival then s.countSat (F.trfLabelStat_LATE r.label) 1 else s
  | none => s

/-- Put a flit on a port's response channel; it becomes pending at once when the channel is idle (R74). -/
def State.pushFlit (s : State) (port : Nat) (f : Flit) : State :=
  let idle := (s.port port).rsq == []
  let s := s.modPort port fun p => { p with rsq := p.rsq ++ [f], since := if idle then s.cadence else p.since }
  if idle then s.flitSent f else s

/-- The LAST flit has been formed. -/
def State.lastFlitSent (s : State) (id : Nat) (r : Req) : State := s.putReq id { r with flits := r.flits + 1, lastSent := true }

/-- Send the next flit of request `id` when it is ready. -/
def State.sendFlit (s : State) (id : Nat) : State :=
  match s.req? id with
  | none => s
  | some r =>
    match r.src.port? with
    | none => s
    | some n =>
      if r.lastSent || !r.flitReady n r.flits then s
      else
        let s := s.pushFlit n (r.flit id n r.flits)
        if r.flits + 1 = r.flitCount n then s.lastFlitSent id r
        else s.putReq id { r with flits := r.flits + 1 }

/-- Send every flit of request `id` that is ready, in order (R65). -/
def State.sendFlits (s : State) (id : Nat) : State :=
  match s.req? id with
  | none => s
  | some r => s.forEach (List.range (r.flitCount ((r.src.port?).getD 0))) fun s _ => s.sendFlit id

/-- What an access that the block made for itself has come to. -/
inductive Direct where
  | data (d : Atom) (poison : Bool)
  | done
  | blocked
  | denied
  | lost
  | timeout
deriving DecidableEq, Repr

/-- What an access that has been answered came to: for a read of one atom its data; a write is done once it is visible (R70). -/
def Req.direct (r : Req) : Direct :=
  if r.res.any fun a => a.st == .timeout then .timeout
  else if r.res.any fun a => a.st == .lost then .lost
  else if r.res.any fun a => a.st == .denied then .denied
  else if r.op = opRead then
    if r.res.any fun a => a.st == .waiting then .blocked
    else .data ((r.res.headD ⟨.ok, true, 0⟩).data) (r.res.any fun a => a.st == .poison)
  else if r.res.all fun a => a.st != .waiting || a.visible then .done else .blocked

/-- The write of a sample has come to its end: one that is lost, or held until HOLD_TIMEOUT, posts STREAM_WB_LOST (R129, R146). DEDUCED, log
entry 68. -/
def State.sampleWritten (s : State) (id : Nat) : State :=
  match s.req? id with
  | none => s
  | some r => match r.src, r.direct with
    | .own (.sample _), .done => s.dropReq id
    | .own (.sample i), .lost | .own (.sample i), .timeout => (s.dropReq id).post 0x0409 0 i 0
    | _, _ => s

/-- The request is a write of work atom `k` of job `j` (R331). -/
def Req.writesWork (r : Req) (j k : Nat) : Bool :=
  match r.src with
  | .own (.nmuWrite i l _) => i == j && l == k
  | _ => false

/-- NMU `n`'s watchdog has run out (R351). -/
def State.dogBarks (s : State) (n : Nat) : Bool :=
  let w := s.fget (F.nmuCfg_WATCHDOG n)
  w != 0 && (s.dogSince n).any fun t => decide (t + w * 1024 ≤ s.cadence)

/-- A write of a work atom has come to its end: with the last of them the NMU has completed the item, unless its watchdog has run out (R351,
Table 11.12). One of an instruction that has been halted is forgotten (R349). -/
def State.workWritten (s : State) (id : Nat) : State :=
  match s.req? id with
  | none => s
  | some r => match r.src with
    | .own (.nmuWrite j k _) =>
      if r.direct = .blocked then s
      else match SMap.get? s.jobs j with
        | none => s.dropReq id
        | some _ =>
          if s.dogBarks r.tag || s.reqs.any fun e => e.2.writesWork j k && e.2.direct == .blocked then s
          else { s with nmuSince := SMap.put s.nmuSince 0 r.tag s.cadence }
    | _ => s

/-- What an access of the block's own that has been answered brings about at once. -/
def State.ownWritten (s : State) (id : Nat) : State := (s.sampleWritten id).workWritten id

/-- What follows the answer of an atom: flits that can be sent; the end of a write of the block's own. -/
def State.answered (s : State) (id : Nat) : State := (s.sendFlits id).ownWritten id

/-- Record what became of atom `i` of request `id`, and send what can be sent. Request 0 is no request. -/
def State.setAtom (s : State) (id i : Nat) (r : AtomRes) : State :=
  (s.modReq id fun q => { q with res := q.res.set i r }).answered id

/-- Atom `i` of request `id` has reached its visibility point (R70) though its response still waits. -/
def State.setVisible (s : State) (id i : Nat) : State :=
  (s.modReq id fun q => { q with res := q.res.modify i fun a => { a with visible := true } }).ownWritten id

/-- Record one outcome for `n` atoms from `first`. -/
def State.setAtoms (s : State) (id first n : Nat) (r : AtomRes) : State :=
  (s.modReq id fun q =>
    { q with res := (List.range n).foldl (fun l j => l.set (first + j) r) q.res }).answered id

/-- The request is refused at the port with status `c` (R68). -/
def State.refuse (s : State) (id c : Nat) : State :=
  (s.modReq id fun q => { q with refused := some c, forwarded := false }).sendFlits id

/-- An outcome without data. -/
def AtomRes.of (st : AtomSt) : AtomRes := ⟨st, true, 0⟩

/-- Every atom of the request is visible (writes) or has its data (reads) or is refused: what a fence waits for (R71). -/
def Req.settled (r : Req) : Bool :=
  r.refused.isSome || (if r.op == opFence then r.fenceDone
    else r.res.all fun a => a.st != .waiting || a.visible)

/-- A fence of the same master on the same port, older than request `id`, has not completed (R71). -/
def State.fenced (s : State) (id : Nat) (r : Req) : Bool :=
  s.reqs.any fun e => e.1 < id && e.2.op == opFence && !e.2.fenceDone && e.2.refused.isNone && e.2.src == r.src &&
    e.2.mid == r.mid

end Sys2Proof.Machine
end

