-- ==== Sys2Proof/Machine/Gate.lean ====
section
/-! DEFINITION. Cadence gates (R149–R160): the mask in force, admission of atoms and pieces, writing, arming, cancelling and
taking a swap. -/

namespace Sys2Proof.Machine

/-- A gate list as it runs: since `t`, cycle, and its entries as (mask, duration). -/
structure GateList where
  t : Nat
  cycle : Nat
  ents : List (Nat × Nat)
deriving DecidableEq, Repr

/-- Entry `j` of bank `b` of port group `g`: mask and duration (Table 5.12). -/
def State.gateEnt (s : State) (g b j : Nat) : Nat × Nat :=
  if j % 2 = 0 then (s.fget (F.trfGateEnt_MASK_LO g b (j / 2)), s.fget (F.trfGateEnt_DUR_LO g b (j / 2)))
  else (s.fget (F.trfGateEnt_MASK_HI g b (j / 2)), s.fget (F.trfGateEnt_DUR_HI g b (j / 2)))

/-- The first `len` entries of a bank. -/
def State.gateEnts (s : State) (g b len : Nat) : List (Nat × Nat) := (List.range len).map fun j => s.gateEnt g b j

/-- The mask at offset `off` of a cycle: gate_mask() of R149 on the entries from `acc`, with `m` the last nonzero one. -/
def gateMaskAt : List (Nat × Nat) → Nat → Nat → Nat → Nat
  | [], _, _, m => m
  | (k, d) :: l, off, acc, m =>
    if d = 0 then gateMaskAt l off acc m
    else if off < acc + d then k else gateMaskAt l off (acc + d) k

/-- gate_mask() of R149. -/
def GateList.mask (l : GateList) (now : Nat) : Nat := gateMaskAt l.ents ((now - l.t) % l.cycle) 0 0

/-- The armed list of port group `g`. -/
def State.arm (s : State) (g : Nat) : GateArm := SMap.get s.gates ⟨0, 0, 0⟩ g

/-- The next bank (R152). -/
def State.nextBank (s : State) (g : Nat) : Nat := 1 - s.fget (F.trfGateStatus_ACTIVE_BANK g)

/-- The active list, once a swap has been taken (R150). -/
def State.activeList (s : State) (g : Nat) : Option GateList :=
  if s.flag (F.trfGateStatus_ACTIVE_VALID g) then
    some ⟨s.fget (F.trfGateActBase_T g), s.fget (F.trfGateActCfg_CYCLE g),
      s.gateEnts g (s.fget (F.trfGateStatus_ACTIVE_BANK g)) (s.fget (F.trfGateActCfg_LEN g))⟩
  else none

/-- The armed list of a pending swap. -/
def State.pendingList (s : State) (g : Nat) : Option GateList :=
  if s.flag (F.trfGateStatus_PENDING g) then
    some ⟨(s.arm g).t, (s.arm g).cycle, s.gateEnts g (s.nextBank g) (s.arm g).len⟩
  else none

/-- Class `c` of port group `g` is open at cadence value `v`, under the active list and under a pending swap whose time
has come by then (R149, R150, R154, R157). -/
def State.gateOpen (s : State) (g c v : Nat) : Bool :=
  if !s.flag (F.trfGateCtl_EN g) then true
  else match s.pendingList g with
    | some l => if l.t ≤ v then (l.mask v).testBit c
        else (match s.activeList g with | some a => (a.mask v).testBit c | none => true)
    | none => match s.activeList g with | some a => (a.mask v).testBit c | none => true

/-- now + d ≤ close(c) and class `c` open at now (R157): open at every value from now to now + d − 1. -/
def State.gateFits (s : State) (g c d : Nat) : Bool :=
  s.gateOpen g c s.cadence && (List.range d).all fun i => s.gateOpen g c (s.cadence + i)

/-- close(c) of R157 from now, for a class that closes within `d` ct. -/
def State.gateClose (s : State) (g c d : Nat) : Nat :=
  s.cadence + ((List.range d).find? fun i => !s.gateOpen g c (s.cadence + i)).getD d

/-- RATE10 of a bin (Table 5.1). -/
def rate10 (bin : Nat) : Nat := 256 + 64 * bin

/-- t_atom (R157). -/
def State.tAtom (s : State) (overhead : Nat) : Nat := ceilDiv ((64 + overhead) * 10) (rate10 s.instBin)

/-- The runs of a cycle for class 7: (closed, length), cut or extended to the cycle (R149). -/
def cycleRuns : List (Nat × Nat) → Nat → Nat → List (Bool × Nat)
  | [], left, m => if left = 0 then [] else [(!m.testBit 7, left)]
  | (k, d) :: l, left, m =>
    if d = 0 then cycleRuns l left m
    else if left ≤ d then [(!k.testBit 7, left)]
    else (!k.testBit 7, d) :: cycleRuns l (left - d) k

/-- The closed run at the start of a list of runs. -/
def leadRun : List (Bool × Nat) → Nat
  | [] => 0
  | (b, n) :: l => if b then n + leadRun l else 0

/-- The longest closed run of a list of runs, `cur` being the run so far. -/
def longestRun : List (Bool × Nat) → Nat → Nat
  | [], cur => cur
  | (b, n) :: l, cur => if b then longestRun l (cur + n) else max cur (longestRun l 0)

/-- The first `n` ct of a list of runs. -/
def takeRuns : List (Bool × Nat) → Nat → List (Bool × Nat)
  | [], _ => []
  | (b, k) :: l, n => if n = 0 then [] else if n ≤ k then [(b, n)] else (b, k) :: takeRuns l (n - k)

def GateList.runs (l : GateList) : List (Bool × Nat) := cycleRuns l.ents l.cycle 0

/-- C7_GAP at a swap to `new` at its time, from `old` (R156). -/
def c7Gap (old : Option GateList) (new : GateList) : Nat :=
  let r := new.runs
  if r.all (·.1) then 0xFFFFFFFF
  else
    let own := longestRun (r ++ r) 0
    let tail := match old with
      | none => 0
      | some o =>
        let run := new.t - o.t
        let whole := if o.cycle ≤ run then o.runs else []
        if o.runs.all (·.1) then run else leadRun ((whole ++ takeRuns o.runs (run % o.cycle)).reverse)
    min 0xFFFFFFFF (max own (if (leadRun r) = 0 then tail else tail + leadRun r))

/-- Take port group `g`'s pending swap (R154, R156). -/
def State.takeSwap (s : State) (g : Nat) : State :=
  match s.pendingList g with
  | none => s
  | some l =>
    let gap := c7Gap (s.activeList g) l
    let s := (s.fset (F.trfGateStatus_ACTIVE_BANK g) (s.nextBank g)).raise (F.trfGateStatus_ACTIVE_VALID g)
    let s := (s.fset (F.trfGateStatus_PENDING g) 0).fset (F.trfGateStatus_C7_GAP g) gap
    let s := (s.fset (F.trfGateActBase_T g) l.t).fset (F.trfGateActCfg_CYCLE g) l.cycle
    let s := (s.fset (F.trfGateActCfg_LEN g) l.ents.length).count (F.trfGateSwaps_COUNT g) 1
    { s with gates := SMap.put s.gates ⟨0, 0, 0⟩ g ⟨0, 0, 0⟩ }

/-- A pending swap whose time has come is taken before a decision (R154, R160). -/
def State.settleSwap (s : State) (g : Nat) : State :=
  if s.flag (F.trfGateStatus_PENDING g) && (s.arm g).t ≤ s.cadence then s.takeSwap g else s

/-- A gate entry write (R152): refused for the active bank and for the next bank while a swap is pending; a swap whose time has come has been
taken (R154). -/
def State.gateEntWrite (s : State) (g b j : Nat) (w : Word) : State :=
  let s := s.settleSwap g
  let act := s.flag (F.trfGateStatus_ACTIVE_VALID g) && b == s.fget (F.trfGateStatus_ACTIVE_BANK g)
  let pend := s.flag (F.trfGateStatus_PENDING g) && b == s.nextBank g
  if act || pend then s.raise (F.trfGateStatus_WRITE_REFUSED g) else s.setReg (A.trfGateEnt g b j) w

/-- The outcome of an arm. -/
inductive ArmOut where
  | refused
  | armed (t : Nat) (advanced : Bool)
deriving DecidableEq, Repr

/-- What arming with the given base, cycle and length would do (R153). -/
def State.armOut (s : State) (g base cycle len : Nat) : ArmOut :=
  if cycle = 0 || len = 0 || 256 < len || (s.gateEnts g (s.nextBank g) len).all (fun e => e.2 == 0) ||
      s.flag (F.trfGateStatus_PENDING g) then .refused
  else if s.cadence ≤ base then .armed base false
  else .armed (base + ceilDiv (s.cadence - base) cycle * cycle) true

/-- Arm a swap of port group `g` (R153). -/
def State.gateArm (s : State) (g base cycle len : Nat) : State :=
  match s.armOut g base cycle len with
  | .refused => s.raise (F.trfGateStatus_ARM_REFUSED g)
  | .armed t adv =>
    let s := if adv then
        (s.raise (F.trfGateStatus_BASE_ADVANCED g)).post 0x040A g (g + s.nextBank g * 2 ^ 4) t
      else s
    { (s.raise (F.trfGateStatus_PENDING g)) with gates := SMap.put s.gates ⟨0, 0, 0⟩ g ⟨t, cycle, len⟩ }

/-- Cancel a pending swap before its time (R155). -/
def State.gateCancel (s : State) (g : Nat) : State :=
  if s.flag (F.trfGateStatus_PENDING g) && s.cadence < (s.arm g).t then
    { (s.fset (F.trfGateStatus_PENDING g) 0) with gates := SMap.put s.gates ⟨0, 0, 0⟩ g ⟨0, 0, 0⟩ }
  else s

/-- GATE_ENTRY_WRITE (R152). -/
def execGateEntryWrite (g : Fin 16) (b : Fin 2) (j : Fin 128) (w : Word) (s : State) : Host.Outcome State Fault Refusal :=
  s.cpDo (.gateEntryWrite g b j w) fun s => s.gateEntWrite g.val b.val j.val w

/-- A write of CTL with ARM = 1, which also writes EN (R153). -/
def State.gateArmWrite (s : State) (g : Nat) (en : Bool) : State :=
  let s := s.settleSwap g
  let s := s.fset (F.trfGateCtl_EN g) (bit en)
  s.gateArm g (s.fget (F.trfGateNextBase_BASE g)) (s.fget (F.trfGateNextCfg_CYCLE g)) (s.fget (F.trfGateNextCfg_LEN g))

/-- GATE_ARM (R153). -/
def execGateArm (g : Fin 16) (en : Bool) (s : State) : Host.Outcome State Fault Refusal :=
  s.cpDo (.gateArm g en) fun s => s.gateArmWrite g.val en

/-- GATE_CANCEL (R155): the write of CTL with CANCEL = 1 also writes EN. -/
def execGateCancel (g : Fin 16) (en : Bool) (s : State) : Host.Outcome State Fault Refusal :=
  s.cpDo (.gateCancel g en) fun s => (s.fset (F.trfGateCtl_EN g.val) (bit en)).gateCancel g.val

/-- GATE_SWAP_TAKE (R154): at cadence value T the armed list becomes active. -/
def execGateSwapTake (g : Fin 16) (s : State) : Host.Outcome State Fault Refusal :=
  if s.flag (F.trfGateStatus_PENDING g.val) then
    match s.atCadence (s.arm g.val).t with
    | some s' => .next (s'.takeSwap g.val)
    | none => .next s
  else .next s

end Sys2Proof.Machine
end

