-- ==== Sys2Proof/Machine/Pcc.lean ====
section
/-! DEFINITION. The request buffer of a PCC (R200–R202), forwarding (R208), read and write mode (R211), zero-atom elision
(R213–R216), the merge buffer (R267–R269), Fret installs and removals (R271, R272) and the thermal hold of a write (R401, R402). -/

namespace Sys2Proof.Machine

/-- The piece takes a request-buffer slot: the PCC's own work does not (R200, R216, R267, R271). -/
def Piece.slotted (q : Piece) : Bool := !q.slotless

/-- Occupied slots. -/
def Pcc.occ (c : Pcc) : Nat := (c.buf.filter (·.slotted)).length

/-- Pieces in the buffer that target bank `b` (R201). -/
def Pcc.inBank (c : Pcc) (b : Nat) : Nat := (c.buf.filter fun q => q.slotted && q.bank == b).length

/-- Pieces of a PCC under thermal hold, its own writes among them (R218, R401, R403). -/
def Pcc.thermHeld (c : Pcc) : Nat := (c.buf.filter (·.hold)).length

/-- The key of what waits for a line to be written back (R216). -/
def State.zWaitKey (s : State) (k p : Nat) : Nat :=
  ((s.pcc k p).buf.filter fun q => q.zpend != []).foldl
    (fun m q => max m (pccKey q.cls (if q.aged then s.urgencyOf q.arrival q.label else 0))) 0

/-- The PCC key of a piece now (R181); a write-back's is that of the highest-keyed piece waiting on one (R216). -/
def State.keyOf (s : State) (q : Piece) : Nat :=
  if q.kind = .lineWrite then s.zWaitKey q.stack q.ppc
  else pccKey q.cls (if q.aged then s.urgencyOf q.arrival q.label else 0)

/-- Burst writes of the buffer (R211). -/
def Pcc.burstWrites (c : Pcc) : List Piece :=
  c.buf.filter fun q => (q.kind == .write || q.kind == .mergeWrite || q.kind == .rewrite || q.kind == .atomicAdd || q.kind == .retain || q.kind == .sanWrite ||
      q.kind == .canaryWrite) && q.todo != [] &&
    !q.hold

def State.wrHigh (s : State) (k p : Nat) : Nat :=
  let h := s.fget (F.pccRqCfg_WR_HIGH k p)
  if h = 0 ∨ 63 < h then 63 else h

def State.wrLow (s : State) (k p : Nat) : Nat := min (s.fget (F.pccRqCfg_WR_LOW k p)) (s.wrHigh k p - 1)

/-- Burst writes have been added: at WR_HIGH the PCC goes to write mode (Table 7.3). -/
def State.modeRise (s : State) (k p : Nat) : State :=
  if s.wrHigh k p ≤ (s.pcc k p).burstWrites.length then s.modPcc k p fun c => { c with writeMode := true } else s

/-- A burst write is gone, there having been `before`: at WR_LOW the PCC goes back to read mode (Table 7.3). -/
def State.modeFall (s : State) (k p before : Nat) : State :=
  let n := (s.pcc k p).burstWrites.length
  if n < before ∧ n ≤ s.wrLow k p then s.modPcc k p fun c => { c with writeMode := false } else s

/-- The bank engine's owner is done (R180, R204, Table 7.2). A row that hint 2 governs stays open only for a piece that hits it
(`hit`): else its PRECHARGE is raised at once (R205; DESIGN CHOICE, log entry 79). -/
def Bank.release (b : Bank) (now : Nat) (hit : Bool) : Bank :=
  if b.ap then { b with st := .closed, row := none, owner := none, ap := false, expired := false }
  else { b with st := if b.st = .refreshing then .refreshing else if b.row.isSome then .openIdle else .closed
                owner := none, idleAt := now, expired := b.hint == 2 && b.row.isSome && !hit }

/-- A piece other than `id` in the buffer wants row `r` of bank `b`: it has bursts to come, or atoms whose guess may prove wrong. -/
def Pcc.hitter (c : Pcc) (id b : Nat) (r : Option Nat) : Option Piece :=
  c.buf.find? fun o => o.id != id && o.bank == b && some o.row == r && (o.todo != [] || o.guess != [])

/-- A piece drops its bank-engine grant (R180). -/
def Pcc.dropBank (c : Pcc) (b id now : Nat) : Pcc :=
  if (c.bank b).owner = some id then c.modBank b fun x => x.release now (c.hitter id b x.row).isSome else c

/-- A piece is done: it leaves the buffer and drops what it holds (Table 7.1, R180); a merged write's entry retires with it (R267).
DEDUCED, log entry 21. -/
def State.retire (s : State) (k p id : Nat) : State :=
  let now := s.cadence
  s.modPcc k p fun c =>
    match c.buf.find? fun q => q.id == id with
    | none => c
    | some q =>
      let c := c.dropBank q.bank id now
      { c with buf := c.buf.filter fun o => o.id != id
               merges := if q.kind = .mergeWrite then c.merges.filter fun m => m.id != id else c.merges
               column := if c.column = some id then none else c.column }

/-- The piece with number `id` in the buffer. -/
def Pcc.piece? (c : Pcc) (id : Nat) : Option Piece := c.buf.find? fun q => q.id == id

/-- Change piece `id` of PCC `p`. -/
def State.modPiece (s : State) (k p id : Nat) (f : Piece → Piece) : State := s.modPcc k p fun c => c.modPiece id f

/-- Answer atom `i` of a piece, if a request stands behind it. -/
def State.answer (s : State) (q : Piece) (i : Nat) (r : AtomRes) : State :=
  if q.req = 0 then s else s.setAtom q.req (q.first + i) r

/-- Answer atom `i` of a read piece (R69, Table 9.3). -/
def State.deliver (s : State) (q : Piece) (i : Nat) (d : Atom) (poison : Bool) : State :=
  s.answer q i (if poison then ⟨.poison, true, 0⟩ else ⟨.ok, true, d⟩)

/-- A merge entry's old atom is known (R267). -/
def Pcc.setOld (c : Pcc) (id : Nat) (d : Atom) (poison : Bool) : Pcc :=
  { c with merges := c.merges.map fun m => if m.id = id ∧ m.old = none then { m with old := some (d, poison) } else m }

/-- What atom `i` holds has reached piece `q`: data, poisoned, uncorrectable (R208, R264, R267, R271, R333); a retention scan has still to
write what decoded uncorrectable, and nothing else (R367). -/
def State.take (s : State) (k p : Nat) (q : Piece) (i : Nat) (d : Atom) (poison lost : Bool) : State :=
  match q.kind with
  | .rewrite =>
    if lost then (s.answer q i (.of .poison)).modPiece k p q.id fun x => { x with left := x.left.filter (· != i) }
    else s.modPiece k p q.id fun x => { x with data := x.data.set i d, poison := x.poison.set i poison }
  | .retain => if lost then s else s.modPiece k p q.id fun x => { x with left := x.left.filter (· != i) }
  | .atomicAdd => s.modPiece k p q.id fun x => if x.left.contains i then { x with got := x.got ++ [(i, d, poison, lost)] } else x
  | .mergeRead => s.modPcc k p fun c => c.setOld q.id d poison
  | .fretRead | .fretTake =>
    s.modPcc k p fun c =>
      { c.modPiece q.id (fun x => { x with data := [d], poison := [poison] }) with
        fretQ := c.fretQ.map fun f => if f.id = q.id then { f with lost := lost } else f }
  | _ => s.deliver q i d poison

/-- The same for several atoms, none uncorrectable. -/
def State.takeAll (s : State) (k p : Nat) (q : Piece) (l : List (Nat × Atom × Bool)) : State :=
  s.forEach l fun s e => s.take k p q e.1 e.2.1 e.2.2 false

/-- Atom `i` of a write piece is elided (R214, R266). -/
def State.elides (s : State) (k p : Nat) (q : Piece) (i : Nat) : Bool :=
  s.zmState k p == zmOn && q.data.getD i 0 == 0 && !q.poison.getD i false && q.org != .bow && q.kind != .rewrite &&
    !sameBank s.build (q.u + i)

/-- Make the map updates that a write's atoms still wait for, as far as they can be made (R213, R216); an atom with a burst to come
clears its bit, an elided one sets it. -/
def State.mapWrites (s : State) (k p : Nat) (q : Piece) : State :=
  s.forEach q.zpend fun s i =>
    match s.zWrite k p q (q.u + i) (!q.todo.contains i) with
    | some s => s.modPiece k p q.id fun x => { x with zpend := x.zpend.filter (· != i) }
    | none => s

/-- The write piece of a Fret install or removal whose read has come (R271, R272): the spare atom with the atom's fold, or the data row. -/
def State.fretWrite (s : State) (k p : Nat) (q : Piece) (f : FretJob) : State :=
  let w := { Piece.own k p (if f.remove then .fretBack else .fretWrite) with data := q.data, poison := q.poison, since := s.cadence }
  let w := if f.remove then w.atData s.build f.u (s.addrAt k p f.u) else w.atMeta s.build f.entry
  let w := { w with id := f.id + 1, zpend := if f.remove then [0] else [] }
  s.modPcc k p fun c =>
    { c.insertOwn w with fretQ := c.fretQ.map fun x => if x.id = f.id then { x with st := .writing } else x }

/-- A REWRITE, an atomic add or a retention scan comes to its writes (R264, R333, R367). -/
def Piece.toWrites (q : Piece) : Piece := { q with wr := true, todo := q.left, zpend := q.left, st := .queued }

/-- A write's elided atoms need no burst (R214). -/
def State.elide (s : State) (k p : Nat) (q : Piece) : State :=
  let el := q.todo.filter fun i => s.elides k p q i
  let s := s.count (F.pccZmElidedWr_COUNT k p) el.length
  let s := s.setSalvage k p ((s.salvageOf k p).filter fun u => !(el.any fun i => q.u + i == u))
  s.modPiece k p q.id fun x => { x with todo := x.todo.filter fun i => !el.contains i }

/-- A removal's write has been handed over or elided: the entry is made invalid (R272). -/
def State.fretRemoved (s : State) (k p id : Nat) : State :=
  match (s.pcc k p).fretQ.find? fun f => f.id + 1 == id with
  | none => s
  | some f => (s.setReg (A.pccFretEnt k p f.entry) 0).modPcc k p fun c => { c with fretQ := c.fretQ.filter fun x => x.id != f.id }

/-- An install's write has been handed over: step 3 of R271 is to come. -/
def State.fretWritten (s : State) (k p id : Nat) : State :=
  s.modPcc k p fun c => { c with fretQ := c.fretQ.map fun f => if f.id + 1 = id then { f with st := .written } else f }

/-- A piece with no burst left is done, once nothing more of it is awaited (Table 7.1). -/
def State.finishPiece (s : State) (k p : Nat) (q : Piece) : State :=
  match q.kind with
  | .fretRead | .fretTake =>
    let s := s.retire k p q.id
    match (s.pcc k p).fretJob q.id with
    | some f => s.fretWrite k p q f
    | none => s
  | .fretWrite => (s.retire k p q.id).fretWritten k p q.id
  | .fretBack => (s.retire k p q.id).fretRemoved k p q.id
  | .atomicAdd | .rewrite | .retain =>
    if q.wr || q.left = [] then s.retire k p q.id
    else if q.got != [] then s.modPiece k p q.id fun x => { x with st := .drain }
    else s.modPiece k p q.id Piece.toWrites
  | _ => s.retire k p q.id

/-- A piece moves on when nothing more of it needs a burst (Table 7.1). -/
def State.settle (s : State) (k p id : Nat) : State :=
  match (s.pcc k p).piece? id with
  | none => s
  | some q =>
    if q.todo != [] then s
    else if q.conf || q.guess != [] then s.modPiece k p id fun x => { x with st := .confirm }
    else if q.pend != [] || q.zpend != [] then s.modPiece k p id fun x => { x with st := .drain }
    else s.finishPiece k p q

/-- The writes of piece `id` begin: atoms are elided, the map updated in buffer order (R213, R214). -/
def State.startWrites (s : State) (k p id : Nat) : State :=
  match (s.pcc k p).piece? id with
  | none => s
  | some q =>
    let s := s.elide k p q
    let s := match (s.pcc k p).piece? id with | some q => s.mapWrites k p q | none => s
    (s.settle k p id).modeRise k p

/-- A piece that has come to its writes begins them. -/
def State.goOn (s : State) (k p id : Nat) : State :=
  let s := s.settle k p id
  match (s.pcc k p).piece? id with
  | some q => if q.wr && q.todo = q.left && q.zpend = q.left then s.startWrites k p id else s
  | none => match (s.pcc k p).piece? (id + 1) with
    | some q => if q.kind = .fretBack && q.zpend != [] then s.startWrites k p (id + 1) else s
    | none => s

/-- The predictor guesses that a read piece's atoms are zero (R215). -/
def State.guesses (s : State) (k p : Nat) (q : Piece) : Bool :=
  q.kind == .read && q.cls != 7 && s.flag (F.pccZmapCtl_PRED_EN k p) && 2 ≤ SMap.get (s.pcc k p).pred 0 (q.u / 512 % 64)

/-- The piece waits for its zero-map line (R215): a read whose bursts go ahead unless the guess is zero; the other readers wait. -/
def State.awaitLine (s : State) (k p : Nat) (q : Piece) (need : List Nat) : State :=
  s.modPiece k p q.id fun x =>
    if q.kind != .read || s.guesses k p q then { x with todo := [], guess := need, conf := true, st := .confirm }
    else { x with todo := need, conf := true, st := .queued }

/-- A piece that reads and meets no hazard (Table 7.1, R208, R215, R282): forwarded atoms are answered, known zeros are
answered, the rest need bursts, or wait for the line. -/
def State.evalRead (s : State) (k p : Nat) (q : Piece) : State :=
  let c := s.pcc k p
  let fw := if q.kind = .read then q.todo.filterMap fun i => match c.aheadOfRead q.id (q.u + i) with
      | .forward d b => some (i, d, b)
      | _ => none
    else []
  let rest := q.todo.filter fun i => !(fw.any fun e => e.1 == i)
  let lost := rest.filter fun i => (s.salvageOf k p).contains (q.u + i)
  let need := rest.filter fun i => !lost.contains i
  let s := (s.takeAll k p q fw).count (F.pccForwards_COUNT k p) fw.length
  let s := s.forEach lost fun s i => s.take k p q i 0 true (q.kind != .retain)
  if need = [] || !s.zmUsed k p || sameBank s.build q.u then
    (s.modPiece k p q.id fun x => { x with todo := need, st := .queued }).goOn k p q.id
  else
    match c.line (zLineOf q.u) with
    | some z =>
      if z.st = .filling then s.awaitLine k p q need
      else
        let zeros := need.filter fun i => lineBit z.bits (zBitOf (q.u + i))
        let s := s.takeAll k p q (zeros.map fun i => (i, (0 : Atom), false))
        let s := if q.kind = .read then s.count (F.pccZmElidedRd_COUNT k p) zeros.length else s
        let s := s.modPcc k p fun c => c.setLine { z with used := s.cadence }
        (s.modPiece k p q.id fun x => { x with todo := need.filter fun i => !zeros.contains i, st := .queued }).goOn k p q.id
    | none =>
      match s.startFill k p q (zLineOf q.u) [] with
      | some s => (if q.kind = .read then s.count (F.pccZmMisses_COUNT k p) 1 else s).awaitLine k p q need
      | none => s.awaitLine k p q need

/-- A metadata piece, or one that reads a data row as it is: it needs its bursts. -/
def State.evalRaw (s : State) (k p : Nat) (q : Piece) : State := s.modPiece k p q.id fun x => { x with st := .queued }

/-- A write piece that meets no hazard (R213, R214). -/
def State.evalWrite (s : State) (k p : Nat) (q : Piece) : State :=
  (s.modPiece k p q.id fun x => { x with st := .queued, zpend := x.todo }).startWrites k p q.id

/-- Entries of the merge buffer for a write-partial piece (R267). -/
def Piece.mergeEntries (q : Piece) : List Merge :=
  (List.range q.n).map fun i =>
    ⟨q.id + 1 + i, q.req, q.first + i, q.u + i, q.addr + 64 * i, q.lpc, q.lane, q.org, q.cls, q.label, q.arrival, q.aged,
      q.be.getD i 0, q.data.getD i 0, .reading, none, 0, false⟩

/-- The piece that a merge entry's read or write makes, without a slot (R267): its rotation number is one of those after the slots
(DESIGN CHOICE, log entry 78). -/
def State.mergePiece (s : State) (k p : Nat) (m : Merge) (kind : PKind) : Piece :=
  let q := (Piece.own k p kind).atData s.build m.u m.addr
  { q with id := m.id, req := if kind = .mergeWrite then m.req else 0, first := m.atom, lane := m.lane, org := m.org, cls := m.cls
           label := m.label, arrival := m.arrival, aged := m.aged, lpc := m.lpc, data := [m.data], poison := [m.poison]
           since := s.cadence, st := .held }

/-- The older entry of the same atom whose merged atom a merge entry takes (R267). -/
def Pcc.olderMerge (c : Pcc) (m : Merge) : Option Merge :=
  (c.merges.filter fun o => o.id < m.id && o.u == m.u).getLast?

/-- A new merge entry goes for its old atom: an older entry's merged atom, at once if it is MERGED, else its own read (R267). -/
def State.mergeStart (s : State) (k p : Nat) (m : Merge) : State :=
  match (s.pcc k p).olderMerge m with
  | some o => if o.st = .merged then s.modPcc k p fun c => c.setOld m.id o.data o.poison else s
  | none =>
    let q := s.mergePiece k p m .mergeRead
    (s.modPcc k p fun c => c.insertOwn q).evalRead k p q

/-- A queued write-partial piece is taken into the merge buffer when there is room, in buffer order at each atom (R267,
R269); it is visible then. -/
def State.takePartial (s : State) (k p : Nat) (q : Piece) : State :=
  let c := s.pcc k p
  let ahead := c.buf.any fun o => o.id < q.id && o.kind == .partialWrite &&
    (List.range q.n).any fun i => o.writes (q.u + i)
  if q.st = .queued && c.merges.length + q.n ≤ 16 && !ahead then
    let s := s.retire k p q.id
    let s := s.modPcc k p fun c => { c with merges := c.merges ++ q.mergeEntries }
    let s := s.forEach q.mergeEntries fun s m => s.mergeStart k p m
    s.forEach (List.range q.n) fun s i => s.setVisible q.req (q.first + i)
  else s

/-- Every write-partial piece that can be taken now is taken. -/
def State.takePartials (s : State) (k p : Nat) : State :=
  s.forEach ((s.pcc k p).buf.filter fun q => q.kind == .partialWrite) fun s q => s.takePartial k p q

/-- Evaluate a piece on entry, or again when its last hazard or hold has cleared (Table 7.1). -/
def State.evaluate (s : State) (k p : Nat) (q : Piece) : State :=
  if q.hold || (s.pcc k p).hazard q then (s.modPiece k p q.id fun x => { x with st := .held }).modeRise k p
  else match q.kind with
    | .read | .rewrite | .atomicAdd | .retain | .mergeRead | .fretTake => if q.inMeta then s.evalRaw k p q else s.evalRead k p q
    | .write | .mergeWrite | .fretBack => (s.evalWrite k p q).takePartials k p
    | .partialWrite =>
      let q := { q with st := .queued }
      (s.modPiece k p q.id fun _ => q).takePartial k p q
    | _ => s.evalRaw k p q

/-- A piece that no longer waits for the thermal window is visible: a write that carries its data, answered; an
atomic add, whose result every later read waits for (R70, R333). -/
def State.visible (s : State) (q : Piece) : State :=
  match q.kind with
  | .write => if q.req = 0 then s else s.setAtoms q.req q.first q.n ⟨.ok, true, 0⟩
  | .atomicAdd => s.forEach (List.range q.n) fun s i => s.setVisible q.req (q.first + i)
  | _ => s

/-- The lowest free slot of the request buffer (R200). -/
def Pcc.freeSlot (c : Pcc) : Nat := ((List.range 64).find? fun i => !(c.buf.any fun q => q.slotted && q.slot == i)).getD 0

/-- The piece as it enters a buffer at place `id`. REWRITE and atomic-add pieces are treated as writes (R207, R333, R401). -/
def Piece.entering (q : Piece) (id p slot now : Nat) (closed : Bool) : Piece :=
  let hold := q.isWrite && closed
  { q with id := id, ppc := p, st := .held, slot := slot, todo := List.range q.n, pend := [], left := List.range q.n
           since := now, hold := hold, holdAt := if hold && !q.hold then now else q.holdAt }

/-- A piece enters PCC `p` of stack `k` (R200, R202, R401). -/
def State.enter (s : State) (k p : Nat) (q : Piece) : State :=
  let q := q.entering s.nextPiece p (s.pcc k p).freeSlot s.cadence (s.windowClosed k)
  let s := { s with nextPiece := s.nextPiece + 64 }
  let s := s.modPcc k p fun c => { c with buf := c.buf ++ [q] }
  if q.hold then s else (s.visible q).evaluate k p q

/-- The first held piece that nothing holds any more. -/
def State.released (s : State) (k p : Nat) : Option Piece :=
  (s.pcc k p).buf.find? fun q => q.st == .held && !q.hold && !(s.pcc k p).hazard q

/-- HAZARD_CLEAR (Table 7.1): a held piece whose last hazard or hold has cleared is evaluated again. -/
def execHazardClear (k : Fin 8) (p : Fin 64) (s : State) : Host.Outcome State Fault Refusal :=
  match s.released k.val p.val with
  | some q => .next (s.evaluate k.val p.val q)
  | none => .next s

/-- The pieces of a PCC under thermal hold are evaluated again in buffer order (R405). -/
def State.openPcc (s : State) (k p : Nat) : State :=
  s.forEach ((s.pcc k p).buf.filter (·.hold)) fun s q =>
    let q := { q with hold := false }
    let s := s.modPiece k p q.id fun _ => q
    (s.visible q).evaluate k p q

/-- What waited for a zero-map line or for a map update goes on, in buffer order (R215, R216). -/
def State.zRetry (s : State) (k p : Nat) : State :=
  s.forEach ((s.pcc k p).buf.map (·.id)) fun s id =>
    match (s.pcc k p).piece? id with
    | none => s
    | some q =>
      if q.zpend != [] && !q.hold && q.st != .held then (s.mapWrites k p q).settle k p id
      else if q.conf && ((s.pcc k p).line (zLineOf q.u)).isNone then
        match s.startFill k p q (zLineOf q.u) [] with
        | some s => if q.kind = .read then s.count (F.pccZmMisses_COUNT k p) 1 else s
        | none => s
      else s

/-- The oldest merge entry whose old atom is known. -/
def Pcc.mergeReady (c : Pcc) : Option Merge := c.merges.find? fun m => m.st == .reading && m.old.isSome

/-- The next younger entry of the same atom takes the merged atom (R267). -/
def Pcc.passOn (c : Pcc) (m : Merge) : Pcc :=
  match c.merges.find? fun o => m.id < o.id && o.u == m.u with
  | some o => c.setOld o.id m.data m.poison
  | none => c

/-- A merge entry reaches MERGED with the given old atom (R267, R268). -/
def State.merged (s : State) (k p : Nat) (m : Merge) (old : Atom) (bad : Bool) : State :=
  let m := { m with st := .merged, poison := bad, data := if bad then mergeBytes 0 m.new m.be else mergeBytes old m.new m.be }
  let s := s.modPcc k p fun c => ({ c with merges := c.merges.map fun (x : Merge) => if x.id = m.id then m else x } : Pcc).passOn m
  let q := s.mergePiece k p m .mergeWrite
  let s := s.modPcc k p fun c => c.insertOwn q
  let s := if m.req = 0 then s else s.setAtom m.req m.atom (if bad then ⟨.poison, true, 0⟩ else ⟨.ok, true, 0⟩)
  s.evaluate k p q

/-- MERGE_READ_DONE (R267, R268): the oldest entry that has obtained its old atom reaches MERGED. -/
def execMergeReadDone (k : Fin 8) (p : Fin 64) (s : State) : Host.Outcome State Fault Refusal :=
  .next (match (s.pcc k.val p.val).mergeReady with
    | none => s
    | some m => s.merged k.val p.val m (m.old.getD (0, false)).1 (m.old.getD (0, false)).2)

/-- The oldest burst write of a PCC. -/
def Pcc.oldestBurst (c : Pcc) : Option Piece := c.burstWrites.head?

/-- WRITE_MODE_AGE (Table 7.3): the oldest burst write has been in the buffer for WR_AGE ct. -/
def execWriteModeAge (k : Fin 8) (p : Fin 64) (s : State) : Host.Outcome State Fault Refusal :=
  let age := s.fget (F.pccRqCfg_WR_AGE k.val p.val)
  match (s.pcc k.val p.val).oldestBurst with
  | none => .next s
  | some q =>
    if age = 0 then .next s
    else match s.atCadence (q.since + age) with
      | some s => .next (s.modPcc k.val p.val fun c => { c with writeMode := true })
      | none => .next s

/-- PRED_EN_WRITE (R215): a write of ZMAP_CTL clears the predictor's counters. -/
def State.predWrite (s : State) (k p : Nat) (en : Bool) : State :=
  (s.fset (F.pccZmapCtl_PRED_EN k p) (bit en)).modPcc k p fun c => { c with pred := [] }

/-- PRED_EN_WRITE (R215). -/
def execPredEnWrite (k : Fin 8) (p : Fin 64) (en : Bool) (s : State) : Host.Outcome State Fault Refusal :=
  s.cpStk k (.predEnWrite k p en) fun s => s.predWrite k.val p.val en

end Sys2Proof.Machine
end

