-- ==== Sys2Proof/Machine/Ingress.lean ====
section
/-! DEFINITION. The stack ingress (R186–R189): how a request becomes pieces (R67), which pieces an output may admit, the
grant with its decode and access check (R104, R110–R112), the sort buffer (R219, R220), the accesses that the block makes for itself on
lanes 17 to 19, the answers of a lost logical PC (R47) and the hold timer (R403, R404). -/

namespace Sys2Proof.Machine

/-- Atoms of a request that lie in consecutive columns of one row under order `o` (R67, Table 3.3). -/
def pieceAtoms (o : Nat) : Nat := if o = 0 then 4 else if o = 2 then 1 else 16

/-- Atoms of the piece that holds atom `i` of a request of `atoms` atoms. -/
def State.pieceLen (s : State) (atoms : Nat) : Nat := min (pieceAtoms s.order) atoms

/-- Internal operation code of a REWRITE request of a sequencer (R264). -/
def opRewrite : Nat := 8

/-- What a piece of a request does at its PCC; a write-partial with every enable set is a write (R57). -/
def Req.pkind (r : Req) : PKind :=
  if r.op = opRead then .read
  else if r.op = opWrite then .write
  else if r.op = opPartial then (if r.be.toNat % 2 ^ (64 * r.atoms) = 2 ^ (64 * r.atoms) - 1 then .write else .partialWrite)
  else if r.op = opAtomic then .atomicAdd
  else if r.op = opRewrite then .rewrite
  else .probe

/-- The origin of a request's pieces (Table 3.19): for one that came over the Bridge the port at which the sibling accepted it (R83). -/
def Req.porigin (r : Req) : POrigin :=
  match r.src with
  | .port n => .port n
  | .bridge => .port r.origin
  | .ctx c => .ctx c
  | .own (.prog _ _) | .own (.code _) => .ctx r.origin
  | .own _ => .service

/-- The masks that the decode of a request's pieces checks (Table 3.10): those of its operation; for an instruction the fetch mask; none for
what the block reads and writes for itself (R122, R287). -/
def Req.checks (r : Req) : List AMask :=
  match r.src with
  | .own (.code _) => [.fetch]
  | .own _ => []
  | _ => r.pkind.masks

/-- A piece of `n` atoms from device address `a`, before its ingress decision. -/
def State.newPiece (s : State) (kind : PKind) (lane cls : Nat) (org : POrigin) (mid a n : Nat) (data : List Atom)
    (poison : List Bool) (be : List (BitVec 64)) : Piece :=
  let l := s.locOf a
  { Piece.own l.stack 0 kind with
    id := s.nextPiece, n := n, lane := lane, org := org, cls := cls, arrival := s.cadence, mid := mid, addr := a, lpc := l.lpc
    bank := l.lin, row := l.row, u := l.u s.build, data := data, be := be, poison := poison, since := s.cadence, st := .lane
    slotless := false, aged := lane < 17, checks := kind.masks, slot := 0, todo := [] }

/-- The piece of request `id` that starts at atom `first` (R67). -/
def State.reqPiece (s : State) (id : Nat) (r : Req) (first lane cls page : Nat) : Piece :=
  let n := s.pieceLen r.atoms
  let ix := (List.range n).map (first + ·)
  { s.newPiece r.pkind lane cls r.porigin r.mid (r.addr + 64 * first) n (ix.map fun i => payloadAtom r.data i)
      (ix.map fun i => r.wpoison.getLsbD i) (ix.map fun i => enablesAtom r.be i) with
    req := id, first := first, label := r.label, arrival := r.arrival, page := page, order := r.order
    stream := r.stream, red := r.red, checks := r.checks }

/-- A piece joins its lane, with its place in order. -/
def State.toLane (s : State) (q : Piece) : State :=
  { s with lanes := s.lanes ++ [{ q with id := s.nextPiece }], nextPiece := s.nextPiece + 64 }

/-- The class of a lane's piece at the ingress (Table 6.3). -/
def State.laneClass (s : State) (q : Piece) : Nat := if q.lane = 16 then s.fget F.arbLaneCfg_BRIDGE_CLASS else q.cls

/-- The urgency of a lane's piece at the ingress (Table 6.3). -/
def State.laneUrgency (s : State) (q : Piece) : Nat := if q.lane < 17 then s.urgencyOf q.arrival q.label else 0

/-- The priority of a lane's piece (R187). -/
def State.lanePriority (s : State) (q : Piece) : Nat :=
  min (s.fget (F.arbStkCfg_CEILING q.stack))
    (s.fget (F.arbBase q.stack (s.laneClass q)) + 2 * s.laneUrgency q + q.aging)

/-- Where a piece goes at its ingress decision: by the map, or to the physical PC it names, unless the logical PC it is for is lost (R47, R279,
R280). -/
def State.pieceRoute (s : State) (q : Piece) : Route :=
  match q.dest with
  | some p => if q.lpc < 64 && s.fget (F.pcmapEntry_STATE q.stack q.lpc) == 3 then .lost else .goes p
  | none => s.route q.stack q.lpc q.u

/-- The output a piece is offered at: that of the PC it would go to, or waits for (R280). -/
def State.pieceOutput (s : State) (q : Piece) : Option Nat :=
  match s.pieceRoute q with
  | .goes p => some p
  | .wait => some (s.fget (F.pcmapEntry_PPC q.stack q.lpc))
  | .lost => none

/-- The quota window of stack `k` in which a decision now lies (R189). -/
def State.quotaNow (s : State) (k : Nat) : Quota :=
  let w := s.fget (F.arbStkCfg_QWIN k)
  let q := SMap.get s.quota Quota.init k
  if w = 0 then Quota.init
  else if q.window = s.cadence / w then q else { Quota.init with window := s.cadence / w }

def State.setQuota (s : State) (k : Nat) (q : Quota) : State := { s with quota := SMap.put s.quota Quota.init k q }

/-- A class is over its quota in window `q` (R189): it was masked in it, or what has been granted has reached the quota. -/
def State.quotaOver (s : State) (k c : Nat) (q : Quota) : Bool :=
  let lim := s.fget (F.arbQuota k c)
  s.fget (F.arbStkCfg_QWIN k) != 0 && lim != 0 && (q.masked.contains c || lim ≤ q.counts.getD c 0)

/-- Class `c` is masked at stack `k` for the rest of the window (R189); lane 19's class-7 reads never are. -/
def State.quotaMasked (s : State) (k c lane : Nat) : Bool := s.quotaOver k c (s.quotaNow k) && !(lane == 19 && c == 7)

/-- The classes that have come over their quotas at stack `k` are masked, and the maskings counted (R189). -/
def State.quotaSettle (s : State) (k : Nat) : State :=
  let q := s.quotaNow k
  let new := (List.range 8).filter fun c => s.quotaOver k c q && !q.masked.contains c
  if new = [] then s else (s.setQuota k { q with masked := q.masked ++ new }).count (F.arbStkQuotaMasks_COUNT k) new.length

/-- `n` atoms of class `c` have been granted at stack `k` (R189). DEDUCED, log entry 30. -/
def State.quotaCount (s : State) (k c n : Nat) : State :=
  if s.fget (F.arbStkCfg_QWIN k) = 0 then s
  else
    let q := s.quotaNow k
    (s.setQuota k { q with counts := q.counts.modify c (· + n) }).quotaSettle k

/-- Slots kept for class 7 (R188). -/
def State.rsv7 (s : State) (k : Nat) : Nat := min 63 (s.fget (F.arbStkCfg_RSV7 k))

/-- Pieces per bank below class 7 (R201). -/
def State.bankLimit (s : State) (k p : Nat) : Nat := min 64 (max 1 (s.fget (F.pccRqCfg_BANK_LIMIT k p)))

/-- Slots for writes under thermal hold (R403). -/
def State.holdSlots (s : State) : Nat := min 64 (max 1 (s.fget F.thmCfg_HOLD_SLOTS))

/-- Output `p` admits class `c` in its Capo state (Table 6.6). -/
def State.capoAdmits (s : State) (k p c : Nat) : Bool :=
  match (s.out k p).st with
  | .run => true
  | .soft => c == 7
  | _ => false

/-- The PCC has room for the piece (R188, R201). A probe, which is answered at its decode and takes no slot, is admitted to a full
buffer (DESIGN CHOICE, log entry 81). -/
def State.roomFor (s : State) (k p : Nat) (q : Piece) : Bool :=
  let c := s.pcc k p
  if q.kind == .probe then true
  else if s.laneClass q = 7 then
    c.occ < 64 && !(c.buf.any fun o => o.slotted && o.cls == 7 && o.bank == q.bank)
  else s.rsv7 k < 64 - c.occ && c.inBank q.bank < s.bankLimit k p

/-- The gate of an NMU or Bow access (R151). -/
def State.laneGate (s : State) (q : Piece) : Bool :=
  if q.lane = 17 then
    !s.flag F.trfNmuBind_GATED ||
      s.gateFits (s.fget F.trfNmuBind_PGROUP) q.cls (q.n * s.tAtom (s.fget F.trfNmuBind_OVERHEAD))
  else if q.lane = 18 then
    !s.flag F.trfBowBind_GATED ||
      s.gateFits (s.fget F.trfBowBind_PGROUP) q.cls (q.n * s.tAtom (s.fget F.trfBowBind_OVERHEAD))
  else true

/-- The thermal window keeps the piece upstream (R403). -/
def State.thermMasked (s : State) (k p : Nat) (q : Piece) : Bool :=
  q.isWrite && s.windowClosed k && s.holdSlots ≤ (s.pcc k p).thermHeld

/-- An earlier piece of the stream for the same PC is still in another lane or in the sort buffer, or an earlier piece
of the lane for the same atoms is in the sort buffer (R209). -/
def State.streamWaits (s : State) (q : Piece) : Bool :=
  q.lane < 16 && (
    (s.lanes.any fun o => o.id < q.id && o.lane < 16 && o.lane != q.lane && o.stream == q.stream && o.stack == q.stack &&
      o.lpc == q.lpc) ||
    (s.sorting.any fun o => o.id < q.id && o.stack == q.stack && o.lpc == q.lpc &&
      ((o.stream == q.stream && o.lane != q.lane) || (o.lane == q.lane && o.u < q.u + q.n && q.u < o.u + o.n))))

/-- Output `p` of stack `k` admits the piece now, the thermal window apart (R188, R189, R193, R201, R209, R280, R151). -/
def State.admitsCold (s : State) (k p : Nat) (q : Piece) : Bool :=
  s.pieceRoute q == .goes p && s.capoAdmits k p (s.laneClass q) && s.roomFor k p q &&
    !s.quotaMasked k (s.laneClass q) q.lane && s.laneGate q && !s.streamWaits q

/-- Output `p` of stack `k` admits the piece now. -/
def State.admits (s : State) (k p : Nat) (q : Piece) : Bool := s.admitsCold k p q && !s.thermMasked k p q

/-- A piece waits in its lane for room in the sort buffer (R219). -/
def State.sortWaits (s : State) (q : Piece) : Bool := q.sortable && s.flag F.trfSortCfg_EN

/-- The first piece of lane `l`, made by origin `f`, for output `p` of stack `k`. -/
def State.laneFirst (s : State) (k p l : Nat) (f : POrigin → Bool) : Option Piece :=
  s.lanes.find? fun q => q.lane == l && q.stack == k && f q.org && s.pieceOutput q == some p

/-- The piece of NMU `j` of stack `k` for output `p` (Table 6.3). -/
def State.nmuFirst (s : State) (k p j : Nat) : Option Piece := s.laneFirst k p 17 fun o => o == .nmu (4 * k + j)

/-- The piece lane `l` offers at output `p` of stack `k` (R186): the first of the lane for it; in lane 17 that of the NMU whose turn it is
there (the rotation is kept for each output; DESIGN CHOICE, log entry 82). -/
def State.laneHead (s : State) (k p l : Nat) : Option Piece :=
  if l = 17 then
    (arbitrate 4 (s.out k p).nmuRot ((List.range 4).filterMap fun j => (s.nmuFirst k p j).map fun _ => (j, 0))).bind (s.nmuFirst k p)
  else (s.laneFirst k p l fun _ => true).filter fun q => !s.sortWaits q

/-- The pieces offered at output `p` of stack `k`. -/
def State.laneHeads (s : State) (k p : Nat) : List Piece := (List.range 20).filterMap (s.laneHead k p)

/-- Change a piece in a lane. -/
def State.modLane (s : State) (id : Nat) (f : Piece → Piece) : State :=
  { s with lanes := s.lanes.map fun q => if q.id = id then f q else q }

def State.dropLane (s : State) (id : Nat) : State := { s with lanes := s.lanes.filter fun q => q.id != id }

/-- Stack `k` has an ACTIVE NMU (R352). -/
def State.nmuServes (s : State) (k : Nat) : Bool := (List.range 4).any fun j => s.fget (F.nmuStatus_STATE (4 * k + j)) == 0

/-- A piece that has won its output is checked, and moved into the buffer, answered a probe, or denied (R110–R112). -/
def State.place (s : State) (k p : Nat) (q : Piece) : State :=
  let q := { q with cls := s.laneClass q }
  let g := s.group q.mid
  let s := if q.kind == .probe then s else s.quotaCount k q.cls q.n
  match s.access k q.addr g q.checks with
  | some d => (s.deny k q.addr q.mid q.org d).setAtoms q.req q.first q.n (.of .denied)
  | none =>
    if q.kind == .atomicAdd && !s.nmuServes k then
      (s.deny k q.addr q.mid (.nmu (SMap.get s.nmuLast 0 k)) ⟨s.deciding k q.addr, .nmu⟩).setAtoms q.req q.first q.n (.of .denied)
    else if q.kind == .probe then
      let w := (s.deciding k q.addr).getD 0
      let rec64 := BitVec.ofNat 64 (s.probeRecord q.addr g w (q.lane == 16))
      (s.modReq q.req fun r => { r with probe := rec64 }).setAtoms q.req q.first q.n (.of .ok)
    else if q.kind == .partialWrite && (s.req? q.req).any (fun r => r.be.toNat % 2 ^ (64 * r.atoms) == 0) then
      s.setAtoms q.req q.first q.n (.of .ok)
    else s.enter k p q

/-- The decision of output `p` of stack `k` (R187). DEDUCED, log entry 23. -/
def State.ingressDecide (s : State) (k p : Nat) : State :=
  let heads := s.laneHeads k p
  let now := s.cadence
  let s := s.forEach (heads.filter fun q => s.admitsCold k p q && s.thermMasked k p q && !q.hold) fun s q =>
    s.modLane q.id fun x => { x with hold := true, holdAt := now }
  let ok := heads.filter fun q => s.admits k p q
  match arbitrate 20 (s.out k p).rot (ok.map fun q => (q.lane, s.lanePriority q)) with
  | none => s
  | some l =>
    match ok.find? fun q => q.lane == l with
    | none => s
    | some q =>
      let s := s.forEach (ok.filter fun o => o.id != q.id) fun s o => s.modLane o.id fun x => { x with aging := x.aging + 1 }
      let turn := match q.org with | .nmu n => n % 4 | _ => (s.out k p).nmuRot
      let s := (s.dropLane q.id).modOut k p fun o => { o with rot := l, nmuRot := turn }
      s.place k p { q with aging := 0 }

/-- INGRESS_GRANT (R187). A swap of a gating list whose time has come is in force (R154). -/
def execIngressGrant (k : Fin 8) (p : Fin 64) (s : State) : Host.Outcome State Fault Refusal :=
  let s := (s.settleSwap (s.fget F.trfNmuBind_PGROUP)).settleSwap (s.fget F.trfBowBind_PGROUP)
  .next ((s.quotaSettle k.val).ingressDecide k.val p.val)

/-- An access that the block makes for itself (Table 6.3): its lane, class, origin, master ID, label, the masks its decode
checks, and the physical PC it goes to, if not by the map. -/
structure Access where
  lane : Nat
  cls : Nat
  org : POrigin
  mid : Nat
  masks : List AMask
  dest : Option Nat

/-- The request record that accounts for an access of the block's own. -/
def ownReq (o : Own) (op n a mid now : Nat) (be : BitVec 256) : Req :=
  { src := .own o, origin := 0, op := op, atoms := n, addr := a, mid := mid, stream := 0, label := 0, tag := 0, page := 0
    order := false, colour := 0, arrival := now, red := 0, data := 0, be := be, wpoison := 0
    res := List.replicate n ⟨.waiting, false, 0⟩, refused := none, started := n, deferred := none, forwarded := false, sorted := false
    batch := false, flits := 0, lastSent := false, fenceDone := false, probe := 0, entered := now }

/-- The access `o` under way. -/
def State.ownFind (s : State) (o : Own) : Option (Nat × Req) := s.reqs.find? fun e => e.2.src == .own o

/-- Begin access `o`: its piece joins its lane. DESIGN CHOICE, log entry 22. -/
def State.ownStart (s : State) (o : Own) (x : Access) (kind : PKind) (a n : Nat) (data : List Atom) (poison : List Bool)
    (be : List (BitVec 64)) : State :=
  let id := s.nextReq
  let op := match kind with | .read => opRead | .write => opWrite | _ => opPartial
  let q := { s.newPiece kind x.lane x.cls x.org x.mid a n data poison be with req := id, checks := x.masks, dest := x.dest }
  { (s.putReq id (ownReq o op n a x.mid s.cadence (BitVec.ofNat 256 ((be.headD 0).toNat)))).toLane q with nextReq := id + 1 }

/-- How access `o` stands: it is begun if it is not under way; once it has been answered its record goes. -/
def State.ownGo (s : State) (o : Own) (start : State → State) : State × Direct :=
  match s.ownFind o with
  | none => (start s, .blocked)
  | some e => match e.2.direct with
    | .blocked => (s, .blocked)
    | d => (s.dropReq e.1, d)

/-- Read `n` atoms from address `a`; the data is that of the first. -/
def State.ownRead (s : State) (o : Own) (x : Access) (a : Nat) : State × Direct :=
  s.ownGo o fun s => s.ownStart o x .read (a / 64 * 64) 1 [] [] []

/-- Write atoms from address `a`, or the bytes enabled in `be` of one. -/
def State.ownWrite (s : State) (o : Own) (x : Access) (a : Nat) (data : List Atom) (poison : List Bool) (be : Option (BitVec 64)) :
    State × Direct :=
  s.ownGo o fun s => s.ownStart o x (if be.isSome then .partialWrite else .write) (a / 64 * 64) data.length data poison be.toList

/-- Forget access `o` and its pieces at the ingress. -/
def State.ownDrop (s : State) (o : Own) : State :=
  match s.ownFind o with
  | none => s
  | some e => { s.dropReq e.1 with lanes := s.lanes.filter fun q => q.req != e.1 }

/-- The service lane's accesses (Table 6.3, R132): unchecked, class 7 for reads, class 0 for writes. -/
def serviceAccess (cls : Nat) : Access := ⟨19, cls, .service, 0, [], none⟩

/-- The service lane's read of one atom. -/
def State.serviceRead (s : State) (o : Own) (a : Nat) : State × Direct := s.ownRead o (serviceAccess 7) a

/-- The service lane's write of the bytes enabled in `be`. -/
def State.serviceWrite (s : State) (o : Own) (a : Nat) (d : Atom) (be : Option (BitVec 64)) : State × Direct :=
  s.ownWrite o (serviceAccess 0) a [d] [false] be

/-- The oldest piece at the ingress of stack `k` whose logical PC is lost (R104). -/
def State.lostPiece (s : State) (k : Nat) : Option Piece :=
  s.lanes.find? fun q => q.stack == k && s.pieceRoute q == .lost

/-- RETIRED_LOSS_ANSWER (R104, R47). A probe of a lost logical PC returns its record, with PC_STATE 3 (R72). -/
def execRetiredLossAnswer (k : Fin 8) (s : State) : Host.Outcome State Fault Refusal :=
  match s.lostPiece k.val with
  | none => .next s
  | some q =>
    let s := s.dropLane q.id
    .next (if q.kind = .probe then s.place k.val 0 q else s.setAtoms q.req q.first q.n (.of .lost))

/-- Answer the atoms of a piece that have no outcome yet. -/
def State.setOpenAtoms (s : State) (q : Piece) (r : AtomRes) : State :=
  s.forEach (List.range q.n) fun s i =>
    match s.req? q.req with
    | none => s
    | some x => if (x.res.getD (q.first + i) (.of .ok)).st = .waiting then s.setAtom q.req (q.first + i) r else s

/-- The atoms of a write that has not been handed over whole are answered RETIRED_LOSS, those already answered OK among them (R47,
R254). -/
def State.loseWrite (s : State) (q : Piece) : State :=
  if q.req = 0 then s else s.forEach q.owes fun s i => s.setAtom q.req (q.first + i) (.of .lost)

/-- Every piece of logical PC `l` in the buffers, merge buffer and replay buffer of PCC `p` is answered RETIRED_LOSS (R47), and so is a
write whose data has not been handed over; what the PCC does for itself is dropped. -/
def State.losePcc (s : State) (k p l : Nat) : State :=
  let c := s.pcc k p
  let gone := c.buf.filter fun q => q.lpc == l || q.slotless
  let s := s.forEach (gone.filter fun q => !q.slotless) fun s q => (s.setOpenAtoms q (.of .lost)).loseWrite q
  let s := s.forEach c.merges fun s m => if m.req = 0 then s else s.setAtom m.req m.atom (.of .lost)
  let s := s.forEach gone fun s q => s.retire k p q.id
  s.modPcc k p fun c =>
    { c with merges := [], fretQ := [], rb := [], replay := .run, attempts := 0, fullOnce := false, ropen := []
             lines := c.lines.filter fun z => z.st != .filling }

/-- A piece for which the hold timer can run out (R404). -/
def Piece.timesOut (q : Piece) : Bool := q.hold && (q.lane < 17 || q.lane == 19 || q.kind == .atomicAdd)

/-- The piece of PCC `p` whose hold began first. -/
def firstHeld : List Piece → Option Piece
  | [] => none
  | q :: l => match firstHeld l with
    | some o => if o.holdAt < q.holdAt then some o else some q
    | none => some q

/-- The pieces whose hold timer runs at PCC `p` of stack `k`, in its buffer or upstream. -/
def State.timedPieces (s : State) (k p : Nat) : List Piece :=
  ((s.pcc k p).buf ++ s.lanes.filter fun q => q.stack == k && s.pieceOutput q == some p).filter (·.timesOut)

/-- HOLD_TO in ct; 0 is treated as 1 (Table 14.7). -/
def State.holdTo (s : State) : Nat := max 1 (s.fget F.thmCfg_HOLD_TO) * 1000

/-- HOLD_TIMEOUT (R404): the oldest hold at PCC `p` reaches HOLD_TO × 1,000 ct. -/
def execHoldTimeout (k : Fin 8) (p : Fin 64) (s : State) : Host.Outcome State Fault Refusal :=
  match firstHeld (s.timedPieces k.val p.val) with
  | none => .next s
  | some q =>
    match s.atCadence (q.holdAt + s.holdTo) with
    | none => .next s
    | some s =>
      let s := s.countSat (F.thmStk_HOLD_TIMEOUTS k.val) 1
      let s := if q.st = .lane then s.dropLane q.id else s.retire k.val p.val q.id
      .next (if q.req = 0 then s else s.setOpenAtoms q (.of .timeout))

/-- QUOTA_WINDOW_START (R189). -/
def execQuotaWindowStart (k : Fin 8) (s : State) : Host.Outcome State Fault Refusal :=
  let w := s.fget (F.arbStkCfg_QWIN k.val)
  if w = 0 then .next s
  else if (SMap.get s.quota Quota.init k.val).window ≠ s.cadence / w then
    .next (s.setQuota k.val (s.quotaNow k.val))
  else match s.atCadence ((s.cadence / w + 1) * w) with
    | none => .next s
    | some s => .next (s.setQuota k.val (s.quotaNow k.val))

/-- The pieces of the sort buffer of stack `k`. -/
def State.sortOf (s : State) (k : Nat) : List Piece := s.sorting.filter fun q => q.stack == k

/-- Two pieces are of one sort group (R219). -/
def Piece.sameGroup (a b : Piece) : Bool := a.lpc == b.lpc && a.bank == b.bank && a.row == b.row

/-- The sort group of piece `q` has to be released (R220). -/
def State.groupDue (s : State) (k : Nat) (q : Piece) : Bool :=
  let g := (s.sortOf k).filter q.sameGroup
  let full := 256 ≤ (s.sortOf k).length
  max 1 (s.fget F.trfSortCfg_GROUP_MAX) ≤ g.length ||
    (g.any fun o => o.since + s.fget F.trfSortCfg_SORT_WAIT ≤ s.cadence) ||
    (g.any fun o => 2 ≤ s.laneUrgency o) || (g.any fun o => o.batchEnd) ||
    (full && (match (s.sortOf k).head? with | some o => o.sameGroup q | none => false))

/-- The output of a sort group is in RUN (R220). -/
def State.groupRuns (s : State) (k : Nat) (q : Piece) : Bool :=
  match s.pieceOutput q with
  | some p => (s.out k p).st == .run
  | none => true

/-- Put a piece among the lanes' pieces by its place: a lane keeps the order in which its pieces entered it (R209). -/
def insertLane (l : List Piece) (q : Piece) : List Piece := (l.filter fun o => o.id < q.id) ++ q :: l.filter fun o => q.id ≤ o.id

/-- The pieces that wait in their lanes for the sort buffer of stack `k` enter it, in order, while there is room (R219). -/
def State.fillSort (s : State) (k : Nat) : State :=
  let now := s.cadence
  let l := (s.lanes.filter fun q => q.stack == k && s.sortWaits q).take (256 - (s.sortOf k).length)
  { s with lanes := s.lanes.filter fun q => !(l.any fun o => o.id == q.id)
           sorting := s.sorting ++ l.map fun (q : Piece) => ({ q with since := now } : Piece) }

/-- Release the sort group of piece `q`: its pieces go back to the lanes they came by, in order (R220). -/
def State.releaseGroup (s : State) (k : Nat) (q : Piece) : State :=
  let g := (s.sortOf k).filter q.sameGroup
  let s := { s with sorting := s.sorting.filter fun o => !(o.stack == k && q.sameGroup o)
                    lanes := (g.map fun (o : Piece) => ({ o with sortable := false } : Piece)).foldl insertLane s.lanes }
  (s.fillSort k).count (F.trfSortStat_GROUPS k) 1

/-- SORT_GROUP_RELEASE (R220): the oldest group that is due, or whose wait runs out next, is released. -/
def execSortGroupRelease (k : Fin 8) (s : State) : Host.Outcome State Fault Refusal :=
  match (s.sortOf k.val).find? fun q => s.groupRuns k.val q && s.groupDue k.val q with
  | some q => .next (s.releaseGroup k.val q)
  | none =>
    match (s.sortOf k.val).find? fun q => s.groupRuns k.val q with
    | none => .next s
    | some q =>
      match s.atCadence (q.since + s.fget F.trfSortCfg_SORT_WAIT) with
      | none => .next s
      | some s => .next (s.releaseGroup k.val q)

/-- The end of a batch marks every piece of its context that stands in a sort buffer or waits for one (R220). -/
def State.endBatch (s : State) (org : POrigin) : State :=
  let mark := fun (q : Piece) => if q.org = org ∧ q.sortable then { q with batchEnd := true } else q
  { s with sorting := s.sorting.map mark, lanes := s.lanes.map mark }

/-- A sorted piece of a sequencer below class 7 goes to the sort buffer while that is in use, and waits in its lane while it is full
(R219); any other passes it by. -/
def State.toSort (s : State) (q : Piece) : State :=
  (s.toLane { q with sortable := q.cls < 7 && s.flag F.trfSortCfg_EN }).fillSort q.stack

end Sys2Proof.Machine
end

