-- ==== Sys2Proof/Machine/Sched.lean ====
section
/-! DEFINITION. The PCC's command arbiters and bank engines (R177–R185, R203–R206), the hand-over to the timing warden (R23,
R24), the warden (R22, R237), confirmation and read data (R242, R243), refresh (R234, R235), activate hints (R221) and the
zero map's passes and lines (R212, R216, R217). -/

namespace Sys2Proof.Machine

/-- The PCC's arbiters are under Capo (R193): the programmer's at once, the hardware's once the ingress output is drained, for
what the buffer holds has to be served first (DEDUCED, log entry 17). -/
def State.pccCapo (s : State) (k p : Nat) : Bool :=
  s.maskBit (F.arbStkPccCapo_MASK k) p || ((s.out k p).hwPcc != [] && (s.out k p).st == .drained)

/-- A field of the active timing set of stack `k`. -/
def State.tset (s : State) (k : Nat) (f : Nat → Nat → Fld) : Nat := s.fget (f k (s.fget (F.phyFreqStatus_ACTIVE k)))

/-- The postponement limit (Table 8.13). -/
def State.ppl (s : State) (k : Nat) : Nat := min 8 (max 1 (s.tset k F.phyTsetRef_PPL))

/-- A piece that can own its bank: something of it still needs a burst, and its map updates are made (R202, R213). -/
def Piece.bankEligible (q : Piece) (b : Nat) : Bool :=
  q.st == .queued && q.bank == b && q.todo != [] && q.zpend == [] && q.kind != .partialWrite && q.kind != .probe

/-- The next column command of the piece is a read. -/
def Piece.nextReads (q : Piece) : Bool :=
  match q.kind with
  | .read | .mergeRead | .fill | .fretRead | .fretTake | .canaryRead | .track => true
  | .rewrite | .atomicAdd | .retain => !q.wr
  | _ => false

/-- The owner of bank `b`. -/
def Pcc.ownerOf (c : Pcc) (b : Nat) : Option Piece := (c.bank b).owner.bind c.piece?

/-- The bank-engine decision (R177, R206): winner, whether misses of the highest key wait, their key. -/
def State.bankChoice (s : State) (k p b : Nat) : Option Piece × Bool × Nat :=
  let c := s.pcc k p
  let x := c.bank b
  let el := c.buf.filter fun q => q.bankEligible b
  let top := (el.map s.keyOf).foldl max 0
  let hit := fun (q : Piece) => x.row == some q.row
  let missWaits := x.row.isSome && el.any fun q => !hit q && s.keyOf q == top
  let count := if missWaits && x.missKey == some top then x.hits else 0
  let masked := x.row.isSome && (el.any fun q => hit q && s.keyOf q == top) && count < s.fget (F.pccRqCfg_HIT_RUN k p)
  let cands := el.filter fun q => hit q || !masked
  let best := (cands.map s.keyOf).foldl max 0
  let w := (arbitrate 192 x.rot (cands.map fun q => (q.slot, s.keyOf q))).bind fun i =>
    cands.find? fun q => q.slot == i && s.keyOf q == best
  (w, missWaits, top)

/-- The PHY reads the training row at an idle bank of a PC in service (R249): a piece at key 0. When it does is open (log entry 101). -/
def State.trackStart (s : State) (k p b : Nat) : State :=
  if s.flag (F.phyCfg_TRACK_EN k) && (s.out k p).st == .run && !((s.pcc k p).buf.any fun q => q.kind == .track) then
    if Config.trackRead s.free then s.freed.pushOwn k p ((Piece.own k p .track).atMeta s.build (lastAtom b 0)) else s.freed
  else s

/-- BANK_GRANT (R177, Table 7.2): a bank without an owner is given to the eligible piece with the highest key. -/
def State.bankGrant (s : State) (k p b : Nat) : State :=
  let c := s.pcc k p
  let x := c.bank b
  if s.pccCapo k p || c.replay != .run || x.owner.isSome || x.st == .refreshing || 16 * s.build.H ≤ b then s
  else
    let r := s.bankChoice k p b
    match r.1 with
    | none => s.trackStart k p b
    | some q =>
      let hit := x.row == some q.row
      let count := if r.2.1 && x.missKey == some r.2.2 then x.hits else 0
      s.modPcc k p fun c =>
        (c.modBank b fun y => { y with
            st := .owned, owner := some q.id, hint := q.page, expired := false, rot := q.slot
            hits := if hit && r.2.1 then count + 1 else 0
            missKey := if hit && r.2.1 then some r.2.2 else none }).modPiece q.id
          fun y => { y with st := if hit then .column else .opening }

def execBankGrant (k : Fin 8) (p : Fin 64) (b : Fin 64) (s : State) : Host.Outcome State Fault Refusal :=
  .next (s.bankGrant k.val p.val b.val)

/-- Bank `b` holds a piece in the sense of R235: of the request buffer, in which a Fret install takes its place too (R271), or an entry
of the merge buffer. -/
def Pcc.holdsPiece (c : Pcc) (bld : Build) (b : Nat) : Bool :=
  (c.buf.any fun q => q.bank == b && (q.slotted || q.kind == .fretRead || q.kind == .fretTake || q.kind == .fretWrite || q.kind == .fretBack)) ||
    c.merges.any fun m => (locOfU bld 0 0 m.u).lin == b

/-- The conditions under which a hint may activate its bank (R221). -/
def State.hintOk (s : State) (k p b : Nat) : Bool :=
  let c := s.pcc k p
  let x := c.bank b
  s.flag (F.pccPageCfg_HINT_EN k p) && (match s.lpcOf k p with | some l => s.fget (F.pcmapEntry_STATE k l) == 0 | none => false)
    && (s.out k p).st == .run && !s.pccCapo k p && x.st == .closed && !c.holdsPiece s.build b && x.owed < s.ppl k

/-- The warden declines the command (R24). -/
def State.declines (s : State) (k p b : Nat) (kind : CmdKind) : Bool :=
  let x := (s.pcc k p).bank b
  s.ppl k ≤ x.owed && !x.refHanded && kind != .pre && kind != .ref

/-- What bank engine `b` asks of the row path, with its key (R181): a command that the warden has declined only after the REFRESH
(R24). The PRECHARGE for a piece that misses the open row takes the piece's key, as its ACTIVATE does (DESIGN CHOICE, log entry 83). -/
def State.bankRow (s : State) (k p b : Nat) : Option (RowCmd × Nat) :=
  let c := s.pcc k p
  let x := c.bank b
  if x.declined && s.declines k p b .act then none
  else match c.ownerOf b with
  | some q =>
    if q.st == .opening && x.st != .refreshing && x.row != some q.row then
      some (⟨if x.row.isSome then .pre else .act, b, q.row, false, false, false⟩, s.keyOf q)
    else none
  | none =>
    if x.st == .openIdle && x.expired then some (⟨.pre, b, 0, false, false, false⟩, 0)
    else match c.hints.find? fun h => h.1 == b with
      | some h => if s.hintOk k p b then some (⟨.act, b, h.2, false, true, false⟩, 0) else none
      | none => none

/-- What the refresh machine asks of the row path at bank `b`, with its key (R181, R235): a REFRESH at its limit, or one that the bank owes
while it holds no piece; while a row is open the PRECHARGE that must come first, at the REFRESH's own key (DESIGN CHOICE, log entry 83). -/
def State.refreshAt (s : State) (k p b : Nat) : Option (RowCmd × Nat) :=
  let c := s.pcc k p
  let x := c.bank b
  let kind := if x.row.isSome then CmdKind.pre else .ref
  if x.refHanded then none
  else if s.ppl k ≤ x.owed then some (⟨kind, b, 0, true, false, true⟩, 8)
  else if 1 ≤ x.owed && !c.holdsPiece s.build b then some (⟨kind, b, 0, false, false, true⟩, 0)
  else none

/-- What the refresh machine asks of the row path: of the banks at their limit, else of those that owe, the lowest in linear bank order
(R181, R235; DESIGN CHOICE, log entry 84). -/
def State.refreshRow (s : State) (k p : Nat) : Option (RowCmd × Nat) :=
  let l := (List.range (16 * s.build.H)).filterMap (s.refreshAt k p)
  match l.find? fun r => r.2 == 8 with
  | some r => some r
  | none => l.head?

/-- Hints that fail their conditions are discarded (R221). -/
def State.dropHints (s : State) (k p : Nat) : State :=
  let bad := (s.pcc k p).hints.filter fun h => !s.hintOk k p h.1
  (s.modPcc k p fun c => { c with hints := c.hints.filter fun h => !bad.contains h }).count (F.pccHintsDrop_COUNT k p) bad.length

/-- ROW_GRANT (R177, R181): the row path takes the highest key among the bank engines and the refresh machine. Under
Capo only a refresh at its limit is granted (R182). -/
def State.rowGrant (s : State) (k p : Nat) : State :=
  let s := s.dropHints k p
  let c := s.pcc k p
  if c.rowCmd.isSome || c.replay != .run then s
  else
    let capo := s.pccCapo k p
    let banks := (List.range 64).filterMap fun b => if capo then none else (s.bankRow k p b).map fun r => (b, r)
    let ref := match s.refreshRow k p with
      | some r => if capo && r.2 != 8 then [] else [(64, r)]
      | none => []
    let all := banks ++ ref
    match arbitrate 65 c.rotRow (all.map fun e => (e.1, e.2.2)) with
    | none => s
    | some i =>
      match all.find? fun e => e.1 == i with
      | none => s
      | some e => s.modPcc k p fun c => { c with rowCmd := some e.2.1, rotRow := i }

def execRowGrant (k : Fin 8) (p : Fin 64) (s : State) : Host.Outcome State Fault Refusal :=
  .next (s.rowGrant k.val p.val)

/-- The pieces raised at the column path: owners whose row is open (R184, R202). -/
def Pcc.raised (c : Pcc) : List Piece :=
  c.buf.filter fun q => (q.st == .column || q.st == .parked) && c.column != some q.id && q.todo != [] &&
    (c.bank q.bank).owner == some q.id && (c.bank q.bank).row == some q.row

/-- The piece that holds the column path. -/
def Pcc.holder (c : Pcc) : Option Piece := c.column.bind c.piece?

/-- The PCC is in write mode and a burst write is eligible for the column path: without one it is in read mode (Table 7.3). -/
def Pcc.writing (c : Pcc) : Bool := c.writeMode && (c.raised ++ c.holder.toList).any fun q => !q.nextReads

/-- The raised pieces that the mode lets through (R211). -/
def Pcc.modeEligible (c : Pcc) : List Piece :=
  if c.writing then c.raised.filter fun q => !q.nextReads || q.cls == 7
  else if (c.raised ++ c.holder.toList).any (·.nextReads) then c.raised.filter (·.nextReads)
  else c.raised

/-- COLUMN_GRANT (R177, R184, R211): with no write eligible in write mode the PCC returns to read mode. -/
def State.columnGrant (s : State) (k p : Nat) : State :=
  let c := s.pcc k p
  if c.column.isSome || c.replay != .run || s.pccCapo k p then s
  else
    let el := c.modeEligible
    let c := { c with writeMode := c.writing }
    match (arbitrate 65 c.rotCol (el.map fun q => (q.bank, s.keyOf q))).bind fun b => el.find? fun q => q.bank == b with
    | none => s.setPcc k p c
    | some q => s.setPcc k p
        ({ c with column := some q.id, rotCol := q.bank }.modPiece q.id fun x => { x with st := .column })

def execColumnGrant (k : Fin 8) (p : Fin 64) (s : State) : Host.Outcome State Fault Refusal :=
  .next (s.columnGrant k.val p.val)

/-- Parked trains. -/
def Pcc.parked (c : Pcc) : Nat := (c.buf.filter fun q => q.st == .parked).length

def State.parkMax (s : State) (k : Nat) : Nat := min 2 (s.fget (F.arbStkCfg_PARK_MAX k))

/-- W preempts the holder H (R183). -/
def State.preempts (s : State) (k p : Nat) (w h : Piece) : Bool :=
  w.bank != h.bank && h.todo != [] && (s.pcc k p).parked < s.parkMax k && h.cls != 7 &&
    (w.cls == 7 || s.keyOf h + max 1 (s.fget (F.arbStkCfg_DELTA k)) ≤ s.keyOf w)

/-- COLUMN_PREEMPT (R183, R185): the owner of bank `b` takes the column path from its holder, which parks. -/
def State.columnPreempt (s : State) (k p b : Nat) : State :=
  let c := s.pcc k p
  match c.holder, c.modeEligible.find? fun q => q.bank == b with
  | some h, some w =>
    if c.replay == .run && !s.pccCapo k p && s.preempts k p w h then
      (s.setPcc k p (({ c with column := some w.id, rotCol := w.bank, writeMode := c.writing }.modPiece h.id fun x => { x with st := .parked }).modPiece
        w.id fun x => { x with st := .column })).count (F.arbStkPreempts_COUNT k) 1
    else s
  | _, _ => s

def execColumnPreempt (k : Fin 8) (p : Fin 64) (b : Fin 64) (s : State) : Host.Outcome State Fault Refusal :=
  .next (s.columnPreempt k.val p.val b.val)

/-- A row command for the warden, with what the key of its piece is formed from. -/
def rowCmdOf (r : RowCmd) (q : Option Piece) (slot : Nat) : Cmd where
  kind := r.kind
  bank := r.bank
  row := r.row
  piece := if r.kind = .ref then bit r.key8 else bit r.hint
  atom := 0
  u := 0
  inMeta := false
  addr := 0
  fold := 0
  stored := 0
  lane := 0
  hand := slot
  ap := false
  seen := false
  ord := 0
  confirmed := false
  cls := (q.map (·.cls)).getD 0
  label := (q.map (·.label)).getD 0
  arrival := (q.map (·.arrival)).getD 0
  aged := (q.map (·.aged)).getD false

/-- The row of bank `b` closes: an owner comes back to OPENING and lets the column path go (Table 7.1). -/
def Pcc.rowClosed (c : Pcc) (b : Nat) : Pcc :=
  let id := (c.bank b).owner
  let c := c.modBank b fun x => { x with row := none, expired := false, st := if x.owner.isSome then .owned else .closed }
  match id with
  | some i =>
    let c := c.modPiece i fun q => if q.st == .column || q.st == .parked then { q with st := .opening } else q
    { c with column := if c.column = some i then none else c.column }
  | none => c

/-- The effect of a row command on its bank engine as it is handed over (Table 7.2, R184). -/
def Pcc.rowHanded (c : Pcc) (r : RowCmd) (now : Nat) : Pcc :=
  match r.kind with
  | .act =>
    let c := c.modBank r.bank fun x =>
      if r.hint then { x with row := some r.row, st := .openIdle, hint := 0, idleAt := now, expired := false }
      else { x with row := some r.row }
    if r.hint then { c with hints := c.hints.erase (r.bank, r.row) } else c
  | .pre => c.rowClosed r.bank
  | _ => c.modBank r.bank fun x => { x with st := .refreshing, refHanded := true, declined := false }

/-- The granted row command as it is wanted now: a bank engine issues nothing that its state no longer asks for (R203). -/
def State.rowNow (s : State) (k p : Nat) (r : RowCmd) : Option RowCmd :=
  let ask := if r.refresh then s.refreshAt k p r.bank else s.bankRow k p r.bank
  (ask.map (·.1)).filter fun x => x.kind == r.kind && x.row == r.row && x.hint == r.hint

/-- The warden declines a command to bank `b` (R24): counted, and kept by the scheduler until the REFRESH. -/
def State.decline (s : State) (k p b : Nat) : State :=
  (s.modPcc k p fun c => c.modBank b fun x => { x with declined := true }).count (F.pccWardenRefreshHolds_COUNT k p) 1

/-- The scheduler hands over the granted row command (R23, R24, R243), or gives the grant up when the command is wanted no more. -/
def State.handRow (s : State) (k p slot : Nat) : State :=
  let c := s.pcc k p
  match c.rowCmd with
  | none => s
  | some r =>
    if c.replay != .run then s
    else match s.rowNow k p r with
    | none => s.setPcc k p { c with rowCmd := none }
    | some r =>
      if 32 ≤ c.rb.length then s.count (F.pccReplayFull_COUNT k p) 1
      else if s.declines k p r.bank r.kind then (s.setPcc k p { c with rowCmd := none }).decline k p r.bank
      else
        let s := s.setPcc k p ({ c with rowCmd := none, rb := c.rb ++ [rowCmdOf r (c.ownerOf r.bank) slot] }.rowHanded r s.cadence)
        if r.hint then s.count (F.pccHintsAct_COUNT k p) 1 else s

/-- The last column command of `q` carries auto-precharge, or the row is left to a piece that hits it, whose hint then
governs it (R204). -/
def Pcc.lastColumn (c : Pcc) (q : Piece) : Pcc × Bool :=
  match c.hitter q.id q.bank (some q.row) with
  | some o => (c.modBank q.bank fun x => { x with hint := if q.page = 2 then o.page else x.hint }, false)
  | none => if q.page = 2 then (c.modBank q.bank fun x => { x with ap := true, row := none }, true) else (c, false)

/-- The piece's column command for the atom at hand is its last: none follows in its train, nor a write after its reads. -/
def Piece.lastBurst (q : Piece) : Bool :=
  decide (q.todo.length ≤ 1) && !(q.nextReads && (q.kind == .rewrite || q.kind == .atomicAdd || q.kind == .retain))

/-- The device address of atom `i` of a piece, or a metadata atom's offset: a piece of a whole row takes each atom's own (R279, R217). -/
def State.pieceAddr (s : State) (k p : Nat) (q : Piece) (i : Nat) : Nat :=
  if q.inMeta then (q.u + i) * 64
  else if q.kind = .poisonWrite ∨ q.dest.isSome then s.addrAt k p (q.u + i)
  else q.addr + 64 * i

/-- The fold of the word that atom `i` of a piece is (R260): of a Fret spare atom that of the atom it stands for; a sanitisation of a PC that
serves no logical PC folds nothing (R368). -/
def State.pieceFold (s : State) (k p : Nat) (q : Piece) (i : Nat) : BitVec 40 :=
  let m := q.u + i
  if q.kind = .sanWrite && 64 ≤ q.lpc then 0
  else if !q.inMeta then dataFold (s.pieceAddr k p q i)
  else if m < 16 then
    match (s.pcc k p).fretQ.find? fun f => q.kind == .fretWrite && f.id + 1 == q.id with
    | some f => dataFold (s.addrAt k p f.u)
    | none => if s.flag (F.pccFretEnt_VALID k p m) then dataFold (s.addrAt k p (s.fget (F.pccFretEnt_ATOM k p m)))
      else metaFold k (s.metaLpc k p) m
  else metaFold k (s.metaLpc k p) m

/-- The word a read burst of atom `i` reaches: a metadata atom, the data row as it is for a Fret install, else through the Fret
table (R270, R271). -/
def State.wordAt (s : State) (k p : Nat) (raw inMeta : Bool) (u : Nat) : Stored :=
  if inMeta then s.cell k p true u else if raw then s.cell k p false u else s.atomWord k p u

/-- Store a word there. -/
def State.setWordAt (s : State) (k p : Nat) (raw inMeta : Bool) (u : Nat) (w : Stored) : State :=
  if inMeta then s.setCell k p true u w else if raw then s.setCell k p false u w else s.setAtomWord k p u w

/-- The piece reaches the data row as it is (R271, R272). -/
def Piece.raw (q : Piece) : Bool := q.kind == .fretRead || q.kind == .fretBack

/-- A column command goes to the warden. -/
def State.pushColumn (s : State) (k p : Nat) (q : Piece) (kind : CmdKind) (i : Nat) (w : Stored) (slot : Nat) : State :=
  let c := s.pcc k p
  let r := if q.lastBurst then c.lastColumn q else (c, false)
  let m : Cmd := ⟨kind, q.bank, q.row, q.id, i, q.u + i, q.inMeta, s.pieceAddr k p q i, s.pieceFold k p q i, w, q.lane, slot, r.2, false, 0, false,
    q.cls, q.label, q.arrival, q.aged⟩
  s.setPcc k p { r.1 with rb := r.1.rb ++ [m] }

/-- A piece whose last burst has been handed over lets the column path and its bank go (R180, Table 7.1). -/
def State.trainDone (s : State) (k p : Nat) (q : Piece) : State :=
  let s := s.modPcc k p fun c => { c.dropBank q.bank q.id s.cadence with column := if c.column = some q.id then none else c.column }
  (s.goOn k p q.id).takePartials k p

/-- A read of the patrol scrub: a read piece of the Bow engine with no request behind it (R274). -/
def Piece.scrubs (q : Piece) : Bool := q.kind == .read && q.org == .bow && q.req == 0

/-- Hand over the read burst of atom `i`. -/
def State.handRead (s : State) (k p : Nat) (q : Piece) (i slot : Nat) : State :=
  let s := if q.scrubs then s.count (F.bowScrubAtoms_COUNT k) 1 else s
  let s := s.pushColumn k p q .rd i (s.wordAt k p q.raw q.inMeta (q.u + i)) slot
  let s := s.modPiece k p q.id fun x => { x with todo := x.todo.filter (· != i), pend := x.pend ++ [i], beats := x.beats + 1 }
  if q.todo = [i] then s.trainDone k p q else s

/-- The word that the write burst of atom `i` carries: a line's bits, or the piece's data (R261, R266). -/
def State.burstWord (s : State) (k p : Nat) (q : Piece) (i : Nat) : Stored :=
  if q.kind = .lineWrite then encodeAtom (s.pieceFold k p q 0) (s.lineNow k p q.u) false
  else if q.kind = .poisonWrite ∨ q.kind = .retain then encodeAtom (s.pieceFold k p q i) 0 true
  else if q.kind = .sanWrite then encodeAtom (s.pieceFold k p q i) 0 false
  else if q.kind = .canaryWrite then canaryStored (s.fget (F.bowCanaryGen_GEN k)) k p q.bank (8 + i)
  else encodeAtom (s.pieceFold k p q i) (q.writeData i) (q.poison.getD i false)

/-- What a write burst of atom `i` changes: a metadata atom, or a data atom with what depends on it (R212, R216, R272, R282). -/
def State.burstEffect (s : State) (k p : Nat) (q : Piece) (i : Nat) (w : Stored) : State :=
  let s := s.setWordAt k p q.raw q.inMeta (q.u + i) w
  if q.inMeta then
    s.modPcc k p fun c => { c with lines := c.lines.map fun z =>
      if q.kind = .lineWrite ∧ z.line = q.u ∧ z.st = .dirty then { z with st := .writeback } else z }
  else
    let s := s.modPcc k p fun c => c.onBurstWrite (q.u + i)
    let s := s.setSalvage k p ((s.salvageOf k p).filter (· != q.u + i))
    if q.kind = .sanWrite then s else s.raise (F.pccZmapCtl_WRITTEN k p)

/-- The Bow engine counts what it has written (Table 12.13). -/
def State.countBow (s : State) (k : Nat) (q : Piece) : State :=
  match q.kind with
  | .sanWrite => s.count (F.bowSanAtoms_COUNT k) 1
  | .retain => s.count (F.bowRetainPoisoned_COUNT k) 1
  | _ => s

/-- Hand over the write burst of atom `i` (R212, R213). -/
def State.handWrite (s : State) (k p : Nat) (q : Piece) (i slot : Nat) : State :=
  let before := (s.pcc k p).burstWrites.length
  let w := s.burstWord k p q i
  let s := ((s.burstEffect k p q i w).countBow k q).pushColumn k p q .wr i w slot
  let s := s.modPiece k p q.id fun x => { x with todo := x.todo.filter (· != i), left := x.left.filter (· != i), beats := x.beats + 1 }
  let s := if q.kind = .rewrite then s.answer q i (.of .ok) else s
  (if q.todo = [i] then s.trainDone k p q else s).modeFall k p before

/-- Hand over the next burst of the column path's holder; one that the warden has declined waits for the REFRESH (R24). -/
def State.handColumn (s : State) (k p slot : Nat) : State :=
  let c := s.pcc k p
  match c.holder with
  | none => s
  | some q =>
    match q.todo with
    | [] => s
    | i :: _ =>
      if c.replay != .run then s
      else if s.declines k p q.bank .rd then (if (c.bank q.bank).declined then s else s.decline k p q.bank)
      else if 32 ≤ c.rb.length then s.count (F.pccReplayFull_COUNT k p) 1
      else if q.nextReads then s.handRead k p q i slot
      else s.handWrite k p q i slot

/-- SCHEDULER_HANDOVER (R23, R24): `column` names the path whose command is handed over, `slot` the first PHY command
slot at or after that moment. -/
def execSchedulerHandover (k : Fin 8) (p : Fin 64) (column : Bool) (slot : Nat) (s : State) :
    Host.Outcome State Fault Refusal :=
  .next (if column then s.handColumn k.val p.val slot else s.handRow k.val p.val slot)

/-- The first slot `d` slots after the command recorded as `r` (slot + 1; 0 = never). -/
def gapAt (r d : Nat) : Nat := if r = 0 then 0 else r - 1 + d

/-- The first slot at which every minimum interval of the active set that applies to the command has elapsed (R22, Table 8.3); a column
command with auto-precharge waits for TRAS too. -/
def State.intervalSlot (s : State) (k p : Nat) (kind : CmdKind) (b : Nat) (ap : Bool) : Nat :=
  let c := s.pcc k p
  let x := c.bank b
  let t := s.tset k
  match kind with
  | .act =>
    max (max (gapAt x.pre (t F.phyTsetRow_TRP)) (gapAt x.act (t F.phyTsetRow_TRC)))
      (max (gapAt x.ref (t F.phyTsetRef_TRFCPB)) (max (gapAt (c.acts.headD 0) (t F.phyTsetRow_TRRD)) (gapAt (c.acts.getD 3 0) (t F.phyTsetRow_TFAW))))
  | .pre => gapAt x.act (t F.phyTsetRow_TRAS)
  | .ref => max (gapAt x.pre (t F.phyTsetRow_TRP)) (gapAt x.ref (t F.phyTsetRef_TRFCPB))
  | .rd =>
    max (max (gapAt x.act (t F.phyTsetRow_TRCD)) (gapAt c.lastCol (max 2 (t F.phyTsetRow_TCCD))))
      (max (gapAt c.lastWr (t F.phyTsetLat_TWTR)) (if ap then gapAt x.act (t F.phyTsetRow_TRAS) else 0))
  | .wr =>
    max (max (gapAt x.act (t F.phyTsetRow_TRCD)) (gapAt c.lastCol (max 2 (t F.phyTsetRow_TCCD))))
      (max (gapAt c.lastRd (t F.phyTsetRow_TRTW)) (if ap then gapAt x.act (t F.phyTsetRow_TRAS) else 0))

/-- The command rate of stack `k` is throttled to 75 % (R237, R399). -/
def State.throttled (s : State) (k : Nat) : Bool := 2 ≤ s.fget (F.thmStk_LEVEL k)

/-- The refresh multiplier that the thermal level of stack `k` calls for (R399). -/
def State.levelMult (s : State) (k : Nat) : Nat :=
  let l := s.fget (F.thmStk_LEVEL k)
  if l = 0 then 1 else if l = 1 then 2 else 4

/-- The refresh multiplier in force at stack `k` (R236). -/
def State.refMult (s : State) (k : Nat) : Nat := SMap.get s.mults 1 k

/-- The first slot at which a throttled warden may issue: at most three commands in any four slots (R237). -/
def State.throttleSlot (s : State) (k p : Nat) : Nat :=
  if !s.throttled k then 0 else match (s.pcc k p).recent with
    | [_, _, r] => r + 4
    | _ => 0

/-- The PHY command slot at which the warden issues a command handed over at slot `hand`: the next that is free, when every interval has
elapsed (R22, R237). -/
def State.issueSlot (s : State) (k p : Nat) (kind : CmdKind) (b hand : Nat) (ap : Bool) : Nat :=
  max (max hand (s.pcc k p).slot) (max (s.intervalSlot k p kind b ap) (s.throttleSlot k p))

/-- What the issue of a command to bank `b` records for later intervals. -/
def Pcc.recordIssue (c : Pcc) (kind : CmdKind) (b slot : Nat) (ap : Bool) : Pcc :=
  let c := { c with slot := slot + 1, recent := (slot :: c.recent).take 3, clock := max c.clock (slot + 1) }
  match kind with
  | .act => { c.modBank b (fun x => { x with act := slot + 1 }) with acts := ((slot + 1) :: c.acts).take 4 }
  | .pre => c.modBank b fun x => { x with pre := slot + 1 }
  | .ref => c.modBank b fun x => { x with
      ref := slot + 1, owed := x.owed - 1, refHanded := false, declined := false
      st := if x.owner.isSome then .owned else .closed }
  | .rd => { (if ap then c.modBank b fun x => { x with pre := slot + 1 } else c) with
      lastCol := slot + 1, lastRd := slot + 1 }
  | .wr => { (if ap then c.modBank b fun x => { x with pre := slot + 1 } else c) with
      lastCol := slot + 1, lastWr := slot + 1 }

/-- The first command the warden holds. -/
def Pcc.nextIssue (c : Pcc) : Option Cmd := c.rb.find? fun m => m.ord == 0

/-- Give the command `m` of the replay buffer the next place among those issued. -/
def Pcc.markIssued (c : Pcc) (m : Cmd) : Pcc :=
  { c with issued := c.issued + 1, rb := c.rb.map fun x => if x = m then { x with ord := c.issued + 1, seen := true } else x }

/-- What the issue of a command brings about beside the intervals (Table 7.2, R235). DEDUCED, log entry 24.
DEDUCED, log entry 25. -/
def State.afterIssue (s : State) (k p : Nat) (m : Cmd) : State :=
  match m.kind with
  | .act => s.modPcc k p fun c =>
      match c.ownerOf m.bank with
      | some q => if q.st == .opening && q.row == m.row then c.modPiece q.id fun x => { x with st := .column } else c
      | none => c
  | .ref =>
    let s := s.count (F.pccRefIssued_COUNT k p) 1
    if m.piece = 1 then s.count (F.pccRefForced_COUNT k p) 1 else s
  | _ => s

/-- The warden issues its oldest command at PHY command slot `slot` (R22). -/
def State.runIssue (s : State) (k p slot : Nat) : State :=
  let c := s.pcc k p
  match c.nextIssue with
  | none => s
  | some m =>
    if slot = s.issueSlot k p m.kind m.bank m.hand m.ap then
      let s := s.setPcc k p ((c.markIssued m).recordIssue m.kind m.bank slot m.ap)
      let s := if m.hand < slot then s.count (F.pccWardenHolds_COUNT k p) 1 else s
      s.afterIssue k p m
    else s

/-- Entries leave the replay buffer when they and every command issued before them are confirmed (R243, R244). -/
def Pcc.leave (c : Pcc) : Pcc :=
  { c with rb := c.rb.filter fun m => !(m.confirmed && c.rb.all fun o => o.ord == 0 || o.confirmed || m.ord < o.ord) }

/-- The unconfirmed command issued first among those that `f` picks. -/
def Pcc.firstOut (c : Pcc) (f : Cmd → Bool) : Option Cmd :=
  let l := c.rb.filter fun m => m.ord != 0 && !m.confirmed && f m
  l.find? fun m => l.all fun o => m.ord ≤ o.ord

/-- Mark a command confirmed. -/
def Pcc.confirm (c : Pcc) (m : Cmd) : Pcc := Pcc.leave { c with rb := c.rb.map fun x => if x = m then { x with confirmed := true } else x }

/-- Commands are being confirmed: in service, and while a replay re-issues them (R242, R244). -/
def Pcc.confirming (c : Pcc) : Bool := c.replay == .run || c.replay == .reissue

/-- COMMAND_CONFIRMED (R242, R243): the first command out that is no read. -/
def execCommandConfirmed (k : Fin 8) (p : Fin 64) (s : State) : Host.Outcome State Fault Refusal :=
  .next (if (s.pcc k.val p.val).confirming then
    match (s.pcc k.val p.val).firstOut fun m => m.kind != .rd with
    | some m => s.modPcc k.val p.val fun c => c.confirm m
    | none => s
  else s)

/-- A canary read differs from the pattern of the present generation: the bank's bit is set (R367). -/
def State.canaryRead (s : State) (k p : Nat) (q : Piece) (i : Nat) (w : Stored) : State :=
  if w = canaryStored (s.fget (F.bowCanaryGen_GEN k)) k p q.bank (8 + i) then s
  else s.setMaskBit (F.bowCanaryMask_BANKS k p) q.bank true

/-- A retention scan has read metadata atom `m` uncorrectable (R367): a Fret spare atom is left to be written poisoned; a zero-map line is
handled by R217, as one whose fill has read uncorrectable, if the map is in use and the line is not resident; while no line may be taken it is
read again. -/
def State.retainMeta (s : State) (k p : Nat) (q : Piece) (i : Nat) : State :=
  let m := q.u + i
  let done := fun (s : State) => s.modPiece k p q.id fun x => { x with left := x.left.filter (· != i) }
  if m < 16 then s
  else if !s.zmUsed k p || ((s.pcc k p).line m).isSome then done s
  else match (s.pcc k p).takeLine ⟨m, .filling, 0, [], s.cadence, q.id, q.cls, q.label, q.arrival, q.aged, none, true⟩ with
    | some c => done (s.setPcc k p c)
    | none => s.modPiece k p q.id fun x => { x with todo := x.todo ++ [i], st := .queued }

/-- The decode of a read burst's data reaches its piece (R208, R215, R262, R264); a zero-map line keeps the word until its fill is
installed. DESIGN CHOICE, log entry 26. -/
def State.readData (s : State) (k p : Nat) (m : Cmd) (w : Stored) : State :=
  match (s.pcc k p).piece? m.piece with
  | none => s
  | some q =>
    if !q.pend.contains m.atom then s
    else
      let s := s.modPiece k p q.id fun x => { x with pend := x.pend.filter (· != m.atom) }
      if q.kind = .fill then
        let s := s.modPcc k p fun c => { c with lines := c.lines.map fun z => if z.line = q.u then { z with word := some w } else z }
        s.goOn k p q.id
      else if q.kind = .canaryRead then (s.canaryRead k p q m.atom w).goOn k p q.id
      else if q.kind = .track then s.goOn k p q.id
      else
        let d := decodeAtom m.fold w
        let feed := if m.lane = 18 then s.flag (F.pccEccCtl_SCRUB_FEED k p) else m.lane != 20
        let s := s.countDecode k p m.inMeta m.u m.addr m.lane feed d
        if q.kind = .retain && q.inMeta && d.out == .uncorrectable then (s.retainMeta k p q m.atom).goOn k p q.id
        else if q.conf then s.modPiece k p q.id fun x => { x with got := x.got ++ [(m.atom, d.data, d.poison, d.out == .uncorrectable)] }
        else (s.take k p q m.atom d.data d.poison (d.out == .uncorrectable)).goOn k p q.id

/-- A fault of the array changes the word a read returned; the cell keeps it unless it has been written since. -/
def State.faultWord (s : State) (k p : Nat) (m : Cmd) (fault : Stored) : State :=
  let raw := ((s.pcc k p).piece? m.piece).any (·.raw)
  if fault = 0 ∨ s.wordAt k p raw m.inMeta m.u ≠ m.stored then s else s.setWordAt k p raw m.inMeta m.u (m.stored ^^^ fault)

/-- STACK_READ_DATA (R242): the data of the first command out, a read, arrives with a good CRC. -/
def execStackReadData (k : Fin 8) (p : Fin 64) (fault : Stored) (s : State) : Host.Outcome State Fault Refusal :=
  let c := s.pcc k.val p.val
  .next (match c.firstOut fun _ => true with
    | none => s
    | some m =>
      if m.kind == .rd && c.confirming then
        ((s.setPcc k.val p.val (c.confirm m)).faultWord k.val p.val m fault).readData k.val p.val m (m.stored ^^^ fault)
      else s)

/-- PAGE_TIMER_EXPIRY (R205). -/
def execPageTimerExpiry (k : Fin 8) (p : Fin 64) (b : Fin 64) (s : State) : Host.Outcome State Fault Refusal :=
  let x := (s.pcc k.val p.val).bank b.val
  let wait := if x.hint = 1 then s.fget (F.pccPageCfg_KEEP_TO k.val p.val) else s.fget (F.pccPageCfg_IDLE_TO k.val p.val)
  if x.st = .openIdle ∧ ¬ (x.hint = 1 ∧ wait = 0) then
    match s.atCadence (x.idleAt + wait) with
    | some s => .next (s.modPcc k.val p.val fun c => c.modBank b.val fun y => { y with expired := true })
    | none => .next s
  else .next s

/-- ACTIVATE_HINT (R221). -/
def State.activateHint (s : State) (a : Nat) : State :=
  if !s.build.inRange a 1 then s
  else
    let l := s.locOf a
    let p := s.fget (F.pcmapEntry_PPC l.stack l.lpc)
    let c := s.pcc l.stack p
    if s.fget (F.pcmapEntry_STATE l.stack l.lpc) = 0 ∧ c.hints.length < 8 ∧ s.hintOk l.stack p l.lin then
      s.setPcc l.stack p { c with hints := c.hints ++ [(l.lin, l.row)] }
    else s.count (F.pccHintsDrop_COUNT l.stack p) 1

def execActivateHint (a : BitVec 42) (s : State) : Host.Outcome State Fault Refusal := .next (s.activateHint a.toNat)

/-- The first due point of bank `b` of a PCC of stack `k` (R234). -/
def State.firstDue (s : State) (k b : Nat) : Nat := (b + 1) * s.tset k F.phyTsetRef_TREFI / (s.refMult k * (16 * s.build.H))

/-- The next due point of bank `b`, in tCK since the PCC started refreshing (R234). -/
def State.bankDue (s : State) (k p b : Nat) : Nat := (((s.pcc k p).bank b).due).getD (s.firstDue k b)

/-- on_due() of R234 at bank `b`. DEDUCED, log entry 29. -/
def State.refreshDue (s : State) (k p b : Nat) : State :=
  let owed := ((s.pcc k p).bank b).owed + 1
  let due := s.bankDue k p b
  let next := due + s.tset k F.phyTsetRef_TREFI / s.refMult k
  let s := s.modPcc k p fun c => { c.modBank b (fun y => { y with owed := owed, due := some next }) with clock := max c.clock due }
  let s := if s.ppl k < owed then s.countSat (F.pccRefStatus_REF_LATE k p) 1 else s
  s.fset (F.pccRefStatus_OWED_MAX k p) (max (s.fget (F.pccRefStatus_OWED_MAX k p)) (min 15 owed))

/-- Bank `b`'s due point comes before no other bank's has to (R234): due points come in their order. -/
def State.dueFirst (s : State) (k p b : Nat) : Bool :=
  (List.range (16 * s.build.H)).all fun i => s.bankDue k p b ≤ s.bankDue k p i

/-- A change of the multiplier of stack `k` has to wait: a change of set, a lane chain, or self-refresh (R236, Table 8.9). -/
def State.multWaits (s : State) (k : Nat) : Bool := (SMap.get s.phyJobs none k).isSome || !s.coreOn

/-- The multiplier of stack `k` changes to the one its level calls for: every next due point moves (R236). -/
def State.settleMult (s : State) (k : Nat) : State :=
  let new := s.levelMult k
  let old := s.refMult k
  if new = old || s.multWaits k then s
  else
    let dues := fun (p : Nat) => (List.range (16 * s.build.H)).map fun b =>
      (b, let d := s.bankDue k p b; let now := (s.pcc k p).clock; if d < now then d else now + (d - now) * old / new)
    let s' := s.forEach (List.range 64) fun s' p => s'.modPcc k p fun c =>
      (dues p).foldl (fun c e => c.modBank e.1 fun x => { x with due := some e.2 }) c
    { s' with mults := SMap.put s'.mults 1 k new }

/-- REFRESH_DUE (R234): none in self-refresh (R239). -/
def execRefreshDue (k : Fin 8) (p : Fin 64) (b : Fin 64) (s : State) : Host.Outcome State Fault Refusal :=
  .next (if s.coreOn && k.val < s.build.nStacks && b.val < 16 * s.build.H && s.dueFirst k.val p.val b.val then s.refreshDue k.val p.val b.val else s)

/-- Set the zero map's state. -/
def State.setZm (s : State) (k p v : Nat) : State := s.fset (F.pccZmapCtl_STATE k p) v

/-- A ZMAP_CTL command is refused (R212). -/
def State.zmRefuse (s : State) (k p : Nat) : State := s.raise (F.pccZmapStatus_REFUSED k p)

/-- OP = ADOPT (Table 7.4). -/
def State.zmAdopt (s : State) (k p : Nat) : State :=
  if s.zmState k p = zmOff && !s.flag (F.pccZmapCtl_WRITTEN k p) then s.setZm k p zmOn else s.zmRefuse k p

/-- OP = CLEAR (Table 7.4). -/
def State.zmClear (s : State) (k p : Nat) : State :=
  if s.zmState k p = zmOff then s.setZm k p zmClearing else s.zmRefuse k p

/-- OP = DISABLE (Table 7.4). -/
def State.zmDisable (s : State) (k p : Nat) : State :=
  if s.zmState k p = zmOn then s.setZm k p zmDisabling else s.zmRefuse k p

/-- A write-back of line `l` is in the buffer. -/
def Pcc.writesLine (c : Pcc) (l : Nat) : Bool := c.buf.any fun q => q.kind == .lineWrite && q.u == l

/-- The write-back of line `l` begins: it takes no slot, at key 0 or the key of what waits for it (R216). -/
def State.startWriteback (s : State) (k p l : Nat) : State :=
  let s := s.modPcc k p fun c => { c with lines := c.lines.map fun z => if z.line = l then { z with st := .writeback } else z }
  if (s.pcc k p).writesLine l then s else s.pushOwn k p ((Piece.own k p .lineWrite).atMeta s.build l)

/-- OP = FLUSH (Table 7.4): every DIRTY line is written back. -/
def State.zmFlush (s : State) (k p : Nat) : State :=
  let s := s.forEach (((s.pcc k p).lines.filter fun z => z.st == .dirty).map (·.line)) fun s l => s.startWriteback k p l
  s.modPcc k p fun c => { c with zflush := c.lines.any fun z => z.st == .writeback }

def execZmapAdopt (k : Fin 8) (p : Fin 64) (s : State) : Host.Outcome State Fault Refusal :=
  s.cpStk k (.zmapAdopt k p) fun s => s.zmAdopt k.val p.val
def execZmapClear (k : Fin 8) (p : Fin 64) (s : State) : Host.Outcome State Fault Refusal :=
  s.cpStk k (.zmapClear k p) fun s => s.zmClear k.val p.val
def execZmapDisable (k : Fin 8) (p : Fin 64) (s : State) : Host.Outcome State Fault Refusal :=
  s.cpStk k (.zmapDisable k p) fun s => s.zmDisable k.val p.val
def execZmapFlush (k : Fin 8) (p : Fin 64) (s : State) : Host.Outcome State Fault Refusal :=
  s.cpStk k (.zmapFlush k p) fun s => s.zmFlush k.val p.val

/-- ZMAP_OP_RESERVED (R212): OP 5 to 7. -/
def execZmapOpReserved (k : Fin 8) (p : Fin 64) (op : Fin 3) (s : State) : Host.Outcome State Fault Refusal :=
  s.cpStk k (.zmapOpReserved k p op) fun s => s.zmRefuse k.val p.val

/-- Every map word of a PC is written to 0 (R212, Table 9.4 step 2), coded for logical PC `l`; the cached lines go. -/
def State.clearMap (s : State) (k p l : Nat) : State :=
  let s := (s.clearMapCells k p).setFill k p (some l)
  s.modPcc k p fun c => { c with lines := [], zflush := false }

/-- The atoms of a line whose bit is 1. -/
def lineAtoms (l : Nat) (bits : BitVec 512) : List Nat :=
  ((List.range 512).filter fun i => lineBit bits i).map fun i => (l - 16) * 512 + i

/-- The lines of PC `p` in which a bit can be 1: those listed in memory and those cached. -/
def State.mapLines (s : State) (k p : Nat) : List Nat :=
  let base := cellKey k p true 0
  ((s.dram.filter fun e => base + 16 ≤ e.1 && e.1 < base + lastBase).map fun e => e.1 - base) ++ (s.pcc k p).lines.map (·.line)

/-- An atom is written with a zero data burst (Table 7.4, DISABLING). -/
def State.materialise (s : State) (k p u : Nat) : State :=
  let a := addrOfU s.build s.order k (s.metaLpc k p) u
  let s := s.setAtomWord k p u (encodeAtom (dataFold a) 0 false)
  (s.modPcc k p fun c => c.onBurstWrite u).raise (F.pccZmapCtl_WRITTEN k p)

/-- The atoms that line `l` covers outside its own bank (R217). -/
def State.lineCovers (s : State) (l : Nat) : List Nat :=
  ((List.range 512).map fun i => (l - 16) * 512 + i).filter fun u => u < s.build.dataAtoms && !sameBank s.build u

/-- Write atom `u` poisoned (R266). -/
def State.poisonAtom (s : State) (k p u : Nat) : State :=
  let s := s.setAtomWord k p u (encodeAtom (dataFold (s.addrAt k p u)) 0 true)
  let s := s.setSalvage k p ((s.salvageOf k p).filter (· != u))
  (s.modPcc k p fun c => c.onBurstWrite u).raise (F.pccZmapCtl_WRITTEN k p)

/-- An unreadable line is accounted for (R217, R275). -/
def State.lineLost (s : State) (k p l : Nat) : State :=
  let s := s.ueAtom k p
  let s := (s.errLog k 3 3 p 4 0 true (l * 64)).countSat (F.pccZmapStatus_POISONED_LINES k p) 1
  s.post 0x0204 (unitPc k p) (argPc k p) (l * 64)

/-- The DISABLE pass at line `l`: the line is read where it is not resident, an unreadable one treated as R217 says; every atom whose bit is
1 is written with zeros. -/
def State.disableLine (s : State) (k p l : Nat) : State :=
  match (s.pcc k p).line l with
  | some z => s.forEach (lineAtoms l z.bits) fun s u => s.materialise k p u
  | none =>
    let d := decodeAtom (metaFold k (s.metaLpc k p) l) (s.cell k p true l)
    let s := s.countDecode k p true l (l * 64) 20 false d
    if d.out = .uncorrectable then (s.forEach (s.lineCovers l) fun s u => s.poisonAtom k p u).lineLost k p l
    else s.forEach (lineAtoms l d.data) fun s u => s.materialise k p u

/-- The lines a pass has to visit: where unlisted lines read as zero, only those listed or cached. -/
def State.passLines (s : State) (k p : Nat) : List Nat :=
  if (s.fill k p).isSome then (s.mapLines k p).eraseDups else List.range' 16 (s.build.dataAtoms / 512)

/-- ZMAP_DISABLE_DONE (Table 7.4): every atom whose bit is 1 has been written with zeros, and its bit cleared. -/
def State.zmDisableDone (s : State) (k p : Nat) : State :=
  let s := s.forEach (s.passLines k p) fun s l => s.disableLine k p l
  (s.clearMap k p (s.metaLpc k p)).setZm k p zmOff

/-- A pass can make its last writes: the write window is open (R218), no Capo stops the PCC's paths (R193), and no fill or write-back of a
line is under way. -/
def State.passGoes (s : State) (k p : Nat) : Bool :=
  !s.windowClosed k && !s.pccCapo k p && ((s.pcc k p).buf.all fun q => q.kind != .fill && q.kind != .lineWrite) &&
    (s.pcc k p).lines.all fun z => z.st != .filling

def execZmapDisableDone (k : Fin 8) (p : Fin 64) (s : State) : Host.Outcome State Fault Refusal :=
  .next (if s.zmState k.val p.val = zmDisabling && s.passGoes k.val p.val then s.zmDisableDone k.val p.val else s)

/-- Write a line of the map back to its metadata atom. -/
def State.writeLine (s : State) (k p : Nat) (z : ZLine) : State :=
  s.setCell k p true z.line (encodeAtom (metaFold k (s.metaLpc k p) z.line) z.bits false)

/-- A write-back of line `l` (R216): that of a DIRTY line begins; one that has been handed over completes, and the line is CLEAN.
DESIGN CHOICE, log entry 85. -/
def State.lineWritten (s : State) (k p l : Nat) : State :=
  match (s.pcc k p).line l with
  | none => s
  | some z =>
    if z.st = .dirty then s.startWriteback k p l
    else if z.st = .writeback && !(s.pcc k p).writesLine l then
      let s := s.modPcc k p fun c =>
        let c := c.setLine { z with st := .clean }
        { c with zflush := c.zflush && c.lines.any fun y => y.st == .writeback }
      s.zRetry k p
    else s

/-- ZMAP_LINE_WRITEBACK_DONE (R216); under the thermal hold its write is held (R218). -/
def execZmapLineWritebackDone (k : Fin 8) (p : Fin 64) (l : BitVec 16) (s : State) : Host.Outcome State Fault Refusal :=
  .next (s.lineWritten k.val p.val l.toNat)

/-- A line says of an atom that a reader at place `id` waits for: its bit, with the changes of the writes before that place; lost where the
line was unreadable and no such write has changed the bit (R217). -/
def ZLine.tells (z : ZLine) (id : Nat) (bits : BitVec 512) (unread : Bool) (b : Nat) : Bool × Bool :=
  (lineBit (z.before id bits) b, unread && !(z.upds.any fun e => e.id < id && e.bit == b))

/-- The predictor learns from a read piece's line (R215). -/
def State.learn (s : State) (k p : Nat) (q : Piece) (need zeros : Nat) : State :=
  s.modPcc k p fun c =>
    let idx := q.u / 512 % 64
    let v := SMap.get c.pred 0 idx
    { c with pred := if need = 0 then c.pred else SMap.put c.pred 0 idx (if zeros = need then min 3 (v + 1) else v - 1) }

/-- A piece waiting for its line is confirmed or replayed (Table 7.1, R215); atoms of a lost line are answered POISON (R217). -/
def State.confirmPiece (s : State) (k p : Nat) (z : ZLine) (bits : BitVec 512) (unread : Bool) (q : Piece) : State :=
  let tells := fun i => z.tells q.id bits unread (zBitOf (q.u + i))
  let issued := q.todo ++ q.pend ++ q.got.map (·.1)
  let need := issued ++ q.guess
  let lost := need.filter fun i => (tells i).2
  let zeros := need.filter fun i => (tells i).1 && !(tells i).2
  let known := lost ++ zeros
  let replay := q.guess.filter fun i => !known.contains i
  let s := s.forEach lost fun s i => s.take k p q i 0 true (q.kind != .retain)
  let s := s.takeAll k p q (zeros.map fun i => (i, (0 : Atom), false))
  let s := s.forEach (q.got.filter fun e => !known.contains e.1) fun s e => s.take k p q e.1 e.2.1 e.2.2.1 e.2.2.2
  let s := if q.kind = .read then
      (((s.count (F.pccZmWasted_COUNT k p) (issued.filter zeros.contains).length).count (F.pccZmElidedRd_COUNT k p)
        (q.guess.filter zeros.contains).length).count (F.pccZmReplays_COUNT k p) replay.length).learn k p q need.length zeros.length
    else s
  let got := if q.kind = .atomicAdd then ((s.pcc k p).piece? q.id).map (·.got) else none
  let s := s.modPiece k p q.id fun x => { x with
      conf := false, guess := [], got := (got.getD []), todo := (x.todo.filter fun i => !known.contains i) ++ replay
      pend := x.pend.filter fun i => !known.contains i, st := if replay != [] then .queued else x.st }
  match (s.pcc k p).piece? q.id with
  | none => s
  | some x =>
    if x.todo != [] then s
    else if q.todo != [] then s.trainDone k p x
    else s.goOn k p q.id

/-- The pieces that wait for line `l`. -/
def Pcc.waitingOn (c : Pcc) (l : Nat) : List Piece := c.buf.filter fun q => q.conf && zLineOf q.u == l

/-- The atoms of an unreadable line that are written poisoned: all it covers outside its own bank, but those whose bit a write has changed
since the fill began, which that write replaces (R217). -/
def State.poisonable (s : State) (z : ZLine) : List Nat :=
  (s.lineCovers z.line).filter fun u => !(z.upds.any fun e => e.bit == zBitOf u)

/-- The write of group `j` of 16 atoms that an unreadable line covers, at its place right after the piece that caused the fill and in that
piece's key (R217). -/
def State.poisonGroup (s : State) (k p : Nat) (z : ZLine) (us : List Nat) (j : Nat) : State :=
  let first := (z.line - 16) * 512 + 16 * j
  let todo := (List.range 16).filter fun i => us.contains (first + i)
  if todo = [] then s
  else
    let q := (Piece.own k p .poisonWrite).atData s.build first (s.addrAt k p first)
    s.modPcc k p fun c => c.insertOwn
      { q with id := z.cause / 64 * 64 + 17 + j, n := 16, todo := todo, since := s.cadence, cls := z.cls, label := z.label, arrival := z.arrival
               aged := z.aged, st := .held }

/-- An unreadable line is installed with every bit 0 and written back; its atoms are poisoned (R217). -/
def State.installLost (s : State) (k p : Nat) (z : ZLine) : State :=
  let waiting := (s.pcc k p).waitingOn z.line
  let us := s.poisonable z
  let s := (s.forEach (List.range 32) fun s j => s.poisonGroup k p z us j).lineLost k p z.line
  let s := s.modPcc k p fun c => c.setLine { z with st := .dirty, bits := z.applied 0, upds := [], used := s.cadence, word := none, bad := false }
  let s := s.startWriteback k p z.line
  let s := s.forEach waiting fun s q => s.confirmPiece k p z 0 true q
  s.forEach ((s.pcc k p).buf.filter fun q => q.kind == .poisonWrite && q.st == .held) fun s q => s.evaluate k p q

/-- A line that reads is installed, changes applied (R215, R216). -/
def State.installLine (s : State) (k p : Nat) (z : ZLine) (bits : BitVec 512) : State :=
  let waiting := (s.pcc k p).waitingOn z.line
  let s := s.modPcc k p fun c => c.setLine { z with
    st := if z.upds = [] then .clean else .dirty, bits := z.applied bits, upds := [], used := s.cadence, word := none, bad := false }
  s.forEach waiting fun s q => s.confirmPiece k p z bits false q

/-- ZMAP_LINE_FILL (R215–R217): the word that line `l`'s fill has read is decoded and installed; one whose read has failed for good counts as unreadable (R282; DESIGN CHOICE, log entry 87). The install of an unreadable line makes a
line WRITEBACK, and waits while that would be a fifteenth, or while its poisoned-atom writes are under the thermal hold (R216, R218). -/
def State.lineFill (s : State) (k p l : Nat) : State :=
  match (s.pcc k p).line l with
  | none => s
  | some z =>
    match (if z.bad then some 0 else z.word) with
    | none => s
    | some w =>
      let d := decodeAtom (metaFold k (s.metaLpc k p) l) w
      let lost := z.bad || d.out == .uncorrectable
      if z.st != .filling || (lost && (s.windowClosed k || (z.upds = [] && 14 ≤ (s.pcc k p).dirtyLines))) then s
      else
        let s := if z.bad then s else s.countDecode k p true l (l * 64) 20 false d
        (if lost then s.installLost k p z else s.installLine k p z d.data).zRetry k p

def execZmapLineFill (k : Fin 8) (p : Fin 64) (l : BitVec 16) (s : State) : Host.Outcome State Fault Refusal :=
  .next (s.lineFill k.val p.val l.toNat)

end Sys2Proof.Machine
end

