-- ==== Sys2Proof/Machine/Ctx.lean ====
section
/-! DEFINITION. Slots and contexts as every meaning reaches them, the flow of a program from one instruction to the next
(R313, R314), and the committed capacity of the instance (R167–R170). -/

namespace Sys2Proof.Machine

def State.slot (s : State) (n : Nat) : Slot := SMap.get s.slots Slot.init n
def State.setSlot (s : State) (n : Nat) (x : Slot) : State := { s with slots := SMap.put s.slots Slot.init n x }
def State.modSlot (s : State) (n : Nat) (f : Slot → Slot) : State := s.setSlot n (f (s.slot n))

def State.ctx? (s : State) (c : Nat) : Option Ctx := SMap.get s.ctxs none c
def State.setCtx (s : State) (c : Nat) (x : Option Ctx) : State := { s with ctxs := SMap.put s.ctxs none c x }
def State.modCtx (s : State) (c : Nat) (f : Ctx → Ctx) : State :=
  match s.ctx? c with
  | some x => s.setCtx c (some (f x))
  | none => s

/-- Address register `i`. -/
def Ctx.areg (x : Ctx) (i : Nat) : Nat := x.a.getD i 0

/-- Count register `i`. -/
def Ctx.creg (x : Ctx) (i : Nat) : Nat := x.c.getD i 0

/-- The instruction at `pc` of its atom (R294). -/
def insAt (d : Atom) (pc : Nat) : Nat := d.toNat / 2 ^ (8 * (pc % 64)) % 2 ^ 128

/-- The stream a SET_STREAM names (R312). -/
def setStreamId (x : Ctx) (w : Nat) : Nat := if w.testBit 109 then x.creg (bitsOf w 108 106) % 2 ^ 20 else bitsOf w 19 0

/-- The context stands at a SET_STREAM that names stream `i` and has not completed (R130). -/
def Ctx.naming (x : Ctx) (i : Nat) : Bool :=
  x.fetch.any fun e => e.1 == x.pc / 64 * 64 && insOp (insAt e.2 x.pc) == iSetStream && setStreamId x (insAt e.2 x.pc) == i

def Ctx.setA (x : Ctx) (i v : Nat) : Ctx := { x with a := x.a.set i (v % 2 ^ 42) }
def Ctx.setC (x : Ctx) (i v : Nat) : Ctx := { x with c := x.c.set i (v % 2 ^ 40) }

/-- next_pc() of R314: where execution goes from `n`, with the loop entries that are left. -/
def nextPc (taken : Bool) (n : Nat) : List LoopEnt → Nat × List LoopEnt
  | [] => (n, [])
  | l :: ls =>
    let fin := l.start + 16 * l.body
    if !taken && n == fin && l.remaining != 1 then (l.start, { l with remaining := l.remaining - 1 } :: ls)
    else
      let l' := if !taken && n == fin then { l with remaining := 0 } else l
      if l.start ≤ n && n < fin then (n, l' :: ls) else nextPc taken n ls

/-- The PC after an instruction that does not branch (R314). -/
def Ctx.advance (x : Ctx) : Ctx :=
  let r := nextPc false ((x.pc + 16) % 2 ^ 42) x.loops
  { x with pc := r.1, loops := r.2, cur := none }

/-- The PC after a branch to `target` (R314). -/
def Ctx.jump (x : Ctx) (target : Nat) : Ctx :=
  let r := nextPc true target x.loops
  { x with pc := r.1, loops := r.2, cur := none }

/-- unit_s of R167 for multiplier `m` and throttle `t`. -/
def capUnit (refLoss m : Nat) (t : Bool) : Nat := (1024 - refLoss * m) * (if t then 3 else 4)

/-- unit_s of stack `k`. -/
def State.stackUnit (s : State) (k : Nat) : Nat := capUnit (s.fget F.trfCapCfg_REF_LOSS) (s.refMult k) (s.throttled k)

/-- PEAK4K of a bin (R167). -/
def peak4k (bin : Nat) : Nat := 400 + 100 * bin

/-- cap_s of stack `k` (R167). -/
def State.stackCap (s : State) (k : Nat) : Nat :=
  peak4k (s.stackBin k) * s.stackUnit k * s.fget F.trfCapCfg_UTIL / 256

/-- The least of a list of numbers, with its index; 0 for none. Of equals the first: of stacks with the same least capacity the
lowest-numbered is named (DESIGN CHOICE, log entry 93). -/
def leastOf : List (Nat × Nat) → Nat × Nat
  | [] => (0, 0)
  | [e] => e
  | e :: l => let r := leastOf l; if e.1 ≤ r.1 then e else r

/-- CAP_INST (R167). -/
def State.capInst (s : State) : Nat :=
  s.build.nStacks * (leastOf (s.stacks.map fun k => (s.stackCap k, k))).1

/-- SCALE and the stack that sets it (R170). -/
def State.scale (s : State) : Nat × Nat :=
  leastOf (s.stacks.map fun k => (65536 * s.stackUnit k / ((1024 - s.fget F.trfCapCfg_REF_LOSS) * 4), k))

/-- m_s as R170 codes it. -/
def multCode (m : Nat) : Nat := if m = 1 then 0 else if m = 2 then 1 else 2

/-- GUARANTEE_SCALED is posted when SCALE differs from what it was (R170). -/
def State.scaleNote (s : State) (old : Nat) : State :=
  let r := s.scale
  if r.1 = old then s
  else s.post 0x040B 0 r.1 (r.2 + multCode (s.refMult r.2) * 2 ^ 4 + bit (s.throttled r.2) * 2 ^ 6)

/-- CAP_CFG_WRITE (R167, R170). -/
def State.capCfgWrite (s : State) (w : Nat) : State :=
  let old := s.scale.1
  ((s.fset F.trfCapCfg_UTIL (bitsOf w 15 8)).fset F.trfCapCfg_REF_LOSS (bitsOf w 7 0)).scaleNote old

def execCapCfgWrite (w : Word) (s : State) : Host.Outcome State Fault Refusal :=
  s.cpDo (.capCfgWrite w) fun s => s.capCfgWrite w.toNat

end Sys2Proof.Machine
end

