-- ==== Sys2Proof/Machine/Stream.lean ====
section
/-! DEFINITION. Streams (R118–R148): descriptors, the stream cache, token buckets and colours, fair queuing within a class,
and the commands that change a stream. -/

namespace Sys2Proof.Machine

/-- Word `k` of a descriptor. -/
def dWord (d : Atom) (k : Nat) : Nat := d.toNat / 2 ^ (64 * k) % 2 ^ 64

/-- Bits [hi:lo] of word `k`. -/
def dField (d : Atom) (k hi lo : Nat) : Nat := bitsOf (dWord d k) hi lo

/-- A descriptor with bits [hi:lo] of word `k` replaced. -/
def dPut (d : Atom) (k hi lo v : Nat) : Atom := BitVec.ofNat 512 (bitsPut d.toNat (64 * k + hi) (64 * k + lo) v)

def dClass (d : Atom) : Nat := dField d 0 62 60
def dPgroup (d : Atom) : Nat := dField d 0 59 56
def dPolice (d : Atom) : Nat := dField d 0 55 54
def dDefPage (d : Atom) : Nat := dField d 0 53 52
def dOrdMode (d : Atom) : Nat := dField d 0 51 50
def dWeight (d : Atom) : Nat := max 1 (dField d 0 40 33)
def dOverhead (d : Atom) : Nat := dField d 0 32 25
def dCir (d : Atom) : Nat := dField d 1 63 40
def dCbs (d : Atom) : Nat := dField d 1 39 20
def dEir (d : Atom) : Nat := dField d 2 63 40
def dEbs (d : Atom) : Nat := dField d 2 39 20
def dRedEn (d : Atom) : Bool := dField d 3 63 63 == 1
/-- RED_FMT, RED_KIND and RED_OP together. -/
def dRed (d : Atom) : Nat := dField d 3 62 54
def dLastUpd (d : Atom) : Nat := dWord d 6
def dCTok (d : Atom) : Int := signed 40 (dField d 4 39 0)
def dETok (d : Atom) : Int := signed 40 (dField d 5 39 0)

/-- The sample shift in use: 0 for none (Table 4.1). -/
def dShift (d : Atom) : Nat := let k := dField d 0 24 20; if k = 0 then 0 else max 16 k

/-- A reduction binding holds defined codes (R329). -/
def redValid (d : Atom) : Bool :=
  let f := dField d 3 62 59
  let o := dField d 3 55 54
  1 ≤ f && f ≤ 5 && dField d 3 58 56 ≤ 5 && (o == 0 || o == 2)

/-- The descriptor is valid (R124). -/
def dValid (d : Atom) : Bool :=
  dField d 0 63 63 == 1 && !(dPolice d != 2 && dCir d == 0 && dEir d == 0) && !(dRedEn d && !redValid d)

/-- Master group `g` passes GROUP_CHECK (R124). -/
def dGroupOk (d : Atom) (g : Nat) : Bool := dField d 0 49 49 == 0 || dField d 0 48 41 == g

/-- The static part of `a` with the dynamic part of `b`. -/
def dStatic (a b : Atom) : Atom := BitVec.ofNat 512 (a.toNat % 2 ^ 256 + b.toNat / 2 ^ 256 * 2 ^ 256)

/-- The device address of stream `i`'s descriptor (R121). -/
def State.descAddr (s : State) (i : Nat) : Nat := s.build.addrBase + s.build.addrSize - 0x4000000 + 64 * i

/-- The cache entry of a stream, with its index (R127). -/
def State.entry? (s : State) (i : Nat) : Option (Nat × Entry) := s.cache.find? fun e => e.2.st != .free && e.2.stream == i

def State.setEntry (s : State) (j : Nat) (e : Entry) : State := { s with cache := SMap.put s.cache Entry.init j e }

/-- An entry holds its stream resident (R127). -/
def Entry.resident (e : Entry) : Bool := e.st == .idle || e.st == .busy || e.st == .draining

/-- The words requests of the stream are served under (R144). -/
def Entry.served (e : Entry) : Atom := if e.st = .draining then e.old else e.desc

/-- The entry's part of COMMIT_LEDGER.SUM (R168). -/
def Entry.committed (e : Entry) : Nat :=
  match e.st with
  | .idle | .busy => if dValid e.desc && dPolice e.desc != 2 then dCir e.desc else 0
  | .draining => if dPolice e.old != 2 then dCir e.old else 0
  | _ => 0

/-- COMMIT_LEDGER.SUM (R168). -/
def State.ledger (s : State) : Nat := s.cache.foldl (fun n e => n + e.2.committed) 0

/-- Pinned entries. -/
def State.pinned (s : State) : Nat := (s.cache.filter fun e => e.2.pinned).length

/-- The most pinned entries (Table 4.4). -/
def State.pinMax (s : State) : Nat := min 8192 (s.fget F.trfCacheCfg_PIN_MAX)

/-- Virtual time of a port group and class (R138). DESIGN CHOICE, log entry 5. -/
def State.vt (s : State) (g c : Nat) : Nat := SMap.get s.vtime 0 (g * 8 + c)

/-- Tag `a` is not after tag `b` (R138). -/
def tagLe (a b : Nat) : Bool := (b + 2 ^ 64 - a % 2 ^ 64) % 2 ^ 64 < 2 ^ 63

/-- The later of two tags. -/
def tagMax (a b : Nat) : Nat := if tagLe a b then b else a

/-- refill() of R135 with the SCALE in force, for a stream served under `w`; an unshaped stream is left alone (R136). -/
def State.refill (s : State) (w d : Atom) : Atom :=
  if dPolice w = 2 then d
  else
    let dt := (s.cadence + 2 ^ 64 - dLastUpd d) % 2 ^ 64
    let c := min ((dCbs w * 64000 : Nat) : Int) (dCTok d + ((dCir w * s.scale.1 / 65536 * dt : Nat) : Int))
    let e := min ((dEbs w * 64000 : Nat) : Int) (dETok d + ((dEir w * dt : Nat) : Int))
    dPut (dPut (dPut d 4 39 0 (unsigned 40 c)) 5 39 0 (unsigned 40 e)) 6 63 0 s.cadence

/-- The cost of a request in bytes (R134). -/
def Req.cost (r : Req) (w : Atom) : Nat := if r.op = opProbe then 0 else r.atoms * (64 + dOverhead w)

/-- colour_of() of R136: the colour, and the descriptor with its buckets drawn on. -/
def colourOf (w d : Atom) (r : Req) : Colour × Atom :=
  let cost : Int := (r.cost w * 1000 : Nat)
  if dPolice w = 2 ∨ r.op = opProbe then (.green, d)
  else if (dPolice w != 1 || r.colour == 0 || r.colour == 1) && decide (0 < dCTok d) then
    (.green, dPut d 4 39 0 (unsigned 40 (dCTok d - cost)))
  else if 0 < dETok d then (.yellow, dPut d 5 39 0 (unsigned 40 (dETok d - cost)))
  else (.red, d)

/-- The slot of a request that is a program's service traffic (R287). -/
def Req.service? (r : Req) : Option Nat :=
  match r.src with
  | .own (.prog n _) | .own (.code n) => some n
  | _ => none

/-- Evaluate the head of entry `j` (R135, R136, R138): refill, colour, and the tags of an eligible head. Service traffic is green without
touching the buckets, in the class and port group recorded at its launch (R287). -/
def State.colourHead (s : State) (j : Nat) : State :=
  let e := SMap.get s.cache Entry.init j
  match e.queue with
  | [] => s
  | id :: _ =>
    match s.req? id with
    | none => s
    | some r =>
      if e.colour = .green ∨ e.colour = .yellow then s
      else
        let w := e.served
        let svc := r.service?.map s.slot
        let c := if svc.isSome then (.green, e.desc) else colourOf w (s.refill w e.desc) r
        if c.1 = .red then s.setEntry j { e with desc := c.2, colour := .red }
        else
          let cls := (svc.map (·.cls)).getD (dClass w)
          let pg := (svc.map (·.pg)).getD (dPgroup w)
          let start := tagMax (s.vt pg cls) e.fin
          let cost := if r.op = opProbe then 64 else r.cost w
          s.setEntry j { e with
            desc := c.2, colour := c.1, start := start, fin := (start + cost * 4096 / dWeight w) % 2 ^ 64
            hcls := cls, hpg := pg, head := w }

/-- DEPTH of a sample: data bytes queued, in units of 64 (R146). -/
def State.depth (s : State) (e : Entry) : Nat :=
  e.queue.foldl (fun n id => match s.req? id with
    | some r => n + (if r.op = opProbe then 0 else r.atoms)
    | none => n) 0

/-- DELAY of a sample (R146). A request enters its stream when it meets the resident descriptor (DEDUCED, log entry 13). -/
def State.delay (s : State) (e : Entry) : Nat :=
  match (e.queue.head?).bind s.req? with
  | some r => s.cadence - r.entered
  | none => 0

/-- Bytes of word 7. -/
def sampleEnables : BitVec 64 := 0xFF00000000000000

/-- Take one sample of entry `j` (R146) and send word 7 to the store (R129, R132). DEDUCED, log entry 68. -/
def State.takeSample (s : State) (j : Nat) : State :=
  let e := SMap.get s.cache Entry.init j
  let d := dPut e.desc 7 15 0 (dField e.desc 7 15 0 + 1)
  let d := dPut d 7 63 40 (min (2 ^ 24 - 1) (s.depth e))
  let d := dPut d 7 39 16 (min 0xFFFFFF (s.delay e))
  let s := s.setEntry j { e with desc := d, sampled := some s.cadence }
  s.ownStart (.sample e.stream) (serviceAccess 0) .partialWrite (s.descAddr e.stream) 1 [d] [false] [sampleEnables]

/-- A sample that falls due at this very moment and has not been taken comes before the arrival of a request and before an eviction
(Table 4.12; log entry 99). -/
def State.settleSample (s : State) (j : Nat) : State :=
  let e := SMap.get s.cache Entry.init j
  let k := dShift e.served
  if e.resident && k != 0 && s.cadence % 2 ^ k == 0 && e.sampled != some s.cadence then s.takeSample j else s

/-- A request enters the stream of entry `j` (Table 4.2). -/
def State.enterStream (s : State) (j id : Nat) : State :=
  let s := s.settleSample j
  let e := SMap.get s.cache Entry.init j
  let now := s.cadence
  let s := (s.setEntry j { e with queue := e.queue ++ [id], last := now, st := if e.st = .idle then .busy else e.st }).modReq id
    fun r => { r with entered := now }
  if e.queue = [] then s.colourHead j else s

/-- Checks 7 and 8 of Table 2.13 against a resident descriptor (R124, R73). -/
def State.streamRefuses (s : State) (d : Atom) (r : Req) : Bool :=
  !dValid d || !dGroupOk d (s.group r.mid) || (r.op == opAtomic && (!s.build.nmus || !dRedEn d))

/-- The request stands for a look at a descriptor (R288). -/
def Req.looks (r : Req) : Bool :=
  match r.src with
  | .own (.look _) => true
  | _ => false

/-- A request meets its resident stream: it is refused (R120), or enters; behind a fence of its master it is kept back at its
port (R71; DEDUCED, log entry 76). Service traffic is not subject to check 7 (R287). -/
def State.meetStream (s : State) (j id : Nat) : State :=
  match s.req? id with
  | none => s
  | some r =>
    if r.looks then s.setAtom id 0 (.of .ok)
    else if r.service?.isSome then s.enterStream j id
    else if s.streamRefuses (SMap.get s.cache Entry.init j).desc r then s.refuse id stDecode
    else if s.fenced id r then s else s.enterStream j id

/-- The lowest number at or above `n` that a map does not list. DESIGN CHOICE, log entry 70. -/
def freeIndex : SMap Entry → Nat → Nat
  | [], n => n
  | (k, _) :: m, n => if k = n then freeIndex m (n + 1) else n

/-- Entries of the stream cache. -/
def cacheSize : Nat := 16384

/-- A command that has not completed names the stream (R130). -/
def State.commanded (s : State) (i : Nat) : Bool := s.scmds.any fun c => c.stream == i

/-- A SET_STREAM that has not completed names the stream (R130). -/
def State.setStreaming (s : State) (i : Nat) : Bool := s.ctxs.any fun e => e.2.any fun x => x.naming i

/-- The entry to evict (R130): the idle, unpinned entry with the oldest last use, lowest index first. -/
def State.victim (s : State) : Option (Nat × Entry) :=
  (s.cache.filter fun e => e.2.st == .idle && !e.2.pinned && !s.commanded e.2.stream && !s.setStreaming e.2.stream).foldl
    (fun (b : Option (Nat × Entry)) e =>
      match b with
      | none => some e
      | some x => if e.2.last < x.2.last then some e else some x) none

/-- Stream `i` is named by a command or a SET_STREAM: its entry's last use is now (R130). DEDUCED, log entry 77. -/
def State.named (s : State) (i : Nat) : State :=
  match s.entry? i with
  | some (j, e) => s.setEntry j { e with last := s.cadence }
  | none => s

/-- Bytes of words 4 to 7. -/
def dynEnables : BitVec 64 := 0xFFFFFFFF00000000

/-- A stream cache entry goes to WRITEBACK (Table 4.2): words 4 to 7 are on their way to the store (R129, R132). -/
def State.writeback (s : State) (j : Nat) : State :=
  let e := SMap.get s.cache Entry.init j
  let s := s.setEntry j { e with st := .writeback, evict := false, pinned := false }
  s.ownStart (.writeback e.stream) (serviceAccess 0) .partialWrite (s.descAddr e.stream) 1 [e.desc] [false] [dynEnables]

/-- An idle entry with its evict mark set goes to WRITEBACK once no command and no SET_STREAM that has not completed names it (R130,
Table 4.2). -/
def State.evictIdle (s : State) (i : Nat) : State :=
  match s.entry? i with
  | some (j, e) => if e.st = .idle && e.evict && !s.commanded i && !s.setStreaming i then s.writeback j else s
  | none => s

/-- The port that a request came in by. -/
def Src.dataPort? : Src → Option Nat
  | .port n => some n
  | _ => none

/-- A request misses on its stream (R130): the first holds a miss slot of its port, later ones wait with it and hold none (R131). -/
def State.miss (s : State) (i : Nat) (id : Option Nat) : State :=
  if s.misses.any fun m => m.stream == i then
    { s with misses := s.misses.map fun m => if m.stream = i then { m with reqs := m.reqs ++ id.toList } else m }
  else { s with misses := s.misses ++ [⟨i, id.toList, false, (id.bind s.req?).bind fun r => r.src.dataPort?, false⟩] }

/-- The streams on which port `n` holds misses (R131). -/
def State.portMisses (s : State) (n : Nat) : List Nat := (s.misses.filter fun m => m.port == some n).map (·.stream)

/-- A request that needs its stream: it meets the resident descriptor, or waits for the fetch (R120). -/
def State.toStream (s : State) (id i : Nat) : State :=
  match s.entry? i with
  | some (j, e) => if e.resident then s.meetStream j id else s.miss i (some id)
  | none => s.miss i (some id)

/-- The miss on `i` takes entry `j`: the descriptor's fetch is issued (R130, R132). A fetch that a command or a launch check asked for counts
in CACHE_MISSES once a request waits with it (DESIGN CHOICE, log entry 96). -/
def State.fetchInto (s : State) (i j : Nat) (m : Miss) : State :=
  let s := s.setEntry j { Entry.init with st := .filling, stream := i, last := s.cadence }
  let s := { s with misses := s.misses.map fun (x : Miss) => if x.stream = i then { x with started := true } else x
                    cacheFull := s.cacheFull && m.waited }
  let s := if m.reqs.all fun id => (s.req? id).all Req.looks then s else s.count F.trfCacheMisses_COUNT 1
  s.ownStart (.fetch i) (serviceAccess 7) .read (s.descAddr i) 1 [] [] []

/-- DESCRIPTOR_FETCH_START (R130): the miss on `i` takes a free entry, or evicts; the first miss that has to wait posts
STREAM_CACHE_FULL. -/
def State.fetchStart (s : State) (i : Nat) : State :=
  match s.misses.find? fun m => m.stream == i && !m.started with
  | none => s
  | some m =>
    if (s.entry? i).isSome then s
    else
      let j := freeIndex s.cache 0
      let leaving := (s.cache.filter fun e => e.2.st == .writeback).length
      if j < cacheSize then s.fetchInto i j m
      else if (s.misses.filter fun x => !x.started).length ≤ leaving then s
      else match s.victim with
        | some v => (s.settleSample v.1).writeback v.1
        | none =>
          let s := { s with misses := s.misses.map fun (x : Miss) => if x.stream = i then { x with waited := true } else x }
          if s.cacheFull then s else { (s.post 0x0408 0 i 0) with cacheFull := true }

def execDescriptorFetchStart (i : BitVec 20) (s : State) : Host.Outcome State Fault Refusal := .next (s.fetchStart i.toNat)

/-- The outcome of a stream command: STREAM_STATUS for the control port; for SET_STREAM, C[CR] and the next
instruction (R141, R312). -/
def State.cmdResult (s : State) (c : SCmd) (r : Nat) : State :=
  match c.ctx with
  | none => (s.fset F.trfStreamStatus_ID c.stream).fset F.trfStreamStatus_RESULT r
  | some x =>
    match s.ctx? x with
    | none => s
    | some y =>
      match y.wait, y.cur with
      | some .load, some cur =>
        let s := s.setCtx x (some ({ y with wait := none }.setC (bitsOf cur.word.toNat 105 103) r).advance)
        s
      | _, _ => s

/-- A LOAD with the words read from the store (R142–R144, R168, R169). DEDUCED, log entry 28. -/
def State.applyLoad (s : State) (j : Nat) (w : Atom) (c : SCmd) : State × Nat :=
  let e := SMap.get s.cache Entry.init j
  if dValid w then
    let new := if dPolice w = 2 then 0 else dCir w
    if !c.force && e.committed < new && s.capInst < s.ledger - e.committed + new then (s, 1)
    else
      let d := dStatic w e.desc
      let d := dPut d 4 39 0 (if c.tokZero then 0 else dCbs w * 64000)
      let d := dPut d 5 39 0 (if c.tokZero then 0 else dEbs w * 64000)
      let d := dPut d 6 63 0 s.cadence
      let st := if e.st = .draining then .busy else e.st
      let s := s.setEntry j { e with desc := d, st := st, last := s.cadence }
      (if e.colour = .red then s.colourHead j else s, 0)
  else
    let e := { e with last := s.cadence, old := if e.st = .busy then e.desc else e.old
                      desc := dStatic w e.desc, st := if e.st = .busy then .draining else e.st }
    (s.setEntry j e, 3)

/-- A PIN (R145). -/
def State.applyPin (s : State) (j : Nat) : State × Nat :=
  let e := SMap.get s.cache Entry.init j
  if e.pinned then (s.setEntry j { e with last := s.cadence }, 0)
  else if s.pinMax ≤ s.pinned then (s, 2)
  else (s.setEntry j { e with pinned := true, last := s.cadence }, 0)

/-- A VIEW (Table 4.3): the tokens are refilled and the words copied. -/
def State.applyView (s : State) (j : Nat) : State :=
  let e := SMap.get s.cache Entry.init j
  let d := s.refill e.served e.desc
  let s := s.setEntry j { e with desc := d, last := s.cadence }
  s.forEach (List.range 8) fun s k => s.setReg (A.trfStreamView k) (BitVec.ofNat 64 (dWord d k))

/-- What becomes of a command: it waits, or it has completed with a result. -/
inductive CmdStep where
  | wait
  | done (r : Nat)
deriving DecidableEq, Repr

/-- A command begins the fetch or the write-back that it waits for. -/
def State.beginCmd (s : State) (c : SCmd) : State :=
  { s with scmds := s.scmds.map fun x => if x = c then { x with begun := true } else x }

/-- A LOAD or PIN of a stream that is not resident: its fetch is asked for (Table 4.2). -/
def State.cmdFetch (s : State) (c : SCmd) : State × CmdStep := ((s.miss c.stream none).beginCmd c, .wait)

/-- One command naming a stream (R127, R141, Table 4.2). A LOAD of a resident stream reads the store, and waits for that read; a FLUSH of an
idle entry waits for its write-back. -/
def State.applyCmd (s : State) (c : SCmd) : State × CmdStep :=
  let gone := CmdStep.done (if c.op = 5 then 5 else 0)
  match s.entry? c.stream with
  | none => if c.op = 1 ∨ c.op = 3 then s.cmdFetch c else (s, gone)
  | some (j, e) =>
    if e.st = .filling then (s, .wait)
    else if e.st = .writeback then
      if c.op = 1 ∨ c.op = 3 then s.cmdFetch c else (s, if c.begun then .wait else gone)
    else if c.op = 1 then
      match s.serviceRead (.load c.stream) (s.descAddr c.stream) with
      | (s, .data w false) => let r := s.applyLoad j w c; (r.1, .done r.2)
      | (s, .data _ true) => (s, .done 4)
      | (s, .lost) => (s, .done 4)
      | (s, _) => (s, .wait)
    else if c.op = 2 then
      if e.st = .idle then ((s.writeback j).beginCmd c, .wait)
      else (s.setEntry j { e with evict := true, pinned := false }, .done 0)
    else if c.op = 3 then let r := s.applyPin j; (r.1, .done r.2)
    else if c.op = 4 then (s.setEntry j { e with pinned := false }, .done 0)
    else (s.applyView j, .done 0)

/-- A command has completed with result `r` (R141); it names its stream as it does (R130). -/
def State.cmdDone (s : State) (c : SCmd) (r : Nat) : State :=
  (State.cmdResult { s with scmds := s.scmds.filter fun x => !(x.stream == c.stream && x.ctx == c.ctx) } c r).named c.stream

/-- The waiting commands of a stream, in order, as far as they go (R141). -/
def State.runCmds : Nat → Nat → State → State
  | 0, i, s => s.evictIdle i
  | n + 1, i, s =>
    match s.scmds.find? fun c => c.stream == i with
    | none => s.evictIdle i
    | some c =>
      match s.applyCmd c with
      | (s, .wait) => s
      | (s, .done r) => State.runCmds n i (s.cmdDone c r)

/-- A command naming a stream arrives (R141, R148). -/
def State.streamCmd (s : State) (c : SCmd) : State :=
  let first := !s.commanded c.stream
  let s := { s.named c.stream with scmds := s.scmds ++ [c] }
  if first then State.runCmds 1 c.stream s else s

/-- The requests that waited for a fetch that has failed are refused under check 7 (Table 4.2); service traffic, which is not subject to it
(R287), waits for the next fetch (DESIGN CHOICE, log entry 90). -/
def State.fetchRefuses (s : State) (i id : Nat) : State :=
  if (s.req? id).any fun r => r.service?.isSome then s.miss i (some id) else s.refuse id stDecode

/-- A fetch fails: the entry is free, the waiting requests are refused, STREAM_DESC_ERR is posted; the LOAD or PIN whose fetch it was ends
with RESULT 4, and the commands behind it go on (Table 4.2, R141). -/
def State.fetchFails (s : State) (j i status : Nat) (reqs : List Nat) : State :=
  let s := (s.setEntry j Entry.init).post 0x0407 0 i status
  let s := { s with misses := s.misses.filter fun m => m.stream != i }
  let s := s.forEach reqs fun s id => s.fetchRefuses i id
  match s.scmds.find? fun c => c.stream == i with
  | some c => State.runCmds s.scmds.length i (if c.begun then s.cmdDone c 4 else s)
  | none => s

/-- A LOAD that brought its stream in by a fetch takes the words the fetch installed; one that only waited for it reads the store. -/
def State.loadFetched (s : State) (j i : Nat) (w : Atom) : State :=
  match s.scmds.find? fun c => c.stream == i with
  | none => s
  | some c =>
    if c.op = 1 && c.begun then
      let r := s.applyLoad j w c
      r.1.cmdDone c r.2
    else s

/-- The reserved bits of words 4 and 5 are 0 as the traffic manager writes them (R123). -/
def dClean (d : Atom) : Atom := dPut (dPut d 4 63 40 0) 5 63 40 0

/-- A fetch installs its words (R123, R128, R140, R145, Table 4.2). Until a request enters it or a command names it, its last use is this moment
(DESIGN CHOICE, log entry 91). -/
def State.install (s : State) (j i : Nat) (w : Atom) (reqs : List Nat) : State :=
  let d := s.refill w (dClean w)
  let pin := dField w 0 19 19 == 1 && decide (s.pinned < s.pinMax)
  let s := s.setEntry j { Entry.init with
    st := .idle, stream := i, desc := d, fin := s.vt (dPgroup w) (dClass w), pinned := pin, last := s.cadence }
  let s := { s with misses := s.misses.filter fun m => m.stream != i }
  let s := s.forEach reqs fun s id => s.meetStream j id
  let s := s.loadFetched j i w
  State.runCmds s.scmds.length i s

/-- DESCRIPTOR_FETCH_RETURN (R128): the fetch of a FILLING entry has returned; or the store read of a LOAD has. -/
def State.fetchReturn (s : State) (i : Nat) : State :=
  match s.entry? i with
  | none => s
  | some (j, e) =>
    if e.st = .filling then
      let reqs := ((s.misses.find? fun m => m.stream == i).map (·.reqs)).getD []
      match s.ownGo (.fetch i) fun s => s with
      | (s, .data w false) => s.install j i w reqs
      | (s, .data _ true) => s.fetchFails j i stPoison reqs
      | (s, .lost) => s.fetchFails j i stLost reqs
      | (s, _) => s
    else if e.resident then State.runCmds s.scmds.length i s
    else s

/-- An entry written back is free, and so is one whose write-back was discarded, which counts as evicted too (Table 4.2; DESIGN CHOICE, log
entry 95). The FLUSH that waited for it has completed. -/
def State.wbFreed (s : State) (j i : Nat) : State :=
  let s := (s.setEntry j Entry.init).count F.trfCacheEvictions_COUNT 1
  match s.scmds.find? fun c => c.stream == i with
  | none => s
  | some c => State.runCmds s.scmds.length i (if c.op = 2 && c.begun then s.cmdDone c 0 else s)

/-- WRITEBACK_DONE (R129): words 4 to 7 have reached their visibility point; or the write-back is discarded with STREAM_WB_LOST, when its PC
is lost, or when it was held until HOLD_TIMEOUT. -/
def State.writebackDone (s : State) (i : Nat) : State :=
  match s.entry? i with
  | none => s
  | some (j, e) =>
    if e.st != .writeback then s.evictIdle i
    else match s.ownGo (.writeback i) fun s => s with
      | (s, .done) => s.wbFreed j i
      | (s, .lost) => (s.post 0x0409 0 i 0).wbFreed j i
      | (s, .timeout) => (s.post 0x0409 0 i 0).wbFreed j i
      | (s, _) => s

/-- Cadence values from now until a bucket of `tok` milli-bytes at `rate` per ct turns positive; none at rate 0 (R136). -/
def untilPositive (tok : Int) (rate : Nat) : Option Nat :=
  if 0 < tok then some 0 else if rate = 0 then none else some ((-tok).toNat / rate + 1)

/-- The cadence value at which a red head is evaluated again (R136). -/
def State.redDue (s : State) (e : Entry) (r : Req) : Option Nat :=
  let w := e.served
  let d := s.refill w e.desc
  let c := if dPolice w = 1 ∧ r.colour ≥ 2 then none else
    if dCbs w = 0 then none else untilPositive (dCTok d) (dCir w * s.scale.1 / 65536)
  let x := if dEbs w = 0 then none else untilPositive (dETok d) (dEir w)
  match c, x with
  | some a, some b => some (s.cadence + min a b)
  | some a, none => some (s.cadence + a)
  | none, some b => some (s.cadence + b)
  | none, none => none

/-- RED_HEAD_REEVAL (R136). -/
def execRedHeadReeval (i : BitVec 20) (s : State) : Host.Outcome State Fault Refusal :=
  match s.entry? i.toNat with
  | none => .next s
  | some (j, e) =>
    if e.colour ≠ .red then .next s
    else match (e.queue.head?).bind s.req? with
      | none => .next s
      | some r =>
        match (s.redDue e r).bind s.atCadence with
        | none => .next s
        | some s => .next (s.colourHead j)

/-- STREAM_LOAD (R141–R144). -/
def execStreamLoad (i : BitVec 20) (tokZero force : Bool) (s : State) : Host.Outcome State Fault Refusal :=
  s.cpDo (.streamLoad i tokZero force) fun s => s.streamCmd ⟨i.toNat, 1, tokZero, force, none, false⟩

/-- STREAM_FLUSH (R141). -/
def execStreamFlush (i : BitVec 20) (s : State) : Host.Outcome State Fault Refusal :=
  s.cpDo (.streamFlush i) fun s => s.streamCmd ⟨i.toNat, 2, false, false, none, false⟩

/-- STREAM_PIN (R145). -/
def execStreamPin (i : BitVec 20) (s : State) : Host.Outcome State Fault Refusal :=
  s.cpDo (.streamPin i) fun s => s.streamCmd ⟨i.toNat, 3, false, false, none, false⟩

/-- STREAM_UNPIN (R141). -/
def execStreamUnpin (i : BitVec 20) (s : State) : Host.Outcome State Fault Refusal :=
  s.cpDo (.streamUnpin i) fun s => s.streamCmd ⟨i.toNat, 4, false, false, none, false⟩

/-- STREAM_VIEW (R141). -/
def execStreamView (i : BitVec 20) (s : State) : Host.Outcome State Fault Refusal :=
  s.cpDo (.streamView i) fun s => s.streamCmd ⟨i.toNat, 5, false, false, none, false⟩

/-- STREAM_CMD_RESERVED (Table 4.3): no action, RESULT 6. -/
def execStreamCmdReserved (seven : Bool) (i : BitVec 20) (s : State) : Host.Outcome State Fault Refusal :=
  s.cpDo (.streamCmdReserved seven i) fun s => (s.fset F.trfStreamStatus_ID i.toNat).fset F.trfStreamStatus_RESULT 6

/-- The first multiple of 2^k at or after `v`. -/
def nextMultiple (v k : Nat) : Nat := (v + 2 ^ k - 1) / 2 ^ k * 2 ^ k

/-- The next sample instant of entry `e` at which no sample has been taken. -/
def sampleDue (e : Entry) (now k : Nat) : Nat :=
  let v := nextMultiple now k
  if e.sampled = some v then v + 2 ^ k else v

/-- STREAM_SAMPLE (R146). -/
def execStreamSample (i : BitVec 20) (s : State) : Host.Outcome State Fault Refusal :=
  match s.entry? i.toNat with
  | none => .next s
  | some (j, e) =>
    let k := dShift e.served
    if !e.resident || k = 0 then .next s
    else match s.atCadence (sampleDue e s.cadence k) with
      | none => .next s
      | some s => .next (s.takeSample j)

/-- Every resident stream of which the counter's jump from `old` passes a sample instant is sampled once (R43, R146). -/
def State.jumpSamples (s : State) (old : Nat) : State :=
  s.forEach (s.cache.filter fun e => e.2.resident && dShift e.2.served != 0 &&
    old / 2 ^ dShift e.2.served != s.cadence / 2 ^ dShift e.2.served) fun s e => s.takeSample e.1

/-- The head request of entry `j` has been forwarded whole (R137, Table 4.2). -/
def State.headDone (s : State) (j : Nat) : State :=
  let e := SMap.get s.cache Entry.init j
  let e := { e with queue := e.queue.drop 1, colour := .uncoloured, start := 0, hcls := 0, hpg := 0, head := 0 }
  let s := s.setEntry j e
  if e.queue != [] then s.colourHead j
  else (s.setEntry j { e with st := .idle, old := 0 }).evictIdle e.stream

/-- An eligible head: its entry, its request. -/
structure Head where
  ix : Nat
  ent : Entry
  id : Nat
  req : Req
deriving DecidableEq, Repr

/-- The eligible heads of port group `g`, class `c` (R139). -/
def State.heads (s : State) (g c : Nat) : List Head :=
  s.cache.filterMap fun e =>
    if (e.2.colour == .green || e.2.colour == .yellow) && e.2.hpg == g && e.2.hcls == c then
      match e.2.queue.head? with
      | none => none
      | some id => match s.req? id with
        | none => none
        | some r => some ⟨e.1, e.2, id, r⟩
    else none

/-- The first of a list under an order. -/
def pickFirst {α : Type} (le : α → α → Bool) : List α → Option α
  | [] => none
  | x :: l => match pickFirst le l with
    | none => some x
    | some y => if le x y then some x else some y

/-- The order of heads within one colour (R139). -/
def Head.le (a b : Head) : Bool :=
  if a.ent.start = b.ent.start then a.ent.stream ≤ b.ent.stream else tagLe a.ent.start b.ent.start

/-- The offered head of a class queue (R139); a request that has started, or that waits for a window, stays it (R159). -/
def State.offered (s : State) (g c : Nat) : Option Head :=
  let l := s.heads g c
  match l.find? fun h => h.req.started != 0 || h.req.deferred.isSome with
  | some h => some h
  | none =>
    let green := l.filter fun h => h.ent.colour == .green
    pickFirst Head.le (if green = [] then l else green)

/-- The offered head can start its next atom now (R157): a probe moves no atom. -/
def State.canStart (s : State) (g c : Nat) (h : Head) : Bool :=
  if h.req.op = opProbe then s.gateOpen g c s.cadence else s.gateFits g c (s.tAtom (dOverhead h.ent.head))

/-- The key of a class at the port group's choice (R161). -/
def State.classKey (s : State) (c : Nat) (h : Head) : Nat :=
  if c = 7 then 8 else min 6 (c + s.urgencyOf h.req.arrival h.req.label)

/-- Offered heads whose class is open but whose next atom does not fit begin a deferral, once for each window (R159). -/
def State.deferHeads (s : State) (g : Nat) : State :=
  s.forEach (List.range 8) fun s c =>
    match s.offered g c with
    | none => s
    | some h =>
      if s.gateOpen g c s.cadence && !s.canStart g c h && !(h.req.deferred.any fun v => s.cadence < v) then
        let v := s.gateClose g c (s.tAtom (dOverhead h.ent.head))
        (s.modReq h.id fun r => { r with deferred := some v }).count (F.trfGateDeferrals_COUNT g) 1
      else s

/-- The page hint, the order bit and the binding a request is served with (R125, R126, R60, R73). -/
def State.resolve (s : State) (r : Req) (w : Atom) : Req :=
  let priv := match r.src with
    | .port n => (List.range 8).any fun i => s.flag (F.glbPrivPort_VALID i) && s.fget (F.glbPrivPort_PORT i) == n
    | _ => false
  let ord := if dOrdMode w = 0 then r.order else dOrdMode w == 1
  { r with order := ord && priv, page := pageHint r.page (dDefPage w), red := dRed w }

/-- The request lies in the sibling's range (R18). -/
def State.siblingReq (s : State) (r : Req) : Bool := !s.build.inRange r.addr 1

/-- Atoms of the piece that holds the next atom of a request; a REWRITE piece is one atom (R264). -/
def State.reqPieceLen (s : State) (r : Req) : Nat := if r.op = opRewrite then 1 else s.pieceLen r.atoms

/-- The last atom of a piece has started: the whole piece is in its lane, or in the sort buffer (R186, R219). -/
def State.sendPiece (s : State) (id : Nat) (r : Req) (first lane cls : Nat) : State :=
  let q := s.reqPiece id r first lane cls r.page
  let q := if r.op = opRewrite then { q with n := 1, data := q.data.take 1, be := q.be.take 1, poison := q.poison.take 1 } else q
  let s := if r.sorted then s.toSort q else s.toLane q
  if r.batch && decide (first + q.n = r.atoms) then s.endBatch q.org else s

/-- The origin port of a request on the Bridge (R83). -/
def Req.originPort (r : Req) : Nat :=
  match r.src with
  | .ctx c => (Config.seqOrigin c).toNat
  | _ => r.origin % 2 ^ 7

/-- The header of a request on the Bridge (R83): that of Table 2.5 with the origin port and the mark that it has passed this instance's rules.
PAGE carries the hint that the stream's default has settled (R125), since the owner never looks the stream up (DEDUCED, log entry 100). -/
def Req.bridgeHeader (r : Req) : BitVec 128 :=
  BitVec.ofNat 128 (2 ^ 109 + r.originPort * 2 ^ 102 + r.colour * 2 ^ 100 + r.tag * 2 ^ 90 + bit r.order * 2 ^ 89 + r.page * 2 ^ 87 +
    r.label * 2 ^ 81 + r.stream * 2 ^ 61 + r.mid * 2 ^ 49 + r.addr * 2 ^ 7 + (if r.op = opProbe then 0 else r.atoms.log2) * 2 ^ 3 + r.op)

/-- Credits that this instance holds as the master of the sibling's Bridge port (R75). -/
def State.bridgeCredit (s : State) (l : Nat) : Nat := SMap.get s.bridgeCr 0 l

/-- An older request of the same source and stream has not been sent over the Bridge (R79). -/
def State.sendsAfter (s : State) (id : Nat) (r : Req) : Bool :=
  s.fwds.any fun e => e.1 < id && !e.2.sent && (s.req? e.1).any fun o => o.src == r.src && o.stream == r.stream

/-- A forwarded request is sent once it has a credit of its label (R75). -/
def State.bridgeSend (s : State) (id : Nat) : State :=
  match SMap.get? s.fwds id, s.req? id with
  | some f, some r =>
    if f.sent || s.bridgeCredit r.label = 0 || s.sendsAfter id r then s
    else { s with bridgeCr := SMap.put s.bridgeCr 0 r.label (s.bridgeCredit r.label - 1)
                  fwds := SMap.insert s.fwds id { f with sent := true } }
  | _, _ => s

/-- A request for the sibling is forwarded over the Bridge (R83, R84). -/
def State.forward (s : State) (id : Nat) (r : Req) : State :=
  State.bridgeSend { s with fwds := SMap.insert s.fwds id ⟨id, r.bridgeHeader, s.cadence, false⟩ } id

/-- Start the next atom of the head (R161): V moves at the first atom (R139), the piece leaves with its last atom, and the
stream goes on once the last atom has started; a request for the sibling is then forwarded over the Bridge (R84).
DEDUCED, log entry 27. -/
def State.startAtom (s : State) (g c : Nat) (h : Head) : State :=
  let r := if h.req.started = 0 then s.resolve h.req h.ent.head else h.req
  let n := r.started + 1
  let s := if r.started = 0 then { s with vtime := SMap.put s.vtime 0 (g * 8 + c) (tagMax (s.vt g c) h.ent.start) } else s
  let r := { r with started := n, deferred := none }
  let s := s.putReq h.id r
  let len := s.reqPieceLen r
  let sib := s.siblingReq r
  let s := if !sib && n % len = 0 then s.sendPiece h.id r (n - len) g c else s
  if n = r.atoms then (if sib then s.forward h.id r else s).headDone h.ix else s

/-- PORT_GROUP_ATOM_START (R161). -/
def State.atomStart (s : State) (g : Nat) : State :=
  let s := s.settleSwap g
  if (s.fget F.arbPgCapo_CAPO).testBit g then s
  else
    let s := s.deferHeads g
    let ok := (List.range 8).filterMap fun c =>
      match s.offered g c with
      | some h => if s.canStart g c h then some (c, h) else none
      | none => none
    match pickFirst (fun a b => decide (s.classKey b.1 b.2 < s.classKey a.1 a.2 ∨
        (s.classKey a.1 a.2 = s.classKey b.1 b.2 ∧ b.1 ≤ a.1))) ok with
    | none => s
    | some (c, h) => s.startAtom g c h

def execPortGroupAtomStart (g : Fin 16) (s : State) : Host.Outcome State Fault Refusal := .next (s.atomStart g.val)

end Sys2Proof.Machine
end

