-- ==== Sys2Proof/Machine/Ports.lean ====
section
/-! DEFINITION. The data ports and the Bridge (R49–R86): acceptance of a request and its checks in order, credits, fences,
response acknowledgements, enabling a port, forwarding to and from the sibling. -/

namespace Sys2Proof.Machine

/-- The master ID a request acts under, or none where check mode refuses it (R61). -/
def State.resolveMid (s : State) (n mid : Nat) : Option Nat :=
  let mode := s.fget (F.glbPortCfg_MID_MODE n)
  let own := s.fget (F.glbPortCfg_MID n)
  let mask := s.fget (F.glbPortCfg_MID_MASK n)
  if mode = 0 then some mid
  else if mode = 2 then (if mid &&& mask = own &&& mask then some mid else none)
  else some own

/-- The sibling's base address (R96). -/
def Build.siblingBase (b : Build) : Nat := (1 - b.sibling) * 0x20000000000

/-- `[a, a + n)` lies wholly within the sibling's range (R97). -/
def State.inSibling (s : State) (a n : Nat) : Bool :=
  s.build.bridge && s.build.siblingBase ≤ a && a + n ≤ s.build.siblingBase + s.fget F.glbSiblingSize_SIZE

/-- IRI_PROTOCOL (R77): the label and the cause. -/
def State.iriProtocol (s : State) (n label cause : Nat) : State := s.post 0x0406 n n (label + cause * 2 ^ 16)

/-- Check 3 of Table 2.13 (R56, R57): an illegal size or a misaligned address. -/
def sizeBad (op size addr : Nat) : Bool :=
  op != opFence && op != opProbe &&
    (7 ≤ size || (op == opPartial && 3 ≤ size) || addr % (64 * 2 ^ size) != 0)

/-- The flits break R62: another count than the expected one, or the next header came before LAST (R63). -/
def flitBad (n op size flits : Nat) (cut : Bool) : Bool :=
  match expectedFlits n op size with
  | some k => cut || k != flits
  | none => false

/-- Checks 2 to 6 of Table 2.13: the status the request is refused with, if any. -/
def State.portRefusal (s : State) (n op : Nat) (h : BitVec 128) : Option Nat :=
  let a := if op = opProbe then hdrAddr h / 64 * 64 else hdrAddr h
  let len := if op = opProbe then 64 else 64 * sizeAtoms (hdrSize h)
  if op ≥ 6 then some stDecode
  else if sizeBad op (hdrSize h) (hdrAddr h) then some stSize
  else if (s.resolveMid n (hdrMid h)).isNone then some stDenied
  else if op = opFence then none
  else if s.build.inRange a len then none
  else if !s.inSibling a len then some stDecode
  else if s.flag F.glbBridgeStatus_UP then none else some stDecode

/-- The record of a request just accepted at port `n`. -/
def State.newReq (s : State) (n op : Nat) (h : BitVec 128) (data : Payload) (be : BitVec 256) : Req :=
  let atoms := if op = opProbe then 1 else if op = opFence ∨ op ≥ 6 ∨ 7 ≤ hdrSize h then 0 else sizeAtoms (hdrSize h)
  { src := .port n, origin := n, op := op, atoms := atoms
    addr := if op = opProbe then hdrAddr h / 64 * 64 else hdrAddr h
    mid := (s.resolveMid n (hdrMid h)).getD (hdrMid h), stream := hdrStream h, label := hdrLabel h, tag := hdrTag h
    page := hdrPage h, order := hdrOrder h, colour := hdrColour h, arrival := s.cadence, red := 0, data := data, be := be
    wpoison := 0, res := List.replicate atoms ⟨.waiting, false, 0⟩, refused := none, started := 0, deferred := none
    forwarded := false, sorted := false, batch := false, flits := 0, lastSent := false, fenceDone := false, probe := 0
    entered := 0 }

/-- Add a request record. -/
def State.addReq (s : State) (r : Req) : State × Nat :=
  ({ s.putReq s.nextReq r with nextReq := s.nextReq + 1 }, s.nextReq)

/-- A request for stream `i` would need a fifth miss slot of port `n` (R131). -/
def State.missSlotShort (s : State) (n i : Nat) : Bool :=
  !((s.entry? i).any fun e => e.2.resident) && !(s.misses.any fun m => m.stream == i) && 4 ≤ (s.portMisses n).length

/-- A wrong flit count (R62). -/
def HeldHdr.bad (n : Nat) (x : HeldHdr) : Bool := flitBad n x.op (hdrSize x.header) x.flits x.cut

/-- The request's record is made, its credit among those to be returned, unless that is lost (R76, R78). -/
def State.accept (s : State) (n : Nat) (x : HeldHdr) (r : Req) : State × Nat :=
  let a := s.addReq r
  (if x.lost then a.1 else a.1.modPort n fun p => { p with spent := p.spent ++ [⟨a.2, hdrLabel x.header, false⟩] }, a.2)

/-- A wrong flit count is counted and reported, and the request is refused with SIZE_ERROR (R62). -/
def State.mismatch (s : State) (n id : Nat) (x : HeldHdr) : State :=
  ((s.countSat (F.glbPortStatus_FLIT_MISMATCH n) 1).iriProtocol n (hdrLabel x.header) 1).refuse id stSize

/-- A request whose header is acknowledged is checked and dispatched (R82): its credit is already consumed. -/
def State.serveReq (s : State) (n : Nat) (x : HeldHdr) : State :=
  let a := s.accept n x (s.newReq n x.op x.header x.data x.be)
  if x.bad n then a.1.mismatch n a.2 x
  else match a.1.portRefusal n x.op x.header with
    | some c => a.1.refuse a.2 c
    | none => if x.op = opFence then a.1 else a.1.toStream a.2 (hdrStream x.header)

/-- Send every piece of a Bridge request to lane 16 (Table 6.3). -/
def State.bridgePieces (s : State) (id : Nat) (r : Req) : State :=
  let n := s.reqPieceLen r
  (s.forEach (List.range (r.atoms / n)) fun s i => s.toLane (s.reqPiece id r (i * n) 16 0 r.page)).modReq id fun r =>
    { r with started := r.atoms }

/-- The record of a request that came over the Bridge: the origin port is in its header, its master ID and page hint are settled (R83). -/
def State.bridgeReq (s : State) (x : HeldHdr) : Req :=
  let r := s.newReq 112 x.op x.header x.data x.be
  { r with src := .bridge, origin := hdrOrigin x.header, mid := hdrMid x.header, page := pageHint r.page 0
           red := (Config.bridgeBinding s.free).toNat }

/-- A Bridge request is served (R84): no die-level rule is applied again. A fence, which the sibling completes itself (R71), has no answer of
the spec's at the owner, and is refused DECODE_ERROR (DESIGN CHOICE, log entry 97). -/
def State.serveBridge (s : State) (x : HeldHdr) : State :=
  let r := s.bridgeReq x
  let a := s.accept 112 x r
  if x.bad 112 then a.1.mismatch 112 a.2 x
  else if 6 ≤ x.op || x.op == opFence then a.1.refuse a.2 stDecode
  else if sizeBad x.op (hdrSize x.header) (hdrAddr x.header) then a.1.refuse a.2 stSize
  else if !s.build.inRange r.addr (64 * r.atoms) || (x.op == opAtomic && !s.build.nmus) then a.1.refuse a.2 stDecode
  else (if x.op = opAtomic then a.1.freed else a.1).bridgePieces a.2 r

/-- Consume a credit of label `l` at port `n`. -/
def State.useCredit (s : State) (n l : Nat) : State :=
  s.modPort n fun p => { p with credits := SMap.put p.credits 0 l (SMap.get p.credits 0 l - 1) }

/-- Hold a header flit unacknowledged. -/
def State.holdHdr (s : State) (n : Nat) (why : HoldWhy) (x : HeldHdr) : State :=
  s.modPort n fun p => { p with hdr := some { x with why := why } }

/-- The request waits for a miss slot: it passes checks 1 to 6, its stream is not resident (R131). -/
def State.needsSlot (s : State) (n : Nat) (x : HeldHdr) : Bool :=
  n != 112 && x.op != opFence && x.op < 6 && !x.bad n && (s.portRefusal n x.op x.header).isNone &&
    s.missSlotShort n (hdrStream x.header)

/-- A request whose credit is consumed is served, or waits for a miss slot (R131). -/
def State.credited (s : State) (n : Nat) (x : HeldHdr) : State :=
  if s.needsSlot n x then (s.holdHdr n .noMissSlot x).count F.trfMissHolds_COUNT 1
  else if n = 112 then s.serveBridge x else s.serveReq n x

/-- Port `n` of this build: the Bridge port only where the Bridge is built (R5). -/
def State.portBuilt (s : State) (n : Nat) : Bool := n < 112 || s.build.bridge

/-- A request arrives at port `n`. While the channel holds a header no other flit can come (R50). From reset until the
port is first enabled a header waits (R78); without a credit it is a violation and waits (R77). -/
def State.arrive (s : State) (n : Nat) (x : HeldHdr) : State :=
  let p := s.port n
  if p.hdr.isSome || !s.coreOn || !s.portBuilt n then s
  else if !p.everEn then s.holdHdr n .notEnabled x
  else if SMap.get p.credits 0 (hdrLabel x.header) = 0 then
    ((s.countSat (F.glbPortStatus_CREDIT_VIOL n) 1).iriProtocol n (hdrLabel x.header) 0).holdHdr n .noCredit x
  else (s.useCredit n (hdrLabel x.header)).credited n x

/-- A request as it comes in. -/
def HeldHdr.of (op : Nat) (h : BitVec 128) (flits : Nat) (cut : Bool) (data : Payload) (be : BitVec 256) : HeldHdr :=
  ⟨.noCredit, op, h, flits, cut, data, be, false⟩

/-- READ (R66). -/
def execRead (n : Fin 112) (h : BitVec 128) (flits : Nat) (cut : Bool) (s : State) : Host.Outcome State Fault Refusal :=
  .next (s.arrive n.val (.of opRead h flits cut 0 0))

/-- WRITE (R70). -/
def execWrite (n : Fin 112) (h : BitVec 128) (flits : Nat) (cut : Bool) (data : Payload) (s : State) : Host.Outcome State Fault Refusal :=
  .next (s.arrive n.val (.of opWrite h flits cut data 0))

/-- WRITE_PARTIAL (R57). -/
def execWritePartial (n : Fin 112) (h : BitVec 128) (flits : Nat) (cut : Bool) (data : Payload) (be : BitVec 256) (s : State) :
    Host.Outcome State Fault Refusal :=
  .next (s.arrive n.val (.of opPartial h flits cut data be))

/-- ATOMIC_ADD_BESIDE (R73). -/
def execAtomicAddBeside (n : Fin 112) (h : BitVec 128) (flits : Nat) (cut : Bool) (data : Payload) (s : State) :
    Host.Outcome State Fault Refusal :=
  .next (s.arrive n.val (.of opAtomic h flits cut data 0))

/-- FENCE (R71). -/
def execFence (n : Fin 112) (h : BitVec 128) (flits : Nat) (cut : Bool) (s : State) : Host.Outcome State Fault Refusal :=
  .next (s.arrive n.val (.of opFence h flits cut 0 0))

/-- PROBE (R72). -/
def execProbe (n : Fin 112) (h : BitVec 128) (flits : Nat) (cut : Bool) (s : State) : Host.Outcome State Fault Refusal :=
  .next (s.arrive n.val (.of opProbe h flits cut 0 0))

/-- RESERVED_OPCODE (R55): opcode 6 or 7. -/
def execReservedOpcode (n : Fin 112) (seven : Bool) (h : BitVec 128) (flits : Nat) (cut : Bool) (s : State) :
    Host.Outcome State Fault Refusal :=
  .next (s.arrive n.val (.of (if seven then 7 else 6) h flits cut 0 0))

/-- BRIDGE_REQUEST (R84): the sibling is the master of port 112. -/
def execBridgeRequest (h : BitVec 128) (flits : Nat) (cut : Bool) (data : Payload) (be : BitVec 256) (s : State) :
    Host.Outcome State Fault Refusal :=
  .next (s.arrive 112 (.of (hdrOp h) h flits cut data be))

/-- STRAY_DATA_FLIT (R62): no request is open, so the flit is discarded and reported with cause 2. -/
def execStrayDataFlit (n : Fin 113) (s : State) : Host.Outcome State Fault Refusal :=
  .next (if (s.port n.val).hdr.isSome || !s.coreOn || !s.portBuilt n.val then s
    else (s.countSat (F.glbPortStatus_FLIT_MISMATCH n.val) 1).iriProtocol n.val 0 2)

/-- SHARE of a label (R165). -/
def State.share (s : State) (l : Nat) : Nat :=
  let v := s.fget (F.trfLabelCfg_SHARE l)
  if v = 0 ∨ 64 < v then 64 else v

/-- OCC of a label: the most pieces of it in any PCC's buffer (Table 5.14). -/
def State.labelOcc (s : State) (l : Nat) : Nat :=
  s.pccs.foldl (fun m c => max m (c.2.buf.filter fun q => q.slotted && q.lane < 17 && q.label == l).length) 0

/-- The label is over share (R165). -/
def State.overShare (s : State) (l : Nat) : Bool := s.share l ≤ s.labelOcc l

/-- The first credit of label `l` consumed at port `n` that may be returned (R76). -/
def Port.returnable (p : Port) (l : Nat) : Option Spent := p.spent.find? fun c => c.acked && c.label == l

/-- A credit of label `l` may be returned at port `n` now (R76, R165). -/
def State.mayReturn (s : State) (n l : Nat) : Bool :=
  s.flag (F.glbPortCfg_EN n) && !s.overShare l && ((s.port n).returnable l).isSome

/-- The header held for a credit at port `n` (R77, R78). -/
def Port.waitsCredit (p : Port) : Option HeldHdr := p.hdr.filter fun h => h.why != .noMissSlot

/-- HELD_HEADER_ACCEPTED (R77, R78): the held header takes an initial credit of its label, or the credit that would be
returned, and is served. -/
def execHeldHeaderAccepted (n : Fin 113) (s : State) : Host.Outcome State Fault Refusal :=
  let p := s.port n.val
  match p.waitsCredit with
  | none => .next s
  | some x =>
    let l := hdrLabel x.header
    let free := fun (p : Port) => { p with hdr := none }
    if !s.flag (F.glbPortCfg_EN n.val) then .next s
    else if 0 < SMap.get p.credits 0 l then .next (((s.modPort n.val free).useCredit n.val l).credited n.val x)
    else if s.mayReturn n.val l then
      .next ((s.modPort n.val fun p => { free p with spent := p.spent.erase ((p.returnable l).getD ⟨0, l, true⟩) }).credited n.val x)
    else .next s

/-- A request accepted at a port that is in no stream's queue and waits for no fetch: a fence keeps it back, or a miss slot. -/
def State.keptBack (s : State) (id : Nat) (r : Req) : Bool :=
  r.op != opFence && r.refused.isNone && r.started == 0 && !(s.cache.any fun e => e.2.queue.contains id) &&
    !(s.misses.any fun m => m.reqs.contains id)

/-- The requests of port `n` that no fence keeps back any more are dispatched, in arrival order (R71); one whose miss needs a slot waits for it
(R131), and so do those behind it from its master. -/
def State.dispatchKept (s : State) (n : Nat) : State :=
  let ready := fun (s : State) (e : Nat × Req) =>
    e.2.src == .port n && s.keptBack e.1 e.2 && !s.fenced e.1 e.2 && !s.missSlotShort n e.2.stream
  s.forEach (s.reqs.filter fun e => e.2.src == .port n && s.keptBack e.1 e.2) fun s e =>
    if ready s e && !(s.reqs.any fun o => o.1 < e.1 && o.2.src == e.2.src && o.2.mid == e.2.mid && s.keptBack o.1 o.2)
    then s.toStream e.1 e.2.stream else s

/-- MISS_HOLD_RELEASE (R131): a slot of the port is free. -/
def execMissHoldRelease (n : Fin 112) (s : State) : Host.Outcome State Fault Refusal :=
  let s := s.dispatchKept n.val
  match (s.port n.val).hdr with
  | none => .next s
  | some x =>
    .next (if x.why = .noMissSlot && !s.missSlotShort n.val (hdrStream x.header) then
      (s.modPort n.val fun p => { p with hdr := none }).serveReq n.val x else s)

/-- The flit that now heads a response channel is on it: it becomes pending (R50, R74). -/
def State.nextFlit (s : State) (n : Nat) : State :=
  match (s.port n).rsq with
  | [] => s
  | f :: _ => s.flitSent f

/-- RESPONSE_FLIT_ACK (R74, R76): the pending flit is delivered; after the last flit of a response its request is fully
answered and its credit may be returned. On an idle channel R50 forbids the acknowledgement. -/
def execResponseFlitAck (n : Fin 113) (s : State) : Host.Outcome State Fault Refusal :=
  match (s.port n.val).rsq with
  | [] => .fault .ackOnIdleChannel
  | f :: _ =>
    let s := (s.modPort n.val fun p =>
      { p with rsq := p.rsq.drop 1, since := s.cadence
               spent := if f.last then p.spent.map fun c => if c.req = f.req then { c with acked := true } else c else p.spent }).fset
      (F.glbPortStatus_STALLED n.val) 0
    .next ((if f.last then s.dropReq f.req else s).nextFlit n.val)

/-- CREDIT_RETURN (R76, R165): a held header of the label at the port would take the credit (R77). -/
def execCreditReturn (n : Fin 113) (l : Fin 64) (s : State) : Host.Outcome State Fault Refusal :=
  let p := s.port n.val
  match p.returnable l.val with
  | none => .next s
  | some c =>
    if s.mayReturn n.val l.val && !(p.waitsCredit.any fun h => hdrLabel h.header == l.val) then
      .next (s.modPort n.val fun p =>
        { p with spent := p.spent.erase c, credits := SMap.put p.credits 0 l.val (SMap.get p.credits 0 l.val + 1)
                 crs := [⟨false, 1, l.val⟩] })
    else .next s

/-- RESPONSE_STALL (R74): the channel has been pending longer than STALL_LIMIT × 64 ct. -/
def execResponseStall (n : Fin 113) (s : State) : Host.Outcome State Fault Refusal :=
  let p := s.port n.val
  if p.rsq = [] ∨ s.flag (F.glbPortStatus_STALLED n.val) then .next s
  else match s.atCadence (p.since + max 1 (s.fget (F.glbPortCfg_STALL_LIMIT n.val)) * 64 + 1) with
    | none => .next s
    | some s => .next ((s.raise (F.glbPortStatus_STALLED n.val)).post 0x0405 n.val n.val 0)

/-- Requests of port `n` accepted and not yet fully answered (Table 2.16). -/
def State.outstanding (s : State) (n : Nat) : Nat :=
  (s.reqs.filter fun e => e.2.src.port? == some n).length

/-- Requests of port `n` that have consumed a credit and are not yet fully answered: a header held for a miss slot is one (R164). -/
def State.consumed (s : State) (n : Nat) : Nat := s.outstanding n + bit ((s.port n).hdr.any fun x => x.why == .noMissSlot)

/-- The initial credits of the labels, clipped to what remains of the limit (R164). -/
def State.initialCredits (s : State) (n : Nat) : SMap Nat :=
  let give := fun l => if n < 96 then s.fget (F.trfLabelCfg_T_CREDITS l)
    else if n < 112 then s.fget (F.trfLabelCfg_L_CREDITS l) else 2 * s.fget (F.trfLabelCfg_L_CREDITS l)
  ((List.range 64).foldl (fun (a : Nat × SMap Nat) l =>
    let v := min (give l) a.1
    (a.1 - v, SMap.put a.2 0 l v)) (portLimit n - s.consumed n, [])).2

/-- The credit that a header held for a miss slot has consumed is never returned (R76, R78). -/
def Port.loseHeld (p : Port) : Port := { p with hdr := p.hdr.map fun x => if x.why = .noMissSlot then { x with lost := true } else x }

/-- EN of port `n` changes from 0 to 1 (R78, R164): one message with CLR_ALL, then the initial credit of each label. A port that is not built
sends nothing (R5). -/
def State.portOn (s : State) (n : Nat) : State :=
  let cr := s.initialCredits n
  let s := if s.portBuilt n then s.modPort n fun p =>
      { p.loseHeld with everEn := true, credited := true, credits := cr, spent := []
                        crs := ⟨true, 0, 0⟩ :: (List.range 64).map fun l => ⟨false, SMap.get cr 0 l, l⟩ }
    else s
  s.raise (F.glbPortCfg_EN n)

/-- EN of port `n` changes from 1 to 0 (R76, R78). -/
def State.portOff (s : State) (n : Nat) : State :=
  (s.modPort n fun p => { p.loseHeld with credited := false, spent := [] }).fset (F.glbPortCfg_EN n) 0

/-- The fields of PORT_CFG beside EN take `w`; locked fields only while ACC_LOCK is clear (R115). -/
def State.portFields (s : State) (n w : Nat) : State :=
  let s := s.fset (F.glbPortCfg_STALL_LIMIT n) (bitsOf w 31 16)
  if s.flag F.glbAccLock_LOCK then s
  else ((s.fset (F.glbPortCfg_MID n) (bitsOf w 63 52)).fset (F.glbPortCfg_MID_MASK n) (bitsOf w 51 40)).fset
    (F.glbPortCfg_MID_MODE n) (bitsOf w 39 38)

/-- EN of port `n` is set: in RESTORED and CHECKING the initial credits wait until the state becomes ACTIVE (R382). -/
def State.portEn (s : State) (n : Nat) : State :=
  if s.power = .restored ∨ s.power = .checking then s.raise (F.glbPortCfg_EN n) else s.portOn n

/-- A write of PORT_CFG (R78, R435): EN = 1 is ignored while READY is 0. -/
def State.portCfgWrite (s : State) (n w : Nat) : State :=
  let s := s.portFields n w
  if w.testBit 0 then
    if s.flag (F.glbPortCfg_EN n) || !s.flag F.glbResetStatus_READY then s else s.portEn n
  else if s.flag (F.glbPortCfg_EN n) then s.portOff n else s

/-- PORT_DISABLE (R78): a write of PORT_CFG; with EN = 1 in the value it disables nothing. -/
def execPortDisable (n : Fin 113) (w : Word) (s : State) : Host.Outcome State Fault Refusal :=
  s.cpDo (.portDisable n w) fun s => s.portCfgWrite n.val w.toNat

/-- The oldest fence of port `n` that has not completed. -/
def State.openFence (s : State) (n : Nat) : Option (Nat × Req) :=
  s.reqs.find? fun e => e.2.op == opFence && !e.2.fenceDone && e.2.refused.isNone && e.2.src == .port n

/-- Every earlier request of the fence's master on its port is visible or has its data (R71). -/
def State.fenceReady (s : State) (id : Nat) (r : Req) : Bool :=
  s.reqs.all fun e => !(e.1 < id && e.2.src == r.src && e.2.mid == r.mid) || e.2.settled

/-- The first fence of port `n` that can complete. -/
def State.readyFence (s : State) (n : Nat) : Option (Nat × Req) :=
  s.reqs.find? fun e => e.2.op == opFence && !e.2.fenceDone && e.2.refused.isNone && e.2.src == .port n &&
    s.fenceReady e.1 e.2

/-- FENCE_COMPLETE (R71). -/
def execFenceComplete (n : Fin 112) (s : State) : Host.Outcome State Fault Refusal :=
  match s.readyFence n.val with
  | none => .next s
  | some e => .next (((s.putReq e.1 { e.2 with fenceDone := true }).sendFlits e.1).dispatchKept n.val)

/-- The outcome a status stands for. -/
def statusSt (c : Nat) : AtomSt :=
  if c = stPoison then .poison else if c = stDenied then .denied else if c = stLost then .lost
  else if c = stTimeout then .timeout else .ok

/-- The status of flit `k` of a response from the sibling. -/
def flitStatus (l : List (BitVec 3)) (k : Nat) : Nat := (l.getD k 0).toNat

/-- The atoms of a forwarded request as the sibling answered them: in a data response those marked poisoned carry the status of their flit;
in a response of one flit without data all of them do. -/
def bridgeAtoms (r : Req) (l : List (BitVec 3)) (data : Payload) (poison : BitVec 64) : List AtomRes :=
  (List.range r.atoms).map fun i =>
    let c := if r.op = opRead then (if poison.getLsbD i then flitStatus l (i / flitAtoms 112) else stOk) else flitStatus l 0
    ⟨statusSt c, true, payloadAtom data i⟩

/-- The credit messages of the sibling's Bridge port reach the block (Table 2.14). -/
def State.bridgeCredits (s : State) (l : List CrMsg) : State :=
  let s := s.forEach l fun s m =>
    let cr := if m.clrAll then [] else s.bridgeCr
    { s with bridgeCr := SMap.put cr 0 m.label (SMap.get cr 0 m.label + m.count) }
  s.forEach (s.fwds.map (·.1)) State.bridgeSend

/-- A response from the sibling (R84): it goes to the origin port, re-cut to its flits, the status of each flit with it; one to a request that
timed out is discarded (R86). Code 7, which a responder never sends (Table 2.11), is answered DECODE_ERROR (DESIGN CHOICE, log entry 98). -/
def State.bridgeResponse (s : State) (id : Nat) (l : List (BitVec 3)) (data : Payload) (poison : BitVec 64) : State :=
  match SMap.get? s.fwds id, s.req? id with
  | some f, some r =>
    if !f.sent then s
    else
      let s := { s with fwds := SMap.erase s.fwds id }
      let c := flitStatus l 0
      if c = stDecode ∨ c = stSize then s.refuse id c
      else if l.any fun x => x.toNat == 7 then s.refuse id stDecode
      else (s.putReq id { r with res := bridgeAtoms r l data poison, probe := BitVec.ofNat 64 data.toNat }).sendFlits id
  | _, _ => s

def execBridgeResponse (id : Nat) (l : List (BitVec 3)) (data : Payload) (poison : BitVec 64) (cr : List CrMsg) (s : State) :
    Host.Outcome State Fault Refusal :=
  .next ((s.bridgeResponse id l data poison).bridgeCredits cr)

/-- BRIDGE_FORWARD_TIMEOUT (R86): within TIMEOUT µs no response came. -/
def execBridgeForwardTimeout (id : Nat) (s : State) : Host.Outcome State Fault Refusal :=
  match SMap.get? s.fwds id with
  | none => .next s
  | some f =>
    match s.atCadence (f.since + max 1 (s.fget F.glbBridgeCfg_TIMEOUT) * 1000) with
    | none => .next s
    | some s => .next (State.refuse
        { s.countSat F.glbBridgeStatus_TIMEOUTS 1 with fwds := SMap.erase s.fwds id } id stDecode)

/-- BRIDGE_DOWN (R85). -/
def execBridgeDown (s : State) : Host.Outcome State Fault Refusal :=
  .next (if s.build.bridge && s.flag F.glbBridgeStatus_UP then
    let s := { s with drone := { s.drone with sibReady := false } }
    (s.fset F.glbBridgeStatus_UP 0).post 0x0501 (1 - s.build.sibling) s.fwds.length 0 else s)

/-- BRIDGE_UP (R85, R97): with it come the credits that the sibling's port has sent. -/
def execBridgeUp (size : BitVec 42) (cr : List CrMsg) (s : State) : Host.Outcome State Fault Refusal :=
  .next (if s.build.bridge && !s.flag F.glbBridgeStatus_UP then
    ((s.raise F.glbBridgeStatus_UP).fset F.glbSiblingSize_SIZE size.toNat).post 0x0502 (1 - s.build.sibling) 0 0 |>.bridgeCredits cr else s)

end Sys2Proof.Machine
end

