-- ==== Sys2Proof/Machine/Capo.lean ====
section
/-! DEFINITION. The Capo (R193–R198): the programmer's and the hardware's holds, the states of an ingress output, and the
moment at which an output is drained. -/

namespace Sys2Proof.Machine

/-- Output `p` of stack `k` is under Capo, by the programmer or by hardware. -/
def State.underCapo (s : State) (k p : Nat) : Bool := s.maskBit (F.arbStkIngCapo_MASK k) p || (s.out k p).hwIng != []

/-- An output follows its two Capo sources (Table 6.6): RUN goes to SOFT when one is set; with both clear it returns to RUN,
and a stretch in HARD or DRAINED counts for HARD_MAX (R197). -/
def State.settleOutput (s : State) (k p : Nat) : State :=
  let o := s.out k p
  if s.underCapo k p then
    if o.st = .run then s.setOut k p { o with st := .soft, holdAt := s.cadence, warned := false } else s
  else
    match o.st with
    | .run => s
    | .soft => s.setOut k p { o with st := .run }
    | _ => (s.setOut k p { o with st := .run }).fset (F.arbStkHardMax_COUNT k)
        (max (s.fget (F.arbStkHardMax_COUNT k)) (s.cadence - o.hardAt))

/-- Every output of stack `k` follows its Capo sources. -/
def State.settleOutputs (s : State) (k : Nat) : State := s.forEach (List.range 64) fun s p => s.settleOutput k p

/-- Hardware sets hold `h` on ingress output `p`. -/
def State.holdIng (s : State) (k : Nat) (h : HwHold) (p : Nat) : State :=
  (s.modOut k p fun o => { o with hwIng := if o.hwIng.contains h then o.hwIng else o.hwIng ++ [h] }).settleOutput k p

/-- Hardware releases hold `h` on ingress output `p`. -/
def State.freeIng (s : State) (k : Nat) (h : HwHold) (p : Nat) : State :=
  (s.modOut k p fun o => { o with hwIng := o.hwIng.filter (· != h) }).settleOutput k p

/-- Hardware sets hold `h` on every ingress output and PCC of stack `k` (Table 6.7). -/
def State.holdStack (s : State) (k : Nat) (h : HwHold) : State :=
  s.forEach (List.range 64) fun s p =>
    (s.holdIng k h p).modOut k p fun o => { o with hwPcc := if o.hwPcc.contains h then o.hwPcc else o.hwPcc ++ [h] }

/-- Hardware releases hold `h` on every ingress output and PCC of stack `k`. -/
def State.freeStack (s : State) (k : Nat) (h : HwHold) : State :=
  s.forEach (List.range 64) fun s p =>
    (s.freeIng k h p).modOut k p fun o => { o with hwPcc := o.hwPcc.filter (· != h) }

/-- No piece of class below 7 is in PCC `p`'s buffers, and no such train is held or parked (Table 6.6). -/
def State.noResidue (s : State) (k p : Nat) : Bool :=
  ((s.pcc k p).buf.all fun q => q.cls == 7) && ((s.pcc k p).merges.all fun m => m.cls == 7) && (s.pcc k p).fretQ == []

/-- The buffers are empty and nothing is in flight: no Fret install or removal, no granted command, no command that the stack has not
confirmed, no fill of a line; a replay completes before a Capo reports drained (Table 6.6, Table 8.9, Table 9.5). -/
def State.emptied (s : State) (k p : Nat) : Bool :=
  let c := s.pcc k p
  c.buf == [] && c.merges == [] && c.fretQ == [] && c.rb == [] && c.rowCmd.isNone && c.replay == .run &&
    c.lines.all fun z => z.st != .filling

/-- Output `p` is DRAINED. -/
def State.drained (s : State) (k p : Nat) : Bool := (s.out k p).st == .drained

/-- ING_DRAINED of stack `k` reads all ones (R198). -/
def State.ingDrained (s : State) (k : Nat) : Bool := (List.range 64).all fun p => s.drained k p

/-- PCC `p` is under Capo and drained: no train is held, and no row command but a REFRESH at its limit has been granted (Table 6.5). -/
def State.pccDrained (s : State) (k p : Nat) : Bool :=
  s.pccCapo k p && (s.pcc k p).column.isNone && (match (s.pcc k p).rowCmd with | some r => r.key8 | none => true)

/-- The Capo mask of the ingress outputs takes a value. -/
def State.ingCapoWrite (s : State) (k w : Nat) : State := (s.fset (F.arbStkIngCapo_MASK k) w).settleOutputs k

/-- ING_CAPO_WRITE (R193, R194). -/
def execIngCapoWrite (k : Fin 8) (mask : Word) (s : State) : Host.Outcome State Fault Refusal :=
  s.cpStk k (.ingCapoWrite k mask) fun s => s.ingCapoWrite k.val mask.toNat

/-- PCC_CAPO_WRITE (R193). -/
def execPccCapoWrite (k : Fin 8) (mask : Word) (s : State) : Host.Outcome State Fault Refusal :=
  s.cpStk k (.pccCapoWrite k mask) fun s => s.fset (F.arbStkPccCapo_MASK k.val) mask.toNat

/-- PG_CAPO_WRITE (R193). -/
def execPgCapoWrite (mask : BitVec 16) (s : State) : Host.Outcome State Fault Refusal :=
  s.cpDo (.pgCapoWrite mask) fun s => s.fset F.arbPgCapo_CAPO mask.toNat

/-- CAPO_SOFT_TO_HARD (R194). -/
def execCapoSoftToHard (k : Fin 8) (p : Fin 64) (s : State) : Host.Outcome State Fault Refusal :=
  let o := s.out k.val p.val
  .next (if o.st = .soft && s.noResidue k.val p.val then
    s.setOut k.val p.val { o with st := .hard, hardAt := s.cadence } else s)

/-- The hold of output `p` becomes slow at this cadence value, if it can (R196). -/
def State.slowAt (s : State) (k p : Nat) : Option Nat :=
  let o := s.out k p
  let w := s.fget (F.arbStkCfg_DRAIN_WARN k)
  if (o.st = .soft || o.st = .hard) && !o.warned && w != 0 then some (o.holdAt + w * 64) else none

/-- CAPO_DRAIN_SLOW (R196): once for a hold. -/
def execCapoDrainSlow (k : Fin 8) (p : Fin 64) (s : State) : Host.Outcome State Fault Refusal :=
  match (s.slowAt k.val p.val).bind s.atCadence with
  | none => .next s
  | some s =>
    .next ((s.modOut k.val p.val fun o => { o with warned := true }).post 0x0302 (unitPc k.val p.val) (argPc k.val p.val)
      (s.out k.val p.val).holdAt)

end Sys2Proof.Machine
end

