-- ==== Sys2Proof/Machine/Train.lean ====
section
/-! DEFINITION. Loss of a logical PC (R47, R104, R254, R283), spare lanes and the lane chain (R229, R252, R253), timing sets and
their change (R232, R239–R241), training (R227, R248). -/

namespace Sys2Proof.Machine

/-- Write the RW bits of the register at `a`. -/
def State.putRw (s : State) (a : Nat) (w : Word) : State :=
  match RegFile.find a with
  | none => s
  | some r => s.setReg a ((s.reg a &&& ~~~(BitVec.ofNat 64 r.rw)) ||| (w &&& BitVec.ofNat 64 r.rw))

/-- The migration of stack `k` ends: no retirement is active, and its holds are released. -/
def State.endMig (s : State) (k : Nat) : State :=
  match s.mig k with
  | none => s
  | some m =>
    let s := (((s.setMig k none).fset (F.migStatus_ACTIVE k) 0).fset (F.bowStatus_COPY k) 0)
    let s := (s.ownDrop (.copyRead k)).ownDrop (.copyWrite k)
    (s.freeIng k .retire m.src).freeIng k .retire m.dst

/-- Logical PC `l` of stack `k` becomes lost (R47, R104, R254): STATE 3, PC_LOST with the cause, its pieces answered, its
retirement dropped and a migration of it ended. An entry already lost posts nothing. -/
def State.loseLpc (s : State) (k l cause : Nat) : State :=
  if s.fget (F.pcmapEntry_STATE k l) = 3 then s
  else
    let p := s.fget (F.pcmapEntry_PPC k l)
    let s := (s.fset (F.pcmapEntry_STATE k l) 3).post 0x0307 (unitPc k p) (argPc k p) cause
    let s := (s.setMaskBit (F.migPending_MASK k) l false).losePcc k p l
    match s.mig k with
    | some m => if m.lpc = l then (s.losePcc k m.dst l).endMig k else s
    | none => s

/-- A physical PC is lost with the cause of R254. The loss of the old PC of a migration does not stop it, at whatever step it stands
(R283, Table 9.14); a PC that serves no logical PC only discards what it holds. DEDUCED, log entry 32. -/
def State.losePhysical (s : State) (k p cause : Nat) : State :=
  match s.lpcOf k p with
  | none => s.losePcc k p 64
  | some l =>
    match s.mig k with
    | some m => if m.lpc = l ∧ m.src = p then (s.setMig k (some { m with oldLost := true })).losePcc k p l else s.loseLpc k l cause
    | none => s.loseLpc k l cause

/-- Physical PC `p` was named by an entry that is lost, and serves no other. -/
def State.pcLost (s : State) (k p : Nat) : Bool :=
  (s.lpcOf k p).isNone &&
    (List.range s.build.N).any fun l => s.fget (F.pcmapEntry_STATE k l) == 3 && s.fget (F.pcmapEntry_PPC k l) == p

/-- The physical PCs of a stack that are lost, as a mask. -/
def State.lostMask (s : State) (k : Nat) : Nat :=
  (List.range 64).foldl (fun m p => if s.pcLost k p then m + 2 ^ p else m) 0

/-- The lane fields of a PC's spare `i` (Table 8.17): whether it is used, the lane it replaces. -/
def spareFields (k p i : Nat) : Fld × Fld :=
  let c := p / 2
  if p % 2 = 0 then
    (if i = 0 then (F.phyLaneMap_P0_S0_USED k c, F.phyLaneMap_P0_S0_LANE k c)
      else (F.phyLaneMap_P0_S1_USED k c, F.phyLaneMap_P0_S1_LANE k c))
  else
    (if i = 0 then (F.phyLaneMap_P1_S0_USED k c, F.phyLaneMap_P1_S0_LANE k c)
      else (F.phyLaneMap_P1_S1_USED k c, F.phyLaneMap_P1_S1_LANE k c))

/-- The lane is already replaced. -/
def State.laneSpared (s : State) (f : LaneFail) : Bool :=
  let c := f.pc / 2
  if f.ca then s.flag (F.phyLaneMap_CA_USED f.stack c) && s.fget (F.phyLaneMap_CA_LANE f.stack c) == f.lane
  else [0, 1].any fun i => let q := spareFields f.stack f.pc i; s.flag q.1 && s.fget q.2 == f.lane

/-- LANE_SPARED (Table 15.4). -/
def State.laneEvent (s : State) (f : LaneFail) (spare : Nat) : State :=
  s.post 0x0306 (unitPc f.stack 0) (f.stack + f.pc / 2 * 2 ^ 8) (f.lane % 64 + spare * 2 ^ 8 + f.pc * 2 ^ 16)

/-- Replace a failing lane by a free redundant lane (Table 8.8, SPARE); none when no such lane is free. -/
def State.spareLane (s : State) (f : LaneFail) : Option State :=
  let c := f.pc / 2
  if f.ca then
    if s.flag (F.phyLaneMap_CA_USED f.stack c) then none
    else some (((s.raise (F.phyLaneMap_CA_USED f.stack c)).fset (F.phyLaneMap_CA_LANE f.stack c) f.lane).laneEvent f 2)
  else
    match [0, 1].find? fun i => !s.flag (spareFields f.stack f.pc i).1 with
    | none => none
    | some i =>
      let q := spareFields f.stack f.pc i
      some (((s.raise q.1).fset q.2 f.lane).laneEvent f i)

/-- The lanes of stack `k` that have no working setting at set `t`: lost PCs, and those `apart`, are not trained. -/
def State.failsAt (s : State) (k t : Nat) (env : TrainEnv) (apart : List Nat) : List LaneFail :=
  env.fails.filter fun f => f.stack == k && f.pc < 64 && f.sets.contains t && !s.laneSpared f && !s.pcLost k f.pc &&
    !(if f.ca then [f.pc / 2 * 2, f.pc / 2 * 2 + 1].all apart.contains else apart.contains f.pc)

/-- Spare the failing lanes in order; what is left has no spare. -/
def State.spareLanes (s : State) : List LaneFail → State × List LaneFail
  | [] => (s, [])
  | f :: l =>
    match s.spareLane f with
    | some s' => s'.spareLanes l
    | none => let r := s.spareLanes l; (r.1, f :: r.2)

/-- Training of stack `k` at set `t`: failing lanes are spared; the lanes left failing. -/
def State.trainAt (s : State) (k t : Nat) (env : TrainEnv) (apart : List Nat) : State × List LaneFail :=
  s.spareLanes (s.failsAt k t env apart)

/-- The bin of a set; codes 5 to 7 count as 0 (Table 8.10). -/
def State.setBin (s : State) (k t : Nat) : Nat := let b := s.fget (F.phyTsetCtl_BIN k t); if b ≤ 4 then b else 0

/-- The valid sets of stack `k` with bins not above `top`, highest bin first, one of each bin. -/
def State.setsDown (s : State) (k top : Nat) : List Nat :=
  ((List.range (top + 1)).reverse).filterMap fun b =>
    (List.range 4).find? fun t => s.flag (F.phyTsetCtl_VALID k t) && s.setBin k t == b

/-- Fallback through sets in order (Table 8.8): the first at which every lane trains, or the lanes that failed last. -/
def State.fallback (s : State) (k : Nat) (env : TrainEnv) (apart : List Nat) (left : List LaneFail) :
    List Nat → State × Option Nat × List LaneFail
  | [] => (s, none, left)
  | t :: ts =>
    let r := s.trainAt k t env apart
    if r.2 = [] then (r.1, some t, []) else r.1.fallback k env apart r.2 ts

/-- The physical PCs lost with failing lanes, and their causes (Table 8.8, LOSS). -/
def lossList (l : List LaneFail) : List (Nat × Nat) :=
  (l.flatMap fun f => if f.ca then [(f.pc / 2 * 2, 2), (f.pc / 2 * 2 + 1, 2)] else [(f.pc, 1)]).eraseDups

/-- What every bank of a stack is after self-refresh (R239): precharged, owing nothing, its due points to come; an owner keeps it (R180). -/
def Bank.restart (b : Bank) : Bank :=
  { b with st := if b.owner.isSome then .owned else .closed, row := none, expired := false, owed := 0, due := none, refHanded := false
           declined := false, ap := false, act := 0, pre := 0, ref := 0 }

/-- A piece whose row self-refresh has closed re-activates it (Table 7.1, Table 8.4 step 1). -/
def Piece.restart (q : Piece) : Piece := if q.st = .column ∨ q.st = .parked then { q with st := .opening } else q

/-- Refresh restarts at a PCC: a drained one holds no command; the pieces and commands of one that a lane chain keeps halted stay (R23,
R184, R253). -/
def Pcc.restart (c : Pcc) : Pcc :=
  { c with banks := (List.range 64).foldl (fun m b => SMap.put m Bank.init b (SMap.get m Bank.init b).restart) c.banks
           buf := c.buf.map Piece.restart, column := none, rowCmd := none, hints := [], slot := 0, acts := [], recent := [], lastCol := 0
           lastRd := 0, lastWr := 0, clock := 0 }

/-- Refresh restarts at every PCC of stack `k` (R234, R239), at the multiplier its level calls for (R236). -/
def State.restartRefresh (s : State) (k : Nat) : State :=
  let s := s.forEach (List.range 64) fun s p => s.modPcc k p Pcc.restart
  { s with mults := SMap.put s.mults 1 k (s.levelMult k) }

/-- Stack `k` goes to set `t`. -/
def State.toSet (s : State) (k t : Nat) : State := (s.fset (F.phyFreqStatus_ACTIVE k) t).restartRefresh k

/-- A lane chain whose failing lanes `left` found no spare (Table 8.8, FALLBACK, LOSS and DONE). The PCs lost, spares among them, are set
apart when the stack goes to the highest set at which every other trains. -/
def State.chainDown (s : State) (k : Nat) (env : TrainEnv) (left : List LaneFail) : State :=
  let old := s.fget (F.phyFreqStatus_ACTIVE k)
  let bin := s.setBin k old
  let r := s.fallback k env [] left (if bin = 0 then [] else s.setsDown k (bin - 1))
  match r.2.1 with
  | some t =>
    ((r.1.toSet k t).raise (F.phyFreqStatus_FALLEN k)).post 0x0305 (unitPc k 0) k (old + t * 2 ^ 8 + s.setBin k t * 2 ^ 16)
  | none =>
    let apart := lossList r.2.2
    let s := r.1.forEach apart fun s e => s.losePhysical k e.1 e.2
    let back := s.fallback k env (apart.map (·.1)) [] (old :: (s.setsDown k bin).filter (· != old))
    match back.2.1 with
    | some t =>
      let s := back.1.toSet k t
      if t = old then s else s.raise (F.phyFreqStatus_FALLEN k)
    | none => s.toSet k old

/-- A lane chain at training: nothing has to drain. -/
def State.chainAtTraining (s : State) (k : Nat) (env : TrainEnv) : State :=
  let r := s.trainAt k (s.fget (F.phyFreqStatus_ACTIVE k)) env []
  if r.2 = [] then r.1 else r.1.chainDown k env r.2

/-- The height stack `k` reports. -/
def State.reportedHeight (s : State) (k : Nat) (env : TrainEnv) : Nat :=
  ((env.heights.find? fun h => h.1 == k).map (·.2)).getD s.build.height

/-- Training of stack `k` by Table 8.7: its height is read (R227), its lanes are trained, its patterns are written to the last row (R251). -/
def State.trainStack (s : State) (k : Nat) (env : TrainEnv) : State :=
  let h := s.reportedHeight k env
  let s := s.fset (F.phyStackInfo_REPORTED k) h
  if h != s.build.height then
    (s.raise (F.phyStackInfo_MISMATCH k)).forEach (List.range s.build.N) fun s l => s.loseLpc k l 3
  else ((s.chainAtTraining k env).restartRefresh k).writePatterns k

/-- The change or chain in progress at stack `k`. -/
def State.job (s : State) (k : Nat) : Option PhyJob := SMap.get s.phyJobs none k

def State.setJob (s : State) (k : Nat) (j : Option PhyJob) : State := { s with phyJobs := SMap.put s.phyJobs none k j }

/-- The retirement holds, apart, every output of stack `k` whose PC is not halted by a chain is drained (R253, Table 8.5). -/
def State.jobDrained (s : State) (k : Nat) : Bool :=
  (List.range 64).all fun p => s.drained k p || (s.pcc k p).replay == .lostLanes

/-- LAST_TIME (Table 8.15). -/
def State.lastTime (s : State) (k began : Nat) : State := s.fset (F.phyFreqStatus_LAST_TIME k) (min (2 ^ 32 - 1) (s.cadence - began))

/-- The change ends: Capo is released, and a multiplier change that waited applies (Table 8.5, R236). -/
def State.jobEnds (s : State) (k : Nat) : State :=
  (((s.setJob k none).fset (F.phyFreqStatus_BUSY k) 0).freeStack k .freq).settleMult k

/-- The change is abandoned: the stack stays at its old set (R241). -/
def State.changeFails (s : State) (k old t : Nat) : State :=
  (s.raise (F.phyFreqStatus_FAILED k)).post 0x0304 (unitPc k 0) k (old + t * 2 ^ 8)

/-- The programmer's change of set once the stack is drained (Table 8.5, R241). The return to the old set trains there again, and its
failing lanes take spares. A set whose VALID has been cleared meanwhile is not made active (R232): the change is abandoned (DESIGN CHOICE,
log entry 86). -/
def State.changeSet (s : State) (k t : Nat) (env : TrainEnv) (began : Nat) : State :=
  let old := s.fget (F.phyFreqStatus_ACTIVE k)
  let s :=
    if !s.flag (F.phyTsetCtl_VALID k t) then s.changeFails k old t
    else
      let r := s.trainAt k t env []
      if r.2 = [] then ((r.1.toSet k t).fset (F.phyFreqStatus_FALLEN k) 0).post 0x0303 (unitPc k 0) k (old + t * 2 ^ 8)
      else ((r.1.trainAt k old env []).1.toSet k old).changeFails k old t
  (s.lastTime k began).jobEnds k

/-- The rows a replay has to close before it re-issues: those of the banks that its entries name (Table 8.6, REOPEN). -/
def Pcc.named (c : Pcc) : List (Nat × Nat) := (c.rb.map fun m => (m.bank, m.row)).foldl
  (fun l e => if l.any fun x => x.1 == e.1 then l else l ++ [e]) []

/-- The replay comes to REOPEN. -/
def Pcc.toReopen (c : Pcc) : Pcc := { c with replay := .reopen, ropen := c.named }

/-- The chain's end: the PCCs it halted go on with their replays at REOPEN (Table 8.6, Table 8.8, DONE). -/
def State.resumeReplays (s : State) (k : Nat) : State :=
  s.forEach (List.range 64) fun s p => s.modPcc k p fun c => if c.replay = .lostLanes then c.toReopen else c

/-- The lane chain once the stack is drained (Table 8.8). -/
def State.runChain (s : State) (k : Nat) (j : PhyJob) : State :=
  let left := s.failsAt k (s.fget (F.phyFreqStatus_ACTIVE k)) j.env []
  let s := (s.chainDown k j.env left).resumeReplays k
  let s := (s.lastTime k j.began).fset (F.phyFreqStatus_CHAIN k) 0
  match j.next with
  | some t => s.setJob k (some { j with chain := false, set := t, next := none })
  | none => s.jobEnds k

/-- A programmer's change that a chain put off proceeds (Table 8.9). -/
def State.changeGo (s : State) (k : Nat) : State :=
  match s.job k with
  | none => s
  | some j => if j.chain || !s.jobDrained k then s else s.changeSet k j.set j.env j.began

/-- The change or chain at stack `k` proceeds when the stack has drained (Table 8.5, step 1), after a trim commit that holds
the stack (Table 14.6). -/
def State.jobProceed (s : State) (k : Nat) : State :=
  match s.job k with
  | none => s
  | some j =>
    if !s.jobDrained k || (s.out k 0).hwPcc.contains .trim then s
    else if j.chain then (s.runChain k j).changeGo k
    else s.changeSet k j.set j.env j.began

/-- A programmer's change of set is refused (R240). -/
def State.changeRefused (s : State) (k t : Nat) : Bool :=
  !s.flag (F.phyTsetCtl_VALID k t) || s.fget (F.phyFreqStatus_ACTIVE k) == t || s.flag (F.phyFreqStatus_BUSY k) ||
    s.flag (F.phyFreqStatus_CHAIN k) || s.power == .entering || s.power == .restored || s.power == .checking ||
    (s.flag F.glbAccLock_LOCK && s.setBin k (s.fget (F.phyFreqStatus_ACTIVE k)) < s.setBin k t)

/-- FREQ_CMD with GO (R240). -/
def State.freqChange (s : State) (k t : Nat) (env : TrainEnv) : State :=
  if s.changeRefused k t then s.raise (F.phyFreqStatus_REFUSED k)
  else
    let s := (s.raise (F.phyFreqStatus_BUSY k)).setJob k (some ⟨false, t, env, s.cadence, none⟩)
    (s.holdStack k .freq).jobProceed k

/-- A write to register `reg` (CTL, ROW, LAT, REF) of timing set `t` (R232). -/
def State.tsetWrite (s : State) (k t reg : Nat) (w : Word) : State :=
  if s.fget (F.phyFreqStatus_ACTIVE k) = t then s.raise (F.phyFreqStatus_WRITE_REFUSED k)
  else s.putRw (A.phyTsetCtl k t + 8 * reg) w

/-- TSET_WRITE (R232). -/
def execTsetWrite (k : Fin 8) (t reg : Fin 4) (w : Word) (s : State) : Host.Outcome State Fault Refusal :=
  s.cpStk k (.tsetWrite k t reg w) fun s => s.tsetWrite k.val t.val reg.val w

/-- Failing lanes that touch PC `p` of stack `k` at the active set: its data lanes and its channel's (R250). -/
def State.failsOf (s : State) (k p : Nat) (env : TrainEnv) : List LaneFail :=
  (s.failsAt k (s.fget (F.phyFreqStatus_ACTIVE k)) env []).filter fun f => if f.ca then f.pc / 2 == p / 2 else f.pc == p

/-- A lane chain with failing lanes `left` that found no spare: it starts, or joins the one that runs (R252, R253). -/
def State.startChain (s : State) (k p : Nat) (left : List LaneFail) (env : TrainEnv) : State :=
  let s := s.modPcc k p fun c => { c with replay := .lostLanes }
  let more : TrainEnv := ⟨[], left ++ env.fails⟩
  let s := match s.job k with
    | some j =>
      if j.chain then s.setJob k (some { j with env := ⟨[], j.env.fails ++ more.fails⟩ })
      else s.setJob k (some { j with chain := true, env := ⟨[], j.env.fails ++ more.fails⟩, next := some j.set })
    | none => (s.setJob k (some ⟨true, 0, more, s.cadence, none⟩)).holdStack k .freq
  ((s.raise (F.phyFreqStatus_CHAIN k)).raise (F.phyFreqStatus_BUSY k)).jobProceed k

/-- A retrain of PC `p`'s lanes (R250): a lane without a working setting goes to the lane chain. -/
def State.retrain (s : State) (k p : Nat) (env : TrainEnv) : State :=
  let r := s.spareLanes (s.failsOf k p env)
  if r.2 = [] then r.1 else r.1.startChain k p r.2 env

end Sys2Proof.Machine
end

