-- ==== Sys2Proof/Machine/Integrity.lean ====
section
/-! DEFINITION. Replay and command errors (R242–R246, R282, R283), the Fret table (R270–R273), the error history (R275),
retirement and migration (R276–R281). -/

namespace Sys2Proof.Machine

/-- Replay attempts before full training (Table 8.16). -/
def State.replayLimit (s : State) (k : Nat) : Nat := max 1 (s.fget (F.phyCfg_REPLAY_LIMIT k))

/-- PC `p` is in salvage (R282). -/
def State.inSalvage (s : State) (k p : Nat) : Bool := s.flag (F.pccHistory_SALVAGE k p)

/-- The atoms a read piece still owes are answered POISON, and the piece leaves (R282). -/
def State.poisonPiece (s : State) (k p : Nat) (q : Piece) : State := (s.setOpenAtoms q (.of .poison)).retire k p q.id

/-- A write of atom `u` fails at a PC in salvage (R282): it enters the salvage list; with 64 listed the logical PC is lost and
its migration target returns to SPARE. -/
def State.salvageAtom (s : State) (k p u : Nat) : State :=
  let l := s.salvageOf k p
  if l.contains u then s
  else if l.length < 64 then s.setSalvage k p (l ++ [u])
  else
    match s.lpcOf k p with
    | none => s
    | some lpc =>
      let s := match s.mig k with
        | some m => if m.lpc = lpc then s.setMaskBit (F.pcmapSpare_MASK k) m.dst true else s
        | none => s
      s.loseLpc k lpc 5

/-- A read command fails for good (R282): its atom is POISON to its reader. -/
def State.failRead (s : State) (k p : Nat) (m : Cmd) : State :=
  match (s.pcc k p).piece? m.piece with
  | none => s
  | some q =>
    if !q.pend.contains m.atom then s
    else
      let s := s.modPiece k p q.id fun x => { x with pend := x.pend.filter (· != m.atom) }
      if q.kind = .fill then
        (s.modPcc k p fun c => { c with lines := c.lines.map fun z => if z.line = q.u then { z with bad := true } else z }).goOn k p q.id
      else (s.take k p q m.atom 0 true true).goOn k p q.id

/-- A command of a PC in salvage fails its last attempt (R282): a read is answered POISON, a write enters the salvage list. -/
def State.failCommand (s : State) (k p : Nat) (m : Cmd) : State :=
  match m.kind with
  | .rd => s.failRead k p m
  | .wr => if m.inMeta then s else s.salvageAtom k p m.u
  | _ => s

/-- An uncorrectable command error at PC `p` (R245, R275, R282, R283): reads not yet delivered are answered POISON, and the writes that
were unconfirmed are issued once more. -/
def State.commandError (s : State) (k p : Nat) : State :=
  let s := (s.countSat (F.pccHistory_CMD_ERRS k p) 1).post 0x0205 (unitPc k p) (argPc k p)
    (Config.replayCounts (s.fget (F.pccParityErrs_COUNT k p)) (s.fget (F.pccCrcErrs_COUNT k p)))
  let target := match s.mig k with | some m => m.dst == p | none => false
  if target then
    match s.mig k with
    | some m => ((s.setMaskBit (F.pcmapFailed_MASK k) m.src true).setMaskBit (F.pcmapFailed_MASK k) m.dst true).loseLpc k m.lpc 6
    | none => s
  else
    match s.lpcOf k p with
    | none =>
      let s := if s.flag (F.bowStatus_SANITISE k) then s.setMaskBit (F.bowSanFail_MASK k) p true else s
      { s.losePcc k p 64 with lanes := s.lanes.filter fun q => !(q.stack == k && q.dest == some p && q.kind == .sanWrite) }
    | some _ =>
      let s := (s.raise (F.pccHistory_SALVAGE k p)).errLog k 6 3 p 0 0 false 0
      let s := s.retireDue k p 3
      let s := s.forEach ((s.pcc k p).buf.filter fun q => q.kind == .read) fun s q => s.poisonPiece k p q
      let s := s.forEach ((s.pcc k p).rb.filter fun m => m.kind == .rd) fun s m => s.failRead k p m
      s.modPcc k p fun c => Pcc.toReopen { c with rb := c.rb.filter fun m => m.kind != .rd, attempts := 1, fullOnce := false }

/-- The oldest column command of a replay buffer. -/
def Pcc.oldestColumn (c : Pcc) : Option Cmd := c.rb.find? fun m => m.kind == .rd || m.kind == .wr

/-- The replay engine takes the column path (R183, R185, R244): its holder parks, if it has a burst left and fewer than PARK_MAX trains are
parked; a holder that cannot be preempted keeps its grant, and issues nothing until the replay ends (DEDUCED, log entry 88). -/
def State.replayTakes (s : State) (k p : Nat) : State :=
  let c := s.pcc k p
  match c.holder with
  | none => s
  | some h =>
    if h.todo != [] && c.parked < s.parkMax k then
      (s.setPcc k p ({ c with column := none }.modPiece h.id fun x => { x with st := .parked })).count (F.arbStkPreempts_COUNT k) 1
    else s

/-- The replay engine halts (Table 8.6): what the retrain will meet comes with the error. -/
def State.halt (s : State) (k p attempts : Nat) (env : TrainEnv) : State :=
  (s.modPcc k p fun c => { c with replay := .halt, attempts := attempts, env := env }).replayTakes k p

/-- One error at PCC `p` (Table 8.6). In salvage the oldest column command fails once its attempts are used up.
DEDUCED, log entry 31. -/
def State.replayStep (s : State) (k p : Nat) (env : TrainEnv) : State :=
  let c := s.pcc k p
  match c.replay with
  | .run => (s.setPcc k p { c with fullOnce := false }).halt k p 1 env
  | .reissue =>
    if c.attempts < s.replayLimit k then s.halt k p (c.attempts + 1) env
    else if s.inSalvage k p then
      match c.oldestColumn with
      | none => s.halt k p 1 env
      | some m => (State.failCommand (s.setPcc k p { c with rb := c.rb.erase m }) k p m).halt k p 1 env
    else if c.fullOnce then s.commandError k p
    else s.setPcc k p { c with replay := .fullTrain, env := env }
  | _ => s

/-- An error reported to PCC `p`, counted while the PC holds commands (R244, Table 8.19). -/
def State.replayError (s : State) (k p : Nat) (parity : Bool) (env : TrainEnv) : State :=
  let s' := if (s.pcc k p).rb = [] then s
    else s.count (if parity then F.pccParityErrs_COUNT k p else F.pccCrcErrs_COUNT k p) 1
  if (s.pcc k p).rb = [] ∧ !parity then s else s'.replayStep k p env

/-- REPLAY_ERROR (R244): a parity error halts both PCCs of the channel. -/
def execReplayError (k : Fin 8) (p : Fin 64) (parity : Bool) (env : TrainEnv) (s : State) : Host.Outcome State Fault Refusal :=
  if parity then
    .next ((s.replayError k.val (p.val / 2 * 2) true env).replayError k.val (p.val / 2 * 2 + 1) true env)
  else .next (s.replayError k.val p.val false env)

/-- The key of a replay buffer entry (R181, R244). -/
def State.cmdKey (s : State) (m : Cmd) : Nat :=
  if m.kind = .ref then (if m.piece = 1 then 8 else 0) else pccKey m.cls (if m.aged then s.urgencyOf m.arrival m.label else 0)

/-- The banks that still have entries to re-issue: in descending order of the highest key among their entries, in buffer order among
equals (R244). -/
def State.replayBanks (s : State) (k p : Nat) : List Nat :=
  let c := s.pcc k p
  let bs := ((c.rb.filter fun m => m.ord == 0).map (·.bank)).eraseDups
  let key := fun b => ((c.rb.filter fun m => m.bank == b).map s.cmdKey).foldl max 0
  (bs.map fun b => (b, key b)).mergeSort (fun x y => decide (y.2 ≤ x.2)) |>.map (·.1)

/-- A command the replay engine has ready: an entry, or a row command of its own (R244, R246). -/
structure Ready where
  kind : CmdKind
  bank : Nat
  row : Nat
  ap : Bool
  entry : Option Cmd

/-- What bank `b` has ready: its first entry, or the ACTIVATE that a column command needs. -/
def Pcc.replayReady (c : Pcc) (b : Nat) : Option Ready :=
  (c.rb.find? fun m => m.bank == b && m.ord == 0).map fun m =>
    if (m.kind == .rd || m.kind == .wr) && !c.ropen.contains (b, m.row) then ⟨.act, b, m.row, false, none⟩
    else ⟨m.kind, b, m.row, m.ap, some m⟩

/-- The banks' ACTIVATEs come in their fixed order: only the first is ready (R244). -/
def firstAct : List Ready → List Ready
  | [] => []
  | r :: l => if r.kind = .act then r :: l.filter fun x => x.kind != .act else r :: firstAct l

/-- The row of bank `b` as it stands on the pins during a replay: of a bank that an entry names it is what the replay has made it. -/
def Pcc.openNow (c : Pcc) (b : Nat) : Bool :=
  if c.rb.any fun m => m.bank == b then c.ropen.any fun e => e.1 == b else (c.bank b).row.isSome

/-- A bank at its postponement limit during a replay, which the engine refreshes before its next replayed command (R246). -/
def State.replayForced (s : State) (k p : Nat) : Option Ready :=
  let c := s.pcc k p
  ((List.range (16 * s.build.H)).find? fun b => s.ppl k ≤ (c.bank b).owed && !(c.bank b).refHanded).map fun b =>
    ⟨if c.openNow b then .pre else .ref, b, 0, false, none⟩

/-- What the replay engine may issue next (R244, R246). -/
def State.replayList (s : State) (k p : Nat) : List Ready :=
  let c := s.pcc k p
  match s.replayForced k p with
  | some r => [r]
  | none =>
    match c.replay with
    | .reopen => (c.ropen.head?.map fun e => ⟨.pre, e.1, e.2, false, none⟩).toList
    | .reissue => firstAct ((s.replayBanks k p).filterMap c.replayReady)
    | _ => []

/-- What an issue by the replay engine does to the rows as the replay has made them (R244), and to a bank engine whose row a refresh closes
with nothing left to re-open it (R246). -/
def Pcc.replayRows (c : Pcc) (r : Ready) : Pcc :=
  let others := c.ropen.filter fun e => e.1 != r.bank
  match r.kind with
  | .act => { c with ropen := others ++ [(r.bank, r.row)] }
  | .pre | .ref =>
    let c := { c with ropen := others }
    if r.entry.isNone && c.replay == .reissue && !(c.rb.any fun m => m.bank == r.bank && m.ord == 0) then c.rowClosed r.bank
    else if r.entry.isNone && !(c.rb.any fun m => m.bank == r.bank) then c.rowClosed r.bank
    else c
  | _ => if r.ap then { c with ropen := others } else c

/-- The replay engine's command goes out at `slot` (R244): one issued for the first time has the effects of its issue. -/
def State.replayGo (s : State) (k p slot : Nat) (r : Ready) : State :=
  let again := r.entry.any (·.seen)
  let s := s.modPcc k p fun c =>
    let c := match r.entry with | some m => c.markIssued m | none => c
    let x := c.bank r.bank
    let c := (c.replayRows r).recordIssue r.kind r.bank slot r.ap
    if again && r.kind == .ref then c.modBank r.bank fun y => { y with owed := x.owed, refHanded := x.refHanded } else c
  match r.entry with
  | some m => if again then s else s.afterIssue k p m
  | none => if r.kind = .ref then (s.count (F.pccRefIssued_COUNT k p) 1).count (F.pccRefForced_COUNT k p) 1 else s

/-- The replay engine issues, at `slot`, the command that can go first; equals in the engine's order (R244, R246, R237). -/
def State.replayIssue (s : State) (k p slot : Nat) : State :=
  let l := (s.replayList k p).map fun r => (r, s.issueSlot k p r.kind r.bank 0 r.ap)
  match l.find? fun e => l.all fun x => e.2 ≤ x.2 with
  | some e => if slot = e.2 then s.replayGo k p slot e.1 else s
  | none => s

/-- WARDEN_ISSUE (R22): in service the warden's oldest command; during a replay what the replay engine issues (R244). -/
def State.wardenIssue (s : State) (k p slot : Nat) : State :=
  if (s.pcc k p).replay = .run then s.runIssue k p slot else s.replayIssue k p slot

def execWardenIssue (k : Fin 8) (p : Fin 64) (slot : Nat) (s : State) : Host.Outcome State Fault Refusal :=
  .next (s.wardenIssue k.val p.val slot)

/-- Every entry is to be issued again (Table 8.6, REISSUE). -/
def Pcc.toReissue (c : Pcc) : Pcc :=
  { c with replay := .reissue, issued := 0, ropen := [], rb := c.rb.map fun m => { m with ord := 0, confirmed := false } }

/-- The present state of PCC `p`'s replay ends (Table 8.6): commands in flight have settled; the retrain has ended, with a lane chain where
a lane has no working setting; every row is closed; every entry has been re-issued and confirmed; the full training has ended.
DESIGN CHOICE, log entry 89. -/
def State.replayNext (s : State) (k p : Nat) : State :=
  let c := s.pcc k p
  match c.replay with
  | .halt => s.setPcc k p { c with replay := .retrain }
  | .retrain => (s.setPcc k p c.toReopen).retrain k p c.env
  | .reopen => if c.ropen = [] then s.setPcc k p c.toReissue else s
  | .reissue =>
    if c.rb = [] then (s.setPcc k p { c with replay := .run, fullOnce := false, ropen := [] }).count (F.pccReplays_COUNT k p) 1 else s
  | .fullTrain => (s.setPcc k p { c with replay := .halt, attempts := 1, fullOnce := true }).retrain k p c.env
  | _ => s

/-- REPLAY_DONE (Table 8.6). -/
def execReplayDone (k : Fin 8) (p : Fin 64) (s : State) : Host.Outcome State Fault Refusal := .next (s.replayNext k.val p.val)

/-- The Fret commands' common refusals (R272): an earlier command BUSY, a PC that serves no logical PC, no such atom. -/
def State.fretRefused (s : State) (k p u : Nat) : Bool :=
  ((s.pcc k p).fretQ.any (·.byCmd)) || (s.lpcOf k p).isNone || s.build.dataAtoms ≤ u

/-- FRET_CMD OP = 1 (R272). -/
def State.fretCmdInstall (s : State) (k p u : Nat) : State :=
  if s.fretRefused k p u || (s.fretOf k p u).isSome then s.raise (F.pccFretStatus_REFUSED k p) else s.fretDue k p u true

/-- FRET_CMD_INSTALL (R272). -/
def execFretCmdInstall (k : Fin 8) (p : Fin 64) (u : BitVec 25) (s : State) : Host.Outcome State Fault Refusal :=
  s.cpStk k (.fretCmdInstall k p u) fun s => s.fretCmdInstall k.val p.val u.toNat

/-- FRET_CMD OP = 2 (R272): the removal takes its place in buffer order; its write makes the entry invalid. DEDUCED, log entry 15. -/
def State.fretCmdRemove (s : State) (k p u : Nat) : State :=
  match s.fretOf k p u with
  | some i =>
    if s.fretRefused k p u then s.raise (F.pccFretStatus_REFUSED k p)
    else
      let id := s.nextPiece
      let s := s.fretPut k p u i true true
      match (s.pcc k p).piece? id with
      | some q => s.evaluate k p q
      | none => s
  | none => s.raise (F.pccFretStatus_REFUSED k p)

/-- FRET_CMD_REMOVE (R272). -/
def execFretCmdRemove (k : Fin 8) (p : Fin 64) (u : BitVec 25) (s : State) : Host.Outcome State Fault Refusal :=
  s.cpStk k (.fretCmdRemove k p u) fun s => s.fretCmdRemove k.val p.val u.toNat

/-- Step 3 of an install (R271): the entry becomes valid, marked POISONED when its read was uncorrectable. -/
def State.fretMake (s : State) (k p : Nat) (f : FretJob) : State :=
  let a := s.addrAt k p f.u
  let s := ((s.fset (F.pccFretEnt_ATOM k p f.entry) f.u).fset (F.pccFretEnt_POISONED k p f.entry) (bit f.lost)).raise
    (F.pccFretEnt_VALID k p f.entry)
  ((s.count (F.pccFretStatus_INSTALLS k p) 1).errLog k 4 3 p 0 0 false a).post 0x0202 (unitPc k p) (argPc k p) a

/-- FRET_INSTALL (R271): the first install whose write has been handed over is made. -/
def execFretInstall (k : Fin 8) (p : Fin 64) (s : State) : Host.Outcome State Fault Refusal :=
  .next (match (s.pcc k.val p.val).fretQ.find? fun f => f.st == .written && !f.remove with
    | none => s
    | some f =>
      let s := s.modPcc k.val p.val fun c => { c with fretQ := c.fretQ.erase f }
      if (s.fretOf k.val p.val f.u).isSome then s else s.fretMake k.val p.val f)

/-- HISTORY.CLEAR (R275). -/
def State.historyClear (s : State) (k p : Nat) : State :=
  ((((s.fset (F.pccHistory_UE_ATOMS k p) 0).fset (F.pccHistory_FRET_OVF k p) 0).fset (F.pccHistory_STRANDED k p) 0)).modPcc k p
    fun c => { c with ueList := [] }

/-- HISTORY_CLEAR (R275). -/
def execHistoryClear (k : Fin 8) (p : Fin 64) (s : State) : Host.Outcome State Fault Refusal :=
  s.cpStk k (.historyClear k p) fun s => s.historyClear k.val p.val

/-- Logical PC `l` of stack `k` is migrating. -/
def State.migrating (s : State) (k l : Nat) : Bool := s.flag (F.migStatus_ACTIVE k) && s.fget (F.migStatus_LPC k) == l

/-- A programmer's retirement is refused (R276). -/
def State.retireRefused (s : State) (k l : Nat) : Bool :=
  s.build.N ≤ l || s.fget (F.pcmapEntry_STATE k l) != 0 || s.maskBit (F.migPending_MASK k) l || s.migrating k l

/-- MIG_CTL with RETIRE (R276). -/
def State.migRetire (s : State) (k l : Nat) : State :=
  if s.retireRefused k l then s.raise (F.migStatus_REFUSED k)
  else s.retireDue k (s.fget (F.pcmapEntry_PPC k l)) 4

/-- Clear the Fret table of PCC `p` (R273). -/
def State.clearFret (s : State) (k p : Nat) : State := s.forEach (List.range 16) fun s i => s.setReg (A.pccFretEnt k p i) 0

/-- The lowest bit of a mask. -/
def lowestBit (m : Nat) : Option Nat := (List.range 64).find? fun i => m.testBit i

/-- Step 4 of Table 9.4. -/
def State.migStart (s : State) (k : Nat) (m : Mig) : State :=
  let s := (s.fset (F.pcmapEntry_STATE k m.lpc) 1).fset (F.pcmapEntry_TARGET k m.lpc) m.dst
  let s := (s.fset (F.migStatus_POINTER k) 0).raise (F.bowStatus_COPY k)
  let s := s.post 0x0308 (unitPc k m.src) (argPc k m.src) (m.lpc + m.dst * 2 ^ 8)
  let s := s.setMig k (some { m with st := .copying })
  let s := s.setBow k { s.bow k with copy := ⟨s.cadence, 0⟩ }
  s.freeIng k .retire m.src

/-- Step 7 of Table 9.4. -/
def State.migSwap (s : State) (k : Nat) (m : Mig) : State :=
  let s := (s.fset (F.pcmapEntry_PPC k m.lpc) m.dst).fset (F.pcmapEntry_STATE k m.lpc) 0
  let s := (s.setMaskBit (F.pcmapFailed_MASK k) m.src true).clearFret k m.src
  let s := (s.setZm k m.src zmOff).modPcc k m.src fun c => { c with lines := [], zflush := false, fretQ := [] }
  let s := (s.fset (F.pccHistory_SALVAGE k m.src) 0).setSalvage k m.src []
  let s := s.fset (F.migTime_CT k) (s.cadence - m.began)
  (s.post 0x0309 (unitPc k m.src) (argPc k m.src) (m.lpc + m.dst * 2 ^ 8)).endMig k

/-- A retirement proceeds when the outputs it holds are drained (Table 9.4, steps 3 and 6). -/
def State.migProceed (s : State) (k : Nat) : State :=
  match s.mig k with
  | none => s
  | some m =>
    if m.st = .startHold && s.drained k m.src then s.migStart k m
    else if m.st = .swapHold && s.drained k m.src && s.drained k m.dst then s.migSwap k m
    else s

/-- Step 3 of Table 9.4. -/
def State.migHold (s : State) (k : Nat) (m : Mig) : State :=
  ((s.setMig k (some { m with st := .startHold })).holdIng k .retire m.src).migProceed k

/-- Step 1 of Table 9.4 with spare `t`, and what step 2 does at once. -/
def State.migBegin (s : State) (k l t : Nat) : State :=
  let p := s.fget (F.pcmapEntry_PPC k l)
  let s := ((s.setMaskBit (F.pcmapSpare_MASK k) t false).clearFret k t).raise (F.migStatus_ACTIVE k)
  let s := ((s.fset (F.migStatus_LPC k) l).fset (F.migStatus_FROM k) p).fset (F.migStatus_TO k) t
  let m : Mig := ⟨.clearing, l, p, t, s.cadence, none, false⟩
  if s.zmState k p = zmOn then (s.setMig k (some m)).setZm k t zmClearing
  else ((s.setZm k t zmOff).modPcc k t fun c => { c with lines := [], zflush := false }).migHold k m

/-- A retirement finds no spare (R277). -/
def State.noSpare (s : State) (k l : Nat) : State :=
  let p := s.fget (F.pcmapEntry_PPC k l)
  if SMap.get s.migReasons 0 (k * 64 + l) = 3 then s.loseLpc k l 4
  else (s.raise (F.pccHistory_STRANDED k p)).post 0x030A (unitPc k p) (argPc k p) l

/-- The lowest pending retirement of stack `k` that may start: none while a migration, a PC map edit or a sanitisation runs
(R277, Table 12.4), nor outside ACTIVE (R376). -/
def State.retireNext (s : State) (k : Nat) : Option Nat :=
  if s.power != .active || s.flag (F.migStatus_ACTIVE k) || s.flag (F.pcmapEdit_EDIT k) || s.flag (F.bowStatus_SANITISE k) then none
  else lowestBit (s.fget (F.migPending_MASK k))

/-- RETIREMENT_START (R277, R278). -/
def execRetirementStart (k : Fin 8) (s : State) : Host.Outcome State Fault Refusal :=
  match s.retireNext k.val with
  | none => .next s
  | some l =>
    let s := s.setMaskBit (F.migPending_MASK k.val) l false
    if s.fget (F.pcmapEntry_STATE k.val l) = 3 then .next s
    else match lowestBit (s.fget (F.pcmapSpare_MASK k.val)) with
    | some t => .next (s.migBegin k.val l t)
    | none => .next (s.noSpare k.val l)

/-- The retirement that waits for the clear of PCC `p`'s zero map (Table 9.4, step 2). -/
def State.migClearing (s : State) (k p : Nat) : Option Mig := (s.mig k).filter fun m => m.st == .clearing && m.dst == p

/-- ZMAP_CLEAR_DONE (Table 7.4, Table 9.4): the map of a migration's target is coded for the logical PC it will serve. The
pass waits while the write window is closed (R218). -/
def execZmapClearDone (k : Fin 8) (p : Fin 64) (s : State) : Host.Outcome State Fault Refusal :=
  if s.zmState k.val p.val = zmClearing && s.passGoes k.val p.val then
    match s.migClearing k.val p.val with
    | some m => .next (((s.clearMap k.val p.val m.lpc).setZm k.val p.val zmOn).migHold k.val m)
    | none => .next ((s.clearMap k.val p.val (s.metaLpc k.val p.val)).setZm k.val p.val zmOn)
  else .next s

/-- The class of Bow pieces (Table 6.3). -/
def State.bowClass (s : State) : Nat := s.fget F.trfBowBind_CLASS

/-- A Bow access that goes to physical PC `p` whatever the map says (R279), and is not checked (R109). -/
def State.bowAccess (s : State) (dest : Option Nat) : Access := ⟨18, s.bowClass, .bow, 0, [], dest⟩

/-- The copy of chunk `c` starts: its read is one piece at the old PC (R279), unless that is lost (R283). -/
def State.chunkRead (s : State) (k : Nat) (m : Mig) (c : Nat) : State :=
  if m.oldLost then s
  else s.ownStart (.copyRead k) (s.bowAccess (some m.src)) .read (addrOfU s.build s.order k m.lpc c) 16 [] [] []

/-- What the copy read has brought: the 16 atoms with their poison, once all are there; poisoned atoms where the old PC is lost (R283). -/
def State.chunkData (s : State) (k : Nat) (m : Mig) : Option (List (Atom × Bool)) :=
  if m.oldLost then some (List.replicate 16 (0, true))
  else match s.ownFind (.copyRead k) with
    | none => none
    | some e =>
      if e.2.res.any fun a => a.st == .waiting then none
      else some (e.2.res.map fun a => if a.st = .ok then (a.data, false) else (0, true))

/-- The chunk's write: one piece at the spare, never elided (R214, R279); atoms copied poisoned are logged (Table 9.6). -/
def State.chunkWrite (s : State) (k : Nat) (m : Mig) (c : Nat) (d : List (Atom × Bool)) : State :=
  let s := s.ownDrop (.copyRead k)
  let s := s.forEach ((List.range 16).filter fun i => (d.getD i (0, false)).2) fun s i =>
    s.errLog k 7 2 m.src 0 0 false (addrOfU s.build s.order k m.lpc (c + i))
  s.ownStart (.copyWrite k) (s.bowAccess (some m.dst)) .write (addrOfU s.build s.order k m.lpc c) 16 (d.map (·.1)) (d.map (·.2)) []

/-- A chunk has been copied (R279): the pointer moves on; after the last chunk the swap's holds are set (Table 9.4, step 6). -/
def State.chunkDone (s : State) (k : Nat) (m : Mig) (c : Nat) : State :=
  let s := (s.count (F.bowCopyAtoms_COUNT k) 16).fset (F.migStatus_POINTER k) (c + 16)
  let s := s.setMig k (some { m with chunk := none })
  if c + 16 < s.build.dataAtoms then s
  else
    let s := s.setMig k (some { m with chunk := none, st := .swapHold })
    ((s.holdIng k .retire m.src).holdIng k .retire m.dst).migProceed k

/-- The copy of the chunk that BOW_CHUNK_START began goes on (R279): its data read, its write; and once the write is visible the pointer
moves. -/
def State.migChunkDone (s : State) (k : Nat) : State :=
  match s.mig k with
  | none => s
  | some m =>
    match m.chunk with
    | none => s
    | some c =>
      match s.ownFind (.copyWrite k) with
      | some e => match e.2.direct with
        | .done => (s.dropReq e.1).chunkDone k m c
        | _ => s
      | none => match s.chunkData k m with
        | some d => s.chunkWrite k m c d
        | none => s

end Sys2Proof.Machine
end

