-- ==== Sys2Proof/Machine/Maps.lean ====
section
/-! DEFINITION. The interleave order (R102), PC map edits (R106), access windows (R113) and the access lock (R115). -/

namespace Sys2Proof.Machine

/-- The programmer has locked the RWL fields (R115). -/
def State.locked (s : State) : Bool := s.flag F.glbAccLock_LOCK

/-- How many pieces of the Bow engine of stack `k` that `f` picks are not done (R363). -/
def State.bowOut (s : State) (k : Nat) (f : Piece → Bool) : Nat :=
  (s.lanes.filter fun q => q.org == .bow && q.stack == k && f q).length +
    ((List.range 64).map fun p => ((s.pcc k p).buf.filter fun q => q.org == .bow && f q).length).sum

/-- The first position at or after `pos`, below `total`, whose physical PC `f` picks: positions count the 64 PCs of a bank, then banks. -/
def nextPos (total pos : Nat) (f : Nat → Bool) : Option Nat :=
  let n := match (List.range 64).find? fun p => decide (pos % 64 ≤ p) && f p with
    | some p => some (pos / 64 * 64 + p)
    | none => ((List.range 64).find? f).map fun p => (pos / 64 + 1) * 64 + p
  n.filter fun n => decide (n < total)

/-- The bank that a canary write or check comes to next at position `pos` (R366, R367). -/
def State.canaryNext (s : State) (k pos : Nat) : Option Nat := nextPos (16 * s.build.H * 64) pos fun p => (s.bow k).covered.testBit p

/-- A canary operation runs at stack `k`: a write until its last piece is done, a check until CANARY_CHECK_DONE (R367, R369). -/
def State.canaryRuns (s : State) (k : Nat) : Bool :=
  match (s.bow k).canary with
  | .idle => false
  | .writing pos => (s.canaryNext k pos).isSome || s.bowOut k (·.kind == .canaryWrite) != 0
  | _ => true

/-- Some duty of the Bow engine of stack `k` runs (BOW.STATUS [4:0]). -/
def State.bowBusy (s : State) (k : Nat) : Bool :=
  s.flag (F.bowStatus_SCAN k) || s.flag (F.bowStatus_SANITISE k) || s.canaryRuns k ||
    s.flag (F.bowStatus_COPY k) || s.flag (F.bowStatus_SCRUB k)

/-- The conditions of R102 hold: no port enabled, every slot FREE, no Bow engine busy. -/
def State.orderFree (s : State) : Bool :=
  ((List.range 113).all fun n => !s.flag (F.glbPortCfg_EN n)) && (s.slots.all fun e => e.2.st == .free) &&
    s.stacks.all fun k => !s.bowBusy k

/-- A write of ADDR_CFG (R102): ORDER_REFUSED is W1C; while locked ORDER is read-only. -/
def State.addrOrderWrite (s : State) (w : Nat) : State :=
  let s := if w.testBit 8 then s.fset F.glbAddrCfg_ORDER_REFUSED 0 else s
  if s.locked then s
  else if s.orderFree then s.fset F.glbAddrCfg_ORDER w
  else s.raise F.glbAddrCfg_ORDER_REFUSED

/-- ADDR_ORDER_WRITE (R102). -/
def execAddrOrderWrite (w : Word) (s : State) : Host.Outcome State Fault Refusal :=
  s.cpDo (.addrOrderWrite w) fun s => s.addrOrderWrite w.toNat

/-- The PC map of stack `k` as it stands. -/
def State.mapNow (s : State) (k : Nat) : MapSave :=
  ⟨(List.range 64).map fun l => s.reg (A.pcmapEntry k l), s.reg (A.pcmapFailed k), s.reg (A.pcmapSpare k)⟩

/-- EDIT = 1 is written (R106). -/
def State.editOpen (s : State) (k : Nat) : State :=
  if s.flag (F.pcmapEdit_EDIT k) then s
  else if !s.ingDrained k || s.flag (F.migStatus_ACTIVE k) || s.locked then s.raise (F.pcmapEdit_EDIT_REFUSED k)
  else { (s.raise (F.pcmapEdit_EDIT k)) with mapSave := SMap.put s.mapSave none k (some (s.mapNow k)) }

/-- PCMAP_EDIT_OPEN (R106). -/
def execPcmapEditOpen (k : Fin 8) (s : State) : Host.Outcome State Fault Refusal :=
  s.cpStk k (.pcmapEditOpen k) fun s => s.editOpen k.val

/-- A write of ENTRY[l] (R106): entries with l ≥ N ignore writes. -/
def State.entryWrite (s : State) (k l w : Nat) : State :=
  if s.flag (F.pcmapEdit_EDIT k) && l < s.build.N then
    (s.fset (F.pcmapEntry_PPC k l) w).fset (F.pcmapEntry_STATE k l) (if w.testBit 61 then 3 else 0)
  else s

/-- PCMAP_ENTRY_WRITE (R106). -/
def execPcmapEntryWrite (k : Fin 8) (l : Fin 64) (w : Word) (s : State) : Host.Outcome State Fault Refusal :=
  s.cpStk k (.pcmapEntryWrite k l w) fun s => s.entryWrite k.val l.val w.toNat

/-- A write of FAILED (R106). -/
def State.failedWrite (s : State) (k w : Nat) : State :=
  if s.flag (F.pcmapEdit_EDIT k) then s.fset (F.pcmapFailed_MASK k) w else s

/-- PCMAP_FAILED_WRITE (R106). -/
def execPcmapFailedWrite (k : Fin 8) (w : Word) (s : State) : Host.Outcome State Fault Refusal :=
  s.cpStk k (.pcmapFailedWrite k w) fun s => s.failedWrite k.val w.toNat

/-- The physical PCs of the entries of stack `k` that are in service. -/
def State.inService (s : State) (k : Nat) : List Nat :=
  (List.range s.build.N).filterMap fun l =>
    if s.fget (F.pcmapEntry_STATE k l) = 0 then some (s.fget (F.pcmapEntry_PPC k l)) else none

/-- The edited map is valid (R106). -/
def State.mapValid (s : State) (k : Nat) : Bool :=
  decide (s.inService k).Nodup && (s.inService k).all fun p => !s.maskBit (F.pcmapFailed_MASK k) p

/-- SPARE as R105 defines it. -/
def State.spareNow (s : State) (k : Nat) : Nat :=
  (List.range 64).foldl (fun m p =>
    if s.maskBit (F.pcmapFailed_MASK k) p || (s.inService k).contains p then m else m + 2 ^ p) 0

/-- The map returns to what it was when the edit opened. -/
def State.mapRevert (s : State) (k : Nat) (m : MapSave) : State :=
  let s := s.forEach (List.range 64) fun s l => s.setReg (A.pcmapEntry k l) (m.entries.getD l 0)
  (s.setReg (A.pcmapFailed k) m.failed).setReg (A.pcmapSpare k) m.spare

/-- EDIT = 0 is written (R106). -/
def State.editClose (s : State) (k : Nat) : State :=
  if !s.flag (F.pcmapEdit_EDIT k) then s
  else
    let save := SMap.get s.mapSave none k
    let s := { (s.fset (F.pcmapEdit_EDIT k) 0) with mapSave := SMap.put s.mapSave none k none }
    if s.mapValid k then s.fset (F.pcmapSpare_MASK k) (s.spareNow k)
    else (match save with | some m => s.mapRevert k m | none => s).raise (F.pcmapEdit_EDIT_REFUSED k)

/-- PCMAP_EDIT_CLOSE (R106). -/
def execPcmapEditClose (k : Fin 8) (s : State) : Host.Outcome State Fault Refusal :=
  s.cpStk k (.pcmapEditClose k) fun s => s.editClose k.val

/-- A mask of 256 groups from its four staging registers. -/
def State.stageMask (s : State) (a : Nat → Nat → Nat) (k : Nat) : BitVec 256 :=
  s.reg (a k 3) ++ s.reg (a k 2) ++ s.reg (a k 1) ++ s.reg (a k 0)

/-- The window the staging registers hold (R113). -/
def State.staged (s : State) (k : Nat) : Window :=
  ⟨s.flag (F.accStageCtl_VALID k), s.fget (F.accStageBase_GRANULE k), s.fget (F.accStageLimit_GRANULE k),
    s.stageMask A.accStageRead k, s.stageMask A.accStageWrite k, s.stageMask A.accStageFetch k, s.stageMask A.accStageNmu k⟩

def State.setWindow (s : State) (k i : Nat) (w : Window) : State :=
  { s with windows := SMap.put s.windows Window.init (k * 128 + i) w }

/-- CMD OP = 1 (R113). -/
def State.accCommit (s : State) (k i : Nat) : State :=
  if s.locked then s.raise (F.accStatus_LOCKED_REFUSED k)
  else
    let w := s.staged k
    if w.valid && w.limit < w.base then s.raise (F.accStatus_BAD_RANGE k) else s.setWindow k i w

/-- ACC_COMMIT (R113). -/
def execAccCommit (k : Fin 8) (i : Fin 128) (s : State) : Host.Outcome State Fault Refusal :=
  s.cpStk k (.accCommit k i) fun s => s.accCommit k.val i.val

/-- Put a mask of 256 groups into its four staging registers. -/
def State.putMask (s : State) (a : Nat → Nat → Nat) (k : Nat) (m : BitVec 256) : State :=
  s.forEach (List.range 4) fun s i => s.setReg (a k i) (m.extractLsb' (64 * i) 64)

/-- CMD OP = 2 (R113). -/
def State.accLoad (s : State) (k i : Nat) : State :=
  let w := s.window k i
  let s := ((s.fset (F.accStageCtl_VALID k) (bit w.valid)).fset (F.accStageBase_GRANULE k) w.base).fset (F.accStageLimit_GRANULE k) w.limit
  (((s.putMask A.accStageRead k w.read).putMask A.accStageWrite k w.write).putMask A.accStageFetch k w.fetch).putMask
    A.accStageNmu k w.nmu

/-- ACC_LOAD (R113). -/
def execAccLoad (k : Fin 8) (i : Fin 128) (s : State) : Host.Outcome State Fault Refusal :=
  s.cpStk k (.accLoad k i) fun s => s.accLoad k.val i.val

/-- CMD OP = 3 (R113). -/
def State.accClear (s : State) (k i : Nat) : State :=
  if s.locked then s.raise (F.accStatus_LOCKED_REFUSED k) else s.setWindow k i Window.init

/-- ACC_CLEAR (R113). -/
def execAccClear (k : Fin 8) (i : Fin 128) (s : State) : Host.Outcome State Fault Refusal :=
  s.cpStk k (.accClear k i) fun s => s.accClear k.val i.val

/-- ACC_LOCK.LOCK is written 1 (R115, R106): every open edit ends. -/
def State.accLock (s : State) : State := (s.raise F.glbAccLock_LOCK).forEach s.stacks fun s k => s.editClose k

/-- ACC_LOCK_SET (R115). -/
def execAccLockSet (s : State) : Host.Outcome State Fault Refusal :=
  s.cpDo .accLockSet fun s => s.accLock

end Sys2Proof.Machine
end

