-- ==== Sys2Proof/Machine/Crc.lean ====
section
/-! DEFINITION. The check units (R355–R362): the CRC, the states of a unit, feeds from the control port, scans. -/

namespace Sys2Proof.Machine

/-- The low `w` bits of `v` in reverse order. -/
def reflect (w v : Nat) : Nat := (List.range w).foldl (fun r i => 2 * r + bit (v.testBit i)) 0

/-- One bit of crc_byte() (R356). -/
def crcBit (w poly r : Nat) : Nat :=
  let r' := 2 * r % 2 ^ w
  if r.testBit (w - 1) then r' ^^^ poly % 2 ^ w else r'

/-- crc_byte() of R356 on the register. -/
def crcByte (c : Chk) (b : Nat) : Chk :=
  let b := if c.refin then reflect 8 b else b % 256
  let r := c.crc ^^^ b * 2 ^ (c.width - 8)
  { c with crc := (List.range 8).foldl (fun r _ => crcBit c.width c.poly r) r }

/-- Bytes from the least significant. -/
def crcBytes (c : Chk) (n v : Nat) : Chk := (List.range n).foldl (fun c i => crcByte c (v / 2 ^ (8 * i) % 256)) c

/-- crc_result() of R356. -/
def Chk.result (c : Chk) : Nat :=
  ((if c.refout then reflect c.width c.crc else c.crc) ^^^ c.xorout) % 2 ^ c.width

/-- A word is fed under fold mode `c.fold` (R357); mode 1 folds with `addr`. -/
def feedWord (c : Chk) (addr v : Nat) : Chk :=
  if c.fold = 1 then { crcBytes c 8 (v ^^^ addr % 2 ^ 64) with i := c.i + 1 }
  else if c.fold = 2 then { crcBytes c 8 (v ^^^ (c.foldBase + c.i) % 2 ^ 64) with i := c.i + 1 }
  else crcBytes c 8 v

def State.chk (s : State) (u : Nat) : Chk := SMap.get s.chks Chk.init u
def State.setChk (s : State) (u : Nat) (c : Chk) : State := { s with chks := SMap.put s.chks Chk.init u c }

/-- STATUS.LAST takes a code (Table 12.9). DEDUCED, log entry 36. -/
def State.chkLast (s : State) (u c : Nat) : State := s.fset (F.chkStatus_LAST u) c

/-- STATUS.OWNER and OWNER_ID. -/
def State.chkOwner (s : State) (u owner id : Nat) : State := (s.fset (F.chkStatus_OWNER u) owner).fset (F.chkStatus_OWNER_ID u) id

/-- The width in use (R355). -/
def State.chkWidth (s : State) (u : Nat) : Nat := min 64 (max 8 (s.fget (F.chkCfg_WIDTH u)))

/-- The unit leaves IDLE: its configuration is latched and its register set to INIT (R355, R356). -/
def State.chkLatch (s : State) (u : Nat) (st : ChkSt) (fold : Nat) : State :=
  let w := s.chkWidth u
  (s.setChk u
    { st := st, width := w, poly := s.fget (F.chkPoly_VALUE u) % 2 ^ w, xorout := s.fget (F.chkXorout_VALUE u) % 2 ^ w
      refin := s.flag (F.chkCfg_REFIN u), refout := s.flag (F.chkCfg_REFOUT u), fold := if fold = 3 then 0 else fold
      foldBase := s.fget (F.chkFoldBase_VALUE u), crc := s.fget (F.chkInit_VALUE u) % 2 ^ w, i := 0
      pos := s.fget (F.chkScanStart_ADDR u), started := s.fget (F.chkScanStart_ADDR u) }).fset
    (F.chkStatus_FED u) 0

/-- A read of unit `u`'s scan (R361, R362). -/
def Req.scans (r : Req) (u : Nat) : Bool :=
  match r.src with
  | .own (.scan v _) | .own (.stored v) => v == u
  | _ => false

/-- The unit returns to IDLE with a LAST code; scan reads under way complete and are discarded (R358). -/
def State.chkIdle (s : State) (u last : Nat) : State :=
  ((({ s with reqs := s.reqs.filter fun e => !e.2.scans u } : State).setChk u Chk.init).chkOwner u 0 0).chkLast u last

/-- A scan uses the engine of stack `k`. -/
def State.scanned (s : State) (k : Nat) : Bool := (List.range 4).any fun u => (s.chk u).st == .scanning k

/-- BOW.STATUS.SCAN of stack `k` says whether a scan uses the engine. -/
def State.noteScan (s : State) (k : Nat) : State := s.fset (F.bowStatus_SCAN k) (bit (s.scanned k))

/-- START (Table 12.1). -/
def State.chkStart (s : State) (u : Nat) : State :=
  if (s.chk u).st = .idle then ((s.chkLatch u .heldCp (s.fget (F.chkCfg_FOLD u))).chkOwner u 1 0).chkLast u 0 else s.chkLast u 1

/-- FINISH (Table 12.1). -/
def State.chkFinish (s : State) (u : Nat) : State :=
  match (s.chk u).st with
  | .idle => s.chkLast u 2
  | .heldCp => (s.fset (F.chkResult_VALUE u) (s.chk u).result).chkIdle u 0
  | _ => s.chkLast u 1

/-- CHK_FINISH (R358). -/
def execChkFinish (u : Fin 4) (s : State) : Host.Outcome State Fault Refusal :=
  s.cpDo (.chkFinish u) fun s => s.chkFinish u.val

/-- ABORT (Table 12.1). -/
def State.chkAbort (s : State) (u : Nat) : State :=
  match (s.chk u).st with
  | .idle => s.chkLast u 0
  | .heldCp => s.chkIdle u 6
  | .heldSeq _ => s.chkLast u 1
  | .scanning k => (s.chkIdle u 6).noteScan k

/-- CHK_ABORT (R358). -/
def execChkAbort (u : Fin 4) (s : State) : Host.Outcome State Fault Refusal :=
  s.cpDo (.chkAbort u) fun s => s.chkAbort u.val

/-- A scan descriptor is valid (R360). -/
def State.scanValid (s : State) (u k : Nat) : Bool :=
  let a := s.fget (F.chkScanStart_ADDR u)
  let n := s.fget (F.chkScanLen_LEN u)
  a % 64 == 0 && n % 64 == 0 && n != 0 && s.build.inRange a n && k < s.build.nStacks &&
    (!s.flag (F.chkScanCmp_VALID u) || s.build.inRange (8 * s.fget (F.chkScanCmp_ADDR u)) 8)

/-- SCAN by the engine of stack `k` (Table 12.1); the pacing restarts when the duty starts (R364). -/
def State.chkScan (s : State) (u k : Nat) : State :=
  if (s.chk u).st ≠ .idle then s.chkLast u 1
  else if !s.scanValid u k then s.chkLast u 7
  else
    let s := if s.scanned k then s else s.setBow k { s.bow k with scan := ⟨s.cadence, 0⟩ }
    (((s.chkLatch u (.scanning k) (s.fget (F.chkCfg_FOLD u))).chkOwner u 3 k).chkLast u 0).noteScan k

/-- OP 5 to 7 (Table 12.1). -/
def execChkOpReserved (u : Fin 4) (op : Fin 3) (s : State) : Host.Outcome State Fault Refusal :=
  s.cpDo (.chkOpReserved u op) fun s => s.chkLast u.val 3

/-- A feed of `n` bytes from the control port (R359). -/
def State.feed (s : State) (u n : Nat) (f : Chk → Chk) : State :=
  match (s.chk u).st with
  | .idle => s.chkLast u 2
  | .heldCp => ((s.setChk u (f (s.chk u))).fset (F.chkStatus_FED u) (s.fget (F.chkStatus_FED u) + n)).chkLast u 0
  | _ => s.chkLast u 1

def State.feedB (s : State) (u v : Nat) : State := s.feed u 1 fun c => crcBytes c 1 v
def State.feedH (s : State) (u v : Nat) : State := s.feed u 4 fun c => crcBytes c 4 v
def State.feedW (s : State) (u v : Nat) : State := s.feed u 8 fun c => feedWord c (c.foldBase + 8 * c.i) v

/-- FEED_B (R359). -/
def execFeedB (u : Fin 4) (b : BitVec 8) (s : State) : Host.Outcome State Fault Refusal :=
  s.cpDo (.feedB u b) fun s => s.feedB u.val b.toNat
/-- FEED_H (R359). -/
def execFeedH (u : Fin 4) (h : BitVec 32) (s : State) : Host.Outcome State Fault Refusal :=
  s.cpDo (.feedH u h) fun s => s.feedH u.val h.toNat
/-- FEED_W (R359). -/
def execFeedW (u : Fin 4) (w : Word) (s : State) : Host.Outcome State Fault Refusal :=
  s.cpDo (.feedW u w) fun s => s.feedW u.val w.toNat

/-- The address of a unit's configuration register (R358): CFG, POLY, INIT, XOROUT, FOLD_BASE, then the scan descriptor. -/
def chkCfgAddr (u reg : Nat) : Nat :=
  [A.chkCfg u, A.chkPoly u, A.chkInit u, A.chkXorout u, A.chkFoldBase u, A.chkScanStart u, A.chkScanLen u, A.chkScanCmp u].getD reg 0

/-- A write of a configuration register (R358). -/
def State.chkConfig (s : State) (u reg : Nat) (w : Word) : State :=
  if (s.chk u).st = .idle then (s.putRw (chkCfgAddr u reg) w).chkLast u 0 else s.chkLast u 1

/-- CHK_CONFIG_WRITE (R358). -/
def execChkConfigWrite (u : Fin 4) (reg : Fin 8) (w : Word) (s : State) : Host.Outcome State Fault Refusal :=
  s.cpDo (.chkConfigWrite u reg w) fun s => s.chkConfig u.val reg.val w

/-- The words of an atom at device address `a` are fed in order (R361). -/
def feedAtom (c : Chk) (a : Nat) (d : Atom) : Chk :=
  (List.range 8).foldl (fun c i => feedWord c (a + 8 * i) (d.toNat / 2 ^ (64 * i) % 2 ^ 64)) c

/-- A scan halts (Table 12.1): the atom and the status of its read. -/
def State.scanHalt (s : State) (u k a st : Nat) : State :=
  ((((s.fset (F.chkHaltAddr_ADDR u) a).post 0x0413 u a st)).chkIdle u 4).noteScan k

/-- A scan ends: the result, and the compare where one is made (R362). -/
def State.scanEnd (s : State) (u k : Nat) (stored : Option Nat) : State :=
  let c := s.chk u
  let r := c.result
  let s := s.fset (F.chkResult_VALUE u) r
  let done := fun (s : State) => s.post 0x0411 u r (s.fget (F.chkScanLen_LEN u))
  let s := match stored with
    | none => done s
    | some v =>
      let s := s.fset (F.chkStored_VALUE u) v
      if v % 2 ^ c.width = r then done s else s.post 0x0412 u r v
  (s.chkIdle u 0).noteScan k

/-- The last data word has been fed: the scan ends, or reads the stored word, which is one access more (R362). -/
def State.scanFinish (s : State) (u k : Nat) : State :=
  if s.flag (F.chkScanCmp_VALID u) then
    let a := 8 * s.fget (F.chkScanCmp_ADDR u)
    match s.ownRead (.stored u) (s.bowAccess none) a with
    | (s, .data d false) => s.scanEnd u k (some (d.toNat / 2 ^ (a % 64 * 8) % 2 ^ 64))
    | (s, .data _ true) => s.scanHalt u k (a / 64 * 64) stPoison
    | (s, .lost) => s.scanHalt u k (a / 64 * 64) stLost
    | (s, _) => s
  else s.scanEnd u k none

/-- The chunk read that holds the atom at address `a` of unit `u`'s scan. -/
def State.scanRead (s : State) (u a : Nat) : Option (Nat × Req) :=
  s.reqs.find? fun e => match e.2.src with
    | .own (.scan v _) => v == u && e.2.addr ≤ a && a < e.2.addr + 64 * e.2.atoms
    | _ => false

/-- The next atom of a scan has been read: its words are fed (R361); with the chunk's last atom its record goes. -/
def State.scanFeed (s : State) (u a : Nat) (e : Nat × Req) (d : Atom) : State :=
  let c := s.chk u
  let s := (s.setChk u { feedAtom c a d with pos := a + 64 }).fset (F.chkStatus_FED u) (s.fget (F.chkStatus_FED u) + 64)
  if e.2.addr + 64 * e.2.atoms ≤ a + 64 then s.dropReq e.1 else s

/-- SCAN_READ_RETURN (R361, R362): the next atom of unit `u`'s scan, once its read has been answered; or the stored word. -/
def State.scanReturn (s : State) (u : Nat) : State :=
  let c := s.chk u
  match c.st with
  | .scanning k =>
    let fin := s.fget (F.chkScanStart_ADDR u) + s.fget (F.chkScanLen_LEN u)
    if fin ≤ c.pos then s.scanFinish u k
    else match s.scanRead u c.pos with
      | none => s
      | some e =>
        let r := e.2.res.getD ((c.pos - e.2.addr) / 64) ⟨.waiting, false, 0⟩
        match r.st with
        | .ok =>
          let s := s.scanFeed u c.pos e r.data
          if fin ≤ c.pos + 64 then s.scanFinish u k else s
        | .poison => s.scanHalt u k c.pos stPoison
        | .lost => s.scanHalt u k c.pos stLost
        | _ => s
  | _ => s

def execScanReadReturn (u : Fin 4) (s : State) : Host.Outcome State Fault Refusal := .next (s.scanReturn u.val)

end Sys2Proof.Machine
end

