-- ==== Sys2Proof/Machine/BowEngine.lean ====
section
/-! DEFINITION. The Bow engine (R363–R369): its duties by priority, their chunks and pacing, canaries and retention scans, sanitisation, the
chunks of a migration and of a scan, the patrol scrub. Its reads and writes are pieces of lane 18, like any other. -/

namespace Sys2Proof.Machine

/-- may_start() of R364: the pacing after the decision where the duty may start a chunk. -/
def Pace.mayStart (d : Pace) (rate now : Nat) : Option Pace :=
  if rate = 0 then some d
  else
    let due := d.t0 + (d.bytes * 1000 + rate - 1) / rate
    if now < due then none
    else if 1024 * 1000 / rate < now - due then some ⟨now, 0⟩ else some d

/-- Rows the scrub, retention scans and sanitisation cover: all but the last (R365, R367, R368). -/
def scrubRows : Nat := 24575

/-- A Bow piece for physical PC `p`, before its place in its lane is given; it is for the logical PC that `p` serves, if any. -/
def State.bowPiece (s : State) (k p n : Nat) (kind : PKind) : Piece :=
  { Piece.own k p kind with
    n := n, lane := 18, org := .bow, cls := s.bowClass, arrival := s.cadence, since := s.cadence, st := .lane, slotless := false, slot := 0
    todo := [], lpc := (s.lpcOf k p).getD 64, dest := some p }

/-- The piece at the 16 atoms of row `row` of bank `b` of physical PC `p`: data atoms, or metadata atoms (R363). -/
def State.rowPiece (s : State) (k p row b : Nat) (kind : PKind) : Piece :=
  let q := s.bowPiece k p 16 kind
  if row < dataRows then
    let u := Loc.u s.build ⟨0, 0, 0, 0, b / 4 % 4, b % 4, b / 16, row⟩
    q.atData s.build u (s.addrAt k p u)
  else q.atMeta s.build (((row - dataRows) * (16 * s.build.H) + b) * 16)

/-- The piece at the canary atoms of bank `b` of physical PC `p` (R366). -/
def State.canaryPiece (s : State) (k p b : Nat) (kind : PKind) : Piece := (s.bowPiece k p 8 kind).atMeta s.build (lastAtom b 8)

/-- The pieces of canary operations (R366, R367). -/
def Piece.ofCanary (q : Piece) : Bool := q.kind == .canaryWrite || q.kind == .canaryRead || q.kind == .retain

/-- The physical PCs of a stack that are not lost, as a mask. -/
def State.liveMask (s : State) (k : Nat) : Nat := (List.range 64).foldl (fun m p => if s.pcLost k p then m else m + 2 ^ p) 0

/-- The bank that a retention scan comes to next: its canaries differed, and its PC serves a logical PC in service or migrating (R367). -/
def State.retainNext (s : State) (k i : Nat) : Option Nat :=
  (List.range (16 * s.build.H * 64)).find? fun n =>
    i ≤ n && s.maskBit (F.bowCanaryMask_BANKS k (n % 64)) (n / 64) && (s.lpcOf k (n % 64)).isSome

def State.setCanary (s : State) (k : Nat) (c : CanarySt) : State := s.setBow k { s.bow k with canary := c }

/-- The next chunk of the retention scans (R367). -/
def State.retainChunk (s : State) (k i row : Nat) : Option State :=
  (s.retainNext k i).map fun n =>
    let r := if n = i then row else 0
    (s.toLane (s.rowPiece k (n % 64) r (n / 64) .retain)).setCanary k (if r + 1 < scrubRows then .scanning n (r + 1) else .scanning (n + 1) 0)

/-- The next chunk of a canary operation: the retention scans come when every canary has been compared (R366, R367). -/
def State.canaryChunk (s : State) (k : Nat) : Option State :=
  if 4 ≤ s.bowOut k Piece.ofCanary then none
  else match (s.bow k).canary with
  | .idle => none
  | .writing pos => (s.canaryNext k pos).map fun n =>
      (s.toLane (s.canaryPiece k (n % 64) (n / 64) .canaryWrite)).setCanary k (.writing (n + 1))
  | .checking pos =>
    match s.canaryNext k pos with
    | some n => some ((s.toLane (s.canaryPiece k (n % 64) (n / 64) .canaryRead)).setCanary k (.checking (n + 1)))
    | none => if s.bowOut k (·.kind == .canaryRead) = 0 then s.retainChunk k 0 0 else none
  | .scanning i row => s.retainChunk k i row

/-- Sanitisation still writes physical PC `p`: it is not lost, and has not ended with an error (R368).
DEDUCED, log entry 37. -/
def State.sanitises (s : State) (k p : Nat) : Bool := !s.pcLost k p && !s.maskBit (F.bowSanFail_MASK k) p

/-- Where sanitisation comes to next: by row, then bank, then PC (R368; DESIGN CHOICE, log entry 35). -/
def State.sanNext (s : State) (k : Nat) : Option Nat := nextPos (scrubRows * (16 * s.build.H) * 64) (s.bow k).san (s.sanitises k)

/-- The next chunk of a sanitisation (R368). -/
def State.sanChunk (s : State) (k : Nat) : Option State :=
  if !s.flag (F.bowStatus_SANITISE k) || 4 ≤ s.bowOut k (·.kind == .sanWrite) then none
  else (s.sanNext k).map fun n =>
    let b := n / 64 % (16 * s.build.H)
    let row := n / 64 / (16 * s.build.H)
    (s.toLane (s.rowPiece k (n % 64) row b .sanWrite)).setBow k { s.bow k with san := n + 1 }

/-- A migration's next chunk starts (R278, R279, R364): other pieces of the chunk wait at the ingress from now on. It pauses during a change
of the stack's set (R281). -/
def State.copyStart (s : State) (k : Nat) : Option State :=
  match s.mig k with
  | none => none
  | some m =>
    let c := s.fget (F.migStatus_POINTER k)
    if m.st = .copying && m.chunk.isNone && (s.job k).isNone then
      ((s.bow k).copy.mayStart (s.fget (F.bowCfg_COPY_RATE k)) s.cadence).map fun d =>
        let m := { m with chunk := some c }
        ((s.setMig k (some m)).setBow k { s.bow k with copy := { d with bytes := d.bytes + 1024 } }).chunkRead k m c
    else none

/-- The end of the chunk that begins at `a`: atoms that lie in one row of one bank (R363). -/
def State.chunkEnd (s : State) (a : Nat) : Nat := let n := 64 * pieceAtoms s.order; (a / n + 1) * n

/-- The scan reads of the engine of stack `k` that have not been answered (R363). -/
def State.scanOut (s : State) (k : Nat) : Nat :=
  (s.reqs.filter fun e => ((List.range 4).any fun u => (s.chk u).st == .scanning k && e.2.scans u) && !allDecided e.2.res).length

/-- The next chunk of check unit `u`'s scan at the engine of stack `k` (R361, R364): one piece, at the stack that holds it. Its reads run
ahead of the feed as far as the limit of R363 lets them (DEDUCED, log entry 34). -/
def State.scanStart (s : State) (k u : Nat) : Option State :=
  let c := s.chk u
  let fin := s.fget (F.chkScanStart_ADDR u) + s.fget (F.chkScanLen_LEN u)
  if c.st = .scanning k && c.started < fin && s.scanOut k < 4 then
    ((s.bow k).scan.mayStart (s.fget (F.bowCfg_SCAN_RATE k)) s.cadence).map fun d =>
      let e := min fin (s.chunkEnd c.started)
      let s := (s.setChk u { c with started := e }).setBow k { s.bow k with scan := { d with bytes := d.bytes + (e - c.started) } }
      s.ownStart (.scan u (c.started / 64)) (s.bowAccess none) .read c.started ((e - c.started) / 64) [] [] []
  else none

/-- The scrub reads physical PC `p` in (row, bank) (R365): it serves a logical PC in service, or is the old PC of a migration, for chunks at
or above the pointer. -/
def State.scrubs (s : State) (k p row b : Nat) : Bool :=
  match s.lpcOf k p with
  | none => false
  | some l =>
    if s.fget (F.pcmapEntry_STATE k l) = 0 then true
    else s.fget (F.pcmapEntry_PPC k l) == p &&
      s.fget (F.migStatus_POINTER k) ≤ (Loc.u s.build ⟨0, 0, k, l, b / 4 % 4, b % 4, b / 16, row⟩)

/-- The first physical PC at or after `p` that the scrub reads in its (row, bank). -/
def State.scrubFrom (s : State) (k p : Nat) : Option Nat :=
  (List.range 64).find? fun i => p ≤ i && s.scrubs k i (s.fget (F.bowScrubPos_ROW k)) (s.fget (F.bowScrubPos_BANK k))

/-- The scrub's position after the last PC of (row, bank): at the end of row 24,574 the walk returns to row 0 (R365). -/
def State.scrubNextBank (s : State) (k : Nat) : State :=
  let s := s.fset (F.bowScrubPos_PPC k) 0
  let b := s.fget (F.bowScrubPos_BANK k) + 1
  if b < 16 * s.build.H then s.fset (F.bowScrubPos_BANK k) b
  else
    let s := s.fset (F.bowScrubPos_BANK k) 0
    let r := s.fget (F.bowScrubPos_ROW k) + 1
    if r < scrubRows then s.fset (F.bowScrubPos_ROW k) r
    else (s.fset (F.bowScrubPos_ROW k) 0).count (F.bowScrubPos_PASSES k) 1

/-- The scrub's position after physical PC `p`: PCs that are not read are passed over (R365). -/
def State.scrubPast (s : State) (k p : Nat) : State :=
  match s.scrubFrom k (p + 1) with
  | some i => s.fset (F.bowScrubPos_PPC k) i
  | none =>
    let s := s.scrubNextBank k
    s.fset (F.bowScrubPos_PPC k) ((s.scrubFrom k 0).getD 0)

/-- The bytes that a scrub piece counts for R364: atoms whose zero-map bit is 1 are skipped (R274, R365). -/
def State.scrubBytes (s : State) (k p : Nat) (q : Piece) : Nat :=
  64 * ((List.range 16).filter fun i => q.inMeta || !s.zBit k p (q.u + i)).length

/-- The chunk that a migration is copying: the scrub waits for it (R280). -/
def State.copying (s : State) (k p : Nat) (q : Piece) : Bool :=
  !q.inMeta && (s.mig k).any fun m => m.src == p && m.chunk == some (q.u / 16 * 16)

/-- The scrub's chunk (R274, R365): the next included PC of the walk. -/
def State.scrubStart (s : State) (k : Nat) : Option State :=
  if !s.flag (F.bowStatus_SCRUB k) || 4 ≤ s.bowOut k Piece.scrubs then none
  else match s.scrubFrom k (s.fget (F.bowScrubPos_PPC k)) with
    | none => some (s.scrubPast k 63)
    | some p =>
      let q := s.rowPiece k p (s.fget (F.bowScrubPos_ROW k)) (s.fget (F.bowScrubPos_BANK k)) .read
      if s.copying k p q then none
      else ((s.bow k).scrub.mayStart (max 1 (s.fget (F.bowCfg_SCRUB_RATE k))) s.cadence).map fun d =>
        ((s.toLane q).setBow k { s.bow k with scrub := { d with bytes := d.bytes + s.scrubBytes k p q } }).scrubPast k p

/-- The first of two that is there. -/
def orElse2 (a b : Option State) : Option State := match a with | some s => some s | none => b

/-- BOW_CHUNK_START (R363, R364): the duty with the smallest priority number that is ready (Table 12.2). Outside ACTIVE only canary work is
done. -/
def State.bowChunk (s : State) (k : Nat) : State :=
  let canary := if s.coreOn then s.canaryChunk k else none
  if s.power != .active then canary.getD s
  else
    let scans := (List.range 4).foldl (fun o u => orElse2 o (s.scanStart k u)) none
    (orElse2 canary (orElse2 (s.sanChunk k) (orElse2 (s.copyStart k) (orElse2 scans (s.scrubStart k))))).getD s

/-- A write of BOW.CFG (R365): clearing SCRUB_EN stops the walk, setting it resumes it; the pacing restarts when the duty
starts (R364). -/
def State.bowCfgWrite (s : State) (k : Nat) (w : Word) : State :=
  let was := s.flag (F.bowStatus_SCRUB k)
  let s := s.putRw (A.bowCfg k) w
  let on := s.flag (F.bowCfg_SCRUB_EN k) && s.flag F.glbResetStatus_READY && s.power == .active
  let s := s.fset (F.bowStatus_SCRUB k) (bit on)
  if on && !was then s.setBow k { s.bow k with scrub := ⟨s.cadence, 0⟩ } else s

/-- SCRUB_EN_WRITE (R365). -/
def execScrubEnWrite (k : Fin 8) (w : Word) (s : State) : Host.Outcome State Fault Refusal :=
  s.cpStk k (.scrubEnWrite k w) fun s => s.bowCfgWrite k.val w

/-- A BOW.CMD is refused (R369). -/
def State.bowRefuse (s : State) (k : Nat) : State := s.raise (F.bowStatus_REFUSED k)

/-- Sanitisation begins (R368, steps 1 and 2). -/
def State.sanBegin (s : State) (k : Nat) : State :=
  let s := ((s.raise (F.bowStatus_SANITISE k)).fset (F.bowSanFail_MASK k) 0).setBow k { s.bow k with san := 0 }
  s.forEach (List.range 64) fun s p => (s.clearFret k p).modPcc k p fun c => { c with lines := [], zflush := false }

/-- BOW.CMD OP = 1 (R369). -/
def State.bowSanitise (s : State) (k : Nat) : State :=
  if s.flag (F.bowStatus_SANITISE k) || !s.ingDrained k || s.flag (F.migStatus_ACTIVE k) || s.flag (F.pcmapEdit_EDIT k) then
    s.bowRefuse k
  else s.sanBegin k

/-- Sanitisation of stack `k` ends when its last piece is done (R368). -/
def State.sanDone (s : State) (k : Nat) : Option State :=
  if s.flag (F.bowStatus_SANITISE k) && (s.sanNext k).isNone && s.bowOut k (·.kind == .sanWrite) == 0 then
    some ((s.fset (F.bowStatus_SANITISE k) 0).post 0x030C (unitPc k 0) k (s.fget (F.bowSanFail_MASK k) ||| s.lostMask k))
  else none

/-- A canary write (R366): every bank of every physical PC that is not lost is to be written. -/
def State.canaryWrite (s : State) (k : Nat) : State :=
  let s := s.fset (F.bowCanaryGen_GEN k) (s.fget (F.bowCanaryGen_GEN k) + 1)
  s.setBow k { s.bow k with covered := s.liveMask k, canary := .writing 0 }

/-- BOW.CMD OP = 2 (R369). -/
def State.bowCanaryWrite (s : State) (k : Nat) : State := if s.canaryRuns k then s.bowRefuse k else s.canaryWrite k

/-- A canary check starts (R367): the masks are cleared. -/
def State.canaryCheck (s : State) (k : Nat) : State :=
  let s := s.forEach (List.range 64) fun s p => s.setReg (A.bowCanaryMask k p) 0
  s.setBow k { s.bow k with canary := .checking 0 }

/-- BOW.CMD OP = 3 (R369). -/
def State.bowCanaryCheck (s : State) (k : Nat) : State := if s.canaryRuns k then s.bowRefuse k else s.canaryCheck k

/-- The canary check of stack `k` ends once every canary has been compared and every retention scan has ended (R367). -/
def State.canaryDone (s : State) (k : Nat) : Option State :=
  let left := match (s.bow k).canary with
    | .checking pos => (s.canaryNext k pos).isSome || (s.retainNext k 0).isSome
    | .scanning i _ => (s.retainNext k i).isSome
    | _ => true
  if left || s.bowOut k Piece.ofCanary != 0 then none else some (s.setCanary k .idle)

end Sys2Proof.Machine
end

