-- ==== Sys2Proof/Machine/Observe.lean ====
section
/-! DEFINITION. What the programmer observes (R418–R432): the event ring and its interrupt pin, the Tally sweep. -/

namespace Sys2Proof.Machine

/-- Byte enables of `n` bytes from byte `o`. -/
def byteEnables (o n : Nat) : BitVec 64 := BitVec.ofNat 64 ((2 ^ n - 1) * 2 ^ o)

/-- Log of the ring's size in records; below 6 is treated as 6, above 20 as 20 (Table 15.12). -/
def State.ringLog (s : State) : Nat := min 20 (max 6 (s.fget F.glbEvCfg_LOG2_SIZE))

/-- Where record `n` lies (R427). -/
def State.ringAddr (s : State) (n : Nat) : Nat := s.fget F.glbEvBase_BASE + 32 * (n % 2 ^ s.ringLog)

/-- Record `n` for event `e` (Table 15.3). -/
def ringRecord (k n : Nat) (e : Event) : Nat :=
  (e.code * 2 ^ 48 + e.unit % 2 ^ 16 * 2 ^ 32 + n / 2 ^ k % 2 * 2 ^ 31 + n % 2 ^ 16) + e.stamp % 2 ^ 64 * 2 ^ 64 +
    e.arg0.toNat * 2 ^ 128 + e.arg1.toNat * 2 ^ 192

/-- Records written and not consumed (R428). -/
def State.ringUsed (s : State) : Nat := (s.fget F.glbEvHead_HEAD + 2 ^ 32 - s.fget F.glbEvTail_TAIL) % 2 ^ 32

/-- The ring takes a record now (R428). -/
def State.ringOpen (s : State) : Bool := s.flag F.glbEvCfg_EN && s.ringUsed != 2 ^ s.ringLog

/-- EVENTS_DROPPED is posted once the queue has room after a drop (R428). -/
def State.noteDropped (s : State) : State :=
  if s.dropCount = 0 || 64 ≤ s.events.length then s
  else { (s.post 0x041B 0 s.dropCount s.dropStamp) with dropCount := 0, dropStamp := 0 }

/-- The record at the head of the event queue has been dealt with (R427, R429). -/
def State.popEvent (s : State) : State :=
  { (s.fset F.glbEvHead_HEAD (s.fget F.glbEvHead_HEAD + 1)) with events := s.events.drop 1 }.noteDropped

/-- The oldest queued record is written to the ring (R427–R429), one at a time; one held until HOLD_TIMEOUT stays at the head and is written
again, one whose PC is lost is given up. DEDUCED, log entry 46. DEDUCED, log entry 72. -/
def State.recordWrite (s : State) : State :=
  match s.events with
  | [] => s
  | e :: _ =>
    if (s.ownFind .event).isNone && (!s.ringOpen || !s.coreOn) then s
    else
      let n := s.fget F.glbEvHead_HEAD
      let a := s.ringAddr n
      let o := a % 64
      match s.serviceWrite .event a (BitVec.ofNat 512 (ringRecord s.ringLog n e * 2 ^ (8 * o))) (some (byteEnables o 32)) with
      | (s, .done) => s.popEvent
      | (s, .lost) => (s.countSat F.glbEvStatus_WRITE_LOST 1).popEvent
      | (s, _) => s

/-- EVENT_RECORD_WRITE (R427). -/
def execEventRecordWrite (s : State) : Host.Outcome State Fault Refusal := .next s.recordWrite

/-- The stamp of the record at EV_TAIL, as memory holds it. -/
def State.tailStamp (s : State) : Nat :=
  let a := s.ringAddr (s.fget F.glbEvTail_TAIL)
  let l := s.locOf a
  match s.route l.stack l.lpc (l.u s.build) with
  | .goes p => bitsOf (s.valueAt l.stack p (l.u s.build) (a / 64 * 64)).1.toNat (8 * (a % 64) + 127) (8 * (a % 64) + 64)
  | _ => 0

/-- The cadence value at which the oldest unconsumed record reaches IRQ_AGE (R431). -/
def State.irqAgeAt (s : State) : Option Nat :=
  let a := s.fget F.glbEvCfg_IRQ_AGE
  if a = 0 || s.ringUsed = 0 then none else some (s.tailStamp + a * 1024)

/-- The EVENT_N pin is low (R431): never while the core has no power. DESIGN CHOICE, log entry 75. -/
def State.eventLow (s : State) : Bool :=
  s.cpUp && (max 1 (s.fget F.glbEvCfg_IRQ_LEVEL) ≤ s.ringUsed ||
    (match s.irqAgeAt with | some v => decide (v ≤ s.cadence) | none => false))

/-- EVENT_IRQ_AGE (R431): the record at EV_TAIL has reached the age that drives EVENT_N low. -/
def execEventIrqAge (s : State) : Host.Outcome State Fault Refusal :=
  .next ((s.irqAgeAt.bind s.atCadence).getD s)

/-- The ring lies wholly within the instance range, from a multiple of 64 (R430). -/
def State.ringFits (s : State) : Bool :=
  s.fget F.glbEvBase_BASE % 64 == 0 && s.build.inRange (s.fget F.glbEvBase_BASE) (32 * 2 ^ s.ringLog)

/-- A write of EV_CFG (R430): setting EN empties the ring, or is refused; while EN is 1 LOG2_SIZE keeps its value. -/
def State.evCfgWrite (s : State) (w : Nat) : State :=
  let was := s.flag F.glbEvCfg_EN
  let s := (s.fset F.glbEvCfg_IRQ_AGE (bitsOf w 47 32)).fset F.glbEvCfg_IRQ_LEVEL (bitsOf w 19 0)
  if was then s.fset F.glbEvCfg_EN (bitsOf w 63 63)
  else
    let s := s.fset F.glbEvCfg_LOG2_SIZE (bitsOf w 52 48)
    if !w.testBit 63 then s
    else if s.ringFits then (((s.ownDrop .event).fset F.glbEvHead_HEAD 0).fset F.glbEvTail_TAIL 0).raise F.glbEvCfg_EN
    else s.raise F.glbEvStatus_CFG_REFUSED

/-- EV_RING_ENABLE (R430): a write of EV_CFG with EN = 1. -/
def execEvRingEnable (value : Word) (s : State) : Host.Outcome State Fault Refusal :=
  s.cpDo (.evRingEnable value) fun s => s.evCfgWrite (value.toNat ||| 2 ^ 63)

/-- A write of EV_TAIL (R430). -/
def State.evTailWrite (s : State) (w : Nat) : State :=
  let tail := s.fget F.glbEvTail_TAIL
  if (w % 2 ^ 32 + 2 ^ 32 - tail) % 2 ^ 32 ≤ s.ringUsed then s.fset F.glbEvTail_TAIL w
  else s.raise F.glbEvStatus_TAIL_REFUSED

/-- EV_TAIL_WRITE (R430). -/
def execEvTailWrite (value : Word) (s : State) : Host.Outcome State Fault Refusal :=
  s.cpDo (.evTailWrite value) fun s => s.evTailWrite value.toNat

/-- GLB.OPTIONS (Table 0.6). -/
def Build.options (b : Build) : Nat :=
  b.height * 2 ^ 32 + 3 * 2 ^ 24 + b.spares * 2 ^ 17 + bit b.bridge * 2 ^ 16 + (if b.nmus then 4 * b.nStacks else 0) * 2 ^ 8 +
    b.nStacks

/-- The swept counters of PCC `p` of stack `k` (Table 15.1). -/
def pccSwept (k p : Nat) : List Nat :=
  [0x040, 0x048, 0x050, 0x058, 0x060, 0x068, 0x070, 0x078, 0x088, 0x090, 0x0A8, 0x0B0, 0x0B8, 0x0C0, 0x0E0, 0x0F0, 0x0F8,
    0x100, 0x1C0, 0x1C8].map fun o => A.pccRqCfg k p + o

/-- The swept set in sweep order, as control-port addresses (Table 15.1). -/
def Build.swept (b : Build) : List Nat :=
  (List.range 4).map A.pwrRes ++ (List.range 4).map A.pwrEnt ++
  [A.seqLaunches, A.seqDone, A.seqTraps, A.seqSwaps, A.seqNmuDiverged] ++
  [A.trfCacheMisses, A.trfCacheEvictions, A.trfMissHolds] ++
  (List.range 16).flatMap (fun g => [A.trfGateSwaps g, A.trfGateDeferrals g]) ++
  (List.range b.nStacks).flatMap (fun k => [A.arbStkPreempts k, A.arbStkQuotaMasks k]) ++
  (List.range (if b.nmus then 4 * b.nStacks else 0)).flatMap (fun n => (List.range 8).map fun i => A.nmuElements n + 8 * i) ++
  (List.range b.nStacks).flatMap (fun k =>
    [A.bowScrubAtoms k, A.bowCopyAtoms k, A.bowSanAtoms k, A.bowRetainPoisoned k] ++ (List.range 64).flatMap (pccSwept k))

/-- TAL.COUNT: the length of the swept set. -/
def Build.sweptCount (b : Build) : Nat :=
  48 + 2 * b.nStacks + (if b.nmus then 32 * b.nStacks else 0) + 1284 * b.nStacks

/-- The snapshot buffer lies within the instance range (R422). -/
def State.bufferFits (s : State) : Bool :=
  s.build.inRange (64 * s.fget F.talBufBase_BASE) (64 + 8 * s.build.sweptCount)

/-- A sweep starts, or is skipped or refused (R422). -/
def State.sweepStart (s : State) : State :=
  if s.sweep.isSome then s.raise F.talStatus_OVERRUN
  else if !s.bufferFits then s.raise F.talStatus_REFUSED
  else { (s.raise F.talStatus_BUSY) with sweep := some ⟨64 * s.fget F.talBufBase_BASE, 0, 0, 0, false, true⟩ }

/-- TALLY_GO (R422). -/
def execTallyGo (s : State) : Host.Outcome State Fault Refusal := s.cpDo .tallyGo fun s => s.sweepStart

/-- Ct between periodic sweeps (Table 15.15). -/
def State.tallyPeriod (s : State) : Nat := 2 ^ min 40 (max 20 (s.fget F.talCfg_PERIOD_SHIFT))

/-- The cadence value of the next periodic start. DEDUCED, log entry 47. -/
def State.tallyDue (s : State) : Nat := (s.tallyAt / s.tallyPeriod + 1) * s.tallyPeriod

/-- A periodic start falls due now: it is skipped in every state but ACTIVE (R422). -/
def State.tallyPass (s : State) : State :=
  let s := { s with tallyAt := s.cadence }
  if s.power = .active then s.sweepStart else s

/-- TALLY_PERIODIC (R422). -/
def execTallyPeriodic (s : State) : Host.Outcome State Fault Refusal :=
  if s.flag F.talCfg_EN then
    match s.atCadence s.tallyDue with
    | some s => .next s.tallyPass
    | none => .next s
  else .next s

/-- A write of TAL.CFG: periods count from the moment they are configured. -/
def State.talCfgWrite (s : State) (w : Word) : State := { s.putRw A.talCfg w with tallyAt := s.cadence }

/-- The header atom of a sweep (Table 15.2). -/
def State.sweepHeader (s : State) (w : Sweep) (complete : Bool) : Atom :=
  let seq := (s.fget F.talStatus_SEQ + 1) % 2 ^ 32
  BitVec.ofNat 512 (bit complete * 2 ^ 63 + (if complete then bit w.lost else 0) * 2 ^ 62 + seq +
    (if complete then w.first * 2 ^ 64 + w.last * 2 ^ 128 else 0) + s.build.sweptCount * 2 ^ 192 + s.build.options * 2 ^ 256 +
    (s.reg A.glbHwVersion).toNat * 2 ^ 320)

/-- The place of a sweep's write: 0 its first header, 1 + i counter i, then its final header. -/
def Own.sweepAt : Own → Option Nat
  | .sweep i => some i
  | _ => none

/-- The writes of the sweep that are under way. -/
def State.sweepOut (s : State) : List (Nat × Req) :=
  s.reqs.filter fun e => match e.2.src with | .own o => o.sweepAt.isSome | _ => false

/-- The sweep's writes that have come to an end are accounted for: one that is lost, or held until HOLD_TIMEOUT, is not repeated (R423). -/
def State.sweepSettle (s : State) (w : Sweep) : State × Sweep :=
  s.sweepOut.foldl (fun r e => match e.2.direct with
    | .blocked => r
    | .done => (r.1.dropReq e.1, r.2)
    | _ => (r.1.dropReq e.1, { r.2 with lost := true })) (s, w)

/-- Counter `w.next` is read and its write issued (R423, stage 2). -/
def State.sweepCounter (s : State) (w : Sweep) (c : Nat) : State :=
  let a := w.base + 64 + 8 * w.next
  let d := BitVec.ofNat 512 ((s.reg c).toNat * 2 ^ (8 * (a % 64)))
  let s := (s.serviceWrite (.sweep (1 + w.next)) a d (some (byteEnables (a % 64) 8))).1
  { s with sweep := some { w with first := if w.next = 0 then s.cadence else w.first, last := s.cadence, next := w.next + 1 } }

/-- The final header is visible, or has failed: the sweep ends (R423, stage 4). -/
def State.sweepEnd (s : State) (w : Sweep) : State :=
  let seq := s.fget F.talStatus_SEQ + 1
  let s := { ((s.fset F.talStatus_SEQ seq).fset F.talStatus_BUSY 0) with sweep := none }
  let s := (s.fset F.talFirst_CT w.first).fset F.talLast_CT w.last
  if s.flag F.talCfg_DONE_EV then s.post 0x041A 0 (seq % 2 ^ 32) (w.last - w.first) else s

/-- The running sweep takes its next step (R423): its first header, the next counter, and once every one of those writes has come to an end
the final header; with that the sweep ends. -/
def State.sweepGo (s : State) : State :=
  match s.sweep with
  | none => s
  | some w =>
    let n := s.build.sweptCount
    let closing := (s.ownFind (.sweep (n + 1))).isSome
    let r := s.sweepSettle w
    let s := { r.1 with sweep := some r.2 }
    let w := r.2
    if w.opened then
      { (s.serviceWrite (.sweep 0) w.base (s.sweepHeader w false) none).1 with sweep := some { w with opened := false } }
    else match s.build.swept[w.next]? with
      | some c => s.sweepCounter w c
      | none =>
        if s.sweepOut != [] then s
        else if closing then s.sweepEnd w
        else (s.serviceWrite (.sweep (n + 1)) w.base (s.sweepHeader w true) none).1

end Sys2Proof.Machine
end

