-- ==== Sys2Proof/Machine/Thermal.lean ====
section
/-! DEFINITION. The thermal watch (R395–R407), the lifecycle fuses (R411, R412), trims and their commit (R414), and the
moment at which an output is drained, on which a commit, a retirement and a change of set wait (Table 6.6). -/

namespace Sys2Proof.Machine

/-- The Drone has its supply. -/
def State.droneOn (s : State) : Bool := s.power != .dead

/-- The state group whose residency the Drone counts (R391). -/
def PwrSt.group : PwrSt → Nat
  | .active | .quietEntry | .entering | .dead => 0
  | .quiet => 1
  | .retain | .waking | .restored | .checking => 2
  | .off => 3

/-- An entry into a state group is counted (R391). -/
def State.enterGroup (s : State) (g : Nat) : State := s.count (F.pwrEnt_COUNT g) 1

/-- The ring-oscillator watchdog at a tick (R390): `cycles` are the cycles of the last 32 SLOWCLK ticks, 0 at an estimated
tick. STOPPED clears after 32 real ticks. DEDUCED, log entry 42. -/
def State.watchTick (s : State) (cycles : Nat) : State :=
  if s.flag F.pwrRoCal_STOPPED && cycles = 0 then
    { s with drone := { s.drone with runTicks := 0
                                     estTicks := s.drone.estTicks + (if s.power.group = 2 && !s.cpUp then 1 else 0) } }
  else
    let s := if cycles = 0 then s else s.fset F.pwrRoCal_CYCLES cycles
    if s.flag F.pwrRoCal_STOPPED then
      if 32 ≤ s.drone.runTicks + 1 then
        { s.fset F.pwrRoCal_STOPPED 0 with drone := { s.drone with runTicks := 0 } }
      else { s with drone := { s.drone with runTicks := s.drone.runTicks + 1 } }
    else s

/-- The real-time counter advances (R387, R391). -/
def State.rtcTick (s : State) (cycles : Nat) : State :=
  ((s.fset F.pwrRtc_TICKS (s.fget F.pwrRtc_TICKS + 1)).fset (F.pwrRes_TICKS s.power.group)
    (s.fget (F.pwrRes_TICKS s.power.group) + 1)).watchTick cycles

/-- SLOWCLK_STOPPED (R390). -/
def execSlowclkStopped (s : State) : Host.Outcome State Fault Refusal :=
  .next (if s.droneOn then { s.raise F.pwrRoCal_STOPPED with drone := { s.drone with runTicks := 0 } } else s)

/-- TEMP of channel `c`. -/
def State.temp (s : State) (c : Nat) : Int := signed 16 (s.fget (F.thmDiode_TEMP c))

/-- The calibrated temperature (R396). -/
def calibrate (t gain offset : Int) : Int := max (-32768) (min 32767 (t + t * gain / 4096 + offset))

/-- One conversion of channel `c` (R396, R397). A channel with IGNORE posts nothing. DEDUCED, log entry 41. -/
def State.convert (s : State) (c : Nat) (v : Conv) : State :=
  match v with
  | .reading t =>
    let x := calibrate (signed 16 t.toNat) (signed 8 (s.fget (F.fusDiodeTrimActive_GAIN c)))
      (signed 8 (s.fget (F.fusDiodeTrimActive_OFFSET c)))
    (s.fset (F.thmDiode_TEMP c) (unsigned 16 x)).fset (F.thmDiode_FAULT c) 0
  | v =>
    if s.flag (F.thmDiode_FAULT c) then s
    else
      let s := s.raise (F.thmDiode_FAULT c)
      if s.flag (F.thmDiode_IGNORE c) then s
      else s.post 0x0311 (unitPc (c / 2) 0) c (match v with | .openCircuit => 1 | _ => 2)

/-- The channels of stack `k`. -/
def stackDiodes (k : Nat) : List Nat := [2 * k, 2 * k + 1]

/-- The channel takes part in the window and the trip: neither faulty nor ignored (R397). -/
def State.counted (s : State) (c : Nat) : Bool := !s.flag (F.thmDiode_FAULT c) && !s.flag (F.thmDiode_IGNORE c)

/-- Channel and TEMP as an event argument carries them (R399). -/
def State.argDiode (s : State) (c : Nat) : Nat := c * 2 ^ 16 + s.fget (F.thmDiode_TEMP c)

/-- The trip (R406): the lowest counted channel at or above 110.0 °C. DEDUCED, log entry 40. -/
def State.tripCheck (s : State) : State :=
  if s.flag F.thmStatus_TRIPPED then s
  else match (s.stacks.flatMap stackDiodes).find? fun c => s.counted c && 1760 ≤ s.temp c with
    | none => s
    | some c => ((s.raise F.thmStatus_TRIPPED).fset F.thmStatus_TRIP_CH c).post 0x0416 0 (c / 2) (s.argDiode c)

/-- HYST. -/
def State.hyst (s : State) : Int := s.fget F.thmCfg_HYST

/-- Channel `c` lies inside the limits at which a closed window opens (R400). -/
def State.diodeInside (s : State) (c : Nat) : Bool := s.hyst ≤ s.temp c && s.temp c ≤ 1600 - s.hyst

/-- Channel `c` lies outside 0 °C to 100 °C (R400). -/
def State.diodeOutside (s : State) (c : Nat) : Bool := s.temp c < 0 || 1600 < s.temp c

/-- The watchdog of NMU `n` goes on where it stood when the first of its writes held at a stack began to wait (R404). -/
def State.dogResume (s : State) (held : List Piece) (n : Nat) : State :=
  let mine := held.filter fun q => (s.req? q.req).any fun r =>
    r.tag == n && (match r.src with | .own (.nmuWrite _ _ _) => true | _ => false)
  match mine, s.dogSince n with
  | q :: l, some b =>
    { s with nmuSince := SMap.put s.nmuSince 0 n (min s.cadence (b + (s.cadence - l.foldl (fun m o => min m o.holdAt) q.holdAt))) }
  | _, _ => s

/-- The watchdogs of the NMUs whose writes have waited for the window of stack `k` go on where they stood (R404). -/
def State.dogsResume (s : State) (k : Nat) : State :=
  let held := (s.lanes ++ s.pccs.flatMap fun e => e.2.buf).filter fun q => q.hold && q.stack == k
  s.forEach (List.range 32) fun s n => s.dogResume held n

/-- The write window of stack `k` opens: held pieces are evaluated again in buffer order, masked writes may be admitted
(R405). -/
def State.openWindow (s : State) (k : Nat) : State :=
  let s := (s.dogsResume k).fset (F.thmStk_WINDOW_CLOSED k) 0
  let s := { s with lanes := s.lanes.map fun (q : Piece) => if q.stack = k then ({ q with hold := false } : Piece) else q }
  s.forEach (List.range 64) fun s p => s.openPcc k p

/-- The write window at a sample (R400); `was` names the channels that lay outside the opening limits at the sample before. -/
def State.windowCheck (s : State) (k : Nat) (was : List Nat) : State :=
  let l := (stackDiodes k).filter s.counted
  if s.windowClosed k then
    if l.all s.diodeInside then
      (s.openWindow k).post 0x0310 (unitPc k 0) k (s.argDiode ((l.find? was.contains).getD (2 * k)))
    else s
  else match l.find? s.diodeOutside with
    | some c => (s.raise (F.thmStk_WINDOW_CLOSED k)).post 0x030F (unitPc k 0) k (s.argDiode c)
    | none => s

/-- The temperature a channel counts with for the levels; none when ignored (R397). -/
def State.levelTemp (s : State) (c : Nat) : Option Int :=
  if s.flag (F.thmDiode_IGNORE c) then none
  else if s.flag (F.thmDiode_FAULT c) then some 1520 else some (s.temp c)

/-- The hottest counted channel of stack `k` and its temperature (R398). -/
def State.stackTemp (s : State) (k : Nat) : Option (Nat × Int) :=
  match s.levelTemp (2 * k), s.levelTemp (2 * k + 1) with
  | some a, some b => if a < b then some (2 * k + 1, b) else some (2 * k, a)
  | some a, none => some (2 * k, a)
  | none, some b => some (2 * k + 1, b)
  | none, none => none

/-- The level at temperature `t`, thresholds lowered by `h` (Table 14.1). -/
def levelAt (t h : Int) : Nat := if 1520 - h ≤ t then 2 else if 1360 - h ≤ t then 1 else 0

/-- The next level (R397, R398). -/
def State.nextLevel (s : State) (k : Nat) : Nat :=
  if !s.counted (2 * k) && !s.counted (2 * k + 1) then 2
  else match s.stackTemp k with
    | none => 2
    | some (_, t) =>
      let cur := s.fget (F.thmStk_LEVEL k)
      if cur < levelAt t 0 then levelAt t 0 else min cur (levelAt t s.hyst)

/-- The level last reported of stack `k`. -/
def State.reported (s : State) (k : Nat) : Nat := SMap.get s.levels 0 k

/-- Report the levels that have changed since they were last reported (R399), with the change of SCALE (R170). -/
def State.reportLevels (s : State) : State :=
  let old := (s.forEach s.stacks fun s k => s.fset (F.thmStk_LEVEL k) (s.reported k)).scale.1
  let s := s.forEach s.stacks fun s k =>
    let l := s.fget (F.thmStk_LEVEL k)
    if l = s.reported k then s
    else
      { s.post 0x030E (unitPc k 0) (k + l * 2 ^ 4 + s.reported k * 2 ^ 8)
          (s.argDiode (((s.stackTemp k).map (·.1)).getD (2 * k))) with levels := SMap.put s.levels 0 k l }
  s.scaleNote old

/-- One thermistor (R407). -/
def State.thermistor (s : State) (i : Nat) (raw : Nat) : State :=
  let lim := s.fget (F.thmPkg_LIMIT i)
  let s := s.fset (F.thmPkg_RAW i) raw
  if lim != 0 && raw < lim then
    if s.flag (F.thmPkg_OVER i) then s else (s.raise (F.thmPkg_OVER i)).post 0x0417 0 i raw
  else if lim + lim / 64 ≤ raw then s.fset (F.thmPkg_OVER i) 0 else s

/-- Everything a sample does at the Drone and, where the core runs, at the stacks (R396–R407): conversions, the trip, the
windows, the levels with the refresh multiplier (R236), the thermistors, in the order of Table 14.6. -/
def State.sample (s : State) (diodes : List Conv) (therms : List (BitVec 16)) (cycles : Nat) : State :=
  let s := s.rtcTick cycles
  let was := (s.stacks.flatMap stackDiodes).filter fun c => !s.diodeInside c
  let s := s.forEach ((diodes.take (2 * s.build.nStacks)).zipIdx) fun s v => s.convert v.2 v.1
  let s := s.tripCheck
  let s := s.forEach s.stacks fun s k => s.windowCheck k was
  let s := s.forEach s.stacks fun s k => (s.fset (F.thmStk_LEVEL k) (s.nextLevel k)).settleMult k
  let s := if s.cpUp then s.reportLevels else s
  s.forEach ((therms.take 8).zipIdx) fun s v => s.thermistor v.2 v.1.toNat

/-- A word of the Peg bank as loaded at the last full reset. -/
def State.fuseWord (s : State) (i : Nat) : Word := SMap.get s.fuses 0 i

/-- A fuse group of word 3 is blown when at least five of its fuses read 1 (R411). -/
def groupBlown (w : Word) (g : Nat) : Bool :=
  5 ≤ ((List.range 8).filter fun i => w.getLsbD (8 * g + i)).length

/-- The lifecycle state of word 3 (R411). -/
def lifecycleOf (w : Word) : Nat :=
  if groupBlown w 2 then 3 else if groupBlown w 1 then 2 else if groupBlown w 0 then 1 else 0

/-- The fuses a command blows: LCn for n from `present` + 1 to `target`, and SAN (R412). -/
def blowMask (present target : Nat) (san : Bool) : Nat :=
  (List.range 3).foldl (fun m i => if present < i + 1 && i + 1 ≤ target then m + 0xFF * 2 ^ (8 * i) else m) 0 +
    (if san then 0xFF * 2 ^ 24 else 0)

/-- An LC_CMD is refused (R412). -/
def State.lcRefused (s : State) (target : Nat) (san : Bool) : Bool :=
  let pend := s.fget F.fusLifecycle_PENDING
  s.locked || target < pend || (target == pend && (!san || s.flag F.fusLifecycle_SAN_PENDING)) || s.flag F.fusStatus_PROG_BUSY

/-- A write of FUS.LC_CMD (R412). -/
def State.lcCmd (s : State) (w : Nat) : State :=
  let target := w % 4
  let san := w.testBit 2
  if !w.testBit 63 then s
  else if s.lcRefused target san then s.raise F.fusStatus_LC_REFUSED
  else
    let m := blowMask (s.fget F.fusLifecycle_STATE) target san
    let s := (s.raise F.fusStatus_PROG_BUSY).fset F.fusLifecycle_PENDING target
    let s := if san then s.raise F.fusLifecycle_SAN_PENDING else s
    { s with prog := BitVec.ofNat 64 m }

/-- LC_CMD (R412). -/
def execLcCmd (value : Word) (s : State) : Host.Outcome State Fault Refusal :=
  s.cpDo (.lcCmd value) fun s => s.lcCmd value.toNat

/-- A fuse of the Peg bank. -/
def State.pegWord (s : State) (i : Nat) : Word := SMap.get s.peg 0 i
def State.setPeg (s : State) (i : Nat) (w : Word) : State := { s with peg := SMap.put s.peg 0 i w }

/-- FUSE_PROGRAM_DONE (R412). -/
def execFuseProgramDone (s : State) : Host.Outcome State Fault Refusal :=
  .next (if s.flag F.fusStatus_PROG_BUSY && s.cpUp then
    { (s.setPeg 3 (s.pegWord 3 ||| s.prog)).fset F.fusStatus_PROG_BUSY 0 with prog := 0 } else s)

/-- The PHY trim of stack `k` and the diode trim of channel `c` that the Peg bank gives, or those of Table 14.4 after a load
error. -/
def State.pegPhyTrim (s : State) (k : Nat) : Word :=
  if s.flag F.fusStatus_LOAD_ERR then 0x40400404 else s.fuseWord (144 + k) &&& 0xFFFFFFFF
def State.pegDiodeTrim (s : State) (c : Nat) : Word :=
  if s.flag F.fusStatus_LOAD_ERR then 0 else (s.fuseWord (12 + c / 4) >>> (16 * (c % 4))) &&& 0xFFFF

/-- RELOAD: every shadow takes the Peg bank's trim. DEDUCED, log entry 43. -/
def State.trimReload (s : State) : State :=
  (s.forEach s.stacks fun s k => s.setReg (A.fusPhyTrim k) (s.pegPhyTrim k)).forEach (s.stacks.flatMap stackDiodes) fun s c =>
    s.setReg (A.fusDiodeTrim c) (s.pegDiodeTrim c)

/-- TRIM_RELOAD (R414). -/
def execTrimReload (s : State) : Host.Outcome State Fault Refusal := s.cpDo .trimReload fun s => s.trimReload

/-- The stacks whose PHY trims differ, and the diode channels whose trims do (Table 14.5, step 1). -/
def State.phyDiffs (s : State) : List Nat := s.stacks.filter fun k => s.reg (A.fusPhyTrim k) != s.reg (A.fusPhyTrimActive k)
def State.diodeDiffs (s : State) : List Nat :=
  (s.stacks.flatMap stackDiodes).filter fun c => s.reg (A.fusDiodeTrim c) != s.reg (A.fusDiodeTrimActive c)

/-- A list of bit numbers as a mask. -/
def maskOf (l : List Nat) : Nat := l.foldl (fun m i => m ||| 2 ^ i) 0

/-- The stacks a commit holds. -/
def State.trimHeld (s : State) : List Nat := s.stacks.filter fun k => (s.out k 0).hwPcc.contains .trim

/-- Stack `k` is drained, ingress and PCCs (R198). -/
def State.stackDrained (s : State) (k : Nat) : Bool :=
  s.ingDrained k && (List.range 64).all fun p => s.pccDrained k p

/-- The commit ends once the stacks it holds are drained (Table 14.5, steps 2 to 4). DEDUCED, log entry 107. -/
def State.trimProceed (s : State) : State :=
  if s.flag F.fusStatus_COMMIT_BUSY && s.trimHeld.all s.stackDrained then
    let ks := s.trimHeld.filter s.phyDiffs.contains
    let cs := s.diodeDiffs
    let held := s.trimHeld
    let s := s.forEach ks fun s k => s.setReg (A.fusPhyTrimActive k) (s.reg (A.fusPhyTrim k))
    let s := s.forEach cs fun s c => s.setReg (A.fusDiodeTrimActive c) (s.reg (A.fusDiodeTrim c))
    let s := s.forEach held fun s k => s.freeStack k .trim
    let s := (s.fset F.fusStatus_COMMIT_BUSY 0).post 0x0418 0 (maskOf ks) (maskOf cs)
    s.forEach held fun s k => s.jobProceed k
  else s

/-- COMMIT is refused (R414). -/
def State.commitRefused (s : State) : Bool :=
  s.power != .active || s.flag F.fusStatus_COMMIT_BUSY ||
    s.phyDiffs.any fun k => s.flag (F.phyFreqStatus_BUSY k) || s.flag (F.phyFreqStatus_CHAIN k)

/-- COMMIT (R414). -/
def State.trimCommit (s : State) : State :=
  if s.commitRefused then s.raise F.fusStatus_COMMIT_REFUSED
  else ((s.raise F.fusStatus_COMMIT_BUSY).forEach s.phyDiffs fun s k => s.holdStack k .trim).trimProceed

/-- TRIM_COMMIT (R414). -/
def execTrimCommit (s : State) : Host.Outcome State Fault Refusal := s.cpDo .trimCommit fun s => s.trimCommit

/-- What waits for a drained output goes on: a trim commit, a retirement, a change of set or a lane chain (Table 14.6,
Table 9.4, Table 8.5). -/
def State.drainProceed (s : State) (k : Nat) : State := (s.trimProceed.migProceed k).jobProceed k

/-- CAPO_DRAINED (R194): nothing is left of what output `p` admitted. -/
def execCapoDrained (k : Fin 8) (p : Fin 64) (s : State) : Host.Outcome State Fault Refusal :=
  .next (if (s.out k.val p.val).st = .hard && s.emptied k.val p.val then
    (s.modOut k.val p.val fun o => { o with st := .drained }).drainProceed k.val else s)

end Sys2Proof.Machine
end

