-- ==== Sys2Proof/Machine/Reset.lean ====
section
/-! DEFINITION. Full reset (R433–R437): the core at its reset values, the Peg bank loaded and applied (R105, R229,
R409–R411), the microcode images selected (R438, R439, R448), training and sanitisation (R248, R368). -/

namespace Sys2Proof.Machine

/-- A register of the Drone domain, which no reset of the core changes (R394, R415). -/
def isDrone (a : Nat) : Bool := (RegFile.find a).any (·.drone)

/-- A port after a full reset (R436): a response flit already sent waits for its acknowledgement, a header left pending waits
for the port to be enabled (R78). -/
def Port.afterReset (p : Port) : Port :=
  { Port.init with hdr := p.hdr.map fun h => { h with why := .notEnabled, lost := false }, rsq := p.rsq.take 1 }

/-- Step 1 of a full reset (Table 15.5): work in flight is abandoned and every core register takes its reset value; the
registers `keep` names keep theirs. The stacks' cells, the Peg bank and the Drone stand as they are. DEDUCED, log entry 44. -/
def State.coreReset (s : State) (keep : Nat → Bool) : State :=
  { s with
    regs := s.regs.filter fun e => keep e.1
    cadence := 0, pauseLeft := 0, syncAt := none, headroom := ⟨0, 0, false, 0⟩
    ports := (s.ports.map fun e => (e.1, e.2.afterReset)).filter fun e => e.2 != Port.init
    reqs := [], fwds := [], bridgeCr := [], mults := [], mapSave := [], windows := [], cache := [], misses := [], scmds := [], cacheFull := false
    vtime := [], gates := [], lanes := [], sorting := [], outputs := [], quota := [], pccs := [], migs := []
    migReasons := [], salvage := [], events := [], dropCount := 0, dropStamp := 0, phyJobs := [], slots := []
    launchQ := [], ctxs := [], waiters := [], bows := [], chks := [], jobs := [], nmuSince := [], nmuTurn := [], trainLost := 0
    sweep := none, tallyAt := 0, cpErr := false }

/-- The build of Peg word 2 (Table 14.2); spare PCs above 4 are taken as 4 (R410). -/
def buildOf (w : Nat) : Build :=
  ⟨min 8 (bitsOf w 3 0), bitsOf w 20 16, min 4 (bitsOf w 10 8), w.testBit 4, w.testBit 5, bitsOf w 24 24⟩

/-- A check unit at its reset configuration, its register at INIT (Table 12.6). -/
def crcReset : Chk :=
  { Chk.init with width := 32, poly := 0x04C11DB7, xorout := 0xFFFFFFFF, crc := 0xFFFFFFFF }

/-- The CRC-32 of a list of words, fed as in R357 without folding. -/
def crcOf (l : List Word) : Nat := (l.foldl (fun c w => crcBytes c 8 w.toNat) crcReset).result

/-- The CRC that word 251 holds (R410). -/
def State.pegCrc (s : State) : Nat :=
  crcOf ((List.range 3 ++ (List.range 180).map (· + 4)).map s.pegWord)

/-- The Peg bank is loaded into FUS.WORD, and its CRC checked (R409, R410). Fuses whose blowing the reset cut short read as
they happen to (Table 14.6, DESIGN CHOICE, log entry 2). -/
def State.pegLoad (s : State) : State :=
  let s := if s.prog = 0 then s
    else { s.setPeg 3 (s.pegWord 3 ||| (s.prog &&& (Config.freeAtom s.free).extractLsb' 0 64)) with prog := 0 }.freed
  let s := { s with fuses := s.peg, build := buildOf (s.pegWord 2).toNat }
  if (s.pegWord 251).toNat = s.pegCrc then s
  else (s.raise F.fusStatus_LOAD_ERR).post 0x0419 0 s.pegCrc (s.pegWord 251).toNat

/-- The PC map of stack `k` from its failed physical PCs (R105). -/
def State.mapLoad (s : State) (k : Nat) : State :=
  let failed := if s.flag F.fusStatus_LOAD_ERR then 0 else (s.fuseWord (4 + k)).toNat
  let s := s.fset (F.pcmapFailed_MASK k) failed
  let well := (List.range 64).filter fun p => !failed.testBit p
  let s := s.forEach (List.range s.build.N) fun s l =>
    match well[l]? with
    | some p => s.fset (F.pcmapEntry_PPC k l) p
    | none => (s.fset (F.pcmapEntry_PPC k l) 63).fset (F.pcmapEntry_STATE k l) 3
  s.fset (F.pcmapSpare_MASK k) (maskOf (well.drop s.build.N))

/-- One spare lane of the lane-repair map; 0x3F is unused (Table 14.2). -/
def State.repairLane (s : State) (used lane : Fld) (v : Nat) : State :=
  if v = 0x3F then s else (s.raise used).fset lane v

/-- The lane repairs of channel `c` of stack `k` (R229, Table 14.2). -/
def State.repairChannel (s : State) (k c : Nat) : State :=
  let w := bitsOf (s.fuseWord (16 + (32 * k + c) / 2)).toNat (32 * (c % 2) + 31) (32 * (c % 2))
  let s := s.repairLane (F.phyLaneMap_P0_S0_USED k c) (F.phyLaneMap_P0_S0_LANE k c) (bitsOf w 5 0)
  let s := s.repairLane (F.phyLaneMap_P0_S1_USED k c) (F.phyLaneMap_P0_S1_LANE k c) (bitsOf w 11 6)
  let s := s.repairLane (F.phyLaneMap_P1_S0_USED k c) (F.phyLaneMap_P1_S0_LANE k c) (bitsOf w 17 12)
  let s := s.repairLane (F.phyLaneMap_P1_S1_USED k c) (F.phyLaneMap_P1_S1_LANE k c) (bitsOf w 23 18)
  s.repairLane (F.phyLaneMap_CA_USED k c) (F.phyLaneMap_CA_LANE k c) (bitsOf w 29 24)

/-- The lifecycle state comes into force (R411). -/
def State.lifecycleLoad (s : State) : State :=
  let w := s.fuseWord 3
  let n := lifecycleOf w
  let san := bit (groupBlown w 3)
  (((s.fset F.fusLifecycle_STATE n).fset F.fusLifecycle_PENDING n).fset F.fusLifecycle_SAN san).fset F.fusLifecycle_SAN_PENDING san

/-- Step 2 of a full reset: the Peg bank applied (R409, R410). -/
def State.pegApply (s : State) : State :=
  let s := s.pegLoad
  let s := s.forEach s.stacks fun s k => s.mapLoad k
  let s := if s.flag F.fusStatus_LOAD_ERR then s
    else s.forEach s.stacks fun s k => s.forEach (List.range 32) fun s c => s.repairChannel k c
  let s := s.forEach s.stacks fun s k =>
    (s.setReg (A.fusPhyTrim k) (s.pegPhyTrim k)).setReg (A.fusPhyTrimActive k) (s.pegPhyTrim k)
  let s := s.forEach (s.stacks.flatMap stackDiodes) fun s c =>
    (s.setReg (A.fusDiodeTrim c) (s.pegDiodeTrim c)).setReg (A.fusDiodeTrimActive c) (s.pegDiodeTrim c)
  s.lifecycleLoad

/-- A word of the staging area (R439). -/
def State.stagedWord (s : State) (i : Nat) : Nat := (SMap.get s.ucode 0 i).toNat

/-- Word numbers at which the loader and the training image begin. -/
def loaderAt : Nat := 0
def trainingAt : Nat := 0x4000

/-- VERSION of the staged image at word `b` (Table 15.9). -/
def State.stagedVersion (s : State) (b : Nat) : Nat := bitsOf (s.stagedWord b) 31 0

/-- The header of the staged image at word `b` is well formed and its CRC holds (Table 15.8, row 2). -/
def State.imageGood (s : State) (b kind : Nat) : Bool :=
  let len := bitsOf (s.stagedWord (b + 3)) 63 32
  bitsOf (s.stagedWord b) 63 56 == kind && bitsOf (s.stagedWord b) 55 32 == 0 && bitsOf (s.stagedWord (b + 1)) 31 0 == 0 &&
    ((List.range 4).all fun i => s.stagedWord (b + 4 + i) == 0) && len != 0 && len % 8 == 0 && len ≤ 0x1FFC0 &&
    bitsOf (s.stagedWord (b + 3)) 31 0 == crcOf ((List.range (len / 8)).map fun i => SMap.get s.ucode 0 (b + 8 + i))

/-- The image's hardware window holds release 3.0 (row 3). -/
def State.imageFits (s : State) (b : Nat) : Bool :=
  bitsOf (s.stagedWord (b + 1)) 63 48 ≤ 0x0300 && 0x0300 ≤ bitsOf (s.stagedWord (b + 1)) 47 32

/-- The image's peer window holds VERSION `v` (row 4). -/
def State.peerFits (s : State) (b v : Nat) : Bool :=
  bitsOf (s.stagedWord (b + 2)) 63 32 ≤ v && v ≤ bitsOf (s.stagedWord (b + 2)) 31 0

/-- Entry `i` of the tested matrix (R448): loader and training version. -/
def matrixEntry (i : Nat) : Nat × Nat :=
  if i = 0 then (0x03000004, 0x03000007)
  else ((Config.matrixLoader (BitVec.ofNat 8 i)).toNat, (Config.matrixTraining (BitVec.ofNat 8 i)).toNat)

/-- The pair is among `n` entries of the matrix from entry `i`, before the first that reads 0 (R448). -/
def inMatrix (l t i : Nat) : Nat → Bool
  | 0 => false
  | n + 1 =>
    let e := matrixEntry i
    if e.1 = 0 && e.2 = 0 then false else (e.1 == l && e.2 == t) || inMatrix l t (i + 1) n

/-- REASON of Table 15.8 for the staged pair; 0 when it runs. -/
def State.stagedReason (s : State) : Nat :=
  let l := s.stagedVersion loaderAt
  let t := s.stagedVersion trainingAt
  if !s.imageGood loaderAt 1 || !s.imageGood trainingAt 2 then 1
  else if !s.imageFits loaderAt || !s.imageFits trainingAt then 2
  else if !s.peerFits loaderAt t || !s.peerFits trainingAt l then 3
  else if !inMatrix l t 0 256 then 4
  else 0

/-- Step 3 of a full reset (R438). -/
def State.imageSelect (s : State) : State :=
  let l := s.stagedVersion loaderAt
  let t := s.stagedVersion trainingAt
  if !s.flag F.glbUcodeCtl_USE_STAGED then s
  else if s.stagedReason = 0 then
    ((s.raise F.glbUcodeStatus_STAGED_USED).fset F.glbUcodeVer_LOADER l).fset F.glbUcodeVer_TRAINING t
  else
    ((s.raise F.glbUcodeStatus_FALLBACK).fset F.glbUcodeStatus_REASON s.stagedReason).post 0x041D 0 (l * 2 ^ 32 + t) s.stagedReason

/-- The stacks of which an entry that was in service is lost. -/
def State.newlyLost (old new : State) : Nat :=
  maskOf (new.stacks.filter fun k => (List.range new.build.N).any fun l =>
    new.fget (F.pcmapEntry_STATE k l) == 3 && old.fget (F.pcmapEntry_STATE k l) != 3)

/-- Step 4 of a full reset: every stack trained at set 0 (R248). -/
def State.resetTrain (s : State) (env : TrainEnv) : State :=
  let t := s.forEach s.stacks fun s k => s.trainStack k env
  { t with trainLost := s.newlyLost t }

/-- The lifecycle demands sanitisation (Table 14.3). -/
def State.sanDemanded (s : State) : Bool :=
  let n := s.fget F.fusLifecycle_STATE
  n == 3 || (n != 0 && s.flag F.fusLifecycle_SAN)

/-- The patrol scrub runs at every stack whose SCRUB_EN is set; pacing restarts (R364, R365). -/
def State.scrubOn (s : State) : State :=
  s.forEach s.stacks fun s k =>
    let s := s.fset (F.bowStatus_SCRUB k) (bit (s.flag (F.bowCfg_SCRUB_EN k)))
    s.setBow k { s.bow k with scrub := ⟨s.cadence, 0⟩, copy := ⟨s.cadence, 0⟩ }

/-- Step 6 of a full reset: READY, and RESET_DONE (R434). -/
def State.resetDone (s : State) : State :=
  let s := (s.raise F.glbResetStatus_READY).scrubOn
  s.post 0x041C 0 (s.fget F.glbResetStatus_CAUSE)
    (s.fget F.glbResetStatus_SAN_STACKS + s.trainLost * 2 ^ 8 + s.fget F.fusStatus_LOAD_ERR * 2 ^ 16 +
      s.fget F.glbUcodeStatus_FALLBACK * 2 ^ 17)

/-- Step 5 of a full reset: sanitisation where the lifecycle demands it; else the reset is done. -/
def State.resetSanitise (s : State) : State :=
  if s.sanDemanded then
    ((s.raise F.glbResetStatus_SANITISING).fset F.glbResetStatus_SAN_STACKS (maskOf s.stacks)).forEach s.stacks
      fun s k => s.sanBegin k
  else s.resetDone

/-- Nothing of a sleep, of its entry or of its end is left (R374, R381). -/
def Drone.awake (d : Drone) : Drone :=
  { d with estTicks := 0, held := 0, waking := 0, step := 0, toOff := false, joint := none, sibReady := false, locked := none }

/-- Full reset with its cause (R433, R434). Staged microcode is kept for cause 2 only (Table 15.6). -/
def State.fullReset (s : State) (cause : Nat) (env : TrainEnv) : State :=
  let staged := cause = 2
  let was := s.power.group
  let s := { s.coreReset (fun a => isDrone a || (staged && a == A.glbUcodeCtl)) with
    image := none, ucode := if staged then s.ucode else [], power := .active, drone := s.drone.awake }
  let s := { s with levels := (List.range 8).filterMap fun k =>
    let l := s.fget (F.thmStk_LEVEL k)
    if l = 0 then none else some (k, l) }
  let s := s.forEach (List.range 8) fun s k => s.settleMult k
  let s := if was = 0 then s else s.enterGroup 0
  (((s.fset F.glbResetStatus_CAUSE cause).pegApply.imageSelect).resetTrain env).resetSanitise

/-- A write of GLB.RESET (R433). -/
def State.resetWrite (s : State) (w : Nat) (env : TrainEnv) : State :=
  if w.testBit 0 && bitsOf w 15 8 == 0x5A then s.fullReset 2 env else s

/-- RESET_CMD (R433). -/
def execResetCmd (value : Word) (env : TrainEnv) (s : State) : Host.Outcome State Fault Refusal :=
  s.cpDo (.resetCmd value env) fun s => s.resetWrite value.toNat env

/-- CORE_POWER_ON (R433): none while the Drone has no supply. DEDUCED, log entry 49. -/
def execCorePowerOn (env : TrainEnv) (s : State) : Host.Outcome State Fault Refusal :=
  let s := { s with drone := { s.drone with supplied := true } }
  .next (if s.droneOn then s.fullReset 1 env else s)

/-- SANITISE_DONE (R368): sanitisation of a stack ends. When it was the last of a full reset, the reset is done. -/
def execSanitiseDone (k : Fin 8) (s : State) : Host.Outcome State Fault Refusal :=
  match s.sanDone k.val with
  | none => .next s
  | some s =>
    .next (if s.flag F.glbResetStatus_SANITISING && s.stacks.all fun j => !s.flag (F.bowStatus_SANITISE j) then
      (s.fset F.glbResetStatus_SANITISING 0).resetDone else s)

/-- A write of UCODE_DATA (R439); ignored while ACC_LOCK is set. -/
def State.ucodeData (s : State) (w : Word) : State :=
  if s.locked then s
  else
    let i := s.fget F.glbUcodeAddr_OFFSET
    { s.fset F.glbUcodeAddr_OFFSET (i + 1) with ucode := SMap.put s.ucode 0 i w }

/-- UCODE_DATA_WRITE (R439). -/
def execUcodeDataWrite (value : Word) (s : State) : Host.Outcome State Fault Refusal :=
  s.cpDo (.ucodeDataWrite value) fun s => s.ucodeData value

end Sys2Proof.Machine
end

