-- ==== Sys2Proof/Machine/Power.lean ====
section
/-! DEFINITION. The power states (R373–R394): entry to and exit from Quiet, the Retain entry and its image (R377, R384), wake and
restore (R379–R382, R388–R390), the checks after it, Off, and the supplies. With them the commands that a Retain entry can wait
for. -/

namespace Sys2Proof.Machine

/-- A PWR.CMD or a pad release is refused (R374, R383). -/
def State.pwrRefuse (s : State) (reason : Nat) : State := (s.raise F.pwrState_REFUSED).fset F.pwrState_REASON reason

/-- A stack operation runs (R374): a change of set, a chain, sanitisation or a canary operation. -/
def State.stackBusy (s : State) (k : Nat) : Bool :=
  s.flag (F.phyFreqStatus_BUSY k) || s.flag (F.phyFreqStatus_CHAIN k) || s.flag (F.bowStatus_SANITISE k) ||
    s.canaryRuns k || (s.job k).isSome

/-- The first failing condition of R374 in the order of Table 13.6, as REASON; 0 when the command is accepted. -/
def State.pwrReason (s : State) (quiet : Bool) : Nat :=
  if s.power != .active then 1
  else if (List.range 113).any fun n => s.flag (F.glbPortCfg_EN n) || s.outstanding n != 0 then 2
  else if s.slots.any fun e => e.2.st != .free then 3
  else if (List.range 4).any fun u => (s.chk u).st != .idle then 4
  else if s.stacks.any fun k => s.stackBusy k || (quiet && s.flag (F.migStatus_ACTIVE k)) then 5
  else if s.stacks.any fun k => s.flag (F.pcmapEdit_EDIT k) then 6
  else if s.flag F.pwrCfg_JOINT && !s.flag F.glbBridgeStatus_UP then 7
  else 0

/-- The scrub stops (Table 13.2, Table 13.3, step 1). -/
def State.scrubOff (s : State) : State := s.forEach s.stacks fun s k => s.fset (F.bowStatus_SCRUB k) 0

/-- PWR.CMD OP = QUIET (R374, R375). -/
def State.pwrQuiet (s : State) : State :=
  let r := s.pwrReason true
  if r = 0 then { s.scrubOff with power := .quietEntry } else s.pwrRefuse r

/-- PWR_QUIET (R375). -/
def execPwrQuiet (s : State) : Host.Outcome State Fault Refusal := s.cpDo .pwrQuiet fun s => s.pwrQuiet

/-- Nothing of the Bow engines is under way and no sweep runs (Table 13.2, Table 13.3, step 1; R425). -/
def State.bowRests (s : State) : Bool :=
  s.sweep.isNone && s.stacks.all fun k =>
    s.bowOut k (fun _ => true) == 0 && (match s.mig k with | some m => m.chunk.isNone | none => true)

/-- The PCC precharges every open bank (Table 13.2, step 2). -/
def Pcc.precharged (c : Pcc) : Pcc :=
  { c with banks := (List.range 64).foldl (fun m b =>
      let x := SMap.get m Bank.init b
      if x.st = .openIdle then SMap.put m Bank.init b { x with st := .closed, row := none } else m) c.banks }

/-- No bank of stack `k` is owned and no command to the stack is under way, so that its PCCs can precharge every bank (Table 13.2, step 2). -/
def State.stackRests (s : State) (k : Nat) : Bool :=
  (List.range 64).all fun p => (s.pcc k p).rb == [] && (s.pcc k p).banks.all fun e => e.2.owner.isNone

/-- QUIET_ENTRY_DONE (Table 13.2, R391). -/
def execQuietEntryDone (s : State) : Host.Outcome State Fault Refusal :=
  .next (if s.power = .quietEntry && s.bowRests && s.stacks.all s.stackRests then
    let s := s.forEach s.stacks fun s k => s.forEach (List.range 64) fun s p => s.modPcc k p Pcc.precharged
    State.enterGroup { s with power := .quiet } 1 else s)

/-- WAKE_STATUS records an exit (R381). -/
def State.wakeStatus (s : State) (src left : Nat) : State := (s.fset F.pwrWakeStatus_SOURCES src).fset F.pwrWakeStatus_FROM left

/-- The exit from QUIET (Table 13.2, R386). -/
def State.quietExit (s : State) (src : Nat) : State :=
  let s := { (s.wakeStatus src 1) with power := .active }
  (s.scrubOn.post 0x0414 0 (src + 1 * 2 ^ 4) 0).enterGroup 0

/-- A write that starts work in QUIET first causes the exit (R376). DEDUCED, log entry 51. -/
def State.started (s : State) : State := if s.power = .quiet then s.quietExit 0 else s

/-- PWR.CMD OP = ACTIVE (R374). -/
def State.pwrActive (s : State) : State := if s.power = .quiet then s.quietExit 0 else s.pwrRefuse 1

/-- PWR_ACTIVE (R374). -/
def execPwrActive (s : State) : Host.Outcome State Fault Refusal := s.cpDo .pwrActive fun s => s.pwrActive

/-- PWR_CMD_RESERVED (R374): OP 5 to 7. -/
def execPwrCmdReserved (op : Fin 3) (s : State) : Host.Outcome State Fault Refusal :=
  s.cpDo (.pwrCmdReserved op) fun s => s.pwrRefuse 1

/-- PORT_ENABLE (R78, R376): a write of PORT_CFG with EN = 1. -/
def State.portWrite (s : State) (n w : Nat) : State := (if w.testBit 0 then s.started else s).portCfgWrite n w
def execPortEnable (n : Fin 113) (w : Word) (s : State) : Host.Outcome State Fault Refusal :=
  s.cpDo (.portEnable n w) fun s => s.portWrite n.val (w.toNat ||| 1)

/-- FREQ_CHANGE (R240). -/
def execFreqChange (k : Fin 8) (t : Fin 4) (env : TrainEnv) (s : State) : Host.Outcome State Fault Refusal :=
  s.cpStk k (.freqChange k t env) fun s => s.started.freqChange k.val t.val env

/-- MIG_RETIRE_CMD (R276). -/
def execMigRetireCmd (k : Fin 8) (l : Fin 64) (s : State) : Host.Outcome State Fault Refusal :=
  s.cpStk k (.migRetireCmd k l) fun s => s.started.migRetire k.val l.val

/-- CHK_START (R358). -/
def execChkStart (u : Fin 4) (s : State) : Host.Outcome State Fault Refusal :=
  s.cpDo (.chkStart u) fun s => s.started.chkStart u.val

/-- CHK_SCAN (R361). -/
def execChkScan (u : Fin 4) (k : Fin 8) (s : State) : Host.Outcome State Fault Refusal :=
  s.cpDo (.chkScan u k) fun s => s.started.chkScan u.val k.val

/-- BOW_SANITISE (R368, R369). -/
def execBowSanitise (k : Fin 8) (s : State) : Host.Outcome State Fault Refusal :=
  s.cpStk k (.bowSanitise k) fun s => s.started.bowSanitise k.val

/-- BOW_CANARY_WRITE (R366, R369). -/
def execBowCanaryWrite (k : Fin 8) (s : State) : Host.Outcome State Fault Refusal :=
  s.cpStk k (.bowCanaryWrite k) fun s => s.started.bowCanaryWrite k.val

/-- BOW_CANARY_CHECK (R367, R369). -/
def execBowCanaryCheck (k : Fin 8) (s : State) : Host.Outcome State Fault Refusal :=
  s.cpStk k (.bowCanaryCheck k) fun s => s.started.bowCanaryCheck k.val

/-- Every stream cache entry goes to write-back, pinned ones included (Table 13.3, step 2). -/
def State.flushStreams (s : State) : State :=
  s.forEach (s.cache.map (·.1)) fun s j => if (SMap.get s.cache Entry.init j).resident then s.writeback j else s

/-- No stream is cached or being fetched. -/
def State.streamsGone (s : State) : Bool := s.misses == [] && s.cache.all fun e => e.2.st == .free

/-- Nothing is at the ingress or in a PCC of stack `k`. -/
def State.stackEmpty (s : State) (k : Nat) : Bool :=
  (s.lanes.all fun q => q.stack != k) && (s.sorting.all fun q => q.stack != k) && (List.range 64).all fun p => s.emptied k p

/-- No line of stack `k`'s PCCs is DIRTY or on its way to or from memory (Table 13.3, step 3). -/
def State.linesClean (s : State) (k : Nat) : Bool := (List.range 64).all fun p => (s.pcc k p).lines.all fun z => z.st == .clean

/-- Every DIRTY line of stack `k` is written back (R218, Table 13.3, step 3). -/
def State.flushLines (s : State) (k : Nat) : State := s.forEach (List.range 64) fun s p => s.zmFlush k p

/-- The saved bits of a register, the others at reset (Table 13.5). -/
def savedWord (a : Nat) (w : Word) : Word :=
  match RegFile.find a with
  | none => RegFile.reset a
  | some r => (w &&& BitVec.ofNat 64 r.save) ||| (RegFile.reset a &&& ~~~(BitVec.ofNat 64 r.save))

/-- The image of Table 13.5 (R384). -/
def State.makeImage (s : State) : Image :=
  { regs := s.regs.filterMap fun e => if savedWord e.1 e.2 = RegFile.reset e.1 then none else some (e.1, savedWord e.1 e.2)
    windows := s.windows
    gates := s.gates
    salvage := s.salvage
    ueLists := s.pccs.filterMap fun e => if e.2.ueList = [] then none else some (e.1, e.2.ueList)
    migs := s.migs
    migReasons := s.migReasons }

/-- Registers that stand while the core is unpowered: the Drone's, the trims in force, and PWR.CFG, whose WAKE_EN and JOINT the
Drone goes by. -/
def keptAsleep (a : Nat) : Bool := isDrone a || (0x8100 ≤ a && a < 0x8300) || a == A.pwrCfg

/-- The wake sources that WAKE_EN enables (R379). -/
def State.wakeEn (s : State) (src : Nat) : Nat := src &&& s.fget F.pwrCfg_WAKE_EN

/-- The alarm holds (R379). -/
def State.alarmHolds (s : State) : Bool := s.flag F.pwrAlarm_EN && s.fget F.pwrAlarm_VALUE ≤ s.fget F.pwrRtc_TICKS

/-- The sources that hold as an exit begins (R381): those given, and the alarm. -/
def State.wakeSources (s : State) (src : Nat) : Nat := src ||| s.wakeEn (if s.alarmHolds then 4 else 0)

/-- Exit from RETAIN begins (Table 13.4, step 1): the core starts at reset; Drone registers stand. -/
def State.wakeBegin (s : State) (src : Nat) : State :=
  { s with power := .waking, drone := { s.drone with waking := s.wakeSources src, held := 0 } }

/-- The SLOWCLK edge of step 7 of Table 13.3, with the real-time counter at `rtc`: R_entry and C_entry are recorded, the core loses its power, the
state is RETAIN. A wake held from the entry follows at once (R380). -/
def State.retainEnd (s : State) (rtc : Nat) : State :=
  let d := { s.drone with rEntry := rtc, cEntry := s.cadence, step := 0, estTicks := 0 }
  let bows := s.bows.map fun e => (e.1, { Bow.init with covered := e.2.covered })
  let s := { (s.coreReset keptAsleep) with drone := d, power := .retain, bows := bows.filter fun e => e.2 != Bow.init }
  let s := s.enterGroup 2
  if d.held = 0 then s else s.wakeBegin d.held

/-- Step 7 of Table 13.3 begins: the pads are latched. -/
def State.padsLatch (s : State) : State :=
  { s.raise F.pwrState_PADS_LATCHED with drone := { s.drone with step := 7, joint := none, sibReady := false } }

/-- Step 6 of Table 13.3, and the wait for the sibling (R392). -/
def State.retainImage (s : State) : State :=
  let s := { s with image := some s.makeImage, drone := { s.drone with cLast := s.cadence, step := 6 } }
  if s.flag F.pwrCfg_JOINT && !s.drone.sibReady then { s with drone := { s.drone with joint := some s.cadence } }
  else s.padsLatch

/-- The core goes to OFF: its registers are at reset, the image is zeroised, the stacks keep nothing (R373, R385). -/
def State.goOff (s : State) : State :=
  { (s.coreReset keptAsleep) with power := .off, image := none, dram := [], fills := [], drone := s.drone.awake }.enterGroup 3

/-- The entry comes to step `n` of Table 13.3. -/
def State.entryStep (s : State) (n : Nat) : State := { s with drone := { s.drone with step := n } }

/-- One step of the entry of Table 13.3, where it can be left. The lines are written back, and the buffers drained of what they still hold, so
that every write that has been answered reaches the stack (DEDUCED, log entry 45). -/
def State.entryNext (s : State) : State :=
  if s.drone.step = 1 then (if s.bowRests then s.flushStreams.entryStep 2 else s)
  else if s.drone.step = 2 then
    if !s.streamsGone then s
    else if s.drone.toOff then s.goOff
    else (s.forEach s.stacks fun s k => s.flushLines k).entryStep 3
  else if s.drone.step = 3 then
    if !s.stacks.all s.stackEmpty then s
    else if !s.stacks.all s.linesClean then s.forEach s.stacks fun s k => s.flushLines k
    else (s.forEach s.stacks fun s k => s.canaryWrite k).entryStep 4
  else if s.drone.step = 4 ∧ s.stacks.all fun k => !s.canaryRuns k && s.stackEmpty k then s.retainImage else s

/-- An entry goes on as far as it gets (Table 13.3). -/
def State.retainProceed (s : State) : State :=
  s.forEach (List.range 5) fun s _ => if s.power != .entering then s else s.entryNext

/-- An entry to RETAIN or OFF begins (Table 13.3, step 1). -/
def State.entryBegin (s : State) (off : Bool) : State :=
  State.retainProceed { s.scrubOff with power := .entering, drone := { s.drone with held := 0, step := 1, toOff := off, locked := none } }

/-- PWR.CMD OP = RETAIN (R374, R377). DESIGN CHOICE, log entry 50. -/
def State.pwrRetain (s : State) : State :=
  let r := s.pwrReason false
  if r = 0 then s.entryBegin false else s.pwrRefuse r

/-- PWR_RETAIN (R377). -/
def execPwrRetain (s : State) : Host.Outcome State Fault Refusal := s.cpDo .pwrRetain fun s => s.pwrRetain

/-- PWR.CMD OP = OFF (R373, R374, R385): steps 1 and 2 of Table 13.3, then OFF. -/
def State.pwrOff (s : State) : State :=
  let r := s.pwrReason false
  if r = 0 then s.entryBegin true else s.pwrRefuse r

/-- PWR_OFF (R373). -/
def execPwrOff (s : State) : Host.Outcome State Fault Refusal := s.cpDo .pwrOff fun s => s.pwrOff

/-- BOW_CHUNK_START (R364); an entry to RETAIN that waits for the Bow engines or for the PCCs is looked at again. -/
def execBowChunkStart (k : Fin 8) (s : State) : Host.Outcome State Fault Refusal :=
  .next (if k.val < s.build.nStacks then (s.bowChunk k.val).retainProceed else s)

/-- DESCRIPTOR_FETCH_RETURN (R128). -/
def execDescriptorFetchReturn (i : BitVec 20) (s : State) : Host.Outcome State Fault Refusal :=
  .next (s.fetchReturn i.toNat).retainProceed

/-- WRITEBACK_DONE (R129). -/
def execWritebackDone (i : BitVec 20) (s : State) : Host.Outcome State Fault Refusal := .next (s.writebackDone i.toNat).retainProceed

/-- MIGRATION_CHUNK_DONE (R279). -/
def execMigrationChunkDone (k : Fin 8) (s : State) : Host.Outcome State Fault Refusal := .next (s.migChunkDone k.val).retainProceed

/-- TALLY_SWEEP_DONE (R423, R425): the sweep goes on as far as its writes are taken. -/
def execTallySweepDone (s : State) : Host.Outcome State Fault Refusal := .next (if s.coreOn then s.sweepGo.retainProceed else s)

/-- SIBLING_READY (R392). -/
def execSiblingReady (s : State) : Host.Outcome State Fault Refusal :=
  .next (if s.build.bridge && s.power = .entering && s.drone.joint.isSome then s.padsLatch
    else if s.build.bridge && s.coreOn then { s with drone := { s.drone with sibReady := true } } else s)

/-- JOINT_TIMEOUT (R392). -/
def execJointTimeout (s : State) : Host.Outcome State Fault Refusal :=
  match s.drone.joint with
  | none => .next s
  | some t =>
    match s.atCadence (t + max 1 (s.fget F.pwrCfg_JOINT_TO) * 1000) with
    | none => .next s
    | some s => .next (s.raise F.pwrWakeStatus_JOINT_ALONE).padsLatch

/-- WAKE_EDGE and the sibling's wake, which count as edges (R379). -/
def edgeWake (src : Nat) : Bool := src == 2 || src == 8

/-- A wake source `src` of Table 13.9 holds (R379, R380): an edge after the pads are latched is lost; leaving OFF is a full reset, whose training meets `env`. -/
def State.wake (s : State) (src : Nat) (env : TrainEnv) : State :=
  if s.wakeEn src = 0 then s
  else match s.power with
    | .quiet => s.quietExit (s.wakeSources src)
    | .entering => if s.drone.step = 7 ∧ edgeWake src then s else { s with drone := { s.drone with held := s.drone.held ||| src } }
    | .retain => s.wakeBegin src
    | .off => if s.drone.supplied then (s.wakeStatus (s.wakeSources src) 3).fullReset 3 env else s
    | _ => s

/-- WAKE_N (R379). -/
def execWakeN (env : TrainEnv) (s : State) : Host.Outcome State Fault Refusal := .next (s.wake 1 env)

/-- WAKE_EDGE (R379). -/
def execWakeEdge (env : TrainEnv) (s : State) : Host.Outcome State Fault Refusal := .next (s.wake 2 env)

/-- DRONE_ALARM (R379). -/
def execDroneAlarm (env : TrainEnv) (s : State) : Host.Outcome State Fault Refusal := .next (if s.alarmHolds then s.wake 4 env else s)

/-- SIBLING_WAKE (R392). -/
def execSiblingWake (env : TrainEnv) (s : State) : Host.Outcome State Fault Refusal := .next (if s.build.bridge then s.wake 8 env else s)

/-- cadence_on_wake() (R388) with R_wake `rtc`: the counter's value and the new remainder. -/
def State.cadenceOnWake (s : State) (rtc : Nat) : Nat × Nat :=
  let ticks := (rtc + 2 ^ 48 - s.drone.rEntry) % 2 ^ 48
  let num := ticks * 1953125 + s.fget F.pwrCadFrac_FRAC
  let c := (s.drone.cEntry + num / 64) % 2 ^ 64
  (if c ≤ s.drone.cLast then s.drone.cLast + 1 else c, num % 64)

/-- The bound of R389 and R390 for an advance of `t` ct and `est` estimated ticks. -/
def uncertainty (t est : Nat) : Nat :=
  ceilDiv (150 * t) 1000000 + (if est = 0 then 0 else ceilDiv (est * 1953125) (64 * 50) + 1000)

/-- The counter is loaded at wake (Table 13.4, step 2; R388–R390). -/
def State.loadCadence (s : State) (rtc : Nat) : State :=
  let c := s.cadenceOnWake rtc
  let est := s.drone.estTicks
  let s := (s.fset F.pwrCadFrac_FRAC c.2).fset F.pwrCadUncert_CT (uncertainty (c.1 - s.drone.cEntry) est)
  let s := (s.raise F.glbCadStatus_LOCKED).raise F.glbCadStatus_CADENCE_ESTIMATED
  { (if est = 0 then s else s.raise F.glbCadStatus_CADENCE_INVALID) with cadence := c.1 }

/-- The image is restored (R384). -/
def State.restoreImage (s : State) (i : Image) : State :=
  let s := { s with
    regs := i.regs.foldl (fun (m : SMap Word) (e : Nat × Word) => if isDrone e.1 then m else SMap.put m (RegFile.reset e.1) e.1 e.2)
      (s.regs.filter fun e => isDrone e.1 || e.1 == A.glbCadStatus)
    windows := i.windows, gates := i.gates, salvage := i.salvage, migs := i.migs, migReasons := i.migReasons, image := none
    pccs := i.ueLists.map fun (e : Nat × List Nat) => (e.1, { Pcc.init with ueList := e.2 }) }
  s.raise F.glbResetStatus_READY

/-- The holds of a migration that was saved are set again (Table 9.4, steps 3 and 6). -/
def State.holdMig (s : State) (k : Nat) : State :=
  match s.mig k with
  | none => s
  | some m =>
    if m.st = .startHold then s.holdIng k .retire m.src
    else if m.st = .swapHold then (s.holdIng k .retire m.src).holdIng k .retire m.dst else s

/-- The stacks stay in self-refresh, every output drained, until they are trained (R383, R248). -/
def State.holdTraining (s : State) : State :=
  s.forEach s.stacks fun s k =>
    let s := (s.holdMig k).holdStack k .train
    s.forEach (List.range 64) fun s p => s.modOut k p fun o => { o with st := .drained, hardAt := s.cadence }

/-- Step 3 of Table 13.4 once the image has passed: RESTORED, PWR_WAKE, the levels that changed (R236, R399), the gate lists as
after a forward jump (R160). DEDUCED, log entry 38. DEDUCED, log entry 48. -/
def State.restore (s : State) (i : Image) : State :=
  let left := s.drone.cEntry
  let src := s.drone.waking
  let s := { (s.restoreImage i) with power := .restored, events := s.events.map fun (e : Event) => ({ e with stamp := s.cadence } : Event) }
  let s := ((s.raise F.pwrState_PADS_LATCHED).wakeStatus src 2).holdTraining
  let s := s.post 0x0414 0 (src + 2 * 2 ^ 4) (s.cadence - left)
  let s := s.reportLevels
  let s := s.forEach (List.range 16) fun s g => s.settleSwap g
  { s with tallyAt := s.cadence, headroom := { s.headroom with sampled := s.cadence / 1024 }
           drone := s.drone.awake }

/-- CADENCE_PLL_LOCK (R37, R382): the counter starts; in WAKING it is loaded at the next tick of the real-time counter (Table 13.4, step 2). -/
def execCadencePllLock (env : TrainEnv) (s : State) : Host.Outcome State Fault Refusal :=
  .next (
    if s.power = .waking then { s with drone := { s.drone with locked := some (s.drone.locked.getD env) } }
    else if s.cpUp then s.raise F.glbCadStatus_LOCKED else s)

/-- Steps 2 and 3 of Table 13.4, with the real-time counter at `rtc`: the cadence counter is loaded and the image restored; where there is none the
wake goes on as a full reset (R384). -/
def State.wakeTick (s : State) (rtc : Nat) (env : TrainEnv) : State :=
  match s.image with
  | some i => (s.loadCadence rtc).restore i
  | none => ((s.wakeStatus s.drone.waking 2).raise F.pwrWakeStatus_RESTORE_FAIL).fullReset 4 env

/-- What an edge of SLOWCLK, or an estimated tick, brings about at the power manager, the real-time counter having stood at `rtc`: step 2 of Table
13.4, and step 7 of Table 13.3 where it has waited for an edge. DEDUCED, log entry 106. -/
def State.slowTick (s : State) (rtc : Nat) (edge : Bool) : State :=
  if s.power = .entering then (if edge then s.retainEnd rtc else s)
  else if s.power = .waking then (match s.drone.locked with | some env => s.wakeTick rtc env | none => s)
  else s

/-- THERMAL_SAMPLE (R396): an advance of the real-time counter. -/
def execThermalSample (diodes : List Conv) (therms : List (BitVec 16)) (ro : BitVec 16) (s : State) :
    Host.Outcome State Fault Refusal :=
  .next (if s.droneOn then
    ((s.sample diodes therms ro.toNat).retainProceed).slowTick (s.fget F.pwrRtc_TICKS)
      (s.drone.step == 7 && (ro != 0 || !s.flag F.pwrRoCal_STOPPED))
    else s)

/-- Every entry of stack `k` is lost. -/
def State.stackLost (s : State) (k : Nat) : Bool := (List.range s.build.N).all fun l => s.fget (F.pcmapEntry_STATE k l) == 3

/-- The physical PCs of stack `k` that the last canary check found differing. -/
def State.mismatches (s : State) (k : Nat) : List Nat := (List.range 64).filter fun p => s.reg (A.bowCanaryMask k p) != 0

/-- The checks after Retain have ended (Table 13.4, step 7, R386). -/
def State.checkingDone (s : State) : State :=
  if s.power = .checking && s.stacks.all fun k => !s.canaryRuns k then
    let s := s.forEach s.stacks fun s k => s.forEach (s.mismatches k) fun s p =>
      s.post 0x030D (unitPc k p) (argPc k p) (s.reg (A.bowCanaryMask k p)).toNat
    let s := s.post 0x0415 0 (maskOf (s.stacks.filter fun k => s.mismatches k != []) + s.trainLost * 2 ^ 8)
      (s.stacks.foldl (fun n k => n + s.fget (F.bowRetainPoisoned_COUNT k)) 0)
    let s := (State.enterGroup { s with power := .active } 0).scrubOn
    let s := s.forEach ((List.range 113).filter fun n => s.flag (F.glbPortCfg_EN n) && !(s.port n).credited) fun s n => s.portOn n
    s.forEach s.stacks fun s k =>
      ((s.fset (F.bowStatus_COPY k) (bit ((s.mig k).any fun m => m.st == .copying))).migProceed k)
  else s

/-- A write of PAD_RELEASE with RELEASE = 1 (R382, R383): the pads are released, the stacks trained, and the canary checks of
those not lost begin. -/
def State.padRelease (s : State) (env : TrainEnv) : State :=
  if s.power != .restored then s.pwrRefuse 1
  else
    let gone := s.stacks.filter s.stackLost
    let s := { s.fset F.pwrState_PADS_LATCHED 0 with power := .checking }
    let s := s.forEach s.stacks fun s k => ((s.settleMult k).trainStack k env).freeStack k .train
    let s := { s with trainLost := maskOf (s.stacks.filter fun k => s.stackLost k && !gone.contains k) }
    let s := s.forEach (s.stacks.filter fun k => !s.stackLost k) fun s k => s.canaryCheck k
    s.checkingDone

/-- PAD_RELEASE (R382). -/
def execPadRelease (env : TrainEnv) (s : State) : Host.Outcome State Fault Refusal :=
  s.cpDo (.padRelease env) fun s => s.padRelease env

/-- CANARY_CHECK_DONE (R367): the check of stack `k` ends; with the last one after Retain the block is ACTIVE (Table 13.4, step 7). -/
def execCanaryCheckDone (k : Fin 8) (s : State) : Host.Outcome State Fault Refusal := .next ((s.canaryDone k.val).getD s).checkingDone

/-- CORE_SUPPLY_LOST (R373, R385): from any state in which the Drone is powered, to OFF. -/
def execCoreSupplyLost (s : State) : Host.Outcome State Fault Refusal :=
  .next (match s.power with
    | .dead => { s with drone := { s.drone with supplied := false } }
    | .off => { s with drone := { s.drone with supplied := false } }
    | _ => State.goOff { s with drone := { s.drone with supplied := false }, ports := [] })

/-- DRONE_SUPPLY_LOST (R373). -/
def execDroneSupplyLost (s : State) : Host.Outcome State Fault Refusal :=
  .next { (s.coreReset fun _ => false) with
    power := .dead, image := none, dram := [], fills := [], levels := [], drone := s.drone.awake }

/-- The Drone at power-on; `supplied` says whether the core has its supply. -/
def Drone.init (supplied : Bool) : Drone := ⟨supplied, 0, 0, 0, 0, 0, 0, 0, 0, false, none, false, none⟩

/-- DRONE_POWER_ON (R373, R385, R394): every register at reset, the image zeroised, OFF. -/
def execDronePowerOn (s : State) : Host.Outcome State Fault Refusal :=
  .next (if s.power = .dead then
    State.enterGroup { (s.coreReset fun _ => false) with power := .off, image := none, drone := Drone.init s.drone.supplied } 3
    else s)

end Sys2Proof.Machine
end

