-- ==== Sys2Proof/Machine/Launch.lean ====
section
/-! DEFINITION. The instructions of a program as words: reserved bits and undefined codes (R294, R295), the operand extents of NMU instructions (R324, R329, R337, R341, R344), and the checks an instruction passes at its
launch (R297, Table 10.6). -/

namespace Sys2Proof.Machine

/-- A trap: its code and arguments (Table 10.8). -/
structure Trap where
  code : Nat
  arg0 : Nat
  arg1 : Nat
deriving DecidableEq, Repr

/-- The bits of [118:0] that Tables 10.4 and 10.5 assign to an opcode: the fields, then the flags; none for an undefined
opcode. -/
def insBits (op : Nat) : Option (List (Nat × Nat)) :=
  let lenFl := [(39, 0), (113, 112)]
  if op = iMove then some ([(111, 104), (114, 114)] ++ lenFl)
  else if op = iFill then some ([(111, 108), (71, 40), (114, 114)] ++ lenFl)
  else if op = iGather || op = iScatter then some ([(111, 94), (114, 114), (117, 116)] ++ lenFl)
  else if op = iRewrite then some ([(111, 108), (114, 114)] ++ lenFl)
  else if op = iUpdate then some ([(111, 61), (115, 115)] ++ lenFl)
  else if op = iReduce then some ([(111, 92), (115, 115)] ++ lenFl)
  else if op = iCast then some ([(111, 93), (115, 115)] ++ lenFl)
  else if op = iCheck then some ([(111, 99), (114, 114)] ++ lenFl)
  else if op = iWaitCadence then some [(111, 110), (63, 0)]
  else if op = iWaitToken then some [(111, 102), (31, 0)]
  else if op = iSignal then some [(111, 102), (31, 0), (118, 118)]
  else if op = iFence then some []
  else if op = iGateSwap then some [(111, 101), (96, 88), (63, 0)]
  else if op = iSetStream then some [(111, 103), (19, 0)]
  else if op = iLoop then some [(111, 96), (39, 0)]
  else if op = iBranch then some [(111, 105), (103, 40), (23, 0)]
  else if op = iEnd then some []
  else if op = iTrap then some [(14, 0)]
  else none

/-- A field code of an NMU instruction that R324, R327, R329, R336, R337 or R341 leaves undefined. -/
def nmuCodesBad (w : Nat) : Bool :=
  let op := insOp w
  if op = iUpdate then
    5 < uOp w || !(1 ≤ uGfmt w && uGfmt w ≤ 9) ||
      (if updHasM (uOp w) then !(1 ≤ uMfmt w && uMfmt w ≤ 5) else uMfmt w != 0) ||
      (if updHasV (uOp w) then !(1 ≤ uVfmt w && uVfmt w ≤ 5) else uVfmt w != 0) ||
      (uPaired w && !(4 ≤ uMfmt w && 4 ≤ uVfmt w))
  else if op = iReduce then
    !(1 ≤ rFmt w && rFmt w ≤ (if rOp w = 3 then 9 else 5)) || 5 < rKind w || (rOp w == 3 && rK w != 1)
  else
    !(1 ≤ cSfmt w && cSfmt w ≤ 9) || !(1 ≤ cDfmt w && cDfmt w ≤ 9) || 5 < cKind w

/-- A bit or a code that R295 does not allow is set. -/
def reservedBad (w : Nat) (l : List (Nat × Nat)) : Bool :=
  let op := insOp w
  (List.range 120).any (fun i => w.testBit i && l.all fun r => !(r.2 ≤ i && i ≤ r.1)) ||
    (hasLen op && flLr w && bitsOf w 39 3 != 0) || (isNmu op && nmuCodesBad w) ||
    ((op == iGather || op == iScatter) && fEsz w == 7) || (op == iCheck && bitsOf w 101 100 == 3) ||
    (op == iLoop && bitsOf w 107 96 == 0) || (op == iBranch && 5 ≤ bitsOf w 108 106)

/-- The length of an instruction (Table 10.5, LR). -/
def insLen (x : Ctx) (w : Nat) : Nat := if flLr w then x.creg (bitsOf w 2 0) else bitsOf w 39 0

/-- An operand extent (Tables 10.7 and 11.5): the register that names it, its base and length, its masks, whether INC
advances the register. -/
structure Ext where
  reg : Nat
  base : Nat
  len : Nat
  masks : List AMask
  inc : Bool
deriving DecidableEq, Repr

/-- Element size E of GATHER and SCATTER. -/
def elemSize (w : Nat) : Nat := 64 * 2 ^ fEsz w

/-- Elements of an NMU instruction (R337, R341, R344). -/
def nmuElems (w len : Nat) : Nat :=
  let op := insOp w
  if op = iUpdate then (if updComp (uOp w) then len / 2 else len / 4)
  else if op = iReduce then len * 8 / fmtBits (rFmt w)
  else len * 8 / fmtBits (cSfmt w)

/-- The operand extents of an instruction whose length is `len`, in table order (Tables 10.7, 11.5, 11.7, R344). -/
def extents (x : Ctx) (w len : Nat) : List Ext :=
  let op := insOp w
  let e := fun (r n : Nat) (m : List AMask) => (⟨r, x.areg r, n, m, true⟩ : Ext)
  let rwn : List AMask := [.read, .write, .nmu]
  let n := nmuElems w len
  if op = iMove then [e (fR2 w) len [.read], e (fR1 w) len [.write]]
  else if op = iFill then [e (fR1 w) len [.write]]
  else if op = iRewrite then [e (fR1 w) len [.read, .write]]
  else if op = iGather then
    [e (fR3 w) (4 * len / elemSize w) [.read], { e (fR2 w) (x.creg (fCb w)) [.read] with inc := false }, e (fR1 w) len [.write]]
  else if op = iScatter then
    [e (fR2 w) len [.read], e (fR3 w) (4 * len / elemSize w) [.read], { e (fR1 w) (x.creg (fCb w)) [.write] with inc := false }]
  else if op = iCheck then
    [e (fR2 w) len [.read], e (fR1 w) 64 (if w.testBit 99 then [.read] else [.write])]
  else if op = iUpdate then
    [e (fR1 w) len rwn] ++ (if updComp (uOp w) then [e (fR2 w) (2 * n) rwn] else []) ++
      (if uPaired w then [e (fR3 w) (2 * n) rwn]
        else (if updHasM (uOp w) then [e (fR3 w) (fmtBytes n (uMfmt w)) rwn] else []) ++
          (if updHasV (uOp w) then [e (uRv w) (fmtBytes n (uVfmt w)) rwn] else [])) ++
      [e (uRg w) (fmtBytes n (uGfmt w)) [.read, .nmu], { e (uRp w) 64 [.read, .nmu] with inc := false }]
  else if op = iReduce then
    if rOp w = 3 then [e (fR1 w) 64 [.write, .nmu], e (fR2 w) (fmtBytes n (rFmt w)) [.read, .nmu]]
    else [e (fR1 w) len (if rOp w = 1 then [.write, .nmu] else rwn), e (fR2 w) (rK w * len) [.read, .nmu]]
  else if op = iCast then
    [e (fR2 w) (fmtBytes n (cSfmt w)) [.read, .nmu], e (fR1 w) (fmtBytes n (cDfmt w)) [.write, .nmu]]
  else if op = iGateSwap then
    let k := bitsOf w 96 88
    [⟨fR1 w, x.areg (fR1 w), 64 * ceilDiv (if k = 0 then 256 else k) 16, [.read], false⟩]
  else []

/-- Steps 1 and 2 of check 5 on a length. -/
def lenTrap (n : Nat) : Option Trap :=
  if n = 0 then some ⟨3, n, 0⟩ else if n % 64 ≠ 0 then some ⟨4, n, 0⟩ else none

/-- The first of two traps. -/
def orTrap (a b : Option Trap) : Option Trap := match a with | some t => some t | none => b

/-- The first trap of a list of checks. -/
def firstTrap (l : List (Option Trap)) : Option Trap := l.foldr orTrap none

/-- A microscaling operand whose element count is no multiple of 2,048 (R328). -/
def mxTrap (w n : Nat) : Option Trap :=
  let op := insOp w
  let bad := fun f => isMx f && n % 2048 != 0
  if op = iUpdate then (if bad (uGfmt w) then some ⟨4, fmtBytes n (uGfmt w), 0⟩ else none)
  else if op = iReduce then (if bad (rFmt w) then some ⟨4, fmtBytes n (rFmt w), 0⟩ else none)
  else if op = iCast then
    (if bad (cSfmt w) then some ⟨4, fmtBytes n (cSfmt w), 0⟩
      else if bad (cDfmt w) then some ⟨4, fmtBytes n (cDfmt w), 0⟩ else none)
  else none

/-- Check 5 of Table 10.6: lengths. -/
def checkLens (x : Ctx) (w len : Nat) : Option Trap :=
  let op := insOp w
  if !hasLen op then none
  else
    let elem := elemSize w
    let cb := x.creg (fCb w)
    let gs := op == iGather || op == iScatter
    firstTrap ([lenTrap len,
      (if gs && (len % elem != 0 || len / elem % 16 != 0) then some ⟨4, len, 0⟩ else none),
      (if gs && cb == 0 then some ⟨3, cb, 0⟩ else none),
      (if gs && cb % elem != 0 then some ⟨4, cb, 0⟩ else none)] ++
      ((extents x w len).map fun e => lenTrap e.len) ++ [mxTrap w (nmuElems w len)])

/-- Check 6: alignment. -/
def checkAlign (x : Ctx) (w len : Nat) : Option Trap :=
  let op := insOp w
  let rb := if op = iGather then fR2 w else fR1 w
  orTrap (firstTrap ((extents x w len).map fun e => if e.base % 64 ≠ 0 then some ⟨5, e.base, 0⟩ else none))
    (if (op == iGather || op == iScatter) && x.areg rb % elemSize w != 0 then some ⟨5, x.areg rb, 0⟩ else none)

/-- Check 7: range (R297): wholly within the instance range, without wrapping past 2^42. -/
def State.checkRange (s : State) (x : Ctx) (w len : Nat) : Option Trap :=
  firstTrap ((extents x w len).map fun e =>
    if s.build.inRange e.base e.len && e.base + e.len ≤ 2 ^ 42 then none else some ⟨6, e.base, e.len⟩)

/-- Two extents have a byte in common. DEDUCED, log entry 54. -/
def overlaps (a b : Ext) : Bool := a.base < b.base + b.len && b.base < a.base + a.len

/-- Check 8: overlap, over the pairs that check names. -/
def checkOverlap (x : Ctx) (w len : Nat) : Option Trap :=
  let op := insOp w
  let pair := fun (a b : Ext) => if overlaps a b then some (⟨7, a.base, b.base⟩ : Trap) else none
  match extents x w len with
  | [a, b] => if op = iMove then pair a b else none
  | [a, b, c] => if op = iGather then orTrap (pair a c) (pair b c) else if op = iScatter then orTrap (pair a c) (pair b c) else none
  | _ => none

/-- Check 10: every atom of every extent granted (R109), reported as R112 names the mask. -/
def State.checkAccess (s : State) (mid : Nat) (l : List Ext) : Option Trap :=
  let g := s.group mid
  firstTrap (l.map fun e => (List.range (e.len / 64)).foldr (fun i t =>
    let a := e.base + 64 * i
    let k := (s.locOf a).stack
    match s.access k a g e.masks with
    | some d => some ⟨9, a, k * 2 ^ 8 + d.mask.code⟩
    | none => t) none)

/-- Check 11: a LOOP that would push a fifth entry, or whose body passes the end of the enclosing body (R313). -/
def checkLoop (x : Ctx) (w : Nat) : Option Trap :=
  if insOp w ≠ iLoop then none
  else
    let n := if w.testBit 108 then x.creg (bitsOf w 111 109) else bitsOf w 39 0
    let fin := x.pc + 16 + 16 * bitsOf w 107 96
    let deep := 4 ≤ x.loops.length
    let out := match x.loops with | [] => false | l :: _ => decide (l.start + 16 * l.body < fin)
    if out || (n ≠ 0 && deep) then some ⟨12, x.loops.length, 0⟩ else none

/-- Check 12: the check unit is held (R307). -/
def State.checkUnit (s : State) (w : Nat) : Option Trap :=
  let u := bitsOf w 103 102
  if insOp w = iCheck && (s.chk u).st != .idle then some ⟨13, u, 0⟩ else none

/-- What a look at a stream's descriptor came to: it has to be waited for, or its fetch failed, or its words. -/
inductive DescOut where
  | wait
  | bad
  | words (d : Atom)
deriving DecidableEq, Repr

/-- The descriptor of stream `i` is asked for: the look waits for its fetch as a request does. -/
def State.lookStart (s : State) (who : Option Nat) (i : Nat) : State :=
  let x := s.addReq (ownReq (.look who) opRead 1 (s.descAddr i) 0 s.cadence 0)
  x.1.miss i (some x.2)

/-- The descriptor of stream `i` as the doorbell, or a context, looks at it: one that is not resident is fetched first (R288). -/
def State.descNow (s : State) (who : Option Nat) (i : Nat) : State × DescOut :=
  match s.ownFind (.look who) with
  | some (id, r) =>
    if r.refused.isSome then (s.dropReq id, .bad)
    else if allDecided r.res then
      match s.entry? i with
      | some (_, e) => if e.resident then (s.dropReq id, .words e.desc) else ((s.dropReq id).lookStart who i, .wait)
      | none => ((s.dropReq id).lookStart who i, .wait)
    else (s, .wait)
  | none => match s.entry? i with
    | some (_, e) => if e.resident then (s, .words e.desc) else (s.lookStart who i, .wait)
    | none => (s.lookStart who i, .wait)

/-- Stream `i` is valid and passes GROUP_CHECK for master `mid` (R124), as context `c` finds it; none while its descriptor is awaited. -/
def State.streamOk (s : State) (c i mid : Nat) : State × Option Bool :=
  match s.descNow (some c) i with
  | (s, .wait) => (s, none)
  | (s, .bad) => (s, some false)
  | (s, .words d) => (s, some (dValid d && dGroupOk d (s.group mid)))

/-- What the checks of a launch came to. -/
inductive Launch where
  | wait
  | trap (t : Trap)
  | ok
deriving DecidableEq, Repr

/-- Checks 1 to 8 of Table 10.6. -/
def State.checksA (s : State) (x : Ctx) (sl : Slot) (w : Nat) : Option Trap :=
  let op := insOp w
  let len := insLen x w
  match insBits op with
  | none => some ⟨1, bitsOf w 127 64, bitsOf w 63 0⟩
  | some l =>
    firstTrap [
      (if reservedBad w l || w.testBit 119 then some ⟨2, bitsOf w 127 64, bitsOf w 63 0⟩ else none),
      (if !sl.priv && (op == iGateSwap || (op == iSetStream && w.testBit 111)) then some ⟨10, 0, 0⟩ else none),
      (if isNmu op && !s.build.nmus then some ⟨11, 0, 0⟩ else none),
      checkLens x w len, checkAlign x w len, s.checkRange x w len, checkOverlap x w len]

/-- Checks 10 to 12 of Table 10.6. -/
def State.checksB (s : State) (x : Ctx) (sl : Slot) (w : Nat) : Launch :=
  match firstTrap [s.checkAccess sl.mid (extents x w (insLen x w)), checkLoop x w, s.checkUnit w] with
  | some t => .trap t
  | none => .ok

/-- The launch checks of Table 10.6 in order, for context `c`. -/
def State.launchChecks (s : State) (c : Nat) (x : Ctx) (sl : Slot) (w : Nat) : State × Launch :=
  match s.checksA x sl w with
  | some t => (s, .trap t)
  | none =>
    if onStream (insOp w) then
      match s.streamOk c x.stream sl.mid with
      | (s, none) => (s, .wait)
      | (s, some false) => (s, .trap ⟨8, x.stream, 0⟩)
      | (s, some true) => (s, s.checksB x sl w)
    else (s, s.checksB x sl w)

end Sys2Proof.Machine
end

