-- ==== Sys2Proof/Machine/Seq.lean ====
section
/-! DEFINITION. Program slots and sequencer contexts (R287–R293), service traffic, the end of a program (R316–R320), waits and
tokens (R308, R309). -/

namespace Sys2Proof.Machine

/-- The address of byte `o` of slot `n` (Table 10.1). -/
def State.slotAddr (s : State) (n o : Nat) : Nat := s.fget F.seqSlotBase_BASE * 4096 + 512 * n + o

/-- A request of the service traffic of the program in slot `n` on context `c` begins: it enters the launch stream, with the slot's label and
the launch master's ID (R287). -/
def State.svcStart (s : State) (o : Own) (n c op a : Nat) (data : Payload) (be : BitVec 256) : State :=
  let sl := s.slot n
  let x := s.addReq { ownReq o op 1 a sl.mid s.cadence be with
    origin := c, stream := sl.stream, label := sl.label, started := 0, data := data }
  x.1.toStream x.2 sl.stream

/-- A write of an atom of service traffic, or of some bytes of it. -/
def State.svcWrite (s : State) (n i c a : Nat) (d : Atom) (be : Option (BitVec 64)) : State :=
  s.svcStart (.prog n i) n c (if be.isSome then opPartial else opWrite) a (d.setWidth 32768) ((be.getD 0).setWidth 256)

/-- How slot `n`'s read or write number `i` stands: the atoms of the slot are 0 to 4, the completion record is 5. -/
def State.progAt (s : State) (n i : Nat) : Option Direct := (s.ownFind (.prog n i)).map fun e => e.2.direct

/-- The reads and writes of slot `n` are forgotten. -/
def State.progDrop (s : State) (n : Nat) : State :=
  { s with reqs := s.reqs.filter fun e => match e.2.src with | .own (.prog m _) => m != n | _ => true }

/-- A slot leaves the queue of every token. -/
def State.leaveTokens (s : State) (n : Nat) : State :=
  { s with waiters := (s.waiters.map fun (e : Nat × List Waiter) => (e.1, e.2.filter fun q => q.slot != n)).filter fun e => e.2 != [] }

/-- A program ends: its slot goes to FINISHING, the check unit its context holds is released (R316). -/
def State.finish (s : State) (n : Nat) (e : Ending) : State :=
  let sl := s.slot n
  let s := { (s.leaveTokens n) with launchQ := s.launchQ.filter (· != n) }
  let s := match sl.ctx with
    | none => s
    | some c =>
      let s := s.forEach (List.range 4) fun s u =>
        if (s.chk u).st = ChkSt.heldSeq c then (s.setChk u Chk.init).chkOwner u 0 0 else s
      (s.ownDrop (.look (some c))).modCtx c fun x => { x with wait := none, cur := none, asyncTrap := none }
  s.modSlot n fun sl => { sl with st := .finishing, fin := some e }

/-- The instruction in progress of context `c`, or the next to launch, traps (R316). -/
def State.trapNow (s : State) (c : Nat) (t : Trap) : State :=
  match s.ctx? c with
  | none => s
  | some x => s.finish x.slot ⟨true, t.code, t.arg0, t.arg1, x.pc, true⟩

/-- The PC that a slot without a context holds (R316, step 3). -/
def Slot.heldPc (sl : Slot) : Nat := if sl.saved then sl.pc else sl.code

/-- Word `i` of a list of atoms. -/
def wordOf (l : List Atom) (i : Nat) : Nat := (l.getD (i / 8) 0).toNat / 2 ^ (64 * (i % 8)) % 2 ^ 64

/-- The context that words 0 to 39 of a slot give (R291); `first` at the first load of a launch. -/
def loadCtx (n : Nat) (sl : Slot) (first : Bool) (l : List Atom) (now : Nat) : Ctx :=
  let loops := if first then [] else (List.range 4).filterMap fun e =>
    if (wordOf l (32 + 2 * e)).testBit 63 then
      some (⟨wordOf l (32 + 2 * e) % 2 ^ 42, bitsOf (wordOf l (33 + 2 * e)) 51 40, wordOf l (33 + 2 * e) % 2 ^ 40⟩ : LoopEnt)
    else none
  { slot := n
    pc := if first then sl.code else wordOf l 4 % 2 ^ 42
    tb := if first then sl.tb0 else wordOf l 5
    stream := if first then sl.stream else wordOf l 6 % 2 ^ 20
    a := (List.range 16).map fun i => wordOf l (8 + i) % 2 ^ 42
    c := (List.range 8).map fun i => wordOf l (24 + i) % 2 ^ 40
    loops := loops.reverse, fetch := none, wait := none, waitAt := 0, runAt := now, cur := none, asyncTrap := none }

/-- A doorbell's result, which LAUNCH_STATUS takes with the slot (R288). DEDUCED, log entry 52. -/
def State.launchResult (s : State) (n r : Nat) : State := (s.fset F.seqLaunchStatus_SLOT n).fset F.seqLaunchStatus_RESULT r

/-- A launch is accepted (R289). -/
def State.launchAccept (s : State) (n w : Nat) (d desc : Atom) : State :=
  let seq := s.fget F.seqLaunchStatus_SEQNUM + 1
  let s := ((s.launchResult n 0).fset F.seqLaunchStatus_SEQNUM seq).count F.seqLaunches_COUNT 1
  let s := s.setSlot n { Slot.init with
    st := .queued, mid := bitsOf w 27 16, priv := w.testBit 32, pin := w.testBit 33, event := w.testBit 34, launch := s.cadence
    seqnum := seq % 2 ^ 32, code := dField d 0 41 0, tb0 := dWord d 3, stream := dField d 1 63 44, label := dField d 1 43 38
    done := dField d 2 41 0, cls := dClass desc, pg := dPgroup desc }
  { s with launchQ := s.launchQ ++ [n] }

/-- Checks 4 to 6 of Table 10.2 on words 0 to 3 (R288). -/
def State.launchWords (s : State) (d : Atom) : Option Nat :=
  let isa := dField d 0 63 60
  let code := dField d 0 41 0
  let fin := dField d 2 41 0
  if isa = 0 || 3 < isa then some 2
  else if code % 16 ≠ 0 || !s.build.inRange code 16 || dField d 0 59 42 ≠ 0 then some 4
  else if fin % 64 ≠ 0 || !s.build.inRange fin 64 then some 5
  else none

/-- The checks of Table 10.2 in order, on what has been read: words 0 to 3, where they could be, and the launch stream's descriptor. -/
def State.launchChecked (s : State) (w : Nat) (d : Option Atom) (desc : Option Atom) : State :=
  let n := bitsOf w 11 0
  if !s.flag F.seqCfg_EN then s.launchResult n 6
  else if (s.slot n).st != .free then s.launchResult n 1
  else match d with
    | none => s.launchResult n 3
    | some d => match s.launchWords d, desc with
      | some r, _ => s.launchResult n r
      | none, none => s.launchResult n 7
      | none, some desc =>
        if dValid desc && dGroupOk desc (s.group (bitsOf w 27 16)) then s.launchAccept n w d desc else s.launchResult n 7

/-- A write of SEQ.DOORBELL (R288): words 0 to 3 are read, unless the slot lies out of range; then the launch stream's descriptor is fetched
where it is not resident; then come the checks. With it whether the write is answered. -/
def State.doorbell (s : State) (w : Nat) : State × Bool :=
  let a := s.slotAddr (bitsOf w 11 0) 0
  if !s.build.inRange a 512 then (s.launchChecked w none none, true)
  else match s.ownFind (.bell 0) with
    | none => (s.ownStart (.bell 0) (serviceAccess 7) .read a 1 [] [] [], false)
    | some e => match e.2.direct with
      | .blocked => (s, false)
      | .data d false =>
        match s.descNow none (dField d 1 63 44) with
        | (s, .wait) => (s, false)
        | (s, .bad) => ((s.dropReq e.1).launchChecked w (some d) none, true)
        | (s, .words desc) => ((s.dropReq e.1).launchChecked w (some d) (some desc), true)
      | _ => ((s.dropReq e.1).launchChecked w none none, true)

/-- The doorbell `c`, whose value is `w`, is answered after its checks, and the commands behind it wait (R88, R288). In QUIET it first causes
the exit (R376). While READY is 0 the write changes nothing (R435). -/
def State.ring (s : State) (c : Instr) (w : Nat) : State :=
  if !s.flag F.glbResetStatus_READY then s
  else
    let r := s.started.doorbell w
    if r.2 then r.1 else { r.1 with cpWaiting := r.1.cpWaiting ++ [c] }

/-- DOORBELL (R288). -/
def execDoorbell (value : Word) (s : State) : Host.Outcome State Fault Refusal :=
  s.cpDo (.doorbell value) fun s => s.ring (.doorbell value) value.toNat

/-- The lowest free context. -/
def State.freeCtx (s : State) : Option Nat := (List.range 256).find? fun c => (s.ctx? c).isNone

/-- A context that holds nothing yet. -/
def blankCtx (n : Nat) : Ctx := ⟨n, 0, 0, 0, [], [], [], none, none, 0, 0, none, none⟩

/-- The atoms of a slot that a load reads: words 8 to 31, or words 4 to 39 after a save (R291). -/
def Slot.loads (sl : Slot) : List Nat := if sl.saved then [0, 1, 2, 3, 4] else [1, 2, 3]

/-- The state of slot `n` has been read (R291): the context runs, or traps with SWAP_IN_ERROR at the lowest atom that did not decode, what
that atom would have given being open (DESIGN CHOICE, log entry 2). An abort that waited is taken first (Table 10.10). -/
def State.loaded (s : State) (n c : Nat) (l : List (Nat × Option Direct)) : State :=
  let sl := s.slot n
  let good := fun (e : Nat × Option Direct) => match e.2 with | some (.data d false) => some d | _ => none
  let free := Config.freeAtom s.free
  let atoms := (List.range 5).map fun i => match l.find? fun e => e.1 == i with
    | some e => (good e).getD free
    | none => 0
  let x := loadCtx n sl (!sl.saved) atoms s.cadence
  let bad := l.find? fun e => (good e).isNone
  let x := if bad.isSome then { x with pc := sl.heldPc } else x
  let s := ((if bad.isSome then s.freed else s).setCtx c (some x)).progDrop n
  if sl.abort then s.finish n ⟨true, 0x1A, 0, 0, x.pc, true⟩
  else match bad with
    | some e => s.finish n ⟨true, 0x19, s.slotAddr n (64 * e.1), 0, x.pc, true⟩
    | none =>
      let s := s.modSlot n fun sl => { sl with st := .running }
      if sl.tokWait then (s.modSlot n fun sl => { sl with tokWait := false }).modCtx c Ctx.advance
      else s

/-- A slot in LOADING whose reads have all been answered, and its context. -/
def State.loadReady (s : State) : Option (Nat × Nat) :=
  s.slots.findSome? fun e =>
    if e.2.st == .loading && !e.2.wedged && e.2.loads.all fun i => (s.progAt e.1 i).any (· != .blocked) then e.2.ctx.map (e.1, ·)
    else none

/-- The head of the launch queue takes a free context and goes to LOADING: its slot is read (Table 10.3, R291). -/
def State.loadStart (s : State) (n c : Nat) (q : List Nat) : State :=
  let s := { (s.modSlot n fun sl => { sl with st := .loading, ctx := some c }) with launchQ := q }
  (s.setCtx c (some (blankCtx n))).forEach (s.slot n).loads fun s i =>
    s.svcStart (.prog n i) n c opRead (s.slotAddr n (64 * i)) 0 0

/-- SLOT_LOAD (R291): a load whose reads have come ends, or the next begins. -/
def State.slotLoad (s : State) : State :=
  match s.loadReady with
  | some (n, c) => s.loaded n c ((s.slot n).loads.map fun i => (i, s.progAt n i))
  | none => match s.launchQ, s.freeCtx with
    | n :: q, some c => s.loadStart n c q
    | _, _ => s

def execSlotLoad (s : State) : Host.Outcome State Fault Refusal := .next s.slotLoad

/-- Requests of context `c` that are recorded. -/
def State.ctxReqs (s : State) (c : Nat) : List (Nat × Req) := s.reqs.filter fun e => e.2.src == .ctx c

/-- Everything of a request has its outcome. -/
def Req.decided (r : Req) : Bool := r.refused.isSome || allDecided r.res

/-- The trap that a failed request of a context causes (R303). -/
def Req.failure (r : Req) : Option Trap :=
  if !r.decided then none
  else if r.refused.isSome then some ⟨8, r.stream, 0⟩
  else if r.status = stDenied then some ⟨0x10, r.addr, 0⟩
  else if r.status = stLost then some ⟨0x11, r.addr, 0⟩
  else if r.status = stTimeout then some ⟨0x12, r.addr, 0⟩
  else none

/-- Requests of a context that are outstanding (R298). -/
def State.ctxOpen (s : State) (c : Nat) : Nat := ((s.ctxReqs c).filter fun e => !e.2.decided).length

/-- NMU instructions of a context that are outstanding. -/
def State.ctxJobs (s : State) (c : Nat) : List (Nat × Job) := s.jobs.filter fun e => e.2.ctx == c

/-- A write of an NMU instruction of context `c`, or an instruction fetch of it, is under way. -/
def Req.pendsFor (r : Req) (c : Nat) : Bool :=
  match r.src with
  | .own (.nmuWrite _ _ _) | .own (.code _) => r.origin == c && r.direct == .blocked
  | _ => false

/-- What a fence of context `c` waits for has come about (R310); a LOAD it has asked for counts too (R316, step 1), and so does an instruction
fetch (R293). -/
def State.fenceDone (s : State) (c : Nat) : Bool :=
  s.ctxOpen c == 0 && (s.ctxJobs c).isEmpty && !(s.scmds.any fun m => m.ctx == some c) && !s.reqs.any fun e => e.2.pendsFor c

/-- The atoms of a request that R302 counts: written poisoned, or left unwritten by REWRITE. -/
def Req.counted (r : Req) : List Nat :=
  (List.range r.atoms).filter fun i =>
    let st := (r.res.getD i (.of .ok)).st
    if r.op = opRewrite then st == .poison else r.op == opWrite && st == .ok && r.wpoison.getLsbD i

/-- A completed write of a program is counted in its slot (R302) and its record dropped. -/
def State.countWrite (s : State) (n : Nat) (e : Nat × Req) : State :=
  let l := e.2.counted
  (s.modSlot n fun sl => { sl with
    copied := sl.copied + (if e.2.op = opRewrite then 0 else l.length)
    unwritten := sl.unwritten + (if e.2.op = opRewrite then l.length else 0)
    firstPoison := match sl.firstPoison with
      | some a => some a
      | none => l.head?.map fun i => e.2.addr + 64 * i }).dropReq e.1

/-- Words 4 to 39 of a slot as a context saves them. Word 7 and the fields of entries that are not VALID are open (log
entry 2). -/
def Ctx.savedWords (x : Ctx) (f g : Atom) : List Nat :=
  let loops := x.loops.reverse
  let fw := fun (i : Nat) => f.toNat / 2 ^ (64 * i) % 2 ^ 64
  [x.pc, x.tb % 2 ^ 64, x.stream, g.toNat % 2 ^ 64] ++ (List.range 16).map x.areg ++ (List.range 8).map x.creg ++
    (List.range 4).flatMap fun e => match loops[e]? with
      | some l => [2 ^ 63 + l.start % 2 ^ 42, l.body * 2 ^ 40 + l.remaining % 2 ^ 40]
      | none => [fw (2 * e) % 2 ^ 42, fw (2 * e + 1) % 2 ^ 52]

/-- Eight words as an atom. -/
def atomOf (l : List Nat) : Atom := BitVec.ofNat 512 (l.foldr (fun w n => w + 2 ^ 64 * n) 0)

/-- The writes of words 4 to 39 of slot `n` begin (R293, R316, step 3). -/
def State.saveWords (s : State) (n c : Nat) (x : Ctx) : State :=
  let l := x.savedWords (Config.freeAtom s.free) (Config.freeAtom (s.free + 1))
  s.freed.freed.forEach (List.range 5) fun s i =>
    s.svcWrite n i c (s.slotAddr n (64 * i)) (if i = 0 then atomOf ([0, 0, 0, 0] ++ l.take 4) else atomOf ((l.drop (8 * i - 4)).take 8))
      (if i = 0 then some 0xFFFFFFFF00000000 else none)

/-- The program in slot `n` waits on a token. -/
def State.onToken (s : State) (n : Nat) : Bool := s.waiters.any fun e => e.2.any fun q => q.slot == n

/-- A context may be swapped out (R292): it has waited on a token, or run for its quantum and stands between two
instructions; the cadence value at which that is so. -/
def State.swapAt (s : State) (x : Ctx) (sl : Slot) : Option Nat :=
  if s.launchQ = [] || sl.pin then none
  else match sl.st, x.wait with
    | .waiting, some (.token _) =>
      let w := s.fget F.seqCfg_SWAP_WAIT
      if w = 0 then none else some (x.waitAt + w * 1024)
    | .running, _ =>
      let q := s.fget F.seqCfg_QUANTUM
      if q = 0 || x.cur.isSome || x.asyncTrap.isSome then none else some (x.runAt + q * 1024)
    | _, _ => none

/-- SWAP_OUT (R292). -/
def State.swapOut (s : State) (c : Nat) : State :=
  match s.ctx? c with
  | none => s
  | some x =>
    let sl := s.slot x.slot
    match (s.swapAt x sl).bind s.atCadence with
    | none => s
    | some s => s.modSlot x.slot fun y => { y with st := .saving, tokWait := y.st == .waiting }

def execSwapOut (c : Fin 256) (s : State) : Host.Outcome State Fault Refusal := .next (s.swapOut c.val)

/-- A program whose words 4 to 39 are written gives up its context (Table 10.3): an abort or a trap of an ASYNC instruction that
waited ends it; one saved from an unsatisfied WAIT_TOKEN is SWAPPED, any other goes to the tail of the queue.
DEDUCED, log entry 53. -/
def State.saved (s : State) (n c : Nat) (x : Ctx) : State :=
  let sl := s.slot n
  let s := (s.count F.seqSwaps_COUNT 1).progDrop n
  let gone := fun (s : State) =>
    ((s.ownDrop (.code n)).setCtx c none).modSlot n fun y => { y with ctx := none, saved := true, pc := x.pc }
  if sl.abort then (gone s).finish n ⟨true, 0x1A, 0, 0, x.pc, false⟩
  else match x.asyncTrap with
    | some e => s.finish n e
    | none =>
      if sl.tokWait && s.onToken n then (gone s).modSlot n fun y => { y with st := .swapped }
      else { ((gone s).modSlot n fun y => { y with st := .queued }) with launchQ := s.launchQ ++ [n] }

/-- SAVE_DONE (R293): it waits as a FENCE does, then words 4 to 39 are written; with the last of them at its visibility point the save is
done. -/
def State.saveDone (s : State) (c : Nat) : State :=
  match s.ctx? c with
  | none => s
  | some x =>
    let l := (List.range 5).map (s.progAt x.slot)
    if (s.slot x.slot).st != .saving then s
    else if l.all (·.isNone) then (if s.fenceDone c then s.saveWords x.slot c x else s)
    else if l.all (· == some .done) then s.saved x.slot c x else s

def execSaveDone (c : Fin 256) (s : State) : Host.Outcome State Fault Refusal := .next (s.saveDone c.val)

/-- A write of SLOT_BASE (Table 10.12). -/
def State.slotBaseWrite (s : State) (w : Word) : State :=
  if s.slots.all fun e => e.2.st == .free then s.putRw A.seqSlotBase w else s.raise F.seqStatus_BASE_REFUSED

/-- SLOT_BASE_WRITE (R322). -/
def execSlotBaseWrite (value : Word) (s : State) : Host.Outcome State Fault Refusal :=
  s.cpDo (.slotBaseWrite value) fun s => s.slotBaseWrite value

/-- A token's waiters. -/
def State.tokenQ (s : State) (t : Nat) : List Waiter := SMap.get s.waiters [] t
def State.setTokenQ (s : State) (t : Nat) (l : List Waiter) : State := { s with waiters := SMap.put s.waiters [] t l }

/-- The wait of the program in slot `n` is satisfied (Table 10.3). -/
def State.tokenPass (s : State) (n : Nat) : State :=
  let sl := s.slot n
  match sl.st with
  | .waiting =>
    let s := s.modSlot n fun y => { y with st := .running }
    match sl.ctx with
    | some c => s.modCtx c fun x => ({ x with wait := none } : Ctx).advance
    | none => s
  | .swapped => { (s.modSlot n fun y => { y with st := .queued }) with launchQ := s.launchQ ++ [n] }
  | _ => s

/-- The waiters of token `t` are served in order (R309). -/
def State.serveToken : Nat → Nat → State → State
  | 0, _, s => s
  | k + 1, t, s =>
    match s.tokenQ t with
    | [] => s
    | q :: l =>
      let v := s.fget (F.seqToken_VALUE t)
      if q.n ≤ v then State.serveToken k t (((s.fset (F.seqToken_VALUE t) (v - q.n)).setTokenQ t l).tokenPass q.slot)
      else s

/-- The token takes a value, and its waiters are served. -/
def State.setToken (s : State) (t v : Nat) : State :=
  State.serveToken (s.tokenQ t).length t (s.fset (F.seqToken_VALUE t) v)

/-- TOKEN_WRITE (R309). -/
def execTokenWrite (t : Fin 1024) (v : BitVec 32) (s : State) : Host.Outcome State Fault Refusal :=
  s.cpDo (.tokenWrite t v) fun s => s.setToken t.val v.toNat

/-- What is left of the requests of a finishing program completes (R316, step 1): their counts are taken, their records dropped. -/
def State.reapReqs (s : State) (n c : Nat) : State :=
  s.forEach ((s.ctxReqs c).filter fun e => e.2.decided) fun s e =>
    if e.2.origin = 1 then s.countWrite n e else s.dropReq e.1

/-- The completion record (Table 10.9). -/
def State.completion (s : State) (n : Nat) (sl : Slot) (e : Ending) : Atom :=
  atomOf [2 ^ 63 + bit e.trapped * 2 ^ 48 + e.code * 2 ^ 32 + n, (s.cadence - sl.launch) % 2 ^ 64, e.pc % 2 ^ 42,
    sl.copied % 2 ^ 32 * 2 ^ 32 + sl.unwritten % 2 ^ 32,
    (match sl.firstPoison with | some a => 2 ^ 63 + a % 2 ^ 42 | none => 0),
    e.arg0 % 2 ^ 64, e.arg1 % 2 ^ 64, sl.seqnum]

/-- The program's record is visible (R316, step 5): its event, its count, and the slot is FREE. -/
def State.slotFree (s : State) (n : Nat) (sl : Slot) (e : Ending) : State :=
  let s := if e.trapped then
      (s.count F.seqTraps_COUNT 1).post 0x040D n (n + e.code * 2 ^ 16) (e.pc % 2 ^ 42)
    else
      let s := s.count F.seqDone_COUNT 1
      if sl.event then s.post 0x040C n n sl.seqnum else s
  let s := match sl.ctx with | some c => s.setCtx c none | none => s
  (s.ownDrop (.code n)).setSlot n Slot.init

/-- Step 4 of R316: the completion record is issued. -/
def State.completionWrite (s : State) (n : Nat) (sl : Slot) (e : Ending) : State :=
  s.svcWrite n 5 (sl.ctx.getD 0) sl.done (s.completion n sl e) none

/-- Steps 3 to 5 of R316. A state or record write that is lost or times out never comes to its visibility point: the slot stays as it is,
wedged (R319). DEDUCED, log entry 74. -/
def State.finishWrites (s : State) (n : Nat) (sl : Slot) (e : Ending) : State :=
  match s.progAt n 5 with
  | some r => if r = .done then (s.progDrop n).slotFree n sl e else s
  | none =>
    let l := (List.range 5).filterMap (s.progAt n)
    match l, sl.ctx.bind s.ctx?, e.words with
    | [], some x, true => s.saveWords n (sl.ctx.getD 0) { x with pc := e.pc }
    | _, _, _ => if l.all fun r => if e.words then r == .done else r != .blocked then (s.progDrop n).completionWrite n sl e else s

/-- SLOT_FINISHED (R316). -/
def State.slotFinished (s : State) (n : Nat) : State :=
  if (s.slot n).st != .finishing || (s.slot n).wedged then s
  else
    let s := match (s.slot n).ctx with | some c => s.reapReqs n c | none => s
    let sl := s.slot n
    let quiet := match sl.ctx with | some c => s.fenceDone c | none => true
    match sl.fin with
    | some e => if quiet then s.finishWrites n sl e else s
    | none => s

def execSlotFinished (n : Fin 4096) (s : State) : Host.Outcome State Fault Refusal := .next (s.slotFinished n.val)

/-- A write of SEQ.ABORT with GO = 1 (R319). -/
def State.seqAbort (s : State) (n : Nat) : State :=
  let sl := s.slot n
  if sl.wedged then s
  else match sl.st with
    | .running | .waiting =>
      match sl.ctx.bind s.ctx? with
      | some x => s.finish n ⟨true, 0x1A, 0, 0, x.pc, true⟩
      | none => s
    | .loading | .saving => s.modSlot n fun y => { y with abort := true }
    | .queued | .swapped => s.finish n ⟨true, 0x1A, 0, 0, sl.heldPc, false⟩
    | _ => s

/-- SEQ_ABORT (R319). -/
def execSeqAbort (n : Fin 4096) (s : State) : Host.Outcome State Fault Refusal :=
  s.cpDo (.seqAbort n) fun s => s.seqAbort n.val

/-- CONTEXT_PARITY_ERROR (R320): the program traps with PARITY in place of whatever else ends it (Table 10.10), unless its completion record
has been issued (DESIGN CHOICE, log entry 103); words 4 to 39 are not written, and the record's PC is the one the slot's entry holds. -/
def State.contextParity (s : State) (c : Nat) : State :=
  match s.ctx? c with
  | none => s
  | some x =>
    let sl := s.slot x.slot
    if sl.wedged || (s.progAt x.slot 5).isSome then s else s.finish x.slot ⟨true, 0x18, 0, 0, sl.heldPc, false⟩

def execContextParityError (c : Fin 256) (s : State) : Host.Outcome State Fault Refusal := .next (s.contextParity c.val)

/-- SLOT_ENTRY_PARITY_ERROR (R320): the slot is left wedged, in FINISHING until a full reset (R319). -/
def State.slotParity (s : State) (n : Nat) : State :=
  (s.finish n ⟨true, 0x18, 0, 0, 0, false⟩).modSlot n fun sl => { sl with wedged := true }

def execSlotEntryParityError (n : Fin 4096) (s : State) : Host.Outcome State Fault Refusal := .next (s.slotParity n.val)

end Sys2Proof.Machine
end

