-- ==== Sys2Proof/Machine/SeqData.lean ====
section
/-! DEFINITION. A context's step from one instruction to the next (R296, R297) and the data instructions (R298–R304): the requests
of an extent, the index list, the poison that is carried on, the hints that run ahead; CHECK (R307) and GATE_SWAP (R311), which
move data too. A data instruction progresses by repeating its command: each takes what has been answered and issues up to 64
requests (DESIGN CHOICE, log entry 12). -/

namespace Sys2Proof.Machine

/-- The atom that holds the PC, fetched where the buffer does not hold it (R296); none where the fetch waits or traps. -/
def State.fetchIns (s : State) (c : Nat) (x : Ctx) : State × Option Atom :=
  let a := x.pc / 64 * 64
  match x.fetch.filter fun e => e.1 == a with
  | some e => (s, some e.2)
  | none =>
    if !s.build.inRange x.pc 16 then (s.trapNow c ⟨0x0E, x.pc, 0⟩, none)
    else match s.ownGo (.code x.slot) fun s => s.svcStart (.code x.slot) x.slot c opRead a 0 0 with
      | (s, .data d false) => (s.modCtx c fun y => { y with fetch := some (a, d) }, some d)
      | (s, .data _ true) => (s.trapNow c ⟨0x0F, x.pc, 0⟩, none)
      | (s, .denied) => (s.trapNow c ⟨0x0E, x.pc, 0⟩, none)
      | (s, .lost) => (s.trapNow c ⟨0x11, x.pc, 0⟩, none)
      | (s, _) => (s, none)

/-- A CHECK that finds its unit held by the control port or a scan leaves LAST 1 there (Table 12.1). -/
def State.noteBusy (s : State) (t : Trap) : State :=
  if t.code ≠ 13 then s
  else match (s.chk t.arg0).st with
    | .heldSeq _ => s
    | _ => s.chkLast t.arg0 1

/-- Fetch the next instruction of context `c` and, where `want` takes it, launch it. An opcode that is not defined is nobody's and
traps at once. -/
def State.fetchLaunch (s : State) (c : Nat) (x : Ctx) (want : Nat → Bool) : State × Option Nat :=
  match s.fetchIns c x with
  | (s, none) => (s, none)
  | (s, some d) =>
    let w := insAt d x.pc
    if (insBits (insOp w)).isNone then (s.trapNow c ⟨1, bitsOf w 127 64, bitsOf w 63 0⟩, none)
    else if !want w then (s, none)
    else match s.launchChecks c x (s.slot x.slot) w with
      | (s, .wait) => (s, none)
      | (s, .trap t) => ((s.noteBusy t).trapNow c t, none)
      | (s, .ok) => (s, some w)

/-- Context `c` may launch: it runs, nothing is in progress. A trap of an ASYNC instruction is taken first (R306). -/
def State.launch (s : State) (c : Nat) (want : Nat → Bool) : State × Option (Ctx × Nat) :=
  match s.ctx? c with
  | none => (s, none)
  | some x =>
    let sl := s.slot x.slot
    if sl.st != .running || sl.wedged || x.cur.isSome || x.wait.isSome then (s, none)
    else match x.asyncTrap with
      | some e => (s.finish x.slot e, none)
      | none =>
        match s.fetchLaunch c x want with
        | (s, none) => (s, none)
        | (s, some w) => match s.ctx? c with
          | some x => (s, some (x, w))
          | none => (s, none)

/-- A control instruction: launched, it acts. -/
def State.control (s : State) (c : Nat) (want : Nat → Bool) (act : State → Ctx → Nat → State) : State :=
  match s.launch c want with
  | (s, some (x, w)) => act s x w
  | (s, none) => s

/-- INC (R297): each register that names an extent is advanced once, by the longest of its extents. -/
def Ctx.incAll (x : Ctx) (w : Nat) : Ctx :=
  let l := (extents x w (insLen x w)).filter (·.inc)
  if flInc w then
    (List.range 16).foldl (fun y i =>
      let n := (l.filter fun e => e.reg == i).foldl (fun m e => max m e.len) 0
      if n = 0 then y else y.setA i (x.areg i + n)) x
  else x

/-- The instruction in progress has completed. -/
def Ctx.complete (x : Ctx) (w : Nat) : Ctx := (x.incAll w).advance

/-- Bytes that a data instruction moves. -/
def dataLen (x : Ctx) (w : Nat) : Nat :=
  if insOp w = iGateSwap then (extents x w 0).foldl (fun m e => m + e.len) 0 else insLen x w

/-- The instruction goes by elements. -/
def byElem (w : Nat) : Bool := insOp w == iGather || insOp w == iScatter

/-- Atoms of an element. -/
def elemAtoms (w : Nat) : Nat := 2 ^ fEsz w

/-- Index x_j, once its atom has been read (R300). -/
def Cur.index (k : Cur) (j : Nat) : Option Nat :=
  (k.idx.find? fun e => e.1 == j / 16).map fun e => e.2.toNat / 2 ^ (32 * (j % 16)) % 2 ^ 32

/-- Address of atom `i` of an element list at base register value `b`: none while its index is not known or out of bound. -/
def elemAddr (x : Ctx) (k : Cur) (w b i : Nat) : Option Nat :=
  match k.index (i / elemAtoms w) with
  | none => none
  | some v => if elemSize w * v < x.creg (fCb w) then some (b + elemSize w * v + 64 * (i % elemAtoms w)) else none

/-- The address that atom `i` of a data instruction is read at. -/
def readAddr (x : Ctx) (k : Cur) (w i : Nat) : Option Nat :=
  let op := insOp w
  if op = iMove ∨ op = iScatter ∨ op = iCheck then some (x.areg (fR2 w) + 64 * i)
  else if op = iGather then elemAddr x k w (x.areg (fR2 w)) i
  else if op = iGateSwap then some (x.areg (fR1 w) + 64 * i)
  else none

/-- The address that atom `i` of a data instruction is written at. -/
def writeAddr (x : Ctx) (k : Cur) (w i : Nat) : Option Nat :=
  let op := insOp w
  if op = iMove ∨ op = iFill ∨ op = iRewrite ∨ op = iGather then some (x.areg (fR1 w) + 64 * i)
  else if op = iScatter then elemAddr x k w (x.areg (fR1 w)) i
  else none

/-- The instruction reads data, writes data. -/
def dataReads (w : Nat) : Bool := !(insOp w == iFill || insOp w == iRewrite)
def dataWrites (w : Nat) : Bool := !(insOp w == iCheck || insOp w == iGateSwap)

/-- The size code split() takes at address `a` with `run` bytes to go (R298). -/
def splitCode (a run : Nat) : Nat :=
  ((List.range 7).filter fun n => 64 * 2 ^ n ≤ run && a % (64 * 2 ^ n) == 0).foldl max 0

/-- Bytes from atom `i` on that one extent, or one element, still has. -/
def runLen (w len i : Nat) : Nat := if byElem w then elemSize w - 64 * (i % elemAtoms w) else len - 64 * i

/-- Roles of a context's requests, kept in the request's origin: a data read, a write, an index read, the compare of CHECK. -/
def roleRead : Nat := 0
def roleWrite : Nat := 1
def roleIndex : Nat := 2
def roleCompare : Nat := 3

/-- Issue a request of context `c` (R298). `tag` is the instruction's first atom that it carries. -/
def State.ctxIssue (s : State) (c : Nat) (x : Ctx) (role op a n tag : Nat) (data : Payload) (wpoison : BitVec 64)
    (sorted batch : Bool) : State :=
  let sl := s.slot x.slot
  let r : Req :=
    { src := .ctx c, origin := role, op := op, atoms := 2 ^ n, addr := a, mid := sl.mid, stream := x.stream, label := sl.label
      tag := tag, page := 0, order := false, colour := 0, arrival := s.cadence, red := 0, data := data, be := 0
      wpoison := wpoison, res := List.replicate (2 ^ n) ⟨.waiting, false, 0⟩, refused := none, started := 0, deferred := none
      forwarded := false, sorted := sorted, batch := batch, flits := 0, lastSent := false, fenceDone := false, probe := 0
      entered := 0 }
  let r := s.addReq r
  r.1.toStream r.2 x.stream

/-- A context may issue a request: fewer than 64 outstanding, its label not over share (R298, R165). -/
def State.mayIssue (s : State) (c : Nat) (x : Ctx) : Bool := s.ctxOpen c < 64 && !s.overShare (s.slot x.slot).label

/-- A request of the instruction in progress has failed (R303). -/
def State.ctxFailed (s : State) (c : Nat) : Option Trap := (s.ctxReqs c).findSome? fun e => e.2.failure

/-- The data read by an answered request, by atom of the instruction. -/
def Req.readAtoms (r : Req) : List (Nat × Atom × Bool) :=
  (List.range r.atoms).map fun i =>
    let a := r.res.getD i (.of .ok)
    (r.tag + i, a.data, a.st == .poison)

/-- The index atoms of an answered request that are not poisoned. -/
def Req.indexAtoms (r : Req) : List (Nat × Atom) := (r.readAtoms.filter fun e => !e.2.2).map fun e => (e.1, e.2.1)

/-- Take one answered request of context `c`: data and index atoms to the instruction, a write to the counts (R302). An index
request with a poisoned atom stays, to be found when its index is needed. -/
def State.take1 (s : State) (c n : Nat) (e : Nat × Req) : State :=
  if e.2.origin = roleRead then
    (s.dropReq e.1).modCtx c fun x => { x with cur := x.cur.map fun k => { k with got := k.got ++ e.2.readAtoms } }
  else if e.2.origin = roleIndex then
    if e.2.flits = 1 then s
    else
      let s := s.modCtx c fun x => { x with cur := x.cur.map fun k => { k with idx := k.idx ++ e.2.indexAtoms } }
      if e.2.readAtoms.any (·.2.2) then s.modReq e.1 fun r => { r with flits := 1 } else s.dropReq e.1
  else if e.2.origin = roleWrite then s.countWrite n e
  else s

/-- Take what has been answered; writes count in the order of their issue (R302). -/
def State.takeDone (s : State) (c n : Nat) : State :=
  let l := s.ctxReqs c
  let writes := (l.filter fun e => e.2.origin == roleWrite).takeWhile fun e => e.2.decided
  s.forEach ((l.filter fun e => e.2.decided && e.2.origin != roleWrite) ++ writes) fun s e => s.take1 c n e

/-- Change the instruction in progress of context `c`. -/
def State.modCur (s : State) (c : Nat) (f : Cur → Cur) : State := s.modCtx c fun x => { x with cur := x.cur.map f }

/-- Stack, logical PC, bank and row of an address, as the run-ahead compares them (R304). -/
def State.rowKey (s : State) (a : Nat) : Nat × Nat × Nat × Nat :=
  let l := s.locOf a
  (l.stack, l.lpc, l.lin, l.row)

/-- The hint, if any, for atom `i` of the run of addresses `addr` (R304). -/
def State.hintAt (s : State) (addr : Nat → Option Nat) (i : Nat) : State :=
  match addr i with
  | none => s
  | some a =>
    let same := i != 0 && (addr (i - 1)).any fun b => s.rowKey b == s.rowKey a
    if same then s else s.activateHint a

/-- How far a run of addresses has been decoded ahead: its next atom with hints, up to `most`; it stops at an index not known. -/
def hintEnd (addr : Nat → Option Nat) : Nat → Nat → Nat
  | 0, i => i
  | n + 1, i => if (addr i).isSome then hintEnd addr n (i + 1) else i

/-- Hints for the atoms [i, j) of a run of addresses, those of requests already issued passed over. -/
def State.hintRun (s : State) (addr : Nat → Option Nat) (issued i j : Nat) : State :=
  s.forEach ((List.range (j - i)).map (i + ·)) fun s n => if n < issued then s else s.hintAt addr n

/-- The run-ahead of the instruction in progress (R304). -/
def State.runAhead (s : State) (c : Nat) (x : Ctx) (k : Cur) : State :=
  let w := k.word.toNat
  let d := s.fget F.seqCfg_RUNAHEAD * (if byElem w then elemAtoms w else 1)
  if flNoHint w || insOp w == iGateSwap || d == 0 then s
  else
    let total := dataLen x w / 64
    let far := fun (addr : Nat → Option Nat) (pos h : Nat) => hintEnd addr (min total (pos + d) - h) h
    let jr := far (readAddr x k w) k.rpos k.hpos
    let jw := far (writeAddr x k w) k.wpos k.hwpos
    let s := (s.hintRun (readAddr x k w) k.rpos k.hpos jr).hintRun (writeAddr x k w) k.wpos k.hwpos jw
    s.modCur c fun k => { k with hpos := jr, hwpos := jw }

/-- The data of atoms `i` to `i + n - 1` as read, with their poison; none while one is awaited. -/
def Cur.gotRun (k : Cur) (i n : Nat) : Option (List (Atom × Bool)) :=
  (List.range n).foldr (fun j (o : Option (List (Atom × Bool))) =>
    match k.got.find? fun e => e.1 == i + j, o with
    | some e, some l => some (e.2 :: l)
    | _, _ => none) (some [])

/-- Atoms as the data of a request, lowest first. -/
def payloadOf (l : List Atom) : Payload := BitVec.ofNat 32768 (l.foldr (fun a n => a.toNat + 2 ^ 512 * n) 0)

/-- Flags of atoms as a mask, lowest first. -/
def flagsOf (l : List Bool) : BitVec 64 := BitVec.ofNat 64 (l.foldr (fun b n => bit b + 2 * n) 0)

/-- The atom of a FILL. -/
def fillAtom (w : Nat) : Atom := atomOf (List.replicate 8 (bitsOf w 71 40 * (2 ^ 32 + 1)))

/-- The data of the write of atoms [i, i + n): none while a read is awaited. -/
def writeData (k : Cur) (w i n : Nat) : Option (List (Atom × Bool)) :=
  if insOp w = iFill then some (List.replicate n (fillAtom w, false))
  else if insOp w = iRewrite then some []
  else k.gotRun i n

/-- Whether the request that holds atoms [i, i + n) ends a sort batch (R220). -/
def lastElem (w len i n : Nat) : Bool := flBatch w && i + n == len / 64

/-- Issue the next write of the instruction, where its data is there. -/
def State.issueWrite (s : State) (c : Nat) (x : Ctx) (k : Cur) : Option State :=
  let w := k.word.toNat
  let len := dataLen x w
  if !dataWrites w || len / 64 ≤ k.wpos then none
  else match writeAddr x k w k.wpos with
    | none => none
    | some a =>
      let n := splitCode a (runLen w len k.wpos)
      match writeData k w k.wpos (2 ^ n) with
      | none => none
      | some l =>
        let sort := insOp w == iScatter && flSort w
        let s := s.ctxIssue c x roleWrite (if insOp w = iRewrite then opRewrite else opWrite) a n k.wpos (payloadOf (l.map (·.1)))
          (flagsOf (l.map (·.2))) sort (insOp w == iScatter && lastElem w len k.wpos (2 ^ n))
        some (s.modCur c fun k => { k with
          wpos := k.wpos + 2 ^ n
          got := k.got.filter fun e => !(k.wpos ≤ e.1 && e.1 < k.wpos + 2 ^ n)
          idx := if insOp w = iScatter then k.idx.filter fun e => (k.wpos + 2 ^ n) / elemAtoms w ≤ 16 * e.1 + 16 else k.idx })

/-- Index atoms of an instruction. -/
def indexAtoms (x : Ctx) (w : Nat) : Nat := if byElem w then ceilDiv (dataLen x w / elemSize w) 16 else 0

/-- Issue the next index read, where the run-ahead or the next element needs it. DEDUCED, log entry 56. -/
def State.issueIndex (s : State) (c : Nat) (x : Ctx) (k : Cur) : Option State :=
  let w := k.word.toNat
  if indexAtoms x w ≤ k.ipos || k.rpos / elemAtoms w + s.fget F.seqCfg_RUNAHEAD < 16 * k.ipos then none
  else
    let a := x.areg (fR3 w) + 64 * k.ipos
    let n := splitCode a (64 * (indexAtoms x w - k.ipos))
    some ((s.ctxIssue c x roleIndex opRead a n k.ipos 0 0 false false).modCur c fun k => { k with ipos := k.ipos + 2 ^ n })

/-- The poisoned index atom that holds x_j, once read. -/
def State.indexPoison (s : State) (c j : Nat) : Bool :=
  (s.ctxReqs c).any fun e => e.2.origin == roleIndex && e.2.decided && e.2.readAtoms.any fun a => a.1 == j / 16 && a.2.2

/-- The trap of element `j` (R301): its index out of bound, or poisoned. -/
def State.indexTrap (s : State) (c : Nat) (x : Ctx) (k : Cur) (j : Nat) : Option Trap :=
  let w := k.word.toNat
  match k.index j with
  | some v => if elemSize w * v < x.creg (fCb w) then none else some ⟨0x13, j, v⟩
  | none => if s.indexPoison c j then some ⟨0x14, x.areg (fR3 w) + 64 * (j / 16), 0⟩ else none

/-- Issue the next data read of the instruction; an element that traps does so once every element below it has been issued. -/
def State.issueRead (s : State) (c : Nat) (x : Ctx) (k : Cur) : Option State :=
  let w := k.word.toNat
  let len := dataLen x w
  if !dataReads w || len / 64 ≤ k.rpos then none
  else match (if byElem w then s.indexTrap c x k (k.rpos / elemAtoms w) else none) with
    | some t => if k.wpos = k.rpos then some (s.trapNow c t) else none
    | none =>
      if byElem w && (k.index (k.rpos / elemAtoms w)).isNone then none
      else match readAddr x k w k.rpos with
        | none => none
        | some a =>
          let n := splitCode a (runLen w len k.rpos)
          let sort := insOp w == iGather && flSort w
          some ((s.ctxIssue c x roleRead opRead a n k.rpos 0 0 sort (insOp w == iGather && lastElem w len k.rpos (2 ^ n))).modCur c fun k =>
            { k with
              rpos := k.rpos + 2 ^ n
              idx := if insOp w = iGather then k.idx.filter fun e => (k.rpos + 2 ^ n) / elemAtoms w ≤ 16 * e.1 + 16 else k.idx })

/-- One issue: the run-ahead, then the next write, index read or data read. -/
def State.issue1 (s : State) (c : Nat) : State :=
  match s.ctx? c with
  | none => s
  | some x =>
    match x.cur with
    | none => s
    | some k =>
      let s := s.runAhead c x k
      if !s.mayIssue c x then s
      else match s.issueWrite c x k with
        | some s => s
        | none => match s.issueIndex c x k with
          | some s => s
          | none => (s.issueRead c x k).getD s

/-- The instruction of context `c` whose turn it is: in progress already, or launched now as one that takes time. -/
def State.begin (s : State) (c : Nat) (want : Nat → Bool) : State :=
  match s.launch c want with
  | (s, some (_, w)) => s.modCtx c fun x => { x with cur := some ⟨BitVec.ofNat 128 w, 0, 0, 0, 0, 0, [], [], none⟩ }
  | (s, none) => s

/-- The instruction that context `c` has in progress, where `want` takes it and its program runs. -/
def State.inProgress (s : State) (c : Nat) (want : Nat → Bool) : Option (Ctx × Cur) :=
  match s.ctx? c with
  | none => none
  | some x =>
    match x.cur with
    | none => none
    | some k => if (s.slot x.slot).st == .running && want k.word.toNat then some (x, k) else none

/-- An instruction that can take time (R292): launched, or in progress already, it goes on. -/
def State.timed (s : State) (c : Nat) (want : Nat → Bool) (act : State → Ctx → Nat → State) : State :=
  let s := s.begin c want
  match s.inProgress c want with
  | some (x, k) => act s x k.word.toNat
  | none => s

/-- Everything of the instruction has been issued, and answered. -/
def State.dataDone (s : State) (c : Nat) (x : Ctx) (k : Cur) : Bool :=
  let n := dataLen x k.word.toNat / 64
  let w := k.word.toNat
  (!dataReads w || k.rpos == n) && (!dataWrites w || k.wpos == n) && (s.ctxReqs c).isEmpty

/-- Take answers and issue requests; nothing more is issued after a failure (R303). -/
def State.advanceData (s : State) (c : Nat) : State :=
  match s.ctx? c with
  | none => s
  | some x =>
    if (s.ctxFailed c).isSome then s
    else State.forEach (s.takeDone c x.slot) (List.range 64) fun s _ => s.issue1 c

/-- A data instruction of context `c`. -/
def State.dataIns (s : State) (c op : Nat) : State :=
  let want := fun w => insOp w == op
  let s := s.begin c want
  match s.inProgress c want with
  | none => s
  | some _ =>
    let s := s.advanceData c
    match s.inProgress c want with
    | none => s
    | some (x, k) => if s.dataDone c x k then s.setCtx c (some (x.complete k.word.toNat)) else s

/-- MOVE (R300). -/
def execSeqMove (c : Fin 256) (s : State) : Host.Outcome State Fault Refusal := .next (s.dataIns c.val iMove)
/-- FILL (R300). -/
def execSeqFill (c : Fin 256) (s : State) : Host.Outcome State Fault Refusal := .next (s.dataIns c.val iFill)
/-- GATHER (R300, R301). -/
def execSeqGather (c : Fin 256) (s : State) : Host.Outcome State Fault Refusal := .next (s.dataIns c.val iGather)
/-- SCATTER (R300, R301). -/
def execSeqScatter (c : Fin 256) (s : State) : Host.Outcome State Fault Refusal := .next (s.dataIns c.val iScatter)
/-- REWRITE (R300, R264). -/
def execSeqRewrite (c : Fin 256) (s : State) : Host.Outcome State Fault Refusal := .next (s.dataIns c.val iRewrite)

/-- SEQ_REQUEST_FAILED (R303): the oldest failed request traps the instruction in progress. -/
def State.requestFailed (s : State) (c : Nat) : State :=
  match s.ctx? c, s.ctxFailed c with
  | some x, some t => if (s.slot x.slot).st == .running then s.trapNow c t else s
  | _, _ => s

def execSeqRequestFailed (c : Fin 256) (s : State) : Host.Outcome State Fault Refusal := .next (s.requestFailed c.val)

/-- The check unit of a CHECK. -/
def checkUnitOf (w : Nat) : Nat := bitsOf w 103 102

/-- Feed the atoms read to the check unit, in order (R307): those below atom `k.wpos` have been fed. A poisoned one traps. -/
def State.feed1 (s : State) (c : Nat) : State :=
  match s.ctx? c with
  | none => s
  | some x =>
    match x.cur with
    | none => s
    | some k =>
      match k.got.find? fun e => e.1 == k.wpos with
      | none => s
      | some e =>
        let w := k.word.toNat
        let u := checkUnitOf w
        let a := x.areg (fR2 w) + 64 * k.wpos
        if e.2.2 then s.trapNow c ⟨0x16, a, 0⟩
        else
          ((s.setChk u (feedAtom (s.chk u) a e.2.1)).fset (F.chkStatus_FED u) (s.fget (F.chkStatus_FED u) + 64)).modCur c
            fun k => { k with wpos := k.wpos + 1, got := k.got.filter fun o => o.1 != e.1 }

/-- The unit goes back to IDLE at the end of a CHECK, which then has completed (Table 12.1). -/
def State.checkEnd (s : State) (c u : Nat) (x : Ctx) (w : Nat) : State :=
  ((s.setChk u Chk.init).chkOwner u 0 0).setCtx c (some (x.complete w))

/-- The last word has been fed: RESULT takes the value (Table 12.9), the value is written, or the stored word is read; and what comes of it
(R307). -/
def State.checkResult (s : State) (c : Nat) (x : Ctx) (k : Cur) : State :=
  let w := k.word.toNat
  let u := checkUnitOf w
  let a := x.areg (fR1 w)
  let cmp := w.testBit 99
  match k.stored with
  | none =>
    if !s.mayIssue c x then s
    else
      let v := (s.chk u).result
      let s := s.fset (F.chkResult_VALUE u) v
      let s := if cmp then s.ctxIssue c x roleCompare opRead a 0 0 0 0 false false
        else s.ctxIssue c x roleWrite opWrite a 0 0 (BitVec.ofNat 32768 v) 0 false false
      s.modCur c fun k => { k with stored := some v }
  | some v =>
    match s.ctxReqs c with
    | [] => s.checkEnd c u x w
    | e :: _ =>
      if e.2.origin != roleCompare || !e.2.decided then s
      else
        let r := e.2.res.getD 0 (.of .ok)
        let m := r.data.toNat % 2 ^ 64
        let s := s.dropReq e.1
        if r.st == .poison then s.trapNow c ⟨0x16, a, 0⟩
        else if m % 2 ^ (s.chk u).width = v then s.checkEnd c u x w
        else s.trapNow c ⟨0x17, v, m⟩

/-- CHECK (R307): the unit is held from the launch on and starts afresh. DEDUCED, log entry 55. -/
def State.checkIns (s : State) (c : Nat) : State :=
  let want := fun w => insOp w == iCheck
  let s := match s.launch c want with
    | (s, some (_, w)) =>
      let u := checkUnitOf w
      (((s.chkLatch u (.heldSeq c) (bitsOf w 101 100)).chkOwner u 2 c).chkLast u 0).modCtx c fun x =>
        { x with cur := some ⟨BitVec.ofNat 128 w, 0, 0, 0, 0, 0, [], [], none⟩ }
    | (s, none) => s
  match s.inProgress c want with
  | none => s
  | some _ =>
    let s := (s.advanceData c).forEach (List.range 64) fun s _ => s.feed1 c
    match s.inProgress c want with
    | none => s
    | some (x, k) =>
      if (s.ctxFailed c).isSome then s
      else if k.wpos = dataLen x k.word.toNat / 64 then s.checkResult c x k else s

def execSeqCheck (c : Fin 256) (s : State) : Host.Outcome State Fault Refusal := .next (s.checkIns c.val)

/-- The words of the list of a GATE_SWAP. -/
def gateWords (k : Cur) (n : Nat) : List Word :=
  (List.range n).map fun i => BitVec.ofNat 64 (wordOf ((k.got.filter fun e => e.1 == i / 8).map (·.2.1)) (i % 8))

/-- The list of a GATE_SWAP has been read: the entries are written and the swap armed, as one act (R311, R152–R154); the outcome.
DEDUCED, log entry 57. -/
def State.gateSwapAct (s : State) (x : Ctx) (k : Cur) : State × Nat :=
  let w := k.word.toNat
  let g := fR2 w
  let len := if bitsOf w 96 88 = 0 then 256 else bitsOf w 96 88
  let s := s.settleSwap g
  if s.flag (F.trfGateStatus_PENDING g) then (s, 2)
  else if k.got.any fun e => e.2.2 then (s, 4)
  else
    let words := gateWords k (ceilDiv len 2)
    let s := s.forEach words.zipIdx fun s e =>
      if 128 ≤ e.2 then s
      else if 2 * e.2 + 1 < len then s.gateEntWrite g (s.nextBank g) e.2 e.1
      else s.gateEntWrite g (s.nextBank g) e.2 (BitVec.ofNat 64
        ((s.reg (A.trfGateEnt g (s.nextBank g) e.2)).toNat / 2 ^ 32 * 2 ^ 32 + e.1.toNat % 2 ^ 32))
    let base := (x.tb + bitsOf w 31 0) % 2 ^ 64
    let cyc := bitsOf w 63 32
    let s := ((s.fset (F.trfGateNextBase_BASE g) base).fset (F.trfGateNextCfg_CYCLE g) cyc).fset (F.trfGateNextCfg_LEN g) len
    match s.armOut g base cyc len with
    | .refused => (s.gateArm g base cyc len, 3)
    | .armed _ adv => (s.gateArm g base cyc len, bit adv)

/-- GATE_SWAP (R311): the list is read under the current stream, then the act is made at the port group. -/
def State.gateSwapIns (s : State) (c : Nat) : State :=
  let want := fun w => insOp w == iGateSwap
  let s := s.begin c want
  match s.inProgress c want with
  | none => s
  | some _ =>
    let s := s.advanceData c
    match s.inProgress c want with
    | none => s
    | some (x, k) =>
      if s.dataDone c x k then
        let r := s.gateSwapAct x k
        r.1.setCtx c (some ((x.setC (bitsOf k.word.toNat 103 101) r.2).advance))
      else s

def execGateSwap (c : Fin 256) (s : State) : Host.Outcome State Fault Refusal := .next (s.gateSwapIns c.val)

end Sys2Proof.Machine
end

