-- ==== Sys2Proof/Machine/SeqFlow.lean ====
section
/-! DEFINITION. The instructions that wait, signal, fence, select a stream and steer (R308–R315). -/

namespace Sys2Proof.Machine

/-- Sign extension of the low `n` bits, modulo 2^42. -/
def sext42 (n v : Nat) : Nat := unsigned 42 (signed n v)

/-- Context `c` goes to WAITING. -/
def State.waitOn (s : State) (c : Nat) (x : Ctx) (w : Wait) : State :=
  (s.setCtx c (some { x with wait := some w, waitAt := s.cadence })).modSlot x.slot fun y => { y with st := .waiting }

/-- WAIT_CADENCE (R308). TB takes the target as the instruction is launched. DEDUCED, log entry 58. -/
def State.waitCadence (s : State) (c : Nat) (x : Ctx) (w : Nat) : State :=
  let target := ((if w.testBit 111 then x.tb else 0) + bitsOf w 63 0) % 2 ^ 64
  let x := if w.testBit 110 then { x with tb := target } else x
  if target ≤ s.cadence then s.setCtx c (some x.advance) else s.waitOn c x (.cadence target)

def execWaitCadence (c : Fin 256) (s : State) : Host.Outcome State Fault Refusal :=
  .next (s.control c.val (fun w => insOp w == iWaitCadence) fun s x w => s.waitCadence c.val x w)

/-- The wait of context `c` on the cadence is over. -/
def State.cadencePass (s : State) (c : Nat) (x : Ctx) : State :=
  (s.setCtx c (some ({ x with wait := none } : Ctx).advance)).modSlot x.slot fun y => { y with st := .running }

/-- WAIT_CADENCE_RELEASE (R308). -/
def State.waitRelease (s : State) (c : Nat) : State :=
  match s.ctx? c with
  | none => s
  | some x =>
    match (s.slot x.slot).st, x.wait with
    | .waiting, some (.cadence t) =>
      match s.atCadence t with
      | some s => s.cadencePass c x
      | none => s
    | _, _ => s

def execWaitCadenceRelease (c : Fin 256) (s : State) : Host.Outcome State Fault Refusal := .next (s.waitRelease c.val)

/-- WAIT_TOKEN (R309): a waiter that joins an empty queue is served at once where the value allows. -/
def State.waitToken (s : State) (c : Nat) (x : Ctx) (w : Nat) : State :=
  let t := bitsOf w 111 102
  let n := bitsOf w 31 0
  if n = 0 then s.setCtx c (some x.advance)
  else
    let q := s.tokenQ t
    let s := (s.waitOn c x (.token t)).setTokenQ t (q ++ [⟨x.slot, n⟩])
    if q = [] then State.serveToken 1 t s else s

def execWaitToken (c : Fin 256) (s : State) : Host.Outcome State Fault Refusal :=
  .next (s.control c.val (fun w => insOp w == iWaitToken) fun s x w => s.waitToken c.val x w)

/-- SIGNAL (R309): it completes as a FENCE first; the sum saturates. -/
def State.seqSignal (s : State) (c : Nat) (x : Ctx) (w : Nat) : State :=
  if !s.fenceDone c then s
  else
    let t := bitsOf w 111 102
    let v := min (2 ^ 32 - 1) (s.fget (F.seqToken_VALUE t) + bitsOf w 31 0)
    let s := if flEvent w then s.post 0x040E c t v else s
    (s.setCtx c (some x.advance)).setToken t v

def execSeqSignal (c : Fin 256) (s : State) : Host.Outcome State Fault Refusal :=
  .next (s.timed c.val (fun w => insOp w == iSignal) fun s x w => s.seqSignal c.val x w)

/-- SEQ_FENCE (R310). -/
def State.seqFence (s : State) (c : Nat) (x : Ctx) : State := if s.fenceDone c then s.setCtx c (some x.advance) else s

def execSeqFence (c : Fin 256) (s : State) : Host.Outcome State Fault Refusal :=
  .next (s.timed c.val (fun w => insOp w == iFence) fun s x _ => s.seqFence c.val x)

/-- SET_STREAM with LOAD = 0 (R312). -/
def State.setStream (s : State) (c : Nat) (x : Ctx) (w : Nat) : State :=
  if !s.fenceDone c then s
  else
    let i := setStreamId x w
    match s.streamOk c i (s.slot x.slot).mid with
    | (s, none) => s
    | (s, some ok) =>
      let x := x.setC (bitsOf w 105 103) (if ok then 0 else 3)
      (s.named i).setCtx c (some (if ok then { x with stream := i } else x).advance)

def execSetStream (c : Fin 256) (s : State) : Host.Outcome State Fault Refusal :=
  .next (s.timed c.val (fun w => insOp w == iSetStream && !w.testBit 111) fun s x w => s.setStream c.val x w)

/-- SET_STREAM with LOAD = 1 (R312): the LOAD of Table 4.3, FORCE 0; its result comes to C[CR] when it completes. -/
def State.setStreamLoad (s : State) (c : Nat) (x : Ctx) (w : Nat) : State :=
  let s := s.setCtx c (some { x with cur := some ⟨BitVec.ofNat 128 w, 0, 0, 0, 0, 0, [], [], none⟩, wait := some .load })
  s.streamCmd ⟨setStreamId x w, 1, w.testBit 110, false, some c, false⟩

def execSetStreamLoad (c : Fin 256) (s : State) : Host.Outcome State Fault Refusal :=
  .next (s.control c.val (fun w => insOp w == iSetStream && w.testBit 111) fun s x w => s.setStreamLoad c.val x w)

/-- LOOP (R313), its launch check passed. -/
def Ctx.doLoop (x : Ctx) (w : Nat) : Ctx :=
  let n := if w.testBit 108 then x.creg (bitsOf w 111 109) else bitsOf w 39 0
  let body := bitsOf w 107 96
  if n = 0 then
    let r := nextPc false ((x.pc + 16 + 16 * body) % 2 ^ 42) x.loops
    { x with pc := r.1, loops := r.2 }
  else ({ x with loops := ⟨(x.pc + 16) % 2 ^ 42, body, n⟩ :: x.loops } : Ctx).advance

def execSeqLoop (c : Fin 256) (s : State) : Host.Outcome State Fault Refusal :=
  .next (s.control c.val (fun w => insOp w == iLoop) fun s x w => s.setCtx c.val (some (x.doLoop w)))

/-- The comparison of a BRANCH (R314). -/
def branchTaken (cond v cmp : Nat) : Bool :=
  if cond = 0 then true else if cond = 1 then v == cmp else if cond = 2 then v != cmp else if cond = 3 then v < cmp else cmp ≤ v

/-- BRANCH (R314). -/
def Ctx.doBranch (x : Ctx) (w : Nat) : Ctx :=
  let cn := bitsOf w 111 109
  let v := if w.testBit 105 then (x.creg cn + unsigned 40 (signed 24 (bitsOf w 103 80))) % 2 ^ 40 else x.creg cn
  let x := if w.testBit 105 then x.setC cn v else x
  if branchTaken (bitsOf w 108 106) v (bitsOf w 79 40) then x.jump ((x.pc + 16 * sext42 24 (bitsOf w 23 0)) % 2 ^ 42)
  else x.advance

def execSeqBranch (c : Fin 256) (s : State) : Host.Outcome State Fault Refusal :=
  .next (s.control c.val (fun w => insOp w == iBranch) fun s x w => s.setCtx c.val (some (x.doBranch w)))

/-- END (R315): it completes as a FENCE, then finishes the program; a trap of an ASYNC instruction that has waited prevails (Table 10.10). -/
def State.seqEnd (s : State) (c : Nat) (x : Ctx) : State :=
  if s.fenceDone c then s.finish x.slot (x.asyncTrap.getD ⟨false, 0, 0, 0, x.pc, true⟩) else s

def execSeqEnd (c : Fin 256) (s : State) : Host.Outcome State Fault Refusal :=
  .next (s.timed c.val (fun w => insOp w == iEnd) fun s x _ => s.seqEnd c.val x)

/-- TRAP (R315). -/
def State.seqTrap (s : State) (x : Ctx) (w : Nat) : State := s.finish x.slot ⟨true, 0x8000 + bitsOf w 14 0, 0, 0, x.pc, true⟩

def execSeqTrap (c : Fin 256) (s : State) : Host.Outcome State Fault Refusal :=
  .next (s.control c.val (fun w => insOp w == iTrap) fun s x w => s.seqTrap x w)

end Sys2Proof.Machine
end

