-- ==== Sys2Proof/Machine/Cadence.lean ====
section
/-! DEFINITION. The headroom monitor (R31–R33) and the SYNC alignment of the cadence counter (R39–R44). -/

namespace Sys2Proof.Machine

/-- REQUIRED of a bin (Table 1.6). -/
def requiredSpeed (bin : Nat) : Nat := [0x74, 0x90, 0xAD, 0xCA, 0xE7].getD bin 0x74

/-- SHORT after a sample (R31). -/
def shortNow (was : Bool) (speed margin req : Nat) : Bool :=
  if speed + margin < req then true else if req + margin ≤ speed then false else was

/-- The moment of the next sample: each multiple of 1,024 ct once, none made up (R31). -/
def State.sampleMoment (s : State) : Option State :=
  (if s.headroom.sampled < s.cadence / 1024 then some s else s.atCadence ((s.headroom.sampled + 1) * 1024)).map fun s =>
    { s with headroom := { s.headroom with sampled := s.cadence / 1024 } }

/-- What a sample with the given SHORT does to the events (R32). DEDUCED, log entry 71. -/
def State.headroomEvents (s : State) (short : Bool) (speed req : Nat) : State :=
  let h := s.headroom
  if short then
    let h := { h with shortRun := h.shortRun + 1, firstShort := if h.shortRun = 0 then s.cadence else h.firstShort }
    let s := { s with headroom := h }
    if !h.low && max 1 (s.fget F.glbHeadroomCfg_HOLD) ≤ h.shortRun then
      State.post { s with headroom := { h with low := true } } 0x0401 0 (Config.headroomArg speed req) h.firstShort
    else s
  else
    let s := { s with headroom := { h with shortRun := 0, low := false } }
    if h.low then s.post 0x0402 0 0 0 else s

/-- HEADROOM_SAMPLE (R31, R32). -/
def State.headroomSample (s : State) (speed area : Nat) : State :=
  let req := requiredSpeed s.instBin
  let short := shortNow (s.flag F.glbHeadroom_SHORT) speed (s.fget F.glbHeadroomCfg_MARGIN) req
  let s := (((s.fset F.glbHeadroom_SPEED speed).fset F.glbHeadroom_MIN_AREA area).fset F.glbHeadroom_SHORT (bit short)).fset
    F.glbHeadroomMin_SPEED_MIN (min speed (s.fget F.glbHeadroomMin_SPEED_MIN))
  s.headroomEvents short speed req

def execHeadroomSample (speed : BitVec 16) (area : BitVec 8) (s : State) : Host.Outcome State Fault Refusal :=
  .next (if !s.cpUp then s else match s.sampleMoment with
    | some s => s.headroomSample speed.toNat area.toNat
    | none => s)

/-- CAD_SYNC_ARM (R44): a write of GLB.CAD_SYNC_CTL. -/
def execCadSyncArm (w : Word) (s : State) : Host.Outcome State Fault Refusal :=
  s.cpDo (.cadSyncArm w) fun s => s.fset F.glbCadSyncCtl_ARM (bitsOf w.toNat 0 0)

/-- A forward jump reaches the consumers (R43, R160): gate lists, samples, waits on the cadence, the Tally sweep. -/
def State.jumped (s : State) (old : Nat) : State :=
  let s := s.forEach (List.range 16) fun s g => s.settleSwap g
  let s := s.jumpSamples old
  let s := s.forEach (List.range 256) fun s c => match s.ctx? c with
    | some x => (match (s.slot x.slot).st, x.wait with
      | .waiting, some (.cadence t) => if t ≤ s.cadence then s.cadencePass c x else s
      | _, _ => s)
    | none => s
  if s.flag F.talCfg_EN && s.tallyDue ≤ s.cadence then s.tallyPass else s

/-- An applied step (R40, R42). -/
def State.stepBy (s : State) (delta : Int) : State :=
  let s := (s.fset F.glbCadStatus_CADENCE_ESTIMATED 0).fset F.glbCadStatus_CADENCE_INVALID 0
  let old := s.cadence
  if 0 < delta then
    let s := { s with cadence := s.cadence + delta.toNat }
    (s.post 0x0403 0 (unsigned 64 delta) s.cadence).jumped old
  else
    let s := if delta < 0 then { (s.raise F.glbCadStatus_PAUSING) with pauseLeft := (-delta).toNat } else s
    s.post 0x0403 0 (unsigned 64 delta) s.cadence

/-- An armed edge (R39): the step is applied, or refused (R41). DEDUCED, log entry 64. -/
def State.armedEdge (s : State) : State :=
  let delta : Int := (s.fget F.glbCadSyncValue_VALUE : Int) - s.cadence
  let s := (s.fset F.glbCadSyncCtl_ARM 0).fset F.glbCadSyncDelta_DELTA (unsigned 64 delta)
  if delta < -1000000 then (s.raise F.glbCadStatus_SYNC_REFUSED).post 0x0404 0 (unsigned 64 delta) 0
  else s.stepBy delta

/-- An edge less than 40 ns after the last one that was taken is one with it (R45); with the cadence PLL not locked nothing tells the time
between them, and each is an edge of its own. DEDUCED, log entry 64. -/
def State.sameEdge (s : State) : Bool :=
  s.flag F.glbCadStatus_LOCKED &&
    s.syncAt.any fun e => decide ((s.cadence - e.1) + (e.2 - s.pauseLeft) < 40)

/-- SYNC_EDGE (R39): every edge is counted; ARM waits for the end of a pause (R44). -/
def State.syncEdge (s : State) : State :=
  if s.sameEdge then s
  else
    let s := s.count F.glbCadStatus_SYNC_EDGES 1
    let s := if s.flag F.glbCadSyncCtl_ARM && !s.flag F.glbCadStatus_PAUSING then s.armedEdge else s
    { s with syncAt := some (s.cadence, s.pauseLeft) }

def execSyncEdge (s : State) : Host.Outcome State Fault Refusal := .next (if s.cpUp then s.syncEdge else s)

/-- The pause is over (R40). -/
def State.pauseEnd (s : State) : State := { (s.fset F.glbCadStatus_PAUSING 0) with pauseLeft := 0 }

/-- CADENCE_PAUSE_END (R40). -/
def execCadencePauseEnd (s : State) : Host.Outcome State Fault Refusal :=
  .next (if s.flag F.glbCadStatus_PAUSING then s.pauseEnd else s)

/-- One tick of the cadence PLL with no command waiting: the counter advances by one, or the pause grows shorter (R37, R40). -/
def State.tick (s : State) : State :=
  if !s.flag F.glbCadStatus_LOCKED then s
  else if s.flag F.glbCadStatus_PAUSING then
    (if s.pauseLeft ≤ 1 then s.pauseEnd else { s with pauseLeft := s.pauseLeft - 1 })
  else { s with cadence := s.cadence + 1 }

end Sys2Proof.Machine
end

