-- ==== Sys2Proof/Machine/Float.lean ====
section
/-! DEFINITION. The arithmetic of the NMUs (R323–R328, R340, R342): binary32 with one rounding per operator, the element formats with
their kinds and fixed recipes, microscaling blocks, the compensated weight, the reference tree. A binary32 value is its 32 bits. -/

namespace Sys2Proof.Machine

/-- A decoded number: NaN, an infinity, or a sign with m × 2^e exactly. -/
inductive Fp where
  | nan
  | inf (neg : Bool)
  | fin (neg : Bool) (m : Nat) (e : Int)
deriving DecidableEq, Repr

/-- A floating-point layout: mantissa bits, bias, the largest finite code without sign, the code of infinity and the canonical NaN
where it has them, the width. -/
structure Layout where
  width : Nat
  mbits : Nat
  bias : Nat
  top : Nat
  inf : Option Nat
  nan : Nat
deriving DecidableEq, Repr

def f32L : Layout := ⟨32, 23, 127, 0x7F7FFFFF, some 0x7F800000, 0x7FC00000⟩
def fp16L : Layout := ⟨16, 10, 15, 0x7BFF, some 0x7C00, 0x7E00⟩
def bf16L : Layout := ⟨16, 7, 127, 0x7F7F, some 0x7F80, 0x7FC0⟩
def e4m3L : Layout := ⟨8, 3, 7, 0x7E, none, 0x7F⟩
def e5m2L : Layout := ⟨8, 2, 15, 0x7B, some 0x7C, 0x7E⟩
def e2m1L : Layout := ⟨4, 1, 1, 0x7, none, 0x7⟩

/-- The exponent of the least subnormal. -/
def Layout.qmin (l : Layout) : Int := 1 - (l.bias : Int) - l.mbits

/-- The number a code stands for (R325). -/
def Layout.dec (l : Layout) (w : Nat) : Fp :=
  let neg := w.testBit (l.width - 1)
  let c := w % 2 ^ (l.width - 1)
  if l.inf = some c then .inf neg
  else if l.top < c then .nan
  else
    let f := c / 2 ^ l.mbits
    if f = 0 then .fin neg c l.qmin else .fin neg (2 ^ l.mbits + c % 2 ^ l.mbits) (l.qmin + f - 1)

/-- m / 2^k rounded to nearest, ties to even. -/
def rneShift (m k : Nat) : Nat :=
  let q := m / 2 ^ k
  let r := 2 * (m % 2 ^ k)
  if 2 ^ k < r ∨ (r = 2 ^ k ∧ q % 2 = 1) then q + 1 else q

/-- m × 2^e rounded to nearest even at a layout's precision, as a code without sign that may pass the largest. -/
def Layout.mag (l : Layout) (m : Nat) (e : Int) : Nat :=
  if m = 0 then 0
  else
    let q := max (e + Nat.log2 m - l.mbits) l.qmin
    let r := if q ≤ e then m * 2 ^ (e - q).toNat else rneShift m (q - e).toNat
    (q - l.qmin).toNat * 2 ^ l.mbits + r

/-- The sign bit of a layout. -/
def Layout.sign (l : Layout) (neg : Bool) : Nat := if neg then 2 ^ (l.width - 1) else 0

/-- A number as binary32: one rounding, overflow to infinity, the canonical NaN (R323). -/
def toF32 : Fp → Nat
  | .nan => 0x7FC00000
  | .inf neg => f32L.sign neg + 0x7F800000
  | .fin neg m e => f32L.sign neg + min 0x7F800000 (f32L.mag m e)

/-- The number of a binary32 value. -/
def f32 (w : Nat) : Fp := f32L.dec w

/-- m × 2^e with its sign, as an integer at exponent `q`. -/
def atExp (neg : Bool) (m : Nat) (e q : Int) : Int :=
  let v : Int := (m * 2 ^ (e - q).toNat : Nat)
  if neg then -v else v

/-- The exact sum of two finite numbers: an exact zero is −0 only where both are negative. -/
def addFin (n₁ : Bool) (m₁ : Nat) (e₁ : Int) (n₂ : Bool) (m₂ : Nat) (e₂ : Int) : Fp :=
  let q := min e₁ e₂
  let v := atExp n₁ m₁ e₁ q + atExp n₂ m₂ e₂ q
  if v = 0 then .fin (n₁ && n₂) 0 q else .fin (decide (v < 0)) v.natAbs q

/-- The exact sum. -/
def Fp.add : Fp → Fp → Fp
  | .nan, _ => .nan
  | _, .nan => .nan
  | .inf a, .inf b => if a = b then .inf a else .nan
  | .inf a, _ => .inf a
  | _, .inf b => .inf b
  | .fin a m e, .fin b n f => addFin a m e b n f

/-- The exact product. -/
def Fp.mul : Fp → Fp → Fp
  | .nan, _ => .nan
  | _, .nan => .nan
  | .inf a, .inf b => .inf (a != b)
  | .inf a, .fin b n _ => if n = 0 then .nan else .inf (a != b)
  | .fin a m _, .inf b => if m = 0 then .nan else .inf (a != b)
  | .fin a m e, .fin b n f => .fin (a != b) (m * n) (e + f)

/-- The quotient, with a last bit that stands for the remainder. -/
def Fp.div : Fp → Fp → Fp
  | .nan, _ => .nan
  | _, .nan => .nan
  | .inf _, .inf _ => .nan
  | .inf a, .fin b _ _ => .inf (a != b)
  | .fin a _ _, .inf b => .fin (a != b) 0 0
  | .fin a m e, .fin b n f =>
    if n = 0 then (if m = 0 then .nan else .inf (a != b))
    else .fin (a != b) (2 * (m * 2 ^ 64 / n) + (if m * 2 ^ 64 % n = 0 then 0 else 1)) (e - f - 65)

/-- The integer square root of `n`, which is below 2^(2·k). -/
def isqrt (n : Nat) : Nat → Nat → Nat
  | 0, r => r
  | k + 1, r => isqrt n k (if (r + 2 ^ k) * (r + 2 ^ k) ≤ n then r + 2 ^ k else r)

/-- The square root, with a last bit that stands for the remainder. -/
def Fp.sqrt : Fp → Fp
  | .nan => .nan
  | .inf neg => if neg then .nan else .inf false
  | .fin neg m e =>
    if m = 0 then .fin neg 0 e
    else if neg then .nan
    else
      let odd := e % 2
      let n := m * 2 ^ odd.toNat * 2 ^ 64
      let r := isqrt n 46 0
      .fin false (2 * r + (if r * r = n then 0 else 1)) ((e - odd) / 2 - 33)

/-- The operators of R323. -/
def fAdd (a b : Nat) : Nat := toF32 ((f32 a).add (f32 b))
def fMul (a b : Nat) : Nat := toF32 ((f32 a).mul (f32 b))
def fFma (a b c : Nat) : Nat := toF32 (((f32 a).mul (f32 b)).add (f32 c))
def fDiv (a b : Nat) : Nat := toF32 ((f32 a).div (f32 b))
def fSqrt (a : Nat) : Nat := toF32 (f32 a).sqrt
def fNeg (a : Nat) : Nat := a ^^^ 0x80000000
def fSub (a b : Nat) : Nat := fAdd a (fNeg b)
def fAbs (a : Nat) : Nat := a % 0x80000000

/-- An infinity or NaN. -/
def fNonfin (a : Nat) : Bool := 0x7F800000 ≤ fAbs a
/-- ±0. -/
def fZero (a : Nat) : Bool := fAbs a == 0
/-- NaN. -/
def fNan (a : Nat) : Bool := 0x7F800000 < fAbs a

/-- A number's place in the order of R323: −0 below +0. -/
def fKey (a : Nat) : Int := if a.testBit 31 then -(fAbs a : Int) - 1 else fAbs a

/-- max() of R323. -/
def fMax (a b : Nat) : Nat := if fNan a || fNan b then 0x7FC00000 else if fKey a < fKey b then b else a

/-- tree() of R342; `fuel` at least the length. -/
def treeSum : Nat → List Nat → Nat
  | 0, _ => 0
  | fuel + 1, l =>
    if l.length ≤ 1 then l.headD 0
    else
      let h := 2 ^ Nat.log2 (l.length - 1)
      fAdd (treeSum fuel (l.take h)) (treeSum fuel (l.drop h))

def fTree (l : List Nat) : Nat := treeSum l.length l

/-- The layout of formats 2 to 8 (Table 11.1), of the element type for the microscaling ones. -/
def layoutOf (f : Nat) : Layout :=
  if f = 2 then fp16L else if f = 3 then bf16L else if f = 4 ∨ f = 6 then e4m3L else if f = 5 ∨ f = 7 then e5m2L
  else if f = 8 then e2m1L else f32L

/-- SH (Table 11.2). -/
def recipeSh (f kind : Nat) : Nat :=
  if f ≠ 2 ∧ f ≠ 4 ∧ f ≠ 5 then 0
  else if kind = 1 ∨ kind = 2 ∨ kind = 3 then (if f = 4 then 8 else 12) else 0

/-- The recipe's transform applies (R327). -/
def rooted (f kind : Nat) : Bool := kind == 3 && (f == 2 || f == 4 || f == 5)

/-- An encoding: the code, and whether it saturated or underflowed (R326). -/
structure EncOut where
  bits : Nat
  sat : Nat
  unf : Nat
deriving DecidableEq, Repr

/-- A number into a narrow layout (R326). -/
def Layout.enc (l : Layout) : Fp → EncOut
  | .nan => ⟨l.nan, 0, 0⟩
  | .inf neg => match l.inf with
    | some c => ⟨l.sign neg + c, 0, 0⟩
    | none => ⟨l.nan, 0, 0⟩
  | .fin neg m e =>
    let c := l.mag m e
    ⟨l.sign neg + min l.top c, bit (decide (l.top < c)), bit (m != 0 && c == 0)⟩

/-- A number times 2^k. -/
def Fp.scale (x : Fp) (k : Int) : Fp := match x with | .fin n m e => .fin n m (e + k) | x => x

/-- enc() for codes 1 to 5 (R326, R327). DEDUCED, log entry 59. -/
def encElem (f kind x : Nat) : EncOut :=
  if f = 1 then ⟨x, 0, 0⟩
  else
    let y := if rooted f kind then fSqrt x else x
    (layoutOf f).enc ((f32 y).scale (recipeSh f kind))

/-- dec() for codes 1 to 5 (R325, R327). -/
def decElem (f kind w : Nat) : Nat :=
  if f = 1 then w
  else
    let y := toF32 (((layoutOf f).dec w).scale (-(recipeSh f kind : Int)))
    if rooted f kind then fMul y y else y

/-- An element of a microscaling block (R328). -/
def mxElem (f w : Nat) : Fp :=
  if f = 9 then
    let v := signed 8 w
    .fin (decide (v < 0)) v.natAbs (-6)
  else (layoutOf f).dec w

/-- A microscaling element decoded with its scale byte (R328). -/
def mxDec (f w scale : Nat) : Nat := if scale = 0xFF then 0x7FC00000 else toF32 ((mxElem f w).scale ((scale : Int) - 127))

/-- emax of an element type (R328). -/
def mxEmax (f : Nat) : Int := if f = 6 then 8 else if f = 7 then 15 else if f = 8 then 2 else 0

/-- elem_rne() of a finite number (R328). -/
def mxRne (f : Nat) (x : Fp) : Nat :=
  match x with
  | .fin neg m e =>
    if f = 9 then
      let v := if 0 ≤ e + 6 then m * 2 ^ (e + 6).toNat else rneShift m (-(e + 6)).toNat
      let v := min 127 v
      unsigned 8 (if neg then -(v : Int) else v)
    else ((layoutOf f).enc x).bits
  | _ => 0

/-- floor(log2 x) of a finite positive binary32 value. -/
def floorLog2 (x : Nat) : Int := match f32 x with | .fin _ m e => e + Nat.log2 m | _ => 0

/-- mx_encode() (R328): the scale byte and the elements. -/
def mxEncode (f : Nat) (xs : List Nat) : Nat × List Nat :=
  if xs.any fNonfin then (0xFF, xs.map fun _ => 0)
  else
    let amax := xs.foldl (fun m x => max m (fAbs x)) 0
    if amax = 0 then (0, xs.map fun _ => 0)
    else
      let e := min 127 (max (-127) (floorLog2 amax - mxEmax f))
      ((e + 127).toNat, xs.map fun x => mxRne f ((f32 x).scale (-e)))

/-- ulp_exp() of R340. -/
def ulpExp (w : Nat) : Int := (max 1 (w / 2 ^ 7 % 2 ^ 8) : Nat) - (134 : Int)

/-- join() of R340: BF16 weight and 16-bit remainder. -/
def joinW (w r : Nat) : Nat :=
  match bf16L.dec w with
  | .fin n m e =>
    let v := signed 16 r
    toF32 (Fp.add (.fin n m e) (.fin (decide (v < 0)) v.natAbs (ulpExp w - 15)))
  | x => toF32 x

/-- split() of R340: the encoding of the weight, and the remainder. -/
def splitW (x : Nat) : EncOut × Nat :=
  let o := bf16L.enc (f32 x)
  match (f32 x).add ((bf16L.dec (o.bits ^^^ 0x8000))) with
  | .fin neg m e =>
    if fNonfin x then (o, 0)
    else
      let q := e + 15 - ulpExp o.bits
      let v := if 0 ≤ q then m * 2 ^ q.toNat else rneShift m (-q).toNat
      (o, unsigned 16 (max (-32768) (min 32767 (if neg then -(v : Int) else v))))
  | _ => (o, 0)

/-- a × 2^k exceeds b, of finite non-negative binary32 values (R346). -/
def exceeds (a k b : Nat) : Bool :=
  match f32 a, f32 b with
  | .fin _ m e, .fin _ n f =>
    let q := min (e + k) f
    decide (n * 2 ^ (f - q).toNat < m * 2 ^ (e + k - q).toNat)
  | .inf _, .fin _ _ _ => true
  | _, _ => false

end Sys2Proof.Machine
end

