-- ==== Sys2Proof/Machine/Nmu.lean ====
section
/-! DEFINITION. The near-memory units (R330–R353): launch of their instructions, work atoms, the sampled shadow and the underflow
watch, halts, failure and adoption, atomic-add-beside. -/

namespace Sys2Proof.Machine

/-- The NMU that reads or writes the atom at address `a` for NMU `n`: itself in its own stack, else the one that serves the atom there
(R330). -/
def State.accessor (s : State) (n a : Nat) : Option Nat := if (s.locOf a).stack = n / 4 then some n else s.servingAt a

/-- Where the elements of an operand lie: its base, format and kind, the bits from one element to the next, the bits before the
first, and the element count, which says where the scale bytes begin (R328, R337). -/
structure Opd where
  base : Nat
  fmt : Nat
  kind : Nat
  stride : Nat
  off : Nat
  n : Nat
deriving DecidableEq, Repr

/-- An operand with its elements one after the other. -/
def opd (base fmt kind n : Nat) : Opd := ⟨base, fmt, kind, fmtBits fmt, 0, n⟩

/-- The bit address of element `i`. -/
def Opd.bit (o : Opd) (i : Nat) : Nat := 8 * o.base + o.off + o.stride * i

/-- The address of the scale byte of element `i`. -/
def Opd.scaleAt (o : Opd) (i : Nat) : Nat := o.base + o.n * o.stride / 8 + i / 32

/-- The atoms between two byte addresses. -/
def atomsBetween (a b : Nat) : List Nat := (List.range (b / 64 + 1 - a / 64)).map fun i => 64 * (a / 64 + i)

/-- The atoms that hold elements [i, j) of an operand, with their scales. -/
def Opd.atoms (o : Opd) (i j : Nat) : List Nat :=
  atomsBetween (o.bit i / 8) ((o.bit (j - 1) + fmtBits o.fmt - 1) / 8) ++
    if isMx o.fmt then atomsBetween (o.scaleAt i) (o.scaleAt (j - 1)) else []

/-- Atoms read, by address. -/
abbrev View := List (Nat × Atom)

/-- `w` bits at a bit address. -/
def viewBits (v : View) (b w : Nat) : Nat :=
  match v.find? fun e => e.1 == b / 512 * 64 with
  | some e => e.2.toNat / 2 ^ (b % 512) % 2 ^ w
  | none => 0

/-- The bits of element `i`. PRESUMED, log entry 60. -/
def Opd.raw (o : Opd) (v : View) (i : Nat) : Nat := viewBits v (o.bit i) (fmtBits o.fmt)

/-- dec() of element `i` (R325–R328). -/
def Opd.get (o : Opd) (v : View) (i : Nat) : Nat :=
  if isMx o.fmt then mxDec o.fmt (o.raw v i) (viewBits v (8 * o.scaleAt i) 8) else decElem o.fmt o.kind (o.raw v i)

/-- A result: where it goes and its bits; the binary32 value before encoding and as it would decode (R346); whether the shadow
compares it; its counts (R326). -/
structure Res where
  bit : Nat
  width : Nat
  bits : Nat
  wide : Nat
  stored : Nat
  narrow : Bool
  sat : Nat
  unf : Nat
deriving DecidableEq, Repr

/-- enc() of a value into element `i` of an operand of format 1 to 5. -/
def Opd.put (o : Opd) (i x : Nat) : Res :=
  let e := encElem o.fmt o.kind x
  ⟨o.bit i, fmtBits o.fmt, e.bits, x, decElem o.fmt o.kind e.bits, o.fmt == 2 || 4 ≤ o.fmt, e.sat, e.unf⟩

/-- The length that the instruction gave: that of its primary element data (R337, R341, R344). -/
def Job.len (j : Job) : Nat := 64 * j.atoms

/-- Elements of a job. -/
def Job.n (j : Job) : Nat := nmuElems j.w j.len

/-- Elements of a work atom. -/
def Job.per (j : Job) : Nat := j.n / j.atoms

/-- The operands of an NMU_UPDATE: weight, remainder, first and second moment, gradient; and the parameter block (R336, R337). -/
structure UpdOps where
  w : Opd
  r : Option Opd
  m : Option Opd
  v : Option Opd
  g : Opd
  p : Nat
deriving DecidableEq, Repr

/-- The operands from the job's extents, which follow the order of Table 11.5. -/
def Job.upd (j : Job) : UpdOps :=
  let w := j.w
  let op := uOp w
  let n := j.n
  let ir := 1
  let im := if updComp op then 2 else 1
  let iv := if uPaired w then im else im + 1
  let ig := im + (if uPaired w then 1 else (if updHasM op then 1 else 0) + (if updHasV op then 1 else 0))
  let mom := fun (i f kind off : Nat) => if uPaired w then (⟨j.base i, f, kind, 16, off, n⟩ : Opd) else opd (j.base i) f kind n
  { w := opd (j.base 0) (if updComp op then 3 else 1) 0 n
    r := if updComp op then some (opd (j.base ir) 3 5 n) else none
    m := if updHasM op then some (mom im (uMfmt w) 2 0) else none
    v := if updHasV op then some (mom iv (uVfmt w) 3 8) else none
    g := opd (j.base ig) (uGfmt w) 1 n
    p := j.base (ig + 1) }

/-- The operands that work atom `k` reads, each with the elements it needs, and those it writes: the block of a microscaling
destination is whole. -/
def Job.reads (j : Job) (k : Nat) : List Nat :=
  let i := k * j.per
  let e := i + j.per
  let w := j.w
  let op := insOp w
  if op = iUpdate then
    let u := j.upd
    u.w.atoms i e ++ ((u.r.toList ++ u.m.toList ++ u.v.toList).flatMap fun o => o.atoms i e) ++ u.g.atoms i e
  else if op = iReduce then
    if rOp w = 3 then (opd (j.base 1) (rFmt w) (rKind w) j.n).atoms i e
    else (if rOp w = 1 then [] else [j.atomAt k]) ++ (List.range (rK w)).map fun c => j.base 1 + c * j.len + 64 * k
  else
    let b := if isMx (cDfmt w) then i / 32 * 32 else i
    let f := if isMx (cDfmt w) then ceilDiv e 32 * 32 else e
    (opd (j.base 0) (cSfmt w) (cKind w) j.n).atoms b f

/-- Field `i` of the parameter block (Table 11.6). -/
def Job.param (j : Job) (i : Nat) : Nat := (j.params.getD 0).toNat / 2 ^ (32 * i) % 2 ^ 32

/-- What an element's update comes to: its results, and what the underflow watch counts. -/
structure UpdRes where
  res : List Res
  zero : Nat
  lost : Nat
deriving DecidableEq, Repr

/-- update() of R339 on element `i`. -/
def Job.update (j : Job) (v : View) (i : Nat) : UpdRes :=
  let u := j.upd
  let op := uOp j.w
  let comp := updComp op
  let w0 := u.w.raw v i
  let r0 := match u.r with | some o => o.raw v i | none => 0
  let W := if comp then joinW w0 r0 else w0
  let gg := fMul (u.g.get v i) (j.param 2)
  let old := fun (o : Option Opd) => match o with | some o => o.get v i | none => 0
  let m1 := if updHasV op then fFma (j.param 3) (old u.m) (fMul (j.param 4) gg)
    else if updHasM op then fFma (j.param 10) (old u.m) gg else gg
  let v1 := fFma (j.param 5) (old u.v) (fMul (j.param 6) (fMul gg gg))
  let step := if updHasV op then fDiv (fMul m1 (j.param 8)) (fAdd (fSqrt (fMul v1 (j.param 9))) (j.param 7)) else m1
  let u2 := fFma (j.param 1) W step
  let Wn := fFma (fNeg (j.param 0)) u2 W
  let sp := splitW Wn
  let weights : List Res :=
    if comp then
      [⟨u.w.bit i, 16, sp.1.bits, Wn, joinW sp.1.bits sp.2, true, sp.1.sat, sp.1.unf⟩] ++
        (u.r.toList.map fun o => (⟨o.bit i, 16, sp.2, 0, 0, false, 0, 0⟩ : Res))
    else [⟨u.w.bit i, 32, Wn, Wn, Wn, false, 0, 0⟩]
  let zero := fZero (j.param 0) || fZero u2
  let same := if comp then sp.1.bits == w0 && sp.2 == r0 else Wn == w0
  { res := weights ++ (u.m.toList.map fun o => o.put i m1) ++ (u.v.toList.map fun o => o.put i v1)
    zero := bit zero, lost := bit (!zero && same) }

/-- Element `i` of an NMU_REDUCE of OP 0 to 2 (Table 11.7). -/
def Job.reduce (j : Job) (v : View) (i : Nat) : Res :=
  let w := j.w
  let o := fun (b : Nat) => opd b (rFmt w) (rKind w) j.n
  let src := (List.range (rK w)).map fun c => (o (j.base 1 + c * j.len)).get v i
  let d := (o (j.base 0)).get v i
  (o (j.base 0)).put i (if rOp w = 0 then fAdd d (fTree src) else if rOp w = 1 then fTree src else src.foldl fMax d)

/-- The results of an NMU_CAST on elements [i, e) (R344). -/
def Job.cast (j : Job) (v : View) (i e : Nat) : List Res :=
  let w := j.w
  let src := opd (j.base 0) (cSfmt w) (cKind w) j.n
  let dst := opd (j.base 1) (cDfmt w) (cKind w) j.n
  if isMx (cDfmt w) then
    (List.range (ceilDiv e 32 - i / 32)).flatMap fun c =>
      let b := (i / 32 + c) * 32
      let xs := (List.range 32).map fun t => src.get v (b + t)
      let q := mxEncode (cDfmt w) xs
      (⟨8 * dst.scaleAt b, 8, q.1, 0, 0, false, 0, 0⟩ : Res) ::
        ((List.range 32).filter fun t => i ≤ b + t && b + t < e).map fun t =>
          ⟨dst.bit (b + t), dst.stride, q.2.getD t 0, xs.getD t 0, mxDec (cDfmt w) (q.2.getD t 0) q.1, true, 0, 0⟩
  else (List.range (e - i)).map fun t => dst.put (i + t) (src.get v (i + t))

/-- What a work atom of a SCAN gives (R343): its largest magnitude, zeros and non-finite elements, then its group sums. -/
def Job.scanPart (j : Job) (v : View) (i e : Nat) : List Nat :=
  let src := opd (j.base 1) (rFmt j.w) (rKind j.w) j.n
  let xs := (List.range (e - i)).map fun t => src.get v (i + t)
  let fin := xs.filter fun x => !fNonfin x
  let q := xs.map fun x => if fNonfin x then 0 else
    let y := fMul x x
    if fNonfin y then 0 else y
  [fin.foldl (fun m x => max m (fAbs x)) 0, (xs.filter fZero).length, (xs.filter fNonfin).length] ++
    (List.range ((e - i) / 8)).map fun g => fTree ((q.drop (8 * g)).take 8)

/-- The scan record (Table 11.9) of the parts of all work atoms in order. -/
def Job.scanRecord (j : Job) (parts : List (List Nat)) : Atom :=
  let nth := fun (p : List Nat) (i : Nat) => p.getD i 0
  atomOf [(parts.foldl (fun m p => max m (nth p 0)) 0) * 2 ^ 32 + fTree (parts.flatMap fun p => p.drop 3), j.n % 2 ^ 40,
    (parts.foldl (fun m p => m + nth p 1) 0) % 2 ^ 40, (parts.foldl (fun m p => m + nth p 2) 0) % 2 ^ 40]

/-- What a work atom has computed: its results, and, of a scan, its part. -/
structure Work where
  res : List Res
  zero : Nat
  lost : Nat
  part : List Nat
deriving DecidableEq, Repr

/-- The computation of work atom `k` (R331). -/
def Job.work (j : Job) (v : View) (k : Nat) : Work :=
  let i := k * j.per
  let e := i + j.per
  let ix := (List.range j.per).map (i + ·)
  if insOp j.w = iUpdate then
    let l := ix.map (j.update v)
    ⟨l.flatMap (·.res), (l.map (·.zero)).sum, (l.map (·.lost)).sum, []⟩
  else if insOp j.w = iReduce then
    if rOp j.w = 3 then ⟨[], 0, 0, j.scanPart v i e⟩ else ⟨ix.map (j.reduce v), 0, 0, []⟩
  else ⟨j.cast v i e, 0, 0, []⟩

/-- A write of an atom: its data, and the bytes it writes. -/
structure AtomW where
  addr : Nat
  data : Nat
  mask : Nat
deriving DecidableEq, Repr

/-- Results gathered by atom. -/
def gather : List Res → List AtomW
  | [] => []
  | r :: l =>
    let t := gather l
    let a := r.bit / 512 * 64
    let b := r.bit % 512
    let m := (2 ^ r.width - 1) * 2 ^ b
    if t.any fun x => x.addr == a then
      t.map fun x => if x.addr = a then
        { x with data := bitsPut x.data (b + r.width - 1) b r.bits, mask := x.mask ||| m } else x
    else ⟨a, r.bits % 2 ^ r.width * 2 ^ b, m⟩ :: t

/-- The bytes of a mask of bits. -/
def byteMask (m : Nat) : BitVec 64 :=
  BitVec.ofNat 64 (((List.range 64).map fun i => bit (m / 2 ^ (8 * i) % 2 ^ 8 != 0) * 2 ^ i).sum)

/-- The class of NMU accesses (R175). -/
def State.nmuClass (s : State) : Nat := s.fget F.trfNmuBind_CLASS

/-- NMU `m` begins an access for the item of NMU `n`, through lane 17 of its stack (R330, R331); the access is checked under the launch
master's group. -/
def State.nmuIssue (s : State) (o : Own) (n m : Nat) (j : Job) (kind : PKind) (a : Nat) (data : List Atom) (be : List (BitVec 64)) : State :=
  let x : Access := ⟨17, s.nmuClass, .nmu m, (s.slot j.slot).mid, [if kind = .read then .read else .write, .nmu], none⟩
  (s.ownStart o x kind a 1 data (data.map fun _ => false) be).modReq s.nextReq fun r => { r with origin := j.ctx, tag := n }

/-- Extents of two operands hold the atom (R331). -/
def Job.overlapped (j : Job) (a : Nat) : Bool := 2 ≤ (j.ext.filter fun e => e.1 ≤ a && a < e.1 + e.2).length

/-- The writes of a work atom as they are made: what an atom of two operands holds afterwards is open (R331; DESIGN CHOICE, log entry 2). -/
def State.opened (s : State) (j : Job) (l : List AtomW) : State × List AtomW :=
  l.foldl (fun (r : State × List AtomW) w =>
    if j.overlapped w.addr then (r.1.freed, r.2 ++ [⟨w.addr, (Config.freeAtom r.1.free).toNat, 2 ^ 512 - 1⟩])
    else (r.1, r.2 ++ [w])) (s, [])

/-- The request reads for an instruction of job `id`, for work atom `k` alone where that is given. -/
def Req.readsWork (r : Req) (id : Nat) (k : Option Nat) : Bool :=
  match r.src with
  | .own (.nmuRead i l _) => i == id && k.all (· == l)
  | .own (.param i) => i == id && k.isNone
  | _ => false

/-- The reads of a job, or of its work atom `k`, are forgotten. -/
def State.readsDrop (s : State) (id : Nat) (k : Option Nat) : State := { s with reqs := s.reqs.filter fun e => !e.2.readsWork id k }

/-- Remove a job. Writes that it has issued complete (R349). -/
def State.dropJob (s : State) (id : Nat) : State :=
  let s := s.readsDrop id none
  { s with
    jobs := SMap.erase s.jobs id
    reqs := s.reqs.filter fun e => match e.2.src with | .own (.nmuWrite i _ _) => !(i == id && e.2.direct != .blocked) | _ => true }

/-- An instruction ends in a trap (R306, R349): that of a program that runs on in an ASYNC instruction waits for the next boundary; a
program already ending keeps its end. -/
def State.jobTrap (s : State) (id : Nat) (j : Job) (t : Trap) : State :=
  let s := s.dropJob id
  let e : Ending := ⟨true, t.code, t.arg0, t.arg1, j.pc, true⟩
  if j.async then s.modCtx j.ctx fun x => { x with asyncTrap := some (x.asyncTrap.getD e) }
  else if (s.slot j.slot).st = .finishing then s
  else s.finish j.slot e

/-- The first work atom at stack `k` that is not done. -/
def State.undoneAt (s : State) (j : Job) (k : Nat) : Option Nat :=
  (List.range j.atoms).find? fun i => !j.done.contains i && (s.locOf (j.atomAt i)).stack == k

/-- An ASYNC instruction waits at a stack for the earlier ones of its context (R306). -/
def State.jobWaits (s : State) (id : Nat) (j : Job) (k : Nat) : Bool :=
  j.async && s.jobs.any fun e => e.1 < id && e.2.ctx == j.ctx && e.2.async && (s.undoneAt e.2 k).isSome

/-- Count the exchange of atom `a` for the work atom of NMU `n` (R330, R332): sent by one, received by the other. -/
def State.exchange (s : State) (n a : Nat) : State :=
  match s.servingAt a with
  | some m => if m / 4 = n / 4 then s else (s.count (F.nmuExchangeAtoms_COUNT n) 1).count (F.nmuExchangeAtoms_COUNT m) 1
  | none => s

/-- The tile of a work atom is sampled (R346). -/
def State.sampled (s : State) (j : Job) (t : Nat) : Bool :=
  s.flag F.seqNmuShadowCfg_EN && t % 2 ^ s.fget F.seqNmuShadowCfg_K == 0 && !(insOp j.w == iReduce && rOp j.w == 3)

/-- The greatest error and magnitude of the narrow outputs of some elements, output by output (R346). -/
def shadow (outs : Nat) (res : List Res) : List (Nat × Nat) :=
  (List.range outs).map fun o =>
    ((res.filter (·.narrow)).zipIdx.filter fun r => r.2 % outs == o && !fNonfin r.1.wide).foldl
      (fun b r => (fMax b.1 (fAbs (fSub r.1.stored r.1.wide)), fMax b.2 (fAbs r.1.wide))) (0, 0)

/-- Narrow outputs of each element of an instruction. -/
def Job.outs (j : Job) : Nat :=
  let w := j.w
  let nar := fun f => bit (f == 2 || 4 ≤ f)
  if insOp w = iUpdate then
    bit (updComp (uOp w)) + (if updHasM (uOp w) then nar (uMfmt w) else 0) + (if updHasV (uOp w) then nar (uVfmt w) else 0)
  else if insOp w = iReduce then nar (rFmt w) else nar (cDfmt w)

/-- Two lists of maxima together. -/
def maxima (a b : List (Nat × Nat)) : List (Nat × Nat) :=
  if a = [] then b else (a.zip b).map fun e => (fMax e.1.1 e.2.1, fMax e.1.2 e.2.2)

/-- The first diverging output of a tile (R346). -/
def State.diverging (s : State) (l : List (Nat × Nat)) : Option (Nat × Nat) :=
  l.find? fun e => exceeds e.1 (s.fget F.seqNmuShadowCfg_DIV_SHIFT) e.2

/-- Every work atom of tile `t` is done. DEDUCED, log entry 63. -/
def Job.tileDone (j : Job) (t : Nat) : Bool :=
  (List.range j.atoms).all fun k => k * j.per / 256 != t || j.done.contains k

/-- The job once work atom `k` has been computed. -/
def Job.after (j : Job) (k : Nat) (x : Work) (sampled : Bool) : Job :=
  let t := k * j.per / 256
  { j with
    lost := j.lost + x.lost, zero := j.zero + x.zero
    tiles := if sampled then SMap.put j.tiles [] t (maxima (SMap.get j.tiles [] t) (shadow j.outs x.res)) else j.tiles
    scan := if x.part = [] then j.scan else SMap.put j.scan [] k x.part }

/-- The counters of NMU `n` take a work atom (Table 11.16). -/
def State.countWork (s : State) (n elems : Nat) (res : List Res) : State :=
  ((((s.count (F.nmuElements_COUNT n) elems).count (F.nmuSaturated_COUNT n) (res.map (·.sat)).sum).count
    (F.nmuUnderflowed_COUNT n) (res.map (·.unf)).sum).count (F.nmuNonfinite_COUNT n)
      (res.filter fun r => fNonfin r.wide).length)

/-- NMU `n` has completed an item (R351). -/
def State.nmuDid (s : State) (n : Nat) : State := { s with nmuSince := SMap.put s.nmuSince 0 n s.cadence }

/-- The record of a scan whose work atoms have all been computed. -/
def Job.lastWrite (j : Job) : List AtomW :=
  if insOp j.w = iReduce && rOp j.w == 3 && j.scan.length == j.atoms then
    [⟨j.base 0, (j.scanRecord ((List.range j.atoms).map fun k => SMap.get j.scan [] k)).toNat, 2 ^ 512 - 1⟩]
  else []

/-- Some atom of the list is in another stack, at which no NMU is ACTIVE to serve it (R352). DEDUCED, log entry 62. -/
def State.unserved (s : State) (n : Nat) (l : List Nat) : Bool := l.any fun a => (s.accessor n a).isNone

/-- Work atom `k` of a job is done: its writes are visible. Its tile may be found to diverge (R347). -/
def State.itemDone (s : State) (id k : Nat) (j : Job) : State :=
  let t := k * j.per / 256
  let j := { j with done := j.done ++ [k] }
  let s := { s with jobs := SMap.insert s.jobs id j }
  if s.sampled j t && j.tileDone t && (s.diverging (SMap.get j.tiles [] t)).isSome then s.count F.seqNmuDiverged_COUNT 1 else s

/-- A result atom is written by the NMU of its stack; one with bytes that are not written is a write-partial (R330). DEDUCED, log entry
61. -/
def State.resultWrite (s : State) (n id k : Nat) (j : Job) (w : AtomW × Nat) : State :=
  let be := byteMask w.1.mask
  let full := be == BitVec.allOnes 64
  (s.nmuIssue (.nmuWrite id k w.2) n ((s.accessor n w.1.addr).getD n) j (if full then .write else .partialWrite) w.1.addr
    [BitVec.ofNat 512 w.1.data] (if full then [] else [be])).exchange n w.1.addr

/-- NMU `n` has read the operands of work atom `k` of a job: it computes, counts, and issues every write (R331). -/
def State.itemCompute (s : State) (n id k : Nat) (j : Job) (reads : List Nat) (v : View) : State :=
  let x := j.work v k
  let j' := j.after k x (s.sampled j (k * j.per / 256))
  let o := s.opened j (gather x.res ++ j'.lastWrite)
  if s.unserved n (o.2.map (·.addr)) then s.jobTrap id j ⟨0x15, j.atomAt k, 3⟩
  else
    let s := { o.1 with jobs := SMap.insert o.1.jobs id j' }
    let s := (s.forEach reads fun s a => s.exchange n a).countWork n j.per x.res
    if o.2 = [] then (s.nmuDid n).itemDone id k j' else s.forEach o.2.zipIdx fun s w => s.resultWrite n id k j' w

/-- The reads of work atom `k` of a job as they stand. -/
def State.itemReads (s : State) (id k : Nat) (reads : List Nat) : List (Nat × Direct) :=
  reads.zipIdx.map fun e => (e.1, ((s.ownFind (.nmuRead id k e.2)).map fun r => r.2.direct).getD .blocked)

/-- The answer is poisoned data. -/
def Direct.poisoned : Direct → Bool
  | .data _ b => b
  | _ => false

/-- The data of an answer. -/
def Direct.atom : Direct → Atom
  | .data d _ => d
  | _ => 0

/-- What ends an instruction whose reads or writes have been answered so: a poisoned atom comes before a denial (R349, R306, Table 11.12). -/
def accessTrap (l : List (Nat × Direct)) : Option Trap :=
  match l.find? fun e => e.2.poisoned, l.find? fun e => e.2 == .denied, l.find? fun e => e.2 == .lost with
  | some e, _, _ => some ⟨0x15, e.1, 1⟩
  | none, some e, _ => some ⟨0x10, e.1, 2⟩
  | none, none, some e => some ⟨0x11, e.1, 0⟩
  | none, none, none => none

/-- The item of NMU `n`, work atom `k` of a job, goes on: once every read has been answered it is computed, once every write has it is done. -/
def State.itemGo (s : State) (n id k : Nat) (j : Job) : State :=
  if s.reqs.any fun e => e.2.readsWork id (some k) then
    let reads := (j.reads k).eraseDups
    let l := s.itemReads id k reads
    if l.any fun e => e.2 == .blocked then s
    else
      let s := s.readsDrop id (some k)
      match accessTrap l with
      | some t => (if t.code = 0x15 then s.count (F.nmuHalts_COUNT n) 1 else s).jobTrap id j t
      | none => s.itemCompute n id k j reads (l.map fun e => (e.1, e.2.atom))
  else
    let l := (s.reqs.filter fun e => e.2.writesWork id k).map fun e => (e.2.addr, e.2.direct)
    if l.any fun e => e.2 == .blocked then s
    else
      let s := { s with reqs := s.reqs.filter fun e => !e.2.writesWork id k }
      match accessTrap l with
      | some t => s.jobTrap id j t
      | none => s.itemDone id k j

/-- NMU `n` begins work atom `k` of a job: its operands are read (R331). -/
def State.itemStart (s : State) (n id k : Nat) (j : Job) : State :=
  let reads := (j.reads k).eraseDups
  if s.unserved n reads then s.jobTrap id j ⟨0x15, j.atomAt k, 3⟩
  else s.forEach reads.zipIdx fun s e => s.nmuIssue (.nmuRead id k e.2) n ((s.accessor n e.1).getD n) j .read e.1 [] []

/-- The parameter block of a job has been read, where it needs one (R338). -/
def Job.ready (j : Job) : Bool := insOp j.w != iUpdate || j.params.isSome

/-- The parameter block of a job is read, once: a poisoned one halts the instruction (R338, Table 11.10), and so does one at a stack with no
ACTIVE NMU (R352; log entry 62). -/
def State.paramGo (s : State) (id : Nat) : State :=
  match SMap.get? s.jobs id with
  | none => s
  | some j =>
    let p := j.upd.p
    if j.ready then s
    else match s.servingAt p with
      | none => s.jobTrap id j ⟨0x15, j.atomAt 0, 3⟩
      | some m => match s.ownGo (.param id) fun s => s.nmuIssue (.param id) m m j .read p [] [] with
        | (s, .data d false) => { s with jobs := SMap.insert s.jobs id { j with params := some d } }
        | (s, .data _ true) => s.jobTrap id j ⟨0x15, p, 2⟩
        | (s, .denied) => s.jobTrap id j ⟨0x10, p, 2⟩
        | (s, .lost) => s.jobTrap id j ⟨0x11, p, 0⟩
        | (s, _) => s

/-- An atomic-add-beside piece has an atom for its NMU (R333). -/
def Piece.addable (q : Piece) : Bool := q.kind == .atomicAdd && !q.conf && !q.wr && q.got != []

/-- Work waits for NMU `n` in share `r` of its stack, or, for 4, atomic-add-beside atoms do (R335, R351). -/
def State.nmuReady (s : State) (n r : Nat) : Bool :=
  let k := n / 4
  if r = 4 then (List.range 64).any fun p => (s.pcc k p).buf.any fun q => q.addable && s.serving k (q.lpc % 4) == some n
  else (s.fget (F.nmuStatus_SERVES n)).testBit r && s.jobs.any fun e => e.2.ready && !s.jobWaits e.1 e.2 k &&
    (List.range e.2.atoms).any fun i => !e.2.done.contains i &&
      (let l := s.locOf (e.2.atomAt i); l.stack == k && l.lpc % 4 == r)

/-- NMU `n`, with nothing in progress, serves share `r` next, or, for 4, atomic-add-beside: one item at a time, in rotation (R335, R351). -/
def State.nmuTurnIs (s : State) (n r : Nat) : Bool :=
  (s.nmuItem n).isNone &&
    arbitrate 5 (SMap.get s.nmuTurn 4 n) (((List.range 5).filter fun i => s.nmuReady n i).map fun i => (i, 0)) == some r

/-- NMU `n` has begun an item of share `r`, or an atomic-add-beside atom. -/
def State.nmuServed (s : State) (n r : Nat) : State := { s with nmuTurn := SMap.put s.nmuTurn 4 n r }

/-- NMU_WORK_ATOM (R331): NMU `n` begins work atom `k` of job `id` when its turn has come, or goes on with it. -/
def State.nmuWorkAtom (s : State) (n id k : Nat) : State :=
  match SMap.get? s.jobs id with
  | none => s
  | some j =>
    let l := s.locOf (j.atomAt k)
    if s.nmuItem n = some (id, k) then s.itemGo n id k j
    else if j.atoms ≤ k || j.done.contains k || !j.ready || s.jobWaits id j l.stack then s
    else match s.serving l.stack (l.lpc % 4) with
      | none => s.jobTrap id j ⟨0x15, j.atomAt ((s.undoneAt j l.stack).getD k), 3⟩
      | some m => if m = n ∧ s.nmuTurnIs n (l.lpc % 4) then (s.nmuServed n (l.lpc % 4)).itemStart n id k j else s

/-- The job of an instruction of context `x`, its launch checks passed. -/
def newJob (c : Nat) (x : Ctx) (w now : Nat) : Job :=
  let len := insLen x w
  { ctx := c, slot := x.slot, pc := x.pc, word := BitVec.ofNat 128 w, async := flAsync w
    ext := (extents x w len).map fun e => (e.base, e.len), atoms := len / 64, done := [], params := none, lost := 0, zero := 0
    tiles := [], scan := [], began := now }

/-- The instruction goes to the NMUs (R305, R306): ASYNC, the context proceeds; else it waits for the instruction to be done. An NMU_UPDATE
reads its parameter block first (R338). A stack with a work atom and no ACTIVE NMU halts it (R352). -/
def State.jobStart (s : State) (c : Nat) (x : Ctx) (w : Nat) : State :=
  let j := newJob c x w s.cadence
  match (List.range j.atoms).find? fun k => (s.servingAt (j.atomAt k)).isNone with
  | some k => s.trapNow c ⟨0x15, j.atomAt k, 3⟩
  | none =>
    let id := s.nextJob
    let s := { s with jobs := SMap.insert s.jobs id j, nextJob := id + 1 }
    (if j.async then s.setCtx c (some (x.complete w)) else s).paramGo id

/-- A fifth ASYNC instruction of a context waits (R306). -/
def State.asyncFull (s : State) (c : Nat) : Bool := 4 ≤ ((s.ctxJobs c).filter fun e => e.2.async).length

/-- An NMU instruction of context `c`: handed to the NMUs once; a fifth ASYNC one waits (R306). -/
def State.nmuStart (s : State) (c : Nat) (x : Ctx) (w : Nat) : State :=
  if (if flAsync w then s.asyncFull c else (s.ctxJobs c).any fun e => !e.2.async) then s else s.jobStart c x w

def State.nmuIns (s : State) (c op : Nat) : State := s.timed c (fun w => insOp w == op) fun s x w => s.nmuStart c x w

/-- NMU_UPDATE (R336–R340). -/
def execNmuUpdate (c : Fin 256) (s : State) : Host.Outcome State Fault Refusal := .next (s.nmuIns c.val iUpdate)
/-- NMU_REDUCE (R341). -/
def execNmuReduce (c : Fin 256) (s : State) : Host.Outcome State Fault Refusal := .next (s.nmuIns c.val iReduce)
/-- NMU_CAST (R344). -/
def execNmuCast (c : Fin 256) (s : State) : Host.Outcome State Fault Refusal := .next (s.nmuIns c.val iCast)

/-- NUMERIC_DIVERGE for an instruction that has completed (R347). -/
def State.noteDiverge (s : State) (j : Job) : State :=
  let l := j.tiles.filterMap fun e => (s.diverging e.2).map fun d => (e.1, d)
  match l with
  | [] => s
  | (t, d) :: _ => s.post 0x040F j.slot (t % 2 ^ 32 * 2 ^ 32 + min l.length 0xFFFF * 2 ^ 16 + j.slot) (d.1 * 2 ^ 32 + d.2)

/-- The underflow watch of an instruction that has completed (R348). -/
def State.noteUnderflow (s : State) (j : Job) : State :=
  let tag := uTag j.w
  if insOp j.w ≠ iUpdate || tag = 0 then s
  else
    let ratio := s.fget F.seqNmuWatchCfg_RATIO
    if ratio ≠ 0 && ratio * j.n ≤ (j.lost + j.zero) * 65536 then
      let run := min 0x7FFF (s.fget (F.watchRun tag) + 1)
      let s := s.fset (F.watchRun tag) run
      if max 1 (s.fget F.seqNmuWatchCfg_RUN_LIMIT) ≤ run && !s.flag (F.watchAlerted tag) then
        (s.raise (F.watchAlerted tag)).post 0x0410 j.slot (tag + run * 2 ^ 16)
          (min j.lost 0xFFFFFFFF * 2 ^ 32 + min j.zero 0xFFFFFFFF)
      else s
    else (s.fset (F.watchRun tag) 0).fset (F.watchAlerted tag) 0

/-- NMU_INSTRUCTION_DONE (R347, R348): every write of the instruction is visible; a context that waited for it goes on. -/
def State.nmuDone (s : State) (id : Nat) : State :=
  match SMap.get? s.jobs id with
  | none => s
  | some j =>
    if j.done.length < j.atoms then s
    else
      let s := ((s.dropJob id).noteDiverge j).noteUnderflow j
      if j.async then s
      else if (s.slot j.slot).st = .running then s.modCtx j.ctx fun x => x.complete j.w
      else s

def execNmuInstructionDone (id : Nat) (s : State) : Host.Outcome State Fault Refusal := .next (s.nmuDone id)

/-- The instructions on which `p` picks a work atom halt with that cause and that atom's address (R349).
DEDUCED, log entry 73. -/
def State.haltJobs (s : State) (cause : Nat) (p : Nat → Job → Option Nat) : State :=
  s.forEach s.jobs fun s e => match p e.1 e.2 with
    | some k => s.jobTrap e.1 e.2 ⟨0x15, e.2.atomAt k, cause⟩
    | none => s

/-- The NMU that takes the share `j` of stack `k` that NMU 4k + j leaves (R351). -/
def State.adopter (s : State) (k j : Nat) : Option Nat :=
  ([1, 2, 3].map fun d => 4 * k + (j + d) % 4).find? s.nmuActive

/-- What NMU `n` had in progress when its shares pass on: a work atom that is still being read is processed again, from its reads (R350); one
whose writes have been issued completes. -/
def State.itemsPass (s : State) (n : Nat) : State :=
  let owner := fun (r : Req) => match r.src with
    | .own (.nmuWrite i k _) => if r.tag = n then ((SMap.get? s.jobs i).bind fun j => s.servingAt (j.atomAt k)).getD n else r.tag
    | _ => r.tag
  let stale := fun (r : Req) => match r.src with | .own (.nmuRead _ _ _) => r.tag == n | _ => false
  { s with reqs := (s.reqs.filter fun e => !stale e.2).map fun e => (e.1, { e.2 with tag := owner e.2 }) }

/-- NMU `n` leaves service (Table 11.11, R351): its shares pass on; with none left at the stack, instructions with work there halt. -/
def State.nmuLeave (s : State) (n st cause : Nat) : State :=
  let k := n / 4
  let shares := (List.range 4).filter fun j => (s.fget (F.nmuStatus_SERVES n)).testBit j
  let s := (s.fset (F.nmuStatus_STATE n) st).fset (F.nmuStatus_SERVES n) 0
  let own := s.adopter k (n % 4)
  let s := s.forEach shares fun s j => match s.adopter k j with
    | some m => s.fset (F.nmuStatus_SERVES m) (s.fget (F.nmuStatus_SERVES m) ||| 2 ^ j)
    | none => s
  let s := { (s.itemsPass n) with nmuLast := SMap.put s.nmuLast 0 k n }
  let s := s.post 0x030B (unitPc k 0) (n + cause * 2 ^ 8) (own.getD 0x1F)
  if own.isSome then s else s.haltJobs 3 fun _ j => s.undoneAt j k

/-- NMU_PARITY_ERROR (R350): nothing of the work atom in progress has been written. -/
def State.nmuParity (s : State) (n : Nat) : State :=
  if s.build.nmus && s.nmuActive n && n / 4 < s.build.nStacks then
    (s.count (F.nmuParityErrs_COUNT n) 1).nmuLeave n 1 1 else s

/-- An NMU that is to go OFFLINE does so once it has no item in progress (Table 11.11, Table 11.12). -/
def State.offlines (s : State) : State :=
  s.forEach (List.range 32) fun s n =>
    if s.flag (F.nmuCtl_OFFLINE n) && s.nmuActive n && (s.nmuItem n).isNone then s.nmuLeave n 3 3 else s

def execNmuParityError (n : Fin 32) (s : State) : Host.Outcome State Fault Refusal := .next (s.nmuParity n.val).offlines

/-- NMU_OFFLINE (R350): a write of CTL.OFFLINE. -/
def State.nmuOffline (s : State) (n : Nat) : State :=
  if s.build.nmus && n / 4 < s.build.nStacks then (s.raise (F.nmuCtl_OFFLINE n)).offlines else s

def execNmuOffline (n : Fin 32) (s : State) : Host.Outcome State Fault Refusal :=
  s.cpDo (.nmuOffline n) fun s => s.nmuOffline n.val

/-- An item is in progress at NMU `n` (STATUS.BUSY). -/
def State.nmuBusy (s : State) (n : Nat) : Bool := (s.nmuItem n).isSome

/-- A write of the item of NMU `n` waits for the write window, so that its watchdog does not count (R404). -/
def State.nmuHeld (s : State) (n : Nat) : Bool :=
  let held := fun (q : Piece) => q.hold && (s.req? q.req).any fun r => r.tag == n && (match r.src with | .own (.nmuWrite _ _ _) => true | _ => false)
  s.lanes.any held || s.pccs.any fun e => e.2.buf.any held

/-- When the watchdog of NMU `n` runs out: it holds an item and completes none for the limit (R351). -/
def State.dogDue (s : State) (n : Nat) : Option Nat :=
  let w := s.fget (F.nmuCfg_WATCHDOG n)
  if w = 0 || !s.nmuActive n || s.nmuHeld n then none else (s.dogSince n).map (· + w * 1024)

/-- The watchdog of NMU `n` has run out: the instructions with work there halt, and it is cut off (R351). -/
def State.wedge (s : State) (n : Nat) : State :=
  let u := s.haltJobs 4 (s.workOf n)
  (if u.jobs = s.jobs then u else u.count (F.nmuHalts_COUNT n) (s.jobs.length - u.jobs.length)).nmuLeave n 2 2

/-- A watchdog that has run out prevails over the completion of the item (Table 11.12). -/
def State.dogSettle (s : State) (n : Nat) : State :=
  match s.dogDue n with
  | some t => if t ≤ s.cadence then s.wedge n else s
  | none => s

/-- NMU_WATCHDOG (R351). -/
def State.nmuWatchdog (s : State) (n : Nat) : State :=
  match (s.dogDue n).bind s.atCadence with
  | some s => s.wedge n
  | none => s

def execNmuWatchdog (n : Fin 32) (s : State) : Host.Outcome State Fault Refusal := .next (s.nmuWatchdog n.val).offlines

def execNmuWorkAtom (n : Fin 32) (id k : Nat) (s : State) : Host.Outcome State Fault Refusal :=
  .next (if s.coreOn then (((s.paramGo id).dogSettle n.val).nmuWorkAtom n.val id k).offlines else s)

/-- Elements of an atom in format `f`. -/
def atomElems (f : Nat) : Nat := 512 / fmtBits f

/-- enc(op(dec(D), dec(A))) element by element under a stream's binding (R333). -/
def addBeside (red : Nat) (d a : Atom) : List EncOut × List Nat :=
  let f := bitsOf red 8 5
  let kind := bitsOf red 4 2
  let b := fmtBits f
  let get := fun (x : Atom) (i : Nat) => decElem f kind (x.toNat / 2 ^ (b * i) % 2 ^ b)
  let xs := (List.range (atomElems f)).map fun i => if bitsOf red 1 0 = 2 then fMax (get d i) (get a i) else fAdd (get d i) (get a i)
  (xs.map (encElem f kind), xs)

/-- Encoded elements as an atom. -/
def packElems (f : Nat) (l : List EncOut) : Atom := BitVec.ofNat 512 (l.foldr (fun e n => e.bits + 2 ^ fmtBits f * n) 0)

/-- NMU `n` combines the first atom that has come for the piece with the addend (R333): a poisoned target is left, and answered POISON
(Table 9.3). With its last atom the piece comes to its writes, at its place in buffer order (R207). -/
def State.addAtom (s : State) (k p n : Nat) (q : Piece) (e : Nat × Atom × Bool × Bool) : State :=
  let i := e.1
  let s := (s.nmuDid n).nmuServed n 4
  if e.2.2.1 then
    ((s.modPiece k p q.id fun x => { x with got := x.got.drop 1, left := x.left.filter (· != i) }).goOn k p q.id).setAtom q.req (q.first + i)
      (.of .poison)
  else
    let f := bitsOf q.red 8 5
    let o := addBeside q.red e.2.1 (q.data.getD i 0)
    let s := s.count (F.nmuAtomicAtoms_COUNT n) 1
    let s := s.countWork n (atomElems f) ((o.1.zip o.2).map fun e => ⟨0, 0, 0, e.2, 0, false, e.1.sat, e.1.unf⟩)
    ((s.modPiece k p q.id fun x => { x with got := x.got.drop 1, data := x.data.set i (packElems f o.1) }).goOn k p q.id).setAtom q.req
      (q.first + i) (.of .ok)

/-- An atomic-add-beside at a stack with no ACTIVE NMU (R352): its atoms that have not been combined are answered ACCESS_DENIED. -/
def State.addDenied (s : State) (k p : Nat) (q : Piece) : State :=
  let s := s.deny k q.addr q.mid (.nmu (SMap.get s.nmuLast 0 k)) ⟨s.deciding k q.addr, .nmu⟩
  let gone := q.todo ++ q.pend ++ q.got.map (·.1)
  let x := { q with todo := [], got := [], left := q.left.filter fun i => !gone.contains i }
  let s := s.modPiece k p q.id fun _ => x
  let s := if q.todo != [] then s.trainDone k p x else s.goOn k p q.id
  s.forEach gone fun s i => s.setAtom q.req (q.first + i) (.of .denied)

/-- ATOMIC_ADD_NMU (R333): the oldest piece with an atom for its NMU, when that NMU's turn has come to atomic work (R335). -/
def State.atomicAdd (s : State) (k p : Nat) : State :=
  match (s.pcc k p).buf.find? Piece.addable with
  | none => s
  | some q =>
    match s.serving k (q.lpc % 4) with
    | some n =>
      let t := s.dogSettle n
      if s.serving k (q.lpc % 4) = t.serving k (q.lpc % 4) && s.nmuTurnIs n 4 then
        match q.got with
        | e :: _ => s.addAtom k p n q e
        | [] => s
      else t
    | none => s.addDenied k p q

def execAtomicAddNmu (k : Fin 8) (p : Fin 64) (s : State) : Host.Outcome State Fault Refusal := .next (s.atomicAdd k.val p.val).offlines

end Sys2Proof.Machine
end

