-- ==== Sys2Proof/Machine/RegRead.lean ====
section
/-! DEFINITION. What a read of a register returns (R12, R13, R87–R89): the fields held in `regs`, with those that other parts
of State hold put over them, and the read-clear fields returned to reset (Table 0.9). -/

namespace Sys2Proof.Machine

/-- The resource whose registers include address `a` is built (R6, R13, R395). DEDUCED, log entry 104. -/
def State.present (s : State) (a : Nat) : Bool :=
  let stack := fun (base size : Nat) => decide ((a - base) / size < s.build.nStacks)
  if 0x100000 ≤ a then stack 0x100000 0x20000
  else if 0x40000 ≤ a && a < 0x50000 then s.build.nmus && stack 0x40000 0x2000
  else if (0x10080 ≤ a && a < 0x10098) || (0x1C000 ≤ a && a < 0x1E000) then s.build.nmus
  else if 0x31000 ≤ a && a < 0x31800 then stack 0x31000 0x100
  else if 0x6100 ≤ a && a < 0x6180 then stack 0x6100 0x10
  else true

/-- A field that another part of State holds, as a register's value shows it: the register's base and dimensions, and its value
from its indices and the held word. -/
structure Overlay where
  base : Nat
  dims : List (Nat × Nat)
  val : State → Nat → Nat → Nat → Nat

/-- The value of field `f` put into word `w`. -/
def Fld.put (f : Fld) (w v : Nat) : Nat := bitsPut w f.hi f.lo v

/-- Count the elements of a list that satisfy `p`. -/
def countIf {α : Type} (l : List α) (p : α → Bool) : Nat := (l.filter p).length

/-- PORT_STATUS (Table 2.16). -/
def State.portStatus (s : State) (n w : Nat) : Nat :=
  let o := s.outstanding n
  (F.glbPortStatus_CREDITED n).put ((F.glbPortStatus_IDLE n).put ((F.glbPortStatus_OUTSTANDING n).put w o) (bit (o == 0)))
    (bit (s.port n).credited)

/-- SEQ.SLOT_STATE (Table 10.17). -/
def SlotSt.code : SlotSt → Nat
  | .free => 0 | .queued => 1 | .loading => 2 | .running => 3 | .waiting => 4 | .saving => 5 | .swapped => 6 | .finishing => 7

def State.slotState (s : State) (n : Nat) : Nat :=
  let x := s.slot n
  if x.st = .free then 0
  else x.mid * 2 ^ 24 + bit x.pin * 2 ^ 23 + bit x.priv * 2 ^ 22 + x.ctx.getD 0 * 2 ^ 12 + x.st.code

/-- TRF.CACHE_STATUS (Table 4.5). -/
def State.cacheStatus (s : State) : Nat :=
  countIf s.cache (fun e => e.2.resident) * 2 ^ 32 +
    countIf s.cache (fun e => e.2.st == .busy || e.2.st == .draining) * 2 ^ 16 + s.pinned

/-- TRF.SCALE (Table 5.17). -/
def State.scaleReg (s : State) : Nat :=
  let r := s.scale
  bit (s.throttled r.2) * 2 ^ 26 + multCode (s.refMult r.2) * 2 ^ 24 + r.2 * 2 ^ 20 + r.1

/-- PG_CAPO.DRAINED: port groups under Capo with no atom between port group and ingress (Table 6.5). -/
def State.pgDrained (s : State) : Nat :=
  maskOf ((List.range 16).filter fun g => (s.fget F.arbPgCapo_CAPO).testBit g &&
    !((s.lanes ++ s.sorting).any fun q => q.lane == g))

/-- BUF_STATUS (Table 7.10). -/
def Pcc.bufStatus (c : Pcc) : Nat :=
  bit c.writeMode * 2 ^ 40 + countIf c.buf (fun q => q.st == .parked) * 2 ^ 32 +
    ((List.range 64).foldl (fun m b => max m (c.inBank b)) 0) * 2 ^ 24 + c.burstWrites.length * 2 ^ 16 +
    countIf c.buf (fun q => q.st == .held) * 2 ^ 8 + c.occ

/-- REPLAY_STATUS.STATE (Table 8.19). -/
def ReplaySt.code : ReplaySt → Nat
  | .run => 0 | .halt => 1 | .retrain => 2 | .reopen => 3 | .reissue => 4 | .fullTrain => 5 | .lostLanes => 6

/-- REPLAY_STATUS (Table 8.19). -/
def Pcc.replayStatus (c : Pcc) : Nat := c.attempts * 2 ^ 10 + c.replay.code * 2 ^ 7 + c.rb.length

/-- FREQ_STATUS (Table 8.15): BUSY stays 1 while a Retain transition is in progress, from ENTERING to the training of the exit (R377, R382).
DEDUCED, log entry 105. -/
def State.freqStatus (s : State) (k w : Nat) : Nat :=
  let w := (F.phyFreqStatus_BIN k).put w (s.stackBin k)
  if (s.power = .entering ∧ !s.drone.toOff) ∨ s.power = .restored then (F.phyFreqStatus_BUSY k).put w 1 else w

/-- ZMAP_STATUS (Table 7.9). -/
def State.zmapStatus (s : State) (k p w : Nat) : Nat :=
  let c := s.pcc k p
  let busy := s.zmState k p == zmClearing || s.zmState k p == zmDisabling || c.zflush
  (F.pccZmapStatus_BUSY k p).put ((F.pccZmapStatus_DIRTY k p).put w (bit (c.lines.any fun z => z.st == .dirty || z.st == .writeback)))
    (bit busy)

/-- FRET_STATUS (Table 9.8). -/
def State.fretStatus (s : State) (k p w : Nat) : Nat :=
  (F.pccFretStatus_USED k p).put ((F.pccFretStatus_BUSY k p).put w (bit ((s.pcc k p).fretQ.any (·.byCmd))))
    (maskOf ((List.range 16).filter fun i => s.flag (F.pccFretEnt_VALID k p i)))

/-- REF_STATUS (Table 8.18). -/
def State.refStatus (s : State) (k p w : Nat) : Nat :=
  (F.pccRefStatus_THROTTLE k p).put ((F.pccRefStatus_MULT k p).put w (multCode (s.refMult k))) (bit (s.throttled k))

/-- PWR.STATE.STATE (Table 13.7), in the states in which the control port answers. -/
def PwrSt.code : PwrSt → Nat
  | .quiet => 1 | .entering => 2 | .restored => 3 | .checking => 4 | .quietEntry => 5
  | .active | .retain | .waking | .off | .dead => 0

/-- UCODE_MATRIX of the entry MATRIX_SEL names (R448). -/
def State.matrixReg (s : State) : Nat :=
  let e := matrixEntry (s.fget F.glbUcodeMatrixSel_INDEX)
  e.1 * 2 ^ 32 + e.2

/-- The outputs of stack `k` that satisfy `f`, as a mask. -/
def outMask (f : Nat → Bool) : Nat := maskOf ((List.range 64).filter f)

/-- An output in HARD or DRAINED. -/
def State.hardOut (s : State) (k p : Nat) : Bool := (s.out k p).st == .hard || (s.out k p).st == .drained

/-- Registers of the die that other parts of State hold. -/
def dieOverlays : List Overlay := [
  ⟨A.glbOptions, [], fun s _ _ _ => s.build.options⟩,
  ⟨A.glbCadence, [], fun s _ _ _ => s.cadence % 2 ^ 64⟩,
  ⟨A.glbHeadroom, [], fun s _ _ w => F.glbHeadroom_REQUIRED.put w (requiredSpeed s.instBin)⟩,
  ⟨A.glbAddrBase, [], fun s _ _ _ => s.build.addrBase⟩,
  ⟨A.glbAddrSize, [], fun s _ _ _ => s.build.addrSize⟩,
  ⟨A.glbEvStatus, [], fun s _ _ w => F.glbEvStatus_QUEUED.put w s.events.length⟩,
  ⟨A.glbUcodeMatrix, [], fun s _ _ _ => s.matrixReg⟩,
  ⟨A.glbPortStatus 0, [(113, 0x10)], fun s n _ w => s.portStatus n w⟩,
  ⟨A.glbBridgeStatus, [], fun s _ _ w => F.glbBridgeStatus_SIBLING.put w s.build.sibling⟩,
  ⟨A.pwrState, [], fun s _ _ w => F.pwrState_STATE.put w s.power.code⟩,
  ⟨A.thmStk 0, [(8, 8)], fun s k _ w =>
    (F.thmStk_HELD k).put w ((List.range 64).foldl (fun n p => n + (s.pcc k p).thermHeld) 0)⟩,
  ⟨A.fusWord 0, [(256, 8)], fun s i _ _ => (s.fuseWord i).toNat⟩,
  ⟨A.talCount, [], fun s _ _ _ => s.build.sweptCount⟩,
  ⟨A.seqStatus, [], fun s _ _ w =>
    F.seqStatus_RESIDENT.put (F.seqStatus_QUEUED.put w (countIf s.slots fun e => e.2.st == .queued))
      (countIf s.ctxs fun e => e.2.isSome)⟩,
  ⟨A.seqSlotState 0, [(4096, 8)], fun s n _ _ => s.slotState n⟩,
  ⟨A.seqToken 0, [(1024, 8)], fun s t _ w => (F.seqToken_WAITERS t).put w (s.tokenQ t).length⟩,
  ⟨A.trfCacheStatus, [], fun s _ _ _ => s.cacheStatus⟩,
  ⟨A.trfCommitLedger, [], fun s _ _ _ => bit (s.capInst < s.ledger) * 2 ^ 63 + s.ledger % 2 ^ 40⟩,
  ⟨A.trfCapInst, [], fun s _ _ _ => s.capInst⟩,
  ⟨A.trfScale, [], fun s _ _ _ => s.scaleReg⟩,
  ⟨A.trfSortStat 0, [(8, 8)], fun s k _ w => (F.trfSortStat_OCC k).put w (s.sortOf k).length⟩,
  ⟨A.trfLabelStat 0, [(64, 0x10)], fun s l _ w =>
    (F.trfLabelStat_WITHHELD l).put ((F.trfLabelStat_OCC l).put w (s.labelOcc l)) (bit (s.overShare l))⟩,
  ⟨A.arbPgCapo, [], fun s _ _ w => F.arbPgCapo_DRAINED.put w s.pgDrained⟩,
  ⟨A.arbStkIngHard 0, [(8, 0x100)], fun s k _ _ => outMask (s.hardOut k)⟩,
  ⟨A.arbStkIngDrained 0, [(8, 0x100)], fun s k _ _ => outMask (s.drained k)⟩,
  ⟨A.arbStkPccDrained 0, [(8, 0x100)], fun s k _ _ => outMask (s.pccDrained k)⟩,
  ⟨A.arbStkHwCapo 0, [(8, 0x100)], fun s k _ _ => outMask fun p => (s.out k p).hwIng != [] || (s.out k p).hwPcc != []⟩,
  ⟨A.nmuStatus 0, [(32, 0x800)], fun s n _ w => (F.nmuStatus_BUSY n).put w (bit (s.nmuBusy n))⟩]

/-- Registers of a stack that other parts of State hold. -/
def stackOverlays : List Overlay := [
  ⟨A.pcmapEntry 0 0, [(8, 0x20000), (64, 8)], fun s k l w => if l < s.build.N then (F.pcmapEntry_VALID k l).put w 1 else 0⟩,
  ⟨A.migStatus 0, [(8, 0x20000)], fun s k _ w =>
    (F.migStatus_SALVAGED k).put w (s.salvageOf k (s.fget (F.migStatus_FROM k))).length⟩,
  ⟨A.bowStatus 0, [(8, 0x20000)], fun s k _ w => (F.bowStatus_CANARY k).put w (bit (s.canaryRuns k))⟩,
  ⟨A.phyFreqStatus 0, [(8, 0x20000)], fun s k _ w => s.freqStatus k w⟩,
  ⟨A.phyStackInfo 0, [(8, 0x20000)], fun s k _ w => (F.phyStackInfo_HEIGHT k).put w s.build.height⟩,
  ⟨A.pccZmapStatus 0 0, [(8, 0x20000), (64, 0x200)], fun s k p w => s.zmapStatus k p w⟩,
  ⟨A.pccBufStatus 0 0, [(8, 0x20000), (64, 0x200)], fun s k p _ => (s.pcc k p).bufStatus⟩,
  ⟨A.pccRefStatus 0 0, [(8, 0x20000), (64, 0x200)], fun s k p w => s.refStatus k p w⟩,
  ⟨A.pccReplayStatus 0 0, [(8, 0x20000), (64, 0x200)], fun s k p _ => (s.pcc k p).replayStatus⟩,
  ⟨A.pccFretStatus 0 0, [(8, 0x20000), (64, 0x200)], fun s k p w => s.fretStatus k p w⟩]

/-- The indices of address `a` in a register or array. -/
def regIndices (base : Nat) (dims : List (Nat × Nat)) (a : Nat) : Option (List Nat) :=
  if base ≤ a then RegDef.indices dims (a - base) else none

/-- The overlay's value of the register at `a`, where the overlay is that register's. -/
def Overlay.at? (o : Overlay) (s : State) (a w : Nat) : Option Nat :=
  (regIndices o.base o.dims a).map fun ix => o.val s (ix.getD 0 0) (ix.getD 1 0) w

/-- The value of the register at `a`, held fields being `w`. -/
def overlaid (s : State) (a w : Nat) : List Overlay → Nat
  | [] => w
  | o :: l => match o.at? s a w with
    | some v => v
    | none => overlaid s a w l

/-- The register at address `a` as a read returns it; 0 for an absent or unassigned one (R13). DEDUCED, log entry 66. -/
def State.regRead (s : State) (a : Nat) : Word :=
  if !s.present a then 0
  else match RegFile.find a with
    | none => 0
    | some r => BitVec.ofNat 64 (overlaid s a (s.reg a &&& BitVec.ofNat 64 r.known).toNat
        (if a < 0x100000 then dieOverlays else stackOverlays))

/-- A read returns the read-clear fields of the register at `a` to their reset values (Table 0.9). -/
def State.readClear (s : State) (a : Nat) : State :=
  if !s.present a then s
  else match RegFile.find a with
    | none => s
    | some r =>
      if r.rc = 0 then s
      else s.setReg a ((s.reg a &&& ~~~(BitVec.ofNat 64 r.rc)) ||| (RegFile.reset a &&& BitVec.ofNat 64 r.rc))

/-- A control-port read (R87–R89). -/
def State.rcRead (s : State) (a : Nat) : State :=
  if a % 8 ≠ 0 then { s with cpRData := 0, cpErr := true }
  else { (s.readClear a) with cpRData := s.regRead a }

/-- RC_REGISTER_READ (R13, R88, R89). -/
def execRcRegisterRead (addr : BitVec 24) (s : State) : Host.Outcome State Fault Refusal :=
  s.cpDo (.rcRegisterRead addr) fun s => s.rcRead addr.toNat

end Sys2Proof.Machine
end

