-- ==== Sys2Proof/Machine/RegWrite.lean ====
section
/-! DEFINITION. Control-port writes (R13, R87–R89): by the access codes of Table 0.9, and, for a register whose write
starts something, by the operation that has a row of its own. What the outside world would decide at such a write is empty:
no lane fails in training. -/

namespace Sys2Proof.Machine

/-- A write by access codes: RW fields, RWL fields while ACC_LOCK is clear, W1C and W1S fields (Table 0.9). -/
def RegDef.written (r : RegDef) (lock : Bool) (old w : Word) : Word :=
  let m := BitVec.ofNat 64 (r.rw ||| (if lock then 0 else r.rwl))
  (((old &&& ~~~m) ||| (w &&& m)) &&& ~~~(w &&& BitVec.ofNat 64 r.w1c)) ||| (w &&& BitVec.ofNat 64 r.w1s)

/-- A write of a register with no behaviour of its own. -/
def State.plainWrite (s : State) (a : Nat) (w : Word) : State :=
  match RegFile.find a with
  | none => s
  | some r => s.setReg a (r.written s.locked (s.reg a) w)

/-- A write of the register at `a` where `free` holds; else it is ignored. -/
def State.writeIf (s : State) (free : Bool) (a : Nat) (w : Word) : State := if free then s.plainWrite a w else s

/-- PWR.CMD (Table 13.7). -/
def State.pwrCmd (s : State) (op : Nat) : State :=
  if op = 0 then s else if op = 1 then s.pwrActive else if op = 2 then s.pwrQuiet else if op = 3 then s.pwrRetain
  else if op = 4 then s.pwrOff else s.pwrRefuse 1

/-- FUS.CMD (Table 14.12). -/
def State.fusCmd (s : State) (op : Nat) : State := if op = 1 then s.trimReload else if op = 2 then s.trimCommit else s

/-- CHK.CMD (Tables 12.1 and 12.7): OP 0 is no operation, but an act on a unit that a CHECK holds. -/
def State.chkCmd (s : State) (u w : Nat) : State :=
  let op := bitsOf w 2 0
  if op = 0 then (match (s.chk u).st with | .heldSeq _ => s.chkLast u 1 | _ => s)
  else if op = 1 then s.started.chkStart u else if op = 2 then s.chkFinish u else if op = 3 then s.chkAbort u
  else if op = 4 then s.started.chkScan u (bitsOf w 10 8) else s.chkLast u 3

/-- SEQ.CFG: EN = 1 is ignored while READY is 0 (R435). -/
def State.seqCfgWrite (s : State) (w : Word) : State :=
  let en := s.flag F.seqCfg_EN
  let s := s.plainWrite A.seqCfg w
  if w.toNat.testBit 0 && !s.flag F.glbResetStatus_READY then s.fset F.seqCfg_EN (bit en) else s

/-- TRF.STREAM_CMD (Tables 4.3 and 4.9): OP 6 and 7 are no command, OP 0 is no action and leaves STREAM_STATUS as it was (DESIGN CHOICE, log
entry 94). -/
def State.streamCmdWrite (s : State) (w : Nat) : State :=
  let op := bitsOf w 26 24
  let i := bitsOf w 19 0
  if 1 ≤ op && op ≤ 5 then s.streamCmd ⟨i, op, op = 1 && w.testBit 23, op = 1 && w.testBit 22, none, false⟩
  else if op = 0 then s
  else (s.fset F.trfStreamStatus_ID i).fset F.trfStreamStatus_RESULT 6

/-- GATE.CTL (Table 5.5): a cancel is made before an arm of the same write. -/
def State.gateCtlWrite (s : State) (g w : Nat) : State :=
  let en := w.testBit 0
  let s := (s.settleSwap g).fset (F.trfGateCtl_EN g) (bit en)
  let s := if w.testBit 2 then s.gateCancel g else s
  if w.testBit 1 then s.gateArmWrite g en else s

/-- ACC.CMD (Table 3.15). -/
def State.accCmdWrite (s : State) (k w : Nat) : State :=
  let op := bitsOf w 15 14
  let i := bitsOf w 6 0
  if op = 1 then s.accCommit k i else if op = 2 then s.accLoad k i else if op = 3 then s.accClear k i else s

/-- PCMAP.EDIT (Table 3.8). -/
def State.editWrite (s : State) (k w : Nat) : State :=
  let s := if w.testBit 1 then s.fset (F.pcmapEdit_EDIT_REFUSED k) 0 else s
  if w.testBit 0 then s.editOpen k else s.editClose k

/-- BOW.CMD (Table 12.3). -/
def State.bowCmdWrite (s : State) (k op : Nat) : State :=
  if op = 1 then s.started.bowSanitise k else if op = 2 then s.started.bowCanaryWrite k
  else if op = 3 then s.started.bowCanaryCheck k else s

/-- ZMAP_CTL (Table 7.8). -/
def State.zmapCtlWrite (s : State) (k p w : Nat) : State :=
  let s := s.predWrite k p (w.testBit 4)
  let op := bitsOf w 2 0
  if op = 0 then s else if op = 1 then s.zmAdopt k p else if op = 2 then s.zmClear k p else if op = 3 then s.zmDisable k p
  else if op = 4 then s.zmFlush k p else s.zmRefuse k p

/-- ARB.STK[k].CFG or QUOTA: a class whose quota is now reached is masked at once (R189). -/
def State.arbWrite (s : State) (k a : Nat) (w : Word) : State :=
  let s := s.plainWrite a w
  if s.fget (F.arbStkCfg_QWIN k) = 0 then s else s.quotaSettle k

/-- FRET_CMD (Table 9.7). -/
def State.fretCmdWrite (s : State) (k p w : Nat) : State :=
  let op := bitsOf w 63 62
  let u := bitsOf w 24 0
  if op = 1 then s.fretCmdInstall k p u else if op = 2 then s.fretCmdRemove k p u else s

/-- A register whose write has a behaviour of its own: its base and dimensions, and the behaviour from its indices. -/
structure RegAct where
  base : Nat
  dims : List (Nat × Nat)
  act : State → Nat → Nat → Nat → Word → State

/-- Registers of the die whose write has a behaviour of its own. -/
def dieActs : List RegAct := [
  ⟨A.glbReset, [], fun s _ _ _ w => s.resetWrite w.toNat ⟨[], []⟩⟩,
  ⟨A.glbAddrCfg, [], fun s _ _ _ w => s.addrOrderWrite w.toNat⟩,
  ⟨A.glbAccLock, [], fun s _ _ _ w => if w.toNat.testBit 0 then s.accLock else s⟩,
  ⟨A.glbEvBase, [], fun s _ _ _ w => s.writeIf (!s.flag F.glbEvCfg_EN) A.glbEvBase w⟩,
  ⟨A.glbEvCfg, [], fun s _ _ _ w => s.evCfgWrite w.toNat⟩,
  ⟨A.glbEvTail, [], fun s _ _ _ w => s.evTailWrite w.toNat⟩,
  ⟨A.glbUcodeCtl, [], fun s _ _ _ w => s.writeIf (!s.locked) A.glbUcodeCtl w⟩,
  ⟨A.glbUcodeAddr, [], fun s _ _ _ w => s.writeIf (!s.locked) A.glbUcodeAddr w⟩,
  ⟨A.glbUcodeData, [], fun s _ _ _ w => s.ucodeData w⟩,
  ⟨A.glbPortCfg 0, [(113, 0x10)], fun s n _ _ w => s.portWrite n w.toNat⟩,
  ⟨A.pwrCmd, [], fun s _ _ _ w => s.pwrCmd (bitsOf w.toNat 2 0)⟩,
  ⟨A.pwrPadRelease, [], fun s _ _ _ w => if w.toNat.testBit 0 then s.padRelease ⟨[], []⟩ else s⟩,
  ⟨A.fusLcCmd, [], fun s _ _ _ w => s.lcCmd w.toNat⟩,
  ⟨A.fusCmd, [], fun s _ _ _ w => s.fusCmd (bitsOf w.toNat 1 0)⟩,
  ⟨A.talCfg, [], fun s _ _ _ w => s.talCfgWrite w⟩,
  ⟨A.talCmd, [], fun s _ _ _ w => if w.toNat.testBit 0 then s.sweepStart else s⟩,
  ⟨A.chkCfg 0, [(4, 0x80), (5, 8)], fun s u i _ w => s.chkConfig u i w⟩,
  ⟨A.chkScanStart 0, [(4, 0x80), (3, 8)], fun s u i _ w => s.chkConfig u (5 + i) w⟩,
  ⟨A.chkCmd 0, [(4, 0x80)], fun s u _ _ w => s.chkCmd u w.toNat⟩,
  ⟨A.chkFeedB 0, [(4, 0x80)], fun s u _ _ w => s.feedB u (w.toNat % 2 ^ 8)⟩,
  ⟨A.chkFeedH 0, [(4, 0x80)], fun s u _ _ w => s.feedH u (w.toNat % 2 ^ 32)⟩,
  ⟨A.chkFeedW 0, [(4, 0x80)], fun s u _ _ w => s.feedW u w.toNat⟩,
  ⟨A.seqCfg, [], fun s _ _ _ w => s.seqCfgWrite w⟩,
  ⟨A.seqSlotBase, [], fun s _ _ _ w => s.slotBaseWrite w⟩,
  ⟨A.seqAbort, [], fun s _ _ _ w => if w.toNat.testBit 63 then s.seqAbort (bitsOf w.toNat 11 0) else s⟩,
  ⟨A.seqToken 0, [(1024, 8)], fun s t _ _ w => s.setToken t (w.toNat % 2 ^ 32)⟩,
  ⟨A.seqNmuWatch 0, [], fun s _ _ _ w => s.plainWrite (A.seqNmuWatch 0) (w &&& ~~~0xFFFF)⟩,
  ⟨A.trfStreamCmd, [], fun s _ _ _ w => s.streamCmdWrite w.toNat⟩,
  ⟨A.trfCapCfg, [], fun s _ _ _ w => s.capCfgWrite w.toNat⟩,
  ⟨A.trfGateCtl 0, [(16, 0x40)], fun s g _ _ w => s.gateCtlWrite g w.toNat⟩,
  ⟨A.trfGateEnt 0 0 0, [(16, 0x800), (2, 0x400), (128, 8)], fun s g b j w => s.gateEntWrite g b j w⟩,
  ⟨A.arbStkCfg 0, [(8, 0x100)], fun s k _ _ w => s.arbWrite k (A.arbStkCfg k) w⟩,
  ⟨A.arbStkQuotaLo 0, [(8, 0x100)], fun s k _ _ w => s.arbWrite k (A.arbStkQuotaLo k) w⟩,
  ⟨A.arbStkQuotaHi 0, [(8, 0x100)], fun s k _ _ w => s.arbWrite k (A.arbStkQuotaHi k) w⟩,
  ⟨A.arbStkIngCapo 0, [(8, 0x100)], fun s k _ _ w => s.ingCapoWrite k w.toNat⟩,
  ⟨A.nmuCtl 0, [(32, 0x800)], fun s n _ _ w => if w.toNat.testBit 0 then s.nmuOffline n else s⟩]

/-- Registers of a stack whose write has a behaviour of its own. -/
def stackActs : List RegAct := [
  ⟨A.accCmd 0, [(8, 0x20000)], fun s k _ _ w => s.accCmdWrite k w.toNat⟩,
  ⟨A.pcmapEntry 0 0, [(8, 0x20000), (64, 8)], fun s k l _ w => s.entryWrite k l w.toNat⟩,
  ⟨A.pcmapFailed 0, [(8, 0x20000)], fun s k _ _ w => s.failedWrite k w.toNat⟩,
  ⟨A.pcmapEdit 0, [(8, 0x20000)], fun s k _ _ w => s.editWrite k w.toNat⟩,
  ⟨A.migCtl 0, [(8, 0x20000)], fun s k _ _ w => if w.toNat.testBit 7 then s.started.migRetire k (bitsOf w.toNat 5 0) else s⟩,
  ⟨A.bowCfg 0, [(8, 0x20000)], fun s k _ _ w => s.bowCfgWrite k w⟩,
  ⟨A.bowCmd 0, [(8, 0x20000)], fun s k _ _ w => s.bowCmdWrite k (bitsOf w.toNat 1 0)⟩,
  ⟨A.phyTsetCtl 0 0, [(8, 0x20000), (4, 0x20), (4, 8)], fun s k t r w => s.tsetWrite k t r w⟩,
  ⟨A.phyFreqCmd 0, [(8, 0x20000)], fun s k _ _ w =>
    if w.toNat.testBit 2 then s.started.freqChange k (bitsOf w.toNat 1 0) ⟨[], []⟩ else s⟩,
  ⟨A.pccZmapCtl 0 0, [(8, 0x20000), (64, 0x200)], fun s k p _ w => s.zmapCtlWrite k p w.toNat⟩,
  ⟨A.pccFretCmd 0 0, [(8, 0x20000), (64, 0x200)], fun s k p _ w => s.fretCmdWrite k p w.toNat⟩,
  ⟨A.pccHistory 0 0, [(8, 0x20000), (64, 0x200)], fun s k p _ w => if w.toNat.testBit 44 then s.historyClear k p else s⟩]

/-- The effect of a write at `a` by the first of `l` whose register it is; else by access codes. DEDUCED, log entry 65. -/
def State.actWrite (s : State) (a : Nat) (w : Word) : List RegAct → State
  | [] => s.plainWrite a w
  | r :: l => match regIndices r.base r.dims a with
    | some ix => r.act s (ix.getD 0 0) (ix.getD 1 0) (ix.getD 2 0) w
    | none => s.actWrite a w l

/-- A write of the register at `a`; an absent or unassigned one ignores it (R13). -/
def State.regWrite (s : State) (a : Nat) (w : Word) : State :=
  if !s.present a then s else s.actWrite a w (if a < 0x100000 then dieActs else stackActs)

/-- A control-port write (R87–R89). One of SEQ.DOORBELL is answered after its checks (R288). -/
def State.cpWrite (s : State) (c : Instr) (a : Nat) (w : Word) : State :=
  if a % 8 ≠ 0 then { s with cpErr := true }
  else if a = A.seqDoorbell then s.ring c w.toNat
  else s.regWrite a w

/-- REGISTER_WRITE (R88). -/
def execRegisterWrite (addr : BitVec 24) (w : Word) (s : State) : Host.Outcome State Fault Refusal :=
  s.cpDo (.registerWrite addr w) fun s => s.cpWrite (.registerWrite addr w) addr.toNat w

end Sys2Proof.Machine
end

