-- ==== Sys2Proof/Machine/Dispatch.lean ====
section
/-! DEFINITION. The meaning of each command: one arm per row of the table. -/

namespace Sys2Proof.Machine

def exec (i : Instr) (s : State) : Host.Outcome State Fault Refusal :=
  match i with
  | .headroomSample speed area => Sys2Proof.Machine.execHeadroomSample speed area s
  | .cadencePllLock env => Sys2Proof.Machine.execCadencePllLock env s
  | .cadSyncArm value => Sys2Proof.Machine.execCadSyncArm value s
  | .syncEdge => Sys2Proof.Machine.execSyncEdge s
  | .cadencePauseEnd => Sys2Proof.Machine.execCadencePauseEnd s
  | .schedulerHandover k p column slot => Sys2Proof.Machine.execSchedulerHandover k p column slot s
  | .wardenIssue k p slot => Sys2Proof.Machine.execWardenIssue k p slot s
  | .read port header flits cut => Sys2Proof.Machine.execRead port header flits cut s
  | .write port header flits cut data => Sys2Proof.Machine.execWrite port header flits cut data s
  | .writePartial port header flits cut data enables => Sys2Proof.Machine.execWritePartial port header flits cut data enables s
  | .atomicAddBeside port header flits cut data => Sys2Proof.Machine.execAtomicAddBeside port header flits cut data s
  | .fence port header flits cut => Sys2Proof.Machine.execFence port header flits cut s
  | .probe port header flits cut => Sys2Proof.Machine.execProbe port header flits cut s
  | .reservedOpcode port seven header flits cut => Sys2Proof.Machine.execReservedOpcode port seven header flits cut s
  | .strayDataFlit port => Sys2Proof.Machine.execStrayDataFlit port s
  | .heldHeaderAccepted port => Sys2Proof.Machine.execHeldHeaderAccepted port s
  | .missHoldRelease port => Sys2Proof.Machine.execMissHoldRelease port s
  | .responseFlitAck port => Sys2Proof.Machine.execResponseFlitAck port s
  | .creditReturn port label => Sys2Proof.Machine.execCreditReturn port label s
  | .responseStall port => Sys2Proof.Machine.execResponseStall port s
  | .portEnable port value => Sys2Proof.Machine.execPortEnable port value s
  | .portDisable port value => Sys2Proof.Machine.execPortDisable port value s
  | .fenceComplete port => Sys2Proof.Machine.execFenceComplete port s
  | .bridgeRequest header flits cut data enables => Sys2Proof.Machine.execBridgeRequest header flits cut data enables s
  | .bridgeResponse id status data poison credits => Sys2Proof.Machine.execBridgeResponse id status data poison credits s
  | .bridgeForwardTimeout id => Sys2Proof.Machine.execBridgeForwardTimeout id s
  | .bridgeDown => Sys2Proof.Machine.execBridgeDown s
  | .bridgeUp size credits => Sys2Proof.Machine.execBridgeUp size credits s
  | .registerWrite addr value => Sys2Proof.Machine.execRegisterWrite addr value s
  | .addrOrderWrite value => Sys2Proof.Machine.execAddrOrderWrite value s
  | .pcmapEditOpen k => Sys2Proof.Machine.execPcmapEditOpen k s
  | .pcmapEntryWrite k l value => Sys2Proof.Machine.execPcmapEntryWrite k l value s
  | .pcmapFailedWrite k value => Sys2Proof.Machine.execPcmapFailedWrite k value s
  | .pcmapEditClose k => Sys2Proof.Machine.execPcmapEditClose k s
  | .accCommit k index => Sys2Proof.Machine.execAccCommit k index s
  | .accLoad k index => Sys2Proof.Machine.execAccLoad k index s
  | .accClear k index => Sys2Proof.Machine.execAccClear k index s
  | .accLockSet => Sys2Proof.Machine.execAccLockSet s
  | .ingressGrant k p => Sys2Proof.Machine.execIngressGrant k p s
  | .retiredLossAnswer k => Sys2Proof.Machine.execRetiredLossAnswer k s
  | .descriptorFetchStart stream => Sys2Proof.Machine.execDescriptorFetchStart stream s
  | .descriptorFetchReturn stream => Sys2Proof.Machine.execDescriptorFetchReturn stream s
  | .writebackDone stream => Sys2Proof.Machine.execWritebackDone stream s
  | .redHeadReeval stream => Sys2Proof.Machine.execRedHeadReeval stream s
  | .streamLoad stream tokZero force => Sys2Proof.Machine.execStreamLoad stream tokZero force s
  | .streamFlush stream => Sys2Proof.Machine.execStreamFlush stream s
  | .streamPin stream => Sys2Proof.Machine.execStreamPin stream s
  | .streamUnpin stream => Sys2Proof.Machine.execStreamUnpin stream s
  | .streamView stream => Sys2Proof.Machine.execStreamView stream s
  | .streamCmdReserved seven stream => Sys2Proof.Machine.execStreamCmdReserved seven stream s
  | .streamSample stream => Sys2Proof.Machine.execStreamSample stream s
  | .gateEntryWrite g bank j value => Sys2Proof.Machine.execGateEntryWrite g bank j value s
  | .gateArm g en => Sys2Proof.Machine.execGateArm g en s
  | .gateCancel g en => Sys2Proof.Machine.execGateCancel g en s
  | .gateSwapTake g => Sys2Proof.Machine.execGateSwapTake g s
  | .portGroupAtomStart g => Sys2Proof.Machine.execPortGroupAtomStart g s
  | .quotaWindowStart k => Sys2Proof.Machine.execQuotaWindowStart k s
  | .bankGrant k p bank => Sys2Proof.Machine.execBankGrant k p bank s
  | .rowGrant k p => Sys2Proof.Machine.execRowGrant k p s
  | .columnGrant k p => Sys2Proof.Machine.execColumnGrant k p s
  | .columnPreempt k p bank => Sys2Proof.Machine.execColumnPreempt k p bank s
  | .ingCapoWrite k mask => Sys2Proof.Machine.execIngCapoWrite k mask s
  | .pccCapoWrite k mask => Sys2Proof.Machine.execPccCapoWrite k mask s
  | .pgCapoWrite mask => Sys2Proof.Machine.execPgCapoWrite mask s
  | .capoSoftToHard k p => Sys2Proof.Machine.execCapoSoftToHard k p s
  | .capoDrained k p => Sys2Proof.Machine.execCapoDrained k p s
  | .capoDrainSlow k p => Sys2Proof.Machine.execCapoDrainSlow k p s
  | .hazardClear k p => Sys2Proof.Machine.execHazardClear k p s
  | .stackReadData k p fault => Sys2Proof.Machine.execStackReadData k p fault s
  | .zmapLineFill k p line => Sys2Proof.Machine.execZmapLineFill k p line s
  | .zmapLineWritebackDone k p line => Sys2Proof.Machine.execZmapLineWritebackDone k p line s
  | .pageTimerExpiry k p bank => Sys2Proof.Machine.execPageTimerExpiry k p bank s
  | .writeModeAge k p => Sys2Proof.Machine.execWriteModeAge k p s
  | .zmapAdopt k p => Sys2Proof.Machine.execZmapAdopt k p s
  | .zmapClear k p => Sys2Proof.Machine.execZmapClear k p s
  | .zmapDisable k p => Sys2Proof.Machine.execZmapDisable k p s
  | .zmapFlush k p => Sys2Proof.Machine.execZmapFlush k p s
  | .zmapOpReserved k p op => Sys2Proof.Machine.execZmapOpReserved k p op s
  | .zmapClearDone k p => Sys2Proof.Machine.execZmapClearDone k p s
  | .zmapDisableDone k p => Sys2Proof.Machine.execZmapDisableDone k p s
  | .predEnWrite k p en => Sys2Proof.Machine.execPredEnWrite k p en s
  | .sortGroupRelease k => Sys2Proof.Machine.execSortGroupRelease k s
  | .activateHint addr => Sys2Proof.Machine.execActivateHint addr s
  | .refreshDue k p bank => Sys2Proof.Machine.execRefreshDue k p bank s
  | .freqChange k set env => Sys2Proof.Machine.execFreqChange k set env s
  | .tsetWrite k k1 reg value => Sys2Proof.Machine.execTsetWrite k k1 reg value s
  | .commandConfirmed k p => Sys2Proof.Machine.execCommandConfirmed k p s
  | .replayError k p parity env => Sys2Proof.Machine.execReplayError k p parity env s
  | .replayDone k p => Sys2Proof.Machine.execReplayDone k p s
  | .mergeReadDone k p => Sys2Proof.Machine.execMergeReadDone k p s
  | .fretCmdInstall k p atom => Sys2Proof.Machine.execFretCmdInstall k p atom s
  | .fretCmdRemove k p atom => Sys2Proof.Machine.execFretCmdRemove k p atom s
  | .fretInstall k p => Sys2Proof.Machine.execFretInstall k p s
  | .historyClear k p => Sys2Proof.Machine.execHistoryClear k p s
  | .migRetireCmd k lpc => Sys2Proof.Machine.execMigRetireCmd k lpc s
  | .retirementStart k => Sys2Proof.Machine.execRetirementStart k s
  | .migrationChunkDone k => Sys2Proof.Machine.execMigrationChunkDone k s
  | .scrubEnWrite k value => Sys2Proof.Machine.execScrubEnWrite k value s
  | .bowChunkStart k => Sys2Proof.Machine.execBowChunkStart k s
  | .doorbell value => Sys2Proof.Machine.execDoorbell value s
  | .slotLoad => Sys2Proof.Machine.execSlotLoad s
  | .swapOut c => Sys2Proof.Machine.execSwapOut c s
  | .saveDone c => Sys2Proof.Machine.execSaveDone c s
  | .slotBaseWrite value => Sys2Proof.Machine.execSlotBaseWrite value s
  | .seqMove c => Sys2Proof.Machine.execSeqMove c s
  | .seqFill c => Sys2Proof.Machine.execSeqFill c s
  | .seqGather c => Sys2Proof.Machine.execSeqGather c s
  | .seqScatter c => Sys2Proof.Machine.execSeqScatter c s
  | .seqRewrite c => Sys2Proof.Machine.execSeqRewrite c s
  | .nmuUpdate c => Sys2Proof.Machine.execNmuUpdate c s
  | .nmuReduce c => Sys2Proof.Machine.execNmuReduce c s
  | .nmuCast c => Sys2Proof.Machine.execNmuCast c s
  | .seqCheck c => Sys2Proof.Machine.execSeqCheck c s
  | .waitCadence c => Sys2Proof.Machine.execWaitCadence c s
  | .waitCadenceRelease c => Sys2Proof.Machine.execWaitCadenceRelease c s
  | .waitToken c => Sys2Proof.Machine.execWaitToken c s
  | .seqSignal c => Sys2Proof.Machine.execSeqSignal c s
  | .seqFence c => Sys2Proof.Machine.execSeqFence c s
  | .gateSwap c => Sys2Proof.Machine.execGateSwap c s
  | .setStream c => Sys2Proof.Machine.execSetStream c s
  | .setStreamLoad c => Sys2Proof.Machine.execSetStreamLoad c s
  | .seqLoop c => Sys2Proof.Machine.execSeqLoop c s
  | .seqBranch c => Sys2Proof.Machine.execSeqBranch c s
  | .seqEnd c => Sys2Proof.Machine.execSeqEnd c s
  | .seqTrap c => Sys2Proof.Machine.execSeqTrap c s
  | .seqRequestFailed c => Sys2Proof.Machine.execSeqRequestFailed c s
  | .slotFinished slot => Sys2Proof.Machine.execSlotFinished slot s
  | .seqAbort slot => Sys2Proof.Machine.execSeqAbort slot s
  | .tokenWrite t value => Sys2Proof.Machine.execTokenWrite t value s
  | .contextParityError c => Sys2Proof.Machine.execContextParityError c s
  | .nmuWorkAtom n job k => Sys2Proof.Machine.execNmuWorkAtom n job k s
  | .nmuInstructionDone job => Sys2Proof.Machine.execNmuInstructionDone job s
  | .atomicAddNmu k p => Sys2Proof.Machine.execAtomicAddNmu k p s
  | .nmuParityError n => Sys2Proof.Machine.execNmuParityError n s
  | .nmuWatchdog n => Sys2Proof.Machine.execNmuWatchdog n s
  | .nmuOffline n => Sys2Proof.Machine.execNmuOffline n s
  | .chkStart u => Sys2Proof.Machine.execChkStart u s
  | .chkFinish u => Sys2Proof.Machine.execChkFinish u s
  | .chkAbort u => Sys2Proof.Machine.execChkAbort u s
  | .chkScan u stack => Sys2Proof.Machine.execChkScan u stack s
  | .chkOpReserved u op => Sys2Proof.Machine.execChkOpReserved u op s
  | .feedB u byte => Sys2Proof.Machine.execFeedB u byte s
  | .feedH u half => Sys2Proof.Machine.execFeedH u half s
  | .feedW u word => Sys2Proof.Machine.execFeedW u word s
  | .chkConfigWrite u reg value => Sys2Proof.Machine.execChkConfigWrite u reg value s
  | .scanReadReturn u => Sys2Proof.Machine.execScanReadReturn u s
  | .bowSanitise k => Sys2Proof.Machine.execBowSanitise k s
  | .bowCanaryWrite k => Sys2Proof.Machine.execBowCanaryWrite k s
  | .bowCanaryCheck k => Sys2Proof.Machine.execBowCanaryCheck k s
  | .sanitiseDone k => Sys2Proof.Machine.execSanitiseDone k s
  | .canaryCheckDone k => Sys2Proof.Machine.execCanaryCheckDone k s
  | .pwrActive => Sys2Proof.Machine.execPwrActive s
  | .pwrQuiet => Sys2Proof.Machine.execPwrQuiet s
  | .pwrRetain => Sys2Proof.Machine.execPwrRetain s
  | .pwrOff => Sys2Proof.Machine.execPwrOff s
  | .pwrCmdReserved op => Sys2Proof.Machine.execPwrCmdReserved op s
  | .quietEntryDone => Sys2Proof.Machine.execQuietEntryDone s
  | .jointTimeout => Sys2Proof.Machine.execJointTimeout s
  | .siblingReady => Sys2Proof.Machine.execSiblingReady s
  | .wakeN env => Sys2Proof.Machine.execWakeN env s
  | .wakeEdge env => Sys2Proof.Machine.execWakeEdge env s
  | .droneAlarm env => Sys2Proof.Machine.execDroneAlarm env s
  | .siblingWake env => Sys2Proof.Machine.execSiblingWake env s
  | .padRelease env => Sys2Proof.Machine.execPadRelease env s
  | .coreSupplyLost => Sys2Proof.Machine.execCoreSupplyLost s
  | .droneSupplyLost => Sys2Proof.Machine.execDroneSupplyLost s
  | .dronePowerOn => Sys2Proof.Machine.execDronePowerOn s
  | .slowclkStopped => Sys2Proof.Machine.execSlowclkStopped s
  | .thermalSample diodes therms roCycles => Sys2Proof.Machine.execThermalSample diodes therms roCycles s
  | .holdTimeout k p => Sys2Proof.Machine.execHoldTimeout k p s
  | .lcCmd value => Sys2Proof.Machine.execLcCmd value s
  | .fuseProgramDone => Sys2Proof.Machine.execFuseProgramDone s
  | .trimReload => Sys2Proof.Machine.execTrimReload s
  | .trimCommit => Sys2Proof.Machine.execTrimCommit s
  | .tallyGo => Sys2Proof.Machine.execTallyGo s
  | .tallyPeriodic => Sys2Proof.Machine.execTallyPeriodic s
  | .tallySweepDone => Sys2Proof.Machine.execTallySweepDone s
  | .eventRecordWrite => Sys2Proof.Machine.execEventRecordWrite s
  | .eventIrqAge => Sys2Proof.Machine.execEventIrqAge s
  | .evRingEnable value => Sys2Proof.Machine.execEvRingEnable value s
  | .evTailWrite value => Sys2Proof.Machine.execEvTailWrite value s
  | .resetCmd value env => Sys2Proof.Machine.execResetCmd value env s
  | .corePowerOn env => Sys2Proof.Machine.execCorePowerOn env s
  | .ucodeDataWrite value => Sys2Proof.Machine.execUcodeDataWrite value s
  | .rcRegisterRead addr => Sys2Proof.Machine.execRcRegisterRead addr s
  | .capCfgWrite value => Sys2Proof.Machine.execCapCfgWrite value s
  | .slotEntryParityError slot => Sys2Proof.Machine.execSlotEntryParityError slot s

end Sys2Proof.Machine
end

