-- ==== Sys2Proof/Machine/Step.lean ====
section
/-! DEFINITION. One step: the command at the front of the queue. With the queue empty, the control-port command that has waited
longest is tried again once the port answers (R88, R373); else the cadence counter advances (R37, R40). -/

namespace Sys2Proof.Machine

/-- Try the control-port command that has waited longest; the others stay behind it (R88). -/
def State.serveWaiting (s : State) (c : Instr) (rest : List Instr) : Host.Outcome State Fault Refusal :=
  match exec c { s with cpWaiting := [] } with
  | .next t =>
    if t.cpWaiting = [] then .next { t with cpWaiting := rest } else .next { t with cpWaiting := t.cpWaiting ++ rest }.tick
  | .fault f => .fault f
  | .refused r => .refused r

/-- What the block does with no command in its queue (DESIGN CHOICE, log entry 18). -/
def State.idle (s : State) : Host.Outcome State Fault Refusal :=
  match s.cpWaiting with
  | [] => .next s.tick
  | c :: rest => if s.cpUp then s.serveWaiting c rest else .next s.tick

/-- One step: the first waiting command acts on the state with the rest of the queue. -/
def step (s : State) : Host.Outcome State Fault Refusal :=
  match s.pending with
  | [] => s.idle
  | c :: rest => exec c { s with pending := rest }

/-- Put the command that a table word spells at the front of the queue; unchanged where the word spells none.
DESIGN CHOICE, log entry 19. -/
def State.withFetchWord (s : State) (nbits w : Nat) : State :=
  match decodeTableWord nbits w with
  | some c => { s with pending := c :: s.pending }
  | none => s

end Sys2Proof.Machine
end

