-- ==== Sys2Proof/Safety.lean ====
section
/-! DEFINITION. What a safe step is, what it is for a command to complete, the form every step keeps, and the words in which
statements say what a command changes. -/

namespace Sys2Proof

/-- The step from `s` answers a next state. -/
def Machine.State.safe (s : Machine.State) : Prop := ∃ t, Machine.step s = .next t

/-- `c` answers a next state at `s`. -/
def completes (c : Instr) (s : Machine.State) : Prop := ∃ t, Machine.exec c s = .next t

/-- Commands that arrive at the control port: writes and reads of registers (R87). -/
def Instr.atControlPort : Instr → Bool
  | .cadSyncArm .. | .portEnable .. | .portDisable .. | .registerWrite .. | .addrOrderWrite .. | .pcmapEditOpen .. |
    .pcmapEntryWrite .. | .pcmapFailedWrite .. | .pcmapEditClose .. | .accCommit .. | .accLoad .. | .accClear .. |
    .accLockSet | .streamLoad .. | .streamFlush .. | .streamPin .. | .streamUnpin .. | .streamView .. |
    .streamCmdReserved .. | .gateEntryWrite .. | .gateArm .. | .gateCancel .. | .ingCapoWrite .. | .pccCapoWrite .. |
    .pgCapoWrite .. | .zmapAdopt .. | .zmapClear .. | .zmapDisable .. | .zmapFlush .. | .zmapOpReserved .. |
    .predEnWrite .. | .freqChange .. | .tsetWrite .. | .fretCmdInstall .. | .fretCmdRemove .. | .historyClear .. |
    .migRetireCmd .. | .scrubEnWrite .. | .doorbell .. | .slotBaseWrite .. | .seqAbort .. | .tokenWrite .. | .nmuOffline .. |
    .chkStart .. | .chkFinish .. | .chkAbort .. | .chkScan .. | .chkOpReserved .. | .feedB .. | .feedH .. | .feedW .. |
    .chkConfigWrite .. | .bowSanitise .. | .bowCanaryWrite .. | .bowCanaryCheck .. | .pwrActive | .pwrQuiet | .pwrRetain |
    .pwrOff | .pwrCmdReserved .. | .padRelease .. | .lcCmd .. | .trimReload | .trimCommit | .tallyGo | .evRingEnable .. |
    .evTailWrite .. | .resetCmd .. | .ucodeDataWrite .. | .rcRegisterRead .. | .capCfgWrite .. => true
  | _ => false

/-- The stack whose registers a control-port command names. -/
def Instr.stackOf? : Instr → Option Nat
  | .pcmapEditOpen k | .pcmapEntryWrite k _ _ | .pcmapFailedWrite k _ | .pcmapEditClose k | .accCommit k _ | .accLoad k _ |
    .accClear k _ | .ingCapoWrite k _ | .pccCapoWrite k _ | .zmapAdopt k _ | .zmapClear k _ | .zmapDisable k _ |
    .zmapFlush k _ | .zmapOpReserved k _ _ | .predEnWrite k _ _ | .freqChange k _ _ | .tsetWrite k _ _ _ |
    .fretCmdInstall k _ _ | .fretCmdRemove k _ _ | .historyClear k _ | .migRetireCmd k _ | .scrubEnWrite k _ |
    .bowSanitise k | .bowCanaryWrite k | .bowCanaryCheck k => some k.val
  | _ => none

/-- A request that arrives at a port, the sibling's at the Bridge port 112 (R53, R62, R84): the port, and the request with its opcode
(Table 2.6). -/
def Instr.arrives? : Instr → Option (Nat × Machine.HeldHdr)
  | .read n h f x => some (n.val, .of 0 h f x 0 0)
  | .write n h f x d => some (n.val, .of 1 h f x d 0)
  | .writePartial n h f x d be => some (n.val, .of 2 h f x d be)
  | .atomicAddBeside n h f x d => some (n.val, .of 3 h f x d 0)
  | .fence n h f x => some (n.val, .of 4 h f x 0 0)
  | .probe n h f x => some (n.val, .of 5 h f x 0 0)
  | .reservedOpcode n seven h f x => some (n.val, .of (if seven then 7 else 6) h f x 0 0)
  | .bridgeRequest h f x d be => some (112, .of (h.toNat % 8) h f x d be)
  | _ => none

/-- The form of a state: the register list holds its registers in rising order of address and none at its reset value, the
stacks' contents keep their canonical form, and the event queue holds at most its 64 records (R428). -/
structure Machine.State.Formed (s : Machine.State) : Prop where
  regs : Machine.SMap.Wf Machine.RegFile.reset s.regs
  cells : Machine.Memory.wf s
  events : s.events.length ≤ 64

/-- Every register field that shares no bit with a field of `l` has in `t` its value of `s`. -/
def Machine.State.keepsRegs (s t : Machine.State) (l : List Machine.Fld) : Prop :=
  ∀ g : Machine.Fld, g.Ok → (∀ f ∈ l, f.Apart g) → t.fget g = s.fget g

/-- `t` is `s` with each field of `l` at the value beside it: every other register field, and everything in the state that is
no register, is unchanged. -/
def Machine.State.sets (s t : Machine.State) (l : List (Machine.Fld × Nat)) : Prop :=
  t = { s with regs := t.regs } ∧ (∀ e ∈ l, t.fget e.1 = e.2) ∧ s.keepsRegs t (l.map (·.1))

/-- A counter after it has counted `n`: it wraps at its width (R418). -/
def Machine.State.wrapped (s : Machine.State) (f : Machine.Fld) (n : Nat) : Nat := (s.fget f + n) % 2 ^ (f.hi + 1 - f.lo)

/-- A saturating counter after it has counted `n`. -/
def Machine.State.topped (s : Machine.State) (f : Machine.Fld) (n : Nat) : Nat := min (2 ^ (f.hi + 1 - f.lo) - 1) (s.fget f + n)

/-- In `t` the register at `a` has taken the RW bits of `w`; every other register is as in `s`. -/
def Machine.State.takesRw (s t : Machine.State) (a : Nat) (w : Word) : Prop :=
  (∀ r, Machine.RegFile.find a = some r →
    t.reg a = (s.reg a &&& ~~~(BitVec.ofNat 64 r.rw)) ||| (w &&& BitVec.ofNat 64 r.rw)) ∧
  ∀ b, b ≠ a → t.reg b = s.reg b

/-- Context `c`, in the state `s`, runs a program whose next instruction is `w`, fetched and past every check of its launch (R296,
R297); the fetch and the checks leave the state `u`, and the context there is `x`. -/
def Machine.State.launches (s : Machine.State) (c : Nat) (x : Machine.Ctx) (w : Nat) (u : Machine.State) : Prop :=
  ∃ (y : Machine.Ctx) (v : Machine.State) (d : Atom), s.ctx? c = some y ∧ (s.slot y.slot).st = .running ∧
    (s.slot y.slot).wedged = false ∧ y.cur = none ∧ y.wait = none ∧ y.asyncTrap = none ∧ s.fetchIns c y = (v, some d) ∧
    w = Machine.insAt d y.pc ∧ v.launchChecks c y (v.slot y.slot) w = (u, .ok) ∧ u.ctx? c = some x

/-- The data instructions that end when all they issued is answered: context and opcode. -/
def Instr.dataOp? : Instr → Option (Nat × Nat)
  | .seqMove c => some (c.val, Machine.iMove)
  | .seqFill c => some (c.val, Machine.iFill)
  | .seqGather c => some (c.val, Machine.iGather)
  | .seqScatter c => some (c.val, Machine.iScatter)
  | .seqRewrite c => some (c.val, Machine.iRewrite)
  | _ => none

/-- The NMU instructions: context and opcode. -/
def Instr.nmuOp? : Instr → Option (Nat × Nat)
  | .nmuUpdate c => some (c.val, Machine.iUpdate)
  | .nmuReduce c => some (c.val, Machine.iReduce)
  | .nmuCast c => some (c.val, Machine.iCast)
  | _ => none

/-- Context `x` with instruction `w` in progress, nothing of it done. -/
def Machine.Ctx.busyWith (x : Machine.Ctx) (w : Nat) : Machine.Ctx :=
  { x with cur := some ⟨BitVec.ofNat 128 w, 0, 0, 0, 0, 0, [], [], none⟩ }

/-- Context `x` of number `c` is at instruction `w` in the state `b`: in progress already in `s`, or launched now (R296, R297). -/
def Machine.State.onward (s : Machine.State) (c : Nat) (x : Machine.Ctx) (w : Nat) (b : Machine.State) : Prop :=
  b.ctx? c = some x ∧ (b.slot x.slot).st = .running ∧ x.cur.map (·.word.toNat) = some w ∧
    (b = s ∨ ∃ y u, s.launches c y w u ∧ b = u.setCtx c (some (y.busyWith w)))

/-- The control port answers, no earlier command waits at it and no stream command of it is incomplete: a control-port command
is done at once (R88, R141, R373). -/
def Machine.State.cpReady (s : Machine.State) : Prop := s.cpUp = true ∧ s.cpWaiting = [] ∧ s.cpStream = false

/-- The state with the response line CP_ERR low, as a control-port command leaves it (R89). -/
def Machine.State.cpOk (s : Machine.State) : Machine.State := { s with cpErr := false }

/-- What falls due at cadence value `due` can come about: the counter has reached that value, or runs (DESIGN CHOICE, log entry 8). -/
def Machine.State.reaches (s : Machine.State) (due : Nat) : Prop := due ≤ s.cadence ∨ s.running = true

/-- The block's own access `o` (R132, R287) is request `id`, and has come to `d`. -/
def Machine.State.has (s : Machine.State) (o : Machine.Own) (id : Nat) (d : Machine.Direct) : Prop :=
  ∃ r, s.ownFind o = some (id, r) ∧ r.direct = d

/-- No NMU waits to go OFFLINE (Table 11.11). -/
def Machine.State.noneLeaving (s : Machine.State) : Prop :=
  ∀ n < 32, s.flag (Machine.F.nmuCtl_OFFLINE n) = false ∨ s.fget (Machine.F.nmuStatus_STATE n) ≠ 0

/-- The watchdog of NMU `n` has not run out (R351). -/
def Machine.State.dogRests (s : Machine.State) (n : Nat) : Prop := ∀ due, s.dogDue n = some due → s.cadence < due

/-- The state at the moment at which what falls due at `due` comes about. -/
def Machine.State.momentOf (s : Machine.State) (due : Nat) : Machine.State := { s with cadence := max s.cadence due }

end Sys2Proof
end

