-- ==== Sys2Proof/Certificates/Slice0/Obligations.lean ====
section
/-! DEFINITION. The statements for the provers. They are stated in the words of Safety: `sets` names every register field a command
changes and says that nothing else changes; an equation to a named operation says the same of everything. -/

open Sys2Proof Sys2Proof.Machine

/-- A step takes the command at the front of the queue and runs it with the rest of the queue. -/
def Obligations.StepRunsFrontCommand : Prop :=
  ∀ (c : Instr) (l : List Instr) (s : State), s.pending = c :: l → step s = exec c { s with pending := l }

/-- The model's own choice (log entry 18; R37 and R40 for the counter): with no command queued and none waiting at the control
port a step is one tick: the locked counter counts on, a pause runs down and ends at its last tick, and nothing else changes. -/
def Obligations.EmptyQueueTicks : Prop :=
  ∀ s : State, s.pending = [] → s.cpWaiting = [] →
    (s.flag F.glbCadStatus_LOCKED = false → step s = .next s) ∧
    (s.flag F.glbCadStatus_LOCKED = true → s.flag F.glbCadStatus_PAUSING = false →
      step s = .next { s with cadence := s.cadence + 1 }) ∧
    (s.flag F.glbCadStatus_LOCKED = true → s.flag F.glbCadStatus_PAUSING = true → 1 < s.pauseLeft →
      step s = .next { s with pauseLeft := s.pauseLeft - 1 }) ∧
    (s.flag F.glbCadStatus_LOCKED = true → s.flag F.glbCadStatus_PAUSING = true → s.pauseLeft ≤ 1 →
      ∃ t, step s = .next t ∧ ({ s with pauseLeft := 0 } : State).sets t [(F.glbCadStatus_PAUSING, 0)])

/-- No command touches the queue of commands. -/
def Obligations.ExecLeavesQueue : Prop := ∀ (c : Instr) (s t : State), exec c s = .next t → t.pending = s.pending

/-- Every step keeps the form of the state: canonical registers and cells, at most 64 events queued. -/
def Obligations.StepKeepsForm : Prop := ∀ s t : State, s.Formed → step s = .next t → t.Formed

/-- The state after reset has the form. -/
def Obligations.ResetHasForm : Prop := State.reset.Formed

/-- What the full reset at core power-on leaves (R37, R78, R113, R216, R433 to R435, Tables 1.11, 3.8, 4.2, 10.3, 13.1): the
counter at 0, READY, ACTIVE, RESET_DONE queued, every port disabled and without credits, every stream cache entry and slot free,
every window invalid, no lane, sort or PCC buffer occupied, every access table closed. -/
def Obligations.ResetLeaves : Prop :=
  State.reset.cadence = 0 ∧ State.reset.power = .active ∧ State.reset.flag F.glbResetStatus_READY = true ∧
  State.reset.pending = [] ∧ State.reset.events.map (·.code) = [0x041C] ∧
  (∀ n : Fin 113, State.reset.flag (F.glbPortCfg_EN n.val) = false ∧ (State.reset.port n.val).credits = []) ∧
  (∀ i : Nat, State.reset.entry? i = none) ∧ (∀ n : Nat, (State.reset.slot n).st = .free) ∧
  (∀ c : Nat, State.reset.ctx? c = none) ∧ (∀ k a g : Nat, State.reset.access k a g [.read] ≠ none) ∧
  (∀ k p : Nat, State.reset.pcc k p = Pcc.init ∧ (State.reset.out k p).st = .run) ∧
  State.reset.reqs = [] ∧ State.reset.lanes = [] ∧ State.reset.sorting = []

/-- Every command but RESPONSE_FLIT_ACK answers a next state in every state. -/
def Obligations.EveryCommandAnswers : Prop :=
  ∀ (c : Instr) (s : State), (∀ n, c ≠ .responseFlitAck n) → completes c s

/-- A command that cannot be done yet at the control port changes nothing but the list of commands that wait there: while the core
is not powered (R373), and behind a command that waits or a STREAM_CMD that has not completed (R88, R141). A control-port command
for a stack that is not built changes nothing (R13); its response carries CP_ERR = 0. -/
def Obligations.PortTurnsAway : Prop :=
  (∀ (c : Instr) (s : State), c.atControlPort = true → ¬ s.cpReady →
    exec c s = .next { s with cpWaiting := s.cpWaiting ++ [c] }) ∧
  (∀ (c : Instr) (s : State) (k : Nat), c.stackOf? = some k → s.build.nStacks ≤ k → s.cpReady → exec c s = .next s.cpOk)

/-- REGISTER_WRITE, RC_REGISTER_READ: a command whose address is not a multiple of 8 changes nothing, a read of it returns 0, both
with CP_ERR = 1 (R89); a read or write of an absent or unassigned register returns 0 or changes nothing, with CP_ERR = 0 (R13). -/
def Obligations.MisalignedAddress : Prop :=
  ∀ (a : BitVec 24) (w : Word) (s : State), s.cpReady →
    (a.toNat % 8 ≠ 0 → exec (.registerWrite a w) s = .next { s with cpErr := true } ∧
      exec (.rcRegisterRead a) s = .next { s with cpErr := true, cpRData := 0 }) ∧
    (a.toNat % 8 = 0 → (s.present a.toNat = false ∨ RegFile.find a.toNat = none) →
      exec (.registerWrite a w) s = .next s.cpOk ∧ exec (.rcRegisterRead a) s = .next { s.cpOk with cpRData := 0 })

/-- RC_REGISTER_READ, REGISTER_WRITE: a read returns the register's value and returns its read-clear fields to reset (Table 0.9);
a write of a register with no behaviour of its own changes its RW bits, its RWL bits while the access lock is open, clears W1C
bits and sets W1S bits written 1; neither changes another register or anything else. -/
def Obligations.RegisterAccessCodes : Prop :=
  (∀ (a : BitVec 24) (s : State) (r : RegDef), s.cpReady → a.toNat % 8 = 0 → s.present a.toNat = true →
    RegFile.find a.toNat = some r →
    ∃ t, exec (.rcRegisterRead a) s = .next t ∧ t.cpRData = s.regRead a.toNat ∧
      t = { s with cpErr := false, cpRData := t.cpRData, regs := t.regs } ∧
      (∀ b, b ≠ a.toNat → t.reg b = s.reg b) ∧
      t.reg a.toNat &&& ~~~(BitVec.ofNat 64 r.rc) = s.reg a.toNat &&& ~~~(BitVec.ofNat 64 r.rc) ∧
      t.reg a.toNat &&& BitVec.ofNat 64 r.rc = RegFile.reset a.toNat &&& BitVec.ofNat 64 r.rc) ∧
  (∀ (a : BitVec 24) (w : Word) (s : State) (r : RegDef) (i : Nat), s.cpReady → a.toNat % 8 = 0 → s.present a.toNat = true →
    RegFile.find a.toNat = some r → a.toNat ≠ A.seqDoorbell →
    (∀ x ∈ dieActs ++ stackActs, regIndices x.base x.dims a.toNat = none) →
    ∃ t, exec (.registerWrite a w) s = .next t ∧ t = { s.cpOk with regs := t.regs } ∧
      (∀ b, b ≠ a.toNat → t.reg b = s.reg b) ∧
      ((t.reg a.toNat).getLsbD i =
        let b := s.reg a.toNat
        if r.w1s.testBit i && w.getLsbD i then true
        else if r.w1c.testBit i && w.getLsbD i then false
        else if r.rw.testBit i || (r.rwl.testBit i && !s.flag F.glbAccLock_LOCK) then w.getLsbD i
        else b.getLsbD i))

/-- An event that falls due takes its place behind those queued, with the cadence value of that moment as its stamp (R426); while
64 records are queued it is dropped and EV_STATUS.DROPPED counts it, up to its width (R428). -/
def Obligations.EventQueued : Prop :=
  ∀ (s : State) (code unit a0 a1 : Nat),
    (s.events.length < 64 → s.post code unit a0 a1 =
      { s with events := s.events ++ [⟨code, unit, s.cadence, BitVec.ofNat 64 a0, BitVec.ofNat 64 a1⟩] }) ∧
    (s.events.length = 64 → ∃ n x, ({ s with dropCount := n, dropStamp := x } : State).sets (s.post code unit a0 a1)
        [(F.glbEvStatus_DROPPED, s.topped F.glbEvStatus_DROPPED 1)] ∧
      n = s.dropCount + 1 ∧ x = if s.dropCount = 0 then s.cadence else s.dropStamp)

/-- Where an offset lies (R101, Table 3.3): the digits of each order, the final digit below its radix exactly when the offset is
below ADDR_SIZE; every offset in range has one location, every location in range has one offset. -/
def Obligations.InterleaveOrders : Prop :=
  ∀ b : Build, 0 < b.nStacks → b.spares < 64 → 4 ≤ b.height → ∀ a : Nat,
    (let l := decodeOffset b 0 a
     l.byte = a % 64 ∧ l.stack = a / 64 / 4 % b.nStacks ∧ l.lpc = a / 64 / 4 / b.nStacks % b.N ∧
       l.col = a / 64 % 4 + 4 * (a / 64 / 4 / b.nStacks / b.N % 4) ∧ l.bg = a / 64 / 4 / b.nStacks / b.N / 4 % 4 ∧
       l.bank = a / 64 / 4 / b.nStacks / b.N / 4 / 4 % 4 ∧ l.sid = a / 64 / 4 / b.nStacks / b.N / 4 / 4 / 4 % b.H ∧
       l.row = a / 64 / 4 / b.nStacks / b.N / 4 / 4 / 4 / b.H ∧ (l.row < dataRows ↔ a < b.addrSize)) ∧
    (let l := decodeOffset b 1 a
     l.byte = a % 64 ∧ l.col = a / 64 % 16 ∧ l.lpc = a / 64 / 16 % b.N ∧ l.stack = a / 64 / 16 / b.N % b.nStacks ∧
       l.bg = a / 64 / 16 / b.N / b.nStacks % 4 ∧ l.bank = a / 64 / 16 / b.N / b.nStacks / 4 % 4 ∧
       l.sid = a / 64 / 16 / b.N / b.nStacks / 4 / 4 % b.H ∧ l.row = a / 64 / 16 / b.N / b.nStacks / 4 / 4 / b.H ∧
       (l.row < dataRows ↔ a < b.addrSize)) ∧
    (let l := decodeOffset b 2 a
     l.byte = a % 64 ∧ l.bg = a / 64 % 4 ∧ l.stack = a / 64 / 4 % b.nStacks ∧ l.lpc = a / 64 / 4 / b.nStacks % b.N ∧
       l.bank = a / 64 / 4 / b.nStacks / b.N % 4 ∧ l.col = a / 64 / 4 / b.nStacks / b.N / 4 % 16 ∧
       l.sid = a / 64 / 4 / b.nStacks / b.N / 4 / 16 % b.H ∧ l.row = a / 64 / 4 / b.nStacks / b.N / 4 / 16 / b.H ∧
       (l.row < dataRows ↔ a < b.addrSize)) ∧
    (let l := decodeOffset b 3 a
     l.byte = a % 64 ∧ l.col = a / 64 % 16 ∧ l.lpc = a / 64 / 16 % b.N ∧ l.bg = a / 64 / 16 / b.N % 4 ∧
       l.bank = a / 64 / 16 / b.N / 4 % 4 ∧ l.sid = a / 64 / 16 / b.N / 4 / 4 % b.H ∧
       l.row = a / 64 / 16 / b.N / 4 / 4 / b.H % dataRows ∧ l.stack = a / 64 / 16 / b.N / 4 / 4 / b.H / dataRows ∧ (l.stack < b.nStacks ↔ a < b.addrSize)) ∧
    ∀ o < 4, encodeOffset b o (decodeOffset b o a) = a ∧
      ∀ l : Loc, l.byte < 64 → l.col < 16 → l.stack < b.nStacks → l.lpc < b.N → l.bg < 4 → l.bank < 4 → l.sid < b.H →
        l.row < dataRows → decodeOffset b o (encodeOffset b o l) = l ∧ encodeOffset b o l < b.addrSize

/-- A cell of a stack reads as it was written; a write leaves every other cell (R103, R126). The number of an atom's cell within
its rows is below 2^25. -/
def Obligations.CellsReadAsWritten : Prop :=
  ∀ (s : State) (k p k' p' i j : Nat) (m n : Bool) (w : Stored), k < 8 → p < 64 → k' < 8 → p' < 64 → i < 2 ^ 25 → j < 2 ^ 25 →
    (s.setCell k p m i w).cell k p m i = w ∧
    ((k, p, m, i) ≠ (k', p', n, j) → (s.setCell k p m i w).cell k' p' n j = s.cell k' p' n j)

/-- HEADROOM_SAMPLE (R31, R32, Table 1.6): the sampled speed, the area and the least speed are recorded; SHORT is set below
REQUIRED − MARGIN, cleared from REQUIRED + MARGIN, else kept, and the register shows REQUIRED; HEADROOM_LOW is posted at the
HOLD-th short sample in a row, HEADROOM_OK at the first sample that is not short after it, neither twice in a row. A HOLD of 0
counts as 1. How argument 0 of HEADROOM_LOW holds the two speeds is open (log entry 16). -/
def Obligations.HeadroomSampled : Prop :=
  ∀ (speed : BitVec 16) (area : BitVec 8) (s : State), s.cpUp = true → s.headroom.sampled < s.cadence / 1024 →
    ∃ t, exec (.headroomSample speed area) s = .next t ∧
      t.fget F.glbHeadroom_SPEED = speed.toNat ∧ t.fget F.glbHeadroom_MIN_AREA = area.toNat ∧
      t.fget F.glbHeadroomMin_SPEED_MIN = min speed.toNat (s.fget F.glbHeadroomMin_SPEED_MIN) ∧
      (let req := requiredSpeed s.instBin
       let margin := s.fget F.glbHeadroomCfg_MARGIN
       bitsOf (t.regRead A.glbHeadroom).toNat 31 16 = req ∧
       (speed.toNat + margin < req → t.flag F.glbHeadroom_SHORT = true) ∧
       (req + margin ≤ speed.toNat → t.flag F.glbHeadroom_SHORT = false) ∧
       (req ≤ speed.toNat + margin → speed.toNat < req + margin →
         t.flag F.glbHeadroom_SHORT = s.flag F.glbHeadroom_SHORT) ∧
       (t.flag F.glbHeadroom_SHORT = true →
         t.headroom.shortRun = s.headroom.shortRun + 1 ∧
         t.headroom.firstShort = (if s.headroom.shortRun = 0 then s.cadence else s.headroom.firstShort) ∧
         (s.headroom.low = false → max 1 (s.fget F.glbHeadroomCfg_HOLD) ≤ s.headroom.shortRun + 1 →
           t.headroom.low = true ∧
           t.events = (s.post 0x0401 0 (Config.headroomArg speed.toNat req) t.headroom.firstShort).events) ∧
         (s.headroom.low = true ∨ s.headroom.shortRun + 1 < max 1 (s.fget F.glbHeadroomCfg_HOLD) →
           t.headroom.low = s.headroom.low ∧ t.events = s.events)) ∧
       (t.flag F.glbHeadroom_SHORT = false →
         t.headroom.shortRun = 0 ∧ t.headroom.low = false ∧
         t.events = if s.headroom.low then (s.post 0x0402 0 0 0).events else s.events)) ∧
      t = { s with regs := t.regs, headroom := t.headroom, events := t.events, dropCount := t.dropCount,
                   dropStamp := t.dropStamp } ∧
      s.keepsRegs t [F.glbHeadroom_SPEED, F.glbHeadroom_MIN_AREA, F.glbHeadroom_SHORT, F.glbHeadroomMin_SPEED_MIN,
        F.glbEvStatus_DROPPED]

/-- CAD_SYNC_ARM, CADENCE_PAUSE_END and SYNC_EDGE (R39, R40, R42, R44, R45). The write gives ARM its bit; the end of a pause
clears PAUSING. An edge less than 40 ct after the last one is one with it and changes nothing; any other is counted. With ARM
clear, or in a pause, it does nothing else. Armed and not refused it takes the step: a delta of 0 leaves the counter, a negative
one pauses it for its length, a positive one is added to it at once and its consumers see the jump; CADENCE_STEPPED carries delta
and the counter, CADENCE_ESTIMATED and CADENCE_INVALID are cleared, ARM too, and CAD_SYNC_DELTA takes delta. -/
def Obligations.CadenceControl : Prop :=
  (∀ (w : Word) (s : State), s.cpReady →
    ∃ t, exec (.cadSyncArm w) s = .next t ∧ s.cpOk.sets t [(F.glbCadSyncCtl_ARM, w.toNat % 2)]) ∧
  (∀ s : State, s.flag F.glbCadStatus_PAUSING = true →
    ∃ t, exec .cadencePauseEnd s = .next t ∧ ({ s with pauseLeft := 0 } : State).sets t [(F.glbCadStatus_PAUSING, 0)]) ∧
  (∀ s : State, s.flag F.glbCadStatus_PAUSING = false → exec .cadencePauseEnd s = .next s) ∧
  (∀ s : State, s.cpUp = true → s.sameEdge = true → exec .syncEdge s = .next s) ∧
  (∀ s : State, s.cpUp = true → s.sameEdge = false →
    (s.flag F.glbCadSyncCtl_ARM = false ∨ s.flag F.glbCadStatus_PAUSING = true) →
    ∃ t, exec .syncEdge s = .next t ∧ ({ s with syncAt := some (s.cadence, s.pauseLeft) } : State).sets t
      [(F.glbCadStatus_SYNC_EDGES, (s.fget F.glbCadStatus_SYNC_EDGES + 1) % 2 ^ 32)]) ∧
  (∀ s : State, s.cpUp = true → s.sameEdge = false → s.flag F.glbCadSyncCtl_ARM = true →
      s.flag F.glbCadStatus_PAUSING = false →
      let delta : Int := (s.fget F.glbCadSyncValue_VALUE : Int) - s.cadence
      let common := [(F.glbCadStatus_CADENCE_ESTIMATED, 0), (F.glbCadStatus_CADENCE_INVALID, 0), (F.glbCadSyncCtl_ARM, 0),
        (F.glbCadSyncDelta_DELTA, unsigned 64 delta),
        (F.glbCadStatus_SYNC_EDGES, (s.fget F.glbCadStatus_SYNC_EDGES + 1) % 2 ^ 32)]
      (delta = 0 → ∃ t, exec .syncEdge s = .next t ∧
        ({ s.post 0x0403 0 0 s.cadence with syncAt := some (s.cadence, s.pauseLeft) } : State).sets t common) ∧
      (-1000000 ≤ delta → delta < 0 → ∃ t, exec .syncEdge s = .next t ∧
        ({ s.post 0x0403 0 (unsigned 64 delta) s.cadence with
            pauseLeft := (-delta).toNat, syncAt := some (s.cadence, (-delta).toNat) } : State).sets t
          ((F.glbCadStatus_PAUSING, 1) :: common)) ∧
      (0 < delta → ∃ u, (({ s with cadence := s.fget F.glbCadSyncValue_VALUE } : State).post 0x0403 0 (unsigned 64 delta)
          (s.fget F.glbCadSyncValue_VALUE)).sets u common ∧
        exec .syncEdge s = .next { u.jumped s.cadence with
          syncAt := some ((u.jumped s.cadence).cadence, (u.jumped s.cadence).pauseLeft) }))

/-- An armed SYNC edge more than 1 ms back is refused (R41): the counter is unchanged, SYNC_REFUSED is set, CADENCE_SYNC_REFUSED
carries delta; it clears neither CADENCE_ESTIMATED nor CADENCE_INVALID (R42), but ARM, and writes delta to CAD_SYNC_DELTA (R39).
-/
def Obligations.SyncStepRefused : Prop :=
  ∀ s : State, s.cpUp = true → s.sameEdge = false → s.flag F.glbCadSyncCtl_ARM = true →
    s.flag F.glbCadStatus_PAUSING = false → (s.fget F.glbCadSyncValue_VALUE : Int) - s.cadence < -1000000 →
    ∃ t, exec .syncEdge s = .next t ∧
      ({ s.post 0x0404 0 (unsigned 64 ((s.fget F.glbCadSyncValue_VALUE : Int) - s.cadence)) 0 with
          syncAt := some (s.cadence, s.pauseLeft) } : State).sets t
        [(F.glbCadStatus_SYNC_REFUSED, 1), (F.glbCadSyncCtl_ARM, 0),
         (F.glbCadSyncDelta_DELTA, unsigned 64 ((s.fget F.glbCadSyncValue_VALUE : Int) - s.cadence)),
         (F.glbCadStatus_SYNC_EDGES, (s.fget F.glbCadStatus_SYNC_EDGES + 1) % 2 ^ 32)]

/-- GATE_ENTRY_WRITE (R152): an entry of the active bank, or of the next bank while a swap is pending, is not written and
WRITE_REFUSED is set; any other entry takes the word, and nothing else changes. A pending swap whose time has come is taken first
(R154). -/
def Obligations.GateEntryWritten : Prop :=
  ∀ (g : Fin 16) (b : Fin 2) (j : Fin 128) (w : Word) (s : State), s.cpReady →
    (s.flag (F.trfGateStatus_PENDING g.val) = true → (s.arm g.val).t ≤ s.cadence →
      exec (.gateEntryWrite g b j w) s = exec (.gateEntryWrite g b j w) (s.takeSwap g.val)) ∧
    (¬ (s.flag (F.trfGateStatus_PENDING g.val) = true ∧ (s.arm g.val).t ≤ s.cadence) →
      let held := (s.flag (F.trfGateStatus_ACTIVE_VALID g.val) = true ∧ b.val = s.fget (F.trfGateStatus_ACTIVE_BANK g.val)) ∨
        (s.flag (F.trfGateStatus_PENDING g.val) = true ∧ b.val = 1 - s.fget (F.trfGateStatus_ACTIVE_BANK g.val))
      (held → ∃ t, exec (.gateEntryWrite g b j w) s = .next t ∧
        s.cpOk.sets t [(F.trfGateStatus_WRITE_REFUSED g.val, 1)]) ∧
      (¬ held → ∃ t, exec (.gateEntryWrite g b j w) s = .next t ∧ t = { s.cpOk with regs := t.regs } ∧
        t.reg (A.trfGateEnt g.val b.val j.val) = w ∧ ∀ a, a ≠ A.trfGateEnt g.val b.val j.val → t.reg a = s.reg a))

/-- GATE_ARM (R153): refused with ARM_REFUSED where CYCLE or LEN is 0, LEN is above 256, every entry has duration 0 or a swap is
pending; else PENDING is set and the swap time is NEXT_BASE, or NEXT_BASE advanced by whole cycles to the first value not passed,
with BASE_ADVANCED and its event. CTL.EN takes the bit written. A pending swap whose time has come is taken first (R154). -/
def Obligations.GateArmed : Prop :=
  ∀ (g : Fin 16) (en : Bool) (s : State), s.cpReady →
    (s.flag (F.trfGateStatus_PENDING g.val) = true → (s.arm g.val).t ≤ s.cadence →
      exec (.gateArm g en) s = exec (.gateArm g en) (s.takeSwap g.val)) ∧
    (¬ (s.flag (F.trfGateStatus_PENDING g.val) = true ∧ (s.arm g.val).t ≤ s.cadence) →
      let base := s.fget (F.trfGateNextBase_BASE g.val)
      let cycle := s.fget (F.trfGateNextCfg_CYCLE g.val)
      let len := s.fget (F.trfGateNextCfg_LEN g.val)
      let bank := 1 - s.fget (F.trfGateStatus_ACTIVE_BANK g.val)
      let bad := cycle = 0 ∨ len = 0 ∨ 256 < len ∨ (∀ j < len, (s.gateEnt g.val bank j).2 = 0) ∨
        s.flag (F.trfGateStatus_PENDING g.val) = true
      (bad → ∃ t, exec (.gateArm g en) s = .next t ∧
        s.cpOk.sets t [(F.trfGateStatus_ARM_REFUSED g.val, 1), (F.trfGateCtl_EN g.val, bit en)]) ∧
      (¬ bad → s.cadence ≤ base → ∃ t, exec (.gateArm g en) s = .next t ∧ t.arm g.val = ⟨base, cycle, len⟩ ∧
        ({ s.cpOk with gates := t.gates } : State).sets t
          [(F.trfGateStatus_PENDING g.val, 1), (F.trfGateCtl_EN g.val, bit en)]) ∧
      (¬ bad → base < s.cadence → ∃ t n, exec (.gateArm g en) s = .next t ∧ t.arm g.val = ⟨base + n * cycle, cycle, len⟩ ∧
        s.cadence ≤ base + n * cycle ∧ base + n * cycle < s.cadence + cycle ∧
        ({ s.cpOk.post 0x040A g.val (g.val + bank * 2 ^ 4) (base + n * cycle) with gates := t.gates } : State).sets t
          [(F.trfGateStatus_PENDING g.val, 1), (F.trfGateStatus_BASE_ADVANCED g.val, 1), (F.trfGateCtl_EN g.val, bit en)]))

/-- GATE_CANCEL (R155): before its time a pending swap is withdrawn and the active list unchanged; at its time or later the cancel
has no effect. CTL.EN takes the bit written. -/
def Obligations.GateCancelled : Prop :=
  ∀ (g : Fin 16) (en : Bool) (s : State), s.cpReady →
    (s.flag (F.trfGateStatus_PENDING g.val) = true → s.cadence < (s.arm g.val).t →
      ∃ t, exec (.gateCancel g en) s = .next t ∧ t.arm g.val = ⟨0, 0, 0⟩ ∧ (∀ h, h ≠ g.val → t.arm h = s.arm h) ∧
        ({ s.cpOk with gates := t.gates } : State).sets t
          [(F.trfGateStatus_PENDING g.val, 0), (F.trfGateCtl_EN g.val, bit en)]) ∧
    (s.flag (F.trfGateStatus_PENDING g.val) = false ∨ (s.arm g.val).t ≤ s.cadence →
      ∃ t, exec (.gateCancel g en) s = .next t ∧ s.cpOk.sets t [(F.trfGateCtl_EN g.val, bit en)])

/-- GATE_SWAP_TAKE (R154, R156): at its cadence value the armed list becomes the active one; the next bank is active, PENDING
returns to 0, ACT_BASE takes T, ACT_CFG the armed cycle and length, SWAPS increments, and C7_GAP is computed. -/
def Obligations.GateSwapTaken : Prop :=
  ∀ (g : Fin 16) (s : State), s.flag (F.trfGateStatus_PENDING g.val) = true → s.reaches (s.arm g.val).t →
    ∃ t l, exec (.gateSwapTake g) s = .next t ∧ s.pendingList g.val = some l ∧ l.t = (s.arm g.val).t ∧
      l.cycle = (s.arm g.val).cycle ∧ l.ents.length = (s.arm g.val).len ∧ t.arm g.val = ⟨0, 0, 0⟩ ∧
      (∀ h, h ≠ g.val → t.arm h = s.arm h) ∧
      ({ s.momentOf (s.arm g.val).t with gates := t.gates } : State).sets t
        [(F.trfGateStatus_ACTIVE_BANK g.val, 1 - s.fget (F.trfGateStatus_ACTIVE_BANK g.val)),
         (F.trfGateStatus_ACTIVE_VALID g.val, 1), (F.trfGateStatus_PENDING g.val, 0),
         (F.trfGateStatus_C7_GAP g.val, c7Gap (s.activeList g.val) l), (F.trfGateActBase_T g.val, l.t % 2 ^ 64),
         (F.trfGateActCfg_CYCLE g.val, l.cycle % 2 ^ 32), (F.trfGateActCfg_LEN g.val, l.ents.length % 2 ^ 9),
         (F.trfGateSwaps_COUNT g.val, (s.fget (F.trfGateSwaps_COUNT g.val) + 1) % 2 ^ 64)]

/-- ING_CAPO_WRITE, PCC_CAPO_WRITE, PG_CAPO_WRITE (R193, R194, Table 6.6): the mask is written; an ingress output of that stack
goes from RUN to SOFT where a Capo source holds it and back to RUN where none does; no other output changes. CAPO_SOFT_TO_HARD
takes SOFT to HARD where no piece of a class below 7 is left in the PCC; CAPO_DRAINED takes HARD to DRAINED where the buffers are
empty and nothing is in flight, and what waits for the drain proceeds; CAPO_DRAIN_SLOW: a hold of DRAIN_WARN × 64 ct posts
CAPO_DRAIN_SLOW once, and continues (R196). -/
def Obligations.CapoHolds : Prop :=
  (∀ (k : Fin 8) (m : Word) (s : State), s.cpReady → k.val < s.build.nStacks →
    ∃ t, exec (.ingCapoWrite k m) s = .next t ∧ t.fget (F.arbStkIngCapo_MASK k.val) = m.toNat ∧
      (∀ p < 64, (t.out k.val p).st =
        if m.getLsbD p || (s.out k.val p).hwIng != [] then (if (s.out k.val p).st = .run then .soft else (s.out k.val p).st)
        else .run) ∧
      (∀ (j : Fin 8) (p : Nat), p < 64 → j ≠ k → t.out j.val p = s.out j.val p) ∧
      t = { s.cpOk with regs := t.regs, outputs := t.outputs } ∧
      s.keepsRegs t [F.arbStkIngCapo_MASK k.val, F.arbStkHardMax_COUNT k.val]) ∧
  (∀ (k : Fin 8) (m : Word) (s : State), s.cpReady → k.val < s.build.nStacks →
    ∃ t, exec (.pccCapoWrite k m) s = .next t ∧ s.cpOk.sets t [(F.arbStkPccCapo_MASK k.val, m.toNat)]) ∧
  (∀ (m : BitVec 16) (s : State), s.cpReady →
    ∃ t, exec (.pgCapoWrite m) s = .next t ∧ s.cpOk.sets t [(F.arbPgCapo_CAPO, m.toNat)]) ∧
  (∀ (k : Fin 8) (p : Fin 64) (s : State), (s.out k.val p.val).st = .soft →
    (∀ q ∈ (s.pcc k.val p.val).buf, q.cls = 7) → (∀ m ∈ (s.pcc k.val p.val).merges, m.cls = 7) →
    (s.pcc k.val p.val).fretQ = [] →
    exec (.capoSoftToHard k p) s =
      .next (s.setOut k.val p.val { s.out k.val p.val with st := .hard, hardAt := s.cadence })) ∧
  (∀ (k : Fin 8) (p : Fin 64) (s : State), (s.out k.val p.val).st = .hard → (s.pcc k.val p.val).buf = [] →
    (s.pcc k.val p.val).merges = [] → (s.pcc k.val p.val).fretQ = [] → (s.pcc k.val p.val).rb = [] →
    (s.pcc k.val p.val).rowCmd = none → (s.pcc k.val p.val).replay = .run → (∀ z ∈ (s.pcc k.val p.val).lines, z.st ≠ .filling) →
    exec (.capoDrained k p) s = .next ((s.setOut k.val p.val { s.out k.val p.val with st := .drained }).drainProceed k.val)) ∧
  (∀ (k : Fin 8) (p : Fin 64) (s : State), (s.out k.val p.val).st = .soft ∨ (s.out k.val p.val).st = .hard →
    (s.out k.val p.val).warned = false → s.fget (F.arbStkCfg_DRAIN_WARN k.val) ≠ 0 →
    s.reaches ((s.out k.val p.val).holdAt + s.fget (F.arbStkCfg_DRAIN_WARN k.val) * 64) →
    exec (.capoDrainSlow k p) s =
      .next (((s.momentOf ((s.out k.val p.val).holdAt + s.fget (F.arbStkCfg_DRAIN_WARN k.val) * 64)).setOut k.val p.val
        { s.out k.val p.val with warned := true }).post 0x0302 (k.val * 2 ^ 8 + p.val) (k.val + p.val * 2 ^ 8)
        (s.out k.val p.val).holdAt)) ∧
  (∀ (k : Fin 8) (p : Fin 64) (s : State), (s.out k.val p.val).warned = true → exec (.capoDrainSlow k p) s = .next s)

/-- READ, WRITE, WRITE_PARTIAL, ATOMIC_ADD_BESIDE, FENCE, PROBE, RESERVED_OPCODE and BRIDGE_REQUEST whose header flit cannot be
served yet (R50, R77, R78, R131): while the request channel holds one no other comes; before the port is first enabled it waits;
without a credit of its label it waits, CREDIT_VIOL counts it and IRI_PROTOCOL reports label and cause 0; a request that would
need a fifth miss slot of a data port waits, and MISS_HOLDS counts it. -/
def Obligations.HeaderHeld : Prop :=
  ∀ (c : Instr) (s : State) (n : Nat) (x : HeldHdr), c.arrives? = some (n, x) →
    let l := hdrLabel x.header
    let credits := (s.port n).credits
    ((s.port n).hdr ≠ none → exec c s = .next s) ∧
    (s.coreOn = true → s.portBuilt n = true → (s.port n).hdr = none → (s.port n).everEn = false →
      exec c s = .next (s.setPort n { s.port n with hdr := some { x with why := .notEnabled } })) ∧
    (s.coreOn = true → s.portBuilt n = true → (s.port n).hdr = none → (s.port n).everEn = true → SMap.get credits 0 l = 0 →
      ∃ t, exec c s = .next t ∧
        ((s.post 0x0406 n n l).setPort n { s.port n with hdr := some { x with why := .noCredit } }).sets t
          [(F.glbPortStatus_CREDIT_VIOL n, s.topped (F.glbPortStatus_CREDIT_VIOL n) 1)]) ∧
    (s.coreOn = true → n < 112 → (s.port n).hdr = none → (s.port n).everEn = true → 0 < SMap.get credits 0 l → x.op ≠ opFence →
      flitBad n x.op (hdrSize x.header) x.flits x.cut = false → s.portRefusal n x.op x.header = none →
      s.missSlotShort n (hdrStream x.header) = true →
      ∃ t, exec c s = .next t ∧
        (s.setPort n { s.port n with
          credits := SMap.put credits 0 l (SMap.get credits 0 l - 1)
          hdr := some { x with why := .noMissSlot } }).sets t
          [(F.trfMissHolds_COUNT, (s.fget F.trfMissHolds_COUNT + 1) % 2 ^ 64)])

/-- READ, WRITE, WRITE_PARTIAL, ATOMIC_ADD_BESIDE, FENCE, PROBE and RESERVED_OPCODE accepted at a data port (R62, R63, R64, R68,
R75, R82): the request consumes one credit of its label and is recorded as its header gives it. Flits R62 does not allow, a count
other than the expected or a next header before LAST, are refused with SIZE_ERROR, counted and reported with cause 1; a condition
of Table 2.13 refuses with its status; refused, it has exactly one response flit, INDEX 0, LAST 1, DV 0. A fence waits; any other
request goes to its stream. -/
def Obligations.RequestAccepted : Prop :=
  ∀ (c : Instr) (s : State) (n : Nat) (x : HeldHdr), c.arrives? = some (n, x) → n < 112 →
    s.coreOn = true → (s.port n).hdr = none → (s.port n).everEn = true →
    0 < SMap.get (s.port n).credits 0 (hdrLabel x.header) →
    let l := hdrLabel x.header
    let bad := flitBad n x.op (hdrSize x.header) x.flits x.cut
    let p := { s.port n with
      credits := SMap.put (s.port n).credits 0 l (SMap.get (s.port n).credits 0 l - 1)
      spent := (s.port n).spent ++ [⟨s.nextReq, l, false⟩] }
    let r := s.newReq n x.op x.header x.data x.be
    let a := ({ s with reqs := SMap.insert s.reqs s.nextReq r, nextReq := s.nextReq + 1 } : State).setPort n p
    let refused := fun (c : Nat) (b t : State) =>
      t.req? s.nextReq = some { r with refused := some c, flits := 1, lastSent := true } ∧
      (t.port n).rsq = (s.port n).rsq ++ [⟨s.nextReq, l, 0, true, false, x.op, c, r.mid, hdrTag x.header, 0, 0⟩] ∧
      (t.port n).credits = p.credits ∧ (t.port n).spent = p.spent ∧ (∀ i, i ≠ s.nextReq → t.req? i = s.req? i) ∧
      (∀ m, m ≠ n → t.port m = s.port m) ∧ t = { b with ports := t.ports, reqs := t.reqs, nextReq := s.nextReq + 1, regs := t.regs }
    (bad = true → ∃ t, exec c s = .next t ∧ refused stSize (s.post 0x0406 n n (l + 2 ^ 16)) t ∧
      t.fget (F.glbPortStatus_FLIT_MISMATCH n) = s.topped (F.glbPortStatus_FLIT_MISMATCH n) 1 ∧
      (s.post 0x0406 n n (l + 2 ^ 16)).keepsRegs t [F.glbPortStatus_FLIT_MISMATCH n]) ∧
    (bad = false → ∀ c', s.portRefusal n x.op x.header = some c' →
      ∃ t, exec c s = .next t ∧ refused c' s t ∧ t.regs = s.regs) ∧
    (bad = false → s.portRefusal n x.op x.header = none → x.op = opFence → exec c s = .next a) ∧
    (bad = false → s.portRefusal n x.op x.header = none → x.op ≠ opFence → s.missSlotShort n (hdrStream x.header) = false →
      exec c s = .next (a.toStream s.nextReq (hdrStream x.header)))

/-- The checks of Table 2.13 (R55 to R57, R61, R96, R97): reserved opcodes answer DECODE_ERROR; an illegal size or a misaligned
address SIZE_ERROR; a master the port's check mode turns away ACCESS_DENIED; an address outside the instance and the sibling, or
in the sibling while the Bridge is down, DECODE_ERROR; else there is no refusal, and a fence has no address to check. -/
def Obligations.PortChecks : Prop :=
  ∀ (s : State) (n op : Nat) (h : BitVec 128),
    let len := if op = opProbe then 64 else 64 * 2 ^ hdrSize h
    let a := if op = opProbe then hdrAddr h / 64 * 64 else hdrAddr h
    let mode := s.fget (F.glbPortCfg_MID_MODE n)
    let turned := mode = 2 ∧ hdrMid h &&& s.fget (F.glbPortCfg_MID_MASK n) ≠
      s.fget (F.glbPortCfg_MID n) &&& s.fget (F.glbPortCfg_MID_MASK n)
    let misfit := op ≠ opFence ∧ op ≠ opProbe ∧ (7 ≤ hdrSize h ∨ (op = opPartial ∧ 3 ≤ hdrSize h) ∨ hdrAddr h % (64 * 2 ^ hdrSize h) ≠ 0)
    let here := s.build.addrBase ≤ a ∧ a + len ≤ s.build.addrBase + s.build.addrSize
    let there := s.build.bridge = true ∧ (1 - s.build.sibling) * 2 ^ 41 ≤ a ∧
      a + len ≤ (1 - s.build.sibling) * 2 ^ 41 + s.fget F.glbSiblingSize_SIZE ∧ s.flag F.glbBridgeStatus_UP = true
    (6 ≤ op → s.portRefusal n op h = some 3) ∧
    (op < 6 → misfit → s.portRefusal n op h = some 4) ∧
    (op < 6 → ¬ misfit → turned → s.portRefusal n op h = some 2) ∧
    (op < 6 → ¬ misfit → ¬ turned → op = opFence → s.portRefusal n op h = none) ∧
    (op < 6 → ¬ misfit → ¬ turned → op ≠ opFence → here ∨ there → s.portRefusal n op h = none) ∧
    (op < 6 → ¬ misfit → ¬ turned → op ≠ opFence → ¬ (here ∨ there) → s.portRefusal n op h = some 3)

/-- STRAY_DATA_FLIT, HELD_HEADER_ACCEPTED, MISS_HOLD_RELEASE (R62, R77, R78, R131): a data flit without an open request is
discarded, counted and reported with cause 2; a held header of an enabled port takes an initial credit of its label, else the
credit that would be returned, and is served; one held for a miss slot is served as soon as a slot is free, and waits while none
is; the requests that a fence kept back and that only wanted a slot go before it. -/
def Obligations.HeldHeaderServed : Prop :=
  (∀ (n : Fin 113) (s : State), s.coreOn = true → s.portBuilt n.val = true → (s.port n.val).hdr = none →
    ∃ t, exec (.strayDataFlit n) s = .next t ∧ (s.post 0x0406 n.val n.val (2 * 2 ^ 16)).sets t
      [(F.glbPortStatus_FLIT_MISMATCH n.val, s.topped (F.glbPortStatus_FLIT_MISMATCH n.val) 1)]) ∧
  (∀ (n : Fin 113) (s : State) (x : HeldHdr), (s.port n.val).hdr = some x → x.why ≠ .noMissSlot →
    let l := hdrLabel x.header
    let credits := (s.port n.val).credits
    (s.flag (F.glbPortCfg_EN n.val) = false → exec (.heldHeaderAccepted n) s = .next s) ∧
    (s.flag (F.glbPortCfg_EN n.val) = true → 0 < SMap.get credits 0 l →
      exec (.heldHeaderAccepted n) s = .next ((s.setPort n.val { s.port n.val with
        hdr := none, credits := SMap.put credits 0 l (SMap.get credits 0 l - 1) }).credited n.val x)) ∧
    (s.flag (F.glbPortCfg_EN n.val) = true → SMap.get credits 0 l = 0 → s.overShare l = false → ∀ r : Spent,
      (s.port n.val).spent.find? (fun e => e.acked && e.label == l) = some r →
      exec (.heldHeaderAccepted n) s = .next ((s.setPort n.val { s.port n.val with
        hdr := none, spent := (s.port n.val).spent.erase r }).credited n.val x)) ∧
    (SMap.get credits 0 l = 0 →
      (s.overShare l = true ∨ ∀ e ∈ (s.port n.val).spent, ¬ (e.acked = true ∧ e.label = l)) →
      exec (.heldHeaderAccepted n) s = .next s)) ∧
  (∀ (n : Fin 112) (s : State) (x : HeldHdr), (s.port n.val).hdr = some x → x.why = .noMissSlot →
    (∀ e ∈ s.reqs, e.2.src = .port n.val → s.keptBack e.1 e.2 = false) →
    (s.missSlotShort n.val (hdrStream x.header) = true → exec (.missHoldRelease n) s = .next s) ∧
    (s.missSlotShort n.val (hdrStream x.header) = false →
      exec (.missHoldRelease n) s = .next ((s.setPort n.val { s.port n.val with hdr := none }).serveReq n.val x))) ∧
  (∀ (n : Fin 112) (s : State),
    let u := s.dispatchKept n.val
    ((∀ x, (u.port n.val).hdr = some x → x.why ≠ .noMissSlot ∨ u.missSlotShort n.val (hdrStream x.header) = true) →
      exec (.missHoldRelease n) s = .next u) ∧
    (∀ x, (u.port n.val).hdr = some x → x.why = .noMissSlot → u.missSlotShort n.val (hdrStream x.header) = false →
      exec (.missHoldRelease n) s = .next ((u.setPort n.val { u.port n.val with hdr := none }).serveReq n.val x)))

/-- RESPONSE_FLIT_ACK, RESPONSE_STALL, CREDIT_RETURN (R50, R74, R76, R165, R166): the acknowledged flit leaves the channel and
STALLED returns to 0; with the LAST flit the request is answered and its credit may be returned; the flit behind it is then sent,
and where it is the LAST of a request older than its label's TARGET, LATE counts it. An acknowledgement on an idle channel stops,
for R50 does not permit it. A channel pending longer than STALL_LIMIT × 64 ct sets STALLED and posts IRI_RESP_STALL, once. A
credit is returned only after that acknowledgement, to an enabled port, not while its label is over share, and to no port where a
header waits for it. -/
def Obligations.ResponseChannel : Prop :=
  (∀ (n : Fin 113) (s : State), (s.port n.val).rsq = [] → exec (.responseFlitAck n) s = .fault .ackOnIdleChannel) ∧
  (∀ (n : Fin 113) (s : State) (f : Flit) (l : List Flit), (s.port n.val).rsq = f :: l →
    ∃ t, exec (.responseFlitAck n) s = .next t ∧ t.port n.val = { s.port n.val with
        rsq := l, since := s.cadence
        spent := if f.last then (s.port n.val).spent.map fun c => if c.req = f.req then { c with acked := true } else c
          else (s.port n.val).spent } ∧
      (∀ m, m ≠ n.val → t.port m = s.port m) ∧
      (∀ i, t.req? i = if f.last = true ∧ i = f.req then none else s.req? i) ∧
      (let late := fun (g : Flit) (r : Req) => l.head? = some g ∧ t.req? g.req = some r ∧ g.last = true ∧
          s.fget (F.trfLabelCfg_TARGET r.label) ≠ 0 ∧ s.fget (F.trfLabelCfg_TARGET r.label) < s.cadence - r.arrival
       ((∀ g r, ¬ late g r) →
         ({ s with ports := t.ports, reqs := t.reqs } : State).sets t [(F.glbPortStatus_STALLED n.val, 0)]) ∧
       (∀ g r, late g r → r.label < 64 → ({ s with ports := t.ports, reqs := t.reqs } : State).sets t
         [(F.glbPortStatus_STALLED n.val, 0), (F.trfLabelStat_LATE r.label, s.topped (F.trfLabelStat_LATE r.label) 1)]))) ∧
  (∀ (n : Fin 113) (s : State), (s.port n.val).rsq ≠ [] → s.flag (F.glbPortStatus_STALLED n.val) = false →
    let due := (s.port n.val).since + max 1 (s.fget (F.glbPortCfg_STALL_LIMIT n.val)) * 64 + 1
    s.reaches due → ∃ t, exec (.responseStall n) s = .next t ∧
      ((s.momentOf due).post 0x0405 n.val n.val 0).sets t [(F.glbPortStatus_STALLED n.val, 1)]) ∧
  (∀ (n : Fin 113) (s : State), (s.port n.val).rsq = [] ∨ s.flag (F.glbPortStatus_STALLED n.val) = true →
    exec (.responseStall n) s = .next s) ∧
  (∀ (n : Fin 113) (l : Fin 64) (s : State) (r : Spent),
    (s.port n.val).spent.find? (fun e => e.acked && e.label == l.val) = some r →
    let wanted := ∃ x, (s.port n.val).hdr = some x ∧ x.why ≠ .noMissSlot ∧ hdrLabel x.header = l.val
    (s.flag (F.glbPortCfg_EN n.val) = true → s.overShare l.val = false → ¬ wanted →
      exec (.creditReturn n l) s = .next (s.setPort n.val { s.port n.val with
        spent := (s.port n.val).spent.erase r
        credits := SMap.put (s.port n.val).credits 0 l.val (SMap.get (s.port n.val).credits 0 l.val + 1)
        crs := [⟨false, 1, l.val⟩] })) ∧
    (s.flag (F.glbPortCfg_EN n.val) = false ∨ s.overShare l.val = true ∨ wanted → exec (.creditReturn n l) s = .next s)) ∧
  (∀ (n : Fin 113) (l : Fin 64) (s : State), (∀ e ∈ (s.port n.val).spent, ¬ (e.acked = true ∧ e.label = l.val)) →
    exec (.creditReturn n l) s = .next s)

/-- PORT_ENABLE and PORT_DISABLE (R5, R78, R115, R164, R376, R382, R435) answer a next state whenever the control port is ready.
STALL_LIMIT takes the value written, the locked fields only while ACC_LOCK is clear, EN the bit that the row names. An enable of a
port that is built, with READY, sends one message with CLR_ALL and then each label its initial credit, and nothing consumed before
is returned after it; in RESTORED and CHECKING the credits wait; in QUIET the block leaves that state first; without READY, at a
port already enabled or at the Bridge port of a build without a Bridge no credit is given. A disable withdraws EN and what is owed
and keeps the accepted requests. -/
def Obligations.PortSwitched : Prop :=
  let fields := fun (n : Nat) (w : Word) (en : Nat) (s t : State) =>
    s.sets t ([(F.glbPortCfg_EN n, en), (F.glbPortCfg_STALL_LIMIT n, bitsOf w.toNat 31 16)] ++
      (if s.flag F.glbAccLock_LOCK then [] else [(F.glbPortCfg_MID n, bitsOf w.toNat 63 52),
        (F.glbPortCfg_MID_MASK n, bitsOf w.toNat 51 40), (F.glbPortCfg_MID_MODE n, bitsOf w.toNat 39 38)]))
  (∀ (n : Fin 113) (w : Word) (s : State), s.cpReady → s.power ≠ .quiet → s.flag (F.glbPortCfg_EN n.val) = false →
    s.flag F.glbResetStatus_READY = true → (n.val < 112 ∨ s.build.bridge = true) →
    s.power ≠ .restored → s.power ≠ .checking →
    ∃ t p, exec (.portEnable n w) s = .next t ∧
      p.everEn = true ∧ p.credited = true ∧ p.credits = s.initialCredits n.val ∧ p.spent = [] ∧
      p.rsq = (s.port n.val).rsq ∧ p.since = (s.port n.val).since ∧
      p.crs = ⟨true, 0, 0⟩ :: (List.range 64).map (fun l => ⟨false, SMap.get (s.initialCredits n.val) 0 l, l⟩) ∧
      (∀ x, (s.port n.val).hdr = some x → p.hdr = some { x with lost := x.lost || x.why == .noMissSlot }) ∧
      ((s.port n.val).hdr = none → p.hdr = none) ∧ fields n.val w 1 (s.cpOk.setPort n.val p) t) ∧
  (∀ (n : Fin 113) (w : Word) (s : State), s.cpReady → s.power ≠ .quiet → s.flag (F.glbPortCfg_EN n.val) = false →
    s.flag F.glbResetStatus_READY = true →
    ((n.val = 112 ∧ s.build.bridge = false) ∨ s.power = .restored ∨ s.power = .checking) →
    ∃ t, exec (.portEnable n w) s = .next t ∧ fields n.val w 1 s.cpOk t) ∧
  (∀ (n : Fin 113) (w : Word) (s : State), s.cpReady → s.power ≠ .quiet →
    (s.flag (F.glbPortCfg_EN n.val) = true ∨ s.flag F.glbResetStatus_READY = false) →
    ∃ t, exec (.portEnable n w) s = .next t ∧ fields n.val w (s.fget (F.glbPortCfg_EN n.val)) s.cpOk t) ∧
  (∀ (n : Fin 113) (w : Word) (s : State), s.cpReady → s.power = .quiet →
    exec (.portEnable n w) s = exec (.portEnable n w) (s.quietExit 0)) ∧
  (∀ (n : Fin 113) (w : Word) (s : State), s.cpReady → w.getLsbD 0 = false → s.flag (F.glbPortCfg_EN n.val) = true →
    ∃ t p, exec (.portDisable n w) s = .next t ∧ p.everEn = (s.port n.val).everEn ∧ p.credited = false ∧
      p.credits = (s.port n.val).credits ∧ p.spent = [] ∧ p.rsq = (s.port n.val).rsq ∧ p.since = (s.port n.val).since ∧
      p.crs = (s.port n.val).crs ∧
      (∀ x, (s.port n.val).hdr = some x → p.hdr = some { x with lost := x.lost || x.why == .noMissSlot }) ∧
      ((s.port n.val).hdr = none → p.hdr = none) ∧ fields n.val w 0 (s.cpOk.setPort n.val p) t) ∧
  (∀ (n : Fin 113) (w : Word) (s : State), s.cpReady → w.getLsbD 0 = false → s.flag (F.glbPortCfg_EN n.val) = false →
    ∃ t, exec (.portDisable n w) s = .next t ∧ fields n.val w 0 s.cpOk t) ∧
  (∀ (n : Fin 113) (w : Word) (s : State), s.cpReady → w.getLsbD 0 = true → s.power ≠ .quiet →
    exec (.portDisable n w) s = exec (.portEnable n w) s)

/-- FENCE_COMPLETE (R71): the oldest fence of the port all of whose master's earlier requests there are settled completes, and its
response is sent; the requests that only it kept back are dispatched (the model's reading of where they wait, log entry 76); while
there is no such fence, nothing happens. -/
def Obligations.FenceCompletes : Prop :=
  ∀ (n : Fin 112) (s : State),
    (∀ (id : Nat) (r : Req), s.readyFence n.val = some (id, r) →
      r.op = opFence ∧ r.src = .port n.val ∧ r.fenceDone = false ∧
      (∀ e ∈ s.reqs, e.1 < id → e.2.src = r.src → e.2.mid = r.mid → e.2.settled = true) ∧
      let u := (s.putReq id { r with fenceDone := true }).sendFlits id
      exec (.fenceComplete n) s = .next (u.dispatchKept n.val) ∧
      (r.flits = 0 → r.lastSent = false → r.res = [] → (u.port n.val).rsq = (s.port n.val).rsq ++
          [⟨id, r.label, 0, true, false, opFence, stOk, r.mid, r.tag, 0, 0⟩]) ∧
      ((∀ e ∈ u.reqs, e.2.src = .port n.val → u.keptBack e.1 e.2 = false ∨ u.fenced e.1 e.2 = true) →
        exec (.fenceComplete n) s = .next u)) ∧
    (s.readyFence n.val = none → exec (.fenceComplete n) s = .next s)

/-- BRIDGE_REQUEST accepted, BRIDGE_RESPONSE, BRIDGE_FORWARD_TIMEOUT, BRIDGE_DOWN and BRIDGE_UP (R62, R75, R84 to R86, R97). A
request from the sibling is taken with a credit of its label; flits, a size or an address that R62, R56 or R96 does not allow
refuse it, as does what the model answers DECODE_ERROR (a fence, log entry 97); else it is cut into pieces on lane 16, and no
die-level rule is applied again. A response to a forwarded request answers it, one that is late is discarded (code 7: log entry
98); the time-out answers DECODE_ERROR and counts; BRIDGE_DOWN and BRIDGE_UP follow the link, and credit messages count for the
requests that wait for them. -/
def Obligations.BridgeTraffic : Prop :=
  (∀ (h : BitVec 128) (flits : Nat) (cut : Bool) (data : Payload) (be : BitVec 256) (s : State), s.build.bridge = true →
    s.coreOn = true → (s.port 112).hdr = none → (s.port 112).everEn = true → 0 < SMap.get (s.port 112).credits 0 (hdrLabel h) →
    let op := hdrOp h
    let x := HeldHdr.of op h flits cut data be
    let r := s.bridgeReq x
    let bad := flitBad 112 op (hdrSize h) flits cut
    let here := s.build.addrBase ≤ r.addr ∧ r.addr + 64 * r.atoms ≤ s.build.addrBase + s.build.addrSize
    let p := { s.port 112 with
      credits := SMap.put (s.port 112).credits 0 (hdrLabel h) (SMap.get (s.port 112).credits 0 (hdrLabel h) - 1)
      spent := (s.port 112).spent ++ [⟨s.nextReq, hdrLabel h, false⟩] }
    let a := ({ s with reqs := SMap.insert s.reqs s.nextReq r, nextReq := s.nextReq + 1 } : State).setPort 112 p
    (r.src = .bridge ∧ r.op = op ∧ r.mid = hdrMid h ∧ r.origin = hdrOrigin h ∧
      (op < 4 → hdrSize h < 7 → r.addr = hdrAddr h ∧ r.atoms = 2 ^ hdrSize h) ∧
      (op = opProbe → r.addr = hdrAddr h / 64 * 64 ∧ r.atoms = 1)) ∧
    (bad = false → (op < 4 ∨ op = opProbe) → sizeBad op (hdrSize h) (hdrAddr h) = false → here →
      (op = opAtomic → s.build.nmus = true) →
      ∃ t, exec (.bridgeRequest h flits cut data be) s = .next t ∧ t.req? s.nextReq = some { r with started := r.atoms } ∧
        (∃ l, t.lanes = s.lanes ++ l ∧ l.length = r.atoms / s.reqPieceLen r ∧
          ∀ q ∈ l, q.lane = 16 ∧ q.req = s.nextReq ∧ q.st = .lane) ∧ t.ports = a.ports ∧
        t = { a with reqs := t.reqs, lanes := t.lanes, nextPiece := t.nextPiece, free := t.free } ∧
        t.free = if op = opAtomic then s.free + 1 else s.free) ∧
    (bad = true → ∃ u, exec (.bridgeRequest h flits cut data be) s = .next (State.refuse u s.nextReq stSize) ∧
      (a.post 0x0406 112 112 (hdrLabel h + 2 ^ 16)).sets u
        [(F.glbPortStatus_FLIT_MISMATCH 112, s.topped (F.glbPortStatus_FLIT_MISMATCH 112) 1)]) ∧
    (bad = false → (op < 4 ∨ op = opProbe) → sizeBad op (hdrSize h) (hdrAddr h) = true →
      exec (.bridgeRequest h flits cut data be) s = .next (a.refuse s.nextReq stSize)) ∧
    (bad = false → (6 ≤ op ∨ op = opFence ∨ (sizeBad op (hdrSize h) (hdrAddr h) = false ∧
        (¬ here ∨ (op = opAtomic ∧ s.build.nmus = false)))) →
      exec (.bridgeRequest h flits cut data be) s = .next (a.refuse s.nextReq stDecode))) ∧
  (∀ (id : Nat) (c : List (BitVec 3)) (data : Payload) (poison : BitVec 64) (cr : List CrMsg) (s : State),
    let gone := ({ s with fwds := SMap.erase s.fwds id } : State)
    let first := (c.getD 0 0).toNat
    ((∀ f, SMap.get? s.fwds id = some f → f.sent = false ∨ s.req? id = none) →
      exec (.bridgeResponse id c data poison cr) s = .next (s.bridgeCredits cr)) ∧
    (∀ (f : Fwd) (r : Req), SMap.get? s.fwds id = some f → f.sent = true → s.req? id = some r →
      ((first = 3 ∨ first = 4) →
        exec (.bridgeResponse id c data poison cr) s = .next ((gone.refuse id first).bridgeCredits cr)) ∧
      (first ≠ 3 → first ≠ 4 → (∃ x ∈ c, x.toNat = 7) →
        exec (.bridgeResponse id c data poison cr) s = .next ((gone.refuse id 3).bridgeCredits cr)) ∧
      (first ≠ 3 → first ≠ 4 → (∀ x ∈ c, x.toNat ≠ 7) → exec (.bridgeResponse id c data poison cr) s =
        .next (((gone.putReq id { r with res := bridgeAtoms r c data poison, probe := BitVec.ofNat 64 data.toNat }).sendFlits
          id).bridgeCredits cr)))) ∧
  (∀ (m : CrMsg) (s : State), s.fwds = [] →
    let cr := if m.clrAll then [] else s.bridgeCr
    s.bridgeCredits [m] = { s with bridgeCr := SMap.put cr 0 m.label (SMap.get cr 0 m.label + m.count) }) ∧
  (∀ (id : Nat) (s : State),
    (SMap.get? s.fwds id = none → exec (.bridgeForwardTimeout id) s = .next s) ∧
    (∀ f : Fwd, SMap.get? s.fwds id = some f →
      let due := f.since + max 1 (s.fget F.glbBridgeCfg_TIMEOUT) * 1000
      s.reaches due → ∃ u, exec (.bridgeForwardTimeout id) s = .next (State.refuse u id 3) ∧
        ({ s.momentOf due with fwds := SMap.erase s.fwds id } : State).sets u
          [(F.glbBridgeStatus_TIMEOUTS, s.topped F.glbBridgeStatus_TIMEOUTS 1)])) ∧
  (∀ s : State, s.build.bridge = true → s.flag F.glbBridgeStatus_UP = true →
    ∃ t, exec .bridgeDown s = .next t ∧
      ({ s.post 0x0501 (1 - s.build.sibling) s.fwds.length 0 with drone := { s.drone with sibReady := false } } : State).sets t
        [(F.glbBridgeStatus_UP, 0)]) ∧
  (∀ (size : BitVec 42) (cr : List CrMsg) (s : State), s.build.bridge = true → s.flag F.glbBridgeStatus_UP = false →
    ∃ u, exec (.bridgeUp size cr) s = .next (State.bridgeCredits u cr) ∧
      (s.post 0x0502 (1 - s.build.sibling) 0 0).sets u [(F.glbBridgeStatus_UP, 1), (F.glbSiblingSize_SIZE, size.toNat)]) ∧
  (∀ (size : BitVec 42) (cr : List CrMsg) (s : State),
    (s.build.bridge = false ∨ s.flag F.glbBridgeStatus_UP = false → exec .bridgeDown s = .next s) ∧
    (s.build.bridge = false ∨ s.flag F.glbBridgeStatus_UP = true → exec (.bridgeUp size cr) s = .next s))

/-- ADDR_ORDER_WRITE (R102, R115): a 1 at bit 8 clears ORDER_REFUSED. ORDER takes effect only while no port is enabled, every slot
is FREE and no Bow engine is busy; else ORDER_REFUSED is set. While ACC_LOCK is set ORDER is read-only. -/
def Obligations.OrderWritten : Prop :=
  ∀ (w : Word) (s : State), s.cpReady →
    let quiet := (∀ n < 113, s.flag (F.glbPortCfg_EN n) = false) ∧ (∀ e ∈ s.slots, e.2.st = .free) ∧
      ∀ k < s.build.nStacks, s.bowBusy k = false
    let cleared := if w.getLsbD 8 then 0 else s.fget F.glbAddrCfg_ORDER_REFUSED
    (s.flag F.glbAccLock_LOCK = true → ∃ t, exec (.addrOrderWrite w) s = .next t ∧
      s.cpOk.sets t [(F.glbAddrCfg_ORDER_REFUSED, cleared)]) ∧
    (s.flag F.glbAccLock_LOCK = false → quiet → ∃ t, exec (.addrOrderWrite w) s = .next t ∧
      s.cpOk.sets t [(F.glbAddrCfg_ORDER, w.toNat % 4), (F.glbAddrCfg_ORDER_REFUSED, cleared)]) ∧
    (s.flag F.glbAccLock_LOCK = false → ¬ quiet → ∃ t, exec (.addrOrderWrite w) s = .next t ∧
      s.cpOk.sets t [(F.glbAddrCfg_ORDER_REFUSED, 1)])

/-- PCMAP_EDIT_OPEN, PCMAP_ENTRY_WRITE, PCMAP_FAILED_WRITE (R106): an edit opens only with every ingress output of the stack
drained, no migration and no lock, else EDIT_REFUSED is set; entries and FAILED are written only while it is open, entries from N
on never. -/
def Obligations.MapEdited : Prop :=
  ∀ (k : Fin 8) (s : State), s.cpReady → k.val < s.build.nStacks →
    (s.flag (F.pcmapEdit_EDIT k.val) = false →
      ((∃ p < 64, (s.out k.val p).st ≠ .drained) ∨ s.flag (F.migStatus_ACTIVE k.val) = true ∨ s.flag F.glbAccLock_LOCK = true →
        ∃ t, exec (.pcmapEditOpen k) s = .next t ∧ s.cpOk.sets t [(F.pcmapEdit_EDIT_REFUSED k.val, 1)]) ∧
      ((∀ p < 64, (s.out k.val p).st = .drained) → s.flag (F.migStatus_ACTIVE k.val) = false → s.flag F.glbAccLock_LOCK = false →
        ∃ t, exec (.pcmapEditOpen k) s = .next t ∧
          ({ s.cpOk with mapSave := SMap.put s.mapSave none k.val (some (s.mapNow k.val)) } : State).sets t
            [(F.pcmapEdit_EDIT k.val, 1)]) ∧
      (∀ l w, exec (.pcmapEntryWrite k l w) s = .next s.cpOk) ∧ (∀ w, exec (.pcmapFailedWrite k w) s = .next s.cpOk)) ∧
    (s.flag (F.pcmapEdit_EDIT k.val) = true →
      exec (.pcmapEditOpen k) s = .next s.cpOk ∧
      (∀ (l : Fin 64) (w : Word), l.val < s.build.N → ∃ t, exec (.pcmapEntryWrite k l w) s = .next t ∧
        s.cpOk.sets t [(F.pcmapEntry_PPC k.val l.val, w.toNat % 64),
          (F.pcmapEntry_STATE k.val l.val, if w.getLsbD 61 then 3 else 0)]) ∧
      (∀ (l : Fin 64) (w : Word), s.build.N ≤ l.val → exec (.pcmapEntryWrite k l w) s = .next s.cpOk) ∧
      ∀ w : Word, ∃ t, exec (.pcmapFailedWrite k w) s = .next t ∧ s.cpOk.sets t [(F.pcmapFailed_MASK k.val, w.toNat)])

/-- PCMAP_EDIT_CLOSE (R105, R106): a map in which the entries in service have distinct physical PCs, none of them failed, takes
effect with SPARE as R105 defines it; any other returns to what it was when the edit opened, with EDIT_REFUSED. -/
def Obligations.MapEditClosed : Prop :=
  ∀ (k : Fin 8) (s : State) (m : MapSave), s.cpReady → k.val < s.build.nStacks → s.flag (F.pcmapEdit_EDIT k.val) = true →
    SMap.get s.mapSave none k.val = some m →
    let inUse := fun p => ∃ l < s.build.N, s.fget (F.pcmapEntry_STATE k.val l) = 0 ∧ s.fget (F.pcmapEntry_PPC k.val l) = p
    let failed := fun p => (s.fget (F.pcmapFailed_MASK k.val)).testBit p
    let good := (∀ i < s.build.N, ∀ j < s.build.N, i ≠ j → s.fget (F.pcmapEntry_STATE k.val i) = 0 →
        s.fget (F.pcmapEntry_STATE k.val j) = 0 → s.fget (F.pcmapEntry_PPC k.val i) ≠ s.fget (F.pcmapEntry_PPC k.val j)) ∧
      ∀ p, inUse p → failed p = false
    ∃ t, exec (.pcmapEditClose k) s = .next t ∧ SMap.get t.mapSave none k.val = none ∧
      t = { s.cpOk with regs := t.regs, mapSave := t.mapSave } ∧ t.flag (F.pcmapEdit_EDIT k.val) = false ∧
      (good → ({ s.cpOk with mapSave := t.mapSave } : State).sets t
          [(F.pcmapEdit_EDIT k.val, 0), (F.pcmapSpare_MASK k.val, t.fget (F.pcmapSpare_MASK k.val))] ∧
        ∀ p < 64, ((t.fget (F.pcmapSpare_MASK k.val)).testBit p = true ↔ failed p = false ∧ ¬ inUse p)) ∧
      (¬ good → t.flag (F.pcmapEdit_EDIT_REFUSED k.val) = true ∧
        (∀ l < 64, t.reg (A.pcmapEntry k.val l) = m.entries.getD l 0) ∧ t.reg (A.pcmapFailed k.val) = m.failed ∧
        t.reg (A.pcmapSpare k.val) = m.spare)

/-- ACC_COMMIT, ACC_LOAD, ACC_CLEAR (R113): the staged window comes into force whole; one with VALID and BASE above LIMIT changes
nothing and sets BAD_RANGE; OP 2 copies the window into staging; OP 3 clears it to its reset state; while ACC_LOCK is set OP 1 and
OP 3 change nothing and set LOCKED_REFUSED, and OP 2 still works. No other window, no other stack changes. -/
def Obligations.WindowCommands : Prop :=
  ∀ (k : Fin 8) (i : Fin 128) (s : State), s.cpReady → k.val < s.build.nStacks →
    (s.flag F.glbAccLock_LOCK = true →
      (∃ t, exec (.accCommit k i) s = .next t ∧ s.cpOk.sets t [(F.accStatus_LOCKED_REFUSED k.val, 1)]) ∧
      (∃ t, exec (.accClear k i) s = .next t ∧ s.cpOk.sets t [(F.accStatus_LOCKED_REFUSED k.val, 1)])) ∧
    (s.flag F.glbAccLock_LOCK = false →
      ((s.staged k.val).valid = true → (s.staged k.val).limit < (s.staged k.val).base →
        ∃ t, exec (.accCommit k i) s = .next t ∧ s.cpOk.sets t [(F.accStatus_BAD_RANGE k.val, 1)]) ∧
      ((s.staged k.val).valid = false ∨ (s.staged k.val).base ≤ (s.staged k.val).limit →
        ∃ t, exec (.accCommit k i) s = .next t ∧ t.window k.val i.val = s.staged k.val ∧ t = { s.cpOk with windows := t.windows } ∧
          ∀ j : Fin 8, ∀ n : Fin 128, (j, n) ≠ (k, i) → t.window j.val n.val = s.window j.val n.val) ∧
      ∃ t, exec (.accClear k i) s = .next t ∧ t.window k.val i.val = ⟨false, 0, 0, 0, 0, 0, 0⟩ ∧ t = { s.cpOk with windows := t.windows } ∧
        ∀ j : Fin 8, ∀ n : Fin 128, (j, n) ≠ (k, i) → t.window j.val n.val = s.window j.val n.val) ∧
    ((s.window k.val i.val).base < 2 ^ 30 → (s.window k.val i.val).limit < 2 ^ 30 →
      ∃ t, exec (.accLoad k i) s = .next t ∧ t.staged k.val = s.window k.val i.val ∧ t = { s.cpOk with regs := t.regs } ∧
        ∀ a, a ∉ [A.accStageBase k.val, A.accStageLimit k.val, A.accStageCtl k.val] →
          (∀ j < 4, a ∉ [A.accStageRead k.val j, A.accStageWrite k.val j, A.accStageFetch k.val j, A.accStageNmu k.val j]) →
          t.reg a = s.reg a)

/-- ACC_LOCK_SET and CAP_CFG_WRITE (R115, R106, R167, R170): LOCK is set and every open edit of a built stack ends; CAP_CFG takes
UTIL and REF_LOSS, and a change of SCALE posts GUARANTEE_SCALED. -/
def Obligations.LockAndCapacity : Prop :=
  (∀ s : State, s.cpReady → ∃ t, exec .accLockSet s = .next t ∧ t.flag F.glbAccLock_LOCK = true ∧
    t = { s.cpOk with regs := t.regs, mapSave := t.mapSave } ∧
    (∀ k < s.build.nStacks, t.flag (F.pcmapEdit_EDIT k) = false) ∧
    ((∀ k < s.build.nStacks, s.flag (F.pcmapEdit_EDIT k) = false) → s.cpOk.sets t [(F.glbAccLock_LOCK, 1)])) ∧
  (∀ (w : Word) (s : State), s.cpReady →
    ∃ u, s.cpOk.sets u [(F.trfCapCfg_UTIL, bitsOf w.toNat 15 8), (F.trfCapCfg_REF_LOSS, bitsOf w.toNat 7 0)] ∧
      (u.scale.1 = s.scale.1 → exec (.capCfgWrite w) s = .next u) ∧
      (u.scale.1 ≠ s.scale.1 → exec (.capCfgWrite w) s = .next (u.post 0x040B 0 u.scale.1
        (u.scale.2 + multCode (u.refMult u.scale.2) * 2 ^ 4 + bit (u.throttled u.scale.2) * 2 ^ 6))))

/-- DESCRIPTOR_FETCH_START (R130, R132): the miss takes a free entry, which goes to FILLING, and its descriptor is read through
lane 19 at class 7; CACHE_MISSES counts a request's miss; with the cache full the entry with the oldest last use among those
evictable goes to write-back, and the first miss that finds none posts STREAM_CACHE_FULL. -/
def Obligations.FetchStarted : Prop :=
  ∀ (i : BitVec 20) (s : State) (m : Miss), s.entry? i.toNat = none →
    s.misses.find? (fun x => x.stream == i.toNat && !x.started) = some m →
    let marked := { s with misses := s.misses.map fun x => if x.stream = i.toNat then { x with waited := true } else x }
    (freeIndex s.cache 0 < 16384 → ∃ u,
      ({ s.setEntry (freeIndex s.cache 0) { Entry.init with st := .filling, stream := i.toNat, last := s.cadence } with
        misses := s.misses.map fun x => if x.stream = i.toNat then { x with started := true } else x
        cacheFull := s.cacheFull && m.waited } : State).sets u
          [(F.trfCacheMisses_COUNT, (s.fget F.trfCacheMisses_COUNT +
            (if m.reqs.all fun id => (s.req? id).all Req.looks then 0 else 1)) % 2 ^ 64)] ∧
      exec (.descriptorFetchStart i) s =
        .next (State.ownStart u (.fetch i.toNat) (serviceAccess 7) .read (s.descAddr i.toNat) 1 [] [] [])) ∧
    (16384 ≤ freeIndex s.cache 0 →
      (s.cache.filter fun e => e.2.st == .writeback).length < (s.misses.filter fun x => !x.started).length →
      (∀ v, s.victim = some v → exec (.descriptorFetchStart i) s = .next ((s.settleSample v.1).writeback v.1)) ∧
      (s.victim = none → s.cacheFull = false →
        exec (.descriptorFetchStart i) s = .next { marked.post 0x0408 0 i.toNat 0 with cacheFull := true }) ∧
      (s.victim = none → s.cacheFull = true → exec (.descriptorFetchStart i) s = .next marked)) ∧
    (16384 ≤ freeIndex s.cache 0 →
      (s.misses.filter fun x => !x.started).length ≤ (s.cache.filter fun e => e.2.st == .writeback).length →
      exec (.descriptorFetchStart i) s = .next s)

/-- DESCRIPTOR_FETCH_RETURN and WRITEBACK_DONE (R123, R128, R129, R132, R140, R145, Table 4.2): the fetched words are installed
with their tokens refilled, the finish tag at virtual time, pinned where PIN asks and PIN_MAX allows; a poisoned or lost
descriptor frees the entry and posts STREAM_DESC_ERR; a write-back that is visible, or is discarded because its PC is lost or its
hold timed out (STREAM_WB_LOST), frees the entry and is counted; while the access waits nothing happens. With requests or commands
waiting, these go on as the operations named say; an access of the block's own is a piece of its lane. The last use of a fetched
entry (log entry 91) and the count of a discarded write-back (log entry 95) are the model's choices. -/
def Obligations.FetchAndWriteback : Prop :=
  (∀ (s : State) (o : Own) (x : Access) (kind : PKind) (a n : Nat) (data : List Atom) (poison : List Bool) (be : List (BitVec 64)),
    ∃ q r, s.ownStart o x kind a n data poison be = { s with
        reqs := SMap.insert s.reqs s.nextReq r, nextReq := s.nextReq + 1, lanes := s.lanes ++ [q], nextPiece := s.nextPiece + 64 } ∧
      r.src = .own o ∧ r.addr = a ∧ r.atoms = n ∧ r.res = List.replicate n ⟨.waiting, false, 0⟩ ∧
      q.lane = x.lane ∧ q.cls = x.cls ∧ q.kind = kind ∧ q.addr = a ∧ q.n = n ∧ q.data = data ∧ q.checks = x.masks ∧
      q.req = s.nextReq ∧ q.st = .lane) ∧
  (∀ (i : BitVec 20) (w : Atom) (s : State) (j id : Nat) (e : Entry) (reqs : List Nat), s.entry? i.toNat = some (j, e) →
    e.st = .filling → s.has (.fetch i.toNat) id (.data w false) →
    reqs = ((s.misses.find? fun m => m.stream == i.toNat).map (·.reqs)).getD [] →
    exec (.descriptorFetchReturn i) s = .next ((s.dropReq id).install j i.toNat w reqs) ∧
    (reqs = [] → s.commanded i.toNat = false → exec (.descriptorFetchReturn i) s = .next { (s.dropReq id).setEntry j { Entry.init with
        st := .idle, stream := i.toNat, desc := s.refill w (dClean w), fin := s.vt (dPgroup w) (dClass w), last := s.cadence
        pinned := dField w 0 19 19 == 1 && decide (s.pinned < min 8192 (s.fget F.trfCacheCfg_PIN_MAX)) } with
      misses := s.misses.filter fun m => m.stream != i.toNat })) ∧
  (∀ (i : BitVec 20) (s : State) (j id c : Nat) (e : Entry) (r : Direct) (reqs : List Nat), s.entry? i.toNat = some (j, e) →
    e.st = .filling → s.has (.fetch i.toNat) id r → ((∃ d, r = .data d true) ∧ c = stPoison ∨ r = .lost ∧ c = stLost) →
    reqs = ((s.misses.find? fun m => m.stream == i.toNat).map (·.reqs)).getD [] →
    exec (.descriptorFetchReturn i) s = .next ((s.dropReq id).fetchFails j i.toNat c reqs) ∧
    (reqs = [] → s.commanded i.toNat = false → exec (.descriptorFetchReturn i) s =
      .next { ((s.dropReq id).setEntry j Entry.init).post 0x0407 0 i.toNat c with
        misses := s.misses.filter fun m => m.stream != i.toNat })) ∧
  (∀ (i : BitVec 20) (s : State) (j id : Nat) (e : Entry), s.entry? i.toNat = some (j, e) →
    (e.st = .filling → s.has (.fetch i.toNat) id .blocked → exec (.descriptorFetchReturn i) s = .next s) ∧
    (e.st = .writeback → s.has (.writeback i.toNat) id .blocked → exec (.writebackDone i) s = .next s) ∧
    (e.st ≠ .writeback → exec (.writebackDone i) s = .next (s.evictIdle i.toNat)) ∧
    (e.st = .writeback → s.has (.writeback i.toNat) id .done →
      exec (.writebackDone i) s = .next ((s.dropReq id).wbFreed j i.toNat) ∧
      (s.commanded i.toNat = false → exec (.writebackDone i) s =
        .next (((s.dropReq id).setEntry j Entry.init).count F.trfCacheEvictions_COUNT 1))) ∧
    (e.st = .writeback → (s.has (.writeback i.toNat) id .lost ∨ s.has (.writeback i.toNat) id .timeout) →
      exec (.writebackDone i) s = .next (((s.dropReq id).post 0x0409 0 i.toNat 0).wbFreed j i.toNat) ∧
      (s.commanded i.toNat = false → exec (.writebackDone i) s =
        .next ((((s.dropReq id).post 0x0409 0 i.toNat 0).setEntry j Entry.init).count F.trfCacheEvictions_COUNT 1))))

/-- STREAM_LOAD, STREAM_FLUSH, STREAM_PIN, STREAM_UNPIN, STREAM_VIEW and STREAM_CMD_RESERVED (R127, R130, R141, R145, Table 4.3):
a reserved code does nothing with RESULT 6. Of a stream that is not cached, FLUSH and UNPIN have nothing to do, VIEW has RESULT 5,
LOAD and PIN make a fetch and wait. Of a resident one LOAD reads the store; FLUSH writes it back when idle and else marks it; PIN
pins it within PIN_MAX, else RESULT 2; UNPIN unpins it; VIEW refills its tokens and shows its words. Of one being fetched every
command waits; of one being written back LOAD and PIN make a fetch and the others find nothing. A command behind another on the
same stream waits. The command's use of the entry is its last. -/
def Obligations.StreamCommands : Prop :=
  (∀ (b : Bool) (i : BitVec 20) (s : State), s.cpReady → ∃ t, exec (.streamCmdReserved b i) s = .next t ∧
    s.cpOk.sets t [(F.trfStreamStatus_ID, i.toNat), (F.trfStreamStatus_RESULT, 6)]) ∧
  (∀ (i : BitVec 20) (s : State), s.cpReady → s.commanded i.toNat = false → s.entry? i.toNat = none →
    (∃ t, exec (.streamFlush i) s = .next t ∧
      s.cpOk.sets t [(F.trfStreamStatus_ID, i.toNat), (F.trfStreamStatus_RESULT, 0)]) ∧
    (∃ t, exec (.streamUnpin i) s = .next t ∧
      s.cpOk.sets t [(F.trfStreamStatus_ID, i.toNat), (F.trfStreamStatus_RESULT, 0)]) ∧
    (∃ t, exec (.streamView i) s = .next t ∧
      s.cpOk.sets t [(F.trfStreamStatus_ID, i.toNat), (F.trfStreamStatus_RESULT, 5)]) ∧
    (∀ z f, exec (.streamLoad i z f) s = .next
      (({ s.cpOk with scmds := s.scmds ++ [⟨i.toNat, 1, z, f, none, true⟩] } : State).miss i.toNat none)) ∧
    exec (.streamPin i) s = .next
      (({ s.cpOk with scmds := s.scmds ++ [⟨i.toNat, 3, false, false, none, true⟩] } : State).miss i.toNat none)) ∧
  (∀ (i : BitVec 20) (s : State) (j : Nat) (e : Entry), s.cpReady → s.commanded i.toNat = false →
    s.entry? i.toNat = some (j, e) → SMap.get? s.cache j = some e → (e.st = .idle → e.evict = false) →
    let used := { e with last := s.cadence }
    let waits := fun (op : Nat) (z f begun : Bool) =>
      ({ s.cpOk.setEntry j used with scmds := s.scmds ++ [⟨i.toNat, op, z, f, none, begun⟩] } : State)
    let result := fun (x : Entry) (r : Nat) (t : State) =>
      (s.cpOk.setEntry j x).sets t [(F.trfStreamStatus_ID, i.toNat), (F.trfStreamStatus_RESULT, r)]
    (e.resident = true →
      (∀ z f, s.ownFind (.load i.toNat) = none → exec (.streamLoad i z f) s = .next ((waits 1 z f false).ownStart
        (.load i.toNat) (serviceAccess 7) .read (s.descAddr i.toNat / 64 * 64) 1 [] [] [])) ∧
      (e.st = .idle → exec (.streamFlush i) s = .next (((waits 2 false false true).setEntry j
        { used with st := .writeback, evict := false, pinned := false }).ownStart
          (.writeback i.toNat) (serviceAccess 0) .partialWrite (s.descAddr i.toNat) 1 [e.desc] [false] [0xFFFFFFFF00000000])) ∧
      (e.st ≠ .idle → ∃ t, exec (.streamFlush i) s = .next t ∧ result { used with evict := true, pinned := false } 0 t) ∧
      (e.pinned = true ∨ s.pinned < min 8192 (s.fget F.trfCacheCfg_PIN_MAX) → ∃ t, exec (.streamPin i) s = .next t ∧
        result { used with pinned := true } 0 t) ∧
      (e.pinned = false → min 8192 (s.fget F.trfCacheCfg_PIN_MAX) ≤ s.pinned → ∃ t, exec (.streamPin i) s = .next t ∧
        result used 2 t) ∧
      (∃ t, exec (.streamUnpin i) s = .next t ∧ result { used with pinned := false } 0 t) ∧
      (∃ t, exec (.streamView i) s = .next t ∧ t = { s.cpOk.setEntry j
          { used with desc := s.refill e.served e.desc } with regs := t.regs } ∧
        (∀ n < 8, (t.reg (A.trfStreamView n)).toNat = dWord (s.refill e.served e.desc) n) ∧
        t.fget F.trfStreamStatus_ID = i.toNat ∧ t.fget F.trfStreamStatus_RESULT = 0 ∧
        ∀ a, (∀ n < 8, a ≠ A.trfStreamView n) → a ≠ A.trfStreamStatus → t.reg a = s.reg a)) ∧
    (e.st = .filling → (∀ z f, exec (.streamLoad i z f) s = .next (waits 1 z f false)) ∧
      exec (.streamFlush i) s = .next (waits 2 false false false) ∧ exec (.streamPin i) s = .next (waits 3 false false false) ∧
      exec (.streamUnpin i) s = .next (waits 4 false false false) ∧ exec (.streamView i) s = .next (waits 5 false false false)) ∧
    (e.st = .writeback → (∀ z f, exec (.streamLoad i z f) s = .next ((waits 1 z f true).miss i.toNat none)) ∧
      (∃ t, exec (.streamFlush i) s = .next t ∧ result used 0 t) ∧
      exec (.streamPin i) s = .next ((waits 3 false false true).miss i.toNat none) ∧
      (∃ t, exec (.streamUnpin i) s = .next t ∧ result used 0 t) ∧ ∃ t, exec (.streamView i) s = .next t ∧ result used 5 t)) ∧
  (∀ (i : BitVec 20) (s : State), s.cpReady → s.commanded i.toNat = true →
    let waits := fun (op : Nat) (z f : Bool) =>
      ({ s.cpOk.named i.toNat with scmds := s.scmds ++ [⟨i.toNat, op, z, f, none, false⟩] } : State)
    (∀ z f, exec (.streamLoad i z f) s = .next (waits 1 z f)) ∧ exec (.streamFlush i) s = .next (waits 2 false false) ∧
    exec (.streamPin i) s = .next (waits 3 false false) ∧ exec (.streamUnpin i) s = .next (waits 4 false false) ∧
    exec (.streamView i) s = .next (waits 5 false false))

/-- The LOAD of a resident stream whose read of the store has returned, at DESCRIPTOR_FETCH_RETURN (R142, R143, R144, R168, R169):
invalid words are held with RESULT 3, a busy stream draining under the old ones; a committed rate that would raise the ledger
above CAP_INST is refused with RESULT 1 unless FORCE; else the static words are taken and the tokens start full, or at 0 with
TOK_ZERO, and a red head is evaluated again. A store read that is poisoned or lost has RESULT 4. -/
def Obligations.StreamLoaded : Prop :=
  ∀ (i : BitVec 20) (z f b : Bool) (s : State) (j id : Nat) (e : Entry) (r : Direct),
    s.entry? i.toNat = some (j, e) → SMap.get? s.cache j = some e → e.resident = true → (e.st = .idle → e.evict = false) →
    s.scmds.filter (fun c => c.stream == i.toNat) = [⟨i.toNat, 1, z, f, none, b⟩] → s.has (.load i.toNat) id r →
    let u := { s.dropReq id with scmds := s.scmds.filter fun c => c.stream != i.toNat }
    let result := fun (v : State) (n : Nat) (t : State) => State.sets v t
      [(F.trfStreamStatus_ID, i.toNat), (F.trfStreamStatus_RESULT, n)]
    let used := { e with last := s.cadence }
    (∀ w, r = .data w false → dValid w = false → ∃ t, exec (.descriptorFetchReturn i) s = .next t ∧
      result (u.setEntry j { used with
        old := if e.st = .busy then e.desc else e.old, desc := dStatic w e.desc
        st := if e.st = .busy then .draining else e.st }) 3 t) ∧
    (∀ w, r = .data w false → dValid w = true →
      let new := if dPolice w = 2 then 0 else dCir w
      let exceeds := e.committed < new ∧ s.capInst < s.ledger - e.committed + new
      (f = false → exceeds → ∃ t, exec (.descriptorFetchReturn i) s = .next t ∧ result (u.setEntry j used) 1 t) ∧
      (f = true ∨ ¬ exceeds → ∃ t x, exec (.descriptorFetchReturn i) s = .next t ∧
        result (if e.colour = .red then (u.setEntry j x).colourHead j else u.setEntry j x) 0 t ∧
        x = { used with desc := x.desc, st := if e.st = .draining then .busy else e.st } ∧
        (∀ n < 4, dWord x.desc n = dWord w n) ∧ dCTok x.desc = (if z then 0 else dCbs w * 64000 : Nat) ∧
        dETok x.desc = (if z then 0 else dEbs w * 64000 : Nat) ∧ dLastUpd x.desc = s.cadence % 2 ^ 64 ∧
        dWord x.desc 7 = dWord e.desc 7)) ∧
    ((∃ d, r = .data d true) ∨ r = .lost →
      ∃ t, exec (.descriptorFetchReturn i) s = .next t ∧ result (u.setEntry j used) 4 t)

/-- RED_HEAD_REEVAL (R135, R136, R138): at the moment its bucket can turn positive a red head is coloured again. Green draws the
committed bucket down by the request's cost, yellow the excess bucket; an eligible head takes its start and finish tags.
STREAM_SAMPLE (R129, R132, R146): at a multiple of 2^k cadence values word 7 counts the sample and takes DEPTH and DELAY, and is
written to the store through lane 19 at class 0; one whose PC is lost, or that a hold timed out, posts STREAM_WB_LOST. -/
def Obligations.StreamMoments : Prop :=
  (∀ (i : BitVec 20) (s : State) (j id due : Nat) (l : List Nat) (e : Entry) (r : Req),
      s.entry? i.toNat = some (j, e) → SMap.get? s.cache j = some e → e.colour = .red → e.queue = id :: l → s.req? id = some r →
      r.service? = none → s.redDue e r = some due → s.reaches due →
      let w := e.served
      let m := s.momentOf due
      let d := m.refill w e.desc
      let cost := r.atoms * (64 + dOverhead w)
      ∃ e', exec (.redHeadReeval i) s = .next (m.setEntry j e') ∧
        (r.op ≠ opProbe → dPolice w ≠ 2 → (dPolice w ≠ 1 ∨ r.colour < 2) → 0 < dCTok d → e'.colour = .green ∧
          dCTok e'.desc = signed 40 (unsigned 40 (dCTok d - cost * 1000)) ∧ dETok e'.desc = dETok d) ∧
        (r.op ≠ opProbe → dPolice w ≠ 2 → ¬ ((dPolice w ≠ 1 ∨ r.colour < 2) ∧ 0 < dCTok d) → 0 < dETok d → e'.colour = .yellow ∧
          dCTok e'.desc = dCTok d ∧ dETok e'.desc = signed 40 (unsigned 40 (dETok d - cost * 1000))) ∧
        (r.op ≠ opProbe → dPolice w ≠ 2 → ¬ ((dPolice w ≠ 1 ∨ r.colour < 2) ∧ 0 < dCTok d) → ¬ 0 < dETok d →
          e' = { e with desc := d }) ∧
        (e'.colour ≠ .red → e'.start = tagMax (m.vt (dPgroup w) (dClass w)) e.fin ∧
          e'.fin = (e'.start + (if r.op = opProbe then 64 else cost) * 4096 / dWeight w) % 2 ^ 64 ∧
          e'.hcls = dClass w ∧ e'.hpg = dPgroup w) ∧
        e' = { e with desc := e'.desc, colour := e'.colour, start := e'.start, fin := e'.fin, hcls := e'.hcls, hpg := e'.hpg,
                      head := e'.head }) ∧
  (∀ (i : BitVec 20) (s : State) (j : Nat) (e : Entry), s.entry? i.toNat = some (j, e) → SMap.get? s.cache j = some e →
      e.resident = true → dShift e.served ≠ 0 →
      let next := nextMultiple s.cadence (dShift e.served)
      let due := if e.sampled = some next then next + 2 ^ dShift e.served else next
      s.reaches due →
      let m := s.momentOf due
      ∃ d, (∀ n < 7, dWord d n = dWord e.desc n) ∧ dField d 7 15 0 = (dField e.desc 7 15 0 + 1) % 2 ^ 16 ∧
        dField d 7 63 40 = min (2 ^ 24 - 1) (m.depth e) ∧ dField d 7 39 16 = min (2 ^ 24 - 1) (m.delay e) ∧
        exec (.streamSample i) s = .next ((m.setEntry j { e with desc := d, sampled := some m.cadence }).ownStart
          (.sample e.stream) (serviceAccess 0) .partialWrite (s.descAddr e.stream) 1 [d] [false] [0xFF00000000000000])) ∧
  (∀ (s : State) (id i : Nat) (r : Req), s.req? id = some r → r.src = .own (.sample i) →
      (r.direct = .done → s.sampleWritten id = s.dropReq id) ∧
      (r.direct = .lost ∨ r.direct = .timeout → s.sampleWritten id = (s.dropReq id).post 0x0409 0 i 0))

/-- PORT_GROUP_ATOM_START (R159, R161, R193): a group under Capo starts nothing; else, of the classes whose offered head can start
its next atom, that with the highest key starts, the higher class among equals; with none, only deferrals are recorded. Within a
piece the head's next atom counts as started. A pending swap of the gate whose time has come is taken first (R154). -/
def Obligations.PortGroupStarts : Prop :=
  (∀ (g : Fin 16) (s : State), s.flag (F.trfGateStatus_PENDING g.val) = true → (s.arm g.val).t ≤ s.cadence →
    exec (.portGroupAtomStart g) s = exec (.portGroupAtomStart g) (s.takeSwap g.val)) ∧
  ∀ (g : Fin 16) (s : State), ¬ (s.flag (F.trfGateStatus_PENDING g.val) = true ∧ (s.arm g.val).t ≤ s.cadence) →
    ((s.fget F.arbPgCapo_CAPO).testBit g.val = true → exec (.portGroupAtomStart g) s = .next s) ∧
    ((s.fget F.arbPgCapo_CAPO).testBit g.val = false →
      let u := s.deferHeads g.val
      (∀ (c : Nat) (h : Head), c < 8 → u.offered g.val c = some h → u.canStart g.val c h = true →
        (∀ c' h', c' < 8 → c' ≠ c → u.offered g.val c' = some h' → u.canStart g.val c' h' = true →
          u.classKey c' h' < u.classKey c h ∨ (u.classKey c' h' = u.classKey c h ∧ c' < c)) →
        exec (.portGroupAtomStart g) s = .next (u.startAtom g.val c h) ∧
        (h.req.started ≠ 0 → h.req.started + 1 < h.req.atoms → (h.req.started + 1) % u.reqPieceLen h.req ≠ 0 →
          exec (.portGroupAtomStart g) s =
            .next (u.putReq h.id { h.req with started := h.req.started + 1, deferred := none }))) ∧
      ((∀ c < 8, ∀ h, u.offered g.val c = some h → u.canStart g.val c h = false) →
        exec (.portGroupAtomStart g) s = .next u))

/-- INGRESS_GRANT (R110, R154, R186 to R189): a pending gate swap whose time has come is taken and a class that has come over its
quota is masked first. Then, of the pieces the lanes offer at an output, the admissible one of highest priority leaves its lane;
the other admissible ones age. Granted by the access table it enters the PCC's buffer, denied it is answered ACCESS_DENIED. With
none admissible nothing changes. -/
def Obligations.IngressGranted : Prop :=
  ∀ (k : Fin 8) (p : Fin 64) (s : State),
    let due := fun (g : Nat) => s.flag (F.trfGateStatus_PENDING g) = true ∧ (s.arm g).t ≤ s.cadence
    let nmu := s.fget F.trfNmuBind_PGROUP
    let bow := s.fget F.trfBowBind_PGROUP
    (due nmu → exec (.ingressGrant k p) s = exec (.ingressGrant k p) (s.takeSwap nmu)) ∧
    (¬ due nmu → due bow → exec (.ingressGrant k p) s = exec (.ingressGrant k p) (s.takeSwap bow)) ∧
    (¬ due nmu → ¬ due bow →
      exec (.ingressGrant k p) s = exec (.ingressGrant k p) (s.quotaSettle k.val) ∧
      ((∀ c < 8, s.quotaOver k.val c (s.quotaNow k.val) = true → c ∈ (s.quotaNow k.val).masked) →
        (∀ o ∈ s.laneHeads k.val p.val, s.thermMasked k.val p.val o = false) →
        (∀ q ∈ s.laneHeads k.val p.val, s.admits k.val p.val q = true →
          (∀ o ∈ s.laneHeads k.val p.val, s.admits k.val p.val o = true → o ≠ q → s.lanePriority o < s.lanePriority q) →
          let others := (s.laneHeads k.val p.val).filter fun o => s.admits k.val p.val o && o.id != q.id
          let turn := match q.org with | .nmu n => n % 4 | _ => (s.out k.val p.val).nmuRot
          let u := ((s.forEach others fun s o => s.modLane o.id fun x => { x with aging := x.aging + 1 }).dropLane q.id).setOut k.val p.val
            { s.out k.val p.val with rot := q.lane, nmuRot := turn }
          let q' := { q with aging := 0, cls := u.laneClass { q with aging := 0 } }
          let v := u.quotaCount k.val q'.cls q.n
          exec (.ingressGrant k p) s = .next (u.place k.val p.val { q with aging := 0 }) ∧
          (q.kind = .read ∨ q.kind = .write → v.access k.val q.addr (u.group q.mid) q.checks = none →
            exec (.ingressGrant k p) s = .next (v.enter k.val p.val q')) ∧
          (∀ d, q.kind = .read ∨ q.kind = .write → v.access k.val q.addr (u.group q.mid) q.checks = some d →
            exec (.ingressGrant k p) s = .next ((v.deny k.val q.addr q.mid q.org d).setAtoms q.req q.first q.n ⟨.denied, true, 0⟩))) ∧
        ((∀ o ∈ s.laneHeads k.val p.val, s.admits k.val p.val o = false) → exec (.ingressGrant k p) s = .next s)))

/-- RETIRED_LOSS_ANSWER, QUOTA_WINDOW_START, SORT_GROUP_RELEASE, HOLD_TIMEOUT (R104, R189, R219, R220, R404): a piece of a lost
logical PC is answered RETIRED_LOSS, a probe of it with its record; at a window's start its counts and masks are cleared; a group
that is due leaves the sort buffer for its lanes, else the oldest at SORT_WAIT, and what waited for room enters the buffer; a hold
of HOLD_TO × 1,000 ct is counted, its piece leaves and its open atoms time out. -/
def Obligations.IngressMoments : Prop :=
  (∀ (k : Fin 8) (s : State),
    (∀ q, s.lostPiece k.val = some q → q.stack = k.val ∧ s.pieceRoute q = .lost ∧
      (q.kind ≠ .probe →
        exec (.retiredLossAnswer k) s = .next ((s.dropLane q.id).setAtoms q.req q.first q.n ⟨.lost, true, 0⟩)) ∧
      (q.kind = .probe → exec (.retiredLossAnswer k) s = .next ((s.dropLane q.id).place k.val 0 q))) ∧
    ((∀ q ∈ s.lanes, q.stack = k.val → s.pieceRoute q ≠ .lost) → exec (.retiredLossAnswer k) s = .next s)) ∧
  (∀ (k : Fin 8) (s : State), let w := s.fget (F.arbStkCfg_QWIN k.val)
    (w = 0 → exec (.quotaWindowStart k) s = .next s) ∧
    (w ≠ 0 → (SMap.get s.quota Quota.init k.val).window ≠ s.cadence / w →
      exec (.quotaWindowStart k) s = .next (s.setQuota k.val ⟨s.cadence / w, [0, 0, 0, 0, 0, 0, 0, 0], []⟩)) ∧
    (w ≠ 0 → (SMap.get s.quota Quota.init k.val).window = s.cadence / w → s.reaches ((s.cadence / w + 1) * w) →
      exec (.quotaWindowStart k) s = .next ((s.momentOf ((s.cadence / w + 1) * w)).setQuota k.val
        ⟨s.cadence / w + 1, [0, 0, 0, 0, 0, 0, 0, 0], []⟩))) ∧
  (∀ (k : Fin 8) (s : State) (q : Piece),
    let released := fun (b t : State) => (State.fillSort { b with
        sorting := s.sorting.filter fun o => !(o.stack == k.val && q.sameGroup o)
        lanes := (((s.sortOf k.val).filter q.sameGroup).map fun o => { o with sortable := false }).foldl insertLane s.lanes } k.val).sets t
      [(F.trfSortStat_GROUPS k.val, s.wrapped (F.trfSortStat_GROUPS k.val) 1)]
    ((s.sortOf k.val).find? (fun q => s.groupRuns k.val q && s.groupDue k.val q) = some q →
      ∃ t, exec (.sortGroupRelease k) s = .next t ∧ released s t) ∧
    ((s.sortOf k.val).find? (fun q => s.groupRuns k.val q && s.groupDue k.val q) = none →
      (s.sortOf k.val).find? (fun q => s.groupRuns k.val q) = some q → s.reaches (q.since + s.fget F.trfSortCfg_SORT_WAIT) →
      ∃ t, exec (.sortGroupRelease k) s = .next t ∧ released (s.momentOf (q.since + s.fget F.trfSortCfg_SORT_WAIT)) t)) ∧
  (∀ (k : Fin 8) (p : Fin 64) (s : State) (q : Piece), firstHeld (s.timedPieces k.val p.val) = some q →
    let due := q.holdAt + max 1 (s.fget F.thmCfg_HOLD_TO) * 1000
    s.reaches due → ∃ u, (s.momentOf due).sets u [(F.thmStk_HOLD_TIMEOUTS k.val,
        s.topped (F.thmStk_HOLD_TIMEOUTS k.val) 1)] ∧
      let v := if q.st = .lane then u.dropLane q.id else u.retire k.val p.val q.id
      exec (.holdTimeout k p) s = .next (if q.req = 0 then v else v.setOpenAtoms q ⟨.timeout, true, 0⟩))

/-- BANK_GRANT, ROW_GRANT, COLUMN_GRANT, COLUMN_PREEMPT (R177, R181 to R185, R206, R211): a bank without owner goes to the
eligible piece of highest key, which waits for its row or, hitting the open one, for the column path; the row path goes to the
bank engine of highest key, and a bank at its refresh limit wins it at key 8, even under Capo; the column path goes to the raised
piece of highest key the mode lets through; a preempted train parks, and PREEMPTS counts it. Under Capo or in a replay a bank and
the column path grant nothing. The key of a PRECHARGE (log entry 83) and the bank whose REFRESH is offered (log entry 84) are the
model's choices. -/
def Obligations.PccGrants : Prop :=
  (∀ (k : Fin 8) (p b : Fin 64) (s : State), let c := s.pcc k.val p.val
    s.pccCapo k.val p.val = false → c.replay = .run → (c.bank b.val).owner = none → (c.bank b.val).st ≠ .refreshing →
    b.val < 16 * s.build.H →
    (∀ q ∈ c.buf, q.bankEligible b.val = true →
      (∀ o ∈ c.buf, o.bankEligible b.val = true → o ≠ q → s.keyOf o < s.keyOf q) →
      let granted := fun (st : PieceSt) => (c.modBank b.val fun x => { x with
          st := .owned, owner := some q.id, hint := q.page, expired := false, rot := q.slot, hits := 0, missKey := none }).modPiece q.id
            fun y => { y with st := st }
      ((c.bank b.val).row = none → exec (.bankGrant k p b) s = .next (s.setPcc k.val p.val (granted .opening))) ∧
      ((c.bank b.val).row = some q.row → exec (.bankGrant k p b) s = .next (s.setPcc k.val p.val (granted .column)))) ∧
    ((∀ q ∈ c.buf, q.bankEligible b.val = false) → s.flag (F.phyCfg_TRACK_EN k.val) = false →
      exec (.bankGrant k p b) s = .next s)) ∧
  (∀ (k : Fin 8) (p b : Fin 64) (s : State), let c := s.pcc k.val p.val
    s.pccCapo k.val p.val = true ∨ c.replay ≠ .run ∨ (c.bank b.val).owner ≠ none → exec (.bankGrant k p b) s = .next s) ∧
  (∀ (k : Fin 8) (p : Fin 64) (s : State), let u := s.dropHints k.val p.val
    let c := s.pcc k.val p.val
    (c.rowCmd = none → c.replay = .run → ∀ b, b < 16 * s.build.H → (c.bank b).refHanded = false → s.ppl k.val ≤ (c.bank b).owed →
      (∀ a < b, (c.bank a).refHanded = true ∨ (c.bank a).owed < s.ppl k.val) →
      exec (.rowGrant k p) s = .next (u.setPcc k.val p.val { u.pcc k.val p.val with
        rowCmd := some ⟨if (c.bank b).row.isSome then .pre else .ref, b, 0, true, false, true⟩, rotRow := 64 })) ∧
    (c.rowCmd = none → c.replay = .run → s.pccCapo k.val p.val = false → u.refreshRow k.val p.val = none →
      (∀ (b : Fin 64) r key, u.bankRow k.val p.val b.val = some (r, key) →
        (∀ a : Fin 64, a ≠ b → ∀ x, u.bankRow k.val p.val a.val = some x → x.2 < key) →
        exec (.rowGrant k p) s = .next (u.setPcc k.val p.val { u.pcc k.val p.val with rowCmd := some r, rotRow := b.val })) ∧
      ((∀ a : Fin 64, u.bankRow k.val p.val a.val = none) → exec (.rowGrant k p) s = .next u)) ∧
    (c.rowCmd ≠ none ∨ c.replay ≠ .run → exec (.rowGrant k p) s = .next u)) ∧
  (∀ (k : Fin 8) (p : Fin 64) (s : State), let c := s.pcc k.val p.val
    (c.column = none → c.replay = .run → s.pccCapo k.val p.val = false →
      (∀ q ∈ c.modeEligible, (∀ o ∈ c.modeEligible, o ≠ q → s.keyOf o < s.keyOf q ∧ o.bank ≠ q.bank) →
        exec (.columnGrant k p) s = .next (s.setPcc k.val p.val
          ({ c with column := some q.id, rotCol := q.bank, writeMode := c.writing }.modPiece q.id fun x => { x with st := .column }))) ∧
      (c.modeEligible = [] → exec (.columnGrant k p) s = .next (s.setPcc k.val p.val { c with writeMode := c.writing }))) ∧
    (c.column ≠ none ∨ c.replay ≠ .run ∨ s.pccCapo k.val p.val = true → exec (.columnGrant k p) s = .next s)) ∧
  (∀ (k : Fin 8) (p b : Fin 64) (s : State), let c := s.pcc k.val p.val
    (∀ h w, c.column.bind c.piece? = some h → c.modeEligible.find? (fun q => q.bank == b.val) = some w → c.replay = .run →
      s.pccCapo k.val p.val = false →
      (w.bank ≠ h.bank → h.todo ≠ [] → c.parked < s.parkMax k.val → h.cls ≠ 7 →
        (w.cls = 7 ∨ s.keyOf h + max 1 (s.fget (F.arbStkCfg_DELTA k.val)) ≤ s.keyOf w) →
        ∃ t, exec (.columnPreempt k p b) s = .next t ∧ (s.setPcc k.val p.val
          (({ c with column := some w.id, rotCol := w.bank, writeMode := c.writing }.modPiece h.id
            fun x => { x with st := .parked }).modPiece w.id fun x => { x with st := .column })).sets t
          [(F.arbStkPreempts_COUNT k.val, (s.fget (F.arbStkPreempts_COUNT k.val) + 1) % 2 ^ 64)]) ∧
      (w.bank = h.bank ∨ h.todo = [] ∨ s.parkMax k.val ≤ c.parked ∨ h.cls = 7 ∨
        (w.cls ≠ 7 ∧ s.keyOf w < s.keyOf h + max 1 (s.fget (F.arbStkCfg_DELTA k.val))) →
        exec (.columnPreempt k p b) s = .next s)) ∧
    (c.column.bind c.piece? = none ∨ (∀ w ∈ c.modeEligible, w.bank ≠ b.val) ∨ c.replay ≠ .run ∨ s.pccCapo k.val p.val = true →
      exec (.columnPreempt k p b) s = .next s))

/-- SCHEDULER_HANDOVER (R23, R24, R243): the granted row command, while it is still wanted, or the next burst of the column path's
holder goes to the warden and joins the replay buffer; with 32 entries there it does not and REPLAY_FULL counts it; to a bank at
its refresh limit the warden declines it, once, and WARDEN_REFRESH_HOLDS counts it. WARDEN_ISSUE (R22, R237): the warden issues
its oldest command at the first slot, at or after the hand-over, that is free and keeps every minimum interval and the throttle,
and at no other. COMMAND_CONFIRMED and STACK_READ_DATA (R242, R243): the command issued first among those out is confirmed; read
data is decoded and given to its piece. -/
def Obligations.CommandsHandedAndIssued : Prop :=
  (∀ (k : Fin 8) (p : Fin 64) (slot : Nat) (s : State), let c := s.pcc k.val p.val
    (c.rowCmd = none ∨ c.replay ≠ .run → exec (.schedulerHandover k p false slot) s = .next s) ∧
    (∀ r, c.rowCmd = some r → c.replay = .run →
      (s.rowNow k.val p.val r = none → exec (.schedulerHandover k p false slot) s = .next (s.setPcc k.val p.val { c with rowCmd := none })) ∧
      (∀ x, s.rowNow k.val p.val r = some x →
        let declined := s.ppl k.val ≤ (c.bank x.bank).owed ∧ (c.bank x.bank).refHanded = false ∧ x.kind ≠ .pre ∧ x.kind ≠ .ref
        let handed := s.setPcc k.val p.val
          ({ c with rowCmd := none, rb := c.rb ++ [rowCmdOf x (c.ownerOf x.bank) slot] }.rowHanded x s.cadence)
        (32 ≤ c.rb.length → ∃ t, exec (.schedulerHandover k p false slot) s = .next t ∧
          s.sets t [(F.pccReplayFull_COUNT k.val p.val, (s.fget (F.pccReplayFull_COUNT k.val p.val) + 1) % 2 ^ 64)]) ∧
        (c.rb.length < 32 → declined → ∃ t, exec (.schedulerHandover k p false slot) s = .next t ∧
          (s.setPcc k.val p.val ({ c with rowCmd := none }.modBank x.bank fun y => { y with declined := true })).sets t
          [(F.pccWardenRefreshHolds_COUNT k.val p.val, (s.fget (F.pccWardenRefreshHolds_COUNT k.val p.val) + 1) % 2 ^ 64)]) ∧
        (c.rb.length < 32 → ¬ declined → x.hint = false → exec (.schedulerHandover k p false slot) s = .next handed) ∧
        (c.rb.length < 32 → ¬ declined → x.hint = true → ∃ t, exec (.schedulerHandover k p false slot) s = .next t ∧
          handed.sets t [(F.pccHintsAct_COUNT k.val p.val, (s.fget (F.pccHintsAct_COUNT k.val p.val) + 1) % 2 ^ 64)])))) ∧
  (∀ (k : Fin 8) (p : Fin 64) (slot : Nat) (s : State), let c := s.pcc k.val p.val
    (c.column.bind c.piece? = none ∨ c.replay ≠ .run → exec (.schedulerHandover k p true slot) s = .next s) ∧
    (∀ q i l, c.column.bind c.piece? = some q → q.todo = i :: l → c.replay = .run →
      let declined := s.ppl k.val ≤ (c.bank q.bank).owed ∧ (c.bank q.bank).refHanded = false
      (declined → (c.bank q.bank).declined = true → exec (.schedulerHandover k p true slot) s = .next s) ∧
      (declined → (c.bank q.bank).declined = false → ∃ t, exec (.schedulerHandover k p true slot) s = .next t ∧
        (s.setPcc k.val p.val (c.modBank q.bank fun y => { y with declined := true })).sets t
        [(F.pccWardenRefreshHolds_COUNT k.val p.val, (s.fget (F.pccWardenRefreshHolds_COUNT k.val p.val) + 1) % 2 ^ 64)]) ∧
      (¬ declined → 32 ≤ c.rb.length → ∃ t, exec (.schedulerHandover k p true slot) s = .next t ∧
        s.sets t [(F.pccReplayFull_COUNT k.val p.val, (s.fget (F.pccReplayFull_COUNT k.val p.val) + 1) % 2 ^ 64)]) ∧
      (¬ declined → c.rb.length < 32 → q.nextReads = true →
        exec (.schedulerHandover k p true slot) s = .next (s.handRead k.val p.val q i slot) ∧
        (q.kind = .read → q.inMeta = false → q.dest = none → q.org ≠ .bow → l ≠ [] →
          exec (.schedulerHandover k p true slot) s = .next (s.setPcc k.val p.val (Pcc.modPiece { c with
            rb := c.rb ++ [⟨.rd, q.bank, q.row, q.id, i, q.u + i, false, q.addr + 64 * i, dataFold (q.addr + 64 * i),
              s.atomWord k.val p.val (q.u + i), q.lane, slot, false, false, 0, false, q.cls, q.label, q.arrival, q.aged⟩] } q.id
            fun x => { x with todo := x.todo.filter (· != i), pend := x.pend ++ [i], beats := x.beats + 1 })))) ∧
      (¬ declined → c.rb.length < 32 → q.nextReads = false →
        exec (.schedulerHandover k p true slot) s = .next (s.handWrite k.val p.val q i slot) ∧
        (q.kind = .write → q.inMeta = false → q.dest = none → l ≠ [] →
          let w := encodeAtom (dataFold (q.addr + 64 * i)) (if q.poison.getD i false then 0 else q.data.getD i 0) (q.poison.getD i false)
          ∃ t, exec (.schedulerHandover k p true slot) s = .next t ∧ t.atomWord k.val p.val (q.u + i) = w ∧
            (t.pcc k.val p.val).rb = c.rb ++ [⟨.wr, q.bank, q.row, q.id, i, q.u + i, false, q.addr + 64 * i,
              dataFold (q.addr + 64 * i), w, q.lane, slot, false, false, 0, false, q.cls, q.label, q.arrival, q.aged⟩] ∧
            t.flag (F.pccZmapCtl_WRITTEN k.val p.val) = true)))) ∧
  (∀ (k : Fin 8) (p : Fin 64) (b hand slot : Nat) (kind : CmdKind) (ap : Bool) (s : State), let c := s.pcc k.val p.val
    let x := c.bank b
    let t := s.tset k.val
    let past := fun (r d : Nat) => r = 0 ∨ r - 1 + d ≤ slot
    (s.issueSlot k.val p.val kind b hand ap ≤ slot ↔ hand ≤ slot ∧ c.slot ≤ slot ∧
      (s.throttled k.val = true → ∀ a e r, c.recent = [a, e, r] → r + 4 ≤ slot) ∧
      match kind with
      | .act => past x.pre (t F.phyTsetRow_TRP) ∧ past x.act (t F.phyTsetRow_TRC) ∧ past x.ref (t F.phyTsetRef_TRFCPB) ∧
          past (c.acts.headD 0) (t F.phyTsetRow_TRRD) ∧ past (c.acts.getD 3 0) (t F.phyTsetRow_TFAW)
      | .pre => past x.act (t F.phyTsetRow_TRAS)
      | .ref => past x.pre (t F.phyTsetRow_TRP) ∧ past x.ref (t F.phyTsetRef_TRFCPB)
      | .rd => past x.act (t F.phyTsetRow_TRCD) ∧ past c.lastCol (max 2 (t F.phyTsetRow_TCCD)) ∧
          past c.lastWr (t F.phyTsetLat_TWTR) ∧ (ap = true → past x.act (t F.phyTsetRow_TRAS))
      | .wr => past x.act (t F.phyTsetRow_TRCD) ∧ past c.lastCol (max 2 (t F.phyTsetRow_TCCD)) ∧
          past c.lastRd (t F.phyTsetRow_TRTW) ∧ (ap = true → past x.act (t F.phyTsetRow_TRAS)))) ∧
  (∀ (k : Fin 8) (p : Fin 64) (slot : Nat) (s : State), (s.pcc k.val p.val).replay = .run → let c := s.pcc k.val p.val
    ((∀ m ∈ c.rb, m.ord ≠ 0) → exec (.wardenIssue k p slot) s = .next s) ∧
    (∀ m, c.nextIssue = some m → m ∈ c.rb ∧ m.ord = 0 ∧
      (slot = s.issueSlot k.val p.val m.kind m.bank m.hand m.ap →
        ∃ u, exec (.wardenIssue k p slot) s = .next (u.afterIssue k.val p.val m) ∧
          (s.setPcc k.val p.val ((c.markIssued m).recordIssue m.kind m.bank slot m.ap)).sets u [(F.pccWardenHolds_COUNT k.val p.val,
            (s.fget (F.pccWardenHolds_COUNT k.val p.val) + if m.hand < slot then 1 else 0) % 2 ^ 64)]) ∧
      (slot ≠ s.issueSlot k.val p.val m.kind m.bank m.hand m.ap → exec (.wardenIssue k p slot) s = .next s))) ∧
  (∀ (k : Fin 8) (p : Fin 64) (s : State), let c := s.pcc k.val p.val
    (c.replay = .run ∨ c.replay = .reissue) →
    ((∀ m ∈ c.rb, m.ord ≠ 0 → m.confirmed = false → m.kind ≠ .rd →
        (∀ o ∈ c.rb, o ≠ m → o.ord ≠ 0 → o.confirmed = false → o.kind ≠ .rd → m.ord < o.ord) →
        exec (.commandConfirmed k p) s = .next (s.setPcc k.val p.val (c.confirm m))) ∧
      ((∀ m ∈ c.rb, m.ord = 0 ∨ m.confirmed = true ∨ m.kind = .rd) → exec (.commandConfirmed k p) s = .next s)) ∧
    (∀ m ∈ c.rb, m.ord ≠ 0 → m.confirmed = false → m.kind = .rd →
      (∀ o ∈ c.rb, o ≠ m → o.ord ≠ 0 → o.confirmed = false → m.ord < o.ord) → ∀ fault : Stored,
      let u := s.setPcc k.val p.val (c.confirm m)
      exec (.stackReadData k p fault) s = .next ((u.faultWord k.val p.val m fault).readData k.val p.val m (m.stored ^^^ fault)) ∧
      (∀ q, (c.confirm m).piece? m.piece = some q → q.kind = .read → q.conf = false → q.pend.contains m.atom = true →
        m.inMeta = false → m.lane < 18 → (fault = 0 ∨ s.atomWord k.val p.val m.u ≠ m.stored) →
        let d := decodeAtom m.fold (m.stored ^^^ fault)
        let v := (u.modPiece k.val p.val q.id fun x => { x with pend := x.pend.filter (· != m.atom) }).countDecode
          k.val p.val false m.u m.addr m.lane true d
        exec (.stackReadData k p fault) s = .next ((v.deliver q m.atom d.data d.poison).goOn k.val p.val q.id)))) ∧
  (∀ (k : Fin 8) (p : Fin 64) (fault : Stored) (s : State), (s.pcc k.val p.val).replay ≠ .run → (s.pcc k.val p.val).replay ≠ .reissue →
    exec (.commandConfirmed k p) s = .next s ∧ exec (.stackReadData k p fault) s = .next s)

/-- HAZARD_CLEAR, PAGE_TIMER_EXPIRY, WRITE_MODE_AGE, REFRESH_DUE, ACTIVATE_HINT, MERGE_READ_DONE, PRED_EN_WRITE (R202, R205, R211,
R215, R221, R234, R267): a held piece that nothing holds any more is evaluated again; an open bank idle for its timer is marked
for precharge; a burst write of age WR_AGE turns the PCC to writes; a refresh falls due at a bank, in the order of the banks' due
points, the first at (i + 1) × TREFI / (m × 16H); a hint is queued or dropped; the oldest merge entry that has obtained its old
atom reaches MERGED; a write of PRED_EN clears the predictor. -/
def Obligations.PccMoments : Prop :=
  (∀ (k : Fin 8) (p : Fin 64) (s : State),
    (∀ q, s.released k.val p.val = some q → q ∈ (s.pcc k.val p.val).buf ∧ q.st = .held ∧ q.hold = false ∧
      (s.pcc k.val p.val).hazard q = false ∧ exec (.hazardClear k p) s = .next (s.evaluate k.val p.val q)) ∧
    ((∀ q ∈ (s.pcc k.val p.val).buf, q.st = .held → q.hold = true ∨ (s.pcc k.val p.val).hazard q = true) →
      exec (.hazardClear k p) s = .next s)) ∧
  (∀ (k : Fin 8) (p b : Fin 64) (s : State), let x := (s.pcc k.val p.val).bank b.val
    let wait := if x.hint = 1 then s.fget (F.pccPageCfg_KEEP_TO k.val p.val) else s.fget (F.pccPageCfg_IDLE_TO k.val p.val)
    (x.st = .openIdle → x.hint ≠ 1 ∨ wait ≠ 0 → s.reaches (x.idleAt + wait) → exec (.pageTimerExpiry k p b) s =
      .next ((s.momentOf (x.idleAt + wait)).setPcc k.val p.val ((s.pcc k.val p.val).setBank b.val { x with expired := true }))) ∧
    (x.st ≠ .openIdle ∨ (x.hint = 1 ∧ wait = 0) → exec (.pageTimerExpiry k p b) s = .next s)) ∧
  (∀ (k : Fin 8) (p : Fin 64) (s : State), let age := s.fget (F.pccRqCfg_WR_AGE k.val p.val)
    (∀ q, (s.pcc k.val p.val).burstWrites.head? = some q → age ≠ 0 → s.reaches (q.since + age) → exec (.writeModeAge k p) s =
      .next ((s.momentOf (q.since + age)).setPcc k.val p.val { s.pcc k.val p.val with writeMode := true })) ∧
    (age = 0 ∨ (s.pcc k.val p.val).burstWrites = [] → exec (.writeModeAge k p) s = .next s)) ∧
  (∀ (k : Fin 8) (p b : Fin 64) (s : State), s.coreOn = true → k.val < s.build.nStacks → b.val < 16 * s.build.H →
    let x := (s.pcc k.val p.val).bank b.val
    let due := s.bankDue k.val p.val b.val
    (x.due = none → due = (b.val + 1) * s.tset k.val F.phyTsetRef_TREFI / (s.refMult k.val * (16 * s.build.H))) ∧
    ((∃ i < 16 * s.build.H, s.bankDue k.val p.val i < due) → exec (.refreshDue k p b) s = .next s) ∧
    ((∀ i < 16 * s.build.H, due ≤ s.bankDue k.val p.val i) → ∃ t, exec (.refreshDue k p b) s = .next t ∧
      (s.setPcc k.val p.val { (s.pcc k.val p.val).setBank b.val { x with
        owed := x.owed + 1, due := some (due + s.tset k.val F.phyTsetRef_TREFI / s.refMult k.val) } with
          clock := max (s.pcc k.val p.val).clock due }).sets t
      [(F.pccRefStatus_REF_LATE k.val p.val,
          if s.ppl k.val < x.owed + 1 then s.topped (F.pccRefStatus_REF_LATE k.val p.val) 1 else s.fget (F.pccRefStatus_REF_LATE k.val p.val)),
        (F.pccRefStatus_OWED_MAX k.val p.val, max (s.fget (F.pccRefStatus_OWED_MAX k.val p.val)) (min 15 (x.owed + 1)))])) ∧
  (∀ (k : Fin 8) (p b : Fin 64) (s : State), s.coreOn = false ∨ s.build.nStacks ≤ k.val ∨ 16 * s.build.H ≤ b.val →
    exec (.refreshDue k p b) s = .next s) ∧
  (∀ (a : BitVec 42) (s : State), s.build.inRange a.toNat 1 = true → let l := s.locOf a.toNat
    let p := s.fget (F.pcmapEntry_PPC l.stack l.lpc)
    (s.fget (F.pcmapEntry_STATE l.stack l.lpc) = 0 → (s.pcc l.stack p).hints.length < 8 → s.hintOk l.stack p l.lin = true →
      exec (.activateHint a) s = .next (s.setPcc l.stack p { s.pcc l.stack p with hints := (s.pcc l.stack p).hints ++ [(l.lin, l.row)] })) ∧
    (s.fget (F.pcmapEntry_STATE l.stack l.lpc) ≠ 0 ∨ 8 ≤ (s.pcc l.stack p).hints.length ∨ s.hintOk l.stack p l.lin = false →
      ∃ t, exec (.activateHint a) s = .next t ∧
        s.sets t [(F.pccHintsDrop_COUNT l.stack p, (s.fget (F.pccHintsDrop_COUNT l.stack p) + 1) % 2 ^ 64)])) ∧
  (∀ (a : BitVec 42) (s : State), s.build.inRange a.toNat 1 = false → exec (.activateHint a) s = .next s) ∧
  (∀ (k : Fin 8) (p : Fin 64) (s : State),
    (∀ m d bad, (s.pcc k.val p.val).mergeReady = some m → m.old = some (d, bad) → m ∈ (s.pcc k.val p.val).merges ∧ m.st = .reading ∧
      exec (.mergeReadDone k p) s = .next (s.merged k.val p.val m d bad)) ∧
    ((∀ m ∈ (s.pcc k.val p.val).merges, m.st ≠ .reading ∨ m.old = none) → exec (.mergeReadDone k p) s = .next s)) ∧
  (∀ (k : Fin 8) (p : Fin 64) (en : Bool) (s : State), s.cpReady → k.val < s.build.nStacks →
    ∃ t, exec (.predEnWrite k p en) s = .next t ∧
      (s.cpOk.setPcc k.val p.val { s.pcc k.val p.val with pred := [] }).sets t [(F.pccZmapCtl_PRED_EN k.val p.val, if en then 1 else 0)])

/-- ZMAP_ADOPT, ZMAP_CLEAR, ZMAP_DISABLE, ZMAP_FLUSH, ZMAP_OP_RESERVED, ZMAP_CLEAR_DONE, ZMAP_DISABLE_DONE,
ZMAP_LINE_WRITEBACK_DONE and ZMAP_LINE_FILL (R212, R213, R216, R217, R218, Table 7.4): ADOPT only in OFF with WRITTEN clear, CLEAR
only in OFF, DISABLE only in ON; any other and a reserved OP set REFUSED; FLUSH sends every DIRTY line to write-back. A clear ends
in ON with every map line coding zeros, a disable in OFF with no line cached; both passes wait while the write window is closed,
while the PCC is under Capo and while a line fills or is written back. The write-back of a DIRTY line begins; once handed over the
line is CLEAN. A line that fills takes the bits read with the changes recorded meanwhile; an unreadable one is installed as R217
says. -/
def Obligations.ZeroMap : Prop :=
  (∀ (k : Fin 8) (p : Fin 64) (s : State), s.cpReady → k.val < s.build.nStacks →
    let st := s.fget (F.pccZmapCtl_STATE k.val p.val)
    let moves := fun (c : Instr) (v : Nat) => ∃ t, exec c s = .next t ∧ s.cpOk.sets t [(F.pccZmapCtl_STATE k.val p.val, v)]
    let refused := fun (c : Instr) => ∃ t, exec c s = .next t ∧ s.cpOk.sets t [(F.pccZmapStatus_REFUSED k.val p.val, 1)]
    (st = 0 ∧ s.flag (F.pccZmapCtl_WRITTEN k.val p.val) = false → moves (.zmapAdopt k p) 1) ∧
    (¬ (st = 0 ∧ s.flag (F.pccZmapCtl_WRITTEN k.val p.val) = false) → refused (.zmapAdopt k p)) ∧
    (st = 0 → moves (.zmapClear k p) 2) ∧ (st ≠ 0 → refused (.zmapClear k p)) ∧
    (st = 1 → moves (.zmapDisable k p) 3) ∧ (st ≠ 1 → refused (.zmapDisable k p)) ∧ (∀ op, refused (.zmapOpReserved k p op)) ∧
    (∃ t, exec (.zmapFlush k p) s = .next t ∧
      (let lines := (s.pcc k.val p.val).lines
       let dirty := fun (l : Nat) => lines.any fun y => y.st == .dirty && y.line == l
       let after := lines.map fun z => if dirty z.line then { z with st := .writeback } else z
       (t.pcc k.val p.val).lines = after ∧ (t.pcc k.val p.val).zflush = after.any (fun z => z.st == .writeback) ∧
       (∀ z ∈ lines, z.st = .dirty → ∃ q ∈ (t.pcc k.val p.val).buf, q.kind = .lineWrite ∧ q.u = z.line) ∧
       t = { s.cpOk with pccs := t.pccs, nextPiece := t.nextPiece }))) ∧
  (∀ (k : Fin 8) (p : Fin 64) (s : State),
    let goes := s.flag (F.thmStk_WINDOW_CLOSED k.val) = false ∧ s.pccCapo k.val p.val = false ∧
      (∀ q ∈ (s.pcc k.val p.val).buf, q.kind ≠ .fill ∧ q.kind ≠ .lineWrite) ∧ ∀ z ∈ (s.pcc k.val p.val).lines, z.st ≠ .filling
    (s.fget (F.pccZmapCtl_STATE k.val p.val) = 2 → goes → s.migClearing k.val p.val = none →
      ∃ t, exec (.zmapClearDone k p) s = .next t ∧ t.fget (F.pccZmapCtl_STATE k.val p.val) = 1 ∧
        (t.pcc k.val p.val).lines = [] ∧ s.keepsRegs t [F.pccZmapCtl_STATE k.val p.val] ∧
        ∀ l, 16 ≤ l → l < lastBase →
          t.cell k.val p.val true l = encodeAtom (metaFold k.val ((s.lpcOf k.val p.val).getD 0) l) 0 false) ∧
    (∀ m, s.fget (F.pccZmapCtl_STATE k.val p.val) = 2 → goes → s.migClearing k.val p.val = some m →
      exec (.zmapClearDone k p) s = .next (((s.clearMap k.val p.val m.lpc).setZm k.val p.val 1).migHold k.val m)) ∧
    (s.fget (F.pccZmapCtl_STATE k.val p.val) = 3 → goes →
      ∃ t, exec (.zmapDisableDone k p) s = .next t ∧ t.fget (F.pccZmapCtl_STATE k.val p.val) = 0 ∧ (t.pcc k.val p.val).lines = []) ∧
    (¬ goes ∨ s.fget (F.pccZmapCtl_STATE k.val p.val) ≠ 2 → exec (.zmapClearDone k p) s = .next s) ∧
    (¬ goes ∨ s.fget (F.pccZmapCtl_STATE k.val p.val) ≠ 3 → exec (.zmapDisableDone k p) s = .next s)) ∧
  (∀ (k : Fin 8) (p : Fin 64) (l : BitVec 16) (s : State) (z : ZLine), (s.pcc k.val p.val).line l.toNat = some z →
    let idle := ∀ q ∈ (s.pcc k.val p.val).buf, q.zpend = [] ∧ q.conf = false
    let writing := ∃ q ∈ (s.pcc k.val p.val).buf, q.kind = .lineWrite ∧ q.u = l.toNat
    (z.st = .dirty → ∃ t, exec (.zmapLineWritebackDone k p l) s = .next t ∧
      (t.pcc k.val p.val).line l.toNat = some { z with st := .writeback } ∧
      ∃ q ∈ (t.pcc k.val p.val).buf, q.kind = .lineWrite ∧ q.u = l.toNat) ∧
    (z.st = .writeback → ¬ writing → idle → ∃ t, exec (.zmapLineWritebackDone k p l) s = .next t ∧
      (t.pcc k.val p.val).line l.toNat = some { z with st := .clean } ∧ t = { s with pccs := t.pccs }) ∧
    ((z.st = .writeback ∧ writing) ∨ z.st = .clean ∨ z.st = .filling → exec (.zmapLineWritebackDone k p l) s = .next s) ∧
    (z.st = .filling → z.bad = false → z.word = none → exec (.zmapLineFill k p l) s = .next s) ∧
    (∀ w, z.st = .filling → z.bad = false → z.word = some w →
      let d := decodeAtom (metaFold k.val ((s.lpcOf k.val p.val).getD 0) l.toNat) w
      let counted := s.countDecode k.val p.val true l.toNat (l.toNat * 64) 20 false d
      (d.out ≠ .uncorrectable →
        exec (.zmapLineFill k p l) s = .next ((counted.installLine k.val p.val z d.data).zRetry k.val p.val) ∧
        (idle → ∃ t, exec (.zmapLineFill k p l) s = .next t ∧ (t.pcc k.val p.val).line l.toNat = some { z with
          st := if z.upds = [] then .clean else .dirty
          bits := z.upds.foldl (fun b e => lineSet b e.bit e.v) d.data, upds := [], used := s.cadence, word := none })) ∧
      (d.out = .uncorrectable → s.flag (F.thmStk_WINDOW_CLOSED k.val) = false → (z.upds ≠ [] ∨ (s.pcc k.val p.val).dirtyLines < 14) →
        exec (.zmapLineFill k p l) s = .next ((counted.installLost k.val p.val z).zRetry k.val p.val))))

/-- FREQ_CHANGE and TSET_WRITE (R232, R240, R241, Table 8.5): a change to a set that is not valid or already active, during
another, in a state that forbids it, or to a higher bin under ACC_LOCK sets REFUSED; else it begins with every output and PCC of
the stack held. With every output drained, nothing else waited for and no lane failing the set is active at once: FREQ_CHANGED
names both sets. A set whose VALID is clear by then is not made active (R232): the change is abandoned, FAILED (the model's
choice, log entry 86). A write of the active set's registers sets WRITE_REFUSED, any other is taken. -/
def Obligations.TimingChanged : Prop :=
  (∀ (k : Fin 8) (t : Fin 4) (env : TrainEnv) (s : State), s.cpReady → k.val < s.build.nStacks →
    let u := s.cpOk.started
    let old := u.fget (F.phyFreqStatus_ACTIVE k.val)
    let refused := u.flag (F.phyTsetCtl_VALID k.val t.val) = false ∨ old = t.val ∨ u.flag (F.phyFreqStatus_BUSY k.val) = true ∨
      u.flag (F.phyFreqStatus_CHAIN k.val) = true ∨ u.power = .entering ∨ u.power = .restored ∨ u.power = .checking ∨
      (u.flag F.glbAccLock_LOCK = true ∧ u.setBin k.val old < u.setBin k.val t.val)
    (refused → ∃ x, exec (.freqChange k t env) s = .next x ∧ u.sets x [(F.phyFreqStatus_REFUSED k.val, 1)]) ∧
    (¬ refused → ∃ v, u.sets v [(F.phyFreqStatus_BUSY k.val, 1)] ∧ exec (.freqChange k t env) s = .next
      (((v.setJob k.val (some ⟨false, t.val, env, u.cadence, none⟩)).holdStack k.val .freq).jobProceed k.val)) ∧
    (¬ refused → (∀ p < 64, (u.out k.val p).st = .drained) → (u.out k.val 0).hwPcc = [] → env.fails = [] →
      ∃ x, exec (.freqChange k t env) s = .next x ∧ x.fget (F.phyFreqStatus_ACTIVE k.val) = t.val ∧
        x.flag (F.phyFreqStatus_BUSY k.val) = false ∧ x.flag (F.phyFreqStatus_FALLEN k.val) = false ∧
        x.events = (u.post 0x0303 (unitPc k.val 0) k.val (old + t.val * 2 ^ 8)).events)) ∧
  (∀ (k : Fin 8) (t : Fin 4) (env : TrainEnv) (began : Nat) (s : State), let old := s.fget (F.phyFreqStatus_ACTIVE k.val)
    s.flag (F.phyTsetCtl_VALID k.val t.val) = false → ∃ x, s.changeSet k.val t.val env began = x ∧
      x.fget (F.phyFreqStatus_ACTIVE k.val) = old ∧ x.flag (F.phyFreqStatus_FAILED k.val) = true ∧
      x.flag (F.phyFreqStatus_BUSY k.val) = false ∧ x.events = (s.post 0x0304 (unitPc k.val 0) k.val (old + t.val * 2 ^ 8)).events) ∧
  (∀ (k : Fin 8) (t reg : Fin 4) (w : Word) (s : State), s.cpReady → k.val < s.build.nStacks →
    (s.fget (F.phyFreqStatus_ACTIVE k.val) = t.val → ∃ x, exec (.tsetWrite k t reg w) s = .next x ∧
      s.cpOk.sets x [(F.phyFreqStatus_WRITE_REFUSED k.val, 1)]) ∧
    (s.fget (F.phyFreqStatus_ACTIVE k.val) ≠ t.val → ∃ x, exec (.tsetWrite k t reg w) s = .next x ∧
      x = { s.cpOk with regs := x.regs } ∧ s.takesRw x (A.phyTsetCtl k.val t.val + 8 * reg.val) w))

/-- REPLAY_ERROR, REPLAY_DONE, and WARDEN_ISSUE in a replay (R183, R243 to R246, Tables 8.6, 8.19): an error at a PCC without
commands is not counted; the first halts it at attempt 1, each later one during REISSUE counts an attempt up to REPLAY_LIMIT, then
once the limit anew after FULL_TRAIN, then the command error is uncorrectable. The engine takes the column path from a holder that
can be preempted. A parity error halts both PCCs of its channel. HALT leads to RETRAIN, that to REOPEN, in which every row named
is closed, that to REISSUE, in which every command goes out again and is confirmed: then REPLAYS counts it. With lanes failing
(`env.fails`) the retrain goes to the lane chain. -/
def Obligations.ReplayRuns : Prop :=
  (∀ (k : Fin 8) (p : Fin 64) (env : TrainEnv) (s : State), let c := s.pcc k.val p.val
    let counted := fun (b t : State) => b.sets t [(F.pccCrcErrs_COUNT k.val p.val, s.wrapped (F.pccCrcErrs_COUNT k.val p.val) 1)]
    let limit := max 1 (s.fget (F.phyCfg_REPLAY_LIMIT k.val))
    let halts := fun (b : State) (n : Nat) => ∃ u, exec (.replayError k p false env) s = .next (u.halt k.val p.val n env) ∧ counted b u
    (c.rb = [] → exec (.replayError k p false env) s = .next s) ∧
    (c.rb ≠ [] → c.replay ≠ .run → c.replay ≠ .reissue → ∃ t, exec (.replayError k p false env) s = .next t ∧ counted s t) ∧
    (c.rb ≠ [] → c.replay = .run → halts (s.setPcc k.val p.val { c with fullOnce := false }) 1) ∧
    (c.rb ≠ [] → c.replay = .reissue → c.attempts < limit → halts s (c.attempts + 1)) ∧
    (c.rb ≠ [] → c.replay = .reissue → limit ≤ c.attempts → s.flag (F.pccHistory_SALVAGE k.val p.val) = false →
      (c.fullOnce = false → ∃ t, exec (.replayError k p false env) s = .next t ∧
        counted (s.setPcc k.val p.val { c with replay := .fullTrain, env := env }) t) ∧
      (c.fullOnce = true → ∃ u, exec (.replayError k p false env) s = .next (u.commandError k.val p.val) ∧ counted s u)) ∧
    (c.rb ≠ [] → c.replay = .reissue → limit ≤ c.attempts → s.flag (F.pccHistory_SALVAGE k.val p.val) = true →
      (c.oldestColumn = none → halts s 1) ∧ ∀ m, c.oldestColumn = some m → ∃ u, counted (s.setPcc k.val p.val { c with rb := c.rb.erase m }) u ∧
        exec (.replayError k p false env) s = .next ((u.failCommand k.val p.val m).halt k.val p.val 1 env)) ∧
    (∀ n : Nat, let d := { c with replay := .halt, attempts := n, env := env }
      (c.column.bind c.piece? = none → s.halt k.val p.val n env = s.setPcc k.val p.val d) ∧
      (∀ h, c.column.bind c.piece? = some h →
        (h.todo = [] ∨ s.parkMax k.val ≤ c.parked → s.halt k.val p.val n env = s.setPcc k.val p.val d) ∧
        (h.todo ≠ [] → c.parked < s.parkMax k.val → (s.setPcc k.val p.val
          ({ d with column := none }.modPiece h.id fun x => { x with st := .parked })).sets (s.halt k.val p.val n env)
          [(F.arbStkPreempts_COUNT k.val, s.wrapped (F.arbStkPreempts_COUNT k.val) 1)])))) ∧
  (∀ (k : Fin 8) (p : Fin 64) (env : TrainEnv) (s : State), let p0 := p.val / 2 * 2
    let halted := fun (q : Nat) => { s.pcc k.val q with replay := .halt, attempts := 1, env := env, fullOnce := false }
    let errs := fun (q : Nat) => (F.pccParityErrs_COUNT k.val q,
      s.wrapped (F.pccParityErrs_COUNT k.val q) (if (s.pcc k.val q).rb = [] then 0 else 1))
    (∀ q, q = p0 ∨ q = p0 + 1 → (s.pcc k.val q).replay = .run ∧ (s.pcc k.val q).column = none) →
    ∃ t, exec (.replayError k p true env) s = .next t ∧
      ((s.setPcc k.val p0 (halted p0)).setPcc k.val (p0 + 1) (halted (p0 + 1))).sets t [errs p0, errs (p0 + 1)]) ∧
  (∀ (k : Fin 8) (p : Fin 64) (s : State), let c := s.pcc k.val p.val
    (c.replay = .run ∨ c.replay = .lostLanes → exec (.replayDone k p) s = .next s) ∧
    (c.replay = .halt → exec (.replayDone k p) s = .next (s.setPcc k.val p.val { c with replay := .retrain })) ∧
    (c.replay = .retrain → exec (.replayDone k p) s = .next ((s.setPcc k.val p.val c.toReopen).retrain k.val p.val c.env)) ∧
    (c.replay = .reopen → c.ropen ≠ [] → exec (.replayDone k p) s = .next s) ∧
    (c.replay = .reopen → c.ropen = [] → exec (.replayDone k p) s = .next (s.setPcc k.val p.val { c with
      replay := .reissue, issued := 0, ropen := [], rb := c.rb.map fun m => { m with ord := 0, confirmed := false } })) ∧
    (c.replay = .reissue → c.rb ≠ [] → exec (.replayDone k p) s = .next s) ∧
    (c.replay = .reissue → c.rb = [] → ∃ t, exec (.replayDone k p) s = .next t ∧
      (s.setPcc k.val p.val { c with replay := .run, fullOnce := false, ropen := [] }).sets t
        [(F.pccReplays_COUNT k.val p.val, s.wrapped (F.pccReplays_COUNT k.val p.val) 1)]) ∧
    (c.replay = .fullTrain → exec (.replayDone k p) s = .next
      ((s.setPcc k.val p.val { c with replay := .halt, attempts := 1, fullOnce := true }).retrain k.val p.val c.env)) ∧
    (∀ (u : State) (env : TrainEnv), env.fails = [] → u.retrain k.val p.val env = u)) ∧
  (∀ (k : Fin 8) (p : Fin 64) (slot : Nat) (s : State), let c := s.pcc k.val p.val
    (∀ b < 16 * s.build.H, (c.bank b).owed < s.ppl k.val ∨ (c.bank b).refHanded = true) →
    (c.replay = .halt ∨ c.replay = .retrain ∨ c.replay = .fullTrain ∨ c.replay = .lostLanes →
      exec (.wardenIssue k p slot) s = .next s) ∧
    (∀ e l, c.replay = .reopen → c.ropen = e :: l → (∃ m ∈ c.rb, m.bank = e.1) →
      (slot = s.issueSlot k.val p.val .pre e.1 0 false → exec (.wardenIssue k p slot) s = .next (s.setPcc k.val p.val
        (Pcc.recordIssue { c with ropen := c.ropen.filter fun x => x.1 != e.1 } .pre e.1 slot false))) ∧
      (slot ≠ s.issueSlot k.val p.val .pre e.1 0 false → exec (.wardenIssue k p slot) s = .next s)) ∧
    (∀ m, c.replay = .reissue → c.rb = [m] → m.ord = 0 → m.kind = .rd ∨ m.kind = .wr →
      (¬ c.ropen.contains (m.bank, m.row) → slot = s.issueSlot k.val p.val .act m.bank 0 false →
        exec (.wardenIssue k p slot) s = .next (s.setPcc k.val p.val
          (Pcc.recordIssue { c with ropen := (c.ropen.filter fun x => x.1 != m.bank) ++ [(m.bank, m.row)] } .act m.bank slot false))) ∧
      (c.ropen.contains (m.bank, m.row) → m.ap = false → slot = s.issueSlot k.val p.val m.kind m.bank 0 false →
        exec (.wardenIssue k p slot) s = .next (s.setPcc k.val p.val ((c.markIssued m).recordIssue m.kind m.bank slot false)))))

/-- FRET_CMD_INSTALL, FRET_CMD_REMOVE, FRET_INSTALL and HISTORY_CLEAR (R271, R272, R275): a command with one BUSY, to a PC that
serves no logical PC, of no such atom, of one installed (or, to remove, not installed) sets REFUSED; else an install or a removal
takes its place in buffer order, with the lowest entry neither valid nor taken, or the entry that is removed, and its read waits
for what is older at its atom. Once an install's write has been handed over, FRET_INSTALL makes its entry valid, POISONED when the
read was uncorrectable. HISTORY_CLEAR clears the three counts. -/
def Obligations.FretEntries : Prop :=
  (∀ (k : Fin 8) (p : Fin 64) (i : BitVec 25) (s : State), s.cpReady → k.val < s.build.nStacks →
    let bad := (∃ f ∈ (s.pcc k.val p.val).fretQ, f.byCmd = true) ∨ s.lpcOf k.val p.val = none ∨ s.build.dataAtoms ≤ i.toNat
    (bad ∨ s.fretOf k.val p.val i.toNat ≠ none → ∃ t, exec (.fretCmdInstall k p i) s = .next t ∧
      s.cpOk.sets t [(F.pccFretStatus_REFUSED k.val p.val, 1)]) ∧
    (¬ bad → s.fretOf k.val p.val i.toNat = none →
      exec (.fretCmdInstall k p i) s = .next (s.cpOk.fretDue k.val p.val i.toNat true)) ∧
    (bad ∨ s.fretOf k.val p.val i.toNat = none → ∃ t, exec (.fretCmdRemove k p i) s = .next t ∧
      s.cpOk.sets t [(F.pccFretStatus_REFUSED k.val p.val, 1)]) ∧
    (∀ e, ¬ bad → s.fretOf k.val p.val i.toNat = some e →
      let v := s.cpOk.fretPut k.val p.val i.toNat e true true
      ∃ q, (v.pcc k.val p.val).piece? s.nextPiece = some q ∧ q.kind = .fretTake ∧ q.u = i.toNat ∧
        exec (.fretCmdRemove k p i) s = .next (v.evaluate k.val p.val q))) ∧
  (∀ (k : Fin 8) (p : Fin 64) (u : Nat) (byCmd : Bool) (s : State), let c := s.pcc k.val p.val
    (∀ m, s.mig k.val = some m → m.st ≠ .swapHold ∨ m.src ≠ p.val) →
    let free := fun (i : Nat) => s.flag (F.pccFretEnt_VALID k.val p.val i) = false ∧ ∀ f ∈ c.fretQ, f.remove = true ∨ f.entry ≠ i
    (∀ i < 16, free i → (∀ j < i, ¬ free j) →
      s.fretDue k.val p.val u byCmd = s.fretPut k.val p.val u i byCmd false) ∧
    ((∀ i < 16, ¬ free i) → s.fretDue k.val p.val u byCmd = s.fretOverflow k.val p.val u)) ∧
  (∀ (k : Fin 8) (p : Fin 64) (u e : Nat) (byCmd remove : Bool) (s : State), let t := s.fretPut k.val p.val u e byCmd remove
    t = { s with pccs := t.pccs, nextPiece := s.nextPiece + 64 } ∧
    (t.pcc k.val p.val).fretQ = (s.pcc k.val p.val).fretQ ++ [⟨s.nextPiece, u, e, byCmd, remove, .reading, false⟩] ∧
    ∃ q ∈ (t.pcc k.val p.val).buf, q.id = s.nextPiece ∧ q.u = u ∧ q.slotless = true ∧ q.kind = if remove then .fretTake else .fretRead) ∧
  (∀ (k : Fin 8) (p : Fin 64) (s : State), let c := s.pcc k.val p.val
    let made := c.fretQ.find? fun f => f.st == .written && !f.remove
    (made = none → exec (.fretInstall k p) s = .next s) ∧
    (∀ f, made = some f → let b := s.setPcc k.val p.val { c with fretQ := c.fretQ.erase f }
      (s.fretOf k.val p.val f.u ≠ none → exec (.fretInstall k p) s = .next b) ∧
      (s.fretOf k.val p.val f.u = none → f.entry < 16 → f.u < 2 ^ 25 →
        ∃ t, exec (.fretInstall k p) s = .next t ∧ t = { b with regs := t.regs, events := t.events, dropCount := t.dropCount, dropStamp := t.dropStamp } ∧
          t.flag (F.pccFretEnt_VALID k.val p.val f.entry) = true ∧ t.fget (F.pccFretEnt_ATOM k.val p.val f.entry) = f.u ∧
          t.flag (F.pccFretEnt_POISONED k.val p.val f.entry) = f.lost ∧
          t.fget (F.pccFretStatus_INSTALLS k.val p.val) = s.wrapped (F.pccFretStatus_INSTALLS k.val p.val) 1 ∧
          t.events = (s.post 0x0202 (unitPc k.val p.val) (argPc k.val p.val) (s.addrAt k.val p.val f.u)).events))) ∧
  (∀ (k : Fin 8) (p : Fin 64) (s : State), s.cpReady → k.val < s.build.nStacks →
    ∃ t, exec (.historyClear k p) s = .next t ∧ (s.cpOk.setPcc k.val p.val { s.pcc k.val p.val with ueList := [] }).sets t
      [(F.pccHistory_UE_ATOMS k.val p.val, 0), (F.pccHistory_FRET_OVF k.val p.val, 0), (F.pccHistory_STRANDED k.val p.val, 0)])

/-- Retirement and migration (R276 to R279, Table 9.4). MIG_RETIRE_CMD: a retirement of a logical PC not in service, pending or
migrating sets REFUSED, else it is pending with reason 4. RETIREMENT_START: the lowest pending one starts when nothing forbids it:
with the lowest spare PC its migration begins, with none it strands or, with a command error as its reason, loses the logical PC.
MIGRATION_CHUNK_DONE: once the 16 atoms of a chunk have been read at the old PC they are written at the spare in one piece, each
as it was read, poisoned where it could not be read or the old PC is lost; once that write is visible the pointer moves on. -/
def Obligations.RetirementRuns : Prop :=
  (∀ (k : Fin 8) (l : Fin 64) (s : State), s.cpReady → k.val < s.build.nStacks →
    let u := s.cpOk.started
    let p := u.fget (F.pcmapEntry_PPC k.val l.val)
    let refused := u.build.N ≤ l.val ∨ u.fget (F.pcmapEntry_STATE k.val l.val) ≠ 0 ∨
      (u.fget (F.migPending_MASK k.val)).testBit l.val = true ∨
      (u.flag (F.migStatus_ACTIVE k.val) = true ∧ u.fget (F.migStatus_LPC k.val) = l.val)
    (refused → ∃ t, exec (.migRetireCmd k l) s = .next t ∧ u.sets t [(F.migStatus_REFUSED k.val, 1)]) ∧
    (¬ refused → u.lpcOf k.val p = some l.val → ∃ t m, exec (.migRetireCmd k l) s = .next t ∧
      ({ u with migReasons := SMap.put u.migReasons 0 (k.val * 64 + l.val) 4 } : State).sets t
        [(F.migPending_MASK k.val, m), (F.pccHistory_REASON k.val p, 4)] ∧
      ∀ i < 64, m.testBit i = ((u.fget (F.migPending_MASK k.val)).testBit i || i == l.val))) ∧
  (∀ (k : Fin 8) (s : State),
    (s.power ≠ .active ∨ s.flag (F.migStatus_ACTIVE k.val) = true ∨ s.flag (F.pcmapEdit_EDIT k.val) = true ∨ s.flag (F.bowStatus_SANITISE k.val) = true ∨
      s.fget (F.migPending_MASK k.val) = 0 → exec (.retirementStart k) s = .next s) ∧
    (∀ l, s.retireNext k.val = some l → ∃ u m, s.sets u [(F.migPending_MASK k.val, m)] ∧
      (∀ i < 64, m.testBit i = ((s.fget (F.migPending_MASK k.val)).testBit i && i != l)) ∧
      (s.fget (F.pcmapEntry_STATE k.val l) = 3 → exec (.retirementStart k) s = .next u) ∧
      (s.fget (F.pcmapEntry_STATE k.val l) ≠ 3 → (∀ t < 64, (s.fget (F.pcmapSpare_MASK k.val)).testBit t = false) →
        exec (.retirementStart k) s = .next (u.noSpare k.val l)) ∧
      (∀ t < 64, s.fget (F.pcmapEntry_STATE k.val l) ≠ 3 → (s.fget (F.pcmapSpare_MASK k.val)).testBit t = true →
        (∀ j < t, (s.fget (F.pcmapSpare_MASK k.val)).testBit j = false) →
        exec (.retirementStart k) s = .next (u.migBegin k.val l t)))) ∧
  (∀ (k : Fin 8) (l : Nat) (s : State), let p := s.fget (F.pcmapEntry_PPC k.val l)
    (SMap.get s.migReasons 0 (k.val * 64 + l) = 3 → s.noSpare k.val l = s.loseLpc k.val l 4) ∧
    (SMap.get s.migReasons 0 (k.val * 64 + l) ≠ 3 → ∃ t, s.noSpare k.val l = t ∧
      (s.post 0x030A (unitPc k.val p) (argPc k.val p) l).sets t [(F.pccHistory_STRANDED k.val p, 1)])) ∧
  (∀ (k : Fin 8) (s : State), s.power ≠ .entering → (∀ m, s.mig k.val = some m → m.chunk = none) →
    exec (.migrationChunkDone k) s = .next s) ∧
  (∀ (k : Fin 8) (s : State) (m : Mig) (c : Nat), s.power ≠ .entering → s.mig k.val = some m → m.chunk = some c →
    (∀ id, s.has (.copyWrite k.val) id .done →
      exec (.migrationChunkDone k) s = .next ((s.dropReq id).chunkDone k.val m c) ∧
      (c + 16 < s.build.dataAtoms → c + 16 < 2 ^ 25 → ∃ t, exec (.migrationChunkDone k) s = .next t ∧
        ((s.dropReq id).setMig k.val (some { m with chunk := none })).sets t [(F.migStatus_POINTER k.val, c + 16),
          (F.bowCopyAtoms_COUNT k.val, s.wrapped (F.bowCopyAtoms_COUNT k.val) 16)])) ∧
    (∀ id d, s.has (.copyWrite k.val) id d → d ≠ .done → exec (.migrationChunkDone k) s = .next s) ∧
    (s.ownFind (.copyWrite k.val) = none →
      (m.oldLost = true → exec (.migrationChunkDone k) s = .next (s.chunkWrite k.val m c (List.replicate 16 (0, true)))) ∧
      (m.oldLost = false → s.ownFind (.copyRead k.val) = none → exec (.migrationChunkDone k) s = .next s) ∧
      (∀ id r, m.oldLost = false → s.ownFind (.copyRead k.val) = some (id, r) →
        ((∃ a ∈ r.res, a.st = .waiting) → exec (.migrationChunkDone k) s = .next s) ∧
        ((∀ a ∈ r.res, a.st ≠ .waiting) → exec (.migrationChunkDone k) s = .next
          (s.chunkWrite k.val m c (r.res.map fun a => if a.st = .ok then (a.data, false) else (0, true))))))) ∧
  (∀ (k c : Nat) (s : State) (m : Mig) (d : List (Atom × Bool)), (∀ i < 16, (d.getD i (0, false)).2 = false) →
    s.chunkWrite k m c d = (s.ownDrop (.copyRead k)).ownStart (.copyWrite k) (s.bowAccess (some m.dst)) .write
      (addrOfU s.build s.order k m.lpc c) 16 (d.map (·.1)) (d.map (·.2)) [])

/-- SCRUB_EN_WRITE, BOW_CHUNK_START, BOW_SANITISE, BOW_CANARY_WRITE, BOW_CANARY_CHECK, SANITISE_DONE and CANARY_CHECK_DONE (R363
to R369, Tables 12.2, 12.3): a write of BOW.CFG is taken and SCRUB follows SCRUB_EN while the block runs; a chunk start takes the
ready duty of smallest priority number: canary work, sanitisation, the copy, a scan, the lowest unit first, the scrub; none with
four of its pieces not done, none before its rate allows, outside ACTIVE none but canary work; a BOW.CMD that is not possible sets
REFUSED; sanitisation begins with the Fret tables and zero-map lines of the stack invalid, writes coded zeros, and ends when its
last piece is done; a canary write raises CANARY_GEN, a check clears the masks, a canary read that differs sets its bank's bit,
and the check ends with its last retention scan. -/
def Obligations.BowDuties : Prop :=
  (∀ (k : Fin 8) (w : Word) (s : State), s.cpReady → k.val < s.build.nStacks →
    ∃ t, exec (.scrubEnWrite k w) s = .next t ∧ t = { s.cpOk with regs := t.regs, bows := t.bows } ∧
      (∀ r, RegFile.find (A.bowCfg k.val) = some r → t.reg (A.bowCfg k.val) =
        (s.reg (A.bowCfg k.val) &&& ~~~(BitVec.ofNat 64 r.rw)) ||| (w &&& BitVec.ofNat 64 r.rw)) ∧
      (∀ a, a ≠ A.bowCfg k.val → a ≠ A.bowStatus k.val → t.reg a = s.reg a) ∧
      t.flag (F.bowStatus_SCRUB k.val) = (t.flag (F.bowCfg_SCRUB_EN k.val) && s.flag F.glbResetStatus_READY && s.power == .active) ∧
      (t.flag (F.bowStatus_SCRUB k.val) = true → s.flag (F.bowStatus_SCRUB k.val) = false →
        (t.bow k.val).scrub = ⟨s.cadence, 0⟩)) ∧
  (∀ (k : Fin 8) (s : State),
    (s.build.nStacks ≤ k.val → exec (.bowChunkStart k) s = .next s) ∧
    (k.val < s.build.nStacks → s.power = .active →
      (∀ u, s.canaryChunk k.val = some u → exec (.bowChunkStart k) s = .next u) ∧
      (s.canaryChunk k.val = none →
        (∀ u, s.sanChunk k.val = some u → exec (.bowChunkStart k) s = .next u) ∧
        (s.sanChunk k.val = none →
          (∀ u, s.copyStart k.val = some u → exec (.bowChunkStart k) s = .next u) ∧
          (∀ (i : Fin 4) u, s.copyStart k.val = none → s.scanStart k.val i.val = some u → (∀ j < i.val, s.scanStart k.val j = none) →
            exec (.bowChunkStart k) s = .next u) ∧
          (s.copyStart k.val = none → (∀ j < 4, s.scanStart k.val j = none) →
            (∀ u, s.scrubStart k.val = some u → exec (.bowChunkStart k) s = .next u) ∧
            (s.scrubStart k.val = none → exec (.bowChunkStart k) s = .next s))))) ∧
    (k.val < s.build.nStacks → s.power ≠ .active → s.power ≠ .entering →
      (∀ u, s.coreOn = true → s.canaryChunk k.val = some u → exec (.bowChunkStart k) s = .next u) ∧
      (s.coreOn = false ∨ s.canaryChunk k.val = none → exec (.bowChunkStart k) s = .next s))) ∧
  (∀ (k : Nat) (s : State),
    ((s.bow k).canary = .idle ∨ 4 ≤ s.bowOut k Piece.ofCanary → s.canaryChunk k = none) ∧
    (s.flag (F.bowStatus_SANITISE k) = false ∨ 4 ≤ s.bowOut k (fun q => q.kind == .sanWrite) ∨ s.sanNext k = none → s.sanChunk k = none) ∧
    (∀ m, s.mig k = some m → m.chunk ≠ none ∨ s.job k ≠ none ∨ m.st ≠ .copying → s.copyStart k = none) ∧
    (∀ u, 4 ≤ s.scanOut k ∨ (s.chk u).st ≠ .scanning k → s.scanStart k u = none) ∧
    (s.flag (F.bowStatus_SCRUB k) = false ∨ 4 ≤ s.bowOut k Piece.scrubs → s.scrubStart k = none) ∧
    (∀ pos n, (s.bow k).canary = .writing pos → s.bowOut k Piece.ofCanary < 4 → s.canaryNext k pos = some n → s.canaryChunk k =
      some ((s.toLane (s.canaryPiece k (n % 64) (n / 64) .canaryWrite)).setBow k { s.bow k with canary := .writing (n + 1) })) ∧
    (∀ n, s.flag (F.bowStatus_SANITISE k) = true → s.bowOut k (fun q => q.kind == .sanWrite) < 4 → s.sanNext k = some n → s.sanChunk k =
      some ((s.toLane (s.rowPiece k (n % 64) (n / 64 / (16 * s.build.H)) (n / 64 % (16 * s.build.H)) .sanWrite)).setBow k
        { s.bow k with san := n + 1 })) ∧
    (∀ p i (q : Piece), q.kind = .sanWrite → q.inMeta = false → q.lpc < 64 →
      s.burstWord k p q i = encodeAtom (dataFold (s.pieceAddr k p q i)) 0 false)) ∧
  (∀ (d : Pace) (rate now : Nat), let due := d.t0 + ceilDiv (d.bytes * 1000) rate
    d.mayStart 0 now = some d ∧
    (0 < rate → (now < due → d.mayStart rate now = none) ∧
      (due ≤ now → now - due ≤ 1024 * 1000 / rate → d.mayStart rate now = some d) ∧
      (due ≤ now → 1024 * 1000 / rate < now - due → d.mayStart rate now = some ⟨now, 0⟩))) ∧
  (∀ (k : Fin 8) (s : State), s.cpReady → k.val < s.build.nStacks → let u := s.cpOk.started
    let refused := u.flag (F.bowStatus_SANITISE k.val) = true ∨ (∃ p < 64, (u.out k.val p).st ≠ .drained) ∨
      u.flag (F.migStatus_ACTIVE k.val) = true ∨ u.flag (F.pcmapEdit_EDIT k.val) = true
    (refused → ∃ t, exec (.bowSanitise k) s = .next t ∧ u.sets t [(F.bowStatus_REFUSED k.val, 1)]) ∧
    (¬ refused → ∃ t, exec (.bowSanitise k) s = .next t ∧ t = { u with regs := t.regs, pccs := t.pccs, bows := t.bows } ∧
      t.flag (F.bowStatus_SANITISE k.val) = true ∧ t.fget (F.bowSanFail_MASK k.val) = 0 ∧ t.bow k.val = { u.bow k.val with san := 0 } ∧
      ∀ p < 64, (t.pcc k.val p).lines = [] ∧ ∀ i < 16, t.reg (A.pccFretEnt k.val p i) = 0) ∧
    (u.canaryRuns k.val = true →
      (∃ t, exec (.bowCanaryWrite k) s = .next t ∧ u.sets t [(F.bowStatus_REFUSED k.val, 1)]) ∧
      ∃ t, exec (.bowCanaryCheck k) s = .next t ∧ u.sets t [(F.bowStatus_REFUSED k.val, 1)]) ∧
    (u.canaryRuns k.val = false →
      (∃ t, exec (.bowCanaryWrite k) s = .next t ∧
        (u.setBow k.val { u.bow k.val with covered := u.liveMask k.val, canary := .writing 0 }).sets t
          [(F.bowCanaryGen_GEN k.val, (u.fget (F.bowCanaryGen_GEN k.val) + 1) % 256)]) ∧
      ∃ t, exec (.bowCanaryCheck k) s = .next t ∧ (u.setBow k.val { u.bow k.val with canary := .checking 0 }).sets t
        ((List.range 64).map fun p => (F.bowCanaryMask_BANKS k.val p, 0)))) ∧
  (∀ (k : Fin 8) (s : State),
    let going := s.flag (F.bowStatus_SANITISE k.val) = false ∨ (s.sanNext k.val).isSome = true ∨
      s.bowOut k.val (fun q => q.kind == .sanWrite) ≠ 0
    let u := (s.fset (F.bowStatus_SANITISE k.val) 0).post 0x030C (unitPc k.val 0) k.val
      (s.fget (F.bowSanFail_MASK k.val) ||| s.lostMask k.val)
    (going → exec (.sanitiseDone k) s = .next s) ∧
    (¬ going → u.flag F.glbResetStatus_SANITISING = false ∨ (∃ j < u.build.nStacks, u.flag (F.bowStatus_SANITISE j) = true) →
      exec (.sanitiseDone k) s = .next u) ∧
    (¬ going → u.flag F.glbResetStatus_SANITISING = true → (∀ j < u.build.nStacks, u.flag (F.bowStatus_SANITISE j) = false) →
      ∃ v, exec (.sanitiseDone k) s = .next v.resetDone ∧ u.sets v [(F.glbResetStatus_SANITISING, 0)])) ∧
  (∀ (k : Fin 8) (s : State), s.power ≠ .checking →
    let rests := s.bowOut k.val Piece.ofCanary = 0
    (¬ rests ∨ (s.bow k.val).canary = .idle ∨ (∃ pos, (s.bow k.val).canary = .writing pos) →
      exec (.canaryCheckDone k) s = .next s) ∧
    (∀ pos, (s.bow k.val).canary = .checking pos → rests →
      ((s.canaryNext k.val pos).isSome = true ∨ (s.retainNext k.val 0).isSome = true → exec (.canaryCheckDone k) s = .next s) ∧
      (s.canaryNext k.val pos = none → s.retainNext k.val 0 = none →
        exec (.canaryCheckDone k) s = .next (s.setBow k.val { s.bow k.val with canary := .idle }))) ∧
    (∀ i row, (s.bow k.val).canary = .scanning i row → rests →
      ((s.retainNext k.val i).isSome = true → exec (.canaryCheckDone k) s = .next s) ∧
      (s.retainNext k.val i = none → exec (.canaryCheckDone k) s = .next (s.setBow k.val { s.bow k.val with canary := .idle })))) ∧
  (∀ (k p i : Nat) (q : Piece) (w : Stored) (s : State), q.bank < 64 →
    let here := canaryStored (s.fget (F.bowCanaryGen_GEN k)) k p q.bank (8 + i)
    (w = here → s.canaryRead k p q i w = s) ∧
    (w ≠ here → ∃ m, s.sets (s.canaryRead k p q i w) [(F.bowCanaryMask_BANKS k p, m)] ∧
      ∀ b < 64, m.testBit b = ((s.fget (F.bowCanaryMask_BANKS k p)).testBit b || b == q.bank)))

/-- CHK_START, CHK_FINISH, CHK_ABORT, CHK_SCAN, CHK_OP_RESERVED, FEED_B, FEED_H, FEED_W, CHK_CONFIG_WRITE and SCAN_READ_RETURN
(R355 to R362, Tables 12.1, 12.9): START and SCAN latch the configuration of an IDLE unit, FINISH gives the result of one the
control port holds, ABORT frees one and discards its scan reads; feeds reach only a unit the control port holds; each command that
meets another state changes only LAST. A scan feeds the atoms it has read in order, and ends with its result and, where CMP is
valid, the comparison of its low WIDTH bits with the stored word, which it reads then; a poisoned or lost read halts it. -/
def Obligations.CheckUnits : Prop :=
  (∀ (i : Fin 4) (s : State), s.cpReady →
    let last := fun (c : Instr) (n : Nat) => ∃ t, exec c s = .next t ∧ s.cpOk.sets t [(F.chkStatus_LAST i.val, n)]
    let st := (s.chk i.val).st
    let freed := ({ s.cpOk with reqs := s.reqs.filter fun e => !e.2.scans i.val } : State).setChk i.val Chk.init
    let f := fun (c : Instr) (n : Nat) (x : Chk) => ∃ t, exec c s = .next t ∧ (s.cpOk.setChk i.val x).sets t
      [(F.chkStatus_FED i.val, s.wrapped (F.chkStatus_FED i.val) n), (F.chkStatus_LAST i.val, 0)]
    (∀ op, last (.chkOpReserved i op) 3) ∧
    (st = .idle → last (.chkFinish i) 2 ∧ last (.chkAbort i) 0 ∧ (∀ b, last (.feedB i b) 2) ∧ (∀ h, last (.feedH i h) 2) ∧
      (∀ w, last (.feedW i w) 2) ∧
      ∀ (reg : Fin 8) (w : Word), ∃ t v, exec (.chkConfigWrite i reg w) s = .next t ∧ v = { s.cpOk with regs := v.regs } ∧
        s.takesRw v (chkCfgAddr i.val reg.val) w ∧ v.sets t [(F.chkStatus_LAST i.val, 0)]) ∧
    (st = .heldCp →
      (∃ t, exec (.chkFinish i) s = .next t ∧ freed.sets t
        [(F.chkResult_VALUE i.val, (s.chk i.val).result % 2 ^ 64), (F.chkStatus_OWNER i.val, 0), (F.chkStatus_OWNER_ID i.val, 0),
          (F.chkStatus_LAST i.val, 0)]) ∧
      (∃ t, exec (.chkAbort i) s = .next t ∧ freed.sets t
        [(F.chkStatus_OWNER i.val, 0), (F.chkStatus_OWNER_ID i.val, 0), (F.chkStatus_LAST i.val, 6)]) ∧
      (∀ b : BitVec 8, f (.feedB i b) 1 (crcBytes (s.chk i.val) 1 b.toNat)) ∧
      (∀ h : BitVec 32, f (.feedH i h) 4 (crcBytes (s.chk i.val) 4 h.toNat)) ∧
      (∀ w : Word, f (.feedW i w) 8
        (feedWord (s.chk i.val) ((s.chk i.val).foldBase + 8 * (s.chk i.val).i) w.toNat))) ∧
    (st ≠ .idle → (∀ (reg : Fin 8) (w : Word), last (.chkConfigWrite i reg w) 1)) ∧
    (st ≠ .idle → st ≠ .heldCp → last (.chkFinish i) 1 ∧ (∀ b, last (.feedB i b) 1) ∧ (∀ h, last (.feedH i h) 1) ∧
      ∀ w, last (.feedW i w) 1) ∧
    (∀ c, st = .heldSeq c → last (.chkAbort i) 1) ∧
    (∀ k < 8, st = .scanning k → ∃ t, exec (.chkAbort i) s = .next t ∧ freed.sets t
      [(F.chkStatus_OWNER i.val, 0), (F.chkStatus_OWNER_ID i.val, 0), (F.chkStatus_LAST i.val, 6),
        (F.bowStatus_SCAN k, bit ((List.range 4).any fun j => j != i.val && (s.chk j).st == .scanning k))])) ∧
  (∀ (i : Fin 4) (k : Fin 8) (s : State), s.cpReady → let u := s.cpOk.started
    let w := u.chkWidth i.val
    let latched := fun (st : ChkSt) => (⟨st, w, u.fget (F.chkPoly_VALUE i.val) % 2 ^ w, u.fget (F.chkXorout_VALUE i.val) % 2 ^ w,
      u.flag (F.chkCfg_REFIN i.val), u.flag (F.chkCfg_REFOUT i.val),
      if u.fget (F.chkCfg_FOLD i.val) = 3 then 0 else u.fget (F.chkCfg_FOLD i.val), u.fget (F.chkFoldBase_VALUE i.val),
      u.fget (F.chkInit_VALUE i.val) % 2 ^ w, 0, u.fget (F.chkScanStart_ADDR i.val), u.fget (F.chkScanStart_ADDR i.val)⟩ : Chk)
    let paced := if (List.range 4).any (fun j => (u.chk j).st == .scanning k.val) then u
      else u.setBow k.val { u.bow k.val with scan := ⟨u.cadence, 0⟩ }
    ((u.chk i.val).st = .idle → ∃ t, exec (.chkStart i) s = .next t ∧ (u.setChk i.val (latched .heldCp)).sets t
      [(F.chkStatus_FED i.val, 0), (F.chkStatus_OWNER i.val, 1), (F.chkStatus_OWNER_ID i.val, 0), (F.chkStatus_LAST i.val, 0)]) ∧
    ((u.chk i.val).st ≠ .idle →
      (∃ t, exec (.chkStart i) s = .next t ∧ u.sets t [(F.chkStatus_LAST i.val, 1)]) ∧
      ∃ t, exec (.chkScan i k) s = .next t ∧ u.sets t [(F.chkStatus_LAST i.val, 1)]) ∧
    ((u.chk i.val).st = .idle → u.scanValid i.val k.val = false → ∃ t, exec (.chkScan i k) s = .next t ∧
      u.sets t [(F.chkStatus_LAST i.val, 7)]) ∧
    ((u.chk i.val).st = .idle → u.scanValid i.val k.val = true → ∃ t, exec (.chkScan i k) s = .next t ∧
      (paced.setChk i.val (latched (.scanning k.val))).sets t
        [(F.chkStatus_FED i.val, 0), (F.chkStatus_OWNER i.val, 3), (F.chkStatus_OWNER_ID i.val, k.val), (F.chkStatus_LAST i.val, 0),
          (F.bowStatus_SCAN k.val, 1)])) ∧
  (∀ (i : Fin 4) (s : State) (k : Nat), k < 8 → let c := s.chk i.val
    c.st = .scanning k →
    let fin := s.fget (F.chkScanStart_ADDR i.val) + s.fget (F.chkScanLen_LEN i.val)
    let freed := fun (b : State) => ({ b with reqs := b.reqs.filter fun e => !e.2.scans i.val } : State).setChk i.val Chk.init
    let halted := fun (b : State) (a n : Nat) => ∃ t, exec (.scanReadReturn i) s = .next t ∧
      (freed (b.post 0x0413 i.val a n)).sets t [(F.chkHaltAddr_ADDR i.val, a % 2 ^ 42), (F.chkStatus_OWNER i.val, 0),
        (F.chkStatus_OWNER_ID i.val, 0), (F.chkStatus_LAST i.val, 4),
        (F.bowStatus_SCAN k, bit ((List.range 4).any fun j => j != i.val && (b.chk j).st == .scanning k))]
    (c.pos < fin → s.scanRead i.val c.pos = none → exec (.scanReadReturn i) s = .next s) ∧
    (∀ id r, c.pos < fin → s.scanRead i.val c.pos = some (id, r) → let a := r.res.getD ((c.pos - r.addr) / 64) ⟨.waiting, false, 0⟩
      (a.st = .waiting → exec (.scanReadReturn i) s = .next s) ∧
      (a.st = .ok → ∃ v, (({ s with reqs := if r.addr + 64 * r.atoms ≤ c.pos + 64 then SMap.erase s.reqs id else s.reqs } : State).setChk
          i.val { feedAtom c c.pos a.data with pos := c.pos + 64 }).sets v [(F.chkStatus_FED i.val, s.wrapped (F.chkStatus_FED i.val) 64)] ∧
        (c.pos + 64 < fin → exec (.scanReadReturn i) s = .next v) ∧
        (fin ≤ c.pos + 64 → exec (.scanReadReturn i) s = .next (v.scanFinish i.val k))) ∧
      (a.st = .poison → halted s c.pos stPoison) ∧ (a.st = .lost → halted s c.pos stLost)) ∧
    (fin ≤ c.pos → s.flag (F.chkScanCmp_VALID i.val) = false → exec (.scanReadReturn i) s = .next (s.scanEnd i.val k none)) ∧
    (fin ≤ c.pos → s.flag (F.chkScanCmp_VALID i.val) = true → let at8 := 8 * s.fget (F.chkScanCmp_ADDR i.val)
      (s.ownFind (.stored i.val) = none → exec (.scanReadReturn i) s =
        .next (s.ownStart (.stored i.val) (s.bowAccess none) .read (at8 / 64 * 64) 1 [] [] [])) ∧
      (∀ id, s.has (.stored i.val) id .blocked → exec (.scanReadReturn i) s = .next s) ∧
      (∀ id d, s.has (.stored i.val) id (.data d false) → exec (.scanReadReturn i) s =
        .next ((s.dropReq id).scanEnd i.val k (some (d.toNat / 2 ^ (at8 % 64 * 8) % 2 ^ 64)))) ∧
      (∀ id d, s.has (.stored i.val) id (.data d true) → halted (s.dropReq id) (at8 / 64 * 64) stPoison) ∧
      (∀ id, s.has (.stored i.val) id .lost → halted (s.dropReq id) (at8 / 64 * 64) stLost))) ∧
  (∀ (i : Fin 4) (s : State), (∀ k, (s.chk i.val).st ≠ .scanning k) → exec (.scanReadReturn i) s = .next s) ∧
  (∀ (i : Fin 4) (s : State) (k : Nat), k < 8 → let r := (s.chk i.val).result
    let ended := fun (b : State) (l : List (Fld × Nat)) (t : State) =>
      (({ b with reqs := b.reqs.filter fun e => !e.2.scans i.val } : State).setChk i.val Chk.init).sets t
      (l ++ [(F.chkResult_VALUE i.val, r % 2 ^ 64), (F.chkStatus_OWNER i.val, 0), (F.chkStatus_OWNER_ID i.val, 0),
        (F.chkStatus_LAST i.val, 0),
        (F.bowStatus_SCAN k, bit ((List.range 4).any fun j => j != i.val && (s.chk j).st == .scanning k))])
    ended (s.post 0x0411 i.val r (s.fget (F.chkScanLen_LEN i.val))) [] (s.scanEnd i.val k none) ∧
    ∀ v < 2 ^ 64,
      (v % 2 ^ (s.chk i.val).width = r → ended (s.post 0x0411 i.val r (s.fget (F.chkScanLen_LEN i.val)))
        [(F.chkStored_VALUE i.val, v)] (s.scanEnd i.val k (some v))) ∧
      (v % 2 ^ (s.chk i.val).width ≠ r → ended (s.post 0x0412 i.val r v) [(F.chkStored_VALUE i.val, v)]
        (s.scanEnd i.val k (some v))))

/-- DOORBELL, SLOT_LOAD, SWAP_OUT, SAVE_DONE and SLOT_BASE_WRITE (R287 to R293, R435, Tables 10.2, 10.3): a doorbell reads words 0
to 3 of its slot and has the launch stream's descriptor fetched, unanswered meanwhile; then it makes the checks of Table 10.2 in
order and answers with the first that fails, or queues the slot with what the doorbell and words 0 to 2 give; while READY is 0 it
changes nothing. A load whose reads have come makes its context run, else the head of the queue takes a free context and its words
are read; a program to be swapped out saves, waiting as a FENCE does, and is queued again or, still waiting on its token, SWAPPED.
SLOT_BASE is taken only with every slot FREE. -/
def Obligations.SlotsServed : Prop :=
  (∀ (v : Word) (s : State), s.cpReady → s.flag F.glbResetStatus_READY = false → exec (.doorbell v) s = .next s.cpOk) ∧
  (∀ (v : Word) (s : State), s.cpReady → s.flag F.glbResetStatus_READY = true → let u := s.cpOk.started
    let a := u.slotAddr (bitsOf v.toNat 11 0) 0
    let waits := fun (b : State) => exec (.doorbell v) s = .next { b with cpWaiting := [.doorbell v] }
    (u.build.inRange a 512 = false → exec (.doorbell v) s = .next (u.launchChecked v.toNat none none)) ∧
    (u.build.inRange a 512 = true →
      (u.ownFind (.bell 0) = none → waits (u.ownStart (.bell 0) (serviceAccess 7) .read a 1 [] [] [])) ∧
      (∀ id, u.has (.bell 0) id .blocked → waits u) ∧
      (∀ id d, u.has (.bell 0) id (.data d true) → exec (.doorbell v) s = .next ((u.dropReq id).launchChecked v.toNat none none)) ∧
      (∀ id, u.has (.bell 0) id .lost → exec (.doorbell v) s = .next ((u.dropReq id).launchChecked v.toNat none none)) ∧
      (∀ id d, u.has (.bell 0) id (.data d false) →
        (∀ y, u.descNow none (dField d 1 63 44) = (y, .wait) → waits y) ∧
        (∀ y, u.descNow none (dField d 1 63 44) = (y, .bad) →
          exec (.doorbell v) s = .next ((y.dropReq id).launchChecked v.toNat (some d) none)) ∧
        (∀ y desc, u.descNow none (dField d 1 63 44) = (y, .words desc) →
          exec (.doorbell v) s = .next ((y.dropReq id).launchChecked v.toNat (some d) (some desc)))))) ∧
  (∀ (y : State) (w : Nat) (words desc : Option Atom), let n := bitsOf w 11 0
    let result := fun (r : Nat) => y.sets (y.launchChecked w words desc) [(F.seqLaunchStatus_SLOT, n), (F.seqLaunchStatus_RESULT, r)]
    (y.flag F.seqCfg_EN = false → result 6) ∧
    (y.flag F.seqCfg_EN = true → (y.slot n).st ≠ .free → result 1) ∧
    (y.flag F.seqCfg_EN = true → (y.slot n).st = .free → words = none → result 3) ∧
    (∀ d, y.flag F.seqCfg_EN = true → (y.slot n).st = .free → words = some d →
      let isa := dField d 0 63 60
      let code := dField d 0 41 0
      let fin := dField d 2 41 0
      let isaBad := isa = 0 ∨ 3 < isa
      let codeBad := code % 16 ≠ 0 ∨ y.build.inRange code 16 = false ∨ dField d 0 59 42 ≠ 0
      let finBad := fin % 64 ≠ 0 ∨ y.build.inRange fin 64 = false
      (isaBad → result 2) ∧ (¬ isaBad → codeBad → result 4) ∧ (¬ isaBad → ¬ codeBad → finBad → result 5) ∧
      (¬ isaBad → ¬ codeBad → ¬ finBad →
        (desc = none → result 7) ∧
        (∀ e, desc = some e → let ok := dValid e && dGroupOk e (y.group (bitsOf w 27 16))
          (ok = false → result 7) ∧
          (ok = true → (({ y with launchQ := y.launchQ ++ [n] } : State).setSlot n { Slot.init with
              st := .queued, mid := bitsOf w 27 16, priv := w.testBit 32, pin := w.testBit 33
              event := w.testBit 34, launch := y.cadence, seqnum := (y.fget F.seqLaunchStatus_SEQNUM + 1) % 2 ^ 32
              code := code, tb0 := dWord d 3, stream := dField d 1 63 44, label := dField d 1 43 38, done := fin
              cls := dClass e, pg := dPgroup e }).sets (y.launchChecked w words desc)
            [(F.seqLaunchStatus_SLOT, n), (F.seqLaunchStatus_RESULT, 0),
             (F.seqLaunchStatus_SEQNUM, y.wrapped F.seqLaunchStatus_SEQNUM 1),
             (F.seqLaunches_COUNT, y.wrapped F.seqLaunches_COUNT 1)]))))) ∧
  (∀ s : State, s.loadReady = none →
    (s.launchQ = [] ∨ s.freeCtx = none → exec .slotLoad s = .next s) ∧
    (∀ n q c, s.launchQ = n :: q → s.freeCtx = some c → let t := s.loadStart n c q
      exec .slotLoad s = .next t ∧ t.slot n = { s.slot n with st := .loading, ctx := some c } ∧ t.launchQ = q ∧
      ∀ i ∈ (if (s.slot n).saved then [0, 1, 2, 3, 4] else [1, 2, 3]), ∃ e ∈ t.reqs,
        e.2.src = .own (.prog n i) ∧ e.2.addr = s.slotAddr n (64 * i) ∧ e.2.op = 0)) ∧
  (∀ (s : State) (n c : Nat), s.loadReady = some (n, c) → let sl := s.slot n
    let reads := if sl.saved then [0, 1, 2, 3, 4] else [1, 2, 3]
    let good := fun (i : Nat) => ∃ d, s.progAt n i = some (.data d false)
    let x := loadCtx n sl (!sl.saved) ((List.range 5).map fun i =>
      if reads.contains i then (match s.progAt n i with | some (.data d _) => d | _ => 0) else 0) s.cadence
    let u := (s.setCtx c (some x)).progDrop n
    ((∀ i ∈ reads, good i) →
      (sl.abort = true → exec .slotLoad s = .next (u.finish n ⟨true, 0x1A, 0, 0, x.pc, true⟩)) ∧
      (sl.abort = false → sl.tokWait = false → exec .slotLoad s = .next (u.setSlot n { sl with st := .running })) ∧
      (sl.abort = false → sl.tokWait = true →
        exec .slotLoad s = .next ((u.setSlot n { sl with st := .running, tokWait := false }).setCtx c (some x.advance)))) ∧
    (∀ i ∈ reads, ¬ good i → (∀ j ∈ reads, j < i → good j) → sl.abort = false → ∃ z : Ctx, z.slot = n ∧ z.pc = sl.heldPc ∧
      exec .slotLoad s = .next (((s.freed.setCtx c (some z)).progDrop n).finish n
        ⟨true, 0x19, s.slotAddr n (64 * i), 0, sl.heldPc, true⟩))) ∧
  (∀ (c : Fin 256) (s : State) (x : Ctx), s.ctx? c.val = some x → let n := x.slot
    (s.swapAt x (s.slot n) = none → exec (.swapOut c) s = .next s) ∧
    (∀ due, s.swapAt x (s.slot n) = some due → s.reaches due → exec (.swapOut c) s =
      .next ((s.momentOf due).setSlot n { s.slot n with st := .saving, tokWait := (s.slot n).st == .waiting })) ∧
    ((s.slot n).st ≠ .saving → exec (.saveDone c) s = .next s) ∧
    ((s.slot n).st = .saving → (∀ i < 5, s.progAt n i = none) →
      (s.fenceDone c.val = false → exec (.saveDone c) s = .next s) ∧
      (s.fenceDone c.val = true → exec (.saveDone c) s = .next (s.saveWords n c.val x))) ∧
    ((∃ i < 5, s.progAt n i ≠ none) → (∃ i < 5, s.progAt n i ≠ some .done) → exec (.saveDone c) s = .next s) ∧
    ((s.slot n).st = .saving → (∀ i < 5, s.progAt n i = some .done) →
      let y := { s.slot n with ctx := none, saved := true, pc := x.pc }
      let gone := ((s.progDrop n).ownDrop (.code n)).setCtx c.val none
      let swaps := [(F.seqSwaps_COUNT, s.wrapped F.seqSwaps_COUNT 1)]
      (y.abort = true → ∃ v, (gone.setSlot n y).sets v swaps ∧
        exec (.saveDone c) s = .next (v.finish n ⟨true, 0x1A, 0, 0, x.pc, false⟩)) ∧
      (∀ e, y.abort = false → x.asyncTrap = some e → ∃ v, (s.progDrop n).sets v swaps ∧ exec (.saveDone c) s = .next (v.finish n e)) ∧
      (x.asyncTrap = none → y.abort = false → y.tokWait = true → s.onToken n = true → ∃ t, exec (.saveDone c) s = .next t ∧
        (gone.setSlot n { y with st := .swapped }).sets t swaps) ∧
      (x.asyncTrap = none → y.abort = false → y.tokWait = false ∨ s.onToken n = false → ∃ t, exec (.saveDone c) s = .next t ∧
        (({ gone with launchQ := s.launchQ ++ [n] } : State).setSlot n { y with st := .queued }).sets t swaps))) ∧
  (∀ (v : Word) (s : State), s.cpReady →
    ((∀ e ∈ s.slots, e.2.st = .free) → ∃ t, exec (.slotBaseWrite v) s = .next t ∧ t = { s.cpOk with regs := t.regs } ∧
      s.takesRw t A.seqSlotBase v) ∧
    ((∃ e ∈ s.slots, e.2.st ≠ .free) → ∃ t, exec (.slotBaseWrite v) s = .next t ∧
      s.cpOk.sets t [(F.seqStatus_BASE_REFUSED, 1)]))

/-- SLOT_FINISHED, SEQ_ABORT, CONTEXT_PARITY_ERROR, SLOT_ENTRY_PARITY_ERROR and TOKEN_WRITE (R309, R316 to R320, Tables 10.8,
10.10): a program that ends leaves the queues and its slot goes to FINISHING with how it ended; once its words and then its record
are written the slot is FREE, counted, and a trap or an asked-for end posts its event. An abort ends a program at once, or once it
is loaded or saved. A parity error of a context ends it with PARITY unless its record has been issued (the model's choice, log
entry 103), one of an entry too, and leaves the slot stuck. A token written serves its waiters in order while its value lasts. -/
def Obligations.ProgramsEnd : Prop :=
  (∀ (s : State) (n : Nat) (e : Ending), let t := s.finish n e
    t.slot n = { s.slot n with st := .finishing, fin := some e } ∧ n ∉ t.launchQ ∧
      (∀ k, ∀ q ∈ t.tokenQ k, q.slot ≠ n) ∧
      (∀ c x, (s.slot n).ctx = some c → s.ctx? c = some x → t.ctx? c = some { x with wait := none, cur := none, asyncTrap := none })) ∧
  (∀ (n : Fin 4096) (s : State), (s.slot n.val).st ≠ .finishing ∨ (s.slot n.val).wedged = true →
    exec (.slotFinished n) s = .next s) ∧
  (∀ (n : Fin 4096) (s u : State) (e : Ending), (s.slot n.val).st = .finishing → (s.slot n.val).wedged = false →
    (match (s.slot n.val).ctx with | some c => s.reapReqs n.val c | none => s) = u → (u.slot n.val).fin = some e →
    ((∃ c, (u.slot n.val).ctx = some c ∧ u.fenceDone c = false) → exec (.slotFinished n) s = .next u) ∧
    ((∀ c, (u.slot n.val).ctx = some c → u.fenceDone c = true) →
      exec (.slotFinished n) s = .next (u.finishWrites n.val (u.slot n.val) e))) ∧
  (∀ (n : Nat) (s : State) (sl : Slot) (e : Ending), let go := s.finishWrites n sl e
    let u := s.progDrop n
    let gone := fun (b : State) => ((match sl.ctx with | some c => b.setCtx c none | none => b).ownDrop (.code n)).setSlot n Slot.init
    (s.progAt n 5 = some .done → e.trapped = true → (gone (u.post 0x040D n (n + e.code * 2 ^ 16) (e.pc % 2 ^ 42))).sets go
      [(F.seqTraps_COUNT, s.wrapped F.seqTraps_COUNT 1)]) ∧
    (s.progAt n 5 = some .done → e.trapped = false → (gone (if sl.event then u.post 0x040C n n sl.seqnum else u)).sets go
      [(F.seqDone_COUNT, s.wrapped F.seqDone_COUNT 1)]) ∧
    (∀ r, s.progAt n 5 = some r → r ≠ .done → go = s) ∧
    (s.progAt n 5 = none → (∀ i < 5, s.progAt n i = none) →
      (∀ x, e.words = true → sl.ctx.bind s.ctx? = some x → go = s.saveWords n (sl.ctx.getD 0) { x with pc := e.pc }) ∧
      (e.words = false ∨ sl.ctx.bind s.ctx? = none → go = u.completionWrite n sl e)) ∧
    (s.progAt n 5 = none → e.words = true → (∀ i < 5, s.progAt n i = some .done) → go = u.completionWrite n sl e) ∧
    (∀ i < 5, ∀ r, s.progAt n 5 = none → e.words = true → s.progAt n i = some r → r ≠ .done → go = s)) ∧
  (∀ (n : Fin 4096) (s : State), s.cpReady → let sl := s.slot n.val
    (sl.wedged = true ∨ sl.st = .free ∨ sl.st = .finishing → exec (.seqAbort n) s = .next s.cpOk) ∧
    (∀ c x, sl.wedged = false → sl.st = .running ∨ sl.st = .waiting → sl.ctx = some c → s.ctx? c = some x →
      exec (.seqAbort n) s = .next (s.cpOk.finish n.val ⟨true, 0x1A, 0, 0, x.pc, true⟩)) ∧
    (sl.wedged = false → sl.st = .loading ∨ sl.st = .saving →
      exec (.seqAbort n) s = .next (s.cpOk.setSlot n.val { sl with abort := true })) ∧
    (sl.wedged = false → sl.st = .queued ∨ sl.st = .swapped →
      exec (.seqAbort n) s = .next (s.cpOk.finish n.val ⟨true, 0x1A, 0, 0, sl.heldPc, false⟩))) ∧
  (∀ (c : Fin 256) (s : State),
    (s.ctx? c.val = none → exec (.contextParityError c) s = .next s) ∧
    (∀ x, s.ctx? c.val = some x →
      ((s.slot x.slot).wedged = true ∨ s.progAt x.slot 5 ≠ none → exec (.contextParityError c) s = .next s) ∧
      ((s.slot x.slot).wedged = false → s.progAt x.slot 5 = none → exec (.contextParityError c) s =
        .next (s.finish x.slot ⟨true, 0x18, 0, 0, (s.slot x.slot).heldPc, false⟩)))) ∧
  (∀ (n : Fin 4096) (s : State), ∃ t, exec (.slotEntryParityError n) s = .next t ∧
    t.slot n.val = { s.slot n.val with st := .finishing, fin := some ⟨true, 0x18, 0, 0, 0, false⟩, wedged := true }) ∧
  (∀ (k : Fin 1024) (v : BitVec 32) (s : State), s.cpReady →
    ((∀ q l, s.tokenQ k.val = q :: l → v.toNat < q.n) → ∃ t, exec (.tokenWrite k v) s = .next t ∧
      s.cpOk.sets t [(F.seqToken_VALUE k.val, v.toNat)]) ∧
    (∀ q l, s.tokenQ k.val = q :: l → q.n ≤ v.toNat → ∃ u, s.cpOk.sets u [(F.seqToken_VALUE k.val, v.toNat - q.n)] ∧
      exec (.tokenWrite k v) s = .next (State.serveToken l.length k.val ((u.setTokenQ k.val l).tokenPass q.slot)))) ∧
  (∀ (s : State) (n : Nat), let sl := s.slot n
    (∀ c x, sl.st = .waiting → sl.ctx = some c → s.ctx? c = some x → s.tokenPass n =
      (s.setSlot n { sl with st := .running }).setCtx c (some ({ x with wait := none } : Ctx).advance)) ∧
    (sl.st = .swapped → s.tokenPass n = { s.setSlot n { sl with st := .queued } with launchQ := s.launchQ ++ [n] }) ∧
    (sl.st ≠ .waiting → sl.st ≠ .swapped → s.tokenPass n = s))

/-- WAIT_CADENCE, WAIT_CADENCE_RELEASE, WAIT_TOKEN, SIGNAL, SEQ_FENCE, SET_STREAM, SET_STREAM_LOAD, LOOP, BRANCH, END and TRAP
(R308 to R315): past its launch each has its effect, or waits for what it waits for; one that waits as a FENCE does is in progress
meanwhile. A trap of an ASYNC instruction that has waited prevails over END. -/
def Obligations.ProgramSteps : Prop :=
  (∀ (c : Fin 256) (s u : State) (x : Ctx) (w : Nat), s.launches c.val x w u →
    (insOp w = iWaitCadence →
      let target := ((if w.testBit 111 then x.tb else 0) + bitsOf w 63 0) % 2 ^ 64
      let y := if w.testBit 110 then { x with tb := target } else x
      (target ≤ u.cadence → exec (.waitCadence c) s = .next (u.setCtx c.val (some y.advance))) ∧
      (u.cadence < target → exec (.waitCadence c) s = .next
        ((u.setCtx c.val (some { y with wait := some (.cadence target), waitAt := u.cadence })).setSlot x.slot
          { u.slot x.slot with st := .waiting }))) ∧
    (insOp w = iWaitToken →
      let k := bitsOf w 111 102
      let n := bitsOf w 31 0
      (n = 0 → exec (.waitToken c) s = .next (u.setCtx c.val (some x.advance))) ∧
      (n ≠ 0 → u.tokenQ k ≠ [] ∨ u.fget (F.seqToken_VALUE k) < n → exec (.waitToken c) s = .next
        (((u.setCtx c.val (some { x with wait := some (.token k), waitAt := u.cadence })).setSlot x.slot
          { u.slot x.slot with st := .waiting }).setTokenQ k (u.tokenQ k ++ [⟨x.slot, n⟩]))) ∧
      (n ≠ 0 → u.tokenQ k = [] → n ≤ u.fget (F.seqToken_VALUE k) → (u.slot x.slot).ctx = some c.val →
        ∃ t, exec (.waitToken c) s = .next t ∧ t.fget (F.seqToken_VALUE k) = u.fget (F.seqToken_VALUE k) - n ∧ t.tokenQ k = [] ∧
          t.ctx? c.val = some ({ x with wait := none, waitAt := u.cadence } : Ctx).advance ∧
          t.slot x.slot = { u.slot x.slot with st := .running })) ∧
    (insOp w = iSetStream → w.testBit 111 = true → exec (.setStreamLoad c) s = .next
      ((u.setCtx c.val (some { x.busyWith w with wait := some .load })).streamCmd
        ⟨setStreamId x w, 1, w.testBit 110, false, some c.val, false⟩)) ∧
    (insOp w = iLoop →
      let n := if w.testBit 108 then x.creg (bitsOf w 111 109) else bitsOf w 39 0
      let body := bitsOf w 107 96
      (n ≠ 0 → exec (.seqLoop c) s = .next (u.setCtx c.val
        (some ({ x with loops := ⟨(x.pc + 16) % 2 ^ 42, body, n⟩ :: x.loops } : Ctx).advance))) ∧
      (n = 0 → exec (.seqLoop c) s = .next (u.setCtx c.val (some { x with
        pc := (nextPc false ((x.pc + 16 + 16 * body) % 2 ^ 42) x.loops).1
        loops := (nextPc false ((x.pc + 16 + 16 * body) % 2 ^ 42) x.loops).2 })))) ∧
    (insOp w = iBranch →
      let cn := bitsOf w 111 109
      let v := if w.testBit 105 then (x.creg cn + unsigned 40 (signed 24 (bitsOf w 103 80))) % 2 ^ 40 else x.creg cn
      let y := if w.testBit 105 then x.setC cn v else x
      let cmp := bitsOf w 79 40
      let cond := bitsOf w 108 106
      let taken := cond = 0 ∨ (cond = 1 ∧ v = cmp) ∨ (cond = 2 ∧ v ≠ cmp) ∨ (cond = 3 ∧ v < cmp) ∨ (4 ≤ cond ∧ cmp ≤ v)
      (taken → exec (.seqBranch c) s = .next (u.setCtx c.val
        (some (y.jump ((x.pc + 16 * sext42 24 (bitsOf w 23 0)) % 2 ^ 42))))) ∧
      (¬ taken → exec (.seqBranch c) s = .next (u.setCtx c.val (some y.advance)))) ∧
    (insOp w = iTrap → exec (.seqTrap c) s = .next
      (u.finish x.slot ⟨true, 0x8000 + bitsOf w 14 0, 0, 0, x.pc, true⟩))) ∧
  (∀ (c : Fin 256) (s u : State) (x : Ctx) (w : Nat), s.onward c.val x w u →
    (insOp w = iSignal →
      let k := bitsOf w 111 102
      let v := min (2 ^ 32 - 1) (u.fget (F.seqToken_VALUE k) + bitsOf w 31 0)
      (u.fenceDone c.val = false → exec (.seqSignal c) s = .next u) ∧
      (u.fenceDone c.val = true → exec (.seqSignal c) s = .next
        (((if flEvent w then u.post 0x040E c.val k v else u).setCtx c.val (some x.advance)).setToken k v))) ∧
    (insOp w = iFence →
      (u.fenceDone c.val = false → exec (.seqFence c) s = .next u) ∧
      (u.fenceDone c.val = true → exec (.seqFence c) s = .next (u.setCtx c.val (some x.advance)))) ∧
    (insOp w = iSetStream → w.testBit 111 = false →
      (u.fenceDone c.val = false → exec (.setStream c) s = .next u) ∧
      (u.fenceDone c.val = true → ∀ v r, u.streamOk c.val (setStreamId x w) (u.slot x.slot).mid = (v, r) →
        (r = none → exec (.setStream c) s = .next v) ∧
        (r = some true → exec (.setStream c) s = .next
          ((v.named (setStreamId x w)).setCtx c.val
            (some ({ x.setC (bitsOf w 105 103) 0 with stream := setStreamId x w } : Ctx).advance))) ∧
        (r = some false → exec (.setStream c) s = .next
          ((v.named (setStreamId x w)).setCtx c.val (some (x.setC (bitsOf w 105 103) 3).advance))))) ∧
    (insOp w = iEnd →
      (u.fenceDone c.val = false → exec (.seqEnd c) s = .next u) ∧
      (u.fenceDone c.val = true →
        (x.asyncTrap = none → exec (.seqEnd c) s = .next (u.finish x.slot ⟨false, 0, 0, 0, x.pc, true⟩)) ∧
        (∀ e, x.asyncTrap = some e → exec (.seqEnd c) s = .next (u.finish x.slot e))))) ∧
  (∀ (c : Fin 256) (s : State) (x : Ctx) (k : Nat), s.ctx? c.val = some x → (s.slot x.slot).st = .waiting → x.wait = some (.cadence k) →
    s.reaches k → exec (.waitCadenceRelease c) s = .next
      (((s.momentOf k).setCtx c.val (some ({ x with wait := none } : Ctx).advance)).setSlot x.slot
        { s.slot x.slot with st := .running })) ∧
  (∀ (x : Ctx) (l : LoopEnt) (ls : List LoopEnt), let n := (x.pc + 16) % 2 ^ 42
    (x.loops = [] → x.advance.pc = n ∧ x.advance.loops = []) ∧
    (x.loops = l :: ls → n = l.start + 16 * l.body → l.remaining ≠ 1 →
      x.advance.pc = l.start ∧ x.advance.loops = { l with remaining := l.remaining - 1 } :: ls) ∧
    (x.loops = l :: ls → n = l.start + 16 * l.body → l.remaining = 1 → (x.advance.pc, x.advance.loops) = nextPc false n ls) ∧
    (x.loops = l :: ls → l.start ≤ n → n < l.start + 16 * l.body → x.advance.pc = n ∧ x.advance.loops = l :: ls))

/-- MOVE, FILL, GATHER, SCATTER, REWRITE, CHECK, GATE_SWAP and SEQ_REQUEST_FAILED (R298 to R304, R307, R311): launched or in
progress, each takes the answers, issues its requests and ends when all it issued is answered; a failed request traps it. A
request is the largest aligned power of two of atoms, at most 64. INC advances each register by its extent. An index out of bound
or poisoned traps its element. CHECK holds its unit, whose RESULT takes the value, and writes the value or compares it; GATE_SWAP
arms the list it has read, and a pending swap or a poisoned list is its outcome. -/
def Obligations.DataInstructions : Prop :=
  (∀ (i : Instr) (c op : Nat) (s b : State) (x : Ctx) (w : Nat), i.dataOp? = some (c, op) → s.onward c x w b → insOp w = op →
    let v := b.advanceData c
    (v.inProgress c (fun w => insOp w == op) = none → exec i s = .next v) ∧
    (∀ y k, v.inProgress c (fun w => insOp w == op) = some (y, k) →
      (v.dataDone c y k = false → exec i s = .next v) ∧
      (v.dataDone c y k = true → exec i s = .next (v.setCtx c (some (y.complete k.word.toNat)))))) ∧
  (∀ (i : Instr) (c op : Nat) (s : State), i.dataOp? = some (c, op) → s.ctx? c = none → exec i s = .next s) ∧
  (∀ a n : Nat, 64 ≤ n → a % 64 = 0 → let m := splitCode a n
    m ≤ 6 ∧ 64 * 2 ^ m ≤ n ∧ a % (64 * 2 ^ m) = 0 ∧ ∀ j ≤ 6, 64 * 2 ^ j ≤ n → a % (64 * 2 ^ j) = 0 → j ≤ m) ∧
  (∀ (x : Ctx) (w : Nat), insOp w = iMove → flInc w = true → fR1 w ≠ fR2 w → x.a.length = 16 → insLen x w ≠ 0 →
    (x.incAll w).areg (fR1 w) = (x.areg (fR1 w) + insLen x w) % 2 ^ 42 ∧
    (x.incAll w).areg (fR2 w) = (x.areg (fR2 w) + insLen x w) % 2 ^ 42 ∧
    ∀ i < 16, i ≠ fR1 w → i ≠ fR2 w → (x.incAll w).areg i = x.areg i) ∧
  (∀ (s : State) (c : Nat) (x : Ctx) (k : Cur) (j v : Nat), k.index j = some v →
    (x.creg (fCb k.word.toNat) ≤ elemSize k.word.toNat * v → s.indexTrap c x k j = some ⟨0x13, j, v⟩) ∧
    (elemSize k.word.toNat * v < x.creg (fCb k.word.toNat) → s.indexTrap c x k j = none)) ∧
  (∀ (c : Fin 256) (s : State),
    (∀ x t, s.ctx? c.val = some x → s.ctxFailed c.val = some t → (s.slot x.slot).st = .running →
      exec (.seqRequestFailed c) s = .next (s.finish x.slot ⟨true, t.code, t.arg0, t.arg1, x.pc, true⟩)) ∧
    (s.ctx? c.val = none ∨ s.ctxFailed c.val = none → exec (.seqRequestFailed c) s = .next s)) ∧
  (∀ (c : Fin 256) (s b : State),
    ((∃ u x w, s.launches c.val x w u ∧ insOp w = iCheck ∧ (u.slot x.slot).st = .running ∧
        b = (((u.chkLatch (checkUnitOf w) (.heldSeq c.val) (bitsOf w 101 100)).chkOwner (checkUnitOf w) 2 c.val).chkLast
          (checkUnitOf w) 0).setCtx c.val (some (x.busyWith w))) ∨
      (∃ x k, s.ctx? c.val = some x ∧ x.cur = some k ∧ (s.slot x.slot).st = .running ∧ insOp k.word.toNat = iCheck ∧ b = s)) →
    let v := (b.advanceData c.val).forEach (List.range 64) fun s _ => s.feed1 c.val
    (v.inProgress c.val (fun w => insOp w == iCheck) = none → exec (.seqCheck c) s = .next v) ∧
    (∀ y k, v.inProgress c.val (fun w => insOp w == iCheck) = some (y, k) →
      ((v.ctxFailed c.val).isSome = true ∨ k.wpos ≠ dataLen y k.word.toNat / 64 → exec (.seqCheck c) s = .next v) ∧
      (v.ctxFailed c.val = none → k.wpos = dataLen y k.word.toNat / 64 →
        exec (.seqCheck c) s = .next (v.checkResult c.val y k)))) ∧
  (∀ (s : State) (c : Nat) (x : Ctx) (k : Cur), k.stored = none → let u := checkUnitOf k.word.toNat
    let v := (s.chk u).result
    let a := x.areg (fR1 k.word.toNat)
    (s.mayIssue c x = false → s.checkResult c x k = s) ∧
    (s.mayIssue c x = true → ∃ b, s.sets b [(F.chkResult_VALUE u, v % 2 ^ 64)] ∧
      (k.word.toNat.testBit 99 = true → s.checkResult c x k =
        (b.ctxIssue c x roleCompare opRead a 0 0 0 0 false false).modCur c fun k => { k with stored := some v }) ∧
      (k.word.toNat.testBit 99 = false → s.checkResult c x k =
        (b.ctxIssue c x roleWrite opWrite a 0 0 (BitVec.ofNat 32768 v) 0 false false).modCur c fun k => { k with stored := some v }))) ∧
  (∀ (s : State) (c : Nat) (x : Ctx) (k : Cur) (v : Nat), k.stored = some v → let u := checkUnitOf k.word.toNat
    let a := x.areg (fR1 k.word.toNat)
    let ended := fun (b t : State) => ((b.setChk u Chk.init).setCtx c (some (x.complete k.word.toNat))).sets t
      [(F.chkStatus_OWNER u, 0), (F.chkStatus_OWNER_ID u, 0)]
    (s.ctxReqs c = [] → ended s (s.checkResult c x k)) ∧
    (∀ id r l, s.ctxReqs c = (id, r) :: l → r.origin = roleCompare → r.decided = true → let z := r.res.getD 0 (.of .ok)
      (z.st = .poison → s.checkResult c x k = (s.dropReq id).trapNow c ⟨0x16, a, 0⟩) ∧
      (z.st ≠ .poison → z.data.toNat % 2 ^ 64 % 2 ^ (s.chk u).width = v → ended (s.dropReq id) (s.checkResult c x k)) ∧
      (z.st ≠ .poison → z.data.toNat % 2 ^ 64 % 2 ^ (s.chk u).width ≠ v →
        s.checkResult c x k = (s.dropReq id).trapNow c ⟨0x17, v, z.data.toNat % 2 ^ 64⟩))) ∧
  (∀ (c : Fin 256) (s b : State) (x0 : Ctx) (w : Nat), s.onward c.val x0 w b → insOp w = iGateSwap →
    let v := b.advanceData c.val
    (v.inProgress c.val (fun w => insOp w == iGateSwap) = none → exec (.gateSwap c) s = .next v) ∧
    (∀ y k, v.inProgress c.val (fun w => insOp w == iGateSwap) = some (y, k) →
      (v.dataDone c.val y k = false → exec (.gateSwap c) s = .next v) ∧
      (v.dataDone c.val y k = true → ∃ x r, v.gateSwapAct y k = (x, r) ∧ exec (.gateSwap c) s =
        .next (x.setCtx c.val (some (y.setC (bitsOf k.word.toNat 103 101) r).advance)) ∧
        let g := fR2 k.word.toNat
        (v.flag (F.trfGateStatus_PENDING g) = true → v.cadence < (v.arm g).t → x = v ∧ r = 2) ∧
        (v.flag (F.trfGateStatus_PENDING g) = false → (∃ e ∈ k.got, e.2.2 = true) → x = v ∧ r = 4))))

/-- NMU_UPDATE, NMU_REDUCE, NMU_CAST, NMU_WORK_ATOM, NMU_INSTRUCTION_DONE, ATOMIC_ADD_NMU, NMU_PARITY_ERROR, NMU_OFFLINE and
NMU_WATCHDOG (R305, R306, R331, R333, R335, R338, R347 to R352, Table 11.11): an instruction past its launch becomes a job, ASYNC
ones letting their context go on; an NMU_UPDATE reads its parameter block; a work atom is begun in its turn by the NMU that serves
it, computed once its operands are read and done once its writes are visible; the instruction ends when its last work atom is
done. A parity error, a command or the watchdog takes an NMU out of service: its shares pass on, and with none left at the stack
the instructions with work there halt. An atomic-add-beside with no NMU to serve it is denied. -/
def Obligations.NmuWork : Prop :=
  (∀ (i : Instr) (c op : Nat) (s b : State) (x : Ctx) (w : Nat), i.nmuOp? = some (c, op) → s.onward c x w b → insOp w = op →
    let j := newJob c x w b.cadence
    let waits := if flAsync w then 4 ≤ ((b.ctxJobs c).filter fun e => e.2.async).length else ∃ e ∈ b.ctxJobs c, e.2.async = false
    (waits → exec i s = .next b) ∧
    (¬ waits →
      (∀ k < j.atoms, b.servingAt (j.atomAt k) = none → (∀ i < k, b.servingAt (j.atomAt i) ≠ none) →
        exec i s = .next (b.trapNow c ⟨0x15, j.atomAt k, 3⟩)) ∧
      ((∀ k < j.atoms, b.servingAt (j.atomAt k) ≠ none) →
        let u : State := { b with jobs := SMap.insert b.jobs b.nextJob j, nextJob := b.nextJob + 1 }
        let t := if flAsync w then u.setCtx c (some (x.complete w)) else u
        (op ≠ iUpdate → exec i s = .next t) ∧ (op = iUpdate → exec i s = .next (t.paramGo b.nextJob))))) ∧
  (∀ (s : State) (id : Nat) (j : Job), SMap.get? s.jobs id = some j → let p := j.upd.p
    (insOp j.w ≠ iUpdate ∨ j.params ≠ none → s.paramGo id = s) ∧
    (insOp j.w = iUpdate → j.params = none →
      (s.servingAt p = none → s.paramGo id = s.jobTrap id j ⟨0x15, j.atomAt 0, 3⟩) ∧
      (∀ m, s.servingAt p = some m →
        (s.ownFind (.param id) = none → s.paramGo id = s.nmuIssue (.param id) m m j .read p [] []) ∧
        (∀ r, s.has (.param id) r .blocked → s.paramGo id = s) ∧
        (∀ r d, s.has (.param id) r (.data d false) → s.paramGo id =
          ({ s.dropReq r with jobs := SMap.insert s.jobs id { j with params := some d } } : State)) ∧
        (∀ r d, s.has (.param id) r (.data d true) → s.paramGo id = (s.dropReq r).jobTrap id j ⟨0x15, p, 2⟩) ∧
        (∀ r, s.has (.param id) r .denied → s.paramGo id = (s.dropReq r).jobTrap id j ⟨0x10, p, 2⟩) ∧
        (∀ r, s.has (.param id) r .lost → s.paramGo id = (s.dropReq r).jobTrap id j ⟨0x11, p, 0⟩)))) ∧
  (∀ (n : Fin 32) (id k : Nat) (s : State),
    (s.coreOn = false → exec (.nmuWorkAtom n id k) s = .next s) ∧
    (s.coreOn = true → s.noneLeaving → s.dogRests n.val →
      (SMap.get? s.jobs id = none → exec (.nmuWorkAtom n id k) s = .next s) ∧
      (∀ j, SMap.get? s.jobs id = some j → j.ready = true →
        let l := s.locOf (j.atomAt k)
        let turn := s.nmuTurnIs n.val (l.lpc % 4)
        let reads := (j.reads k).eraseDups
        (s.nmuItem n.val = some (id, k) → exec (.nmuWorkAtom n id k) s = .next (s.itemGo n.val id k j)) ∧
        (s.nmuItem n.val ≠ some (id, k) →
          (j.atoms ≤ k ∨ j.done.contains k = true ∨ s.jobWaits id j l.stack = true → exec (.nmuWorkAtom n id k) s = .next s) ∧
          (k < j.atoms → j.done.contains k = false → s.jobWaits id j l.stack = false →
            (s.serving l.stack (l.lpc % 4) = none →
              exec (.nmuWorkAtom n id k) s = .next (s.jobTrap id j ⟨0x15, j.atomAt ((s.undoneAt j l.stack).getD k), 3⟩)) ∧
            ((∃ m, s.serving l.stack (l.lpc % 4) = some m ∧ (m ≠ n.val ∨ turn = false)) → exec (.nmuWorkAtom n id k) s = .next s) ∧
            (s.serving l.stack (l.lpc % 4) = some n.val → turn = true →
              let u : State := { s with nmuTurn := SMap.put s.nmuTurn 4 n.val (l.lpc % 4) }
              (u.unserved n.val reads = true → exec (.nmuWorkAtom n id k) s = .next (u.jobTrap id j ⟨0x15, j.atomAt k, 3⟩)) ∧
              (u.unserved n.val reads = false → exec (.nmuWorkAtom n id k) s = .next (u.forEach reads.zipIdx fun s e =>
                s.nmuIssue (.nmuRead id k e.2) n.val ((s.accessor n.val e.1).getD n.val) j .read e.1 [] [])))))))) ∧
  (∀ (n id k : Nat) (j : Job) (reads : List Nat) (v : View) (s : State),
    let x := j.work v k
    let j' := j.after k x (s.sampled j (k * j.per / 256))
    let o := s.opened j (gather x.res ++ j'.lastWrite)
    let t := s.itemCompute n id k j reads v
    (s.unserved n (o.2.map (·.addr)) = true → t = s.jobTrap id j ⟨0x15, j.atomAt k, 3⟩) ∧
    (s.unserved n (o.2.map (·.addr)) = false →
      SMap.get? t.jobs id = some (if o.2 = [] then { j' with done := j'.done ++ [k] } else j') ∧
      ∀ e ∈ o.2.zipIdx, ∃ r ∈ t.reqs, r.2.src = .own (.nmuWrite id k e.2) ∧ r.2.addr = e.1.addr)) ∧
  (∀ (n id k : Nat) (j : Job) (s : State), let reads := (j.reads k).eraseDups
    let l := s.itemReads id k reads
    let reading := ∃ e ∈ s.reqs, e.2.readsWork id (some k) = true
    let wrote := (s.reqs.filter fun e => e.2.writesWork id k).map fun e => (e.2.addr, e.2.direct)
    (reading → (∃ e ∈ l, e.2 = .blocked) → s.itemGo n id k j = s) ∧
    (reading → (∀ e ∈ l, e.2 ≠ .blocked) → let u := s.readsDrop id (some k)
      (accessTrap l = none → s.itemGo n id k j = u.itemCompute n id k j reads (l.map fun e => (e.1, e.2.atom))) ∧
      (∀ t, accessTrap l = some t → t.code ≠ 0x15 → s.itemGo n id k j = u.jobTrap id j t) ∧
      (∀ t, accessTrap l = some t → t.code = 0x15 → ∃ x, u.sets x [(F.nmuHalts_COUNT n, u.wrapped (F.nmuHalts_COUNT n) 1)] ∧
        s.itemGo n id k j = x.jobTrap id j t)) ∧
    (¬ reading → (∃ e ∈ wrote, e.2 = .blocked) → s.itemGo n id k j = s) ∧
    (¬ reading → (∀ e ∈ wrote, e.2 ≠ .blocked) →
      let u : State := { s with reqs := s.reqs.filter fun e => !e.2.writesWork id k }
      (∀ t, accessTrap wrote = some t → s.itemGo n id k j = u.jobTrap id j t) ∧
      (accessTrap wrote = none → ∃ t, s.itemGo n id k j = t ∧ SMap.get? t.jobs id = some { j with done := j.done ++ [k] } ∧
        t = { u with regs := t.regs, jobs := t.jobs }))) ∧
  (∀ (id : Nat) (s : State),
    (SMap.get? s.jobs id = none → exec (.nmuInstructionDone id) s = .next s) ∧
    (∀ j, SMap.get? s.jobs id = some j → let u := ((s.dropJob id).noteDiverge j).noteUnderflow j
      (j.done.length < j.atoms → exec (.nmuInstructionDone id) s = .next s) ∧
      (j.atoms ≤ j.done.length → j.async = true ∨ (u.slot j.slot).st ≠ .running → exec (.nmuInstructionDone id) s = .next u) ∧
      (∀ x, j.atoms ≤ j.done.length → j.async = false → (u.slot j.slot).st = .running → u.ctx? j.ctx = some x →
        exec (.nmuInstructionDone id) s = .next (u.setCtx j.ctx (some (x.complete j.w)))))) ∧
  (∀ (k : Fin 8) (p : Fin 64) (s : State), s.noneLeaving →
    ((∀ q ∈ (s.pcc k.val p.val).buf, q.addable = false) → exec (.atomicAddNmu k p) s = .next s) ∧
    (∀ q, (s.pcc k.val p.val).buf.find? Piece.addable = some q →
      (s.serving k.val (q.lpc % 4) = none → exec (.atomicAddNmu k p) s = .next (s.addDenied k.val p.val q)) ∧
      (∀ n e l, s.serving k.val (q.lpc % 4) = some n → s.dogRests n → q.got = e :: l →
        (s.nmuTurnIs n 4 = true → exec (.atomicAddNmu k p) s = .next (s.addAtom k.val p.val n q e)) ∧
        (s.nmuTurnIs n 4 = false → exec (.atomicAddNmu k p) s = .next s)))) ∧
  (∀ (n : Fin 32) (s : State), s.noneLeaving →
    let can := s.build.nmus = true ∧ s.fget (F.nmuStatus_STATE n.val) = 0 ∧ n.val / 4 < s.build.nStacks
    (¬ can → exec (.nmuParityError n) s = .next s) ∧
    (can → ∃ u, s.sets u [(F.nmuParityErrs_COUNT n.val, s.wrapped (F.nmuParityErrs_COUNT n.val) 1)] ∧
      exec (.nmuParityError n) s = .next (u.nmuLeave n.val 1 1)) ∧
    (s.cpReady →
      (s.build.nmus = false ∨ s.build.nStacks ≤ n.val / 4 → exec (.nmuOffline n) s = .next s.cpOk) ∧
      (s.build.nmus = true → n.val / 4 < s.build.nStacks → ∃ u, s.cpOk.sets u [(F.nmuCtl_OFFLINE n.val, 1)] ∧
        (s.fget (F.nmuStatus_STATE n.val) = 0 → s.nmuItem n.val = none → exec (.nmuOffline n) s = .next (u.nmuLeave n.val 3 3)) ∧
        (s.fget (F.nmuStatus_STATE n.val) ≠ 0 ∨ s.nmuItem n.val ≠ none → exec (.nmuOffline n) s = .next u))) ∧
    (s.itemsSince n.val = [] ∨ s.fget (F.nmuCfg_WATCHDOG n.val) = 0 ∨ s.fget (F.nmuStatus_STATE n.val) ≠ 0 ∨ s.nmuHeld n.val = true →
      exec (.nmuWatchdog n) s = .next s) ∧
    (∀ a l, s.itemsSince n.val = a :: l → s.fget (F.nmuCfg_WATCHDOG n.val) ≠ 0 → s.fget (F.nmuStatus_STATE n.val) = 0 →
      s.nmuHeld n.val = false →
      let due := max (SMap.get s.nmuSince 0 n.val) (l.foldl min a) + s.fget (F.nmuCfg_WATCHDOG n.val) * 1024
      s.reaches due → let u := (s.momentOf due).haltJobs 4 ((s.momentOf due).workOf n.val)
      (u.jobs = s.jobs → exec (.nmuWatchdog n) s = .next (u.nmuLeave n.val 2 2)) ∧
      (u.jobs ≠ s.jobs → ∃ v, u.sets v [(F.nmuHalts_COUNT n.val, u.wrapped (F.nmuHalts_COUNT n.val) (s.jobs.length - u.jobs.length))] ∧
        exec (.nmuWatchdog n) s = .next (v.nmuLeave n.val 2 2)))) ∧
  (∀ (n : Fin 32) (s : State) (st cause m : Nat), st < 4 → st ≠ 0 →
    (∃ d ∈ [1, 2, 3], m = 4 * (n.val / 4) + (n.val % 4 + d) % 4 ∧ s.fget (F.nmuStatus_STATE m) = 0 ∧
      ∀ e < d, 0 < e → s.fget (F.nmuStatus_STATE (4 * (n.val / 4) + (n.val % 4 + e) % 4)) ≠ 0) →
    let t := s.nmuLeave n.val st cause
    t.fget (F.nmuStatus_STATE n.val) = st ∧ t.fget (F.nmuStatus_SERVES n.val) = 0 ∧
      t.events = (s.post 0x030B (unitPc (n.val / 4) 0) (n.val + cause * 2 ^ 8) m).events ∧ t.jobs = s.jobs)

/-- PWR_ACTIVE, PWR_QUIET, PWR_RETAIN, PWR_OFF, PWR_CMD_RESERVED, QUIET_ENTRY_DONE, PAD_RELEASE, JOINT_TIMEOUT, SIBLING_READY,
WAKE_N, WAKE_EDGE, DRONE_ALARM, SIBLING_WAKE, CADENCE_PLL_LOCK, CORE_SUPPLY_LOST, DRONE_SUPPLY_LOST, DRONE_POWER_ON and
SLOWCLK_STOPPED (R373 to R394, Tables 13.1 to 13.4, 13.6): QUIET, RETAIN and OFF are entered when no condition of R374 fails, else
the first that fails is the REASON; the exit from QUIET; the steps of the entry to RETAIN, its image, the wait for the sibling and
the SLOWCLK edge that ends it; OFF without an image; a wake source that is enabled leaves QUIET, RETAIN or OFF and is held during
an entry, an edge after the pads are latched being lost; at the next tick after the lock the counter and the image come back,
before the pads are released and the checks begin; the supplies. An entry that waits for what is under way is looked at again by
the commands that end it (the model's choice, log entry 50). -/
def Obligations.PowerStates : Prop :=
  (∀ s : State, s.cpReady → let u := s.cpOk
    let refused := fun (c : Instr) (r : Nat) => ∃ t, exec c s = .next t ∧ u.sets t [(F.pwrState_REFUSED, 1), (F.pwrState_REASON, r)]
    (∀ q, u.pwrReason q = 0 ↔ (u.power = .active ∧ (∀ n < 113, u.flag (F.glbPortCfg_EN n) = false ∧ u.outstanding n = 0) ∧
      (∀ e ∈ u.slots, e.2.st = .free) ∧ (∀ i < 4, (u.chk i).st = .idle) ∧ (∀ k < u.build.nStacks, u.stackBusy k = false ∧
        (q = true → u.flag (F.migStatus_ACTIVE k) = false) ∧ u.flag (F.pcmapEdit_EDIT k) = false) ∧
      (u.flag F.pwrCfg_JOINT = true → u.flag F.glbBridgeStatus_UP = true))) ∧
    (u.pwrReason true ≠ 0 → refused .pwrQuiet (u.pwrReason true)) ∧
    (u.pwrReason false ≠ 0 → refused .pwrRetain (u.pwrReason false) ∧ refused .pwrOff (u.pwrReason false)) ∧
    (u.pwrReason true = 0 → ∃ t, exec .pwrQuiet s = .next t ∧ t = { u with power := .quietEntry, regs := t.regs } ∧
      ∀ k < u.build.nStacks, t.flag (F.bowStatus_SCRUB k) = false) ∧
    (u.pwrReason false = 0 → exec .pwrRetain s = .next (u.entryBegin false) ∧ exec .pwrOff s = .next (u.entryBegin true)) ∧
    (u.pwrReason false = 0 → u.bowRests = true → u.cache = [] → u.misses = [] →
      ∃ t, exec .pwrOff s = .next t ∧ t.power = .off ∧ t.image = none ∧ t.dram = [] ∧ t.cadence = 0) ∧
    (u.power = .quiet → exec .pwrActive s = .next (u.quietExit 0)) ∧ (u.power ≠ .quiet → refused .pwrActive 1) ∧
    (∀ op, refused (.pwrCmdReserved op) 1) ∧
    (∀ env, u.power ≠ .restored → refused (.padRelease env) 1) ∧
    (∀ env, u.power = .restored → ∃ t, exec (.padRelease env) s = .next t ∧ t.flag F.pwrState_PADS_LATCHED = false ∧
      (t.power = .checking ∨ t.power = .active))) ∧
  (∀ s : State,
    (s.power ≠ .entering → s.retainProceed = s) ∧
    (∀ off, s.bowRests = false → ∃ t, s.entryBegin off = t ∧ t = { s with
        power := .entering, regs := t.regs, drone := { s.drone with held := 0, step := 1, toOff := off, locked := none } } ∧
      ∀ k < s.build.nStacks, t.flag (F.bowStatus_SCRUB k) = false) ∧
    (s.drone.step = 1 → s.bowRests = true → s.entryNext = s.flushStreams.entryStep 2) ∧
    (s.drone.step = 2 → s.streamsGone = true → s.drone.toOff = true → s.entryNext = s.goOff) ∧
    (s.drone.step = 2 → s.streamsGone = true → s.drone.toOff = false →
      s.entryNext = (s.forEach s.stacks fun s k => s.flushLines k).entryStep 3) ∧
    (s.drone.step = 3 → (∀ k < s.build.nStacks, s.stackEmpty k = true ∧ s.linesClean k = true) →
      s.entryNext = (s.forEach s.stacks fun s k => s.canaryWrite k).entryStep 4) ∧
    ((s.drone.step = 1 ∧ s.bowRests = false) ∨ (s.drone.step = 2 ∧ s.streamsGone = false) ∨
      (s.drone.step = 3 ∧ ∃ k < s.build.nStacks, s.stackEmpty k = false) ∨ 4 < s.drone.step ∨
      (s.drone.step = 4 ∧ ∃ k < s.build.nStacks, s.canaryRuns k = true ∨ s.stackEmpty k = false) → s.entryNext = s) ∧
    (s.drone.step = 4 → (∀ k < s.build.nStacks, s.canaryRuns k = false ∧ s.stackEmpty k = true) →
      let d : Drone := { s.drone with cLast := s.cadence, step := 6 }
      (s.flag F.pwrCfg_JOINT = true → s.drone.sibReady = false →
        s.entryNext = { s with image := some s.makeImage, drone := { d with joint := some s.cadence } }) ∧
      (s.flag F.pwrCfg_JOINT = false ∨ s.drone.sibReady = true → ∃ t, s.entryNext = t ∧
        ({ s with image := some s.makeImage, drone := { d with step := 7, joint := none, sibReady := false } } : State).sets t
          [(F.pwrState_PADS_LATCHED, 1)])) ∧
    (∀ rtc, s.drone.held = 0 → ∃ t, s.retainEnd rtc = t ∧ t.power = .retain ∧ t.drone.rEntry = rtc ∧ t.drone.cEntry = s.cadence ∧
      t.image = s.image ∧ t.cache = [] ∧ t.slots = [] ∧ t.pccs = [] ∧ t.dram = s.dram) ∧
    (∀ rtc, s.drone.held ≠ 0 → (s.retainEnd rtc).power = .waking ∧ (s.retainEnd rtc).drone.held = 0) ∧
    (∀ rtc edge, (s.power = .entering → edge = true → s.slowTick rtc edge = s.retainEnd rtc) ∧
      (s.power = .entering → edge = false → s.slowTick rtc edge = s) ∧
      (∀ env, s.power = .waking → s.drone.locked = some env → s.slowTick rtc edge = s.wakeTick rtc env) ∧
      (s.power = .waking → s.drone.locked = none → s.slowTick rtc edge = s) ∧
      (s.power ≠ .entering → s.power ≠ .waking → s.slowTick rtc edge = s))) ∧
  (∀ s : State,
    (s.power = .quiet → s.started = s.quietExit 0) ∧ (s.power ≠ .quiet → s.started = s) ∧
    (∀ src, (s.quietExit src).power = .active ∧ (s.quietExit src).fget F.pwrWakeStatus_SOURCES = src % 16 ∧
      (s.quietExit src).fget F.pwrWakeStatus_FROM = 1 ∧ (s.quietExit src).events = (s.post 0x0414 0 (src + 16) 0).events) ∧
    (s.power ≠ .quietEntry ∨ s.bowRests = false ∨ (∃ k < s.build.nStacks, s.stackRests k = false) →
      exec .quietEntryDone s = .next s) ∧
    (s.power = .quietEntry → s.bowRests = true → (∀ k < s.build.nStacks, s.stackRests k = true) →
      ∃ t, exec .quietEntryDone s = .next t ∧
      t = { s with power := .quiet, regs := t.regs, pccs := t.pccs } ∧ t.fget (F.pwrEnt_COUNT 1) = s.wrapped (F.pwrEnt_COUNT 1) 1 ∧
      ∀ k < s.build.nStacks, ∀ p < 64, ∀ b < 64, ((s.pcc k p).bank b).st = .openIdle →
        ((t.pcc k p).bank b).st = .closed ∧ ((t.pcc k p).bank b).row = none) ∧
    (s.drone.joint = none → exec .jointTimeout s = .next s) ∧
    (∀ t, s.drone.joint = some t → let due := t + max 1 (s.fget F.pwrCfg_JOINT_TO) * 1000
      s.reaches due → ∃ u, (s.momentOf due).sets u [(F.pwrWakeStatus_JOINT_ALONE, 1)] ∧
        exec .jointTimeout s = .next u.padsLatch) ∧
    (s.build.bridge = true → s.power = .entering → s.drone.joint ≠ none → exec .siblingReady s = .next s.padsLatch) ∧
    (s.build.bridge = true → s.power ≠ .entering ∨ s.drone.joint = none → s.coreOn = true →
      exec .siblingReady s = .next { s with drone := { s.drone with sibReady := true } }) ∧
    (s.build.bridge = false → exec .siblingReady s = .next s ∧ ∀ env, exec (.siblingWake env) s = .next s) ∧
    (s.alarmHolds = false → ∀ env, exec (.droneAlarm env) s = .next s)) ∧
  (∀ (c : Instr) (src : Nat) (env : TrainEnv) (s : State), (c = .wakeN env ∧ src = 1) ∨ (c = .wakeEdge env ∧ src = 2) ∨
      (c = .droneAlarm env ∧ src = 4 ∧ s.alarmHolds = true) ∨ (c = .siblingWake env ∧ src = 8 ∧ s.build.bridge = true) →
    (src &&& s.fget F.pwrCfg_WAKE_EN = 0 → exec c s = .next s) ∧
    (src &&& s.fget F.pwrCfg_WAKE_EN ≠ 0 →
      (s.power = .quiet → exec c s = .next (s.quietExit (s.wakeSources src))) ∧
      (s.power = .entering → s.drone.step = 7 → src = 2 ∨ src = 8 → exec c s = .next s) ∧
      (s.power = .entering → s.drone.step ≠ 7 ∨ (src ≠ 2 ∧ src ≠ 8) →
        exec c s = .next { s with drone := { s.drone with held := s.drone.held ||| src } }) ∧
      (s.power = .retain → exec c s = .next { s with
        power := .waking, drone := { s.drone with waking := s.wakeSources src, held := 0 } }) ∧
      (s.power = .off → s.drone.supplied = false → exec c s = .next s) ∧
      (s.power = .off → s.drone.supplied = true → ∃ u, exec c s = .next (u.fullReset 3 env) ∧
        s.sets u [(F.pwrWakeStatus_SOURCES, s.wakeSources src % 16), (F.pwrWakeStatus_FROM, 3)]) ∧
      (s.power ≠ .quiet → s.power ≠ .entering → s.power ≠ .retain → s.power ≠ .off → exec c s = .next s))) ∧
  (∀ (env : TrainEnv) (s : State),
    (s.power = .waking → exec (.cadencePllLock env) s =
      .next { s with drone := { s.drone with locked := some (s.drone.locked.getD env) } }) ∧
    (s.power ≠ .waking → s.cpUp = false → exec (.cadencePllLock env) s = .next s) ∧
    (s.power ≠ .waking → s.cpUp = true → ∃ t, exec (.cadencePllLock env) s = .next t ∧ s.sets t [(F.glbCadStatus_LOCKED, 1)]) ∧
    (∀ i rtc, s.image = some i → ∃ t, s.wakeTick rtc env = t ∧ t.power = .restored ∧ t.image = none ∧
      t.windows = i.windows ∧ t.cadence = (s.cadenceOnWake rtc).1 ∧ t.flag F.pwrState_PADS_LATCHED = true) ∧
    (∀ rtc, s.image = none → ∃ u, s.wakeTick rtc env = u.fullReset 4 env ∧
      s.sets u [(F.pwrWakeStatus_SOURCES, s.drone.waking % 16), (F.pwrWakeStatus_FROM, 2), (F.pwrWakeStatus_RESTORE_FAIL, 1)]) ∧
    (∀ rtc, let ticks := (rtc + 2 ^ 48 - s.drone.rEntry) % 2 ^ 48
     let num := ticks * 1953125 + s.fget F.pwrCadFrac_FRAC
     let v := (s.drone.cEntry + num / 64) % 2 ^ 64
     (s.drone.cLast < v → s.cadenceOnWake rtc = (v, num % 64)) ∧
     (v ≤ s.drone.cLast → s.cadenceOnWake rtc = (s.drone.cLast + 1, num % 64)))) ∧
  (∀ s : State,
    (s.power = .dead ∨ s.power = .off →
      exec .coreSupplyLost s = .next { s with drone := { s.drone with supplied := false } }) ∧
    (s.power ≠ .dead → s.power ≠ .off → ∃ t, exec .coreSupplyLost s = .next t ∧ t.power = .off ∧ t.drone.supplied = false ∧
      t.image = none ∧ t.dram = [] ∧ t.ports = []) ∧
    (∃ t, exec .droneSupplyLost s = .next t ∧ t.power = .dead ∧ t.image = none ∧ t.dram = [] ∧
      ∀ a, t.reg a = RegFile.reset a) ∧
    (s.power ≠ .dead → exec .dronePowerOn s = .next s) ∧
    (s.power = .dead → ∃ t, exec .dronePowerOn s = .next t ∧ t.power = .off ∧ t.image = none ∧
      t.drone = Drone.init s.drone.supplied ∧ t.fget (F.pwrEnt_COUNT 3) = 1) ∧
    (s.power = .dead → exec .slowclkStopped s = .next s) ∧
    (s.power ≠ .dead → ∃ t, exec .slowclkStopped s = .next t ∧
      ({ s with drone := { s.drone with runTicks := 0 } } : State).sets t [(F.pwrRoCal_STOPPED, 1)]))

/-- THERMAL_SAMPLE, LC_CMD, FUSE_PROGRAM_DONE, TRIM_RELOAD and TRIM_COMMIT (R395 to R414, Tables 14.1 to 14.5): a sample counts
the tick, converts, trips once at 110.0 °C, closes a window outside 0 to 100 °C, sets levels at 85 and 95 °C and lowers them with
HYST, and watches the thermistors. An LC_CMD goes only forward; its fuses are blown when programming is done. RELOAD takes the
fused trims into the shadows; COMMIT applies what differs once the stacks concerned are drained. -/
def Obligations.ThermalAndFuses : Prop :=
  (∀ (d : List Conv) (r : List (BitVec 16)) (ro : BitVec 16) (s : State),
    (s.power = .dead → exec (.thermalSample d r ro) s = .next s) ∧
    (s.power ≠ .dead → let edge := decide (s.drone.step = 7 ∧ (ro ≠ 0 ∨ s.flag F.pwrRoCal_STOPPED = false))
      exec (.thermalSample d r ro) s =
        .next ((s.sample d r ro.toNat).retainProceed.slowTick (s.fget F.pwrRtc_TICKS) edge)) ∧
    (∀ n, (s.rtcTick n).fget F.pwrRtc_TICKS = s.wrapped F.pwrRtc_TICKS 1) ∧
    (∀ (c : Fin 16) (t : BitVec 16),
      let x := calibrate (signed 16 t.toNat) (signed 8 (s.fget (F.fusDiodeTrimActive_GAIN c.val)))
        (signed 8 (s.fget (F.fusDiodeTrimActive_OFFSET c.val)))
      s.sets (s.convert c.val (.reading t)) [(F.thmDiode_TEMP c.val, unsigned 16 x), (F.thmDiode_FAULT c.val, 0)]) ∧
    (∀ (c : Fin 16) (v : Conv), (v = .openCircuit ∨ v = .shortCircuit) →
      (s.flag (F.thmDiode_FAULT c.val) = true → s.convert c.val v = s) ∧
      (s.flag (F.thmDiode_FAULT c.val) = false → s.flag (F.thmDiode_IGNORE c.val) = true →
        s.sets (s.convert c.val v) [(F.thmDiode_FAULT c.val, 1)]) ∧
      (s.flag (F.thmDiode_FAULT c.val) = false → s.flag (F.thmDiode_IGNORE c.val) = false →
        (s.post 0x0311 (unitPc (c.val / 2) 0) c.val (if v = .openCircuit then 1 else 2)).sets (s.convert c.val v)
          [(F.thmDiode_FAULT c.val, 1)])) ∧
    (∀ c < 16, s.build.nStacks ≤ 8 → s.flag F.thmStatus_TRIPPED = false → c < 2 * s.build.nStacks → s.counted c = true → 1760 ≤ s.temp c →
      (∀ e < c, s.counted e = false ∨ s.temp e < 1760) →
      (s.post 0x0416 0 (c / 2) (c * 2 ^ 16 + s.fget (F.thmDiode_TEMP c))).sets s.tripCheck
        [(F.thmStatus_TRIPPED, 1), (F.thmStatus_TRIP_CH, c)]) ∧
    (s.flag F.thmStatus_TRIPPED = true → s.tripCheck = s) ∧
    (∀ (k : Fin 8) (was : List Nat), s.flag (F.thmStk_WINDOW_CLOSED k.val) = false →
      (s.counted (2 * k.val) = true → s.temp (2 * k.val) < 0 ∨ 1600 < s.temp (2 * k.val) →
        (s.post 0x030F (unitPc k.val 0) k.val (2 * k.val * 2 ^ 16 + s.fget (F.thmDiode_TEMP (2 * k.val)))).sets
          (s.windowCheck k.val was) [(F.thmStk_WINDOW_CLOSED k.val, 1)]) ∧
      ((∀ c ∈ [2 * k.val, 2 * k.val + 1], s.counted c = true → 0 ≤ s.temp c ∧ s.temp c ≤ 1600) → s.windowCheck k.val was = s)) ∧
    (∀ (k : Fin 8), s.counted (2 * k.val) = true → s.counted (2 * k.val + 1) = true →
      let t := max (s.temp (2 * k.val)) (s.temp (2 * k.val + 1))
      let h : Int := s.fget F.thmCfg_HYST
      let now := s.fget (F.thmStk_LEVEL k.val)
      (1520 ≤ t → now ≤ 2 → s.nextLevel k.val = 2) ∧ (t < 1360 - h → s.nextLevel k.val = 0) ∧
      (1360 ≤ t → t < 1520 - h → s.nextLevel k.val = 1)) ∧
    (∀ (i : Fin 8) (raw : BitVec 16), let lim := s.fget (F.thmPkg_LIMIT i.val)
      (lim ≠ 0 → raw.toNat < lim → s.flag (F.thmPkg_OVER i.val) = false →
        (s.post 0x0417 0 i.val raw.toNat).sets (s.thermistor i.val raw.toNat)
          [(F.thmPkg_RAW i.val, raw.toNat), (F.thmPkg_OVER i.val, 1)]) ∧
      (lim + lim / 64 ≤ raw.toNat → s.sets (s.thermistor i.val raw.toNat)
        [(F.thmPkg_RAW i.val, raw.toNat), (F.thmPkg_OVER i.val, 0)]))) ∧
  (∀ (w : Word) (s : State), s.cpReady →
    let target := w.toNat % 4
    let san := w.getLsbD 2
    let pend := s.fget F.fusLifecycle_PENDING
    let refused := s.flag F.glbAccLock_LOCK = true ∨ target < pend ∨
      (target = pend ∧ (san = false ∨ s.flag F.fusLifecycle_SAN_PENDING = true)) ∨ s.flag F.fusStatus_PROG_BUSY = true
    (w.getLsbD 63 = false → exec (.lcCmd w) s = .next s.cpOk) ∧
    (w.getLsbD 63 = true → refused → ∃ t, exec (.lcCmd w) s = .next t ∧ s.cpOk.sets t [(F.fusStatus_LC_REFUSED, 1)]) ∧
    (w.getLsbD 63 = true → ¬ refused → ∃ t, exec (.lcCmd w) s = .next t ∧
      ({ s.cpOk with prog := BitVec.ofNat 64 (blowMask (s.fget F.fusLifecycle_STATE) target san) } : State).sets t
        [(F.fusStatus_PROG_BUSY, 1), (F.fusLifecycle_PENDING, target),
         (F.fusLifecycle_SAN_PENDING, if san then 1 else s.fget F.fusLifecycle_SAN_PENDING)])) ∧
  (∀ s : State,
    (s.flag F.fusStatus_PROG_BUSY = false ∨ s.cpUp = false → exec .fuseProgramDone s = .next s) ∧
    (s.flag F.fusStatus_PROG_BUSY = true → s.cpUp = true → ∃ t, exec .fuseProgramDone s = .next t ∧
      ({ s.setPeg 3 (s.pegWord 3 ||| s.prog) with prog := 0 } : State).sets t [(F.fusStatus_PROG_BUSY, 0)])) ∧
  (∀ s : State, s.cpReady → s.build.nStacks ≤ 8 →
    (∃ t, exec .trimReload s = .next t ∧ t = { s.cpOk with regs := t.regs } ∧
      (∀ k < s.build.nStacks, t.reg (A.fusPhyTrim k) = s.pegPhyTrim k) ∧
      (∀ c < 2 * s.build.nStacks, t.reg (A.fusDiodeTrim c) = s.pegDiodeTrim c) ∧
      ∀ a, (∀ k < s.build.nStacks, a ≠ A.fusPhyTrim k) → (∀ c < 2 * s.build.nStacks, a ≠ A.fusDiodeTrim c) → t.reg a = s.reg a) ∧
    (let refused := s.power ≠ .active ∨ s.flag F.fusStatus_COMMIT_BUSY = true ∨ ∃ k < s.build.nStacks,
        s.reg (A.fusPhyTrim k) ≠ s.reg (A.fusPhyTrimActive k) ∧
          (s.flag (F.phyFreqStatus_BUSY k) = true ∨ s.flag (F.phyFreqStatus_CHAIN k) = true)
     (refused → ∃ t, exec .trimCommit s = .next t ∧ s.cpOk.sets t [(F.fusStatus_COMMIT_REFUSED, 1)]) ∧
     (¬ refused → ∃ u, s.cpOk.sets u [(F.fusStatus_COMMIT_BUSY, 1)] ∧
       exec .trimCommit s = .next ((u.forEach s.phyDiffs fun s k => s.holdStack k .trim).trimProceed)) ∧
     (¬ refused → s.phyDiffs = [] → s.trimHeld = [] → ∃ t, exec .trimCommit s = .next t ∧
       t = { s.cpOk.post 0x0418 0 0 (maskOf s.diodeDiffs) with regs := t.regs } ∧
       t.flag F.fusStatus_COMMIT_BUSY = false ∧
       ∀ c < 2 * s.build.nStacks, t.reg (A.fusDiodeTrimActive c) = s.reg (A.fusDiodeTrim c))))

/-- TALLY_GO, TALLY_PERIODIC, TALLY_SWEEP_DONE, EVENT_RECORD_WRITE, EVENT_IRQ_AGE, EV_RING_ENABLE, EV_TAIL_WRITE, RESET_CMD,
CORE_POWER_ON and UCODE_DATA_WRITE (R418 to R439, Tables 15.1 to 15.9): a sweep starts, is skipped or refused; a running one
issues its first header, then its counters, and, those writes at an end, its final header; a record leaves the queue when it is
written or its PC is lost, one at a time, and is written again when it was held too long; the ring opens empty where it fits;
EV_TAIL moves only over records written. A full reset by its key or at power-on leaves the core at its reset values, ACTIVE, its
cause recorded; UCODE_DATA fills the staging area while it is not locked. -/
def Obligations.ObserveAndReset : Prop :=
  (∀ s : State,
    let begun := fun (b t : State) =>
      (b.sweep ≠ none → b.sets t [(F.talStatus_OVERRUN, 1)]) ∧
      (b.sweep = none → b.bufferFits = false → b.sets t [(F.talStatus_REFUSED, 1)]) ∧
      (b.sweep = none → b.bufferFits = true → ({ b with
        sweep := some ⟨64 * b.fget F.talBufBase_BASE, 0, 0, 0, false, true⟩ } : State).sets t [(F.talStatus_BUSY, 1)])
    (s.cpReady → ∃ t, exec .tallyGo s = .next t ∧ begun s.cpOk t) ∧
    (s.flag F.talCfg_EN = false → exec .tallyPeriodic s = .next s) ∧
    (s.flag F.talCfg_EN = true → s.reaches s.tallyDue →
      let m := { s.momentOf s.tallyDue with tallyAt := max s.cadence s.tallyDue }
      (s.power ≠ .active → exec .tallyPeriodic s = .next m) ∧
      (s.power = .active → ∃ t, exec .tallyPeriodic s = .next t ∧ begun m t)) ∧
    (s.coreOn = false → exec .tallySweepDone s = .next s) ∧
    (s.coreOn = true → exec .tallySweepDone s = .next s.sweepGo.retainProceed) ∧ (s.sweep = none → s.sweepGo = s)) ∧
  (∀ (s : State) (w : Sweep), s.sweep = some w →
    let n := s.build.sweptCount
    let r := s.sweepSettle w
    let u : State := { r.1 with sweep := some r.2 }
    ((∀ e ∈ s.sweepOut, e.2.direct = .blocked) → r = (s, w)) ∧
    r.2 = { w with lost := w.lost || s.sweepOut.any fun e => decide (e.2.direct ≠ .blocked ∧ e.2.direct ≠ .done) } ∧
    r.1 = { s with reqs := r.1.reqs } ∧
    (w.opened = true → s.sweepGo = { (u.serviceWrite (.sweep 0) w.base (u.sweepHeader r.2 false) none).1 with
      sweep := some { r.2 with opened := false } }) ∧
    (∀ a, w.opened = false → s.build.swept[w.next]? = some a → s.sweepGo = u.sweepCounter r.2 a) ∧
    (w.opened = false → s.build.swept.length ≤ w.next →
      (u.sweepOut ≠ [] → s.sweepGo = u) ∧
      (u.sweepOut = [] → s.ownFind (.sweep (n + 1)) = none →
        s.sweepGo = (u.serviceWrite (.sweep (n + 1)) w.base (u.sweepHeader r.2 true) none).1) ∧
      (u.sweepOut = [] → s.ownFind (.sweep (n + 1)) ≠ none → ∃ t, s.sweepGo = t ∧
        (if u.flag F.talCfg_DONE_EV then ({ u with sweep := none } : State).post 0x041A 0 ((u.fget F.talStatus_SEQ + 1) % 2 ^ 32)
            (w.last - w.first) else { u with sweep := none }).sets t
          [(F.talStatus_SEQ, (u.fget F.talStatus_SEQ + 1) % 2 ^ 32), (F.talStatus_BUSY, 0), (F.talFirst_CT, w.first % 2 ^ 64),
           (F.talLast_CT, w.last % 2 ^ 64)]))) ∧
  (∀ s : State,
    (s.events = [] → exec .eventRecordWrite s = .next s) ∧
    (s.ownFind .event = none → s.coreOn = false ∨ s.flag F.glbEvCfg_EN = false ∨ s.ringUsed = 2 ^ s.ringLog →
      exec .eventRecordWrite s = .next s) ∧
    (∀ e l, s.events = e :: l →
      let n := s.fget F.glbEvHead_HEAD
      let a := s.ringAddr n
      let popped := fun (u t : State) (f : List (Fld × Nat)) =>
        (u.dropCount = 0 ∨ 64 ≤ l.length → ({ u with events := l } : State).sets t
          ((F.glbEvHead_HEAD, u.wrapped F.glbEvHead_HEAD 1) :: f)) ∧
        (u.dropCount ≠ 0 → l.length < 64 →
          ({ ({ u with events := l } : State).post 0x041B 0 u.dropCount u.dropStamp with
            dropCount := 0, dropStamp := 0 } : State).sets t ((F.glbEvHead_HEAD, u.wrapped F.glbEvHead_HEAD 1) :: f))
      (s.ownFind .event = none → s.coreOn = true → s.ringOpen = true → exec .eventRecordWrite s = .next
        (s.ownStart .event (serviceAccess 0) .partialWrite (a / 64 * 64) 1 [BitVec.ofNat 512 (ringRecord s.ringLog n e * 2 ^ (8 * (a % 64)))] [false]
          [byteEnables (a % 64) 32])) ∧
      (∀ id, s.has .event id .blocked → exec .eventRecordWrite s = .next s) ∧
      (∀ id, s.has .event id .done → ∃ t, exec .eventRecordWrite s = .next t ∧ popped (s.dropReq id) t []) ∧
      (∀ id, s.has .event id .lost → ∃ t, exec .eventRecordWrite s = .next t ∧
        popped (s.dropReq id) t [(F.glbEvStatus_WRITE_LOST, s.topped F.glbEvStatus_WRITE_LOST 1)]) ∧
      (∀ id d, s.has .event id d → d ≠ .blocked → d ≠ .done → d ≠ .lost → exec .eventRecordWrite s = .next (s.dropReq id))) ∧
    (s.irqAgeAt = none → exec .eventIrqAge s = .next s) ∧
    (∀ due, s.irqAgeAt = some due → s.reaches due → exec .eventIrqAge s = .next (s.momentOf due) ∧
      (s.cpUp = true → (s.momentOf due).eventLow = true))) ∧
  (∀ (w : Word) (s : State), s.cpReady →
    let common := [(F.glbEvCfg_IRQ_AGE, bitsOf w.toNat 47 32), (F.glbEvCfg_IRQ_LEVEL, bitsOf w.toNat 19 0)]
    let size := (F.glbEvCfg_LOG2_SIZE, bitsOf w.toNat 52 48)
    let base := s.fget F.glbEvBase_BASE
    let fits := base % 64 = 0 ∧ s.build.inRange base (32 * 2 ^ min 20 (max 6 (bitsOf w.toNat 52 48))) = true
    (s.flag F.glbEvCfg_EN = true → ∃ t, exec (.evRingEnable w) s = .next t ∧ s.cpOk.sets t ((F.glbEvCfg_EN, 1) :: common)) ∧
    (s.flag F.glbEvCfg_EN = false → fits → ∃ t, exec (.evRingEnable w) s = .next t ∧ (s.cpOk.ownDrop .event).sets t
      ([(F.glbEvHead_HEAD, 0), (F.glbEvTail_TAIL, 0), (F.glbEvCfg_EN, 1), size] ++ common)) ∧
    (s.flag F.glbEvCfg_EN = false → ¬ fits → ∃ t, exec (.evRingEnable w) s = .next t ∧ s.cpOk.sets t
      ([(F.glbEvStatus_CFG_REFUSED, 1), size] ++ common)) ∧
    (let far := (w.toNat % 2 ^ 32 + 2 ^ 32 - s.fget F.glbEvTail_TAIL) % 2 ^ 32
     let used := (s.fget F.glbEvHead_HEAD + 2 ^ 32 - s.fget F.glbEvTail_TAIL) % 2 ^ 32
     (far ≤ used → ∃ t, exec (.evTailWrite w) s = .next t ∧ s.cpOk.sets t [(F.glbEvTail_TAIL, w.toNat % 2 ^ 32)]) ∧
     (used < far → ∃ t, exec (.evTailWrite w) s = .next t ∧ s.cpOk.sets t [(F.glbEvStatus_TAIL_REFUSED, 1)])) ∧
    (∀ env, (w.getLsbD 0 = true → bitsOf w.toNat 15 8 = 0x5A → exec (.resetCmd w env) s = .next (s.cpOk.fullReset 2 env)) ∧
      (w.getLsbD 0 = false ∨ bitsOf w.toNat 15 8 ≠ 0x5A → exec (.resetCmd w env) s = .next s.cpOk)) ∧
    (s.flag F.glbAccLock_LOCK = true → exec (.ucodeDataWrite w) s = .next s.cpOk) ∧
    (s.flag F.glbAccLock_LOCK = false → ∃ t, exec (.ucodeDataWrite w) s = .next t ∧
      ({ s.cpOk with ucode := SMap.put s.ucode 0 (s.fget F.glbUcodeAddr_OFFSET) w } : State).sets t
        [(F.glbUcodeAddr_OFFSET, s.wrapped F.glbUcodeAddr_OFFSET 1)])) ∧
  (∀ (env : TrainEnv) (s : State), let u : State := { s with drone := { s.drone with supplied := true } }
    (s.power = .dead → exec (.corePowerOn env) s = .next u) ∧
    (s.power ≠ .dead → exec (.corePowerOn env) s = .next (u.fullReset 1 env))) ∧
  (∀ (s : State) (cause : Nat) (env : TrainEnv), 1 ≤ cause → cause ≤ 4 → let t := s.fullReset cause env
    t.power = .active ∧ t.cadence = 0 ∧ t.slots = [] ∧ t.windows = [] ∧ t.cache = [] ∧ t.image = none ∧
      t.pending = s.pending ∧ t.fget F.glbResetStatus_CAUSE = cause)
end

