-- ==== Sys2Proof/Laws/Bits.lean ====
section
/-! SUPPORT. Bit fields of numbers: what a read of a field gives after a write of the same or another field. -/

namespace Sys2Proof.Machine

theorem bitsOf_eq_testBit (w hi lo i : Nat) : (bitsOf w hi lo).testBit i = (decide (i < hi + 1 - lo) && w.testBit (lo + i)) := by
  unfold bitsOf
  rw [Nat.testBit_mod_two_pow, Nat.testBit_div_two_pow, Nat.add_comm i lo]

theorem bitsOf_lt (w hi lo : Nat) : bitsOf w hi lo < 2 ^ (hi + 1 - lo) := Nat.mod_lt _ (Nat.two_pow_pos _)

theorem testBit_bitsPut (w hi lo v i : Nat) (h : lo ≤ hi + 1) :
    (bitsPut w hi lo v).testBit i = if i < lo then w.testBit i else if i ≤ hi then v.testBit (i - lo) else w.testBit i := by
  unfold bitsPut
  have hsplit : 2 ^ (hi + 1) = 2 ^ (hi + 1 - lo) * 2 ^ lo := by rw [← Nat.pow_add]; congr 1; omega
  have e : w / 2 ^ (hi + 1) * 2 ^ (hi + 1) + v % 2 ^ (hi + 1 - lo) * 2 ^ lo + w % 2 ^ lo =
      2 ^ lo * (2 ^ (hi + 1 - lo) * (w / 2 ^ (hi + 1)) + v % 2 ^ (hi + 1 - lo)) + w % 2 ^ lo := by
    rw [hsplit]
    generalize w / (2 ^ (hi + 1 - lo) * 2 ^ lo) = q
    generalize v % 2 ^ (hi + 1 - lo) = r
    simp only [Nat.mul_add, Nat.mul_comm, Nat.mul_left_comm]
  rw [e, Nat.testBit_two_pow_mul_add _ (Nat.mod_lt _ (Nat.two_pow_pos _))]
  by_cases h1 : i < lo
  · simp [h1, Nat.testBit_mod_two_pow]
  · rw [if_neg h1, if_neg h1, Nat.testBit_two_pow_mul_add _ (Nat.mod_lt _ (Nat.two_pow_pos _))]
    by_cases h2 : i ≤ hi
    · rw [if_pos (by omega), if_pos h2, Nat.testBit_mod_two_pow]; simp; omega
    · rw [if_neg (by omega), if_neg h2, Nat.testBit_div_two_pow]
      congr 1; omega

/-- A field holds what was put into it, cut to its width. -/
theorem bitsOf_bitsPut_same (w hi lo v : Nat) (h : lo ≤ hi + 1) : bitsOf (bitsPut w hi lo v) hi lo = v % 2 ^ (hi + 1 - lo) := by
  apply Nat.eq_of_testBit_eq
  intro i
  rw [bitsOf_eq_testBit, testBit_bitsPut _ _ _ _ _ h, Nat.testBit_mod_two_pow]
  by_cases hi' : i < hi + 1 - lo
  · rw [if_neg (by omega), if_pos (by omega)]; simp
  · simp [hi']

/-- A field that lies elsewhere in the word keeps its value. -/
theorem bitsOf_bitsPut_other (w hi lo v hi' lo' : Nat) (h : lo ≤ hi + 1) (d : hi' < lo ∨ hi < lo') :
    bitsOf (bitsPut w hi lo v) hi' lo' = bitsOf w hi' lo' := by
  apply Nat.eq_of_testBit_eq
  intro i
  rw [bitsOf_eq_testBit, bitsOf_eq_testBit, testBit_bitsPut _ _ _ _ _ h]
  by_cases hlt : i < hi' + 1 - lo'
  · by_cases h1 : lo' + i < lo
    · rw [if_pos h1]
    · rw [if_neg h1, if_neg (by omega)]
  · simp [hlt]

/-- A word stays within 64 bits. -/
theorem bitsPut_lt (w hi lo v : Nat) (h : lo ≤ hi + 1) (hhi : hi < 64) (hw : w < 2 ^ 64) : bitsPut w hi lo v < 2 ^ 64 := by
  apply Nat.lt_pow_two_of_testBit
  intro i hi64
  rw [testBit_bitsPut _ _ _ _ _ h, if_neg (by omega), if_neg (by omega)]
  exact Nat.testBit_lt_two_pow (Nat.lt_of_lt_of_le hw (Nat.pow_le_pow_right (by decide) hi64))

@[simp] theorem bit_true : bit true = 1 := rfl
@[simp] theorem bit_false : bit false = 0 := rfl
theorem bit_eq_one (b : Bool) : (bit b == 1) = b := by cases b <;> rfl

end Sys2Proof.Machine
end

