-- ==== Sys2Proof/Laws/SMap.lean ====
section
/-! SUPPORT. Sparse maps: what a read gives after a write, and that every operation keeps the canonical form. -/

namespace Sys2Proof.Machine

variable {α : Type}

@[simp] theorem SMap.get?_nil (i : Nat) : SMap.get? ([] : SMap α) i = none := rfl

theorem SMap.get?_cons (k : Nat) (v : α) (m : SMap α) (i : Nat) :
    SMap.get? ((k, v) :: m) i = if k = i then some v else SMap.get? m i := rfl

theorem SMap.get?_insert (m : SMap α) (i j : Nat) (v : α) :
    SMap.get? (SMap.insert m i v) j = if i = j then some v else SMap.get? m j := by
  induction m with
  | nil => rfl
  | cons e m ih =>
    obtain ⟨k, w⟩ := e
    unfold SMap.insert
    by_cases h1 : i < k
    · simp [h1, SMap.get?_cons]
    · by_cases h2 : i = k
      · subst h2; by_cases h3 : i = j <;> simp [SMap.get?_cons, h3]
      · simp only [h1, h2, if_false, SMap.get?_cons, ih]
        by_cases h3 : k = j
        · simp only [h3, if_true]; rw [if_neg]; omega
        · simp [h3]

theorem SMap.get?_erase (m : SMap α) (i j : Nat) :
    SMap.get? (SMap.erase m i) j = if i = j then none else SMap.get? m j := by
  induction m with
  | nil => simp [SMap.erase]
  | cons e m ih =>
    obtain ⟨k, w⟩ := e
    simp only [SMap.erase, ne_eq, List.filter_cons, decide_not, Bool.not_eq_eq_eq_not, Bool.not_true, decide_eq_false_iff_not] at ih ⊢
    by_cases h : k = i
    · subst h; simp only [not_true_eq_false, if_false, ih, SMap.get?_cons]; by_cases h3 : k = j <;> simp [h3]
    · simp only [h, not_false_eq_true, if_true, SMap.get?_cons, ih]
      by_cases h3 : k = j
      · subst h3; simp; omega
      · simp [h3]

theorem SMap.put_eq [DecidableEq α] (m : SMap α) (d : α) (i : Nat) (v : α) :
    SMap.put m d i v = if v = d then SMap.erase m i else SMap.insert m i v := by
  cases m <;> rfl

/-- A read gives the value written last. -/
@[simp] theorem SMap.get_put_same [DecidableEq α] (m : SMap α) (d : α) (i : Nat) (v : α) :
    SMap.get (SMap.put m d i v) d i = v := by
  unfold SMap.get; rw [SMap.put_eq]
  by_cases h : v = d
  · simp [h, SMap.get?_erase]
  · simp [h, SMap.get?_insert]

/-- A write leaves every other key alone. -/
theorem SMap.get_put_other [DecidableEq α] (m : SMap α) (d e : α) (i j : Nat) (v : α) (h : i ≠ j) :
    SMap.get (SMap.put m d i v) e j = SMap.get m e j := by
  unfold SMap.get; rw [SMap.put_eq]
  by_cases h' : v = d
  · simp [h', SMap.get?_erase, h]
  · simp [h', SMap.get?_insert, h]

/-- A read after a write, any key. -/
theorem SMap.get_put [DecidableEq α] (m : SMap α) (d : α) (i j : Nat) (v : α) :
    SMap.get (SMap.put m d i v) d j = if i = j then v else SMap.get m d j := by
  by_cases h : i = j
  · subst h; simp
  · simp [h, SMap.get_put_other _ _ _ _ _ _ h]

theorem SMap.mem_insert {m : SMap α} {i : Nat} {v : α} {e : Nat × α} (h : e ∈ SMap.insert m i v) : e = (i, v) ∨ e ∈ m := by
  induction m with
  | nil => simpa [SMap.insert] using h
  | cons x m ih =>
    obtain ⟨k, w⟩ := x
    unfold SMap.insert at h
    split at h
    · simpa using h
    · split at h
      · rcases List.mem_cons.mp h with h | h
        · exact .inl h
        · exact .inr (List.mem_cons_of_mem _ h)
      · rcases List.mem_cons.mp h with h | h
        · exact .inr (by simp [h])
        · exact (ih h).imp id (List.mem_cons_of_mem _)

/-- Keys strictly rise. -/
abbrev SMap.Rising (m : SMap α) : Prop := m.Pairwise fun a b => a.1 < b.1

theorem SMap.rising_insert {m : SMap α} (h : SMap.Rising m) (i : Nat) (v : α) : SMap.Rising (SMap.insert m i v) := by
  induction m with
  | nil => simp [SMap.insert, SMap.Rising]
  | cons x m ih =>
    obtain ⟨k, w⟩ := x
    obtain ⟨h1, h2⟩ := List.pairwise_cons.mp h
    unfold SMap.insert
    split
    · rename_i hik
      refine List.pairwise_cons.mpr ⟨?_, h⟩
      intro a ha
      rcases List.mem_cons.mp ha with ha | ha
      · subst ha; exact hik
      · exact Nat.lt_trans hik (h1 a ha)
    · split
      · rename_i hik; subst hik
        exact List.pairwise_cons.mpr ⟨h1, h2⟩
      · rename_i hn hne
        refine List.pairwise_cons.mpr ⟨?_, ih h2⟩
        intro a ha
        rcases SMap.mem_insert ha with ha | ha
        · subst ha; show k < i; omega
        · exact h1 a ha

theorem SMap.rising_erase {m : SMap α} (h : SMap.Rising m) (i : Nat) : SMap.Rising (SMap.erase m i) :=
  List.Pairwise.filter _ h

theorem SMap.rising_put [DecidableEq α] {m : SMap α} (h : SMap.Rising m) (d : α) (i : Nat) (v : α) :
    SMap.Rising (SMap.put m d i v) := by
  rw [SMap.put_eq]; split
  · exact SMap.rising_erase h i
  · exact SMap.rising_insert h i v

/-- A write keeps the canonical form. -/
theorem SMap.wf_put [DecidableEq α] {d : Nat → α} {m : SMap α} (h : SMap.Wf d m) (i : Nat) (v : α) :
    SMap.Wf d (SMap.put m (d i) i v) := by
  refine ⟨SMap.rising_put h.1 _ _ _, ?_⟩
  intro e he
  rw [SMap.put_eq] at he
  split at he
  · exact h.2 e ((List.mem_filter.mp he).1)
  · rename_i hv
    rcases SMap.mem_insert he with he | he
    · subst he; exact hv
    · exact h.2 e he

/-- Dropping entries keeps the canonical form. -/
theorem SMap.wf_filter [DecidableEq α] {d : Nat → α} {m : SMap α} (h : SMap.Wf d m) (p : Nat × α → Bool) :
    SMap.Wf d (m.filter p) :=
  ⟨List.Pairwise.filter _ h.1, fun e he => h.2 e ((List.mem_filter.mp he).1)⟩

@[simp] theorem SMap.wf_nil [DecidableEq α] (d : Nat → α) : SMap.Wf d ([] : SMap α) := ⟨List.Pairwise.nil, by simp⟩

theorem SMap.get?_eq_none_of_lt {m : SMap α} {k : Nat} (h : ∀ e ∈ m, k < e.1) : SMap.get? m k = none := by
  induction m with
  | nil => rfl
  | cons e m ih =>
    obtain ⟨a, v⟩ := e
    have := h (a, v) (by simp)
    rw [SMap.get?_cons, if_neg (by simp at this; omega)]
    exact ih fun e he => h e (List.mem_cons_of_mem _ he)

/-- Two maps in canonical form that read alike at every key are the same list. -/
theorem SMap.ext_of_wf [DecidableEq α] {d : Nat → α} {m n : SMap α} (hm : SMap.Wf d m) (hn : SMap.Wf d n)
    (h : ∀ i, SMap.get m (d i) i = SMap.get n (d i) i) : m = n := by
  have key : ∀ {m n : SMap α}, SMap.Wf d m → SMap.Wf d n → (∀ i, SMap.get m (d i) i = SMap.get n (d i) i) →
      ∀ i, SMap.get? m i = SMap.get? n i := by
    intro m n hm hn h i
    have memOf : ∀ {m : SMap α} {v : α}, SMap.get? m i = some v → (i, v) ∈ m := by
      intro m v hv
      induction m with
      | nil => simp at hv
      | cons e m ih =>
        obtain ⟨k, w⟩ := e
        rw [SMap.get?_cons] at hv
        split at hv
        · rename_i hk; simp at hv; simp [hk, hv]
        · exact List.mem_cons_of_mem _ (ih hv)
    have hi := h i
    unfold SMap.get at hi
    cases hx : SMap.get? m i with
    | none =>
      cases hy : SMap.get? n i with
      | none => rfl
      | some y =>
        rw [hx, hy] at hi
        exact absurd hi.symm (hn.2 _ (memOf hy))
    | some x =>
      cases hy : SMap.get? n i with
      | none => rw [hx, hy] at hi; exact absurd hi (hm.2 _ (memOf hx))
      | some y => rw [hx, hy] at hi; simpa using hi
  have lookup := key hm hn h
  clear h
  induction m generalizing n with
  | nil =>
    cases n with
    | nil => rfl
    | cons e n => have := lookup e.1; simp [SMap.get?] at this
  | cons e m ih =>
    obtain ⟨k, v⟩ := e
    obtain ⟨m1, m2⟩ := List.pairwise_cons.mp hm.1
    cases n with
    | nil => have := lookup k; simp [SMap.get?] at this
    | cons f n =>
      obtain ⟨l, w⟩ := f
      obtain ⟨n1, n2⟩ := List.pairwise_cons.mp hn.1
      have hkl : k = l := by
        rcases Nat.lt_trichotomy k l with hlt | heq | hlt
        · have := lookup k
          rw [SMap.get?_cons, if_pos rfl, SMap.get?_cons, if_neg (by omega),
            SMap.get?_eq_none_of_lt fun e he => Nat.lt_trans hlt (n1 e he)] at this
          cases this
        · exact heq
        · have := lookup l
          rw [SMap.get?_cons, if_neg (by omega), SMap.get?_cons, if_pos rfl,
            SMap.get?_eq_none_of_lt fun e he => Nat.lt_trans hlt (m1 e he)] at this
          cases this
      subst hkl
      have hvw : v = w := by have := lookup k; simpa [SMap.get?] using this
      subst hvw
      have tail : m = n := by
        refine ih (n := n) ⟨m2, fun e he => hm.2 e (List.mem_cons_of_mem _ he)⟩ ⟨n2, fun e he => hn.2 e (List.mem_cons_of_mem _ he)⟩ ?_
        intro i
        by_cases hki : k = i
        · subst hki
          rw [SMap.get?_eq_none_of_lt m1, SMap.get?_eq_none_of_lt n1]
        · have := lookup i
          rwa [SMap.get?_cons, if_neg hki, SMap.get?_cons, if_neg hki] at this
      rw [tail]

end Sys2Proof.Machine
end

