-- ==== Sys2Proof/Laws/Mem.lean ====
section
/-! SUPPORT. The stacks' contents: what a cell reads as after a write, and that every operation keeps the canonical form. -/

namespace Sys2Proof.Machine

/-- Writing a cell changes what no unlisted cell reads as. -/
@[simp] theorem State.unlistedAt_setCell (s : State) (k p : Nat) (m : Bool) (i : Nat) (w : Stored) :
    (s.setCell k p m i w).unlistedAt = s.unlistedAt := rfl

/-- A cell reads as it was written. -/
theorem State.cell_setCell_same (s : State) (k p : Nat) (m : Bool) (i : Nat) (w : Stored) :
    (s.setCell k p m i w).cell k p m i = w := SMap.get_put_same _ _ _ _

/-- A write leaves every other cell alone. -/
theorem State.cell_setCell_other (s : State) (k p : Nat) (m : Bool) (i : Nat) (w : Stored) (k' p' : Nat) (m' : Bool) (i' : Nat)
    (h : cellKey k p m i ≠ cellKey k' p' m' i') : (s.setCell k p m i w).cell k' p' m' i' = s.cell k' p' m' i' :=
  SMap.get_put_other _ _ _ _ _ _ h

/-- The numbers of two cells differ when the cells do. -/
theorem cellKey_inj {k p i k' p' i' : Nat} {m m' : Bool} (hp : p < 64) (hp' : p' < 64) (hi : i < 2 ^ 25) (hi' : i' < 2 ^ 25)
    (h : cellKey k p m i = cellKey k' p' m' i') : k = k' ∧ p = p' ∧ m = m' ∧ i = i' := by
  unfold cellKey at h
  have hq : pcIx k p = pcIx k' p' ∧ m = m' ∧ i = i' := by
    generalize pcIx k p = q at h ⊢; generalize pcIx k' p' = q' at h ⊢
    cases m <;> cases m' <;> simp only [bit_true, bit_false] at h <;> simp <;> omega
  obtain ⟨h1, h2, h3⟩ := hq
  unfold pcIx at h1
  exact ⟨by omega, by omega, h2, h3⟩

theorem Memory.wf_setCell {s : State} (h : Memory.wf s) (k p : Nat) (m : Bool) (i : Nat) (w : Stored) :
    Memory.wf (s.setCell k p m i w) := SMap.wf_put h _ _

/-- Two states whose cells are the same and which leave unlisted what each other leaves have the same form. -/
theorem Memory.wf_iff {s t : State} (hd : t.dram = s.dram) (hf : t.fills = s.fills) : Memory.wf t ↔ Memory.wf s := by
  have e : t.unlistedAt = s.unlistedAt := by funext i; unfold State.unlistedAt; rw [hf]
  unfold Memory.wf; rw [e, hd]

theorem Memory.wf_clearMapCells {s : State} (h : Memory.wf s) (k p : Nat) : Memory.wf (s.clearMapCells k p) := SMap.wf_filter h _

theorem Memory.wf_writePatterns {s : State} (h : Memory.wf s) (k : Nat) : Memory.wf (s.writePatterns k) := SMap.wf_filter h _

/-- What a PC's unlisted cells hold may change where every listed cell of that PC reads as before. -/
theorem Memory.wf_setFill {s : State} (h : Memory.wf s) (k p : Nat) (f : Option Nat)
    (same : ∀ e ∈ s.dram, e.1 / 2 ^ 26 = pcIx k p → unlistedWord f e.1 = s.unlistedAt e.1) : Memory.wf (s.setFill k p f) := by
  refine ⟨h.1, fun e he => ?_⟩
  have h2 := h.2 e he
  by_cases hk : e.1 / 2 ^ 26 = pcIx k p
  · have : (s.setFill k p f).unlistedAt e.1 = s.unlistedAt e.1 := by
      rw [← same e he hk]
      unfold State.unlistedAt State.setFill
      simp only [hk, SMap.get_put_same]
    rw [this]; exact h2
  · have : (s.setFill k p f).unlistedAt e.1 = s.unlistedAt e.1 := by
      unfold State.unlistedAt State.setFill
      simp only [SMap.get_put_other _ _ _ _ _ _ (fun x => hk x.symm)]
    rw [this]; exact h2

theorem State.mem_clearMapCells {s : State} {k p : Nat} {e : Nat × Stored} :
    e ∈ (s.clearMapCells k p).dram ↔ e ∈ s.dram ∧ (e.1 < cellKey k p true 16 ∨ cellKey k p true lastBase ≤ e.1) := by
  simp [State.clearMapCells]

/-- The unlisted word of a cell that is no map word does not depend on how the map stands (R212). -/
theorem unlistedWord_apart {f g : Option Nat} {key : Nat} (h : key / 2 ^ 25 % 2 = 1 → key % 2 ^ 25 < 16 ∨ lastBase ≤ key % 2 ^ 25) :
    unlistedWord f key = unlistedWord g key := by
  unfold unlistedWord
  by_cases hm : key / 2 ^ 25 % 2 = 1
  · rcases h hm with h' | h'
    · have h1 : ¬ lastBase ≤ key % 2 ^ 25 := by unfold lastBase; omega
      have h2 : ¬ 16 ≤ key % 2 ^ 25 := by omega
      simp only [hm, h1, h2, if_true, if_false]
      cases f <;> cases g <;> rfl
    · simp only [hm, h', if_true]
  · simp only [hm, if_false]

/-- The zero map of a PC is cleared: its map words are forgotten and read as coded zero from then on (R212). -/
theorem Memory.wf_clearMap {s : State} (h : Memory.wf s) (k p l : Nat) :
    Memory.wf ((s.clearMapCells k p).setFill k p (some l)) := by
  refine Memory.wf_setFill (Memory.wf_clearMapCells h k p) k p _ fun e he hk => ?_
  have hx := (State.mem_clearMapCells.mp he).2
  refine unlistedWord_apart fun hm => ?_
  unfold cellKey lastBase at hx
  unfold lastBase
  generalize pcIx k p = q at hk hx
  simp only [bit_true] at hx; omega

/-- Nothing listed is in the canonical form. -/
theorem Memory.wf_empty {s : State} (h : s.dram = []) : Memory.wf s := by
  unfold Memory.wf; rw [h]; exact SMap.wf_nil _

end Sys2Proof.Machine
end

