-- ==== Sys2Proof/Laws/State.lean ====
section
/-! SUPPORT. One lemma per field per update of State: what each update leaves alone. -/

namespace Sys2Proof.Machine

variable (s : State)

/-! ### setReg -/
@[simp] theorem State.setReg_pending (a : Nat) (w : Word) : (s.setReg a w).pending = s.pending := rfl
@[simp] theorem State.setReg_cpWaiting (a : Nat) (w : Word) : (s.setReg a w).cpWaiting = s.cpWaiting := rfl
@[simp] theorem State.setReg_cpRData (a : Nat) (w : Word) : (s.setReg a w).cpRData = s.cpRData := rfl
@[simp] theorem State.setReg_cpErr (a : Nat) (w : Word) : (s.setReg a w).cpErr = s.cpErr := rfl
@[simp] theorem State.setReg_free (a : Nat) (w : Word) : (s.setReg a w).free = s.free := rfl
@[simp] theorem State.setReg_build (a : Nat) (w : Word) : (s.setReg a w).build = s.build := rfl
@[simp] theorem State.setReg_peg (a : Nat) (w : Word) : (s.setReg a w).peg = s.peg := rfl
@[simp] theorem State.setReg_cadence (a : Nat) (w : Word) : (s.setReg a w).cadence = s.cadence := rfl
@[simp] theorem State.setReg_pauseLeft (a : Nat) (w : Word) : (s.setReg a w).pauseLeft = s.pauseLeft := rfl
@[simp] theorem State.setReg_syncAt (a : Nat) (w : Word) : (s.setReg a w).syncAt = s.syncAt := rfl
@[simp] theorem State.setReg_headroom (a : Nat) (w : Word) : (s.setReg a w).headroom = s.headroom := rfl
@[simp] theorem State.setReg_ports (a : Nat) (w : Word) : (s.setReg a w).ports = s.ports := rfl
@[simp] theorem State.setReg_reqs (a : Nat) (w : Word) : (s.setReg a w).reqs = s.reqs := rfl
@[simp] theorem State.setReg_nextReq (a : Nat) (w : Word) : (s.setReg a w).nextReq = s.nextReq := rfl
@[simp] theorem State.setReg_nextPiece (a : Nat) (w : Word) : (s.setReg a w).nextPiece = s.nextPiece := rfl
@[simp] theorem State.setReg_fwds (a : Nat) (w : Word) : (s.setReg a w).fwds = s.fwds := rfl
@[simp] theorem State.setReg_bridgeCr (a : Nat) (w : Word) : (s.setReg a w).bridgeCr = s.bridgeCr := rfl
@[simp] theorem State.setReg_mapSave (a : Nat) (w : Word) : (s.setReg a w).mapSave = s.mapSave := rfl
@[simp] theorem State.setReg_windows (a : Nat) (w : Word) : (s.setReg a w).windows = s.windows := rfl
@[simp] theorem State.setReg_cache (a : Nat) (w : Word) : (s.setReg a w).cache = s.cache := rfl
@[simp] theorem State.setReg_misses (a : Nat) (w : Word) : (s.setReg a w).misses = s.misses := rfl
@[simp] theorem State.setReg_scmds (a : Nat) (w : Word) : (s.setReg a w).scmds = s.scmds := rfl
@[simp] theorem State.setReg_cacheFull (a : Nat) (w : Word) : (s.setReg a w).cacheFull = s.cacheFull := rfl
@[simp] theorem State.setReg_vtime (a : Nat) (w : Word) : (s.setReg a w).vtime = s.vtime := rfl
@[simp] theorem State.setReg_gates (a : Nat) (w : Word) : (s.setReg a w).gates = s.gates := rfl
@[simp] theorem State.setReg_lanes (a : Nat) (w : Word) : (s.setReg a w).lanes = s.lanes := rfl
@[simp] theorem State.setReg_sorting (a : Nat) (w : Word) : (s.setReg a w).sorting = s.sorting := rfl
@[simp] theorem State.setReg_outputs (a : Nat) (w : Word) : (s.setReg a w).outputs = s.outputs := rfl
@[simp] theorem State.setReg_quota (a : Nat) (w : Word) : (s.setReg a w).quota = s.quota := rfl
@[simp] theorem State.setReg_pccs (a : Nat) (w : Word) : (s.setReg a w).pccs = s.pccs := rfl
@[simp] theorem State.setReg_mults (a : Nat) (w : Word) : (s.setReg a w).mults = s.mults := rfl
@[simp] theorem State.setReg_dram (a : Nat) (w : Word) : (s.setReg a w).dram = s.dram := rfl
@[simp] theorem State.setReg_fills (a : Nat) (w : Word) : (s.setReg a w).fills = s.fills := rfl
@[simp] theorem State.setReg_migs (a : Nat) (w : Word) : (s.setReg a w).migs = s.migs := rfl
@[simp] theorem State.setReg_migReasons (a : Nat) (w : Word) : (s.setReg a w).migReasons = s.migReasons := rfl
@[simp] theorem State.setReg_salvage (a : Nat) (w : Word) : (s.setReg a w).salvage = s.salvage := rfl
@[simp] theorem State.setReg_events (a : Nat) (w : Word) : (s.setReg a w).events = s.events := rfl
@[simp] theorem State.setReg_dropCount (a : Nat) (w : Word) : (s.setReg a w).dropCount = s.dropCount := rfl
@[simp] theorem State.setReg_dropStamp (a : Nat) (w : Word) : (s.setReg a w).dropStamp = s.dropStamp := rfl
@[simp] theorem State.setReg_phyJobs (a : Nat) (w : Word) : (s.setReg a w).phyJobs = s.phyJobs := rfl
@[simp] theorem State.setReg_slots (a : Nat) (w : Word) : (s.setReg a w).slots = s.slots := rfl
@[simp] theorem State.setReg_launchQ (a : Nat) (w : Word) : (s.setReg a w).launchQ = s.launchQ := rfl
@[simp] theorem State.setReg_ctxs (a : Nat) (w : Word) : (s.setReg a w).ctxs = s.ctxs := rfl
@[simp] theorem State.setReg_waiters (a : Nat) (w : Word) : (s.setReg a w).waiters = s.waiters := rfl
@[simp] theorem State.setReg_bows (a : Nat) (w : Word) : (s.setReg a w).bows = s.bows := rfl
@[simp] theorem State.setReg_chks (a : Nat) (w : Word) : (s.setReg a w).chks = s.chks := rfl
@[simp] theorem State.setReg_jobs (a : Nat) (w : Word) : (s.setReg a w).jobs = s.jobs := rfl
@[simp] theorem State.setReg_nextJob (a : Nat) (w : Word) : (s.setReg a w).nextJob = s.nextJob := rfl
@[simp] theorem State.setReg_nmuSince (a : Nat) (w : Word) : (s.setReg a w).nmuSince = s.nmuSince := rfl
@[simp] theorem State.setReg_nmuTurn (a : Nat) (w : Word) : (s.setReg a w).nmuTurn = s.nmuTurn := rfl
@[simp] theorem State.setReg_nmuLast (a : Nat) (w : Word) : (s.setReg a w).nmuLast = s.nmuLast := rfl
@[simp] theorem State.setReg_power (a : Nat) (w : Word) : (s.setReg a w).power = s.power := rfl
@[simp] theorem State.setReg_drone (a : Nat) (w : Word) : (s.setReg a w).drone = s.drone := rfl
@[simp] theorem State.setReg_image (a : Nat) (w : Word) : (s.setReg a w).image = s.image := rfl
@[simp] theorem State.setReg_levels (a : Nat) (w : Word) : (s.setReg a w).levels = s.levels := rfl
@[simp] theorem State.setReg_fuses (a : Nat) (w : Word) : (s.setReg a w).fuses = s.fuses := rfl
@[simp] theorem State.setReg_prog (a : Nat) (w : Word) : (s.setReg a w).prog = s.prog := rfl
@[simp] theorem State.setReg_ucode (a : Nat) (w : Word) : (s.setReg a w).ucode = s.ucode := rfl
@[simp] theorem State.setReg_trainLost (a : Nat) (w : Word) : (s.setReg a w).trainLost = s.trainLost := rfl
@[simp] theorem State.setReg_sweep (a : Nat) (w : Word) : (s.setReg a w).sweep = s.sweep := rfl
@[simp] theorem State.setReg_tallyAt (a : Nat) (w : Word) : (s.setReg a w).tallyAt = s.tallyAt := rfl

/-! ### fset -/
@[simp] theorem State.fset_pending (f : Fld) (v : Nat) : (s.fset f v).pending = s.pending := rfl
@[simp] theorem State.fset_cpWaiting (f : Fld) (v : Nat) : (s.fset f v).cpWaiting = s.cpWaiting := rfl
@[simp] theorem State.fset_cpRData (f : Fld) (v : Nat) : (s.fset f v).cpRData = s.cpRData := rfl
@[simp] theorem State.fset_cpErr (f : Fld) (v : Nat) : (s.fset f v).cpErr = s.cpErr := rfl
@[simp] theorem State.fset_free (f : Fld) (v : Nat) : (s.fset f v).free = s.free := rfl
@[simp] theorem State.fset_build (f : Fld) (v : Nat) : (s.fset f v).build = s.build := rfl
@[simp] theorem State.fset_peg (f : Fld) (v : Nat) : (s.fset f v).peg = s.peg := rfl
@[simp] theorem State.fset_cadence (f : Fld) (v : Nat) : (s.fset f v).cadence = s.cadence := rfl
@[simp] theorem State.fset_pauseLeft (f : Fld) (v : Nat) : (s.fset f v).pauseLeft = s.pauseLeft := rfl
@[simp] theorem State.fset_syncAt (f : Fld) (v : Nat) : (s.fset f v).syncAt = s.syncAt := rfl
@[simp] theorem State.fset_headroom (f : Fld) (v : Nat) : (s.fset f v).headroom = s.headroom := rfl
@[simp] theorem State.fset_ports (f : Fld) (v : Nat) : (s.fset f v).ports = s.ports := rfl
@[simp] theorem State.fset_reqs (f : Fld) (v : Nat) : (s.fset f v).reqs = s.reqs := rfl
@[simp] theorem State.fset_nextReq (f : Fld) (v : Nat) : (s.fset f v).nextReq = s.nextReq := rfl
@[simp] theorem State.fset_nextPiece (f : Fld) (v : Nat) : (s.fset f v).nextPiece = s.nextPiece := rfl
@[simp] theorem State.fset_fwds (f : Fld) (v : Nat) : (s.fset f v).fwds = s.fwds := rfl
@[simp] theorem State.fset_bridgeCr (f : Fld) (v : Nat) : (s.fset f v).bridgeCr = s.bridgeCr := rfl
@[simp] theorem State.fset_mapSave (f : Fld) (v : Nat) : (s.fset f v).mapSave = s.mapSave := rfl
@[simp] theorem State.fset_windows (f : Fld) (v : Nat) : (s.fset f v).windows = s.windows := rfl
@[simp] theorem State.fset_cache (f : Fld) (v : Nat) : (s.fset f v).cache = s.cache := rfl
@[simp] theorem State.fset_misses (f : Fld) (v : Nat) : (s.fset f v).misses = s.misses := rfl
@[simp] theorem State.fset_scmds (f : Fld) (v : Nat) : (s.fset f v).scmds = s.scmds := rfl
@[simp] theorem State.fset_cacheFull (f : Fld) (v : Nat) : (s.fset f v).cacheFull = s.cacheFull := rfl
@[simp] theorem State.fset_vtime (f : Fld) (v : Nat) : (s.fset f v).vtime = s.vtime := rfl
@[simp] theorem State.fset_gates (f : Fld) (v : Nat) : (s.fset f v).gates = s.gates := rfl
@[simp] theorem State.fset_lanes (f : Fld) (v : Nat) : (s.fset f v).lanes = s.lanes := rfl
@[simp] theorem State.fset_sorting (f : Fld) (v : Nat) : (s.fset f v).sorting = s.sorting := rfl
@[simp] theorem State.fset_outputs (f : Fld) (v : Nat) : (s.fset f v).outputs = s.outputs := rfl
@[simp] theorem State.fset_quota (f : Fld) (v : Nat) : (s.fset f v).quota = s.quota := rfl
@[simp] theorem State.fset_pccs (f : Fld) (v : Nat) : (s.fset f v).pccs = s.pccs := rfl
@[simp] theorem State.fset_mults (f : Fld) (v : Nat) : (s.fset f v).mults = s.mults := rfl
@[simp] theorem State.fset_dram (f : Fld) (v : Nat) : (s.fset f v).dram = s.dram := rfl
@[simp] theorem State.fset_fills (f : Fld) (v : Nat) : (s.fset f v).fills = s.fills := rfl
@[simp] theorem State.fset_migs (f : Fld) (v : Nat) : (s.fset f v).migs = s.migs := rfl
@[simp] theorem State.fset_migReasons (f : Fld) (v : Nat) : (s.fset f v).migReasons = s.migReasons := rfl
@[simp] theorem State.fset_salvage (f : Fld) (v : Nat) : (s.fset f v).salvage = s.salvage := rfl
@[simp] theorem State.fset_events (f : Fld) (v : Nat) : (s.fset f v).events = s.events := rfl
@[simp] theorem State.fset_dropCount (f : Fld) (v : Nat) : (s.fset f v).dropCount = s.dropCount := rfl
@[simp] theorem State.fset_dropStamp (f : Fld) (v : Nat) : (s.fset f v).dropStamp = s.dropStamp := rfl
@[simp] theorem State.fset_phyJobs (f : Fld) (v : Nat) : (s.fset f v).phyJobs = s.phyJobs := rfl
@[simp] theorem State.fset_slots (f : Fld) (v : Nat) : (s.fset f v).slots = s.slots := rfl
@[simp] theorem State.fset_launchQ (f : Fld) (v : Nat) : (s.fset f v).launchQ = s.launchQ := rfl
@[simp] theorem State.fset_ctxs (f : Fld) (v : Nat) : (s.fset f v).ctxs = s.ctxs := rfl
@[simp] theorem State.fset_waiters (f : Fld) (v : Nat) : (s.fset f v).waiters = s.waiters := rfl
@[simp] theorem State.fset_bows (f : Fld) (v : Nat) : (s.fset f v).bows = s.bows := rfl
@[simp] theorem State.fset_chks (f : Fld) (v : Nat) : (s.fset f v).chks = s.chks := rfl
@[simp] theorem State.fset_jobs (f : Fld) (v : Nat) : (s.fset f v).jobs = s.jobs := rfl
@[simp] theorem State.fset_nextJob (f : Fld) (v : Nat) : (s.fset f v).nextJob = s.nextJob := rfl
@[simp] theorem State.fset_nmuSince (f : Fld) (v : Nat) : (s.fset f v).nmuSince = s.nmuSince := rfl
@[simp] theorem State.fset_nmuTurn (f : Fld) (v : Nat) : (s.fset f v).nmuTurn = s.nmuTurn := rfl
@[simp] theorem State.fset_nmuLast (f : Fld) (v : Nat) : (s.fset f v).nmuLast = s.nmuLast := rfl
@[simp] theorem State.fset_power (f : Fld) (v : Nat) : (s.fset f v).power = s.power := rfl
@[simp] theorem State.fset_drone (f : Fld) (v : Nat) : (s.fset f v).drone = s.drone := rfl
@[simp] theorem State.fset_image (f : Fld) (v : Nat) : (s.fset f v).image = s.image := rfl
@[simp] theorem State.fset_levels (f : Fld) (v : Nat) : (s.fset f v).levels = s.levels := rfl
@[simp] theorem State.fset_fuses (f : Fld) (v : Nat) : (s.fset f v).fuses = s.fuses := rfl
@[simp] theorem State.fset_prog (f : Fld) (v : Nat) : (s.fset f v).prog = s.prog := rfl
@[simp] theorem State.fset_ucode (f : Fld) (v : Nat) : (s.fset f v).ucode = s.ucode := rfl
@[simp] theorem State.fset_trainLost (f : Fld) (v : Nat) : (s.fset f v).trainLost = s.trainLost := rfl
@[simp] theorem State.fset_sweep (f : Fld) (v : Nat) : (s.fset f v).sweep = s.sweep := rfl
@[simp] theorem State.fset_tallyAt (f : Fld) (v : Nat) : (s.fset f v).tallyAt = s.tallyAt := rfl

/-! ### freed -/
@[simp] theorem State.freed_pending : (s.freed).pending = s.pending := rfl
@[simp] theorem State.freed_cpWaiting : (s.freed).cpWaiting = s.cpWaiting := rfl
@[simp] theorem State.freed_regs : (s.freed).regs = s.regs := rfl
@[simp] theorem State.freed_cpRData : (s.freed).cpRData = s.cpRData := rfl
@[simp] theorem State.freed_cpErr : (s.freed).cpErr = s.cpErr := rfl
@[simp] theorem State.freed_build : (s.freed).build = s.build := rfl
@[simp] theorem State.freed_peg : (s.freed).peg = s.peg := rfl
@[simp] theorem State.freed_cadence : (s.freed).cadence = s.cadence := rfl
@[simp] theorem State.freed_pauseLeft : (s.freed).pauseLeft = s.pauseLeft := rfl
@[simp] theorem State.freed_syncAt : (s.freed).syncAt = s.syncAt := rfl
@[simp] theorem State.freed_headroom : (s.freed).headroom = s.headroom := rfl
@[simp] theorem State.freed_ports : (s.freed).ports = s.ports := rfl
@[simp] theorem State.freed_reqs : (s.freed).reqs = s.reqs := rfl
@[simp] theorem State.freed_nextReq : (s.freed).nextReq = s.nextReq := rfl
@[simp] theorem State.freed_nextPiece : (s.freed).nextPiece = s.nextPiece := rfl
@[simp] theorem State.freed_fwds : (s.freed).fwds = s.fwds := rfl
@[simp] theorem State.freed_bridgeCr : (s.freed).bridgeCr = s.bridgeCr := rfl
@[simp] theorem State.freed_mapSave : (s.freed).mapSave = s.mapSave := rfl
@[simp] theorem State.freed_windows : (s.freed).windows = s.windows := rfl
@[simp] theorem State.freed_cache : (s.freed).cache = s.cache := rfl
@[simp] theorem State.freed_misses : (s.freed).misses = s.misses := rfl
@[simp] theorem State.freed_scmds : (s.freed).scmds = s.scmds := rfl
@[simp] theorem State.freed_cacheFull : (s.freed).cacheFull = s.cacheFull := rfl
@[simp] theorem State.freed_vtime : (s.freed).vtime = s.vtime := rfl
@[simp] theorem State.freed_gates : (s.freed).gates = s.gates := rfl
@[simp] theorem State.freed_lanes : (s.freed).lanes = s.lanes := rfl
@[simp] theorem State.freed_sorting : (s.freed).sorting = s.sorting := rfl
@[simp] theorem State.freed_outputs : (s.freed).outputs = s.outputs := rfl
@[simp] theorem State.freed_quota : (s.freed).quota = s.quota := rfl
@[simp] theorem State.freed_pccs : (s.freed).pccs = s.pccs := rfl
@[simp] theorem State.freed_mults : (s.freed).mults = s.mults := rfl
@[simp] theorem State.freed_dram : (s.freed).dram = s.dram := rfl
@[simp] theorem State.freed_fills : (s.freed).fills = s.fills := rfl
@[simp] theorem State.freed_migs : (s.freed).migs = s.migs := rfl
@[simp] theorem State.freed_migReasons : (s.freed).migReasons = s.migReasons := rfl
@[simp] theorem State.freed_salvage : (s.freed).salvage = s.salvage := rfl
@[simp] theorem State.freed_events : (s.freed).events = s.events := rfl
@[simp] theorem State.freed_dropCount : (s.freed).dropCount = s.dropCount := rfl
@[simp] theorem State.freed_dropStamp : (s.freed).dropStamp = s.dropStamp := rfl
@[simp] theorem State.freed_phyJobs : (s.freed).phyJobs = s.phyJobs := rfl
@[simp] theorem State.freed_slots : (s.freed).slots = s.slots := rfl
@[simp] theorem State.freed_launchQ : (s.freed).launchQ = s.launchQ := rfl
@[simp] theorem State.freed_ctxs : (s.freed).ctxs = s.ctxs := rfl
@[simp] theorem State.freed_waiters : (s.freed).waiters = s.waiters := rfl
@[simp] theorem State.freed_bows : (s.freed).bows = s.bows := rfl
@[simp] theorem State.freed_chks : (s.freed).chks = s.chks := rfl
@[simp] theorem State.freed_jobs : (s.freed).jobs = s.jobs := rfl
@[simp] theorem State.freed_nextJob : (s.freed).nextJob = s.nextJob := rfl
@[simp] theorem State.freed_nmuSince : (s.freed).nmuSince = s.nmuSince := rfl
@[simp] theorem State.freed_nmuTurn : (s.freed).nmuTurn = s.nmuTurn := rfl
@[simp] theorem State.freed_nmuLast : (s.freed).nmuLast = s.nmuLast := rfl
@[simp] theorem State.freed_power : (s.freed).power = s.power := rfl
@[simp] theorem State.freed_drone : (s.freed).drone = s.drone := rfl
@[simp] theorem State.freed_image : (s.freed).image = s.image := rfl
@[simp] theorem State.freed_levels : (s.freed).levels = s.levels := rfl
@[simp] theorem State.freed_fuses : (s.freed).fuses = s.fuses := rfl
@[simp] theorem State.freed_prog : (s.freed).prog = s.prog := rfl
@[simp] theorem State.freed_ucode : (s.freed).ucode = s.ucode := rfl
@[simp] theorem State.freed_trainLost : (s.freed).trainLost = s.trainLost := rfl
@[simp] theorem State.freed_sweep : (s.freed).sweep = s.sweep := rfl
@[simp] theorem State.freed_tallyAt : (s.freed).tallyAt = s.tallyAt := rfl

/-! ### setPort -/
@[simp] theorem State.setPort_pending (n : Nat) (p : Port) : (s.setPort n p).pending = s.pending := rfl
@[simp] theorem State.setPort_cpWaiting (n : Nat) (p : Port) : (s.setPort n p).cpWaiting = s.cpWaiting := rfl
@[simp] theorem State.setPort_regs (n : Nat) (p : Port) : (s.setPort n p).regs = s.regs := rfl
@[simp] theorem State.setPort_cpRData (n : Nat) (p : Port) : (s.setPort n p).cpRData = s.cpRData := rfl
@[simp] theorem State.setPort_cpErr (n : Nat) (p : Port) : (s.setPort n p).cpErr = s.cpErr := rfl
@[simp] theorem State.setPort_free (n : Nat) (p : Port) : (s.setPort n p).free = s.free := rfl
@[simp] theorem State.setPort_build (n : Nat) (p : Port) : (s.setPort n p).build = s.build := rfl
@[simp] theorem State.setPort_peg (n : Nat) (p : Port) : (s.setPort n p).peg = s.peg := rfl
@[simp] theorem State.setPort_cadence (n : Nat) (p : Port) : (s.setPort n p).cadence = s.cadence := rfl
@[simp] theorem State.setPort_pauseLeft (n : Nat) (p : Port) : (s.setPort n p).pauseLeft = s.pauseLeft := rfl
@[simp] theorem State.setPort_syncAt (n : Nat) (p : Port) : (s.setPort n p).syncAt = s.syncAt := rfl
@[simp] theorem State.setPort_headroom (n : Nat) (p : Port) : (s.setPort n p).headroom = s.headroom := rfl
@[simp] theorem State.setPort_reqs (n : Nat) (p : Port) : (s.setPort n p).reqs = s.reqs := rfl
@[simp] theorem State.setPort_nextReq (n : Nat) (p : Port) : (s.setPort n p).nextReq = s.nextReq := rfl
@[simp] theorem State.setPort_nextPiece (n : Nat) (p : Port) : (s.setPort n p).nextPiece = s.nextPiece := rfl
@[simp] theorem State.setPort_fwds (n : Nat) (p : Port) : (s.setPort n p).fwds = s.fwds := rfl
@[simp] theorem State.setPort_bridgeCr (n : Nat) (p : Port) : (s.setPort n p).bridgeCr = s.bridgeCr := rfl
@[simp] theorem State.setPort_mapSave (n : Nat) (p : Port) : (s.setPort n p).mapSave = s.mapSave := rfl
@[simp] theorem State.setPort_windows (n : Nat) (p : Port) : (s.setPort n p).windows = s.windows := rfl
@[simp] theorem State.setPort_cache (n : Nat) (p : Port) : (s.setPort n p).cache = s.cache := rfl
@[simp] theorem State.setPort_misses (n : Nat) (p : Port) : (s.setPort n p).misses = s.misses := rfl
@[simp] theorem State.setPort_scmds (n : Nat) (p : Port) : (s.setPort n p).scmds = s.scmds := rfl
@[simp] theorem State.setPort_cacheFull (n : Nat) (p : Port) : (s.setPort n p).cacheFull = s.cacheFull := rfl
@[simp] theorem State.setPort_vtime (n : Nat) (p : Port) : (s.setPort n p).vtime = s.vtime := rfl
@[simp] theorem State.setPort_gates (n : Nat) (p : Port) : (s.setPort n p).gates = s.gates := rfl
@[simp] theorem State.setPort_lanes (n : Nat) (p : Port) : (s.setPort n p).lanes = s.lanes := rfl
@[simp] theorem State.setPort_sorting (n : Nat) (p : Port) : (s.setPort n p).sorting = s.sorting := rfl
@[simp] theorem State.setPort_outputs (n : Nat) (p : Port) : (s.setPort n p).outputs = s.outputs := rfl
@[simp] theorem State.setPort_quota (n : Nat) (p : Port) : (s.setPort n p).quota = s.quota := rfl
@[simp] theorem State.setPort_pccs (n : Nat) (p : Port) : (s.setPort n p).pccs = s.pccs := rfl
@[simp] theorem State.setPort_mults (n : Nat) (p : Port) : (s.setPort n p).mults = s.mults := rfl
@[simp] theorem State.setPort_dram (n : Nat) (p : Port) : (s.setPort n p).dram = s.dram := rfl
@[simp] theorem State.setPort_fills (n : Nat) (p : Port) : (s.setPort n p).fills = s.fills := rfl
@[simp] theorem State.setPort_migs (n : Nat) (p : Port) : (s.setPort n p).migs = s.migs := rfl
@[simp] theorem State.setPort_migReasons (n : Nat) (p : Port) : (s.setPort n p).migReasons = s.migReasons := rfl
@[simp] theorem State.setPort_salvage (n : Nat) (p : Port) : (s.setPort n p).salvage = s.salvage := rfl
@[simp] theorem State.setPort_events (n : Nat) (p : Port) : (s.setPort n p).events = s.events := rfl
@[simp] theorem State.setPort_dropCount (n : Nat) (p : Port) : (s.setPort n p).dropCount = s.dropCount := rfl
@[simp] theorem State.setPort_dropStamp (n : Nat) (p : Port) : (s.setPort n p).dropStamp = s.dropStamp := rfl
@[simp] theorem State.setPort_phyJobs (n : Nat) (p : Port) : (s.setPort n p).phyJobs = s.phyJobs := rfl
@[simp] theorem State.setPort_slots (n : Nat) (p : Port) : (s.setPort n p).slots = s.slots := rfl
@[simp] theorem State.setPort_launchQ (n : Nat) (p : Port) : (s.setPort n p).launchQ = s.launchQ := rfl
@[simp] theorem State.setPort_ctxs (n : Nat) (p : Port) : (s.setPort n p).ctxs = s.ctxs := rfl
@[simp] theorem State.setPort_waiters (n : Nat) (p : Port) : (s.setPort n p).waiters = s.waiters := rfl
@[simp] theorem State.setPort_bows (n : Nat) (p : Port) : (s.setPort n p).bows = s.bows := rfl
@[simp] theorem State.setPort_chks (n : Nat) (p : Port) : (s.setPort n p).chks = s.chks := rfl
@[simp] theorem State.setPort_jobs (n : Nat) (p : Port) : (s.setPort n p).jobs = s.jobs := rfl
@[simp] theorem State.setPort_nextJob (n : Nat) (p : Port) : (s.setPort n p).nextJob = s.nextJob := rfl
@[simp] theorem State.setPort_nmuSince (n : Nat) (p : Port) : (s.setPort n p).nmuSince = s.nmuSince := rfl
@[simp] theorem State.setPort_nmuTurn (n : Nat) (p : Port) : (s.setPort n p).nmuTurn = s.nmuTurn := rfl
@[simp] theorem State.setPort_nmuLast (n : Nat) (p : Port) : (s.setPort n p).nmuLast = s.nmuLast := rfl
@[simp] theorem State.setPort_power (n : Nat) (p : Port) : (s.setPort n p).power = s.power := rfl
@[simp] theorem State.setPort_drone (n : Nat) (p : Port) : (s.setPort n p).drone = s.drone := rfl
@[simp] theorem State.setPort_image (n : Nat) (p : Port) : (s.setPort n p).image = s.image := rfl
@[simp] theorem State.setPort_levels (n : Nat) (p : Port) : (s.setPort n p).levels = s.levels := rfl
@[simp] theorem State.setPort_fuses (n : Nat) (p : Port) : (s.setPort n p).fuses = s.fuses := rfl
@[simp] theorem State.setPort_prog (n : Nat) (p : Port) : (s.setPort n p).prog = s.prog := rfl
@[simp] theorem State.setPort_ucode (n : Nat) (p : Port) : (s.setPort n p).ucode = s.ucode := rfl
@[simp] theorem State.setPort_trainLost (n : Nat) (p : Port) : (s.setPort n p).trainLost = s.trainLost := rfl
@[simp] theorem State.setPort_sweep (n : Nat) (p : Port) : (s.setPort n p).sweep = s.sweep := rfl
@[simp] theorem State.setPort_tallyAt (n : Nat) (p : Port) : (s.setPort n p).tallyAt = s.tallyAt := rfl

/-! ### putReq -/
@[simp] theorem State.putReq_pending (i : Nat) (r : Req) : (s.putReq i r).pending = s.pending := rfl
@[simp] theorem State.putReq_cpWaiting (i : Nat) (r : Req) : (s.putReq i r).cpWaiting = s.cpWaiting := rfl
@[simp] theorem State.putReq_regs (i : Nat) (r : Req) : (s.putReq i r).regs = s.regs := rfl
@[simp] theorem State.putReq_cpRData (i : Nat) (r : Req) : (s.putReq i r).cpRData = s.cpRData := rfl
@[simp] theorem State.putReq_cpErr (i : Nat) (r : Req) : (s.putReq i r).cpErr = s.cpErr := rfl
@[simp] theorem State.putReq_free (i : Nat) (r : Req) : (s.putReq i r).free = s.free := rfl
@[simp] theorem State.putReq_build (i : Nat) (r : Req) : (s.putReq i r).build = s.build := rfl
@[simp] theorem State.putReq_peg (i : Nat) (r : Req) : (s.putReq i r).peg = s.peg := rfl
@[simp] theorem State.putReq_cadence (i : Nat) (r : Req) : (s.putReq i r).cadence = s.cadence := rfl
@[simp] theorem State.putReq_pauseLeft (i : Nat) (r : Req) : (s.putReq i r).pauseLeft = s.pauseLeft := rfl
@[simp] theorem State.putReq_syncAt (i : Nat) (r : Req) : (s.putReq i r).syncAt = s.syncAt := rfl
@[simp] theorem State.putReq_headroom (i : Nat) (r : Req) : (s.putReq i r).headroom = s.headroom := rfl
@[simp] theorem State.putReq_ports (i : Nat) (r : Req) : (s.putReq i r).ports = s.ports := rfl
@[simp] theorem State.putReq_nextReq (i : Nat) (r : Req) : (s.putReq i r).nextReq = s.nextReq := rfl
@[simp] theorem State.putReq_nextPiece (i : Nat) (r : Req) : (s.putReq i r).nextPiece = s.nextPiece := rfl
@[simp] theorem State.putReq_fwds (i : Nat) (r : Req) : (s.putReq i r).fwds = s.fwds := rfl
@[simp] theorem State.putReq_bridgeCr (i : Nat) (r : Req) : (s.putReq i r).bridgeCr = s.bridgeCr := rfl
@[simp] theorem State.putReq_mapSave (i : Nat) (r : Req) : (s.putReq i r).mapSave = s.mapSave := rfl
@[simp] theorem State.putReq_windows (i : Nat) (r : Req) : (s.putReq i r).windows = s.windows := rfl
@[simp] theorem State.putReq_cache (i : Nat) (r : Req) : (s.putReq i r).cache = s.cache := rfl
@[simp] theorem State.putReq_misses (i : Nat) (r : Req) : (s.putReq i r).misses = s.misses := rfl
@[simp] theorem State.putReq_scmds (i : Nat) (r : Req) : (s.putReq i r).scmds = s.scmds := rfl
@[simp] theorem State.putReq_cacheFull (i : Nat) (r : Req) : (s.putReq i r).cacheFull = s.cacheFull := rfl
@[simp] theorem State.putReq_vtime (i : Nat) (r : Req) : (s.putReq i r).vtime = s.vtime := rfl
@[simp] theorem State.putReq_gates (i : Nat) (r : Req) : (s.putReq i r).gates = s.gates := rfl
@[simp] theorem State.putReq_lanes (i : Nat) (r : Req) : (s.putReq i r).lanes = s.lanes := rfl
@[simp] theorem State.putReq_sorting (i : Nat) (r : Req) : (s.putReq i r).sorting = s.sorting := rfl
@[simp] theorem State.putReq_outputs (i : Nat) (r : Req) : (s.putReq i r).outputs = s.outputs := rfl
@[simp] theorem State.putReq_quota (i : Nat) (r : Req) : (s.putReq i r).quota = s.quota := rfl
@[simp] theorem State.putReq_pccs (i : Nat) (r : Req) : (s.putReq i r).pccs = s.pccs := rfl
@[simp] theorem State.putReq_mults (i : Nat) (r : Req) : (s.putReq i r).mults = s.mults := rfl
@[simp] theorem State.putReq_dram (i : Nat) (r : Req) : (s.putReq i r).dram = s.dram := rfl
@[simp] theorem State.putReq_fills (i : Nat) (r : Req) : (s.putReq i r).fills = s.fills := rfl
@[simp] theorem State.putReq_migs (i : Nat) (r : Req) : (s.putReq i r).migs = s.migs := rfl
@[simp] theorem State.putReq_migReasons (i : Nat) (r : Req) : (s.putReq i r).migReasons = s.migReasons := rfl
@[simp] theorem State.putReq_salvage (i : Nat) (r : Req) : (s.putReq i r).salvage = s.salvage := rfl
@[simp] theorem State.putReq_events (i : Nat) (r : Req) : (s.putReq i r).events = s.events := rfl
@[simp] theorem State.putReq_dropCount (i : Nat) (r : Req) : (s.putReq i r).dropCount = s.dropCount := rfl
@[simp] theorem State.putReq_dropStamp (i : Nat) (r : Req) : (s.putReq i r).dropStamp = s.dropStamp := rfl
@[simp] theorem State.putReq_phyJobs (i : Nat) (r : Req) : (s.putReq i r).phyJobs = s.phyJobs := rfl
@[simp] theorem State.putReq_slots (i : Nat) (r : Req) : (s.putReq i r).slots = s.slots := rfl
@[simp] theorem State.putReq_launchQ (i : Nat) (r : Req) : (s.putReq i r).launchQ = s.launchQ := rfl
@[simp] theorem State.putReq_ctxs (i : Nat) (r : Req) : (s.putReq i r).ctxs = s.ctxs := rfl
@[simp] theorem State.putReq_waiters (i : Nat) (r : Req) : (s.putReq i r).waiters = s.waiters := rfl
@[simp] theorem State.putReq_bows (i : Nat) (r : Req) : (s.putReq i r).bows = s.bows := rfl
@[simp] theorem State.putReq_chks (i : Nat) (r : Req) : (s.putReq i r).chks = s.chks := rfl
@[simp] theorem State.putReq_jobs (i : Nat) (r : Req) : (s.putReq i r).jobs = s.jobs := rfl
@[simp] theorem State.putReq_nextJob (i : Nat) (r : Req) : (s.putReq i r).nextJob = s.nextJob := rfl
@[simp] theorem State.putReq_nmuSince (i : Nat) (r : Req) : (s.putReq i r).nmuSince = s.nmuSince := rfl
@[simp] theorem State.putReq_nmuTurn (i : Nat) (r : Req) : (s.putReq i r).nmuTurn = s.nmuTurn := rfl
@[simp] theorem State.putReq_nmuLast (i : Nat) (r : Req) : (s.putReq i r).nmuLast = s.nmuLast := rfl
@[simp] theorem State.putReq_power (i : Nat) (r : Req) : (s.putReq i r).power = s.power := rfl
@[simp] theorem State.putReq_drone (i : Nat) (r : Req) : (s.putReq i r).drone = s.drone := rfl
@[simp] theorem State.putReq_image (i : Nat) (r : Req) : (s.putReq i r).image = s.image := rfl
@[simp] theorem State.putReq_levels (i : Nat) (r : Req) : (s.putReq i r).levels = s.levels := rfl
@[simp] theorem State.putReq_fuses (i : Nat) (r : Req) : (s.putReq i r).fuses = s.fuses := rfl
@[simp] theorem State.putReq_prog (i : Nat) (r : Req) : (s.putReq i r).prog = s.prog := rfl
@[simp] theorem State.putReq_ucode (i : Nat) (r : Req) : (s.putReq i r).ucode = s.ucode := rfl
@[simp] theorem State.putReq_trainLost (i : Nat) (r : Req) : (s.putReq i r).trainLost = s.trainLost := rfl
@[simp] theorem State.putReq_sweep (i : Nat) (r : Req) : (s.putReq i r).sweep = s.sweep := rfl
@[simp] theorem State.putReq_tallyAt (i : Nat) (r : Req) : (s.putReq i r).tallyAt = s.tallyAt := rfl

/-! ### dropReq -/
@[simp] theorem State.dropReq_pending (i : Nat) : (s.dropReq i).pending = s.pending := rfl
@[simp] theorem State.dropReq_cpWaiting (i : Nat) : (s.dropReq i).cpWaiting = s.cpWaiting := rfl
@[simp] theorem State.dropReq_regs (i : Nat) : (s.dropReq i).regs = s.regs := rfl
@[simp] theorem State.dropReq_cpRData (i : Nat) : (s.dropReq i).cpRData = s.cpRData := rfl
@[simp] theorem State.dropReq_cpErr (i : Nat) : (s.dropReq i).cpErr = s.cpErr := rfl
@[simp] theorem State.dropReq_free (i : Nat) : (s.dropReq i).free = s.free := rfl
@[simp] theorem State.dropReq_build (i : Nat) : (s.dropReq i).build = s.build := rfl
@[simp] theorem State.dropReq_peg (i : Nat) : (s.dropReq i).peg = s.peg := rfl
@[simp] theorem State.dropReq_cadence (i : Nat) : (s.dropReq i).cadence = s.cadence := rfl
@[simp] theorem State.dropReq_pauseLeft (i : Nat) : (s.dropReq i).pauseLeft = s.pauseLeft := rfl
@[simp] theorem State.dropReq_syncAt (i : Nat) : (s.dropReq i).syncAt = s.syncAt := rfl
@[simp] theorem State.dropReq_headroom (i : Nat) : (s.dropReq i).headroom = s.headroom := rfl
@[simp] theorem State.dropReq_ports (i : Nat) : (s.dropReq i).ports = s.ports := rfl
@[simp] theorem State.dropReq_nextReq (i : Nat) : (s.dropReq i).nextReq = s.nextReq := rfl
@[simp] theorem State.dropReq_nextPiece (i : Nat) : (s.dropReq i).nextPiece = s.nextPiece := rfl
@[simp] theorem State.dropReq_fwds (i : Nat) : (s.dropReq i).fwds = s.fwds := rfl
@[simp] theorem State.dropReq_bridgeCr (i : Nat) : (s.dropReq i).bridgeCr = s.bridgeCr := rfl
@[simp] theorem State.dropReq_mapSave (i : Nat) : (s.dropReq i).mapSave = s.mapSave := rfl
@[simp] theorem State.dropReq_windows (i : Nat) : (s.dropReq i).windows = s.windows := rfl
@[simp] theorem State.dropReq_cache (i : Nat) : (s.dropReq i).cache = s.cache := rfl
@[simp] theorem State.dropReq_misses (i : Nat) : (s.dropReq i).misses = s.misses := rfl
@[simp] theorem State.dropReq_scmds (i : Nat) : (s.dropReq i).scmds = s.scmds := rfl
@[simp] theorem State.dropReq_cacheFull (i : Nat) : (s.dropReq i).cacheFull = s.cacheFull := rfl
@[simp] theorem State.dropReq_vtime (i : Nat) : (s.dropReq i).vtime = s.vtime := rfl
@[simp] theorem State.dropReq_gates (i : Nat) : (s.dropReq i).gates = s.gates := rfl
@[simp] theorem State.dropReq_lanes (i : Nat) : (s.dropReq i).lanes = s.lanes := rfl
@[simp] theorem State.dropReq_sorting (i : Nat) : (s.dropReq i).sorting = s.sorting := rfl
@[simp] theorem State.dropReq_outputs (i : Nat) : (s.dropReq i).outputs = s.outputs := rfl
@[simp] theorem State.dropReq_quota (i : Nat) : (s.dropReq i).quota = s.quota := rfl
@[simp] theorem State.dropReq_pccs (i : Nat) : (s.dropReq i).pccs = s.pccs := rfl
@[simp] theorem State.dropReq_mults (i : Nat) : (s.dropReq i).mults = s.mults := rfl
@[simp] theorem State.dropReq_dram (i : Nat) : (s.dropReq i).dram = s.dram := rfl
@[simp] theorem State.dropReq_fills (i : Nat) : (s.dropReq i).fills = s.fills := rfl
@[simp] theorem State.dropReq_migs (i : Nat) : (s.dropReq i).migs = s.migs := rfl
@[simp] theorem State.dropReq_migReasons (i : Nat) : (s.dropReq i).migReasons = s.migReasons := rfl
@[simp] theorem State.dropReq_salvage (i : Nat) : (s.dropReq i).salvage = s.salvage := rfl
@[simp] theorem State.dropReq_events (i : Nat) : (s.dropReq i).events = s.events := rfl
@[simp] theorem State.dropReq_dropCount (i : Nat) : (s.dropReq i).dropCount = s.dropCount := rfl
@[simp] theorem State.dropReq_dropStamp (i : Nat) : (s.dropReq i).dropStamp = s.dropStamp := rfl
@[simp] theorem State.dropReq_phyJobs (i : Nat) : (s.dropReq i).phyJobs = s.phyJobs := rfl
@[simp] theorem State.dropReq_slots (i : Nat) : (s.dropReq i).slots = s.slots := rfl
@[simp] theorem State.dropReq_launchQ (i : Nat) : (s.dropReq i).launchQ = s.launchQ := rfl
@[simp] theorem State.dropReq_ctxs (i : Nat) : (s.dropReq i).ctxs = s.ctxs := rfl
@[simp] theorem State.dropReq_waiters (i : Nat) : (s.dropReq i).waiters = s.waiters := rfl
@[simp] theorem State.dropReq_bows (i : Nat) : (s.dropReq i).bows = s.bows := rfl
@[simp] theorem State.dropReq_chks (i : Nat) : (s.dropReq i).chks = s.chks := rfl
@[simp] theorem State.dropReq_jobs (i : Nat) : (s.dropReq i).jobs = s.jobs := rfl
@[simp] theorem State.dropReq_nextJob (i : Nat) : (s.dropReq i).nextJob = s.nextJob := rfl
@[simp] theorem State.dropReq_nmuSince (i : Nat) : (s.dropReq i).nmuSince = s.nmuSince := rfl
@[simp] theorem State.dropReq_nmuTurn (i : Nat) : (s.dropReq i).nmuTurn = s.nmuTurn := rfl
@[simp] theorem State.dropReq_nmuLast (i : Nat) : (s.dropReq i).nmuLast = s.nmuLast := rfl
@[simp] theorem State.dropReq_power (i : Nat) : (s.dropReq i).power = s.power := rfl
@[simp] theorem State.dropReq_drone (i : Nat) : (s.dropReq i).drone = s.drone := rfl
@[simp] theorem State.dropReq_image (i : Nat) : (s.dropReq i).image = s.image := rfl
@[simp] theorem State.dropReq_levels (i : Nat) : (s.dropReq i).levels = s.levels := rfl
@[simp] theorem State.dropReq_fuses (i : Nat) : (s.dropReq i).fuses = s.fuses := rfl
@[simp] theorem State.dropReq_prog (i : Nat) : (s.dropReq i).prog = s.prog := rfl
@[simp] theorem State.dropReq_ucode (i : Nat) : (s.dropReq i).ucode = s.ucode := rfl
@[simp] theorem State.dropReq_trainLost (i : Nat) : (s.dropReq i).trainLost = s.trainLost := rfl
@[simp] theorem State.dropReq_sweep (i : Nat) : (s.dropReq i).sweep = s.sweep := rfl
@[simp] theorem State.dropReq_tallyAt (i : Nat) : (s.dropReq i).tallyAt = s.tallyAt := rfl

/-! ### setPcc -/
@[simp] theorem State.setPcc_pending (k p : Nat) (c : Pcc) : (s.setPcc k p c).pending = s.pending := rfl
@[simp] theorem State.setPcc_cpWaiting (k p : Nat) (c : Pcc) : (s.setPcc k p c).cpWaiting = s.cpWaiting := rfl
@[simp] theorem State.setPcc_regs (k p : Nat) (c : Pcc) : (s.setPcc k p c).regs = s.regs := rfl
@[simp] theorem State.setPcc_cpRData (k p : Nat) (c : Pcc) : (s.setPcc k p c).cpRData = s.cpRData := rfl
@[simp] theorem State.setPcc_cpErr (k p : Nat) (c : Pcc) : (s.setPcc k p c).cpErr = s.cpErr := rfl
@[simp] theorem State.setPcc_free (k p : Nat) (c : Pcc) : (s.setPcc k p c).free = s.free := rfl
@[simp] theorem State.setPcc_build (k p : Nat) (c : Pcc) : (s.setPcc k p c).build = s.build := rfl
@[simp] theorem State.setPcc_peg (k p : Nat) (c : Pcc) : (s.setPcc k p c).peg = s.peg := rfl
@[simp] theorem State.setPcc_cadence (k p : Nat) (c : Pcc) : (s.setPcc k p c).cadence = s.cadence := rfl
@[simp] theorem State.setPcc_pauseLeft (k p : Nat) (c : Pcc) : (s.setPcc k p c).pauseLeft = s.pauseLeft := rfl
@[simp] theorem State.setPcc_syncAt (k p : Nat) (c : Pcc) : (s.setPcc k p c).syncAt = s.syncAt := rfl
@[simp] theorem State.setPcc_headroom (k p : Nat) (c : Pcc) : (s.setPcc k p c).headroom = s.headroom := rfl
@[simp] theorem State.setPcc_ports (k p : Nat) (c : Pcc) : (s.setPcc k p c).ports = s.ports := rfl
@[simp] theorem State.setPcc_reqs (k p : Nat) (c : Pcc) : (s.setPcc k p c).reqs = s.reqs := rfl
@[simp] theorem State.setPcc_nextReq (k p : Nat) (c : Pcc) : (s.setPcc k p c).nextReq = s.nextReq := rfl
@[simp] theorem State.setPcc_nextPiece (k p : Nat) (c : Pcc) : (s.setPcc k p c).nextPiece = s.nextPiece := rfl
@[simp] theorem State.setPcc_fwds (k p : Nat) (c : Pcc) : (s.setPcc k p c).fwds = s.fwds := rfl
@[simp] theorem State.setPcc_bridgeCr (k p : Nat) (c : Pcc) : (s.setPcc k p c).bridgeCr = s.bridgeCr := rfl
@[simp] theorem State.setPcc_mapSave (k p : Nat) (c : Pcc) : (s.setPcc k p c).mapSave = s.mapSave := rfl
@[simp] theorem State.setPcc_windows (k p : Nat) (c : Pcc) : (s.setPcc k p c).windows = s.windows := rfl
@[simp] theorem State.setPcc_cache (k p : Nat) (c : Pcc) : (s.setPcc k p c).cache = s.cache := rfl
@[simp] theorem State.setPcc_misses (k p : Nat) (c : Pcc) : (s.setPcc k p c).misses = s.misses := rfl
@[simp] theorem State.setPcc_scmds (k p : Nat) (c : Pcc) : (s.setPcc k p c).scmds = s.scmds := rfl
@[simp] theorem State.setPcc_cacheFull (k p : Nat) (c : Pcc) : (s.setPcc k p c).cacheFull = s.cacheFull := rfl
@[simp] theorem State.setPcc_vtime (k p : Nat) (c : Pcc) : (s.setPcc k p c).vtime = s.vtime := rfl
@[simp] theorem State.setPcc_gates (k p : Nat) (c : Pcc) : (s.setPcc k p c).gates = s.gates := rfl
@[simp] theorem State.setPcc_lanes (k p : Nat) (c : Pcc) : (s.setPcc k p c).lanes = s.lanes := rfl
@[simp] theorem State.setPcc_sorting (k p : Nat) (c : Pcc) : (s.setPcc k p c).sorting = s.sorting := rfl
@[simp] theorem State.setPcc_outputs (k p : Nat) (c : Pcc) : (s.setPcc k p c).outputs = s.outputs := rfl
@[simp] theorem State.setPcc_quota (k p : Nat) (c : Pcc) : (s.setPcc k p c).quota = s.quota := rfl
@[simp] theorem State.setPcc_mults (k p : Nat) (c : Pcc) : (s.setPcc k p c).mults = s.mults := rfl
@[simp] theorem State.setPcc_dram (k p : Nat) (c : Pcc) : (s.setPcc k p c).dram = s.dram := rfl
@[simp] theorem State.setPcc_fills (k p : Nat) (c : Pcc) : (s.setPcc k p c).fills = s.fills := rfl
@[simp] theorem State.setPcc_migs (k p : Nat) (c : Pcc) : (s.setPcc k p c).migs = s.migs := rfl
@[simp] theorem State.setPcc_migReasons (k p : Nat) (c : Pcc) : (s.setPcc k p c).migReasons = s.migReasons := rfl
@[simp] theorem State.setPcc_salvage (k p : Nat) (c : Pcc) : (s.setPcc k p c).salvage = s.salvage := rfl
@[simp] theorem State.setPcc_events (k p : Nat) (c : Pcc) : (s.setPcc k p c).events = s.events := rfl
@[simp] theorem State.setPcc_dropCount (k p : Nat) (c : Pcc) : (s.setPcc k p c).dropCount = s.dropCount := rfl
@[simp] theorem State.setPcc_dropStamp (k p : Nat) (c : Pcc) : (s.setPcc k p c).dropStamp = s.dropStamp := rfl
@[simp] theorem State.setPcc_phyJobs (k p : Nat) (c : Pcc) : (s.setPcc k p c).phyJobs = s.phyJobs := rfl
@[simp] theorem State.setPcc_slots (k p : Nat) (c : Pcc) : (s.setPcc k p c).slots = s.slots := rfl
@[simp] theorem State.setPcc_launchQ (k p : Nat) (c : Pcc) : (s.setPcc k p c).launchQ = s.launchQ := rfl
@[simp] theorem State.setPcc_ctxs (k p : Nat) (c : Pcc) : (s.setPcc k p c).ctxs = s.ctxs := rfl
@[simp] theorem State.setPcc_waiters (k p : Nat) (c : Pcc) : (s.setPcc k p c).waiters = s.waiters := rfl
@[simp] theorem State.setPcc_bows (k p : Nat) (c : Pcc) : (s.setPcc k p c).bows = s.bows := rfl
@[simp] theorem State.setPcc_chks (k p : Nat) (c : Pcc) : (s.setPcc k p c).chks = s.chks := rfl
@[simp] theorem State.setPcc_jobs (k p : Nat) (c : Pcc) : (s.setPcc k p c).jobs = s.jobs := rfl
@[simp] theorem State.setPcc_nextJob (k p : Nat) (c : Pcc) : (s.setPcc k p c).nextJob = s.nextJob := rfl
@[simp] theorem State.setPcc_nmuSince (k p : Nat) (c : Pcc) : (s.setPcc k p c).nmuSince = s.nmuSince := rfl
@[simp] theorem State.setPcc_nmuTurn (k p : Nat) (c : Pcc) : (s.setPcc k p c).nmuTurn = s.nmuTurn := rfl
@[simp] theorem State.setPcc_nmuLast (k p : Nat) (c : Pcc) : (s.setPcc k p c).nmuLast = s.nmuLast := rfl
@[simp] theorem State.setPcc_power (k p : Nat) (c : Pcc) : (s.setPcc k p c).power = s.power := rfl
@[simp] theorem State.setPcc_drone (k p : Nat) (c : Pcc) : (s.setPcc k p c).drone = s.drone := rfl
@[simp] theorem State.setPcc_image (k p : Nat) (c : Pcc) : (s.setPcc k p c).image = s.image := rfl
@[simp] theorem State.setPcc_levels (k p : Nat) (c : Pcc) : (s.setPcc k p c).levels = s.levels := rfl
@[simp] theorem State.setPcc_fuses (k p : Nat) (c : Pcc) : (s.setPcc k p c).fuses = s.fuses := rfl
@[simp] theorem State.setPcc_prog (k p : Nat) (c : Pcc) : (s.setPcc k p c).prog = s.prog := rfl
@[simp] theorem State.setPcc_ucode (k p : Nat) (c : Pcc) : (s.setPcc k p c).ucode = s.ucode := rfl
@[simp] theorem State.setPcc_trainLost (k p : Nat) (c : Pcc) : (s.setPcc k p c).trainLost = s.trainLost := rfl
@[simp] theorem State.setPcc_sweep (k p : Nat) (c : Pcc) : (s.setPcc k p c).sweep = s.sweep := rfl
@[simp] theorem State.setPcc_tallyAt (k p : Nat) (c : Pcc) : (s.setPcc k p c).tallyAt = s.tallyAt := rfl

/-! ### setOut -/
@[simp] theorem State.setOut_pending (k p : Nat) (o : Output) : (s.setOut k p o).pending = s.pending := rfl
@[simp] theorem State.setOut_cpWaiting (k p : Nat) (o : Output) : (s.setOut k p o).cpWaiting = s.cpWaiting := rfl
@[simp] theorem State.setOut_regs (k p : Nat) (o : Output) : (s.setOut k p o).regs = s.regs := rfl
@[simp] theorem State.setOut_cpRData (k p : Nat) (o : Output) : (s.setOut k p o).cpRData = s.cpRData := rfl
@[simp] theorem State.setOut_cpErr (k p : Nat) (o : Output) : (s.setOut k p o).cpErr = s.cpErr := rfl
@[simp] theorem State.setOut_free (k p : Nat) (o : Output) : (s.setOut k p o).free = s.free := rfl
@[simp] theorem State.setOut_build (k p : Nat) (o : Output) : (s.setOut k p o).build = s.build := rfl
@[simp] theorem State.setOut_peg (k p : Nat) (o : Output) : (s.setOut k p o).peg = s.peg := rfl
@[simp] theorem State.setOut_cadence (k p : Nat) (o : Output) : (s.setOut k p o).cadence = s.cadence := rfl
@[simp] theorem State.setOut_pauseLeft (k p : Nat) (o : Output) : (s.setOut k p o).pauseLeft = s.pauseLeft := rfl
@[simp] theorem State.setOut_syncAt (k p : Nat) (o : Output) : (s.setOut k p o).syncAt = s.syncAt := rfl
@[simp] theorem State.setOut_headroom (k p : Nat) (o : Output) : (s.setOut k p o).headroom = s.headroom := rfl
@[simp] theorem State.setOut_ports (k p : Nat) (o : Output) : (s.setOut k p o).ports = s.ports := rfl
@[simp] theorem State.setOut_reqs (k p : Nat) (o : Output) : (s.setOut k p o).reqs = s.reqs := rfl
@[simp] theorem State.setOut_nextReq (k p : Nat) (o : Output) : (s.setOut k p o).nextReq = s.nextReq := rfl
@[simp] theorem State.setOut_nextPiece (k p : Nat) (o : Output) : (s.setOut k p o).nextPiece = s.nextPiece := rfl
@[simp] theorem State.setOut_fwds (k p : Nat) (o : Output) : (s.setOut k p o).fwds = s.fwds := rfl
@[simp] theorem State.setOut_bridgeCr (k p : Nat) (o : Output) : (s.setOut k p o).bridgeCr = s.bridgeCr := rfl
@[simp] theorem State.setOut_mapSave (k p : Nat) (o : Output) : (s.setOut k p o).mapSave = s.mapSave := rfl
@[simp] theorem State.setOut_windows (k p : Nat) (o : Output) : (s.setOut k p o).windows = s.windows := rfl
@[simp] theorem State.setOut_cache (k p : Nat) (o : Output) : (s.setOut k p o).cache = s.cache := rfl
@[simp] theorem State.setOut_misses (k p : Nat) (o : Output) : (s.setOut k p o).misses = s.misses := rfl
@[simp] theorem State.setOut_scmds (k p : Nat) (o : Output) : (s.setOut k p o).scmds = s.scmds := rfl
@[simp] theorem State.setOut_cacheFull (k p : Nat) (o : Output) : (s.setOut k p o).cacheFull = s.cacheFull := rfl
@[simp] theorem State.setOut_vtime (k p : Nat) (o : Output) : (s.setOut k p o).vtime = s.vtime := rfl
@[simp] theorem State.setOut_gates (k p : Nat) (o : Output) : (s.setOut k p o).gates = s.gates := rfl
@[simp] theorem State.setOut_lanes (k p : Nat) (o : Output) : (s.setOut k p o).lanes = s.lanes := rfl
@[simp] theorem State.setOut_sorting (k p : Nat) (o : Output) : (s.setOut k p o).sorting = s.sorting := rfl
@[simp] theorem State.setOut_quota (k p : Nat) (o : Output) : (s.setOut k p o).quota = s.quota := rfl
@[simp] theorem State.setOut_pccs (k p : Nat) (o : Output) : (s.setOut k p o).pccs = s.pccs := rfl
@[simp] theorem State.setOut_mults (k p : Nat) (o : Output) : (s.setOut k p o).mults = s.mults := rfl
@[simp] theorem State.setOut_dram (k p : Nat) (o : Output) : (s.setOut k p o).dram = s.dram := rfl
@[simp] theorem State.setOut_fills (k p : Nat) (o : Output) : (s.setOut k p o).fills = s.fills := rfl
@[simp] theorem State.setOut_migs (k p : Nat) (o : Output) : (s.setOut k p o).migs = s.migs := rfl
@[simp] theorem State.setOut_migReasons (k p : Nat) (o : Output) : (s.setOut k p o).migReasons = s.migReasons := rfl
@[simp] theorem State.setOut_salvage (k p : Nat) (o : Output) : (s.setOut k p o).salvage = s.salvage := rfl
@[simp] theorem State.setOut_events (k p : Nat) (o : Output) : (s.setOut k p o).events = s.events := rfl
@[simp] theorem State.setOut_dropCount (k p : Nat) (o : Output) : (s.setOut k p o).dropCount = s.dropCount := rfl
@[simp] theorem State.setOut_dropStamp (k p : Nat) (o : Output) : (s.setOut k p o).dropStamp = s.dropStamp := rfl
@[simp] theorem State.setOut_phyJobs (k p : Nat) (o : Output) : (s.setOut k p o).phyJobs = s.phyJobs := rfl
@[simp] theorem State.setOut_slots (k p : Nat) (o : Output) : (s.setOut k p o).slots = s.slots := rfl
@[simp] theorem State.setOut_launchQ (k p : Nat) (o : Output) : (s.setOut k p o).launchQ = s.launchQ := rfl
@[simp] theorem State.setOut_ctxs (k p : Nat) (o : Output) : (s.setOut k p o).ctxs = s.ctxs := rfl
@[simp] theorem State.setOut_waiters (k p : Nat) (o : Output) : (s.setOut k p o).waiters = s.waiters := rfl
@[simp] theorem State.setOut_bows (k p : Nat) (o : Output) : (s.setOut k p o).bows = s.bows := rfl
@[simp] theorem State.setOut_chks (k p : Nat) (o : Output) : (s.setOut k p o).chks = s.chks := rfl
@[simp] theorem State.setOut_jobs (k p : Nat) (o : Output) : (s.setOut k p o).jobs = s.jobs := rfl
@[simp] theorem State.setOut_nextJob (k p : Nat) (o : Output) : (s.setOut k p o).nextJob = s.nextJob := rfl
@[simp] theorem State.setOut_nmuSince (k p : Nat) (o : Output) : (s.setOut k p o).nmuSince = s.nmuSince := rfl
@[simp] theorem State.setOut_nmuTurn (k p : Nat) (o : Output) : (s.setOut k p o).nmuTurn = s.nmuTurn := rfl
@[simp] theorem State.setOut_nmuLast (k p : Nat) (o : Output) : (s.setOut k p o).nmuLast = s.nmuLast := rfl
@[simp] theorem State.setOut_power (k p : Nat) (o : Output) : (s.setOut k p o).power = s.power := rfl
@[simp] theorem State.setOut_drone (k p : Nat) (o : Output) : (s.setOut k p o).drone = s.drone := rfl
@[simp] theorem State.setOut_image (k p : Nat) (o : Output) : (s.setOut k p o).image = s.image := rfl
@[simp] theorem State.setOut_levels (k p : Nat) (o : Output) : (s.setOut k p o).levels = s.levels := rfl
@[simp] theorem State.setOut_fuses (k p : Nat) (o : Output) : (s.setOut k p o).fuses = s.fuses := rfl
@[simp] theorem State.setOut_prog (k p : Nat) (o : Output) : (s.setOut k p o).prog = s.prog := rfl
@[simp] theorem State.setOut_ucode (k p : Nat) (o : Output) : (s.setOut k p o).ucode = s.ucode := rfl
@[simp] theorem State.setOut_trainLost (k p : Nat) (o : Output) : (s.setOut k p o).trainLost = s.trainLost := rfl
@[simp] theorem State.setOut_sweep (k p : Nat) (o : Output) : (s.setOut k p o).sweep = s.sweep := rfl
@[simp] theorem State.setOut_tallyAt (k p : Nat) (o : Output) : (s.setOut k p o).tallyAt = s.tallyAt := rfl

/-! ### setEntry -/
@[simp] theorem State.setEntry_pending (j : Nat) (e : Entry) : (s.setEntry j e).pending = s.pending := rfl
@[simp] theorem State.setEntry_cpWaiting (j : Nat) (e : Entry) : (s.setEntry j e).cpWaiting = s.cpWaiting := rfl
@[simp] theorem State.setEntry_regs (j : Nat) (e : Entry) : (s.setEntry j e).regs = s.regs := rfl
@[simp] theorem State.setEntry_cpRData (j : Nat) (e : Entry) : (s.setEntry j e).cpRData = s.cpRData := rfl
@[simp] theorem State.setEntry_cpErr (j : Nat) (e : Entry) : (s.setEntry j e).cpErr = s.cpErr := rfl
@[simp] theorem State.setEntry_free (j : Nat) (e : Entry) : (s.setEntry j e).free = s.free := rfl
@[simp] theorem State.setEntry_build (j : Nat) (e : Entry) : (s.setEntry j e).build = s.build := rfl
@[simp] theorem State.setEntry_peg (j : Nat) (e : Entry) : (s.setEntry j e).peg = s.peg := rfl
@[simp] theorem State.setEntry_cadence (j : Nat) (e : Entry) : (s.setEntry j e).cadence = s.cadence := rfl
@[simp] theorem State.setEntry_pauseLeft (j : Nat) (e : Entry) : (s.setEntry j e).pauseLeft = s.pauseLeft := rfl
@[simp] theorem State.setEntry_syncAt (j : Nat) (e : Entry) : (s.setEntry j e).syncAt = s.syncAt := rfl
@[simp] theorem State.setEntry_headroom (j : Nat) (e : Entry) : (s.setEntry j e).headroom = s.headroom := rfl
@[simp] theorem State.setEntry_ports (j : Nat) (e : Entry) : (s.setEntry j e).ports = s.ports := rfl
@[simp] theorem State.setEntry_reqs (j : Nat) (e : Entry) : (s.setEntry j e).reqs = s.reqs := rfl
@[simp] theorem State.setEntry_nextReq (j : Nat) (e : Entry) : (s.setEntry j e).nextReq = s.nextReq := rfl
@[simp] theorem State.setEntry_nextPiece (j : Nat) (e : Entry) : (s.setEntry j e).nextPiece = s.nextPiece := rfl
@[simp] theorem State.setEntry_fwds (j : Nat) (e : Entry) : (s.setEntry j e).fwds = s.fwds := rfl
@[simp] theorem State.setEntry_bridgeCr (j : Nat) (e : Entry) : (s.setEntry j e).bridgeCr = s.bridgeCr := rfl
@[simp] theorem State.setEntry_mapSave (j : Nat) (e : Entry) : (s.setEntry j e).mapSave = s.mapSave := rfl
@[simp] theorem State.setEntry_windows (j : Nat) (e : Entry) : (s.setEntry j e).windows = s.windows := rfl
@[simp] theorem State.setEntry_misses (j : Nat) (e : Entry) : (s.setEntry j e).misses = s.misses := rfl
@[simp] theorem State.setEntry_scmds (j : Nat) (e : Entry) : (s.setEntry j e).scmds = s.scmds := rfl
@[simp] theorem State.setEntry_cacheFull (j : Nat) (e : Entry) : (s.setEntry j e).cacheFull = s.cacheFull := rfl
@[simp] theorem State.setEntry_vtime (j : Nat) (e : Entry) : (s.setEntry j e).vtime = s.vtime := rfl
@[simp] theorem State.setEntry_gates (j : Nat) (e : Entry) : (s.setEntry j e).gates = s.gates := rfl
@[simp] theorem State.setEntry_lanes (j : Nat) (e : Entry) : (s.setEntry j e).lanes = s.lanes := rfl
@[simp] theorem State.setEntry_sorting (j : Nat) (e : Entry) : (s.setEntry j e).sorting = s.sorting := rfl
@[simp] theorem State.setEntry_outputs (j : Nat) (e : Entry) : (s.setEntry j e).outputs = s.outputs := rfl
@[simp] theorem State.setEntry_quota (j : Nat) (e : Entry) : (s.setEntry j e).quota = s.quota := rfl
@[simp] theorem State.setEntry_pccs (j : Nat) (e : Entry) : (s.setEntry j e).pccs = s.pccs := rfl
@[simp] theorem State.setEntry_mults (j : Nat) (e : Entry) : (s.setEntry j e).mults = s.mults := rfl
@[simp] theorem State.setEntry_dram (j : Nat) (e : Entry) : (s.setEntry j e).dram = s.dram := rfl
@[simp] theorem State.setEntry_fills (j : Nat) (e : Entry) : (s.setEntry j e).fills = s.fills := rfl
@[simp] theorem State.setEntry_migs (j : Nat) (e : Entry) : (s.setEntry j e).migs = s.migs := rfl
@[simp] theorem State.setEntry_migReasons (j : Nat) (e : Entry) : (s.setEntry j e).migReasons = s.migReasons := rfl
@[simp] theorem State.setEntry_salvage (j : Nat) (e : Entry) : (s.setEntry j e).salvage = s.salvage := rfl
@[simp] theorem State.setEntry_events (j : Nat) (e : Entry) : (s.setEntry j e).events = s.events := rfl
@[simp] theorem State.setEntry_dropCount (j : Nat) (e : Entry) : (s.setEntry j e).dropCount = s.dropCount := rfl
@[simp] theorem State.setEntry_dropStamp (j : Nat) (e : Entry) : (s.setEntry j e).dropStamp = s.dropStamp := rfl
@[simp] theorem State.setEntry_phyJobs (j : Nat) (e : Entry) : (s.setEntry j e).phyJobs = s.phyJobs := rfl
@[simp] theorem State.setEntry_slots (j : Nat) (e : Entry) : (s.setEntry j e).slots = s.slots := rfl
@[simp] theorem State.setEntry_launchQ (j : Nat) (e : Entry) : (s.setEntry j e).launchQ = s.launchQ := rfl
@[simp] theorem State.setEntry_ctxs (j : Nat) (e : Entry) : (s.setEntry j e).ctxs = s.ctxs := rfl
@[simp] theorem State.setEntry_waiters (j : Nat) (e : Entry) : (s.setEntry j e).waiters = s.waiters := rfl
@[simp] theorem State.setEntry_bows (j : Nat) (e : Entry) : (s.setEntry j e).bows = s.bows := rfl
@[simp] theorem State.setEntry_chks (j : Nat) (e : Entry) : (s.setEntry j e).chks = s.chks := rfl
@[simp] theorem State.setEntry_jobs (j : Nat) (e : Entry) : (s.setEntry j e).jobs = s.jobs := rfl
@[simp] theorem State.setEntry_nextJob (j : Nat) (e : Entry) : (s.setEntry j e).nextJob = s.nextJob := rfl
@[simp] theorem State.setEntry_nmuSince (j : Nat) (e : Entry) : (s.setEntry j e).nmuSince = s.nmuSince := rfl
@[simp] theorem State.setEntry_nmuTurn (j : Nat) (e : Entry) : (s.setEntry j e).nmuTurn = s.nmuTurn := rfl
@[simp] theorem State.setEntry_nmuLast (j : Nat) (e : Entry) : (s.setEntry j e).nmuLast = s.nmuLast := rfl
@[simp] theorem State.setEntry_power (j : Nat) (e : Entry) : (s.setEntry j e).power = s.power := rfl
@[simp] theorem State.setEntry_drone (j : Nat) (e : Entry) : (s.setEntry j e).drone = s.drone := rfl
@[simp] theorem State.setEntry_image (j : Nat) (e : Entry) : (s.setEntry j e).image = s.image := rfl
@[simp] theorem State.setEntry_levels (j : Nat) (e : Entry) : (s.setEntry j e).levels = s.levels := rfl
@[simp] theorem State.setEntry_fuses (j : Nat) (e : Entry) : (s.setEntry j e).fuses = s.fuses := rfl
@[simp] theorem State.setEntry_prog (j : Nat) (e : Entry) : (s.setEntry j e).prog = s.prog := rfl
@[simp] theorem State.setEntry_ucode (j : Nat) (e : Entry) : (s.setEntry j e).ucode = s.ucode := rfl
@[simp] theorem State.setEntry_trainLost (j : Nat) (e : Entry) : (s.setEntry j e).trainLost = s.trainLost := rfl
@[simp] theorem State.setEntry_sweep (j : Nat) (e : Entry) : (s.setEntry j e).sweep = s.sweep := rfl
@[simp] theorem State.setEntry_tallyAt (j : Nat) (e : Entry) : (s.setEntry j e).tallyAt = s.tallyAt := rfl

/-! ### setSlot -/
@[simp] theorem State.setSlot_pending (n : Nat) (x : Slot) : (s.setSlot n x).pending = s.pending := rfl
@[simp] theorem State.setSlot_cpWaiting (n : Nat) (x : Slot) : (s.setSlot n x).cpWaiting = s.cpWaiting := rfl
@[simp] theorem State.setSlot_regs (n : Nat) (x : Slot) : (s.setSlot n x).regs = s.regs := rfl
@[simp] theorem State.setSlot_cpRData (n : Nat) (x : Slot) : (s.setSlot n x).cpRData = s.cpRData := rfl
@[simp] theorem State.setSlot_cpErr (n : Nat) (x : Slot) : (s.setSlot n x).cpErr = s.cpErr := rfl
@[simp] theorem State.setSlot_free (n : Nat) (x : Slot) : (s.setSlot n x).free = s.free := rfl
@[simp] theorem State.setSlot_build (n : Nat) (x : Slot) : (s.setSlot n x).build = s.build := rfl
@[simp] theorem State.setSlot_peg (n : Nat) (x : Slot) : (s.setSlot n x).peg = s.peg := rfl
@[simp] theorem State.setSlot_cadence (n : Nat) (x : Slot) : (s.setSlot n x).cadence = s.cadence := rfl
@[simp] theorem State.setSlot_pauseLeft (n : Nat) (x : Slot) : (s.setSlot n x).pauseLeft = s.pauseLeft := rfl
@[simp] theorem State.setSlot_syncAt (n : Nat) (x : Slot) : (s.setSlot n x).syncAt = s.syncAt := rfl
@[simp] theorem State.setSlot_headroom (n : Nat) (x : Slot) : (s.setSlot n x).headroom = s.headroom := rfl
@[simp] theorem State.setSlot_ports (n : Nat) (x : Slot) : (s.setSlot n x).ports = s.ports := rfl
@[simp] theorem State.setSlot_reqs (n : Nat) (x : Slot) : (s.setSlot n x).reqs = s.reqs := rfl
@[simp] theorem State.setSlot_nextReq (n : Nat) (x : Slot) : (s.setSlot n x).nextReq = s.nextReq := rfl
@[simp] theorem State.setSlot_nextPiece (n : Nat) (x : Slot) : (s.setSlot n x).nextPiece = s.nextPiece := rfl
@[simp] theorem State.setSlot_fwds (n : Nat) (x : Slot) : (s.setSlot n x).fwds = s.fwds := rfl
@[simp] theorem State.setSlot_bridgeCr (n : Nat) (x : Slot) : (s.setSlot n x).bridgeCr = s.bridgeCr := rfl
@[simp] theorem State.setSlot_mapSave (n : Nat) (x : Slot) : (s.setSlot n x).mapSave = s.mapSave := rfl
@[simp] theorem State.setSlot_windows (n : Nat) (x : Slot) : (s.setSlot n x).windows = s.windows := rfl
@[simp] theorem State.setSlot_cache (n : Nat) (x : Slot) : (s.setSlot n x).cache = s.cache := rfl
@[simp] theorem State.setSlot_misses (n : Nat) (x : Slot) : (s.setSlot n x).misses = s.misses := rfl
@[simp] theorem State.setSlot_scmds (n : Nat) (x : Slot) : (s.setSlot n x).scmds = s.scmds := rfl
@[simp] theorem State.setSlot_cacheFull (n : Nat) (x : Slot) : (s.setSlot n x).cacheFull = s.cacheFull := rfl
@[simp] theorem State.setSlot_vtime (n : Nat) (x : Slot) : (s.setSlot n x).vtime = s.vtime := rfl
@[simp] theorem State.setSlot_gates (n : Nat) (x : Slot) : (s.setSlot n x).gates = s.gates := rfl
@[simp] theorem State.setSlot_lanes (n : Nat) (x : Slot) : (s.setSlot n x).lanes = s.lanes := rfl
@[simp] theorem State.setSlot_sorting (n : Nat) (x : Slot) : (s.setSlot n x).sorting = s.sorting := rfl
@[simp] theorem State.setSlot_outputs (n : Nat) (x : Slot) : (s.setSlot n x).outputs = s.outputs := rfl
@[simp] theorem State.setSlot_quota (n : Nat) (x : Slot) : (s.setSlot n x).quota = s.quota := rfl
@[simp] theorem State.setSlot_pccs (n : Nat) (x : Slot) : (s.setSlot n x).pccs = s.pccs := rfl
@[simp] theorem State.setSlot_mults (n : Nat) (x : Slot) : (s.setSlot n x).mults = s.mults := rfl
@[simp] theorem State.setSlot_dram (n : Nat) (x : Slot) : (s.setSlot n x).dram = s.dram := rfl
@[simp] theorem State.setSlot_fills (n : Nat) (x : Slot) : (s.setSlot n x).fills = s.fills := rfl
@[simp] theorem State.setSlot_migs (n : Nat) (x : Slot) : (s.setSlot n x).migs = s.migs := rfl
@[simp] theorem State.setSlot_migReasons (n : Nat) (x : Slot) : (s.setSlot n x).migReasons = s.migReasons := rfl
@[simp] theorem State.setSlot_salvage (n : Nat) (x : Slot) : (s.setSlot n x).salvage = s.salvage := rfl
@[simp] theorem State.setSlot_events (n : Nat) (x : Slot) : (s.setSlot n x).events = s.events := rfl
@[simp] theorem State.setSlot_dropCount (n : Nat) (x : Slot) : (s.setSlot n x).dropCount = s.dropCount := rfl
@[simp] theorem State.setSlot_dropStamp (n : Nat) (x : Slot) : (s.setSlot n x).dropStamp = s.dropStamp := rfl
@[simp] theorem State.setSlot_phyJobs (n : Nat) (x : Slot) : (s.setSlot n x).phyJobs = s.phyJobs := rfl
@[simp] theorem State.setSlot_launchQ (n : Nat) (x : Slot) : (s.setSlot n x).launchQ = s.launchQ := rfl
@[simp] theorem State.setSlot_ctxs (n : Nat) (x : Slot) : (s.setSlot n x).ctxs = s.ctxs := rfl
@[simp] theorem State.setSlot_waiters (n : Nat) (x : Slot) : (s.setSlot n x).waiters = s.waiters := rfl
@[simp] theorem State.setSlot_bows (n : Nat) (x : Slot) : (s.setSlot n x).bows = s.bows := rfl
@[simp] theorem State.setSlot_chks (n : Nat) (x : Slot) : (s.setSlot n x).chks = s.chks := rfl
@[simp] theorem State.setSlot_jobs (n : Nat) (x : Slot) : (s.setSlot n x).jobs = s.jobs := rfl
@[simp] theorem State.setSlot_nextJob (n : Nat) (x : Slot) : (s.setSlot n x).nextJob = s.nextJob := rfl
@[simp] theorem State.setSlot_nmuSince (n : Nat) (x : Slot) : (s.setSlot n x).nmuSince = s.nmuSince := rfl
@[simp] theorem State.setSlot_nmuTurn (n : Nat) (x : Slot) : (s.setSlot n x).nmuTurn = s.nmuTurn := rfl
@[simp] theorem State.setSlot_nmuLast (n : Nat) (x : Slot) : (s.setSlot n x).nmuLast = s.nmuLast := rfl
@[simp] theorem State.setSlot_power (n : Nat) (x : Slot) : (s.setSlot n x).power = s.power := rfl
@[simp] theorem State.setSlot_drone (n : Nat) (x : Slot) : (s.setSlot n x).drone = s.drone := rfl
@[simp] theorem State.setSlot_image (n : Nat) (x : Slot) : (s.setSlot n x).image = s.image := rfl
@[simp] theorem State.setSlot_levels (n : Nat) (x : Slot) : (s.setSlot n x).levels = s.levels := rfl
@[simp] theorem State.setSlot_fuses (n : Nat) (x : Slot) : (s.setSlot n x).fuses = s.fuses := rfl
@[simp] theorem State.setSlot_prog (n : Nat) (x : Slot) : (s.setSlot n x).prog = s.prog := rfl
@[simp] theorem State.setSlot_ucode (n : Nat) (x : Slot) : (s.setSlot n x).ucode = s.ucode := rfl
@[simp] theorem State.setSlot_trainLost (n : Nat) (x : Slot) : (s.setSlot n x).trainLost = s.trainLost := rfl
@[simp] theorem State.setSlot_sweep (n : Nat) (x : Slot) : (s.setSlot n x).sweep = s.sweep := rfl
@[simp] theorem State.setSlot_tallyAt (n : Nat) (x : Slot) : (s.setSlot n x).tallyAt = s.tallyAt := rfl

/-! ### setCtx -/
@[simp] theorem State.setCtx_pending (c : Nat) (x : Option Ctx) : (s.setCtx c x).pending = s.pending := rfl
@[simp] theorem State.setCtx_cpWaiting (c : Nat) (x : Option Ctx) : (s.setCtx c x).cpWaiting = s.cpWaiting := rfl
@[simp] theorem State.setCtx_regs (c : Nat) (x : Option Ctx) : (s.setCtx c x).regs = s.regs := rfl
@[simp] theorem State.setCtx_cpRData (c : Nat) (x : Option Ctx) : (s.setCtx c x).cpRData = s.cpRData := rfl
@[simp] theorem State.setCtx_cpErr (c : Nat) (x : Option Ctx) : (s.setCtx c x).cpErr = s.cpErr := rfl
@[simp] theorem State.setCtx_free (c : Nat) (x : Option Ctx) : (s.setCtx c x).free = s.free := rfl
@[simp] theorem State.setCtx_build (c : Nat) (x : Option Ctx) : (s.setCtx c x).build = s.build := rfl
@[simp] theorem State.setCtx_peg (c : Nat) (x : Option Ctx) : (s.setCtx c x).peg = s.peg := rfl
@[simp] theorem State.setCtx_cadence (c : Nat) (x : Option Ctx) : (s.setCtx c x).cadence = s.cadence := rfl
@[simp] theorem State.setCtx_pauseLeft (c : Nat) (x : Option Ctx) : (s.setCtx c x).pauseLeft = s.pauseLeft := rfl
@[simp] theorem State.setCtx_syncAt (c : Nat) (x : Option Ctx) : (s.setCtx c x).syncAt = s.syncAt := rfl
@[simp] theorem State.setCtx_headroom (c : Nat) (x : Option Ctx) : (s.setCtx c x).headroom = s.headroom := rfl
@[simp] theorem State.setCtx_ports (c : Nat) (x : Option Ctx) : (s.setCtx c x).ports = s.ports := rfl
@[simp] theorem State.setCtx_reqs (c : Nat) (x : Option Ctx) : (s.setCtx c x).reqs = s.reqs := rfl
@[simp] theorem State.setCtx_nextReq (c : Nat) (x : Option Ctx) : (s.setCtx c x).nextReq = s.nextReq := rfl
@[simp] theorem State.setCtx_nextPiece (c : Nat) (x : Option Ctx) : (s.setCtx c x).nextPiece = s.nextPiece := rfl
@[simp] theorem State.setCtx_fwds (c : Nat) (x : Option Ctx) : (s.setCtx c x).fwds = s.fwds := rfl
@[simp] theorem State.setCtx_bridgeCr (c : Nat) (x : Option Ctx) : (s.setCtx c x).bridgeCr = s.bridgeCr := rfl
@[simp] theorem State.setCtx_mapSave (c : Nat) (x : Option Ctx) : (s.setCtx c x).mapSave = s.mapSave := rfl
@[simp] theorem State.setCtx_windows (c : Nat) (x : Option Ctx) : (s.setCtx c x).windows = s.windows := rfl
@[simp] theorem State.setCtx_cache (c : Nat) (x : Option Ctx) : (s.setCtx c x).cache = s.cache := rfl
@[simp] theorem State.setCtx_misses (c : Nat) (x : Option Ctx) : (s.setCtx c x).misses = s.misses := rfl
@[simp] theorem State.setCtx_scmds (c : Nat) (x : Option Ctx) : (s.setCtx c x).scmds = s.scmds := rfl
@[simp] theorem State.setCtx_cacheFull (c : Nat) (x : Option Ctx) : (s.setCtx c x).cacheFull = s.cacheFull := rfl
@[simp] theorem State.setCtx_vtime (c : Nat) (x : Option Ctx) : (s.setCtx c x).vtime = s.vtime := rfl
@[simp] theorem State.setCtx_gates (c : Nat) (x : Option Ctx) : (s.setCtx c x).gates = s.gates := rfl
@[simp] theorem State.setCtx_lanes (c : Nat) (x : Option Ctx) : (s.setCtx c x).lanes = s.lanes := rfl
@[simp] theorem State.setCtx_sorting (c : Nat) (x : Option Ctx) : (s.setCtx c x).sorting = s.sorting := rfl
@[simp] theorem State.setCtx_outputs (c : Nat) (x : Option Ctx) : (s.setCtx c x).outputs = s.outputs := rfl
@[simp] theorem State.setCtx_quota (c : Nat) (x : Option Ctx) : (s.setCtx c x).quota = s.quota := rfl
@[simp] theorem State.setCtx_pccs (c : Nat) (x : Option Ctx) : (s.setCtx c x).pccs = s.pccs := rfl
@[simp] theorem State.setCtx_mults (c : Nat) (x : Option Ctx) : (s.setCtx c x).mults = s.mults := rfl
@[simp] theorem State.setCtx_dram (c : Nat) (x : Option Ctx) : (s.setCtx c x).dram = s.dram := rfl
@[simp] theorem State.setCtx_fills (c : Nat) (x : Option Ctx) : (s.setCtx c x).fills = s.fills := rfl
@[simp] theorem State.setCtx_migs (c : Nat) (x : Option Ctx) : (s.setCtx c x).migs = s.migs := rfl
@[simp] theorem State.setCtx_migReasons (c : Nat) (x : Option Ctx) : (s.setCtx c x).migReasons = s.migReasons := rfl
@[simp] theorem State.setCtx_salvage (c : Nat) (x : Option Ctx) : (s.setCtx c x).salvage = s.salvage := rfl
@[simp] theorem State.setCtx_events (c : Nat) (x : Option Ctx) : (s.setCtx c x).events = s.events := rfl
@[simp] theorem State.setCtx_dropCount (c : Nat) (x : Option Ctx) : (s.setCtx c x).dropCount = s.dropCount := rfl
@[simp] theorem State.setCtx_dropStamp (c : Nat) (x : Option Ctx) : (s.setCtx c x).dropStamp = s.dropStamp := rfl
@[simp] theorem State.setCtx_phyJobs (c : Nat) (x : Option Ctx) : (s.setCtx c x).phyJobs = s.phyJobs := rfl
@[simp] theorem State.setCtx_slots (c : Nat) (x : Option Ctx) : (s.setCtx c x).slots = s.slots := rfl
@[simp] theorem State.setCtx_launchQ (c : Nat) (x : Option Ctx) : (s.setCtx c x).launchQ = s.launchQ := rfl
@[simp] theorem State.setCtx_waiters (c : Nat) (x : Option Ctx) : (s.setCtx c x).waiters = s.waiters := rfl
@[simp] theorem State.setCtx_bows (c : Nat) (x : Option Ctx) : (s.setCtx c x).bows = s.bows := rfl
@[simp] theorem State.setCtx_chks (c : Nat) (x : Option Ctx) : (s.setCtx c x).chks = s.chks := rfl
@[simp] theorem State.setCtx_jobs (c : Nat) (x : Option Ctx) : (s.setCtx c x).jobs = s.jobs := rfl
@[simp] theorem State.setCtx_nextJob (c : Nat) (x : Option Ctx) : (s.setCtx c x).nextJob = s.nextJob := rfl
@[simp] theorem State.setCtx_nmuSince (c : Nat) (x : Option Ctx) : (s.setCtx c x).nmuSince = s.nmuSince := rfl
@[simp] theorem State.setCtx_nmuTurn (c : Nat) (x : Option Ctx) : (s.setCtx c x).nmuTurn = s.nmuTurn := rfl
@[simp] theorem State.setCtx_nmuLast (c : Nat) (x : Option Ctx) : (s.setCtx c x).nmuLast = s.nmuLast := rfl
@[simp] theorem State.setCtx_power (c : Nat) (x : Option Ctx) : (s.setCtx c x).power = s.power := rfl
@[simp] theorem State.setCtx_drone (c : Nat) (x : Option Ctx) : (s.setCtx c x).drone = s.drone := rfl
@[simp] theorem State.setCtx_image (c : Nat) (x : Option Ctx) : (s.setCtx c x).image = s.image := rfl
@[simp] theorem State.setCtx_levels (c : Nat) (x : Option Ctx) : (s.setCtx c x).levels = s.levels := rfl
@[simp] theorem State.setCtx_fuses (c : Nat) (x : Option Ctx) : (s.setCtx c x).fuses = s.fuses := rfl
@[simp] theorem State.setCtx_prog (c : Nat) (x : Option Ctx) : (s.setCtx c x).prog = s.prog := rfl
@[simp] theorem State.setCtx_ucode (c : Nat) (x : Option Ctx) : (s.setCtx c x).ucode = s.ucode := rfl
@[simp] theorem State.setCtx_trainLost (c : Nat) (x : Option Ctx) : (s.setCtx c x).trainLost = s.trainLost := rfl
@[simp] theorem State.setCtx_sweep (c : Nat) (x : Option Ctx) : (s.setCtx c x).sweep = s.sweep := rfl
@[simp] theorem State.setCtx_tallyAt (c : Nat) (x : Option Ctx) : (s.setCtx c x).tallyAt = s.tallyAt := rfl

/-! ### setMig -/
@[simp] theorem State.setMig_pending (k : Nat) (m : Option Mig) : (s.setMig k m).pending = s.pending := rfl
@[simp] theorem State.setMig_cpWaiting (k : Nat) (m : Option Mig) : (s.setMig k m).cpWaiting = s.cpWaiting := rfl
@[simp] theorem State.setMig_regs (k : Nat) (m : Option Mig) : (s.setMig k m).regs = s.regs := rfl
@[simp] theorem State.setMig_cpRData (k : Nat) (m : Option Mig) : (s.setMig k m).cpRData = s.cpRData := rfl
@[simp] theorem State.setMig_cpErr (k : Nat) (m : Option Mig) : (s.setMig k m).cpErr = s.cpErr := rfl
@[simp] theorem State.setMig_free (k : Nat) (m : Option Mig) : (s.setMig k m).free = s.free := rfl
@[simp] theorem State.setMig_build (k : Nat) (m : Option Mig) : (s.setMig k m).build = s.build := rfl
@[simp] theorem State.setMig_peg (k : Nat) (m : Option Mig) : (s.setMig k m).peg = s.peg := rfl
@[simp] theorem State.setMig_cadence (k : Nat) (m : Option Mig) : (s.setMig k m).cadence = s.cadence := rfl
@[simp] theorem State.setMig_pauseLeft (k : Nat) (m : Option Mig) : (s.setMig k m).pauseLeft = s.pauseLeft := rfl
@[simp] theorem State.setMig_syncAt (k : Nat) (m : Option Mig) : (s.setMig k m).syncAt = s.syncAt := rfl
@[simp] theorem State.setMig_headroom (k : Nat) (m : Option Mig) : (s.setMig k m).headroom = s.headroom := rfl
@[simp] theorem State.setMig_ports (k : Nat) (m : Option Mig) : (s.setMig k m).ports = s.ports := rfl
@[simp] theorem State.setMig_reqs (k : Nat) (m : Option Mig) : (s.setMig k m).reqs = s.reqs := rfl
@[simp] theorem State.setMig_nextReq (k : Nat) (m : Option Mig) : (s.setMig k m).nextReq = s.nextReq := rfl
@[simp] theorem State.setMig_nextPiece (k : Nat) (m : Option Mig) : (s.setMig k m).nextPiece = s.nextPiece := rfl
@[simp] theorem State.setMig_fwds (k : Nat) (m : Option Mig) : (s.setMig k m).fwds = s.fwds := rfl
@[simp] theorem State.setMig_bridgeCr (k : Nat) (m : Option Mig) : (s.setMig k m).bridgeCr = s.bridgeCr := rfl
@[simp] theorem State.setMig_mapSave (k : Nat) (m : Option Mig) : (s.setMig k m).mapSave = s.mapSave := rfl
@[simp] theorem State.setMig_windows (k : Nat) (m : Option Mig) : (s.setMig k m).windows = s.windows := rfl
@[simp] theorem State.setMig_cache (k : Nat) (m : Option Mig) : (s.setMig k m).cache = s.cache := rfl
@[simp] theorem State.setMig_misses (k : Nat) (m : Option Mig) : (s.setMig k m).misses = s.misses := rfl
@[simp] theorem State.setMig_scmds (k : Nat) (m : Option Mig) : (s.setMig k m).scmds = s.scmds := rfl
@[simp] theorem State.setMig_cacheFull (k : Nat) (m : Option Mig) : (s.setMig k m).cacheFull = s.cacheFull := rfl
@[simp] theorem State.setMig_vtime (k : Nat) (m : Option Mig) : (s.setMig k m).vtime = s.vtime := rfl
@[simp] theorem State.setMig_gates (k : Nat) (m : Option Mig) : (s.setMig k m).gates = s.gates := rfl
@[simp] theorem State.setMig_lanes (k : Nat) (m : Option Mig) : (s.setMig k m).lanes = s.lanes := rfl
@[simp] theorem State.setMig_sorting (k : Nat) (m : Option Mig) : (s.setMig k m).sorting = s.sorting := rfl
@[simp] theorem State.setMig_outputs (k : Nat) (m : Option Mig) : (s.setMig k m).outputs = s.outputs := rfl
@[simp] theorem State.setMig_quota (k : Nat) (m : Option Mig) : (s.setMig k m).quota = s.quota := rfl
@[simp] theorem State.setMig_pccs (k : Nat) (m : Option Mig) : (s.setMig k m).pccs = s.pccs := rfl
@[simp] theorem State.setMig_mults (k : Nat) (m : Option Mig) : (s.setMig k m).mults = s.mults := rfl
@[simp] theorem State.setMig_dram (k : Nat) (m : Option Mig) : (s.setMig k m).dram = s.dram := rfl
@[simp] theorem State.setMig_fills (k : Nat) (m : Option Mig) : (s.setMig k m).fills = s.fills := rfl
@[simp] theorem State.setMig_migReasons (k : Nat) (m : Option Mig) : (s.setMig k m).migReasons = s.migReasons := rfl
@[simp] theorem State.setMig_salvage (k : Nat) (m : Option Mig) : (s.setMig k m).salvage = s.salvage := rfl
@[simp] theorem State.setMig_events (k : Nat) (m : Option Mig) : (s.setMig k m).events = s.events := rfl
@[simp] theorem State.setMig_dropCount (k : Nat) (m : Option Mig) : (s.setMig k m).dropCount = s.dropCount := rfl
@[simp] theorem State.setMig_dropStamp (k : Nat) (m : Option Mig) : (s.setMig k m).dropStamp = s.dropStamp := rfl
@[simp] theorem State.setMig_phyJobs (k : Nat) (m : Option Mig) : (s.setMig k m).phyJobs = s.phyJobs := rfl
@[simp] theorem State.setMig_slots (k : Nat) (m : Option Mig) : (s.setMig k m).slots = s.slots := rfl
@[simp] theorem State.setMig_launchQ (k : Nat) (m : Option Mig) : (s.setMig k m).launchQ = s.launchQ := rfl
@[simp] theorem State.setMig_ctxs (k : Nat) (m : Option Mig) : (s.setMig k m).ctxs = s.ctxs := rfl
@[simp] theorem State.setMig_waiters (k : Nat) (m : Option Mig) : (s.setMig k m).waiters = s.waiters := rfl
@[simp] theorem State.setMig_bows (k : Nat) (m : Option Mig) : (s.setMig k m).bows = s.bows := rfl
@[simp] theorem State.setMig_chks (k : Nat) (m : Option Mig) : (s.setMig k m).chks = s.chks := rfl
@[simp] theorem State.setMig_jobs (k : Nat) (m : Option Mig) : (s.setMig k m).jobs = s.jobs := rfl
@[simp] theorem State.setMig_nextJob (k : Nat) (m : Option Mig) : (s.setMig k m).nextJob = s.nextJob := rfl
@[simp] theorem State.setMig_nmuSince (k : Nat) (m : Option Mig) : (s.setMig k m).nmuSince = s.nmuSince := rfl
@[simp] theorem State.setMig_nmuTurn (k : Nat) (m : Option Mig) : (s.setMig k m).nmuTurn = s.nmuTurn := rfl
@[simp] theorem State.setMig_nmuLast (k : Nat) (m : Option Mig) : (s.setMig k m).nmuLast = s.nmuLast := rfl
@[simp] theorem State.setMig_power (k : Nat) (m : Option Mig) : (s.setMig k m).power = s.power := rfl
@[simp] theorem State.setMig_drone (k : Nat) (m : Option Mig) : (s.setMig k m).drone = s.drone := rfl
@[simp] theorem State.setMig_image (k : Nat) (m : Option Mig) : (s.setMig k m).image = s.image := rfl
@[simp] theorem State.setMig_levels (k : Nat) (m : Option Mig) : (s.setMig k m).levels = s.levels := rfl
@[simp] theorem State.setMig_fuses (k : Nat) (m : Option Mig) : (s.setMig k m).fuses = s.fuses := rfl
@[simp] theorem State.setMig_prog (k : Nat) (m : Option Mig) : (s.setMig k m).prog = s.prog := rfl
@[simp] theorem State.setMig_ucode (k : Nat) (m : Option Mig) : (s.setMig k m).ucode = s.ucode := rfl
@[simp] theorem State.setMig_trainLost (k : Nat) (m : Option Mig) : (s.setMig k m).trainLost = s.trainLost := rfl
@[simp] theorem State.setMig_sweep (k : Nat) (m : Option Mig) : (s.setMig k m).sweep = s.sweep := rfl
@[simp] theorem State.setMig_tallyAt (k : Nat) (m : Option Mig) : (s.setMig k m).tallyAt = s.tallyAt := rfl

/-! ### setJob -/
@[simp] theorem State.setJob_pending (k : Nat) (j : Option PhyJob) : (s.setJob k j).pending = s.pending := rfl
@[simp] theorem State.setJob_cpWaiting (k : Nat) (j : Option PhyJob) : (s.setJob k j).cpWaiting = s.cpWaiting := rfl
@[simp] theorem State.setJob_regs (k : Nat) (j : Option PhyJob) : (s.setJob k j).regs = s.regs := rfl
@[simp] theorem State.setJob_cpRData (k : Nat) (j : Option PhyJob) : (s.setJob k j).cpRData = s.cpRData := rfl
@[simp] theorem State.setJob_cpErr (k : Nat) (j : Option PhyJob) : (s.setJob k j).cpErr = s.cpErr := rfl
@[simp] theorem State.setJob_free (k : Nat) (j : Option PhyJob) : (s.setJob k j).free = s.free := rfl
@[simp] theorem State.setJob_build (k : Nat) (j : Option PhyJob) : (s.setJob k j).build = s.build := rfl
@[simp] theorem State.setJob_peg (k : Nat) (j : Option PhyJob) : (s.setJob k j).peg = s.peg := rfl
@[simp] theorem State.setJob_cadence (k : Nat) (j : Option PhyJob) : (s.setJob k j).cadence = s.cadence := rfl
@[simp] theorem State.setJob_pauseLeft (k : Nat) (j : Option PhyJob) : (s.setJob k j).pauseLeft = s.pauseLeft := rfl
@[simp] theorem State.setJob_syncAt (k : Nat) (j : Option PhyJob) : (s.setJob k j).syncAt = s.syncAt := rfl
@[simp] theorem State.setJob_headroom (k : Nat) (j : Option PhyJob) : (s.setJob k j).headroom = s.headroom := rfl
@[simp] theorem State.setJob_ports (k : Nat) (j : Option PhyJob) : (s.setJob k j).ports = s.ports := rfl
@[simp] theorem State.setJob_reqs (k : Nat) (j : Option PhyJob) : (s.setJob k j).reqs = s.reqs := rfl
@[simp] theorem State.setJob_nextReq (k : Nat) (j : Option PhyJob) : (s.setJob k j).nextReq = s.nextReq := rfl
@[simp] theorem State.setJob_nextPiece (k : Nat) (j : Option PhyJob) : (s.setJob k j).nextPiece = s.nextPiece := rfl
@[simp] theorem State.setJob_fwds (k : Nat) (j : Option PhyJob) : (s.setJob k j).fwds = s.fwds := rfl
@[simp] theorem State.setJob_bridgeCr (k : Nat) (j : Option PhyJob) : (s.setJob k j).bridgeCr = s.bridgeCr := rfl
@[simp] theorem State.setJob_mapSave (k : Nat) (j : Option PhyJob) : (s.setJob k j).mapSave = s.mapSave := rfl
@[simp] theorem State.setJob_windows (k : Nat) (j : Option PhyJob) : (s.setJob k j).windows = s.windows := rfl
@[simp] theorem State.setJob_cache (k : Nat) (j : Option PhyJob) : (s.setJob k j).cache = s.cache := rfl
@[simp] theorem State.setJob_misses (k : Nat) (j : Option PhyJob) : (s.setJob k j).misses = s.misses := rfl
@[simp] theorem State.setJob_scmds (k : Nat) (j : Option PhyJob) : (s.setJob k j).scmds = s.scmds := rfl
@[simp] theorem State.setJob_cacheFull (k : Nat) (j : Option PhyJob) : (s.setJob k j).cacheFull = s.cacheFull := rfl
@[simp] theorem State.setJob_vtime (k : Nat) (j : Option PhyJob) : (s.setJob k j).vtime = s.vtime := rfl
@[simp] theorem State.setJob_gates (k : Nat) (j : Option PhyJob) : (s.setJob k j).gates = s.gates := rfl
@[simp] theorem State.setJob_lanes (k : Nat) (j : Option PhyJob) : (s.setJob k j).lanes = s.lanes := rfl
@[simp] theorem State.setJob_sorting (k : Nat) (j : Option PhyJob) : (s.setJob k j).sorting = s.sorting := rfl
@[simp] theorem State.setJob_outputs (k : Nat) (j : Option PhyJob) : (s.setJob k j).outputs = s.outputs := rfl
@[simp] theorem State.setJob_quota (k : Nat) (j : Option PhyJob) : (s.setJob k j).quota = s.quota := rfl
@[simp] theorem State.setJob_pccs (k : Nat) (j : Option PhyJob) : (s.setJob k j).pccs = s.pccs := rfl
@[simp] theorem State.setJob_mults (k : Nat) (j : Option PhyJob) : (s.setJob k j).mults = s.mults := rfl
@[simp] theorem State.setJob_dram (k : Nat) (j : Option PhyJob) : (s.setJob k j).dram = s.dram := rfl
@[simp] theorem State.setJob_fills (k : Nat) (j : Option PhyJob) : (s.setJob k j).fills = s.fills := rfl
@[simp] theorem State.setJob_migs (k : Nat) (j : Option PhyJob) : (s.setJob k j).migs = s.migs := rfl
@[simp] theorem State.setJob_migReasons (k : Nat) (j : Option PhyJob) : (s.setJob k j).migReasons = s.migReasons := rfl
@[simp] theorem State.setJob_salvage (k : Nat) (j : Option PhyJob) : (s.setJob k j).salvage = s.salvage := rfl
@[simp] theorem State.setJob_events (k : Nat) (j : Option PhyJob) : (s.setJob k j).events = s.events := rfl
@[simp] theorem State.setJob_dropCount (k : Nat) (j : Option PhyJob) : (s.setJob k j).dropCount = s.dropCount := rfl
@[simp] theorem State.setJob_dropStamp (k : Nat) (j : Option PhyJob) : (s.setJob k j).dropStamp = s.dropStamp := rfl
@[simp] theorem State.setJob_slots (k : Nat) (j : Option PhyJob) : (s.setJob k j).slots = s.slots := rfl
@[simp] theorem State.setJob_launchQ (k : Nat) (j : Option PhyJob) : (s.setJob k j).launchQ = s.launchQ := rfl
@[simp] theorem State.setJob_ctxs (k : Nat) (j : Option PhyJob) : (s.setJob k j).ctxs = s.ctxs := rfl
@[simp] theorem State.setJob_waiters (k : Nat) (j : Option PhyJob) : (s.setJob k j).waiters = s.waiters := rfl
@[simp] theorem State.setJob_bows (k : Nat) (j : Option PhyJob) : (s.setJob k j).bows = s.bows := rfl
@[simp] theorem State.setJob_chks (k : Nat) (j : Option PhyJob) : (s.setJob k j).chks = s.chks := rfl
@[simp] theorem State.setJob_jobs (k : Nat) (j : Option PhyJob) : (s.setJob k j).jobs = s.jobs := rfl
@[simp] theorem State.setJob_nextJob (k : Nat) (j : Option PhyJob) : (s.setJob k j).nextJob = s.nextJob := rfl
@[simp] theorem State.setJob_nmuSince (k : Nat) (j : Option PhyJob) : (s.setJob k j).nmuSince = s.nmuSince := rfl
@[simp] theorem State.setJob_nmuTurn (k : Nat) (j : Option PhyJob) : (s.setJob k j).nmuTurn = s.nmuTurn := rfl
@[simp] theorem State.setJob_nmuLast (k : Nat) (j : Option PhyJob) : (s.setJob k j).nmuLast = s.nmuLast := rfl
@[simp] theorem State.setJob_power (k : Nat) (j : Option PhyJob) : (s.setJob k j).power = s.power := rfl
@[simp] theorem State.setJob_drone (k : Nat) (j : Option PhyJob) : (s.setJob k j).drone = s.drone := rfl
@[simp] theorem State.setJob_image (k : Nat) (j : Option PhyJob) : (s.setJob k j).image = s.image := rfl
@[simp] theorem State.setJob_levels (k : Nat) (j : Option PhyJob) : (s.setJob k j).levels = s.levels := rfl
@[simp] theorem State.setJob_fuses (k : Nat) (j : Option PhyJob) : (s.setJob k j).fuses = s.fuses := rfl
@[simp] theorem State.setJob_prog (k : Nat) (j : Option PhyJob) : (s.setJob k j).prog = s.prog := rfl
@[simp] theorem State.setJob_ucode (k : Nat) (j : Option PhyJob) : (s.setJob k j).ucode = s.ucode := rfl
@[simp] theorem State.setJob_trainLost (k : Nat) (j : Option PhyJob) : (s.setJob k j).trainLost = s.trainLost := rfl
@[simp] theorem State.setJob_sweep (k : Nat) (j : Option PhyJob) : (s.setJob k j).sweep = s.sweep := rfl
@[simp] theorem State.setJob_tallyAt (k : Nat) (j : Option PhyJob) : (s.setJob k j).tallyAt = s.tallyAt := rfl

/-! ### setQuota -/
@[simp] theorem State.setQuota_pending (k : Nat) (q : Quota) : (s.setQuota k q).pending = s.pending := rfl
@[simp] theorem State.setQuota_cpWaiting (k : Nat) (q : Quota) : (s.setQuota k q).cpWaiting = s.cpWaiting := rfl
@[simp] theorem State.setQuota_regs (k : Nat) (q : Quota) : (s.setQuota k q).regs = s.regs := rfl
@[simp] theorem State.setQuota_cpRData (k : Nat) (q : Quota) : (s.setQuota k q).cpRData = s.cpRData := rfl
@[simp] theorem State.setQuota_cpErr (k : Nat) (q : Quota) : (s.setQuota k q).cpErr = s.cpErr := rfl
@[simp] theorem State.setQuota_free (k : Nat) (q : Quota) : (s.setQuota k q).free = s.free := rfl
@[simp] theorem State.setQuota_build (k : Nat) (q : Quota) : (s.setQuota k q).build = s.build := rfl
@[simp] theorem State.setQuota_peg (k : Nat) (q : Quota) : (s.setQuota k q).peg = s.peg := rfl
@[simp] theorem State.setQuota_cadence (k : Nat) (q : Quota) : (s.setQuota k q).cadence = s.cadence := rfl
@[simp] theorem State.setQuota_pauseLeft (k : Nat) (q : Quota) : (s.setQuota k q).pauseLeft = s.pauseLeft := rfl
@[simp] theorem State.setQuota_syncAt (k : Nat) (q : Quota) : (s.setQuota k q).syncAt = s.syncAt := rfl
@[simp] theorem State.setQuota_headroom (k : Nat) (q : Quota) : (s.setQuota k q).headroom = s.headroom := rfl
@[simp] theorem State.setQuota_ports (k : Nat) (q : Quota) : (s.setQuota k q).ports = s.ports := rfl
@[simp] theorem State.setQuota_reqs (k : Nat) (q : Quota) : (s.setQuota k q).reqs = s.reqs := rfl
@[simp] theorem State.setQuota_nextReq (k : Nat) (q : Quota) : (s.setQuota k q).nextReq = s.nextReq := rfl
@[simp] theorem State.setQuota_nextPiece (k : Nat) (q : Quota) : (s.setQuota k q).nextPiece = s.nextPiece := rfl
@[simp] theorem State.setQuota_fwds (k : Nat) (q : Quota) : (s.setQuota k q).fwds = s.fwds := rfl
@[simp] theorem State.setQuota_bridgeCr (k : Nat) (q : Quota) : (s.setQuota k q).bridgeCr = s.bridgeCr := rfl
@[simp] theorem State.setQuota_mapSave (k : Nat) (q : Quota) : (s.setQuota k q).mapSave = s.mapSave := rfl
@[simp] theorem State.setQuota_windows (k : Nat) (q : Quota) : (s.setQuota k q).windows = s.windows := rfl
@[simp] theorem State.setQuota_cache (k : Nat) (q : Quota) : (s.setQuota k q).cache = s.cache := rfl
@[simp] theorem State.setQuota_misses (k : Nat) (q : Quota) : (s.setQuota k q).misses = s.misses := rfl
@[simp] theorem State.setQuota_scmds (k : Nat) (q : Quota) : (s.setQuota k q).scmds = s.scmds := rfl
@[simp] theorem State.setQuota_cacheFull (k : Nat) (q : Quota) : (s.setQuota k q).cacheFull = s.cacheFull := rfl
@[simp] theorem State.setQuota_vtime (k : Nat) (q : Quota) : (s.setQuota k q).vtime = s.vtime := rfl
@[simp] theorem State.setQuota_gates (k : Nat) (q : Quota) : (s.setQuota k q).gates = s.gates := rfl
@[simp] theorem State.setQuota_lanes (k : Nat) (q : Quota) : (s.setQuota k q).lanes = s.lanes := rfl
@[simp] theorem State.setQuota_sorting (k : Nat) (q : Quota) : (s.setQuota k q).sorting = s.sorting := rfl
@[simp] theorem State.setQuota_outputs (k : Nat) (q : Quota) : (s.setQuota k q).outputs = s.outputs := rfl
@[simp] theorem State.setQuota_pccs (k : Nat) (q : Quota) : (s.setQuota k q).pccs = s.pccs := rfl
@[simp] theorem State.setQuota_mults (k : Nat) (q : Quota) : (s.setQuota k q).mults = s.mults := rfl
@[simp] theorem State.setQuota_dram (k : Nat) (q : Quota) : (s.setQuota k q).dram = s.dram := rfl
@[simp] theorem State.setQuota_fills (k : Nat) (q : Quota) : (s.setQuota k q).fills = s.fills := rfl
@[simp] theorem State.setQuota_migs (k : Nat) (q : Quota) : (s.setQuota k q).migs = s.migs := rfl
@[simp] theorem State.setQuota_migReasons (k : Nat) (q : Quota) : (s.setQuota k q).migReasons = s.migReasons := rfl
@[simp] theorem State.setQuota_salvage (k : Nat) (q : Quota) : (s.setQuota k q).salvage = s.salvage := rfl
@[simp] theorem State.setQuota_events (k : Nat) (q : Quota) : (s.setQuota k q).events = s.events := rfl
@[simp] theorem State.setQuota_dropCount (k : Nat) (q : Quota) : (s.setQuota k q).dropCount = s.dropCount := rfl
@[simp] theorem State.setQuota_dropStamp (k : Nat) (q : Quota) : (s.setQuota k q).dropStamp = s.dropStamp := rfl
@[simp] theorem State.setQuota_phyJobs (k : Nat) (q : Quota) : (s.setQuota k q).phyJobs = s.phyJobs := rfl
@[simp] theorem State.setQuota_slots (k : Nat) (q : Quota) : (s.setQuota k q).slots = s.slots := rfl
@[simp] theorem State.setQuota_launchQ (k : Nat) (q : Quota) : (s.setQuota k q).launchQ = s.launchQ := rfl
@[simp] theorem State.setQuota_ctxs (k : Nat) (q : Quota) : (s.setQuota k q).ctxs = s.ctxs := rfl
@[simp] theorem State.setQuota_waiters (k : Nat) (q : Quota) : (s.setQuota k q).waiters = s.waiters := rfl
@[simp] theorem State.setQuota_bows (k : Nat) (q : Quota) : (s.setQuota k q).bows = s.bows := rfl
@[simp] theorem State.setQuota_chks (k : Nat) (q : Quota) : (s.setQuota k q).chks = s.chks := rfl
@[simp] theorem State.setQuota_jobs (k : Nat) (q : Quota) : (s.setQuota k q).jobs = s.jobs := rfl
@[simp] theorem State.setQuota_nextJob (k : Nat) (q : Quota) : (s.setQuota k q).nextJob = s.nextJob := rfl
@[simp] theorem State.setQuota_nmuSince (k : Nat) (q : Quota) : (s.setQuota k q).nmuSince = s.nmuSince := rfl
@[simp] theorem State.setQuota_nmuTurn (k : Nat) (q : Quota) : (s.setQuota k q).nmuTurn = s.nmuTurn := rfl
@[simp] theorem State.setQuota_nmuLast (k : Nat) (q : Quota) : (s.setQuota k q).nmuLast = s.nmuLast := rfl
@[simp] theorem State.setQuota_power (k : Nat) (q : Quota) : (s.setQuota k q).power = s.power := rfl
@[simp] theorem State.setQuota_drone (k : Nat) (q : Quota) : (s.setQuota k q).drone = s.drone := rfl
@[simp] theorem State.setQuota_image (k : Nat) (q : Quota) : (s.setQuota k q).image = s.image := rfl
@[simp] theorem State.setQuota_levels (k : Nat) (q : Quota) : (s.setQuota k q).levels = s.levels := rfl
@[simp] theorem State.setQuota_fuses (k : Nat) (q : Quota) : (s.setQuota k q).fuses = s.fuses := rfl
@[simp] theorem State.setQuota_prog (k : Nat) (q : Quota) : (s.setQuota k q).prog = s.prog := rfl
@[simp] theorem State.setQuota_ucode (k : Nat) (q : Quota) : (s.setQuota k q).ucode = s.ucode := rfl
@[simp] theorem State.setQuota_trainLost (k : Nat) (q : Quota) : (s.setQuota k q).trainLost = s.trainLost := rfl
@[simp] theorem State.setQuota_sweep (k : Nat) (q : Quota) : (s.setQuota k q).sweep = s.sweep := rfl
@[simp] theorem State.setQuota_tallyAt (k : Nat) (q : Quota) : (s.setQuota k q).tallyAt = s.tallyAt := rfl

/-! ### setBow -/
@[simp] theorem State.setBow_pending (k : Nat) (b : Bow) : (s.setBow k b).pending = s.pending := rfl
@[simp] theorem State.setBow_cpWaiting (k : Nat) (b : Bow) : (s.setBow k b).cpWaiting = s.cpWaiting := rfl
@[simp] theorem State.setBow_regs (k : Nat) (b : Bow) : (s.setBow k b).regs = s.regs := rfl
@[simp] theorem State.setBow_cpRData (k : Nat) (b : Bow) : (s.setBow k b).cpRData = s.cpRData := rfl
@[simp] theorem State.setBow_cpErr (k : Nat) (b : Bow) : (s.setBow k b).cpErr = s.cpErr := rfl
@[simp] theorem State.setBow_free (k : Nat) (b : Bow) : (s.setBow k b).free = s.free := rfl
@[simp] theorem State.setBow_build (k : Nat) (b : Bow) : (s.setBow k b).build = s.build := rfl
@[simp] theorem State.setBow_peg (k : Nat) (b : Bow) : (s.setBow k b).peg = s.peg := rfl
@[simp] theorem State.setBow_cadence (k : Nat) (b : Bow) : (s.setBow k b).cadence = s.cadence := rfl
@[simp] theorem State.setBow_pauseLeft (k : Nat) (b : Bow) : (s.setBow k b).pauseLeft = s.pauseLeft := rfl
@[simp] theorem State.setBow_syncAt (k : Nat) (b : Bow) : (s.setBow k b).syncAt = s.syncAt := rfl
@[simp] theorem State.setBow_headroom (k : Nat) (b : Bow) : (s.setBow k b).headroom = s.headroom := rfl
@[simp] theorem State.setBow_ports (k : Nat) (b : Bow) : (s.setBow k b).ports = s.ports := rfl
@[simp] theorem State.setBow_reqs (k : Nat) (b : Bow) : (s.setBow k b).reqs = s.reqs := rfl
@[simp] theorem State.setBow_nextReq (k : Nat) (b : Bow) : (s.setBow k b).nextReq = s.nextReq := rfl
@[simp] theorem State.setBow_nextPiece (k : Nat) (b : Bow) : (s.setBow k b).nextPiece = s.nextPiece := rfl
@[simp] theorem State.setBow_fwds (k : Nat) (b : Bow) : (s.setBow k b).fwds = s.fwds := rfl
@[simp] theorem State.setBow_bridgeCr (k : Nat) (b : Bow) : (s.setBow k b).bridgeCr = s.bridgeCr := rfl
@[simp] theorem State.setBow_mapSave (k : Nat) (b : Bow) : (s.setBow k b).mapSave = s.mapSave := rfl
@[simp] theorem State.setBow_windows (k : Nat) (b : Bow) : (s.setBow k b).windows = s.windows := rfl
@[simp] theorem State.setBow_cache (k : Nat) (b : Bow) : (s.setBow k b).cache = s.cache := rfl
@[simp] theorem State.setBow_misses (k : Nat) (b : Bow) : (s.setBow k b).misses = s.misses := rfl
@[simp] theorem State.setBow_scmds (k : Nat) (b : Bow) : (s.setBow k b).scmds = s.scmds := rfl
@[simp] theorem State.setBow_cacheFull (k : Nat) (b : Bow) : (s.setBow k b).cacheFull = s.cacheFull := rfl
@[simp] theorem State.setBow_vtime (k : Nat) (b : Bow) : (s.setBow k b).vtime = s.vtime := rfl
@[simp] theorem State.setBow_gates (k : Nat) (b : Bow) : (s.setBow k b).gates = s.gates := rfl
@[simp] theorem State.setBow_lanes (k : Nat) (b : Bow) : (s.setBow k b).lanes = s.lanes := rfl
@[simp] theorem State.setBow_sorting (k : Nat) (b : Bow) : (s.setBow k b).sorting = s.sorting := rfl
@[simp] theorem State.setBow_outputs (k : Nat) (b : Bow) : (s.setBow k b).outputs = s.outputs := rfl
@[simp] theorem State.setBow_quota (k : Nat) (b : Bow) : (s.setBow k b).quota = s.quota := rfl
@[simp] theorem State.setBow_pccs (k : Nat) (b : Bow) : (s.setBow k b).pccs = s.pccs := rfl
@[simp] theorem State.setBow_mults (k : Nat) (b : Bow) : (s.setBow k b).mults = s.mults := rfl
@[simp] theorem State.setBow_dram (k : Nat) (b : Bow) : (s.setBow k b).dram = s.dram := rfl
@[simp] theorem State.setBow_fills (k : Nat) (b : Bow) : (s.setBow k b).fills = s.fills := rfl
@[simp] theorem State.setBow_migs (k : Nat) (b : Bow) : (s.setBow k b).migs = s.migs := rfl
@[simp] theorem State.setBow_migReasons (k : Nat) (b : Bow) : (s.setBow k b).migReasons = s.migReasons := rfl
@[simp] theorem State.setBow_salvage (k : Nat) (b : Bow) : (s.setBow k b).salvage = s.salvage := rfl
@[simp] theorem State.setBow_events (k : Nat) (b : Bow) : (s.setBow k b).events = s.events := rfl
@[simp] theorem State.setBow_dropCount (k : Nat) (b : Bow) : (s.setBow k b).dropCount = s.dropCount := rfl
@[simp] theorem State.setBow_dropStamp (k : Nat) (b : Bow) : (s.setBow k b).dropStamp = s.dropStamp := rfl
@[simp] theorem State.setBow_phyJobs (k : Nat) (b : Bow) : (s.setBow k b).phyJobs = s.phyJobs := rfl
@[simp] theorem State.setBow_slots (k : Nat) (b : Bow) : (s.setBow k b).slots = s.slots := rfl
@[simp] theorem State.setBow_launchQ (k : Nat) (b : Bow) : (s.setBow k b).launchQ = s.launchQ := rfl
@[simp] theorem State.setBow_ctxs (k : Nat) (b : Bow) : (s.setBow k b).ctxs = s.ctxs := rfl
@[simp] theorem State.setBow_waiters (k : Nat) (b : Bow) : (s.setBow k b).waiters = s.waiters := rfl
@[simp] theorem State.setBow_chks (k : Nat) (b : Bow) : (s.setBow k b).chks = s.chks := rfl
@[simp] theorem State.setBow_jobs (k : Nat) (b : Bow) : (s.setBow k b).jobs = s.jobs := rfl
@[simp] theorem State.setBow_nextJob (k : Nat) (b : Bow) : (s.setBow k b).nextJob = s.nextJob := rfl
@[simp] theorem State.setBow_nmuSince (k : Nat) (b : Bow) : (s.setBow k b).nmuSince = s.nmuSince := rfl
@[simp] theorem State.setBow_nmuTurn (k : Nat) (b : Bow) : (s.setBow k b).nmuTurn = s.nmuTurn := rfl
@[simp] theorem State.setBow_nmuLast (k : Nat) (b : Bow) : (s.setBow k b).nmuLast = s.nmuLast := rfl
@[simp] theorem State.setBow_power (k : Nat) (b : Bow) : (s.setBow k b).power = s.power := rfl
@[simp] theorem State.setBow_drone (k : Nat) (b : Bow) : (s.setBow k b).drone = s.drone := rfl
@[simp] theorem State.setBow_image (k : Nat) (b : Bow) : (s.setBow k b).image = s.image := rfl
@[simp] theorem State.setBow_levels (k : Nat) (b : Bow) : (s.setBow k b).levels = s.levels := rfl
@[simp] theorem State.setBow_fuses (k : Nat) (b : Bow) : (s.setBow k b).fuses = s.fuses := rfl
@[simp] theorem State.setBow_prog (k : Nat) (b : Bow) : (s.setBow k b).prog = s.prog := rfl
@[simp] theorem State.setBow_ucode (k : Nat) (b : Bow) : (s.setBow k b).ucode = s.ucode := rfl
@[simp] theorem State.setBow_trainLost (k : Nat) (b : Bow) : (s.setBow k b).trainLost = s.trainLost := rfl
@[simp] theorem State.setBow_sweep (k : Nat) (b : Bow) : (s.setBow k b).sweep = s.sweep := rfl
@[simp] theorem State.setBow_tallyAt (k : Nat) (b : Bow) : (s.setBow k b).tallyAt = s.tallyAt := rfl

/-! ### setChk -/
@[simp] theorem State.setChk_pending (u : Nat) (c : Chk) : (s.setChk u c).pending = s.pending := rfl
@[simp] theorem State.setChk_cpWaiting (u : Nat) (c : Chk) : (s.setChk u c).cpWaiting = s.cpWaiting := rfl
@[simp] theorem State.setChk_regs (u : Nat) (c : Chk) : (s.setChk u c).regs = s.regs := rfl
@[simp] theorem State.setChk_cpRData (u : Nat) (c : Chk) : (s.setChk u c).cpRData = s.cpRData := rfl
@[simp] theorem State.setChk_cpErr (u : Nat) (c : Chk) : (s.setChk u c).cpErr = s.cpErr := rfl
@[simp] theorem State.setChk_free (u : Nat) (c : Chk) : (s.setChk u c).free = s.free := rfl
@[simp] theorem State.setChk_build (u : Nat) (c : Chk) : (s.setChk u c).build = s.build := rfl
@[simp] theorem State.setChk_peg (u : Nat) (c : Chk) : (s.setChk u c).peg = s.peg := rfl
@[simp] theorem State.setChk_cadence (u : Nat) (c : Chk) : (s.setChk u c).cadence = s.cadence := rfl
@[simp] theorem State.setChk_pauseLeft (u : Nat) (c : Chk) : (s.setChk u c).pauseLeft = s.pauseLeft := rfl
@[simp] theorem State.setChk_syncAt (u : Nat) (c : Chk) : (s.setChk u c).syncAt = s.syncAt := rfl
@[simp] theorem State.setChk_headroom (u : Nat) (c : Chk) : (s.setChk u c).headroom = s.headroom := rfl
@[simp] theorem State.setChk_ports (u : Nat) (c : Chk) : (s.setChk u c).ports = s.ports := rfl
@[simp] theorem State.setChk_reqs (u : Nat) (c : Chk) : (s.setChk u c).reqs = s.reqs := rfl
@[simp] theorem State.setChk_nextReq (u : Nat) (c : Chk) : (s.setChk u c).nextReq = s.nextReq := rfl
@[simp] theorem State.setChk_nextPiece (u : Nat) (c : Chk) : (s.setChk u c).nextPiece = s.nextPiece := rfl
@[simp] theorem State.setChk_fwds (u : Nat) (c : Chk) : (s.setChk u c).fwds = s.fwds := rfl
@[simp] theorem State.setChk_bridgeCr (u : Nat) (c : Chk) : (s.setChk u c).bridgeCr = s.bridgeCr := rfl
@[simp] theorem State.setChk_mapSave (u : Nat) (c : Chk) : (s.setChk u c).mapSave = s.mapSave := rfl
@[simp] theorem State.setChk_windows (u : Nat) (c : Chk) : (s.setChk u c).windows = s.windows := rfl
@[simp] theorem State.setChk_cache (u : Nat) (c : Chk) : (s.setChk u c).cache = s.cache := rfl
@[simp] theorem State.setChk_misses (u : Nat) (c : Chk) : (s.setChk u c).misses = s.misses := rfl
@[simp] theorem State.setChk_scmds (u : Nat) (c : Chk) : (s.setChk u c).scmds = s.scmds := rfl
@[simp] theorem State.setChk_cacheFull (u : Nat) (c : Chk) : (s.setChk u c).cacheFull = s.cacheFull := rfl
@[simp] theorem State.setChk_vtime (u : Nat) (c : Chk) : (s.setChk u c).vtime = s.vtime := rfl
@[simp] theorem State.setChk_gates (u : Nat) (c : Chk) : (s.setChk u c).gates = s.gates := rfl
@[simp] theorem State.setChk_lanes (u : Nat) (c : Chk) : (s.setChk u c).lanes = s.lanes := rfl
@[simp] theorem State.setChk_sorting (u : Nat) (c : Chk) : (s.setChk u c).sorting = s.sorting := rfl
@[simp] theorem State.setChk_outputs (u : Nat) (c : Chk) : (s.setChk u c).outputs = s.outputs := rfl
@[simp] theorem State.setChk_quota (u : Nat) (c : Chk) : (s.setChk u c).quota = s.quota := rfl
@[simp] theorem State.setChk_pccs (u : Nat) (c : Chk) : (s.setChk u c).pccs = s.pccs := rfl
@[simp] theorem State.setChk_mults (u : Nat) (c : Chk) : (s.setChk u c).mults = s.mults := rfl
@[simp] theorem State.setChk_dram (u : Nat) (c : Chk) : (s.setChk u c).dram = s.dram := rfl
@[simp] theorem State.setChk_fills (u : Nat) (c : Chk) : (s.setChk u c).fills = s.fills := rfl
@[simp] theorem State.setChk_migs (u : Nat) (c : Chk) : (s.setChk u c).migs = s.migs := rfl
@[simp] theorem State.setChk_migReasons (u : Nat) (c : Chk) : (s.setChk u c).migReasons = s.migReasons := rfl
@[simp] theorem State.setChk_salvage (u : Nat) (c : Chk) : (s.setChk u c).salvage = s.salvage := rfl
@[simp] theorem State.setChk_events (u : Nat) (c : Chk) : (s.setChk u c).events = s.events := rfl
@[simp] theorem State.setChk_dropCount (u : Nat) (c : Chk) : (s.setChk u c).dropCount = s.dropCount := rfl
@[simp] theorem State.setChk_dropStamp (u : Nat) (c : Chk) : (s.setChk u c).dropStamp = s.dropStamp := rfl
@[simp] theorem State.setChk_phyJobs (u : Nat) (c : Chk) : (s.setChk u c).phyJobs = s.phyJobs := rfl
@[simp] theorem State.setChk_slots (u : Nat) (c : Chk) : (s.setChk u c).slots = s.slots := rfl
@[simp] theorem State.setChk_launchQ (u : Nat) (c : Chk) : (s.setChk u c).launchQ = s.launchQ := rfl
@[simp] theorem State.setChk_ctxs (u : Nat) (c : Chk) : (s.setChk u c).ctxs = s.ctxs := rfl
@[simp] theorem State.setChk_waiters (u : Nat) (c : Chk) : (s.setChk u c).waiters = s.waiters := rfl
@[simp] theorem State.setChk_bows (u : Nat) (c : Chk) : (s.setChk u c).bows = s.bows := rfl
@[simp] theorem State.setChk_jobs (u : Nat) (c : Chk) : (s.setChk u c).jobs = s.jobs := rfl
@[simp] theorem State.setChk_nextJob (u : Nat) (c : Chk) : (s.setChk u c).nextJob = s.nextJob := rfl
@[simp] theorem State.setChk_nmuSince (u : Nat) (c : Chk) : (s.setChk u c).nmuSince = s.nmuSince := rfl
@[simp] theorem State.setChk_nmuTurn (u : Nat) (c : Chk) : (s.setChk u c).nmuTurn = s.nmuTurn := rfl
@[simp] theorem State.setChk_nmuLast (u : Nat) (c : Chk) : (s.setChk u c).nmuLast = s.nmuLast := rfl
@[simp] theorem State.setChk_power (u : Nat) (c : Chk) : (s.setChk u c).power = s.power := rfl
@[simp] theorem State.setChk_drone (u : Nat) (c : Chk) : (s.setChk u c).drone = s.drone := rfl
@[simp] theorem State.setChk_image (u : Nat) (c : Chk) : (s.setChk u c).image = s.image := rfl
@[simp] theorem State.setChk_levels (u : Nat) (c : Chk) : (s.setChk u c).levels = s.levels := rfl
@[simp] theorem State.setChk_fuses (u : Nat) (c : Chk) : (s.setChk u c).fuses = s.fuses := rfl
@[simp] theorem State.setChk_prog (u : Nat) (c : Chk) : (s.setChk u c).prog = s.prog := rfl
@[simp] theorem State.setChk_ucode (u : Nat) (c : Chk) : (s.setChk u c).ucode = s.ucode := rfl
@[simp] theorem State.setChk_trainLost (u : Nat) (c : Chk) : (s.setChk u c).trainLost = s.trainLost := rfl
@[simp] theorem State.setChk_sweep (u : Nat) (c : Chk) : (s.setChk u c).sweep = s.sweep := rfl
@[simp] theorem State.setChk_tallyAt (u : Nat) (c : Chk) : (s.setChk u c).tallyAt = s.tallyAt := rfl

/-! ### setFill -/
@[simp] theorem State.setFill_pending (k p : Nat) (f : Option Nat) : (s.setFill k p f).pending = s.pending := rfl
@[simp] theorem State.setFill_cpWaiting (k p : Nat) (f : Option Nat) : (s.setFill k p f).cpWaiting = s.cpWaiting := rfl
@[simp] theorem State.setFill_regs (k p : Nat) (f : Option Nat) : (s.setFill k p f).regs = s.regs := rfl
@[simp] theorem State.setFill_cpRData (k p : Nat) (f : Option Nat) : (s.setFill k p f).cpRData = s.cpRData := rfl
@[simp] theorem State.setFill_cpErr (k p : Nat) (f : Option Nat) : (s.setFill k p f).cpErr = s.cpErr := rfl
@[simp] theorem State.setFill_free (k p : Nat) (f : Option Nat) : (s.setFill k p f).free = s.free := rfl
@[simp] theorem State.setFill_build (k p : Nat) (f : Option Nat) : (s.setFill k p f).build = s.build := rfl
@[simp] theorem State.setFill_peg (k p : Nat) (f : Option Nat) : (s.setFill k p f).peg = s.peg := rfl
@[simp] theorem State.setFill_cadence (k p : Nat) (f : Option Nat) : (s.setFill k p f).cadence = s.cadence := rfl
@[simp] theorem State.setFill_pauseLeft (k p : Nat) (f : Option Nat) : (s.setFill k p f).pauseLeft = s.pauseLeft := rfl
@[simp] theorem State.setFill_syncAt (k p : Nat) (f : Option Nat) : (s.setFill k p f).syncAt = s.syncAt := rfl
@[simp] theorem State.setFill_headroom (k p : Nat) (f : Option Nat) : (s.setFill k p f).headroom = s.headroom := rfl
@[simp] theorem State.setFill_ports (k p : Nat) (f : Option Nat) : (s.setFill k p f).ports = s.ports := rfl
@[simp] theorem State.setFill_reqs (k p : Nat) (f : Option Nat) : (s.setFill k p f).reqs = s.reqs := rfl
@[simp] theorem State.setFill_nextReq (k p : Nat) (f : Option Nat) : (s.setFill k p f).nextReq = s.nextReq := rfl
@[simp] theorem State.setFill_nextPiece (k p : Nat) (f : Option Nat) : (s.setFill k p f).nextPiece = s.nextPiece := rfl
@[simp] theorem State.setFill_fwds (k p : Nat) (f : Option Nat) : (s.setFill k p f).fwds = s.fwds := rfl
@[simp] theorem State.setFill_bridgeCr (k p : Nat) (f : Option Nat) : (s.setFill k p f).bridgeCr = s.bridgeCr := rfl
@[simp] theorem State.setFill_mapSave (k p : Nat) (f : Option Nat) : (s.setFill k p f).mapSave = s.mapSave := rfl
@[simp] theorem State.setFill_windows (k p : Nat) (f : Option Nat) : (s.setFill k p f).windows = s.windows := rfl
@[simp] theorem State.setFill_cache (k p : Nat) (f : Option Nat) : (s.setFill k p f).cache = s.cache := rfl
@[simp] theorem State.setFill_misses (k p : Nat) (f : Option Nat) : (s.setFill k p f).misses = s.misses := rfl
@[simp] theorem State.setFill_scmds (k p : Nat) (f : Option Nat) : (s.setFill k p f).scmds = s.scmds := rfl
@[simp] theorem State.setFill_cacheFull (k p : Nat) (f : Option Nat) : (s.setFill k p f).cacheFull = s.cacheFull := rfl
@[simp] theorem State.setFill_vtime (k p : Nat) (f : Option Nat) : (s.setFill k p f).vtime = s.vtime := rfl
@[simp] theorem State.setFill_gates (k p : Nat) (f : Option Nat) : (s.setFill k p f).gates = s.gates := rfl
@[simp] theorem State.setFill_lanes (k p : Nat) (f : Option Nat) : (s.setFill k p f).lanes = s.lanes := rfl
@[simp] theorem State.setFill_sorting (k p : Nat) (f : Option Nat) : (s.setFill k p f).sorting = s.sorting := rfl
@[simp] theorem State.setFill_outputs (k p : Nat) (f : Option Nat) : (s.setFill k p f).outputs = s.outputs := rfl
@[simp] theorem State.setFill_quota (k p : Nat) (f : Option Nat) : (s.setFill k p f).quota = s.quota := rfl
@[simp] theorem State.setFill_pccs (k p : Nat) (f : Option Nat) : (s.setFill k p f).pccs = s.pccs := rfl
@[simp] theorem State.setFill_mults (k p : Nat) (f : Option Nat) : (s.setFill k p f).mults = s.mults := rfl
@[simp] theorem State.setFill_dram (k p : Nat) (f : Option Nat) : (s.setFill k p f).dram = s.dram := rfl
@[simp] theorem State.setFill_migs (k p : Nat) (f : Option Nat) : (s.setFill k p f).migs = s.migs := rfl
@[simp] theorem State.setFill_migReasons (k p : Nat) (f : Option Nat) : (s.setFill k p f).migReasons = s.migReasons := rfl
@[simp] theorem State.setFill_salvage (k p : Nat) (f : Option Nat) : (s.setFill k p f).salvage = s.salvage := rfl
@[simp] theorem State.setFill_events (k p : Nat) (f : Option Nat) : (s.setFill k p f).events = s.events := rfl
@[simp] theorem State.setFill_dropCount (k p : Nat) (f : Option Nat) : (s.setFill k p f).dropCount = s.dropCount := rfl
@[simp] theorem State.setFill_dropStamp (k p : Nat) (f : Option Nat) : (s.setFill k p f).dropStamp = s.dropStamp := rfl
@[simp] theorem State.setFill_phyJobs (k p : Nat) (f : Option Nat) : (s.setFill k p f).phyJobs = s.phyJobs := rfl
@[simp] theorem State.setFill_slots (k p : Nat) (f : Option Nat) : (s.setFill k p f).slots = s.slots := rfl
@[simp] theorem State.setFill_launchQ (k p : Nat) (f : Option Nat) : (s.setFill k p f).launchQ = s.launchQ := rfl
@[simp] theorem State.setFill_ctxs (k p : Nat) (f : Option Nat) : (s.setFill k p f).ctxs = s.ctxs := rfl
@[simp] theorem State.setFill_waiters (k p : Nat) (f : Option Nat) : (s.setFill k p f).waiters = s.waiters := rfl
@[simp] theorem State.setFill_bows (k p : Nat) (f : Option Nat) : (s.setFill k p f).bows = s.bows := rfl
@[simp] theorem State.setFill_chks (k p : Nat) (f : Option Nat) : (s.setFill k p f).chks = s.chks := rfl
@[simp] theorem State.setFill_jobs (k p : Nat) (f : Option Nat) : (s.setFill k p f).jobs = s.jobs := rfl
@[simp] theorem State.setFill_nextJob (k p : Nat) (f : Option Nat) : (s.setFill k p f).nextJob = s.nextJob := rfl
@[simp] theorem State.setFill_nmuSince (k p : Nat) (f : Option Nat) : (s.setFill k p f).nmuSince = s.nmuSince := rfl
@[simp] theorem State.setFill_nmuTurn (k p : Nat) (f : Option Nat) : (s.setFill k p f).nmuTurn = s.nmuTurn := rfl
@[simp] theorem State.setFill_nmuLast (k p : Nat) (f : Option Nat) : (s.setFill k p f).nmuLast = s.nmuLast := rfl
@[simp] theorem State.setFill_power (k p : Nat) (f : Option Nat) : (s.setFill k p f).power = s.power := rfl
@[simp] theorem State.setFill_drone (k p : Nat) (f : Option Nat) : (s.setFill k p f).drone = s.drone := rfl
@[simp] theorem State.setFill_image (k p : Nat) (f : Option Nat) : (s.setFill k p f).image = s.image := rfl
@[simp] theorem State.setFill_levels (k p : Nat) (f : Option Nat) : (s.setFill k p f).levels = s.levels := rfl
@[simp] theorem State.setFill_fuses (k p : Nat) (f : Option Nat) : (s.setFill k p f).fuses = s.fuses := rfl
@[simp] theorem State.setFill_prog (k p : Nat) (f : Option Nat) : (s.setFill k p f).prog = s.prog := rfl
@[simp] theorem State.setFill_ucode (k p : Nat) (f : Option Nat) : (s.setFill k p f).ucode = s.ucode := rfl
@[simp] theorem State.setFill_trainLost (k p : Nat) (f : Option Nat) : (s.setFill k p f).trainLost = s.trainLost := rfl
@[simp] theorem State.setFill_sweep (k p : Nat) (f : Option Nat) : (s.setFill k p f).sweep = s.sweep := rfl
@[simp] theorem State.setFill_tallyAt (k p : Nat) (f : Option Nat) : (s.setFill k p f).tallyAt = s.tallyAt := rfl

/-! ### clearMapCells -/
@[simp] theorem State.clearMapCells_pending (k p : Nat) : (s.clearMapCells k p).pending = s.pending := rfl
@[simp] theorem State.clearMapCells_cpWaiting (k p : Nat) : (s.clearMapCells k p).cpWaiting = s.cpWaiting := rfl
@[simp] theorem State.clearMapCells_regs (k p : Nat) : (s.clearMapCells k p).regs = s.regs := rfl
@[simp] theorem State.clearMapCells_cpRData (k p : Nat) : (s.clearMapCells k p).cpRData = s.cpRData := rfl
@[simp] theorem State.clearMapCells_cpErr (k p : Nat) : (s.clearMapCells k p).cpErr = s.cpErr := rfl
@[simp] theorem State.clearMapCells_free (k p : Nat) : (s.clearMapCells k p).free = s.free := rfl
@[simp] theorem State.clearMapCells_build (k p : Nat) : (s.clearMapCells k p).build = s.build := rfl
@[simp] theorem State.clearMapCells_peg (k p : Nat) : (s.clearMapCells k p).peg = s.peg := rfl
@[simp] theorem State.clearMapCells_cadence (k p : Nat) : (s.clearMapCells k p).cadence = s.cadence := rfl
@[simp] theorem State.clearMapCells_pauseLeft (k p : Nat) : (s.clearMapCells k p).pauseLeft = s.pauseLeft := rfl
@[simp] theorem State.clearMapCells_syncAt (k p : Nat) : (s.clearMapCells k p).syncAt = s.syncAt := rfl
@[simp] theorem State.clearMapCells_headroom (k p : Nat) : (s.clearMapCells k p).headroom = s.headroom := rfl
@[simp] theorem State.clearMapCells_ports (k p : Nat) : (s.clearMapCells k p).ports = s.ports := rfl
@[simp] theorem State.clearMapCells_reqs (k p : Nat) : (s.clearMapCells k p).reqs = s.reqs := rfl
@[simp] theorem State.clearMapCells_nextReq (k p : Nat) : (s.clearMapCells k p).nextReq = s.nextReq := rfl
@[simp] theorem State.clearMapCells_nextPiece (k p : Nat) : (s.clearMapCells k p).nextPiece = s.nextPiece := rfl
@[simp] theorem State.clearMapCells_fwds (k p : Nat) : (s.clearMapCells k p).fwds = s.fwds := rfl
@[simp] theorem State.clearMapCells_bridgeCr (k p : Nat) : (s.clearMapCells k p).bridgeCr = s.bridgeCr := rfl
@[simp] theorem State.clearMapCells_mapSave (k p : Nat) : (s.clearMapCells k p).mapSave = s.mapSave := rfl
@[simp] theorem State.clearMapCells_windows (k p : Nat) : (s.clearMapCells k p).windows = s.windows := rfl
@[simp] theorem State.clearMapCells_cache (k p : Nat) : (s.clearMapCells k p).cache = s.cache := rfl
@[simp] theorem State.clearMapCells_misses (k p : Nat) : (s.clearMapCells k p).misses = s.misses := rfl
@[simp] theorem State.clearMapCells_scmds (k p : Nat) : (s.clearMapCells k p).scmds = s.scmds := rfl
@[simp] theorem State.clearMapCells_cacheFull (k p : Nat) : (s.clearMapCells k p).cacheFull = s.cacheFull := rfl
@[simp] theorem State.clearMapCells_vtime (k p : Nat) : (s.clearMapCells k p).vtime = s.vtime := rfl
@[simp] theorem State.clearMapCells_gates (k p : Nat) : (s.clearMapCells k p).gates = s.gates := rfl
@[simp] theorem State.clearMapCells_lanes (k p : Nat) : (s.clearMapCells k p).lanes = s.lanes := rfl
@[simp] theorem State.clearMapCells_sorting (k p : Nat) : (s.clearMapCells k p).sorting = s.sorting := rfl
@[simp] theorem State.clearMapCells_outputs (k p : Nat) : (s.clearMapCells k p).outputs = s.outputs := rfl
@[simp] theorem State.clearMapCells_quota (k p : Nat) : (s.clearMapCells k p).quota = s.quota := rfl
@[simp] theorem State.clearMapCells_pccs (k p : Nat) : (s.clearMapCells k p).pccs = s.pccs := rfl
@[simp] theorem State.clearMapCells_mults (k p : Nat) : (s.clearMapCells k p).mults = s.mults := rfl
@[simp] theorem State.clearMapCells_fills (k p : Nat) : (s.clearMapCells k p).fills = s.fills := rfl
@[simp] theorem State.clearMapCells_migs (k p : Nat) : (s.clearMapCells k p).migs = s.migs := rfl
@[simp] theorem State.clearMapCells_migReasons (k p : Nat) : (s.clearMapCells k p).migReasons = s.migReasons := rfl
@[simp] theorem State.clearMapCells_salvage (k p : Nat) : (s.clearMapCells k p).salvage = s.salvage := rfl
@[simp] theorem State.clearMapCells_events (k p : Nat) : (s.clearMapCells k p).events = s.events := rfl
@[simp] theorem State.clearMapCells_dropCount (k p : Nat) : (s.clearMapCells k p).dropCount = s.dropCount := rfl
@[simp] theorem State.clearMapCells_dropStamp (k p : Nat) : (s.clearMapCells k p).dropStamp = s.dropStamp := rfl
@[simp] theorem State.clearMapCells_phyJobs (k p : Nat) : (s.clearMapCells k p).phyJobs = s.phyJobs := rfl
@[simp] theorem State.clearMapCells_slots (k p : Nat) : (s.clearMapCells k p).slots = s.slots := rfl
@[simp] theorem State.clearMapCells_launchQ (k p : Nat) : (s.clearMapCells k p).launchQ = s.launchQ := rfl
@[simp] theorem State.clearMapCells_ctxs (k p : Nat) : (s.clearMapCells k p).ctxs = s.ctxs := rfl
@[simp] theorem State.clearMapCells_waiters (k p : Nat) : (s.clearMapCells k p).waiters = s.waiters := rfl
@[simp] theorem State.clearMapCells_bows (k p : Nat) : (s.clearMapCells k p).bows = s.bows := rfl
@[simp] theorem State.clearMapCells_chks (k p : Nat) : (s.clearMapCells k p).chks = s.chks := rfl
@[simp] theorem State.clearMapCells_jobs (k p : Nat) : (s.clearMapCells k p).jobs = s.jobs := rfl
@[simp] theorem State.clearMapCells_nextJob (k p : Nat) : (s.clearMapCells k p).nextJob = s.nextJob := rfl
@[simp] theorem State.clearMapCells_nmuSince (k p : Nat) : (s.clearMapCells k p).nmuSince = s.nmuSince := rfl
@[simp] theorem State.clearMapCells_nmuTurn (k p : Nat) : (s.clearMapCells k p).nmuTurn = s.nmuTurn := rfl
@[simp] theorem State.clearMapCells_nmuLast (k p : Nat) : (s.clearMapCells k p).nmuLast = s.nmuLast := rfl
@[simp] theorem State.clearMapCells_power (k p : Nat) : (s.clearMapCells k p).power = s.power := rfl
@[simp] theorem State.clearMapCells_drone (k p : Nat) : (s.clearMapCells k p).drone = s.drone := rfl
@[simp] theorem State.clearMapCells_image (k p : Nat) : (s.clearMapCells k p).image = s.image := rfl
@[simp] theorem State.clearMapCells_levels (k p : Nat) : (s.clearMapCells k p).levels = s.levels := rfl
@[simp] theorem State.clearMapCells_fuses (k p : Nat) : (s.clearMapCells k p).fuses = s.fuses := rfl
@[simp] theorem State.clearMapCells_prog (k p : Nat) : (s.clearMapCells k p).prog = s.prog := rfl
@[simp] theorem State.clearMapCells_ucode (k p : Nat) : (s.clearMapCells k p).ucode = s.ucode := rfl
@[simp] theorem State.clearMapCells_trainLost (k p : Nat) : (s.clearMapCells k p).trainLost = s.trainLost := rfl
@[simp] theorem State.clearMapCells_sweep (k p : Nat) : (s.clearMapCells k p).sweep = s.sweep := rfl
@[simp] theorem State.clearMapCells_tallyAt (k p : Nat) : (s.clearMapCells k p).tallyAt = s.tallyAt := rfl

/-! ### writePatterns -/
@[simp] theorem State.writePatterns_pending (k : Nat) : (s.writePatterns k).pending = s.pending := rfl
@[simp] theorem State.writePatterns_cpWaiting (k : Nat) : (s.writePatterns k).cpWaiting = s.cpWaiting := rfl
@[simp] theorem State.writePatterns_regs (k : Nat) : (s.writePatterns k).regs = s.regs := rfl
@[simp] theorem State.writePatterns_cpRData (k : Nat) : (s.writePatterns k).cpRData = s.cpRData := rfl
@[simp] theorem State.writePatterns_cpErr (k : Nat) : (s.writePatterns k).cpErr = s.cpErr := rfl
@[simp] theorem State.writePatterns_free (k : Nat) : (s.writePatterns k).free = s.free := rfl
@[simp] theorem State.writePatterns_build (k : Nat) : (s.writePatterns k).build = s.build := rfl
@[simp] theorem State.writePatterns_peg (k : Nat) : (s.writePatterns k).peg = s.peg := rfl
@[simp] theorem State.writePatterns_cadence (k : Nat) : (s.writePatterns k).cadence = s.cadence := rfl
@[simp] theorem State.writePatterns_pauseLeft (k : Nat) : (s.writePatterns k).pauseLeft = s.pauseLeft := rfl
@[simp] theorem State.writePatterns_syncAt (k : Nat) : (s.writePatterns k).syncAt = s.syncAt := rfl
@[simp] theorem State.writePatterns_headroom (k : Nat) : (s.writePatterns k).headroom = s.headroom := rfl
@[simp] theorem State.writePatterns_ports (k : Nat) : (s.writePatterns k).ports = s.ports := rfl
@[simp] theorem State.writePatterns_reqs (k : Nat) : (s.writePatterns k).reqs = s.reqs := rfl
@[simp] theorem State.writePatterns_nextReq (k : Nat) : (s.writePatterns k).nextReq = s.nextReq := rfl
@[simp] theorem State.writePatterns_nextPiece (k : Nat) : (s.writePatterns k).nextPiece = s.nextPiece := rfl
@[simp] theorem State.writePatterns_fwds (k : Nat) : (s.writePatterns k).fwds = s.fwds := rfl
@[simp] theorem State.writePatterns_bridgeCr (k : Nat) : (s.writePatterns k).bridgeCr = s.bridgeCr := rfl
@[simp] theorem State.writePatterns_mapSave (k : Nat) : (s.writePatterns k).mapSave = s.mapSave := rfl
@[simp] theorem State.writePatterns_windows (k : Nat) : (s.writePatterns k).windows = s.windows := rfl
@[simp] theorem State.writePatterns_cache (k : Nat) : (s.writePatterns k).cache = s.cache := rfl
@[simp] theorem State.writePatterns_misses (k : Nat) : (s.writePatterns k).misses = s.misses := rfl
@[simp] theorem State.writePatterns_scmds (k : Nat) : (s.writePatterns k).scmds = s.scmds := rfl
@[simp] theorem State.writePatterns_cacheFull (k : Nat) : (s.writePatterns k).cacheFull = s.cacheFull := rfl
@[simp] theorem State.writePatterns_vtime (k : Nat) : (s.writePatterns k).vtime = s.vtime := rfl
@[simp] theorem State.writePatterns_gates (k : Nat) : (s.writePatterns k).gates = s.gates := rfl
@[simp] theorem State.writePatterns_lanes (k : Nat) : (s.writePatterns k).lanes = s.lanes := rfl
@[simp] theorem State.writePatterns_sorting (k : Nat) : (s.writePatterns k).sorting = s.sorting := rfl
@[simp] theorem State.writePatterns_outputs (k : Nat) : (s.writePatterns k).outputs = s.outputs := rfl
@[simp] theorem State.writePatterns_quota (k : Nat) : (s.writePatterns k).quota = s.quota := rfl
@[simp] theorem State.writePatterns_pccs (k : Nat) : (s.writePatterns k).pccs = s.pccs := rfl
@[simp] theorem State.writePatterns_mults (k : Nat) : (s.writePatterns k).mults = s.mults := rfl
@[simp] theorem State.writePatterns_fills (k : Nat) : (s.writePatterns k).fills = s.fills := rfl
@[simp] theorem State.writePatterns_migs (k : Nat) : (s.writePatterns k).migs = s.migs := rfl
@[simp] theorem State.writePatterns_migReasons (k : Nat) : (s.writePatterns k).migReasons = s.migReasons := rfl
@[simp] theorem State.writePatterns_salvage (k : Nat) : (s.writePatterns k).salvage = s.salvage := rfl
@[simp] theorem State.writePatterns_events (k : Nat) : (s.writePatterns k).events = s.events := rfl
@[simp] theorem State.writePatterns_dropCount (k : Nat) : (s.writePatterns k).dropCount = s.dropCount := rfl
@[simp] theorem State.writePatterns_dropStamp (k : Nat) : (s.writePatterns k).dropStamp = s.dropStamp := rfl
@[simp] theorem State.writePatterns_phyJobs (k : Nat) : (s.writePatterns k).phyJobs = s.phyJobs := rfl
@[simp] theorem State.writePatterns_slots (k : Nat) : (s.writePatterns k).slots = s.slots := rfl
@[simp] theorem State.writePatterns_launchQ (k : Nat) : (s.writePatterns k).launchQ = s.launchQ := rfl
@[simp] theorem State.writePatterns_ctxs (k : Nat) : (s.writePatterns k).ctxs = s.ctxs := rfl
@[simp] theorem State.writePatterns_waiters (k : Nat) : (s.writePatterns k).waiters = s.waiters := rfl
@[simp] theorem State.writePatterns_bows (k : Nat) : (s.writePatterns k).bows = s.bows := rfl
@[simp] theorem State.writePatterns_chks (k : Nat) : (s.writePatterns k).chks = s.chks := rfl
@[simp] theorem State.writePatterns_jobs (k : Nat) : (s.writePatterns k).jobs = s.jobs := rfl
@[simp] theorem State.writePatterns_nextJob (k : Nat) : (s.writePatterns k).nextJob = s.nextJob := rfl
@[simp] theorem State.writePatterns_nmuSince (k : Nat) : (s.writePatterns k).nmuSince = s.nmuSince := rfl
@[simp] theorem State.writePatterns_nmuTurn (k : Nat) : (s.writePatterns k).nmuTurn = s.nmuTurn := rfl
@[simp] theorem State.writePatterns_nmuLast (k : Nat) : (s.writePatterns k).nmuLast = s.nmuLast := rfl
@[simp] theorem State.writePatterns_power (k : Nat) : (s.writePatterns k).power = s.power := rfl
@[simp] theorem State.writePatterns_drone (k : Nat) : (s.writePatterns k).drone = s.drone := rfl
@[simp] theorem State.writePatterns_image (k : Nat) : (s.writePatterns k).image = s.image := rfl
@[simp] theorem State.writePatterns_levels (k : Nat) : (s.writePatterns k).levels = s.levels := rfl
@[simp] theorem State.writePatterns_fuses (k : Nat) : (s.writePatterns k).fuses = s.fuses := rfl
@[simp] theorem State.writePatterns_prog (k : Nat) : (s.writePatterns k).prog = s.prog := rfl
@[simp] theorem State.writePatterns_ucode (k : Nat) : (s.writePatterns k).ucode = s.ucode := rfl
@[simp] theorem State.writePatterns_trainLost (k : Nat) : (s.writePatterns k).trainLost = s.trainLost := rfl
@[simp] theorem State.writePatterns_sweep (k : Nat) : (s.writePatterns k).sweep = s.sweep := rfl
@[simp] theorem State.writePatterns_tallyAt (k : Nat) : (s.writePatterns k).tallyAt = s.tallyAt := rfl

/-! ### setCell -/
@[simp] theorem State.setCell_pending (k p : Nat) (m : Bool) (i : Nat) (w : Stored) : (s.setCell k p m i w).pending = s.pending := rfl
@[simp] theorem State.setCell_cpWaiting (k p : Nat) (m : Bool) (i : Nat) (w : Stored) : (s.setCell k p m i w).cpWaiting = s.cpWaiting := rfl
@[simp] theorem State.setCell_regs (k p : Nat) (m : Bool) (i : Nat) (w : Stored) : (s.setCell k p m i w).regs = s.regs := rfl
@[simp] theorem State.setCell_cpRData (k p : Nat) (m : Bool) (i : Nat) (w : Stored) : (s.setCell k p m i w).cpRData = s.cpRData := rfl
@[simp] theorem State.setCell_cpErr (k p : Nat) (m : Bool) (i : Nat) (w : Stored) : (s.setCell k p m i w).cpErr = s.cpErr := rfl
@[simp] theorem State.setCell_free (k p : Nat) (m : Bool) (i : Nat) (w : Stored) : (s.setCell k p m i w).free = s.free := rfl
@[simp] theorem State.setCell_build (k p : Nat) (m : Bool) (i : Nat) (w : Stored) : (s.setCell k p m i w).build = s.build := rfl
@[simp] theorem State.setCell_peg (k p : Nat) (m : Bool) (i : Nat) (w : Stored) : (s.setCell k p m i w).peg = s.peg := rfl
@[simp] theorem State.setCell_cadence (k p : Nat) (m : Bool) (i : Nat) (w : Stored) : (s.setCell k p m i w).cadence = s.cadence := rfl
@[simp] theorem State.setCell_pauseLeft (k p : Nat) (m : Bool) (i : Nat) (w : Stored) : (s.setCell k p m i w).pauseLeft = s.pauseLeft := rfl
@[simp] theorem State.setCell_syncAt (k p : Nat) (m : Bool) (i : Nat) (w : Stored) : (s.setCell k p m i w).syncAt = s.syncAt := rfl
@[simp] theorem State.setCell_headroom (k p : Nat) (m : Bool) (i : Nat) (w : Stored) : (s.setCell k p m i w).headroom = s.headroom := rfl
@[simp] theorem State.setCell_ports (k p : Nat) (m : Bool) (i : Nat) (w : Stored) : (s.setCell k p m i w).ports = s.ports := rfl
@[simp] theorem State.setCell_reqs (k p : Nat) (m : Bool) (i : Nat) (w : Stored) : (s.setCell k p m i w).reqs = s.reqs := rfl
@[simp] theorem State.setCell_nextReq (k p : Nat) (m : Bool) (i : Nat) (w : Stored) : (s.setCell k p m i w).nextReq = s.nextReq := rfl
@[simp] theorem State.setCell_nextPiece (k p : Nat) (m : Bool) (i : Nat) (w : Stored) : (s.setCell k p m i w).nextPiece = s.nextPiece := rfl
@[simp] theorem State.setCell_fwds (k p : Nat) (m : Bool) (i : Nat) (w : Stored) : (s.setCell k p m i w).fwds = s.fwds := rfl
@[simp] theorem State.setCell_bridgeCr (k p : Nat) (m : Bool) (i : Nat) (w : Stored) : (s.setCell k p m i w).bridgeCr = s.bridgeCr := rfl
@[simp] theorem State.setCell_mapSave (k p : Nat) (m : Bool) (i : Nat) (w : Stored) : (s.setCell k p m i w).mapSave = s.mapSave := rfl
@[simp] theorem State.setCell_windows (k p : Nat) (m : Bool) (i : Nat) (w : Stored) : (s.setCell k p m i w).windows = s.windows := rfl
@[simp] theorem State.setCell_cache (k p : Nat) (m : Bool) (i : Nat) (w : Stored) : (s.setCell k p m i w).cache = s.cache := rfl
@[simp] theorem State.setCell_misses (k p : Nat) (m : Bool) (i : Nat) (w : Stored) : (s.setCell k p m i w).misses = s.misses := rfl
@[simp] theorem State.setCell_scmds (k p : Nat) (m : Bool) (i : Nat) (w : Stored) : (s.setCell k p m i w).scmds = s.scmds := rfl
@[simp] theorem State.setCell_cacheFull (k p : Nat) (m : Bool) (i : Nat) (w : Stored) : (s.setCell k p m i w).cacheFull = s.cacheFull := rfl
@[simp] theorem State.setCell_vtime (k p : Nat) (m : Bool) (i : Nat) (w : Stored) : (s.setCell k p m i w).vtime = s.vtime := rfl
@[simp] theorem State.setCell_gates (k p : Nat) (m : Bool) (i : Nat) (w : Stored) : (s.setCell k p m i w).gates = s.gates := rfl
@[simp] theorem State.setCell_lanes (k p : Nat) (m : Bool) (i : Nat) (w : Stored) : (s.setCell k p m i w).lanes = s.lanes := rfl
@[simp] theorem State.setCell_sorting (k p : Nat) (m : Bool) (i : Nat) (w : Stored) : (s.setCell k p m i w).sorting = s.sorting := rfl
@[simp] theorem State.setCell_outputs (k p : Nat) (m : Bool) (i : Nat) (w : Stored) : (s.setCell k p m i w).outputs = s.outputs := rfl
@[simp] theorem State.setCell_quota (k p : Nat) (m : Bool) (i : Nat) (w : Stored) : (s.setCell k p m i w).quota = s.quota := rfl
@[simp] theorem State.setCell_pccs (k p : Nat) (m : Bool) (i : Nat) (w : Stored) : (s.setCell k p m i w).pccs = s.pccs := rfl
@[simp] theorem State.setCell_mults (k p : Nat) (m : Bool) (i : Nat) (w : Stored) : (s.setCell k p m i w).mults = s.mults := rfl
@[simp] theorem State.setCell_fills (k p : Nat) (m : Bool) (i : Nat) (w : Stored) : (s.setCell k p m i w).fills = s.fills := rfl
@[simp] theorem State.setCell_migs (k p : Nat) (m : Bool) (i : Nat) (w : Stored) : (s.setCell k p m i w).migs = s.migs := rfl
@[simp] theorem State.setCell_migReasons (k p : Nat) (m : Bool) (i : Nat) (w : Stored) : (s.setCell k p m i w).migReasons = s.migReasons := rfl
@[simp] theorem State.setCell_salvage (k p : Nat) (m : Bool) (i : Nat) (w : Stored) : (s.setCell k p m i w).salvage = s.salvage := rfl
@[simp] theorem State.setCell_events (k p : Nat) (m : Bool) (i : Nat) (w : Stored) : (s.setCell k p m i w).events = s.events := rfl
@[simp] theorem State.setCell_dropCount (k p : Nat) (m : Bool) (i : Nat) (w : Stored) : (s.setCell k p m i w).dropCount = s.dropCount := rfl
@[simp] theorem State.setCell_dropStamp (k p : Nat) (m : Bool) (i : Nat) (w : Stored) : (s.setCell k p m i w).dropStamp = s.dropStamp := rfl
@[simp] theorem State.setCell_phyJobs (k p : Nat) (m : Bool) (i : Nat) (w : Stored) : (s.setCell k p m i w).phyJobs = s.phyJobs := rfl
@[simp] theorem State.setCell_slots (k p : Nat) (m : Bool) (i : Nat) (w : Stored) : (s.setCell k p m i w).slots = s.slots := rfl
@[simp] theorem State.setCell_launchQ (k p : Nat) (m : Bool) (i : Nat) (w : Stored) : (s.setCell k p m i w).launchQ = s.launchQ := rfl
@[simp] theorem State.setCell_ctxs (k p : Nat) (m : Bool) (i : Nat) (w : Stored) : (s.setCell k p m i w).ctxs = s.ctxs := rfl
@[simp] theorem State.setCell_waiters (k p : Nat) (m : Bool) (i : Nat) (w : Stored) : (s.setCell k p m i w).waiters = s.waiters := rfl
@[simp] theorem State.setCell_bows (k p : Nat) (m : Bool) (i : Nat) (w : Stored) : (s.setCell k p m i w).bows = s.bows := rfl
@[simp] theorem State.setCell_chks (k p : Nat) (m : Bool) (i : Nat) (w : Stored) : (s.setCell k p m i w).chks = s.chks := rfl
@[simp] theorem State.setCell_jobs (k p : Nat) (m : Bool) (i : Nat) (w : Stored) : (s.setCell k p m i w).jobs = s.jobs := rfl
@[simp] theorem State.setCell_nextJob (k p : Nat) (m : Bool) (i : Nat) (w : Stored) : (s.setCell k p m i w).nextJob = s.nextJob := rfl
@[simp] theorem State.setCell_nmuSince (k p : Nat) (m : Bool) (i : Nat) (w : Stored) : (s.setCell k p m i w).nmuSince = s.nmuSince := rfl
@[simp] theorem State.setCell_nmuTurn (k p : Nat) (m : Bool) (i : Nat) (w : Stored) : (s.setCell k p m i w).nmuTurn = s.nmuTurn := rfl
@[simp] theorem State.setCell_nmuLast (k p : Nat) (m : Bool) (i : Nat) (w : Stored) : (s.setCell k p m i w).nmuLast = s.nmuLast := rfl
@[simp] theorem State.setCell_power (k p : Nat) (m : Bool) (i : Nat) (w : Stored) : (s.setCell k p m i w).power = s.power := rfl
@[simp] theorem State.setCell_drone (k p : Nat) (m : Bool) (i : Nat) (w : Stored) : (s.setCell k p m i w).drone = s.drone := rfl
@[simp] theorem State.setCell_image (k p : Nat) (m : Bool) (i : Nat) (w : Stored) : (s.setCell k p m i w).image = s.image := rfl
@[simp] theorem State.setCell_levels (k p : Nat) (m : Bool) (i : Nat) (w : Stored) : (s.setCell k p m i w).levels = s.levels := rfl
@[simp] theorem State.setCell_fuses (k p : Nat) (m : Bool) (i : Nat) (w : Stored) : (s.setCell k p m i w).fuses = s.fuses := rfl
@[simp] theorem State.setCell_prog (k p : Nat) (m : Bool) (i : Nat) (w : Stored) : (s.setCell k p m i w).prog = s.prog := rfl
@[simp] theorem State.setCell_ucode (k p : Nat) (m : Bool) (i : Nat) (w : Stored) : (s.setCell k p m i w).ucode = s.ucode := rfl
@[simp] theorem State.setCell_trainLost (k p : Nat) (m : Bool) (i : Nat) (w : Stored) : (s.setCell k p m i w).trainLost = s.trainLost := rfl
@[simp] theorem State.setCell_sweep (k p : Nat) (m : Bool) (i : Nat) (w : Stored) : (s.setCell k p m i w).sweep = s.sweep := rfl
@[simp] theorem State.setCell_tallyAt (k p : Nat) (m : Bool) (i : Nat) (w : Stored) : (s.setCell k p m i w).tallyAt = s.tallyAt := rfl

/-! ### setSalvage -/
@[simp] theorem State.setSalvage_pending (k p : Nat) (l : List Nat) : (s.setSalvage k p l).pending = s.pending := rfl
@[simp] theorem State.setSalvage_cpWaiting (k p : Nat) (l : List Nat) : (s.setSalvage k p l).cpWaiting = s.cpWaiting := rfl
@[simp] theorem State.setSalvage_regs (k p : Nat) (l : List Nat) : (s.setSalvage k p l).regs = s.regs := rfl
@[simp] theorem State.setSalvage_cpRData (k p : Nat) (l : List Nat) : (s.setSalvage k p l).cpRData = s.cpRData := rfl
@[simp] theorem State.setSalvage_cpErr (k p : Nat) (l : List Nat) : (s.setSalvage k p l).cpErr = s.cpErr := rfl
@[simp] theorem State.setSalvage_free (k p : Nat) (l : List Nat) : (s.setSalvage k p l).free = s.free := rfl
@[simp] theorem State.setSalvage_build (k p : Nat) (l : List Nat) : (s.setSalvage k p l).build = s.build := rfl
@[simp] theorem State.setSalvage_peg (k p : Nat) (l : List Nat) : (s.setSalvage k p l).peg = s.peg := rfl
@[simp] theorem State.setSalvage_cadence (k p : Nat) (l : List Nat) : (s.setSalvage k p l).cadence = s.cadence := rfl
@[simp] theorem State.setSalvage_pauseLeft (k p : Nat) (l : List Nat) : (s.setSalvage k p l).pauseLeft = s.pauseLeft := rfl
@[simp] theorem State.setSalvage_syncAt (k p : Nat) (l : List Nat) : (s.setSalvage k p l).syncAt = s.syncAt := rfl
@[simp] theorem State.setSalvage_headroom (k p : Nat) (l : List Nat) : (s.setSalvage k p l).headroom = s.headroom := rfl
@[simp] theorem State.setSalvage_ports (k p : Nat) (l : List Nat) : (s.setSalvage k p l).ports = s.ports := rfl
@[simp] theorem State.setSalvage_reqs (k p : Nat) (l : List Nat) : (s.setSalvage k p l).reqs = s.reqs := rfl
@[simp] theorem State.setSalvage_nextReq (k p : Nat) (l : List Nat) : (s.setSalvage k p l).nextReq = s.nextReq := rfl
@[simp] theorem State.setSalvage_nextPiece (k p : Nat) (l : List Nat) : (s.setSalvage k p l).nextPiece = s.nextPiece := rfl
@[simp] theorem State.setSalvage_fwds (k p : Nat) (l : List Nat) : (s.setSalvage k p l).fwds = s.fwds := rfl
@[simp] theorem State.setSalvage_bridgeCr (k p : Nat) (l : List Nat) : (s.setSalvage k p l).bridgeCr = s.bridgeCr := rfl
@[simp] theorem State.setSalvage_mapSave (k p : Nat) (l : List Nat) : (s.setSalvage k p l).mapSave = s.mapSave := rfl
@[simp] theorem State.setSalvage_windows (k p : Nat) (l : List Nat) : (s.setSalvage k p l).windows = s.windows := rfl
@[simp] theorem State.setSalvage_cache (k p : Nat) (l : List Nat) : (s.setSalvage k p l).cache = s.cache := rfl
@[simp] theorem State.setSalvage_misses (k p : Nat) (l : List Nat) : (s.setSalvage k p l).misses = s.misses := rfl
@[simp] theorem State.setSalvage_scmds (k p : Nat) (l : List Nat) : (s.setSalvage k p l).scmds = s.scmds := rfl
@[simp] theorem State.setSalvage_cacheFull (k p : Nat) (l : List Nat) : (s.setSalvage k p l).cacheFull = s.cacheFull := rfl
@[simp] theorem State.setSalvage_vtime (k p : Nat) (l : List Nat) : (s.setSalvage k p l).vtime = s.vtime := rfl
@[simp] theorem State.setSalvage_gates (k p : Nat) (l : List Nat) : (s.setSalvage k p l).gates = s.gates := rfl
@[simp] theorem State.setSalvage_lanes (k p : Nat) (l : List Nat) : (s.setSalvage k p l).lanes = s.lanes := rfl
@[simp] theorem State.setSalvage_sorting (k p : Nat) (l : List Nat) : (s.setSalvage k p l).sorting = s.sorting := rfl
@[simp] theorem State.setSalvage_outputs (k p : Nat) (l : List Nat) : (s.setSalvage k p l).outputs = s.outputs := rfl
@[simp] theorem State.setSalvage_quota (k p : Nat) (l : List Nat) : (s.setSalvage k p l).quota = s.quota := rfl
@[simp] theorem State.setSalvage_pccs (k p : Nat) (l : List Nat) : (s.setSalvage k p l).pccs = s.pccs := rfl
@[simp] theorem State.setSalvage_mults (k p : Nat) (l : List Nat) : (s.setSalvage k p l).mults = s.mults := rfl
@[simp] theorem State.setSalvage_dram (k p : Nat) (l : List Nat) : (s.setSalvage k p l).dram = s.dram := rfl
@[simp] theorem State.setSalvage_fills (k p : Nat) (l : List Nat) : (s.setSalvage k p l).fills = s.fills := rfl
@[simp] theorem State.setSalvage_migs (k p : Nat) (l : List Nat) : (s.setSalvage k p l).migs = s.migs := rfl
@[simp] theorem State.setSalvage_migReasons (k p : Nat) (l : List Nat) : (s.setSalvage k p l).migReasons = s.migReasons := rfl
@[simp] theorem State.setSalvage_events (k p : Nat) (l : List Nat) : (s.setSalvage k p l).events = s.events := rfl
@[simp] theorem State.setSalvage_dropCount (k p : Nat) (l : List Nat) : (s.setSalvage k p l).dropCount = s.dropCount := rfl
@[simp] theorem State.setSalvage_dropStamp (k p : Nat) (l : List Nat) : (s.setSalvage k p l).dropStamp = s.dropStamp := rfl
@[simp] theorem State.setSalvage_phyJobs (k p : Nat) (l : List Nat) : (s.setSalvage k p l).phyJobs = s.phyJobs := rfl
@[simp] theorem State.setSalvage_slots (k p : Nat) (l : List Nat) : (s.setSalvage k p l).slots = s.slots := rfl
@[simp] theorem State.setSalvage_launchQ (k p : Nat) (l : List Nat) : (s.setSalvage k p l).launchQ = s.launchQ := rfl
@[simp] theorem State.setSalvage_ctxs (k p : Nat) (l : List Nat) : (s.setSalvage k p l).ctxs = s.ctxs := rfl
@[simp] theorem State.setSalvage_waiters (k p : Nat) (l : List Nat) : (s.setSalvage k p l).waiters = s.waiters := rfl
@[simp] theorem State.setSalvage_bows (k p : Nat) (l : List Nat) : (s.setSalvage k p l).bows = s.bows := rfl
@[simp] theorem State.setSalvage_chks (k p : Nat) (l : List Nat) : (s.setSalvage k p l).chks = s.chks := rfl
@[simp] theorem State.setSalvage_jobs (k p : Nat) (l : List Nat) : (s.setSalvage k p l).jobs = s.jobs := rfl
@[simp] theorem State.setSalvage_nextJob (k p : Nat) (l : List Nat) : (s.setSalvage k p l).nextJob = s.nextJob := rfl
@[simp] theorem State.setSalvage_nmuSince (k p : Nat) (l : List Nat) : (s.setSalvage k p l).nmuSince = s.nmuSince := rfl
@[simp] theorem State.setSalvage_nmuTurn (k p : Nat) (l : List Nat) : (s.setSalvage k p l).nmuTurn = s.nmuTurn := rfl
@[simp] theorem State.setSalvage_nmuLast (k p : Nat) (l : List Nat) : (s.setSalvage k p l).nmuLast = s.nmuLast := rfl
@[simp] theorem State.setSalvage_power (k p : Nat) (l : List Nat) : (s.setSalvage k p l).power = s.power := rfl
@[simp] theorem State.setSalvage_drone (k p : Nat) (l : List Nat) : (s.setSalvage k p l).drone = s.drone := rfl
@[simp] theorem State.setSalvage_image (k p : Nat) (l : List Nat) : (s.setSalvage k p l).image = s.image := rfl
@[simp] theorem State.setSalvage_levels (k p : Nat) (l : List Nat) : (s.setSalvage k p l).levels = s.levels := rfl
@[simp] theorem State.setSalvage_fuses (k p : Nat) (l : List Nat) : (s.setSalvage k p l).fuses = s.fuses := rfl
@[simp] theorem State.setSalvage_prog (k p : Nat) (l : List Nat) : (s.setSalvage k p l).prog = s.prog := rfl
@[simp] theorem State.setSalvage_ucode (k p : Nat) (l : List Nat) : (s.setSalvage k p l).ucode = s.ucode := rfl
@[simp] theorem State.setSalvage_trainLost (k p : Nat) (l : List Nat) : (s.setSalvage k p l).trainLost = s.trainLost := rfl
@[simp] theorem State.setSalvage_sweep (k p : Nat) (l : List Nat) : (s.setSalvage k p l).sweep = s.sweep := rfl
@[simp] theorem State.setSalvage_tallyAt (k p : Nat) (l : List Nat) : (s.setSalvage k p l).tallyAt = s.tallyAt := rfl

/-! ### setPeg -/
@[simp] theorem State.setPeg_pending (i : Nat) (w : Word) : (s.setPeg i w).pending = s.pending := rfl
@[simp] theorem State.setPeg_cpWaiting (i : Nat) (w : Word) : (s.setPeg i w).cpWaiting = s.cpWaiting := rfl
@[simp] theorem State.setPeg_regs (i : Nat) (w : Word) : (s.setPeg i w).regs = s.regs := rfl
@[simp] theorem State.setPeg_cpRData (i : Nat) (w : Word) : (s.setPeg i w).cpRData = s.cpRData := rfl
@[simp] theorem State.setPeg_cpErr (i : Nat) (w : Word) : (s.setPeg i w).cpErr = s.cpErr := rfl
@[simp] theorem State.setPeg_free (i : Nat) (w : Word) : (s.setPeg i w).free = s.free := rfl
@[simp] theorem State.setPeg_build (i : Nat) (w : Word) : (s.setPeg i w).build = s.build := rfl
@[simp] theorem State.setPeg_cadence (i : Nat) (w : Word) : (s.setPeg i w).cadence = s.cadence := rfl
@[simp] theorem State.setPeg_pauseLeft (i : Nat) (w : Word) : (s.setPeg i w).pauseLeft = s.pauseLeft := rfl
@[simp] theorem State.setPeg_syncAt (i : Nat) (w : Word) : (s.setPeg i w).syncAt = s.syncAt := rfl
@[simp] theorem State.setPeg_headroom (i : Nat) (w : Word) : (s.setPeg i w).headroom = s.headroom := rfl
@[simp] theorem State.setPeg_ports (i : Nat) (w : Word) : (s.setPeg i w).ports = s.ports := rfl
@[simp] theorem State.setPeg_reqs (i : Nat) (w : Word) : (s.setPeg i w).reqs = s.reqs := rfl
@[simp] theorem State.setPeg_nextReq (i : Nat) (w : Word) : (s.setPeg i w).nextReq = s.nextReq := rfl
@[simp] theorem State.setPeg_nextPiece (i : Nat) (w : Word) : (s.setPeg i w).nextPiece = s.nextPiece := rfl
@[simp] theorem State.setPeg_fwds (i : Nat) (w : Word) : (s.setPeg i w).fwds = s.fwds := rfl
@[simp] theorem State.setPeg_bridgeCr (i : Nat) (w : Word) : (s.setPeg i w).bridgeCr = s.bridgeCr := rfl
@[simp] theorem State.setPeg_mapSave (i : Nat) (w : Word) : (s.setPeg i w).mapSave = s.mapSave := rfl
@[simp] theorem State.setPeg_windows (i : Nat) (w : Word) : (s.setPeg i w).windows = s.windows := rfl
@[simp] theorem State.setPeg_cache (i : Nat) (w : Word) : (s.setPeg i w).cache = s.cache := rfl
@[simp] theorem State.setPeg_misses (i : Nat) (w : Word) : (s.setPeg i w).misses = s.misses := rfl
@[simp] theorem State.setPeg_scmds (i : Nat) (w : Word) : (s.setPeg i w).scmds = s.scmds := rfl
@[simp] theorem State.setPeg_cacheFull (i : Nat) (w : Word) : (s.setPeg i w).cacheFull = s.cacheFull := rfl
@[simp] theorem State.setPeg_vtime (i : Nat) (w : Word) : (s.setPeg i w).vtime = s.vtime := rfl
@[simp] theorem State.setPeg_gates (i : Nat) (w : Word) : (s.setPeg i w).gates = s.gates := rfl
@[simp] theorem State.setPeg_lanes (i : Nat) (w : Word) : (s.setPeg i w).lanes = s.lanes := rfl
@[simp] theorem State.setPeg_sorting (i : Nat) (w : Word) : (s.setPeg i w).sorting = s.sorting := rfl
@[simp] theorem State.setPeg_outputs (i : Nat) (w : Word) : (s.setPeg i w).outputs = s.outputs := rfl
@[simp] theorem State.setPeg_quota (i : Nat) (w : Word) : (s.setPeg i w).quota = s.quota := rfl
@[simp] theorem State.setPeg_pccs (i : Nat) (w : Word) : (s.setPeg i w).pccs = s.pccs := rfl
@[simp] theorem State.setPeg_mults (i : Nat) (w : Word) : (s.setPeg i w).mults = s.mults := rfl
@[simp] theorem State.setPeg_dram (i : Nat) (w : Word) : (s.setPeg i w).dram = s.dram := rfl
@[simp] theorem State.setPeg_fills (i : Nat) (w : Word) : (s.setPeg i w).fills = s.fills := rfl
@[simp] theorem State.setPeg_migs (i : Nat) (w : Word) : (s.setPeg i w).migs = s.migs := rfl
@[simp] theorem State.setPeg_migReasons (i : Nat) (w : Word) : (s.setPeg i w).migReasons = s.migReasons := rfl
@[simp] theorem State.setPeg_salvage (i : Nat) (w : Word) : (s.setPeg i w).salvage = s.salvage := rfl
@[simp] theorem State.setPeg_events (i : Nat) (w : Word) : (s.setPeg i w).events = s.events := rfl
@[simp] theorem State.setPeg_dropCount (i : Nat) (w : Word) : (s.setPeg i w).dropCount = s.dropCount := rfl
@[simp] theorem State.setPeg_dropStamp (i : Nat) (w : Word) : (s.setPeg i w).dropStamp = s.dropStamp := rfl
@[simp] theorem State.setPeg_phyJobs (i : Nat) (w : Word) : (s.setPeg i w).phyJobs = s.phyJobs := rfl
@[simp] theorem State.setPeg_slots (i : Nat) (w : Word) : (s.setPeg i w).slots = s.slots := rfl
@[simp] theorem State.setPeg_launchQ (i : Nat) (w : Word) : (s.setPeg i w).launchQ = s.launchQ := rfl
@[simp] theorem State.setPeg_ctxs (i : Nat) (w : Word) : (s.setPeg i w).ctxs = s.ctxs := rfl
@[simp] theorem State.setPeg_waiters (i : Nat) (w : Word) : (s.setPeg i w).waiters = s.waiters := rfl
@[simp] theorem State.setPeg_bows (i : Nat) (w : Word) : (s.setPeg i w).bows = s.bows := rfl
@[simp] theorem State.setPeg_chks (i : Nat) (w : Word) : (s.setPeg i w).chks = s.chks := rfl
@[simp] theorem State.setPeg_jobs (i : Nat) (w : Word) : (s.setPeg i w).jobs = s.jobs := rfl
@[simp] theorem State.setPeg_nextJob (i : Nat) (w : Word) : (s.setPeg i w).nextJob = s.nextJob := rfl
@[simp] theorem State.setPeg_nmuSince (i : Nat) (w : Word) : (s.setPeg i w).nmuSince = s.nmuSince := rfl
@[simp] theorem State.setPeg_nmuTurn (i : Nat) (w : Word) : (s.setPeg i w).nmuTurn = s.nmuTurn := rfl
@[simp] theorem State.setPeg_nmuLast (i : Nat) (w : Word) : (s.setPeg i w).nmuLast = s.nmuLast := rfl
@[simp] theorem State.setPeg_power (i : Nat) (w : Word) : (s.setPeg i w).power = s.power := rfl
@[simp] theorem State.setPeg_drone (i : Nat) (w : Word) : (s.setPeg i w).drone = s.drone := rfl
@[simp] theorem State.setPeg_image (i : Nat) (w : Word) : (s.setPeg i w).image = s.image := rfl
@[simp] theorem State.setPeg_levels (i : Nat) (w : Word) : (s.setPeg i w).levels = s.levels := rfl
@[simp] theorem State.setPeg_fuses (i : Nat) (w : Word) : (s.setPeg i w).fuses = s.fuses := rfl
@[simp] theorem State.setPeg_prog (i : Nat) (w : Word) : (s.setPeg i w).prog = s.prog := rfl
@[simp] theorem State.setPeg_ucode (i : Nat) (w : Word) : (s.setPeg i w).ucode = s.ucode := rfl
@[simp] theorem State.setPeg_trainLost (i : Nat) (w : Word) : (s.setPeg i w).trainLost = s.trainLost := rfl
@[simp] theorem State.setPeg_sweep (i : Nat) (w : Word) : (s.setPeg i w).sweep = s.sweep := rfl
@[simp] theorem State.setPeg_tallyAt (i : Nat) (w : Word) : (s.setPeg i w).tallyAt = s.tallyAt := rfl

/-! ### setWindow -/
@[simp] theorem State.setWindow_pending (k i : Nat) (w : Window) : (s.setWindow k i w).pending = s.pending := rfl
@[simp] theorem State.setWindow_cpWaiting (k i : Nat) (w : Window) : (s.setWindow k i w).cpWaiting = s.cpWaiting := rfl
@[simp] theorem State.setWindow_regs (k i : Nat) (w : Window) : (s.setWindow k i w).regs = s.regs := rfl
@[simp] theorem State.setWindow_cpRData (k i : Nat) (w : Window) : (s.setWindow k i w).cpRData = s.cpRData := rfl
@[simp] theorem State.setWindow_cpErr (k i : Nat) (w : Window) : (s.setWindow k i w).cpErr = s.cpErr := rfl
@[simp] theorem State.setWindow_free (k i : Nat) (w : Window) : (s.setWindow k i w).free = s.free := rfl
@[simp] theorem State.setWindow_build (k i : Nat) (w : Window) : (s.setWindow k i w).build = s.build := rfl
@[simp] theorem State.setWindow_peg (k i : Nat) (w : Window) : (s.setWindow k i w).peg = s.peg := rfl
@[simp] theorem State.setWindow_cadence (k i : Nat) (w : Window) : (s.setWindow k i w).cadence = s.cadence := rfl
@[simp] theorem State.setWindow_pauseLeft (k i : Nat) (w : Window) : (s.setWindow k i w).pauseLeft = s.pauseLeft := rfl
@[simp] theorem State.setWindow_syncAt (k i : Nat) (w : Window) : (s.setWindow k i w).syncAt = s.syncAt := rfl
@[simp] theorem State.setWindow_headroom (k i : Nat) (w : Window) : (s.setWindow k i w).headroom = s.headroom := rfl
@[simp] theorem State.setWindow_ports (k i : Nat) (w : Window) : (s.setWindow k i w).ports = s.ports := rfl
@[simp] theorem State.setWindow_reqs (k i : Nat) (w : Window) : (s.setWindow k i w).reqs = s.reqs := rfl
@[simp] theorem State.setWindow_nextReq (k i : Nat) (w : Window) : (s.setWindow k i w).nextReq = s.nextReq := rfl
@[simp] theorem State.setWindow_nextPiece (k i : Nat) (w : Window) : (s.setWindow k i w).nextPiece = s.nextPiece := rfl
@[simp] theorem State.setWindow_fwds (k i : Nat) (w : Window) : (s.setWindow k i w).fwds = s.fwds := rfl
@[simp] theorem State.setWindow_bridgeCr (k i : Nat) (w : Window) : (s.setWindow k i w).bridgeCr = s.bridgeCr := rfl
@[simp] theorem State.setWindow_mapSave (k i : Nat) (w : Window) : (s.setWindow k i w).mapSave = s.mapSave := rfl
@[simp] theorem State.setWindow_cache (k i : Nat) (w : Window) : (s.setWindow k i w).cache = s.cache := rfl
@[simp] theorem State.setWindow_misses (k i : Nat) (w : Window) : (s.setWindow k i w).misses = s.misses := rfl
@[simp] theorem State.setWindow_scmds (k i : Nat) (w : Window) : (s.setWindow k i w).scmds = s.scmds := rfl
@[simp] theorem State.setWindow_cacheFull (k i : Nat) (w : Window) : (s.setWindow k i w).cacheFull = s.cacheFull := rfl
@[simp] theorem State.setWindow_vtime (k i : Nat) (w : Window) : (s.setWindow k i w).vtime = s.vtime := rfl
@[simp] theorem State.setWindow_gates (k i : Nat) (w : Window) : (s.setWindow k i w).gates = s.gates := rfl
@[simp] theorem State.setWindow_lanes (k i : Nat) (w : Window) : (s.setWindow k i w).lanes = s.lanes := rfl
@[simp] theorem State.setWindow_sorting (k i : Nat) (w : Window) : (s.setWindow k i w).sorting = s.sorting := rfl
@[simp] theorem State.setWindow_outputs (k i : Nat) (w : Window) : (s.setWindow k i w).outputs = s.outputs := rfl
@[simp] theorem State.setWindow_quota (k i : Nat) (w : Window) : (s.setWindow k i w).quota = s.quota := rfl
@[simp] theorem State.setWindow_pccs (k i : Nat) (w : Window) : (s.setWindow k i w).pccs = s.pccs := rfl
@[simp] theorem State.setWindow_mults (k i : Nat) (w : Window) : (s.setWindow k i w).mults = s.mults := rfl
@[simp] theorem State.setWindow_dram (k i : Nat) (w : Window) : (s.setWindow k i w).dram = s.dram := rfl
@[simp] theorem State.setWindow_fills (k i : Nat) (w : Window) : (s.setWindow k i w).fills = s.fills := rfl
@[simp] theorem State.setWindow_migs (k i : Nat) (w : Window) : (s.setWindow k i w).migs = s.migs := rfl
@[simp] theorem State.setWindow_migReasons (k i : Nat) (w : Window) : (s.setWindow k i w).migReasons = s.migReasons := rfl
@[simp] theorem State.setWindow_salvage (k i : Nat) (w : Window) : (s.setWindow k i w).salvage = s.salvage := rfl
@[simp] theorem State.setWindow_events (k i : Nat) (w : Window) : (s.setWindow k i w).events = s.events := rfl
@[simp] theorem State.setWindow_dropCount (k i : Nat) (w : Window) : (s.setWindow k i w).dropCount = s.dropCount := rfl
@[simp] theorem State.setWindow_dropStamp (k i : Nat) (w : Window) : (s.setWindow k i w).dropStamp = s.dropStamp := rfl
@[simp] theorem State.setWindow_phyJobs (k i : Nat) (w : Window) : (s.setWindow k i w).phyJobs = s.phyJobs := rfl
@[simp] theorem State.setWindow_slots (k i : Nat) (w : Window) : (s.setWindow k i w).slots = s.slots := rfl
@[simp] theorem State.setWindow_launchQ (k i : Nat) (w : Window) : (s.setWindow k i w).launchQ = s.launchQ := rfl
@[simp] theorem State.setWindow_ctxs (k i : Nat) (w : Window) : (s.setWindow k i w).ctxs = s.ctxs := rfl
@[simp] theorem State.setWindow_waiters (k i : Nat) (w : Window) : (s.setWindow k i w).waiters = s.waiters := rfl
@[simp] theorem State.setWindow_bows (k i : Nat) (w : Window) : (s.setWindow k i w).bows = s.bows := rfl
@[simp] theorem State.setWindow_chks (k i : Nat) (w : Window) : (s.setWindow k i w).chks = s.chks := rfl
@[simp] theorem State.setWindow_jobs (k i : Nat) (w : Window) : (s.setWindow k i w).jobs = s.jobs := rfl
@[simp] theorem State.setWindow_nextJob (k i : Nat) (w : Window) : (s.setWindow k i w).nextJob = s.nextJob := rfl
@[simp] theorem State.setWindow_nmuSince (k i : Nat) (w : Window) : (s.setWindow k i w).nmuSince = s.nmuSince := rfl
@[simp] theorem State.setWindow_nmuTurn (k i : Nat) (w : Window) : (s.setWindow k i w).nmuTurn = s.nmuTurn := rfl
@[simp] theorem State.setWindow_nmuLast (k i : Nat) (w : Window) : (s.setWindow k i w).nmuLast = s.nmuLast := rfl
@[simp] theorem State.setWindow_power (k i : Nat) (w : Window) : (s.setWindow k i w).power = s.power := rfl
@[simp] theorem State.setWindow_drone (k i : Nat) (w : Window) : (s.setWindow k i w).drone = s.drone := rfl
@[simp] theorem State.setWindow_image (k i : Nat) (w : Window) : (s.setWindow k i w).image = s.image := rfl
@[simp] theorem State.setWindow_levels (k i : Nat) (w : Window) : (s.setWindow k i w).levels = s.levels := rfl
@[simp] theorem State.setWindow_fuses (k i : Nat) (w : Window) : (s.setWindow k i w).fuses = s.fuses := rfl
@[simp] theorem State.setWindow_prog (k i : Nat) (w : Window) : (s.setWindow k i w).prog = s.prog := rfl
@[simp] theorem State.setWindow_ucode (k i : Nat) (w : Window) : (s.setWindow k i w).ucode = s.ucode := rfl
@[simp] theorem State.setWindow_trainLost (k i : Nat) (w : Window) : (s.setWindow k i w).trainLost = s.trainLost := rfl
@[simp] theorem State.setWindow_sweep (k i : Nat) (w : Window) : (s.setWindow k i w).sweep = s.sweep := rfl
@[simp] theorem State.setWindow_tallyAt (k i : Nat) (w : Window) : (s.setWindow k i w).tallyAt = s.tallyAt := rfl

/-! ### setTokenQ -/
@[simp] theorem State.setTokenQ_pending (t : Nat) (l : List Waiter) : (s.setTokenQ t l).pending = s.pending := rfl
@[simp] theorem State.setTokenQ_cpWaiting (t : Nat) (l : List Waiter) : (s.setTokenQ t l).cpWaiting = s.cpWaiting := rfl
@[simp] theorem State.setTokenQ_regs (t : Nat) (l : List Waiter) : (s.setTokenQ t l).regs = s.regs := rfl
@[simp] theorem State.setTokenQ_cpRData (t : Nat) (l : List Waiter) : (s.setTokenQ t l).cpRData = s.cpRData := rfl
@[simp] theorem State.setTokenQ_cpErr (t : Nat) (l : List Waiter) : (s.setTokenQ t l).cpErr = s.cpErr := rfl
@[simp] theorem State.setTokenQ_free (t : Nat) (l : List Waiter) : (s.setTokenQ t l).free = s.free := rfl
@[simp] theorem State.setTokenQ_build (t : Nat) (l : List Waiter) : (s.setTokenQ t l).build = s.build := rfl
@[simp] theorem State.setTokenQ_peg (t : Nat) (l : List Waiter) : (s.setTokenQ t l).peg = s.peg := rfl
@[simp] theorem State.setTokenQ_cadence (t : Nat) (l : List Waiter) : (s.setTokenQ t l).cadence = s.cadence := rfl
@[simp] theorem State.setTokenQ_pauseLeft (t : Nat) (l : List Waiter) : (s.setTokenQ t l).pauseLeft = s.pauseLeft := rfl
@[simp] theorem State.setTokenQ_syncAt (t : Nat) (l : List Waiter) : (s.setTokenQ t l).syncAt = s.syncAt := rfl
@[simp] theorem State.setTokenQ_headroom (t : Nat) (l : List Waiter) : (s.setTokenQ t l).headroom = s.headroom := rfl
@[simp] theorem State.setTokenQ_ports (t : Nat) (l : List Waiter) : (s.setTokenQ t l).ports = s.ports := rfl
@[simp] theorem State.setTokenQ_reqs (t : Nat) (l : List Waiter) : (s.setTokenQ t l).reqs = s.reqs := rfl
@[simp] theorem State.setTokenQ_nextReq (t : Nat) (l : List Waiter) : (s.setTokenQ t l).nextReq = s.nextReq := rfl
@[simp] theorem State.setTokenQ_nextPiece (t : Nat) (l : List Waiter) : (s.setTokenQ t l).nextPiece = s.nextPiece := rfl
@[simp] theorem State.setTokenQ_fwds (t : Nat) (l : List Waiter) : (s.setTokenQ t l).fwds = s.fwds := rfl
@[simp] theorem State.setTokenQ_bridgeCr (t : Nat) (l : List Waiter) : (s.setTokenQ t l).bridgeCr = s.bridgeCr := rfl
@[simp] theorem State.setTokenQ_mapSave (t : Nat) (l : List Waiter) : (s.setTokenQ t l).mapSave = s.mapSave := rfl
@[simp] theorem State.setTokenQ_windows (t : Nat) (l : List Waiter) : (s.setTokenQ t l).windows = s.windows := rfl
@[simp] theorem State.setTokenQ_cache (t : Nat) (l : List Waiter) : (s.setTokenQ t l).cache = s.cache := rfl
@[simp] theorem State.setTokenQ_misses (t : Nat) (l : List Waiter) : (s.setTokenQ t l).misses = s.misses := rfl
@[simp] theorem State.setTokenQ_scmds (t : Nat) (l : List Waiter) : (s.setTokenQ t l).scmds = s.scmds := rfl
@[simp] theorem State.setTokenQ_cacheFull (t : Nat) (l : List Waiter) : (s.setTokenQ t l).cacheFull = s.cacheFull := rfl
@[simp] theorem State.setTokenQ_vtime (t : Nat) (l : List Waiter) : (s.setTokenQ t l).vtime = s.vtime := rfl
@[simp] theorem State.setTokenQ_gates (t : Nat) (l : List Waiter) : (s.setTokenQ t l).gates = s.gates := rfl
@[simp] theorem State.setTokenQ_lanes (t : Nat) (l : List Waiter) : (s.setTokenQ t l).lanes = s.lanes := rfl
@[simp] theorem State.setTokenQ_sorting (t : Nat) (l : List Waiter) : (s.setTokenQ t l).sorting = s.sorting := rfl
@[simp] theorem State.setTokenQ_outputs (t : Nat) (l : List Waiter) : (s.setTokenQ t l).outputs = s.outputs := rfl
@[simp] theorem State.setTokenQ_quota (t : Nat) (l : List Waiter) : (s.setTokenQ t l).quota = s.quota := rfl
@[simp] theorem State.setTokenQ_pccs (t : Nat) (l : List Waiter) : (s.setTokenQ t l).pccs = s.pccs := rfl
@[simp] theorem State.setTokenQ_mults (t : Nat) (l : List Waiter) : (s.setTokenQ t l).mults = s.mults := rfl
@[simp] theorem State.setTokenQ_dram (t : Nat) (l : List Waiter) : (s.setTokenQ t l).dram = s.dram := rfl
@[simp] theorem State.setTokenQ_fills (t : Nat) (l : List Waiter) : (s.setTokenQ t l).fills = s.fills := rfl
@[simp] theorem State.setTokenQ_migs (t : Nat) (l : List Waiter) : (s.setTokenQ t l).migs = s.migs := rfl
@[simp] theorem State.setTokenQ_migReasons (t : Nat) (l : List Waiter) : (s.setTokenQ t l).migReasons = s.migReasons := rfl
@[simp] theorem State.setTokenQ_salvage (t : Nat) (l : List Waiter) : (s.setTokenQ t l).salvage = s.salvage := rfl
@[simp] theorem State.setTokenQ_events (t : Nat) (l : List Waiter) : (s.setTokenQ t l).events = s.events := rfl
@[simp] theorem State.setTokenQ_dropCount (t : Nat) (l : List Waiter) : (s.setTokenQ t l).dropCount = s.dropCount := rfl
@[simp] theorem State.setTokenQ_dropStamp (t : Nat) (l : List Waiter) : (s.setTokenQ t l).dropStamp = s.dropStamp := rfl
@[simp] theorem State.setTokenQ_phyJobs (t : Nat) (l : List Waiter) : (s.setTokenQ t l).phyJobs = s.phyJobs := rfl
@[simp] theorem State.setTokenQ_slots (t : Nat) (l : List Waiter) : (s.setTokenQ t l).slots = s.slots := rfl
@[simp] theorem State.setTokenQ_launchQ (t : Nat) (l : List Waiter) : (s.setTokenQ t l).launchQ = s.launchQ := rfl
@[simp] theorem State.setTokenQ_ctxs (t : Nat) (l : List Waiter) : (s.setTokenQ t l).ctxs = s.ctxs := rfl
@[simp] theorem State.setTokenQ_bows (t : Nat) (l : List Waiter) : (s.setTokenQ t l).bows = s.bows := rfl
@[simp] theorem State.setTokenQ_chks (t : Nat) (l : List Waiter) : (s.setTokenQ t l).chks = s.chks := rfl
@[simp] theorem State.setTokenQ_jobs (t : Nat) (l : List Waiter) : (s.setTokenQ t l).jobs = s.jobs := rfl
@[simp] theorem State.setTokenQ_nextJob (t : Nat) (l : List Waiter) : (s.setTokenQ t l).nextJob = s.nextJob := rfl
@[simp] theorem State.setTokenQ_nmuSince (t : Nat) (l : List Waiter) : (s.setTokenQ t l).nmuSince = s.nmuSince := rfl
@[simp] theorem State.setTokenQ_nmuTurn (t : Nat) (l : List Waiter) : (s.setTokenQ t l).nmuTurn = s.nmuTurn := rfl
@[simp] theorem State.setTokenQ_nmuLast (t : Nat) (l : List Waiter) : (s.setTokenQ t l).nmuLast = s.nmuLast := rfl
@[simp] theorem State.setTokenQ_power (t : Nat) (l : List Waiter) : (s.setTokenQ t l).power = s.power := rfl
@[simp] theorem State.setTokenQ_drone (t : Nat) (l : List Waiter) : (s.setTokenQ t l).drone = s.drone := rfl
@[simp] theorem State.setTokenQ_image (t : Nat) (l : List Waiter) : (s.setTokenQ t l).image = s.image := rfl
@[simp] theorem State.setTokenQ_levels (t : Nat) (l : List Waiter) : (s.setTokenQ t l).levels = s.levels := rfl
@[simp] theorem State.setTokenQ_fuses (t : Nat) (l : List Waiter) : (s.setTokenQ t l).fuses = s.fuses := rfl
@[simp] theorem State.setTokenQ_prog (t : Nat) (l : List Waiter) : (s.setTokenQ t l).prog = s.prog := rfl
@[simp] theorem State.setTokenQ_ucode (t : Nat) (l : List Waiter) : (s.setTokenQ t l).ucode = s.ucode := rfl
@[simp] theorem State.setTokenQ_trainLost (t : Nat) (l : List Waiter) : (s.setTokenQ t l).trainLost = s.trainLost := rfl
@[simp] theorem State.setTokenQ_sweep (t : Nat) (l : List Waiter) : (s.setTokenQ t l).sweep = s.sweep := rfl
@[simp] theorem State.setTokenQ_tallyAt (t : Nat) (l : List Waiter) : (s.setTokenQ t l).tallyAt = s.tallyAt := rfl


/-! ### Names for updates of registers, ports, requests, PCCs and outputs -/
@[simp] theorem State.raise_eq (f : Fld) : s.raise f = s.fset f 1 := rfl
@[simp] theorem State.count_eq (f : Fld) (n : Nat) : s.count f n = s.fset f (s.fget f + n) := rfl
@[simp] theorem State.countSat_eq (f : Fld) (n : Nat) : s.countSat f n = s.fset f (min (2 ^ (f.hi + 1 - f.lo) - 1) (s.fget f + n)) := rfl
@[simp] theorem State.setMaskBit_eq (f : Fld) (i : Nat) (b : Bool) : s.setMaskBit f i b = s.fset f (bitsPut (s.fget f) i i (bit b)) := rfl
@[simp] theorem State.modPort_eq (n : Nat) (f : Port → Port) : s.modPort n f = s.setPort n (f (s.port n)) := rfl
@[simp] theorem State.modPcc_eq (k p : Nat) (f : Pcc → Pcc) : s.modPcc k p f = s.setPcc k p (f (s.pcc k p)) := rfl
@[simp] theorem State.modOut_eq (k p : Nat) (f : Output → Output) : s.modOut k p f = s.setOut k p (f (s.out k p)) := rfl
@[simp] theorem State.modSlot_eq (n : Nat) (f : Slot → Slot) : s.modSlot n f = s.setSlot n (f (s.slot n)) := rfl

/-! ### post: the event queue, its drops, and EV_STATUS -/
@[simp] theorem State.post_pending (c u x y : Nat) : (s.post c u x y).pending = s.pending := by
  unfold State.post; split
  · rfl
  · simp only [State.countSat_eq, State.fset_pending]
@[simp] theorem State.post_cpWaiting (c u x y : Nat) : (s.post c u x y).cpWaiting = s.cpWaiting := by
  unfold State.post; split
  · rfl
  · simp only [State.countSat_eq, State.fset_cpWaiting]
@[simp] theorem State.post_cpRData (c u x y : Nat) : (s.post c u x y).cpRData = s.cpRData := by
  unfold State.post; split
  · rfl
  · simp only [State.countSat_eq, State.fset_cpRData]
@[simp] theorem State.post_cpErr (c u x y : Nat) : (s.post c u x y).cpErr = s.cpErr := by
  unfold State.post; split
  · rfl
  · simp only [State.countSat_eq, State.fset_cpErr]
@[simp] theorem State.post_free (c u x y : Nat) : (s.post c u x y).free = s.free := by
  unfold State.post; split
  · rfl
  · simp only [State.countSat_eq, State.fset_free]
@[simp] theorem State.post_build (c u x y : Nat) : (s.post c u x y).build = s.build := by
  unfold State.post; split
  · rfl
  · simp only [State.countSat_eq, State.fset_build]
@[simp] theorem State.post_peg (c u x y : Nat) : (s.post c u x y).peg = s.peg := by
  unfold State.post; split
  · rfl
  · simp only [State.countSat_eq, State.fset_peg]
@[simp] theorem State.post_cadence (c u x y : Nat) : (s.post c u x y).cadence = s.cadence := by
  unfold State.post; split
  · rfl
  · simp only [State.countSat_eq, State.fset_cadence]
@[simp] theorem State.post_pauseLeft (c u x y : Nat) : (s.post c u x y).pauseLeft = s.pauseLeft := by
  unfold State.post; split
  · rfl
  · simp only [State.countSat_eq, State.fset_pauseLeft]
@[simp] theorem State.post_syncAt (c u x y : Nat) : (s.post c u x y).syncAt = s.syncAt := by
  unfold State.post; split
  · rfl
  · simp only [State.countSat_eq, State.fset_syncAt]
@[simp] theorem State.post_headroom (c u x y : Nat) : (s.post c u x y).headroom = s.headroom := by
  unfold State.post; split
  · rfl
  · simp only [State.countSat_eq, State.fset_headroom]
@[simp] theorem State.post_ports (c u x y : Nat) : (s.post c u x y).ports = s.ports := by
  unfold State.post; split
  · rfl
  · simp only [State.countSat_eq, State.fset_ports]
@[simp] theorem State.post_reqs (c u x y : Nat) : (s.post c u x y).reqs = s.reqs := by
  unfold State.post; split
  · rfl
  · simp only [State.countSat_eq, State.fset_reqs]
@[simp] theorem State.post_nextReq (c u x y : Nat) : (s.post c u x y).nextReq = s.nextReq := by
  unfold State.post; split
  · rfl
  · simp only [State.countSat_eq, State.fset_nextReq]
@[simp] theorem State.post_nextPiece (c u x y : Nat) : (s.post c u x y).nextPiece = s.nextPiece := by
  unfold State.post; split
  · rfl
  · simp only [State.countSat_eq, State.fset_nextPiece]
@[simp] theorem State.post_fwds (c u x y : Nat) : (s.post c u x y).fwds = s.fwds := by
  unfold State.post; split
  · rfl
  · simp only [State.countSat_eq, State.fset_fwds]
@[simp] theorem State.post_bridgeCr (c u x y : Nat) : (s.post c u x y).bridgeCr = s.bridgeCr := by
  unfold State.post; split
  · rfl
  · simp only [State.countSat_eq, State.fset_bridgeCr]
@[simp] theorem State.post_mapSave (c u x y : Nat) : (s.post c u x y).mapSave = s.mapSave := by
  unfold State.post; split
  · rfl
  · simp only [State.countSat_eq, State.fset_mapSave]
@[simp] theorem State.post_windows (c u x y : Nat) : (s.post c u x y).windows = s.windows := by
  unfold State.post; split
  · rfl
  · simp only [State.countSat_eq, State.fset_windows]
@[simp] theorem State.post_cache (c u x y : Nat) : (s.post c u x y).cache = s.cache := by
  unfold State.post; split
  · rfl
  · simp only [State.countSat_eq, State.fset_cache]
@[simp] theorem State.post_misses (c u x y : Nat) : (s.post c u x y).misses = s.misses := by
  unfold State.post; split
  · rfl
  · simp only [State.countSat_eq, State.fset_misses]
@[simp] theorem State.post_scmds (c u x y : Nat) : (s.post c u x y).scmds = s.scmds := by
  unfold State.post; split
  · rfl
  · simp only [State.countSat_eq, State.fset_scmds]
@[simp] theorem State.post_cacheFull (c u x y : Nat) : (s.post c u x y).cacheFull = s.cacheFull := by
  unfold State.post; split
  · rfl
  · simp only [State.countSat_eq, State.fset_cacheFull]
@[simp] theorem State.post_vtime (c u x y : Nat) : (s.post c u x y).vtime = s.vtime := by
  unfold State.post; split
  · rfl
  · simp only [State.countSat_eq, State.fset_vtime]
@[simp] theorem State.post_gates (c u x y : Nat) : (s.post c u x y).gates = s.gates := by
  unfold State.post; split
  · rfl
  · simp only [State.countSat_eq, State.fset_gates]
@[simp] theorem State.post_lanes (c u x y : Nat) : (s.post c u x y).lanes = s.lanes := by
  unfold State.post; split
  · rfl
  · simp only [State.countSat_eq, State.fset_lanes]
@[simp] theorem State.post_sorting (c u x y : Nat) : (s.post c u x y).sorting = s.sorting := by
  unfold State.post; split
  · rfl
  · simp only [State.countSat_eq, State.fset_sorting]
@[simp] theorem State.post_outputs (c u x y : Nat) : (s.post c u x y).outputs = s.outputs := by
  unfold State.post; split
  · rfl
  · simp only [State.countSat_eq, State.fset_outputs]
@[simp] theorem State.post_quota (c u x y : Nat) : (s.post c u x y).quota = s.quota := by
  unfold State.post; split
  · rfl
  · simp only [State.countSat_eq, State.fset_quota]
@[simp] theorem State.post_pccs (c u x y : Nat) : (s.post c u x y).pccs = s.pccs := by
  unfold State.post; split
  · rfl
  · simp only [State.countSat_eq, State.fset_pccs]
@[simp] theorem State.post_mults (c u x y : Nat) : (s.post c u x y).mults = s.mults := by
  unfold State.post; split
  · rfl
  · simp only [State.countSat_eq, State.fset_mults]
@[simp] theorem State.post_dram (c u x y : Nat) : (s.post c u x y).dram = s.dram := by
  unfold State.post; split
  · rfl
  · simp only [State.countSat_eq, State.fset_dram]
@[simp] theorem State.post_fills (c u x y : Nat) : (s.post c u x y).fills = s.fills := by
  unfold State.post; split
  · rfl
  · simp only [State.countSat_eq, State.fset_fills]
@[simp] theorem State.post_migs (c u x y : Nat) : (s.post c u x y).migs = s.migs := by
  unfold State.post; split
  · rfl
  · simp only [State.countSat_eq, State.fset_migs]
@[simp] theorem State.post_migReasons (c u x y : Nat) : (s.post c u x y).migReasons = s.migReasons := by
  unfold State.post; split
  · rfl
  · simp only [State.countSat_eq, State.fset_migReasons]
@[simp] theorem State.post_salvage (c u x y : Nat) : (s.post c u x y).salvage = s.salvage := by
  unfold State.post; split
  · rfl
  · simp only [State.countSat_eq, State.fset_salvage]
@[simp] theorem State.post_phyJobs (c u x y : Nat) : (s.post c u x y).phyJobs = s.phyJobs := by
  unfold State.post; split
  · rfl
  · simp only [State.countSat_eq, State.fset_phyJobs]
@[simp] theorem State.post_slots (c u x y : Nat) : (s.post c u x y).slots = s.slots := by
  unfold State.post; split
  · rfl
  · simp only [State.countSat_eq, State.fset_slots]
@[simp] theorem State.post_launchQ (c u x y : Nat) : (s.post c u x y).launchQ = s.launchQ := by
  unfold State.post; split
  · rfl
  · simp only [State.countSat_eq, State.fset_launchQ]
@[simp] theorem State.post_ctxs (c u x y : Nat) : (s.post c u x y).ctxs = s.ctxs := by
  unfold State.post; split
  · rfl
  · simp only [State.countSat_eq, State.fset_ctxs]
@[simp] theorem State.post_waiters (c u x y : Nat) : (s.post c u x y).waiters = s.waiters := by
  unfold State.post; split
  · rfl
  · simp only [State.countSat_eq, State.fset_waiters]
@[simp] theorem State.post_bows (c u x y : Nat) : (s.post c u x y).bows = s.bows := by
  unfold State.post; split
  · rfl
  · simp only [State.countSat_eq, State.fset_bows]
@[simp] theorem State.post_chks (c u x y : Nat) : (s.post c u x y).chks = s.chks := by
  unfold State.post; split
  · rfl
  · simp only [State.countSat_eq, State.fset_chks]
@[simp] theorem State.post_jobs (c u x y : Nat) : (s.post c u x y).jobs = s.jobs := by
  unfold State.post; split
  · rfl
  · simp only [State.countSat_eq, State.fset_jobs]
@[simp] theorem State.post_nextJob (c u x y : Nat) : (s.post c u x y).nextJob = s.nextJob := by
  unfold State.post; split
  · rfl
  · simp only [State.countSat_eq, State.fset_nextJob]
@[simp] theorem State.post_nmuSince (c u x y : Nat) : (s.post c u x y).nmuSince = s.nmuSince := by
  unfold State.post; split
  · rfl
  · simp only [State.countSat_eq, State.fset_nmuSince]
@[simp] theorem State.post_nmuTurn (c u x y : Nat) : (s.post c u x y).nmuTurn = s.nmuTurn := by
  unfold State.post; split
  · rfl
  · simp only [State.countSat_eq, State.fset_nmuTurn]
@[simp] theorem State.post_nmuLast (c u x y : Nat) : (s.post c u x y).nmuLast = s.nmuLast := by
  unfold State.post; split
  · rfl
  · simp only [State.countSat_eq, State.fset_nmuLast]
@[simp] theorem State.post_power (c u x y : Nat) : (s.post c u x y).power = s.power := by
  unfold State.post; split
  · rfl
  · simp only [State.countSat_eq, State.fset_power]
@[simp] theorem State.post_drone (c u x y : Nat) : (s.post c u x y).drone = s.drone := by
  unfold State.post; split
  · rfl
  · simp only [State.countSat_eq, State.fset_drone]
@[simp] theorem State.post_image (c u x y : Nat) : (s.post c u x y).image = s.image := by
  unfold State.post; split
  · rfl
  · simp only [State.countSat_eq, State.fset_image]
@[simp] theorem State.post_levels (c u x y : Nat) : (s.post c u x y).levels = s.levels := by
  unfold State.post; split
  · rfl
  · simp only [State.countSat_eq, State.fset_levels]
@[simp] theorem State.post_fuses (c u x y : Nat) : (s.post c u x y).fuses = s.fuses := by
  unfold State.post; split
  · rfl
  · simp only [State.countSat_eq, State.fset_fuses]
@[simp] theorem State.post_prog (c u x y : Nat) : (s.post c u x y).prog = s.prog := by
  unfold State.post; split
  · rfl
  · simp only [State.countSat_eq, State.fset_prog]
@[simp] theorem State.post_ucode (c u x y : Nat) : (s.post c u x y).ucode = s.ucode := by
  unfold State.post; split
  · rfl
  · simp only [State.countSat_eq, State.fset_ucode]
@[simp] theorem State.post_trainLost (c u x y : Nat) : (s.post c u x y).trainLost = s.trainLost := by
  unfold State.post; split
  · rfl
  · simp only [State.countSat_eq, State.fset_trainLost]
@[simp] theorem State.post_sweep (c u x y : Nat) : (s.post c u x y).sweep = s.sweep := by
  unfold State.post; split
  · rfl
  · simp only [State.countSat_eq, State.fset_sweep]
@[simp] theorem State.post_tallyAt (c u x y : Nat) : (s.post c u x y).tallyAt = s.tallyAt := by
  unfold State.post; split
  · rfl
  · simp only [State.countSat_eq, State.fset_tallyAt]

end Sys2Proof.Machine
end

