-- ==== Sys2Proof/Laws/Regs.lean ====
section
/-! SUPPORT. Registers: what a read of a register or field gives after a write, and the canonical form of the register list. -/

namespace Sys2Proof.Machine

theorem State.reg_setReg (s : State) (a b : Nat) (w : Word) : (s.setReg a w).reg b = if a = b then w else s.reg b := by
  unfold State.reg State.setReg
  by_cases h : a = b
  · subst h; simp
  · simp [h, SMap.get_put_other _ _ _ _ _ _ h]

@[simp] theorem State.reg_setReg_same (s : State) (a : Nat) (w : Word) : (s.setReg a w).reg a = w := by
  simp [State.reg_setReg]

theorem State.reg_fset (s : State) (f : Fld) (v a : Nat) :
    (s.fset f v).reg a = if f.addr = a then BitVec.ofNat 64 (bitsPut (s.reg a).toNat f.hi f.lo v) else s.reg a := by
  unfold State.fset
  rw [State.reg_setReg]
  by_cases h : f.addr = a
  · subst h; simp
  · simp [h]

/-- A field reads as it was written, cut to its width. -/
theorem State.fget_fset_same (s : State) (f : Fld) (v : Nat) (h : f.Ok) :
    (s.fset f v).fget f = v % 2 ^ (f.hi + 1 - f.lo) := by
  unfold State.fget
  rw [State.reg_fset, if_pos rfl, BitVec.toNat_ofNat,
    Nat.mod_eq_of_lt (bitsPut_lt _ _ _ _ (by omega) h.2 (s.reg f.addr).isLt)]
  exact bitsOf_bitsPut_same _ _ _ _ (by omega)

/-- A write of one field leaves every field that shares no bit with it. -/
theorem State.fget_fset_apart (s : State) (f g : Fld) (v : Nat) (h : f.Ok) (d : f.Apart g) :
    (s.fset f v).fget g = s.fget g := by
  unfold State.fget
  rw [State.reg_fset]
  by_cases e : f.addr = g.addr
  · rw [if_pos e, BitVec.toNat_ofNat,
      Nat.mod_eq_of_lt (bitsPut_lt _ _ _ _ (by omega) h.2 (s.reg g.addr).isLt)]
    exact bitsOf_bitsPut_other _ _ _ _ _ _ (by omega) (d.resolve_left (fun n => n e))
  · rw [if_neg e]

/-- A flag reads as it was written. -/
theorem State.flag_fset_bit (s : State) (f : Fld) (b : Bool) (h : f.Ok) (w : f.hi = f.lo) : (s.fset f (bit b)).flag f = b := by
  unfold State.flag
  rw [State.fget_fset_same s f _ h, w]
  cases b <;> simp

theorem State.flag_fset_apart (s : State) (f g : Fld) (v : Nat) (h : f.Ok) (d : f.Apart g) :
    (s.fset f v).flag g = s.flag g := by
  unfold State.flag; rw [State.fget_fset_apart s f g v h d]

/-- What posting an event does to the registers: nothing, or the count of drops. -/
theorem State.reg_post (s : State) (c u x y a : Nat) (h : a ≠ A.glbEvStatus) : (s.post c u x y).reg a = s.reg a := by
  unfold State.post
  split
  · rfl
  · show ((s.countSat F.glbEvStatus_DROPPED 1)).reg a = s.reg a
    rw [State.countSat_eq, State.reg_fset, if_neg]
    intro e; exact h e.symm

/-- With room in the queue an event is appended with the present cadence value (R426). -/
theorem State.events_post (s : State) (c u x y : Nat) (h : s.events.length < 64) :
    (s.post c u x y).events = s.events ++ [⟨c, u, s.cadence, BitVec.ofNat 64 x, BitVec.ofNat 64 y⟩] := by
  unfold State.post; rw [if_pos h]

/-- With 64 records queued the queue stays as it is (R428). -/
theorem State.events_post_full (s : State) (c u x y : Nat) (h : ¬ s.events.length < 64) :
    (s.post c u x y).events = s.events := by
  unfold State.post; rw [if_neg h]; rfl

/-- Posting keeps the queue within its 64 records. -/
theorem State.events_post_le (s : State) (c u x y : Nat) (h : s.events.length ≤ 64) :
    (s.post c u x y).events.length ≤ 64 := by
  by_cases h' : s.events.length < 64
  · rw [State.events_post _ _ _ _ _ h', List.length_append]; simp; omega
  · rw [State.events_post_full _ _ _ _ _ h']; exact h

end Sys2Proof.Machine
end

