-- ==== Sys2Proof/Laws/Keep.lean ====
section
/-! SUPPORT. What every command keeps: the queue, and the form of a state. The combinators that the lemmas per operation use. -/

namespace Sys2Proof.Machine

/-- `s` comes from `σ` with the queue untouched and the form kept. -/
structure State.Keeps (σ s : State) : Prop where
  pending : s.pending = σ.pending
  formed : σ.Formed → s.Formed

/-- Every state an option holds keeps `σ`. -/
structure State.KeepsO (σ : State) (o : Option State) : Prop where
  all : ∀ t, o = some t → σ.Keeps t

/-- The state beside a result, where there is one, keeps `σ`. -/
structure State.KeepsQ {α : Type} (σ : State) (o : Option (State × α)) : Prop where
  all : ∀ t, o = some t → σ.Keeps t.1

/-- The next state, where there is one, keeps `σ`. -/
structure State.KeepsR (σ : State) (o : Host.Outcome State Fault Refusal) : Prop where
  all : ∀ t, o = .next t → σ.Keeps t

variable {σ s t x y : State} {α : Type}

theorem State.Keeps.refl : σ.Keeps σ := ⟨rfl, id⟩

theorem State.Keeps.upd (h : σ.Keeps s) (hp : t.pending = s.pending) (hr : t.regs = s.regs) (hd : t.dram = s.dram)
    (hf : t.fills = s.fills) (he : t.events = s.events) : σ.Keeps t := by
  refine ⟨hp.trans h.pending, fun h0 => ?_⟩
  obtain ⟨h1, h2, h3⟩ := h.formed h0
  exact ⟨hr ▸ h1, (Memory.wf_iff hd hf).2 h2, he ▸ h3⟩

/-- A record update that leaves the queue, the registers, the cells and the events alone. -/
theorem State.keeps_mk
    (cpWaiting' : List Instr) (cpRData' : Word) (cpErr' : Bool) (free' : Nat) (build' : Build) (peg' : SMap Word) (cadence' : Nat) (pauseLeft' : Nat) (syncAt' : Option (Nat × Nat)) (headroom' : Headroom) (ports' : SMap Port) (reqs' : SMap Req) (nextReq' : Nat) (nextPiece' : Nat) (fwds' : SMap Fwd) (bridgeCr' : SMap Nat) (mapSave' : SMap (Option MapSave)) (windows' : SMap Window) (cache' : SMap Entry) (misses' : List Miss) (scmds' : List SCmd) (cacheFull' : Bool) (vtime' : SMap Nat) (gates' : SMap GateArm) (lanes' : List Piece) (sorting' : List Piece) (outputs' : SMap Output) (quota' : SMap Quota) (pccs' : SMap Pcc) (mults' : SMap Nat) (migs' : SMap (Option Mig)) (migReasons' : SMap Nat) (salvage' : SMap (List Nat)) (dropCount' : Nat) (dropStamp' : Nat) (phyJobs' : SMap (Option PhyJob)) (slots' : SMap Slot) (launchQ' : List Nat) (ctxs' : SMap (Option Ctx)) (waiters' : SMap (List Waiter)) (bows' : SMap Bow) (chks' : SMap Chk) (jobs' : SMap Job) (nextJob' : Nat) (nmuSince' : SMap Nat) (nmuTurn' : SMap Nat) (nmuLast' : SMap Nat) (power' : PwrSt) (drone' : Drone) (image' : Option Image) (levels' : SMap Nat) (fuses' : SMap Word) (prog' : Word) (ucode' : SMap Word) (trainLost' : Nat) (sweep' : Option Sweep) (tallyAt' : Nat) :
    σ.Keeps (State.mk s.pending cpWaiting' s.regs cpRData' cpErr' free' build' peg' cadence' pauseLeft' syncAt' headroom' ports' reqs' nextReq' nextPiece' fwds' bridgeCr' mapSave' windows' cache' misses' scmds' cacheFull' vtime' gates' lanes' sorting' outputs' quota' pccs' mults' s.dram s.fills migs' migReasons' salvage' s.events dropCount' dropStamp' phyJobs' slots' launchQ' ctxs' waiters' bows' chks' jobs' nextJob' nmuSince' nmuTurn' nmuLast' power' drone' image' levels' fuses' prog' ucode' trainLost' sweep' tallyAt') ↔ σ.Keeps s :=
  ⟨fun h => h.upd rfl rfl rfl rfl rfl, fun h => h.upd rfl rfl rfl rfl rfl⟩

theorem State.Keeps.ite {c : Prop} [Decidable c] (h : σ.Keeps x) (h' : σ.Keeps y) : σ.Keeps (if c then x else y) := by
  split <;> assumption

theorem State.Keeps.cut {P : Prop} (h : σ.Keeps x) (h' : σ.Keeps x → P) : P := h' h

theorem State.Keeps.cutP {P : Prop} {p : State × α} (h : σ.Keeps p.1) (h' : σ.Keeps p.1 → P) : P := h' h

theorem State.Keeps.fst {p : State × α} {d : α} (e : p = (t, d)) (h : σ.Keeps p.1) : σ.Keeps t := by subst e; exact h

theorem State.KeepsO.elim {o : Option State} (e : o = some t) (h : σ.KeepsO o) : σ.Keeps t := h.all t e
theorem State.KeepsO.some (h : σ.Keeps s) : σ.KeepsO (some s) := ⟨fun _ e => by cases e; exact h⟩
theorem State.KeepsO.none : σ.KeepsO none := ⟨fun _ e => by cases e⟩
theorem State.KeepsO.map {o : Option State} {f : State → State} (h : σ.KeepsO o) (h' : ∀ t, σ.Keeps t → σ.Keeps (f t)) :
    σ.KeepsO (o.map f) := by
  cases o with
  | none => exact .none
  | some t => exact .some (h' t (h.all t rfl))
theorem State.KeepsO.mapAll {β : Type} {o : Option β} {f : β → State} (h : ∀ a, σ.Keeps (f a)) : σ.KeepsO (o.map f) := by
  cases o with
  | none => exact .none
  | some a => exact .some (h a)
theorem State.KeepsO.bind {β : Type} {o : Option β} {f : β → Option State} (h : ∀ a, σ.KeepsO (f a)) : σ.KeepsO (o.bind f) := by
  cases o with
  | none => exact .none
  | some a => exact h a
theorem State.KeepsO.bindK {o : Option State} {f : State → Option State} (h : σ.KeepsO o)
    (h' : ∀ t, σ.Keeps t → σ.KeepsO (f t)) : σ.KeepsO (o.bind f) := by
  cases o with
  | none => exact .none
  | some a => exact h' a (h.all a rfl)
theorem State.KeepsO.of (h : σ.KeepsO (Option.some t)) : σ.Keeps t := h.all t rfl
theorem State.KeepsO.cut {P : Prop} {o : Option State} (h : σ.KeepsO o) (h' : σ.KeepsO o → P) : P := h' h
theorem State.KeepsO.getD {o : Option State} (h : σ.KeepsO o) (h' : σ.Keeps s) : σ.Keeps (o.getD s) := by
  cases o with
  | none => exact h'
  | some t => exact h.all t rfl

theorem State.KeepsQ.elim {o : Option (State × α)} {d : α} (e : o = some (t, d)) (h : σ.KeepsQ o) : σ.Keeps t := h.all _ e
theorem State.KeepsQ.elim' {o : Option (State × α)} {r : State × α} (e : o = some r) (h : σ.KeepsQ o) : σ.Keeps r.1 :=
  h.all _ e
theorem State.KeepsQ.some {r : State × α} (h : σ.Keeps r.1) : σ.KeepsQ (some r) := ⟨fun _ e => by cases e; exact h⟩
theorem State.KeepsQ.none : σ.KeepsQ (none : Option (State × α)) := ⟨fun _ e => by cases e⟩

theorem State.KeepsR.next (h : σ.Keeps s) : σ.KeepsR (.next s) := ⟨fun _ e => by cases e; exact h⟩
theorem State.KeepsR.fault {f : Fault} : σ.KeepsR (.fault f) := ⟨fun _ e => by cases e⟩
theorem State.KeepsR.refused {r : Refusal} : σ.KeepsR (.refused r) := ⟨fun _ e => by cases e⟩

theorem State.keeps_foldl {f : State → α → State} (l : List α) (h : σ.Keeps s) (h' : ∀ t a, σ.Keeps t → σ.Keeps (f t a)) :
    σ.Keeps (l.foldl f s) := by
  induction l generalizing s with
  | nil => exact h
  | cons a l ih => exact ih (h' _ _ h)

theorem State.keepsO_foldl {f : Option State → α → Option State} {o : Option State} (l : List α) (h : σ.KeepsO o)
    (h' : ∀ o a, σ.KeepsO o → σ.KeepsO (f o a)) : σ.KeepsO (l.foldl f o) := by
  induction l generalizing o with
  | nil => exact h
  | cons a l ih => exact ih (h' _ _ h)

theorem State.keepsP_foldl {β : Type} {f : State × β → α → State × β} {o : State × β} (l : List α) (h : σ.Keeps o.1)
    (h' : ∀ o a, σ.Keeps o.1 → σ.Keeps (f o a).1) : σ.Keeps (l.foldl f o).1 := by
  induction l generalizing o with
  | nil => exact h
  | cons a l ih => exact ih (h' _ _ h)

theorem State.keeps_forEach {f : State → α → State} {l : List α} (h : σ.Keeps s) (h' : ∀ t a, σ.Keeps t → σ.Keeps (f t a)) :
    σ.Keeps (s.forEach l f) := State.keeps_foldl l h h'

/-! The updates that touch what the form speaks of. -/

theorem State.keeps_setReg (h : σ.Keeps s) {a : Nat} {w : Word} : σ.Keeps (s.setReg a w) :=
  ⟨h.pending, fun h0 => ⟨SMap.wf_put (h.formed h0).regs _ _, (h.formed h0).cells, (h.formed h0).events⟩⟩

theorem State.keeps_setCell (h : σ.Keeps s) {k p : Nat} {m : Bool} {i : Nat} {w : Stored} : σ.Keeps (s.setCell k p m i w) :=
  ⟨h.pending, fun h0 => ⟨(h.formed h0).regs, SMap.wf_put (h.formed h0).cells _ _, (h.formed h0).events⟩⟩

theorem State.keeps_clearMapCells (h : σ.Keeps s) {k p : Nat} : σ.Keeps (s.clearMapCells k p) :=
  ⟨h.pending, fun h0 => ⟨(h.formed h0).regs, Memory.wf_clearMapCells (h.formed h0).cells k p, (h.formed h0).events⟩⟩

theorem State.keeps_writePatterns (h : σ.Keeps s) {k : Nat} : σ.Keeps (s.writePatterns k) :=
  ⟨h.pending, fun h0 => ⟨(h.formed h0).regs, Memory.wf_writePatterns (h.formed h0).cells k, (h.formed h0).events⟩⟩

theorem State.keeps_fset {f : Fld} {v : Nat} (hk : σ.Keeps s) : σ.Keeps (State.fset s f v) := by
  unfold State.fset; exact State.keeps_setReg hk

theorem State.keeps_raise {f : Fld} (hk : σ.Keeps s) : σ.Keeps (State.raise s f) := by
  unfold State.raise
  with_reducible repeat' first
    | assumption | (intro _) | apply State.keeps_fset

theorem State.keeps_count {f : Fld} {n : Nat} (hk : σ.Keeps s) : σ.Keeps (State.count s f n) := by
  unfold State.count
  with_reducible repeat' first
    | assumption | (intro _) | apply State.keeps_fset

theorem State.keeps_countSat {f : Fld} {n : Nat} (hk : σ.Keeps s) : σ.Keeps (State.countSat s f n) := by
  unfold State.countSat
  with_reducible repeat' first
    | assumption | (intro _) | apply State.keeps_fset

theorem State.keeps_setMaskBit {f : Fld} {i : Nat} {b : Bool} (hk : σ.Keeps s) : σ.Keeps (State.setMaskBit s f i b) := by
  unfold State.setMaskBit
  with_reducible repeat' first
    | assumption | (intro _) | apply State.keeps_fset

theorem State.keeps_post {code unit : Nat} {arg0 arg1 : Nat} (hk : σ.Keeps s) :
    σ.Keeps (State.post s code unit arg0 arg1) := by
  unfold State.post
  split
  · rename_i h'
    exact ⟨hk.pending, fun h0 => ⟨(hk.formed h0).regs, (hk.formed h0).cells, by
      show (s.events ++ [_]).length ≤ 64; rw [List.length_append]; exact Nat.succ_le_of_lt h'⟩⟩
  · simp only [State.keeps_mk]
    rw [State.countSat_eq]; exact State.keeps_fset hk

theorem State.keeps_freed (hk : σ.Keeps s) : σ.Keeps (State.freed s) := by
  unfold State.freed
  with_reducible repeat' first
    | assumption | (intro _) | simp only [State.keeps_mk]

theorem State.keeps_atCadence {due : Nat} (hk : σ.Keeps s) : σ.KeepsO (State.atCadence s due) := by
  unfold State.atCadence
  with_reducible repeat' first
    | assumption | (intro _) | simp only [State.keeps_mk] | apply State.KeepsO.some | exact State.KeepsO.none
    | apply State.Keeps.ite | (split)

theorem State.keeps_cpDo {c : Instr} {f : State → State} (hk : σ.Keeps s) (h' : ∀ t, σ.Keeps t → σ.Keeps (f t)) :
    σ.KeepsR (State.cpDo s c f) := by
  unfold State.cpDo
  refine .next ?_
  split
  · apply h'; simpa only [State.keeps_mk] using hk
  · simpa only [State.keeps_mk] using hk

theorem State.keeps_cpStk {k : Fin 8} {c : Instr} {f : State → State} (hk : σ.Keeps s) (h' : ∀ t, σ.Keeps t → σ.Keeps (f t)) :
    σ.KeepsR (State.cpStk s k c f) := by
  unfold State.cpStk
  refine State.keeps_cpDo hk fun t ht => ?_
  split
  · exact h' t ht
  · exact ht

theorem State.keeps_setPort {n : Nat} {p : Port} (hk : σ.Keeps s) : σ.Keeps (State.setPort s n p) := by
  unfold State.setPort
  with_reducible repeat' first
    | assumption | (intro _) | simp only [State.keeps_mk]

theorem State.keeps_modPort {n : Nat} {f : Port → Port} (hk : σ.Keeps s) : σ.Keeps (State.modPort s n f) := by
  unfold State.modPort
  with_reducible repeat' first
    | assumption | (intro _) | apply State.keeps_setPort

theorem State.keeps_putReq {i : Nat} {r : Req} (hk : σ.Keeps s) : σ.Keeps (State.putReq s i r) := by
  unfold State.putReq
  with_reducible repeat' first
    | assumption | (intro _) | simp only [State.keeps_mk]

theorem State.keeps_modReq {i : Nat} {f : Req → Req} (hk : σ.Keeps s) : σ.Keeps (State.modReq s i f) := by
  unfold State.modReq
  with_reducible repeat' first
    | assumption | (intro _) | apply State.keeps_putReq | (split)

theorem State.keeps_dropReq {i : Nat} (hk : σ.Keeps s) : σ.Keeps (State.dropReq s i) := by
  unfold State.dropReq
  with_reducible repeat' first
    | assumption | (intro _) | simp only [State.keeps_mk]

theorem State.keeps_setPcc {k p : Nat} {c : Pcc} (hk : σ.Keeps s) : σ.Keeps (State.setPcc s k p c) := by
  unfold State.setPcc
  with_reducible repeat' first
    | assumption | (intro _) | simp only [State.keeps_mk]

theorem State.keeps_modPcc {k p : Nat} {f : Pcc → Pcc} (hk : σ.Keeps s) : σ.Keeps (State.modPcc s k p f) := by
  unfold State.modPcc
  with_reducible repeat' first
    | assumption | (intro _) | apply State.keeps_setPcc

theorem State.keeps_setOut {k p : Nat} {o : Output} (hk : σ.Keeps s) : σ.Keeps (State.setOut s k p o) := by
  unfold State.setOut
  with_reducible repeat' first
    | assumption | (intro _) | simp only [State.keeps_mk]

theorem State.keeps_modOut {k p : Nat} {f : Output → Output} (hk : σ.Keeps s) : σ.Keeps (State.modOut s k p f) := by
  unfold State.modOut
  with_reducible repeat' first
    | assumption | (intro _) | apply State.keeps_setOut

theorem State.keeps_setBow {k : Nat} {b : Bow} (hk : σ.Keeps s) : σ.Keeps (State.setBow s k b) := by
  unfold State.setBow
  with_reducible repeat' first
    | assumption | (intro _) | simp only [State.keeps_mk]

end Sys2Proof.Machine
end

