-- ==== Sys2Proof/Laws/KeepPath.lean ====
section
/-! SUPPORT. What every operation on the fabric, the ingresses, the PCCs, the stream cache and the ports keeps. -/

namespace Sys2Proof.Machine

variable {σ s : State}

theorem State.keeps_setMig {k : Nat} {m : Option Mig} (hk : σ.Keeps s) : σ.Keeps (State.setMig s k m) := by
  unfold State.setMig
  with_reducible repeat' first
    | assumption | (intro _) | simp only [State.keeps_mk]

theorem State.keeps_deny {k a mid : Nat} {o : POrigin} {d : Denial} (hk : σ.Keeps s) :
    σ.Keeps (State.deny s k a mid o d) := by
  unfold State.deny
  with_reducible repeat' first
    | assumption | (intro _)
    | (extract_lets +onlyGivenNames x; first | (refine State.Keeps.cut (σ := σ) (x := x) ?_ (fun hx => ?_); subst x; rotate_left; clear_value x; rotate_right) | (refine State.Keeps.cutP (σ := σ) (p := x) ?_ (fun hx => ?_); subst x; rotate_left; clear_value x; rotate_right) | (refine State.KeepsO.cut (σ := σ) (o := x) ?_ (fun hx => ?_); subst x; rotate_left; clear_value x; rotate_right) | clear_value x)
    | apply State.keeps_setReg | apply State.keeps_fset | apply State.keeps_raise | apply State.keeps_count
    | apply State.keeps_post | apply State.Keeps.ite

theorem State.keeps_setAtomWord {k p u : Nat} {w : Stored} (hk : σ.Keeps s) : σ.Keeps (State.setAtomWord s k p u w) := by
  unfold State.setAtomWord
  with_reducible repeat' first
    | assumption | (intro _) | apply State.keeps_setCell | (split)

theorem State.keeps_errLog {k type src ppc syms first : Nat} {inMeta : Bool} {addr : Nat} (hk : σ.Keeps s) :
    σ.Keeps (State.errLog s k type src ppc syms first inMeta addr) := by
  unfold State.errLog
  with_reducible repeat' first
    | assumption | (intro _)
    | (extract_lets +onlyGivenNames x; first | (refine State.Keeps.cut (σ := σ) (x := x) ?_ (fun hx => ?_); subst x; rotate_left; clear_value x; rotate_right) | (refine State.Keeps.cutP (σ := σ) (p := x) ?_ (fun hx => ?_); subst x; rotate_left; clear_value x; rotate_right) | clear_value x)
    | apply State.keeps_setReg | apply State.keeps_fset | apply State.keeps_countSat | apply State.Keeps.ite

theorem State.keeps_retireDue {k p reason : Nat} (hk : σ.Keeps s) : σ.Keeps (State.retireDue s k p reason) := by
  unfold State.retireDue
  with_reducible repeat' first
    | assumption | (intro _)
    | (extract_lets +onlyGivenNames x; first | (refine State.Keeps.cut (σ := σ) (x := x) ?_ (fun hx => ?_); subst x; rotate_left; clear_value x; rotate_right) | (refine State.Keeps.cutP (σ := σ) (p := x) ?_ (fun hx => ?_); subst x; rotate_left; clear_value x; rotate_right) | (refine State.KeepsO.cut (σ := σ) (o := x) ?_ (fun hx => ?_); subst x; rotate_left; clear_value x; rotate_right) | clear_value x)
    | apply State.keeps_fset | apply State.keeps_setMaskBit | simp only [State.keeps_mk] | apply State.Keeps.ite | (split)

theorem State.keeps_ueAtom {k p : Nat} (hk : σ.Keeps s) : σ.Keeps (State.ueAtom s k p) := by
  unfold State.ueAtom
  with_reducible repeat' first
    | assumption | (intro _)
    | (extract_lets +onlyGivenNames x; first | (refine State.Keeps.cut (σ := σ) (x := x) ?_ (fun hx => ?_); subst x; rotate_left; clear_value x; rotate_right) | (refine State.Keeps.cutP (σ := σ) (p := x) ?_ (fun hx => ?_); subst x; rotate_left; clear_value x; rotate_right) | clear_value x)
    | apply State.keeps_countSat | apply State.keeps_retireDue | apply State.Keeps.ite

theorem State.keeps_fretOverflow {k p u : Nat} (hk : σ.Keeps s) : σ.Keeps (State.fretOverflow s k p u) := by
  unfold State.fretOverflow
  with_reducible repeat' first
    | assumption | (intro _)
    | (extract_lets +onlyGivenNames x; first | (refine State.Keeps.cut (σ := σ) (x := x) ?_ (fun hx => ?_); subst x; rotate_left; clear_value x; rotate_right) | (refine State.Keeps.cutP (σ := σ) (p := x) ?_ (fun hx => ?_); subst x; rotate_left; clear_value x; rotate_right) | clear_value x)
    | apply State.keeps_countSat | apply State.keeps_post | apply State.keeps_errLog | apply State.keeps_retireDue
    | apply State.KeepsO.getD | apply State.Keeps.ite

theorem State.keeps_pushOwn {k p : Nat} {q : Piece} (hk : σ.Keeps s) : σ.Keeps (State.pushOwn s k p q) := by
  unfold State.pushOwn
  with_reducible repeat' first
    | assumption | (intro _)
    | (extract_lets +onlyGivenNames x; first | (refine State.Keeps.cut (σ := σ) (x := x) ?_ (fun hx => ?_); subst x; rotate_left; clear_value x; rotate_right) | (refine State.Keeps.cutP (σ := σ) (p := x) ?_ (fun hx => ?_); subst x; rotate_left; clear_value x; rotate_right) | clear_value x)
    | apply State.keeps_modPcc | simp only [State.keeps_mk]

theorem State.keeps_fretPut {k p u entry : Nat} {byCmd remove : Bool} (hk : σ.Keeps s) :
    σ.Keeps (State.fretPut s k p u entry byCmd remove) := by
  unfold State.fretPut
  with_reducible repeat' first
    | assumption | (intro _)
    | (extract_lets +onlyGivenNames x; first | (refine State.Keeps.cut (σ := σ) (x := x) ?_ (fun hx => ?_); subst x; rotate_left; clear_value x; rotate_right) | (refine State.Keeps.cutP (σ := σ) (p := x) ?_ (fun hx => ?_); subst x; rotate_left; clear_value x; rotate_right) | clear_value x)
    | apply State.keeps_modPcc | apply State.keeps_pushOwn

theorem State.keeps_fretDue {k p u : Nat} {byCmd : Bool} (hk : σ.Keeps s) : σ.Keeps (State.fretDue s k p u byCmd) := by
  unfold State.fretDue
  with_reducible repeat' first
    | assumption | (intro _) | apply State.keeps_fretOverflow | apply State.keeps_fretPut | apply State.Keeps.ite | (split)

theorem State.keeps_onCorrected {k p u : Nat} {m : BitVec 72} (hk : σ.Keeps s) : σ.Keeps (State.onCorrected s k p u m) := by
  unfold State.onCorrected
  with_reducible repeat' first
    | assumption | (intro _)
    | (extract_lets +onlyGivenNames x; first | (refine State.Keeps.cut (σ := σ) (x := x) ?_ (fun hx => ?_); subst x; rotate_left; clear_value x; rotate_right) | (refine State.Keeps.cutP (σ := σ) (p := x) ?_ (fun hx => ?_); subst x; rotate_left; clear_value x; rotate_right) | (refine State.KeepsO.cut (σ := σ) (o := x) ?_ (fun hx => ?_); subst x; rotate_left; clear_value x; rotate_right) | clear_value x)
    | apply State.keeps_modPcc | apply State.keeps_fretDue | simp only [State.keeps_mk] | apply State.Keeps.ite | (split)

theorem State.keeps_countDecode {k p : Nat} {inMeta : Bool} {i addr lane : Nat} {feed : Bool} {d : Decoded} (hk : σ.Keeps s) :
    σ.Keeps (State.countDecode s k p inMeta i addr lane feed d) := by
  unfold State.countDecode
  with_reducible repeat' first
    | assumption | (intro _)
    | (extract_lets +onlyGivenNames x; first | (refine State.Keeps.cut (σ := σ) (x := x) ?_ (fun hx => ?_); subst x; rotate_left; clear_value x; rotate_right) | (refine State.Keeps.cutP (σ := σ) (p := x) ?_ (fun hx => ?_); subst x; rotate_left; clear_value x; rotate_right) | clear_value x)
    | apply State.keeps_count | apply State.keeps_countSat | apply State.keeps_post | apply State.keeps_modPcc
    | apply State.keeps_errLog | apply State.keeps_ueAtom | apply State.keeps_onCorrected | apply State.keeps_feed
    | simp only [State.keeps_mk] | apply State.Keeps.ite | (split)

theorem State.keeps_startFill {k p : Nat} {q : Piece} {l : Nat} {upds : List ZUpd} (hk : σ.Keeps s) :
    σ.KeepsO (State.startFill s k p q l upds) := by
  unfold State.startFill
  with_reducible repeat' first
    | assumption | (intro _)
    | (extract_lets +onlyGivenNames x; first | (refine State.Keeps.cut (σ := σ) (x := x) ?_ (fun hx => ?_); subst x; rotate_left; clear_value x; rotate_right) | (refine State.Keeps.cutP (σ := σ) (p := x) ?_ (fun hx => ?_); subst x; rotate_left; clear_value x; rotate_right) | clear_value x)
    | apply State.keeps_setPcc | apply State.keeps_pushOwn | simp only [State.keeps_mk] | apply State.KeepsO.some
    | exact State.KeepsO.none | apply State.KeepsO.map | apply State.KeepsO.mapAll | apply State.Keeps.ite | (split)

theorem State.keeps_zWrite {k p : Nat} {q : Piece} {u : Nat} {v : Bool} (hk : σ.Keeps s) :
    σ.KeepsO (State.zWrite s k p q u v) := by
  unfold State.zWrite
  with_reducible repeat' first
    | assumption | (intro _)
    | (extract_lets +onlyGivenNames x; first | (refine State.Keeps.cut (σ := σ) (x := x) ?_ (fun hx => ?_); subst x; rotate_left; clear_value x; rotate_right) | (refine State.Keeps.cutP (σ := σ) (p := x) ?_ (fun hx => ?_); subst x; rotate_left; clear_value x; rotate_right) | (refine State.KeepsO.cut (σ := σ) (o := x) ?_ (fun hx => ?_); subst x; rotate_left; clear_value x; rotate_right) | clear_value x)
    | apply State.keeps_setPcc | apply State.keeps_startFill | simp only [State.keeps_mk] | apply State.KeepsO.some
    | exact State.KeepsO.none | apply State.Keeps.ite | (apply State.KeepsO.elim; assumption) | (split)

theorem State.keeps_setSalvage {k p : Nat} {l : List Nat} (hk : σ.Keeps s) : σ.Keeps (State.setSalvage s k p l) := by
  unfold State.setSalvage
  with_reducible repeat' first
    | assumption | (intro _) | simp only [State.keeps_mk]

theorem State.keeps_flitSent {f : Flit} (hk : σ.Keeps s) : σ.Keeps (State.flitSent s f) := by
  unfold State.flitSent
  with_reducible repeat' first
    | assumption | (intro _)
    | (extract_lets +onlyGivenNames x; first | (refine State.Keeps.cut (σ := σ) (x := x) ?_ (fun hx => ?_); subst x; rotate_left; clear_value x; rotate_right) | (refine State.Keeps.cutP (σ := σ) (p := x) ?_ (fun hx => ?_); subst x; rotate_left; clear_value x; rotate_right) | (refine State.KeepsO.cut (σ := σ) (o := x) ?_ (fun hx => ?_); subst x; rotate_left; clear_value x; rotate_right) | clear_value x)
    | apply State.keeps_countSat | apply State.Keeps.ite | (split)

theorem State.keeps_pushFlit {port : Nat} {f : Flit} (hk : σ.Keeps s) : σ.Keeps (State.pushFlit s port f) := by
  unfold State.pushFlit
  with_reducible repeat' first
    | assumption | (intro _)
    | (extract_lets +onlyGivenNames x; first | (refine State.Keeps.cut (σ := σ) (x := x) ?_ (fun hx => ?_); subst x; rotate_left; clear_value x; rotate_right) | (refine State.Keeps.cutP (σ := σ) (p := x) ?_ (fun hx => ?_); subst x; rotate_left; clear_value x; rotate_right) | clear_value x)
    | apply State.keeps_modPort | apply State.keeps_flitSent | apply State.keeps_idle | simp only [State.keeps_mk]
    | apply State.Keeps.ite

theorem State.keeps_lastFlitSent {id : Nat} {r : Req} (hk : σ.Keeps s) : σ.Keeps (State.lastFlitSent s id r) := by
  unfold State.lastFlitSent
  with_reducible repeat' first
    | assumption | (intro _) | apply State.keeps_putReq

theorem State.keeps_sendFlit {id : Nat} (hk : σ.Keeps s) : σ.Keeps (State.sendFlit s id) := by
  unfold State.sendFlit
  with_reducible repeat' first
    | assumption | (intro _)
    | (extract_lets +onlyGivenNames x; first | (refine State.Keeps.cut (σ := σ) (x := x) ?_ (fun hx => ?_); subst x; rotate_left; clear_value x; rotate_right) | (refine State.Keeps.cutP (σ := σ) (p := x) ?_ (fun hx => ?_); subst x; rotate_left; clear_value x; rotate_right) | (refine State.KeepsO.cut (σ := σ) (o := x) ?_ (fun hx => ?_); subst x; rotate_left; clear_value x; rotate_right) | clear_value x)
    | apply State.keeps_putReq | apply State.keeps_pushFlit | apply State.keeps_lastFlitSent | simp only [State.keeps_mk]
    | apply State.Keeps.ite | (split)

theorem State.keeps_sendFlits {id : Nat} (hk : σ.Keeps s) : σ.Keeps (State.sendFlits s id) := by
  unfold State.sendFlits
  with_reducible repeat' first
    | assumption | (intro _) | apply State.keeps_forEach | apply State.keeps_sendFlit | apply State.KeepsO.getD | (split)

theorem State.keeps_sampleWritten {id : Nat} (hk : σ.Keeps s) : σ.Keeps (State.sampleWritten s id) := by
  unfold State.sampleWritten
  with_reducible repeat' first
    | assumption | (intro _) | apply State.keeps_post | apply State.keeps_dropReq | apply State.keeps_sample | (split)

theorem State.keeps_workWritten {id : Nat} (hk : σ.Keeps s) : σ.Keeps (State.workWritten s id) := by
  unfold State.workWritten
  with_reducible repeat' first
    | assumption | (intro _) | apply State.keeps_dropReq | simp only [State.keeps_mk] | apply State.Keeps.ite | (split)

theorem State.keeps_ownWritten {id : Nat} (hk : σ.Keeps s) : σ.Keeps (State.ownWritten s id) := by
  unfold State.ownWritten
  with_reducible repeat' first
    | assumption | (intro _) | apply State.keeps_sampleWritten | apply State.keeps_workWritten

theorem State.keeps_answered {id : Nat} (hk : σ.Keeps s) : σ.Keeps (State.answered s id) := by
  unfold State.answered
  with_reducible repeat' first
    | assumption | (intro _) | apply State.keeps_sendFlits | apply State.keeps_ownWritten

theorem State.keeps_setAtom {id i : Nat} {r : AtomRes} (hk : σ.Keeps s) : σ.Keeps (State.setAtom s id i r) := by
  unfold State.setAtom
  with_reducible repeat' first
    | assumption | (intro _) | apply State.keeps_modReq | apply State.keeps_answered

theorem State.keeps_setVisible {id i : Nat} (hk : σ.Keeps s) : σ.Keeps (State.setVisible s id i) := by
  unfold State.setVisible
  with_reducible repeat' first
    | assumption | (intro _) | apply State.keeps_modReq | apply State.keeps_ownWritten

theorem State.keeps_setAtoms {id first n : Nat} {r : AtomRes} (hk : σ.Keeps s) :
    σ.Keeps (State.setAtoms s id first n r) := by
  unfold State.setAtoms
  with_reducible repeat' first
    | assumption | (intro _) | apply State.keeps_modReq | apply State.keeps_answered

theorem State.keeps_refuse {id c : Nat} (hk : σ.Keeps s) : σ.Keeps (State.refuse s id c) := by
  unfold State.refuse
  with_reducible repeat' first
    | assumption | (intro _) | apply State.keeps_modReq | apply State.keeps_sendFlits

theorem State.keeps_takeSwap {g : Nat} (hk : σ.Keeps s) : σ.Keeps (State.takeSwap s g) := by
  unfold State.takeSwap
  with_reducible repeat' first
    | assumption | (intro _)
    | (extract_lets +onlyGivenNames x; first | (refine State.Keeps.cut (σ := σ) (x := x) ?_ (fun hx => ?_); subst x; rotate_left; clear_value x; rotate_right) | (refine State.Keeps.cutP (σ := σ) (p := x) ?_ (fun hx => ?_); subst x; rotate_left; clear_value x; rotate_right) | (refine State.KeepsO.cut (σ := σ) (o := x) ?_ (fun hx => ?_); subst x; rotate_left; clear_value x; rotate_right) | clear_value x)
    | apply State.keeps_fset | apply State.keeps_raise | apply State.keeps_count | simp only [State.keeps_mk] | (split)

theorem State.keeps_settleSwap {g : Nat} (hk : σ.Keeps s) : σ.Keeps (State.settleSwap s g) := by
  unfold State.settleSwap
  with_reducible repeat' first
    | assumption | (intro _) | apply State.keeps_takeSwap | apply State.Keeps.ite

theorem State.keeps_gateEntWrite {g b j : Nat} {w : Word} (hk : σ.Keeps s) : σ.Keeps (State.gateEntWrite s g b j w) := by
  unfold State.gateEntWrite
  with_reducible repeat' first
    | assumption | (intro _)
    | (extract_lets +onlyGivenNames x; first | (refine State.Keeps.cut (σ := σ) (x := x) ?_ (fun hx => ?_); subst x; rotate_left; clear_value x; rotate_right) | (refine State.Keeps.cutP (σ := σ) (p := x) ?_ (fun hx => ?_); subst x; rotate_left; clear_value x; rotate_right) | clear_value x)
    | apply State.keeps_setReg | apply State.keeps_raise | apply State.keeps_settleSwap | apply State.Keeps.ite

theorem State.keeps_gateArm {g base cycle len : Nat} (hk : σ.Keeps s) : σ.Keeps (State.gateArm s g base cycle len) := by
  unfold State.gateArm
  with_reducible repeat' first
    | assumption | (intro _)
    | (extract_lets +onlyGivenNames x; first | (refine State.Keeps.cut (σ := σ) (x := x) ?_ (fun hx => ?_); subst x; rotate_left; clear_value x; rotate_right) | (refine State.Keeps.cutP (σ := σ) (p := x) ?_ (fun hx => ?_); subst x; rotate_left; clear_value x; rotate_right) | clear_value x)
    | apply State.keeps_raise | apply State.keeps_post | simp only [State.keeps_mk] | apply State.Keeps.ite | (split)

theorem State.keeps_gateCancel {g : Nat} (hk : σ.Keeps s) : σ.Keeps (State.gateCancel s g) := by
  unfold State.gateCancel
  with_reducible repeat' first
    | assumption | (intro _) | apply State.keeps_fset | simp only [State.keeps_mk] | apply State.Keeps.ite

theorem keeps_execGateEntryWrite {g : Fin 16} {b : Fin 2} {j : Fin 128} {w : Word} (hk : σ.Keeps s) :
    σ.KeepsR (execGateEntryWrite g b j w s) := by
  unfold execGateEntryWrite
  with_reducible repeat' first
    | assumption | (intro _) | apply State.keeps_cpDo | apply State.keeps_gateEntWrite

theorem State.keeps_gateArmWrite {g : Nat} {en : Bool} (hk : σ.Keeps s) : σ.Keeps (State.gateArmWrite s g en) := by
  unfold State.gateArmWrite
  with_reducible repeat' first
    | assumption | (intro _)
    | (extract_lets +onlyGivenNames x; first | (refine State.Keeps.cut (σ := σ) (x := x) ?_ (fun hx => ?_); subst x; rotate_left; clear_value x; rotate_right) | (refine State.Keeps.cutP (σ := σ) (p := x) ?_ (fun hx => ?_); subst x; rotate_left; clear_value x; rotate_right) | clear_value x)
    | apply State.keeps_fset | apply State.keeps_settleSwap | apply State.keeps_gateArm

theorem keeps_execGateArm {g : Fin 16} {en : Bool} (hk : σ.Keeps s) : σ.KeepsR (execGateArm g en s) := by
  unfold execGateArm
  with_reducible repeat' first
    | assumption | (intro _) | apply State.keeps_cpDo | apply State.keeps_gateArm | apply State.keeps_gateArmWrite

theorem keeps_execGateCancel {g : Fin 16} {en : Bool} (hk : σ.Keeps s) : σ.KeepsR (execGateCancel g en s) := by
  unfold execGateCancel
  with_reducible repeat' first
    | assumption | (intro _) | apply State.keeps_fset | apply State.keeps_cpDo | apply State.keeps_gateCancel

theorem keeps_execGateSwapTake {g : Fin 16} (hk : σ.Keeps s) : σ.KeepsR (execGateSwapTake g s) := by
  unfold execGateSwapTake
  with_reducible repeat' first
    | assumption | (intro _) | apply State.keeps_atCadence | apply State.keeps_takeSwap | apply State.KeepsR.next
    | exact State.KeepsR.fault | apply State.Keeps.ite | (apply State.KeepsO.elim; assumption) | (split)

theorem State.keeps_modeRise {k p : Nat} (hk : σ.Keeps s) : σ.Keeps (State.modeRise s k p) := by
  unfold State.modeRise
  with_reducible repeat' first
    | assumption | (intro _) | apply State.keeps_modPcc | simp only [State.keeps_mk] | apply State.Keeps.ite

theorem State.keeps_modeFall {k p before : Nat} (hk : σ.Keeps s) : σ.Keeps (State.modeFall s k p before) := by
  unfold State.modeFall
  with_reducible repeat' first
    | assumption | (intro _)
    | (extract_lets +onlyGivenNames x; first | (refine State.Keeps.cut (σ := σ) (x := x) ?_ (fun hx => ?_); subst x; rotate_left; clear_value x; rotate_right) | (refine State.Keeps.cutP (σ := σ) (p := x) ?_ (fun hx => ?_); subst x; rotate_left; clear_value x; rotate_right) | clear_value x)
    | apply State.keeps_modPcc | simp only [State.keeps_mk] | apply State.Keeps.ite

theorem State.keeps_retire {k p id : Nat} (hk : σ.Keeps s) : σ.Keeps (State.retire s k p id) := by
  unfold State.retire
  with_reducible repeat' first
    | assumption | (intro _)
    | (extract_lets +onlyGivenNames x; first | (refine State.Keeps.cut (σ := σ) (x := x) ?_ (fun hx => ?_); subst x; rotate_left; clear_value x; rotate_right) | (refine State.Keeps.cutP (σ := σ) (p := x) ?_ (fun hx => ?_); subst x; rotate_left; clear_value x; rotate_right) | (refine State.KeepsO.cut (σ := σ) (o := x) ?_ (fun hx => ?_); subst x; rotate_left; clear_value x; rotate_right) | clear_value x)
    | apply State.keeps_modPcc

theorem State.keeps_modPiece {k p id : Nat} {f : Piece → Piece} (hk : σ.Keeps s) : σ.Keeps (State.modPiece s k p id f) := by
  unfold State.modPiece
  with_reducible repeat' first
    | assumption | (intro _) | apply State.keeps_modPcc

theorem State.keeps_answer {q : Piece} {i : Nat} {r : AtomRes} (hk : σ.Keeps s) : σ.Keeps (State.answer s q i r) := by
  unfold State.answer
  with_reducible repeat' first
    | assumption | (intro _) | apply State.keeps_setAtom | apply State.Keeps.ite

theorem State.keeps_deliver {q : Piece} {i : Nat} {d : Atom} {poison : Bool} (hk : σ.Keeps s) :
    σ.Keeps (State.deliver s q i d poison) := by
  unfold State.deliver
  with_reducible repeat' first
    | assumption | (intro _) | apply State.keeps_answer

theorem State.keeps_take {k p : Nat} {q : Piece} {i : Nat} {d : Atom} {poison lost : Bool} (hk : σ.Keeps s) :
    σ.Keeps (State.take s k p q i d poison lost) := by
  unfold State.take
  with_reducible repeat' first
    | assumption | (intro _) | apply State.keeps_modPcc | apply State.keeps_modPiece | apply State.keeps_answer
    | apply State.keeps_deliver | apply State.keeps_atomicAdd | simp only [State.keeps_mk] | apply State.Keeps.ite
    | (split)

theorem State.keeps_takeAll {k p : Nat} {q : Piece} {l : List (Nat × Atom × Bool)} (hk : σ.Keeps s) :
    σ.Keeps (State.takeAll s k p q l) := by
  unfold State.takeAll
  with_reducible repeat' first
    | assumption | (intro _) | apply State.keeps_forEach | apply State.keeps_take

theorem State.keeps_mapWrites {k p : Nat} {q : Piece} (hk : σ.Keeps s) : σ.Keeps (State.mapWrites s k p q) := by
  unfold State.mapWrites
  with_reducible repeat' first
    | assumption | (intro _) | apply State.keeps_forEach | apply State.keeps_zWrite | apply State.keeps_modPiece
    | simp only [State.keeps_mk] | (apply State.KeepsO.elim; assumption) | (split)

theorem State.keeps_fretWrite {k p : Nat} {q : Piece} {f : FretJob} (hk : σ.Keeps s) :
    σ.Keeps (State.fretWrite s k p q f) := by
  unfold State.fretWrite
  with_reducible repeat' first
    | assumption | (intro _)
    | (extract_lets +onlyGivenNames x; first | (refine State.Keeps.cut (σ := σ) (x := x) ?_ (fun hx => ?_); subst x; rotate_left; clear_value x; rotate_right) | (refine State.Keeps.cutP (σ := σ) (p := x) ?_ (fun hx => ?_); subst x; rotate_left; clear_value x; rotate_right) | clear_value x)
    | apply State.keeps_modPcc

theorem State.keeps_elide {k p : Nat} {q : Piece} (hk : σ.Keeps s) : σ.Keeps (State.elide s k p q) := by
  unfold State.elide
  with_reducible repeat' first
    | assumption | (intro _)
    | (extract_lets +onlyGivenNames x; first | (refine State.Keeps.cut (σ := σ) (x := x) ?_ (fun hx => ?_); subst x; rotate_left; clear_value x; rotate_right) | (refine State.Keeps.cutP (σ := σ) (p := x) ?_ (fun hx => ?_); subst x; rotate_left; clear_value x; rotate_right) | clear_value x)
    | apply State.keeps_count | apply State.keeps_setSalvage | apply State.keeps_modPiece

theorem State.keeps_fretRemoved {k p id : Nat} (hk : σ.Keeps s) : σ.Keeps (State.fretRemoved s k p id) := by
  unfold State.fretRemoved
  with_reducible repeat' first
    | assumption | (intro _) | apply State.keeps_setReg | apply State.keeps_modPcc | simp only [State.keeps_mk] | (split)

theorem State.keeps_fretWritten {k p id : Nat} (hk : σ.Keeps s) : σ.Keeps (State.fretWritten s k p id) := by
  unfold State.fretWritten
  with_reducible repeat' first
    | assumption | (intro _) | apply State.keeps_modPcc

theorem State.keeps_finishPiece {k p : Nat} {q : Piece} (hk : σ.Keeps s) : σ.Keeps (State.finishPiece s k p q) := by
  unfold State.finishPiece
  with_reducible repeat' first
    | assumption | (intro _)
    | (extract_lets +onlyGivenNames x; first | (refine State.Keeps.cut (σ := σ) (x := x) ?_ (fun hx => ?_); subst x; rotate_left; clear_value x; rotate_right) | (refine State.Keeps.cutP (σ := σ) (p := x) ?_ (fun hx => ?_); subst x; rotate_left; clear_value x; rotate_right) | (refine State.KeepsO.cut (σ := σ) (o := x) ?_ (fun hx => ?_); subst x; rotate_left; clear_value x; rotate_right) | clear_value x)
    | apply State.keeps_retire | apply State.keeps_modPiece | apply State.keeps_fretWrite | apply State.keeps_fretRemoved
    | apply State.keeps_fretWritten | apply State.keeps_atomicAdd | simp only [State.keeps_mk] | apply State.Keeps.ite
    | (split)

theorem State.keeps_settle {k p id : Nat} (hk : σ.Keeps s) : σ.Keeps (State.settle s k p id) := by
  unfold State.settle
  with_reducible repeat' first
    | assumption | (intro _) | apply State.keeps_modPiece | apply State.keeps_finishPiece | simp only [State.keeps_mk]
    | apply State.Keeps.ite | (split)

theorem State.keeps_startWrites {k p id : Nat} (hk : σ.Keeps s) : σ.Keeps (State.startWrites s k p id) := by
  unfold State.startWrites
  with_reducible repeat' first
    | assumption | (intro _)
    | (extract_lets +onlyGivenNames x; first | (refine State.Keeps.cut (σ := σ) (x := x) ?_ (fun hx => ?_); subst x; rotate_left; clear_value x; rotate_right) | (refine State.Keeps.cutP (σ := σ) (p := x) ?_ (fun hx => ?_); subst x; rotate_left; clear_value x; rotate_right) | (refine State.KeepsO.cut (σ := σ) (o := x) ?_ (fun hx => ?_); subst x; rotate_left; clear_value x; rotate_right) | clear_value x)
    | apply State.keeps_modeRise | apply State.keeps_mapWrites | apply State.keeps_elide | apply State.keeps_settle
    | (apply State.KeepsO.of; assumption) | apply State.KeepsO.some | exact State.KeepsO.none | (split)

theorem State.keeps_goOn {k p id : Nat} (hk : σ.Keeps s) : σ.Keeps (State.goOn s k p id) := by
  unfold State.goOn
  with_reducible repeat' first
    | assumption | (intro _)
    | (extract_lets +onlyGivenNames x; first | (refine State.Keeps.cut (σ := σ) (x := x) ?_ (fun hx => ?_); subst x; rotate_left; clear_value x; rotate_right) | (refine State.Keeps.cutP (σ := σ) (p := x) ?_ (fun hx => ?_); subst x; rotate_left; clear_value x; rotate_right) | (refine State.KeepsO.cut (σ := σ) (o := x) ?_ (fun hx => ?_); subst x; rotate_left; clear_value x; rotate_right) | clear_value x)
    | apply State.keeps_settle | apply State.keeps_startWrites | apply State.Keeps.ite | (split)

theorem State.keeps_awaitLine {k p : Nat} {q : Piece} {need : List Nat} (hk : σ.Keeps s) :
    σ.Keeps (State.awaitLine s k p q need) := by
  unfold State.awaitLine
  with_reducible repeat' first
    | assumption | (intro _) | apply State.keeps_modPiece

theorem State.keeps_evalRead {k p : Nat} {q : Piece} (hk : σ.Keeps s) : σ.Keeps (State.evalRead s k p q) := by
  unfold State.evalRead
  with_reducible repeat' first
    | assumption | (intro _)
    | (extract_lets +onlyGivenNames x; first | (refine State.Keeps.cut (σ := σ) (x := x) ?_ (fun hx => ?_); subst x; rotate_left; clear_value x; rotate_right) | (refine State.Keeps.cutP (σ := σ) (p := x) ?_ (fun hx => ?_); subst x; rotate_left; clear_value x; rotate_right) | (refine State.KeepsO.cut (σ := σ) (o := x) ?_ (fun hx => ?_); subst x; rotate_left; clear_value x; rotate_right) | clear_value x)
    | apply State.keeps_count | apply State.keeps_modPcc | apply State.keeps_forEach | apply State.keeps_startFill
    | apply State.keeps_modPiece | apply State.keeps_take | apply State.keeps_takeAll | apply State.keeps_goOn
    | apply State.keeps_awaitLine | apply State.keeps_forward | (apply State.KeepsO.of; assumption)
    | apply State.KeepsO.some | exact State.KeepsO.none | simp only [State.keeps_mk] | apply State.Keeps.ite
    | (apply State.KeepsO.elim; assumption) | (split)

theorem State.keeps_evalRaw {k p : Nat} {q : Piece} (hk : σ.Keeps s) : σ.Keeps (State.evalRaw s k p q) := by
  unfold State.evalRaw
  with_reducible repeat' first
    | assumption | (intro _) | apply State.keeps_modPiece

theorem State.keeps_evalWrite {k p : Nat} {q : Piece} (hk : σ.Keeps s) : σ.Keeps (State.evalWrite s k p q) := by
  unfold State.evalWrite
  with_reducible repeat' first
    | assumption | (intro _) | apply State.keeps_modPiece | apply State.keeps_startWrites

theorem State.keeps_mergeStart {k p : Nat} {m : Merge} (hk : σ.Keeps s) : σ.Keeps (State.mergeStart s k p m) := by
  unfold State.mergeStart
  with_reducible repeat' first
    | assumption | (intro _)
    | (extract_lets +onlyGivenNames x; first | (refine State.Keeps.cut (σ := σ) (x := x) ?_ (fun hx => ?_); subst x; rotate_left; clear_value x; rotate_right) | (refine State.Keeps.cutP (σ := σ) (p := x) ?_ (fun hx => ?_); subst x; rotate_left; clear_value x; rotate_right) | (refine State.KeepsO.cut (σ := σ) (o := x) ?_ (fun hx => ?_); subst x; rotate_left; clear_value x; rotate_right) | clear_value x)
    | apply State.keeps_modPcc | apply State.keeps_evalRead | apply State.keeps_merged | apply State.Keeps.ite | (split)

theorem State.keeps_takePartial {k p : Nat} {q : Piece} (hk : σ.Keeps s) : σ.Keeps (State.takePartial s k p q) := by
  unfold State.takePartial
  with_reducible repeat' first
    | assumption | (intro _)
    | (extract_lets +onlyGivenNames x; first | (refine State.Keeps.cut (σ := σ) (x := x) ?_ (fun hx => ?_); subst x; rotate_left; clear_value x; rotate_right) | (refine State.Keeps.cutP (σ := σ) (p := x) ?_ (fun hx => ?_); subst x; rotate_left; clear_value x; rotate_right) | clear_value x)
    | apply State.keeps_modPcc | apply State.keeps_forEach | apply State.keeps_setVisible | apply State.keeps_retire
    | apply State.keeps_mergeStart | simp only [State.keeps_mk] | apply State.Keeps.ite

theorem State.keeps_takePartials {k p : Nat} (hk : σ.Keeps s) : σ.Keeps (State.takePartials s k p) := by
  unfold State.takePartials
  with_reducible repeat' first
    | assumption | (intro _) | apply State.keeps_forEach | apply State.keeps_takePartial

theorem State.keeps_evaluate {k p : Nat} {q : Piece} (hk : σ.Keeps s) : σ.Keeps (State.evaluate s k p q) := by
  unfold State.evaluate
  with_reducible repeat' first
    | assumption | (intro _)
    | (extract_lets +onlyGivenNames x; first | (refine State.Keeps.cut (σ := σ) (x := x) ?_ (fun hx => ?_); subst x; rotate_left; clear_value x; rotate_right) | (refine State.Keeps.cutP (σ := σ) (p := x) ?_ (fun hx => ?_); subst x; rotate_left; clear_value x; rotate_right) | clear_value x)
    | apply State.keeps_modeRise | apply State.keeps_modPiece | apply State.keeps_evalRead | apply State.keeps_evalRaw
    | apply State.keeps_evalWrite | apply State.keeps_takePartial | apply State.keeps_takePartials
    | apply State.keeps_atomicAdd | simp only [State.keeps_mk] | apply State.Keeps.ite | (split)

theorem State.keeps_visible {q : Piece} (hk : σ.Keeps s) : σ.Keeps (State.visible s q) := by
  unfold State.visible
  with_reducible repeat' first
    | assumption | (intro _) | apply State.keeps_forEach | apply State.keeps_setVisible | apply State.keeps_setAtoms
    | apply State.keeps_atomicAdd | apply State.Keeps.ite | (split)

theorem State.keeps_enter {k p : Nat} {q : Piece} (hk : σ.Keeps s) : σ.Keeps (State.enter s k p q) := by
  unfold State.enter
  with_reducible repeat' first
    | assumption | (intro _)
    | (extract_lets +onlyGivenNames x; first | (refine State.Keeps.cut (σ := σ) (x := x) ?_ (fun hx => ?_); subst x; rotate_left; clear_value x; rotate_right) | (refine State.Keeps.cutP (σ := σ) (p := x) ?_ (fun hx => ?_); subst x; rotate_left; clear_value x; rotate_right) | clear_value x)
    | apply State.keeps_modPcc | apply State.keeps_evaluate | apply State.keeps_visible | simp only [State.keeps_mk]
    | apply State.Keeps.ite

theorem keeps_execHazardClear {k : Fin 8} {p : Fin 64} (hk : σ.Keeps s) : σ.KeepsR (execHazardClear k p s) := by
  unfold execHazardClear
  with_reducible repeat' first
    | assumption | (intro _) | apply State.keeps_evaluate | apply State.KeepsR.next | exact State.KeepsR.fault | (split)

theorem State.keeps_openPcc {k p : Nat} (hk : σ.Keeps s) : σ.Keeps (State.openPcc s k p) := by
  unfold State.openPcc
  with_reducible repeat' first
    | assumption | (intro _)
    | (extract_lets +onlyGivenNames x; first | (refine State.Keeps.cut (σ := σ) (x := x) ?_ (fun hx => ?_); subst x; rotate_left; clear_value x; rotate_right) | (refine State.Keeps.cutP (σ := σ) (p := x) ?_ (fun hx => ?_); subst x; rotate_left; clear_value x; rotate_right) | clear_value x)
    | apply State.keeps_forEach | apply State.keeps_modPiece | apply State.keeps_evaluate | apply State.keeps_visible

theorem State.keeps_zRetry {k p : Nat} (hk : σ.Keeps s) : σ.Keeps (State.zRetry s k p) := by
  unfold State.zRetry
  with_reducible repeat' first
    | assumption | (intro _) | apply State.keeps_count | apply State.keeps_forEach | apply State.keeps_startFill
    | apply State.keeps_mapWrites | apply State.keeps_settle | apply State.Keeps.ite
    | (apply State.KeepsO.elim; assumption) | (split)

theorem State.keeps_merged {k p : Nat} {m : Merge} {old : Atom} {bad : Bool} (hk : σ.Keeps s) :
    σ.Keeps (State.merged s k p m old bad) := by
  unfold State.merged
  with_reducible repeat' first
    | assumption | (intro _)
    | (extract_lets +onlyGivenNames x; first | (refine State.Keeps.cut (σ := σ) (x := x) ?_ (fun hx => ?_); subst x; rotate_left; clear_value x; rotate_right) | (refine State.Keeps.cutP (σ := σ) (p := x) ?_ (fun hx => ?_); subst x; rotate_left; clear_value x; rotate_right) | clear_value x)
    | apply State.keeps_modPcc | apply State.keeps_setAtom | apply State.keeps_evaluate | simp only [State.keeps_mk]
    | apply State.Keeps.ite

theorem keeps_execMergeReadDone {k : Fin 8} {p : Fin 64} (hk : σ.Keeps s) : σ.KeepsR (execMergeReadDone k p s) := by
  unfold execMergeReadDone
  with_reducible repeat' first
    | assumption | (intro _) | apply State.keeps_merged | apply State.KeepsO.getD | apply State.KeepsR.next
    | exact State.KeepsR.fault | (split)

theorem keeps_execWriteModeAge {k : Fin 8} {p : Fin 64} (hk : σ.Keeps s) : σ.KeepsR (execWriteModeAge k p s) := by
  unfold execWriteModeAge
  with_reducible repeat' first
    | assumption | (intro _)
    | (extract_lets +onlyGivenNames x; first | (refine State.Keeps.cut (σ := σ) (x := x) ?_ (fun hx => ?_); subst x; rotate_left; clear_value x; rotate_right) | (refine State.Keeps.cutP (σ := σ) (p := x) ?_ (fun hx => ?_); subst x; rotate_left; clear_value x; rotate_right) | (refine State.KeepsO.cut (σ := σ) (o := x) ?_ (fun hx => ?_); subst x; rotate_left; clear_value x; rotate_right) | clear_value x)
    | apply State.keeps_atCadence | apply State.keeps_modPcc | simp only [State.keeps_mk] | apply State.KeepsR.next
    | exact State.KeepsR.fault | apply State.Keeps.ite | (apply State.KeepsO.elim; assumption) | (split)

theorem State.keeps_predWrite {k p : Nat} {en : Bool} (hk : σ.Keeps s) : σ.Keeps (State.predWrite s k p en) := by
  unfold State.predWrite
  with_reducible repeat' first
    | assumption | (intro _) | apply State.keeps_fset | apply State.keeps_modPcc

theorem keeps_execPredEnWrite {k : Fin 8} {p : Fin 64} {en : Bool} (hk : σ.Keeps s) :
    σ.KeepsR (execPredEnWrite k p en s) := by
  unfold execPredEnWrite
  with_reducible repeat' first
    | assumption | (intro _) | apply State.keeps_cpStk | apply State.keeps_predWrite

theorem State.keeps_toLane {q : Piece} (hk : σ.Keeps s) : σ.Keeps (State.toLane s q) := by
  unfold State.toLane
  with_reducible repeat' first
    | assumption | (intro _) | simp only [State.keeps_mk]

theorem State.keeps_setQuota {k : Nat} {q : Quota} (hk : σ.Keeps s) : σ.Keeps (State.setQuota s k q) := by
  unfold State.setQuota
  with_reducible repeat' first
    | assumption | (intro _) | simp only [State.keeps_mk]

theorem State.keeps_quotaSettle {k : Nat} (hk : σ.Keeps s) : σ.Keeps (State.quotaSettle s k) := by
  unfold State.quotaSettle
  with_reducible repeat' first
    | assumption | (intro _)
    | (extract_lets +onlyGivenNames x; first | (refine State.Keeps.cut (σ := σ) (x := x) ?_ (fun hx => ?_); subst x; rotate_left; clear_value x; rotate_right) | (refine State.Keeps.cutP (σ := σ) (p := x) ?_ (fun hx => ?_); subst x; rotate_left; clear_value x; rotate_right) | clear_value x)
    | apply State.keeps_count | apply State.keeps_setQuota | simp only [State.keeps_mk] | apply State.Keeps.ite

theorem State.keeps_quotaCount {k c n : Nat} (hk : σ.Keeps s) : σ.Keeps (State.quotaCount s k c n) := by
  unfold State.quotaCount
  with_reducible repeat' first
    | assumption | (intro _)
    | (extract_lets +onlyGivenNames x; first | (refine State.Keeps.cut (σ := σ) (x := x) ?_ (fun hx => ?_); subst x; rotate_left; clear_value x; rotate_right) | (refine State.Keeps.cutP (σ := σ) (p := x) ?_ (fun hx => ?_); subst x; rotate_left; clear_value x; rotate_right) | clear_value x)
    | apply State.keeps_setQuota | apply State.keeps_quotaSettle | simp only [State.keeps_mk] | apply State.Keeps.ite

theorem State.keeps_modLane {id : Nat} {f : Piece → Piece} (hk : σ.Keeps s) : σ.Keeps (State.modLane s id f) := by
  unfold State.modLane
  with_reducible repeat' first
    | assumption | (intro _) | simp only [State.keeps_mk]

theorem State.keeps_dropLane {id : Nat} (hk : σ.Keeps s) : σ.Keeps (State.dropLane s id) := by
  unfold State.dropLane
  with_reducible repeat' first
    | assumption | (intro _) | simp only [State.keeps_mk]

theorem State.keeps_place {k p : Nat} {q : Piece} (hk : σ.Keeps s) : σ.Keeps (State.place s k p q) := by
  unfold State.place
  with_reducible repeat' first
    | assumption | (intro _)
    | (extract_lets +onlyGivenNames x; first | (refine State.Keeps.cut (σ := σ) (x := x) ?_ (fun hx => ?_); subst x; rotate_left; clear_value x; rotate_right) | (refine State.Keeps.cutP (σ := σ) (p := x) ?_ (fun hx => ?_); subst x; rotate_left; clear_value x; rotate_right) | (refine State.KeepsO.cut (σ := σ) (o := x) ?_ (fun hx => ?_); subst x; rotate_left; clear_value x; rotate_right) | clear_value x)
    | apply State.keeps_modReq | apply State.keeps_deny | apply State.keeps_setAtoms | apply State.keeps_enter
    | apply State.keeps_quotaCount | apply State.keeps_atomicAdd | simp only [State.keeps_mk] | apply State.KeepsO.getD
    | apply State.Keeps.ite | (split)

theorem State.keeps_ingressDecide {k p : Nat} (hk : σ.Keeps s) : σ.Keeps (State.ingressDecide s k p) := by
  unfold State.ingressDecide
  with_reducible repeat' first
    | assumption | (intro _)
    | (extract_lets +onlyGivenNames x; first | (refine State.Keeps.cut (σ := σ) (x := x) ?_ (fun hx => ?_); subst x; rotate_left; clear_value x; rotate_right) | (refine State.Keeps.cutP (σ := σ) (p := x) ?_ (fun hx => ?_); subst x; rotate_left; clear_value x; rotate_right) | (refine State.KeepsO.cut (σ := σ) (o := x) ?_ (fun hx => ?_); subst x; rotate_left; clear_value x; rotate_right) | clear_value x)
    | apply State.keeps_modOut | apply State.keeps_forEach | apply State.keeps_modLane | apply State.keeps_dropLane
    | apply State.keeps_place | (apply State.KeepsO.of; assumption) | apply State.KeepsO.some | exact State.KeepsO.none
    | simp only [State.keeps_mk] | (split)

theorem keeps_execIngressGrant {k : Fin 8} {p : Fin 64} (hk : σ.Keeps s) : σ.KeepsR (execIngressGrant k p s) := by
  unfold execIngressGrant
  with_reducible repeat' first
    | assumption | (intro _)
    | (extract_lets +onlyGivenNames x; first | (refine State.Keeps.cut (σ := σ) (x := x) ?_ (fun hx => ?_); subst x; rotate_left; clear_value x; rotate_right) | (refine State.Keeps.cutP (σ := σ) (p := x) ?_ (fun hx => ?_); subst x; rotate_left; clear_value x; rotate_right) | clear_value x)
    | apply State.keeps_settleSwap | apply State.keeps_quotaSettle | apply State.keeps_ingressDecide
    | apply State.KeepsR.next

theorem State.keeps_ownStart {o : Own} {x : Access} {kind : PKind} {a n : Nat} {data : List Atom} {poison : List Bool} {be : List (BitVec 64)} (hk : σ.Keeps s) :
    σ.Keeps (State.ownStart s o x kind a n data poison be) := by
  unfold State.ownStart
  with_reducible repeat' first
    | assumption | (intro _)
    | (extract_lets +onlyGivenNames x; first | (refine State.Keeps.cut (σ := σ) (x := x) ?_ (fun hx => ?_); subst x; rotate_left; clear_value x; rotate_right) | (refine State.Keeps.cutP (σ := σ) (p := x) ?_ (fun hx => ?_); subst x; rotate_left; clear_value x; rotate_right) | clear_value x)
    | apply State.keeps_putReq | apply State.keeps_toLane | (apply State.KeepsO.of; assumption) | apply State.KeepsO.some
    | exact State.KeepsO.none | simp only [State.keeps_mk]

theorem State.keeps_ownGo {o : Own} {start : State → State} (hk : σ.Keeps s) (h' : ∀ t, σ.Keeps t → σ.Keeps (start t)) :
    σ.Keeps (State.ownGo s o start).1 := by
  unfold State.ownGo
  split
  · exact h' s hk
  · split
    · exact hk
    · exact State.keeps_dropReq hk

theorem State.keeps_ownRead {o : Own} {x : Access} {a : Nat} (hk : σ.Keeps s) : σ.Keeps (State.ownRead s o x a).1 := by
  unfold State.ownRead
  with_reducible repeat' first
    | assumption | (intro _) | apply State.keeps_ownStart | apply State.keeps_ownGo

theorem State.keeps_ownWrite {o : Own} {x : Access} {a : Nat} {data : List Atom} {poison : List Bool} {be : Option (BitVec 64)} (hk : σ.Keeps s) :
    σ.Keeps (State.ownWrite s o x a data poison be).1 := by
  unfold State.ownWrite
  with_reducible repeat' first
    | assumption | (intro _) | apply State.keeps_ownStart | apply State.keeps_ownGo

theorem State.keeps_ownDrop {o : Own} (hk : σ.Keeps s) : σ.Keeps (State.ownDrop s o) := by
  unfold State.ownDrop
  with_reducible repeat' first
    | assumption | (intro _) | apply State.keeps_dropReq | simp only [State.keeps_mk] | (split)

theorem State.keeps_serviceRead {o : Own} {a : Nat} (hk : σ.Keeps s) : σ.Keeps (State.serviceRead s o a).1 := by
  unfold State.serviceRead
  with_reducible repeat' first
    | assumption | (intro _) | apply State.keeps_ownRead

theorem State.keeps_serviceWrite {o : Own} {a : Nat} {d : Atom} {be : Option (BitVec 64)} (hk : σ.Keeps s) :
    σ.Keeps (State.serviceWrite s o a d be).1 := by
  unfold State.serviceWrite
  with_reducible repeat' first
    | assumption | (intro _) | apply State.keeps_ownWrite

theorem keeps_execRetiredLossAnswer {k : Fin 8} (hk : σ.Keeps s) : σ.KeepsR (execRetiredLossAnswer k s) := by
  unfold execRetiredLossAnswer
  with_reducible repeat' first
    | assumption | (intro _)
    | (extract_lets +onlyGivenNames x; first | (refine State.Keeps.cut (σ := σ) (x := x) ?_ (fun hx => ?_); subst x; rotate_left; clear_value x; rotate_right) | (refine State.Keeps.cutP (σ := σ) (p := x) ?_ (fun hx => ?_); subst x; rotate_left; clear_value x; rotate_right) | (refine State.KeepsO.cut (σ := σ) (o := x) ?_ (fun hx => ?_); subst x; rotate_left; clear_value x; rotate_right) | clear_value x)
    | apply State.keeps_setAtoms | apply State.keeps_dropLane | apply State.keeps_place | apply State.KeepsR.next
    | exact State.KeepsR.fault | apply State.Keeps.ite | (split)

theorem State.keeps_setOpenAtoms {q : Piece} {r : AtomRes} (hk : σ.Keeps s) : σ.Keeps (State.setOpenAtoms s q r) := by
  unfold State.setOpenAtoms
  with_reducible repeat' first
    | assumption | (intro _) | apply State.keeps_forEach | apply State.keeps_setAtom | apply State.KeepsO.getD
    | apply State.Keeps.ite | (split)

theorem State.keeps_loseWrite {q : Piece} (hk : σ.Keeps s) : σ.Keeps (State.loseWrite s q) := by
  unfold State.loseWrite
  with_reducible repeat' first
    | assumption | (intro _) | apply State.keeps_forEach | apply State.keeps_setAtom | apply State.Keeps.ite

theorem State.keeps_losePcc {k p l : Nat} (hk : σ.Keeps s) : σ.Keeps (State.losePcc s k p l) := by
  unfold State.losePcc
  with_reducible repeat' first
    | assumption | (intro _)
    | (extract_lets +onlyGivenNames x; first | (refine State.Keeps.cut (σ := σ) (x := x) ?_ (fun hx => ?_); subst x; rotate_left; clear_value x; rotate_right) | (refine State.Keeps.cutP (σ := σ) (p := x) ?_ (fun hx => ?_); subst x; rotate_left; clear_value x; rotate_right) | clear_value x)
    | apply State.keeps_modPcc | apply State.keeps_forEach | apply State.keeps_setAtom | apply State.keeps_retire
    | apply State.keeps_setOpenAtoms | apply State.keeps_loseWrite | simp only [State.keeps_mk] | apply State.Keeps.ite

theorem keeps_execHoldTimeout {k : Fin 8} {p : Fin 64} (hk : σ.Keeps s) : σ.KeepsR (execHoldTimeout k p s) := by
  unfold execHoldTimeout
  with_reducible repeat' first
    | assumption | (intro _)
    | (extract_lets +onlyGivenNames x; first | (refine State.Keeps.cut (σ := σ) (x := x) ?_ (fun hx => ?_); subst x; rotate_left; clear_value x; rotate_right) | (refine State.Keeps.cutP (σ := σ) (p := x) ?_ (fun hx => ?_); subst x; rotate_left; clear_value x; rotate_right) | (refine State.KeepsO.cut (σ := σ) (o := x) ?_ (fun hx => ?_); subst x; rotate_left; clear_value x; rotate_right) | clear_value x)
    | apply State.keeps_countSat | apply State.keeps_atCadence | apply State.keeps_retire | apply State.keeps_dropLane
    | apply State.keeps_setOpenAtoms | apply State.KeepsR.next | exact State.KeepsR.fault | apply State.Keeps.ite
    | (apply State.KeepsO.elim; assumption) | (split)

theorem keeps_execQuotaWindowStart {k : Fin 8} (hk : σ.Keeps s) : σ.KeepsR (execQuotaWindowStart k s) := by
  unfold execQuotaWindowStart
  with_reducible repeat' first
    | assumption | (intro _)
    | (extract_lets +onlyGivenNames x; first | (refine State.Keeps.cut (σ := σ) (x := x) ?_ (fun hx => ?_); subst x; rotate_left; clear_value x; rotate_right) | (refine State.Keeps.cutP (σ := σ) (p := x) ?_ (fun hx => ?_); subst x; rotate_left; clear_value x; rotate_right) | (refine State.KeepsO.cut (σ := σ) (o := x) ?_ (fun hx => ?_); subst x; rotate_left; clear_value x; rotate_right) | clear_value x)
    | apply State.keeps_atCadence | apply State.keeps_setQuota | apply State.KeepsR.next | exact State.KeepsR.fault
    | apply State.Keeps.ite | (apply State.KeepsO.elim; assumption) | (split)

theorem State.keeps_fillSort {k : Nat} (hk : σ.Keeps s) : σ.Keeps (State.fillSort s k) := by
  unfold State.fillSort
  with_reducible repeat' first
    | assumption | (intro _)
    | (extract_lets +onlyGivenNames x; first | (refine State.Keeps.cut (σ := σ) (x := x) ?_ (fun hx => ?_); subst x; rotate_left; clear_value x; rotate_right) | (refine State.Keeps.cutP (σ := σ) (p := x) ?_ (fun hx => ?_); subst x; rotate_left; clear_value x; rotate_right) | clear_value x)
    | apply State.keeps_take | simp only [State.keeps_mk]

theorem State.keeps_releaseGroup {k : Nat} {q : Piece} (hk : σ.Keeps s) : σ.Keeps (State.releaseGroup s k q) := by
  unfold State.releaseGroup
  with_reducible repeat' first
    | assumption | (intro _)
    | (extract_lets +onlyGivenNames x; first | (refine State.Keeps.cut (σ := σ) (x := x) ?_ (fun hx => ?_); subst x; rotate_left; clear_value x; rotate_right) | (refine State.Keeps.cutP (σ := σ) (p := x) ?_ (fun hx => ?_); subst x; rotate_left; clear_value x; rotate_right) | clear_value x)
    | apply State.keeps_count | apply State.keeps_fillSort | apply State.keeps_foldl | apply State.keepsO_foldl
    | apply State.keepsP_foldl | simp only [State.keeps_mk]

theorem keeps_execSortGroupRelease {k : Fin 8} (hk : σ.Keeps s) : σ.KeepsR (execSortGroupRelease k s) := by
  unfold execSortGroupRelease
  with_reducible repeat' first
    | assumption | (intro _) | apply State.keeps_atCadence | apply State.keeps_releaseGroup | apply State.KeepsR.next
    | exact State.KeepsR.fault | (apply State.KeepsO.elim; assumption) | (split)

theorem State.keeps_endBatch {org : POrigin} (hk : σ.Keeps s) : σ.Keeps (State.endBatch s org) := by
  unfold State.endBatch
  with_reducible repeat' first
    | assumption | (intro _)
    | (extract_lets +onlyGivenNames x; first | (refine State.Keeps.cut (σ := σ) (x := x) ?_ (fun hx => ?_); subst x; rotate_left; clear_value x; rotate_right) | (refine State.Keeps.cutP (σ := σ) (p := x) ?_ (fun hx => ?_); subst x; rotate_left; clear_value x; rotate_right) | (have _f : State → _ := x; clear _f; subst x) | clear_value x)
    | simp only [State.keeps_mk]

theorem State.keeps_toSort {q : Piece} (hk : σ.Keeps s) : σ.Keeps (State.toSort s q) := by
  unfold State.toSort
  with_reducible repeat' first
    | assumption | (intro _) | apply State.keeps_toLane | apply State.keeps_fillSort

theorem State.keeps_trackStart {k p b : Nat} (hk : σ.Keeps s) : σ.Keeps (State.trackStart s k p b) := by
  unfold State.trackStart
  with_reducible repeat' first
    | assumption | (intro _) | apply State.keeps_freed | apply State.keeps_pushOwn | apply State.Keeps.ite

theorem State.keeps_bankGrant {k p b : Nat} (hk : σ.Keeps s) : σ.Keeps (State.bankGrant s k p b) := by
  unfold State.bankGrant
  with_reducible repeat' first
    | assumption | (intro _)
    | (extract_lets +onlyGivenNames x; first | (refine State.Keeps.cut (σ := σ) (x := x) ?_ (fun hx => ?_); subst x; rotate_left; clear_value x; rotate_right) | (refine State.Keeps.cutP (σ := σ) (p := x) ?_ (fun hx => ?_); subst x; rotate_left; clear_value x; rotate_right) | (refine State.KeepsO.cut (σ := σ) (o := x) ?_ (fun hx => ?_); subst x; rotate_left; clear_value x; rotate_right) | clear_value x)
    | apply State.keeps_count | apply State.keeps_modPcc | apply State.keeps_modPiece | apply State.keeps_trackStart
    | (apply State.KeepsO.of; assumption) | apply State.KeepsO.some | exact State.KeepsO.none | simp only [State.keeps_mk]
    | apply State.Keeps.ite | (split)

theorem keeps_execBankGrant {k : Fin 8} {p : Fin 64} {b : Fin 64} (hk : σ.Keeps s) : σ.KeepsR (execBankGrant k p b s) := by
  unfold execBankGrant
  with_reducible repeat' first
    | assumption | (intro _) | apply State.keeps_bankGrant | apply State.KeepsR.next

theorem State.keeps_dropHints {k p : Nat} (hk : σ.Keeps s) : σ.Keeps (State.dropHints s k p) := by
  unfold State.dropHints
  with_reducible repeat' first
    | assumption | (intro _)
    | (extract_lets +onlyGivenNames x; first | (refine State.Keeps.cut (σ := σ) (x := x) ?_ (fun hx => ?_); subst x; rotate_left; clear_value x; rotate_right) | (refine State.Keeps.cutP (σ := σ) (p := x) ?_ (fun hx => ?_); subst x; rotate_left; clear_value x; rotate_right) | clear_value x)
    | apply State.keeps_count | apply State.keeps_modPcc

theorem State.keeps_rowGrant {k p : Nat} (hk : σ.Keeps s) : σ.Keeps (State.rowGrant s k p) := by
  unfold State.rowGrant
  with_reducible repeat' first
    | assumption | (intro _)
    | (extract_lets +onlyGivenNames x; first | (refine State.Keeps.cut (σ := σ) (x := x) ?_ (fun hx => ?_); subst x; rotate_left; clear_value x; rotate_right) | (refine State.Keeps.cutP (σ := σ) (p := x) ?_ (fun hx => ?_); subst x; rotate_left; clear_value x; rotate_right) | (refine State.KeepsO.cut (σ := σ) (o := x) ?_ (fun hx => ?_); subst x; rotate_left; clear_value x; rotate_right) | clear_value x)
    | apply State.keeps_modPcc | apply State.keeps_dropHints | (apply State.KeepsO.of; assumption)
    | apply State.KeepsO.some | exact State.KeepsO.none | simp only [State.keeps_mk] | apply State.Keeps.ite | (split)

theorem keeps_execRowGrant {k : Fin 8} {p : Fin 64} (hk : σ.Keeps s) : σ.KeepsR (execRowGrant k p s) := by
  unfold execRowGrant
  with_reducible repeat' first
    | assumption | (intro _) | apply State.keeps_rowGrant | apply State.KeepsR.next

theorem State.keeps_columnGrant {k p : Nat} (hk : σ.Keeps s) : σ.Keeps (State.columnGrant s k p) := by
  unfold State.columnGrant
  with_reducible repeat' first
    | assumption | (intro _)
    | (extract_lets +onlyGivenNames x; first | (refine State.Keeps.cut (σ := σ) (x := x) ?_ (fun hx => ?_); subst x; rotate_left; clear_value x; rotate_right) | (refine State.Keeps.cutP (σ := σ) (p := x) ?_ (fun hx => ?_); subst x; rotate_left; clear_value x; rotate_right) | (refine State.KeepsO.cut (σ := σ) (o := x) ?_ (fun hx => ?_); subst x; rotate_left; clear_value x; rotate_right) | clear_value x)
    | apply State.keeps_setPcc | apply State.keeps_modPiece | simp only [State.keeps_mk] | apply State.KeepsO.bindK
    | apply State.KeepsO.bind | apply State.Keeps.ite | (split)

theorem keeps_execColumnGrant {k : Fin 8} {p : Fin 64} (hk : σ.Keeps s) : σ.KeepsR (execColumnGrant k p s) := by
  unfold execColumnGrant
  with_reducible repeat' first
    | assumption | (intro _) | apply State.keeps_columnGrant | apply State.KeepsR.next

theorem State.keeps_columnPreempt {k p b : Nat} (hk : σ.Keeps s) : σ.Keeps (State.columnPreempt s k p b) := by
  unfold State.columnPreempt
  with_reducible repeat' first
    | assumption | (intro _)
    | (extract_lets +onlyGivenNames x; first | (refine State.Keeps.cut (σ := σ) (x := x) ?_ (fun hx => ?_); subst x; rotate_left; clear_value x; rotate_right) | (refine State.Keeps.cutP (σ := σ) (p := x) ?_ (fun hx => ?_); subst x; rotate_left; clear_value x; rotate_right) | (refine State.KeepsO.cut (σ := σ) (o := x) ?_ (fun hx => ?_); subst x; rotate_left; clear_value x; rotate_right) | clear_value x)
    | apply State.keeps_count | apply State.keeps_setPcc | apply State.keeps_modPiece | simp only [State.keeps_mk]
    | apply State.Keeps.ite | (split)

theorem keeps_execColumnPreempt {k : Fin 8} {p : Fin 64} {b : Fin 64} (hk : σ.Keeps s) :
    σ.KeepsR (execColumnPreempt k p b s) := by
  unfold execColumnPreempt
  with_reducible repeat' first
    | assumption | (intro _) | apply State.keeps_columnPreempt | apply State.KeepsR.next

theorem State.keeps_decline {k p b : Nat} (hk : σ.Keeps s) : σ.Keeps (State.decline s k p b) := by
  unfold State.decline
  with_reducible repeat' first
    | assumption | (intro _) | apply State.keeps_count | apply State.keeps_modPcc

theorem State.keeps_handRow {k p slot : Nat} (hk : σ.Keeps s) : σ.Keeps (State.handRow s k p slot) := by
  unfold State.handRow
  with_reducible repeat' first
    | assumption | (intro _)
    | (extract_lets +onlyGivenNames x; first | (refine State.Keeps.cut (σ := σ) (x := x) ?_ (fun hx => ?_); subst x; rotate_left; clear_value x; rotate_right) | (refine State.Keeps.cutP (σ := σ) (p := x) ?_ (fun hx => ?_); subst x; rotate_left; clear_value x; rotate_right) | (refine State.KeepsO.cut (σ := σ) (o := x) ?_ (fun hx => ?_); subst x; rotate_left; clear_value x; rotate_right) | clear_value x)
    | apply State.keeps_count | apply State.keeps_setPcc | apply State.keeps_decline | simp only [State.keeps_mk]
    | apply State.Keeps.ite | (split)

theorem State.keeps_setWordAt {k p : Nat} {raw inMeta : Bool} {u : Nat} {w : Stored} (hk : σ.Keeps s) :
    σ.Keeps (State.setWordAt s k p raw inMeta u w) := by
  unfold State.setWordAt
  with_reducible repeat' first
    | assumption | (intro _) | apply State.keeps_setCell | apply State.keeps_setAtomWord | apply State.Keeps.ite

theorem State.keeps_pushColumn {k p : Nat} {q : Piece} {kind : CmdKind} {i : Nat} {w : Stored} {slot : Nat} (hk : σ.Keeps s) :
    σ.Keeps (State.pushColumn s k p q kind i w slot) := by
  unfold State.pushColumn
  with_reducible repeat' first
    | assumption | (intro _)
    | (extract_lets +onlyGivenNames x; first | (refine State.Keeps.cut (σ := σ) (x := x) ?_ (fun hx => ?_); subst x; rotate_left; clear_value x; rotate_right) | (refine State.Keeps.cutP (σ := σ) (p := x) ?_ (fun hx => ?_); subst x; rotate_left; clear_value x; rotate_right) | clear_value x)
    | apply State.keeps_setPcc

theorem State.keeps_trainDone {k p : Nat} {q : Piece} (hk : σ.Keeps s) : σ.Keeps (State.trainDone s k p q) := by
  unfold State.trainDone
  with_reducible repeat' first
    | assumption | (intro _)
    | (extract_lets +onlyGivenNames x; first | (refine State.Keeps.cut (σ := σ) (x := x) ?_ (fun hx => ?_); subst x; rotate_left; clear_value x; rotate_right) | (refine State.Keeps.cutP (σ := σ) (p := x) ?_ (fun hx => ?_); subst x; rotate_left; clear_value x; rotate_right) | (refine State.KeepsO.cut (σ := σ) (o := x) ?_ (fun hx => ?_); subst x; rotate_left; clear_value x; rotate_right) | clear_value x)
    | apply State.keeps_modPcc | apply State.keeps_goOn | apply State.keeps_takePartials

theorem State.keeps_handRead {k p : Nat} {q : Piece} {i slot : Nat} (hk : σ.Keeps s) :
    σ.Keeps (State.handRead s k p q i slot) := by
  unfold State.handRead
  with_reducible repeat' first
    | assumption | (intro _)
    | (extract_lets +onlyGivenNames x; first | (refine State.Keeps.cut (σ := σ) (x := x) ?_ (fun hx => ?_); subst x; rotate_left; clear_value x; rotate_right) | (refine State.Keeps.cutP (σ := σ) (p := x) ?_ (fun hx => ?_); subst x; rotate_left; clear_value x; rotate_right) | clear_value x)
    | apply State.keeps_count | apply State.keeps_modPiece | apply State.keeps_pushColumn | apply State.keeps_trainDone
    | simp only [State.keeps_mk] | apply State.Keeps.ite

theorem State.keeps_burstEffect {k p : Nat} {q : Piece} {i : Nat} {w : Stored} (hk : σ.Keeps s) :
    σ.Keeps (State.burstEffect s k p q i w) := by
  unfold State.burstEffect
  with_reducible repeat' first
    | assumption | (intro _)
    | (extract_lets +onlyGivenNames x; first | (refine State.Keeps.cut (σ := σ) (x := x) ?_ (fun hx => ?_); subst x; rotate_left; clear_value x; rotate_right) | (refine State.Keeps.cutP (σ := σ) (p := x) ?_ (fun hx => ?_); subst x; rotate_left; clear_value x; rotate_right) | clear_value x)
    | apply State.keeps_raise | apply State.keeps_modPcc | apply State.keeps_setSalvage | apply State.keeps_setWordAt
    | apply State.keeps_writeback | simp only [State.keeps_mk] | apply State.Keeps.ite

theorem State.keeps_countBow {k : Nat} {q : Piece} (hk : σ.Keeps s) : σ.Keeps (State.countBow s k q) := by
  unfold State.countBow
  with_reducible repeat' first
    | assumption | (intro _) | apply State.keeps_count | (split)

theorem State.keeps_handWrite {k p : Nat} {q : Piece} {i slot : Nat} (hk : σ.Keeps s) :
    σ.Keeps (State.handWrite s k p q i slot) := by
  unfold State.handWrite
  with_reducible repeat' first
    | assumption | (intro _)
    | (extract_lets +onlyGivenNames x; first | (refine State.Keeps.cut (σ := σ) (x := x) ?_ (fun hx => ?_); subst x; rotate_left; clear_value x; rotate_right) | (refine State.Keeps.cutP (σ := σ) (p := x) ?_ (fun hx => ?_); subst x; rotate_left; clear_value x; rotate_right) | clear_value x)
    | apply State.keeps_modeFall | apply State.keeps_modPiece | apply State.keeps_answer | apply State.keeps_pushColumn
    | apply State.keeps_trainDone | apply State.keeps_burstEffect | apply State.keeps_countBow | simp only [State.keeps_mk]
    | apply State.Keeps.ite

theorem State.keeps_handColumn {k p slot : Nat} (hk : σ.Keeps s) : σ.Keeps (State.handColumn s k p slot) := by
  unfold State.handColumn
  with_reducible repeat' first
    | assumption | (intro _)
    | (extract_lets +onlyGivenNames x; first | (refine State.Keeps.cut (σ := σ) (x := x) ?_ (fun hx => ?_); subst x; rotate_left; clear_value x; rotate_right) | (refine State.Keeps.cutP (σ := σ) (p := x) ?_ (fun hx => ?_); subst x; rotate_left; clear_value x; rotate_right) | (refine State.KeepsO.cut (σ := σ) (o := x) ?_ (fun hx => ?_); subst x; rotate_left; clear_value x; rotate_right) | clear_value x)
    | apply State.keeps_count | apply State.keeps_decline | apply State.keeps_handRead | apply State.keeps_handWrite
    | apply State.Keeps.ite | (split)

theorem keeps_execSchedulerHandover {k : Fin 8} {p : Fin 64} {column : Bool} {slot : Nat} (hk : σ.Keeps s) :
    σ.KeepsR (execSchedulerHandover k p column slot s) := by
  unfold execSchedulerHandover
  with_reducible repeat' first
    | assumption | (intro _) | apply State.keeps_handRow | apply State.keeps_handColumn | apply State.KeepsR.next
    | exact State.KeepsR.fault | apply State.Keeps.ite

theorem State.keeps_afterIssue {k p : Nat} {m : Cmd} (hk : σ.Keeps s) : σ.Keeps (State.afterIssue s k p m) := by
  unfold State.afterIssue
  with_reducible repeat' first
    | assumption | (intro _)
    | (extract_lets +onlyGivenNames x; first | (refine State.Keeps.cut (σ := σ) (x := x) ?_ (fun hx => ?_); subst x; rotate_left; clear_value x; rotate_right) | (refine State.Keeps.cutP (σ := σ) (p := x) ?_ (fun hx => ?_); subst x; rotate_left; clear_value x; rotate_right) | (refine State.KeepsO.cut (σ := σ) (o := x) ?_ (fun hx => ?_); subst x; rotate_left; clear_value x; rotate_right) | clear_value x)
    | apply State.keeps_count | apply State.keeps_modPcc | apply State.keeps_modPiece | simp only [State.keeps_mk]
    | apply State.Keeps.ite | (split)

theorem State.keeps_runIssue {k p slot : Nat} (hk : σ.Keeps s) : σ.Keeps (State.runIssue s k p slot) := by
  unfold State.runIssue
  with_reducible repeat' first
    | assumption | (intro _)
    | (extract_lets +onlyGivenNames x; first | (refine State.Keeps.cut (σ := σ) (x := x) ?_ (fun hx => ?_); subst x; rotate_left; clear_value x; rotate_right) | (refine State.Keeps.cutP (σ := σ) (p := x) ?_ (fun hx => ?_); subst x; rotate_left; clear_value x; rotate_right) | (refine State.KeepsO.cut (σ := σ) (o := x) ?_ (fun hx => ?_); subst x; rotate_left; clear_value x; rotate_right) | clear_value x)
    | apply State.keeps_count | apply State.keeps_setPcc | apply State.keeps_afterIssue | apply State.Keeps.ite | (split)

theorem keeps_execCommandConfirmed {k : Fin 8} {p : Fin 64} (hk : σ.Keeps s) : σ.KeepsR (execCommandConfirmed k p s) := by
  unfold execCommandConfirmed
  with_reducible repeat' first
    | assumption | (intro _) | apply State.keeps_modPcc | apply State.KeepsR.next | exact State.KeepsR.fault
    | apply State.Keeps.ite | (split)

theorem State.keeps_canaryRead {k p : Nat} {q : Piece} {i : Nat} {w : Stored} (hk : σ.Keeps s) :
    σ.Keeps (State.canaryRead s k p q i w) := by
  unfold State.canaryRead
  with_reducible repeat' first
    | assumption | (intro _) | apply State.keeps_setMaskBit | apply State.Keeps.ite

theorem State.keeps_retainMeta {k p : Nat} {q : Piece} {i : Nat} (hk : σ.Keeps s) :
    σ.Keeps (State.retainMeta s k p q i) := by
  unfold State.retainMeta
  with_reducible repeat' first
    | assumption | (intro _)
    | (extract_lets +onlyGivenNames x; first | (refine State.Keeps.cut (σ := σ) (x := x) ?_ (fun hx => ?_); subst x; rotate_left; clear_value x; rotate_right) | (refine State.Keeps.cutP (σ := σ) (p := x) ?_ (fun hx => ?_); subst x; rotate_left; clear_value x; rotate_right) | (refine State.KeepsO.cut (σ := σ) (o := x) ?_ (fun hx => ?_); subst x; rotate_left; clear_value x; rotate_right) | (have _f : State → _ := x; clear _f; subst x) | clear_value x)
    | apply State.keeps_setPcc | apply State.keeps_modPiece | simp only [State.keeps_mk] | apply State.Keeps.ite | (split)

theorem State.keeps_readData {k p : Nat} {m : Cmd} {w : Stored} (hk : σ.Keeps s) : σ.Keeps (State.readData s k p m w) := by
  unfold State.readData
  with_reducible repeat' first
    | assumption | (intro _)
    | (extract_lets +onlyGivenNames x; first | (refine State.Keeps.cut (σ := σ) (x := x) ?_ (fun hx => ?_); subst x; rotate_left; clear_value x; rotate_right) | (refine State.Keeps.cutP (σ := σ) (p := x) ?_ (fun hx => ?_); subst x; rotate_left; clear_value x; rotate_right) | (refine State.KeepsO.cut (σ := σ) (o := x) ?_ (fun hx => ?_); subst x; rotate_left; clear_value x; rotate_right) | clear_value x)
    | apply State.keeps_modPcc | apply State.keeps_countDecode | apply State.keeps_modPiece | apply State.keeps_take
    | apply State.keeps_goOn | apply State.keeps_canaryRead | apply State.keeps_retainMeta | apply State.keeps_feed
    | (apply State.KeepsO.of; assumption) | apply State.KeepsO.some | exact State.KeepsO.none | simp only [State.keeps_mk]
    | apply State.Keeps.ite | (split)

theorem State.keeps_faultWord {k p : Nat} {m : Cmd} {fault : Stored} (hk : σ.Keeps s) :
    σ.Keeps (State.faultWord s k p m fault) := by
  unfold State.faultWord
  with_reducible repeat' first
    | assumption | (intro _)
    | (extract_lets +onlyGivenNames x; first | (refine State.Keeps.cut (σ := σ) (x := x) ?_ (fun hx => ?_); subst x; rotate_left; clear_value x; rotate_right) | (refine State.Keeps.cutP (σ := σ) (p := x) ?_ (fun hx => ?_); subst x; rotate_left; clear_value x; rotate_right) | clear_value x)
    | apply State.keeps_setWordAt | apply State.Keeps.ite

theorem keeps_execStackReadData {k : Fin 8} {p : Fin 64} {fault : Stored} (hk : σ.Keeps s) :
    σ.KeepsR (execStackReadData k p fault s) := by
  unfold execStackReadData
  with_reducible repeat' first
    | assumption | (intro _)
    | (extract_lets +onlyGivenNames x; first | (refine State.Keeps.cut (σ := σ) (x := x) ?_ (fun hx => ?_); subst x; rotate_left; clear_value x; rotate_right) | (refine State.Keeps.cutP (σ := σ) (p := x) ?_ (fun hx => ?_); subst x; rotate_left; clear_value x; rotate_right) | (refine State.KeepsO.cut (σ := σ) (o := x) ?_ (fun hx => ?_); subst x; rotate_left; clear_value x; rotate_right) | clear_value x)
    | apply State.keeps_setPcc | apply State.keeps_readData | apply State.keeps_faultWord | apply State.KeepsR.next
    | exact State.KeepsR.fault | apply State.Keeps.ite | (split)

theorem keeps_execPageTimerExpiry {k : Fin 8} {p : Fin 64} {b : Fin 64} (hk : σ.Keeps s) :
    σ.KeepsR (execPageTimerExpiry k p b s) := by
  unfold execPageTimerExpiry
  with_reducible repeat' first
    | assumption | (intro _)
    | (extract_lets +onlyGivenNames x; first | (refine State.Keeps.cut (σ := σ) (x := x) ?_ (fun hx => ?_); subst x; rotate_left; clear_value x; rotate_right) | (refine State.Keeps.cutP (σ := σ) (p := x) ?_ (fun hx => ?_); subst x; rotate_left; clear_value x; rotate_right) | (refine State.KeepsO.cut (σ := σ) (o := x) ?_ (fun hx => ?_); subst x; rotate_left; clear_value x; rotate_right) | clear_value x)
    | apply State.keeps_atCadence | apply State.keeps_modPcc | simp only [State.keeps_mk] | apply State.KeepsR.next
    | exact State.KeepsR.fault | apply State.Keeps.ite | (apply State.KeepsO.elim; assumption) | (split)

theorem State.keeps_activateHint {a : Nat} (hk : σ.Keeps s) : σ.Keeps (State.activateHint s a) := by
  unfold State.activateHint
  with_reducible repeat' first
    | assumption | (intro _)
    | (extract_lets +onlyGivenNames x; first | (refine State.Keeps.cut (σ := σ) (x := x) ?_ (fun hx => ?_); subst x; rotate_left; clear_value x; rotate_right) | (refine State.Keeps.cutP (σ := σ) (p := x) ?_ (fun hx => ?_); subst x; rotate_left; clear_value x; rotate_right) | clear_value x)
    | apply State.keeps_count | apply State.keeps_setPcc | simp only [State.keeps_mk] | apply State.Keeps.ite

theorem keeps_execActivateHint {a : BitVec 42} (hk : σ.Keeps s) : σ.KeepsR (execActivateHint a s) := by
  unfold execActivateHint
  with_reducible repeat' first
    | assumption | (intro _) | apply State.keeps_activateHint | apply State.KeepsR.next

theorem State.keeps_refreshDue {k p b : Nat} (hk : σ.Keeps s) : σ.Keeps (State.refreshDue s k p b) := by
  unfold State.refreshDue
  with_reducible repeat' first
    | assumption | (intro _)
    | (extract_lets +onlyGivenNames x; first | (refine State.Keeps.cut (σ := σ) (x := x) ?_ (fun hx => ?_); subst x; rotate_left; clear_value x; rotate_right) | (refine State.Keeps.cutP (σ := σ) (p := x) ?_ (fun hx => ?_); subst x; rotate_left; clear_value x; rotate_right) | (refine State.KeepsO.cut (σ := σ) (o := x) ?_ (fun hx => ?_); subst x; rotate_left; clear_value x; rotate_right) | clear_value x)
    | apply State.keeps_fset | apply State.keeps_countSat | apply State.keeps_modPcc | (apply State.KeepsO.of; assumption)
    | apply State.KeepsO.some | exact State.KeepsO.none | simp only [State.keeps_mk] | apply State.Keeps.ite

theorem State.keeps_settleMult {k : Nat} (hk : σ.Keeps s) : σ.Keeps (State.settleMult s k) := by
  unfold State.settleMult
  with_reducible repeat' first
    | assumption | (intro _)
    | (extract_lets +onlyGivenNames x; first | (refine State.Keeps.cut (σ := σ) (x := x) ?_ (fun hx => ?_); subst x; rotate_left; clear_value x; rotate_right) | (refine State.Keeps.cutP (σ := σ) (p := x) ?_ (fun hx => ?_); subst x; rotate_left; clear_value x; rotate_right) | (refine State.KeepsO.cut (σ := σ) (o := x) ?_ (fun hx => ?_); subst x; rotate_left; clear_value x; rotate_right) | (have _f : State → _ := x; clear _f; subst x) | clear_value x)
    | apply State.keeps_modPcc | apply State.keeps_forEach | apply State.keeps_foldl | apply State.keepsO_foldl
    | apply State.keepsP_foldl | simp only [State.keeps_mk] | apply State.Keeps.ite

theorem keeps_execRefreshDue {k : Fin 8} {p : Fin 64} {b : Fin 64} (hk : σ.Keeps s) : σ.KeepsR (execRefreshDue k p b s) := by
  unfold execRefreshDue
  with_reducible repeat' first
    | assumption | (intro _) | apply State.keeps_refreshDue | apply State.KeepsR.next | exact State.KeepsR.fault
    | apply State.Keeps.ite

theorem State.keeps_setZm {k p v : Nat} (hk : σ.Keeps s) : σ.Keeps (State.setZm s k p v) := by
  unfold State.setZm
  with_reducible repeat' first
    | assumption | (intro _) | apply State.keeps_fset

theorem State.keeps_zmRefuse {k p : Nat} (hk : σ.Keeps s) : σ.Keeps (State.zmRefuse s k p) := by
  unfold State.zmRefuse
  with_reducible repeat' first
    | assumption | (intro _) | apply State.keeps_raise

theorem State.keeps_zmAdopt {k p : Nat} (hk : σ.Keeps s) : σ.Keeps (State.zmAdopt s k p) := by
  unfold State.zmAdopt
  with_reducible repeat' first
    | assumption | (intro _) | apply State.keeps_setZm | apply State.keeps_zmRefuse | apply State.Keeps.ite

theorem State.keeps_zmClear {k p : Nat} (hk : σ.Keeps s) : σ.Keeps (State.zmClear s k p) := by
  unfold State.zmClear
  with_reducible repeat' first
    | assumption | (intro _) | apply State.keeps_setZm | apply State.keeps_zmRefuse | apply State.Keeps.ite

theorem State.keeps_zmDisable {k p : Nat} (hk : σ.Keeps s) : σ.Keeps (State.zmDisable s k p) := by
  unfold State.zmDisable
  with_reducible repeat' first
    | assumption | (intro _) | apply State.keeps_setZm | apply State.keeps_zmRefuse | apply State.Keeps.ite

theorem State.keeps_startWriteback {k p l : Nat} (hk : σ.Keeps s) : σ.Keeps (State.startWriteback s k p l) := by
  unfold State.startWriteback
  with_reducible repeat' first
    | assumption | (intro _)
    | (extract_lets +onlyGivenNames x; first | (refine State.Keeps.cut (σ := σ) (x := x) ?_ (fun hx => ?_); subst x; rotate_left; clear_value x; rotate_right) | (refine State.Keeps.cutP (σ := σ) (p := x) ?_ (fun hx => ?_); subst x; rotate_left; clear_value x; rotate_right) | clear_value x)
    | apply State.keeps_modPcc | apply State.keeps_pushOwn | apply State.keeps_writeback | simp only [State.keeps_mk]
    | apply State.Keeps.ite

theorem State.keeps_zmFlush {k p : Nat} (hk : σ.Keeps s) : σ.Keeps (State.zmFlush s k p) := by
  unfold State.zmFlush
  with_reducible repeat' first
    | assumption | (intro _)
    | (extract_lets +onlyGivenNames x; first | (refine State.Keeps.cut (σ := σ) (x := x) ?_ (fun hx => ?_); subst x; rotate_left; clear_value x; rotate_right) | (refine State.Keeps.cutP (σ := σ) (p := x) ?_ (fun hx => ?_); subst x; rotate_left; clear_value x; rotate_right) | clear_value x)
    | apply State.keeps_modPcc | apply State.keeps_forEach | apply State.keeps_startWriteback

theorem keeps_execZmapAdopt {k : Fin 8} {p : Fin 64} (hk : σ.Keeps s) : σ.KeepsR (execZmapAdopt k p s) := by
  unfold execZmapAdopt
  with_reducible repeat' first
    | assumption | (intro _) | apply State.keeps_cpStk | apply State.keeps_zmAdopt

theorem keeps_execZmapClear {k : Fin 8} {p : Fin 64} (hk : σ.Keeps s) : σ.KeepsR (execZmapClear k p s) := by
  unfold execZmapClear
  with_reducible repeat' first
    | assumption | (intro _) | apply State.keeps_cpStk | apply State.keeps_zmClear

theorem keeps_execZmapDisable {k : Fin 8} {p : Fin 64} (hk : σ.Keeps s) : σ.KeepsR (execZmapDisable k p s) := by
  unfold execZmapDisable
  with_reducible repeat' first
    | assumption | (intro _) | apply State.keeps_cpStk | apply State.keeps_zmDisable

theorem keeps_execZmapFlush {k : Fin 8} {p : Fin 64} (hk : σ.Keeps s) : σ.KeepsR (execZmapFlush k p s) := by
  unfold execZmapFlush
  with_reducible repeat' first
    | assumption | (intro _) | apply State.keeps_cpStk | apply State.keeps_zmFlush

theorem keeps_execZmapOpReserved {k : Fin 8} {p : Fin 64} {op : Fin 3} (hk : σ.Keeps s) :
    σ.KeepsR (execZmapOpReserved k p op s) := by
  unfold execZmapOpReserved
  with_reducible repeat' first
    | assumption | (intro _) | apply State.keeps_cpStk | apply State.keeps_zmRefuse

theorem State.keeps_clearMap {k p l : Nat} (hk : σ.Keeps s) : σ.Keeps (State.clearMap s k p l) := by
  unfold State.clearMap
  apply State.keeps_modPcc
  refine ⟨hk.pending, fun h0 => ⟨(hk.formed h0).regs, ?_, (hk.formed h0).events⟩⟩
  exact Memory.wf_clearMap (hk.formed h0).cells k p l

theorem State.keeps_materialise {k p u : Nat} (hk : σ.Keeps s) : σ.Keeps (State.materialise s k p u) := by
  unfold State.materialise
  with_reducible repeat' first
    | assumption | (intro _)
    | (extract_lets +onlyGivenNames x; first | (refine State.Keeps.cut (σ := σ) (x := x) ?_ (fun hx => ?_); subst x; rotate_left; clear_value x; rotate_right) | (refine State.Keeps.cutP (σ := σ) (p := x) ?_ (fun hx => ?_); subst x; rotate_left; clear_value x; rotate_right) | clear_value x)
    | apply State.keeps_raise | apply State.keeps_modPcc | apply State.keeps_setAtomWord

theorem State.keeps_poisonAtom {k p u : Nat} (hk : σ.Keeps s) : σ.Keeps (State.poisonAtom s k p u) := by
  unfold State.poisonAtom
  with_reducible repeat' first
    | assumption | (intro _)
    | (extract_lets +onlyGivenNames x; first | (refine State.Keeps.cut (σ := σ) (x := x) ?_ (fun hx => ?_); subst x; rotate_left; clear_value x; rotate_right) | (refine State.Keeps.cutP (σ := σ) (p := x) ?_ (fun hx => ?_); subst x; rotate_left; clear_value x; rotate_right) | clear_value x)
    | apply State.keeps_raise | apply State.keeps_modPcc | apply State.keeps_setAtomWord | apply State.keeps_setSalvage

theorem State.keeps_lineLost {k p l : Nat} (hk : σ.Keeps s) : σ.Keeps (State.lineLost s k p l) := by
  unfold State.lineLost
  with_reducible repeat' first
    | assumption | (intro _)
    | (extract_lets +onlyGivenNames x; first | (refine State.Keeps.cut (σ := σ) (x := x) ?_ (fun hx => ?_); subst x; rotate_left; clear_value x; rotate_right) | (refine State.Keeps.cutP (σ := σ) (p := x) ?_ (fun hx => ?_); subst x; rotate_left; clear_value x; rotate_right) | clear_value x)
    | apply State.keeps_countSat | apply State.keeps_post | apply State.keeps_errLog | apply State.keeps_ueAtom

theorem State.keeps_disableLine {k p l : Nat} (hk : σ.Keeps s) : σ.Keeps (State.disableLine s k p l) := by
  unfold State.disableLine
  with_reducible repeat' first
    | assumption | (intro _)
    | (extract_lets +onlyGivenNames x; first | (refine State.Keeps.cut (σ := σ) (x := x) ?_ (fun hx => ?_); subst x; rotate_left; clear_value x; rotate_right) | (refine State.Keeps.cutP (σ := σ) (p := x) ?_ (fun hx => ?_); subst x; rotate_left; clear_value x; rotate_right) | (refine State.KeepsO.cut (σ := σ) (o := x) ?_ (fun hx => ?_); subst x; rotate_left; clear_value x; rotate_right) | clear_value x)
    | apply State.keeps_forEach | apply State.keeps_countDecode | apply State.keeps_materialise
    | apply State.keeps_poisonAtom | apply State.keeps_lineLost | apply State.Keeps.ite | (split)

theorem State.keeps_zmDisableDone {k p : Nat} (hk : σ.Keeps s) : σ.Keeps (State.zmDisableDone s k p) := by
  unfold State.zmDisableDone
  with_reducible repeat' first
    | assumption | (intro _)
    | (extract_lets +onlyGivenNames x; first | (refine State.Keeps.cut (σ := σ) (x := x) ?_ (fun hx => ?_); subst x; rotate_left; clear_value x; rotate_right) | (refine State.Keeps.cutP (σ := σ) (p := x) ?_ (fun hx => ?_); subst x; rotate_left; clear_value x; rotate_right) | clear_value x)
    | apply State.keeps_forEach | apply State.keeps_setZm | apply State.keeps_clearMap | apply State.keeps_disableLine

theorem keeps_execZmapDisableDone {k : Fin 8} {p : Fin 64} (hk : σ.Keeps s) : σ.KeepsR (execZmapDisableDone k p s) := by
  unfold execZmapDisableDone
  with_reducible repeat' first
    | assumption | (intro _) | apply State.keeps_zmDisableDone | apply State.KeepsR.next | exact State.KeepsR.fault
    | apply State.Keeps.ite

theorem State.keeps_writeLine {k p : Nat} {z : ZLine} (hk : σ.Keeps s) : σ.Keeps (State.writeLine s k p z) := by
  unfold State.writeLine
  with_reducible repeat' first
    | assumption | (intro _) | apply State.keeps_setCell

theorem State.keeps_lineWritten {k p l : Nat} (hk : σ.Keeps s) : σ.Keeps (State.lineWritten s k p l) := by
  unfold State.lineWritten
  with_reducible repeat' first
    | assumption | (intro _)
    | (extract_lets +onlyGivenNames x; first | (refine State.Keeps.cut (σ := σ) (x := x) ?_ (fun hx => ?_); subst x; rotate_left; clear_value x; rotate_right) | (refine State.Keeps.cutP (σ := σ) (p := x) ?_ (fun hx => ?_); subst x; rotate_left; clear_value x; rotate_right) | (refine State.KeepsO.cut (σ := σ) (o := x) ?_ (fun hx => ?_); subst x; rotate_left; clear_value x; rotate_right) | clear_value x)
    | apply State.keeps_modPcc | apply State.keeps_zRetry | apply State.keeps_startWriteback | apply State.keeps_writeback
    | simp only [State.keeps_mk] | apply State.Keeps.ite | (split)

theorem keeps_execZmapLineWritebackDone {k : Fin 8} {p : Fin 64} {l : BitVec 16} (hk : σ.Keeps s) :
    σ.KeepsR (execZmapLineWritebackDone k p l s) := by
  unfold execZmapLineWritebackDone
  with_reducible repeat' first
    | assumption | (intro _) | apply State.keeps_lineWritten | apply State.KeepsR.next

theorem State.keeps_learn {k p : Nat} {q : Piece} {need zeros : Nat} (hk : σ.Keeps s) :
    σ.Keeps (State.learn s k p q need zeros) := by
  unfold State.learn
  with_reducible repeat' first
    | assumption | (intro _)
    | (extract_lets +onlyGivenNames x; first | (refine State.Keeps.cut (σ := σ) (x := x) ?_ (fun hx => ?_); subst x; rotate_left; clear_value x; rotate_right) | (refine State.Keeps.cutP (σ := σ) (p := x) ?_ (fun hx => ?_); subst x; rotate_left; clear_value x; rotate_right) | clear_value x)
    | apply State.keeps_modPcc

theorem State.keeps_confirmPiece {k p : Nat} {z : ZLine} {bits : BitVec 512} {unread : Bool} {q : Piece} (hk : σ.Keeps s) :
    σ.Keeps (State.confirmPiece s k p z bits unread q) := by
  unfold State.confirmPiece
  with_reducible repeat' first
    | assumption | (intro _)
    | (extract_lets +onlyGivenNames x; first | (refine State.Keeps.cut (σ := σ) (x := x) ?_ (fun hx => ?_); subst x; rotate_left; clear_value x; rotate_right) | (refine State.Keeps.cutP (σ := σ) (p := x) ?_ (fun hx => ?_); subst x; rotate_left; clear_value x; rotate_right) | (refine State.KeepsO.cut (σ := σ) (o := x) ?_ (fun hx => ?_); subst x; rotate_left; clear_value x; rotate_right) | (have _f : State → _ := x; clear _f; subst x) | clear_value x)
    | apply State.keeps_count | apply State.keeps_forEach | apply State.keeps_modPiece | apply State.keeps_take
    | apply State.keeps_takeAll | apply State.keeps_goOn | apply State.keeps_trainDone | apply State.keeps_learn
    | apply State.keeps_atomicAdd | simp only [State.keeps_mk] | apply State.KeepsO.getD | apply State.Keeps.ite | (split)

theorem State.keeps_poisonGroup {k p : Nat} {z : ZLine} {us : List Nat} {j : Nat} (hk : σ.Keeps s) :
    σ.Keeps (State.poisonGroup s k p z us j) := by
  unfold State.poisonGroup
  with_reducible repeat' first
    | assumption | (intro _)
    | (extract_lets +onlyGivenNames x; first | (refine State.Keeps.cut (σ := σ) (x := x) ?_ (fun hx => ?_); subst x; rotate_left; clear_value x; rotate_right) | (refine State.Keeps.cutP (σ := σ) (p := x) ?_ (fun hx => ?_); subst x; rotate_left; clear_value x; rotate_right) | clear_value x)
    | apply State.keeps_modPcc | simp only [State.keeps_mk] | apply State.Keeps.ite

theorem State.keeps_installLost {k p : Nat} {z : ZLine} (hk : σ.Keeps s) : σ.Keeps (State.installLost s k p z) := by
  unfold State.installLost
  with_reducible repeat' first
    | assumption | (intro _)
    | (extract_lets +onlyGivenNames x; first | (refine State.Keeps.cut (σ := σ) (x := x) ?_ (fun hx => ?_); subst x; rotate_left; clear_value x; rotate_right) | (refine State.Keeps.cutP (σ := σ) (p := x) ?_ (fun hx => ?_); subst x; rotate_left; clear_value x; rotate_right) | clear_value x)
    | apply State.keeps_modPcc | apply State.keeps_forEach | apply State.keeps_evaluate | apply State.keeps_startWriteback
    | apply State.keeps_lineLost | apply State.keeps_confirmPiece | apply State.keeps_poisonGroup

theorem State.keeps_installLine {k p : Nat} {z : ZLine} {bits : BitVec 512} (hk : σ.Keeps s) :
    σ.Keeps (State.installLine s k p z bits) := by
  unfold State.installLine
  with_reducible repeat' first
    | assumption | (intro _)
    | (extract_lets +onlyGivenNames x; first | (refine State.Keeps.cut (σ := σ) (x := x) ?_ (fun hx => ?_); subst x; rotate_left; clear_value x; rotate_right) | (refine State.Keeps.cutP (σ := σ) (p := x) ?_ (fun hx => ?_); subst x; rotate_left; clear_value x; rotate_right) | clear_value x)
    | apply State.keeps_modPcc | apply State.keeps_forEach | apply State.keeps_confirmPiece

theorem State.keeps_lineFill {k p l : Nat} (hk : σ.Keeps s) : σ.Keeps (State.lineFill s k p l) := by
  unfold State.lineFill
  with_reducible repeat' first
    | assumption | (intro _)
    | (extract_lets +onlyGivenNames x; first | (refine State.Keeps.cut (σ := σ) (x := x) ?_ (fun hx => ?_); subst x; rotate_left; clear_value x; rotate_right) | (refine State.Keeps.cutP (σ := σ) (p := x) ?_ (fun hx => ?_); subst x; rotate_left; clear_value x; rotate_right) | (refine State.KeepsO.cut (σ := σ) (o := x) ?_ (fun hx => ?_); subst x; rotate_left; clear_value x; rotate_right) | clear_value x)
    | apply State.keeps_countDecode | apply State.keeps_zRetry | apply State.keeps_installLost
    | apply State.keeps_installLine | apply State.Keeps.ite | (split)

theorem keeps_execZmapLineFill {k : Fin 8} {p : Fin 64} {l : BitVec 16} (hk : σ.Keeps s) :
    σ.KeepsR (execZmapLineFill k p l s) := by
  unfold execZmapLineFill
  with_reducible repeat' first
    | assumption | (intro _) | apply State.keeps_lineFill | apply State.KeepsR.next

theorem State.keeps_setSlot {n : Nat} {x : Slot} (hk : σ.Keeps s) : σ.Keeps (State.setSlot s n x) := by
  unfold State.setSlot
  with_reducible repeat' first
    | assumption | (intro _) | simp only [State.keeps_mk]

theorem State.keeps_modSlot {n : Nat} {f : Slot → Slot} (hk : σ.Keeps s) : σ.Keeps (State.modSlot s n f) := by
  unfold State.modSlot
  with_reducible repeat' first
    | assumption | (intro _) | apply State.keeps_setSlot

theorem State.keeps_setCtx {c : Nat} {x : Option Ctx} (hk : σ.Keeps s) : σ.Keeps (State.setCtx s c x) := by
  unfold State.setCtx
  with_reducible repeat' first
    | assumption | (intro _) | simp only [State.keeps_mk]

theorem State.keeps_modCtx {c : Nat} {f : Ctx → Ctx} (hk : σ.Keeps s) : σ.Keeps (State.modCtx s c f) := by
  unfold State.modCtx
  with_reducible repeat' first
    | assumption | (intro _) | apply State.keeps_setCtx | (split)

theorem State.keeps_scaleNote {old : Nat} (hk : σ.Keeps s) : σ.Keeps (State.scaleNote s old) := by
  unfold State.scaleNote
  with_reducible repeat' first
    | assumption | (intro _)
    | (extract_lets +onlyGivenNames x; first | (refine State.Keeps.cut (σ := σ) (x := x) ?_ (fun hx => ?_); subst x; rotate_left; clear_value x; rotate_right) | (refine State.Keeps.cutP (σ := σ) (p := x) ?_ (fun hx => ?_); subst x; rotate_left; clear_value x; rotate_right) | clear_value x)
    | apply State.keeps_post | apply State.Keeps.ite

theorem State.keeps_capCfgWrite {w : Nat} (hk : σ.Keeps s) : σ.Keeps (State.capCfgWrite s w) := by
  unfold State.capCfgWrite
  with_reducible repeat' first
    | assumption | (intro _)
    | (extract_lets +onlyGivenNames x; first | (refine State.Keeps.cut (σ := σ) (x := x) ?_ (fun hx => ?_); subst x; rotate_left; clear_value x; rotate_right) | (refine State.Keeps.cutP (σ := σ) (p := x) ?_ (fun hx => ?_); subst x; rotate_left; clear_value x; rotate_right) | clear_value x)
    | apply State.keeps_fset | apply State.keeps_scaleNote

theorem keeps_execCapCfgWrite {w : Word} (hk : σ.Keeps s) : σ.KeepsR (execCapCfgWrite w s) := by
  unfold execCapCfgWrite
  with_reducible repeat' first
    | assumption | (intro _) | apply State.keeps_cpDo | apply State.keeps_capCfgWrite

theorem State.keeps_setEntry {j : Nat} {e : Entry} (hk : σ.Keeps s) : σ.Keeps (State.setEntry s j e) := by
  unfold State.setEntry
  with_reducible repeat' first
    | assumption | (intro _) | simp only [State.keeps_mk]

theorem State.keeps_colourHead {j : Nat} (hk : σ.Keeps s) : σ.Keeps (State.colourHead s j) := by
  unfold State.colourHead
  with_reducible repeat' first
    | assumption | (intro _)
    | (extract_lets +onlyGivenNames x; first | (refine State.Keeps.cut (σ := σ) (x := x) ?_ (fun hx => ?_); subst x; rotate_left; clear_value x; rotate_right) | (refine State.Keeps.cutP (σ := σ) (p := x) ?_ (fun hx => ?_); subst x; rotate_left; clear_value x; rotate_right) | (refine State.KeepsO.cut (σ := σ) (o := x) ?_ (fun hx => ?_); subst x; rotate_left; clear_value x; rotate_right) | clear_value x)
    | apply State.keeps_setEntry | simp only [State.keeps_mk] | apply State.KeepsO.getD | apply State.Keeps.ite | (split)

theorem State.keeps_takeSample {j : Nat} (hk : σ.Keeps s) : σ.Keeps (State.takeSample s j) := by
  unfold State.takeSample
  with_reducible repeat' first
    | assumption | (intro _)
    | (extract_lets +onlyGivenNames x; first | (refine State.Keeps.cut (σ := σ) (x := x) ?_ (fun hx => ?_); subst x; rotate_left; clear_value x; rotate_right) | (refine State.Keeps.cutP (σ := σ) (p := x) ?_ (fun hx => ?_); subst x; rotate_left; clear_value x; rotate_right) | (refine State.KeepsO.cut (σ := σ) (o := x) ?_ (fun hx => ?_); subst x; rotate_left; clear_value x; rotate_right) | clear_value x)
    | apply State.keeps_ownStart | apply State.keeps_setEntry

theorem State.keeps_settleSample {j : Nat} (hk : σ.Keeps s) : σ.Keeps (State.settleSample s j) := by
  unfold State.settleSample
  with_reducible repeat' first
    | assumption | (intro _)
    | (extract_lets +onlyGivenNames x; first | (refine State.Keeps.cut (σ := σ) (x := x) ?_ (fun hx => ?_); subst x; rotate_left; clear_value x; rotate_right) | (refine State.Keeps.cutP (σ := σ) (p := x) ?_ (fun hx => ?_); subst x; rotate_left; clear_value x; rotate_right) | (refine State.KeepsO.cut (σ := σ) (o := x) ?_ (fun hx => ?_); subst x; rotate_left; clear_value x; rotate_right) | clear_value x)
    | apply State.keeps_takeSample | apply State.Keeps.ite

theorem State.keeps_enterStream {j id : Nat} (hk : σ.Keeps s) : σ.Keeps (State.enterStream s j id) := by
  unfold State.enterStream
  with_reducible repeat' first
    | assumption | (intro _)
    | (extract_lets +onlyGivenNames x; first | (refine State.Keeps.cut (σ := σ) (x := x) ?_ (fun hx => ?_); subst x; rotate_left; clear_value x; rotate_right) | (refine State.Keeps.cutP (σ := σ) (p := x) ?_ (fun hx => ?_); subst x; rotate_left; clear_value x; rotate_right) | clear_value x)
    | apply State.keeps_modReq | apply State.keeps_setEntry | apply State.keeps_colourHead | apply State.keeps_settleSample
    | apply State.keeps_idle | simp only [State.keeps_mk] | apply State.Keeps.ite

theorem State.keeps_meetStream {j id : Nat} (hk : σ.Keeps s) : σ.Keeps (State.meetStream s j id) := by
  unfold State.meetStream
  with_reducible repeat' first
    | assumption | (intro _) | apply State.keeps_setAtom | apply State.keeps_refuse | apply State.keeps_enterStream
    | apply State.Keeps.ite | (split)

theorem State.keeps_named {i : Nat} (hk : σ.Keeps s) : σ.Keeps (State.named s i) := by
  unfold State.named
  with_reducible repeat' first
    | assumption | (intro _) | apply State.keeps_setEntry | simp only [State.keeps_mk] | (split)

theorem State.keeps_writeback {j : Nat} (hk : σ.Keeps s) : σ.Keeps (State.writeback s j) := by
  unfold State.writeback
  with_reducible repeat' first
    | assumption | (intro _)
    | (extract_lets +onlyGivenNames x; first | (refine State.Keeps.cut (σ := σ) (x := x) ?_ (fun hx => ?_); subst x; rotate_left; clear_value x; rotate_right) | (refine State.Keeps.cutP (σ := σ) (p := x) ?_ (fun hx => ?_); subst x; rotate_left; clear_value x; rotate_right) | clear_value x)
    | apply State.keeps_ownStart | apply State.keeps_setEntry

theorem State.keeps_evictIdle {i : Nat} (hk : σ.Keeps s) : σ.Keeps (State.evictIdle s i) := by
  unfold State.evictIdle
  with_reducible repeat' first
    | assumption | (intro _) | apply State.keeps_writeback | apply State.keeps_idle | apply State.Keeps.ite | (split)

theorem State.keeps_miss {i : Nat} {id : Option Nat} (hk : σ.Keeps s) : σ.Keeps (State.miss s i id) := by
  unfold State.miss
  with_reducible repeat' first
    | assumption | (intro _) | simp only [State.keeps_mk] | apply State.KeepsO.bindK | apply State.KeepsO.bind
    | apply State.Keeps.ite

theorem State.keeps_toStream {id i : Nat} (hk : σ.Keeps s) : σ.Keeps (State.toStream s id i) := by
  unfold State.toStream
  with_reducible repeat' first
    | assumption | (intro _) | apply State.keeps_meetStream | apply State.keeps_miss | apply State.Keeps.ite | (split)

theorem State.keeps_fetchInto {i j : Nat} {m : Miss} (hk : σ.Keeps s) : σ.Keeps (State.fetchInto s i j m) := by
  unfold State.fetchInto
  with_reducible repeat' first
    | assumption | (intro _)
    | (extract_lets +onlyGivenNames x; first | (refine State.Keeps.cut (σ := σ) (x := x) ?_ (fun hx => ?_); subst x; rotate_left; clear_value x; rotate_right) | (refine State.Keeps.cutP (σ := σ) (p := x) ?_ (fun hx => ?_); subst x; rotate_left; clear_value x; rotate_right) | clear_value x)
    | apply State.keeps_count | apply State.keeps_ownStart | apply State.keeps_setEntry | apply State.keeps_started
    | simp only [State.keeps_mk] | apply State.Keeps.ite

theorem State.keeps_fetchStart {i : Nat} (hk : σ.Keeps s) : σ.Keeps (State.fetchStart s i) := by
  unfold State.fetchStart
  with_reducible repeat' first
    | assumption | (intro _)
    | (extract_lets +onlyGivenNames x; first | (refine State.Keeps.cut (σ := σ) (x := x) ?_ (fun hx => ?_); subst x; rotate_left; clear_value x; rotate_right) | (refine State.Keeps.cutP (σ := σ) (p := x) ?_ (fun hx => ?_); subst x; rotate_left; clear_value x; rotate_right) | (refine State.KeepsO.cut (σ := σ) (o := x) ?_ (fun hx => ?_); subst x; rotate_left; clear_value x; rotate_right) | clear_value x)
    | apply State.keeps_post | apply State.keeps_settleSample | apply State.keeps_writeback | apply State.keeps_fetchInto
    | apply State.keeps_started | simp only [State.keeps_mk] | apply State.Keeps.ite | (split)

theorem keeps_execDescriptorFetchStart {i : BitVec 20} (hk : σ.Keeps s) : σ.KeepsR (execDescriptorFetchStart i s) := by
  unfold execDescriptorFetchStart
  with_reducible repeat' first
    | assumption | (intro _) | apply State.keeps_fetchStart | apply State.KeepsR.next

theorem State.keeps_cmdResult {c : SCmd} {r : Nat} (hk : σ.Keeps s) : σ.Keeps (State.cmdResult s c r) := by
  unfold State.cmdResult
  with_reducible repeat' first
    | assumption | (intro _)
    | (extract_lets +onlyGivenNames x; first | (refine State.Keeps.cut (σ := σ) (x := x) ?_ (fun hx => ?_); subst x; rotate_left; clear_value x; rotate_right) | (refine State.Keeps.cutP (σ := σ) (p := x) ?_ (fun hx => ?_); subst x; rotate_left; clear_value x; rotate_right) | (refine State.KeepsO.cut (σ := σ) (o := x) ?_ (fun hx => ?_); subst x; rotate_left; clear_value x; rotate_right) | clear_value x)
    | apply State.keeps_fset | apply State.keeps_setCtx | (apply State.KeepsO.of; assumption) | apply State.KeepsO.some
    | exact State.KeepsO.none | simp only [State.keeps_mk] | (split)

theorem State.keeps_applyLoad {j : Nat} {w : Atom} {c : SCmd} (hk : σ.Keeps s) : σ.Keeps (State.applyLoad s j w c).1 := by
  unfold State.applyLoad
  with_reducible repeat' first
    | assumption | (intro _)
    | (extract_lets +onlyGivenNames x; first | (refine State.Keeps.cut (σ := σ) (x := x) ?_ (fun hx => ?_); subst x; rotate_left; clear_value x; rotate_right) | (refine State.Keeps.cutP (σ := σ) (p := x) ?_ (fun hx => ?_); subst x; rotate_left; clear_value x; rotate_right) | clear_value x)
    | apply State.keeps_setEntry | apply State.keeps_colourHead | simp only [State.keeps_mk] | apply State.Keeps.ite
    | (split)

theorem State.keeps_applyPin {j : Nat} (hk : σ.Keeps s) : σ.Keeps (State.applyPin s j).1 := by
  unfold State.applyPin
  with_reducible repeat' first
    | assumption | (intro _)
    | (extract_lets +onlyGivenNames x; first | (refine State.Keeps.cut (σ := σ) (x := x) ?_ (fun hx => ?_); subst x; rotate_left; clear_value x; rotate_right) | (refine State.Keeps.cutP (σ := σ) (p := x) ?_ (fun hx => ?_); subst x; rotate_left; clear_value x; rotate_right) | clear_value x)
    | apply State.keeps_setEntry | simp only [State.keeps_mk] | apply State.Keeps.ite | (split)

theorem State.keeps_applyView {j : Nat} (hk : σ.Keeps s) : σ.Keeps (State.applyView s j) := by
  unfold State.applyView
  with_reducible repeat' first
    | assumption | (intro _)
    | (extract_lets +onlyGivenNames x; first | (refine State.Keeps.cut (σ := σ) (x := x) ?_ (fun hx => ?_); subst x; rotate_left; clear_value x; rotate_right) | (refine State.Keeps.cutP (σ := σ) (p := x) ?_ (fun hx => ?_); subst x; rotate_left; clear_value x; rotate_right) | clear_value x)
    | apply State.keeps_setReg | apply State.keeps_forEach | apply State.keeps_setEntry

theorem State.keeps_beginCmd {c : SCmd} (hk : σ.Keeps s) : σ.Keeps (State.beginCmd s c) := by
  unfold State.beginCmd
  with_reducible repeat' first
    | assumption | (intro _) | simp only [State.keeps_mk]

theorem State.keeps_cmdFetch {c : SCmd} (hk : σ.Keeps s) : σ.Keeps (State.cmdFetch s c).1 := by
  unfold State.cmdFetch
  with_reducible repeat' first
    | assumption | (intro _) | apply State.keeps_miss | apply State.keeps_beginCmd

theorem State.keeps_applyCmd {c : SCmd} (hk : σ.Keeps s) : σ.Keeps (State.applyCmd s c).1 := by
  unfold State.applyCmd
  extract_lets gone
  split
  · split
    · exact State.keeps_cmdFetch hk
    · exact hk
  · rename_i j e _
    have h1 : σ.Keeps (s.serviceRead (.load c.stream) (s.descAddr c.stream)).1 := State.keeps_serviceRead hk
    generalize s.serviceRead (.load c.stream) (s.descAddr c.stream) = r at h1 ⊢
    obtain ⟨t, d⟩ := r
    split
    · exact hk
    split
    · split
      · exact State.keeps_cmdFetch hk
      · exact hk
    split
    · rcases d with ⟨d, _ | _⟩ | _ | _ | d | _ | _
      · exact State.keeps_applyLoad h1
      all_goals exact h1
    split
    · split
      · exact State.keeps_beginCmd (State.keeps_writeback hk)
      · exact State.keeps_setEntry hk
    split
    · exact State.keeps_applyPin hk
    split
    · exact State.keeps_setEntry hk
    · exact State.keeps_applyView hk

theorem State.keeps_cmdDone {c : SCmd} {r : Nat} (hk : σ.Keeps s) : σ.Keeps (State.cmdDone s c r) := by
  unfold State.cmdDone
  with_reducible repeat' first
    | assumption | (intro _) | apply State.keeps_named | apply State.keeps_cmdResult | simp only [State.keeps_mk]

theorem State.keeps_runCmds {n i : Nat} (hk : σ.Keeps s) : σ.Keeps (State.runCmds n i s) := by
  induction n generalizing s with
  | zero => exact State.keeps_evictIdle hk
  | succ n ih =>
    unfold State.runCmds
    split
    · exact State.keeps_evictIdle hk
    · split
      · rename_i e; exact State.Keeps.fst e (State.keeps_applyCmd hk)
      · rename_i e
        exact ih (State.keeps_cmdDone (State.Keeps.fst e (State.keeps_applyCmd hk)))

theorem State.keeps_streamCmd {c : SCmd} (hk : σ.Keeps s) : σ.Keeps (State.streamCmd s c) := by
  unfold State.streamCmd
  with_reducible repeat' first
    | assumption | (intro _)
    | (extract_lets +onlyGivenNames x; first | (refine State.Keeps.cut (σ := σ) (x := x) ?_ (fun hx => ?_); subst x; rotate_left; clear_value x; rotate_right) | (refine State.Keeps.cutP (σ := σ) (p := x) ?_ (fun hx => ?_); subst x; rotate_left; clear_value x; rotate_right) | clear_value x)
    | apply State.keeps_named | apply State.keeps_runCmds | simp only [State.keeps_mk] | apply State.Keeps.ite

theorem State.keeps_fetchRefuses {i id : Nat} (hk : σ.Keeps s) : σ.Keeps (State.fetchRefuses s i id) := by
  unfold State.fetchRefuses
  with_reducible repeat' first
    | assumption | (intro _) | apply State.keeps_refuse | apply State.keeps_miss | apply State.Keeps.ite

theorem State.keeps_fetchFails {j i status : Nat} {reqs : List Nat} (hk : σ.Keeps s) :
    σ.Keeps (State.fetchFails s j i status reqs) := by
  unfold State.fetchFails
  with_reducible repeat' first
    | assumption | (intro _)
    | (extract_lets +onlyGivenNames x; first | (refine State.Keeps.cut (σ := σ) (x := x) ?_ (fun hx => ?_); subst x; rotate_left; clear_value x; rotate_right) | (refine State.Keeps.cutP (σ := σ) (p := x) ?_ (fun hx => ?_); subst x; rotate_left; clear_value x; rotate_right) | (refine State.KeepsO.cut (σ := σ) (o := x) ?_ (fun hx => ?_); subst x; rotate_left; clear_value x; rotate_right) | clear_value x)
    | apply State.keeps_post | apply State.keeps_forEach | apply State.keeps_setEntry | apply State.keeps_cmdDone
    | apply State.keeps_runCmds | apply State.keeps_fetchRefuses | simp only [State.keeps_mk] | apply State.Keeps.ite
    | (split)

theorem State.keeps_loadFetched {j i : Nat} {w : Atom} (hk : σ.Keeps s) : σ.Keeps (State.loadFetched s j i w) := by
  unfold State.loadFetched
  with_reducible repeat' first
    | assumption | (intro _)
    | (extract_lets +onlyGivenNames x; first | (refine State.Keeps.cut (σ := σ) (x := x) ?_ (fun hx => ?_); subst x; rotate_left; clear_value x; rotate_right) | (refine State.Keeps.cutP (σ := σ) (p := x) ?_ (fun hx => ?_); subst x; rotate_left; clear_value x; rotate_right) | (refine State.KeepsO.cut (σ := σ) (o := x) ?_ (fun hx => ?_); subst x; rotate_left; clear_value x; rotate_right) | clear_value x)
    | apply State.keeps_applyLoad | apply State.keeps_cmdDone | apply State.Keeps.ite | (apply State.Keeps.fst; assumption)
    | (split)

theorem State.keeps_install {j i : Nat} {w : Atom} {reqs : List Nat} (hk : σ.Keeps s) :
    σ.Keeps (State.install s j i w reqs) := by
  unfold State.install
  with_reducible repeat' first
    | assumption | (intro _)
    | (extract_lets +onlyGivenNames x; first | (refine State.Keeps.cut (σ := σ) (x := x) ?_ (fun hx => ?_); subst x; rotate_left; clear_value x; rotate_right) | (refine State.Keeps.cutP (σ := σ) (p := x) ?_ (fun hx => ?_); subst x; rotate_left; clear_value x; rotate_right) | clear_value x)
    | apply State.keeps_forEach | apply State.keeps_setEntry | apply State.keeps_meetStream | apply State.keeps_runCmds
    | apply State.keeps_loadFetched | apply State.keeps_idle | simp only [State.keeps_mk]

theorem State.keeps_fetchReturn {i : Nat} (hk : σ.Keeps s) : σ.Keeps (State.fetchReturn s i) := by
  unfold State.fetchReturn
  with_reducible repeat' first
    | assumption | (intro _)
    | (extract_lets +onlyGivenNames x; first | (refine State.Keeps.cut (σ := σ) (x := x) ?_ (fun hx => ?_); subst x; rotate_left; clear_value x; rotate_right) | (refine State.Keeps.cutP (σ := σ) (p := x) ?_ (fun hx => ?_); subst x; rotate_left; clear_value x; rotate_right) | (refine State.KeepsO.cut (σ := σ) (o := x) ?_ (fun hx => ?_); subst x; rotate_left; clear_value x; rotate_right) | clear_value x)
    | apply State.keeps_ownGo | apply State.keeps_runCmds | apply State.keeps_fetchFails | apply State.keeps_install
    | (generalize hr : State.ownGo _ _ _ = r; obtain ⟨t, d⟩ := r; rcases d with ⟨d, _ | _⟩ | _ | _ | d | _ | _ <;> dsimp -zeta only)
    | apply State.Keeps.ite | (apply State.Keeps.fst; assumption) | (split)

theorem State.keeps_wbFreed {j i : Nat} (hk : σ.Keeps s) : σ.Keeps (State.wbFreed s j i) := by
  unfold State.wbFreed
  with_reducible repeat' first
    | assumption | (intro _)
    | (extract_lets +onlyGivenNames x; first | (refine State.Keeps.cut (σ := σ) (x := x) ?_ (fun hx => ?_); subst x; rotate_left; clear_value x; rotate_right) | (refine State.Keeps.cutP (σ := σ) (p := x) ?_ (fun hx => ?_); subst x; rotate_left; clear_value x; rotate_right) | (refine State.KeepsO.cut (σ := σ) (o := x) ?_ (fun hx => ?_); subst x; rotate_left; clear_value x; rotate_right) | clear_value x)
    | apply State.keeps_count | apply State.keeps_setEntry | apply State.keeps_cmdDone | apply State.keeps_runCmds
    | apply State.Keeps.ite | (split)

theorem State.keeps_writebackDone {i : Nat} (hk : σ.Keeps s) : σ.Keeps (State.writebackDone s i) := by
  unfold State.writebackDone
  with_reducible repeat' first
    | assumption | (intro _) | apply State.keeps_post | apply State.keeps_ownGo | apply State.keeps_writeback
    | apply State.keeps_evictIdle | apply State.keeps_wbFreed | apply State.Keeps.ite | (apply State.Keeps.fst; assumption)
    | (split)

theorem keeps_execRedHeadReeval {i : BitVec 20} (hk : σ.Keeps s) : σ.KeepsR (execRedHeadReeval i s) := by
  unfold execRedHeadReeval
  with_reducible repeat' first
    | assumption | (intro _) | apply State.keeps_atCadence | apply State.keeps_colourHead | apply State.KeepsO.bindK
    | apply State.KeepsO.bind | apply State.KeepsR.next | exact State.KeepsR.fault | apply State.Keeps.ite
    | (apply State.KeepsO.elim; assumption) | (split)

theorem keeps_execStreamLoad {i : BitVec 20} {tokZero force : Bool} (hk : σ.Keeps s) :
    σ.KeepsR (execStreamLoad i tokZero force s) := by
  unfold execStreamLoad
  with_reducible repeat' first
    | assumption | (intro _) | apply State.keeps_cpDo | apply State.keeps_streamCmd

theorem keeps_execStreamFlush {i : BitVec 20} (hk : σ.Keeps s) : σ.KeepsR (execStreamFlush i s) := by
  unfold execStreamFlush
  with_reducible repeat' first
    | assumption | (intro _) | apply State.keeps_cpDo | apply State.keeps_streamCmd

theorem keeps_execStreamPin {i : BitVec 20} (hk : σ.Keeps s) : σ.KeepsR (execStreamPin i s) := by
  unfold execStreamPin
  with_reducible repeat' first
    | assumption | (intro _) | apply State.keeps_cpDo | apply State.keeps_streamCmd

theorem keeps_execStreamUnpin {i : BitVec 20} (hk : σ.Keeps s) : σ.KeepsR (execStreamUnpin i s) := by
  unfold execStreamUnpin
  with_reducible repeat' first
    | assumption | (intro _) | apply State.keeps_cpDo | apply State.keeps_streamCmd

theorem keeps_execStreamView {i : BitVec 20} (hk : σ.Keeps s) : σ.KeepsR (execStreamView i s) := by
  unfold execStreamView
  with_reducible repeat' first
    | assumption | (intro _) | apply State.keeps_cpDo | apply State.keeps_streamCmd

theorem keeps_execStreamCmdReserved {seven : Bool} {i : BitVec 20} (hk : σ.Keeps s) :
    σ.KeepsR (execStreamCmdReserved seven i s) := by
  unfold execStreamCmdReserved
  with_reducible repeat' first
    | assumption | (intro _) | apply State.keeps_fset | apply State.keeps_cpDo

theorem keeps_execStreamSample {i : BitVec 20} (hk : σ.Keeps s) : σ.KeepsR (execStreamSample i s) := by
  unfold execStreamSample
  with_reducible repeat' first
    | assumption | (intro _)
    | (extract_lets +onlyGivenNames x; first | (refine State.Keeps.cut (σ := σ) (x := x) ?_ (fun hx => ?_); subst x; rotate_left; clear_value x; rotate_right) | (refine State.Keeps.cutP (σ := σ) (p := x) ?_ (fun hx => ?_); subst x; rotate_left; clear_value x; rotate_right) | (refine State.KeepsO.cut (σ := σ) (o := x) ?_ (fun hx => ?_); subst x; rotate_left; clear_value x; rotate_right) | clear_value x)
    | apply State.keeps_atCadence | apply State.keeps_takeSample | apply State.KeepsR.next | exact State.KeepsR.fault
    | apply State.Keeps.ite | (apply State.KeepsO.elim; assumption) | (split)

theorem State.keeps_jumpSamples {old : Nat} (hk : σ.Keeps s) : σ.Keeps (State.jumpSamples s old) := by
  unfold State.jumpSamples
  with_reducible repeat' first
    | assumption | (intro _) | apply State.keeps_forEach | apply State.keeps_takeSample

theorem State.keeps_headDone {j : Nat} (hk : σ.Keeps s) : σ.Keeps (State.headDone s j) := by
  unfold State.headDone
  with_reducible repeat' first
    | assumption | (intro _)
    | (extract_lets +onlyGivenNames x; first | (refine State.Keeps.cut (σ := σ) (x := x) ?_ (fun hx => ?_); subst x; rotate_left; clear_value x; rotate_right) | (refine State.Keeps.cutP (σ := σ) (p := x) ?_ (fun hx => ?_); subst x; rotate_left; clear_value x; rotate_right) | clear_value x)
    | apply State.keeps_setEntry | apply State.keeps_colourHead | apply State.keeps_evictIdle | apply State.keeps_idle
    | simp only [State.keeps_mk] | apply State.Keeps.ite

theorem State.keeps_deferHeads {g : Nat} (hk : σ.Keeps s) : σ.Keeps (State.deferHeads s g) := by
  unfold State.deferHeads
  with_reducible repeat' first
    | assumption | (intro _)
    | (extract_lets +onlyGivenNames x; first | (refine State.Keeps.cut (σ := σ) (x := x) ?_ (fun hx => ?_); subst x; rotate_left; clear_value x; rotate_right) | (refine State.Keeps.cutP (σ := σ) (p := x) ?_ (fun hx => ?_); subst x; rotate_left; clear_value x; rotate_right) | (refine State.KeepsO.cut (σ := σ) (o := x) ?_ (fun hx => ?_); subst x; rotate_left; clear_value x; rotate_right) | clear_value x)
    | apply State.keeps_count | apply State.keeps_modReq | apply State.keeps_forEach | simp only [State.keeps_mk]
    | apply State.Keeps.ite | (split)

theorem State.keeps_sendPiece {id : Nat} {r : Req} {first lane cls : Nat} (hk : σ.Keeps s) :
    σ.Keeps (State.sendPiece s id r first lane cls) := by
  unfold State.sendPiece
  with_reducible repeat' first
    | assumption | (intro _)
    | (extract_lets +onlyGivenNames x; first | (refine State.Keeps.cut (σ := σ) (x := x) ?_ (fun hx => ?_); subst x; rotate_left; clear_value x; rotate_right) | (refine State.Keeps.cutP (σ := σ) (p := x) ?_ (fun hx => ?_); subst x; rotate_left; clear_value x; rotate_right) | clear_value x)
    | apply State.keeps_take | apply State.keeps_toLane | apply State.keeps_endBatch | apply State.keeps_toSort
    | simp only [State.keeps_mk] | apply State.Keeps.ite

theorem State.keeps_bridgeSend {id : Nat} (hk : σ.Keeps s) : σ.Keeps (State.bridgeSend s id) := by
  unfold State.bridgeSend
  with_reducible repeat' first
    | assumption | (intro _) | simp only [State.keeps_mk] | apply State.Keeps.ite | (split)

theorem State.keeps_forward {id : Nat} {r : Req} (hk : σ.Keeps s) : σ.Keeps (State.forward s id r) := by
  unfold State.forward
  with_reducible repeat' first
    | assumption | (intro _) | apply State.keeps_bridgeSend | simp only [State.keeps_mk]

theorem State.keeps_startAtom {g c : Nat} {h : Head} (hk : σ.Keeps s) : σ.Keeps (State.startAtom s g c h) := by
  unfold State.startAtom
  with_reducible repeat' first
    | assumption | (intro _)
    | (extract_lets +onlyGivenNames x; first | (refine State.Keeps.cut (σ := σ) (x := x) ?_ (fun hx => ?_); subst x; rotate_left; clear_value x; rotate_right) | (refine State.Keeps.cutP (σ := σ) (p := x) ?_ (fun hx => ?_); subst x; rotate_left; clear_value x; rotate_right) | clear_value x)
    | apply State.keeps_putReq | apply State.keeps_headDone | apply State.keeps_sendPiece | apply State.keeps_forward
    | apply State.keeps_started | simp only [State.keeps_mk] | apply State.Keeps.ite

theorem State.keeps_atomStart {g : Nat} (hk : σ.Keeps s) : σ.Keeps (State.atomStart s g) := by
  unfold State.atomStart
  with_reducible repeat' first
    | assumption | (intro _)
    | (extract_lets +onlyGivenNames x; first | (refine State.Keeps.cut (σ := σ) (x := x) ?_ (fun hx => ?_); subst x; rotate_left; clear_value x; rotate_right) | (refine State.Keeps.cutP (σ := σ) (p := x) ?_ (fun hx => ?_); subst x; rotate_left; clear_value x; rotate_right) | (refine State.KeepsO.cut (σ := σ) (o := x) ?_ (fun hx => ?_); subst x; rotate_left; clear_value x; rotate_right) | clear_value x)
    | apply State.keeps_settleSwap | apply State.keeps_deferHeads | apply State.keeps_startAtom | apply State.Keeps.ite
    | (split)

theorem keeps_execPortGroupAtomStart {g : Fin 16} (hk : σ.Keeps s) : σ.KeepsR (execPortGroupAtomStart g s) := by
  unfold execPortGroupAtomStart
  with_reducible repeat' first
    | assumption | (intro _) | apply State.keeps_atomStart | apply State.KeepsR.next

theorem State.keeps_iriProtocol {n label cause : Nat} (hk : σ.Keeps s) : σ.Keeps (State.iriProtocol s n label cause) := by
  unfold State.iriProtocol
  with_reducible repeat' first
    | assumption | (intro _) | apply State.keeps_post

theorem State.keeps_addReq {r : Req} (hk : σ.Keeps s) : σ.Keeps (State.addReq s r).1 := by
  unfold State.addReq
  with_reducible repeat' first
    | assumption | (intro _) | apply State.keeps_putReq | simp only [State.keeps_mk]

theorem State.keeps_accept {n : Nat} {x : HeldHdr} {r : Req} (hk : σ.Keeps s) : σ.Keeps (State.accept s n x r).1 := by
  unfold State.accept
  with_reducible repeat' first
    | assumption | (intro _)
    | (extract_lets +onlyGivenNames x; first | (refine State.Keeps.cut (σ := σ) (x := x) ?_ (fun hx => ?_); subst x; rotate_left; clear_value x; rotate_right) | (refine State.Keeps.cutP (σ := σ) (p := x) ?_ (fun hx => ?_); subst x; rotate_left; clear_value x; rotate_right) | clear_value x)
    | apply State.keeps_modPort | apply State.keeps_addReq | simp only [State.keeps_mk] | apply State.Keeps.ite

theorem State.keeps_mismatch {n id : Nat} {x : HeldHdr} (hk : σ.Keeps s) : σ.Keeps (State.mismatch s n id x) := by
  unfold State.mismatch
  with_reducible repeat' first
    | assumption | (intro _) | apply State.keeps_countSat | apply State.keeps_refuse | apply State.keeps_iriProtocol

theorem State.keeps_serveReq {n : Nat} {x : HeldHdr} (hk : σ.Keeps s) : σ.Keeps (State.serveReq s n x) := by
  unfold State.serveReq
  with_reducible repeat' first
    | assumption | (intro _)
    | (extract_lets +onlyGivenNames x; first | (refine State.Keeps.cut (σ := σ) (x := x) ?_ (fun hx => ?_); subst x; rotate_left; clear_value x; rotate_right) | (refine State.Keeps.cutP (σ := σ) (p := x) ?_ (fun hx => ?_); subst x; rotate_left; clear_value x; rotate_right) | (refine State.KeepsO.cut (σ := σ) (o := x) ?_ (fun hx => ?_); subst x; rotate_left; clear_value x; rotate_right) | clear_value x)
    | apply State.keeps_refuse | apply State.keeps_toStream | apply State.keeps_accept | apply State.keeps_mismatch
    | apply State.Keeps.ite | (apply State.Keeps.fst; assumption) | (split)

theorem State.keeps_bridgePieces {id : Nat} {r : Req} (hk : σ.Keeps s) : σ.Keeps (State.bridgePieces s id r) := by
  unfold State.bridgePieces
  with_reducible repeat' first
    | assumption | (intro _)
    | (extract_lets +onlyGivenNames x; first | (refine State.Keeps.cut (σ := σ) (x := x) ?_ (fun hx => ?_); subst x; rotate_left; clear_value x; rotate_right) | (refine State.Keeps.cutP (σ := σ) (p := x) ?_ (fun hx => ?_); subst x; rotate_left; clear_value x; rotate_right) | clear_value x)
    | apply State.keeps_modReq | apply State.keeps_forEach | apply State.keeps_toLane

theorem State.keeps_serveBridge {x : HeldHdr} (hk : σ.Keeps s) : σ.Keeps (State.serveBridge s x) := by
  unfold State.serveBridge
  with_reducible repeat' first
    | assumption | (intro _)
    | (extract_lets +onlyGivenNames x; first | (refine State.Keeps.cut (σ := σ) (x := x) ?_ (fun hx => ?_); subst x; rotate_left; clear_value x; rotate_right) | (refine State.Keeps.cutP (σ := σ) (p := x) ?_ (fun hx => ?_); subst x; rotate_left; clear_value x; rotate_right) | clear_value x)
    | apply State.keeps_freed | apply State.keeps_refuse | apply State.keeps_accept | apply State.keeps_mismatch
    | apply State.keeps_bridgePieces | apply State.Keeps.ite

theorem State.keeps_useCredit {n l : Nat} (hk : σ.Keeps s) : σ.Keeps (State.useCredit s n l) := by
  unfold State.useCredit
  with_reducible repeat' first
    | assumption | (intro _) | apply State.keeps_modPort

theorem State.keeps_holdHdr {n : Nat} {why : HoldWhy} {x : HeldHdr} (hk : σ.Keeps s) :
    σ.Keeps (State.holdHdr s n why x) := by
  unfold State.holdHdr
  with_reducible repeat' first
    | assumption | (intro _) | apply State.keeps_modPort

theorem State.keeps_credited {n : Nat} {x : HeldHdr} (hk : σ.Keeps s) : σ.Keeps (State.credited s n x) := by
  unfold State.credited
  with_reducible repeat' first
    | assumption | (intro _) | apply State.keeps_count | apply State.keeps_serveReq | apply State.keeps_serveBridge
    | apply State.keeps_holdHdr | apply State.Keeps.ite

theorem State.keeps_arrive {n : Nat} {x : HeldHdr} (hk : σ.Keeps s) : σ.Keeps (State.arrive s n x) := by
  unfold State.arrive
  with_reducible repeat' first
    | assumption | (intro _)
    | (extract_lets +onlyGivenNames x; first | (refine State.Keeps.cut (σ := σ) (x := x) ?_ (fun hx => ?_); subst x; rotate_left; clear_value x; rotate_right) | (refine State.Keeps.cutP (σ := σ) (p := x) ?_ (fun hx => ?_); subst x; rotate_left; clear_value x; rotate_right) | clear_value x)
    | apply State.keeps_countSat | apply State.keeps_iriProtocol | apply State.keeps_useCredit | apply State.keeps_holdHdr
    | apply State.keeps_credited | apply State.Keeps.ite

theorem keeps_execRead {n : Fin 112} {h : BitVec 128} {flits : Nat} {cut : Bool} (hk : σ.Keeps s) :
    σ.KeepsR (execRead n h flits cut s) := by
  unfold execRead
  with_reducible repeat' first
    | assumption | (intro _) | apply State.keeps_arrive | apply State.KeepsR.next

theorem keeps_execWrite {n : Fin 112} {h : BitVec 128} {flits : Nat} {cut : Bool} {data : Payload} (hk : σ.Keeps s) :
    σ.KeepsR (execWrite n h flits cut data s) := by
  unfold execWrite
  with_reducible repeat' first
    | assumption | (intro _) | apply State.keeps_arrive | apply State.KeepsR.next

theorem keeps_execWritePartial {n : Fin 112} {h : BitVec 128} {flits : Nat} {cut : Bool} {data : Payload} {be : BitVec 256} (hk : σ.Keeps s) :
    σ.KeepsR (execWritePartial n h flits cut data be s) := by
  unfold execWritePartial
  with_reducible repeat' first
    | assumption | (intro _) | apply State.keeps_arrive | apply State.KeepsR.next

theorem keeps_execAtomicAddBeside {n : Fin 112} {h : BitVec 128} {flits : Nat} {cut : Bool} {data : Payload} (hk : σ.Keeps s) :
    σ.KeepsR (execAtomicAddBeside n h flits cut data s) := by
  unfold execAtomicAddBeside
  with_reducible repeat' first
    | assumption | (intro _) | apply State.keeps_arrive | apply State.KeepsR.next

theorem keeps_execFence {n : Fin 112} {h : BitVec 128} {flits : Nat} {cut : Bool} (hk : σ.Keeps s) :
    σ.KeepsR (execFence n h flits cut s) := by
  unfold execFence
  with_reducible repeat' first
    | assumption | (intro _) | apply State.keeps_arrive | apply State.KeepsR.next

theorem keeps_execProbe {n : Fin 112} {h : BitVec 128} {flits : Nat} {cut : Bool} (hk : σ.Keeps s) :
    σ.KeepsR (execProbe n h flits cut s) := by
  unfold execProbe
  with_reducible repeat' first
    | assumption | (intro _) | apply State.keeps_arrive | apply State.KeepsR.next

theorem keeps_execReservedOpcode {n : Fin 112} {seven : Bool} {h : BitVec 128} {flits : Nat} {cut : Bool} (hk : σ.Keeps s) :
    σ.KeepsR (execReservedOpcode n seven h flits cut s) := by
  unfold execReservedOpcode
  with_reducible repeat' first
    | assumption | (intro _) | apply State.keeps_arrive | apply State.KeepsR.next

theorem keeps_execBridgeRequest {h : BitVec 128} {flits : Nat} {cut : Bool} {data : Payload} {be : BitVec 256} (hk : σ.Keeps s) :
    σ.KeepsR (execBridgeRequest h flits cut data be s) := by
  unfold execBridgeRequest
  with_reducible repeat' first
    | assumption | (intro _) | apply State.keeps_arrive | apply State.KeepsR.next

theorem keeps_execStrayDataFlit {n : Fin 113} (hk : σ.Keeps s) : σ.KeepsR (execStrayDataFlit n s) := by
  unfold execStrayDataFlit
  with_reducible repeat' first
    | assumption | (intro _) | apply State.keeps_countSat | apply State.keeps_iriProtocol | apply State.KeepsR.next
    | exact State.KeepsR.fault | apply State.Keeps.ite

theorem keeps_execHeldHeaderAccepted {n : Fin 113} (hk : σ.Keeps s) : σ.KeepsR (execHeldHeaderAccepted n s) := by
  unfold execHeldHeaderAccepted
  with_reducible repeat' first
    | assumption | (intro _)
    | (extract_lets +onlyGivenNames x; first | (refine State.Keeps.cut (σ := σ) (x := x) ?_ (fun hx => ?_); subst x; rotate_left; clear_value x; rotate_right) | (refine State.Keeps.cutP (σ := σ) (p := x) ?_ (fun hx => ?_); subst x; rotate_left; clear_value x; rotate_right) | (refine State.KeepsO.cut (σ := σ) (o := x) ?_ (fun hx => ?_); subst x; rotate_left; clear_value x; rotate_right) | (have _f : State → _ := x; clear _f; subst x) | clear_value x)
    | apply State.keeps_modPort | apply State.keeps_useCredit | apply State.keeps_credited | simp only [State.keeps_mk]
    | apply State.KeepsO.getD | apply State.KeepsR.next | exact State.KeepsR.fault | apply State.Keeps.ite | (split)

theorem State.keeps_dispatchKept {n : Nat} (hk : σ.Keeps s) : σ.Keeps (State.dispatchKept s n) := by
  unfold State.dispatchKept
  with_reducible repeat' first
    | assumption | (intro _)
    | (extract_lets +onlyGivenNames x; first | (refine State.Keeps.cut (σ := σ) (x := x) ?_ (fun hx => ?_); subst x; rotate_left; clear_value x; rotate_right) | (refine State.Keeps.cutP (σ := σ) (p := x) ?_ (fun hx => ?_); subst x; rotate_left; clear_value x; rotate_right) | (have _f : State → _ := x; clear _f; subst x) | clear_value x)
    | apply State.keeps_forEach | apply State.keeps_toStream | apply State.Keeps.ite

theorem keeps_execMissHoldRelease {n : Fin 112} (hk : σ.Keeps s) : σ.KeepsR (execMissHoldRelease n s) := by
  unfold execMissHoldRelease
  with_reducible repeat' first
    | assumption | (intro _)
    | (extract_lets +onlyGivenNames x; first | (refine State.Keeps.cut (σ := σ) (x := x) ?_ (fun hx => ?_); subst x; rotate_left; clear_value x; rotate_right) | (refine State.Keeps.cutP (σ := σ) (p := x) ?_ (fun hx => ?_); subst x; rotate_left; clear_value x; rotate_right) | (refine State.KeepsO.cut (σ := σ) (o := x) ?_ (fun hx => ?_); subst x; rotate_left; clear_value x; rotate_right) | clear_value x)
    | apply State.keeps_modPort | apply State.keeps_serveReq | apply State.keeps_dispatchKept | simp only [State.keeps_mk]
    | apply State.KeepsR.next | exact State.KeepsR.fault | apply State.Keeps.ite | (split)

theorem State.keeps_nextFlit {n : Nat} (hk : σ.Keeps s) : σ.Keeps (State.nextFlit s n) := by
  unfold State.nextFlit
  with_reducible repeat' first
    | assumption | (intro _) | apply State.keeps_flitSent | (split)

theorem keeps_execResponseFlitAck {n : Fin 113} (hk : σ.Keeps s) : σ.KeepsR (execResponseFlitAck n s) := by
  unfold execResponseFlitAck
  with_reducible repeat' first
    | assumption | (intro _)
    | (extract_lets +onlyGivenNames x; first | (refine State.Keeps.cut (σ := σ) (x := x) ?_ (fun hx => ?_); subst x; rotate_left; clear_value x; rotate_right) | (refine State.Keeps.cutP (σ := σ) (p := x) ?_ (fun hx => ?_); subst x; rotate_left; clear_value x; rotate_right) | clear_value x)
    | apply State.keeps_fset | apply State.keeps_modPort | apply State.keeps_dropReq | apply State.keeps_nextFlit
    | simp only [State.keeps_mk] | apply State.KeepsR.next | exact State.KeepsR.fault | apply State.Keeps.ite | (split)

theorem keeps_execCreditReturn {n : Fin 113} {l : Fin 64} (hk : σ.Keeps s) : σ.KeepsR (execCreditReturn n l s) := by
  unfold execCreditReturn
  with_reducible repeat' first
    | assumption | (intro _)
    | (extract_lets +onlyGivenNames x; first | (refine State.Keeps.cut (σ := σ) (x := x) ?_ (fun hx => ?_); subst x; rotate_left; clear_value x; rotate_right) | (refine State.Keeps.cutP (σ := σ) (p := x) ?_ (fun hx => ?_); subst x; rotate_left; clear_value x; rotate_right) | (refine State.KeepsO.cut (σ := σ) (o := x) ?_ (fun hx => ?_); subst x; rotate_left; clear_value x; rotate_right) | clear_value x)
    | apply State.keeps_modPort | simp only [State.keeps_mk] | apply State.KeepsR.next | exact State.KeepsR.fault
    | apply State.Keeps.ite | (split)

theorem keeps_execResponseStall {n : Fin 113} (hk : σ.Keeps s) : σ.KeepsR (execResponseStall n s) := by
  unfold execResponseStall
  with_reducible repeat' first
    | assumption | (intro _)
    | (extract_lets +onlyGivenNames x; first | (refine State.Keeps.cut (σ := σ) (x := x) ?_ (fun hx => ?_); subst x; rotate_left; clear_value x; rotate_right) | (refine State.Keeps.cutP (σ := σ) (p := x) ?_ (fun hx => ?_); subst x; rotate_left; clear_value x; rotate_right) | (refine State.KeepsO.cut (σ := σ) (o := x) ?_ (fun hx => ?_); subst x; rotate_left; clear_value x; rotate_right) | clear_value x)
    | apply State.keeps_raise | apply State.keeps_post | apply State.keeps_atCadence | apply State.KeepsR.next
    | exact State.KeepsR.fault | apply State.Keeps.ite | (apply State.KeepsO.elim; assumption) | (split)

theorem State.keeps_portOn {n : Nat} (hk : σ.Keeps s) : σ.Keeps (State.portOn s n) := by
  unfold State.portOn
  with_reducible repeat' first
    | assumption | (intro _)
    | (extract_lets +onlyGivenNames x; first | (refine State.Keeps.cut (σ := σ) (x := x) ?_ (fun hx => ?_); subst x; rotate_left; clear_value x; rotate_right) | (refine State.Keeps.cutP (σ := σ) (p := x) ?_ (fun hx => ?_); subst x; rotate_left; clear_value x; rotate_right) | clear_value x)
    | apply State.keeps_raise | apply State.keeps_modPort | apply State.keeps_credited | simp only [State.keeps_mk]
    | apply State.Keeps.ite

theorem State.keeps_portOff {n : Nat} (hk : σ.Keeps s) : σ.Keeps (State.portOff s n) := by
  unfold State.portOff
  with_reducible repeat' first
    | assumption | (intro _) | apply State.keeps_fset | apply State.keeps_modPort

theorem State.keeps_portFields {n w : Nat} (hk : σ.Keeps s) : σ.Keeps (State.portFields s n w) := by
  unfold State.portFields
  with_reducible repeat' first
    | assumption | (intro _)
    | (extract_lets +onlyGivenNames x; first | (refine State.Keeps.cut (σ := σ) (x := x) ?_ (fun hx => ?_); subst x; rotate_left; clear_value x; rotate_right) | (refine State.Keeps.cutP (σ := σ) (p := x) ?_ (fun hx => ?_); subst x; rotate_left; clear_value x; rotate_right) | clear_value x)
    | apply State.keeps_fset | apply State.Keeps.ite

theorem State.keeps_portEn {n : Nat} (hk : σ.Keeps s) : σ.Keeps (State.portEn s n) := by
  unfold State.portEn
  with_reducible repeat' first
    | assumption | (intro _) | apply State.keeps_raise | apply State.keeps_portOn | apply State.Keeps.ite

theorem State.keeps_portCfgWrite {n w : Nat} (hk : σ.Keeps s) : σ.Keeps (State.portCfgWrite s n w) := by
  unfold State.portCfgWrite
  with_reducible repeat' first
    | assumption | (intro _)
    | (extract_lets +onlyGivenNames x; first | (refine State.Keeps.cut (σ := σ) (x := x) ?_ (fun hx => ?_); subst x; rotate_left; clear_value x; rotate_right) | (refine State.Keeps.cutP (σ := σ) (p := x) ?_ (fun hx => ?_); subst x; rotate_left; clear_value x; rotate_right) | clear_value x)
    | apply State.keeps_portOff | apply State.keeps_portFields | apply State.keeps_portEn | apply State.Keeps.ite

theorem keeps_execPortDisable {n : Fin 113} {w : Word} (hk : σ.Keeps s) : σ.KeepsR (execPortDisable n w s) := by
  unfold execPortDisable
  with_reducible repeat' first
    | assumption | (intro _) | apply State.keeps_cpDo | apply State.keeps_portCfgWrite

theorem keeps_execFenceComplete {n : Fin 112} (hk : σ.Keeps s) : σ.KeepsR (execFenceComplete n s) := by
  unfold execFenceComplete
  with_reducible repeat' first
    | assumption | (intro _) | apply State.keeps_putReq | apply State.keeps_sendFlits | apply State.keeps_dispatchKept
    | simp only [State.keeps_mk] | apply State.KeepsR.next | exact State.KeepsR.fault | (split)

theorem State.keeps_bridgeCredits {l : List CrMsg} (hk : σ.Keeps s) : σ.Keeps (State.bridgeCredits s l) := by
  unfold State.bridgeCredits
  with_reducible repeat' first
    | assumption | (intro _)
    | (extract_lets +onlyGivenNames x; first | (refine State.Keeps.cut (σ := σ) (x := x) ?_ (fun hx => ?_); subst x; rotate_left; clear_value x; rotate_right) | (refine State.Keeps.cutP (σ := σ) (p := x) ?_ (fun hx => ?_); subst x; rotate_left; clear_value x; rotate_right) | clear_value x)
    | apply State.keeps_count | apply State.keeps_forEach | apply State.keeps_bridgeSend | simp only [State.keeps_mk]

theorem State.keeps_bridgeResponse {id : Nat} {l : List (BitVec 3)} {data : Payload} {poison : BitVec 64} (hk : σ.Keeps s) :
    σ.Keeps (State.bridgeResponse s id l data poison) := by
  unfold State.bridgeResponse
  with_reducible repeat' first
    | assumption | (intro _)
    | (extract_lets +onlyGivenNames x; first | (refine State.Keeps.cut (σ := σ) (x := x) ?_ (fun hx => ?_); subst x; rotate_left; clear_value x; rotate_right) | (refine State.Keeps.cutP (σ := σ) (p := x) ?_ (fun hx => ?_); subst x; rotate_left; clear_value x; rotate_right) | (refine State.KeepsO.cut (σ := σ) (o := x) ?_ (fun hx => ?_); subst x; rotate_left; clear_value x; rotate_right) | clear_value x)
    | apply State.keeps_putReq | apply State.keeps_sendFlits | apply State.keeps_refuse | simp only [State.keeps_mk]
    | apply State.Keeps.ite | (split)

theorem keeps_execBridgeResponse {id : Nat} {l : List (BitVec 3)} {data : Payload} {poison : BitVec 64} {cr : List CrMsg} (hk : σ.Keeps s) :
    σ.KeepsR (execBridgeResponse id l data poison cr s) := by
  unfold execBridgeResponse
  with_reducible repeat' first
    | assumption | (intro _) | apply State.keeps_bridgeCredits | apply State.keeps_bridgeResponse | apply State.KeepsR.next

theorem keeps_execBridgeForwardTimeout {id : Nat} (hk : σ.Keeps s) : σ.KeepsR (execBridgeForwardTimeout id s) := by
  unfold execBridgeForwardTimeout
  with_reducible repeat' first
    | assumption | (intro _) | apply State.keeps_countSat | apply State.keeps_atCadence | apply State.keeps_refuse
    | simp only [State.keeps_mk] | apply State.KeepsR.next | exact State.KeepsR.fault
    | (apply State.KeepsO.elim; assumption) | (split)

theorem keeps_execBridgeDown (hk : σ.Keeps s) : σ.KeepsR (execBridgeDown s) := by
  unfold execBridgeDown
  with_reducible repeat' first
    | assumption | (intro _)
    | (extract_lets +onlyGivenNames x; first | (refine State.Keeps.cut (σ := σ) (x := x) ?_ (fun hx => ?_); subst x; rotate_left; clear_value x; rotate_right) | (refine State.Keeps.cutP (σ := σ) (p := x) ?_ (fun hx => ?_); subst x; rotate_left; clear_value x; rotate_right) | clear_value x)
    | apply State.keeps_fset | apply State.keeps_post | simp only [State.keeps_mk] | apply State.KeepsR.next
    | exact State.KeepsR.fault | apply State.Keeps.ite

theorem keeps_execBridgeUp {size : BitVec 42} {cr : List CrMsg} (hk : σ.Keeps s) : σ.KeepsR (execBridgeUp size cr s) := by
  unfold execBridgeUp
  with_reducible repeat' first
    | assumption | (intro _) | apply State.keeps_fset | apply State.keeps_raise | apply State.keeps_post
    | apply State.keeps_bridgeCredits | apply State.KeepsR.next | exact State.KeepsR.fault | apply State.Keeps.ite

theorem State.keeps_settleOutput {k p : Nat} (hk : σ.Keeps s) : σ.Keeps (State.settleOutput s k p) := by
  unfold State.settleOutput
  with_reducible repeat' first
    | assumption | (intro _)
    | (extract_lets +onlyGivenNames x; first | (refine State.Keeps.cut (σ := σ) (x := x) ?_ (fun hx => ?_); subst x; rotate_left; clear_value x; rotate_right) | (refine State.Keeps.cutP (σ := σ) (p := x) ?_ (fun hx => ?_); subst x; rotate_left; clear_value x; rotate_right) | clear_value x)
    | apply State.keeps_fset | apply State.keeps_setOut | simp only [State.keeps_mk] | apply State.Keeps.ite | (split)

theorem State.keeps_settleOutputs {k : Nat} (hk : σ.Keeps s) : σ.Keeps (State.settleOutputs s k) := by
  unfold State.settleOutputs
  with_reducible repeat' first
    | assumption | (intro _) | apply State.keeps_forEach | apply State.keeps_settleOutput

theorem State.keeps_holdIng {k : Nat} {h : HwHold} {p : Nat} (hk : σ.Keeps s) : σ.Keeps (State.holdIng s k h p) := by
  unfold State.holdIng
  with_reducible repeat' first
    | assumption | (intro _) | apply State.keeps_modOut | apply State.keeps_settleOutput

theorem State.keeps_freeIng {k : Nat} {h : HwHold} {p : Nat} (hk : σ.Keeps s) : σ.Keeps (State.freeIng s k h p) := by
  unfold State.freeIng
  with_reducible repeat' first
    | assumption | (intro _) | apply State.keeps_modOut | apply State.keeps_settleOutput

theorem State.keeps_holdStack {k : Nat} {h : HwHold} (hk : σ.Keeps s) : σ.Keeps (State.holdStack s k h) := by
  unfold State.holdStack
  with_reducible repeat' first
    | assumption | (intro _) | apply State.keeps_modOut | apply State.keeps_forEach | apply State.keeps_holdIng

theorem State.keeps_freeStack {k : Nat} {h : HwHold} (hk : σ.Keeps s) : σ.Keeps (State.freeStack s k h) := by
  unfold State.freeStack
  with_reducible repeat' first
    | assumption | (intro _) | apply State.keeps_modOut | apply State.keeps_forEach | apply State.keeps_freeIng

theorem State.keeps_ingCapoWrite {k w : Nat} (hk : σ.Keeps s) : σ.Keeps (State.ingCapoWrite s k w) := by
  unfold State.ingCapoWrite
  with_reducible repeat' first
    | assumption | (intro _) | apply State.keeps_fset | apply State.keeps_settleOutputs

theorem keeps_execIngCapoWrite {k : Fin 8} {mask : Word} (hk : σ.Keeps s) : σ.KeepsR (execIngCapoWrite k mask s) := by
  unfold execIngCapoWrite
  with_reducible repeat' first
    | assumption | (intro _) | apply State.keeps_cpStk | apply State.keeps_ingCapoWrite

theorem keeps_execPccCapoWrite {k : Fin 8} {mask : Word} (hk : σ.Keeps s) : σ.KeepsR (execPccCapoWrite k mask s) := by
  unfold execPccCapoWrite
  with_reducible repeat' first
    | assumption | (intro _) | apply State.keeps_fset | apply State.keeps_cpStk

theorem keeps_execPgCapoWrite {mask : BitVec 16} (hk : σ.Keeps s) : σ.KeepsR (execPgCapoWrite mask s) := by
  unfold execPgCapoWrite
  with_reducible repeat' first
    | assumption | (intro _) | apply State.keeps_fset | apply State.keeps_cpDo

theorem keeps_execCapoSoftToHard {k : Fin 8} {p : Fin 64} (hk : σ.Keeps s) : σ.KeepsR (execCapoSoftToHard k p s) := by
  unfold execCapoSoftToHard
  with_reducible repeat' first
    | assumption | (intro _)
    | (extract_lets +onlyGivenNames x; first | (refine State.Keeps.cut (σ := σ) (x := x) ?_ (fun hx => ?_); subst x; rotate_left; clear_value x; rotate_right) | (refine State.Keeps.cutP (σ := σ) (p := x) ?_ (fun hx => ?_); subst x; rotate_left; clear_value x; rotate_right) | clear_value x)
    | apply State.keeps_setOut | simp only [State.keeps_mk] | apply State.KeepsR.next | exact State.KeepsR.fault
    | apply State.Keeps.ite

theorem keeps_execCapoDrainSlow {k : Fin 8} {p : Fin 64} (hk : σ.Keeps s) : σ.KeepsR (execCapoDrainSlow k p s) := by
  unfold execCapoDrainSlow
  with_reducible repeat' first
    | assumption | (intro _) | apply State.keeps_post | apply State.keeps_atCadence | apply State.keeps_modOut
    | simp only [State.keeps_mk] | apply State.KeepsO.bindK | apply State.KeepsO.bind | apply State.KeepsR.next
    | exact State.KeepsR.fault | (apply State.KeepsO.elim; assumption) | (split)

end Sys2Proof.Machine
end

