-- ==== Sys2Proof/Laws/KeepStack.lean ====
section
/-! SUPPORT. What every operation on the stacks, their maps and engines, the events, the temperature and the power states keeps. -/

namespace Sys2Proof.Machine

variable {σ s : State}

theorem State.keeps_putRw {a : Nat} {w : Word} (hk : σ.Keeps s) : σ.Keeps (State.putRw s a w) := by
  unfold State.putRw
  with_reducible repeat' first
    | assumption | (intro _) | apply State.keeps_setReg | (split)

theorem State.keeps_endMig {k : Nat} (hk : σ.Keeps s) : σ.Keeps (State.endMig s k) := by
  unfold State.endMig
  with_reducible repeat' first
    | assumption | (intro _)
    | (extract_lets +onlyGivenNames x; first | (refine State.Keeps.cut (σ := σ) (x := x) ?_ (fun hx => ?_); subst x; rotate_left; clear_value x; rotate_right) | (refine State.Keeps.cutP (σ := σ) (p := x) ?_ (fun hx => ?_); subst x; rotate_left; clear_value x; rotate_right) | (refine State.KeepsO.cut (σ := σ) (o := x) ?_ (fun hx => ?_); subst x; rotate_left; clear_value x; rotate_right) | clear_value x)
    | apply State.keeps_fset | apply State.keeps_setMig | apply State.keeps_retire | apply State.keeps_ownDrop
    | apply State.keeps_freeIng | (split)

theorem State.keeps_loseLpc {k l cause : Nat} (hk : σ.Keeps s) : σ.Keeps (State.loseLpc s k l cause) := by
  unfold State.loseLpc
  with_reducible repeat' first
    | assumption | (intro _)
    | (extract_lets +onlyGivenNames x; first | (refine State.Keeps.cut (σ := σ) (x := x) ?_ (fun hx => ?_); subst x; rotate_left; clear_value x; rotate_right) | (refine State.Keeps.cutP (σ := σ) (p := x) ?_ (fun hx => ?_); subst x; rotate_left; clear_value x; rotate_right) | (refine State.KeepsO.cut (σ := σ) (o := x) ?_ (fun hx => ?_); subst x; rotate_left; clear_value x; rotate_right) | clear_value x)
    | apply State.keeps_fset | apply State.keeps_setMaskBit | apply State.keeps_post | apply State.keeps_losePcc
    | apply State.keeps_endMig | apply State.Keeps.ite | (split)

theorem State.keeps_losePhysical {k p cause : Nat} (hk : σ.Keeps s) : σ.Keeps (State.losePhysical s k p cause) := by
  unfold State.losePhysical
  with_reducible repeat' first
    | assumption | (intro _) | apply State.keeps_setMig | apply State.keeps_losePcc | apply State.keeps_loseLpc
    | simp only [State.keeps_mk] | apply State.Keeps.ite | (split)

theorem State.keeps_laneEvent {f : LaneFail} {spare : Nat} (hk : σ.Keeps s) : σ.Keeps (State.laneEvent s f spare) := by
  unfold State.laneEvent
  with_reducible repeat' first
    | assumption | (intro _) | apply State.keeps_post

theorem State.keeps_spareLane {f : LaneFail} (hk : σ.Keeps s) : σ.KeepsO (State.spareLane s f) := by
  unfold State.spareLane
  with_reducible repeat' first
    | assumption | (intro _)
    | (extract_lets +onlyGivenNames x; first | (refine State.Keeps.cut (σ := σ) (x := x) ?_ (fun hx => ?_); subst x; rotate_left; clear_value x; rotate_right) | (refine State.Keeps.cutP (σ := σ) (p := x) ?_ (fun hx => ?_); subst x; rotate_left; clear_value x; rotate_right) | (refine State.KeepsO.cut (σ := σ) (o := x) ?_ (fun hx => ?_); subst x; rotate_left; clear_value x; rotate_right) | clear_value x)
    | apply State.keeps_fset | apply State.keeps_raise | apply State.keeps_laneEvent | apply State.KeepsO.some
    | exact State.KeepsO.none | apply State.Keeps.ite | (split)

theorem State.keeps_spareLanes {l : List LaneFail} (hk : σ.Keeps s) : σ.Keeps (State.spareLanes s l).1 := by
  induction l generalizing s with
  | nil => exact hk
  | cons f l ih =>
    unfold State.spareLanes
    split
    · rename_i e; exact ih ((State.keeps_spareLane hk).all _ e)
    · exact ih hk

theorem State.keeps_trainAt {k t : Nat} {env : TrainEnv} {apart : List Nat} (hk : σ.Keeps s) :
    σ.Keeps (State.trainAt s k t env apart).1 := by
  unfold State.trainAt
  with_reducible repeat' first
    | assumption | (intro _) | apply State.keeps_spareLanes

theorem State.keeps_fallback {k : Nat} {env : TrainEnv} {apart : List Nat} {left : List LaneFail} {l : List Nat} (hk : σ.Keeps s) :
    σ.Keeps (State.fallback s k env apart left l).1 := by
  induction l generalizing s left with
  | nil => exact hk
  | cons f l ih =>
    unfold State.fallback
    dsimp only
    split
    · exact State.keeps_trainAt hk
    · exact ih (State.keeps_trainAt hk)

theorem State.keeps_restartRefresh {k : Nat} (hk : σ.Keeps s) : σ.Keeps (State.restartRefresh s k) := by
  unfold State.restartRefresh
  with_reducible repeat' first
    | assumption | (intro _)
    | (extract_lets +onlyGivenNames x; first | (refine State.Keeps.cut (σ := σ) (x := x) ?_ (fun hx => ?_); subst x; rotate_left; clear_value x; rotate_right) | (refine State.Keeps.cutP (σ := σ) (p := x) ?_ (fun hx => ?_); subst x; rotate_left; clear_value x; rotate_right) | clear_value x)
    | apply State.keeps_modPcc | apply State.keeps_forEach | simp only [State.keeps_mk]

theorem State.keeps_toSet {k t : Nat} (hk : σ.Keeps s) : σ.Keeps (State.toSet s k t) := by
  unfold State.toSet
  with_reducible repeat' first
    | assumption | (intro _) | apply State.keeps_fset | apply State.keeps_restartRefresh

theorem State.keeps_chainDown {k : Nat} {env : TrainEnv} {left : List LaneFail} (hk : σ.Keeps s) :
    σ.Keeps (State.chainDown s k env left) := by
  unfold State.chainDown
  extract_lets old bin r
  have h1 : σ.Keeps r.1 := State.keeps_fallback hk
  split
  · exact State.keeps_post (State.keeps_raise (State.keeps_toSet h1))
  · rename_i apart s' back _ _
    have h2 : σ.Keeps s' := State.keeps_forEach h1 fun t e ht => State.keeps_losePhysical ht
    have h3 : σ.Keeps back.1 := State.keeps_fallback h2
    split
    · exact .ite (State.keeps_toSet h3) (State.keeps_raise (State.keeps_toSet h3))
    · exact State.keeps_toSet h2

theorem State.keeps_chainAtTraining {k : Nat} {env : TrainEnv} (hk : σ.Keeps s) :
    σ.Keeps (State.chainAtTraining s k env) := by
  unfold State.chainAtTraining
  with_reducible repeat' first
    | assumption | (intro _)
    | (extract_lets +onlyGivenNames x; first | (refine State.Keeps.cut (σ := σ) (x := x) ?_ (fun hx => ?_); subst x; rotate_left; clear_value x; rotate_right) | (refine State.Keeps.cutP (σ := σ) (p := x) ?_ (fun hx => ?_); subst x; rotate_left; clear_value x; rotate_right) | clear_value x)
    | apply State.keeps_trainAt | apply State.keeps_chainDown | apply State.Keeps.ite

theorem State.keeps_trainStack {k : Nat} {env : TrainEnv} (hk : σ.Keeps s) : σ.Keeps (State.trainStack s k env) := by
  unfold State.trainStack
  with_reducible repeat' first
    | assumption | (intro _)
    | (extract_lets +onlyGivenNames x; first | (refine State.Keeps.cut (σ := σ) (x := x) ?_ (fun hx => ?_); subst x; rotate_left; clear_value x; rotate_right) | (refine State.Keeps.cutP (σ := σ) (p := x) ?_ (fun hx => ?_); subst x; rotate_left; clear_value x; rotate_right) | clear_value x)
    | apply State.keeps_fset | apply State.keeps_raise | apply State.keeps_forEach | apply State.keeps_writePatterns
    | apply State.keeps_loseLpc | apply State.keeps_restartRefresh | apply State.keeps_chainAtTraining
    | apply State.Keeps.ite

theorem State.keeps_setJob {k : Nat} {j : Option PhyJob} (hk : σ.Keeps s) : σ.Keeps (State.setJob s k j) := by
  unfold State.setJob
  with_reducible repeat' first
    | assumption | (intro _) | simp only [State.keeps_mk]

theorem State.keeps_lastTime {k began : Nat} (hk : σ.Keeps s) : σ.Keeps (State.lastTime s k began) := by
  unfold State.lastTime
  with_reducible repeat' first
    | assumption | (intro _) | apply State.keeps_fset

theorem State.keeps_jobEnds {k : Nat} (hk : σ.Keeps s) : σ.Keeps (State.jobEnds s k) := by
  unfold State.jobEnds
  with_reducible repeat' first
    | assumption | (intro _) | apply State.keeps_fset | apply State.keeps_settleMult | apply State.keeps_freeStack
    | apply State.keeps_setJob

theorem State.keeps_changeFails {k old t : Nat} (hk : σ.Keeps s) : σ.Keeps (State.changeFails s k old t) := by
  unfold State.changeFails
  with_reducible repeat' first
    | assumption | (intro _) | apply State.keeps_raise | apply State.keeps_post

theorem State.keeps_changeSet {k t : Nat} {env : TrainEnv} {began : Nat} (hk : σ.Keeps s) :
    σ.Keeps (State.changeSet s k t env began) := by
  unfold State.changeSet
  with_reducible repeat' first
    | assumption | (intro _)
    | (extract_lets +onlyGivenNames x; first | (refine State.Keeps.cut (σ := σ) (x := x) ?_ (fun hx => ?_); subst x; rotate_left; clear_value x; rotate_right) | (refine State.Keeps.cutP (σ := σ) (p := x) ?_ (fun hx => ?_); subst x; rotate_left; clear_value x; rotate_right) | clear_value x)
    | apply State.keeps_fset | apply State.keeps_post | apply State.keeps_trainAt | apply State.keeps_toSet
    | apply State.keeps_lastTime | apply State.keeps_jobEnds | apply State.keeps_changeFails | apply State.Keeps.ite

theorem State.keeps_resumeReplays {k : Nat} (hk : σ.Keeps s) : σ.Keeps (State.resumeReplays s k) := by
  unfold State.resumeReplays
  with_reducible repeat' first
    | assumption | (intro _) | apply State.keeps_modPcc | apply State.keeps_forEach

theorem State.keeps_runChain {k : Nat} {j : PhyJob} (hk : σ.Keeps s) : σ.Keeps (State.runChain s k j) := by
  unfold State.runChain
  with_reducible repeat' first
    | assumption | (intro _)
    | (extract_lets +onlyGivenNames x; first | (refine State.Keeps.cut (σ := σ) (x := x) ?_ (fun hx => ?_); subst x; rotate_left; clear_value x; rotate_right) | (refine State.Keeps.cutP (σ := σ) (p := x) ?_ (fun hx => ?_); subst x; rotate_left; clear_value x; rotate_right) | (refine State.KeepsO.cut (σ := σ) (o := x) ?_ (fun hx => ?_); subst x; rotate_left; clear_value x; rotate_right) | clear_value x)
    | apply State.keeps_fset | apply State.keeps_chainDown | apply State.keeps_setJob | apply State.keeps_lastTime
    | apply State.keeps_jobEnds | apply State.keeps_resumeReplays | simp only [State.keeps_mk] | (split)

theorem State.keeps_changeGo {k : Nat} (hk : σ.Keeps s) : σ.Keeps (State.changeGo s k) := by
  unfold State.changeGo
  with_reducible repeat' first
    | assumption | (intro _) | apply State.keeps_changeSet | apply State.Keeps.ite | (split)

theorem State.keeps_jobProceed {k : Nat} (hk : σ.Keeps s) : σ.Keeps (State.jobProceed s k) := by
  unfold State.jobProceed
  with_reducible repeat' first
    | assumption | (intro _) | apply State.keeps_changeSet | apply State.keeps_runChain | apply State.keeps_changeGo
    | apply State.Keeps.ite | (split)

theorem State.keeps_freqChange {k t : Nat} {env : TrainEnv} (hk : σ.Keeps s) : σ.Keeps (State.freqChange s k t env) := by
  unfold State.freqChange
  with_reducible repeat' first
    | assumption | (intro _)
    | (extract_lets +onlyGivenNames x; first | (refine State.Keeps.cut (σ := σ) (x := x) ?_ (fun hx => ?_); subst x; rotate_left; clear_value x; rotate_right) | (refine State.Keeps.cutP (σ := σ) (p := x) ?_ (fun hx => ?_); subst x; rotate_left; clear_value x; rotate_right) | (refine State.KeepsO.cut (σ := σ) (o := x) ?_ (fun hx => ?_); subst x; rotate_left; clear_value x; rotate_right) | clear_value x)
    | apply State.keeps_raise | apply State.keeps_holdStack | apply State.keeps_setJob | apply State.keeps_jobProceed
    | (apply State.KeepsO.of; assumption) | apply State.KeepsO.some | exact State.KeepsO.none | apply State.Keeps.ite

theorem State.keeps_tsetWrite {k t reg : Nat} {w : Word} (hk : σ.Keeps s) : σ.Keeps (State.tsetWrite s k t reg w) := by
  unfold State.tsetWrite
  with_reducible repeat' first
    | assumption | (intro _) | apply State.keeps_raise | apply State.keeps_putRw | apply State.Keeps.ite

theorem keeps_execTsetWrite {k : Fin 8} {t reg : Fin 4} {w : Word} (hk : σ.Keeps s) :
    σ.KeepsR (execTsetWrite k t reg w s) := by
  unfold execTsetWrite
  with_reducible repeat' first
    | assumption | (intro _) | apply State.keeps_cpStk | apply State.keeps_tsetWrite

theorem State.keeps_startChain {k p : Nat} {left : List LaneFail} {env : TrainEnv} (hk : σ.Keeps s) :
    σ.Keeps (State.startChain s k p left env) := by
  unfold State.startChain
  with_reducible repeat' first
    | assumption | (intro _)
    | (extract_lets +onlyGivenNames x; first | (refine State.Keeps.cut (σ := σ) (x := x) ?_ (fun hx => ?_); subst x; rotate_left; clear_value x; rotate_right) | (refine State.Keeps.cutP (σ := σ) (p := x) ?_ (fun hx => ?_); subst x; rotate_left; clear_value x; rotate_right) | (refine State.KeepsO.cut (σ := σ) (o := x) ?_ (fun hx => ?_); subst x; rotate_left; clear_value x; rotate_right) | clear_value x)
    | apply State.keeps_raise | apply State.keeps_modPcc | apply State.keeps_holdStack | apply State.keeps_setJob
    | apply State.keeps_jobProceed | (apply State.KeepsO.of; assumption) | apply State.KeepsO.some
    | exact State.KeepsO.none | simp only [State.keeps_mk] | apply State.Keeps.ite | (split)

theorem State.keeps_retrain {k p : Nat} {env : TrainEnv} (hk : σ.Keeps s) : σ.Keeps (State.retrain s k p env) := by
  unfold State.retrain
  with_reducible repeat' first
    | assumption | (intro _)
    | (extract_lets +onlyGivenNames x; first | (refine State.Keeps.cut (σ := σ) (x := x) ?_ (fun hx => ?_); subst x; rotate_left; clear_value x; rotate_right) | (refine State.Keeps.cutP (σ := σ) (p := x) ?_ (fun hx => ?_); subst x; rotate_left; clear_value x; rotate_right) | clear_value x)
    | apply State.keeps_spareLanes | apply State.keeps_startChain | apply State.Keeps.ite

theorem State.keeps_poisonPiece {k p : Nat} {q : Piece} (hk : σ.Keeps s) : σ.Keeps (State.poisonPiece s k p q) := by
  unfold State.poisonPiece
  with_reducible repeat' first
    | assumption | (intro _) | apply State.keeps_retire | apply State.keeps_setOpenAtoms

theorem State.keeps_salvageAtom {k p u : Nat} (hk : σ.Keeps s) : σ.Keeps (State.salvageAtom s k p u) := by
  unfold State.salvageAtom
  with_reducible repeat' first
    | assumption | (intro _)
    | (extract_lets +onlyGivenNames x; first | (refine State.Keeps.cut (σ := σ) (x := x) ?_ (fun hx => ?_); subst x; rotate_left; clear_value x; rotate_right) | (refine State.Keeps.cutP (σ := σ) (p := x) ?_ (fun hx => ?_); subst x; rotate_left; clear_value x; rotate_right) | (refine State.KeepsO.cut (σ := σ) (o := x) ?_ (fun hx => ?_); subst x; rotate_left; clear_value x; rotate_right) | clear_value x)
    | apply State.keeps_setMaskBit | apply State.keeps_setSalvage | apply State.keeps_loseLpc
    | (apply State.KeepsO.of; assumption) | apply State.KeepsO.some | exact State.KeepsO.none | apply State.Keeps.ite
    | (split)

theorem State.keeps_failRead {k p : Nat} {m : Cmd} (hk : σ.Keeps s) : σ.Keeps (State.failRead s k p m) := by
  unfold State.failRead
  with_reducible repeat' first
    | assumption | (intro _)
    | (extract_lets +onlyGivenNames x; first | (refine State.Keeps.cut (σ := σ) (x := x) ?_ (fun hx => ?_); subst x; rotate_left; clear_value x; rotate_right) | (refine State.Keeps.cutP (σ := σ) (p := x) ?_ (fun hx => ?_); subst x; rotate_left; clear_value x; rotate_right) | (refine State.KeepsO.cut (σ := σ) (o := x) ?_ (fun hx => ?_); subst x; rotate_left; clear_value x; rotate_right) | clear_value x)
    | apply State.keeps_modPcc | apply State.keeps_modPiece | apply State.keeps_take | apply State.keeps_goOn
    | simp only [State.keeps_mk] | apply State.Keeps.ite | (split)

theorem State.keeps_failCommand {k p : Nat} {m : Cmd} (hk : σ.Keeps s) : σ.Keeps (State.failCommand s k p m) := by
  unfold State.failCommand
  with_reducible repeat' first
    | assumption | (intro _) | apply State.keeps_salvageAtom | apply State.keeps_failRead | apply State.Keeps.ite | (split)

theorem State.keeps_commandError {k p : Nat} (hk : σ.Keeps s) : σ.Keeps (State.commandError s k p) := by
  unfold State.commandError
  with_reducible repeat' first
    | assumption | (intro _)
    | (extract_lets +onlyGivenNames x; first | (refine State.Keeps.cut (σ := σ) (x := x) ?_ (fun hx => ?_); subst x; rotate_left; clear_value x; rotate_right) | (refine State.Keeps.cutP (σ := σ) (p := x) ?_ (fun hx => ?_); subst x; rotate_left; clear_value x; rotate_right) | (refine State.KeepsO.cut (σ := σ) (o := x) ?_ (fun hx => ?_); subst x; rotate_left; clear_value x; rotate_right) | clear_value x)
    | apply State.keeps_raise | apply State.keeps_countSat | apply State.keeps_setMaskBit | apply State.keeps_post
    | apply State.keeps_modPcc | apply State.keeps_forEach | apply State.keeps_errLog | apply State.keeps_retireDue
    | apply State.keeps_losePcc | apply State.keeps_loseLpc | apply State.keeps_poisonPiece | apply State.keeps_failRead
    | (apply State.KeepsO.of; assumption) | apply State.KeepsO.some | exact State.KeepsO.none | simp only [State.keeps_mk]
    | apply State.Keeps.ite | (split)

theorem State.keeps_replayTakes {k p : Nat} (hk : σ.Keeps s) : σ.Keeps (State.replayTakes s k p) := by
  unfold State.replayTakes
  with_reducible repeat' first
    | assumption | (intro _)
    | (extract_lets +onlyGivenNames x; first | (refine State.Keeps.cut (σ := σ) (x := x) ?_ (fun hx => ?_); subst x; rotate_left; clear_value x; rotate_right) | (refine State.Keeps.cutP (σ := σ) (p := x) ?_ (fun hx => ?_); subst x; rotate_left; clear_value x; rotate_right) | (refine State.KeepsO.cut (σ := σ) (o := x) ?_ (fun hx => ?_); subst x; rotate_left; clear_value x; rotate_right) | clear_value x)
    | apply State.keeps_count | apply State.keeps_setPcc | apply State.keeps_modPiece | simp only [State.keeps_mk]
    | apply State.Keeps.ite | (split)

theorem State.keeps_halt {k p attempts : Nat} {env : TrainEnv} (hk : σ.Keeps s) :
    σ.Keeps (State.halt s k p attempts env) := by
  unfold State.halt
  with_reducible repeat' first
    | assumption | (intro _) | apply State.keeps_modPcc | apply State.keeps_replayTakes

theorem State.keeps_replayStep {k p : Nat} {env : TrainEnv} (hk : σ.Keeps s) : σ.Keeps (State.replayStep s k p env) := by
  unfold State.replayStep
  with_reducible repeat' first
    | assumption | (intro _)
    | (extract_lets +onlyGivenNames x; first | (refine State.Keeps.cut (σ := σ) (x := x) ?_ (fun hx => ?_); subst x; rotate_left; clear_value x; rotate_right) | (refine State.Keeps.cutP (σ := σ) (p := x) ?_ (fun hx => ?_); subst x; rotate_left; clear_value x; rotate_right) | (refine State.KeepsO.cut (σ := σ) (o := x) ?_ (fun hx => ?_); subst x; rotate_left; clear_value x; rotate_right) | clear_value x)
    | apply State.keeps_setPcc | apply State.keeps_failCommand | apply State.keeps_commandError | apply State.keeps_halt
    | simp only [State.keeps_mk] | apply State.Keeps.ite | (split)

theorem State.keeps_replayError {k p : Nat} {parity : Bool} {env : TrainEnv} (hk : σ.Keeps s) :
    σ.Keeps (State.replayError s k p parity env) := by
  unfold State.replayError
  with_reducible repeat' first
    | assumption | (intro _)
    | (extract_lets +onlyGivenNames x; first | (refine State.Keeps.cut (σ := σ) (x := x) ?_ (fun hx => ?_); subst x; rotate_left; clear_value x; rotate_right) | (refine State.Keeps.cutP (σ := σ) (p := x) ?_ (fun hx => ?_); subst x; rotate_left; clear_value x; rotate_right) | clear_value x)
    | apply State.keeps_count | apply State.keeps_replayStep | apply State.Keeps.ite

theorem keeps_execReplayError {k : Fin 8} {p : Fin 64} {parity : Bool} {env : TrainEnv} (hk : σ.Keeps s) :
    σ.KeepsR (execReplayError k p parity env s) := by
  unfold execReplayError
  with_reducible repeat' first
    | assumption | (intro _) | apply State.keeps_replayError | apply State.KeepsR.next | exact State.KeepsR.fault
    | apply State.Keeps.ite | (split)

theorem State.keeps_replayGo {k p slot : Nat} {r : Ready} (hk : σ.Keeps s) : σ.Keeps (State.replayGo s k p slot r) := by
  unfold State.replayGo
  with_reducible repeat' first
    | assumption | (intro _)
    | (extract_lets +onlyGivenNames x; first | (refine State.Keeps.cut (σ := σ) (x := x) ?_ (fun hx => ?_); subst x; rotate_left; clear_value x; rotate_right) | (refine State.Keeps.cutP (σ := σ) (p := x) ?_ (fun hx => ?_); subst x; rotate_left; clear_value x; rotate_right) | (refine State.KeepsO.cut (σ := σ) (o := x) ?_ (fun hx => ?_); subst x; rotate_left; clear_value x; rotate_right) | clear_value x)
    | apply State.keeps_count | apply State.keeps_modPcc | apply State.keeps_afterIssue
    | (apply State.KeepsO.of; assumption) | apply State.KeepsO.some | exact State.KeepsO.none | simp only [State.keeps_mk]
    | apply State.Keeps.ite | (split)

theorem State.keeps_replayIssue {k p slot : Nat} (hk : σ.Keeps s) : σ.Keeps (State.replayIssue s k p slot) := by
  unfold State.replayIssue
  with_reducible repeat' first
    | assumption | (intro _)
    | (extract_lets +onlyGivenNames x; first | (refine State.Keeps.cut (σ := σ) (x := x) ?_ (fun hx => ?_); subst x; rotate_left; clear_value x; rotate_right) | (refine State.Keeps.cutP (σ := σ) (p := x) ?_ (fun hx => ?_); subst x; rotate_left; clear_value x; rotate_right) | (refine State.KeepsO.cut (σ := σ) (o := x) ?_ (fun hx => ?_); subst x; rotate_left; clear_value x; rotate_right) | clear_value x)
    | apply State.keeps_replayGo | apply State.Keeps.ite | (split)

theorem State.keeps_wardenIssue {k p slot : Nat} (hk : σ.Keeps s) : σ.Keeps (State.wardenIssue s k p slot) := by
  unfold State.wardenIssue
  with_reducible repeat' first
    | assumption | (intro _) | apply State.keeps_runIssue | apply State.keeps_replayIssue | apply State.Keeps.ite

theorem keeps_execWardenIssue {k : Fin 8} {p : Fin 64} {slot : Nat} (hk : σ.Keeps s) :
    σ.KeepsR (execWardenIssue k p slot s) := by
  unfold execWardenIssue
  with_reducible repeat' first
    | assumption | (intro _) | apply State.keeps_wardenIssue | apply State.KeepsR.next

theorem State.keeps_replayNext {k p : Nat} (hk : σ.Keeps s) : σ.Keeps (State.replayNext s k p) := by
  unfold State.replayNext
  with_reducible repeat' first
    | assumption | (intro _)
    | (extract_lets +onlyGivenNames x; first | (refine State.Keeps.cut (σ := σ) (x := x) ?_ (fun hx => ?_); subst x; rotate_left; clear_value x; rotate_right) | (refine State.Keeps.cutP (σ := σ) (p := x) ?_ (fun hx => ?_); subst x; rotate_left; clear_value x; rotate_right) | clear_value x)
    | apply State.keeps_count | apply State.keeps_setPcc | apply State.keeps_retrain | apply State.keeps_halt
    | simp only [State.keeps_mk] | apply State.Keeps.ite | (split)

theorem keeps_execReplayDone {k : Fin 8} {p : Fin 64} (hk : σ.Keeps s) : σ.KeepsR (execReplayDone k p s) := by
  unfold execReplayDone
  with_reducible repeat' first
    | assumption | (intro _) | apply State.keeps_replayNext | apply State.KeepsR.next

theorem State.keeps_fretCmdInstall {k p u : Nat} (hk : σ.Keeps s) : σ.Keeps (State.fretCmdInstall s k p u) := by
  unfold State.fretCmdInstall
  with_reducible repeat' first
    | assumption | (intro _) | apply State.keeps_raise | apply State.keeps_fretDue | apply State.Keeps.ite

theorem keeps_execFretCmdInstall {k : Fin 8} {p : Fin 64} {u : BitVec 25} (hk : σ.Keeps s) :
    σ.KeepsR (execFretCmdInstall k p u s) := by
  unfold execFretCmdInstall
  with_reducible repeat' first
    | assumption | (intro _) | apply State.keeps_cpStk | apply State.keeps_fretCmdInstall

theorem State.keeps_fretCmdRemove {k p u : Nat} (hk : σ.Keeps s) : σ.Keeps (State.fretCmdRemove s k p u) := by
  unfold State.fretCmdRemove
  with_reducible repeat' first
    | assumption | (intro _)
    | (extract_lets +onlyGivenNames x; first | (refine State.Keeps.cut (σ := σ) (x := x) ?_ (fun hx => ?_); subst x; rotate_left; clear_value x; rotate_right) | (refine State.Keeps.cutP (σ := σ) (p := x) ?_ (fun hx => ?_); subst x; rotate_left; clear_value x; rotate_right) | (refine State.KeepsO.cut (σ := σ) (o := x) ?_ (fun hx => ?_); subst x; rotate_left; clear_value x; rotate_right) | clear_value x)
    | apply State.keeps_raise | apply State.keeps_fretPut | apply State.keeps_evaluate | apply State.Keeps.ite | (split)

theorem keeps_execFretCmdRemove {k : Fin 8} {p : Fin 64} {u : BitVec 25} (hk : σ.Keeps s) :
    σ.KeepsR (execFretCmdRemove k p u s) := by
  unfold execFretCmdRemove
  with_reducible repeat' first
    | assumption | (intro _) | apply State.keeps_cpStk | apply State.keeps_fretCmdRemove

theorem State.keeps_fretMake {k p : Nat} {f : FretJob} (hk : σ.Keeps s) : σ.Keeps (State.fretMake s k p f) := by
  unfold State.fretMake
  with_reducible repeat' first
    | assumption | (intro _)
    | (extract_lets +onlyGivenNames x; first | (refine State.Keeps.cut (σ := σ) (x := x) ?_ (fun hx => ?_); subst x; rotate_left; clear_value x; rotate_right) | (refine State.Keeps.cutP (σ := σ) (p := x) ?_ (fun hx => ?_); subst x; rotate_left; clear_value x; rotate_right) | clear_value x)
    | apply State.keeps_fset | apply State.keeps_raise | apply State.keeps_count | apply State.keeps_post
    | apply State.keeps_errLog

theorem keeps_execFretInstall {k : Fin 8} {p : Fin 64} (hk : σ.Keeps s) : σ.KeepsR (execFretInstall k p s) := by
  unfold execFretInstall
  with_reducible repeat' first
    | assumption | (intro _)
    | (extract_lets +onlyGivenNames x; first | (refine State.Keeps.cut (σ := σ) (x := x) ?_ (fun hx => ?_); subst x; rotate_left; clear_value x; rotate_right) | (refine State.Keeps.cutP (σ := σ) (p := x) ?_ (fun hx => ?_); subst x; rotate_left; clear_value x; rotate_right) | (refine State.KeepsO.cut (σ := σ) (o := x) ?_ (fun hx => ?_); subst x; rotate_left; clear_value x; rotate_right) | clear_value x)
    | apply State.keeps_modPcc | apply State.keeps_fretMake | simp only [State.keeps_mk] | apply State.KeepsR.next
    | exact State.KeepsR.fault | apply State.Keeps.ite | (split)

theorem State.keeps_historyClear {k p : Nat} (hk : σ.Keeps s) : σ.Keeps (State.historyClear s k p) := by
  unfold State.historyClear
  with_reducible repeat' first
    | assumption | (intro _) | apply State.keeps_fset | apply State.keeps_modPcc

theorem keeps_execHistoryClear {k : Fin 8} {p : Fin 64} (hk : σ.Keeps s) : σ.KeepsR (execHistoryClear k p s) := by
  unfold execHistoryClear
  with_reducible repeat' first
    | assumption | (intro _) | apply State.keeps_cpStk | apply State.keeps_historyClear

theorem State.keeps_migRetire {k l : Nat} (hk : σ.Keeps s) : σ.Keeps (State.migRetire s k l) := by
  unfold State.migRetire
  with_reducible repeat' first
    | assumption | (intro _) | apply State.keeps_raise | apply State.keeps_retireDue | apply State.Keeps.ite

theorem State.keeps_clearFret {k p : Nat} (hk : σ.Keeps s) : σ.Keeps (State.clearFret s k p) := by
  unfold State.clearFret
  with_reducible repeat' first
    | assumption | (intro _) | apply State.keeps_setReg | apply State.keeps_forEach

theorem State.keeps_migStart {k : Nat} {m : Mig} (hk : σ.Keeps s) : σ.Keeps (State.migStart s k m) := by
  unfold State.migStart
  with_reducible repeat' first
    | assumption | (intro _)
    | (extract_lets +onlyGivenNames x; first | (refine State.Keeps.cut (σ := σ) (x := x) ?_ (fun hx => ?_); subst x; rotate_left; clear_value x; rotate_right) | (refine State.Keeps.cutP (σ := σ) (p := x) ?_ (fun hx => ?_); subst x; rotate_left; clear_value x; rotate_right) | (refine State.KeepsO.cut (σ := σ) (o := x) ?_ (fun hx => ?_); subst x; rotate_left; clear_value x; rotate_right) | clear_value x)
    | apply State.keeps_fset | apply State.keeps_raise | apply State.keeps_post | apply State.keeps_setBow
    | apply State.keeps_setMig | apply State.keeps_retire | apply State.keeps_freeIng

theorem State.keeps_migSwap {k : Nat} {m : Mig} (hk : σ.Keeps s) : σ.Keeps (State.migSwap s k m) := by
  unfold State.migSwap
  with_reducible repeat' first
    | assumption | (intro _)
    | (extract_lets +onlyGivenNames x; first | (refine State.Keeps.cut (σ := σ) (x := x) ?_ (fun hx => ?_); subst x; rotate_left; clear_value x; rotate_right) | (refine State.Keeps.cutP (σ := σ) (p := x) ?_ (fun hx => ?_); subst x; rotate_left; clear_value x; rotate_right) | clear_value x)
    | apply State.keeps_fset | apply State.keeps_setMaskBit | apply State.keeps_post | apply State.keeps_modPcc
    | apply State.keeps_setSalvage | apply State.keeps_setZm | apply State.keeps_endMig | apply State.keeps_clearFret

theorem State.keeps_migProceed {k : Nat} (hk : σ.Keeps s) : σ.Keeps (State.migProceed s k) := by
  unfold State.migProceed
  with_reducible repeat' first
    | assumption | (intro _) | apply State.keeps_migStart | apply State.keeps_migSwap | apply State.Keeps.ite | (split)

theorem State.keeps_migHold {k : Nat} {m : Mig} (hk : σ.Keeps s) : σ.Keeps (State.migHold s k m) := by
  unfold State.migHold
  with_reducible repeat' first
    | assumption | (intro _) | apply State.keeps_setMig | apply State.keeps_retire | apply State.keeps_holdIng
    | apply State.keeps_migProceed

theorem State.keeps_migBegin {k l t : Nat} (hk : σ.Keeps s) : σ.Keeps (State.migBegin s k l t) := by
  unfold State.migBegin
  with_reducible repeat' first
    | assumption | (intro _)
    | (extract_lets +onlyGivenNames x; first | (refine State.Keeps.cut (σ := σ) (x := x) ?_ (fun hx => ?_); subst x; rotate_left; clear_value x; rotate_right) | (refine State.Keeps.cutP (σ := σ) (p := x) ?_ (fun hx => ?_); subst x; rotate_left; clear_value x; rotate_right) | (refine State.KeepsO.cut (σ := σ) (o := x) ?_ (fun hx => ?_); subst x; rotate_left; clear_value x; rotate_right) | clear_value x)
    | apply State.keeps_fset | apply State.keeps_raise | apply State.keeps_setMaskBit | apply State.keeps_modPcc
    | apply State.keeps_setMig | apply State.keeps_setZm | apply State.keeps_clearFret | apply State.keeps_migHold
    | simp only [State.keeps_mk] | apply State.Keeps.ite

theorem State.keeps_noSpare {k l : Nat} (hk : σ.Keeps s) : σ.Keeps (State.noSpare s k l) := by
  unfold State.noSpare
  with_reducible repeat' first
    | assumption | (intro _)
    | (extract_lets +onlyGivenNames x; first | (refine State.Keeps.cut (σ := σ) (x := x) ?_ (fun hx => ?_); subst x; rotate_left; clear_value x; rotate_right) | (refine State.Keeps.cutP (σ := σ) (p := x) ?_ (fun hx => ?_); subst x; rotate_left; clear_value x; rotate_right) | clear_value x)
    | apply State.keeps_raise | apply State.keeps_post | apply State.keeps_loseLpc | apply State.Keeps.ite

theorem keeps_execRetirementStart {k : Fin 8} (hk : σ.Keeps s) : σ.KeepsR (execRetirementStart k s) := by
  unfold execRetirementStart
  with_reducible repeat' first
    | assumption | (intro _)
    | (extract_lets +onlyGivenNames x; first | (refine State.Keeps.cut (σ := σ) (x := x) ?_ (fun hx => ?_); subst x; rotate_left; clear_value x; rotate_right) | (refine State.Keeps.cutP (σ := σ) (p := x) ?_ (fun hx => ?_); subst x; rotate_left; clear_value x; rotate_right) | (refine State.KeepsO.cut (σ := σ) (o := x) ?_ (fun hx => ?_); subst x; rotate_left; clear_value x; rotate_right) | clear_value x)
    | apply State.keeps_setMaskBit | apply State.keeps_migBegin | apply State.keeps_noSpare | apply State.KeepsR.next
    | exact State.KeepsR.fault | apply State.Keeps.ite | (split)

theorem keeps_execZmapClearDone {k : Fin 8} {p : Fin 64} (hk : σ.Keeps s) : σ.KeepsR (execZmapClearDone k p s) := by
  unfold execZmapClearDone
  with_reducible repeat' first
    | assumption | (intro _) | apply State.keeps_setZm | apply State.keeps_clearMap | apply State.keeps_migHold
    | apply State.KeepsR.next | exact State.KeepsR.fault | apply State.Keeps.ite | (split)

theorem State.keeps_chunkRead {k : Nat} {m : Mig} {c : Nat} (hk : σ.Keeps s) : σ.Keeps (State.chunkRead s k m c) := by
  unfold State.chunkRead
  with_reducible repeat' first
    | assumption | (intro _) | apply State.keeps_ownStart | apply State.Keeps.ite

theorem State.keeps_chunkWrite {k : Nat} {m : Mig} {c : Nat} {d : List (Atom × Bool)} (hk : σ.Keeps s) :
    σ.Keeps (State.chunkWrite s k m c d) := by
  unfold State.chunkWrite
  with_reducible repeat' first
    | assumption | (intro _)
    | (extract_lets +onlyGivenNames x; first | (refine State.Keeps.cut (σ := σ) (x := x) ?_ (fun hx => ?_); subst x; rotate_left; clear_value x; rotate_right) | (refine State.Keeps.cutP (σ := σ) (p := x) ?_ (fun hx => ?_); subst x; rotate_left; clear_value x; rotate_right) | (refine State.KeepsO.cut (σ := σ) (o := x) ?_ (fun hx => ?_); subst x; rotate_left; clear_value x; rotate_right) | clear_value x)
    | apply State.keeps_forEach | apply State.keeps_errLog | apply State.keeps_ownStart | apply State.keeps_ownDrop

theorem State.keeps_chunkDone {k : Nat} {m : Mig} {c : Nat} (hk : σ.Keeps s) : σ.Keeps (State.chunkDone s k m c) := by
  unfold State.chunkDone
  with_reducible repeat' first
    | assumption | (intro _)
    | (extract_lets +onlyGivenNames x; first | (refine State.Keeps.cut (σ := σ) (x := x) ?_ (fun hx => ?_); subst x; rotate_left; clear_value x; rotate_right) | (refine State.Keeps.cutP (σ := σ) (p := x) ?_ (fun hx => ?_); subst x; rotate_left; clear_value x; rotate_right) | (refine State.KeepsO.cut (σ := σ) (o := x) ?_ (fun hx => ?_); subst x; rotate_left; clear_value x; rotate_right) | clear_value x)
    | apply State.keeps_fset | apply State.keeps_count | apply State.keeps_setMig | apply State.keeps_retire
    | apply State.keeps_holdIng | apply State.keeps_migProceed | (apply State.KeepsO.of; assumption)
    | apply State.KeepsO.some | exact State.KeepsO.none | simp only [State.keeps_mk] | apply State.Keeps.ite

theorem State.keeps_migChunkDone {k : Nat} (hk : σ.Keeps s) : σ.Keeps (State.migChunkDone s k) := by
  unfold State.migChunkDone
  with_reducible repeat' first
    | assumption | (intro _) | apply State.keeps_dropReq | apply State.keeps_chunkWrite | apply State.keeps_chunkDone
    | (split)

theorem State.keeps_addrOrderWrite {w : Nat} (hk : σ.Keeps s) : σ.Keeps (State.addrOrderWrite s w) := by
  unfold State.addrOrderWrite
  with_reducible repeat' first
    | assumption | (intro _)
    | (extract_lets +onlyGivenNames x; first | (refine State.Keeps.cut (σ := σ) (x := x) ?_ (fun hx => ?_); subst x; rotate_left; clear_value x; rotate_right) | (refine State.Keeps.cutP (σ := σ) (p := x) ?_ (fun hx => ?_); subst x; rotate_left; clear_value x; rotate_right) | clear_value x)
    | apply State.keeps_fset | apply State.keeps_raise | apply State.Keeps.ite

theorem keeps_execAddrOrderWrite {w : Word} (hk : σ.Keeps s) : σ.KeepsR (execAddrOrderWrite w s) := by
  unfold execAddrOrderWrite
  with_reducible repeat' first
    | assumption | (intro _) | apply State.keeps_cpDo | apply State.keeps_addrOrderWrite

theorem State.keeps_editOpen {k : Nat} (hk : σ.Keeps s) : σ.Keeps (State.editOpen s k) := by
  unfold State.editOpen
  with_reducible repeat' first
    | assumption | (intro _) | apply State.keeps_raise | simp only [State.keeps_mk] | apply State.Keeps.ite

theorem keeps_execPcmapEditOpen {k : Fin 8} (hk : σ.Keeps s) : σ.KeepsR (execPcmapEditOpen k s) := by
  unfold execPcmapEditOpen
  with_reducible repeat' first
    | assumption | (intro _) | apply State.keeps_cpStk | apply State.keeps_editOpen

theorem State.keeps_entryWrite {k l w : Nat} (hk : σ.Keeps s) : σ.Keeps (State.entryWrite s k l w) := by
  unfold State.entryWrite
  with_reducible repeat' first
    | assumption | (intro _) | apply State.keeps_fset | apply State.Keeps.ite

theorem keeps_execPcmapEntryWrite {k : Fin 8} {l : Fin 64} {w : Word} (hk : σ.Keeps s) :
    σ.KeepsR (execPcmapEntryWrite k l w s) := by
  unfold execPcmapEntryWrite
  with_reducible repeat' first
    | assumption | (intro _) | apply State.keeps_cpStk | apply State.keeps_entryWrite

theorem State.keeps_failedWrite {k w : Nat} (hk : σ.Keeps s) : σ.Keeps (State.failedWrite s k w) := by
  unfold State.failedWrite
  with_reducible repeat' first
    | assumption | (intro _) | apply State.keeps_fset | apply State.Keeps.ite

theorem keeps_execPcmapFailedWrite {k : Fin 8} {w : Word} (hk : σ.Keeps s) : σ.KeepsR (execPcmapFailedWrite k w s) := by
  unfold execPcmapFailedWrite
  with_reducible repeat' first
    | assumption | (intro _) | apply State.keeps_cpStk | apply State.keeps_failedWrite

theorem State.keeps_mapRevert {k : Nat} {m : MapSave} (hk : σ.Keeps s) : σ.Keeps (State.mapRevert s k m) := by
  unfold State.mapRevert
  with_reducible repeat' first
    | assumption | (intro _)
    | (extract_lets +onlyGivenNames x; first | (refine State.Keeps.cut (σ := σ) (x := x) ?_ (fun hx => ?_); subst x; rotate_left; clear_value x; rotate_right) | (refine State.Keeps.cutP (σ := σ) (p := x) ?_ (fun hx => ?_); subst x; rotate_left; clear_value x; rotate_right) | clear_value x)
    | apply State.keeps_setReg | apply State.keeps_forEach

theorem State.keeps_editClose {k : Nat} (hk : σ.Keeps s) : σ.Keeps (State.editClose s k) := by
  unfold State.editClose
  with_reducible repeat' first
    | assumption | (intro _)
    | (extract_lets +onlyGivenNames x; first | (refine State.Keeps.cut (σ := σ) (x := x) ?_ (fun hx => ?_); subst x; rotate_left; clear_value x; rotate_right) | (refine State.Keeps.cutP (σ := σ) (p := x) ?_ (fun hx => ?_); subst x; rotate_left; clear_value x; rotate_right) | (refine State.KeepsO.cut (σ := σ) (o := x) ?_ (fun hx => ?_); subst x; rotate_left; clear_value x; rotate_right) | clear_value x)
    | apply State.keeps_fset | apply State.keeps_raise | apply State.keeps_mapRevert | simp only [State.keeps_mk]
    | apply State.Keeps.ite | (split)

theorem keeps_execPcmapEditClose {k : Fin 8} (hk : σ.Keeps s) : σ.KeepsR (execPcmapEditClose k s) := by
  unfold execPcmapEditClose
  with_reducible repeat' first
    | assumption | (intro _) | apply State.keeps_cpStk | apply State.keeps_editClose

theorem State.keeps_setWindow {k i : Nat} {w : Window} (hk : σ.Keeps s) : σ.Keeps (State.setWindow s k i w) := by
  unfold State.setWindow
  with_reducible repeat' first
    | assumption | (intro _) | simp only [State.keeps_mk]

theorem State.keeps_accCommit {k i : Nat} (hk : σ.Keeps s) : σ.Keeps (State.accCommit s k i) := by
  unfold State.accCommit
  with_reducible repeat' first
    | assumption | (intro _)
    | (extract_lets +onlyGivenNames x; first | (refine State.Keeps.cut (σ := σ) (x := x) ?_ (fun hx => ?_); subst x; rotate_left; clear_value x; rotate_right) | (refine State.Keeps.cutP (σ := σ) (p := x) ?_ (fun hx => ?_); subst x; rotate_left; clear_value x; rotate_right) | clear_value x)
    | apply State.keeps_raise | apply State.keeps_setWindow | apply State.Keeps.ite

theorem keeps_execAccCommit {k : Fin 8} {i : Fin 128} (hk : σ.Keeps s) : σ.KeepsR (execAccCommit k i s) := by
  unfold execAccCommit
  with_reducible repeat' first
    | assumption | (intro _) | apply State.keeps_cpStk | apply State.keeps_accCommit

theorem State.keeps_putMask {a : Nat → Nat → Nat} {k : Nat} {m : BitVec 256} (hk : σ.Keeps s) :
    σ.Keeps (State.putMask s a k m) := by
  unfold State.putMask
  with_reducible repeat' first
    | assumption | (intro _) | apply State.keeps_setReg | apply State.keeps_forEach

theorem State.keeps_accLoad {k i : Nat} (hk : σ.Keeps s) : σ.Keeps (State.accLoad s k i) := by
  unfold State.accLoad
  with_reducible repeat' first
    | assumption | (intro _)
    | (extract_lets +onlyGivenNames x; first | (refine State.Keeps.cut (σ := σ) (x := x) ?_ (fun hx => ?_); subst x; rotate_left; clear_value x; rotate_right) | (refine State.Keeps.cutP (σ := σ) (p := x) ?_ (fun hx => ?_); subst x; rotate_left; clear_value x; rotate_right) | clear_value x)
    | apply State.keeps_fset | apply State.keeps_putMask

theorem keeps_execAccLoad {k : Fin 8} {i : Fin 128} (hk : σ.Keeps s) : σ.KeepsR (execAccLoad k i s) := by
  unfold execAccLoad
  with_reducible repeat' first
    | assumption | (intro _) | apply State.keeps_cpStk | apply State.keeps_accLoad

theorem State.keeps_accClear {k i : Nat} (hk : σ.Keeps s) : σ.Keeps (State.accClear s k i) := by
  unfold State.accClear
  with_reducible repeat' first
    | assumption | (intro _) | apply State.keeps_raise | apply State.keeps_setWindow | apply State.Keeps.ite

theorem keeps_execAccClear {k : Fin 8} {i : Fin 128} (hk : σ.Keeps s) : σ.KeepsR (execAccClear k i s) := by
  unfold execAccClear
  with_reducible repeat' first
    | assumption | (intro _) | apply State.keeps_cpStk | apply State.keeps_accClear

theorem State.keeps_accLock (hk : σ.Keeps s) : σ.Keeps (State.accLock s) := by
  unfold State.accLock
  with_reducible repeat' first
    | assumption | (intro _) | apply State.keeps_raise | apply State.keeps_forEach | apply State.keeps_editClose

theorem keeps_execAccLockSet (hk : σ.Keeps s) : σ.KeepsR (execAccLockSet s) := by
  unfold execAccLockSet
  with_reducible repeat' first
    | assumption | (intro _) | apply State.keeps_cpDo | apply State.keeps_accLock

theorem State.keeps_setChk {u : Nat} {c : Chk} (hk : σ.Keeps s) : σ.Keeps (State.setChk s u c) := by
  unfold State.setChk
  with_reducible repeat' first
    | assumption | (intro _) | simp only [State.keeps_mk]

theorem State.keeps_chkLast {u c : Nat} (hk : σ.Keeps s) : σ.Keeps (State.chkLast s u c) := by
  unfold State.chkLast
  with_reducible repeat' first
    | assumption | (intro _) | apply State.keeps_fset

theorem State.keeps_chkOwner {u owner id : Nat} (hk : σ.Keeps s) : σ.Keeps (State.chkOwner s u owner id) := by
  unfold State.chkOwner
  with_reducible repeat' first
    | assumption | (intro _) | apply State.keeps_fset

theorem State.keeps_chkLatch {u : Nat} {st : ChkSt} {fold : Nat} (hk : σ.Keeps s) :
    σ.Keeps (State.chkLatch s u st fold) := by
  unfold State.chkLatch
  with_reducible repeat' first
    | assumption | (intro _)
    | (extract_lets +onlyGivenNames x; first | (refine State.Keeps.cut (σ := σ) (x := x) ?_ (fun hx => ?_); subst x; rotate_left; clear_value x; rotate_right) | (refine State.Keeps.cutP (σ := σ) (p := x) ?_ (fun hx => ?_); subst x; rotate_left; clear_value x; rotate_right) | clear_value x)
    | apply State.keeps_fset | apply State.keeps_setChk

theorem State.keeps_chkIdle {u last : Nat} (hk : σ.Keeps s) : σ.Keeps (State.chkIdle s u last) := by
  unfold State.chkIdle
  with_reducible repeat' first
    | assumption | (intro _) | apply State.keeps_setChk | apply State.keeps_chkLast | apply State.keeps_chkOwner
    | simp only [State.keeps_mk]

theorem State.keeps_noteScan {k : Nat} (hk : σ.Keeps s) : σ.Keeps (State.noteScan s k) := by
  unfold State.noteScan
  with_reducible repeat' first
    | assumption | (intro _) | apply State.keeps_fset

theorem State.keeps_chkStart {u : Nat} (hk : σ.Keeps s) : σ.Keeps (State.chkStart s u) := by
  unfold State.chkStart
  with_reducible repeat' first
    | assumption | (intro _) | apply State.keeps_chkLast | apply State.keeps_chkOwner | apply State.keeps_chkLatch
    | apply State.keeps_idle | apply State.Keeps.ite

theorem State.keeps_chkFinish {u : Nat} (hk : σ.Keeps s) : σ.Keeps (State.chkFinish s u) := by
  unfold State.chkFinish
  with_reducible repeat' first
    | assumption | (intro _) | apply State.keeps_fset | apply State.keeps_chkLast | apply State.keeps_chkIdle
    | apply State.keeps_idle | (split)

theorem keeps_execChkFinish {u : Fin 4} (hk : σ.Keeps s) : σ.KeepsR (execChkFinish u s) := by
  unfold execChkFinish
  with_reducible repeat' first
    | assumption | (intro _) | apply State.keeps_cpDo | apply State.keeps_chkFinish

theorem State.keeps_chkAbort {u : Nat} (hk : σ.Keeps s) : σ.Keeps (State.chkAbort s u) := by
  unfold State.chkAbort
  with_reducible repeat' first
    | assumption | (intro _) | apply State.keeps_chkLast | apply State.keeps_chkIdle | apply State.keeps_noteScan
    | apply State.keeps_idle | (split)

theorem keeps_execChkAbort {u : Fin 4} (hk : σ.Keeps s) : σ.KeepsR (execChkAbort u s) := by
  unfold execChkAbort
  with_reducible repeat' first
    | assumption | (intro _) | apply State.keeps_cpDo | apply State.keeps_chkAbort

theorem State.keeps_chkScan {u k : Nat} (hk : σ.Keeps s) : σ.Keeps (State.chkScan s u k) := by
  unfold State.chkScan
  with_reducible repeat' first
    | assumption | (intro _)
    | (extract_lets +onlyGivenNames x; first | (refine State.Keeps.cut (σ := σ) (x := x) ?_ (fun hx => ?_); subst x; rotate_left; clear_value x; rotate_right) | (refine State.Keeps.cutP (σ := σ) (p := x) ?_ (fun hx => ?_); subst x; rotate_left; clear_value x; rotate_right) | clear_value x)
    | apply State.keeps_setBow | apply State.keeps_chkLast | apply State.keeps_chkOwner | apply State.keeps_chkLatch
    | apply State.keeps_noteScan | apply State.keeps_idle | simp only [State.keeps_mk] | apply State.Keeps.ite

theorem keeps_execChkOpReserved {u : Fin 4} {op : Fin 3} (hk : σ.Keeps s) : σ.KeepsR (execChkOpReserved u op s) := by
  unfold execChkOpReserved
  with_reducible repeat' first
    | assumption | (intro _) | apply State.keeps_cpDo | apply State.keeps_chkLast

theorem State.keeps_feed {u n : Nat} {f : Chk → Chk} (hk : σ.Keeps s) : σ.Keeps (State.feed s u n f) := by
  unfold State.feed
  with_reducible repeat' first
    | assumption | (intro _) | apply State.keeps_fset | apply State.keeps_setChk | apply State.keeps_chkLast
    | apply State.keeps_idle | (split)

theorem State.keeps_feedB {u v : Nat} (hk : σ.Keeps s) : σ.Keeps (State.feedB s u v) := by
  unfold State.feedB
  with_reducible repeat' first
    | assumption | (intro _) | apply State.keeps_feed

theorem State.keeps_feedH {u v : Nat} (hk : σ.Keeps s) : σ.Keeps (State.feedH s u v) := by
  unfold State.feedH
  with_reducible repeat' first
    | assumption | (intro _) | apply State.keeps_feed

theorem State.keeps_feedW {u v : Nat} (hk : σ.Keeps s) : σ.Keeps (State.feedW s u v) := by
  unfold State.feedW
  with_reducible repeat' first
    | assumption | (intro _) | apply State.keeps_feed

theorem keeps_execFeedB {u : Fin 4} {b : BitVec 8} (hk : σ.Keeps s) : σ.KeepsR (execFeedB u b s) := by
  unfold execFeedB
  with_reducible repeat' first
    | assumption | (intro _) | apply State.keeps_cpDo | apply State.keeps_feedB

theorem keeps_execFeedH {u : Fin 4} {h : BitVec 32} (hk : σ.Keeps s) : σ.KeepsR (execFeedH u h s) := by
  unfold execFeedH
  with_reducible repeat' first
    | assumption | (intro _) | apply State.keeps_cpDo | apply State.keeps_feedH

theorem keeps_execFeedW {u : Fin 4} {w : Word} (hk : σ.Keeps s) : σ.KeepsR (execFeedW u w s) := by
  unfold execFeedW
  with_reducible repeat' first
    | assumption | (intro _) | apply State.keeps_cpDo | apply State.keeps_feedW

theorem State.keeps_chkConfig {u reg : Nat} {w : Word} (hk : σ.Keeps s) : σ.Keeps (State.chkConfig s u reg w) := by
  unfold State.chkConfig
  with_reducible repeat' first
    | assumption | (intro _) | apply State.keeps_putRw | apply State.keeps_chkLast | apply State.keeps_idle
    | apply State.Keeps.ite

theorem keeps_execChkConfigWrite {u : Fin 4} {reg : Fin 8} {w : Word} (hk : σ.Keeps s) :
    σ.KeepsR (execChkConfigWrite u reg w s) := by
  unfold execChkConfigWrite
  with_reducible repeat' first
    | assumption | (intro _) | apply State.keeps_cpDo | apply State.keeps_chkConfig

theorem State.keeps_scanHalt {u k a st : Nat} (hk : σ.Keeps s) : σ.Keeps (State.scanHalt s u k a st) := by
  unfold State.scanHalt
  with_reducible repeat' first
    | assumption | (intro _) | apply State.keeps_fset | apply State.keeps_post | apply State.keeps_chkIdle
    | apply State.keeps_noteScan

theorem State.keeps_scanEnd {u k : Nat} {stored : Option Nat} (hk : σ.Keeps s) : σ.Keeps (State.scanEnd s u k stored) := by
  unfold State.scanEnd
  with_reducible repeat' first
    | assumption | (intro _)
    | (extract_lets +onlyGivenNames x; first | (refine State.Keeps.cut (σ := σ) (x := x) ?_ (fun hx => ?_); subst x; rotate_left; clear_value x; rotate_right) | (refine State.Keeps.cutP (σ := σ) (p := x) ?_ (fun hx => ?_); subst x; rotate_left; clear_value x; rotate_right) | (refine State.KeepsO.cut (σ := σ) (o := x) ?_ (fun hx => ?_); subst x; rotate_left; clear_value x; rotate_right) | (have _f : State → _ := x; clear _f; subst x) | clear_value x)
    | apply State.keeps_fset | apply State.keeps_post | apply State.keeps_chkIdle | apply State.keeps_noteScan
    | (apply State.KeepsO.of; assumption) | apply State.KeepsO.some | exact State.KeepsO.none | apply State.Keeps.ite
    | (split)

theorem State.keeps_scanFinish {u k : Nat} (hk : σ.Keeps s) : σ.Keeps (State.scanFinish s u k) := by
  unfold State.scanFinish
  with_reducible repeat' first
    | assumption | (intro _)
    | (extract_lets +onlyGivenNames x; first | (refine State.Keeps.cut (σ := σ) (x := x) ?_ (fun hx => ?_); subst x; rotate_left; clear_value x; rotate_right) | (refine State.Keeps.cutP (σ := σ) (p := x) ?_ (fun hx => ?_); subst x; rotate_left; clear_value x; rotate_right) | (refine State.KeepsO.cut (σ := σ) (o := x) ?_ (fun hx => ?_); subst x; rotate_left; clear_value x; rotate_right) | clear_value x)
    | apply State.keeps_ownRead | apply State.keeps_scanHalt | apply State.keeps_scanEnd
    | (generalize hr : State.ownRead _ _ _ _ = r; obtain ⟨t, d⟩ := r; rcases d with ⟨d, _ | _⟩ | _ | _ | d | _ | _ <;> dsimp -zeta only)
    | apply State.Keeps.ite | (apply State.Keeps.fst; assumption)

theorem State.keeps_scanFeed {u a : Nat} {e : Nat × Req} {d : Atom} (hk : σ.Keeps s) :
    σ.Keeps (State.scanFeed s u a e d) := by
  unfold State.scanFeed
  with_reducible repeat' first
    | assumption | (intro _)
    | (extract_lets +onlyGivenNames x; first | (refine State.Keeps.cut (σ := σ) (x := x) ?_ (fun hx => ?_); subst x; rotate_left; clear_value x; rotate_right) | (refine State.Keeps.cutP (σ := σ) (p := x) ?_ (fun hx => ?_); subst x; rotate_left; clear_value x; rotate_right) | clear_value x)
    | apply State.keeps_fset | apply State.keeps_dropReq | apply State.keeps_setChk | simp only [State.keeps_mk]
    | apply State.Keeps.ite

theorem State.keeps_scanReturn {u : Nat} (hk : σ.Keeps s) : σ.Keeps (State.scanReturn s u) := by
  unfold State.scanReturn
  with_reducible repeat' first
    | assumption | (intro _)
    | (extract_lets +onlyGivenNames x; first | (refine State.Keeps.cut (σ := σ) (x := x) ?_ (fun hx => ?_); subst x; rotate_left; clear_value x; rotate_right) | (refine State.Keeps.cutP (σ := σ) (p := x) ?_ (fun hx => ?_); subst x; rotate_left; clear_value x; rotate_right) | (refine State.KeepsO.cut (σ := σ) (o := x) ?_ (fun hx => ?_); subst x; rotate_left; clear_value x; rotate_right) | clear_value x)
    | apply State.keeps_scanHalt | apply State.keeps_scanFinish | apply State.keeps_scanFeed | apply State.Keeps.ite
    | (apply State.Keeps.fst; assumption) | (split)

theorem keeps_execScanReadReturn {u : Fin 4} (hk : σ.Keeps s) : σ.KeepsR (execScanReadReturn u s) := by
  unfold execScanReadReturn
  with_reducible repeat' first
    | assumption | (intro _) | apply State.keeps_scanReturn | apply State.KeepsR.next

theorem State.keeps_setCanary {k : Nat} {c : CanarySt} (hk : σ.Keeps s) : σ.Keeps (State.setCanary s k c) := by
  unfold State.setCanary
  with_reducible repeat' first
    | assumption | (intro _) | apply State.keeps_setBow

theorem State.keeps_retainChunk {k i row : Nat} (hk : σ.Keeps s) : σ.KeepsO (State.retainChunk s k i row) := by
  unfold State.retainChunk
  with_reducible repeat' first
    | assumption | (intro _)
    | (extract_lets +onlyGivenNames x; first | (refine State.Keeps.cut (σ := σ) (x := x) ?_ (fun hx => ?_); subst x; rotate_left; clear_value x; rotate_right) | (refine State.Keeps.cutP (σ := σ) (p := x) ?_ (fun hx => ?_); subst x; rotate_left; clear_value x; rotate_right) | clear_value x)
    | apply State.keeps_toLane | apply State.keeps_setCanary | apply State.KeepsO.some | exact State.KeepsO.none
    | apply State.KeepsO.map | apply State.KeepsO.mapAll

theorem State.keeps_canaryChunk {k : Nat} (hk : σ.Keeps s) : σ.KeepsO (State.canaryChunk s k) := by
  unfold State.canaryChunk
  with_reducible repeat' first
    | assumption | (intro _) | apply State.keeps_toLane | apply State.keeps_canaryRead | apply State.keeps_setCanary
    | apply State.keeps_retainChunk | apply State.keeps_canaryWrite | apply State.keeps_idle | apply State.KeepsO.some
    | exact State.KeepsO.none | apply State.KeepsO.map | apply State.KeepsO.mapAll | apply State.Keeps.ite
    | (apply State.KeepsO.elim; assumption) | (split)

theorem State.keeps_sanChunk {k : Nat} (hk : σ.Keeps s) : σ.KeepsO (State.sanChunk s k) := by
  unfold State.sanChunk
  with_reducible repeat' first
    | assumption | (intro _)
    | (extract_lets +onlyGivenNames x; first | (refine State.Keeps.cut (σ := σ) (x := x) ?_ (fun hx => ?_); subst x; rotate_left; clear_value x; rotate_right) | (refine State.Keeps.cutP (σ := σ) (p := x) ?_ (fun hx => ?_); subst x; rotate_left; clear_value x; rotate_right) | clear_value x)
    | apply State.keeps_setBow | apply State.keeps_toLane | simp only [State.keeps_mk] | apply State.KeepsO.some
    | exact State.KeepsO.none | apply State.KeepsO.map | apply State.KeepsO.mapAll | apply State.Keeps.ite | (split)

theorem State.keeps_copyStart {k : Nat} (hk : σ.Keeps s) : σ.KeepsO (State.copyStart s k) := by
  unfold State.copyStart
  with_reducible repeat' first
    | assumption | (intro _)
    | (extract_lets +onlyGivenNames x; first | (refine State.Keeps.cut (σ := σ) (x := x) ?_ (fun hx => ?_); subst x; rotate_left; clear_value x; rotate_right) | (refine State.Keeps.cutP (σ := σ) (p := x) ?_ (fun hx => ?_); subst x; rotate_left; clear_value x; rotate_right) | (refine State.KeepsO.cut (σ := σ) (o := x) ?_ (fun hx => ?_); subst x; rotate_left; clear_value x; rotate_right) | clear_value x)
    | apply State.keeps_setBow | apply State.keeps_setMig | apply State.keeps_chunkRead
    | (apply State.KeepsO.of; assumption) | apply State.KeepsO.some | exact State.KeepsO.none | simp only [State.keeps_mk]
    | apply State.KeepsO.some | exact State.KeepsO.none | apply State.KeepsO.map | apply State.KeepsO.mapAll
    | apply State.Keeps.ite | (split)

theorem State.keeps_scanStart {k u : Nat} (hk : σ.Keeps s) : σ.KeepsO (State.scanStart s k u) := by
  unfold State.scanStart
  with_reducible repeat' first
    | assumption | (intro _)
    | (extract_lets +onlyGivenNames x; first | (refine State.Keeps.cut (σ := σ) (x := x) ?_ (fun hx => ?_); subst x; rotate_left; clear_value x; rotate_right) | (refine State.Keeps.cutP (σ := σ) (p := x) ?_ (fun hx => ?_); subst x; rotate_left; clear_value x; rotate_right) | clear_value x)
    | apply State.keeps_setBow | apply State.keeps_ownStart | apply State.keeps_setChk | apply State.keeps_started
    | simp only [State.keeps_mk] | apply State.KeepsO.some | exact State.KeepsO.none | apply State.KeepsO.map
    | apply State.KeepsO.mapAll | apply State.Keeps.ite | (split)

theorem State.keeps_scrubNextBank {k : Nat} (hk : σ.Keeps s) : σ.Keeps (State.scrubNextBank s k) := by
  unfold State.scrubNextBank
  with_reducible repeat' first
    | assumption | (intro _)
    | (extract_lets +onlyGivenNames x; first | (refine State.Keeps.cut (σ := σ) (x := x) ?_ (fun hx => ?_); subst x; rotate_left; clear_value x; rotate_right) | (refine State.Keeps.cutP (σ := σ) (p := x) ?_ (fun hx => ?_); subst x; rotate_left; clear_value x; rotate_right) | clear_value x)
    | apply State.keeps_fset | apply State.keeps_count | apply State.Keeps.ite

theorem State.keeps_scrubPast {k p : Nat} (hk : σ.Keeps s) : σ.Keeps (State.scrubPast s k p) := by
  unfold State.scrubPast
  with_reducible repeat' first
    | assumption | (intro _)
    | (extract_lets +onlyGivenNames x; first | (refine State.Keeps.cut (σ := σ) (x := x) ?_ (fun hx => ?_); subst x; rotate_left; clear_value x; rotate_right) | (refine State.Keeps.cutP (σ := σ) (p := x) ?_ (fun hx => ?_); subst x; rotate_left; clear_value x; rotate_right) | (refine State.KeepsO.cut (σ := σ) (o := x) ?_ (fun hx => ?_); subst x; rotate_left; clear_value x; rotate_right) | clear_value x)
    | apply State.keeps_fset | apply State.keeps_scrubNextBank | apply State.KeepsO.getD | (split)

theorem State.keeps_scrubStart {k : Nat} (hk : σ.Keeps s) : σ.KeepsO (State.scrubStart s k) := by
  unfold State.scrubStart
  with_reducible repeat' first
    | assumption | (intro _)
    | (extract_lets +onlyGivenNames x; first | (refine State.Keeps.cut (σ := σ) (x := x) ?_ (fun hx => ?_); subst x; rotate_left; clear_value x; rotate_right) | (refine State.Keeps.cutP (σ := σ) (p := x) ?_ (fun hx => ?_); subst x; rotate_left; clear_value x; rotate_right) | (refine State.KeepsO.cut (σ := σ) (o := x) ?_ (fun hx => ?_); subst x; rotate_left; clear_value x; rotate_right) | clear_value x)
    | apply State.keeps_setBow | apply State.keeps_toLane | apply State.keeps_scrubPast | simp only [State.keeps_mk]
    | apply State.KeepsO.some | exact State.KeepsO.none | apply State.KeepsO.map | apply State.KeepsO.mapAll
    | apply State.Keeps.ite | (split)

theorem keeps_orElse2 {a c : Option State} (hk : σ.KeepsO a) (h' : σ.KeepsO c) : σ.KeepsO (orElse2 a c) := by
  cases a with
  | none => exact h'
  | some t => exact hk

theorem State.keeps_bowChunk {k : Nat} (hk : σ.Keeps s) : σ.Keeps (State.bowChunk s k) := by
  unfold State.bowChunk
  with_reducible repeat' first
    | assumption | (intro _)
    | (extract_lets +onlyGivenNames x; first | (refine State.Keeps.cut (σ := σ) (x := x) ?_ (fun hx => ?_); subst x; rotate_left; clear_value x; rotate_right) | (refine State.Keeps.cutP (σ := σ) (p := x) ?_ (fun hx => ?_); subst x; rotate_left; clear_value x; rotate_right) | (refine State.KeepsO.cut (σ := σ) (o := x) ?_ (fun hx => ?_); subst x; rotate_left; clear_value x; rotate_right) | clear_value x)
    | apply State.keeps_canaryChunk | apply State.keeps_sanChunk | apply State.keeps_copyStart
    | apply State.keeps_scanStart | apply State.keeps_scrubStart | apply keeps_orElse2
    | (apply State.KeepsO.of; assumption) | apply State.KeepsO.some | exact State.KeepsO.none | apply State.keeps_foldl
    | apply State.keepsO_foldl | apply State.keepsP_foldl | apply State.KeepsO.getD | apply State.Keeps.ite
    | (apply State.KeepsO.elim; assumption) | (split)

theorem State.keeps_bowCfgWrite {k : Nat} {w : Word} (hk : σ.Keeps s) : σ.Keeps (State.bowCfgWrite s k w) := by
  unfold State.bowCfgWrite
  with_reducible repeat' first
    | assumption | (intro _)
    | (extract_lets +onlyGivenNames x; first | (refine State.Keeps.cut (σ := σ) (x := x) ?_ (fun hx => ?_); subst x; rotate_left; clear_value x; rotate_right) | (refine State.Keeps.cutP (σ := σ) (p := x) ?_ (fun hx => ?_); subst x; rotate_left; clear_value x; rotate_right) | clear_value x)
    | apply State.keeps_fset | apply State.keeps_setBow | apply State.keeps_putRw | simp only [State.keeps_mk]
    | apply State.Keeps.ite

theorem keeps_execScrubEnWrite {k : Fin 8} {w : Word} (hk : σ.Keeps s) : σ.KeepsR (execScrubEnWrite k w s) := by
  unfold execScrubEnWrite
  with_reducible repeat' first
    | assumption | (intro _) | apply State.keeps_cpStk | apply State.keeps_bowCfgWrite

theorem State.keeps_bowRefuse {k : Nat} (hk : σ.Keeps s) : σ.Keeps (State.bowRefuse s k) := by
  unfold State.bowRefuse
  with_reducible repeat' first
    | assumption | (intro _) | apply State.keeps_raise

theorem State.keeps_sanBegin {k : Nat} (hk : σ.Keeps s) : σ.Keeps (State.sanBegin s k) := by
  unfold State.sanBegin
  with_reducible repeat' first
    | assumption | (intro _)
    | (extract_lets +onlyGivenNames x; first | (refine State.Keeps.cut (σ := σ) (x := x) ?_ (fun hx => ?_); subst x; rotate_left; clear_value x; rotate_right) | (refine State.Keeps.cutP (σ := σ) (p := x) ?_ (fun hx => ?_); subst x; rotate_left; clear_value x; rotate_right) | clear_value x)
    | apply State.keeps_fset | apply State.keeps_raise | apply State.keeps_modPcc | apply State.keeps_setBow
    | apply State.keeps_forEach | apply State.keeps_clearFret

theorem State.keeps_bowSanitise {k : Nat} (hk : σ.Keeps s) : σ.Keeps (State.bowSanitise s k) := by
  unfold State.bowSanitise
  with_reducible repeat' first
    | assumption | (intro _) | apply State.keeps_bowRefuse | apply State.keeps_sanBegin | apply State.Keeps.ite

theorem State.keeps_sanDone {k : Nat} (hk : σ.Keeps s) : σ.KeepsO (State.sanDone s k) := by
  unfold State.sanDone
  with_reducible repeat' first
    | assumption | (intro _) | apply State.keeps_fset | apply State.keeps_post | apply State.KeepsO.some
    | exact State.KeepsO.none | apply State.Keeps.ite | (split)

theorem State.keeps_canaryWrite {k : Nat} (hk : σ.Keeps s) : σ.Keeps (State.canaryWrite s k) := by
  unfold State.canaryWrite
  with_reducible repeat' first
    | assumption | (intro _)
    | (extract_lets +onlyGivenNames x; first | (refine State.Keeps.cut (σ := σ) (x := x) ?_ (fun hx => ?_); subst x; rotate_left; clear_value x; rotate_right) | (refine State.Keeps.cutP (σ := σ) (p := x) ?_ (fun hx => ?_); subst x; rotate_left; clear_value x; rotate_right) | clear_value x)
    | apply State.keeps_fset | apply State.keeps_setBow

theorem State.keeps_bowCanaryWrite {k : Nat} (hk : σ.Keeps s) : σ.Keeps (State.bowCanaryWrite s k) := by
  unfold State.bowCanaryWrite
  with_reducible repeat' first
    | assumption | (intro _) | apply State.keeps_bowRefuse | apply State.keeps_canaryWrite | apply State.Keeps.ite

theorem State.keeps_canaryCheck {k : Nat} (hk : σ.Keeps s) : σ.Keeps (State.canaryCheck s k) := by
  unfold State.canaryCheck
  with_reducible repeat' first
    | assumption | (intro _)
    | (extract_lets +onlyGivenNames x; first | (refine State.Keeps.cut (σ := σ) (x := x) ?_ (fun hx => ?_); subst x; rotate_left; clear_value x; rotate_right) | (refine State.Keeps.cutP (σ := σ) (p := x) ?_ (fun hx => ?_); subst x; rotate_left; clear_value x; rotate_right) | clear_value x)
    | apply State.keeps_setReg | apply State.keeps_setBow | apply State.keeps_forEach

theorem State.keeps_bowCanaryCheck {k : Nat} (hk : σ.Keeps s) : σ.Keeps (State.bowCanaryCheck s k) := by
  unfold State.bowCanaryCheck
  with_reducible repeat' first
    | assumption | (intro _) | apply State.keeps_bowRefuse | apply State.keeps_canaryCheck | apply State.Keeps.ite

theorem State.keeps_canaryDone {k : Nat} (hk : σ.Keeps s) : σ.KeepsO (State.canaryDone s k) := by
  unfold State.canaryDone
  with_reducible repeat' first
    | assumption | (intro _)
    | (extract_lets +onlyGivenNames x; first | (refine State.Keeps.cut (σ := σ) (x := x) ?_ (fun hx => ?_); subst x; rotate_left; clear_value x; rotate_right) | (refine State.Keeps.cutP (σ := σ) (p := x) ?_ (fun hx => ?_); subst x; rotate_left; clear_value x; rotate_right) | (refine State.KeepsO.cut (σ := σ) (o := x) ?_ (fun hx => ?_); subst x; rotate_left; clear_value x; rotate_right) | clear_value x)
    | apply State.keeps_setCanary | apply State.keeps_idle | (apply State.KeepsO.of; assumption) | apply State.KeepsO.some
    | exact State.KeepsO.none | apply State.KeepsO.some | exact State.KeepsO.none | apply State.Keeps.ite | (split)

theorem State.keeps_noteDropped (hk : σ.Keeps s) : σ.Keeps (State.noteDropped s) := by
  unfold State.noteDropped
  with_reducible repeat' first
    | assumption | (intro _) | apply State.keeps_post | simp only [State.keeps_mk] | apply State.Keeps.ite

theorem State.keeps_popEvent (hk : σ.Keeps s) : σ.Keeps (State.popEvent s) := by
  unfold State.popEvent
  apply State.keeps_noteDropped
  have h1 : σ.Keeps (s.fset F.glbEvHead_HEAD (s.fget F.glbEvHead_HEAD + 1)) := State.keeps_fset hk
  refine ⟨hk.pending, fun h0 => ⟨(h1.formed h0).regs, (h1.formed h0).cells, ?_⟩⟩
  show (s.events.drop 1).length ≤ 64
  have := (hk.formed h0).events
  rw [List.length_drop]; omega

theorem State.keeps_recordWrite (hk : σ.Keeps s) : σ.Keeps (State.recordWrite s) := by
  unfold State.recordWrite
  with_reducible repeat' first
    | assumption | (intro _)
    | (extract_lets +onlyGivenNames x; first | (refine State.Keeps.cut (σ := σ) (x := x) ?_ (fun hx => ?_); subst x; rotate_left; clear_value x; rotate_right) | (refine State.Keeps.cutP (σ := σ) (p := x) ?_ (fun hx => ?_); subst x; rotate_left; clear_value x; rotate_right) | (refine State.KeepsO.cut (σ := σ) (o := x) ?_ (fun hx => ?_); subst x; rotate_left; clear_value x; rotate_right) | clear_value x)
    | apply State.keeps_countSat | apply State.keeps_serviceWrite | apply State.keeps_popEvent | apply State.Keeps.ite
    | (apply State.Keeps.fst; assumption) | (split)

theorem keeps_execEventRecordWrite (hk : σ.Keeps s) : σ.KeepsR (execEventRecordWrite s) := by
  unfold execEventRecordWrite
  with_reducible repeat' first
    | assumption | (intro _) | apply State.keeps_recordWrite | apply State.KeepsR.next

theorem keeps_execEventIrqAge (hk : σ.Keeps s) : σ.KeepsR (execEventIrqAge s) := by
  unfold execEventIrqAge
  with_reducible repeat' first
    | assumption | (intro _) | apply State.keeps_atCadence | apply State.KeepsO.bindK | apply State.KeepsO.bind
    | apply State.KeepsO.getD | apply State.KeepsR.next

theorem State.keeps_evCfgWrite {w : Nat} (hk : σ.Keeps s) : σ.Keeps (State.evCfgWrite s w) := by
  unfold State.evCfgWrite
  with_reducible repeat' first
    | assumption | (intro _)
    | (extract_lets +onlyGivenNames x; first | (refine State.Keeps.cut (σ := σ) (x := x) ?_ (fun hx => ?_); subst x; rotate_left; clear_value x; rotate_right) | (refine State.Keeps.cutP (σ := σ) (p := x) ?_ (fun hx => ?_); subst x; rotate_left; clear_value x; rotate_right) | clear_value x)
    | apply State.keeps_fset | apply State.keeps_raise | apply State.keeps_ownDrop | apply State.Keeps.ite

theorem keeps_execEvRingEnable {value : Word} (hk : σ.Keeps s) : σ.KeepsR (execEvRingEnable value s) := by
  unfold execEvRingEnable
  with_reducible repeat' first
    | assumption | (intro _) | apply State.keeps_cpDo | apply State.keeps_evCfgWrite

theorem State.keeps_evTailWrite {w : Nat} (hk : σ.Keeps s) : σ.Keeps (State.evTailWrite s w) := by
  unfold State.evTailWrite
  with_reducible repeat' first
    | assumption | (intro _)
    | (extract_lets +onlyGivenNames x; first | (refine State.Keeps.cut (σ := σ) (x := x) ?_ (fun hx => ?_); subst x; rotate_left; clear_value x; rotate_right) | (refine State.Keeps.cutP (σ := σ) (p := x) ?_ (fun hx => ?_); subst x; rotate_left; clear_value x; rotate_right) | clear_value x)
    | apply State.keeps_fset | apply State.keeps_raise | apply State.Keeps.ite

theorem keeps_execEvTailWrite {value : Word} (hk : σ.Keeps s) : σ.KeepsR (execEvTailWrite value s) := by
  unfold execEvTailWrite
  with_reducible repeat' first
    | assumption | (intro _) | apply State.keeps_cpDo | apply State.keeps_evTailWrite

theorem State.keeps_sweepStart (hk : σ.Keeps s) : σ.Keeps (State.sweepStart s) := by
  unfold State.sweepStart
  with_reducible repeat' first
    | assumption | (intro _) | apply State.keeps_raise | simp only [State.keeps_mk] | apply State.Keeps.ite

theorem keeps_execTallyGo (hk : σ.Keeps s) : σ.KeepsR (execTallyGo s) := by
  unfold execTallyGo
  with_reducible repeat' first
    | assumption | (intro _) | apply State.keeps_cpDo | apply State.keeps_sweepStart

theorem State.keeps_tallyPass (hk : σ.Keeps s) : σ.Keeps (State.tallyPass s) := by
  unfold State.tallyPass
  with_reducible repeat' first
    | assumption | (intro _)
    | (extract_lets +onlyGivenNames x; first | (refine State.Keeps.cut (σ := σ) (x := x) ?_ (fun hx => ?_); subst x; rotate_left; clear_value x; rotate_right) | (refine State.Keeps.cutP (σ := σ) (p := x) ?_ (fun hx => ?_); subst x; rotate_left; clear_value x; rotate_right) | clear_value x)
    | apply State.keeps_sweepStart | simp only [State.keeps_mk] | apply State.Keeps.ite

theorem keeps_execTallyPeriodic (hk : σ.Keeps s) : σ.KeepsR (execTallyPeriodic s) := by
  unfold execTallyPeriodic
  with_reducible repeat' first
    | assumption | (intro _) | apply State.keeps_atCadence | apply State.keeps_tallyPass | apply State.KeepsR.next
    | exact State.KeepsR.fault | apply State.Keeps.ite | (apply State.KeepsO.elim; assumption) | (split)

theorem State.keeps_talCfgWrite {w : Word} (hk : σ.Keeps s) : σ.Keeps (State.talCfgWrite s w) := by
  unfold State.talCfgWrite
  with_reducible repeat' first
    | assumption | (intro _) | apply State.keeps_putRw | simp only [State.keeps_mk]

theorem State.keeps_sweepSettle {w : Sweep} (hk : σ.Keeps s) : σ.Keeps (State.sweepSettle s w).1 := by
  unfold State.sweepSettle
  with_reducible repeat' first
    | assumption | (intro _) | apply State.keeps_dropReq | apply State.keeps_foldl | apply State.keepsO_foldl
    | apply State.keepsP_foldl | simp only [State.keeps_mk] | (split)

theorem State.keeps_sweepCounter {w : Sweep} {c : Nat} (hk : σ.Keeps s) : σ.Keeps (State.sweepCounter s w c) := by
  unfold State.sweepCounter
  with_reducible repeat' first
    | assumption | (intro _)
    | (extract_lets +onlyGivenNames x; first | (refine State.Keeps.cut (σ := σ) (x := x) ?_ (fun hx => ?_); subst x; rotate_left; clear_value x; rotate_right) | (refine State.Keeps.cutP (σ := σ) (p := x) ?_ (fun hx => ?_); subst x; rotate_left; clear_value x; rotate_right) | (refine State.KeepsO.cut (σ := σ) (o := x) ?_ (fun hx => ?_); subst x; rotate_left; clear_value x; rotate_right) | clear_value x)
    | apply State.keeps_serviceWrite | (apply State.KeepsO.of; assumption) | apply State.KeepsO.some
    | exact State.KeepsO.none | simp only [State.keeps_mk]

theorem State.keeps_sweepEnd {w : Sweep} (hk : σ.Keeps s) : σ.Keeps (State.sweepEnd s w) := by
  unfold State.sweepEnd
  with_reducible repeat' first
    | assumption | (intro _)
    | (extract_lets +onlyGivenNames x; first | (refine State.Keeps.cut (σ := σ) (x := x) ?_ (fun hx => ?_); subst x; rotate_left; clear_value x; rotate_right) | (refine State.Keeps.cutP (σ := σ) (p := x) ?_ (fun hx => ?_); subst x; rotate_left; clear_value x; rotate_right) | clear_value x)
    | apply State.keeps_fset | apply State.keeps_post | simp only [State.keeps_mk] | apply State.Keeps.ite

theorem State.keeps_sweepGo (hk : σ.Keeps s) : σ.Keeps (State.sweepGo s) := by
  unfold State.sweepGo
  with_reducible repeat' first
    | assumption | (intro _)
    | (extract_lets +onlyGivenNames x; first | (refine State.Keeps.cut (σ := σ) (x := x) ?_ (fun hx => ?_); subst x; rotate_left; clear_value x; rotate_right) | (refine State.Keeps.cutP (σ := σ) (p := x) ?_ (fun hx => ?_); subst x; rotate_left; clear_value x; rotate_right) | (refine State.KeepsO.cut (σ := σ) (o := x) ?_ (fun hx => ?_); subst x; rotate_left; clear_value x; rotate_right) | clear_value x)
    | apply State.keeps_serviceWrite | apply State.keeps_sweepSettle | apply State.keeps_sweepCounter
    | apply State.keeps_sweepEnd | apply State.keeps_opened | (apply State.KeepsO.of; assumption) | apply State.KeepsO.some
    | exact State.KeepsO.none | simp only [State.keeps_mk] | apply State.Keeps.ite | (apply State.Keeps.fst; assumption)
    | (split)

theorem State.keeps_enterGroup {g : Nat} (hk : σ.Keeps s) : σ.Keeps (State.enterGroup s g) := by
  unfold State.enterGroup
  with_reducible repeat' first
    | assumption | (intro _) | apply State.keeps_count

theorem State.keeps_watchTick {cycles : Nat} (hk : σ.Keeps s) : σ.Keeps (State.watchTick s cycles) := by
  unfold State.watchTick
  with_reducible repeat' first
    | assumption | (intro _)
    | (extract_lets +onlyGivenNames x; first | (refine State.Keeps.cut (σ := σ) (x := x) ?_ (fun hx => ?_); subst x; rotate_left; clear_value x; rotate_right) | (refine State.Keeps.cutP (σ := σ) (p := x) ?_ (fun hx => ?_); subst x; rotate_left; clear_value x; rotate_right) | clear_value x)
    | apply State.keeps_fset | simp only [State.keeps_mk] | apply State.Keeps.ite

theorem State.keeps_rtcTick {cycles : Nat} (hk : σ.Keeps s) : σ.Keeps (State.rtcTick s cycles) := by
  unfold State.rtcTick
  with_reducible repeat' first
    | assumption | (intro _) | apply State.keeps_fset | apply State.keeps_watchTick

theorem keeps_execSlowclkStopped (hk : σ.Keeps s) : σ.KeepsR (execSlowclkStopped s) := by
  unfold execSlowclkStopped
  with_reducible repeat' first
    | assumption | (intro _) | apply State.keeps_raise | simp only [State.keeps_mk] | apply State.KeepsR.next
    | exact State.KeepsR.fault | apply State.Keeps.ite

theorem State.keeps_convert {c : Nat} {v : Conv} (hk : σ.Keeps s) : σ.Keeps (State.convert s c v) := by
  unfold State.convert
  with_reducible repeat' first
    | assumption | (intro _)
    | (extract_lets +onlyGivenNames x; first | (refine State.Keeps.cut (σ := σ) (x := x) ?_ (fun hx => ?_); subst x; rotate_left; clear_value x; rotate_right) | (refine State.Keeps.cutP (σ := σ) (p := x) ?_ (fun hx => ?_); subst x; rotate_left; clear_value x; rotate_right) | clear_value x)
    | apply State.keeps_fset | apply State.keeps_raise | apply State.keeps_post | apply State.Keeps.ite | (split)

theorem State.keeps_tripCheck (hk : σ.Keeps s) : σ.Keeps (State.tripCheck s) := by
  unfold State.tripCheck
  with_reducible repeat' first
    | assumption | (intro _) | apply State.keeps_fset | apply State.keeps_raise | apply State.keeps_post
    | apply State.Keeps.ite | (split)

theorem State.keeps_dogResume {held : List Piece} {n : Nat} (hk : σ.Keeps s) : σ.Keeps (State.dogResume s held n) := by
  unfold State.dogResume
  with_reducible repeat' first
    | assumption | (intro _)
    | (extract_lets +onlyGivenNames x; first | (refine State.Keeps.cut (σ := σ) (x := x) ?_ (fun hx => ?_); subst x; rotate_left; clear_value x; rotate_right) | (refine State.Keeps.cutP (σ := σ) (p := x) ?_ (fun hx => ?_); subst x; rotate_left; clear_value x; rotate_right) | (refine State.KeepsO.cut (σ := σ) (o := x) ?_ (fun hx => ?_); subst x; rotate_left; clear_value x; rotate_right) | clear_value x)
    | apply State.keeps_foldl | apply State.keepsO_foldl | apply State.keepsP_foldl | simp only [State.keeps_mk] | (split)

theorem State.keeps_dogsResume {k : Nat} (hk : σ.Keeps s) : σ.Keeps (State.dogsResume s k) := by
  unfold State.dogsResume
  with_reducible repeat' first
    | assumption | (intro _)
    | (extract_lets +onlyGivenNames x; first | (refine State.Keeps.cut (σ := σ) (x := x) ?_ (fun hx => ?_); subst x; rotate_left; clear_value x; rotate_right) | (refine State.Keeps.cutP (σ := σ) (p := x) ?_ (fun hx => ?_); subst x; rotate_left; clear_value x; rotate_right) | clear_value x)
    | apply State.keeps_forEach | apply State.keeps_dogResume

theorem State.keeps_openWindow {k : Nat} (hk : σ.Keeps s) : σ.Keeps (State.openWindow s k) := by
  unfold State.openWindow
  with_reducible repeat' first
    | assumption | (intro _)
    | (extract_lets +onlyGivenNames x; first | (refine State.Keeps.cut (σ := σ) (x := x) ?_ (fun hx => ?_); subst x; rotate_left; clear_value x; rotate_right) | (refine State.Keeps.cutP (σ := σ) (p := x) ?_ (fun hx => ?_); subst x; rotate_left; clear_value x; rotate_right) | clear_value x)
    | apply State.keeps_fset | apply State.keeps_forEach | apply State.keeps_openPcc | apply State.keeps_dogsResume
    | simp only [State.keeps_mk]

theorem State.keeps_windowCheck {k : Nat} {was : List Nat} (hk : σ.Keeps s) : σ.Keeps (State.windowCheck s k was) := by
  unfold State.windowCheck
  with_reducible repeat' first
    | assumption | (intro _)
    | (extract_lets +onlyGivenNames x; first | (refine State.Keeps.cut (σ := σ) (x := x) ?_ (fun hx => ?_); subst x; rotate_left; clear_value x; rotate_right) | (refine State.Keeps.cutP (σ := σ) (p := x) ?_ (fun hx => ?_); subst x; rotate_left; clear_value x; rotate_right) | (refine State.KeepsO.cut (σ := σ) (o := x) ?_ (fun hx => ?_); subst x; rotate_left; clear_value x; rotate_right) | clear_value x)
    | apply State.keeps_raise | apply State.keeps_post | apply State.keeps_openWindow | apply State.KeepsO.getD
    | apply State.Keeps.ite | (split)

theorem State.keeps_reportLevels (hk : σ.Keeps s) : σ.Keeps (State.reportLevels s) := by
  unfold State.reportLevels
  with_reducible repeat' first
    | assumption | (intro _)
    | (extract_lets +onlyGivenNames x; first | (refine State.Keeps.cut (σ := σ) (x := x) ?_ (fun hx => ?_); subst x; rotate_left; clear_value x; rotate_right) | (refine State.Keeps.cutP (σ := σ) (p := x) ?_ (fun hx => ?_); subst x; rotate_left; clear_value x; rotate_right) | clear_value x)
    | apply State.keeps_fset | apply State.keeps_post | apply State.keeps_forEach | apply State.keeps_scaleNote
    | simp only [State.keeps_mk] | apply State.KeepsO.getD | apply State.Keeps.ite

theorem State.keeps_thermistor {i : Nat} {raw : Nat} (hk : σ.Keeps s) : σ.Keeps (State.thermistor s i raw) := by
  unfold State.thermistor
  with_reducible repeat' first
    | assumption | (intro _)
    | (extract_lets +onlyGivenNames x; first | (refine State.Keeps.cut (σ := σ) (x := x) ?_ (fun hx => ?_); subst x; rotate_left; clear_value x; rotate_right) | (refine State.Keeps.cutP (σ := σ) (p := x) ?_ (fun hx => ?_); subst x; rotate_left; clear_value x; rotate_right) | clear_value x)
    | apply State.keeps_fset | apply State.keeps_raise | apply State.keeps_post | apply State.Keeps.ite

theorem State.keeps_sample {diodes : List Conv} {therms : List (BitVec 16)} {cycles : Nat} (hk : σ.Keeps s) :
    σ.Keeps (State.sample s diodes therms cycles) := by
  unfold State.sample
  with_reducible repeat' first
    | assumption | (intro _)
    | (extract_lets +onlyGivenNames x; first | (refine State.Keeps.cut (σ := σ) (x := x) ?_ (fun hx => ?_); subst x; rotate_left; clear_value x; rotate_right) | (refine State.Keeps.cutP (σ := σ) (p := x) ?_ (fun hx => ?_); subst x; rotate_left; clear_value x; rotate_right) | clear_value x)
    | apply State.keeps_fset | apply State.keeps_forEach | apply State.keeps_take | apply State.keeps_settleMult
    | apply State.keeps_rtcTick | apply State.keeps_convert | apply State.keeps_tripCheck | apply State.keeps_windowCheck
    | apply State.keeps_reportLevels | apply State.keeps_thermistor | apply State.Keeps.ite

theorem State.keeps_lcCmd {w : Nat} (hk : σ.Keeps s) : σ.Keeps (State.lcCmd s w) := by
  unfold State.lcCmd
  with_reducible repeat' first
    | assumption | (intro _)
    | (extract_lets +onlyGivenNames x; first | (refine State.Keeps.cut (σ := σ) (x := x) ?_ (fun hx => ?_); subst x; rotate_left; clear_value x; rotate_right) | (refine State.Keeps.cutP (σ := σ) (p := x) ?_ (fun hx => ?_); subst x; rotate_left; clear_value x; rotate_right) | clear_value x)
    | apply State.keeps_fset | apply State.keeps_raise | simp only [State.keeps_mk] | apply State.Keeps.ite

theorem keeps_execLcCmd {value : Word} (hk : σ.Keeps s) : σ.KeepsR (execLcCmd value s) := by
  unfold execLcCmd
  with_reducible repeat' first
    | assumption | (intro _) | apply State.keeps_cpDo | apply State.keeps_lcCmd

theorem State.keeps_setPeg {i : Nat} {w : Word} (hk : σ.Keeps s) : σ.Keeps (State.setPeg s i w) := by
  unfold State.setPeg
  with_reducible repeat' first
    | assumption | (intro _) | simp only [State.keeps_mk]

theorem keeps_execFuseProgramDone (hk : σ.Keeps s) : σ.KeepsR (execFuseProgramDone s) := by
  unfold execFuseProgramDone
  with_reducible repeat' first
    | assumption | (intro _) | apply State.keeps_fset | apply State.keeps_setPeg | simp only [State.keeps_mk]
    | apply State.KeepsR.next | exact State.KeepsR.fault | apply State.Keeps.ite

theorem State.keeps_trimReload (hk : σ.Keeps s) : σ.Keeps (State.trimReload s) := by
  unfold State.trimReload
  with_reducible repeat' first
    | assumption | (intro _) | apply State.keeps_setReg | apply State.keeps_forEach

theorem keeps_execTrimReload (hk : σ.Keeps s) : σ.KeepsR (execTrimReload s) := by
  unfold execTrimReload
  with_reducible repeat' first
    | assumption | (intro _) | apply State.keeps_cpDo | apply State.keeps_trimReload

theorem State.keeps_trimProceed (hk : σ.Keeps s) : σ.Keeps (State.trimProceed s) := by
  unfold State.trimProceed
  with_reducible repeat' first
    | assumption | (intro _)
    | (extract_lets +onlyGivenNames x; first | (refine State.Keeps.cut (σ := σ) (x := x) ?_ (fun hx => ?_); subst x; rotate_left; clear_value x; rotate_right) | (refine State.Keeps.cutP (σ := σ) (p := x) ?_ (fun hx => ?_); subst x; rotate_left; clear_value x; rotate_right) | clear_value x)
    | apply State.keeps_setReg | apply State.keeps_fset | apply State.keeps_post | apply State.keeps_forEach
    | apply State.keeps_freeStack | apply State.keeps_jobProceed | apply State.Keeps.ite

theorem State.keeps_trimCommit (hk : σ.Keeps s) : σ.Keeps (State.trimCommit s) := by
  unfold State.trimCommit
  with_reducible repeat' first
    | assumption | (intro _) | apply State.keeps_raise | apply State.keeps_forEach | apply State.keeps_holdStack
    | apply State.keeps_trimProceed | apply State.Keeps.ite

theorem keeps_execTrimCommit (hk : σ.Keeps s) : σ.KeepsR (execTrimCommit s) := by
  unfold execTrimCommit
  with_reducible repeat' first
    | assumption | (intro _) | apply State.keeps_cpDo | apply State.keeps_trimCommit

theorem State.keeps_drainProceed {k : Nat} (hk : σ.Keeps s) : σ.Keeps (State.drainProceed s k) := by
  unfold State.drainProceed
  with_reducible repeat' first
    | assumption | (intro _) | apply State.keeps_jobProceed | apply State.keeps_migProceed | apply State.keeps_trimProceed

theorem keeps_execCapoDrained {k : Fin 8} {p : Fin 64} (hk : σ.Keeps s) : σ.KeepsR (execCapoDrained k p s) := by
  unfold execCapoDrained
  with_reducible repeat' first
    | assumption | (intro _) | apply State.keeps_modOut | apply State.keeps_drainProceed | simp only [State.keeps_mk]
    | apply State.KeepsR.next | exact State.KeepsR.fault | apply State.Keeps.ite

theorem State.keeps_coreReset {keep : Nat → Bool} (hk : σ.Keeps s) : σ.Keeps (State.coreReset s keep) := by
  refine ⟨hk.pending, fun h0 => ⟨SMap.wf_filter (hk.formed h0).regs _, (hk.formed h0).cells, ?_⟩⟩
  exact Nat.zero_le 64

theorem State.keeps_pegLoad (hk : σ.Keeps s) : σ.Keeps (State.pegLoad s) := by
  unfold State.pegLoad
  with_reducible repeat' first
    | assumption | (intro _)
    | (extract_lets +onlyGivenNames x; first | (refine State.Keeps.cut (σ := σ) (x := x) ?_ (fun hx => ?_); subst x; rotate_left; clear_value x; rotate_right) | (refine State.Keeps.cutP (σ := σ) (p := x) ?_ (fun hx => ?_); subst x; rotate_left; clear_value x; rotate_right) | clear_value x)
    | apply State.keeps_raise | apply State.keeps_post | apply State.keeps_freed | apply State.keeps_setPeg
    | simp only [State.keeps_mk] | apply State.Keeps.ite

theorem State.keeps_mapLoad {k : Nat} (hk : σ.Keeps s) : σ.Keeps (State.mapLoad s k) := by
  unfold State.mapLoad
  with_reducible repeat' first
    | assumption | (intro _)
    | (extract_lets +onlyGivenNames x; first | (refine State.Keeps.cut (σ := σ) (x := x) ?_ (fun hx => ?_); subst x; rotate_left; clear_value x; rotate_right) | (refine State.Keeps.cutP (σ := σ) (p := x) ?_ (fun hx => ?_); subst x; rotate_left; clear_value x; rotate_right) | (refine State.KeepsO.cut (σ := σ) (o := x) ?_ (fun hx => ?_); subst x; rotate_left; clear_value x; rotate_right) | clear_value x)
    | apply State.keeps_fset | apply State.keeps_forEach | apply State.Keeps.ite | (split)

theorem State.keeps_repairLane {used lane : Fld} {v : Nat} (hk : σ.Keeps s) : σ.Keeps (State.repairLane s used lane v) := by
  unfold State.repairLane
  with_reducible repeat' first
    | assumption | (intro _) | apply State.keeps_fset | apply State.keeps_raise | apply State.Keeps.ite

theorem State.keeps_repairChannel {k c : Nat} (hk : σ.Keeps s) : σ.Keeps (State.repairChannel s k c) := by
  unfold State.repairChannel
  with_reducible repeat' first
    | assumption | (intro _)
    | (extract_lets +onlyGivenNames x; first | (refine State.Keeps.cut (σ := σ) (x := x) ?_ (fun hx => ?_); subst x; rotate_left; clear_value x; rotate_right) | (refine State.Keeps.cutP (σ := σ) (p := x) ?_ (fun hx => ?_); subst x; rotate_left; clear_value x; rotate_right) | clear_value x)
    | apply State.keeps_repairLane

theorem State.keeps_lifecycleLoad (hk : σ.Keeps s) : σ.Keeps (State.lifecycleLoad s) := by
  unfold State.lifecycleLoad
  with_reducible repeat' first
    | assumption | (intro _)
    | (extract_lets +onlyGivenNames x; first | (refine State.Keeps.cut (σ := σ) (x := x) ?_ (fun hx => ?_); subst x; rotate_left; clear_value x; rotate_right) | (refine State.Keeps.cutP (σ := σ) (p := x) ?_ (fun hx => ?_); subst x; rotate_left; clear_value x; rotate_right) | clear_value x)
    | apply State.keeps_fset

theorem State.keeps_pegApply (hk : σ.Keeps s) : σ.Keeps (State.pegApply s) := by
  unfold State.pegApply
  with_reducible repeat' first
    | assumption | (intro _)
    | (extract_lets +onlyGivenNames x; first | (refine State.Keeps.cut (σ := σ) (x := x) ?_ (fun hx => ?_); subst x; rotate_left; clear_value x; rotate_right) | (refine State.Keeps.cutP (σ := σ) (p := x) ?_ (fun hx => ?_); subst x; rotate_left; clear_value x; rotate_right) | clear_value x)
    | apply State.keeps_setReg | apply State.keeps_forEach | apply State.keeps_pegLoad | apply State.keeps_mapLoad
    | apply State.keeps_repairChannel | apply State.keeps_lifecycleLoad | apply State.Keeps.ite

theorem State.keeps_imageSelect (hk : σ.Keeps s) : σ.Keeps (State.imageSelect s) := by
  unfold State.imageSelect
  with_reducible repeat' first
    | assumption | (intro _)
    | (extract_lets +onlyGivenNames x; first | (refine State.Keeps.cut (σ := σ) (x := x) ?_ (fun hx => ?_); subst x; rotate_left; clear_value x; rotate_right) | (refine State.Keeps.cutP (σ := σ) (p := x) ?_ (fun hx => ?_); subst x; rotate_left; clear_value x; rotate_right) | clear_value x)
    | apply State.keeps_fset | apply State.keeps_raise | apply State.keeps_post | apply State.Keeps.ite

theorem State.keeps_resetTrain {env : TrainEnv} (hk : σ.Keeps s) : σ.Keeps (State.resetTrain s env) := by
  unfold State.resetTrain
  with_reducible repeat' first
    | assumption | (intro _)
    | (extract_lets +onlyGivenNames x; first | (refine State.Keeps.cut (σ := σ) (x := x) ?_ (fun hx => ?_); subst x; rotate_left; clear_value x; rotate_right) | (refine State.Keeps.cutP (σ := σ) (p := x) ?_ (fun hx => ?_); subst x; rotate_left; clear_value x; rotate_right) | clear_value x)
    | apply State.keeps_forEach | apply State.keeps_trainStack | simp only [State.keeps_mk]

theorem State.keeps_scrubOn (hk : σ.Keeps s) : σ.Keeps (State.scrubOn s) := by
  unfold State.scrubOn
  with_reducible repeat' first
    | assumption | (intro _)
    | (extract_lets +onlyGivenNames x; first | (refine State.Keeps.cut (σ := σ) (x := x) ?_ (fun hx => ?_); subst x; rotate_left; clear_value x; rotate_right) | (refine State.Keeps.cutP (σ := σ) (p := x) ?_ (fun hx => ?_); subst x; rotate_left; clear_value x; rotate_right) | clear_value x)
    | apply State.keeps_fset | apply State.keeps_setBow | apply State.keeps_forEach

theorem State.keeps_resetDone (hk : σ.Keeps s) : σ.Keeps (State.resetDone s) := by
  unfold State.resetDone
  with_reducible repeat' first
    | assumption | (intro _)
    | (extract_lets +onlyGivenNames x; first | (refine State.Keeps.cut (σ := σ) (x := x) ?_ (fun hx => ?_); subst x; rotate_left; clear_value x; rotate_right) | (refine State.Keeps.cutP (σ := σ) (p := x) ?_ (fun hx => ?_); subst x; rotate_left; clear_value x; rotate_right) | clear_value x)
    | apply State.keeps_raise | apply State.keeps_post | apply State.keeps_scrubOn

theorem State.keeps_resetSanitise (hk : σ.Keeps s) : σ.Keeps (State.resetSanitise s) := by
  unfold State.resetSanitise
  with_reducible repeat' first
    | assumption | (intro _) | apply State.keeps_fset | apply State.keeps_raise | apply State.keeps_forEach
    | apply State.keeps_sanBegin | apply State.keeps_resetDone | apply State.Keeps.ite

theorem State.keeps_fullReset {cause : Nat} {env : TrainEnv} (hk : σ.Keeps s) : σ.Keeps (State.fullReset s cause env) := by
  unfold State.fullReset
  with_reducible repeat' first
    | assumption | (intro _)
    | (extract_lets +onlyGivenNames x; first | (refine State.Keeps.cut (σ := σ) (x := x) ?_ (fun hx => ?_); subst x; rotate_left; clear_value x; rotate_right) | (refine State.Keeps.cutP (σ := σ) (p := x) ?_ (fun hx => ?_); subst x; rotate_left; clear_value x; rotate_right) | (refine State.KeepsO.cut (σ := σ) (o := x) ?_ (fun hx => ?_); subst x; rotate_left; clear_value x; rotate_right) | clear_value x)
    | apply State.keeps_fset | apply State.keeps_forEach | apply State.keeps_settleMult | apply State.keeps_enterGroup
    | apply State.keeps_coreReset | apply State.keeps_pegApply | apply State.keeps_imageSelect
    | apply State.keeps_resetTrain | apply State.keeps_resetSanitise | simp only [State.keeps_mk] | apply State.Keeps.ite

theorem State.keeps_resetWrite {w : Nat} {env : TrainEnv} (hk : σ.Keeps s) : σ.Keeps (State.resetWrite s w env) := by
  unfold State.resetWrite
  with_reducible repeat' first
    | assumption | (intro _) | apply State.keeps_fullReset | apply State.Keeps.ite

theorem keeps_execResetCmd {value : Word} {env : TrainEnv} (hk : σ.Keeps s) : σ.KeepsR (execResetCmd value env s) := by
  unfold execResetCmd
  with_reducible repeat' first
    | assumption | (intro _) | apply State.keeps_cpDo | apply State.keeps_resetWrite

theorem keeps_execCorePowerOn {env : TrainEnv} (hk : σ.Keeps s) : σ.KeepsR (execCorePowerOn env s) := by
  unfold execCorePowerOn
  with_reducible repeat' first
    | assumption | (intro _)
    | (extract_lets +onlyGivenNames x; first | (refine State.Keeps.cut (σ := σ) (x := x) ?_ (fun hx => ?_); subst x; rotate_left; clear_value x; rotate_right) | (refine State.Keeps.cutP (σ := σ) (p := x) ?_ (fun hx => ?_); subst x; rotate_left; clear_value x; rotate_right) | clear_value x)
    | apply State.keeps_fullReset | simp only [State.keeps_mk] | apply State.KeepsR.next | exact State.KeepsR.fault
    | apply State.Keeps.ite

theorem keeps_execSanitiseDone {k : Fin 8} (hk : σ.Keeps s) : σ.KeepsR (execSanitiseDone k s) := by
  unfold execSanitiseDone
  with_reducible repeat' first
    | assumption | (intro _) | apply State.keeps_fset | apply State.keeps_sanDone | apply State.keeps_resetDone
    | apply State.KeepsR.next | exact State.KeepsR.fault | apply State.Keeps.ite | (apply State.KeepsO.elim; assumption)
    | (split)

theorem State.keeps_ucodeData {w : Word} (hk : σ.Keeps s) : σ.Keeps (State.ucodeData s w) := by
  unfold State.ucodeData
  with_reducible repeat' first
    | assumption | (intro _)
    | (extract_lets +onlyGivenNames x; first | (refine State.Keeps.cut (σ := σ) (x := x) ?_ (fun hx => ?_); subst x; rotate_left; clear_value x; rotate_right) | (refine State.Keeps.cutP (σ := σ) (p := x) ?_ (fun hx => ?_); subst x; rotate_left; clear_value x; rotate_right) | clear_value x)
    | apply State.keeps_fset | simp only [State.keeps_mk] | apply State.Keeps.ite

theorem keeps_execUcodeDataWrite {value : Word} (hk : σ.Keeps s) : σ.KeepsR (execUcodeDataWrite value s) := by
  unfold execUcodeDataWrite
  with_reducible repeat' first
    | assumption | (intro _) | apply State.keeps_cpDo | apply State.keeps_ucodeData

theorem State.keeps_pwrRefuse {reason : Nat} (hk : σ.Keeps s) : σ.Keeps (State.pwrRefuse s reason) := by
  unfold State.pwrRefuse
  with_reducible repeat' first
    | assumption | (intro _) | apply State.keeps_fset | apply State.keeps_raise

theorem State.keeps_scrubOff (hk : σ.Keeps s) : σ.Keeps (State.scrubOff s) := by
  unfold State.scrubOff
  with_reducible repeat' first
    | assumption | (intro _) | apply State.keeps_fset | apply State.keeps_forEach

theorem State.keeps_pwrQuiet (hk : σ.Keeps s) : σ.Keeps (State.pwrQuiet s) := by
  unfold State.pwrQuiet
  with_reducible repeat' first
    | assumption | (intro _)
    | (extract_lets +onlyGivenNames x; first | (refine State.Keeps.cut (σ := σ) (x := x) ?_ (fun hx => ?_); subst x; rotate_left; clear_value x; rotate_right) | (refine State.Keeps.cutP (σ := σ) (p := x) ?_ (fun hx => ?_); subst x; rotate_left; clear_value x; rotate_right) | clear_value x)
    | apply State.keeps_pwrRefuse | apply State.keeps_scrubOff | simp only [State.keeps_mk] | apply State.Keeps.ite

theorem keeps_execPwrQuiet (hk : σ.Keeps s) : σ.KeepsR (execPwrQuiet s) := by
  unfold execPwrQuiet
  with_reducible repeat' first
    | assumption | (intro _) | apply State.keeps_cpDo | apply State.keeps_pwrQuiet

theorem keeps_execQuietEntryDone (hk : σ.Keeps s) : σ.KeepsR (execQuietEntryDone s) := by
  unfold execQuietEntryDone
  with_reducible repeat' first
    | assumption | (intro _)
    | (extract_lets +onlyGivenNames x; first | (refine State.Keeps.cut (σ := σ) (x := x) ?_ (fun hx => ?_); subst x; rotate_left; clear_value x; rotate_right) | (refine State.Keeps.cutP (σ := σ) (p := x) ?_ (fun hx => ?_); subst x; rotate_left; clear_value x; rotate_right) | clear_value x)
    | apply State.keeps_modPcc | apply State.keeps_forEach | apply State.keeps_enterGroup | simp only [State.keeps_mk]
    | apply State.KeepsR.next | exact State.KeepsR.fault | apply State.Keeps.ite

theorem State.keeps_wakeStatus {src left : Nat} (hk : σ.Keeps s) : σ.Keeps (State.wakeStatus s src left) := by
  unfold State.wakeStatus
  with_reducible repeat' first
    | assumption | (intro _) | apply State.keeps_fset

theorem State.keeps_quietExit {src : Nat} (hk : σ.Keeps s) : σ.Keeps (State.quietExit s src) := by
  unfold State.quietExit
  with_reducible repeat' first
    | assumption | (intro _)
    | (extract_lets +onlyGivenNames x; first | (refine State.Keeps.cut (σ := σ) (x := x) ?_ (fun hx => ?_); subst x; rotate_left; clear_value x; rotate_right) | (refine State.Keeps.cutP (σ := σ) (p := x) ?_ (fun hx => ?_); subst x; rotate_left; clear_value x; rotate_right) | clear_value x)
    | apply State.keeps_post | apply State.keeps_enterGroup | apply State.keeps_scrubOn | apply State.keeps_wakeStatus
    | simp only [State.keeps_mk]

theorem State.keeps_started (hk : σ.Keeps s) : σ.Keeps (State.started s) := by
  unfold State.started
  with_reducible repeat' first
    | assumption | (intro _) | apply State.keeps_quietExit | apply State.Keeps.ite

theorem State.keeps_pwrActive (hk : σ.Keeps s) : σ.Keeps (State.pwrActive s) := by
  unfold State.pwrActive
  with_reducible repeat' first
    | assumption | (intro _) | apply State.keeps_pwrRefuse | apply State.keeps_quietExit | apply State.Keeps.ite

theorem keeps_execPwrActive (hk : σ.Keeps s) : σ.KeepsR (execPwrActive s) := by
  unfold execPwrActive
  with_reducible repeat' first
    | assumption | (intro _) | apply State.keeps_cpDo | apply State.keeps_pwrActive

theorem keeps_execPwrCmdReserved {op : Fin 3} (hk : σ.Keeps s) : σ.KeepsR (execPwrCmdReserved op s) := by
  unfold execPwrCmdReserved
  with_reducible repeat' first
    | assumption | (intro _) | apply State.keeps_cpDo | apply State.keeps_pwrRefuse

theorem State.keeps_portWrite {n w : Nat} (hk : σ.Keeps s) : σ.Keeps (State.portWrite s n w) := by
  unfold State.portWrite
  with_reducible repeat' first
    | assumption | (intro _) | apply State.keeps_portCfgWrite | apply State.keeps_started | apply State.Keeps.ite

theorem keeps_execPortEnable {n : Fin 113} {w : Word} (hk : σ.Keeps s) : σ.KeepsR (execPortEnable n w s) := by
  unfold execPortEnable
  with_reducible repeat' first
    | assumption | (intro _) | apply State.keeps_cpDo | apply State.keeps_portWrite

theorem keeps_execFreqChange {k : Fin 8} {t : Fin 4} {env : TrainEnv} (hk : σ.Keeps s) :
    σ.KeepsR (execFreqChange k t env s) := by
  unfold execFreqChange
  with_reducible repeat' first
    | assumption | (intro _) | apply State.keeps_cpStk | apply State.keeps_freqChange | apply State.keeps_started

theorem keeps_execMigRetireCmd {k : Fin 8} {l : Fin 64} (hk : σ.Keeps s) : σ.KeepsR (execMigRetireCmd k l s) := by
  unfold execMigRetireCmd
  with_reducible repeat' first
    | assumption | (intro _) | apply State.keeps_cpStk | apply State.keeps_migRetire | apply State.keeps_started

theorem keeps_execChkStart {u : Fin 4} (hk : σ.Keeps s) : σ.KeepsR (execChkStart u s) := by
  unfold execChkStart
  with_reducible repeat' first
    | assumption | (intro _) | apply State.keeps_cpDo | apply State.keeps_chkStart | apply State.keeps_started

theorem keeps_execChkScan {u : Fin 4} {k : Fin 8} (hk : σ.Keeps s) : σ.KeepsR (execChkScan u k s) := by
  unfold execChkScan
  with_reducible repeat' first
    | assumption | (intro _) | apply State.keeps_cpDo | apply State.keeps_chkScan | apply State.keeps_started

theorem keeps_execBowSanitise {k : Fin 8} (hk : σ.Keeps s) : σ.KeepsR (execBowSanitise k s) := by
  unfold execBowSanitise
  with_reducible repeat' first
    | assumption | (intro _) | apply State.keeps_cpStk | apply State.keeps_bowSanitise | apply State.keeps_started

theorem keeps_execBowCanaryWrite {k : Fin 8} (hk : σ.Keeps s) : σ.KeepsR (execBowCanaryWrite k s) := by
  unfold execBowCanaryWrite
  with_reducible repeat' first
    | assumption | (intro _) | apply State.keeps_cpStk | apply State.keeps_bowCanaryWrite | apply State.keeps_started

theorem keeps_execBowCanaryCheck {k : Fin 8} (hk : σ.Keeps s) : σ.KeepsR (execBowCanaryCheck k s) := by
  unfold execBowCanaryCheck
  with_reducible repeat' first
    | assumption | (intro _) | apply State.keeps_cpStk | apply State.keeps_bowCanaryCheck | apply State.keeps_started

theorem State.keeps_flushStreams (hk : σ.Keeps s) : σ.Keeps (State.flushStreams s) := by
  unfold State.flushStreams
  with_reducible repeat' first
    | assumption | (intro _) | apply State.keeps_forEach | apply State.keeps_writeback | apply State.Keeps.ite

theorem State.keeps_flushLines {k : Nat} (hk : σ.Keeps s) : σ.Keeps (State.flushLines s k) := by
  unfold State.flushLines
  with_reducible repeat' first
    | assumption | (intro _) | apply State.keeps_forEach | apply State.keeps_zmFlush

theorem State.keeps_wakeBegin {src : Nat} (hk : σ.Keeps s) : σ.Keeps (State.wakeBegin s src) := by
  unfold State.wakeBegin
  with_reducible repeat' first
    | assumption | (intro _) | simp only [State.keeps_mk]

theorem State.keeps_retainEnd {rtc : Nat} (hk : σ.Keeps s) : σ.Keeps (State.retainEnd s rtc) := by
  unfold State.retainEnd
  with_reducible repeat' first
    | assumption | (intro _)
    | (extract_lets +onlyGivenNames x; first | (refine State.Keeps.cut (σ := σ) (x := x) ?_ (fun hx => ?_); subst x; rotate_left; clear_value x; rotate_right) | (refine State.Keeps.cutP (σ := σ) (p := x) ?_ (fun hx => ?_); subst x; rotate_left; clear_value x; rotate_right) | clear_value x)
    | apply State.keeps_enterGroup | apply State.keeps_coreReset | apply State.keeps_wakeBegin | simp only [State.keeps_mk]
    | apply State.Keeps.ite

theorem State.keeps_padsLatch (hk : σ.Keeps s) : σ.Keeps (State.padsLatch s) := by
  unfold State.padsLatch
  with_reducible repeat' first
    | assumption | (intro _) | apply State.keeps_raise | simp only [State.keeps_mk]

theorem State.keeps_retainImage (hk : σ.Keeps s) : σ.Keeps (State.retainImage s) := by
  unfold State.retainImage
  with_reducible repeat' first
    | assumption | (intro _)
    | (extract_lets +onlyGivenNames x; first | (refine State.Keeps.cut (σ := σ) (x := x) ?_ (fun hx => ?_); subst x; rotate_left; clear_value x; rotate_right) | (refine State.Keeps.cutP (σ := σ) (p := x) ?_ (fun hx => ?_); subst x; rotate_left; clear_value x; rotate_right) | (refine State.KeepsO.cut (σ := σ) (o := x) ?_ (fun hx => ?_); subst x; rotate_left; clear_value x; rotate_right) | clear_value x)
    | apply State.keeps_padsLatch | (apply State.KeepsO.of; assumption) | apply State.KeepsO.some | exact State.KeepsO.none
    | simp only [State.keeps_mk] | apply State.Keeps.ite

theorem State.keeps_goOff (hk : σ.Keeps s) : σ.Keeps (State.goOff s) := by
  unfold State.goOff
  apply State.keeps_enterGroup
  exact ⟨hk.pending, fun h0 => ⟨SMap.wf_filter (hk.formed h0).regs _, SMap.wf_nil _, Nat.zero_le 64⟩⟩

theorem State.keeps_entryStep {n : Nat} (hk : σ.Keeps s) : σ.Keeps (State.entryStep s n) := by
  unfold State.entryStep
  with_reducible repeat' first
    | assumption | (intro _) | simp only [State.keeps_mk]

theorem State.keeps_entryNext (hk : σ.Keeps s) : σ.Keeps (State.entryNext s) := by
  unfold State.entryNext
  with_reducible repeat' first
    | assumption | (intro _) | apply State.keeps_forEach | apply State.keeps_canaryWrite | apply State.keeps_flushStreams
    | apply State.keeps_flushLines | apply State.keeps_retainImage | apply State.keeps_goOff | apply State.keeps_entryStep
    | apply State.Keeps.ite

theorem State.keeps_retainProceed (hk : σ.Keeps s) : σ.Keeps (State.retainProceed s) := by
  unfold State.retainProceed
  with_reducible repeat' first
    | assumption | (intro _) | apply State.keeps_forEach | apply State.keeps_entryNext | apply State.Keeps.ite

theorem State.keeps_entryBegin {off : Bool} (hk : σ.Keeps s) : σ.Keeps (State.entryBegin s off) := by
  unfold State.entryBegin
  with_reducible repeat' first
    | assumption | (intro _) | apply State.keeps_scrubOff | apply State.keeps_retainProceed | simp only [State.keeps_mk]

theorem State.keeps_pwrRetain (hk : σ.Keeps s) : σ.Keeps (State.pwrRetain s) := by
  unfold State.pwrRetain
  with_reducible repeat' first
    | assumption | (intro _)
    | (extract_lets +onlyGivenNames x; first | (refine State.Keeps.cut (σ := σ) (x := x) ?_ (fun hx => ?_); subst x; rotate_left; clear_value x; rotate_right) | (refine State.Keeps.cutP (σ := σ) (p := x) ?_ (fun hx => ?_); subst x; rotate_left; clear_value x; rotate_right) | clear_value x)
    | apply State.keeps_pwrRefuse | apply State.keeps_entryBegin | apply State.Keeps.ite

theorem keeps_execPwrRetain (hk : σ.Keeps s) : σ.KeepsR (execPwrRetain s) := by
  unfold execPwrRetain
  with_reducible repeat' first
    | assumption | (intro _) | apply State.keeps_cpDo | apply State.keeps_pwrRetain

theorem State.keeps_pwrOff (hk : σ.Keeps s) : σ.Keeps (State.pwrOff s) := by
  unfold State.pwrOff
  with_reducible repeat' first
    | assumption | (intro _)
    | (extract_lets +onlyGivenNames x; first | (refine State.Keeps.cut (σ := σ) (x := x) ?_ (fun hx => ?_); subst x; rotate_left; clear_value x; rotate_right) | (refine State.Keeps.cutP (σ := σ) (p := x) ?_ (fun hx => ?_); subst x; rotate_left; clear_value x; rotate_right) | clear_value x)
    | apply State.keeps_pwrRefuse | apply State.keeps_entryBegin | apply State.Keeps.ite

theorem keeps_execPwrOff (hk : σ.Keeps s) : σ.KeepsR (execPwrOff s) := by
  unfold execPwrOff
  with_reducible repeat' first
    | assumption | (intro _) | apply State.keeps_cpDo | apply State.keeps_pwrOff

theorem keeps_execBowChunkStart {k : Fin 8} (hk : σ.Keeps s) : σ.KeepsR (execBowChunkStart k s) := by
  unfold execBowChunkStart
  with_reducible repeat' first
    | assumption | (intro _) | apply State.keeps_bowChunk | apply State.keeps_retainProceed | apply State.KeepsR.next
    | exact State.KeepsR.fault | apply State.Keeps.ite

theorem keeps_execDescriptorFetchReturn {i : BitVec 20} (hk : σ.Keeps s) : σ.KeepsR (execDescriptorFetchReturn i s) := by
  unfold execDescriptorFetchReturn
  with_reducible repeat' first
    | assumption | (intro _) | apply State.keeps_fetchReturn | apply State.keeps_retainProceed | apply State.KeepsR.next

theorem keeps_execWritebackDone {i : BitVec 20} (hk : σ.Keeps s) : σ.KeepsR (execWritebackDone i s) := by
  unfold execWritebackDone
  with_reducible repeat' first
    | assumption | (intro _) | apply State.keeps_writebackDone | apply State.keeps_retainProceed | apply State.KeepsR.next

theorem keeps_execMigrationChunkDone {k : Fin 8} (hk : σ.Keeps s) : σ.KeepsR (execMigrationChunkDone k s) := by
  unfold execMigrationChunkDone
  with_reducible repeat' first
    | assumption | (intro _) | apply State.keeps_migChunkDone | apply State.keeps_retainProceed | apply State.KeepsR.next

theorem keeps_execTallySweepDone (hk : σ.Keeps s) : σ.KeepsR (execTallySweepDone s) := by
  unfold execTallySweepDone
  with_reducible repeat' first
    | assumption | (intro _) | apply State.keeps_sweepGo | apply State.keeps_retainProceed | apply State.KeepsR.next
    | exact State.KeepsR.fault | apply State.Keeps.ite

theorem keeps_execSiblingReady (hk : σ.Keeps s) : σ.KeepsR (execSiblingReady s) := by
  unfold execSiblingReady
  with_reducible repeat' first
    | assumption | (intro _) | apply State.keeps_padsLatch | simp only [State.keeps_mk] | apply State.KeepsR.next
    | exact State.KeepsR.fault | apply State.Keeps.ite

theorem keeps_execJointTimeout (hk : σ.Keeps s) : σ.KeepsR (execJointTimeout s) := by
  unfold execJointTimeout
  with_reducible repeat' first
    | assumption | (intro _) | apply State.keeps_raise | apply State.keeps_atCadence | apply State.keeps_padsLatch
    | apply State.KeepsR.next | exact State.KeepsR.fault | (apply State.KeepsO.elim; assumption) | (split)

theorem State.keeps_wake {src : Nat} {env : TrainEnv} (hk : σ.Keeps s) : σ.Keeps (State.wake s src env) := by
  unfold State.wake
  with_reducible repeat' first
    | assumption | (intro _) | apply State.keeps_fullReset | apply State.keeps_wakeStatus | apply State.keeps_quietExit
    | apply State.keeps_wakeBegin | simp only [State.keeps_mk] | apply State.Keeps.ite | (split)

theorem keeps_execWakeN {env : TrainEnv} (hk : σ.Keeps s) : σ.KeepsR (execWakeN env s) := by
  unfold execWakeN
  with_reducible repeat' first
    | assumption | (intro _) | apply State.keeps_wake | apply State.KeepsR.next

theorem keeps_execWakeEdge {env : TrainEnv} (hk : σ.Keeps s) : σ.KeepsR (execWakeEdge env s) := by
  unfold execWakeEdge
  with_reducible repeat' first
    | assumption | (intro _) | apply State.keeps_wake | apply State.KeepsR.next

theorem keeps_execDroneAlarm {env : TrainEnv} (hk : σ.Keeps s) : σ.KeepsR (execDroneAlarm env s) := by
  unfold execDroneAlarm
  with_reducible repeat' first
    | assumption | (intro _) | apply State.keeps_wake | apply State.KeepsR.next | exact State.KeepsR.fault
    | apply State.Keeps.ite

theorem keeps_execSiblingWake {env : TrainEnv} (hk : σ.Keeps s) : σ.KeepsR (execSiblingWake env s) := by
  unfold execSiblingWake
  with_reducible repeat' first
    | assumption | (intro _) | apply State.keeps_wake | apply State.KeepsR.next | exact State.KeepsR.fault
    | apply State.Keeps.ite

theorem State.keeps_loadCadence {rtc : Nat} (hk : σ.Keeps s) : σ.Keeps (State.loadCadence s rtc) := by
  unfold State.loadCadence
  with_reducible repeat' first
    | assumption | (intro _)
    | (extract_lets +onlyGivenNames x; first | (refine State.Keeps.cut (σ := σ) (x := x) ?_ (fun hx => ?_); subst x; rotate_left; clear_value x; rotate_right) | (refine State.Keeps.cutP (σ := σ) (p := x) ?_ (fun hx => ?_); subst x; rotate_left; clear_value x; rotate_right) | clear_value x)
    | apply State.keeps_fset | apply State.keeps_raise | simp only [State.keeps_mk] | apply State.Keeps.ite

theorem State.keeps_restoreImage {i : Image} (hk : σ.Keeps s) : σ.Keeps (State.restoreImage s i) := by
  unfold State.restoreImage
  apply State.keeps_raise
  refine ⟨hk.pending, fun h0 => ⟨?_, (hk.formed h0).cells, (hk.formed h0).events⟩⟩
  have : ∀ (l : List (Nat × Word)) (m : SMap Word), SMap.Wf RegFile.reset m → SMap.Wf RegFile.reset
      (l.foldl (fun (m : SMap Word) (e : Nat × Word) => if isDrone e.1 then m else SMap.put m (RegFile.reset e.1) e.1 e.2) m) := by
    intro l
    induction l with
    | nil => exact fun m hm => hm
    | cons e l ih =>
      intro m hm
      refine ih _ ?_
      show SMap.Wf RegFile.reset (if isDrone e.1 then m else SMap.put m (RegFile.reset e.1) e.1 e.2)
      split
      · exact hm
      · exact SMap.wf_put hm _ _
  exact this _ _ (SMap.wf_filter (hk.formed h0).regs _)

theorem State.keeps_holdMig {k : Nat} (hk : σ.Keeps s) : σ.Keeps (State.holdMig s k) := by
  unfold State.holdMig
  with_reducible repeat' first
    | assumption | (intro _) | apply State.keeps_retire | apply State.keeps_holdIng | apply State.Keeps.ite | (split)

theorem State.keeps_holdTraining (hk : σ.Keeps s) : σ.Keeps (State.holdTraining s) := by
  unfold State.holdTraining
  with_reducible repeat' first
    | assumption | (intro _)
    | (extract_lets +onlyGivenNames x; first | (refine State.Keeps.cut (σ := σ) (x := x) ?_ (fun hx => ?_); subst x; rotate_left; clear_value x; rotate_right) | (refine State.Keeps.cutP (σ := σ) (p := x) ?_ (fun hx => ?_); subst x; rotate_left; clear_value x; rotate_right) | clear_value x)
    | apply State.keeps_modOut | apply State.keeps_forEach | apply State.keeps_holdStack | apply State.keeps_holdMig

theorem State.keeps_restore {i : Image} (hk : σ.Keeps s) : σ.Keeps (State.restore s i) := by
  unfold State.restore
  have h1 : ∀ {l : List Event}, l.length = s.events.length → ∀ {p : PwrSt},
      σ.Keeps { s.restoreImage i with power := p, events := l } := by
    intro l hl p
    have hi : σ.Keeps (s.restoreImage i) := State.keeps_restoreImage hk
    exact ⟨hi.pending, fun h0 => ⟨(hi.formed h0).regs, (hi.formed h0).cells, by
      show l.length ≤ 64; rw [hl]; exact (hk.formed h0).events⟩⟩
  simp only [State.keeps_mk]
  refine State.keeps_forEach ?_ fun _ _ h => State.keeps_settleSwap h
  refine State.keeps_reportLevels (State.keeps_post (State.keeps_holdTraining (State.keeps_wakeStatus (State.keeps_raise ?_))))
  exact h1 (List.length_map _)

theorem keeps_execCadencePllLock {env : TrainEnv} (hk : σ.Keeps s) : σ.KeepsR (execCadencePllLock env s) := by
  unfold execCadencePllLock
  with_reducible repeat' first
    | assumption | (intro _) | apply State.keeps_raise | simp only [State.keeps_mk] | apply State.KeepsO.getD
    | apply State.KeepsR.next | exact State.KeepsR.fault | apply State.Keeps.ite

theorem State.keeps_wakeTick {rtc : Nat} {env : TrainEnv} (hk : σ.Keeps s) : σ.Keeps (State.wakeTick s rtc env) := by
  unfold State.wakeTick
  with_reducible repeat' first
    | assumption | (intro _) | apply State.keeps_raise | apply State.keeps_fullReset | apply State.keeps_wakeStatus
    | apply State.keeps_loadCadence | apply State.keeps_restore | (split)

theorem State.keeps_slowTick {rtc : Nat} {edge : Bool} (hk : σ.Keeps s) : σ.Keeps (State.slowTick s rtc edge) := by
  unfold State.slowTick
  with_reducible repeat' first
    | assumption | (intro _) | apply State.keeps_retainEnd | apply State.keeps_wakeTick | apply State.Keeps.ite | (split)

theorem keeps_execThermalSample {diodes : List Conv} {therms : List (BitVec 16)} {ro : BitVec 16} (hk : σ.Keeps s) :
    σ.KeepsR (execThermalSample diodes therms ro s) := by
  unfold execThermalSample
  with_reducible repeat' first
    | assumption | (intro _) | apply State.keeps_sample | apply State.keeps_retainProceed | apply State.keeps_slowTick
    | apply State.KeepsR.next | exact State.KeepsR.fault | apply State.Keeps.ite

theorem State.keeps_checkingDone (hk : σ.Keeps s) : σ.Keeps (State.checkingDone s) := by
  unfold State.checkingDone
  with_reducible repeat' first
    | assumption | (intro _)
    | (extract_lets +onlyGivenNames x; first | (refine State.Keeps.cut (σ := σ) (x := x) ?_ (fun hx => ?_); subst x; rotate_left; clear_value x; rotate_right) | (refine State.Keeps.cutP (σ := σ) (p := x) ?_ (fun hx => ?_); subst x; rotate_left; clear_value x; rotate_right) | clear_value x)
    | apply State.keeps_fset | apply State.keeps_post | apply State.keeps_forEach | apply State.keeps_credited
    | apply State.keeps_portOn | apply State.keeps_migProceed | apply State.keeps_enterGroup | apply State.keeps_scrubOn
    | (apply State.KeepsO.of; assumption) | apply State.KeepsO.some | exact State.KeepsO.none | apply State.keeps_foldl
    | apply State.keepsO_foldl | apply State.keepsP_foldl | simp only [State.keeps_mk] | apply State.Keeps.ite

theorem State.keeps_padRelease {env : TrainEnv} (hk : σ.Keeps s) : σ.Keeps (State.padRelease s env) := by
  unfold State.padRelease
  with_reducible repeat' first
    | assumption | (intro _)
    | (extract_lets +onlyGivenNames x; first | (refine State.Keeps.cut (σ := σ) (x := x) ?_ (fun hx => ?_); subst x; rotate_left; clear_value x; rotate_right) | (refine State.Keeps.cutP (σ := σ) (p := x) ?_ (fun hx => ?_); subst x; rotate_left; clear_value x; rotate_right) | clear_value x)
    | apply State.keeps_fset | apply State.keeps_forEach | apply State.keeps_settleMult | apply State.keeps_freeStack
    | apply State.keeps_trainStack | apply State.keeps_canaryCheck | apply State.keeps_pwrRefuse
    | apply State.keeps_checkingDone | simp only [State.keeps_mk] | apply State.Keeps.ite

theorem keeps_execPadRelease {env : TrainEnv} (hk : σ.Keeps s) : σ.KeepsR (execPadRelease env s) := by
  unfold execPadRelease
  with_reducible repeat' first
    | assumption | (intro _) | apply State.keeps_cpDo | apply State.keeps_padRelease

theorem keeps_execCanaryCheckDone {k : Fin 8} (hk : σ.Keeps s) : σ.KeepsR (execCanaryCheckDone k s) := by
  unfold execCanaryCheckDone
  with_reducible repeat' first
    | assumption | (intro _) | apply State.keeps_canaryDone | apply State.keeps_checkingDone | apply State.KeepsO.getD
    | apply State.KeepsR.next

theorem keeps_execCoreSupplyLost (hk : σ.Keeps s) : σ.KeepsR (execCoreSupplyLost s) := by
  unfold execCoreSupplyLost
  with_reducible repeat' first
    | assumption | (intro _) | apply State.keeps_goOff | simp only [State.keeps_mk] | apply State.KeepsR.next
    | exact State.KeepsR.fault | (split)

theorem keeps_execDroneSupplyLost (hk : σ.Keeps s) : σ.KeepsR (execDroneSupplyLost s) := by
  refine .next ⟨hk.pending, fun h0 => ⟨SMap.wf_filter (hk.formed h0).regs _, ?_, Nat.zero_le 64⟩⟩
  exact SMap.wf_nil _

theorem keeps_execDronePowerOn (hk : σ.Keeps s) : σ.KeepsR (execDronePowerOn s) := by
  unfold execDronePowerOn
  with_reducible repeat' first
    | assumption | (intro _) | apply State.keeps_enterGroup | apply State.keeps_coreReset | simp only [State.keeps_mk]
    | apply State.KeepsR.next | exact State.KeepsR.fault | apply State.Keeps.ite

end Sys2Proof.Machine
end

