-- ==== Sys2Proof/Laws/KeepSeq.lean ====
section
/-! SUPPORT. What every operation of the sequencer, the NMUs, the cadence and the registers keeps. -/

namespace Sys2Proof.Machine

variable {σ s : State}

theorem State.keeps_lookStart {who : Option Nat} {i : Nat} (hk : σ.Keeps s) : σ.Keeps (State.lookStart s who i) := by
  unfold State.lookStart
  with_reducible repeat' first
    | assumption | (intro _)
    | (extract_lets +onlyGivenNames x; first | (refine State.Keeps.cut (σ := σ) (x := x) ?_ (fun hx => ?_); subst x; rotate_left; clear_value x; rotate_right) | (refine State.Keeps.cutP (σ := σ) (p := x) ?_ (fun hx => ?_); subst x; rotate_left; clear_value x; rotate_right) | (refine State.KeepsO.cut (σ := σ) (o := x) ?_ (fun hx => ?_); subst x; rotate_left; clear_value x; rotate_right) | clear_value x)
    | apply State.keeps_miss | apply State.keeps_addReq

theorem State.keeps_descNow {who : Option Nat} {i : Nat} (hk : σ.Keeps s) : σ.Keeps (State.descNow s who i).1 := by
  unfold State.descNow
  with_reducible repeat' first
    | assumption | (intro _) | apply State.keeps_dropReq | apply State.keeps_lookStart | apply State.Keeps.ite | (split)

theorem State.keeps_streamOk {c i mid : Nat} (hk : σ.Keeps s) : σ.Keeps (State.streamOk s c i mid).1 := by
  unfold State.streamOk
  with_reducible repeat' first
    | assumption | (intro _) | apply State.keeps_descNow | (apply State.Keeps.fst; assumption) | (split)

theorem State.keeps_launchChecks {c : Nat} {x : Ctx} {sl : Slot} {w : Nat} (hk : σ.Keeps s) :
    σ.Keeps (State.launchChecks s c x sl w).1 := by
  unfold State.launchChecks
  with_reducible repeat' first
    | assumption | (intro _) | apply State.keeps_streamOk | apply State.Keeps.ite | (apply State.Keeps.fst; assumption)
    | (split)

theorem State.keeps_svcStart {o : Own} {n c op a : Nat} {data : Payload} {be : BitVec 256} (hk : σ.Keeps s) :
    σ.Keeps (State.svcStart s o n c op a data be) := by
  unfold State.svcStart
  with_reducible repeat' first
    | assumption | (intro _)
    | (extract_lets +onlyGivenNames x; first | (refine State.Keeps.cut (σ := σ) (x := x) ?_ (fun hx => ?_); subst x; rotate_left; clear_value x; rotate_right) | (refine State.Keeps.cutP (σ := σ) (p := x) ?_ (fun hx => ?_); subst x; rotate_left; clear_value x; rotate_right) | clear_value x)
    | apply State.keeps_toStream | apply State.keeps_addReq

theorem State.keeps_svcWrite {n i c a : Nat} {d : Atom} {be : Option (BitVec 64)} (hk : σ.Keeps s) :
    σ.Keeps (State.svcWrite s n i c a d be) := by
  unfold State.svcWrite
  with_reducible repeat' first
    | assumption | (intro _) | apply State.keeps_svcStart

theorem State.keeps_progDrop {n : Nat} (hk : σ.Keeps s) : σ.Keeps (State.progDrop s n) := by
  unfold State.progDrop
  with_reducible repeat' first
    | assumption | (intro _) | simp only [State.keeps_mk]

theorem State.keeps_leaveTokens {n : Nat} (hk : σ.Keeps s) : σ.Keeps (State.leaveTokens s n) := by
  unfold State.leaveTokens
  with_reducible repeat' first
    | assumption | (intro _) | simp only [State.keeps_mk]

theorem State.keeps_finish {n : Nat} {e : Ending} (hk : σ.Keeps s) : σ.Keeps (State.finish s n e) := by
  unfold State.finish
  with_reducible repeat' first
    | assumption | (intro _)
    | (extract_lets +onlyGivenNames x; first | (refine State.Keeps.cut (σ := σ) (x := x) ?_ (fun hx => ?_); subst x; rotate_left; clear_value x; rotate_right) | (refine State.Keeps.cutP (σ := σ) (p := x) ?_ (fun hx => ?_); subst x; rotate_left; clear_value x; rotate_right) | (refine State.KeepsO.cut (σ := σ) (o := x) ?_ (fun hx => ?_); subst x; rotate_left; clear_value x; rotate_right) | clear_value x)
    | apply State.keeps_forEach | apply State.keeps_ownDrop | apply State.keeps_modSlot | apply State.keeps_modCtx
    | apply State.keeps_setChk | apply State.keeps_chkOwner | apply State.keeps_leaveTokens
    | (apply State.KeepsO.of; assumption) | apply State.KeepsO.some | exact State.KeepsO.none | simp only [State.keeps_mk]
    | apply State.Keeps.ite | (split)

theorem State.keeps_trapNow {c : Nat} {t : Trap} (hk : σ.Keeps s) : σ.Keeps (State.trapNow s c t) := by
  unfold State.trapNow
  with_reducible repeat' first
    | assumption | (intro _) | apply State.keeps_finish | (split)

theorem State.keeps_launchResult {n r : Nat} (hk : σ.Keeps s) : σ.Keeps (State.launchResult s n r) := by
  unfold State.launchResult
  with_reducible repeat' first
    | assumption | (intro _) | apply State.keeps_fset

theorem State.keeps_launchAccept {n w : Nat} {d desc : Atom} (hk : σ.Keeps s) :
    σ.Keeps (State.launchAccept s n w d desc) := by
  unfold State.launchAccept
  with_reducible repeat' first
    | assumption | (intro _)
    | (extract_lets +onlyGivenNames x; first | (refine State.Keeps.cut (σ := σ) (x := x) ?_ (fun hx => ?_); subst x; rotate_left; clear_value x; rotate_right) | (refine State.Keeps.cutP (σ := σ) (p := x) ?_ (fun hx => ?_); subst x; rotate_left; clear_value x; rotate_right) | clear_value x)
    | apply State.keeps_fset | apply State.keeps_count | apply State.keeps_setSlot | apply State.keeps_launchResult
    | apply State.keeps_launch | simp only [State.keeps_mk]

theorem State.keeps_launchChecked {w : Nat} {d : Option Atom} {desc : Option Atom} (hk : σ.Keeps s) :
    σ.Keeps (State.launchChecked s w d desc) := by
  unfold State.launchChecked
  with_reducible repeat' first
    | assumption | (intro _)
    | (extract_lets +onlyGivenNames x; first | (refine State.Keeps.cut (σ := σ) (x := x) ?_ (fun hx => ?_); subst x; rotate_left; clear_value x; rotate_right) | (refine State.Keeps.cutP (σ := σ) (p := x) ?_ (fun hx => ?_); subst x; rotate_left; clear_value x; rotate_right) | (refine State.KeepsO.cut (σ := σ) (o := x) ?_ (fun hx => ?_); subst x; rotate_left; clear_value x; rotate_right) | clear_value x)
    | apply State.keeps_launchResult | apply State.keeps_launchAccept | apply State.Keeps.ite | (split)

theorem State.keeps_doorbell {w : Nat} (hk : σ.Keeps s) : σ.Keeps (State.doorbell s w).1 := by
  unfold State.doorbell
  with_reducible repeat' first
    | assumption | (intro _)
    | (extract_lets +onlyGivenNames x; first | (refine State.Keeps.cut (σ := σ) (x := x) ?_ (fun hx => ?_); subst x; rotate_left; clear_value x; rotate_right) | (refine State.Keeps.cutP (σ := σ) (p := x) ?_ (fun hx => ?_); subst x; rotate_left; clear_value x; rotate_right) | (refine State.KeepsO.cut (σ := σ) (o := x) ?_ (fun hx => ?_); subst x; rotate_left; clear_value x; rotate_right) | clear_value x)
    | apply State.keeps_dropReq | apply State.keeps_ownStart | apply State.keeps_descNow | apply State.keeps_launchChecked
    | apply State.Keeps.ite | (apply State.Keeps.fst; assumption) | (split)

theorem State.keeps_ring {c : Instr} {w : Nat} (hk : σ.Keeps s) : σ.Keeps (State.ring s c w) := by
  unfold State.ring
  with_reducible repeat' first
    | assumption | (intro _)
    | (extract_lets +onlyGivenNames x; first | (refine State.Keeps.cut (σ := σ) (x := x) ?_ (fun hx => ?_); subst x; rotate_left; clear_value x; rotate_right) | (refine State.Keeps.cutP (σ := σ) (p := x) ?_ (fun hx => ?_); subst x; rotate_left; clear_value x; rotate_right) | clear_value x)
    | apply State.keeps_started | apply State.keeps_doorbell | simp only [State.keeps_mk] | apply State.Keeps.ite

theorem keeps_execDoorbell {value : Word} (hk : σ.Keeps s) : σ.KeepsR (execDoorbell value s) := by
  unfold execDoorbell
  with_reducible repeat' first
    | assumption | (intro _) | apply State.keeps_cpDo | apply State.keeps_doorbell | apply State.keeps_ring

theorem State.keeps_loaded {n c : Nat} {l : List (Nat × Option Direct)} (hk : σ.Keeps s) :
    σ.Keeps (State.loaded s n c l) := by
  unfold State.loaded
  with_reducible repeat' first
    | assumption | (intro _)
    | (extract_lets +onlyGivenNames x; first | (refine State.Keeps.cut (σ := σ) (x := x) ?_ (fun hx => ?_); subst x; rotate_left; clear_value x; rotate_right) | (refine State.Keeps.cutP (σ := σ) (p := x) ?_ (fun hx => ?_); subst x; rotate_left; clear_value x; rotate_right) | (refine State.KeepsO.cut (σ := σ) (o := x) ?_ (fun hx => ?_); subst x; rotate_left; clear_value x; rotate_right) | (have _f : State → _ := x; clear _f; subst x) | clear_value x)
    | apply State.keeps_freed | apply State.keeps_modSlot | apply State.keeps_setCtx | apply State.keeps_modCtx
    | apply State.keeps_progDrop | apply State.keeps_finish | apply State.keeps_saved | (apply State.KeepsO.of; assumption)
    | apply State.KeepsO.some | exact State.KeepsO.none | simp only [State.keeps_mk] | apply State.KeepsO.getD
    | apply State.Keeps.ite | (split)

theorem State.keeps_loadStart {n c : Nat} {q : List Nat} (hk : σ.Keeps s) : σ.Keeps (State.loadStart s n c q) := by
  unfold State.loadStart
  with_reducible repeat' first
    | assumption | (intro _)
    | (extract_lets +onlyGivenNames x; first | (refine State.Keeps.cut (σ := σ) (x := x) ?_ (fun hx => ?_); subst x; rotate_left; clear_value x; rotate_right) | (refine State.Keeps.cutP (σ := σ) (p := x) ?_ (fun hx => ?_); subst x; rotate_left; clear_value x; rotate_right) | (refine State.KeepsO.cut (σ := σ) (o := x) ?_ (fun hx => ?_); subst x; rotate_left; clear_value x; rotate_right) | clear_value x)
    | apply State.keeps_forEach | apply State.keeps_modSlot | apply State.keeps_setCtx | apply State.keeps_svcStart
    | (apply State.KeepsO.of; assumption) | apply State.KeepsO.some | exact State.KeepsO.none | simp only [State.keeps_mk]

theorem State.keeps_slotLoad (hk : σ.Keeps s) : σ.Keeps (State.slotLoad s) := by
  unfold State.slotLoad
  with_reducible repeat' first
    | assumption | (intro _) | apply State.keeps_loaded | apply State.keeps_loadStart | (split)

theorem keeps_execSlotLoad (hk : σ.Keeps s) : σ.KeepsR (execSlotLoad s) := by
  unfold execSlotLoad
  with_reducible repeat' first
    | assumption | (intro _) | apply State.keeps_slotLoad | apply State.KeepsR.next

theorem State.keeps_countWrite {n : Nat} {e : Nat × Req} (hk : σ.Keeps s) : σ.Keeps (State.countWrite s n e) := by
  unfold State.countWrite
  with_reducible repeat' first
    | assumption | (intro _)
    | (extract_lets +onlyGivenNames x; first | (refine State.Keeps.cut (σ := σ) (x := x) ?_ (fun hx => ?_); subst x; rotate_left; clear_value x; rotate_right) | (refine State.Keeps.cutP (σ := σ) (p := x) ?_ (fun hx => ?_); subst x; rotate_left; clear_value x; rotate_right) | (refine State.KeepsO.cut (σ := σ) (o := x) ?_ (fun hx => ?_); subst x; rotate_left; clear_value x; rotate_right) | clear_value x)
    | apply State.keeps_dropReq | apply State.keeps_modSlot

theorem State.keeps_saveWords {n c : Nat} {x : Ctx} (hk : σ.Keeps s) : σ.Keeps (State.saveWords s n c x) := by
  unfold State.saveWords
  exact State.keeps_forEach (State.keeps_freed (State.keeps_freed hk)) fun t i ht => State.keeps_svcWrite ht

theorem State.keeps_swapOut {c : Nat} (hk : σ.Keeps s) : σ.Keeps (State.swapOut s c) := by
  unfold State.swapOut
  with_reducible repeat' first
    | assumption | (intro _)
    | (extract_lets +onlyGivenNames x; first | (refine State.Keeps.cut (σ := σ) (x := x) ?_ (fun hx => ?_); subst x; rotate_left; clear_value x; rotate_right) | (refine State.Keeps.cutP (σ := σ) (p := x) ?_ (fun hx => ?_); subst x; rotate_left; clear_value x; rotate_right) | (refine State.KeepsO.cut (σ := σ) (o := x) ?_ (fun hx => ?_); subst x; rotate_left; clear_value x; rotate_right) | clear_value x)
    | apply State.keeps_atCadence | apply State.keeps_modSlot | simp only [State.keeps_mk] | apply State.KeepsO.bindK
    | apply State.KeepsO.bind | (apply State.KeepsO.elim; assumption) | (split)

theorem keeps_execSwapOut {c : Fin 256} (hk : σ.Keeps s) : σ.KeepsR (execSwapOut c s) := by
  unfold execSwapOut
  with_reducible repeat' first
    | assumption | (intro _) | apply State.keeps_swapOut | apply State.KeepsR.next

theorem State.keeps_saved {n c : Nat} {x : Ctx} (hk : σ.Keeps s) : σ.Keeps (State.saved s n c x) := by
  unfold State.saved
  with_reducible repeat' first
    | assumption | (intro _)
    | (extract_lets +onlyGivenNames x; first | (refine State.Keeps.cut (σ := σ) (x := x) ?_ (fun hx => ?_); subst x; rotate_left; clear_value x; rotate_right) | (refine State.Keeps.cutP (σ := σ) (p := x) ?_ (fun hx => ?_); subst x; rotate_left; clear_value x; rotate_right) | (refine State.KeepsO.cut (σ := σ) (o := x) ?_ (fun hx => ?_); subst x; rotate_left; clear_value x; rotate_right) | (have _f : State → _ := x; clear _f; subst x) | clear_value x)
    | apply State.keeps_count | apply State.keeps_ownDrop | apply State.keeps_modSlot | apply State.keeps_setCtx
    | apply State.keeps_progDrop | apply State.keeps_finish | simp only [State.keeps_mk] | apply State.Keeps.ite | (split)

theorem State.keeps_saveDone {c : Nat} (hk : σ.Keeps s) : σ.Keeps (State.saveDone s c) := by
  unfold State.saveDone
  with_reducible repeat' first
    | assumption | (intro _)
    | (extract_lets +onlyGivenNames x; first | (refine State.Keeps.cut (σ := σ) (x := x) ?_ (fun hx => ?_); subst x; rotate_left; clear_value x; rotate_right) | (refine State.Keeps.cutP (σ := σ) (p := x) ?_ (fun hx => ?_); subst x; rotate_left; clear_value x; rotate_right) | (refine State.KeepsO.cut (σ := σ) (o := x) ?_ (fun hx => ?_); subst x; rotate_left; clear_value x; rotate_right) | clear_value x)
    | apply State.keeps_saveWords | apply State.keeps_saved | apply State.Keeps.ite | (split)

theorem keeps_execSaveDone {c : Fin 256} (hk : σ.Keeps s) : σ.KeepsR (execSaveDone c s) := by
  unfold execSaveDone
  with_reducible repeat' first
    | assumption | (intro _) | apply State.keeps_saveDone | apply State.KeepsR.next

theorem State.keeps_slotBaseWrite {w : Word} (hk : σ.Keeps s) : σ.Keeps (State.slotBaseWrite s w) := by
  unfold State.slotBaseWrite
  with_reducible repeat' first
    | assumption | (intro _) | apply State.keeps_raise | apply State.keeps_putRw | apply State.Keeps.ite

theorem keeps_execSlotBaseWrite {value : Word} (hk : σ.Keeps s) : σ.KeepsR (execSlotBaseWrite value s) := by
  unfold execSlotBaseWrite
  with_reducible repeat' first
    | assumption | (intro _) | apply State.keeps_cpDo | apply State.keeps_slotBaseWrite

theorem State.keeps_setTokenQ {t : Nat} {l : List Waiter} (hk : σ.Keeps s) : σ.Keeps (State.setTokenQ s t l) := by
  unfold State.setTokenQ
  with_reducible repeat' first
    | assumption | (intro _) | simp only [State.keeps_mk]

theorem State.keeps_tokenPass {n : Nat} (hk : σ.Keeps s) : σ.Keeps (State.tokenPass s n) := by
  unfold State.tokenPass
  with_reducible repeat' first
    | assumption | (intro _)
    | (extract_lets +onlyGivenNames x; first | (refine State.Keeps.cut (σ := σ) (x := x) ?_ (fun hx => ?_); subst x; rotate_left; clear_value x; rotate_right) | (refine State.Keeps.cutP (σ := σ) (p := x) ?_ (fun hx => ?_); subst x; rotate_left; clear_value x; rotate_right) | (refine State.KeepsO.cut (σ := σ) (o := x) ?_ (fun hx => ?_); subst x; rotate_left; clear_value x; rotate_right) | clear_value x)
    | apply State.keeps_modSlot | apply State.keeps_modCtx | simp only [State.keeps_mk] | (split)

theorem State.keeps_serveToken {n i : Nat} (hk : σ.Keeps s) : σ.Keeps (State.serveToken n i s) := by
  induction n generalizing s with
  | zero => exact hk
  | succ n ih =>
    unfold State.serveToken
    split
    · exact hk
    · dsimp only
      split
      · apply ih; apply State.keeps_tokenPass; apply State.keeps_setTokenQ; exact State.keeps_fset hk
      · exact hk

theorem State.keeps_setToken {t v : Nat} (hk : σ.Keeps s) : σ.Keeps (State.setToken s t v) := by
  unfold State.setToken
  with_reducible repeat' first
    | assumption | (intro _) | apply State.keeps_fset | apply State.keeps_serveToken

theorem keeps_execTokenWrite {t : Fin 1024} {v : BitVec 32} (hk : σ.Keeps s) : σ.KeepsR (execTokenWrite t v s) := by
  unfold execTokenWrite
  with_reducible repeat' first
    | assumption | (intro _) | apply State.keeps_cpDo | apply State.keeps_setToken

theorem State.keeps_reapReqs {n c : Nat} (hk : σ.Keeps s) : σ.Keeps (State.reapReqs s n c) := by
  unfold State.reapReqs
  with_reducible repeat' first
    | assumption | (intro _) | apply State.keeps_dropReq | apply State.keeps_forEach | apply State.keeps_countWrite
    | apply State.Keeps.ite

theorem State.keeps_slotFree {n : Nat} {sl : Slot} {e : Ending} (hk : σ.Keeps s) : σ.Keeps (State.slotFree s n sl e) := by
  unfold State.slotFree
  with_reducible repeat' first
    | assumption | (intro _)
    | (extract_lets +onlyGivenNames x; first | (refine State.Keeps.cut (σ := σ) (x := x) ?_ (fun hx => ?_); subst x; rotate_left; clear_value x; rotate_right) | (refine State.Keeps.cutP (σ := σ) (p := x) ?_ (fun hx => ?_); subst x; rotate_left; clear_value x; rotate_right) | (refine State.KeepsO.cut (σ := σ) (o := x) ?_ (fun hx => ?_); subst x; rotate_left; clear_value x; rotate_right) | clear_value x)
    | apply State.keeps_count | apply State.keeps_post | apply State.keeps_ownDrop | apply State.keeps_setSlot
    | apply State.keeps_setCtx | (apply State.KeepsO.of; assumption) | apply State.KeepsO.some | exact State.KeepsO.none
    | apply State.Keeps.ite | (split)

theorem State.keeps_completionWrite {n : Nat} {sl : Slot} {e : Ending} (hk : σ.Keeps s) :
    σ.Keeps (State.completionWrite s n sl e) := by
  unfold State.completionWrite
  with_reducible repeat' first
    | assumption | (intro _) | apply State.keeps_svcWrite

theorem State.keeps_finishWrites {n : Nat} {sl : Slot} {e : Ending} (hk : σ.Keeps s) :
    σ.Keeps (State.finishWrites s n sl e) := by
  unfold State.finishWrites
  with_reducible repeat' first
    | assumption | (intro _)
    | (extract_lets +onlyGivenNames x; first | (refine State.Keeps.cut (σ := σ) (x := x) ?_ (fun hx => ?_); subst x; rotate_left; clear_value x; rotate_right) | (refine State.Keeps.cutP (σ := σ) (p := x) ?_ (fun hx => ?_); subst x; rotate_left; clear_value x; rotate_right) | (refine State.KeepsO.cut (σ := σ) (o := x) ?_ (fun hx => ?_); subst x; rotate_left; clear_value x; rotate_right) | clear_value x)
    | apply State.keeps_progDrop | apply State.keeps_saveWords | apply State.keeps_slotFree
    | apply State.keeps_completionWrite | simp only [State.keeps_mk] | apply State.KeepsO.bindK | apply State.KeepsO.bind
    | apply State.KeepsO.getD | apply State.Keeps.ite | (split)

theorem State.keeps_slotFinished {n : Nat} (hk : σ.Keeps s) : σ.Keeps (State.slotFinished s n) := by
  unfold State.slotFinished
  with_reducible repeat' first
    | assumption | (intro _)
    | (extract_lets +onlyGivenNames x; first | (refine State.Keeps.cut (σ := σ) (x := x) ?_ (fun hx => ?_); subst x; rotate_left; clear_value x; rotate_right) | (refine State.Keeps.cutP (σ := σ) (p := x) ?_ (fun hx => ?_); subst x; rotate_left; clear_value x; rotate_right) | (refine State.KeepsO.cut (σ := σ) (o := x) ?_ (fun hx => ?_); subst x; rotate_left; clear_value x; rotate_right) | clear_value x)
    | apply State.keeps_reapReqs | apply State.keeps_finishWrites | (apply State.KeepsO.of; assumption)
    | apply State.KeepsO.some | exact State.KeepsO.none | apply State.Keeps.ite | (split)

theorem keeps_execSlotFinished {n : Fin 4096} (hk : σ.Keeps s) : σ.KeepsR (execSlotFinished n s) := by
  unfold execSlotFinished
  with_reducible repeat' first
    | assumption | (intro _) | apply State.keeps_slotFinished | apply State.KeepsR.next

theorem State.keeps_seqAbort {n : Nat} (hk : σ.Keeps s) : σ.Keeps (State.seqAbort s n) := by
  unfold State.seqAbort
  with_reducible repeat' first
    | assumption | (intro _)
    | (extract_lets +onlyGivenNames x; first | (refine State.Keeps.cut (σ := σ) (x := x) ?_ (fun hx => ?_); subst x; rotate_left; clear_value x; rotate_right) | (refine State.Keeps.cutP (σ := σ) (p := x) ?_ (fun hx => ?_); subst x; rotate_left; clear_value x; rotate_right) | (refine State.KeepsO.cut (σ := σ) (o := x) ?_ (fun hx => ?_); subst x; rotate_left; clear_value x; rotate_right) | clear_value x)
    | apply State.keeps_modSlot | apply State.keeps_finish | simp only [State.keeps_mk] | apply State.KeepsO.bindK
    | apply State.KeepsO.bind | apply State.Keeps.ite | (split)

theorem keeps_execSeqAbort {n : Fin 4096} (hk : σ.Keeps s) : σ.KeepsR (execSeqAbort n s) := by
  unfold execSeqAbort
  with_reducible repeat' first
    | assumption | (intro _) | apply State.keeps_cpDo | apply State.keeps_seqAbort

theorem State.keeps_contextParity {c : Nat} (hk : σ.Keeps s) : σ.Keeps (State.contextParity s c) := by
  unfold State.contextParity
  with_reducible repeat' first
    | assumption | (intro _)
    | (extract_lets +onlyGivenNames x; first | (refine State.Keeps.cut (σ := σ) (x := x) ?_ (fun hx => ?_); subst x; rotate_left; clear_value x; rotate_right) | (refine State.Keeps.cutP (σ := σ) (p := x) ?_ (fun hx => ?_); subst x; rotate_left; clear_value x; rotate_right) | (refine State.KeepsO.cut (σ := σ) (o := x) ?_ (fun hx => ?_); subst x; rotate_left; clear_value x; rotate_right) | clear_value x)
    | apply State.keeps_finish | apply State.Keeps.ite | (split)

theorem keeps_execContextParityError {c : Fin 256} (hk : σ.Keeps s) : σ.KeepsR (execContextParityError c s) := by
  unfold execContextParityError
  with_reducible repeat' first
    | assumption | (intro _) | apply State.keeps_contextParity | apply State.KeepsR.next

theorem State.keeps_slotParity {n : Nat} (hk : σ.Keeps s) : σ.Keeps (State.slotParity s n) := by
  unfold State.slotParity
  with_reducible repeat' first
    | assumption | (intro _) | apply State.keeps_modSlot | apply State.keeps_finish

theorem keeps_execSlotEntryParityError {n : Fin 4096} (hk : σ.Keeps s) : σ.KeepsR (execSlotEntryParityError n s) := by
  unfold execSlotEntryParityError
  with_reducible repeat' first
    | assumption | (intro _) | apply State.keeps_slotParity | apply State.KeepsR.next

theorem State.keeps_fetchIns {c : Nat} {x : Ctx} (hk : σ.Keeps s) : σ.Keeps (State.fetchIns s c x).1 := by
  unfold State.fetchIns
  extract_lets a
  split
  · exact hk
  split
  · exact State.keeps_trapNow hk
  have h1 : σ.Keeps (s.ownGo (.code x.slot) fun s => s.svcStart (.code x.slot) x.slot c opRead a 0 0).1 :=
    State.keeps_ownGo hk fun t ht => State.keeps_svcStart ht
  generalize (s.ownGo (.code x.slot) fun s => s.svcStart (.code x.slot) x.slot c opRead a 0 0) = r at h1 ⊢
  obtain ⟨t, d⟩ := r
  rcases d with ⟨d, _ | _⟩ | _ | _ | d | _ | _
  · exact State.keeps_modCtx h1
  all_goals first | exact h1 | exact State.keeps_trapNow h1

theorem State.keeps_noteBusy {t : Trap} (hk : σ.Keeps s) : σ.Keeps (State.noteBusy s t) := by
  unfold State.noteBusy
  with_reducible repeat' first
    | assumption | (intro _) | apply State.keeps_chkLast | apply State.Keeps.ite | (split)

theorem State.keeps_fetchLaunch {c : Nat} {x : Ctx} {want : Nat → Bool} (hk : σ.Keeps s) :
    σ.Keeps (State.fetchLaunch s c x want).1 := by
  unfold State.fetchLaunch
  with_reducible repeat' first
    | assumption | (intro _)
    | (extract_lets +onlyGivenNames x; first | (refine State.Keeps.cut (σ := σ) (x := x) ?_ (fun hx => ?_); subst x; rotate_left; clear_value x; rotate_right) | (refine State.Keeps.cutP (σ := σ) (p := x) ?_ (fun hx => ?_); subst x; rotate_left; clear_value x; rotate_right) | (refine State.KeepsO.cut (σ := σ) (o := x) ?_ (fun hx => ?_); subst x; rotate_left; clear_value x; rotate_right) | clear_value x)
    | apply State.keeps_launchChecks | apply State.keeps_trapNow | apply State.keeps_fetchIns | apply State.keeps_noteBusy
    | apply State.Keeps.ite | (apply State.Keeps.fst; assumption) | (split)

theorem State.keeps_launch {c : Nat} {want : Nat → Bool} (hk : σ.Keeps s) : σ.Keeps (State.launch s c want).1 := by
  unfold State.launch
  with_reducible repeat' first
    | assumption | (intro _)
    | (extract_lets +onlyGivenNames x; first | (refine State.Keeps.cut (σ := σ) (x := x) ?_ (fun hx => ?_); subst x; rotate_left; clear_value x; rotate_right) | (refine State.Keeps.cutP (σ := σ) (p := x) ?_ (fun hx => ?_); subst x; rotate_left; clear_value x; rotate_right) | (refine State.KeepsO.cut (σ := σ) (o := x) ?_ (fun hx => ?_); subst x; rotate_left; clear_value x; rotate_right) | clear_value x)
    | apply State.keeps_finish | apply State.keeps_fetchLaunch | apply State.Keeps.ite
    | (apply State.Keeps.fst; assumption) | (split)

theorem State.keeps_control {c : Nat} {want : Nat → Bool} {act : State → Ctx → Nat → State} (hk : σ.Keeps s) (h' : ∀ t x w, σ.Keeps t → σ.Keeps (act t x w)) :
    σ.Keeps (State.control s c want act) := by
  unfold State.control
  have h1 : σ.Keeps (s.launch c want).1 := State.keeps_launch hk
  split
  · rename_i e; exact h' _ _ _ (State.Keeps.fst e h1)
  · rename_i e; exact State.Keeps.fst e h1

theorem State.keeps_ctxIssue {c : Nat} {x : Ctx} {role op a n tag : Nat} {data : Payload} {wpoison : BitVec 64} {sorted batch : Bool} (hk : σ.Keeps s) :
    σ.Keeps (State.ctxIssue s c x role op a n tag data wpoison sorted batch) := by
  unfold State.ctxIssue
  with_reducible repeat' first
    | assumption | (intro _)
    | (extract_lets +onlyGivenNames x; first | (refine State.Keeps.cut (σ := σ) (x := x) ?_ (fun hx => ?_); subst x; rotate_left; clear_value x; rotate_right) | (refine State.Keeps.cutP (σ := σ) (p := x) ?_ (fun hx => ?_); subst x; rotate_left; clear_value x; rotate_right) | clear_value x)
    | apply State.keeps_toStream | apply State.keeps_addReq

theorem State.keeps_take1 {c n : Nat} {e : Nat × Req} (hk : σ.Keeps s) : σ.Keeps (State.take1 s c n e) := by
  unfold State.take1
  with_reducible repeat' first
    | assumption | (intro _)
    | (extract_lets +onlyGivenNames x; first | (refine State.Keeps.cut (σ := σ) (x := x) ?_ (fun hx => ?_); subst x; rotate_left; clear_value x; rotate_right) | (refine State.Keeps.cutP (σ := σ) (p := x) ?_ (fun hx => ?_); subst x; rotate_left; clear_value x; rotate_right) | clear_value x)
    | apply State.keeps_modReq | apply State.keeps_dropReq | apply State.keeps_modCtx | apply State.keeps_countWrite
    | simp only [State.keeps_mk] | apply State.Keeps.ite

theorem State.keeps_takeDone {c n : Nat} (hk : σ.Keeps s) : σ.Keeps (State.takeDone s c n) := by
  unfold State.takeDone
  with_reducible repeat' first
    | assumption | (intro _)
    | (extract_lets +onlyGivenNames x; first | (refine State.Keeps.cut (σ := σ) (x := x) ?_ (fun hx => ?_); subst x; rotate_left; clear_value x; rotate_right) | (refine State.Keeps.cutP (σ := σ) (p := x) ?_ (fun hx => ?_); subst x; rotate_left; clear_value x; rotate_right) | clear_value x)
    | apply State.keeps_forEach | apply State.keeps_take1

theorem State.keeps_modCur {c : Nat} {f : Cur → Cur} (hk : σ.Keeps s) : σ.Keeps (State.modCur s c f) := by
  unfold State.modCur
  with_reducible repeat' first
    | assumption | (intro _) | apply State.keeps_modCtx

theorem State.keeps_hintAt {addr : Nat → Option Nat} {i : Nat} (hk : σ.Keeps s) : σ.Keeps (State.hintAt s addr i) := by
  unfold State.hintAt
  with_reducible repeat' first
    | assumption | (intro _)
    | (extract_lets +onlyGivenNames x; first | (refine State.Keeps.cut (σ := σ) (x := x) ?_ (fun hx => ?_); subst x; rotate_left; clear_value x; rotate_right) | (refine State.Keeps.cutP (σ := σ) (p := x) ?_ (fun hx => ?_); subst x; rotate_left; clear_value x; rotate_right) | (refine State.KeepsO.cut (σ := σ) (o := x) ?_ (fun hx => ?_); subst x; rotate_left; clear_value x; rotate_right) | clear_value x)
    | apply State.keeps_activateHint | apply State.Keeps.ite | (split)

theorem State.keeps_hintRun {addr : Nat → Option Nat} {issued i j : Nat} (hk : σ.Keeps s) :
    σ.Keeps (State.hintRun s addr issued i j) := by
  unfold State.hintRun
  with_reducible repeat' first
    | assumption | (intro _) | apply State.keeps_forEach | apply State.keeps_hintAt | apply State.Keeps.ite

theorem State.keeps_runAhead {c : Nat} {x : Ctx} {k : Cur} (hk : σ.Keeps s) : σ.Keeps (State.runAhead s c x k) := by
  unfold State.runAhead
  with_reducible repeat' first
    | assumption | (intro _)
    | (extract_lets +onlyGivenNames x; first | (refine State.Keeps.cut (σ := σ) (x := x) ?_ (fun hx => ?_); subst x; rotate_left; clear_value x; rotate_right) | (refine State.Keeps.cutP (σ := σ) (p := x) ?_ (fun hx => ?_); subst x; rotate_left; clear_value x; rotate_right) | (have _f : State → _ := x; clear _f; subst x) | clear_value x)
    | apply State.keeps_modCur | apply State.keeps_hintRun | simp only [State.keeps_mk] | apply State.Keeps.ite

theorem State.keeps_issueWrite {c : Nat} {x : Ctx} {k : Cur} (hk : σ.Keeps s) : σ.KeepsO (State.issueWrite s c x k) := by
  unfold State.issueWrite
  with_reducible repeat' first
    | assumption | (intro _)
    | (extract_lets +onlyGivenNames x; first | (refine State.Keeps.cut (σ := σ) (x := x) ?_ (fun hx => ?_); subst x; rotate_left; clear_value x; rotate_right) | (refine State.Keeps.cutP (σ := σ) (p := x) ?_ (fun hx => ?_); subst x; rotate_left; clear_value x; rotate_right) | (refine State.KeepsO.cut (σ := σ) (o := x) ?_ (fun hx => ?_); subst x; rotate_left; clear_value x; rotate_right) | clear_value x)
    | apply State.keeps_ctxIssue | apply State.keeps_modCur | simp only [State.keeps_mk] | apply State.KeepsO.some
    | exact State.KeepsO.none | apply State.KeepsO.map | apply State.KeepsO.mapAll | apply State.Keeps.ite | (split)

theorem State.keeps_issueIndex {c : Nat} {x : Ctx} {k : Cur} (hk : σ.Keeps s) : σ.KeepsO (State.issueIndex s c x k) := by
  unfold State.issueIndex
  with_reducible repeat' first
    | assumption | (intro _)
    | (extract_lets +onlyGivenNames x; first | (refine State.Keeps.cut (σ := σ) (x := x) ?_ (fun hx => ?_); subst x; rotate_left; clear_value x; rotate_right) | (refine State.Keeps.cutP (σ := σ) (p := x) ?_ (fun hx => ?_); subst x; rotate_left; clear_value x; rotate_right) | (refine State.KeepsO.cut (σ := σ) (o := x) ?_ (fun hx => ?_); subst x; rotate_left; clear_value x; rotate_right) | clear_value x)
    | apply State.keeps_ctxIssue | apply State.keeps_modCur | simp only [State.keeps_mk] | apply State.KeepsO.some
    | exact State.KeepsO.none | apply State.Keeps.ite | (split)

theorem State.keeps_issueRead {c : Nat} {x : Ctx} {k : Cur} (hk : σ.Keeps s) : σ.KeepsO (State.issueRead s c x k) := by
  unfold State.issueRead
  with_reducible repeat' first
    | assumption | (intro _)
    | (extract_lets +onlyGivenNames x; first | (refine State.Keeps.cut (σ := σ) (x := x) ?_ (fun hx => ?_); subst x; rotate_left; clear_value x; rotate_right) | (refine State.Keeps.cutP (σ := σ) (p := x) ?_ (fun hx => ?_); subst x; rotate_left; clear_value x; rotate_right) | (refine State.KeepsO.cut (σ := σ) (o := x) ?_ (fun hx => ?_); subst x; rotate_left; clear_value x; rotate_right) | clear_value x)
    | apply State.keeps_trapNow | apply State.keeps_ctxIssue | apply State.keeps_modCur | simp only [State.keeps_mk]
    | apply State.KeepsO.some | exact State.KeepsO.none | apply State.Keeps.ite | (split)

theorem State.keeps_issue1 {c : Nat} (hk : σ.Keeps s) : σ.Keeps (State.issue1 s c) := by
  unfold State.issue1
  with_reducible repeat' first
    | assumption | (intro _)
    | (extract_lets +onlyGivenNames x; first | (refine State.Keeps.cut (σ := σ) (x := x) ?_ (fun hx => ?_); subst x; rotate_left; clear_value x; rotate_right) | (refine State.Keeps.cutP (σ := σ) (p := x) ?_ (fun hx => ?_); subst x; rotate_left; clear_value x; rotate_right) | (refine State.KeepsO.cut (σ := σ) (o := x) ?_ (fun hx => ?_); subst x; rotate_left; clear_value x; rotate_right) | clear_value x)
    | apply State.keeps_runAhead | apply State.keeps_issueWrite | apply State.keeps_issueIndex
    | apply State.keeps_issueRead | apply State.KeepsO.getD | apply State.Keeps.ite | (apply State.KeepsO.elim; assumption)
    | (split)

theorem State.keeps_begin {c : Nat} {want : Nat → Bool} (hk : σ.Keeps s) : σ.Keeps (State.begin s c want) := by
  unfold State.begin
  with_reducible repeat' first
    | assumption | (intro _) | apply State.keeps_modCtx | apply State.keeps_launch | simp only [State.keeps_mk]
    | (apply State.Keeps.fst; assumption) | (split)

theorem State.keeps_timed {c : Nat} {want : Nat → Bool} {act : State → Ctx → Nat → State} (hk : σ.Keeps s) (h' : ∀ t x w, σ.Keeps t → σ.Keeps (act t x w)) :
    σ.Keeps (State.timed s c want act) := by
  unfold State.timed
  extract_lets t
  have h1 : σ.Keeps t := State.keeps_begin hk
  split
  · exact h' _ _ _ h1
  · exact h1

theorem State.keeps_advanceData {c : Nat} (hk : σ.Keeps s) : σ.Keeps (State.advanceData s c) := by
  unfold State.advanceData
  with_reducible repeat' first
    | assumption | (intro _) | apply State.keeps_forEach | apply State.keeps_takeDone | apply State.keeps_issue1
    | apply State.Keeps.ite | (split)

theorem State.keeps_dataIns {c op : Nat} (hk : σ.Keeps s) : σ.Keeps (State.dataIns s c op) := by
  unfold State.dataIns
  with_reducible repeat' first
    | assumption | (intro _)
    | (extract_lets +onlyGivenNames x; first | (refine State.Keeps.cut (σ := σ) (x := x) ?_ (fun hx => ?_); subst x; rotate_left; clear_value x; rotate_right) | (refine State.Keeps.cutP (σ := σ) (p := x) ?_ (fun hx => ?_); subst x; rotate_left; clear_value x; rotate_right) | (refine State.KeepsO.cut (σ := σ) (o := x) ?_ (fun hx => ?_); subst x; rotate_left; clear_value x; rotate_right) | (have _f : State → _ := x; clear _f; subst x) | clear_value x)
    | apply State.keeps_setCtx | apply State.keeps_begin | apply State.keeps_advanceData | apply State.Keeps.ite | (split)

theorem keeps_execSeqMove {c : Fin 256} (hk : σ.Keeps s) : σ.KeepsR (execSeqMove c s) := by
  unfold execSeqMove
  with_reducible repeat' first
    | assumption | (intro _) | apply State.keeps_dataIns | apply State.KeepsR.next

theorem keeps_execSeqFill {c : Fin 256} (hk : σ.Keeps s) : σ.KeepsR (execSeqFill c s) := by
  unfold execSeqFill
  with_reducible repeat' first
    | assumption | (intro _) | apply State.keeps_dataIns | apply State.KeepsR.next

theorem keeps_execSeqGather {c : Fin 256} (hk : σ.Keeps s) : σ.KeepsR (execSeqGather c s) := by
  unfold execSeqGather
  with_reducible repeat' first
    | assumption | (intro _) | apply State.keeps_dataIns | apply State.KeepsR.next

theorem keeps_execSeqScatter {c : Fin 256} (hk : σ.Keeps s) : σ.KeepsR (execSeqScatter c s) := by
  unfold execSeqScatter
  with_reducible repeat' first
    | assumption | (intro _) | apply State.keeps_dataIns | apply State.KeepsR.next

theorem keeps_execSeqRewrite {c : Fin 256} (hk : σ.Keeps s) : σ.KeepsR (execSeqRewrite c s) := by
  unfold execSeqRewrite
  with_reducible repeat' first
    | assumption | (intro _) | apply State.keeps_dataIns | apply State.KeepsR.next

theorem State.keeps_requestFailed {c : Nat} (hk : σ.Keeps s) : σ.Keeps (State.requestFailed s c) := by
  unfold State.requestFailed
  with_reducible repeat' first
    | assumption | (intro _) | apply State.keeps_trapNow | apply State.Keeps.ite | (split)

theorem keeps_execSeqRequestFailed {c : Fin 256} (hk : σ.Keeps s) : σ.KeepsR (execSeqRequestFailed c s) := by
  unfold execSeqRequestFailed
  with_reducible repeat' first
    | assumption | (intro _) | apply State.keeps_requestFailed | apply State.KeepsR.next

theorem State.keeps_feed1 {c : Nat} (hk : σ.Keeps s) : σ.Keeps (State.feed1 s c) := by
  unfold State.feed1
  with_reducible repeat' first
    | assumption | (intro _)
    | (extract_lets +onlyGivenNames x; first | (refine State.Keeps.cut (σ := σ) (x := x) ?_ (fun hx => ?_); subst x; rotate_left; clear_value x; rotate_right) | (refine State.Keeps.cutP (σ := σ) (p := x) ?_ (fun hx => ?_); subst x; rotate_left; clear_value x; rotate_right) | (refine State.KeepsO.cut (σ := σ) (o := x) ?_ (fun hx => ?_); subst x; rotate_left; clear_value x; rotate_right) | clear_value x)
    | apply State.keeps_fset | apply State.keeps_setChk | apply State.keeps_trapNow | apply State.keeps_modCur
    | simp only [State.keeps_mk] | apply State.Keeps.ite | (split)

theorem State.keeps_checkEnd {c u : Nat} {x : Ctx} {w : Nat} (hk : σ.Keeps s) : σ.Keeps (State.checkEnd s c u x w) := by
  unfold State.checkEnd
  with_reducible repeat' first
    | assumption | (intro _) | apply State.keeps_setCtx | apply State.keeps_setChk | apply State.keeps_chkOwner

theorem State.keeps_checkResult {c : Nat} {x : Ctx} {k : Cur} (hk : σ.Keeps s) : σ.Keeps (State.checkResult s c x k) := by
  unfold State.checkResult
  with_reducible repeat' first
    | assumption | (intro _)
    | (extract_lets +onlyGivenNames x; first | (refine State.Keeps.cut (σ := σ) (x := x) ?_ (fun hx => ?_); subst x; rotate_left; clear_value x; rotate_right) | (refine State.Keeps.cutP (σ := σ) (p := x) ?_ (fun hx => ?_); subst x; rotate_left; clear_value x; rotate_right) | (refine State.KeepsO.cut (σ := σ) (o := x) ?_ (fun hx => ?_); subst x; rotate_left; clear_value x; rotate_right) | clear_value x)
    | apply State.keeps_fset | apply State.keeps_dropReq | apply State.keeps_trapNow | apply State.keeps_ctxIssue
    | apply State.keeps_modCur | apply State.keeps_checkEnd | simp only [State.keeps_mk] | apply State.KeepsO.getD
    | apply State.Keeps.ite | (split)

theorem State.keeps_checkIns {c : Nat} (hk : σ.Keeps s) : σ.Keeps (State.checkIns s c) := by
  unfold State.checkIns
  with_reducible repeat' first
    | assumption | (intro _)
    | (extract_lets +onlyGivenNames x; first | (refine State.Keeps.cut (σ := σ) (x := x) ?_ (fun hx => ?_); subst x; rotate_left; clear_value x; rotate_right) | (refine State.Keeps.cutP (σ := σ) (p := x) ?_ (fun hx => ?_); subst x; rotate_left; clear_value x; rotate_right) | (refine State.KeepsO.cut (σ := σ) (o := x) ?_ (fun hx => ?_); subst x; rotate_left; clear_value x; rotate_right) | (have _f : State → _ := x; clear _f; subst x) | clear_value x)
    | apply State.keeps_forEach | apply State.keeps_modCtx | apply State.keeps_chkLast | apply State.keeps_chkOwner
    | apply State.keeps_chkLatch | apply State.keeps_launch | apply State.keeps_advanceData | apply State.keeps_feed1
    | apply State.keeps_checkResult | (apply State.KeepsO.of; assumption) | apply State.KeepsO.some
    | exact State.KeepsO.none | simp only [State.keeps_mk] | apply State.Keeps.ite | (apply State.Keeps.fst; assumption)
    | (split)

theorem keeps_execSeqCheck {c : Fin 256} (hk : σ.Keeps s) : σ.KeepsR (execSeqCheck c s) := by
  unfold execSeqCheck
  with_reducible repeat' first
    | assumption | (intro _) | apply State.keeps_checkIns | apply State.KeepsR.next

theorem State.keeps_gateSwapAct {x : Ctx} {k : Cur} (hk : σ.Keeps s) : σ.Keeps (State.gateSwapAct s x k).1 := by
  unfold State.gateSwapAct
  with_reducible repeat' first
    | assumption | (intro _)
    | (extract_lets +onlyGivenNames x; first | (refine State.Keeps.cut (σ := σ) (x := x) ?_ (fun hx => ?_); subst x; rotate_left; clear_value x; rotate_right) | (refine State.Keeps.cutP (σ := σ) (p := x) ?_ (fun hx => ?_); subst x; rotate_left; clear_value x; rotate_right) | clear_value x)
    | apply State.keeps_fset | apply State.keeps_forEach | apply State.keeps_settleSwap | apply State.keeps_gateEntWrite
    | apply State.keeps_gateArm | apply State.Keeps.ite | (split)

theorem State.keeps_gateSwapIns {c : Nat} (hk : σ.Keeps s) : σ.Keeps (State.gateSwapIns s c) := by
  unfold State.gateSwapIns
  with_reducible repeat' first
    | assumption | (intro _)
    | (extract_lets +onlyGivenNames x; first | (refine State.Keeps.cut (σ := σ) (x := x) ?_ (fun hx => ?_); subst x; rotate_left; clear_value x; rotate_right) | (refine State.Keeps.cutP (σ := σ) (p := x) ?_ (fun hx => ?_); subst x; rotate_left; clear_value x; rotate_right) | (refine State.KeepsO.cut (σ := σ) (o := x) ?_ (fun hx => ?_); subst x; rotate_left; clear_value x; rotate_right) | (have _f : State → _ := x; clear _f; subst x) | clear_value x)
    | apply State.keeps_setCtx | apply State.keeps_begin | apply State.keeps_advanceData | apply State.keeps_gateSwapAct
    | apply State.Keeps.ite | (apply State.Keeps.fst; assumption) | (split)

theorem keeps_execGateSwap {c : Fin 256} (hk : σ.Keeps s) : σ.KeepsR (execGateSwap c s) := by
  unfold execGateSwap
  with_reducible repeat' first
    | assumption | (intro _) | apply State.keeps_gateSwapIns | apply State.KeepsR.next

theorem State.keeps_waitOn {c : Nat} {x : Ctx} {w : Wait} (hk : σ.Keeps s) : σ.Keeps (State.waitOn s c x w) := by
  unfold State.waitOn
  with_reducible repeat' first
    | assumption | (intro _) | apply State.keeps_modSlot | apply State.keeps_setCtx

theorem State.keeps_waitCadence {c : Nat} {x : Ctx} {w : Nat} (hk : σ.Keeps s) : σ.Keeps (State.waitCadence s c x w) := by
  unfold State.waitCadence
  with_reducible repeat' first
    | assumption | (intro _)
    | (extract_lets +onlyGivenNames x; first | (refine State.Keeps.cut (σ := σ) (x := x) ?_ (fun hx => ?_); subst x; rotate_left; clear_value x; rotate_right) | (refine State.Keeps.cutP (σ := σ) (p := x) ?_ (fun hx => ?_); subst x; rotate_left; clear_value x; rotate_right) | (refine State.KeepsO.cut (σ := σ) (o := x) ?_ (fun hx => ?_); subst x; rotate_left; clear_value x; rotate_right) | clear_value x)
    | apply State.keeps_setCtx | apply State.keeps_waitOn | simp only [State.keeps_mk] | apply State.Keeps.ite

theorem keeps_execWaitCadence {c : Fin 256} (hk : σ.Keeps s) : σ.KeepsR (execWaitCadence c s) := by
  unfold execWaitCadence
  with_reducible repeat' first
    | assumption | (intro _) | apply State.keeps_control | apply State.keeps_waitCadence | apply State.KeepsR.next

theorem State.keeps_cadencePass {c : Nat} {x : Ctx} (hk : σ.Keeps s) : σ.Keeps (State.cadencePass s c x) := by
  unfold State.cadencePass
  with_reducible repeat' first
    | assumption | (intro _) | apply State.keeps_modSlot | apply State.keeps_setCtx

theorem State.keeps_waitRelease {c : Nat} (hk : σ.Keeps s) : σ.Keeps (State.waitRelease s c) := by
  unfold State.waitRelease
  with_reducible repeat' first
    | assumption | (intro _) | apply State.keeps_atCadence | apply State.keeps_cadencePass
    | (apply State.KeepsO.elim; assumption) | (split)

theorem keeps_execWaitCadenceRelease {c : Fin 256} (hk : σ.Keeps s) : σ.KeepsR (execWaitCadenceRelease c s) := by
  unfold execWaitCadenceRelease
  with_reducible repeat' first
    | assumption | (intro _) | apply State.keeps_waitRelease | apply State.KeepsR.next

theorem State.keeps_waitToken {c : Nat} {x : Ctx} {w : Nat} (hk : σ.Keeps s) : σ.Keeps (State.waitToken s c x w) := by
  unfold State.waitToken
  with_reducible repeat' first
    | assumption | (intro _)
    | (extract_lets +onlyGivenNames x; first | (refine State.Keeps.cut (σ := σ) (x := x) ?_ (fun hx => ?_); subst x; rotate_left; clear_value x; rotate_right) | (refine State.Keeps.cutP (σ := σ) (p := x) ?_ (fun hx => ?_); subst x; rotate_left; clear_value x; rotate_right) | (refine State.KeepsO.cut (σ := σ) (o := x) ?_ (fun hx => ?_); subst x; rotate_left; clear_value x; rotate_right) | clear_value x)
    | apply State.keeps_setCtx | apply State.keeps_setTokenQ | apply State.keeps_serveToken | apply State.keeps_waitOn
    | apply State.Keeps.ite

theorem keeps_execWaitToken {c : Fin 256} (hk : σ.Keeps s) : σ.KeepsR (execWaitToken c s) := by
  unfold execWaitToken
  with_reducible repeat' first
    | assumption | (intro _) | apply State.keeps_control | apply State.keeps_waitToken | apply State.KeepsR.next

theorem State.keeps_seqSignal {c : Nat} {x : Ctx} {w : Nat} (hk : σ.Keeps s) : σ.Keeps (State.seqSignal s c x w) := by
  unfold State.seqSignal
  with_reducible repeat' first
    | assumption | (intro _)
    | (extract_lets +onlyGivenNames x; first | (refine State.Keeps.cut (σ := σ) (x := x) ?_ (fun hx => ?_); subst x; rotate_left; clear_value x; rotate_right) | (refine State.Keeps.cutP (σ := σ) (p := x) ?_ (fun hx => ?_); subst x; rotate_left; clear_value x; rotate_right) | (refine State.KeepsO.cut (σ := σ) (o := x) ?_ (fun hx => ?_); subst x; rotate_left; clear_value x; rotate_right) | clear_value x)
    | apply State.keeps_post | apply State.keeps_setCtx | apply State.keeps_setToken | apply State.Keeps.ite

theorem keeps_execSeqSignal {c : Fin 256} (hk : σ.Keeps s) : σ.KeepsR (execSeqSignal c s) := by
  unfold execSeqSignal
  with_reducible repeat' first
    | assumption | (intro _) | apply State.keeps_timed | apply State.keeps_seqSignal | apply State.KeepsR.next

theorem State.keeps_seqFence {c : Nat} {x : Ctx} (hk : σ.Keeps s) : σ.Keeps (State.seqFence s c x) := by
  unfold State.seqFence
  with_reducible repeat' first
    | assumption | (intro _) | apply State.keeps_setCtx | apply State.Keeps.ite

theorem keeps_execSeqFence {c : Fin 256} (hk : σ.Keeps s) : σ.KeepsR (execSeqFence c s) := by
  unfold execSeqFence
  with_reducible repeat' first
    | assumption | (intro _) | apply State.keeps_timed | apply State.keeps_seqFence | apply State.KeepsR.next

theorem State.keeps_setStream {c : Nat} {x : Ctx} {w : Nat} (hk : σ.Keeps s) : σ.Keeps (State.setStream s c x w) := by
  unfold State.setStream
  with_reducible repeat' first
    | assumption | (intro _)
    | (extract_lets +onlyGivenNames x; first | (refine State.Keeps.cut (σ := σ) (x := x) ?_ (fun hx => ?_); subst x; rotate_left; clear_value x; rotate_right) | (refine State.Keeps.cutP (σ := σ) (p := x) ?_ (fun hx => ?_); subst x; rotate_left; clear_value x; rotate_right) | (refine State.KeepsO.cut (σ := σ) (o := x) ?_ (fun hx => ?_); subst x; rotate_left; clear_value x; rotate_right) | clear_value x)
    | apply State.keeps_setCtx | apply State.keeps_named | apply State.keeps_streamOk | simp only [State.keeps_mk]
    | apply State.Keeps.ite | (apply State.Keeps.fst; assumption) | (split)

theorem keeps_execSetStream {c : Fin 256} (hk : σ.Keeps s) : σ.KeepsR (execSetStream c s) := by
  unfold execSetStream
  with_reducible repeat' first
    | assumption | (intro _) | apply State.keeps_timed | apply State.keeps_setStream | apply State.KeepsR.next

theorem State.keeps_setStreamLoad {c : Nat} {x : Ctx} {w : Nat} (hk : σ.Keeps s) :
    σ.Keeps (State.setStreamLoad s c x w) := by
  unfold State.setStreamLoad
  with_reducible repeat' first
    | assumption | (intro _)
    | (extract_lets +onlyGivenNames x; first | (refine State.Keeps.cut (σ := σ) (x := x) ?_ (fun hx => ?_); subst x; rotate_left; clear_value x; rotate_right) | (refine State.Keeps.cutP (σ := σ) (p := x) ?_ (fun hx => ?_); subst x; rotate_left; clear_value x; rotate_right) | (refine State.KeepsO.cut (σ := σ) (o := x) ?_ (fun hx => ?_); subst x; rotate_left; clear_value x; rotate_right) | clear_value x)
    | apply State.keeps_setCtx | apply State.keeps_streamCmd

theorem keeps_execSetStreamLoad {c : Fin 256} (hk : σ.Keeps s) : σ.KeepsR (execSetStreamLoad c s) := by
  unfold execSetStreamLoad
  with_reducible repeat' first
    | assumption | (intro _) | apply State.keeps_control | apply State.keeps_setStreamLoad | apply State.KeepsR.next

theorem keeps_execSeqLoop {c : Fin 256} (hk : σ.Keeps s) : σ.KeepsR (execSeqLoop c s) := by
  unfold execSeqLoop
  with_reducible repeat' first
    | assumption | (intro _) | apply State.keeps_setCtx | apply State.keeps_control | apply State.KeepsR.next

theorem keeps_execSeqBranch {c : Fin 256} (hk : σ.Keeps s) : σ.KeepsR (execSeqBranch c s) := by
  unfold execSeqBranch
  with_reducible repeat' first
    | assumption | (intro _) | apply State.keeps_setCtx | apply State.keeps_control | apply State.KeepsR.next

theorem State.keeps_seqEnd {c : Nat} {x : Ctx} (hk : σ.Keeps s) : σ.Keeps (State.seqEnd s c x) := by
  unfold State.seqEnd
  with_reducible repeat' first
    | assumption | (intro _) | apply State.keeps_finish | apply State.KeepsO.getD | apply State.Keeps.ite

theorem keeps_execSeqEnd {c : Fin 256} (hk : σ.Keeps s) : σ.KeepsR (execSeqEnd c s) := by
  unfold execSeqEnd
  with_reducible repeat' first
    | assumption | (intro _) | apply State.keeps_timed | apply State.keeps_seqEnd | apply State.KeepsR.next

theorem State.keeps_seqTrap {x : Ctx} {w : Nat} (hk : σ.Keeps s) : σ.Keeps (State.seqTrap s x w) := by
  unfold State.seqTrap
  with_reducible repeat' first
    | assumption | (intro _) | apply State.keeps_finish

theorem keeps_execSeqTrap {c : Fin 256} (hk : σ.Keeps s) : σ.KeepsR (execSeqTrap c s) := by
  unfold execSeqTrap
  with_reducible repeat' first
    | assumption | (intro _) | apply State.keeps_control | apply State.keeps_seqTrap | apply State.KeepsR.next

theorem State.keeps_sampleMoment (hk : σ.Keeps s) : σ.KeepsO (State.sampleMoment s) := by
  unfold State.sampleMoment
  with_reducible repeat' first
    | assumption | (intro _) | apply State.keeps_atCadence | simp only [State.keeps_mk] | apply State.KeepsO.some
    | exact State.KeepsO.none | apply State.KeepsO.map | apply State.KeepsO.mapAll | apply State.Keeps.ite
    | (apply State.KeepsO.elim; assumption) | (split)

theorem State.keeps_headroomEvents {short : Bool} {speed req : Nat} (hk : σ.Keeps s) :
    σ.Keeps (State.headroomEvents s short speed req) := by
  unfold State.headroomEvents
  with_reducible repeat' first
    | assumption | (intro _)
    | (extract_lets +onlyGivenNames x; first | (refine State.Keeps.cut (σ := σ) (x := x) ?_ (fun hx => ?_); subst x; rotate_left; clear_value x; rotate_right) | (refine State.Keeps.cutP (σ := σ) (p := x) ?_ (fun hx => ?_); subst x; rotate_left; clear_value x; rotate_right) | clear_value x)
    | apply State.keeps_post | simp only [State.keeps_mk] | apply State.Keeps.ite

theorem State.keeps_headroomSample {speed area : Nat} (hk : σ.Keeps s) : σ.Keeps (State.headroomSample s speed area) := by
  unfold State.headroomSample
  with_reducible repeat' first
    | assumption | (intro _)
    | (extract_lets +onlyGivenNames x; first | (refine State.Keeps.cut (σ := σ) (x := x) ?_ (fun hx => ?_); subst x; rotate_left; clear_value x; rotate_right) | (refine State.Keeps.cutP (σ := σ) (p := x) ?_ (fun hx => ?_); subst x; rotate_left; clear_value x; rotate_right) | clear_value x)
    | apply State.keeps_fset | apply State.keeps_headroomEvents

theorem keeps_execHeadroomSample {speed : BitVec 16} {area : BitVec 8} (hk : σ.Keeps s) :
    σ.KeepsR (execHeadroomSample speed area s) := by
  unfold execHeadroomSample
  with_reducible repeat' first
    | assumption | (intro _) | apply State.keeps_sampleMoment | apply State.keeps_headroomSample | apply State.KeepsR.next
    | exact State.KeepsR.fault | apply State.Keeps.ite | (apply State.KeepsO.elim; assumption) | (split)

theorem keeps_execCadSyncArm {w : Word} (hk : σ.Keeps s) : σ.KeepsR (execCadSyncArm w s) := by
  unfold execCadSyncArm
  with_reducible repeat' first
    | assumption | (intro _) | apply State.keeps_fset | apply State.keeps_cpDo

theorem State.keeps_jumped {old : Nat} (hk : σ.Keeps s) : σ.Keeps (State.jumped s old) := by
  unfold State.jumped
  with_reducible repeat' first
    | assumption | (intro _)
    | (extract_lets +onlyGivenNames x; first | (refine State.Keeps.cut (σ := σ) (x := x) ?_ (fun hx => ?_); subst x; rotate_left; clear_value x; rotate_right) | (refine State.Keeps.cutP (σ := σ) (p := x) ?_ (fun hx => ?_); subst x; rotate_left; clear_value x; rotate_right) | (refine State.KeepsO.cut (σ := σ) (o := x) ?_ (fun hx => ?_); subst x; rotate_left; clear_value x; rotate_right) | clear_value x)
    | apply State.keeps_forEach | apply State.keeps_settleSwap | apply State.keeps_jumpSamples
    | apply State.keeps_tallyPass | apply State.keeps_cadencePass | (apply State.KeepsO.of; assumption)
    | apply State.KeepsO.some | exact State.KeepsO.none | apply State.Keeps.ite | (split)

theorem State.keeps_stepBy {delta : Int} (hk : σ.Keeps s) : σ.Keeps (State.stepBy s delta) := by
  unfold State.stepBy
  with_reducible repeat' first
    | assumption | (intro _)
    | (extract_lets +onlyGivenNames x; first | (refine State.Keeps.cut (σ := σ) (x := x) ?_ (fun hx => ?_); subst x; rotate_left; clear_value x; rotate_right) | (refine State.Keeps.cutP (σ := σ) (p := x) ?_ (fun hx => ?_); subst x; rotate_left; clear_value x; rotate_right) | clear_value x)
    | apply State.keeps_fset | apply State.keeps_raise | apply State.keeps_post | apply State.keeps_jumped
    | simp only [State.keeps_mk] | apply State.Keeps.ite

theorem State.keeps_armedEdge (hk : σ.Keeps s) : σ.Keeps (State.armedEdge s) := by
  unfold State.armedEdge
  with_reducible repeat' first
    | assumption | (intro _)
    | (extract_lets +onlyGivenNames x; first | (refine State.Keeps.cut (σ := σ) (x := x) ?_ (fun hx => ?_); subst x; rotate_left; clear_value x; rotate_right) | (refine State.Keeps.cutP (σ := σ) (p := x) ?_ (fun hx => ?_); subst x; rotate_left; clear_value x; rotate_right) | clear_value x)
    | apply State.keeps_fset | apply State.keeps_raise | apply State.keeps_post | apply State.keeps_stepBy
    | apply State.Keeps.ite

theorem State.keeps_syncEdge (hk : σ.Keeps s) : σ.Keeps (State.syncEdge s) := by
  unfold State.syncEdge
  with_reducible repeat' first
    | assumption | (intro _)
    | (extract_lets +onlyGivenNames x; first | (refine State.Keeps.cut (σ := σ) (x := x) ?_ (fun hx => ?_); subst x; rotate_left; clear_value x; rotate_right) | (refine State.Keeps.cutP (σ := σ) (p := x) ?_ (fun hx => ?_); subst x; rotate_left; clear_value x; rotate_right) | (refine State.KeepsO.cut (σ := σ) (o := x) ?_ (fun hx => ?_); subst x; rotate_left; clear_value x; rotate_right) | clear_value x)
    | apply State.keeps_count | apply State.keeps_armedEdge | simp only [State.keeps_mk] | apply State.Keeps.ite

theorem keeps_execSyncEdge (hk : σ.Keeps s) : σ.KeepsR (execSyncEdge s) := by
  unfold execSyncEdge
  with_reducible repeat' first
    | assumption | (intro _) | apply State.keeps_syncEdge | apply State.KeepsR.next | exact State.KeepsR.fault
    | apply State.Keeps.ite

theorem State.keeps_pauseEnd (hk : σ.Keeps s) : σ.Keeps (State.pauseEnd s) := by
  unfold State.pauseEnd
  with_reducible repeat' first
    | assumption | (intro _) | apply State.keeps_fset | simp only [State.keeps_mk]

theorem keeps_execCadencePauseEnd (hk : σ.Keeps s) : σ.KeepsR (execCadencePauseEnd s) := by
  unfold execCadencePauseEnd
  with_reducible repeat' first
    | assumption | (intro _) | apply State.keeps_pauseEnd | apply State.KeepsR.next | exact State.KeepsR.fault
    | apply State.Keeps.ite

theorem State.keeps_tick (hk : σ.Keeps s) : σ.Keeps (State.tick s) := by
  unfold State.tick
  with_reducible repeat' first
    | assumption | (intro _) | apply State.keeps_pauseEnd | simp only [State.keeps_mk] | apply State.Keeps.ite

theorem State.keeps_nmuIssue {o : Own} {n m : Nat} {j : Job} {kind : PKind} {a : Nat} {data : List Atom} {be : List (BitVec 64)} (hk : σ.Keeps s) :
    σ.Keeps (State.nmuIssue s o n m j kind a data be) := by
  unfold State.nmuIssue
  with_reducible repeat' first
    | assumption | (intro _)
    | (extract_lets +onlyGivenNames x; first | (refine State.Keeps.cut (σ := σ) (x := x) ?_ (fun hx => ?_); subst x; rotate_left; clear_value x; rotate_right) | (refine State.Keeps.cutP (σ := σ) (p := x) ?_ (fun hx => ?_); subst x; rotate_left; clear_value x; rotate_right) | clear_value x)
    | apply State.keeps_modReq | apply State.keeps_ownStart

theorem State.keeps_opened {j : Job} {l : List AtomW} (hk : σ.Keeps s) : σ.Keeps (State.opened s j l).1 := by
  refine State.keepsP_foldl _ hk fun r w hr => ?_
  split
  · exact State.keeps_freed hr
  · exact hr

theorem State.keeps_readsDrop {id : Nat} {k : Option Nat} (hk : σ.Keeps s) : σ.Keeps (State.readsDrop s id k) := by
  unfold State.readsDrop
  with_reducible repeat' first
    | assumption | (intro _) | simp only [State.keeps_mk]

theorem State.keeps_dropJob {id : Nat} (hk : σ.Keeps s) : σ.Keeps (State.dropJob s id) := by
  unfold State.dropJob
  with_reducible repeat' first
    | assumption | (intro _)
    | (extract_lets +onlyGivenNames x; first | (refine State.Keeps.cut (σ := σ) (x := x) ?_ (fun hx => ?_); subst x; rotate_left; clear_value x; rotate_right) | (refine State.Keeps.cutP (σ := σ) (p := x) ?_ (fun hx => ?_); subst x; rotate_left; clear_value x; rotate_right) | clear_value x)
    | apply State.keeps_readsDrop | simp only [State.keeps_mk]

theorem State.keeps_jobTrap {id : Nat} {j : Job} {t : Trap} (hk : σ.Keeps s) : σ.Keeps (State.jobTrap s id j t) := by
  unfold State.jobTrap
  with_reducible repeat' first
    | assumption | (intro _)
    | (extract_lets +onlyGivenNames x; first | (refine State.Keeps.cut (σ := σ) (x := x) ?_ (fun hx => ?_); subst x; rotate_left; clear_value x; rotate_right) | (refine State.Keeps.cutP (σ := σ) (p := x) ?_ (fun hx => ?_); subst x; rotate_left; clear_value x; rotate_right) | (refine State.KeepsO.cut (σ := σ) (o := x) ?_ (fun hx => ?_); subst x; rotate_left; clear_value x; rotate_right) | clear_value x)
    | apply State.keeps_modCtx | apply State.keeps_finish | apply State.keeps_dropJob | simp only [State.keeps_mk]
    | apply State.KeepsO.getD | apply State.Keeps.ite

theorem State.keeps_exchange {n a : Nat} (hk : σ.Keeps s) : σ.Keeps (State.exchange s n a) := by
  unfold State.exchange
  with_reducible repeat' first
    | assumption | (intro _) | apply State.keeps_count | apply State.Keeps.ite | (split)

theorem State.keeps_countWork {n elems : Nat} {res : List Res} (hk : σ.Keeps s) :
    σ.Keeps (State.countWork s n elems res) := by
  unfold State.countWork
  with_reducible repeat' first
    | assumption | (intro _) | apply State.keeps_count

theorem State.keeps_nmuDid {n : Nat} (hk : σ.Keeps s) : σ.Keeps (State.nmuDid s n) := by
  unfold State.nmuDid
  with_reducible repeat' first
    | assumption | (intro _) | simp only [State.keeps_mk]

theorem State.keeps_itemDone {id k : Nat} {j : Job} (hk : σ.Keeps s) : σ.Keeps (State.itemDone s id k j) := by
  unfold State.itemDone
  with_reducible repeat' first
    | assumption | (intro _)
    | (extract_lets +onlyGivenNames x; first | (refine State.Keeps.cut (σ := σ) (x := x) ?_ (fun hx => ?_); subst x; rotate_left; clear_value x; rotate_right) | (refine State.Keeps.cutP (σ := σ) (p := x) ?_ (fun hx => ?_); subst x; rotate_left; clear_value x; rotate_right) | clear_value x)
    | apply State.keeps_count | simp only [State.keeps_mk] | apply State.Keeps.ite

theorem State.keeps_resultWrite {n id k : Nat} {j : Job} {w : AtomW × Nat} (hk : σ.Keeps s) :
    σ.Keeps (State.resultWrite s n id k j w) := by
  unfold State.resultWrite
  with_reducible repeat' first
    | assumption | (intro _)
    | (extract_lets +onlyGivenNames x; first | (refine State.Keeps.cut (σ := σ) (x := x) ?_ (fun hx => ?_); subst x; rotate_left; clear_value x; rotate_right) | (refine State.Keeps.cutP (σ := σ) (p := x) ?_ (fun hx => ?_); subst x; rotate_left; clear_value x; rotate_right) | clear_value x)
    | apply State.keeps_nmuIssue | apply State.keeps_exchange

theorem State.keeps_itemCompute {n id k : Nat} {j : Job} {reads : List Nat} {v : View} (hk : σ.Keeps s) :
    σ.Keeps (State.itemCompute s n id k j reads v) := by
  unfold State.itemCompute
  with_reducible repeat' first
    | assumption | (intro _)
    | (extract_lets +onlyGivenNames x; first | (refine State.Keeps.cut (σ := σ) (x := x) ?_ (fun hx => ?_); subst x; rotate_left; clear_value x; rotate_right) | (refine State.Keeps.cutP (σ := σ) (p := x) ?_ (fun hx => ?_); subst x; rotate_left; clear_value x; rotate_right) | clear_value x)
    | apply State.keeps_forEach | apply State.keeps_opened | apply State.keeps_jobTrap | apply State.keeps_exchange
    | apply State.keeps_countWork | apply State.keeps_nmuDid | apply State.keeps_itemDone | apply State.keeps_resultWrite
    | simp only [State.keeps_mk] | apply State.Keeps.ite

theorem State.keeps_itemGo {n id k : Nat} {j : Job} (hk : σ.Keeps s) : σ.Keeps (State.itemGo s n id k j) := by
  unfold State.itemGo
  with_reducible repeat' first
    | assumption | (intro _)
    | (extract_lets +onlyGivenNames x; first | (refine State.Keeps.cut (σ := σ) (x := x) ?_ (fun hx => ?_); subst x; rotate_left; clear_value x; rotate_right) | (refine State.Keeps.cutP (σ := σ) (p := x) ?_ (fun hx => ?_); subst x; rotate_left; clear_value x; rotate_right) | (refine State.KeepsO.cut (σ := σ) (o := x) ?_ (fun hx => ?_); subst x; rotate_left; clear_value x; rotate_right) | clear_value x)
    | apply State.keeps_count | apply State.keeps_readsDrop | apply State.keeps_jobTrap | apply State.keeps_itemDone
    | apply State.keeps_itemCompute | (apply State.KeepsO.of; assumption) | apply State.KeepsO.some
    | exact State.KeepsO.none | simp only [State.keeps_mk] | apply State.Keeps.ite | (split)

theorem State.keeps_itemStart {n id k : Nat} {j : Job} (hk : σ.Keeps s) : σ.Keeps (State.itemStart s n id k j) := by
  unfold State.itemStart
  with_reducible repeat' first
    | assumption | (intro _)
    | (extract_lets +onlyGivenNames x; first | (refine State.Keeps.cut (σ := σ) (x := x) ?_ (fun hx => ?_); subst x; rotate_left; clear_value x; rotate_right) | (refine State.Keeps.cutP (σ := σ) (p := x) ?_ (fun hx => ?_); subst x; rotate_left; clear_value x; rotate_right) | clear_value x)
    | apply State.keeps_forEach | apply State.keeps_nmuIssue | apply State.keeps_jobTrap | apply State.KeepsO.getD
    | apply State.Keeps.ite

theorem State.keeps_paramGo {id : Nat} (hk : σ.Keeps s) : σ.Keeps (State.paramGo s id) := by
  unfold State.paramGo
  split
  · exact hk
  · rename_i j _
    extract_lets p
    split
    · exact hk
    · split
      · exact State.keeps_jobTrap hk
      · rename_i m _
        have h1 : σ.Keeps (s.ownGo (.param id) fun s => s.nmuIssue (.param id) m m j .read p [] []).1 :=
          State.keeps_ownGo hk fun t ht => State.keeps_nmuIssue ht
        generalize (s.ownGo (.param id) fun s => s.nmuIssue (.param id) m m j .read p [] []) = r at h1 ⊢
        obtain ⟨t, d⟩ := r
        rcases d with ⟨d, _ | _⟩ | _ | _ | d | _ | _
        · exact h1.upd rfl rfl rfl rfl rfl
        all_goals first | exact h1 | exact State.keeps_jobTrap h1

theorem State.keeps_nmuServed {n r : Nat} (hk : σ.Keeps s) : σ.Keeps (State.nmuServed s n r) := by
  unfold State.nmuServed
  with_reducible repeat' first
    | assumption | (intro _) | simp only [State.keeps_mk]

theorem State.keeps_nmuWorkAtom {n id k : Nat} (hk : σ.Keeps s) : σ.Keeps (State.nmuWorkAtom s n id k) := by
  unfold State.nmuWorkAtom
  with_reducible repeat' first
    | assumption | (intro _)
    | (extract_lets +onlyGivenNames x; first | (refine State.Keeps.cut (σ := σ) (x := x) ?_ (fun hx => ?_); subst x; rotate_left; clear_value x; rotate_right) | (refine State.Keeps.cutP (σ := σ) (p := x) ?_ (fun hx => ?_); subst x; rotate_left; clear_value x; rotate_right) | (refine State.KeepsO.cut (σ := σ) (o := x) ?_ (fun hx => ?_); subst x; rotate_left; clear_value x; rotate_right) | clear_value x)
    | apply State.keeps_jobTrap | apply State.keeps_itemGo | apply State.keeps_itemStart | apply State.keeps_nmuServed
    | apply State.KeepsO.getD | apply State.Keeps.ite | (split)

theorem State.keeps_jobStart {c : Nat} {x : Ctx} {w : Nat} (hk : σ.Keeps s) : σ.Keeps (State.jobStart s c x w) := by
  unfold State.jobStart
  with_reducible repeat' first
    | assumption | (intro _)
    | (extract_lets +onlyGivenNames x; first | (refine State.Keeps.cut (σ := σ) (x := x) ?_ (fun hx => ?_); subst x; rotate_left; clear_value x; rotate_right) | (refine State.Keeps.cutP (σ := σ) (p := x) ?_ (fun hx => ?_); subst x; rotate_left; clear_value x; rotate_right) | (refine State.KeepsO.cut (σ := σ) (o := x) ?_ (fun hx => ?_); subst x; rotate_left; clear_value x; rotate_right) | clear_value x)
    | apply State.keeps_setCtx | apply State.keeps_trapNow | apply State.keeps_paramGo | simp only [State.keeps_mk]
    | apply State.Keeps.ite | (split)

theorem State.keeps_nmuStart {c : Nat} {x : Ctx} {w : Nat} (hk : σ.Keeps s) : σ.Keeps (State.nmuStart s c x w) := by
  unfold State.nmuStart
  with_reducible repeat' first
    | assumption | (intro _) | apply State.keeps_jobStart | apply State.Keeps.ite

theorem State.keeps_nmuIns {c op : Nat} (hk : σ.Keeps s) : σ.Keeps (State.nmuIns s c op) := by
  unfold State.nmuIns
  with_reducible repeat' first
    | assumption | (intro _) | apply State.keeps_timed | apply State.keeps_nmuStart

theorem keeps_execNmuUpdate {c : Fin 256} (hk : σ.Keeps s) : σ.KeepsR (execNmuUpdate c s) := by
  unfold execNmuUpdate
  with_reducible repeat' first
    | assumption | (intro _) | apply State.keeps_nmuIns | apply State.KeepsR.next

theorem keeps_execNmuReduce {c : Fin 256} (hk : σ.Keeps s) : σ.KeepsR (execNmuReduce c s) := by
  unfold execNmuReduce
  with_reducible repeat' first
    | assumption | (intro _) | apply State.keeps_nmuIns | apply State.KeepsR.next

theorem keeps_execNmuCast {c : Fin 256} (hk : σ.Keeps s) : σ.KeepsR (execNmuCast c s) := by
  unfold execNmuCast
  with_reducible repeat' first
    | assumption | (intro _) | apply State.keeps_nmuIns | apply State.KeepsR.next

theorem State.keeps_noteDiverge {j : Job} (hk : σ.Keeps s) : σ.Keeps (State.noteDiverge s j) := by
  unfold State.noteDiverge
  with_reducible repeat' first
    | assumption | (intro _)
    | (extract_lets +onlyGivenNames x; first | (refine State.Keeps.cut (σ := σ) (x := x) ?_ (fun hx => ?_); subst x; rotate_left; clear_value x; rotate_right) | (refine State.Keeps.cutP (σ := σ) (p := x) ?_ (fun hx => ?_); subst x; rotate_left; clear_value x; rotate_right) | clear_value x)
    | apply State.keeps_post | (split)

theorem State.keeps_noteUnderflow {j : Job} (hk : σ.Keeps s) : σ.Keeps (State.noteUnderflow s j) := by
  unfold State.noteUnderflow
  with_reducible repeat' first
    | assumption | (intro _)
    | (extract_lets +onlyGivenNames x; first | (refine State.Keeps.cut (σ := σ) (x := x) ?_ (fun hx => ?_); subst x; rotate_left; clear_value x; rotate_right) | (refine State.Keeps.cutP (σ := σ) (p := x) ?_ (fun hx => ?_); subst x; rotate_left; clear_value x; rotate_right) | clear_value x)
    | apply State.keeps_fset | apply State.keeps_raise | apply State.keeps_post | apply State.Keeps.ite

theorem State.keeps_nmuDone {id : Nat} (hk : σ.Keeps s) : σ.Keeps (State.nmuDone s id) := by
  unfold State.nmuDone
  with_reducible repeat' first
    | assumption | (intro _)
    | (extract_lets +onlyGivenNames x; first | (refine State.Keeps.cut (σ := σ) (x := x) ?_ (fun hx => ?_); subst x; rotate_left; clear_value x; rotate_right) | (refine State.Keeps.cutP (σ := σ) (p := x) ?_ (fun hx => ?_); subst x; rotate_left; clear_value x; rotate_right) | (refine State.KeepsO.cut (σ := σ) (o := x) ?_ (fun hx => ?_); subst x; rotate_left; clear_value x; rotate_right) | clear_value x)
    | apply State.keeps_modCtx | apply State.keeps_dropJob | apply State.keeps_noteDiverge
    | apply State.keeps_noteUnderflow | apply State.Keeps.ite | (split)

theorem keeps_execNmuInstructionDone {id : Nat} (hk : σ.Keeps s) : σ.KeepsR (execNmuInstructionDone id s) := by
  unfold execNmuInstructionDone
  with_reducible repeat' first
    | assumption | (intro _) | apply State.keeps_nmuDone | apply State.KeepsR.next

theorem State.keeps_haltJobs {cause : Nat} {p : Nat → Job → Option Nat} (hk : σ.Keeps s) :
    σ.Keeps (State.haltJobs s cause p) := by
  unfold State.haltJobs
  with_reducible repeat' first
    | assumption | (intro _) | apply State.keeps_forEach | apply State.keeps_jobTrap | (split)

theorem State.keeps_itemsPass {n : Nat} (hk : σ.Keeps s) : σ.Keeps (State.itemsPass s n) := by
  unfold State.itemsPass
  with_reducible repeat' first
    | assumption | (intro _)
    | (extract_lets +onlyGivenNames x; first | (refine State.Keeps.cut (σ := σ) (x := x) ?_ (fun hx => ?_); subst x; rotate_left; clear_value x; rotate_right) | (refine State.Keeps.cutP (σ := σ) (p := x) ?_ (fun hx => ?_); subst x; rotate_left; clear_value x; rotate_right) | (have _f : State → _ := x; clear _f; subst x) | clear_value x)
    | (apply State.KeepsO.of; assumption) | apply State.KeepsO.some | exact State.KeepsO.none | simp only [State.keeps_mk]

theorem State.keeps_nmuLeave {n st cause : Nat} (hk : σ.Keeps s) : σ.Keeps (State.nmuLeave s n st cause) := by
  unfold State.nmuLeave
  with_reducible repeat' first
    | assumption | (intro _)
    | (extract_lets +onlyGivenNames x; first | (refine State.Keeps.cut (σ := σ) (x := x) ?_ (fun hx => ?_); subst x; rotate_left; clear_value x; rotate_right) | (refine State.Keeps.cutP (σ := σ) (p := x) ?_ (fun hx => ?_); subst x; rotate_left; clear_value x; rotate_right) | (refine State.KeepsO.cut (σ := σ) (o := x) ?_ (fun hx => ?_); subst x; rotate_left; clear_value x; rotate_right) | clear_value x)
    | apply State.keeps_fset | apply State.keeps_post | apply State.keeps_forEach | apply State.keeps_haltJobs
    | apply State.keeps_itemsPass | (apply State.KeepsO.of; assumption) | apply State.KeepsO.some | exact State.KeepsO.none
    | simp only [State.keeps_mk] | apply State.KeepsO.getD | apply State.Keeps.ite | (split)

theorem State.keeps_nmuParity {n : Nat} (hk : σ.Keeps s) : σ.Keeps (State.nmuParity s n) := by
  unfold State.nmuParity
  with_reducible repeat' first
    | assumption | (intro _) | apply State.keeps_count | apply State.keeps_nmuLeave | apply State.Keeps.ite

theorem State.keeps_offlines (hk : σ.Keeps s) : σ.Keeps (State.offlines s) := by
  unfold State.offlines
  with_reducible repeat' first
    | assumption | (intro _) | apply State.keeps_forEach | apply State.keeps_nmuLeave | apply State.Keeps.ite

theorem keeps_execNmuParityError {n : Fin 32} (hk : σ.Keeps s) : σ.KeepsR (execNmuParityError n s) := by
  unfold execNmuParityError
  with_reducible repeat' first
    | assumption | (intro _) | apply State.keeps_nmuParity | apply State.keeps_offlines | apply State.KeepsR.next

theorem State.keeps_nmuOffline {n : Nat} (hk : σ.Keeps s) : σ.Keeps (State.nmuOffline s n) := by
  unfold State.nmuOffline
  with_reducible repeat' first
    | assumption | (intro _) | apply State.keeps_raise | apply State.keeps_offlines | apply State.Keeps.ite

theorem keeps_execNmuOffline {n : Fin 32} (hk : σ.Keeps s) : σ.KeepsR (execNmuOffline n s) := by
  unfold execNmuOffline
  with_reducible repeat' first
    | assumption | (intro _) | apply State.keeps_cpDo | apply State.keeps_nmuOffline

theorem State.keeps_wedge {n : Nat} (hk : σ.Keeps s) : σ.Keeps (State.wedge s n) := by
  unfold State.wedge
  with_reducible repeat' first
    | assumption | (intro _)
    | (extract_lets +onlyGivenNames x; first | (refine State.Keeps.cut (σ := σ) (x := x) ?_ (fun hx => ?_); subst x; rotate_left; clear_value x; rotate_right) | (refine State.Keeps.cutP (σ := σ) (p := x) ?_ (fun hx => ?_); subst x; rotate_left; clear_value x; rotate_right) | clear_value x)
    | apply State.keeps_count | apply State.keeps_haltJobs | apply State.keeps_nmuLeave | apply State.Keeps.ite

theorem State.keeps_dogSettle {n : Nat} (hk : σ.Keeps s) : σ.Keeps (State.dogSettle s n) := by
  unfold State.dogSettle
  with_reducible repeat' first
    | assumption | (intro _) | apply State.keeps_wedge | apply State.Keeps.ite | (split)

theorem State.keeps_nmuWatchdog {n : Nat} (hk : σ.Keeps s) : σ.Keeps (State.nmuWatchdog s n) := by
  unfold State.nmuWatchdog
  with_reducible repeat' first
    | assumption | (intro _) | apply State.keeps_atCadence | apply State.keeps_wedge | apply State.KeepsO.bindK
    | apply State.KeepsO.bind | (apply State.KeepsO.elim; assumption) | (split)

theorem keeps_execNmuWatchdog {n : Fin 32} (hk : σ.Keeps s) : σ.KeepsR (execNmuWatchdog n s) := by
  unfold execNmuWatchdog
  with_reducible repeat' first
    | assumption | (intro _) | apply State.keeps_offlines | apply State.keeps_nmuWatchdog | apply State.KeepsR.next

theorem keeps_execNmuWorkAtom {n : Fin 32} {id k : Nat} (hk : σ.Keeps s) : σ.KeepsR (execNmuWorkAtom n id k s) := by
  unfold execNmuWorkAtom
  with_reducible repeat' first
    | assumption | (intro _) | apply State.keeps_paramGo | apply State.keeps_nmuWorkAtom | apply State.keeps_offlines
    | apply State.keeps_dogSettle | apply State.KeepsR.next | exact State.KeepsR.fault | apply State.Keeps.ite

theorem State.keeps_addAtom {k p n : Nat} {q : Piece} {e : Nat × Atom × Bool × Bool} (hk : σ.Keeps s) :
    σ.Keeps (State.addAtom s k p n q e) := by
  unfold State.addAtom
  with_reducible repeat' first
    | assumption | (intro _)
    | (extract_lets +onlyGivenNames x; first | (refine State.Keeps.cut (σ := σ) (x := x) ?_ (fun hx => ?_); subst x; rotate_left; clear_value x; rotate_right) | (refine State.Keeps.cutP (σ := σ) (p := x) ?_ (fun hx => ?_); subst x; rotate_left; clear_value x; rotate_right) | clear_value x)
    | apply State.keeps_count | apply State.keeps_setAtom | apply State.keeps_modPiece | apply State.keeps_goOn
    | apply State.keeps_countWork | apply State.keeps_nmuDid | apply State.keeps_nmuServed | simp only [State.keeps_mk]
    | apply State.KeepsO.getD | apply State.Keeps.ite

theorem State.keeps_addDenied {k p : Nat} {q : Piece} (hk : σ.Keeps s) : σ.Keeps (State.addDenied s k p q) := by
  unfold State.addDenied
  with_reducible repeat' first
    | assumption | (intro _)
    | (extract_lets +onlyGivenNames x; first | (refine State.Keeps.cut (σ := σ) (x := x) ?_ (fun hx => ?_); subst x; rotate_left; clear_value x; rotate_right) | (refine State.Keeps.cutP (σ := σ) (p := x) ?_ (fun hx => ?_); subst x; rotate_left; clear_value x; rotate_right) | clear_value x)
    | apply State.keeps_forEach | apply State.keeps_deny | apply State.keeps_setAtom | apply State.keeps_modPiece
    | apply State.keeps_goOn | apply State.keeps_trainDone | simp only [State.keeps_mk] | apply State.Keeps.ite

theorem State.keeps_atomicAdd {k p : Nat} (hk : σ.Keeps s) : σ.Keeps (State.atomicAdd s k p) := by
  unfold State.atomicAdd
  with_reducible repeat' first
    | assumption | (intro _)
    | (extract_lets +onlyGivenNames x; first | (refine State.Keeps.cut (σ := σ) (x := x) ?_ (fun hx => ?_); subst x; rotate_left; clear_value x; rotate_right) | (refine State.Keeps.cutP (σ := σ) (p := x) ?_ (fun hx => ?_); subst x; rotate_left; clear_value x; rotate_right) | (refine State.KeepsO.cut (σ := σ) (o := x) ?_ (fun hx => ?_); subst x; rotate_left; clear_value x; rotate_right) | clear_value x)
    | apply State.keeps_dogSettle | apply State.keeps_addAtom | apply State.keeps_addDenied | apply State.Keeps.ite
    | (split)

theorem keeps_execAtomicAddNmu {k : Fin 8} {p : Fin 64} (hk : σ.Keeps s) : σ.KeepsR (execAtomicAddNmu k p s) := by
  unfold execAtomicAddNmu
  with_reducible repeat' first
    | assumption | (intro _) | apply State.keeps_offlines | apply State.keeps_atomicAdd | apply State.KeepsR.next

theorem State.keeps_readClear {a : Nat} (hk : σ.Keeps s) : σ.Keeps (State.readClear s a) := by
  unfold State.readClear
  with_reducible repeat' first
    | assumption | (intro _) | apply State.keeps_setReg | apply State.Keeps.ite | (split)

theorem State.keeps_rcRead {a : Nat} (hk : σ.Keeps s) : σ.Keeps (State.rcRead s a) := by
  unfold State.rcRead
  with_reducible repeat' first
    | assumption | (intro _) | apply State.keeps_readClear | simp only [State.keeps_mk] | apply State.Keeps.ite

theorem keeps_execRcRegisterRead {addr : BitVec 24} (hk : σ.Keeps s) : σ.KeepsR (execRcRegisterRead addr s) := by
  unfold execRcRegisterRead
  with_reducible repeat' first
    | assumption | (intro _) | apply State.keeps_cpDo | apply State.keeps_rcRead

theorem State.keeps_plainWrite {a : Nat} {w : Word} (hk : σ.Keeps s) : σ.Keeps (State.plainWrite s a w) := by
  unfold State.plainWrite
  with_reducible repeat' first
    | assumption | (intro _) | apply State.keeps_setReg | (split)

theorem State.keeps_writeIf {free : Bool} {a : Nat} {w : Word} (hk : σ.Keeps s) : σ.Keeps (State.writeIf s free a w) := by
  unfold State.writeIf
  with_reducible repeat' first
    | assumption | (intro _) | apply State.keeps_plainWrite | apply State.Keeps.ite

theorem State.keeps_pwrCmd {op : Nat} (hk : σ.Keeps s) : σ.Keeps (State.pwrCmd s op) := by
  unfold State.pwrCmd
  with_reducible repeat' first
    | assumption | (intro _) | apply State.keeps_pwrRefuse | apply State.keeps_pwrQuiet | apply State.keeps_pwrActive
    | apply State.keeps_pwrRetain | apply State.keeps_pwrOff | apply State.Keeps.ite

theorem State.keeps_fusCmd {op : Nat} (hk : σ.Keeps s) : σ.Keeps (State.fusCmd s op) := by
  unfold State.fusCmd
  with_reducible repeat' first
    | assumption | (intro _) | apply State.keeps_trimReload | apply State.keeps_trimCommit | apply State.Keeps.ite

theorem State.keeps_chkCmd {u w : Nat} (hk : σ.Keeps s) : σ.Keeps (State.chkCmd s u w) := by
  unfold State.chkCmd
  with_reducible repeat' first
    | assumption | (intro _)
    | (extract_lets +onlyGivenNames x; first | (refine State.Keeps.cut (σ := σ) (x := x) ?_ (fun hx => ?_); subst x; rotate_left; clear_value x; rotate_right) | (refine State.Keeps.cutP (σ := σ) (p := x) ?_ (fun hx => ?_); subst x; rotate_left; clear_value x; rotate_right) | clear_value x)
    | apply State.keeps_chkLast | apply State.keeps_chkStart | apply State.keeps_chkFinish | apply State.keeps_chkAbort
    | apply State.keeps_chkScan | apply State.keeps_started | apply State.Keeps.ite | (split)

theorem State.keeps_seqCfgWrite {w : Word} (hk : σ.Keeps s) : σ.Keeps (State.seqCfgWrite s w) := by
  unfold State.seqCfgWrite
  with_reducible repeat' first
    | assumption | (intro _)
    | (extract_lets +onlyGivenNames x; first | (refine State.Keeps.cut (σ := σ) (x := x) ?_ (fun hx => ?_); subst x; rotate_left; clear_value x; rotate_right) | (refine State.Keeps.cutP (σ := σ) (p := x) ?_ (fun hx => ?_); subst x; rotate_left; clear_value x; rotate_right) | clear_value x)
    | apply State.keeps_fset | apply State.keeps_plainWrite | apply State.Keeps.ite

theorem State.keeps_streamCmdWrite {w : Nat} (hk : σ.Keeps s) : σ.Keeps (State.streamCmdWrite s w) := by
  unfold State.streamCmdWrite
  with_reducible repeat' first
    | assumption | (intro _)
    | (extract_lets +onlyGivenNames x; first | (refine State.Keeps.cut (σ := σ) (x := x) ?_ (fun hx => ?_); subst x; rotate_left; clear_value x; rotate_right) | (refine State.Keeps.cutP (σ := σ) (p := x) ?_ (fun hx => ?_); subst x; rotate_left; clear_value x; rotate_right) | clear_value x)
    | apply State.keeps_fset | apply State.keeps_streamCmd | apply State.Keeps.ite

theorem State.keeps_gateCtlWrite {g w : Nat} (hk : σ.Keeps s) : σ.Keeps (State.gateCtlWrite s g w) := by
  unfold State.gateCtlWrite
  with_reducible repeat' first
    | assumption | (intro _)
    | (extract_lets +onlyGivenNames x; first | (refine State.Keeps.cut (σ := σ) (x := x) ?_ (fun hx => ?_); subst x; rotate_left; clear_value x; rotate_right) | (refine State.Keeps.cutP (σ := σ) (p := x) ?_ (fun hx => ?_); subst x; rotate_left; clear_value x; rotate_right) | clear_value x)
    | apply State.keeps_fset | apply State.keeps_settleSwap | apply State.keeps_gateCancel | apply State.keeps_gateArmWrite
    | apply State.Keeps.ite

theorem State.keeps_accCmdWrite {k w : Nat} (hk : σ.Keeps s) : σ.Keeps (State.accCmdWrite s k w) := by
  unfold State.accCmdWrite
  with_reducible repeat' first
    | assumption | (intro _)
    | (extract_lets +onlyGivenNames x; first | (refine State.Keeps.cut (σ := σ) (x := x) ?_ (fun hx => ?_); subst x; rotate_left; clear_value x; rotate_right) | (refine State.Keeps.cutP (σ := σ) (p := x) ?_ (fun hx => ?_); subst x; rotate_left; clear_value x; rotate_right) | clear_value x)
    | apply State.keeps_accCommit | apply State.keeps_accLoad | apply State.keeps_accClear | apply State.Keeps.ite

theorem State.keeps_editWrite {k w : Nat} (hk : σ.Keeps s) : σ.Keeps (State.editWrite s k w) := by
  unfold State.editWrite
  with_reducible repeat' first
    | assumption | (intro _)
    | (extract_lets +onlyGivenNames x; first | (refine State.Keeps.cut (σ := σ) (x := x) ?_ (fun hx => ?_); subst x; rotate_left; clear_value x; rotate_right) | (refine State.Keeps.cutP (σ := σ) (p := x) ?_ (fun hx => ?_); subst x; rotate_left; clear_value x; rotate_right) | clear_value x)
    | apply State.keeps_fset | apply State.keeps_editOpen | apply State.keeps_editClose | apply State.Keeps.ite

theorem State.keeps_bowCmdWrite {k op : Nat} (hk : σ.Keeps s) : σ.Keeps (State.bowCmdWrite s k op) := by
  unfold State.bowCmdWrite
  with_reducible repeat' first
    | assumption | (intro _) | apply State.keeps_bowSanitise | apply State.keeps_bowCanaryWrite
    | apply State.keeps_bowCanaryCheck | apply State.keeps_started | apply State.Keeps.ite

theorem State.keeps_zmapCtlWrite {k p w : Nat} (hk : σ.Keeps s) : σ.Keeps (State.zmapCtlWrite s k p w) := by
  unfold State.zmapCtlWrite
  with_reducible repeat' first
    | assumption | (intro _)
    | (extract_lets +onlyGivenNames x; first | (refine State.Keeps.cut (σ := σ) (x := x) ?_ (fun hx => ?_); subst x; rotate_left; clear_value x; rotate_right) | (refine State.Keeps.cutP (σ := σ) (p := x) ?_ (fun hx => ?_); subst x; rotate_left; clear_value x; rotate_right) | clear_value x)
    | apply State.keeps_predWrite | apply State.keeps_zmRefuse | apply State.keeps_zmAdopt | apply State.keeps_zmClear
    | apply State.keeps_zmDisable | apply State.keeps_zmFlush | apply State.Keeps.ite

theorem State.keeps_arbWrite {k a : Nat} {w : Word} (hk : σ.Keeps s) : σ.Keeps (State.arbWrite s k a w) := by
  unfold State.arbWrite
  with_reducible repeat' first
    | assumption | (intro _)
    | (extract_lets +onlyGivenNames x; first | (refine State.Keeps.cut (σ := σ) (x := x) ?_ (fun hx => ?_); subst x; rotate_left; clear_value x; rotate_right) | (refine State.Keeps.cutP (σ := σ) (p := x) ?_ (fun hx => ?_); subst x; rotate_left; clear_value x; rotate_right) | clear_value x)
    | apply State.keeps_quotaSettle | apply State.keeps_plainWrite | apply State.Keeps.ite

theorem State.keeps_fretCmdWrite {k p w : Nat} (hk : σ.Keeps s) : σ.Keeps (State.fretCmdWrite s k p w) := by
  unfold State.fretCmdWrite
  with_reducible repeat' first
    | assumption | (intro _)
    | (extract_lets +onlyGivenNames x; first | (refine State.Keeps.cut (σ := σ) (x := x) ?_ (fun hx => ?_); subst x; rotate_left; clear_value x; rotate_right) | (refine State.Keeps.cutP (σ := σ) (p := x) ?_ (fun hx => ?_); subst x; rotate_left; clear_value x; rotate_right) | clear_value x)
    | apply State.keeps_fretCmdInstall | apply State.keeps_fretCmdRemove | apply State.Keeps.ite

theorem State.keeps_actWrite {a : Nat} {w : Word} {l : List RegAct} (hk : σ.Keeps s) (hl : ∀ r ∈ l, ∀ t a b c w, σ.Keeps t → σ.Keeps (r.act t a b c w)) :
    σ.Keeps (State.actWrite s a w l) := by
  induction l with
  | nil => exact State.keeps_plainWrite hk
  | cons r l ih =>
    unfold State.actWrite
    split
    · exact hl r (List.mem_cons_self ..) _ _ _ _ _ hk
    · exact ih fun r hr => hl r (List.mem_cons_of_mem _ hr)

theorem keeps_dieActs : ∀ r ∈ dieActs, ∀ t a b c w, σ.Keeps t → σ.Keeps (r.act t a b c w) := by
  simp only [dieActs, List.forall_mem_cons]
  repeat' first
    | with_reducible assumption
    | apply And.intro
    | intro _
    | with_reducible apply State.Keeps.ite
    | with_reducible apply State.keeps_accCmdWrite
    | with_reducible apply State.keeps_accLock
    | with_reducible apply State.keeps_addrOrderWrite
    | with_reducible apply State.keeps_bowCfgWrite
    | with_reducible apply State.keeps_arbWrite
    | with_reducible apply State.keeps_streamCmdWrite
    | with_reducible apply State.keeps_bowCmdWrite
    | with_reducible apply State.keeps_capCfgWrite
    | with_reducible apply State.keeps_chkCmd
    | with_reducible apply State.keeps_chkConfig
    | with_reducible apply State.keeps_editWrite
    | with_reducible apply State.keeps_entryWrite
    | with_reducible apply State.keeps_evCfgWrite
    | with_reducible apply State.keeps_evTailWrite
    | with_reducible apply State.keeps_failedWrite
    | with_reducible apply State.keeps_feedB
    | with_reducible apply State.keeps_feedH
    | with_reducible apply State.keeps_feedW
    | with_reducible apply State.keeps_freqChange
    | with_reducible apply State.keeps_fretCmdWrite
    | with_reducible apply State.keeps_fusCmd
    | with_reducible apply State.keeps_gateCtlWrite
    | with_reducible apply State.keeps_gateEntWrite
    | with_reducible apply State.keeps_historyClear
    | with_reducible apply State.keeps_ingCapoWrite
    | with_reducible apply State.keeps_lcCmd
    | with_reducible apply State.keeps_migRetire
    | with_reducible apply State.keeps_nmuOffline
    | with_reducible apply State.keeps_padRelease
    | with_reducible apply State.keeps_plainWrite
    | with_reducible apply State.keeps_portWrite
    | with_reducible apply State.keeps_pwrCmd
    | with_reducible apply State.keeps_resetWrite
    | with_reducible apply State.keeps_seqAbort
    | with_reducible apply State.keeps_seqCfgWrite
    | with_reducible apply State.keeps_setToken
    | with_reducible apply State.keeps_slotBaseWrite
    | with_reducible apply State.keeps_started
    | with_reducible apply State.keeps_streamCmdWrite
    | with_reducible apply State.keeps_sweepStart
    | with_reducible apply State.keeps_talCfgWrite
    | with_reducible apply State.keeps_tsetWrite
    | with_reducible apply State.keeps_ucodeData
    | with_reducible apply State.keeps_writeIf
    | with_reducible apply State.keeps_zmapCtlWrite
  contradiction

theorem keeps_stackActs : ∀ r ∈ stackActs, ∀ t a b c w, σ.Keeps t → σ.Keeps (r.act t a b c w) := by
  simp only [stackActs, List.forall_mem_cons]
  repeat' first
    | with_reducible assumption
    | apply And.intro
    | intro _
    | with_reducible apply State.Keeps.ite
    | with_reducible apply State.keeps_accCmdWrite
    | with_reducible apply State.keeps_accLock
    | with_reducible apply State.keeps_addrOrderWrite
    | with_reducible apply State.keeps_bowCfgWrite
    | with_reducible apply State.keeps_arbWrite
    | with_reducible apply State.keeps_streamCmdWrite
    | with_reducible apply State.keeps_bowCmdWrite
    | with_reducible apply State.keeps_capCfgWrite
    | with_reducible apply State.keeps_chkCmd
    | with_reducible apply State.keeps_chkConfig
    | with_reducible apply State.keeps_editWrite
    | with_reducible apply State.keeps_entryWrite
    | with_reducible apply State.keeps_evCfgWrite
    | with_reducible apply State.keeps_evTailWrite
    | with_reducible apply State.keeps_failedWrite
    | with_reducible apply State.keeps_feedB
    | with_reducible apply State.keeps_feedH
    | with_reducible apply State.keeps_feedW
    | with_reducible apply State.keeps_freqChange
    | with_reducible apply State.keeps_fretCmdWrite
    | with_reducible apply State.keeps_fusCmd
    | with_reducible apply State.keeps_gateCtlWrite
    | with_reducible apply State.keeps_gateEntWrite
    | with_reducible apply State.keeps_historyClear
    | with_reducible apply State.keeps_ingCapoWrite
    | with_reducible apply State.keeps_lcCmd
    | with_reducible apply State.keeps_migRetire
    | with_reducible apply State.keeps_nmuOffline
    | with_reducible apply State.keeps_padRelease
    | with_reducible apply State.keeps_plainWrite
    | with_reducible apply State.keeps_portWrite
    | with_reducible apply State.keeps_pwrCmd
    | with_reducible apply State.keeps_resetWrite
    | with_reducible apply State.keeps_seqAbort
    | with_reducible apply State.keeps_seqCfgWrite
    | with_reducible apply State.keeps_setToken
    | with_reducible apply State.keeps_slotBaseWrite
    | with_reducible apply State.keeps_started
    | with_reducible apply State.keeps_streamCmdWrite
    | with_reducible apply State.keeps_sweepStart
    | with_reducible apply State.keeps_talCfgWrite
    | with_reducible apply State.keeps_tsetWrite
    | with_reducible apply State.keeps_ucodeData
    | with_reducible apply State.keeps_writeIf
    | with_reducible apply State.keeps_zmapCtlWrite
  contradiction

theorem State.keeps_regWrite {a : Nat} {w : Word} (hk : σ.Keeps s) : σ.Keeps (State.regWrite s a w) := by
  unfold State.regWrite
  split
  · exact hk
  · refine State.keeps_actWrite hk fun r hr => ?_
    split at hr
    · exact keeps_dieActs r hr
    · exact keeps_stackActs r hr

theorem State.keeps_cpWrite {c : Instr} {a : Nat} {w : Word} (hk : σ.Keeps s) : σ.Keeps (State.cpWrite s c a w) := by
  unfold State.cpWrite
  with_reducible repeat' first
    | assumption | (intro _) | apply State.keeps_ring | apply State.keeps_regWrite | simp only [State.keeps_mk]
    | apply State.Keeps.ite

theorem keeps_execRegisterWrite {addr : BitVec 24} {w : Word} (hk : σ.Keeps s) : σ.KeepsR (execRegisterWrite addr w s) := by
  unfold execRegisterWrite
  with_reducible repeat' first
    | assumption | (intro _) | apply State.keeps_cpDo | apply State.keeps_cpWrite

end Sys2Proof.Machine
end

