-- ==== Sys2Proof/Laws/KeepExec.lean ====
section
/-! SUPPORT. What every command keeps, and every attempt at a waiting one. -/

namespace Sys2Proof.Machine

variable {σ s : State}

/-- No command touches the queue, and every command keeps the form of the state. -/
theorem keeps_exec (c : Instr) (hk : σ.Keeps s) : σ.KeepsR (exec c s) := by
  cases c with
  | headroomSample => exact keeps_execHeadroomSample hk
  | cadencePllLock => exact keeps_execCadencePllLock hk
  | cadSyncArm => exact keeps_execCadSyncArm hk
  | syncEdge => exact keeps_execSyncEdge hk
  | cadencePauseEnd => exact keeps_execCadencePauseEnd hk
  | schedulerHandover => exact keeps_execSchedulerHandover hk
  | wardenIssue => exact keeps_execWardenIssue hk
  | read => exact keeps_execRead hk
  | write => exact keeps_execWrite hk
  | writePartial => exact keeps_execWritePartial hk
  | atomicAddBeside => exact keeps_execAtomicAddBeside hk
  | fence => exact keeps_execFence hk
  | probe => exact keeps_execProbe hk
  | reservedOpcode => exact keeps_execReservedOpcode hk
  | strayDataFlit => exact keeps_execStrayDataFlit hk
  | heldHeaderAccepted => exact keeps_execHeldHeaderAccepted hk
  | missHoldRelease => exact keeps_execMissHoldRelease hk
  | responseFlitAck => exact keeps_execResponseFlitAck hk
  | creditReturn => exact keeps_execCreditReturn hk
  | responseStall => exact keeps_execResponseStall hk
  | portEnable => exact keeps_execPortEnable hk
  | portDisable => exact keeps_execPortDisable hk
  | fenceComplete => exact keeps_execFenceComplete hk
  | bridgeRequest => exact keeps_execBridgeRequest hk
  | bridgeResponse => exact keeps_execBridgeResponse hk
  | bridgeForwardTimeout => exact keeps_execBridgeForwardTimeout hk
  | bridgeDown => exact keeps_execBridgeDown hk
  | bridgeUp => exact keeps_execBridgeUp hk
  | registerWrite => exact keeps_execRegisterWrite hk
  | addrOrderWrite => exact keeps_execAddrOrderWrite hk
  | pcmapEditOpen => exact keeps_execPcmapEditOpen hk
  | pcmapEntryWrite => exact keeps_execPcmapEntryWrite hk
  | pcmapFailedWrite => exact keeps_execPcmapFailedWrite hk
  | pcmapEditClose => exact keeps_execPcmapEditClose hk
  | accCommit => exact keeps_execAccCommit hk
  | accLoad => exact keeps_execAccLoad hk
  | accClear => exact keeps_execAccClear hk
  | accLockSet => exact keeps_execAccLockSet hk
  | ingressGrant => exact keeps_execIngressGrant hk
  | retiredLossAnswer => exact keeps_execRetiredLossAnswer hk
  | descriptorFetchStart => exact keeps_execDescriptorFetchStart hk
  | descriptorFetchReturn => exact keeps_execDescriptorFetchReturn hk
  | writebackDone => exact keeps_execWritebackDone hk
  | redHeadReeval => exact keeps_execRedHeadReeval hk
  | streamLoad => exact keeps_execStreamLoad hk
  | streamFlush => exact keeps_execStreamFlush hk
  | streamPin => exact keeps_execStreamPin hk
  | streamUnpin => exact keeps_execStreamUnpin hk
  | streamView => exact keeps_execStreamView hk
  | streamCmdReserved => exact keeps_execStreamCmdReserved hk
  | streamSample => exact keeps_execStreamSample hk
  | gateEntryWrite => exact keeps_execGateEntryWrite hk
  | gateArm => exact keeps_execGateArm hk
  | gateCancel => exact keeps_execGateCancel hk
  | gateSwapTake => exact keeps_execGateSwapTake hk
  | portGroupAtomStart => exact keeps_execPortGroupAtomStart hk
  | quotaWindowStart => exact keeps_execQuotaWindowStart hk
  | bankGrant => exact keeps_execBankGrant hk
  | rowGrant => exact keeps_execRowGrant hk
  | columnGrant => exact keeps_execColumnGrant hk
  | columnPreempt => exact keeps_execColumnPreempt hk
  | ingCapoWrite => exact keeps_execIngCapoWrite hk
  | pccCapoWrite => exact keeps_execPccCapoWrite hk
  | pgCapoWrite => exact keeps_execPgCapoWrite hk
  | capoSoftToHard => exact keeps_execCapoSoftToHard hk
  | capoDrained => exact keeps_execCapoDrained hk
  | capoDrainSlow => exact keeps_execCapoDrainSlow hk
  | hazardClear => exact keeps_execHazardClear hk
  | stackReadData => exact keeps_execStackReadData hk
  | zmapLineFill => exact keeps_execZmapLineFill hk
  | zmapLineWritebackDone => exact keeps_execZmapLineWritebackDone hk
  | pageTimerExpiry => exact keeps_execPageTimerExpiry hk
  | writeModeAge => exact keeps_execWriteModeAge hk
  | zmapAdopt => exact keeps_execZmapAdopt hk
  | zmapClear => exact keeps_execZmapClear hk
  | zmapDisable => exact keeps_execZmapDisable hk
  | zmapFlush => exact keeps_execZmapFlush hk
  | zmapOpReserved => exact keeps_execZmapOpReserved hk
  | zmapClearDone => exact keeps_execZmapClearDone hk
  | zmapDisableDone => exact keeps_execZmapDisableDone hk
  | predEnWrite => exact keeps_execPredEnWrite hk
  | sortGroupRelease => exact keeps_execSortGroupRelease hk
  | activateHint => exact keeps_execActivateHint hk
  | refreshDue => exact keeps_execRefreshDue hk
  | freqChange => exact keeps_execFreqChange hk
  | tsetWrite => exact keeps_execTsetWrite hk
  | commandConfirmed => exact keeps_execCommandConfirmed hk
  | replayError => exact keeps_execReplayError hk
  | replayDone => exact keeps_execReplayDone hk
  | mergeReadDone => exact keeps_execMergeReadDone hk
  | fretCmdInstall => exact keeps_execFretCmdInstall hk
  | fretCmdRemove => exact keeps_execFretCmdRemove hk
  | fretInstall => exact keeps_execFretInstall hk
  | historyClear => exact keeps_execHistoryClear hk
  | migRetireCmd => exact keeps_execMigRetireCmd hk
  | retirementStart => exact keeps_execRetirementStart hk
  | migrationChunkDone => exact keeps_execMigrationChunkDone hk
  | scrubEnWrite => exact keeps_execScrubEnWrite hk
  | bowChunkStart => exact keeps_execBowChunkStart hk
  | doorbell => exact keeps_execDoorbell hk
  | slotLoad => exact keeps_execSlotLoad hk
  | swapOut => exact keeps_execSwapOut hk
  | saveDone => exact keeps_execSaveDone hk
  | slotBaseWrite => exact keeps_execSlotBaseWrite hk
  | seqMove => exact keeps_execSeqMove hk
  | seqFill => exact keeps_execSeqFill hk
  | seqGather => exact keeps_execSeqGather hk
  | seqScatter => exact keeps_execSeqScatter hk
  | seqRewrite => exact keeps_execSeqRewrite hk
  | nmuUpdate => exact keeps_execNmuUpdate hk
  | nmuReduce => exact keeps_execNmuReduce hk
  | nmuCast => exact keeps_execNmuCast hk
  | seqCheck => exact keeps_execSeqCheck hk
  | waitCadence => exact keeps_execWaitCadence hk
  | waitCadenceRelease => exact keeps_execWaitCadenceRelease hk
  | waitToken => exact keeps_execWaitToken hk
  | seqSignal => exact keeps_execSeqSignal hk
  | seqFence => exact keeps_execSeqFence hk
  | gateSwap => exact keeps_execGateSwap hk
  | setStream => exact keeps_execSetStream hk
  | setStreamLoad => exact keeps_execSetStreamLoad hk
  | seqLoop => exact keeps_execSeqLoop hk
  | seqBranch => exact keeps_execSeqBranch hk
  | seqEnd => exact keeps_execSeqEnd hk
  | seqTrap => exact keeps_execSeqTrap hk
  | seqRequestFailed => exact keeps_execSeqRequestFailed hk
  | slotFinished => exact keeps_execSlotFinished hk
  | seqAbort => exact keeps_execSeqAbort hk
  | tokenWrite => exact keeps_execTokenWrite hk
  | contextParityError => exact keeps_execContextParityError hk
  | nmuWorkAtom => exact keeps_execNmuWorkAtom hk
  | nmuInstructionDone => exact keeps_execNmuInstructionDone hk
  | atomicAddNmu => exact keeps_execAtomicAddNmu hk
  | nmuParityError => exact keeps_execNmuParityError hk
  | nmuWatchdog => exact keeps_execNmuWatchdog hk
  | nmuOffline => exact keeps_execNmuOffline hk
  | chkStart => exact keeps_execChkStart hk
  | chkFinish => exact keeps_execChkFinish hk
  | chkAbort => exact keeps_execChkAbort hk
  | chkScan => exact keeps_execChkScan hk
  | chkOpReserved => exact keeps_execChkOpReserved hk
  | feedB => exact keeps_execFeedB hk
  | feedH => exact keeps_execFeedH hk
  | feedW => exact keeps_execFeedW hk
  | chkConfigWrite => exact keeps_execChkConfigWrite hk
  | scanReadReturn => exact keeps_execScanReadReturn hk
  | bowSanitise => exact keeps_execBowSanitise hk
  | bowCanaryWrite => exact keeps_execBowCanaryWrite hk
  | bowCanaryCheck => exact keeps_execBowCanaryCheck hk
  | sanitiseDone => exact keeps_execSanitiseDone hk
  | canaryCheckDone => exact keeps_execCanaryCheckDone hk
  | pwrActive => exact keeps_execPwrActive hk
  | pwrQuiet => exact keeps_execPwrQuiet hk
  | pwrRetain => exact keeps_execPwrRetain hk
  | pwrOff => exact keeps_execPwrOff hk
  | pwrCmdReserved => exact keeps_execPwrCmdReserved hk
  | quietEntryDone => exact keeps_execQuietEntryDone hk
  | jointTimeout => exact keeps_execJointTimeout hk
  | siblingReady => exact keeps_execSiblingReady hk
  | wakeN => exact keeps_execWakeN hk
  | wakeEdge => exact keeps_execWakeEdge hk
  | droneAlarm => exact keeps_execDroneAlarm hk
  | siblingWake => exact keeps_execSiblingWake hk
  | padRelease => exact keeps_execPadRelease hk
  | coreSupplyLost => exact keeps_execCoreSupplyLost hk
  | droneSupplyLost => exact keeps_execDroneSupplyLost hk
  | dronePowerOn => exact keeps_execDronePowerOn hk
  | slowclkStopped => exact keeps_execSlowclkStopped hk
  | thermalSample => exact keeps_execThermalSample hk
  | holdTimeout => exact keeps_execHoldTimeout hk
  | lcCmd => exact keeps_execLcCmd hk
  | fuseProgramDone => exact keeps_execFuseProgramDone hk
  | trimReload => exact keeps_execTrimReload hk
  | trimCommit => exact keeps_execTrimCommit hk
  | tallyGo => exact keeps_execTallyGo hk
  | tallyPeriodic => exact keeps_execTallyPeriodic hk
  | tallySweepDone => exact keeps_execTallySweepDone hk
  | eventRecordWrite => exact keeps_execEventRecordWrite hk
  | eventIrqAge => exact keeps_execEventIrqAge hk
  | evRingEnable => exact keeps_execEvRingEnable hk
  | evTailWrite => exact keeps_execEvTailWrite hk
  | resetCmd => exact keeps_execResetCmd hk
  | corePowerOn => exact keeps_execCorePowerOn hk
  | ucodeDataWrite => exact keeps_execUcodeDataWrite hk
  | rcRegisterRead => exact keeps_execRcRegisterRead hk
  | capCfgWrite => exact keeps_execCapCfgWrite hk
  | slotEntryParityError => exact keeps_execSlotEntryParityError hk

/-- Each attempt at a control-port command keeps them, and so does the tick. -/
theorem State.keeps_serveWaiting {c : Instr} {rest : List Instr} (hk : σ.Keeps s) : σ.KeepsR (s.serveWaiting c rest) := by
  have h1 : σ.KeepsR (exec c { s with cpWaiting := [] }) := keeps_exec c (by simpa only [State.keeps_mk] using hk)
  unfold State.serveWaiting
  split
  · rename_i t e
    have ht := h1.all t e
    split
    · exact .next (by simpa only [State.keeps_mk] using ht)
    · exact .next (State.keeps_tick (by simpa only [State.keeps_mk] using ht))
  · exact .fault
  · exact .refused

theorem State.keeps_idle' (hk : σ.Keeps s) : σ.KeepsR s.idle := by
  unfold State.idle
  split
  · exact .next (State.keeps_tick hk)
  · split
    · exact State.keeps_serveWaiting hk
    · exact .next (State.keeps_tick hk)

end Sys2Proof.Machine
end

