-- ==== Sys2Proof/Laws/Sets.lean ====
section
/-! SUPPORT. How the words of Safety follow from the named operations: what a field write, an event and a control-port
command do to `sets` and `keepsRegs`. -/

namespace Sys2Proof.Machine

theorem State.keepsRegs_refl (s : State) (l : List Fld) : s.keepsRegs s l := fun _ _ _ => rfl

theorem State.keepsRegs_of_regs (s t : State) (l : List Fld) (h : t.regs = s.regs) : s.keepsRegs t l := by
  intro g _ _; unfold State.fget State.reg; rw [h]

theorem State.keepsRegs_fset (s t : State) (l : List Fld) (f : Fld) (v : Nat) (hf : f.Ok) (hm : f ∈ l)
    (h : s.keepsRegs t l) : s.keepsRegs (t.fset f v) l := by
  intro g hg ha
  rw [State.fget_fset_apart t f g v hf (ha f hm)]
  exact h g hg ha

theorem State.keepsRegs_trans (s t u : State) (l : List Fld) (h : s.keepsRegs t l) (h' : t.keepsRegs u l) :
    s.keepsRegs u l := fun g hg ha => (h' g hg ha).trans (h g hg ha)

theorem State.sets_nil (s : State) : s.sets s [] := ⟨rfl, by simp, State.keepsRegs_refl s _⟩

/-- One more field is written: its value stands first. -/
theorem State.sets_fset (s t : State) (l : List (Fld × Nat)) (f : Fld) (v w : Nat) (hf : f.Ok)
    (hw : v % 2 ^ (f.hi + 1 - f.lo) = w) (ha : ∀ e ∈ l, f.Apart e.1) (h : s.sets t l) : s.sets (t.fset f v) ((f, w) :: l) := by
  obtain ⟨h1, h2, h3⟩ := h
  refine ⟨?_, ?_, ?_⟩
  · rw [h1]; rfl
  · intro e he
    rcases List.mem_cons.1 he with rfl | he
    · rw [State.fget_fset_same t f v hf]; exact hw
    · rw [State.fget_fset_apart t f e.1 v hf (ha e he)]; exact h2 e he
  · intro g hg hx
    rw [State.fget_fset_apart t f g v hf (hx f (by simp))]
    exact h3 g hg fun x hm => hx x (by simp only [List.map_cons, List.mem_cons]; exact Or.inr hm)

/-- The order in which the fields are named does not matter. -/
theorem State.sets_perm (s t : State) (l m : List (Fld × Nat)) (hp : ∀ e, e ∈ l ↔ e ∈ m) (h : s.sets t l) : s.sets t m := by
  obtain ⟨h1, h2, h3⟩ := h
  refine ⟨h1, fun e he => h2 e ((hp e).2 he), fun g hg hx => h3 g hg fun f hf => ?_⟩
  obtain ⟨e, he, rfl⟩ := List.mem_map.1 hf
  exact hx e.1 (List.mem_map.2 ⟨e, (hp e).1 he, rfl⟩)

/-- A control-port command at a ready port is done at once. -/
theorem State.cpDo_ready (s : State) (c : Instr) (f : State → State) (h : s.cpReady) : s.cpDo c f = .next (f s.cpOk) := by
  unfold State.cpDo State.cpOk
  rw [h.1, h.2.1, h.2.2]; rfl

/-- A control-port command for a built stack at a ready port is done at once. -/
theorem State.cpStk_ready (s : State) (k : Fin 8) (c : Instr) (f : State → State) (h : s.cpReady) (hk : k.val < s.build.nStacks) :
    s.cpStk k c f = .next (f s.cpOk) := by
  unfold State.cpStk
  rw [State.cpDo_ready s c _ h]
  have : k.val < s.cpOk.build.nStacks := hk
  simp [this]

theorem overlaid_cpOk (s : State) (a w : Nat) (l : List Overlay) (h : ∀ o ∈ l, ∀ i j v, o.val s.cpOk i j v = o.val s i j v) :
    overlaid s.cpOk a w l = overlaid s a w l := by
  induction l with
  | nil => rfl
  | cons o l ih =>
    unfold overlaid Overlay.at?
    have := h o (by simp)
    simp only [this]
    rw [ih (fun o ho => h o (by simp [ho]))]
/-- What a read returns does not depend on the response lines. -/
theorem State.regRead_cpOk (s : State) (a : Nat) : s.cpOk.regRead a = s.regRead a := by
  unfold State.regRead
  have hp : s.cpOk.present a = s.present a := rfl
  rw [hp]
  split
  · rfl
  · split
    · rfl
    · have hr : s.cpOk.reg a = s.reg a := rfl
      rw [hr]
      rw [overlaid_cpOk]
      intro o ho i j v
      split at ho
      · simp only [dieOverlays, List.mem_cons, List.not_mem_nil, or_false] at ho
        rcases ho with rfl|rfl|rfl|rfl|rfl|rfl|rfl|rfl|rfl|rfl|rfl|rfl|rfl|rfl|rfl|rfl|rfl|rfl|rfl|rfl|rfl|rfl|rfl|rfl|rfl|rfl|rfl|rfl|rfl <;> rfl
      · simp only [stackOverlays, List.mem_cons, List.not_mem_nil, or_false] at ho
        rcases ho with rfl|rfl|rfl|rfl|rfl|rfl|rfl|rfl|rfl|rfl <;> rfl

/-- What can come about at `due` comes about at that moment. -/
theorem State.atCadence_reaches (s : State) (due : Nat) (h : s.reaches due) : s.atCadence due = some (s.momentOf due) := by
  unfold State.atCadence State.momentOf
  by_cases h' : due ≤ s.cadence
  · rw [if_pos h', Nat.max_eq_left h']
  · rw [if_neg h', if_pos (h.resolve_left h'), Nat.max_eq_right (by omega)]

/-- A flag reads 1 once raised. -/
theorem State.flag_raise (s : State) (f : Fld) (h : f.Ok) : (s.raise f).flag f = true := by
  unfold State.raise State.flag
  rw [State.fget_fset_same _ _ _ h, Nat.mod_eq_of_lt (Nat.one_lt_two_pow (by omega))]
  rfl

theorem State.sets_raise (s t : State) (l : List (Fld × Nat)) (f : Fld) (hf : f.Ok) (ha : ∀ e ∈ l, f.Apart e.1)
    (h : s.sets t l) : s.sets (t.raise f) ((f, 1) :: l) :=
  State.sets_fset s t l f 1 1 hf (Nat.mod_eq_of_lt (Nat.one_lt_two_pow (by omega))) ha h

theorem State.sets_bit (s t : State) (l : List (Fld × Nat)) (f : Fld) (b : Bool) (hf : f.Ok) (ha : ∀ e ∈ l, f.Apart e.1)
    (h : s.sets t l) : s.sets (t.fset f (bit b)) ((f, bit b) :: l) := by
  refine State.sets_fset s t l f (bit b) (bit b) hf ?_ ha h
  have := Nat.one_lt_two_pow (n := f.hi + 1 - f.lo) (by omega)
  cases b <;> simp [bit, Nat.mod_eq_of_lt this]

/-- What is no register may be changed on both sides. -/
theorem State.sets_congr (s t s' t' : State) (l : List (Fld × Nat)) (h : s.sets t l) (hs : s'.regs = s.regs)
    (ht : t' = { s' with regs := t.regs }) : s'.sets t' l := by
  obtain ⟨_, h2, h3⟩ := h
  have e1 : t'.regs = t.regs := by rw [ht]
  have f1 : ∀ g, t'.fget g = t.fget g := fun g => by unfold State.fget State.reg; rw [e1]
  have f2 : ∀ g, s'.fget g = s.fget g := fun g => by unfold State.fget State.reg; rw [hs]
  exact ⟨by rw [e1]; exact ht, fun e he => by rw [f1]; exact h2 e he, fun g hg ha => by rw [f1, f2]; exact h3 g hg ha⟩

end Sys2Proof.Machine
end

