-- ==== Sys2Proof/Tests/Slice0.lean ====
section
/-! SUPPORT. Tests of the model: ill-formed commands refused, results the spec states, and, for every statement with
hypotheses, a state that meets them. -/

namespace Sys2Proof.Tests

set_option Elab.async false

open Sys2Proof.Machine

/-- A state to try commands on: reset's, with every register at its table's value and no event queued. -/
def base : State := { State.reset with regs := [], events := [] }

/-- A register map with field `f` at `v` beside the fields it holds. -/
def addFld : SMap Word → Fld → Nat → SMap Word
  | [], f, v => [(f.addr, BitVec.ofNat 64 (v * 2 ^ f.lo))]
  | (a, w) :: m, f, v =>
    if f.addr < a then (f.addr, BitVec.ofNat 64 (v * 2 ^ f.lo)) :: (a, w) :: m
    else if f.addr = a then (a, w ||| BitVec.ofNat 64 (v * 2 ^ f.lo)) :: m
    else (a, w) :: addFld m f v

/-- `s` with the registers of `l` at 0 but for the fields of `l`, which have the values beside them. -/
def State.having (s : State) (l : List (Fld × Nat)) : State :=
  { s with regs := l.foldl (fun m e => addFld m e.1 e.2) [] }

/-- `base` with the fields of `l`. -/
def having (l : List (Fld × Nat)) : State := State.having base l

/-- `s` with the cadence counter at `n`. -/
def atCt (n : Nat) (s : State) : State := { s with cadence := n }

/-- The command answers a next state of which `p` holds. -/
def gives (o : Host.Outcome State Fault Refusal) (p : State → Bool) : Bool :=
  match o with
  | .next t => p t
  | _ => false

/-- The smoke test: for each check of well-formedness a command that fails it alone is refused. -/
theorem test_wf_refuses :
    (Instr.read 0 1 1 false).wf = false ∧ (Instr.read 0 0 0 false).wf = false ∧ (Instr.write 0 0 1 false 0).wf = false ∧
    (Instr.write 0 1 0 false 0).wf = false ∧ (Instr.writePartial 0 1 1 false 0 0).wf = false ∧ (Instr.writePartial 0 2 0 false 0 0).wf = false ∧
    (Instr.atomicAddBeside 0 2 1 false 0).wf = false ∧ (Instr.atomicAddBeside 0 3 0 false 0).wf = false ∧ (Instr.fence 0 5 1 false).wf = false ∧
    (Instr.fence 0 4 0 false).wf = false ∧ (Instr.probe 0 4 1 false).wf = false ∧ (Instr.probe 0 5 0 false).wf = false ∧
    (Instr.reservedOpcode 0 false 7 1 false).wf = false ∧ (Instr.reservedOpcode 0 true 6 1 false).wf = false ∧
    (Instr.reservedOpcode 0 true 7 0 false).wf = false ∧
    (Instr.portEnable 0 2).wf = false ∧ (Instr.portDisable 0 1).wf = false ∧ (Instr.evRingEnable 1).wf = false ∧
    (Instr.freqChange 0 0 ⟨[(8, 8)], []⟩).wf = false ∧ (Instr.freqChange 0 0 ⟨[(0, 32)], []⟩).wf = false ∧
    (Instr.padRelease ⟨[], [⟨8, 0, false, 0, []⟩]⟩).wf = false ∧ (Instr.resetCmd 0 ⟨[], [⟨0, 64, false, 0, []⟩]⟩).wf = false ∧
    (Instr.corePowerOn ⟨[], [⟨0, 0, false, 64, []⟩]⟩).wf = false ∧
    (Instr.replayError 0 0 false ⟨[], [⟨0, 0, false, 0, [4]⟩]⟩).wf = false ∧
    (Instr.cadencePllLock ⟨[(8, 8)], []⟩).wf = false ∧ (Instr.wakeN ⟨[(8, 8)], []⟩).wf = false ∧ (Instr.wakeEdge ⟨[(0, 32)], []⟩).wf = false ∧
    (Instr.droneAlarm ⟨[], [⟨8, 0, false, 0, []⟩]⟩).wf = false ∧ (Instr.siblingWake ⟨[], [⟨0, 0, false, 0, [4]⟩]⟩).wf = false ∧
    (Instr.bridgeRequest 0 0 false 0 0).wf = false ∧ (Instr.bridgeUp 0 [⟨false, 1024, 0⟩]).wf = false ∧
    (Instr.bridgeResponse 0 [] 0 0 [⟨false, 0, 64⟩]).wf = false ∧
    (Instr.thermalSample (List.replicate 17 .openCircuit) [] 0).wf = false ∧ (Instr.thermalSample [] (List.replicate 9 0) 0).wf = false := by
  decide +kernel

/-- A command that meets each check is accepted. -/
theorem test_wf_accepts :
    (Instr.read 0 0 1 false).wf = true ∧ (Instr.write 0 1 2 false 0).wf = true ∧ (Instr.writePartial 0 2 1 false 0 0).wf = true ∧
    (Instr.atomicAddBeside 0 3 1 false 0).wf = true ∧ (Instr.fence 0 4 1 false).wf = true ∧ (Instr.probe 0 5 1 false).wf = true ∧
    (Instr.reservedOpcode 0 false 6 1 false).wf = true ∧ (Instr.reservedOpcode 0 true 7 1 false).wf = true ∧
    (Instr.portEnable 0 1).wf = true ∧ (Instr.portDisable 0 2).wf = true ∧ (Instr.evRingEnable 0x8000000000000000).wf = true ∧
    (Instr.freqChange 0 0 ⟨[(7, 31)], [⟨7, 63, true, 63, [3]⟩]⟩).wf = true ∧ (Instr.wakeN ⟨[(7, 31)], []⟩).wf = true ∧
    (Instr.bridgeRequest 0 1 false 0 0).wf = true ∧ (Instr.bridgeUp 0 [⟨true, 1023, 63⟩]).wf = true ∧
    (Instr.thermalSample (List.replicate 16 .openCircuit) (List.replicate 8 0) 0).wf = true := by decide +kernel

/-- Bin 4 active on each of the eight stacks: set 0, BIN 4. -/
def bin4 (l : List (Fld × Nat)) : State := having ((List.range 8).map (fun k => (F.phyTsetCtl_BIN k 0, 4)) ++ l)

/-- The example after R33: SPEED 0x00D4 is short of bin 4 with MARGIN 4; at the 16th short sample, HOLD 0x10, HEADROOM_LOW. -/
theorem test_headroom_low :
    gives (exec (.headroomSample 0xD4 0) (atCt 2048 { bin4 [(F.glbHeadroomCfg_MARGIN, 4), (F.glbHeadroomCfg_HOLD, 16)] with
      headroom := ⟨15, 77, false, 1⟩ }))
      (fun t => t.flag F.glbHeadroom_SHORT && t.events.map (·.code) == [0x0401]) = true := by decide +kernel

/-- The example after R33, step 4: in bin 3 the same SPEED clears SHORT and posts HEADROOM_OK. -/
theorem test_headroom_ok :
    shortNow true 0xD4 4 (requiredSpeed 3) = false ∧ shortNow true 0xCD 4 (requiredSpeed 3) = true := by decide +kernel

/-- The example after R44: counter 5,000,000,800, CAD_SYNC_VALUE 5,000,000,000: a pause of 800 ct. -/
theorem test_sync_pause :
    gives (exec .syncEdge (atCt 5000000800 (having [(F.glbCadSyncCtl_ARM, 1), (F.glbCadStatus_LOCKED, 1),
      (F.glbCadSyncValue_VALUE, 5000000000)])))
      (fun t => t.flag F.glbCadStatus_PAUSING && t.pauseLeft == 800 && t.cadence == 5000000800) = true := by decide +kernel

/-- The example before R103: 0x0A_1B2C_3C00 under ORDER_A with eight stacks, N = 62, H = 4; the next granules lie in stacks 5 to 7. -/
theorem test_order_a :
    decodeOffset ⟨8, 16, 2, true, false, 0⟩ 0 0x0A1B2C3C00 = ⟨0, 0, 4, 39, 0, 1, 1, 1335⟩ ∧
    (List.map (fun i => (decodeOffset ⟨8, 16, 2, true, false, 0⟩ 0 (0x0A1B2C3C00 + 256 * i)).stack) [1, 2, 3]) = [5, 6, 7] := by
  decide +kernel

/-- The migration example after R281: COL 3 of row 1,335, SID 1, BG 0, BANK 1 is u = 1,367,363. -/
theorem test_atom_index : Loc.u ⟨8, 16, 2, true, false, 0⟩ ⟨0, 3, 5, 39, 0, 1, 1, 1335⟩ = 1367363 := by decide +kernel

/-- The example after R260: the folds of 0x0A_1B2C_3C40 and 0x0A_1B2C_7C40 differ in m₃ alone. -/
theorem test_fold :
    dataFold 0x0A1B2C3C40 = 0x00286CB0F1 ∧ dataFold 0x0A1B2C7C40 = 0x00286CB1F1 := by decide +kernel

/-- R260: an atom read with another address's fold is uncorrectable, and clean with its own. -/
theorem test_misdirected :
    (decodeAtom 0x00286CB1F1 (encodeAtom 0x00286CB0F1 7 false)).out = .uncorrectable ∧
    decodeAtom 0x00286CB0F1 (encodeAtom 0x00286CB0F1 7 false) = ⟨.clean, 7, false, []⟩ := by decide +kernel

/-- The stream of the example after R137: CIR 24,000, CBS 64, EIR 8,000, EBS 32, OVERHEAD 8, with the two buckets. -/
def descAR (c e : Nat) : Atom :=
  [(1, 63, 40, 24000), (1, 39, 20, 64), (2, 63, 40, 8000), (2, 39, 20, 32), (0, 32, 25, 8), (4, 39, 0, c), (5, 39, 0, e)].foldl
    (fun d f => dPut d f.1 f.2.1 f.2.2.1 f.2.2.2) 0

/-- A colour of a 1 KiB atomic-add-beside with the two buckets as given, and the buckets after it. -/
def coloured (c e : Nat) : Colour × Int × Int :=
  let r := colourOf (descAR c e) (descAR c e) { base.newReq 0 3 0 0 0 with atoms := 16 }
  (r.1, dCTok r.2, dETok r.2)

/-- The table of the example: requests 1, 4, 5 and 7; a bucket below zero is written modulo 2^40. -/
theorem test_colours :
    coloured 4096000 2048000 = (.green, 2944000, 2048000) ∧ coloured 640000 2048000 = (.green, -512000, 2048000) ∧
    coloured (2 ^ 40 - 512000) 2048000 = (.yellow, -512000, 896000) ∧
    coloured (2 ^ 40 - 512000) (2 ^ 40 - 256000) = (.red, -512000, -256000) := by decide +kernel

/-- The capacity example after R170: bin 4, REF_LOSS 0x20, UTIL 0xE6; stack 3 at level `l`. -/
def capExample (l : Nat) : State :=
  (bin4 [(F.trfCapCfg_REF_LOSS, 0x20), (F.trfCapCfg_UTIL, 0xE6), (F.thmStk_LEVEL 3, l)]).settleMult 3

theorem test_capacity :
    ((capExample 0).capInst, (capExample 1).capInst) = (22816000, 22080000) ∧
    ((capExample 0).scale.1, (capExample 1).scale, (capExample 2).scale) = (65536, (63421, 3), (44395, 3)) := by decide +kernel

/-- The same example, step 3: GUARANTEE_SCALED with the new SCALE and argument 1 = 0x13. -/
theorem test_guarantee_scaled :
    (((capExample 1).scaleNote 65536).events.map fun e => (e.code, e.arg0, e.arg1)) = [(0x040B, 63421, 0x13)] := by decide +kernel

/-- The deferred transfer after R173: the armed list, and its table. -/
def deferred : GateList := ⟨1000000000, 20000, [(0x80, 2000), (0xB0, 12000), (0xC3, 6000)]⟩

theorem test_deferred_gate :
    deferred.mask 1000013999 = 0xB0 ∧ deferred.mask 1000014000 = 0xC3 ∧ deferred.mask 1000022000 = 0xB0 ∧ c7Gap none deferred = 0 ∧
    (bin4 []).tAtom 8 = 2 ∧ urgency 8100 10000 = 2 := by decide +kernel

/-- The example after R327: 1.5625 × 2⁻²⁴ in E4M3 of kind 3, and back. -/
theorem test_e4m3_kind3 : (encElem 4 3 0x33C80000).bits = 0x1A ∧ decElem 4 3 0x1A = 0x33C80000 := by decide +kernel

/-- Table 11.8: steps 1, 4 and 5. -/
theorem test_compensated :
    ([0x3F7FE000, 0x3F7F8000, 0x3F7F6000].map fun x => ((splitW x).1.bits, (splitW x).2)) =
      [(0x3F80, 0xF800), (0x3F80, 0xE000), (0x3F7F, 0x3000)] ∧
    joinW 0x3F80 0xF800 = 0x3F7FE000 ∧ joinW 0x3F7F 0x3000 = 0x3F7F6000 := by decide +kernel

/-- The example after R342: 1.0 and seven of 2⁻²⁴. -/
theorem test_tree : fTree (0x3F800000 :: List.replicate 7 0x33800000) = 0x3F800003 := by decide +kernel

/-- The example after R359: CRC-32 of the digits 1 to 9. -/
theorem test_crc32 :
    let c := { Chk.init with width := 32, poly := 0x04C11DB7, crc := 0xFFFFFFFF, xorout := 0xFFFFFFFF, refin := true, refout := true }
    (crcByte (feedWord c 0 0x3837363534333231) 0x39).result = 0xCBF43926 := by decide +kernel

/-- The example after R357: under fold mode 1 a word equal to its address is fed as 0. -/
theorem test_fold_mode1 :
    let c := { Chk.init with width := 32, poly := 0x04C11DB7 }
    (feedWord { c with fold := 1 } 0x200001008 0x200001008).crc = (feedWord c 0 0).crc ∧
    (feedWord { c with fold := 1 } 0x200001008 0x200001008).i = 1 := by decide +kernel

/-- The example after R390: the counter and CAD_FRAC at wake, and CAD_UNCERT. -/
theorem test_wake_cadence :
    let s := having [(F.pwrCadFrac_FRAC, 40)]
    ({ s with drone := { s.drone with rEntry := 0x12000, cEntry := 9000000123456, cLast := 9000000101220 } } : State).cadenceOnWake (0x12000 + 100001) =
      (9003051911786, 45) ∧ uncertainty 3051788330 0 = 457769 := by decide +kernel

/-- The hot stack after R407: channel 9 at `t` sixteenths of a degree, stack 4 at level `l`, the window closed or not. -/
def stack4 (t l w : Nat) : State :=
  having [(F.thmDiode_TEMP 9, t), (F.thmDiode_TEMP 8, 0x500), (F.thmStk_LEVEL 4, l), (F.thmStk_WINDOW_CLOSED 4, w)]

theorem test_levels :
    ((stack4 0x054F 0 0).nextLevel 4, (stack4 0x0550 0 0).nextLevel 4, (stack4 0x05F2 1 0).nextLevel 4, (stack4 0x061F 2 1).nextLevel 4)
      = (0, 1, 2, 2) := by decide +kernel

theorem test_window :
    (((stack4 0x0641 2 0).windowCheck 4 []).windowClosed 4, ((stack4 0x0628 2 1).windowCheck 4 []).windowClosed 4,
      ((stack4 0x061F 2 1).windowCheck 4 [9]).windowClosed 4) = (true, true, false) := by decide +kernel

/-- The example after R425: STK[3].PCC[12].CE_COUNT is swept counter 4,430 of eight stacks. -/
theorem test_swept_counter :
    Build.largest.swept[4430]? = some (A.pccRqCfg 3 12 + 0x0E0) ∧ Build.largest.sweptCount = Build.largest.swept.length := by decide +kernel

/-- The example after R364: at 20,000 MB/s chunk 7 is due ⌈7 × 51.2⌉ = 359 ct after t₀. -/
theorem test_copy_pace :
    ((⟨0, 7 * 1024⟩ : Pace).mayStart 20000 358).isSome = false ∧ ((⟨0, 7 * 1024⟩ : Pace).mayStart 20000 359).isSome = true := by
  decide +kernel

theorem witness_StepRunsFrontCommand : ∃ (c : Instr) (l : List Instr) (s : State), s.pending = c :: l :=
  ⟨.syncEdge, [.cadencePllLock ⟨[], []⟩], { base with pending := [.syncEdge, .cadencePllLock ⟨[], []⟩] }, rfl⟩

theorem witness_EmptyQueueTicks :
    let s := { having [(F.glbCadStatus_LOCKED, 1), (F.glbCadStatus_PAUSING, 1)] with pauseLeft := 1 }
    base.pending = [] ∧ base.cpWaiting = [] ∧ s.pending = [] ∧ s.cpWaiting = [] ∧ base.flag F.glbCadStatus_LOCKED = false ∧
    (having [(F.glbCadStatus_LOCKED, 1)]).flag F.glbCadStatus_LOCKED = true ∧
    (having [(F.glbCadStatus_LOCKED, 1)]).flag F.glbCadStatus_PAUSING = false ∧
    s.flag F.glbCadStatus_LOCKED = true ∧ s.flag F.glbCadStatus_PAUSING = true ∧ s.pauseLeft ≤ 1 ∧
    1 < ({ s with pauseLeft := 2 } : State).pauseLeft := by decide +kernel

theorem witness_ExecLeavesQueue : ∃ t, exec (.cadencePllLock ⟨[], []⟩) base = .next t := ⟨_, rfl⟩

theorem witness_StepKeepsForm : ∃ t, base.Formed ∧ step { base with pending := [.cadencePllLock ⟨[], []⟩] } = .next t ∧
    ({ base with pending := [.cadencePllLock ⟨[], []⟩] } : State).Formed :=
  ⟨_, ⟨by decide, by decide, by decide⟩, rfl, by decide, by decide, by decide⟩

theorem witness_EveryCommandAnswers : ∀ n, Instr.syncEdge ≠ .responseFlitAck n := nofun

theorem witness_PortTurnsAway :
    Instr.pwrQuiet.atControlPort = true ∧ ¬ ({ base with power := .retain } : State).cpReady ∧
    ¬ ({ base with cpWaiting := [.doorbell 0] } : State).cpReady ∧
    (Instr.bowSanitise 7).stackOf? = some 7 ∧ ({ base with build := { Build.largest with nStacks := 7 } } : State).build.nStacks ≤ 7 ∧
    ({ base with build := { Build.largest with nStacks := 7 } } : State).cpReady := by
  unfold State.cpReady; decide +kernel

theorem witness_MisalignedAddress :
    base.cpReady ∧ (0x101 : BitVec 24).toNat % 8 ≠ 0 ∧ (0xFFFFF8 : BitVec 24).toNat % 8 = 0 ∧ RegFile.find 0xFFFFF8 = none := by
  unfold State.cpReady; decide +kernel

theorem witness_RegisterAccessCodes :
    base.cpReady ∧ A.glbHeadroomCfg % 8 = 0 ∧ base.present A.glbHeadroomCfg = true ∧ (RegFile.find A.glbHeadroomCfg).isSome = true ∧
    A.glbHeadroomCfg < 2 ^ 24 ∧ A.glbHeadroomCfg ≠ A.seqDoorbell ∧
    ∀ x ∈ dieActs ++ stackActs, regIndices x.base x.dims A.glbHeadroomCfg = none := by
  unfold State.cpReady; decide +kernel

theorem witness_EventQueued :
    base.events.length < 64 ∧ ({ base with events := List.replicate 63 ⟨1, 0, 0, 0, 0⟩ } : State).events.length < 64 ∧
    ({ base with events := List.replicate 64 ⟨1, 0, 0, 0, 0⟩ } : State).events.length = 64 := by decide +kernel

theorem witness_InterleaveOrders :
    (∀ b ∈ [Build.largest, ⟨1, 4, 63, false, false, 0⟩], 0 < b.nStacks ∧ b.spares < 64 ∧ 4 ≤ b.height ∧ 0 < b.N ∧ 0 < b.H) ∧
    0 < dataRows := by decide +kernel

theorem witness_CellsReadAsWritten :
    (7 : Nat) < 8 ∧ (63 : Nat) < 64 ∧ 2 ^ 25 - 1 < 2 ^ 25 ∧ (7, 63, true, 2 ^ 25 - 1) ≠ (7, 63, false, 2 ^ 25 - 1) := by decide +kernel

/-- One stack, and the cadence counter at 4096. -/
def one : State := { base with build := { Build.largest with nStacks := 1 }, cadence := 4096 }

theorem witness_HeadroomSampled :
    let s := { State.having one [(F.glbHeadroomCfg_MARGIN, 10), (F.glbHeadroomCfg_HOLD, 2)] with headroom := ⟨1, 7, false, 3⟩ }
    let req := requiredSpeed s.instBin
    s.cpUp = true ∧ s.headroom.sampled < s.cadence / 1024 ∧ s.fget F.glbHeadroomCfg_MARGIN = 10 ∧ 10 < req ∧ req + 10 < 2 ^ 16 ∧
    s.headroom.low = false ∧ max 1 (s.fget F.glbHeadroomCfg_HOLD) ≤ s.headroom.shortRun + 1 ∧
    ({ s.headroom with shortRun := 0 } : Headroom).shortRun + 1 < max 1 (s.fget F.glbHeadroomCfg_HOLD) := by decide +kernel

/-- An armed SYNC edge at counter 2,000,000 with CAD_SYNC_VALUE at `v`. -/
def armed (v : Nat) : State := atCt 2000000 (having [(F.glbCadSyncCtl_ARM, 1), (F.glbCadSyncValue_VALUE, v), (F.glbCadStatus_LOCKED, 1)])

theorem witness_CadenceControl :
    base.cpReady ∧ base.cpUp = true ∧ base.flag F.glbCadStatus_PAUSING = false ∧ base.flag F.glbCadSyncCtl_ARM = false ∧
    (having [(F.glbCadStatus_PAUSING, 1)]).flag F.glbCadStatus_PAUSING = true ∧ base.sameEdge = false ∧
    ({ armed 0 with syncAt := some (1999961, 0) } : State).sameEdge = true ∧
    ({ armed 0 with syncAt := some (1999960, 0) } : State).sameEdge = false ∧
    (∀ v ∈ [2000000, 1000000, 1999999, 2000001], (armed v).cpUp = true ∧ (armed v).sameEdge = false ∧ (armed v).flag F.glbCadSyncCtl_ARM = true ∧
      (armed v).flag F.glbCadStatus_PAUSING = false) ∧
    ((armed 2000000).fget F.glbCadSyncValue_VALUE : Int) - (armed 2000000).cadence = 0 ∧
    ((armed 1000000).fget F.glbCadSyncValue_VALUE : Int) - (armed 1000000).cadence = -1000000 ∧
    ((armed 1999999).fget F.glbCadSyncValue_VALUE : Int) - (armed 1999999).cadence = -1 ∧
    0 < ((armed 2000001).fget F.glbCadSyncValue_VALUE : Int) - (armed 2000001).cadence := by unfold State.cpReady; decide +kernel

theorem witness_SyncStepRefused :
    (armed 999999).cpUp = true ∧ (armed 999999).sameEdge = false ∧ (armed 999999).flag F.glbCadSyncCtl_ARM = true ∧ (armed 999999).flag F.glbCadStatus_PAUSING = false ∧
    ((armed 999999).fget F.glbCadSyncValue_VALUE : Int) - (armed 999999).cadence < -1000000 := by decide +kernel

theorem witness_GateEntryWritten :
    let s := having [(F.trfGateStatus_ACTIVE_VALID 15, 1), (F.trfGateStatus_ACTIVE_BANK 15, 1), (F.trfGateStatus_PENDING 14, 1)]
    s.cpReady ∧ (s.flag (F.trfGateStatus_ACTIVE_VALID 15) = true ∧ 1 = s.fget (F.trfGateStatus_ACTIVE_BANK 15)) ∧
    (s.flag (F.trfGateStatus_PENDING 14) = true ∧ 1 = 1 - s.fget (F.trfGateStatus_ACTIVE_BANK 14)) ∧
    ¬ ((base.flag (F.trfGateStatus_ACTIVE_VALID 0) = true ∧ 0 = base.fget (F.trfGateStatus_ACTIVE_BANK 0)) ∨
      (base.flag (F.trfGateStatus_PENDING 0) = true ∧ 0 = 1 - base.fget (F.trfGateStatus_ACTIVE_BANK 0))) := by
  unfold State.cpReady; decide +kernel

/-- Gate 3 with one entry of duration 5 in bank 1, CYCLE 10, LEN 1 and NEXT_BASE 100. -/
def gate3 : State :=
  having [(F.trfGateNextBase_BASE 3, 100), (F.trfGateNextCfg_CYCLE 3, 10), (F.trfGateNextCfg_LEN 3, 1),
    (F.trfGateStatus_ACTIVE_BANK 3, 0), (⟨A.trfGateEnt 3 1 0, 31, 0⟩, 5)]

/-- Gate 3 armed for 100. -/
def gate3Pending (n : Nat) : State :=
  { State.having base [(F.trfGateStatus_PENDING 3, 1), (F.glbCadStatus_LOCKED, 1), (⟨A.trfGateEnt 3 1 0, 31, 0⟩, 5)] with
    gates := [(3, ⟨100, 10, 1⟩)], cadence := n }

theorem witness_GateArmed :
    gate3.cpReady ∧ ¬ (gate3.flag (F.trfGateStatus_PENDING 3) = true ∧ (gate3.arm 3).t ≤ gate3.cadence) ∧
    (gate3Pending 100).cpReady ∧ (gate3Pending 100).flag (F.trfGateStatus_PENDING 3) = true ∧
    ((gate3Pending 100).arm 3).t ≤ (gate3Pending 100).cadence ∧
    (let bad := fun s : State => s.fget (F.trfGateNextCfg_CYCLE 3) = 0 ∨ s.fget (F.trfGateNextCfg_LEN 3) = 0 ∨
       256 < s.fget (F.trfGateNextCfg_LEN 3) ∨
       (∀ j < s.fget (F.trfGateNextCfg_LEN 3), (s.gateEnt 3 (1 - s.fget (F.trfGateStatus_ACTIVE_BANK 3)) j).2 = 0) ∨
       s.flag (F.trfGateStatus_PENDING 3) = true
     ¬ bad gate3 ∧ bad (having [(F.trfGateNextCfg_CYCLE 3, 10), (F.trfGateNextCfg_LEN 3, 257)])) ∧
    (atCt 100 gate3).cadence ≤ gate3.fget (F.trfGateNextBase_BASE 3) ∧
    gate3.fget (F.trfGateNextBase_BASE 3) < (atCt 101 gate3).cadence := by unfold State.cpReady; decide +kernel

theorem witness_GateCancelled :
    (gate3Pending 99).cpReady ∧ (gate3Pending 99).flag (F.trfGateStatus_PENDING 3) = true ∧
    (gate3Pending 99).cadence < ((gate3Pending 99).arm 3).t ∧ ((gate3Pending 100).arm 3).t ≤ (gate3Pending 100).cadence ∧
    base.flag (F.trfGateStatus_PENDING 3) = false := by unfold State.cpReady; decide +kernel

theorem witness_GateSwapTaken :
    (gate3Pending 99).flag (F.trfGateStatus_PENDING 3) = true ∧ (gate3Pending 99).reaches ((gate3Pending 99).arm 3).t := by
  unfold State.reaches; decide +kernel

/-- Output 5 of stack 2 as given. -/
def outIs (o : Output) (s : State) : State := { s with outputs := [(pcIx 2 5, o)] }

theorem witness_CapoHolds :
    let soft := outIs { Output.init with st := .soft } base
    let hard := atCt 700 (outIs { Output.init with st := .hard, holdAt := 60 } (having [(F.arbStkCfg_DRAIN_WARN 2, 10)]))
    base.cpReady ∧ 7 < base.build.nStacks ∧ (soft.out 2 5).st = .soft ∧ (∀ q ∈ (soft.pcc 2 5).buf, q.cls = 7) ∧
    (∀ m ∈ (soft.pcc 2 5).merges, m.cls = 7) ∧ (soft.pcc 2 5).fretQ = [] ∧
    (hard.out 2 5).st = .hard ∧ (hard.pcc 2 5).buf = [] ∧ (hard.pcc 2 5).merges = [] ∧ (hard.pcc 2 5).replay = .run ∧
    (hard.pcc 2 5).fretQ = [] ∧ (hard.pcc 2 5).rb = [] ∧ (hard.pcc 2 5).rowCmd = none ∧
    (∀ z ∈ (hard.pcc 2 5).lines, z.st ≠ .filling) ∧
    (hard.out 2 5).warned = false ∧ hard.fget (F.arbStkCfg_DRAIN_WARN 2) ≠ 0 ∧
    hard.reaches ((hard.out 2 5).holdAt + hard.fget (F.arbStkCfg_DRAIN_WARN 2) * 64) ∧
    ((outIs { Output.init with warned := true } base).out 2 5).warned = true := by
  unfold State.cpReady State.reaches; decide +kernel

/-- Port 0 enabled with one credit of label 0, otherwise as `p`. -/
def port0 (p : Port) (s : State) : State := { s with ports := [(0, { p with everEn := true, credited := true })] }

/-- A port with a credit of label 0. -/
def credit1 : Port := { Port.init with credits := [(0, 1)] }

/-- Streams 1 to `k` missed at port 0. -/
def misses (k : Nat) : State :=
  port0 credit1 { one with
    misses := (List.range k).map fun i => ⟨i + 1, [i + 1], false, some 0, false⟩
    reqs := (List.range k).map fun i => (i + 1, (base.newReq 0 0 0 0 0))
    nextReq := k + 1 }

/-- The one flit of a request of size 0, label 0 and stream 0 with the opcode and address `h` gives. -/
def hdrX (h : BitVec 128) : HeldHdr := HeldHdr.of (hdrOp h) h 1 false 0 0

theorem witness_HeaderHeld :
    (Instr.read 0 0 1 false).arrives? = some (0, hdrX 0) ∧ (Instr.bridgeRequest 0 1 false 0 0).arrives? = some (112, hdrX 0) ∧
    ((port0 { credit1 with hdr := some (hdrX 0) } one).port 0).hdr ≠ none ∧ one.portBuilt 0 = true ∧
    one.coreOn = true ∧ (one.port 0).hdr = none ∧ (one.port 0).everEn = false ∧
    ((port0 Port.init one).port 0).everEn = true ∧ SMap.get ((port0 Port.init one).port 0).credits 0 (hdrLabel 0) = 0 ∧
    (let s := misses 4
     s.coreOn = true ∧ (s.port 0).hdr = none ∧ (s.port 0).everEn = true ∧ 0 < SMap.get (s.port 0).credits 0 (hdrLabel 0) ∧
     (hdrX 0).op ≠ opFence ∧ flitBad 0 (hdrX 0).op (hdrSize 0) 1 false = false ∧ s.portRefusal 0 (hdrX 0).op 0 = none ∧
     s.missSlotShort 0 (hdrStream 0) = true) := by
  refine ⟨rfl, rfl, ?_⟩
  decide +kernel

theorem witness_RequestAccepted :
    let s := port0 credit1 one
    (Instr.read 0 0 1 false).arrives? = some (0, hdrX 0) ∧
    s.coreOn = true ∧ (s.port 0).hdr = none ∧ (s.port 0).everEn = true ∧ 0 < SMap.get (s.port 0).credits 0 (hdrLabel 0) ∧
    flitBad 0 0 (hdrSize 0) 2 false = true ∧ flitBad 0 0 (hdrSize 0) 1 true = true ∧
    flitBad 0 0 (hdrSize 0) 1 false = false ∧ s.portRefusal 0 0 0 = none ∧ hdrOp 0 ≠ opFence ∧ s.missSlotShort 0 (hdrStream 0) = false ∧
    (misses 3).missSlotShort 0 (hdrStream 0) = false ∧ s.portRefusal 0 opFence 4 = none ∧
    flitBad 0 6 (hdrSize 6) 1 false = false ∧ s.portRefusal 0 6 6 = some 3 := by
  refine ⟨rfl, ?_⟩
  decide +kernel

/-- A header of opcode `op`, size `size` and address `a`. -/
def headerOf (op size a : Nat) : BitVec 128 := BitVec.ofNat 128 (op + size * 2 ^ 3 + a * 2 ^ 7)

theorem witness_PortChecks :
    let s := State.having { one with build := { one.build with bridge := true } }
      [(F.glbSiblingSize_SIZE, 4096), (F.glbBridgeStatus_UP, 1), (F.glbPortCfg_MID_MODE 0, 2), (F.glbPortCfg_MID 0, 1),
       (F.glbPortCfg_MID_MASK 0, 1)]
    hdrAddr (headerOf 0 6 4096) = 4096 ∧ hdrSize (headerOf 0 6 4096) = 6 ∧ hdrOp (headerOf 2 3 0) = 2 ∧ hdrSize (headerOf 2 3 0) = 3 ∧
    hdrAddr (headerOf 0 0 1) % 64 ≠ 0 ∧ hdrAddr (headerOf 0 0 (2 ^ 41)) = 2 ^ 41 ∧
    s.fget (F.glbPortCfg_MID_MODE 0) = 2 ∧ hdrMid 0 &&& s.fget (F.glbPortCfg_MID_MASK 0) ≠
      s.fget (F.glbPortCfg_MID 0) &&& s.fget (F.glbPortCfg_MID_MASK 0) ∧
    one.build.addrBase ≤ 0 ∧ 0 + 64 ≤ one.build.addrBase + one.build.addrSize ∧
    (s.build.bridge = true ∧ (1 - s.build.sibling) * 2 ^ 41 ≤ 2 ^ 41 ∧
      2 ^ 41 + 4096 ≤ (1 - s.build.sibling) * 2 ^ 41 + s.fget F.glbSiblingSize_SIZE ∧ s.flag F.glbBridgeStatus_UP = true) := by
  decide +kernel

/-- Port 0 enabled, with a header held for `why`. -/
def holding (why : HoldWhy) (p : Port) : State :=
  port0 { p with hdr := some { hdrX 0 with why := why } } (having [(F.glbPortCfg_EN 0, 1)])

/-- A piece of one atom, a read of port 0 in request 1. -/
def piece0 : Piece :=
  { id := 64, req := 1, first := 0, n := 1, kind := .read, lane := 0, org := .port 0, cls := 0, label := 0, arrival := 0, mid := 0
    page := 0, order := false, stream := 0, red := 0, addr := 0, stack := 0, lpc := 0, ppc := 0, bank := 0, row := 0, u := 0
    inMeta := false, slotless := false, aged := true, checks := [.read], dest := none, sortable := false, batchEnd := false
    data := [], be := [], poison := [], aging := 0, since := 0, st := .queued, slot := 0, beats := 0, todo := [0], pend := []
    conf := false, guess := [], got := [], zpend := [], left := [], wr := false, hold := false, holdAt := 0 }

theorem witness_HeldHeaderServed :
    one.coreOn = true ∧ one.portBuilt 0 = true ∧ (one.port 0).hdr = none ∧ HoldWhy.noCredit ≠ .noMissSlot ∧
    ((holding .noCredit credit1).port 0).hdr = some { hdrX 0 with why := .noCredit } ∧
    (port0 { credit1 with hdr := some (hdrX 0) } one).flag (F.glbPortCfg_EN 0) = false ∧
    (holding .noCredit credit1).flag (F.glbPortCfg_EN 0) = true ∧
    0 < SMap.get ((holding .noCredit credit1).port 0).credits 0 (hdrLabel 0) ∧
    (let s := holding .noCredit { Port.init with spent := [⟨1, 0, true⟩] }
     SMap.get (s.port 0).credits 0 0 = 0 ∧ s.overShare 0 = false ∧
     (s.port 0).spent.find? (fun e => e.acked && e.label == 0) = some ⟨1, 0, true⟩) ∧
    (let s := { State.having (holding .noCredit Port.init) [(F.glbPortCfg_EN 0, 1), (F.trfLabelCfg_SHARE 0, 1)] with
        pccs := [(0, { Pcc.init with buf := [piece0] })] }
     s.overShare 0 = true ∧ SMap.get (s.port 0).credits 0 0 = 0) ∧
    (∀ e ∈ ((holding .noCredit Port.init).port 0).spent, ¬ (e.acked = true ∧ e.label = 0)) ∧
    (let s := port0 { credit1 with hdr := some { hdrX 0 with why := .noMissSlot } } (misses 4)
     (s.port 0).hdr = some { hdrX 0 with why := .noMissSlot } ∧ (∀ e ∈ s.reqs, e.2.src = .port 0 → s.keptBack e.1 e.2 = false) ∧
     s.missSlotShort 0 (hdrStream 0) = true ∧ ((s.dispatchKept 0).port 0).hdr = some { hdrX 0 with why := .noMissSlot } ∧
     (s.dispatchKept 0).missSlotShort 0 (hdrStream 0) = true) ∧
    (holding .noMissSlot credit1).missSlotShort 0 (hdrStream 0) = false ∧
    (((holding .noMissSlot credit1).dispatchKept 0).port 0).hdr = some { hdrX 0 with why := .noMissSlot } ∧
    ((holding .noMissSlot credit1).dispatchKept 0).missSlotShort 0 (hdrStream 0) = false := by decide +kernel

/-- Port 0 with one response flit pending since cadence value 1, and its request's credit. -/
def pendingFlit : State :=
  atCt 66 (port0 { Port.init with rsq := [⟨1, 0, 0, true, false, 4, 0, 0, 0, 0, 0⟩], since := 1, spent := [⟨1, 0, false⟩] }
    (having [(F.glbPortCfg_STALL_LIMIT 0, 1)]))

/-- The same with the last flit of request 2 behind it, a request of label 3 older than its TARGET. -/
def lateFlit : State :=
  { State.having pendingFlit [(F.trfLabelCfg_TARGET 3, 65)] with
    ports := [(0, { pendingFlit.port 0 with
      rsq := (pendingFlit.port 0).rsq ++ [⟨2, 3, 0, true, false, 4, 0, 0, 0, 0, 0⟩] })]
    reqs := [(1, base.newReq 0 4 4 0 0), (2, { base.newReq 0 4 4 0 0 with label := 3, arrival := 0 })] }

theorem witness_ResponseChannel :
    (base.port 112).rsq = [] ∧ (pendingFlit.port 0).rsq = [⟨1, 0, 0, true, false, 4, 0, 0, 0, 0, 0⟩] ∧
    (lateFlit.port 0).rsq.drop 1 = [⟨2, 3, 0, true, false, 4, 0, 0, 0, 0, 0⟩] ∧ (lateFlit.req? 2).isSome = true ∧
    lateFlit.fget (F.trfLabelCfg_TARGET 3) ≠ 0 ∧ lateFlit.fget (F.trfLabelCfg_TARGET 3) < lateFlit.cadence - 0 ∧
    pendingFlit.flag (F.glbPortStatus_STALLED 0) = false ∧
    pendingFlit.reaches ((pendingFlit.port 0).since + max 1 (pendingFlit.fget (F.glbPortCfg_STALL_LIMIT 0)) * 64 + 1) ∧
    (having [(F.glbPortStatus_STALLED 0, 1)]).flag (F.glbPortStatus_STALLED 0) = true ∧
    (let s := port0 { Port.init with spent := [⟨1, 5, true⟩] } (having [(F.glbPortCfg_EN 0, 1)])
     (s.port 0).spent.find? (fun e => e.acked && e.label == 5) = some ⟨1, 5, true⟩ ∧ s.flag (F.glbPortCfg_EN 0) = true ∧
     s.overShare 5 = false ∧ (s.port 0).hdr = none) ∧
    (let s := holding .noCredit { Port.init with spent := [⟨1, 0, true⟩] }
     (s.port 0).hdr.all (fun x => x.why != .noMissSlot && hdrLabel x.header == 0) = true ∧
     (s.port 0).spent.find? (fun e => e.acked && e.label == 0) = some ⟨1, 0, true⟩) ∧
    base.flag (F.glbPortCfg_EN 0) = false ∧ ∀ e ∈ (base.port 0).spent, ¬ (e.acked = true ∧ e.label = 63) := by
  unfold State.reaches; decide +kernel

theorem witness_PortSwitched :
    let ready := having [(F.glbResetStatus_READY, 1)]
    ready.cpReady ∧ ready.power = .active ∧ ready.flag (F.glbPortCfg_EN 112) = false ∧ ready.flag F.glbResetStatus_READY = true ∧
    ready.build.bridge = false ∧ (111 : Nat) < 112 ∧ ({ ready with build := { ready.build with bridge := true } } : State).build.bridge = true ∧
    ready.flag F.glbAccLock_LOCK = false ∧ (having [(F.glbAccLock_LOCK, 1)]).flag F.glbAccLock_LOCK = true ∧
    ({ ready with power := .restored } : State).cpReady ∧ ({ ready with power := .checking } : State).cpReady ∧
    base.power ≠ .quiet ∧ ({ ready with power := .quiet } : State).cpReady ∧ (0 : Word).getLsbD 0 = false ∧ (1 : Word).getLsbD 0 = true ∧ base.flag F.glbResetStatus_READY = false ∧
    (having [(F.glbPortCfg_EN 112, 1)]).cpReady ∧ (having [(F.glbPortCfg_EN 112, 1)]).flag (F.glbPortCfg_EN 112) = true := by
  unfold State.cpReady; decide +kernel

/-- A fence of port 0 with nothing before it. -/
def fence0 : State := { base with reqs := [(1, base.newReq 0 4 4 0 0)], nextReq := 2 }

theorem witness_FenceCompletes :
    fence0.readyFence 0 = some (1, base.newReq 0 4 4 0 0) ∧ (base.newReq 0 4 4 0 0).flits = 0 ∧
    (base.newReq 0 4 4 0 0).lastSent = false ∧ (base.newReq 0 4 4 0 0).res = [] ∧ base.readyFence 0 = none ∧
    (let u := (fence0.putReq 1 { base.newReq 0 4 4 0 0 with fenceDone := true }).sendFlits 1
     ∀ e ∈ u.reqs, u.keptBack e.1 e.2 = false) := by decide +kernel

/-- A Bridge build whose Bridge is up, with one request forwarded at cadence value 0. -/
def bridged : State :=
  { State.having { one with build := { one.build with bridge := true } } [(F.glbBridgeStatus_UP, 1)] with
    ports := [(112, { Port.init with everEn := true, credits := [(0, 1)] })]
    fwds := [(1, ⟨1, 0, 0, true⟩)]
    reqs := [(1, base.newReq 0 0 0 0 0)]
    nextReq := 2 }

theorem witness_BridgeTraffic :
    bridged.build.bridge = true ∧ bridged.coreOn = true ∧ (bridged.port 112).everEn = true ∧ (bridged.port 112).hdr = none ∧
    0 < SMap.get (bridged.port 112).credits 0 (hdrLabel 3) ∧ hdrOp 3 = 3 ∧ sizeBad (hdrOp 3) (hdrSize 3) (hdrAddr 3) = false ∧
    (hdrOp 3 = opAtomic → bridged.build.nmus = true) ∧ flitBad 112 3 (hdrSize 3) 1 false = false ∧ flitBad 112 3 (hdrSize 3) 2 false = true ∧
    (let r := bridged.bridgeReq (HeldHdr.of 3 3 1 false 0 0)
     bridged.build.addrBase ≤ r.addr ∧ r.addr + 64 * r.atoms ≤ bridged.build.addrBase + bridged.build.addrSize) ∧
    (let h := headerOf 0 0 (2 ^ 41)
     let r := bridged.bridgeReq (HeldHdr.of 0 h 1 false 0 0)
     sizeBad (hdrOp h) (hdrSize h) (hdrAddr h) = false ∧ ¬ (r.addr + 64 * r.atoms ≤ bridged.build.addrBase + bridged.build.addrSize)) ∧
    sizeBad 0 (hdrSize (headerOf 0 7 0)) 0 = true ∧ flitBad 112 opFence 0 1 false = false ∧
    SMap.get? bridged.fwds 2 = none ∧ SMap.get? bridged.fwds 1 = some ⟨1, 0, 0, true⟩ ∧ bridged.req? 1 = some (base.newReq 0 0 0 0 0) ∧
    base.fwds = [] ∧ ({ bridged with cadence := 2 ^ 40 } : State).reaches (0 + max 1 (bridged.fget F.glbBridgeCfg_TIMEOUT) * 1000) ∧
    bridged.flag F.glbBridgeStatus_UP = true ∧
    ({ base with build := { base.build with bridge := true } } : State).flag F.glbBridgeStatus_UP = false := by
  unfold State.reaches; decide +kernel
/-- `s` with request `id` for the block's own access `o` of one atom, its opcode `op`, come to `x`. -/
def owning (o : Own) (id op : Nat) (x : AtomRes) (s : State) : State :=
  { s with reqs := s.reqs ++ [(id, { ownReq o op 1 0 0 0 0 with res := [x] })] }

theorem has_of {s : State} {o : Own} {id : Nat} {d : Direct}
    (h : ((s.ownFind o).map fun e => (e.1, e.2.direct)) = some (id, d)) : s.has o id d := by
  obtain ⟨⟨i, r⟩, he, hd⟩ := Option.map_eq_some_iff.1 h
  cases hd; exact ⟨r, he, rfl⟩

theorem witness_OrderWritten :
    base.cpReady ∧ base.flag F.glbAccLock_LOCK = false ∧ (having [(F.glbAccLock_LOCK, 1)]).flag F.glbAccLock_LOCK = true ∧
    ((∀ n < 113, base.flag (F.glbPortCfg_EN n) = false) ∧ (∀ e ∈ base.slots, e.2.st = .free) ∧
      ∀ k < base.build.nStacks, base.bowBusy k = false) ∧
    ¬ ∀ n < 113, (having [(F.glbPortCfg_EN 112, 1)]).flag (F.glbPortCfg_EN n) = false := by unfold State.cpReady; decide +kernel

/-- Every output of stack 7 drained. -/
def drained7 : State := { base with outputs := (List.range 64).map fun p => (pcIx 7 p, { Output.init with st := .drained }) }

theorem witness_MapEdited :
    base.cpReady ∧ 7 < base.build.nStacks ∧ base.flag (F.pcmapEdit_EDIT 7) = false ∧ (∃ p < 64, (base.out 7 p).st ≠ .drained) ∧
    (∀ p < 64, (drained7.out 7 p).st = .drained) ∧ drained7.flag (F.migStatus_ACTIVE 7) = false ∧
    drained7.flag F.glbAccLock_LOCK = false ∧ (having [(F.pcmapEdit_EDIT 7, 1)]).flag (F.pcmapEdit_EDIT 7) = true ∧
    61 < base.build.N ∧ base.build.N ≤ 62 := by unfold State.cpReady; decide +kernel

/-- Stack 7's map is being edited: logical PC l at physical PC l, but PC `p` for logical PC 0. -/
def editing (p : Nat) : State :=
  { State.having base ((F.pcmapEdit_EDIT 7, 1) :: (F.pcmapFailed_MASK 7, 2 ^ 63) ::
      (List.range 62).map fun l => (F.pcmapEntry_PPC 7 l, if l = 0 then p else l)) with
    mapSave := [(7, some ⟨[], 0, 0⟩)] }

theorem witness_MapEditClosed :
    ∀ s ∈ [editing 0, editing 1, editing 63], s.cpReady ∧ 7 < s.build.nStacks ∧ s.flag (F.pcmapEdit_EDIT 7) = true ∧
      SMap.get s.mapSave none 7 = some ⟨[], 0, 0⟩ := by unfold State.cpReady; decide +kernel

theorem witness_MapEditClosed_good :
    (∀ i < 62, ∀ j < 62, i ≠ j → (editing 62).fget (F.pcmapEntry_PPC 7 i) ≠ (editing 62).fget (F.pcmapEntry_PPC 7 j)) ∧
    (∀ l < 62, ((editing 62).fget (F.pcmapFailed_MASK 7)).testBit ((editing 62).fget (F.pcmapEntry_PPC 7 l)) = false) ∧
    (editing 1).fget (F.pcmapEntry_PPC 7 0) = (editing 1).fget (F.pcmapEntry_PPC 7 1) ∧
    ((editing 63).fget (F.pcmapFailed_MASK 7)).testBit ((editing 63).fget (F.pcmapEntry_PPC 7 0)) = true := by decide +kernel

/-- A staged window of stack 7 from granule `b` to granule `l`. -/
def staging (b l : Nat) : State :=
  having [(F.accStageCtl_VALID 7, 1), (F.accStageBase_GRANULE 7, b), (F.accStageLimit_GRANULE 7, l)]

theorem witness_WindowCommands :
    base.cpReady ∧ 7 < base.build.nStacks ∧ (having [(F.glbAccLock_LOCK, 1)]).flag F.glbAccLock_LOCK = true ∧
    (staging 6 5).flag F.glbAccLock_LOCK = false ∧ ((staging 6 5).staged 7).valid = true ∧
    ((staging 6 5).staged 7).limit < ((staging 6 5).staged 7).base ∧ ((staging 5 5).staged 7).base ≤ ((staging 5 5).staged 7).limit ∧
    (base.staged 7).valid = false ∧ (base.window 7 127).base < 2 ^ 30 ∧ (base.window 7 127).limit < 2 ^ 30 := by
  unfold State.cpReady; decide +kernel

theorem witness_LockAndCapacity :
    base.cpReady ∧ 7 < base.build.nStacks ∧ ∀ k < base.build.nStacks, base.flag (F.pcmapEdit_EDIT k) = false := by
  unfold State.cpReady; decide +kernel

/-- Stream 5 missed by request 1. -/
def missed (c : SMap Entry) : State := { base with misses := [⟨5, [1], false, some 0, false⟩], cache := c }

theorem witness_FetchStarted :
    (missed []).entry? 5 = none ∧
    (missed []).misses.find? (fun x => x.stream == 5 && !x.started) = some ⟨5, [1], false, some 0, false⟩ ∧
    freeIndex (missed []).cache 0 < 16384 := by decide +kernel

/-- As many entries as `l` listed from index `n` on fill the indices from `n` on. -/
theorem freeIndex_range' (f : Nat → Entry) : ∀ n k, freeIndex ((List.range' k n).map fun j => (j, f j)) k = k + n
  | 0, k => rfl
  | n + 1, k => by
    rw [List.range'_succ, List.map_cons, freeIndex, if_pos rfl, freeIndex_range' f n (k + 1)]; omega

/-- There is a stream cache of any size whose entries are all taken by streams other than 5, each in state `st`. -/
theorem full_exists (n : Nat) (st : CacheSt) :
    ∃ c : SMap Entry, freeIndex c 0 = n ∧ c.length = n ∧ ∀ e ∈ c, e.2.st = st ∧ e.2.stream ≠ 5 := by
  refine ⟨(List.range' 0 n).map fun j => (j, { Entry.init with st := st, stream := 6 + j }), ?_, by simp, ?_⟩
  · rw [freeIndex_range' fun j => { Entry.init with st := st, stream := 6 + j }, Nat.zero_add]
  · intro e he
    obtain ⟨j, _, rfl⟩ := List.mem_map.1 he
    exact ⟨rfl, by simp only; omega⟩

/-- What a cache `c` gives whose entries are in state `st`, none of them of stream 5. -/
theorem missed_full (c : SMap Entry) (st : CacheSt) (hc : ∀ e ∈ c, e.2.st = st ∧ e.2.stream ≠ 5) :
    (missed c).entry? 5 = none ∧ (st ≠ .idle → (missed c).victim = none) ∧
    (((missed c).cache.filter fun e => e.2.st == .writeback).length = if st = .writeback then c.length else 0) := by
  refine ⟨List.find?_eq_none.2 fun e he => ?_, fun h => ?_, ?_⟩
  · simp [(hc e he).2]
  · rw [State.victim, List.filter_eq_nil_iff.2 fun e he => by simp [(hc e he).1, h]]; rfl
  · by_cases h : st = .writeback
    · rw [List.filter_eq_self.2 fun e he => by simp [(hc e he).1, h], if_pos h]; rfl
    · rw [List.filter_eq_nil_iff.2 fun e he => by simp [(hc e he).1, h], if_neg h]; rfl

theorem witness_FetchStarted_full : ∃ c : SMap Entry, (missed c).entry? 5 = none ∧ 16384 ≤ freeIndex c 0 ∧
    (c.filter fun e => e.2.st == .writeback).length < ((missed c).misses.filter fun x => !x.started).length ∧
    (missed c).victim = none ∧ (missed c).cacheFull = false := by
  obtain ⟨c, hf, _, hc⟩ := full_exists 16384 .filling
  have h := missed_full c _ hc
  exact ⟨c, h.1, Nat.le_of_eq hf.symm, Nat.lt_of_le_of_lt (Nat.le_of_eq h.2.2) Nat.one_pos, h.2.1 nofun, rfl⟩

theorem witness_FetchStarted_writeback : ∃ c : SMap Entry, (missed c).entry? 5 = none ∧ 16384 ≤ freeIndex c 0 ∧
    ((missed c).misses.filter fun x => !x.started).length ≤ (c.filter fun e => e.2.st == .writeback).length := by
  obtain ⟨c, hf, hl, hc⟩ := full_exists 16384 .writeback
  have h := missed_full c _ hc
  refine ⟨c, h.1, Nat.le_of_eq hf.symm, Nat.le_trans ?_ (Nat.le_of_eq h.2.2.symm)⟩
  rw [if_pos rfl, hl]; exact Nat.le_of_ble_eq_true rfl

theorem witness_FetchStarted_victim : ∃ (c : SMap Entry) (v : Nat × Entry), c.length = 1 ∧ (missed c).victim = some v :=
  ⟨[(0, { Entry.init with st := .idle })], _, rfl, rfl⟩

/-- A valid descriptor: class 2, port group 0, CIR 64, CBS 2, weight 1. -/
def desc5 : Atom := dPut (dPut (dPut (dPut 0 0 63 63 1) 0 62 60 2) 1 63 40 64) 1 39 20 2

/-- Stream 5 in state `st`. -/
def stream5 (st : CacheSt) : State := { one with cache := [(0, { Entry.init with st := st, stream := 5, desc := desc5 })] }

theorem witness_FetchAndWriteback :
    (stream5 .filling).entry? 5 = some (0, { Entry.init with st := .filling, stream := 5, desc := desc5 }) ∧
    (owning (.fetch 5) 1 opRead ⟨.ok, true, desc5⟩ (stream5 .filling)).has (.fetch 5) 1 (.data desc5 false) ∧
    (owning (.fetch 5) 1 opRead ⟨.poison, true, 0⟩ (stream5 .filling)).has (.fetch 5) 1 (.data 0 true) ∧
    (owning (.fetch 5) 1 opRead ⟨.lost, true, 0⟩ (stream5 .filling)).has (.fetch 5) 1 .lost ∧
    (owning (.fetch 5) 1 opRead ⟨.waiting, false, 0⟩ (stream5 .filling)).has (.fetch 5) 1 .blocked ∧
    (owning (.writeback 5) 1 opPartial ⟨.waiting, false, 0⟩ (stream5 .writeback)).has (.writeback 5) 1 .blocked ∧
    (owning (.writeback 5) 1 opPartial ⟨.waiting, true, 0⟩ (stream5 .writeback)).has (.writeback 5) 1 .done ∧
    (owning (.writeback 5) 1 opPartial ⟨.lost, true, 0⟩ (stream5 .writeback)).has (.writeback 5) 1 .lost ∧
    (owning (.writeback 5) 1 opPartial ⟨.timeout, true, 0⟩ (stream5 .writeback)).has (.writeback 5) 1 .timeout ∧
    (stream5 .writeback).entry? 5 = some (0, { Entry.init with st := .writeback, stream := 5, desc := desc5 }) ∧
    (stream5 .filling).commanded 5 = false ∧ ((stream5 .filling).misses.find? fun m => m.stream == 5) = none := by
  refine ⟨?_, has_of ?_, has_of ?_, has_of ?_, has_of ?_, has_of ?_, has_of ?_, has_of ?_, has_of ?_, ?_⟩ <;> decide +kernel
/-- `s` with a STREAM_LOAD of stream 5 in progress. -/
def loading (s : State) : State := { s with scmds := s.scmds ++ [⟨5, 1, false, false, none, true⟩] }

theorem witness_StreamCommands :
    base.cpReady ∧ base.commanded 5 = false ∧ base.entry? 5 = none ∧
    (∀ st ∈ [CacheSt.idle, .busy, .draining, .filling, .writeback], let s := stream5 st
      s.cpReady ∧ s.commanded 5 = false ∧ s.entry? 5 = some (0, { Entry.init with st := st, stream := 5, desc := desc5 }) ∧
      SMap.get? s.cache 0 = some { Entry.init with st := st, stream := 5, desc := desc5 } ∧ s.ownFind (.load 5) = none ∧
      s.pinned < min 8192 (s.fget F.trfCacheCfg_PIN_MAX)) ∧
    (∀ st ∈ [CacheSt.idle, .busy, .draining], ({ Entry.init with st := st } : Entry).resident = true) ∧
    (let s := State.having (stream5 .idle) [(F.trfCacheCfg_PIN_MAX, 0)]
     min 8192 (s.fget F.trfCacheCfg_PIN_MAX) ≤ s.pinned) ∧
    (let s := { base with scmds := [⟨5, 1, false, false, some 0, true⟩] }
     s.commanded 5 = true ∧ s.cpReady) := by unfold State.cpReady; decide +kernel

theorem witness_StreamLoaded :
    (∀ st ∈ [CacheSt.idle, .busy, .draining], let s := loading (stream5 st)
      s.entry? 5 = some (0, { Entry.init with st := st, stream := 5, desc := desc5 }) ∧
      SMap.get? s.cache 0 = some { Entry.init with st := st, stream := 5, desc := desc5 } ∧
      s.scmds.filter (fun c => c.stream == 5) = [⟨5, 1, false, false, none, true⟩]) ∧
    (owning (.load 5) 1 opRead ⟨.ok, true, desc5⟩ (loading (stream5 .idle))).has (.load 5) 1 (.data desc5 false) ∧
    (owning (.load 5) 1 opRead ⟨.poison, true, 0⟩ (loading (stream5 .idle))).has (.load 5) 1 (.data 0 true) ∧
    (owning (.load 5) 1 opRead ⟨.lost, true, 0⟩ (loading (stream5 .idle))).has (.load 5) 1 .lost ∧
    dValid 0 = false ∧ dValid desc5 = true ∧ dPolice desc5 ≠ 2 ∧
    (let s := stream5 .idle
     ¬ s.capInst < s.ledger - dCir desc5 + dCir desc5) ∧
    (let s := { one with cache := [(0, { Entry.init with st := .idle, stream := 5 })] }
     let w := dPut desc5 1 63 40 0xFFFFFF
     dValid w = true ∧ ({ Entry.init with st := .idle, stream := 5 } : Entry).committed < dCir w ∧ s.capInst < s.ledger - 0 + dCir w) := by
  refine ⟨?_, has_of ?_, has_of ?_, has_of ?_, ?_⟩ <;> decide +kernel

/-- Request 1, one atom read, at the head of stream 5 with both buckets below zero. -/
def redHead : State :=
  { one with
    cache := [(0, { Entry.init with
      st := .busy, stream := 5, colour := .red, queue := [1], desc := dPut (dPut desc5 4 39 0 (2 ^ 40 - 1)) 6 63 0 4096 })]
    reqs := [(1, base.newReq 0 0 0 0 0)]
    regs := [(A.glbCadStatus, BitVec.ofNat 64 (2 ^ F.glbCadStatus_LOCKED.lo))] }

theorem witness_StreamMoments :
    (redHead.entry? 5).map (·.1) = some 0 ∧ SMap.get? redHead.cache 0 = (redHead.entry? 5).map (·.2) ∧
    (redHead.entry? 5).map (fun e => (e.2.colour, e.2.queue)) = some (.red, [1]) ∧ redHead.req? 1 = some (base.newReq 0 0 0 0 0) ∧
    ((redHead.entry? 5).bind fun e => redHead.redDue e.2 (base.newReq 0 0 0 0 0)).isSome = true ∧ redHead.running = true ∧ (base.newReq 0 0 0 0 0).service? = none ∧
    (base.newReq 0 0 0 0 0).op ≠ opProbe ∧ (∀ e, (redHead.entry? 5) = some e → dPolice e.2.served ≠ 2) := by
  refine ⟨?_, ?_, ?_, ?_, ?_, ?_, ?_, ?_, fun e h => ?_⟩ <;> try decide +kernel
  cases h; decide +kernel

theorem witness_StreamMoments_sample :
    let e : Entry := { Entry.init with st := .idle, stream := 5, desc := dPut desc5 0 24 20 16 }
    let s := { stream5 .idle with cache := [(0, e)] }
    s.entry? 5 = some (0, e) ∧ SMap.get? s.cache 0 = some e ∧ e.resident = true ∧ dShift e.served = 16 ∧
    (atCt (2 ^ 20) s).reaches (nextMultiple 4096 16) ∧ e.sampled ≠ some (nextMultiple 4096 16) ∧
    (let r := { ownReq (.sample 5) opPartial 1 0 0 0 0 with res := [⟨.waiting, true, 0⟩] }
     (owning (.sample 5) 1 opPartial ⟨.waiting, true, 0⟩ s).req? 1 = some r ∧ r.src = .own (.sample 5) ∧ r.direct = .done) ∧
    ({ ownReq (.sample 5) opPartial 1 0 0 0 0 with res := [⟨.lost, true, 0⟩] } : Req).direct = .lost ∧
    ({ ownReq (.sample 5) opPartial 1 0 0 0 0 with res := [⟨.timeout, true, 0⟩] } : Req).direct = .timeout := by
  unfold State.reaches; decide +kernel

/-- An eligible head in port group 0, class 2; no other. -/
def greenHead : State :=
  { one with
    cache := [(0, { Entry.init with st := .busy, stream := 5, colour := .green, queue := [1], desc := desc5, head := desc5, hcls := 2 })]
    reqs := [(1, base.newReq 0 0 0 0 0)] }

theorem witness_PortGroupStarts :
    (gate3Pending 100).flag (F.trfGateStatus_PENDING 3) = true ∧ ((gate3Pending 100).arm 3).t ≤ (gate3Pending 100).cadence ∧
    greenHead.flag (F.trfGateStatus_PENDING 0) = false ∧ (having [(F.arbPgCapo_CAPO, 1)]).flag (F.trfGateStatus_PENDING 0) = false ∧
    ((having [(F.arbPgCapo_CAPO, 1)]).fget F.arbPgCapo_CAPO).testBit 0 = true ∧ (greenHead.fget F.arbPgCapo_CAPO).testBit 0 = false ∧
    (((greenHead.deferHeads 0).offered 0 2).map fun h => (greenHead.deferHeads 0).canStart 0 2 h) = some true ∧
    (∀ c < 8, c ≠ 2 → (greenHead.deferHeads 0).offered 0 c = none) ∧
    ∀ c < 8, (one.deferHeads 0).offered 0 c = none := by decide +kernel

/-- `one` with the piece `q` on its lane and `reqs` its request. -/
def onLane (q : Piece) : State := { one with lanes := [{ q with st := .lane }], reqs := [(1, base.newReq 0 0 0 0 0)], nextReq := 2 }

theorem witness_IngressGranted :
    let s := onLane piece0
    let q := { piece0 with st := PieceSt.lane }
    s.flag (F.trfGateStatus_PENDING (s.fget F.trfNmuBind_PGROUP)) = false ∧
    s.flag (F.trfGateStatus_PENDING (s.fget F.trfBowBind_PGROUP)) = false ∧ s.laneHeads 0 0 = [q] ∧ s.thermMasked 0 0 q = false ∧
    (∀ c < 8, s.quotaOver 0 c (s.quotaNow 0) = true → c ∈ (s.quotaNow 0).masked) ∧
    s.admits 0 0 q = true ∧ (s.access 0 q.addr (s.group q.mid) q.checks).isSome = true ∧
    (let w := { s with windows := [(0, ⟨true, 0, 2 ^ 30 - 1, BitVec.allOnes 256, BitVec.allOnes 256, 0, 0⟩)] }
     w.access 0 q.addr (w.group q.mid) q.checks = none ∧ w.admits 0 0 q = true) ∧ one.laneHeads 0 0 = [] ∧
    (let g := { State.having (gate3Pending 100) [(F.trfGateStatus_PENDING 3, 1), (F.trfNmuBind_PGROUP, 3)] with cadence := 100 }
     g.flag (F.trfGateStatus_PENDING (g.fget F.trfNmuBind_PGROUP)) = true ∧ (g.arm (g.fget F.trfNmuBind_PGROUP)).t ≤ g.cadence ∧
     g.flag (F.trfGateStatus_PENDING (g.fget F.trfBowBind_PGROUP)) = false) ∧
    (let g := { State.having (gate3Pending 100) [(F.trfGateStatus_PENDING 3, 1), (F.trfBowBind_PGROUP, 3)] with cadence := 100 }
     g.flag (F.trfGateStatus_PENDING (g.fget F.trfNmuBind_PGROUP)) = false ∧
     g.flag (F.trfGateStatus_PENDING (g.fget F.trfBowBind_PGROUP)) = true ∧ (g.arm (g.fget F.trfBowBind_PGROUP)).t ≤ g.cadence) := by
  decide +kernel

theorem witness_IngressMoments :
    (let s := State.having (onLane piece0) [(F.pcmapEntry_STATE 0 0, 3)]
     s.lostPiece 0 = some { piece0 with st := .lane } ∧ piece0.kind ≠ .probe) ∧
    (let s := State.having (onLane { piece0 with kind := .probe }) [(F.pcmapEntry_STATE 0 0, 3)]
     s.lostPiece 0 = some { piece0 with kind := .probe, st := .lane }) ∧ (∀ q ∈ one.lanes, q.stack = 0 → one.pieceRoute q ≠ .lost) ∧
    (having [(F.arbStkCfg_QWIN 0, 0)]).fget (F.arbStkCfg_QWIN 0) = 0 ∧
    (let s := atCt 150 (having [(F.arbStkCfg_QWIN 0, 100), (F.glbCadStatus_LOCKED, 1)])
     s.fget (F.arbStkCfg_QWIN 0) ≠ 0 ∧ (SMap.get s.quota Quota.init 0).window ≠ s.cadence / 100) ∧
    (let s := atCt 50 (having [(F.arbStkCfg_QWIN 0, 100), (F.glbCadStatus_LOCKED, 1)])
     (SMap.get s.quota Quota.init 0).window = s.cadence / 100 ∧ s.reaches ((s.cadence / 100 + 1) * 100)) ∧
    (let s := { one with sorting := [piece0] }
     (s.sortOf 0).find? (fun q => s.groupRuns 0 q && s.groupDue 0 q) = some piece0) ∧
    (let q := { piece0 with since := 4096 }
     let s := { State.having one [(F.trfSortCfg_GROUP_MAX, 2), (F.trfSortCfg_SORT_WAIT, 10), (F.glbCadStatus_LOCKED, 1)] with sorting := [q] }
     (s.sortOf 0).find? (fun q => s.groupRuns 0 q && s.groupDue 0 q) = none ∧ (s.sortOf 0).find? (fun q => s.groupRuns 0 q) = some q ∧
     s.reaches (q.since + s.fget F.trfSortCfg_SORT_WAIT)) ∧
    (let s := atCt (2 ^ 40) { (onLane piece0) with lanes := [{ piece0 with st := .lane, hold := true }] }
     firstHeld (s.timedPieces 0 0) = some { piece0 with st := .lane, hold := true } ∧
     s.reaches (0 + max 1 (s.fget F.thmCfg_HOLD_TO) * 1000)) := by
  unfold State.reaches; decide +kernel

/-- PCC 0 of stack 0 as `c`. -/
def pccIs (c : Pcc) (s : State) : State := { s with pccs := [(0, c)] }

/-- A PCC with the buffered pieces `l`. -/
def buffering (l : List Piece) : Pcc := { Pcc.init with buf := l }

/-- A bank that piece `i` owns, its row 0 open. -/
def owned (i : Nat) : Bank := { Bank.init with st := .owned, owner := some i, row := some 0 }

theorem witness_PccGrants :
    (let q := { piece0 with cls := 1 }
     let s := pccIs (buffering [q]) one
     let c := s.pcc 0 0
     s.pccCapo 0 0 = false ∧ c.replay = .run ∧ (c.bank 0).owner = none ∧ (c.bank 0).st ≠ .refreshing ∧ 0 < 16 * s.build.H ∧
     q.bankEligible 0 = true ∧ (c.bank 0).row = none ∧
     ((c.setBank 0 { Bank.init with row := some 0, st := .openIdle }).bank 0).row = some q.row) ∧
    (∀ q ∈ (one.pcc 0 0).buf, q.bankEligible 0 = false) ∧ (State.having one [(F.phyCfg_TRACK_EN 0, 0)]).flag (F.phyCfg_TRACK_EN 0) = false ∧
    (having [(F.arbStkPccCapo_MASK 0, 1)]).pccCapo 0 0 = true ∧ (({ Pcc.init with replay := .reissue } : Pcc)).replay ≠ .run ∧
    (let s := pccIs (Pcc.init.setBank 2 { Bank.init with owed := 15 }) one
     (s.pcc 0 0).rowCmd = none ∧ (s.pcc 0 0).replay = .run ∧ 2 < 16 * s.build.H ∧ ((s.pcc 0 0).bank 2).refHanded = false ∧
     s.ppl 0 ≤ ((s.pcc 0 0).bank 2).owed ∧ 0 < s.ppl 0 ∧ ∀ a < 2, ((s.pcc 0 0).bank a).owed = 0) ∧
    (let q := { piece0 with st := .opening, cls := 1 }
     let s := pccIs { buffering [q] with banks := [(0, { owned 64 with row := none })] } one
     (s.dropHints 0 0).refreshRow 0 0 = none ∧ s.pccCapo 0 0 = false ∧
     ((s.dropHints 0 0).bankRow 0 0 0).isSome = true ∧ ∀ a < 64, a ≠ 0 → (s.dropHints 0 0).bankRow 0 0 a = none) ∧
    (one.dropHints 0 0).refreshRow 0 0 = none ∧ (∀ a < 64, (one.dropHints 0 0).bankRow 0 0 a = none) ∧
    (let q := { piece0 with st := .column }
     let w := { piece0 with id := 128, bank := 1, cls := 7, st := .column }
     let s := pccIs { buffering [q, w] with column := some 64, banks := [(1, owned 128)] } one
     let c := s.pcc 0 0
     c.column.bind c.piece? = some q ∧ c.modeEligible.find? (fun o => o.bank == 1) = some w ∧ w.bank ≠ q.bank ∧ q.todo ≠ [] ∧
     c.parked < s.parkMax 0 ∧ q.cls ≠ 7 ∧ w.cls = 7 ∧ s.pccCapo 0 0 = false ∧ c.replay = .run ∧
     ∀ o ∈ c.modeEligible, o.bank ≠ 0) ∧
    (let q := { piece0 with st := .column }
     let w := { piece0 with id := 128, bank := 1, st := .column }
     let s := pccIs { buffering [q, w] with column := some 64, banks := [(1, owned 128)] } one
     let c := s.pcc 0 0
     c.modeEligible.find? (fun o => o.bank == 1) = some w ∧ w.cls ≠ 7 ∧
     s.keyOf w < s.keyOf q + max 1 (s.fget (F.arbStkCfg_DELTA 0))) ∧
    (let q := { piece0 with st := .column }
     let s := pccIs { buffering [q] with banks := [(0, owned 64)] } one
     let c := s.pcc 0 0
     c.column = none ∧ c.replay = .run ∧ s.pccCapo 0 0 = false ∧ c.modeEligible = [q]) ∧ (one.pcc 0 0).modeEligible = [] := by
  decide +kernel

/-- An ACTIVATE of bank 0 for piece 64, handed over at slot 100 and not issued. -/
def cmd0 : Cmd :=
  { kind := .act, bank := 0, row := 0, piece := 64, atom := 0, u := 0, inMeta := false, addr := 0, fold := 0, stored := 0, lane := 0
    hand := 100, ap := false, seen := false, ord := 0, confirmed := false, cls := 0, label := 0, arrival := 0, aged := true }

/-- PCC 0 with its row command granted: bank 0's ACTIVATE for piece 64. -/
def rowGranted (x : Bank) : State :=
  pccIs { buffering [{ piece0 with st := .opening }] with rowCmd := some ⟨.act, 0, 0, false, false, false⟩
                                                          banks := [(0, { owned 64 with row := x.row, owed := x.owed })] } one

theorem witness_CommandsHandedAndIssued :
    (let s := rowGranted Bank.init
     (s.pcc 0 0).rowCmd = some ⟨.act, 0, 0, false, false, false⟩ ∧ (s.pcc 0 0).replay = .run ∧ (s.pcc 0 0).rb.length < 32 ∧
     s.rowNow 0 0 ⟨.act, 0, 0, false, false, false⟩ = some ⟨.act, 0, 0, false, false, false⟩ ∧ ((s.pcc 0 0).bank 0).owed < s.ppl 0) ∧
    (rowGranted { Bank.init with row := some 5 }).rowNow 0 0 ⟨.act, 0, 0, false, false, false⟩ = none ∧
    (let s := rowGranted { Bank.init with owed := 15 }
     s.rowNow 0 0 ⟨.act, 0, 0, false, false, false⟩ = some ⟨.act, 0, 0, false, false, false⟩ ∧ s.ppl 0 ≤ ((s.pcc 0 0).bank 0).owed ∧
     ((s.pcc 0 0).bank 0).refHanded = false) ∧
    32 ≤ (List.replicate 32 cmd0).length ∧
    (let s := pccIs { Pcc.init with hints := [(0, 7)], rowCmd := some ⟨.act, 0, 7, false, true, false⟩ } one
     s.rowNow 0 0 ⟨.act, 0, 7, false, true, false⟩ = some ⟨.act, 0, 7, false, true, false⟩) := by
  decide +kernel

theorem witness_CommandsHandedAndIssued_column :
    (∀ kind ∈ [PKind.read, .write], let q := { piece0 with kind := kind, st := .column, todo := [0, 1] }
     let s := pccIs { buffering [q] with column := some 64, banks := [(0, owned 64)] } one
     let c := s.pcc 0 0
     c.column.bind c.piece? = some q ∧ c.replay = .run ∧ (c.bank 0).owed < s.ppl 0 ∧ c.rb.length < 32 ∧
     q.nextReads = (kind == .read) ∧ q.inMeta = false ∧ q.dest = none ∧ q.org ≠ .bow) ∧
    (let s := pccIs { buffering [{ piece0 with st := .column }] with column := some 64, banks := [(0, { owned 64 with owed := 15 })] } one
     let c := s.pcc 0 0
     s.ppl 0 ≤ (c.bank 0).owed ∧ (c.bank 0).refHanded = false ∧ (c.bank 0).declined = false) := by
  decide +kernel

theorem witness_CommandsHandedAndIssued_warden :
    (let s := pccIs { Pcc.init with rb := [cmd0] } one
     (s.pcc 0 0).nextIssue = some cmd0 ∧ s.issueSlot 0 0 cmd0.kind cmd0.bank cmd0.hand cmd0.ap = 100) ∧
    (∀ m ∈ (one.pcc 0 0).rb, m.ord ≠ 0) ∧
    ({ cmd0 with ord := 1 } : Cmd).ord ≠ 0 ∧ cmd0.confirmed = false ∧ cmd0.kind ≠ .rd ∧
    (let m := { cmd0 with kind := .rd, ord := 1, stored := encodeAtom (dataFold 0) 0 false, fold := dataFold 0 }
     let q := { piece0 with st := .drain, todo := [], pend := [0] }
     let c := (pccIs { buffering [q] with rb := [m] } one).pcc 0 0
     c.rb = [m] ∧ c.replay = .run ∧ m.ord ≠ 0 ∧ m.confirmed = false ∧ m.kind = .rd ∧ (c.confirm m).piece? m.piece = some q ∧
     q.kind = .read ∧ q.conf = false ∧ q.pend.contains m.atom = true ∧ m.inMeta = false ∧ m.lane < 18) := by
  decide +kernel

/-- A merge entry of atom 0 that waits for its old atom. -/
def merge0 : Merge :=
  { id := 64, req := 1, atom := 0, u := 0, addr := 0, lpc := 0, lane := 0, org := .port 0, cls := 0, label := 0, arrival := 0, aged := true
    be := 1, new := 0, st := .reading, old := none, data := 0, poison := false }

theorem witness_PccMoments :
    (let s := pccIs (buffering [{ piece0 with st := .held }]) one
     s.released 0 0 = some { piece0 with st := .held }) ∧ (∀ q ∈ (one.pcc 0 0).buf, q.st = .held → q.hold = true) ∧
    (let s := atCt (2 ^ 30) (pccIs (Pcc.init.setBank 3 { Bank.init with st := .openIdle }) one)
     let x := (s.pcc 0 0).bank 3
     x.st = .openIdle ∧ x.hint ≠ 1 ∧ s.reaches (x.idleAt + s.fget (F.pccPageCfg_IDLE_TO 0 0))) ∧
    (let s := pccIs (Pcc.init.setBank 3 { Bank.init with st := .openIdle, hint := 1 }) (State.having one [(F.pccPageCfg_KEEP_TO 0 0, 0)])
     ((s.pcc 0 0).bank 3).hint = 1 ∧ s.fget (F.pccPageCfg_KEEP_TO 0 0) = 0) ∧ ((one.pcc 0 0).bank 3).st ≠ .openIdle ∧
    (let s := atCt (2 ^ 30) (pccIs (buffering [{ piece0 with kind := .write, st := .column }]) one)
     (s.pcc 0 0).burstWrites.head? = some { piece0 with kind := .write, st := .column } ∧ s.fget (F.pccRqCfg_WR_AGE 0 0) ≠ 0 ∧
     s.reaches (0 + s.fget (F.pccRqCfg_WR_AGE 0 0))) ∧ (one.pcc 0 0).burstWrites = [] ∧
    one.coreOn = true ∧ 0 < one.build.nStacks ∧ 63 < 16 * base.build.H ∧ ((one.pcc 0 0).bank 0).due = none ∧
    (∀ i < 16 * one.build.H, one.bankDue 0 0 0 ≤ one.bankDue 0 0 i) ∧ one.bankDue 0 0 0 < one.bankDue 0 0 1 ∧
    one.build.inRange 0 1 = true ∧
    one.build.inRange (2 ^ 42 - 1) 1 = false ∧ one.fget (F.pcmapEntry_STATE 0 0) = 0 ∧ (one.pcc 0 0).hints.length < 8 ∧
    one.hintOk 0 0 0 = true ∧ (State.having one [(F.pcmapEntry_STATE 0 0, 3)]).fget (F.pcmapEntry_STATE 0 0) ≠ 0 ∧
    ((pccIs { Pcc.init with merges := [{ merge0 with old := some (0, false) }] } one).pcc 0 0).mergeReady =
      some { merge0 with old := some (0, false) } ∧
    (∀ m ∈ ((pccIs { Pcc.init with merges := [merge0] } one).pcc 0 0).merges, m.st ≠ .reading ∨ m.old = none) ∧ one.cpReady := by
  unfold State.reaches State.cpReady; decide +kernel

/-- Map line 16 in state `st`, its word read as `w`. -/
def line16 (st : ZLineSt) (w : Option Stored) : ZLine :=
  { line := 16, st := st, bits := 0, upds := [], used := 0, cause := 0, cls := 0, label := 0, arrival := 0, aged := true, word := w
    bad := false }

theorem witness_ZeroMap :
    let on := State.having one [(F.pccZmapCtl_STATE 0 0, 1)]
    one.cpReady ∧ 0 < one.build.nStacks ∧ one.fget (F.pccZmapCtl_STATE 0 0) = 0 ∧ one.flag (F.pccZmapCtl_WRITTEN 0 0) = false ∧
    on.fget (F.pccZmapCtl_STATE 0 0) = 1 ∧
    (State.having one [(F.pccZmapCtl_STATE 0 0, 2)]).fget (F.pccZmapCtl_STATE 0 0) = 2 ∧
    (State.having one [(F.pccZmapCtl_STATE 0 0, 3)]).fget (F.pccZmapCtl_STATE 0 0) = 3 ∧
    one.flag (F.thmStk_WINDOW_CLOSED 0) = false ∧ one.pccCapo 0 0 = false ∧ one.migClearing 0 0 = none ∧
    (∀ q ∈ (one.pcc 0 0).buf, q.kind ≠ .fill ∧ q.kind ≠ .lineWrite) ∧ (∀ z ∈ (one.pcc 0 0).lines, z.st ≠ .filling) ∧
    (let m : Mig := ⟨.clearing, 5, 5, 0, 0, none, false⟩
     ({ one with migs := [(0, some m)] } : State).migClearing 0 0 = some m) ∧
    (State.having one [(F.thmStk_WINDOW_CLOSED 0, 1)]).flag (F.thmStk_WINDOW_CLOSED 0) = true ∧
    (∀ st ∈ [ZLineSt.dirty, .writeback, .clean, .filling], let s := pccIs { Pcc.init with lines := [line16 st none] } one
      (s.pcc 0 0).line 16 = some (line16 st none) ∧ (∀ q ∈ (s.pcc 0 0).buf, q.zpend = [] ∧ q.conf = false) ∧
      (∀ q ∈ (s.pcc 0 0).buf, ¬ (q.kind = .lineWrite ∧ q.u = 16)) ∧ (s.pcc 0 0).dirtyLines < 14) ∧
    (let q := { Piece.own 0 0 .lineWrite with u := 16 }
     ∃ o ∈ ((pccIs (buffering [q]) one).pcc 0 0).buf, o.kind = .lineWrite ∧ o.u = 16) ∧
    (let f := metaFold 0 ((one.lpcOf 0 0).getD 0) 16
     (decodeAtom f (encodeAtom f 0 false)).out ≠ .uncorrectable ∧ (decodeAtom f (encodeAtom f 0 false ^^^ 0xFFFF0000FFFFFFFFFFFFFFFF)).out =
       .uncorrectable) := by unfold State.cpReady; decide +kernel

/-- Set 1 of stack 0 valid. -/
def set1 : State := State.having one [(F.phyTsetCtl_VALID 0 1, 1)]

theorem witness_TimingChanged :
    set1.cpReady ∧ 0 < set1.build.nStacks ∧
    (let u := set1.cpOk.started
     ¬ (u.flag (F.phyTsetCtl_VALID 0 1) = false ∨ u.fget (F.phyFreqStatus_ACTIVE 0) = 1 ∨ u.flag (F.phyFreqStatus_BUSY 0) = true ∨
        u.flag (F.phyFreqStatus_CHAIN 0) = true ∨ u.power = .entering ∨ u.power = .restored ∨ u.power = .checking ∨
        (u.flag F.glbAccLock_LOCK = true ∧ u.setBin 0 (u.fget (F.phyFreqStatus_ACTIVE 0)) < u.setBin 0 1))) ∧
    (State.having one []).cpOk.started.flag (F.phyTsetCtl_VALID 0 2) = false ∧
    (let s := { set1 with outputs := (List.range 64).map fun p => (p, { Output.init with st := .drained }) }
     (∀ p < 64, (s.cpOk.started.out 0 p).st = .drained) ∧ (s.cpOk.started.out 0 0).hwPcc = []) ∧
    one.flag (F.phyTsetCtl_VALID 0 1) = false ∧ set1.fget (F.phyFreqStatus_ACTIVE 0) = 0 ∧ set1.fget (F.phyFreqStatus_ACTIVE 0) ≠ 1 := by
  unfold State.cpReady; decide +kernel

/-- The command of an atom's burst write at bank 0. -/
def wr0 : Cmd := { cmd0 with kind := .wr }

/-- PCC 0 of stack 0 in the replay state `r` at attempt `n` with one command, REPLAY_LIMIT 2. -/
def replaying (r : ReplaySt) (n : Nat) (full : Bool) : State :=
  pccIs { Pcc.init with rb := [wr0], replay := r, attempts := n, fullOnce := full } (State.having one [(F.phyCfg_REPLAY_LIMIT 0, 2)])

theorem witness_ReplayRuns :
    (one.pcc 0 0).rb = [] ∧ ((replaying .run 0 false).pcc 0 0).rb ≠ [] ∧ ((replaying .lostLanes 1 false).pcc 0 0).replay = .lostLanes ∧
    ((replaying .run 0 false).pcc 0 0).replay = .run ∧ ((replaying .reissue 1 false).pcc 0 0).replay = .reissue ∧
    ((replaying .reissue 1 false).pcc 0 0).attempts < max 1 ((replaying .reissue 1 false).fget (F.phyCfg_REPLAY_LIMIT 0)) ∧
    max 1 ((replaying .reissue 2 true).fget (F.phyCfg_REPLAY_LIMIT 0)) ≤ ((replaying .reissue 2 true).pcc 0 0).attempts ∧
    (replaying .reissue 2 false).flag (F.pccHistory_SALVAGE 0 0) = false ∧ ((replaying .reissue 2 true).pcc 0 0).fullOnce = true ∧
    ((replaying .reissue 2 false).pcc 0 0).fullOnce = false ∧
    (State.having one [(F.pccHistory_SALVAGE 0 0, 1)]).flag (F.pccHistory_SALVAGE 0 0) = true ∧
    ((replaying .reissue 2 false).pcc 0 0).oldestColumn = some wr0 ∧
    ({ Pcc.init with rb := [cmd0] } : Pcc).oldestColumn = none ∧
    (let q := { piece0 with st := .column }
     let s := pccIs { buffering [q] with column := some 64 } one
     (s.pcc 0 0).column.bind (s.pcc 0 0).piece? = some q ∧ q.todo ≠ [] ∧ (s.pcc 0 0).parked < s.parkMax 0) ∧
    (∀ q ∈ [0, 1], (one.pcc 0 q).replay = .run ∧ (one.pcc 0 q).column = none) := by decide +kernel

theorem witness_ReplayRuns_steps :
    (let c := { Pcc.init with replay := .reopen, ropen := [(0, 0)], rb := [wr0] }
     let s := pccIs c one
     (∀ b < 16 * s.build.H, ((s.pcc 0 0).bank b).owed < s.ppl 0) ∧ (s.pcc 0 0).ropen = [(0, 0)] ∧
     (s.pcc 0 0).rb.any (fun m => m.bank == 0) = true ∧ s.issueSlot 0 0 .pre 0 0 false = 0) ∧
    (let s := replaying .reissue 1 false
     (s.pcc 0 0).rb = [wr0] ∧ wr0.ord = 0 ∧ (s.pcc 0 0).ropen.contains (0, 0) = false ∧ s.issueSlot 0 0 .act 0 0 false = 0) ∧
    (let s := pccIs { Pcc.init with rb := [wr0], replay := .reissue, ropen := [(0, 0)] } one
     (s.pcc 0 0).ropen.contains (wr0.bank, wr0.row) = true ∧ wr0.ap = false ∧ s.issueSlot 0 0 .wr 0 0 false = 0) ∧
    (({ Pcc.init with replay := .reissue } : Pcc).rb = []) ∧ (⟨[], []⟩ : TrainEnv).fails = [] := by decide +kernel

/-- Entry 0 of the Fret table of PCC 0 installed for atom 9. -/
def fret9 : State := State.having one [(F.pccFretEnt_VALID 0 0 0, 1), (F.pccFretEnt_ATOM 0 0 0, 9)]

theorem witness_FretEntries :
    let job : FretJob := ⟨64, 9, 0, true, false, .written, false⟩
    let due := { Pcc.init with fretQ := [job] }
    one.cpReady ∧ 0 < one.build.nStacks ∧ (∃ f ∈ due.fretQ, f.byCmd = true) ∧ ((one.pcc 0 0).fretQ = []) ∧ one.lpcOf 0 0 ≠ none ∧
    9 < one.build.dataAtoms ∧ one.build.dataAtoms ≤ 2 ^ 25 - 1 ∧ one.fretOf 0 0 9 = none ∧ fret9.fretOf 0 0 9 = some 0 ∧
    fret9.lpcOf 0 0 ≠ none ∧ one.mig 0 = none ∧
    (one.flag (F.pccFretEnt_VALID 0 0 0) = false ∧ ∀ f ∈ (one.pcc 0 0).fretQ, f.remove = true ∨ f.entry ≠ 0) ∧
    (∀ i < 16, (State.having one ((List.range 16).map fun i => (F.pccFretEnt_VALID 0 0 i, 1))).flag (F.pccFretEnt_VALID 0 0 i) = true) ∧
    ((one.pcc 0 0).fretQ.find? fun f => f.st == .written && !f.remove) = none ∧
    (((pccIs due one).pcc 0 0).fretQ.find? fun f => f.st == .written && !f.remove) = some job ∧
    (pccIs due one).fretOf 0 0 job.u = none ∧ job.entry < 16 ∧ job.u < 2 ^ 25 := by
  unfold State.cpReady; decide +kernel

/-- A migration of logical PC 3 from PC 3 to PC 62, its chunk at atom 32 being copied. -/
def mig3 : Mig := ⟨.copying, 3, 3, 62, 0, some 32, false⟩

/-- Stack 0's map names PC l for logical PC l up to 3; PC 62 is spare. -/
def mapped : List (Fld × Nat) := (List.range 4).map fun l => (F.pcmapEntry_PPC 0 l, l)

/-- Access `o` of the 16 atoms of a chunk, each come to `x`, as request 1 of `s`. -/
def chunkIs (o : Own) (op : Nat) (x : AtomRes) (s : State) : State :=
  { s with reqs := [(1, { ownReq o op 16 0 0 0 0 with res := List.replicate 16 x })] }

theorem witness_RetirementRuns :
    let s := State.having one mapped
    let p := State.having one ((F.migPending_MASK 0, 8) :: (F.pcmapSpare_MASK 0, 2 ^ 62) :: mapped)
    let u := s.cpOk.started
    s.cpReady ∧ ¬ (u.build.N ≤ 3 ∨ u.fget (F.pcmapEntry_STATE 0 3) ≠ 0 ∨ (u.fget (F.migPending_MASK 0)).testBit 3 = true ∨
      (u.flag (F.migStatus_ACTIVE 0) = true ∧ u.fget (F.migStatus_LPC 0) = 3)) ∧ u.lpcOf 0 (u.fget (F.pcmapEntry_PPC 0 3)) = some 3 ∧
    u.build.N ≤ 62 ∧ s.fget (F.migPending_MASK 0) = 0 ∧ p.retireNext 0 = some 3 ∧ p.fget (F.pcmapEntry_STATE 0 3) = 0 ∧
    (p.fget (F.pcmapSpare_MASK 0)).testBit 62 = true ∧ (∀ j < 62, (p.fget (F.pcmapSpare_MASK 0)).testBit j = false) ∧
    (∀ t < 64, (s.fget (F.pcmapSpare_MASK 0)).testBit t = false) ∧
    (State.having one [(F.pcmapEntry_STATE 0 3, 3)]).fget (F.pcmapEntry_STATE 0 3) = 3 ∧
    SMap.get ({ s with migReasons := [(3, 3)] } : State).migReasons 0 3 = 3 ∧ SMap.get s.migReasons 0 3 ≠ 3 := by
  unfold State.cpReady; decide +kernel

theorem witness_RetirementRuns_chunk :
    let m := { one with migs := [(0, some mig3)] }
    m.power ≠ .entering ∧ m.mig 0 = some mig3 ∧ mig3.chunk = some 32 ∧ mig3.oldLost = false ∧ 32 + 16 < m.build.dataAtoms ∧
    (chunkIs (.copyWrite 0) opPartial ⟨.waiting, true, 0⟩ m).has (.copyWrite 0) 1 .done ∧
    (chunkIs (.copyWrite 0) opPartial ⟨.waiting, false, 0⟩ m).has (.copyWrite 0) 1 .blocked ∧
    m.ownFind (.copyWrite 0) = none ∧ m.ownFind (.copyRead 0) = none ∧
    ((chunkIs (.copyRead 0) opRead ⟨.waiting, false, 0⟩ m).ownFind (.copyRead 0)).isSome = true ∧
    ((chunkIs (.copyRead 0) opRead ⟨.ok, true, 7⟩ m).ownFind (.copyRead 0)).isSome = true ∧
    ({ one with migs := [(0, some { mig3 with oldLost := true })] } : State).mig 0 = some { mig3 with oldLost := true } ∧
    (∀ i < 16, ((List.replicate 16 ((5 : Atom), false)).getD i (0, false)).2 = false) := by
  refine ⟨?_, ?_, ?_, ?_, ?_, has_of ?_, has_of ?_, ?_⟩ <;> decide +kernel

/-- Stack 0's Bow engine in the canary operation `c`, every PC covered. -/
def canarying (c : CanarySt) (s : State) : State := { s with bows := [(0, { Bow.init with canary := c, covered := 2 ^ 64 - 1 })] }

theorem witness_BowDuties :
    (let u := drained7.cpOk.started
     drained7.cpReady ∧ 7 < drained7.build.nStacks ∧ u.flag (F.bowStatus_SANITISE 7) = false ∧ (∀ p < 64, (u.out 7 p).st = .drained) ∧
     u.flag (F.migStatus_ACTIVE 7) = false ∧ u.flag (F.pcmapEdit_EDIT 7) = false ∧ u.canaryRuns 7 = false) ∧
    (let s := canarying (.checking 0) base
     s.cpReady ∧ s.cpOk.started.canaryRuns 0 = true) ∧
    (having [(F.bowStatus_SANITISE 7, 1)]).flag (F.bowStatus_SANITISE 7) = true ∧
    one.build.nStacks ≤ 7 ∧ one.power = .active ∧ one.canaryChunk 0 = none ∧ one.sanChunk 0 = none ∧ one.copyStart 0 = none ∧
    (∀ j < 4, one.scanStart 0 j = none) ∧ one.scrubStart 0 = none ∧
    ((canarying (.writing 0) one).canaryChunk 0).isSome = true ∧
    (let s := State.having one [(F.bowStatus_SANITISE 0, 1)]
     s.bowOut 0 (fun q => q.kind == .sanWrite) < 4 ∧ (s.sanNext 0).isSome = true ∧ (s.sanChunk 0).isSome = true) ∧
    (let s := { one with migs := [(0, some { mig3 with chunk := none })] }
     (s.copyStart 0).isSome = true) ∧
    (let s := { one with chks := [(2, { Chk.init with st := .scanning 0, pos := 0, started := 0 })] }
     let s := State.having s [(F.chkScanLen_LEN 2, 128)]
     (s.scanStart 0 2).isSome = true ∧ ∀ j < 2, s.scanStart 0 j = none) ∧
    ((State.having one ((F.bowStatus_SCRUB 0, 1) :: (List.range 62).map fun l => (F.pcmapEntry_STATE 0 l, 3))).scrubStart 0).isSome = true := by
  unfold State.cpReady; decide +kernel

theorem witness_BowDuties_ends :
    ({ one with power := .quiet } : State).power ≠ .active ∧ ({ one with power := .quiet } : State).coreOn = true ∧
    ((canarying (.writing 0) { one with power := .quiet }).canaryChunk 0).isSome = true ∧
    (let d : Pace := ⟨0, 1000⟩
     let due := d.t0 + ceilDiv (d.bytes * 1000) 10
     0 < 10 ∧ due - 1 < due ∧ due + 102400 - due ≤ 1024 * 1000 / 10 ∧ 1024 * 1000 / 10 < due + 102401 - due) ∧
    (canarying (.writing 0) one).canaryNext 0 0 = some 0 ∧
    (let s := { State.having one [(F.bowStatus_SANITISE 0, 1), (F.glbResetStatus_SANITISING, 1)] with
       bows := [(0, { Bow.init with san := 2 ^ 40 })] }
     let u := (s.fset (F.bowStatus_SANITISE 0) 0).post 0x030C (unitPc 0 0) 0 (s.fget (F.bowSanFail_MASK 0) ||| s.lostMask 0)
     s.flag (F.bowStatus_SANITISE 0) = true ∧ s.sanNext 0 = none ∧ s.bowOut 0 (fun q => q.kind == .sanWrite) = 0 ∧
     u.flag F.glbResetStatus_SANITISING = true ∧ (∀ j < u.build.nStacks, u.flag (F.bowStatus_SANITISE j) = false)) := by
  decide +kernel

theorem retainNext_none {s : State} {k i : Nat} (h : ∀ p < 64, s.fget (F.bowCanaryMask_BANKS k p) = 0) : s.retainNext k i = none := by
  rw [State.retainNext, List.find?_eq_none]
  intro n _
  simp [State.maskBit, h (n % 64) (Nat.mod_lt _ (by decide))]

theorem witness_BowDuties_check :
    (let s := canarying (.checking 4096) (State.having one ((List.range 64).map fun p => (F.bowCanaryMask_BANKS 0 p, 0)))
     s.power ≠ .checking ∧ (s.bow 0).canary = .checking 4096 ∧ s.bowOut 0 Piece.ofCanary = 0 ∧ s.canaryNext 0 4096 = none ∧
     s.retainNext 0 0 = none) ∧
    (let s := State.having (canarying (.checking 4096) one) ((F.bowCanaryMask_BANKS 0 0, 1) :: mapped)
     s.bowOut 0 Piece.ofCanary = 0 ∧ (s.retainNext 0 0).isSome = true) := by
  refine ⟨⟨?_, ?_, ?_, ?_, retainNext_none ?_⟩, ?_⟩ <;> decide +kernel

/-- Check unit 3 in state `st`, its scan at address 0. -/
def unit3 (st : ChkSt) : State := { one with chks := [(3, { Chk.init with st := st, width := 32, started := 64 })] }

/-- The scan of unit 3, over 64 bytes. -/
def scan3 : State := State.having (unit3 (.scanning 0)) [(F.chkScanLen_LEN 3, 64)]

theorem witness_CheckUnits :
    one.cpReady ∧ (one.chk 3).st = .idle ∧ ((unit3 .heldCp).chk 3).st = .heldCp ∧ ((unit3 (.heldSeq 5)).chk 3).st = .heldSeq 5 ∧
    ((unit3 (.scanning 0)).chk 3).st = .scanning 0 ∧ one.scanValid 3 0 = false ∧
    (State.having one [(F.chkScanLen_LEN 3, 64)]).scanValid 3 0 = true ∧
    (scan3.chk 3).pos < scan3.fget (F.chkScanStart_ADDR 3) + scan3.fget (F.chkScanLen_LEN 3) ∧ scan3.scanRead 3 0 = none ∧
    (∀ x ∈ [AtomRes.mk .ok true 5, ⟨.waiting, false, 0⟩, ⟨.poison, true, 0⟩, ⟨.lost, true, 0⟩],
      (owning (.scan 3 0) 1 opRead x scan3).scanRead 3 0 = some (1, { ownReq (.scan 3 0) opRead 1 0 0 0 0 with res := [x] })) ∧
    (let s := State.having (unit3 (.scanning 0)) [(F.chkScanCmp_VALID 3, 1)]
     s.fget (F.chkScanStart_ADDR 3) + s.fget (F.chkScanLen_LEN 3) ≤ (s.chk 3).pos ∧ s.flag (F.chkScanCmp_VALID 3) = true ∧
     s.ownFind (.stored 3) = none) ∧
    (owning (.stored 3) 1 opRead ⟨.waiting, false, 0⟩ one).has (.stored 3) 1 .blocked ∧
    (owning (.stored 3) 1 opRead ⟨.ok, true, 5⟩ one).has (.stored 3) 1 (.data 5 false) ∧
    (owning (.stored 3) 1 opRead ⟨.poison, true, 0⟩ one).has (.stored 3) 1 (.data 0 true) ∧
    (owning (.stored 3) 1 opRead ⟨.lost, true, 0⟩ one).has (.stored 3) 1 .lost ∧
    ((unit3 (.scanning 0)).flag (F.chkScanCmp_VALID 3) = false) ∧ (∀ st ∈ [ChkSt.idle, .heldCp], st ≠ .scanning 0) := by
  unfold State.cpReady
  refine ⟨?_, ?_, ?_, ?_, ?_, ?_, ?_, ?_, ?_, ?_, ?_, has_of ?_, has_of ?_, has_of ?_, has_of ?_, ?_⟩ <;> decide +kernel
/-- Words 0 to 2 of a slot: ISA 1, code at 4096, stream 5, DONE at 64. -/
def slotWords : Atom := dPut (dPut (dPut (dPut 0 0 63 60 1) 0 41 0 4096) 1 63 44 5) 2 41 0 64

/-- The sequencer enabled, stream 5 cached with `w`. -/
def ringing (w : Atom) : State :=
  State.having { one with cache := [(0, { Entry.init with st := .idle, stream := 5, desc := w })] } [(F.seqCfg_EN, 1), (F.glbResetStatus_READY, 1)]

/-- Slot 0 in state `st` on context 0. -/
def slotIs (st : SlotSt) : Slot := { Slot.init with st := st, ctx := some 0, stream := 5, pg := 0, code := 4096 }

/-- Context 0 of slot 0 at address 0, stream 5; A_i = 65536 i, C_i = 4096. -/
def ctx0 : Ctx := { blankCtx 0 with stream := 5, a := (List.range 16).map (65536 * ·), c := List.replicate 8 4096 }

/-- Slot 0 in state `st` on context 0. -/
def loaded (st : SlotSt) : State := { one with slots := [(0, slotIs st)], ctxs := [(0, some ctx0)] }

theorem witness_SlotsServed :
    let s := ringing desc5
    let u := s.cpOk.started
    one.cpReady ∧ one.flag F.glbResetStatus_READY = false ∧ s.cpReady ∧ s.flag F.glbResetStatus_READY = true ∧
    u.build.inRange (u.slotAddr 0 0) 512 = true ∧ u.ownFind (.bell 0) = none ∧
    (State.having one [(F.seqSlotBase_BASE, 2 ^ 30 - 1)]).build.inRange ((State.having one [(F.seqSlotBase_BASE, 2 ^ 30 - 1)]).slotAddr 0 0) 512 = false ∧
    (owning (.bell 0) 1 opRead ⟨.waiting, false, 0⟩ s).cpOk.started.has (.bell 0) 1 .blocked ∧
    (owning (.bell 0) 1 opRead ⟨.poison, true, 0⟩ s).cpOk.started.has (.bell 0) 1 (.data 0 true) ∧
    (owning (.bell 0) 1 opRead ⟨.lost, true, 0⟩ s).cpOk.started.has (.bell 0) 1 .lost ∧
    (owning (.bell 0) 1 opRead ⟨.ok, true, slotWords⟩ s).cpOk.started.has (.bell 0) 1 (.data slotWords false) ∧
    dField slotWords 1 63 44 = 5 ∧ (match (u.descNow none 5).2 with | .words d => d == desc5 | _ => false) = true ∧
    (match (one.descNow none 5).2 with | .wait => true | _ => false) = true ∧
    (let r := { ownReq (.look none) opRead 0 0 0 0 0 with refused := some 3 }
     match (({ u with reqs := [(1, r)] } : State).descNow none 5).2 with | .bad => true | _ => false) = true := by
  unfold State.cpReady
  refine ⟨?_, ?_, ?_, ?_, ?_, ?_, ?_, has_of ?_, has_of ?_, has_of ?_, has_of ?_, ?_⟩ <;> decide +kernel

theorem witness_SlotsServed_checks :
    let y := ringing desc5
    (State.having one [(F.seqCfg_EN, 0)]).flag F.seqCfg_EN = false ∧ y.flag F.seqCfg_EN = true ∧ (y.slot 0).st = .free ∧
    ((loaded .running).slot 0).st ≠ .free ∧
    ¬ (dField slotWords 0 63 60 = 0 ∨ 3 < dField slotWords 0 63 60) ∧
    (let code := dField slotWords 0 41 0
     ¬ (code % 16 ≠ 0 ∨ y.build.inRange code 16 = false ∨ dField slotWords 0 59 42 ≠ 0)) ∧
    (let fin := dField slotWords 2 41 0
     ¬ (fin % 64 ≠ 0 ∨ y.build.inRange fin 64 = false)) ∧
    3 < dField (dPut slotWords 0 63 60 4) 0 63 60 ∧ dField (dPut slotWords 0 41 0 8) 0 41 0 % 16 ≠ 0 ∧
    dField (dPut slotWords 2 41 0 32) 2 41 0 % 64 ≠ 0 ∧ (dValid desc5 && dGroupOk desc5 (y.group 0)) = true ∧
    (dValid 0 && dGroupOk 0 (y.group 0)) = false := by decide +kernel

/-- Slot 0 to be loaded on context 0, atoms 1 to 3 of it read as `x`. -/
def loadRead (x : AtomRes) (s : State) : State :=
  [1, 2, 3].foldl (fun (s : State) i => owning (.prog 0 i) i opRead x s)
    { s with slots := [(0, { Slot.init with st := .loading, ctx := some 0 })], ctxs := [(0, some (blankCtx 0))] }

theorem witness_SlotsServed_load :
    (let s := { one with slots := [(0, { Slot.init with st := .queued })], launchQ := [0] }
     s.loadReady = none ∧ s.launchQ = [0] ∧ s.freeCtx = some 0) ∧ one.loadReady = none ∧ one.launchQ = [] ∧
    (let s := loadRead ⟨.ok, true, 0⟩ one
     s.loadReady = some (0, 0) ∧ (∀ i ∈ [1, 2, 3], s.progAt 0 i = some (.data 0 false)) ∧ (s.slot 0).abort = false ∧
     (s.slot 0).tokWait = false ∧ (s.slot 0).saved = false) ∧
    (let s := loadRead ⟨.lost, true, 0⟩ one
     s.loadReady = some (0, 0) ∧ s.progAt 0 1 = some .lost) ∧
    (loadRead ⟨.waiting, false, 0⟩ one).loadReady = none := by decide +kernel

theorem witness_SlotsServed_swap :
    (loaded .running).ctx? 0 = some ctx0 ∧ (loaded .running).swapAt ctx0 ((loaded .running).slot 0) = none ∧
    (let s := State.having { loaded .running with launchQ := [1] } [(F.seqCfg_QUANTUM, 1)]
     s.swapAt ctx0 (s.slot 0) = some 1024 ∧ s.reaches 1024) ∧
    ((loaded .running).slot 0).st ≠ .saving ∧ (∀ i < 5, (loaded .saving).progAt 0 i = none) ∧ (loaded .saving).fenceDone 0 = true ∧
    ({ loaded .saving with reqs := [(1, { base.newReq 0 0 0 0 0 with src := .ctx 0 })] } : State).fenceDone 0 = false ∧
    (let s := { loaded .saving with slots := [(0, { slotIs .saving with tokWait := true })], waiters := [(3, [⟨0, 1⟩])] }
     let saved := fun (x : AtomRes) => (List.range 5).foldl (fun s i => owning (.prog 0 i) (i + 1) opWrite x s) s
     (∀ i < 5, (saved ⟨.waiting, true, 0⟩).progAt 0 i = some .done) ∧ (saved ⟨.waiting, false, 0⟩).progAt 0 0 = some .blocked ∧
     (s.slot 0).st = .saving ∧ s.onToken 0 = true ∧ ctx0.asyncTrap = none ∧ (s.slot 0).abort = false ∧ (s.slot 0).tokWait = true) ∧
    (loaded .saving).onToken 0 = false ∧
    one.cpReady ∧ (∀ e ∈ one.slots, e.2.st = .free) ∧ (∃ e ∈ (loaded .running).slots, e.2.st ≠ .free) := by
  unfold State.reaches State.cpReady; decide +kernel

theorem witness_ProgramsEnd :
    ((loaded .running).slot 0).st ≠ .finishing ∧
    (let sl := { slotIs .finishing with fin := some ⟨false, 0, 0, 0, 0, true⟩ }
     let s := { loaded .finishing with slots := [(0, sl)] }
     (s.slot 0).st = .finishing ∧ (s.slot 0).wedged = false ∧ ((s.reapReqs 0 0).slot 0).fin = some ⟨false, 0, 0, 0, 0, true⟩ ∧
     (s.reapReqs 0 0).fenceDone 0 = true ∧ s.progAt 0 5 = none ∧ (∀ i < 5, s.progAt 0 i = none) ∧
     sl.ctx.bind s.ctx? = some ctx0) ∧
    (let s := { loaded .finishing with reqs := [(1, { base.newReq 0 0 0 0 0 with src := .ctx 0 })] }
     s.fenceDone 0 = false) ∧
    (owning (.prog 0 5) 1 opWrite ⟨.waiting, true, 0⟩ one).progAt 0 5 = some .done ∧
    (owning (.prog 0 5) 1 opWrite ⟨.lost, true, 0⟩ one).progAt 0 5 = some .lost ∧
    one.cpReady ∧ (one.slot 4095).st = .free ∧ ((loaded .running).slot 0).wedged = false ∧ ((loaded .running).slot 0).st = .running ∧
    ((loaded .running).slot 0).ctx = some 0 ∧ (loaded .running).ctx? 0 = some ctx0 ∧ ((loaded .loading).slot 0).st = .loading ∧
    ((loaded .queued).slot 0).st = .queued ∧ one.ctx? 255 = none ∧ (loaded .running).progAt 0 5 = none ∧
    ({ loaded .running with slots := [(0, { slotIs .running with wedged := true })] }.slot 0).wedged = true ∧
    one.tokenQ 1023 = [] ∧ ({ one with waiters := [(1023, [⟨0, 7⟩])] }.tokenQ 1023) = [⟨0, 7⟩] ∧ (7 : Nat) ≤ (7 : BitVec 32).toNat ∧
    (6 : BitVec 32).toNat < 7 ∧ ((loaded .waiting).slot 0).st = .waiting ∧ ((loaded .swapped).slot 0).st = .swapped := by
  unfold State.cpReady; decide +kernel

/-- Context 0 runs the instruction `w`, in its fetch buffer, with loop stack `l`. -/
def running (w : Nat) (l : List LoopEnt) : State :=
  { stream5 .idle with
    slots := [(0, { slotIs .running with priv := true })]
    ctxs := [(0, some { ctx0 with fetch := some (0, BitVec.ofNat 512 w), loops := l })]
    windows := [(0, ⟨true, 0, 2 ^ 30 - 1, BitVec.allOnes 256, BitVec.allOnes 256, BitVec.allOnes 256, BitVec.allOnes 256⟩)] }

/-- Context 0 of `s` launches `w`. -/
def launchesB (s : State) (w : Nat) : Bool :=
  match s.ctx? 0 with
  | none => false
  | some y => (s.slot y.slot).st == .running && !(s.slot y.slot).wedged && y.cur.isNone && y.wait.isNone && y.asyncTrap.isNone &&
    match s.fetchIns 0 y with
    | (v, some d) => insAt d y.pc == w && match v.launchChecks 0 y (v.slot y.slot) w with
      | (u, .ok) => match u.ctx? 0 with
        | some x => (u.slot x.slot).st == .running
        | none => false
      | _ => false
    | (_, none) => false

theorem launches_of (s : State) (w : Nat) (h : launchesB s w = true) :
    ∃ x u, s.launches 0 x w u ∧ (u.slot x.slot).st = .running := by
  unfold launchesB at h
  split at h
  · cases h
  · rename_i y hy
    simp only [Bool.and_eq_true, beq_iff_eq, Bool.not_eq_true', Option.isNone_iff_eq_none] at h
    obtain ⟨⟨⟨⟨⟨h1, h2⟩, h3⟩, h4⟩, h5⟩, h6⟩ := h
    split at h6
    · rename_i v d hf
      simp only [Bool.and_eq_true, beq_iff_eq] at h6
      obtain ⟨h7, h8⟩ := h6
      split at h8
      · rename_i u hc
        split at h8
        · rename_i x hx
          exact ⟨x, u, ⟨y, v, d, hy, h1, h2, h3, h4, h5, hf, h7.symm, hc, hx⟩, by simpa using h8⟩
        · cases h8
      · cases h8
    · cases h6

/-- The instruction of opcode `op` with the bits `l` set. -/
def insn (op l : Nat) : Nat := op * 2 ^ 120 + l

/-- A1, A2 and A3 in the fields R1, R2 and R3. -/
def r123 : Nat := 2 ^ 108 + 2 * 2 ^ 104 + 3 * 2 ^ 100

/-- NMU_UPDATE of kind 5, gradient FP32 from A2, parameters from A3; NMU_REDUCE of two FP32 sources; NMU_CAST from FP32. -/
def nmuInsns : List Nat :=
  [insn iUpdate (2 ^ 108 + 2 * 2 ^ 92 + 3 * 2 ^ 88 + 5 * 2 ^ 85 + 2 ^ 81 + 64),
   insn iReduce (2 ^ 108 + 2 * 2 ^ 104 + 2 ^ 101 + 2 ^ 97 + 64), insn iCast (2 ^ 108 + 2 * 2 ^ 104 + 2 ^ 100 + 2 ^ 96 + 64)]

/-- Instructions of every opcode, with operands they launch with. -/
def launchable : List Nat :=
  [insn iMove (2 ^ 108 + 2 * 2 ^ 104 + 64), insn iFill 64, insn iGather (r123 + 1024), insn iScatter (r123 + 1024), insn iRewrite 64,
   insn iCheck (2 ^ 108 + 2 * 2 ^ 104 + 64), insn iWaitCadence (2 ^ 40), insn iWaitCadence 5, insn iWaitToken 0, insn iWaitToken 7,
   insn iSignal (3 * 2 ^ 102 + 7), insn iFence 0, insn iGateSwap (2 ^ 88 + 1), insn iSetStream 5, insn iSetStream (2 ^ 111 + 5),
   insn iLoop (2 ^ 96 + 3), insn iLoop (2 ^ 96), insn iBranch 4, insn iBranch (2 ^ 106 + 2 ^ 40), insn iEnd 0, insn iTrap 9]

theorem witness_ProgramSteps : ∀ w ∈ launchable, launchesB (running w []) w = true := by decide +kernel

theorem witness_ProgramSteps_waits :
    (let s := { loaded .waiting with ctxs := [(0, some { ctx0 with wait := some (.cadence 4096) })] }
     s.ctx? 0 = some { ctx0 with wait := some (.cadence 4096) } ∧ (s.slot 0).st = .waiting ∧ s.reaches 4096) ∧
    (let x := { ctx0 with pc := 16, loops := [⟨16, 1, 2⟩] }
     (x.pc + 16) % 2 ^ 42 = 16 + 16 * 1) ∧ (ctx0.pc + 16) % 2 ^ 42 < 0 + 16 * 2 := by unfold State.reaches; decide +kernel

theorem witness_DataInstructions_launch :
    ((∀ w ∈ nmuInsns, launchesB (running w []) w = true) ∧ (Instr.seqMove 0).dataOp? = some (0, iMove) ∧
      (Instr.nmuCast 0).nmuOp? = some (0, iCast)) := by decide +kernel

/-- Context 0 with `k` in progress. -/
def busy (k : Cur) : State := { running 0 [] with ctxs := [(0, some { ctx0 with cur := some k })] }

/-- `w` in progress, `r` atoms of it read and `n` written. -/
def curOf (w r n : Nat) : Cur := ⟨BitVec.ofNat 128 w, 0, r, n, 0, 0, [], [], none⟩

theorem witness_onward : ∀ w ∈ launchable ++ nmuInsns, ∃ x, (busy (curOf w 0 0)).onward 0 x w (busy (curOf w 0 0)) := by
  intro w h
  exact ⟨{ ctx0 with cur := some (curOf w 0 0) }, rfl, rfl, congrArg some ((by decide +kernel :
    ∀ w ∈ launchable ++ nmuInsns, (curOf w 0 0).word.toNat = w) w h), .inl rfl⟩

theorem witness_onward_launched : ∃ x w b, (running (insn iFill 64) []).onward 0 x w b ∧ insOp w = iFill := by
  obtain ⟨x, u, h, hr⟩ := launches_of _ _ ((by decide +kernel : launchesB (running (insn iFill 64) []) (insn iFill 64) = true))
  exact ⟨x.busyWith (insn iFill 64), insn iFill 64, u.setCtx 0 (some (x.busyWith (insn iFill 64))),
    ⟨SMap.get_put_same .., hr, by rfl, .inr ⟨x, u, h, rfl⟩⟩, by decide +kernel⟩

theorem witness_DataInstructions :
    (let w := insn iFill 64
     let want := fun v => insOp v == iFill
     (busy (curOf w 0 0)).ctx? 0 = some { ctx0 with cur := some (curOf w 0 0) } ∧ ((busy (curOf w 0 0)).slot 0).st = .running ∧
     insOp (curOf w 0 0).word.toNat = iFill ∧
     (match ((busy (curOf w 0 0)).advanceData 0).inProgress 0 want with
      | some (y, k) => !((busy (curOf w 0 0)).advanceData 0).dataDone 0 y k
      | none => false) = true ∧
     (match ((busy (curOf w 0 1)).advanceData 0).inProgress 0 want with
      | some (y, k) => ((busy (curOf w 0 1)).advanceData 0).dataDone 0 y k
      | none => false) = true) ∧ one.ctx? 5 = none ∧
    (let w := insn iMove (2 ^ 113 + 2 ^ 108 + 2 * 2 ^ 104 + 64)
     insOp w = iMove ∧ flInc w = true ∧ fR1 w ≠ fR2 w ∧ ctx0.a.length = 16 ∧ insLen ctx0 w ≠ 0) ∧
    (let w := insn iGather (r123 + 1024)
     let k := { curOf w 0 0 with idx := [(0, (64 + 63 * 2 ^ 32 : Atom))] }
     k.index 0 = some 64 ∧ ctx0.creg (fCb k.word.toNat) ≤ elemSize k.word.toNat * 64 ∧ k.index 1 = some 63 ∧
     elemSize k.word.toNat * 63 < ctx0.creg (fCb k.word.toNat)) ∧
    (let r := { base.newReq 0 0 0 0 0 with src := .ctx 0, res := [⟨.lost, true, 0⟩] }
     let s := { busy (curOf (insn iFill 64) 0 1) with reqs := [(1, r)] }
     s.ctxFailed 0 = some ⟨0x11, 0, 0⟩) ∧ one.ctxFailed 0 = none := by decide +kernel

theorem witness_DataInstructions_check :
    (let w := insn iCheck (2 ^ 108 + 2 * 2 ^ 104 + 64)
     let v := fun s : State => (s.advanceData 0).forEach (List.range 64) fun s _ => s.feed1 0
     (match (v (busy (curOf w 1 0))).inProgress 0 (fun w => insOp w == iCheck) with
      | some (y, k) => k.wpos != dataLen y k.word.toNat / 64
      | none => false) = true ∧
     (match (v (busy (curOf w 1 1))).inProgress 0 (fun w => insOp w == iCheck) with
      | some (y, k) => ((v (busy (curOf w 1 1))).ctxFailed 0).isNone && k.wpos == dataLen y k.word.toNat / 64
      | none => false) = true) ∧
    ({ curOf 0 0 0 with stored := some 7 } : Cur).stored = some 7 ∧ one.ctxReqs 0 = [] ∧
    (∀ st ∈ [AtomSt.poison, .ok], let r := { base.newReq 0 0 0 0 0 with src := .ctx 0, origin := roleCompare, res := [⟨st, true, 7⟩] }
     ({ one with reqs := [(1, r)] } : State).ctxReqs 0 = [(1, r)] ∧ r.origin = roleCompare ∧ r.decided = true ∧
     (r.res.getD 0 (.of .ok)).data.toNat % 2 ^ 64 % 2 ^ 3 = 7 ∧ (r.res.getD 0 (.of .ok)).data.toNat % 2 ^ 64 % 2 ^ 2 ≠ 7) := by decide +kernel

theorem witness_DataInstructions_swap :
    (let w := insn iGateSwap (2 ^ 88 + 1)
     let want := fun v => insOp v == iGateSwap
     (match ((busy (curOf w 1 0)).advanceData 0).inProgress 0 want with
      | some (y, k) => ((busy (curOf w 1 0)).advanceData 0).dataDone 0 y k
      | none => false) = true ∧
     (match ((busy (curOf w 0 0)).advanceData 0).inProgress 0 want with
      | some (y, k) => !((busy (curOf w 0 0)).advanceData 0).dataDone 0 y k
      | none => false) = true) ∧
    (gate3Pending 99).flag (F.trfGateStatus_PENDING 3) = true ∧ (gate3Pending 99).cadence < ((gate3Pending 99).arm 3).t ∧
    ∃ e ∈ ({ curOf 0 1 0 with got := [(0, 0, true)] } : Cur).got, e.2.2 = true := by decide +kernel

/-- A job of NMU_CAST, FP32 to FP32, one atom from 131072 to 65536. -/
def job0 : Job := newJob 0 ctx0 (insn iCast (2 ^ 108 + 2 * 2 ^ 104 + 2 ^ 100 + 2 ^ 96 + 64)) 5

/-- `j` in progress as job 1. -/
def working (j : Job) : State := { running 0 [] with jobs := [(1, j)], nextJob := 2 }

/-- A job of NMU_UPDATE, its parameter block not read. -/
def update0 : Job := newJob 0 ctx0 (insn iUpdate (2 ^ 108 + 2 * 2 ^ 92 + 3 * 2 ^ 88 + 5 * 2 ^ 85 + 2 ^ 81 + 64)) 5

theorem witness_NmuWork :
    let s := working job0
    (∀ w ∈ nmuInsns, ∀ k < insLen ctx0 w / 64, (one.servingAt ((newJob 0 ctx0 w one.cadence).atomAt k)).isSome = true) ∧
    flAsync (insn iCast (2 ^ 115)) = true ∧ one.ctxJobs 0 = [] ∧
    4 ≤ ((({ one with jobs := (List.range 4).map fun i => (i + 1, { job0 with async := true }) } : State).ctxJobs 0).filter
      fun e => e.2.async).length ∧
    SMap.get? one.jobs 1 = none ∧ SMap.get? s.jobs 1 = some job0 ∧ 0 < job0.atoms ∧ job0.done.contains 0 = false ∧ job0.ready = true ∧
    s.jobWaits 1 job0 (s.locOf (job0.atomAt 0)).stack = false ∧ s.coreOn = true ∧ s.nmuItem 0 = none ∧
    (s.servingAt (job0.atomAt 0)).any (fun n => s.nmuTurnIs n ((s.locOf (job0.atomAt 0)).lpc % 4) &&
      !s.unserved n (job0.reads 0).eraseDups && (s.dogDue n).all (s.cadence < ·)) = true ∧
    (∀ n < 32, s.flag (F.nmuCtl_OFFLINE n) = false ∨ s.fget (F.nmuStatus_STATE n) ≠ 0) ∧
    insOp update0.w = iUpdate ∧ update0.params = none ∧ (working update0).ownFind (.param 1) = none ∧
    ((working update0).servingAt update0.upd.p).isSome = true ∧
    job0.done.length < job0.atoms ∧ ({ job0 with done := [0] } : Job).atoms ≤ ({ job0 with done := [0] } : Job).done.length ∧
    job0.async = false ∧ (s.slot job0.slot).st = .running ∧ (s.ctx? job0.ctx).isSome = true := by decide +kernel

/-- Job 1's parameter block come to `x`, as request 7. -/
def paramIs (x : AtomRes) : State := owning (.param 1) 7 opRead x (working update0)

/-- Work atom 0 of job 1: its one read come to `x`, as request 7 of NMU 0. -/
def readIs (x : AtomRes) : State :=
  { working job0 with reqs := [(7, { ownReq (.nmuRead 1 0 0) opRead 1 131072 0 0 0 with res := [x] })] }

/-- The same of its one write. -/
def writeIs (x : AtomRes) : State :=
  { working job0 with reqs := [(7, { ownReq (.nmuWrite 1 0 0) opWrite 1 65536 0 0 0 with res := [x] })] }

theorem witness_NmuWork_items :
    (paramIs ⟨.waiting, false, 0⟩).has (.param 1) 7 .blocked ∧ (paramIs ⟨.ok, true, 9⟩).has (.param 1) 7 (.data 9 false) ∧
    (paramIs ⟨.poison, true, 0⟩).has (.param 1) 7 (.data 0 true) ∧ (paramIs ⟨.denied, true, 0⟩).has (.param 1) 7 .denied ∧
    (paramIs ⟨.lost, true, 0⟩).has (.param 1) 7 .lost ∧
    (readIs ⟨.ok, true, 9⟩).nmuItem 0 = some (1, 0) ∧ (job0.reads 0).eraseDups = [131072] ∧
    (∀ e ∈ [((readIs ⟨.waiting, false, 0⟩), Direct.blocked), (readIs ⟨.ok, true, 9⟩, .data 9 false), (readIs ⟨.poison, true, 0⟩, .data 0 true),
      (readIs ⟨.denied, true, 0⟩, .denied), (readIs ⟨.lost, true, 0⟩, .lost)],
      (e.1.reqs.any fun r => r.2.readsWork 1 (some 0)) = true ∧ e.1.itemReads 1 0 [131072] = [(131072, e.2)]) ∧
    accessTrap [(131072, .data 9 false)] = none ∧ accessTrap [(131072, .data 0 true)] = some ⟨0x15, 131072, 1⟩ ∧
    accessTrap [(131072, .denied)] = some ⟨0x10, 131072, 2⟩ ∧
    (∀ e ∈ [((writeIs ⟨.waiting, false, 0⟩), Direct.blocked), (writeIs ⟨.waiting, true, 0⟩, .done), (writeIs ⟨.denied, true, 0⟩, .denied)],
      (e.1.reqs.any fun r => r.2.readsWork 1 (some 0)) = false ∧
      ((e.1.reqs.filter fun e => e.2.writesWork 1 0).map fun e => (e.2.addr, e.2.direct)) = [(65536, e.2)]) ∧
    accessTrap [(65536, .done)] = none := by
  refine ⟨has_of ?_, has_of ?_, has_of ?_, has_of ?_, has_of ?_, ?_⟩ <;> decide +kernel

/-- The state with no NMU of stack 0 ACTIVE. -/
def noNmu : State := State.having one ((List.range 4).map fun n => (F.nmuStatus_STATE n, 3))

theorem witness_NmuWork_units :
    (let q := { piece0 with kind := .atomicAdd, got := [(0, 9, false, true)], todo := [] }
     let s := pccIs (buffering [q]) one
     let t := pccIs (buffering [q]) noNmu
     (s.pcc 0 0).buf.find? Piece.addable = some q ∧ s.serving 0 (q.lpc % 4) = some 0 ∧ s.nmuTurnIs 0 4 = true ∧ (s.dogDue 0).all (s.cadence < ·) = true ∧
     t.serving 0 (q.lpc % 4) = none ∧
     noNmu.servingAt ((newJob 0 ctx0 (insn iCast (2 ^ 108 + 64)) 5).atomAt 0) = none) ∧
    (∀ q ∈ (one.pcc 0 0).buf, q.addable = false) ∧
    (one.build.nmus = true ∧ one.fget (F.nmuStatus_STATE 3) = 0 ∧ 3 / 4 < one.build.nStacks) ∧ ¬ 4 / 4 < one.build.nStacks ∧ one.cpReady ∧
    one.build.nStacks ≤ 4 / 4 ∧ one.itemsSince 3 = [] ∧ one.nmuItem 3 = none ∧ one.nmuHeld 3 = false ∧
    (let s := atCt (2 ^ 60) { working job0 with regs := [((F.nmuCfg_WATCHDOG 0).addr, BitVec.ofNat 64 (2 ^ (F.nmuCfg_WATCHDOG 0).lo))] }
     (List.range 4).any (fun n => s.itemsSince n != []) = true ∧ s.fget (F.nmuCfg_WATCHDOG 0) ≠ 0 ∧ s.fget (F.nmuStatus_STATE 0) = 0 ∧
     s.nmuHeld 0 = false ∧ s.reaches (2 ^ 60)) ∧
    (∃ d ∈ [1, 2, 3], 1 = 4 * (0 / 4) + (0 % 4 + d) % 4 ∧ one.fget (F.nmuStatus_STATE 1) = 0 ∧ d = 1) := by
  unfold State.cpReady State.reaches; decide +kernel
/-- Nothing enabled and nothing to wait for. -/
def atRest : State := State.having one ((List.range 113).map fun n => (F.glbPortCfg_EN n, 0))

/-- A complete image. -/
def image0 : Image := ⟨[], [], [], [], [], [], []⟩

/-- In ENTERING, at `step` of the entry. -/
def enteringAt (step : Nat) (s : State) : State := { s with power := .entering, drone := { s.drone with step := step } }

theorem witness_PowerStates :
    atRest.cpReady ∧ atRest.cpOk.pwrReason true = 0 ∧ atRest.cpOk.pwrReason false = 0 ∧ atRest.cpOk.bowRests = true ∧
    atRest.cpOk.cache = [] ∧ atRest.cpOk.misses = [] ∧
    (let s := { atRest with cache := [], slots := [(0, slotIs .running)] }
     s.cpOk.pwrReason true ≠ 0 ∧ s.cpOk.pwrReason false ≠ 0) ∧
    ({ one with power := .quiet } : State).cpReady ∧ ({ one with power := .restored } : State).cpReady ∧ one.power ≠ .quiet ∧
    one.power ≠ .restored := by unfold State.cpReady; decide +kernel

theorem witness_PowerStates_entry :
    one.power ≠ .entering ∧ ({ one with sweep := some ⟨0, 0, 0, 0, false, true⟩ } : State).bowRests = false ∧
    (enteringAt 1 one).drone.step = 1 ∧ (enteringAt 1 one).bowRests = true ∧ (enteringAt 2 one).streamsGone = true ∧
    (enteringAt 2 one).drone.toOff = false ∧ (enteringAt 2 { one with drone := { one.drone with toOff := true } }).drone.toOff = true ∧
    (∀ k < (enteringAt 3 one).build.nStacks, (enteringAt 3 one).stackEmpty k = true ∧ (enteringAt 3 one).linesClean k = true ∧
      (enteringAt 3 one).canaryRuns k = false) ∧
    (enteringAt 2 (stream5 .idle)).streamsGone = false ∧ (enteringAt 3 (onLane piece0)).stackEmpty 0 = false ∧
    (canarying (.checking 0) (enteringAt 4 one)).canaryRuns 0 = true ∧
    (enteringAt 4 one).flag F.pwrCfg_JOINT = false ∧ (enteringAt 4 (State.having one [(F.pwrCfg_JOINT, 1)])).flag F.pwrCfg_JOINT = true ∧
    one.drone.sibReady = false ∧ one.drone.held = 0 ∧ ({ one with drone := { one.drone with held := 2 } } : State).drone.held ≠ 0 ∧
    ({ one with power := .waking, drone := { one.drone with locked := some ⟨[], []⟩ } } : State).drone.locked = some ⟨[], []⟩ ∧
    one.drone.locked = none := by decide +kernel

theorem witness_PowerStates_moments :
    (let s := { one with power := .quietEntry }
     s.power = .quietEntry ∧ s.bowRests = true ∧ (∀ k < s.build.nStacks, s.stackRests k = true) ∧ (one.power ≠ .quietEntry)) ∧
    (pccIs { Pcc.init with rb := [cmd0] } one).stackRests 0 = false ∧ one.drone.joint = none ∧
    (let s := { one with power := .entering, drone := { one.drone with joint := some 0 }, cadence := 2 ^ 40 }
     s.drone.joint = some 0 ∧ s.reaches (0 + max 1 (s.fget F.pwrCfg_JOINT_TO) * 1000)) ∧ bridged.build.bridge = true ∧
    ({ bridged with power := .entering, drone := { one.drone with joint := some 0 } } : State).drone.joint ≠ none ∧
    bridged.coreOn = true ∧ bridged.power ≠ .entering ∧ one.build.bridge = false ∧ one.alarmHolds = false ∧
    (State.having one [(F.pwrAlarm_EN, 1)]).alarmHolds = true ∧
    1 &&& (State.having one [(F.pwrCfg_WAKE_EN, 1)]).fget F.pwrCfg_WAKE_EN ≠ 0 ∧
    1 &&& (State.having one [(F.pwrCfg_WAKE_EN, 2)]).fget F.pwrCfg_WAKE_EN = 0 ∧
    ({ one with power := .off } : State).drone.supplied = true ∧ (enteringAt 7 one).drone.step = 7 ∧
    ({ one with power := .retain } : State).power = .retain ∧
    ({ one with drone := { one.drone with supplied := false } } : State).drone.supplied = false := by
  unfold State.reaches; decide +kernel

theorem witness_PowerStates_supplies :
    ({ one with power := .retain } : State).cpUp = false ∧ ({ one with power := .retain } : State).power ≠ .waking ∧ one.cpUp = true ∧
    (let s := { one with power := .waking, image := some image0 }
     s.power = .waking ∧ s.image = some image0) ∧ one.image = none ∧
    (let s := { one with drone := { one.drone with cEntry := 5, cLast := 9 } }
     let t := { one with drone := { one.drone with cEntry := 10, cLast := 9 } }
     let v := fun s : State => (s.drone.cEntry + (((s.fget F.pwrRtc_TICKS + 2 ^ 48 - s.drone.rEntry) % 2 ^ 48) * 1953125 +
       s.fget F.pwrCadFrac_FRAC) / 64) % 2 ^ 64
     v s ≤ s.drone.cLast ∧ t.drone.cLast < v t) ∧ one.power ≠ .dead ∧ one.power ≠ .off := by decide +kernel

/-- Channel 4 at `t` sixteenths of a degree, the other channels at 0; two more stacks than one. -/
def hot (t : Nat) (l : List (Fld × Nat)) : State :=
  State.having { one with build := { one.build with nStacks := 3 } }
    ((List.range 6).map (fun c => (F.thmDiode_TEMP c, if c = 4 then t else 0)) ++ l)

theorem witness_ThermalAndFuses :
    ({ one with power := .dead } : State).power = .dead ∧ one.power ≠ .dead ∧
    (having [(F.thmDiode_FAULT 15, 1)]).flag (F.thmDiode_FAULT 15) = true ∧ base.flag (F.thmDiode_FAULT 15) = false ∧
    (having [(F.thmDiode_IGNORE 15, 1)]).flag (F.thmDiode_IGNORE 15) = true ∧
    (having [(F.thmDiode_IGNORE 14, 0)]).flag (F.thmDiode_IGNORE 14) = false ∧
    (hot 1760 []).flag F.thmStatus_TRIPPED = false ∧ 4 < 2 * (hot 1760 []).build.nStacks ∧ (hot 1760 []).counted 4 = true ∧
    1760 ≤ (hot 1760 []).temp 4 ∧ (∀ e < 4, (hot 1760 []).counted e = false ∨ (hot 1760 []).temp e < 1760) ∧
    (hot 0 [(F.thmStatus_TRIPPED, 1)]).flag F.thmStatus_TRIPPED = true ∧
    (hot 1601 []).flag (F.thmStk_WINDOW_CLOSED 2) = false ∧ (hot 1601 []).counted 4 = true ∧ 1600 < (hot 1601 []).temp 4 ∧
    (hot 0xFFFF []).temp 4 < 0 ∧
    (∀ c ∈ [2 * 2, 2 * 2 + 1], (hot 1600 []).counted c = true → 0 ≤ (hot 1600 []).temp c ∧ (hot 1600 []).temp c ≤ 1600) ∧
    (let h := fun s : State => (s.fget F.thmCfg_HYST : Int)
     1520 ≤ max ((hot 1520 []).temp 4) ((hot 1520 []).temp 5) ∧ (hot 1520 []).fget (F.thmStk_LEVEL 2) ≤ 2 ∧
     max ((hot 0 []).temp 4) ((hot 0 []).temp 5) < 1360 - h (hot 0 []) ∧ 1360 ≤ max ((hot 1360 []).temp 4) ((hot 1360 []).temp 5) ∧
     max ((hot 1360 []).temp 4) ((hot 1360 []).temp 5) < 1520 - h (hot 1360 [])) ∧
    (let s := having [(F.thmPkg_LIMIT 7, 128)]
     s.fget (F.thmPkg_LIMIT 7) ≠ 0 ∧ (127 : BitVec 16).toNat < s.fget (F.thmPkg_LIMIT 7) ∧ s.flag (F.thmPkg_OVER 7) = false ∧
     s.fget (F.thmPkg_LIMIT 7) + s.fget (F.thmPkg_LIMIT 7) / 64 ≤ (130 : BitVec 16).toNat) := by decide +kernel

theorem witness_ThermalAndFuses_cp :
    one.cpReady ∧ one.build.nStacks ≤ 8 ∧ (0x8000000000000001 : Word).getLsbD 63 = true ∧ (1 : Word).getLsbD 63 = false ∧
    ¬ (one.flag F.glbAccLock_LOCK = true ∨ 1 < one.fget F.fusLifecycle_PENDING ∨
      (1 = one.fget F.fusLifecycle_PENDING ∧ (false = false ∨ one.flag F.fusLifecycle_SAN_PENDING = true)) ∨
      one.flag F.fusStatus_PROG_BUSY = true) ∧ 0 = one.fget F.fusLifecycle_PENDING ∧
    (State.having one [(F.fusStatus_PROG_BUSY, 1)]).flag F.fusStatus_PROG_BUSY = true ∧
    ¬ (one.power ≠ .active ∨ one.flag F.fusStatus_COMMIT_BUSY = true ∨ ∃ k < one.build.nStacks,
      one.reg (A.fusPhyTrim k) ≠ one.reg (A.fusPhyTrimActive k) ∧
        (one.flag (F.phyFreqStatus_BUSY k) = true ∨ one.flag (F.phyFreqStatus_CHAIN k) = true)) ∧
    one.phyDiffs = [] ∧ one.trimHeld = [] ∧
    (State.having one [(F.fusStatus_COMMIT_BUSY, 1)]).flag F.fusStatus_COMMIT_BUSY = true := by unfold State.cpReady; decide +kernel

theorem witness_ObserveAndReset :
    one.cpReady ∧ one.sweep = none ∧ one.bufferFits = true ∧
    (State.having one [(F.talBufBase_BASE, 2 ^ 36 - 1)]).bufferFits = false ∧ one.flag F.talCfg_EN = false ∧
    (let s := State.having { one with tallyAt := 0, cadence := 2 ^ 60 } [(F.talCfg_EN, 1)]
     s.flag F.talCfg_EN = true ∧ s.reaches s.tallyDue) ∧ one.coreOn = true ∧ one.power = .active ∧
    one.irqAgeAt = none ∧
    (let s := State.having { one with cadence := 2 ^ 60 } [(F.glbEvCfg_IRQ_AGE, 1), (F.glbEvHead_HEAD, 1)]
     s.irqAgeAt.isSome = true ∧ s.irqAgeAt.any (fun d => decide (d ≤ s.cadence)) = true) ∧
    (let s := State.having one [(F.glbEvCfg_EN, 1)]
     s.flag F.glbEvCfg_EN = true ∧ one.flag F.glbEvCfg_EN = false) ∧
    (let w : Word := 0x8000000000000000
     one.fget F.glbEvBase_BASE % 64 = 0 ∧
     one.build.inRange (one.fget F.glbEvBase_BASE) (32 * 2 ^ min 20 (max 6 (bitsOf w.toNat 52 48))) = true) ∧
    (State.having one [(F.glbEvBase_BASE, 32)]).fget F.glbEvBase_BASE % 64 ≠ 0 ∧ (0x5A01 : Word).getLsbD 0 = true ∧
    bitsOf (0x5A01 : Word).toNat 15 8 = 0x5A ∧ bitsOf (0x5B01 : Word).toNat 15 8 ≠ 0x5A ∧ one.flag F.glbAccLock_LOCK = false ∧
    (having [(F.glbAccLock_LOCK, 1)]).flag F.glbAccLock_LOCK = true := by unfold State.cpReady State.reaches; decide +kernel

/-- One event queued, the ring open. -/
def oneEvent : State := { State.having one [(F.glbEvCfg_EN, 1)] with events := [⟨0x041C, 0, 0, 1, 0⟩] }

theorem witness_ObserveAndReset_ring :
    oneEvent.coreOn = true ∧ oneEvent.ringOpen = true ∧ oneEvent.ownFind .event = none ∧ oneEvent.dropCount = 0 ∧
    (owning .event 1 opPartial ⟨.waiting, false, 0⟩ oneEvent).has .event 1 .blocked ∧
    (owning .event 1 opPartial ⟨.waiting, true, 0⟩ oneEvent).has .event 1 .done ∧
    (owning .event 1 opPartial ⟨.lost, true, 0⟩ oneEvent).has .event 1 .lost ∧
    (owning .event 1 opPartial ⟨.timeout, true, 0⟩ oneEvent).has .event 1 .timeout := by
  refine ⟨?_, ?_, ?_, ?_, has_of ?_, has_of ?_, has_of ?_, has_of ?_⟩ <;> decide +kernel

/-- `one` in a sweep. -/
def sweeping (w : Sweep) : State := { one with sweep := some w }

theorem witness_ObserveAndReset_sweep :
    let n := one.build.sweptCount
    let w : Sweep := ⟨64, n, 5, 9, false, false⟩
    one.build.swept.length ≤ n ∧ (sweeping w).sweepOut = [] ∧ (sweeping w).ownFind (.sweep (n + 1)) = none ∧
    (one.build.swept[(0 : Nat)]?).isSome = true ∧ (⟨64, 0, 0, 0, false, true⟩ : Sweep).opened = true ∧
    (∀ x ∈ [AtomRes.mk .waiting false 0, ⟨.waiting, true, 0⟩, ⟨.lost, true, 0⟩],
      ((owning (.sweep (n + 1)) 1 opPartial x (sweeping w)).ownFind (.sweep (n + 1))).isSome = true ∧
      (owning (.sweep (n + 1)) 1 opPartial x (sweeping w)).sweepOut ≠ []) := by decide +kernel

end Sys2Proof.Tests
end

/-! PROOFS. What an event posted to two states does to `sets`, and the refused step of the SYNC alignment (R41). -/

namespace Sys2Proof.Machine

/-- A register no field of `l` lies in is the same word on both sides. -/
theorem State.reg_of_keepsRegs (s t : State) (l : List Fld) (a : Nat) (h : s.keepsRegs t l) (ha : ∀ f ∈ l, f.addr ≠ a) :
    t.reg a = s.reg a := by
  have hword : bitsOf (t.reg a).toNat 63 0 = bitsOf (s.reg a).toNat 63 0 :=
    h ⟨a, 63, 0⟩ ⟨Nat.zero_le _, Nat.lt_succ_self _⟩ fun f hf => .inl (ha f hf)
  have hbits : ∀ w : Word, bitsOf w.toNat 63 0 = w.toNat := fun w => by
    simpa [bitsOf] using Nat.mod_eq_of_lt w.isLt
  rw [hbits, hbits] at hword
  exact BitVec.eq_of_toNat_eq hword

/-- A field in a register that `l` does not name may be written alike on both sides. -/
theorem State.keepsRegs_fset_both (s t : State) (l : List Fld) (f : Fld) (v : Nat) (ha : ∀ e ∈ l, e.addr ≠ f.addr)
    (h : s.keepsRegs t l) : (s.fset f v).keepsRegs (t.fset f v) l := by
  intro g hg hx
  by_cases e : f.addr = g.addr
  · have hreg : t.reg g.addr = s.reg g.addr := s.reg_of_keepsRegs t l g.addr h (e ▸ ha)
    unfold State.fget
    rw [State.reg_fset, State.reg_fset, hreg]
  · have hapart : ∀ u : State, (u.fset f v).fget g = u.fget g := fun u => by
      unfold State.fget; rw [State.reg_fset, if_neg e]
    rw [hapart, hapart]
    exact h g hg hx

theorem State.sets_fset_both (s t : State) (l : List (Fld × Nat)) (f : Fld) (v : Nat) (hf : f.Ok)
    (ha : ∀ e ∈ l, e.1.addr ≠ f.addr) (h : s.sets t l) : (s.fset f v).sets (t.fset f v) l := by
  obtain ⟨hrest, hvals, hregs⟩ := h
  refine ⟨?_, fun e he => ?_, ?_⟩
  · rw [hrest]; rfl
  · rw [State.fget_fset_apart t f e.1 v hf (.inl (ha e he).symm)]
    exact hvals e he
  · refine s.keepsRegs_fset_both t _ f v (fun g hg => ?_) hregs
    obtain ⟨e, he, rfl⟩ := List.mem_map.1 hg
    exact ha e he

/-- With room in the queue an event touches no register (R426). -/
theorem State.regs_post_room (s : State) (c u x y : Nat) (h : s.events.length < 64) : (s.post c u x y).regs = s.regs := by
  unfold State.post; rw [if_pos h]

/-- With 64 records queued an event touches the count of drops alone (R428). -/
theorem State.regs_post_full (s : State) (c u x y : Nat) (h : ¬ s.events.length < 64) :
    (s.post c u x y).regs = (s.fset F.glbEvStatus_DROPPED (s.topped F.glbEvStatus_DROPPED 1)).regs := by
  unfold State.post; rw [if_neg h]; rfl

/-- The same event may be posted on both sides, where no field named lies in EV_STATUS: it is queued or dropped alike. -/
theorem State.sets_post (s t : State) (l : List (Fld × Nat)) (c u x y : Nat) (ha : ∀ e ∈ l, e.1.addr ≠ A.glbEvStatus)
    (h : s.sets t l) : (s.post c u x y).sets (t.post c u x y) l := by
  have ⟨hrest, _, hregs⟩ := h
  have hev : t.events = s.events := by rw [hrest]
  by_cases room : s.events.length < 64
  · refine s.sets_congr t _ _ l h (s.regs_post_room c u x y room) ?_
    unfold State.post
    rw [hev, if_pos room, if_pos room, hrest]
  · have hcount : t.topped F.glbEvStatus_DROPPED 1 = s.topped F.glbEvStatus_DROPPED 1 := by
      unfold State.topped State.fget
      rw [s.reg_of_keepsRegs t _ _ hregs fun f hf => ?_]
      obtain ⟨e, he, rfl⟩ := List.mem_map.1 hf
      exact ha e he
    have hdrop := s.sets_fset_both t l F.glbEvStatus_DROPPED (s.topped F.glbEvStatus_DROPPED 1) (by decide) ha h
    refine State.sets_congr _ _ _ _ l hdrop (s.regs_post_full c u x y room) ?_
    rw [← hcount, ← t.regs_post_full c u x y (hev ▸ room)]
    unfold State.post
    rw [hev, if_neg room, if_neg room, hrest]
    rfl

/-- The moment of the last edge is no register. -/
theorem State.sets_syncAt (s t : State) (l : List (Fld × Nat)) (e : Option (Nat × Nat)) (h : s.sets t l) :
    ({ s with syncAt := e } : State).sets { t with syncAt := e } l := by
  have ⟨hrest, _, _⟩ := h
  exact s.sets_congr t _ _ l h rfl (by rw [hrest])

theorem unsigned_lt (w : Nat) (v : Int) : unsigned w v < 2 ^ w := by
  unfold unsigned
  have := Nat.two_pow_pos w
  omega

/-- The distance from the counter to the value an armed edge aligns it with (R39). -/
def State.syncDelta (s : State) : Int := (s.fget F.glbCadSyncValue_VALUE : Int) - s.cadence

/-- An armed edge whose step is refused, its event not yet posted (R39, R41). -/
def State.syncRefused (s : State) : State :=
  ((s.fset F.glbCadSyncCtl_ARM 0).fset F.glbCadSyncDelta_DELTA (unsigned 64 s.syncDelta)).raise F.glbCadStatus_SYNC_REFUSED

theorem State.armedEdge_refused (s : State) (h : s.syncDelta < -1000000) :
    s.armedEdge = s.syncRefused.post 0x0404 0 (unsigned 64 s.syncDelta) 0 :=
  if_pos h

/-- Counting an edge moves neither the counter nor the value it is aligned with. -/
theorem State.syncDelta_count_edge (s : State) : (s.count F.glbCadStatus_SYNC_EDGES 1).syncDelta = s.syncDelta := by
  unfold State.syncDelta
  rw [State.count_eq, State.fget_fset_apart s _ F.glbCadSyncValue_VALUE _ (by decide) (by decide), State.fset_cadence]

/-- An edge that is no repetition of the last one, with ARM set and no pause running, comes to `armedEdge` (R39, R44). -/
theorem State.syncEdge_armed (s : State) (hnew : s.sameEdge = false) (harm : s.flag F.glbCadSyncCtl_ARM = true)
    (hpause : s.flag F.glbCadStatus_PAUSING = false) :
    s.syncEdge = { (s.count F.glbCadStatus_SYNC_EDGES 1).armedEdge with
      syncAt := some ((s.count F.glbCadStatus_SYNC_EDGES 1).armedEdge.cadence,
        (s.count F.glbCadStatus_SYNC_EDGES 1).armedEdge.pauseLeft) } := by
  have harm' : (s.count F.glbCadStatus_SYNC_EDGES 1).flag F.glbCadSyncCtl_ARM = true := by
    rw [State.count_eq, State.flag_fset_apart s _ _ _ (by decide) (by decide), harm]
  have hpause' : (s.count F.glbCadStatus_SYNC_EDGES 1).flag F.glbCadStatus_PAUSING = false := by
    rw [State.count_eq, State.flag_fset_apart s _ _ _ (by decide) (by decide), hpause]
  simp only [State.syncEdge, hnew, harm', hpause', Bool.not_false, Bool.and_true, Bool.false_eq_true, if_true, if_false]

theorem State.syncEdge_refused (s : State) (hnew : s.sameEdge = false) (harm : s.flag F.glbCadSyncCtl_ARM = true)
    (hpause : s.flag F.glbCadStatus_PAUSING = false) (hback : s.syncDelta < -1000000) :
    s.syncEdge = { (s.count F.glbCadStatus_SYNC_EDGES 1).syncRefused.post 0x0404 0 (unsigned 64 s.syncDelta) 0 with
      syncAt := some (s.cadence, s.pauseLeft) } := by
  rw [s.syncEdge_armed hnew harm hpause,
    State.armedEdge_refused _ (by rw [State.syncDelta_count_edge]; exact hback), State.syncDelta_count_edge]
  simp only [State.post_cadence, State.post_pauseLeft]
  rfl

theorem State.sets_syncRefused (s : State) :
    s.sets (s.count F.glbCadStatus_SYNC_EDGES 1).syncRefused
      [(F.glbCadStatus_SYNC_REFUSED, 1), (F.glbCadSyncDelta_DELTA, unsigned 64 s.syncDelta), (F.glbCadSyncCtl_ARM, 0),
       (F.glbCadStatus_SYNC_EDGES, (s.fget F.glbCadStatus_SYNC_EDGES + 1) % 2 ^ 32)] := by
  unfold State.syncRefused
  rw [State.syncDelta_count_edge]
  have hedges := s.sets_fset s [] F.glbCadStatus_SYNC_EDGES (s.fget F.glbCadStatus_SYNC_EDGES + 1) _ (by decide) rfl
    (by simp) s.sets_nil
  have harm := s.sets_fset _ _ F.glbCadSyncCtl_ARM 0 0 (by decide) rfl (by simp +decide) hedges
  have hdelta := s.sets_fset _ _ F.glbCadSyncDelta_DELTA _ _ (by decide) (Nat.mod_eq_of_lt (unsigned_lt 64 s.syncDelta))
    (by simp +decide) harm
  exact s.sets_raise _ _ F.glbCadStatus_SYNC_REFUSED (by decide) (by simp +decide) hdelta

theorem exec_syncEdge (s : State) (h : s.cpUp = true) : exec .syncEdge s = .next s.syncEdge :=
  congrArg Host.Outcome.next (if_pos h)

/-- Settles O16: the registers of the refused step (R39, R41), with the event posted after them rather than before, which
`State.sets_post` allows since none of them lies in EV_STATUS. -/
theorem syncStepRefused : Obligations.SyncStepRefused := by
  unfold Obligations.SyncStepRefused
  intro s hup hnew harm hpause hback
  refine ⟨s.syncEdge, exec_syncEdge s hup, ?_⟩
  rw [s.syncEdge_refused hnew harm hpause hback]
  have hposted := s.sets_post _ _ 0x0404 0 (unsigned 64 s.syncDelta) 0 (by simp +decide) s.sets_syncRefused
  have hordered := State.sets_perm _ _ _ _ (fun _ => ((List.Perm.swap _ _ _).cons _).mem_iff) hposted
  exact State.sets_syncAt _ _ _ _ hordered

end Sys2Proof.Machine

/-! PROOFS. Control-port accesses at misaligned, absent and unassigned addresses (R13, R89). The one fact that takes work: every
address at which a write starts an operation is assigned to a register, so a write of an unassigned address starts nothing. -/

namespace Sys2Proof.Machine

/-- The bytes, from its base on, that hold an array of the given dimensions. -/
def RegDef.extent : List (Nat × Nat) → Nat
  | [] => 1
  | (c, st) :: ds => (c - 1) * st + RegDef.extent ds

/-- An array has an index at an offset where the first dimension is in range there and the rest has one at the remainder. -/
theorem RegDef.indices_cons_isSome (c st : Nat) (ds : List (Nat × Nat)) (off : Nat) :
    (RegDef.indices ((c, st) :: ds) off).isSome = true ↔ off / st < c ∧ (RegDef.indices ds (off % st)).isSome = true := by
  by_cases hc : off / st < c <;> simp [RegDef.indices, hc]

theorem RegDef.indices_nil_isSome (off : Nat) : (RegDef.indices [] off).isSome = true ↔ off = 0 := by
  by_cases h : off = 0 <;> simp [RegDef.indices, h]

theorem RegDef.lt_extent_of_indices (dims : List (Nat × Nat)) (off : Nat) (h : (RegDef.indices dims off).isSome = true) :
    off < RegDef.extent dims := by
  induction dims generalizing off with
  | nil =>
    rw [(RegDef.indices_nil_isSome off).1 h]
    exact Nat.one_pos
  | cons d ds ih =>
    obtain ⟨c, st⟩ := d
    obtain ⟨hc, hrest⟩ := (RegDef.indices_cons_isSome c st ds off).1 h
    have hblock : off / st * st ≤ (c - 1) * st := Nat.mul_le_mul_right st (Nat.le_pred_of_lt hc)
    calc off = off / st * st + off % st := (Nat.div_add_mod' off st).symm
      _ < (c - 1) * st + RegDef.extent ds := Nat.add_lt_add_of_le_of_lt hblock (ih _ hrest)

/-- The last dimension of an array stands for as many arrays without it, a stride apart. -/
theorem RegDef.indices_split_last (ds : List (Nat × Nat)) (c st off : Nat)
    (h : (RegDef.indices (ds ++ [(c, st)]) off).isSome = true) :
    ∃ i < c, i * st ≤ off ∧ (RegDef.indices ds (off - i * st)).isSome = true := by
  induction ds generalizing off with
  | nil =>
    obtain ⟨hc, hrest⟩ := (RegDef.indices_cons_isSome c st [] off).1 h
    have hoff : off = off / st * st := by
      have hdiv := Nat.div_add_mod' off st
      rw [(RegDef.indices_nil_isSome _).1 hrest] at hdiv
      exact hdiv.symm
    exact ⟨off / st, hc, Nat.le_of_eq hoff.symm, (RegDef.indices_nil_isSome _).2 (Nat.sub_eq_zero_of_le (Nat.le_of_eq hoff))⟩
  | cons d ds ih =>
    obtain ⟨c', st'⟩ := d
    obtain ⟨hc', hrest⟩ := (RegDef.indices_cons_isSome c' st' _ off).1 h
    obtain ⟨i, hi, hle, hin⟩ := ih _ hrest
    refine ⟨i, hi, Nat.le_trans hle (Nat.mod_le off st'), (RegDef.indices_cons_isSome c' st' ds _).2 ?_⟩
    -- the part taken off lies within the remainder, so the quotient stays
    have hsplit : off - i * st = (off % st' - i * st) + st' * (off / st') := by
      have := Nat.mod_add_div off st'
      omega
    rcases Nat.eq_zero_or_pos st' with rfl | hpos
    · simp only [Nat.div_zero, Nat.mod_zero] at hc' hin ⊢
      exact ⟨hc', hin⟩
    · have hlt : off % st' - i * st < st' := Nat.lt_of_le_of_lt (Nat.sub_le _ _) (Nat.mod_lt off hpos)
      rw [hsplit, Nat.add_mul_div_left _ _ hpos, Nat.div_eq_of_lt hlt, Nat.zero_add, Nat.add_mul_mod_self_left,
        Nat.mod_eq_of_lt hlt]
      exact ⟨hc', hin⟩

theorem regIndices_isSome (base : Nat) (dims : List (Nat × Nat)) (a : Nat) :
    (regIndices base dims a).isSome = true ↔ base ≤ a ∧ (RegDef.indices dims (a - base)).isSome = true := by
  by_cases h : base ≤ a <;> simp [regIndices, h]

/-- A register definition has a reset value exactly at the addresses of its array. -/
theorem RegDef.resetAt_isSome (r : RegDef) (a : Nat) : (r.resetAt a).isSome = (regIndices r.base r.dims a).isSome := by
  unfold RegDef.resetAt regIndices
  split
  · exact Option.isSome_map
  · rfl

/-- The first addresses of the register blocks after the first (Table 0.7). -/
def RegFile.blockBounds : List Nat := [0x004000, 0x010000, 0x020000, 0x030000, 0x040000, 0x100000]

/-- Addresses with no block's first address between them lie in one block. -/
theorem RegFile.tableFor_congr (a b : Nat) (h : ∀ m ∈ RegFile.blockBounds, a < m ↔ b < m) :
    RegFile.tableFor a = RegFile.tableFor b := by
  unfold RegFile.tableFor
  simp only [h 0x004000 (by decide), h 0x010000 (by decide), h 0x020000 (by decide), h 0x030000 (by decide),
    h 0x040000 (by decide), h 0x100000 (by decide)]

/-- An array of the given base and dimensions lies in one block and stands in that block's tables. -/
def RegFile.lists (base : Nat) (dims : List (Nat × Nat)) : Bool :=
  RegFile.blockBounds.all (fun m => decide (base + RegDef.extent dims ≤ m ∨ m ≤ base)) &&
    (RegFile.tableFor base).any fun r => decide (r.base = base ∧ r.dims = dims)

theorem RegFile.find_isSome_of_lists (base : Nat) (dims : List (Nat × Nat)) (a : Nat) (hl : RegFile.lists base dims = true)
    (ha : (regIndices base dims a).isSome = true) : (RegFile.find a).isSome = true := by
  simp only [RegFile.lists, Bool.and_eq_true, List.all_eq_true, List.any_eq_true, decide_eq_true_eq] at hl
  obtain ⟨hblock, r, hr, hbase, hdims⟩ := hl
  obtain ⟨hle, hin⟩ := (regIndices_isSome base dims a).1 ha
  have hext := RegDef.lt_extent_of_indices dims _ hin
  have htable : RegFile.tableFor a = RegFile.tableFor base := RegFile.tableFor_congr a base fun m hm => by
    have := hblock m hm
    omega
  unfold RegFile.find
  rw [htable, List.find?_isSome]
  exact ⟨r, hr, by rw [RegDef.resetAt_isSome, hbase, hdims]; exact ha⟩

/-- The registers of `x` stand in the tables: a single register, one array, or one array for each index of the last dimension. -/
def RegAct.listed (x : RegAct) : Bool :=
  decide (x.dims = []) && (RegFile.find x.base).isSome || RegFile.lists x.base x.dims ||
    x.dims.getLast?.any fun d => (List.range d.1).all fun i => RegFile.lists (x.base + i * d.2) x.dims.dropLast

/-- Where the write of a register has a behaviour of its own, a register is assigned. -/
theorem RegAct.find_isSome (x : RegAct) (a : Nat) (hx : x.listed = true) (ha : (regIndices x.base x.dims a).isSome = true) :
    (RegFile.find a).isSome = true := by
  obtain ⟨hle, hin⟩ := (regIndices_isSome _ _ a).1 ha
  simp only [RegAct.listed, Bool.or_eq_true, Bool.and_eq_true, decide_eq_true_eq, Option.any_eq_true, List.all_eq_true,
    List.mem_range] at hx
  obtain (⟨hdims, hfind⟩ | hone) | ⟨⟨c, st⟩, hlast, hmany⟩ := hx
  · rw [hdims, RegDef.indices_nil_isSome] at hin
    rwa [show a = x.base by omega]
  · exact RegFile.find_isSome_of_lists _ _ a hone ha
  · obtain ⟨ds, hdims⟩ := List.getLast?_eq_some_iff.1 hlast
    rw [hdims] at hin hmany
    rw [List.dropLast_concat] at hmany
    obtain ⟨i, hi, hstep, hrow⟩ := RegDef.indices_split_last _ c st _ hin
    refine RegFile.find_isSome_of_lists _ _ a (hmany i hi)
      ((regIndices_isSome _ _ a).2 ⟨Nat.add_le_of_le_sub' hle hstep, ?_⟩)
    rwa [Nat.sub_add_eq]

theorem acts_listed : ∀ x ∈ dieActs ++ stackActs, x.listed = true := by decide +kernel

/-- SEQ.DOORBELL, whose write goes through no list of acts, is a register too. -/
theorem find_seqDoorbell_isSome : (RegFile.find A.seqDoorbell).isSome = true := by decide +kernel

theorem State.present_seqDoorbell (s : State) : s.present A.seqDoorbell = true := rfl

theorem State.plainWrite_unassigned (s : State) (a : Nat) (w : Word) (h : RegFile.find a = none) : s.plainWrite a w = s := by
  unfold State.plainWrite; rw [h]

/-- A write of an unassigned address finds no act. -/
theorem State.actWrite_unassigned (s : State) (a : Nat) (w : Word) (l : List RegAct) (hl : ∀ x ∈ l, x.listed = true)
    (h : RegFile.find a = none) : s.actWrite a w l = s := by
  induction l with
  | nil => exact s.plainWrite_unassigned a w h
  | cons x l ih =>
    have hx : regIndices x.base x.dims a = none := by
      refine Option.not_isSome_iff_eq_none.1 fun ha => ?_
      have hfind := x.find_isSome a (hl x List.mem_cons_self) ha
      rw [h] at hfind
      exact absurd hfind Bool.false_ne_true
    unfold State.actWrite
    rw [hx]
    exact ih fun y hy => hl y (List.mem_cons_of_mem x hy)

/-- An absent or unassigned register ignores writes (R13). -/
theorem State.regWrite_missing (s : State) (a : Nat) (w : Word) (h : s.present a = false ∨ RegFile.find a = none) :
    s.regWrite a w = s := by
  unfold State.regWrite
  by_cases hp : s.present a = true
  · have hnone : RegFile.find a = none := h.resolve_left (by simp [hp])
    rw [hp, Bool.not_true, if_neg Bool.false_ne_true]
    refine s.actWrite_unassigned a w _ (fun x hx => acts_listed x (List.mem_append.2 ?_)) hnone
    split at hx
    · exact .inl hx
    · exact .inr hx
  · simp [hp]

/-- An absent or unassigned register reads 0 (R13). -/
theorem State.regRead_missing (s : State) (a : Nat) (h : s.present a = false ∨ RegFile.find a = none) : s.regRead a = 0 := by
  unfold State.regRead
  rcases h with h | h <;> simp [h]

theorem State.readClear_missing (s : State) (a : Nat) (h : s.present a = false ∨ RegFile.find a = none) : s.readClear a = s := by
  unfold State.readClear
  rcases h with h | h <;> simp [h]

/-- A write over the control port of an absent or unassigned register changes nothing: no such register is SEQ.DOORBELL. -/
theorem State.cpWrite_missing (s : State) (c : Instr) (a : Nat) (w : Word) (hal : a % 8 = 0)
    (h : s.present a = false ∨ RegFile.find a = none) : s.cpWrite c a w = s := by
  have hbell : a ≠ A.seqDoorbell := by
    rintro rfl
    rcases h with h | h
    · exact absurd (s.present_seqDoorbell.symm.trans h) (by decide)
    · simpa [h] using find_seqDoorbell_isSome
  unfold State.cpWrite
  rw [if_neg (fun hmis => hmis hal), if_neg hbell, s.regWrite_missing a w h]

theorem State.rcRead_missing (s : State) (a : Nat) (hal : a % 8 = 0) (h : s.present a = false ∨ RegFile.find a = none) :
    s.rcRead a = { s with cpRData := 0 } := by
  unfold State.rcRead
  rw [if_neg (fun hmis => hmis hal), s.readClear_missing a h, s.regRead_missing a h]

theorem State.cpWrite_misaligned (s : State) (c : Instr) (a : Nat) (w : Word) (h : a % 8 ≠ 0) :
    s.cpWrite c a w = { s with cpErr := true } := if_pos h

theorem State.rcRead_misaligned (s : State) (a : Nat) (h : a % 8 ≠ 0) :
    s.rcRead a = { s with cpRData := 0, cpErr := true } := if_pos h

theorem exec_registerWrite_ready (a : BitVec 24) (w : Word) (s : State) (h : s.cpReady) :
    exec (.registerWrite a w) s = .next (s.cpOk.cpWrite (.registerWrite a w) a.toNat w) :=
  s.cpDo_ready _ (fun u => u.cpWrite (.registerWrite a w) a.toNat w) h

theorem exec_rcRegisterRead_ready (a : BitVec 24) (s : State) (h : s.cpReady) :
    exec (.rcRegisterRead a) s = .next (s.cpOk.rcRead a.toNat) :=
  s.cpDo_ready _ (fun u => u.rcRead a.toNat) h

/-- Settles O9: R89 for a misaligned address, R13 for an absent or unassigned one. -/
theorem misalignedAddress : Obligations.MisalignedAddress := by
  unfold Obligations.MisalignedAddress
  intro a w s hready
  rw [exec_registerWrite_ready a w s hready, exec_rcRegisterRead_ready a s hready]
  refine ⟨fun hmis => ?_, fun hal hmissing => ?_⟩
  · rw [State.cpWrite_misaligned _ _ _ w hmis, State.rcRead_misaligned _ _ hmis]
    exact ⟨rfl, rfl⟩
  · rw [s.cpOk.cpWrite_missing _ _ w hal hmissing, s.cpOk.rcRead_missing _ hal hmissing]
    exact ⟨rfl, rfl⟩

end Sys2Proof.Machine

/-! PROOFS. The address map (R101, Table 3.3). An interleave order splits an offset into mixed-radix digits: splitting and joining
are inverse for any list of radices, and what is left per order is where its digits stand in a location. -/

namespace Sys2Proof.Machine

/-! ### Mixed-radix digits -/

theorem splitDigits_cons_cons (r q : Nat) (qs : List Nat) (a : Nat) :
    splitDigits (r :: q :: qs) a = a % r :: splitDigits (q :: qs) (a / r) := rfl

theorem joinDigits_splitDigits (rs : List Nat) (a : Nat) (h : rs ≠ []) : joinDigits rs (splitDigits rs a) = a := by
  induction rs generalizing a with
  | nil => exact absurd rfl h
  | cons r rs ih =>
    cases rs with
    | nil => rfl
    | cons q qs => rw [splitDigits_cons_cons, joinDigits, ih _ (List.cons_ne_nil q qs), Nat.mod_add_div]

/-- Digits below their radices are found again in the number they make. -/
theorem splitDigits_joinDigits {α : Type} (l : List α) (rad dig : α → Nat) (h : ∀ x ∈ l, dig x < rad x) :
    splitDigits (l.map rad) (joinDigits (l.map rad) (l.map dig)) = l.map dig := by
  induction l with
  | nil => rfl
  | cons x l ih =>
    cases l with
    | nil => rfl
    | cons y l =>
      have hx : dig x < rad x := h x List.mem_cons_self
      have hpos : 0 < rad x := Nat.zero_lt_of_lt hx
      have hrest := ih fun z hz => h z (List.mem_cons_of_mem x hz)
      simp only [List.map_cons] at hrest ⊢
      rw [joinDigits, splitDigits_cons_cons,
        Nat.add_mul_mod_self_left, Nat.mod_eq_of_lt hx, Nat.add_mul_div_left _ _ hpos, Nat.div_eq_of_lt hx, Nat.zero_add, hrest]

theorem joinDigits_lt_prod {α : Type} (l : List α) (rad dig : α → Nat) (h : ∀ x ∈ l, dig x < rad x) :
    joinDigits (l.map rad) (l.map dig) < (l.map rad).prod := by
  induction l with
  | nil => exact Nat.one_pos
  | cons x l ih =>
    have hx : dig x < rad x := h x List.mem_cons_self
    have hrest := ih fun z hz => h z (List.mem_cons_of_mem x hz)
    rw [List.map_cons, List.map_cons, joinDigits, List.prod_cons]
    calc dig x + rad x * joinDigits (l.map rad) (l.map dig)
        < rad x + rad x * joinDigits (l.map rad) (l.map dig) := Nat.add_lt_add_right hx _
      _ = rad x * (joinDigits (l.map rad) (l.map dig) + 1) := by rw [Nat.mul_succ, Nat.add_comm]
      _ ≤ rad x * (l.map rad).prod := Nat.mul_le_mul_left _ hrest

/-- The final digit, which takes the whole quotient, is below its radix exactly for the numbers the digits can make. -/
theorem splitDigits_final_lt_iff (rs : List Nat) (a d e : Nat) (h : rs ≠ []) (hpos : ∀ r ∈ rs, 0 < r) :
    (splitDigits rs a).getLastD d < rs.getLastD e ↔ a < rs.prod := by
  induction rs generalizing a d e with
  | nil => exact absurd rfl h
  | cons r rs ih =>
    cases rs with
    | nil => rw [List.prod_cons, List.prod_nil, Nat.mul_one]; exact Iff.rfl
    | cons q qs =>
      rw [splitDigits_cons_cons, List.getLastD_cons, List.getLastD_cons,
        ih _ _ _ (List.cons_ne_nil q qs) fun x hx => hpos x (List.mem_cons_of_mem r hx),
        Nat.div_lt_iff_lt_mul (hpos r List.mem_cons_self), Nat.mul_comm, ← List.prod_cons]

/-! ### The digits of a location -/

/-- There are four orders (Table 3.3). -/
theorem orderDigits_cases {P : List Dig → Prop} (o : Nat)
    (h0 : P [.byte, .colLo, .stack, .lpc, .colHi, .bg, .bank, .sid, .row])
    (h1 : P [.byte, .col, .lpc, .stack, .bg, .bank, .sid, .row])
    (h2 : P [.byte, .bg, .stack, .lpc, .bank, .col, .sid, .row])
    (h3 : P [.byte, .col, .lpc, .bg, .bank, .sid, .row, .stack]) : P (orderDigits o) := by
  match o with
  | 0 => exact h0
  | 1 => exact h1
  | 2 => exact h2
  | n + 3 => exact h3

/-- The radices of an order, least significant first (Table 3.3). -/
def orderRadices (b : Build) (o : Nat) : List Nat := (orderDigits o).map (Dig.radix b)

theorem orderRadices_ne_nil (b : Build) (o : Nat) : orderRadices b o ≠ [] :=
  orderDigits_cases (P := fun ds => ds.map (Dig.radix b) ≠ []) o (List.cons_ne_nil _ _) (List.cons_ne_nil _ _)
    (List.cons_ne_nil _ _) (List.cons_ne_nil _ _)

/-- Every order has the radices of the whole address range (R99). -/
theorem orderRadices_prod (b : Build) (o : Nat) : (orderRadices b o).prod = b.addrSize := by
  refine orderDigits_cases (P := fun ds => (ds.map (Dig.radix b)).prod = b.addrSize) o ?_ ?_ ?_ ?_
  all_goals
    simp only [List.map_cons, List.map_nil, List.prod_cons, List.prod_nil, Dig.radix, Build.addrSize]
    generalize dataRows = rows
    grind

theorem Dig.radix_pos (b : Build) (hs : 0 < b.nStacks) (hn : 0 < b.N) (hh : 0 < b.H) (d : Dig) : 0 < d.radix b := by
  cases d with
  | stack => exact hs
  | lpc => exact hn
  | sid => exact hh
  | byte | colLo | colHi | col | bg | bank | row => exact Nat.zero_lt_succ _

/-- A location of a byte of a data row of build `b`. -/
structure Loc.InRange (b : Build) (l : Loc) : Prop where
  byte : l.byte < 64
  col : l.col < 16
  stack : l.stack < b.nStacks
  lpc : l.lpc < b.N
  bg : l.bg < 4
  bank : l.bank < 4
  sid : l.sid < b.H
  row : l.row < dataRows

theorem Loc.InRange.dig_lt_radix {b : Build} {l : Loc} (h : l.InRange b) (d : Dig) : l.dig d < d.radix b := by
  cases d with
  | byte => exact h.byte
  | colLo => exact Nat.mod_lt _ (by decide)
  | colHi => exact Nat.div_lt_of_lt_mul h.col
  | col => exact h.col
  | stack => exact h.stack
  | lpc => exact h.lpc
  | bg => exact h.bg
  | bank => exact h.bank
  | sid => exact h.sid
  | row => exact h.row

/-- The location with the given digits. -/
def placeDigits (ds : List Dig) (vs : List Nat) : Loc :=
  (ds.zip vs).foldl (fun l dv => l.put dv.1 dv.2) ⟨0, 0, 0, 0, 0, 0, 0, 0⟩

theorem decodeOffset_eq (b : Build) (o a : Nat) :
    decodeOffset b o a = placeDigits (orderDigits o) (splitDigits (orderRadices b o) a) := rfl

theorem encodeOffset_eq (b : Build) (o : Nat) (l : Loc) :
    encodeOffset b o l = joinDigits ((orderDigits o).map (Dig.radix b)) ((orderDigits o).map l.dig) := rfl

/-- The column put as its two digits. -/
theorem col_of_digits (lo hi : Nat) (h : lo < 4) :
    ((0 / 4 * 4 + lo) % 4 + 4 * hi) % 4 = lo ∧ ((0 / 4 * 4 + lo) % 4 + 4 * hi) / 4 = hi := by omega

/-- An order's digits hold the whole location. -/
theorem placeDigits_dig (o : Nat) (l : Loc) : placeDigits (orderDigits o) ((orderDigits o).map l.dig) = l := by
  have hcol : (0 / 4 * 4 + l.col % 4) % 4 + 4 * (l.col / 4) = l.col := by omega
  refine orderDigits_cases (P := fun ds => placeDigits ds (ds.map l.dig) = l) o ?_ ?_ ?_ ?_
  · show Loc.mk l.byte ((0 / 4 * 4 + l.col % 4) % 4 + 4 * (l.col / 4)) l.stack l.lpc l.bg l.bank l.sid l.row = l
    rw [hcol]
  · show Loc.mk l.byte l.col l.stack l.lpc l.bg l.bank l.sid l.row = l
    rfl
  · show Loc.mk l.byte l.col l.stack l.lpc l.bg l.bank l.sid l.row = l
    rfl
  · show Loc.mk l.byte l.col l.stack l.lpc l.bg l.bank l.sid l.row = l
    rfl

/-- The digits of the location of an offset are those the order splits the offset into: of its two column digits, which share a
field, the lower one is below 4. -/
theorem digits_decodeOffset (b : Build) (o a : Nat) :
    (orderDigits o).map (decodeOffset b o a).dig = splitDigits (orderRadices b o) a := by
  rw [decodeOffset_eq]
  unfold orderRadices
  refine orderDigits_cases (P := fun ds => ds.map (placeDigits ds (splitDigits (ds.map (Dig.radix b)) a)).dig =
    splitDigits (ds.map (Dig.radix b)) a) o ?_ rfl rfl rfl
  obtain ⟨hlo, hhi⟩ := col_of_digits (a / 64 % 4) (a / 64 / 4 / b.nStacks / b.N % 4) (Nat.mod_lt _ (by decide))
  show [a % 64, ((0 / 4 * 4 + a / 64 % 4) % 4 + 4 * (a / 64 / 4 / b.nStacks / b.N % 4)) % 4, _, _,
    ((0 / 4 * 4 + a / 64 % 4) % 4 + 4 * (a / 64 / 4 / b.nStacks / b.N % 4)) / 4, _, _, _, _] = _
  rw [hlo, hhi]
  rfl

/-! ### The map and its inverse -/

theorem encodeOffset_decodeOffset (b : Build) (o a : Nat) : encodeOffset b o (decodeOffset b o a) = a := by
  rw [encodeOffset_eq, digits_decodeOffset]
  exact joinDigits_splitDigits _ a (orderRadices_ne_nil b o)

theorem decodeOffset_encodeOffset (b : Build) (o : Nat) (l : Loc) (h : l.InRange b) : decodeOffset b o (encodeOffset b o l) = l := by
  rw [decodeOffset_eq, encodeOffset_eq, orderRadices, splitDigits_joinDigits _ _ _ fun d _ => h.dig_lt_radix d, placeDigits_dig]

theorem encodeOffset_lt (b : Build) (o : Nat) (l : Loc) (h : l.InRange b) : encodeOffset b o l < b.addrSize := by
  rw [encodeOffset_eq, ← orderRadices_prod b o]
  exact joinDigits_lt_prod _ _ _ fun d _ => h.dig_lt_radix d

/-- The final digit of an offset is below its radix exactly when the offset is below ADDR_SIZE. -/
theorem orderDigits_final_lt_iff (b : Build) (o a : Nat) (hs : 0 < b.nStacks) (hn : 0 < b.N) (hh : 0 < b.H) :
    (splitDigits (orderRadices b o) a).getLastD 0 < (orderRadices b o).getLastD 0 ↔ a < b.addrSize := by
  rw [← orderRadices_prod b o]
  refine splitDigits_final_lt_iff _ a 0 0 (orderRadices_ne_nil b o) fun r hr => ?_
  obtain ⟨d, _, rfl⟩ := List.mem_map.1 hr
  exact d.radix_pos b hs hn hh

/-- Settles O12: the digits of each order as its list of radices splits them, and the map one to one. -/
theorem interleaveOrders : Obligations.InterleaveOrders := by
  unfold Obligations.InterleaveOrders
  intro b hs hspares hheight a
  have hn : 0 < b.N := Nat.sub_pos_of_lt hspares
  have hh : 0 < b.H := Nat.div_pos hheight (by decide)
  have hfinal := fun o => orderDigits_final_lt_iff b o a hs hn hh
  refine ⟨⟨rfl, rfl, rfl, ?_, rfl, rfl, rfl, rfl, hfinal 0⟩, ⟨rfl, rfl, rfl, rfl, rfl, rfl, rfl, rfl, hfinal 1⟩,
    ⟨rfl, rfl, rfl, rfl, rfl, rfl, rfl, rfl, hfinal 2⟩, ⟨rfl, rfl, rfl, rfl, rfl, rfl, rfl, rfl, hfinal 3⟩, fun o _ =>
      ⟨encodeOffset_decodeOffset b o a, fun l hbyte hcol hstack hlpc hbg hbank hsid hrow =>
        have hl : l.InRange b := ⟨hbyte, hcol, hstack, hlpc, hbg, hbank, hsid, hrow⟩
        ⟨decodeOffset_encodeOffset b o l hl, encodeOffset_lt b o l hl⟩⟩⟩
  -- order 0 places the column in two parts, the lower one first
  show (0 / 4 * 4 + a / 64 % 4) % 4 + 4 * (a / 64 / 4 / b.nStacks / b.N % 4) = _
  rw [Nat.zero_div, Nat.zero_mul, Nat.zero_add, Nat.mod_mod]

end Sys2Proof.Machine

/-! PROOFS. The access windows (R113): what the staging registers and the windows read as after each command. -/

namespace Sys2Proof.Machine

/-! ### Windows -/

/-- The windows of the eight stacks are held apart from each other. -/
theorem State.window_setWindow (s : State) (k j : Fin 8) (i n : Fin 128) (w : Window) :
    (s.setWindow k i w).window j n = if (j, n) = (k, i) then w else s.window j n := by
  have hkey : k.val * 128 + i.val = j.val * 128 + n.val ↔ (j, n) = (k, i) := by
    rw [Prod.mk.injEq, Fin.ext_iff, Fin.ext_iff]
    omega
  unfold State.window State.setWindow
  rw [SMap.get_put]
  simp only [hkey]

theorem State.accCommit_locked (s : State) (k i : Nat) (h : s.flag F.glbAccLock_LOCK = true) :
    s.accCommit k i = s.raise (F.accStatus_LOCKED_REFUSED k) := if_pos h

theorem State.accClear_locked (s : State) (k i : Nat) (h : s.flag F.glbAccLock_LOCK = true) :
    s.accClear k i = s.raise (F.accStatus_LOCKED_REFUSED k) := if_pos h

theorem State.accClear_unlocked (s : State) (k i : Nat) (h : s.flag F.glbAccLock_LOCK = false) :
    s.accClear k i = s.setWindow k i Window.init := if_neg (by simp [State.locked, h])

theorem State.accCommit_badRange (s : State) (k i : Nat) (h : s.flag F.glbAccLock_LOCK = false)
    (hv : (s.staged k).valid = true) (hr : (s.staged k).limit < (s.staged k).base) :
    s.accCommit k i = s.raise (F.accStatus_BAD_RANGE k) := by
  simp [State.accCommit, State.locked, h, hv, hr]

theorem State.accCommit_accepted (s : State) (k i : Nat) (h : s.flag F.glbAccLock_LOCK = false)
    (hw : (s.staged k).valid = false ∨ (s.staged k).base ≤ (s.staged k).limit) :
    s.accCommit k i = s.setWindow k i (s.staged k) := by
  have hgood : ¬ ((s.staged k).valid && decide ((s.staged k).limit < (s.staged k).base)) = true := by
    rcases hw with hv | hr
    · simp [hv]
    · simp [Nat.not_lt.2 hr]
  simp [State.accCommit, State.locked, h, hgood]

/-! ### The staging registers -/

theorem Fld.ok_mk {addr hi lo : Nat} (h : lo ≤ hi ∧ hi < 64) : Fld.Ok ⟨addr, hi, lo⟩ := h

/-- The staging registers of a mask. -/
def AMask.stage : AMask → Nat → Nat → Nat
  | .read => A.accStageRead
  | .write => A.accStageWrite
  | .fetch => A.accStageFetch
  | .nmu => A.accStageNmu

/-- The staging registers of the masks follow each other. -/
theorem AMask.stage_eq (c : AMask) (k j : Nat) : c.stage k j = 0x100040 + k * 0x20000 + 0x20 * c.code + 0x8 * j := by
  cases c <;> simp only [AMask.stage, AMask.code, A.accStageRead, A.accStageWrite, A.accStageFetch, A.accStageNmu] <;> omega

theorem AMask.code_injective {c d : AMask} : c.code = d.code → c = d := by
  cases c <;> cases d <;> simp [AMask.code]

theorem AMask.stage_injective {c d : AMask} {k i j : Nat} (hi : i < 4) (hj : j < 4) (h : c.stage k i = d.stage k j) :
    c = d ∧ i = j := by
  rw [AMask.stage_eq, AMask.stage_eq] at h
  exact ⟨AMask.code_injective (by omega), by omega⟩

/-- The staging registers of a window's VALID and range. -/
def extentRegs (k : Nat) : List Nat := [A.accStageBase k, A.accStageLimit k, A.accStageCtl k]

theorem AMask.stage_notMem_extentRegs (c : AMask) (k j : Nat) : c.stage k j ∉ extentRegs k := by
  rw [AMask.stage_eq]
  simp only [extentRegs, A.accStageBase, A.accStageLimit, A.accStageCtl, List.mem_cons, List.not_mem_nil, or_false]
  omega

/-! ### Loading a mask into staging -/

theorem State.putMask_eq (s : State) (a : Nat → Nat → Nat) (k : Nat) (m : BitVec 256) :
    s.putMask a k m = (((s.setReg (a k 0) (m.extractLsb' 0 64)).setReg (a k 1) (m.extractLsb' 64 64)).setReg (a k 2)
      (m.extractLsb' 128 64)).setReg (a k 3) (m.extractLsb' 192 64) := rfl

theorem State.reg_putMask_other (s : State) (a : Nat → Nat → Nat) (k : Nat) (m : BitVec 256) (b : Nat) (h : ∀ j < 4, a k j ≠ b) :
    (s.putMask a k m).reg b = s.reg b := by
  rw [State.putMask_eq]
  simp only [State.reg_setReg, h 0 (by decide), h 1 (by decide), h 2 (by decide), h 3 (by decide), if_false]

/-- A mask is its four words. -/
theorem mask_eq_append (m : BitVec 256) :
    m.extractLsb' 192 64 ++ m.extractLsb' 128 64 ++ m.extractLsb' 64 64 ++ m.extractLsb' 0 64 = m := by
  rw [BitVec.extractLsb'_append_extractLsb'_eq_extractLsb' (by rfl), BitVec.extractLsb'_append_extractLsb'_eq_extractLsb' (by rfl),
    BitVec.extractLsb'_append_extractLsb'_eq_extractLsb' (by rfl), BitVec.extractLsb'_eq_self]

theorem State.stageMask_putMask_same (s : State) (c : AMask) (k : Nat) (m : BitVec 256) :
    (s.putMask c.stage k m).stageMask c.stage k = m := by
  have hreg : ∀ i < 4, ∀ j < 4, (c.stage k i = c.stage k j) = (i = j) := fun i hi j hj =>
    propext ⟨fun h => (AMask.stage_injective hi hj h).2, fun h => h ▸ rfl⟩
  have hwords : ∀ j < 4, (s.putMask c.stage k m).reg (c.stage k j) = m.extractLsb' (64 * j) 64 := fun j hj => by
    rw [State.putMask_eq]
    simp only [State.reg_setReg, hreg, hj, Nat.reduceLT]
    obtain rfl | rfl | rfl | rfl : j = 0 ∨ j = 1 ∨ j = 2 ∨ j = 3 := by omega
    all_goals rfl
  unfold State.stageMask
  rw [hwords 0 (by decide), hwords 1 (by decide), hwords 2 (by decide), hwords 3 (by decide)]
  exact mask_eq_append m

theorem State.stageMask_putMask_other (s : State) (c d : AMask) (k : Nat) (m : BitVec 256) (h : c ≠ d) :
    (s.putMask c.stage k m).stageMask d.stage k = s.stageMask d.stage k := by
  have hreg : ∀ j < 4, (s.putMask c.stage k m).reg (d.stage k j) = s.reg (d.stage k j) := fun j hj =>
    s.reg_putMask_other c.stage k m _ fun i hi he => h (AMask.stage_injective hi hj he).1
  unfold State.stageMask
  rw [hreg 0 (by decide), hreg 1 (by decide), hreg 2 (by decide), hreg 3 (by decide)]

/-- Putting one mask into staging gives that mask and leaves the other three. -/
theorem State.stageMask_putMask (s : State) (c d : AMask) (k : Nat) (m : BitVec 256) :
    (s.putMask c.stage k m).stageMask d.stage k = if c = d then m else s.stageMask d.stage k := by
  split
  case isTrue h => rw [← h, s.stageMask_putMask_same]
  case isFalse h => rw [s.stageMask_putMask_other c d k m h]

/-! ### Loading a window into staging -/

/-- The masks of a window put into staging. -/
def State.stageMasks (s : State) (k : Nat) (w : Window) : State :=
  (((s.putMask AMask.read.stage k w.read).putMask AMask.write.stage k w.write).putMask AMask.fetch.stage k w.fetch).putMask
    AMask.nmu.stage k w.nmu

/-- VALID and the range of a window put into staging. -/
def State.stageExtent (s : State) (k : Nat) (w : Window) : State :=
  ((s.fset (F.accStageCtl_VALID k) (bit w.valid)).fset (F.accStageBase_GRANULE k) w.base).fset (F.accStageLimit_GRANULE k) w.limit

theorem State.accLoad_eq (s : State) (k i : Nat) :
    s.accLoad k i = (s.stageExtent k (s.window k i)).stageMasks k (s.window k i) := rfl

theorem State.stageMask_stageMasks (s : State) (k : Nat) (w : Window) (c : AMask) :
    (s.stageMasks k w).stageMask c.stage k = w.mask c := by
  unfold State.stageMasks
  cases c <;> simp only [State.stageMask_putMask, reduceCtorEq, if_true, if_false] <;> rfl

theorem State.reg_stageMasks_other (s : State) (k : Nat) (w : Window) (a : Nat) (h : ∀ (c : AMask), ∀ j < 4, c.stage k j ≠ a) :
    (s.stageMasks k w).reg a = s.reg a := by
  unfold State.stageMasks
  rw [State.reg_putMask_other _ _ _ _ a (h .nmu), State.reg_putMask_other _ _ _ _ a (h .fetch),
    State.reg_putMask_other _ _ _ _ a (h .write), State.reg_putMask_other _ _ _ _ a (h .read)]

theorem State.fget_stageMasks_extent (s : State) (k : Nat) (w : Window) (f : Fld) (h : f.addr ∈ extentRegs k) :
    (s.stageMasks k w).fget f = s.fget f := by
  unfold State.fget
  rw [s.reg_stageMasks_other k w f.addr fun c j _ he => c.stage_notMem_extentRegs k j (he ▸ h)]

theorem State.reg_fset_other (s : State) (f : Fld) (v a : Nat) (h : f.addr ≠ a) : (s.fset f v).reg a = s.reg a := by
  rw [State.reg_fset, if_neg h]

theorem State.reg_stageExtent_other (s : State) (k : Nat) (w : Window) (a : Nat) (h : a ∉ extentRegs k) :
    (s.stageExtent k w).reg a = s.reg a := by
  simp only [extentRegs, List.mem_cons, List.not_mem_nil, or_false, not_or] at h
  obtain ⟨hbase, hlimit, hctl⟩ := h
  unfold State.stageExtent
  rw [State.reg_fset_other _ _ _ a (Ne.symm hlimit), State.reg_fset_other _ _ _ a (Ne.symm hbase),
    State.reg_fset_other _ _ _ a (Ne.symm hctl)]

theorem accStageCtl_VALID_ok (k : Nat) : (F.accStageCtl_VALID k).Ok := Fld.ok_mk (by decide)
theorem accStageBase_GRANULE_ok (k : Nat) : (F.accStageBase_GRANULE k).Ok := Fld.ok_mk (by decide)
theorem accStageLimit_GRANULE_ok (k : Nat) : (F.accStageLimit_GRANULE k).Ok := Fld.ok_mk (by decide)

theorem accStageBase_apart_limit (k : Nat) : (F.accStageLimit_GRANULE k).Apart (F.accStageBase_GRANULE k) :=
  .inl (show 0x100008 + k * 0x20000 ≠ 0x100000 + k * 0x20000 by omega)
theorem accStageCtl_apart_base (k : Nat) : (F.accStageBase_GRANULE k).Apart (F.accStageCtl_VALID k) :=
  .inl (show 0x100000 + k * 0x20000 ≠ 0x100010 + k * 0x20000 by omega)
theorem accStageCtl_apart_limit (k : Nat) : (F.accStageLimit_GRANULE k).Apart (F.accStageCtl_VALID k) :=
  .inl (show 0x100008 + k * 0x20000 ≠ 0x100010 + k * 0x20000 by omega)

theorem State.flag_stageExtent_valid (s : State) (k : Nat) (w : Window) :
    (s.stageExtent k w).flag (F.accStageCtl_VALID k) = w.valid := by
  unfold State.stageExtent
  rw [State.flag_fset_apart _ _ _ _ (accStageLimit_GRANULE_ok k) (accStageCtl_apart_limit k),
    State.flag_fset_apart _ _ _ _ (accStageBase_GRANULE_ok k) (accStageCtl_apart_base k),
    State.flag_fset_bit _ _ _ (accStageCtl_VALID_ok k) rfl]

theorem State.fget_stageExtent_base (s : State) (k : Nat) (w : Window) (h : w.base < 2 ^ 30) :
    (s.stageExtent k w).fget (F.accStageBase_GRANULE k) = w.base := by
  unfold State.stageExtent
  rw [State.fget_fset_apart _ _ _ _ (accStageLimit_GRANULE_ok k) (accStageBase_apart_limit k),
    State.fget_fset_same _ _ _ (accStageBase_GRANULE_ok k)]
  exact Nat.mod_eq_of_lt h

theorem State.fget_stageExtent_limit (s : State) (k : Nat) (w : Window) (h : w.limit < 2 ^ 30) :
    (s.stageExtent k w).fget (F.accStageLimit_GRANULE k) = w.limit := by
  unfold State.stageExtent
  rw [State.fget_fset_same _ _ _ (accStageLimit_GRANULE_ok k)]
  exact Nat.mod_eq_of_lt h

theorem State.staged_eq (s : State) (k : Nat) :
    s.staged k = ⟨s.flag (F.accStageCtl_VALID k), s.fget (F.accStageBase_GRANULE k), s.fget (F.accStageLimit_GRANULE k),
      s.stageMask AMask.read.stage k, s.stageMask AMask.write.stage k, s.stageMask AMask.fetch.stage k,
      s.stageMask AMask.nmu.stage k⟩ := rfl

/-- OP 2 copies the window whole into staging. -/
theorem State.staged_accLoad (s : State) (k i : Nat) (hbase : (s.window k i).base < 2 ^ 30) (hlimit : (s.window k i).limit < 2 ^ 30) :
    (s.accLoad k i).staged k = s.window k i := by
  have hmask := (s.stageExtent k (s.window k i)).stageMask_stageMasks k (s.window k i)
  have hrange := (s.stageExtent k (s.window k i)).fget_stageMasks_extent k (s.window k i)
  have hvalid : ((s.stageExtent k (s.window k i)).stageMasks k (s.window k i)).flag (F.accStageCtl_VALID k) = (s.window k i).valid := by
    rw [← s.flag_stageExtent_valid k (s.window k i)]
    exact congrArg (· == 1) (hrange _ (by simp [extentRegs, F.accStageCtl_VALID]))
  rw [s.accLoad_eq k i, State.staged_eq, hvalid, hrange _ (by simp [extentRegs, F.accStageBase_GRANULE]),
    hrange _ (by simp [extentRegs, F.accStageLimit_GRANULE]), s.fget_stageExtent_base k _ hbase, s.fget_stageExtent_limit k _ hlimit,
    hmask .read, hmask .write, hmask .fetch, hmask .nmu]
  rfl

theorem State.reg_accLoad_other (s : State) (k i a : Nat) (hrange : a ∉ extentRegs k) (hmask : ∀ (c : AMask), ∀ j < 4, c.stage k j ≠ a) :
    (s.accLoad k i).reg a = s.reg a := by
  rw [s.accLoad_eq k i, State.reg_stageMasks_other _ k _ a hmask, s.reg_stageExtent_other k _ a hrange]

theorem State.regsOnly_trans {s t u : State} (h : t = { s with regs := t.regs }) (h' : u = { t with regs := u.regs }) :
    u = { s with regs := u.regs } := h'.trans (by rw [h])

theorem State.putMask_frame (s : State) (a : Nat → Nat → Nat) (k : Nat) (m : BitVec 256) :
    s.putMask a k m = { s with regs := (s.putMask a k m).regs } := rfl

theorem State.stageExtent_frame (s : State) (k : Nat) (w : Window) :
    s.stageExtent k w = { s with regs := (s.stageExtent k w).regs } := rfl

theorem State.stageMasks_frame (s : State) (k : Nat) (w : Window) : s.stageMasks k w = { s with regs := (s.stageMasks k w).regs } :=
  State.regsOnly_trans (State.regsOnly_trans (State.regsOnly_trans (s.putMask_frame _ k _) (State.putMask_frame _ _ k _))
    (State.putMask_frame _ _ k _)) (State.putMask_frame _ _ k _)

theorem State.accLoad_frame (s : State) (k i : Nat) : s.accLoad k i = { s with regs := (s.accLoad k i).regs } :=
  State.regsOnly_trans (s.stageExtent_frame k (s.window k i)) (State.stageMasks_frame _ k (s.window k i))

/-! ### The commands -/

theorem exec_accCommit_ready (k : Fin 8) (i : Fin 128) (s : State) (h : s.cpReady) (hk : k.val < s.build.nStacks) :
    exec (.accCommit k i) s = .next (s.cpOk.accCommit k i) := s.cpStk_ready k _ (fun u => u.accCommit k i) h hk

theorem exec_accClear_ready (k : Fin 8) (i : Fin 128) (s : State) (h : s.cpReady) (hk : k.val < s.build.nStacks) :
    exec (.accClear k i) s = .next (s.cpOk.accClear k i) := s.cpStk_ready k _ (fun u => u.accClear k i) h hk

theorem exec_accLoad_ready (k : Fin 8) (i : Fin 128) (s : State) (h : s.cpReady) (hk : k.val < s.build.nStacks) :
    exec (.accLoad k i) s = .next (s.cpOk.accLoad k i) := s.cpStk_ready k _ (fun u => u.accLoad k i) h hk

theorem State.sets_raise_alone (s : State) (f : Fld) (h : f.Ok) : s.sets (s.raise f) [(f, 1)] :=
  s.sets_raise s [] f h (by simp) s.sets_nil

/-- Putting a window in force changes that window alone. -/
theorem State.setWindow_spec (s : State) (k : Fin 8) (i : Fin 128) (w : Window) :
    (s.setWindow k i w).window k i = w ∧ s.setWindow k i w = { s with windows := (s.setWindow k i w).windows } ∧
      ∀ j : Fin 8, ∀ n : Fin 128, (j, n) ≠ (k, i) → (s.setWindow k i w).window j n = s.window j n :=
  ⟨(s.window_setWindow k k i i w).trans (if_pos rfl), rfl, fun j n hne => (s.window_setWindow k j i n w).trans (if_neg hne)⟩

/-- Settles O33: each command at a ready port is its operation on the state with CP_ERR low (R113). -/
theorem windowCommands : Obligations.WindowCommands := by
  unfold Obligations.WindowCommands
  intro k i s hready hk
  rw [exec_accCommit_ready k i s hready hk, exec_accClear_ready k i s hready hk, exec_accLoad_ready k i s hready hk]
  have hrefused := s.cpOk.sets_raise_alone (F.accStatus_LOCKED_REFUSED k) (Fld.ok_mk (by decide))
  have hbad := s.cpOk.sets_raise_alone (F.accStatus_BAD_RANGE k) (Fld.ok_mk (by decide))
  refine ⟨fun hlock => ⟨⟨_, rfl, ?_⟩, ⟨_, rfl, ?_⟩⟩, fun hlock => ⟨fun hv hr => ⟨_, rfl, ?_⟩, fun hw => ⟨_, rfl, ?_⟩, ⟨_, rfl, ?_⟩⟩,
    fun hbase hlimit => ⟨_, rfl, s.cpOk.staged_accLoad k i hbase hlimit, s.cpOk.accLoad_frame k i, fun a hrange hmask => ?_⟩⟩
  · rw [s.cpOk.accCommit_locked k i hlock]; exact hrefused
  · rw [s.cpOk.accClear_locked k i hlock]; exact hrefused
  · rw [s.cpOk.accCommit_badRange k i hlock hv hr]; exact hbad
  · rw [s.cpOk.accCommit_accepted k i hlock hw]; exact s.cpOk.setWindow_spec k i _
  · rw [s.cpOk.accClear_unlocked k i hlock]; exact s.cpOk.setWindow_spec k i _
  · refine s.cpOk.reg_accLoad_other k i a hrange fun c j hj he => hmask j hj ?_
    subst he
    cases c <;> simp [AMask.stage]

end Sys2Proof.Machine

/-! PROOFS. Arming a gate list (R153): what the write of CTL leaves alone, when an arm is refused, and the swap time it gives. -/

namespace Sys2Proof.Machine

/-! ### A due swap is taken first (R154) -/

/-- The registers of a swap to the list `l`, taken with C7_GAP at `gap` (R154, R156). -/
def State.swapRegs (s : State) (g : Nat) (l : GateList) (gap : Nat) : State :=
  ((((((((s.fset (F.trfGateStatus_ACTIVE_BANK g) (s.nextBank g)).raise (F.trfGateStatus_ACTIVE_VALID g)).fset
    (F.trfGateStatus_PENDING g) 0).fset (F.trfGateStatus_C7_GAP g) gap).fset (F.trfGateActBase_T g) l.t).fset
    (F.trfGateActCfg_CYCLE g) l.cycle).fset (F.trfGateActCfg_LEN g) l.ents.length).count (F.trfGateSwaps_COUNT g) 1)

/-- No swap of port group `g` is armed any more. -/
def State.disarmed (s : State) (g : Nat) : State := { s with gates := SMap.put s.gates ⟨0, 0, 0⟩ g ⟨0, 0, 0⟩ }

theorem State.flag_disarmed (s : State) (g : Nat) (f : Fld) : (s.disarmed g).flag f = s.flag f := rfl

theorem State.cpReady_disarmed (s : State) (g : Nat) : (s.disarmed g).cpReady ↔ s.cpReady := Iff.rfl

theorem State.disarmed_cpOk (s : State) (g : Nat) : s.cpOk.disarmed g = (s.disarmed g).cpOk := rfl

theorem State.takeSwap_none (s : State) (g : Nat) (h : s.pendingList g = none) : s.takeSwap g = s := by
  unfold State.takeSwap; rw [h]

theorem State.takeSwap_some (s : State) (g : Nat) (l : GateList) (h : s.pendingList g = some l) :
    s.takeSwap g = (s.swapRegs g l (c7Gap (s.activeList g) l)).disarmed g := by
  unfold State.takeSwap; rw [h]; rfl

theorem State.flag_pending_swapRegs (s : State) (g : Nat) (l : GateList) (gap : Nat) :
    (s.swapRegs g l gap).flag (F.trfGateStatus_PENDING g) = false := by
  have hgap : (F.trfGateStatus_C7_GAP g).Apart (F.trfGateStatus_PENDING g) := .inr (.inl (by decide : 2 < 32))
  have hbase : (F.trfGateActBase_T g).Apart (F.trfGateStatus_PENDING g) :=
    .inl (show 0x021020 + g * 0x40 ≠ 0x021008 + g * 0x40 by omega)
  have hcycle : (F.trfGateActCfg_CYCLE g).Apart (F.trfGateStatus_PENDING g) :=
    .inl (show 0x021028 + g * 0x40 ≠ 0x021008 + g * 0x40 by omega)
  have hlen : (F.trfGateActCfg_LEN g).Apart (F.trfGateStatus_PENDING g) :=
    .inl (show 0x021028 + g * 0x40 ≠ 0x021008 + g * 0x40 by omega)
  have hswaps : (F.trfGateSwaps_COUNT g).Apart (F.trfGateStatus_PENDING g) :=
    .inl (show 0x021030 + g * 0x40 ≠ 0x021008 + g * 0x40 by omega)
  unfold State.swapRegs
  rw [State.count_eq, State.flag_fset_apart _ (F.trfGateSwaps_COUNT g) _ _ (Fld.ok_mk (by decide)) hswaps,
    State.flag_fset_apart _ (F.trfGateActCfg_LEN g) _ _ (Fld.ok_mk (by decide)) hlen,
    State.flag_fset_apart _ (F.trfGateActCfg_CYCLE g) _ _ (Fld.ok_mk (by decide)) hcycle,
    State.flag_fset_apart _ (F.trfGateActBase_T g) _ _ (Fld.ok_mk (by decide)) hbase,
    State.flag_fset_apart _ (F.trfGateStatus_C7_GAP g) _ _ (Fld.ok_mk (by decide)) hgap]
  exact State.flag_fset_bit _ (F.trfGateStatus_PENDING g) false (Fld.ok_mk (by decide)) rfl

/-- Once a swap is taken none is pending. -/
theorem State.flag_pending_takeSwap (s : State) (g : Nat) : (s.takeSwap g).flag (F.trfGateStatus_PENDING g) = false := by
  cases hp : s.pendingList g with
  | none =>
    rw [s.takeSwap_none g hp]
    simpa [State.pendingList] using hp
  | some l =>
    rw [s.takeSwap_some g l hp, State.flag_disarmed]
    exact s.flag_pending_swapRegs g l _

/-! These three are equations for `simp` to chain: as definitional ones they would leave the kernel to compare the eight writes of a
swap at once. -/

theorem State.cpReady_fset (s : State) (f : Fld) (v : Nat) : (s.fset f v).cpReady ↔ s.cpReady := ⟨id, id⟩

theorem State.fset_cpOk (s : State) (f : Fld) (v : Nat) : s.cpOk.fset f v = (s.fset f v).cpOk := by cases s; rfl

theorem State.fget_cpOk (s : State) (f : Fld) : s.cpOk.fget f = s.fget f := by cases s; rfl

theorem State.cpReady_takeSwap (s : State) (g : Nat) (h : s.cpReady) : (s.takeSwap g).cpReady := by
  cases hp : s.pendingList g with
  | none => rwa [s.takeSwap_none g hp]
  | some l =>
    rw [s.takeSwap_some g l hp, State.cpReady_disarmed]
    simpa only [State.swapRegs, State.raise_eq, State.count_eq, State.cpReady_fset] using h

theorem State.swapRegs_cpOk (s : State) (g : Nat) (l : GateList) (gap : Nat) :
    s.cpOk.swapRegs g l gap = (s.swapRegs g l gap).cpOk := by
  simp only [State.swapRegs, State.nextBank, State.raise_eq, State.count_eq, State.fset_cpOk, State.fget_cpOk]

/-- The response line has no part in a swap. -/
theorem State.takeSwap_cpOk (s : State) (g : Nat) : s.cpOk.takeSwap g = (s.takeSwap g).cpOk := by
  cases hp : s.pendingList g with
  | none => rw [s.takeSwap_none g hp, s.cpOk.takeSwap_none g hp]
  | some l =>
    have hactive : s.cpOk.activeList g = s.activeList g := rfl
    rw [s.takeSwap_some g l hp, s.cpOk.takeSwap_some g l hp, hactive, s.swapRegs_cpOk, State.disarmed_cpOk]

theorem State.settleSwap_due (s : State) (g : Nat) (hp : s.flag (F.trfGateStatus_PENDING g) = true) (ht : (s.arm g).t ≤ s.cadence) :
    s.settleSwap g = s.takeSwap g := if_pos (by simp [hp, ht])

theorem State.settleSwap_notDue (s : State) (g : Nat)
    (h : ¬ (s.flag (F.trfGateStatus_PENDING g) = true ∧ (s.arm g).t ≤ s.cadence)) : s.settleSwap g = s :=
  if_neg (by simpa using h)

/-- A swap that is due is taken by the write itself, so it makes no difference that it was taken before. -/
theorem State.gateArmWrite_due (s : State) (g : Nat) (en : Bool) (hp : s.flag (F.trfGateStatus_PENDING g) = true)
    (ht : (s.arm g).t ≤ s.cadence) : s.gateArmWrite g en = (s.takeSwap g).gateArmWrite g en := by
  have hsettled : s.settleSwap g = (s.takeSwap g).settleSwap g := by
    rw [s.settleSwap_due g hp ht, State.settleSwap_notDue _ g (by simp [s.flag_pending_takeSwap g])]
  simp only [State.gateArmWrite, hsettled]

/-! ### What the write of CTL.EN leaves alone -/

theorem trfGateCtl_EN_ok (g : Nat) : (F.trfGateCtl_EN g).Ok := Fld.ok_mk (by decide)

theorem trfGateCtl_ne_status (g : Nat) : A.trfGateCtl g ≠ A.trfGateStatus g := by unfold A.trfGateCtl A.trfGateStatus; omega
theorem trfGateCtl_ne_nextBase (g : Nat) : A.trfGateCtl g ≠ A.trfGateNextBase g := by unfold A.trfGateCtl A.trfGateNextBase; omega
theorem trfGateCtl_ne_nextCfg (g : Nat) : A.trfGateCtl g ≠ A.trfGateNextCfg g := by unfold A.trfGateCtl A.trfGateNextCfg; omega

/-- The gate entries lie above the registers of the sixteen port groups. -/
theorem trfGateCtl_ne_ent (g : Fin 16) (i b j : Nat) : A.trfGateCtl g ≠ A.trfGateEnt i b j := by
  unfold A.trfGateCtl A.trfGateEnt; omega

theorem State.fget_fset_gateEn (s : State) (g v : Nat) (f : Fld) (h : A.trfGateCtl g ≠ f.addr) :
    (s.fset (F.trfGateCtl_EN g) v).fget f = s.fget f := State.fget_fset_apart s _ f v (trfGateCtl_EN_ok g) (.inl h)

theorem State.nextBank_fset_gateEn (s : State) (g v : Nat) : (s.fset (F.trfGateCtl_EN g) v).nextBank g = s.nextBank g :=
  congrArg (1 - ·) (s.fget_fset_gateEn g v (F.trfGateStatus_ACTIVE_BANK g) (trfGateCtl_ne_status g))

theorem State.gateEnt_fset_gateEn (s : State) (g : Fin 16) (v b j : Nat) :
    (s.fset (F.trfGateCtl_EN g) v).gateEnt g b j = s.gateEnt g b j := by
  have hent : ∀ f : Fld, f.addr = A.trfGateEnt g b (j / 2) → (s.fset (F.trfGateCtl_EN g) v).fget f = s.fget f := fun f hf =>
    s.fget_fset_gateEn g v f (hf ▸ trfGateCtl_ne_ent g g b (j / 2))
  unfold State.gateEnt
  rw [hent (F.trfGateEnt_MASK_LO g b (j / 2)) rfl, hent (F.trfGateEnt_DUR_LO g b (j / 2)) rfl,
    hent (F.trfGateEnt_MASK_HI g b (j / 2)) rfl, hent (F.trfGateEnt_DUR_HI g b (j / 2)) rfl]

/-- With no swap due, the arm is decided by the registers as they stood before the write. -/
theorem State.gateArmWrite_notDue (s : State) (g : Nat) (en : Bool)
    (h : ¬ (s.flag (F.trfGateStatus_PENDING g) = true ∧ (s.arm g).t ≤ s.cadence)) :
    s.gateArmWrite g en = (s.fset (F.trfGateCtl_EN g) (bit en)).gateArm g (s.fget (F.trfGateNextBase_BASE g))
      (s.fget (F.trfGateNextCfg_CYCLE g)) (s.fget (F.trfGateNextCfg_LEN g)) := by
  unfold State.gateArmWrite
  rw [s.settleSwap_notDue g h]
  simp only [s.fget_fset_gateEn g (bit en) (F.trfGateNextBase_BASE g) (trfGateCtl_ne_nextBase g),
    s.fget_fset_gateEn g (bit en) (F.trfGateNextCfg_CYCLE g) (trfGateCtl_ne_nextCfg g),
    s.fget_fset_gateEn g (bit en) (F.trfGateNextCfg_LEN g) (trfGateCtl_ne_nextCfg g)]

/-! ### The outcome of an arm (R153) -/

/-- The cases in which R153 refuses an arm. -/
def State.ArmBad (s : State) (g cycle len : Nat) : Prop :=
  cycle = 0 ∨ len = 0 ∨ 256 < len ∨ (∀ j < len, (s.gateEnt g (s.nextBank g) j).2 = 0) ∨
    s.flag (F.trfGateStatus_PENDING g) = true

theorem State.armBad_fset_gateEn (s : State) (g : Fin 16) (v cycle len : Nat) :
    (s.fset (F.trfGateCtl_EN g) v).ArmBad g cycle len ↔ s.ArmBad g cycle len := by
  have hpend : (s.fset (F.trfGateCtl_EN g) v).flag (F.trfGateStatus_PENDING g) = s.flag (F.trfGateStatus_PENDING g) :=
    State.flag_fset_apart s _ _ v (trfGateCtl_EN_ok g) (.inl (trfGateCtl_ne_status g))
  simp only [State.ArmBad, State.nextBank_fset_gateEn, State.gateEnt_fset_gateEn, hpend]

theorem State.armOut_bad (s : State) (g base cycle len : Nat) (h : s.ArmBad g cycle len) :
    s.armOut g base cycle len = .refused := by
  refine if_pos ?_
  simpa [State.ArmBad, State.gateEnts, or_assoc] using h

theorem State.armOut_good (s : State) (g base cycle len : Nat) (h : ¬ s.ArmBad g cycle len) :
    s.armOut g base cycle len = if s.cadence ≤ base then .armed base false
      else .armed (base + ceilDiv (s.cadence - base) cycle * cycle) true := by
  refine if_neg ?_
  simpa [State.ArmBad, State.gateEnts, or_assoc] using h

/-- The swap of port group `g` armed with the list `l`. -/
def State.armed (s : State) (g : Nat) (l : GateArm) : State :=
  { s.raise (F.trfGateStatus_PENDING g) with gates := SMap.put s.gates ⟨0, 0, 0⟩ g l }

theorem State.gateArm_bad (s : State) (g base cycle len : Nat) (h : s.ArmBad g cycle len) :
    s.gateArm g base cycle len = s.raise (F.trfGateStatus_ARM_REFUSED g) := by
  simp only [State.gateArm, s.armOut_bad g base cycle len h]

theorem State.gateArm_ahead (s : State) (g base cycle len : Nat) (h : ¬ s.ArmBad g cycle len) (hb : s.cadence ≤ base) :
    s.gateArm g base cycle len = s.armed g ⟨base, cycle, len⟩ := by
  simp only [State.gateArm, s.armOut_good g base cycle len h, if_pos hb]
  rfl

theorem State.gateArm_passed (s : State) (g base cycle len t : Nat) (h : ¬ s.ArmBad g cycle len) (hb : base < s.cadence)
    (ht : t = base + ceilDiv (s.cadence - base) cycle * cycle) :
    s.gateArm g base cycle len = ((s.raise (F.trfGateStatus_BASE_ADVANCED g)).post 0x040A g (g + s.nextBank g * 2 ^ 4) t).armed g
      ⟨t, cycle, len⟩ := by
  simp only [State.gateArm, s.armOut_good g base cycle len h, if_neg (Nat.not_le.2 hb), ← ht, if_true]
  rfl

/-- Advancing by whole cycles reaches the distance, and not a whole cycle more. -/
theorem ceilDiv_mul_bounds (a b : Nat) (hb : 0 < b) : a ≤ ceilDiv a b * b ∧ ceilDiv a b * b < a + b := by
  have hdiv := Nat.div_add_mod' (a + b - 1) b
  have hmod := Nat.mod_lt (a + b - 1) hb
  unfold ceilDiv
  omega

/-! ### The registers after an arm -/

theorem trfGateStatus_ne_evStatus {g : Nat} {f : Fld} (hf : f.addr = A.trfGateStatus g) : f.addr ≠ A.glbEvStatus := by
  rw [hf]; unfold A.trfGateStatus A.glbEvStatus; omega
theorem trfGateCtl_ne_evStatus (g : Nat) : (F.trfGateCtl_EN g).addr ≠ A.glbEvStatus :=
  show 0x021000 + g * 0x40 ≠ 0x000320 by omega

theorem State.arm_armed (s : State) (g : Nat) (l : GateArm) : (s.armed g l).arm g = l := SMap.get_put_same _ _ _ _

/-- Arming sets PENDING; the armed lists are no register. -/
theorem State.sets_armed (s u : State) (g : Nat) (x : GateArm) (l : List (Fld × Nat))
    (ha : ∀ e ∈ l, (F.trfGateStatus_PENDING g).Apart e.1) (h : s.sets u l) :
    ({ s with gates := (u.armed g x).gates } : State).sets (u.armed g x) ((F.trfGateStatus_PENDING g, 1) :: l) := by
  have hraised := s.sets_raise u l (F.trfGateStatus_PENDING g) (Fld.ok_mk (by decide)) ha h
  refine State.sets_congr _ _ _ _ _ hraised rfl ?_
  rw [State.armed, hraised.1]

theorem State.sets_gateEn (s : State) (g : Nat) (en : Bool) :
    s.sets (s.fset (F.trfGateCtl_EN g) (bit en)) [(F.trfGateCtl_EN g, bit en)] :=
  s.sets_bit s [] _ en (trfGateCtl_EN_ok g) (by simp) s.sets_nil

theorem trfGateStatus_apart_gateEn {g : Nat} {f : Fld} (hf : f.addr = A.trfGateStatus g) : f.Apart (F.trfGateCtl_EN g) :=
  .inl (hf ▸ (trfGateCtl_ne_status g).symm)

theorem exec_gateArm_ready (g : Fin 16) (en : Bool) (s : State) (h : s.cpReady) :
    exec (.gateArm g en) s = .next (s.cpOk.gateArmWrite g en) := s.cpDo_ready _ (fun u => u.gateArmWrite g en) h

/-- GATE_ARM takes a swap that is due first (R154). -/
theorem exec_gateArm_due (g : Fin 16) (en : Bool) (s : State) (hready : s.cpReady)
    (hp : s.flag (F.trfGateStatus_PENDING g) = true) (ht : (s.arm g).t ≤ s.cadence) :
    exec (.gateArm g en) s = exec (.gateArm g en) (s.takeSwap g) := by
  rw [exec_gateArm_ready g en s hready, exec_gateArm_ready g en _ (s.cpReady_takeSwap g hready),
    s.cpOk.gateArmWrite_due g en hp ht, s.takeSwap_cpOk g]

/-- Settles O18: a due swap is taken by the command itself; else the command is the arm of R153 on the state with EN written, and
EN decides nothing of it. -/
theorem gateArmed : Obligations.GateArmed := by
  unfold Obligations.GateArmed
  intro g en s hready
  refine ⟨exec_gateArm_due g en s hready, fun hnot => ?_⟩
  intro base cycle len bank bad
  have hexec : exec (.gateArm g en) s = .next ((s.cpOk.fset (F.trfGateCtl_EN g) (bit en)).gateArm g base cycle len) := by
    rw [exec_gateArm_ready g en s hready, s.cpOk.gateArmWrite_notDue g en hnot]
    rfl
  have hbad : (s.cpOk.fset (F.trfGateCtl_EN g) (bit en)).ArmBad g cycle len ↔ bad := s.cpOk.armBad_fset_gateEn g _ cycle len
  have hen := s.cpOk.sets_gateEn g en
  refine ⟨fun h => ⟨_, hexec, ?_⟩, fun h hahead => ⟨_, hexec, ?_⟩, fun h hpassed => ?_⟩
  · rw [State.gateArm_bad _ g base cycle len (hbad.2 h)]
    exact s.cpOk.sets_raise _ _ (F.trfGateStatus_ARM_REFUSED g) (Fld.ok_mk (by decide))
      (by simpa using trfGateStatus_apart_gateEn rfl) hen
  · rw [State.gateArm_ahead _ g base cycle len (mt hbad.1 h) hahead]
    exact ⟨State.arm_armed _ g _, s.cpOk.sets_armed _ g _ _ (by simpa using trfGateStatus_apart_gateEn rfl) hen⟩
  · have hcycle : 0 < cycle := Nat.pos_of_ne_zero fun h0 => h (.inl h0)
    obtain ⟨hreach, hleast⟩ := ceilDiv_mul_bounds (s.cadence - base) cycle hcycle
    refine ⟨_, ceilDiv (s.cadence - base) cycle, hexec, ?_⟩
    rw [State.gateArm_passed _ g base cycle len _ (mt hbad.1 h) hpassed rfl]
    refine ⟨State.arm_armed _ g _, by omega, by omega, ?_⟩
    have hadvanced := s.cpOk.sets_raise _ _ (F.trfGateStatus_BASE_ADVANCED g) (Fld.ok_mk (by decide))
      (by simpa using trfGateStatus_apart_gateEn rfl) hen
    have hposted := State.sets_post _ _ _ 0x040A g (g + bank * 2 ^ 4) (base + ceilDiv (s.cadence - base) cycle * cycle)
      (by simpa using ⟨trfGateStatus_ne_evStatus (g := g) rfl, trfGateCtl_ne_evStatus g⟩) hadvanced
    have hbank : (s.cpOk.fset (F.trfGateCtl_EN g) (bit en)).nextBank g = bank := s.cpOk.nextBank_fset_gateEn g _
    rw [hbank]
    refine State.sets_armed _ _ g _ _ ?_ hposted
    simpa using ⟨.inr (.inr (by decide : 2 < 3)), trfGateStatus_apart_gateEn rfl⟩

end Sys2Proof.Machine

/-! PROOFS. What every step keeps, what the reset leaves, and the commands that the control port turns away. -/

namespace Sys2Proof.Machine

/-! ### One step and the empty queue -/

/-- Settles O1: the definition of a step at a non-empty queue. -/
theorem stepRunsFrontCommand : Obligations.StepRunsFrontCommand := by
  unfold Obligations.StepRunsFrontCommand
  intro c l s hqueue
  unfold step
  rw [hqueue]

theorem step_idle (s : State) (hqueue : s.pending = []) (hport : s.cpWaiting = []) : step s = .next s.tick := by
  unfold step State.idle
  rw [hqueue, hport]

theorem State.tick_unlocked (s : State) (h : s.flag F.glbCadStatus_LOCKED = false) : s.tick = s := by
  simp [State.tick, h]

theorem State.tick_running (s : State) (hlock : s.flag F.glbCadStatus_LOCKED = true)
    (hpause : s.flag F.glbCadStatus_PAUSING = false) : s.tick = { s with cadence := s.cadence + 1 } := by
  simp [State.tick, hlock, hpause]

theorem State.tick_pausing (s : State) (hlock : s.flag F.glbCadStatus_LOCKED = true)
    (hpause : s.flag F.glbCadStatus_PAUSING = true) :
    s.tick = if s.pauseLeft ≤ 1 then s.pauseEnd else { s with pauseLeft := s.pauseLeft - 1 } := by
  simp [State.tick, hlock, hpause]

/-- The end of a pause clears PAUSING (R40). -/
theorem State.sets_pauseEnd (s : State) :
    ({ s with pauseLeft := 0 } : State).sets s.pauseEnd [(F.glbCadStatus_PAUSING, 0)] := by
  have hcleared := s.sets_fset s [] F.glbCadStatus_PAUSING 0 0 (by decide) rfl (by simp) s.sets_nil
  exact State.sets_congr _ _ _ _ _ hcleared rfl rfl

/-- Settles O2: with nothing waiting a step is a tick, by the cases of the tick. -/
theorem emptyQueueTicks : Obligations.EmptyQueueTicks := by
  unfold Obligations.EmptyQueueTicks
  intro s hqueue hport
  rw [step_idle s hqueue hport]
  refine ⟨fun hlock => ?_, fun hlock hpause => ?_, fun hlock hpause hleft => ?_, fun hlock hpause hleft => ⟨_, rfl, ?_⟩⟩
  · rw [s.tick_unlocked hlock]
  · rw [s.tick_running hlock hpause]
  · rw [s.tick_pausing hlock hpause, if_neg (Nat.not_le.2 hleft)]
  · rw [s.tick_pausing hlock hpause, if_pos hleft]
    exact s.sets_pauseEnd

/-! ### What every step keeps -/

/-- Settles O3: every command keeps the queue (`keeps_exec`). -/
theorem execLeavesQueue : Obligations.ExecLeavesQueue := by
  unfold Obligations.ExecLeavesQueue
  intro c s t hexec
  exact ((keeps_exec c State.Keeps.refl).all t hexec).pending

/-- A step keeps the form: with a command queued it is that command on the rest of the queue, which the form does not speak of. -/
theorem State.Formed.step {s t : State} (hs : s.Formed) (h : step s = .next t) : t.Formed := by
  unfold Machine.step at h
  split at h
  next => exact ((State.keeps_idle' State.Keeps.refl).all t h).formed hs
  next c rest _ =>
    have hrest : ({ s with pending := rest } : State).Formed := ⟨hs.regs, hs.cells, hs.events⟩
    exact ((keeps_exec c State.Keeps.refl).all t h).formed hrest

/-- Settles O4. -/
theorem stepKeepsForm : Obligations.StepKeepsForm := by
  unfold Obligations.StepKeepsForm
  exact fun s t hs h => hs.step h

/-! ### The reset state -/

/-- Each key lies below the next. -/
def SMap.stepsUp {α : Type} : SMap α → Bool
  | a :: b :: l => decide (a.1 < b.1) && SMap.stepsUp (b :: l)
  | _ => true

theorem SMap.rising_of_stepsUp {α : Type} (m : SMap α) (h : SMap.stepsUp m = true) : SMap.Rising m := by
  induction m with
  | nil => exact .nil
  | cons a l ih =>
    cases l with
    | nil => exact List.pairwise_singleton _ _
    | cons b l =>
      obtain ⟨hab, hl⟩ := Bool.and_eq_true_iff.1 h
      have hrest := ih hl
      refine List.pairwise_cons.2 ⟨fun x hx => ?_, hrest⟩
      rcases List.mem_cons.1 hx with rfl | hx
      · exact of_decide_eq_true hab
      · exact Nat.lt_trans (of_decide_eq_true hab) ((List.pairwise_cons.1 hrest).1 x hx)

theorem regsReset_rising : SMap.Rising regsReset := SMap.rising_of_stepsUp regsReset (by decide +kernel)

theorem regsReset_ne_reset : ∀ e ∈ regsReset, e.2 ≠ RegFile.reset e.1 := by decide +kernel

/-- Settles O5. -/
theorem resetHasForm : Obligations.ResetHasForm := by
  unfold Obligations.ResetHasForm
  exact ⟨⟨regsReset_rising, regsReset_ne_reset⟩, Memory.wf_empty rfl, by decide⟩

theorem State.reset_window (k w : Nat) : State.reset.window k w = Window.init := rfl

/-- With every window invalid no window decides an address (R108). -/
theorem State.reset_deciding (k a : Nat) : State.reset.deciding k a = none := by
  simp [State.deciding, State.reset_window, Window.init]

theorem State.reset_access (k a g : Nat) : State.reset.access k a g [.read] ≠ none := by
  simp [State.access, State.reset_deciding]

theorem State.reset_ready : State.reset.flag F.glbResetStatus_READY = true := by decide +kernel

theorem State.reset_port_disabled : ∀ n : Fin 113, State.reset.flag (F.glbPortCfg_EN n.val) = false := by decide +kernel

/-- Settles O6: every map that holds a unit's state is empty. -/
theorem resetLeaves : Obligations.ResetLeaves := by
  unfold Obligations.ResetLeaves
  exact ⟨rfl, rfl, State.reset_ready, rfl, rfl, fun n => ⟨State.reset_port_disabled n, rfl⟩, fun _ => rfl, fun _ => rfl,
    fun _ => rfl, State.reset_access, fun _ _ => ⟨rfl, rfl⟩, rfl, rfl, rfl⟩

/-! ### Commands answer -/

/-- Settles O7: most commands are `.next` of an operation as they stand; the others are so in each branch of what they wait for. -/
theorem everyCommandAnswers : Obligations.EveryCommandAnswers := by
  unfold Obligations.EveryCommandAnswers
  intro c s hack
  cases c
  case responseFlitAck n => exact absurd rfl (hack n)
  case bridgeForwardTimeout | capoDrainSlow | creditReturn | fenceComplete | gateSwapTake | hazardClear | heldHeaderAccepted |
      holdTimeout | missHoldRelease | pageTimerExpiry | quotaWindowStart | redHeadReeval | replayError | responseStall |
      retiredLossAnswer | retirementStart | sanitiseDone | sortGroupRelease | streamSample | writeModeAge | zmapClearDone |
      jointTimeout | tallyPeriodic =>
    simp only [completes, exec, execBridgeForwardTimeout, execCapoDrainSlow, execCreditReturn, execFenceComplete,
      execGateSwapTake, execHazardClear, execHeldHeaderAccepted, execHoldTimeout, execMissHoldRelease, execPageTimerExpiry,
      execQuotaWindowStart, execRedHeadReeval, execReplayError, execResponseStall, execRetiredLossAnswer, execRetirementStart,
      execSanitiseDone, execSortGroupRelease, execStreamSample, execWriteModeAge, execZmapClearDone, execJointTimeout,
      execTallyPeriodic]
    repeat' split
    all_goals exact ⟨_, rfl⟩
  all_goals exact ⟨_, rfl⟩

/-! ### The control port -/

/-- A control-port command at a port that is not ready joins the commands that wait (R88, R141, R373). -/
theorem State.cpDo_notReady (s : State) (c : Instr) (f : State → State) (h : ¬ s.cpReady) :
    s.cpDo c f = .next { s with cpWaiting := s.cpWaiting ++ [c] } := by
  unfold State.cpDo
  rw [if_neg]
  simpa [State.cpReady, and_assoc] using h

/-- A control-port command for a stack that is not built does nothing (R13). -/
theorem State.cpStk_unbuilt (s : State) (k : Fin 8) (c : Instr) (f : State → State) (h : s.cpReady) (hk : s.build.nStacks ≤ k.val) :
    s.cpStk k c f = .next s.cpOk := by
  unfold State.cpStk
  rw [s.cpDo_ready _ _ h, if_neg (Nat.not_lt.2 hk : ¬ k.val < s.cpOk.build.nStacks)]

theorem exec_atControlPort_waits (c : Instr) (s : State) (hc : c.atControlPort = true) (h : ¬ s.cpReady) :
    exec c s = .next { s with cpWaiting := s.cpWaiting ++ [c] } := by
  cases c <;> cases hc
  all_goals
    unfold exec
    exact s.cpDo_notReady _ _ h

theorem exec_stack_unbuilt (c : Instr) (s : State) (k : Nat) (hc : c.stackOf? = some k) (hk : s.build.nStacks ≤ k) (h : s.cpReady) :
    exec c s = .next s.cpOk := by
  cases c <;> cases hc
  all_goals
    unfold exec
    exact s.cpStk_unbuilt _ _ _ h hk

/-- Settles O8: every control-port command is a `cpDo`, every one for a stack a `cpStk`. -/
theorem portTurnsAway : Obligations.PortTurnsAway := by
  unfold Obligations.PortTurnsAway
  exact ⟨exec_atControlPort_waits, exec_stack_unbuilt⟩

/-! ### Events and cells -/

theorem State.sets_countSat (s t : State) (l : List (Fld × Nat)) (f : Fld) (hf : f.Ok) (ha : ∀ e ∈ l, f.Apart e.1)
    (h : s.sets t l) : s.sets (t.countSat f 1) ((f, t.topped f 1) :: l) := by
  have hle : min (2 ^ (f.hi + 1 - f.lo) - 1) (t.fget f + 1) < 2 ^ (f.hi + 1 - f.lo) :=
    Nat.lt_of_le_of_lt (Nat.min_le_left _ _) (Nat.sub_lt (Nat.two_pow_pos _) Nat.one_pos)
  exact s.sets_fset t l f _ _ hf (Nat.mod_eq_of_lt hle) ha h

/-- Settles O11: the two branches of `State.post`. -/
theorem eventQueued : Obligations.EventQueued := by
  unfold Obligations.EventQueued
  intro s code unit a0 a1
  refine ⟨fun hroom => if_pos hroom, fun hfull => ⟨s.dropCount + 1, _, ?_, rfl, rfl⟩⟩
  have hpost : s.post code unit a0 a1 = _ := if_neg (by omega)
  rw [hpost]
  exact State.sets_congr _ _ _ _ _ (s.sets_countSat s [] F.glbEvStatus_DROPPED (by decide) (by simp) s.sets_nil) rfl rfl

/-- Settles O13: cells are kept under distinct numbers. -/
theorem cellsReadAsWritten : Obligations.CellsReadAsWritten := by
  unfold Obligations.CellsReadAsWritten
  intro s k p k' p' i j m n w _ hp _ hp' hi hj
  refine ⟨s.cell_setCell_same k p m i w, fun hne => s.cell_setCell_other k p m i w k' p' n j fun hkey => hne ?_⟩
  obtain ⟨rfl, rfl, rfl, rfl⟩ := cellKey_inj hp hp' hi hj hkey
  rfl

end Sys2Proof.Machine

/-! PROOFS. Writes of several register fields in a row, and reads and writes by access code (Table 0.9). -/

namespace Sys2Proof.Machine

/-! ### Several fields written in a row -/

/-- The fields of `l` written, the last of the list first. -/
def State.puts (s : State) : List (Fld × Nat) → State
  | [] => s
  | e :: l => (s.puts l).fset e.1 e.2

@[simp] theorem State.puts_nil (s : State) : s.puts [] = s := rfl
@[simp] theorem State.puts_cons (s : State) (e : Fld × Nat) (l : List (Fld × Nat)) : s.puts (e :: l) = (s.puts l).fset e.1 e.2 := rfl

/-- The values of a list of fields fit the fields. -/
abbrev Fld.Fits (e : Fld × Nat) : Prop := e.1.Ok ∧ e.2 < 2 ^ (e.1.hi + 1 - e.1.lo)

/-- Fields that share no bit, written in any order, hold what was written. -/
theorem State.sets_puts_on (s t : State) (l m : List (Fld × Nat)) (hfit : ∀ e ∈ l, Fld.Fits e)
    (hap : (l ++ m).Pairwise fun e f => e.1.Apart f.1) (h : s.sets t m) : s.sets (t.puts l) (l ++ m) := by
  induction l with
  | nil => exact h
  | cons e l ih =>
    obtain ⟨hhead, htail⟩ := List.pairwise_cons.1 hap
    obtain ⟨hok, hlt⟩ := hfit e List.mem_cons_self
    exact s.sets_fset _ _ e.1 e.2 e.2 hok (Nat.mod_eq_of_lt hlt) hhead
      (ih (fun f hf => hfit f (List.mem_cons_of_mem e hf)) htail)

theorem State.sets_puts (s : State) (l : List (Fld × Nat)) (hfit : ∀ e ∈ l, Fld.Fits e)
    (hap : l.Pairwise fun e f => e.1.Apart f.1) : s.sets (s.puts l) l := by
  have h := s.sets_puts_on s l [] hfit (by rwa [List.append_nil]) s.sets_nil
  rwa [List.append_nil] at h

/-- The fields written may be named in any order. -/
theorem State.sets_puts_perm (s : State) (l m : List (Fld × Nat)) (hfit : ∀ e ∈ l, Fld.Fits e)
    (hap : l.Pairwise fun e f => e.1.Apart f.1) (hp : ∀ e, e ∈ l ↔ e ∈ m) : s.sets (s.puts l) m :=
  State.sets_perm _ _ _ _ hp (s.sets_puts l hfit hap)

theorem bit_lt (b : Bool) : bit b < 2 := by cases b <;> decide

theorem bitsOf_fits (w hi lo : Nat) : bitsOf w hi lo < 2 ^ (hi + 1 - lo) := bitsOf_lt w hi lo

/-! ### Reads and writes by access code -/

theorem State.readClear_found (s : State) (a : Nat) (r : RegDef) (hp : s.present a = true) (hr : RegFile.find a = some r) :
    s.readClear a = if r.rc = 0 then s
      else s.setReg a ((s.reg a &&& ~~~(BitVec.ofNat 64 r.rc)) ||| (RegFile.reset a &&& BitVec.ofNat 64 r.rc)) := by
  simp [State.readClear, hp, hr]

theorem State.rcRead_aligned (s : State) (a : Nat) (hal : a % 8 = 0) :
    s.rcRead a = { s.readClear a with cpRData := s.regRead a } := if_neg (by simp [hal])

theorem State.readClear_frame (s : State) (a : Nat) : s.readClear a = { s with regs := (s.readClear a).regs } := by
  unfold State.readClear
  repeat' split
  all_goals rfl

theorem State.reg_readClear_other (s : State) (a b : Nat) (h : b ≠ a) : (s.readClear a).reg b = s.reg b := by
  unfold State.readClear
  repeat' split
  all_goals simp [State.reg_setReg, h.symm]

theorem State.reg_readClear_kept (s : State) (a : Nat) (r : RegDef) (hp : s.present a = true) (hr : RegFile.find a = some r) :
    (s.readClear a).reg a &&& ~~~(BitVec.ofNat 64 r.rc) = s.reg a &&& ~~~(BitVec.ofNat 64 r.rc) := by
  rw [s.readClear_found a r hp hr]
  split
  · rfl
  · rw [State.reg_setReg_same]
    ext i
    cases h : (BitVec.ofNat 64 r.rc)[i] <;> simp [h]

theorem State.reg_readClear_cleared (s : State) (a : Nat) (r : RegDef) (hp : s.present a = true) (hr : RegFile.find a = some r) :
    (s.readClear a).reg a &&& BitVec.ofNat 64 r.rc = RegFile.reset a &&& BitVec.ofNat 64 r.rc := by
  rw [s.readClear_found a r hp hr]
  split
  case isTrue h0 => simp [h0]
  case isFalse =>
    rw [State.reg_setReg_same]
    ext i
    cases h : (BitVec.ofNat 64 r.rc)[i] <;> simp [h]

/-- Each bit of a word written follows its access code (Table 0.9). -/
theorem RegDef.getLsbD_written (r : RegDef) (lock : Bool) (old w : Word) (i : Nat) :
    (r.written lock old w).getLsbD i =
      if r.w1s.testBit i && w.getLsbD i then true
      else if r.w1c.testBit i && w.getLsbD i then false
      else if r.rw.testBit i || (r.rwl.testBit i && !lock) then w.getLsbD i
      else old.getLsbD i := by
  by_cases hi : i < 64
  · have hmask : (BitVec.ofNat 64 (r.rw ||| if lock then 0 else r.rwl)).getLsbD i = (r.rw.testBit i || (r.rwl.testBit i && !lock)) := by
      cases lock <;> simp only [BitVec.getLsbD_ofNat, hi, decide_true, Bool.true_and, Nat.testBit_or, Bool.not_true, Bool.not_false,
        if_true, Bool.false_eq_true, if_false, Nat.zero_testBit, Bool.and_true, Bool.and_false]
    simp only [RegDef.written, BitVec.getLsbD_or, BitVec.getLsbD_and, BitVec.getLsbD_not, hmask, BitVec.getLsbD_ofNat, hi,
      decide_true, Bool.true_and]
    cases w.getLsbD i <;> cases r.w1s.testBit i <;> cases r.w1c.testBit i <;>
      cases (r.rw.testBit i || (r.rwl.testBit i && !lock)) <;> simp
  · simp [BitVec.getLsbD_of_ge _ _ (Nat.le_of_not_lt hi)]

theorem State.plainWrite_found (s : State) (a : Nat) (w : Word) (r : RegDef) (hr : RegFile.find a = some r) :
    s.plainWrite a w = s.setReg a (r.written s.locked (s.reg a) w) := by
  unfold State.plainWrite; rw [hr]

theorem State.actWrite_plain (s : State) (a : Nat) (w : Word) (l : List RegAct) (h : ∀ x ∈ l, regIndices x.base x.dims a = none) :
    s.actWrite a w l = s.plainWrite a w := by
  induction l with
  | nil => rfl
  | cons x l ih =>
    unfold State.actWrite
    rw [h x List.mem_cons_self]
    exact ih fun y hy => h y (List.mem_cons_of_mem x hy)

/-- A register that no act names is written by its access codes. -/
theorem State.cpWrite_plain (s : State) (c : Instr) (a : Nat) (w : Word) (hal : a % 8 = 0) (hp : s.present a = true)
    (hbell : a ≠ A.seqDoorbell) (hact : ∀ x ∈ dieActs ++ stackActs, regIndices x.base x.dims a = none) :
    s.cpWrite c a w = s.plainWrite a w := by
  unfold State.cpWrite State.regWrite
  rw [if_neg (fun hmis => hmis hal), if_neg hbell, hp, Bool.not_true, if_neg Bool.false_ne_true]
  refine s.actWrite_plain a w _ fun x hx => hact x (List.mem_append.2 ?_)
  split at hx
  · exact .inl hx
  · exact .inr hx

/-- Settles O10: the read clears by `State.readClear`, the write follows `RegDef.written` bit by bit. -/
theorem registerAccessCodes : Obligations.RegisterAccessCodes := by
  unfold Obligations.RegisterAccessCodes
  refine ⟨fun a s r hready hal hp hr => ⟨_, exec_rcRegisterRead_ready a s hready, ?_⟩,
    fun a w s r i hready hal hp hr hbell hact => ⟨_, exec_registerWrite_ready a w s hready, ?_⟩⟩
  · rw [State.rcRead_aligned _ _ hal]
    refine ⟨s.regRead_cpOk a.toNat, ?_, fun b hb => s.cpOk.reg_readClear_other a.toNat b hb,
      s.cpOk.reg_readClear_kept a.toNat r hp hr, s.cpOk.reg_readClear_cleared a.toNat r hp hr⟩
    rw [s.cpOk.readClear_frame a.toNat]
    rfl
  · rw [s.cpOk.cpWrite_plain _ _ w hal hp hbell hact, s.cpOk.plainWrite_found _ w r hr]
    refine ⟨rfl, fun b hb => ?_, ?_⟩
    · rw [State.reg_setReg, if_neg hb.symm]
      rfl
    · rw [State.reg_setReg_same]
      exact r.getLsbD_written _ _ w i

end Sys2Proof.Machine

/-! PROOFS. The headroom monitor (R31, R32) and the SYNC alignment (R39 to R45). -/

namespace Sys2Proof.Machine

/-! ### The headroom sample -/

theorem execHeadroomSample_due (speed : BitVec 16) (area : BitVec 8) (s : State) (hup : s.cpUp = true)
    (hdue : s.headroom.sampled < s.cadence / 1024) :
    exec (.headroomSample speed area) s = .next
      (({ s with headroom := { s.headroom with sampled := s.cadence / 1024 } } : State).headroomSample speed.toNat area.toNat) := by
  simp [exec, execHeadroomSample, State.sampleMoment, hup, hdue]

/-- The fields that a sample writes, the last one first. -/
def State.sampleFields (s : State) (speed area : Nat) (short : Bool) : List (Fld × Nat) :=
  [(F.glbHeadroomMin_SPEED_MIN, min speed (s.fget F.glbHeadroomMin_SPEED_MIN)), (F.glbHeadroom_SHORT, bit short),
   (F.glbHeadroom_MIN_AREA, area), (F.glbHeadroom_SPEED, speed)]

/-- SHORT as a sample leaves it (R31). -/
def State.shortAfter (s : State) (speed : Nat) : Bool :=
  shortNow (s.flag F.glbHeadroom_SHORT) speed (s.fget F.glbHeadroomCfg_MARGIN) (requiredSpeed s.instBin)

theorem State.headroomSample_eq (s : State) (speed area : Nat) :
    s.headroomSample speed area = (s.puts (s.sampleFields speed area (s.shortAfter speed))).headroomEvents (s.shortAfter speed) speed
      (requiredSpeed s.instBin) := by
  have hmin : (((s.fset F.glbHeadroom_SPEED speed).fset F.glbHeadroom_MIN_AREA area).fset F.glbHeadroom_SHORT
      (bit (s.shortAfter speed))).fget F.glbHeadroomMin_SPEED_MIN = s.fget F.glbHeadroomMin_SPEED_MIN := by
    rw [State.fget_fset_apart _ F.glbHeadroom_SHORT _ _ (by decide) (by decide),
      State.fget_fset_apart _ F.glbHeadroom_MIN_AREA _ _ (by decide) (by decide),
      State.fget_fset_apart _ F.glbHeadroom_SPEED _ _ (by decide) (by decide)]
  show State.headroomEvents (State.fset _ _ _) _ _ _ = State.headroomEvents (State.fset _ _ _) _ _ _
  rw [← hmin]
  rfl

theorem State.sets_sample (s : State) (speed : BitVec 16) (area : BitVec 8) (short : Bool) :
    s.sets (s.puts (s.sampleFields speed.toNat area.toNat short)) (s.sampleFields speed.toNat area.toNat short) := by
  have hspeed : min speed.toNat (s.fget F.glbHeadroomMin_SPEED_MIN) < 2 ^ 16 := Nat.lt_of_le_of_lt (Nat.min_le_left _ _) speed.isLt
  refine s.sets_puts _ ?_ (by simp +decide [State.sampleFields])
  simp only [State.sampleFields, List.forall_mem_cons, List.not_mem_nil, false_implies, implies_true, and_true]
  exact ⟨⟨Fld.ok_mk (by decide), hspeed⟩, ⟨Fld.ok_mk (by decide), bit_lt short⟩, ⟨Fld.ok_mk (by decide), area.isLt⟩,
    ⟨Fld.ok_mk (by decide), speed.isLt⟩⟩

/-! ### The events of a sample (R32) -/

/-- The run of short samples one longer. -/
def Headroom.longer (h : Headroom) (now : Nat) : Headroom :=
  { h with shortRun := h.shortRun + 1, firstShort := if h.shortRun = 0 then now else h.firstShort }

theorem State.headroomEvents_low (s : State) (speed req : Nat) (hlow : s.headroom.low = false)
    (hhold : max 1 (s.fget F.glbHeadroomCfg_HOLD) ≤ s.headroom.shortRun + 1) :
    s.headroomEvents true speed req =
      State.post { s with headroom := { s.headroom.longer s.cadence with low := true } } 0x0401 0 (Config.headroomArg speed req)
        (s.headroom.longer s.cadence).firstShort := by
  have hpost : (!s.headroom.low && decide (max 1 (s.fget F.glbHeadroomCfg_HOLD) ≤ s.headroom.shortRun + 1)) = true := by
    rw [hlow, decide_eq_true hhold]
    rfl
  exact if_pos hpost

theorem State.headroomEvents_short (s : State) (speed req : Nat)
    (h : s.headroom.low = true ∨ s.headroom.shortRun + 1 < max 1 (s.fget F.glbHeadroomCfg_HOLD)) :
    s.headroomEvents true speed req = { s with headroom := s.headroom.longer s.cadence } := by
  refine if_neg ?_
  rcases h with hlow | hhold
  · simp [hlow]
  · intro hposted
    exact absurd (of_decide_eq_true (Bool.and_eq_true _ _ ▸ hposted).2) (Nat.not_le.2 hhold)

theorem State.headroomEvents_ok (s : State) (speed req : Nat) :
    s.headroomEvents false speed req =
      if s.headroom.low then State.post { s with headroom := { s.headroom with shortRun := 0, low := false } } 0x0402 0 0 0
      else { s with headroom := { s.headroom with shortRun := 0, low := false } } := rfl

/-- A sample's events change the run of short samples, and may post one event. -/
theorem State.headroomEvents_cases (s : State) (short : Bool) (speed req : Nat) :
    ∃ h : Headroom, s.headroomEvents short speed req = ({ s with headroom := h } : State) ∨
      ∃ c x y, s.headroomEvents short speed req = State.post { s with headroom := h } c 0 x y := by
  cases short with
  | true =>
    by_cases hshort : s.headroom.low = true ∨ s.headroom.shortRun + 1 < max 1 (s.fget F.glbHeadroomCfg_HOLD)
    · exact ⟨_, .inl (s.headroomEvents_short speed req hshort)⟩
    · simp only [not_or, Bool.not_eq_true, Nat.not_lt] at hshort
      exact ⟨_, .inr ⟨_, _, _, s.headroomEvents_low speed req hshort.1 hshort.2⟩⟩
  | false =>
    rw [s.headroomEvents_ok]
    split
    · exact ⟨_, .inr ⟨_, _, _, rfl⟩⟩
    · exact ⟨_, .inl rfl⟩

theorem State.reg_headroomEvents (s : State) (short : Bool) (speed req a : Nat) (h : a ≠ A.glbEvStatus) :
    (s.headroomEvents short speed req).reg a = s.reg a := by
  obtain ⟨_, heq | ⟨_, _, _, heq⟩⟩ := s.headroomEvents_cases short speed req
  · rw [heq]; rfl
  · rw [heq, State.reg_post _ _ _ _ _ a h]; rfl

theorem State.fget_headroomEvents (s : State) (short : Bool) (speed req : Nat) (f : Fld) (h : f.addr ≠ A.glbEvStatus) :
    (s.headroomEvents short speed req).fget f = s.fget f := by
  unfold State.fget
  rw [s.reg_headroomEvents short speed req f.addr h]

/-- What posting an event changes. -/
theorem State.post_frame (s : State) (c u x y : Nat) :
    let t := s.post c u x y
    t = { s with regs := t.regs, events := t.events, dropCount := t.dropCount, dropStamp := t.dropStamp } := by
  unfold State.post
  split <;> rfl

/-- The events after a post depend on the queue and the counter alone. -/
theorem State.events_post_congr (s t : State) (c u x y : Nat) (hq : t.events = s.events) (hc : t.cadence = s.cadence) :
    (t.post c u x y).events = (s.post c u x y).events := by
  unfold State.post
  rw [hq, hc]
  split
  · rfl
  · exact hq

theorem State.keepsRegs_post (s : State) (c u x y : Nat) : s.keepsRegs (s.post c u x y) [F.glbEvStatus_DROPPED] := by
  unfold State.post
  split
  · exact s.keepsRegs_of_regs _ _ rfl
  · exact s.keepsRegs_fset s _ F.glbEvStatus_DROPPED _ (by decide) (by simp) (s.keepsRegs_refl _)

/-- More fields may be left out of what is kept. -/
theorem State.keepsRegs_mono (s t : State) (l m : List Fld) (hsub : ∀ f ∈ l, f ∈ m) (h : s.keepsRegs t l) : s.keepsRegs t m :=
  fun g hg ha => h g hg fun f hf => ha f (hsub f hf)

theorem State.keepsRegs_headroomEvents (s : State) (short : Bool) (speed req : Nat) :
    s.keepsRegs (s.headroomEvents short speed req) [F.glbEvStatus_DROPPED] := by
  obtain ⟨_, heq | ⟨_, _, _, heq⟩⟩ := s.headroomEvents_cases short speed req
  · rw [heq]; exact s.keepsRegs_of_regs _ _ rfl
  · rw [heq]; exact State.keepsRegs_post _ _ _ _ _

theorem State.headroomEvents_frame (s : State) (short : Bool) (speed req : Nat) :
    let t := s.headroomEvents short speed req
    t = { s with regs := t.regs, headroom := t.headroom, events := t.events, dropCount := t.dropCount, dropStamp := t.dropStamp } := by
  obtain ⟨_, heq | ⟨_, _, _, heq⟩⟩ := s.headroomEvents_cases short speed req
  · rw [heq]
  · rw [heq, State.post_frame]

/-! ### The bin of the instance -/

/-- The bin depends on the registers of the stacks alone. -/
theorem State.instBin_congr (s t : State) (hb : t.build = s.build) (h : ∀ a, 0x100000 ≤ a → t.reg a = s.reg a) :
    t.instBin = s.instBin := by
  have hbin : t.stackBin = s.stackBin := by
    funext k
    have hactive : t.fget (F.phyFreqStatus_ACTIVE k) = s.fget (F.phyFreqStatus_ACTIVE k) := by
      unfold State.fget
      rw [h _ (by show 0x100000 ≤ 0x104108 + k * 0x20000; omega)]
    have hset : ∀ j, t.fget (F.phyTsetCtl_BIN k j) = s.fget (F.phyTsetCtl_BIN k j) := fun j => by
      unfold State.fget
      rw [h _ (by show 0x100000 ≤ 0x104000 + k * 0x20000 + j * 0x20; omega)]
    unfold State.stackBin
    rw [hactive, hset]
  unfold State.instBin State.stacks
  rw [hbin, hb]

theorem requiredSpeed_lt (bin : Nat) : requiredSpeed bin < 2 ^ 16 := by
  have hall : ∀ v ∈ [0x74, 0x90, 0xAD, 0xCA, 0xE7], v < 2 ^ 16 := by decide
  unfold requiredSpeed
  rw [List.getD_eq_getElem?_getD]
  cases h : [0x74, 0x90, 0xAD, 0xCA, 0xE7][bin]? with
  | none => decide
  | some v => exact hall v (List.mem_of_getElem? h)

/-- HEADROOM shows the speed required of the present bin. -/
theorem State.regRead_required (s : State) : bitsOf (s.regRead A.glbHeadroom).toNat 31 16 = requiredSpeed s.instBin := by
  have hfind : (RegFile.find A.glbHeadroom).isSome = true := by decide +kernel
  obtain ⟨r, hr⟩ := Option.isSome_iff_exists.1 hfind
  have hread : s.regRead A.glbHeadroom = BitVec.ofNat 64
      (F.glbHeadroom_REQUIRED.put (s.reg A.glbHeadroom &&& BitVec.ofNat 64 r.known).toNat (requiredSpeed s.instBin)) := by
    unfold State.regRead
    rw [hr]
    rfl
  have hlt : F.glbHeadroom_REQUIRED.put (s.reg A.glbHeadroom &&& BitVec.ofNat 64 r.known).toNat (requiredSpeed s.instBin) < 2 ^ 64 :=
    bitsPut_lt _ 31 16 _ (by decide) (by decide) (BitVec.isLt _)
  rw [hread, BitVec.toNat_ofNat, Nat.mod_eq_of_lt hlt]
  exact (bitsOf_bitsPut_same _ 31 16 _ (by decide)).trans (Nat.mod_eq_of_lt (requiredSpeed_lt _))

/-! ### SHORT (R31) -/

theorem shortNow_below {was : Bool} {speed margin req : Nat} (h : speed + margin < req) : shortNow was speed margin req = true :=
  if_pos h

theorem shortNow_above {was : Bool} {speed margin req : Nat} (h : req + margin ≤ speed) : shortNow was speed margin req = false := by
  unfold shortNow
  rw [if_neg (by omega), if_pos h]

theorem shortNow_between {was : Bool} {speed margin req : Nat} (hlo : req ≤ speed + margin) (hhi : speed < req + margin) :
    shortNow was speed margin req = was := by
  unfold shortNow
  rw [if_neg (Nat.not_lt.2 hlo), if_neg (Nat.not_le.2 hhi)]

/-! ### The statement -/

/-- The state in which a due sample is taken (R31). -/
def State.sampling (s : State) : State := { s with headroom := { s.headroom with sampled := s.cadence / 1024 } }

/-- A sample's fields written, its events not yet posted. -/
def State.sampleTaken (s : State) (speed area : Nat) : State := s.sampling.puts (s.sampleFields speed area (s.shortAfter speed))

/-- A due sample whole. -/
def State.sampleDone (s : State) (speed area : Nat) : State :=
  (s.sampleTaken speed area).headroomEvents (s.shortAfter speed) speed (requiredSpeed s.instBin)

theorem exec_headroomSample_due (speed : BitVec 16) (area : BitVec 8) (s : State) (hup : s.cpUp = true)
    (hdue : s.headroom.sampled < s.cadence / 1024) :
    exec (.headroomSample speed area) s = .next (s.sampleDone speed.toNat area.toNat) := by
  rw [execHeadroomSample_due speed area s hup hdue]
  exact congrArg Host.Outcome.next (s.sampling.headroomSample_eq speed.toNat area.toNat)

section
variable (s : State) (speed : BitVec 16) (area : BitVec 8)

theorem State.fget_sampleDone (e : Fld × Nat) (he : e ∈ s.sampleFields speed.toNat area.toNat (s.shortAfter speed.toNat)) :
    (s.sampleDone speed.toNat area.toNat).fget e.1 = e.2 := by
  obtain ⟨_, hvals, _⟩ := s.sampling.sets_sample speed area (s.shortAfter speed.toNat)
  have haddr : e.1.addr ≠ A.glbEvStatus := by
    have hall : ∀ f ∈ [F.glbHeadroomMin_SPEED_MIN, F.glbHeadroom_SHORT, F.glbHeadroom_MIN_AREA, F.glbHeadroom_SPEED],
        f.addr ≠ A.glbEvStatus := by decide
    exact hall e.1 (List.mem_map_of_mem (f := Prod.fst) he)
  rw [State.sampleDone, State.fget_headroomEvents _ _ _ _ _ haddr]
  exact hvals e he

theorem State.flag_short_sampleDone : (s.sampleDone speed.toNat area.toNat).flag F.glbHeadroom_SHORT = s.shortAfter speed.toNat := by
  unfold State.flag
  rw [s.fget_sampleDone speed area (F.glbHeadroom_SHORT, bit (s.shortAfter speed.toNat)) (by simp [State.sampleFields])]
  exact bit_eq_one _

theorem State.reg_sampleDone_stack (a : Nat) (h : 0x100000 ≤ a) : (s.sampleDone speed.toNat area.toNat).reg a = s.reg a := by
  have hne : ∀ b < 0x100000, b ≠ a := fun b hb => by omega
  rw [State.sampleDone, State.reg_headroomEvents _ _ _ _ a (hne A.glbEvStatus (by decide)).symm]
  simp only [State.sampleTaken, State.sampleFields, State.puts_cons, State.puts_nil]
  rw [State.reg_fset_other _ _ _ a (hne _ (by decide)), State.reg_fset_other _ _ _ a (hne _ (by decide)),
    State.reg_fset_other _ _ _ a (hne _ (by decide)), State.reg_fset_other _ _ _ a (hne _ (by decide))]
  rfl

theorem State.sampleDone_frame : let t := s.sampleDone speed.toNat area.toNat
    t = { s with regs := t.regs, headroom := t.headroom, events := t.events, dropCount := t.dropCount, dropStamp := t.dropStamp } := by
  have hfields := (s.sampling.sets_sample speed area (s.shortAfter speed.toNat)).1
  have hevents := (s.sampleTaken speed.toNat area.toNat).headroomEvents_frame (s.shortAfter speed.toNat) speed.toNat (requiredSpeed s.instBin)
  refine hevents.trans ?_
  rw [show s.sampleTaken speed.toNat area.toNat = _ from hfields]
  rfl

theorem State.instBin_sampleDone : (s.sampleDone speed.toNat area.toNat).instBin = s.instBin :=
  State.instBin_congr s _ (by rw [s.sampleDone_frame speed area]) (s.reg_sampleDone_stack speed area)

theorem State.keepsRegs_sampleDone :
    s.keepsRegs (s.sampleDone speed.toNat area.toNat) [F.glbHeadroom_SPEED, F.glbHeadroom_MIN_AREA, F.glbHeadroom_SHORT,
      F.glbHeadroomMin_SPEED_MIN, F.glbEvStatus_DROPPED] := by
  have hfields := (s.sampling.sets_sample speed area (s.shortAfter speed.toNat)).2.2
  have hevents := (s.sampleTaken speed.toNat area.toNat).keepsRegs_headroomEvents (s.shortAfter speed.toNat) speed.toNat (requiredSpeed s.instBin)
  refine State.keepsRegs_trans s (s.sampleTaken speed.toNat area.toNat) _ _ ?_
    (State.keepsRegs_mono _ _ _ _ (by simp) hevents)
  exact State.keepsRegs_mono _ _ _ _ (by simp [State.sampleFields]) hfields

/-- HOLD is no field of a sample. -/
theorem State.fget_hold_sampleTaken :
    (s.sampleTaken speed.toNat area.toNat).fget F.glbHeadroomCfg_HOLD = s.fget F.glbHeadroomCfg_HOLD :=
  (s.sampling.sets_sample speed area (s.shortAfter speed.toNat)).2.2 _ (by decide) (by simp +decide [State.sampleFields])

end

/-- Settles O14: the fields by `State.sets_sample`, the events by the cases of `State.headroomEvents`. -/
theorem headroomSampled : Obligations.HeadroomSampled := by
  unfold Obligations.HeadroomSampled
  intro speed area s hup hdue
  have hfield := s.fget_sampleDone speed area
  have hflag := s.flag_short_sampleDone speed area
  have hhold := s.fget_hold_sampleTaken speed area
  refine ⟨_, exec_headroomSample_due speed area s hup hdue, hfield (F.glbHeadroom_SPEED, _) (by simp [State.sampleFields]),
    hfield (F.glbHeadroom_MIN_AREA, _) (by simp [State.sampleFields]),
    hfield (F.glbHeadroomMin_SPEED_MIN, _) (by simp [State.sampleFields]), ?_, s.sampleDone_frame speed area,
    s.keepsRegs_sampleDone speed area⟩
  intro req margin
  rw [hflag, State.regRead_required, s.instBin_sampleDone speed area]
  refine ⟨rfl, shortNow_below, shortNow_above, shortNow_between, fun hshort => ?_, fun hshort => ?_⟩
  · by_cases hpost : s.headroom.low = false ∧ max 1 (s.fget F.glbHeadroomCfg_HOLD) ≤ s.headroom.shortRun + 1
    · obtain ⟨hlow, hlong⟩ := hpost
      have hdone := State.headroomEvents_low (s.sampleTaken speed.toNat area.toNat) speed.toNat req hlow (hhold ▸ hlong)
      rw [State.sampleDone, hshort, hdone]
      simp only [State.post_headroom]
      refine ⟨rfl, rfl, fun _ _ => ⟨trivial, State.events_post_congr s _ _ _ _ _ rfl rfl⟩, fun h => ?_⟩
      rcases h with h | h
      · rw [hlow] at h; cases h
      · exact absurd hlong (Nat.not_le.2 h)
    · have hnot : s.headroom.low = true ∨ s.headroom.shortRun + 1 < max 1 (s.fget F.glbHeadroomCfg_HOLD) := by
        simpa only [Classical.not_and_iff_not_or_not, Bool.not_eq_false, Nat.not_le] using hpost
      have hdone := State.headroomEvents_short (s.sampleTaken speed.toNat area.toNat) speed.toNat req (by rw [hhold]; exact hnot)
      rw [State.sampleDone, hshort, hdone]
      exact ⟨rfl, rfl, fun hlow hlong => absurd ⟨hlow, hlong⟩ hpost, fun _ => ⟨rfl, rfl⟩⟩
  · have hdone := State.headroomEvents_ok (s.sampleTaken speed.toNat area.toNat) speed.toNat req
    have hlow : (s.sampleTaken speed.toNat area.toNat).headroom.low = s.headroom.low := rfl
    rw [State.sampleDone, hshort, hdone, hlow]
    split
    · simp only [State.post_headroom]
      exact ⟨trivial, trivial, State.events_post_congr s _ _ _ _ _ rfl rfl⟩
    · exact ⟨rfl, rfl, rfl⟩

end Sys2Proof.Machine

namespace Sys2Proof.Machine

/-! ### The SYNC alignment -/

theorem exec_cadSyncArm_ready (w : Word) (s : State) (h : s.cpReady) :
    exec (.cadSyncArm w) s = .next (s.cpOk.fset F.glbCadSyncCtl_ARM (bitsOf w.toNat 0 0)) :=
  s.cpDo_ready _ (fun u => u.fset F.glbCadSyncCtl_ARM (bitsOf w.toNat 0 0)) h

theorem State.sets_cadSyncArm (s : State) (w : Word) :
    s.sets (s.fset F.glbCadSyncCtl_ARM (bitsOf w.toNat 0 0)) [(F.glbCadSyncCtl_ARM, w.toNat % 2)] :=
  s.sets_fset s [] _ _ _ (by decide) (by simp [bitsOf, F.glbCadSyncCtl_ARM]) (by simp) s.sets_nil

/-- An edge that is no repetition, with ARM clear or in a pause, is counted (R44). -/
theorem State.syncEdge_counted (s : State) (hnew : s.sameEdge = false)
    (h : s.flag F.glbCadSyncCtl_ARM = false ∨ s.flag F.glbCadStatus_PAUSING = true) :
    s.syncEdge = { s.count F.glbCadStatus_SYNC_EDGES 1 with syncAt := some (s.cadence, s.pauseLeft) } := by
  have hskip : ((s.count F.glbCadStatus_SYNC_EDGES 1).flag F.glbCadSyncCtl_ARM &&
      !(s.count F.glbCadStatus_SYNC_EDGES 1).flag F.glbCadStatus_PAUSING) = false := by
    rw [State.count_eq, State.flag_fset_apart s _ _ _ (by decide) (by decide), State.flag_fset_apart s _ _ _ (by decide) (by decide)]
    rcases h with h | h <;> simp [h]
  simp only [State.syncEdge, hnew, hskip, Bool.false_eq_true, if_false]
  rfl

/-- The edges counted after one more (R39). -/
def State.edgesAfter (s : State) : Nat := (s.fget F.glbCadStatus_SYNC_EDGES + 1) % 2 ^ 32

theorem State.sets_edge (s : State) : s.sets (s.count F.glbCadStatus_SYNC_EDGES 1) [(F.glbCadStatus_SYNC_EDGES, s.edgesAfter)] :=
  s.sets_fset s [] _ _ _ (by decide) rfl (by simp) s.sets_nil

/-- The registers of an applied step other than PAUSING, the last written first (R39, R42). -/
def State.stepFields (s : State) : List (Fld × Nat) :=
  [(F.glbCadStatus_CADENCE_INVALID, 0), (F.glbCadStatus_CADENCE_ESTIMATED, 0), (F.glbCadSyncDelta_DELTA, unsigned 64 s.syncDelta),
   (F.glbCadSyncCtl_ARM, 0)]

/-- An armed edge whose step is applied, before the counter moves. -/
def State.stepping (s : State) : State := (s.count F.glbCadStatus_SYNC_EDGES 1).puts s.stepFields

theorem State.sets_stepping (s : State) : s.sets s.stepping (s.stepFields ++ [(F.glbCadStatus_SYNC_EDGES, s.edgesAfter)]) := by
  refine s.sets_puts_on _ _ _ ?_ (by simp +decide [State.stepFields]) s.sets_edge
  simp only [State.stepFields, List.forall_mem_cons, List.not_mem_nil, false_implies, implies_true, and_true]
  exact ⟨⟨Fld.ok_mk (by decide), by decide⟩, ⟨Fld.ok_mk (by decide), by decide⟩, ⟨Fld.ok_mk (by decide), unsigned_lt 64 _⟩,
    ⟨Fld.ok_mk (by decide), by decide⟩⟩

/-- What a step that leaves PAUSING alone sets, in the order of the statement. -/
def State.stepCommon (s : State) : List (Fld × Nat) :=
  [(F.glbCadStatus_CADENCE_ESTIMATED, 0), (F.glbCadStatus_CADENCE_INVALID, 0), (F.glbCadSyncCtl_ARM, 0),
   (F.glbCadSyncDelta_DELTA, unsigned 64 s.syncDelta), (F.glbCadStatus_SYNC_EDGES, s.edgesAfter)]

theorem State.sets_stepCommon (s : State) : s.sets s.stepping s.stepCommon :=
  State.sets_perm _ _ _ _ (fun e => by simp only [State.stepFields, State.stepCommon, List.mem_append, List.mem_cons]; grind)
    s.sets_stepping

theorem State.stepCommon_ne_evStatus (s : State) : ∀ e ∈ s.stepCommon, e.1.addr ≠ A.glbEvStatus := by
  simp +decide [State.stepCommon]

/-- An armed edge that is not refused takes the step (R39, R41). -/
theorem State.armedEdge_applied (s : State) (h : -1000000 ≤ s.syncDelta) :
    s.armedEdge = ((s.fset F.glbCadSyncCtl_ARM 0).fset F.glbCadSyncDelta_DELTA (unsigned 64 s.syncDelta)).stepBy s.syncDelta :=
  if_neg (Int.not_lt.2 h)

theorem State.armedEdge_level (s : State) (h : s.syncDelta = 0) :
    (s.count F.glbCadStatus_SYNC_EDGES 1).armedEdge = s.stepping.post 0x0403 0 0 s.cadence := by
  have hd := s.syncDelta_count_edge.trans h
  rw [State.armedEdge_applied _ (by rw [hd]; decide), State.stepping, State.stepFields, State.syncDelta_count_edge, h]
  rfl

theorem State.armedEdge_back (s : State) (hlow : -1000000 ≤ s.syncDelta) (h : s.syncDelta < 0) :
    (s.count F.glbCadStatus_SYNC_EDGES 1).armedEdge =
      State.post { s.stepping.raise F.glbCadStatus_PAUSING with pauseLeft := (-s.syncDelta).toNat } 0x0403 0 (unsigned 64 s.syncDelta)
        s.cadence := by
  rw [State.armedEdge_applied _ (by rw [State.syncDelta_count_edge]; exact hlow), State.syncDelta_count_edge]
  unfold State.stepBy
  simp only [Int.not_lt.2 (Int.le_of_lt h), h, if_true, if_false]
  rfl

/-- The state in which the consumers of a forward step see the jump (R43). -/
def State.steppedOn (s : State) : State :=
  State.post { s.stepping with cadence := s.fget F.glbCadSyncValue_VALUE } 0x0403 0 (unsigned 64 s.syncDelta) (s.fget F.glbCadSyncValue_VALUE)

theorem State.armedEdge_forward (s : State) (h : 0 < s.syncDelta) :
    (s.count F.glbCadStatus_SYNC_EDGES 1).armedEdge = s.steppedOn.jumped s.cadence := by
  have hval : s.cadence + s.syncDelta.toNat = s.fget F.glbCadSyncValue_VALUE := by
    unfold State.syncDelta at h ⊢
    omega
  rw [State.armedEdge_applied _ (by rw [State.syncDelta_count_edge]; omega), State.syncDelta_count_edge, State.steppedOn, ← hval]
  unfold State.stepBy
  simp only [h, if_true]
  rfl

theorem State.syncEdge_level (s : State) (hnew : s.sameEdge = false) (harm : s.flag F.glbCadSyncCtl_ARM = true)
    (hpause : s.flag F.glbCadStatus_PAUSING = false) (h : s.syncDelta = 0) :
    s.syncEdge = { s.stepping.post 0x0403 0 0 s.cadence with syncAt := some (s.cadence, s.pauseLeft) } := by
  rw [s.syncEdge_armed hnew harm hpause, s.armedEdge_level h]
  simp only [State.post_cadence, State.post_pauseLeft]
  rfl

/-- An event and what is left of a pause do not meet. -/
theorem State.post_pauseLeft_eq (s : State) (n c u x y : Nat) :
    State.post { s with pauseLeft := n } c u x y = { s.post c u x y with pauseLeft := n } := by
  unfold State.post
  split <;> rfl

theorem State.syncEdge_back (s : State) (hnew : s.sameEdge = false) (harm : s.flag F.glbCadSyncCtl_ARM = true)
    (hpause : s.flag F.glbCadStatus_PAUSING = false) (hlow : -1000000 ≤ s.syncDelta) (h : s.syncDelta < 0) :
    s.syncEdge = { (s.stepping.raise F.glbCadStatus_PAUSING).post 0x0403 0 (unsigned 64 s.syncDelta) s.cadence with
      pauseLeft := (-s.syncDelta).toNat, syncAt := some (s.cadence, (-s.syncDelta).toNat) } := by
  rw [s.syncEdge_armed hnew harm hpause, s.armedEdge_back hlow h, State.post_pauseLeft_eq]
  simp only [State.post_cadence]
  rfl

/-- What a pause holds is no register. -/
theorem State.sets_paused (s t : State) (l : List (Fld × Nat)) (n : Nat) (e : Option (Nat × Nat)) (h : s.sets t l) :
    ({ s with pauseLeft := n, syncAt := e } : State).sets { t with pauseLeft := n, syncAt := e } l :=
  s.sets_congr t _ _ l h rfl (by rw [h.1])

theorem State.sets_cadence (s t : State) (l : List (Fld × Nat)) (n : Nat) (h : s.sets t l) :
    ({ s with cadence := n } : State).sets { t with cadence := n } l :=
  s.sets_congr t _ _ l h rfl (by rw [h.1])

/-- Settles O15: an edge is counted or comes to `State.armedEdge`, whose step goes by the sign of delta. -/
theorem cadenceControl : Obligations.CadenceControl := by
  unfold Obligations.CadenceControl
  refine ⟨fun w s hready => ⟨_, exec_cadSyncArm_ready w s hready, s.cpOk.sets_cadSyncArm w⟩,
    fun s hpause => ⟨_, congrArg Host.Outcome.next (if_pos hpause), s.sets_pauseEnd⟩,
    fun s hpause => congrArg Host.Outcome.next (if_neg (by simp [hpause])),
    fun s hup hsame => (exec_syncEdge s hup).trans (congrArg Host.Outcome.next (if_pos hsame)),
    fun s hup hnew hidle => ⟨_, exec_syncEdge s hup, ?_⟩, fun s hup hnew harm hpause => ?_⟩
  · rw [s.syncEdge_counted hnew hidle]
    exact s.sets_syncAt _ _ _ s.sets_edge
  · intro delta common
    have hevents := s.stepCommon_ne_evStatus
    refine ⟨fun hzero => ⟨_, exec_syncEdge s hup, ?_⟩, fun hlow hneg => ⟨_, exec_syncEdge s hup, ?_⟩, fun hpos =>
      ⟨s.steppedOn, ?_, ?_⟩⟩
    · rw [s.syncEdge_level hnew harm hpause hzero]
      exact State.sets_syncAt _ _ _ _ (s.sets_post s.stepping s.stepCommon 0x0403 0 0 s.cadence hevents s.sets_stepCommon)
    · rw [s.syncEdge_back hnew harm hpause hlow hneg]
      have hpausing := s.sets_raise s.stepping s.stepCommon F.glbCadStatus_PAUSING (by decide) (by simp +decide [State.stepCommon])
        s.sets_stepCommon
      have hposted := s.sets_post _ _ 0x0403 0 (unsigned 64 s.syncDelta) s.cadence
        (List.forall_mem_cons.2 ⟨by decide, hevents⟩) hpausing
      exact State.sets_paused _ _ _ _ _ hposted
    · exact State.sets_post _ _ _ _ _ _ _ hevents (s.sets_cadence _ _ (s.fget F.glbCadSyncValue_VALUE) s.sets_stepCommon)
    · rw [exec_syncEdge s hup, s.syncEdge_armed hnew harm hpause, s.armedEdge_forward hpos]

end Sys2Proof.Machine

/-! PROOFS. Gate lists: the write of an entry (R152), the cancel of a swap (R155), and a swap taken at its time (R154, R156). -/

namespace Sys2Proof.Machine

/-! ### Writing a gate entry (R152) -/

theorem exec_gateEntryWrite_ready (g : Fin 16) (b : Fin 2) (j : Fin 128) (w : Word) (s : State) (h : s.cpReady) :
    exec (.gateEntryWrite g b j w) s = .next (s.cpOk.gateEntWrite g b j w) := s.cpDo_ready _ (fun u => u.gateEntWrite g b j w) h

/-- A swap that is due is taken by the write itself. -/
theorem State.gateEntWrite_due (s : State) (g b j : Nat) (w : Word) (hp : s.flag (F.trfGateStatus_PENDING g) = true)
    (ht : (s.arm g).t ≤ s.cadence) : s.gateEntWrite g b j w = (s.takeSwap g).gateEntWrite g b j w := by
  have hsettled : s.settleSwap g = (s.takeSwap g).settleSwap g := by
    rw [s.settleSwap_due g hp ht, State.settleSwap_notDue _ g (by simp [s.flag_pending_takeSwap g])]
  simp only [State.gateEntWrite, hsettled]

/-- Bank `b` of port group `g` may not be written (R152). -/
def State.BankHeld (s : State) (g b : Nat) : Prop :=
  (s.flag (F.trfGateStatus_ACTIVE_VALID g) = true ∧ b = s.fget (F.trfGateStatus_ACTIVE_BANK g)) ∨
    (s.flag (F.trfGateStatus_PENDING g) = true ∧ b = 1 - s.fget (F.trfGateStatus_ACTIVE_BANK g))

section
variable (s : State) (g b j : Nat) (w : Word) (hdue : ¬ (s.flag (F.trfGateStatus_PENDING g) = true ∧ (s.arm g).t ≤ s.cadence))
include hdue

theorem State.gateEntWrite_held (h : s.BankHeld g b) : s.gateEntWrite g b j w = s.raise (F.trfGateStatus_WRITE_REFUSED g) := by
  simp only [State.gateEntWrite, s.settleSwap_notDue g hdue]
  exact if_pos (by simpa [State.BankHeld, State.nextBank] using h)

theorem State.gateEntWrite_free (h : ¬ s.BankHeld g b) : s.gateEntWrite g b j w = s.setReg (A.trfGateEnt g b j) w := by
  simp only [State.gateEntWrite, s.settleSwap_notDue g hdue]
  exact if_neg (by simpa [State.BankHeld, State.nextBank] using h)

end

/-- Settles O17: a due swap is taken by the command itself; else the bank decides. -/
theorem gateEntryWritten : Obligations.GateEntryWritten := by
  unfold Obligations.GateEntryWritten
  intro g b j w s hready
  rw [exec_gateEntryWrite_ready g b j w s hready]
  refine ⟨fun hp ht => ?_, fun hdue => ⟨fun hheld => ⟨_, rfl, ?_⟩, fun hfree => ⟨_, rfl, ?_⟩⟩⟩
  · rw [exec_gateEntryWrite_ready g b j w _ (s.cpReady_takeSwap g hready), s.cpOk.gateEntWrite_due g b j w hp ht, s.takeSwap_cpOk g]
  · rw [s.cpOk.gateEntWrite_held g b j w hdue hheld]
    exact s.cpOk.sets_raise_alone _ (Fld.ok_mk (by decide))
  · rw [s.cpOk.gateEntWrite_free g b j w hdue hfree]
    refine ⟨rfl, State.reg_setReg_same _ _ _, fun a ha => ?_⟩
    rw [State.reg_setReg, if_neg ha.symm]
    rfl

/-! ### Cancelling a swap (R155) -/

theorem exec_gateCancel_ready (g : Fin 16) (en : Bool) (s : State) (h : s.cpReady) :
    exec (.gateCancel g en) s = .next ((s.cpOk.fset (F.trfGateCtl_EN g) (bit en)).gateCancel g) :=
  s.cpDo_ready _ (fun u => (u.fset (F.trfGateCtl_EN g) (bit en)).gateCancel g) h

theorem State.flag_pending_gateEn (s : State) (g v : Nat) :
    (s.fset (F.trfGateCtl_EN g) v).flag (F.trfGateStatus_PENDING g) = s.flag (F.trfGateStatus_PENDING g) :=
  State.flag_fset_apart s _ _ v (trfGateCtl_EN_ok g) (.inl (trfGateCtl_ne_status g))

theorem State.gateCancel_ahead (s : State) (g : Nat) (hp : s.flag (F.trfGateStatus_PENDING g) = true) (ht : s.cadence < (s.arm g).t) :
    s.gateCancel g = (s.fset (F.trfGateStatus_PENDING g) 0).disarmed g := if_pos (by simp [hp, ht])

theorem State.gateCancel_late (s : State) (g : Nat) (h : s.flag (F.trfGateStatus_PENDING g) = false ∨ (s.arm g).t ≤ s.cadence) :
    s.gateCancel g = s := if_neg (by rcases h with h | h <;> simp [h])

theorem State.arm_disarmed (s : State) (g h : Nat) : (s.disarmed g).arm h = if g = h then ⟨0, 0, 0⟩ else s.arm h :=
  SMap.get_put _ _ _ _ _

/-- Armed lists are no register. -/
theorem State.sets_disarmed (s t : State) (g : Nat) (l : List (Fld × Nat)) (h : s.sets t l) :
    ({ s with gates := (t.disarmed g).gates } : State).sets (t.disarmed g) l :=
  s.sets_congr t _ _ l h rfl (by rw [State.disarmed, h.1])

/-- Settles O19: the cancel on the state with EN written, which is no part of what it looks at. -/
theorem gateCancelled : Obligations.GateCancelled := by
  unfold Obligations.GateCancelled
  intro g en s hready
  rw [exec_gateCancel_ready g en s hready]
  have hen := s.cpOk.sets_gateEn g en
  have hflag : (s.cpOk.fset (F.trfGateCtl_EN g) (bit en)).flag (F.trfGateStatus_PENDING g) = s.flag (F.trfGateStatus_PENDING g) :=
    s.cpOk.flag_pending_gateEn g (bit en)
  refine ⟨fun hp ht => ⟨_, rfl, ?_⟩, fun h => ⟨_, rfl, ?_⟩⟩
  · rw [State.gateCancel_ahead _ g (hflag.trans hp) ht]
    refine ⟨(State.arm_disarmed _ g g).trans (if_pos rfl), fun j hj => (State.arm_disarmed _ g j).trans (if_neg hj.symm), ?_⟩
    exact State.sets_disarmed _ _ g _ (s.cpOk.sets_fset _ _ (F.trfGateStatus_PENDING g) 0 0 (Fld.ok_mk (by decide)) rfl
      (by simpa using trfGateStatus_apart_gateEn rfl) hen)
  · rw [State.gateCancel_late _ g (hflag ▸ h)]
    exact hen

/-! ### A swap taken at its time (R154, R156) -/

/-- The fields of a swap to the list `l`, the last written first. -/
def State.swapFields (s : State) (g : Nat) (l : GateList) (gap : Nat) : List (Fld × Nat) :=
  [(F.trfGateSwaps_COUNT g, s.fget (F.trfGateSwaps_COUNT g) + 1), (F.trfGateActCfg_LEN g, l.ents.length),
   (F.trfGateActCfg_CYCLE g, l.cycle), (F.trfGateActBase_T g, l.t), (F.trfGateStatus_C7_GAP g, gap), (F.trfGateStatus_PENDING g, 0),
   (F.trfGateStatus_ACTIVE_VALID g, 1), (F.trfGateStatus_ACTIVE_BANK g, s.nextBank g)]

/-- A field's value cut to its width. -/
def Fld.cut (e : Fld × Nat) : Fld × Nat := (e.1, e.2 % 2 ^ (e.1.hi + 1 - e.1.lo))

/-- Fields that share no bit hold what was written, cut to their widths. -/
theorem State.sets_puts_cut (s : State) (l : List (Fld × Nat)) (hok : ∀ e ∈ l, e.1.Ok) (hap : l.Pairwise fun e f => e.1.Apart f.1) :
    s.sets (s.puts l) (l.map Fld.cut) := by
  induction l with
  | nil => exact s.sets_nil
  | cons e l ih =>
    obtain ⟨hhead, htail⟩ := List.pairwise_cons.1 hap
    refine s.sets_fset _ _ e.1 e.2 _ (hok e List.mem_cons_self) rfl (fun x hx => ?_)
      (ih (fun f hf => hok f (List.mem_cons_of_mem e hf)) htail)
    obtain ⟨f, hf, rfl⟩ := List.mem_map.1 hx
    exact hhead f hf

@[simp] theorem Fld.apart_mk (a h l a' h' l' : Nat) :
    Fld.Apart ⟨a, h, l⟩ ⟨a', h', l'⟩ ↔ a ≠ a' ∨ h' < l ∨ h < l' := Iff.rfl

@[simp] theorem Fld.ok_mk_iff (a h l : Nat) : Fld.Ok ⟨a, h, l⟩ ↔ l ≤ h ∧ h < 64 := Iff.rfl

theorem Fld.Apart.symm {f g : Fld} (h : f.Apart g) : g.Apart f := by
  rcases h with h | h | h
  · exact .inl h.symm
  · exact .inr (.inr h)
  · exact .inr (.inl h)

theorem State.swapFields_apart (s : State) (g : Nat) (l : GateList) (gap : Nat) :
    (s.swapFields g l gap).Pairwise fun e f => e.1.Apart f.1 := by
  simp [State.swapFields, F.trfGateSwaps_COUNT, F.trfGateActCfg_LEN, F.trfGateActCfg_CYCLE, F.trfGateActBase_T, F.trfGateStatus_C7_GAP,
    F.trfGateStatus_PENDING, F.trfGateStatus_ACTIVE_VALID, F.trfGateStatus_ACTIVE_BANK, A.trfGateSwaps, A.trfGateActCfg, A.trfGateActBase,
    A.trfGateStatus]

theorem State.swapFields_ok (s : State) (g : Nat) (l : GateList) (gap : Nat) : ∀ e ∈ s.swapFields g l gap, e.1.Ok := by
  simp +decide [State.swapFields, F.trfGateSwaps_COUNT, F.trfGateActCfg_LEN, F.trfGateActCfg_CYCLE, F.trfGateActBase_T,
    F.trfGateStatus_C7_GAP, F.trfGateStatus_PENDING, F.trfGateStatus_ACTIVE_VALID, F.trfGateStatus_ACTIVE_BANK]

/-- SWAPS is counted on from its value before the swap. -/
theorem State.swapRegs_eq (s : State) (g : Nat) (l : GateList) (gap : Nat) : s.swapRegs g l gap = s.puts (s.swapFields g l gap) := by
  obtain ⟨hhead, htail⟩ := List.pairwise_cons.1 (s.swapFields_apart g l gap)
  obtain ⟨hok, hoks⟩ := List.forall_mem_cons.1 (s.swapFields_ok g l gap)
  have hcount := (s.sets_puts_cut _ hoks htail).2.2 _ hok fun f hf => by
    obtain ⟨_, hx, rfl⟩ := List.mem_map.1 hf
    obtain ⟨e, he, rfl⟩ := List.mem_map.1 hx
    exact Fld.Apart.symm (hhead e he)
  exact congrArg (State.fset _ (F.trfGateSwaps_COUNT g)) (congrArg (· + 1) hcount)

theorem c7Gap_lt (o : Option GateList) (l : GateList) : c7Gap o l < 2 ^ 32 := by
  simp only [c7Gap]
  split
  · exact Nat.lt_of_lt_of_eq (Nat.lt_succ_self _) rfl
  · exact Nat.lt_of_le_of_lt (Nat.min_le_left _ _) (Nat.lt_of_lt_of_eq (Nat.lt_succ_self _) rfl)

/-- The fields of a swap, cut to their widths, in the order of the statement. -/
theorem State.mem_swapFields_cut (s : State) (g : Nat) (l : GateList) (gap : Nat) (hgap : gap < 2 ^ 32) (e : Fld × Nat) :
    e ∈ (s.swapFields g l gap).map Fld.cut ↔ e ∈
      [(F.trfGateStatus_ACTIVE_BANK g, s.nextBank g), (F.trfGateStatus_ACTIVE_VALID g, 1), (F.trfGateStatus_PENDING g, 0),
       (F.trfGateStatus_C7_GAP g, gap), (F.trfGateActBase_T g, l.t % 2 ^ 64), (F.trfGateActCfg_CYCLE g, l.cycle % 2 ^ 32),
       (F.trfGateActCfg_LEN g, l.ents.length % 2 ^ 9), (F.trfGateSwaps_COUNT g, (s.fget (F.trfGateSwaps_COUNT g) + 1) % 2 ^ 64)] := by
  have hbank : s.nextBank g % 2 = s.nextBank g := Nat.mod_eq_of_lt (Nat.lt_succ_of_le (Nat.sub_le 1 _))
  have hgap' : gap % 2 ^ 32 = gap := Nat.mod_eq_of_lt hgap
  simp only [State.swapFields, List.map_cons, List.map_nil, Fld.cut, F.trfGateSwaps_COUNT, F.trfGateActCfg_LEN, F.trfGateActCfg_CYCLE,
    F.trfGateActBase_T, F.trfGateStatus_C7_GAP, F.trfGateStatus_PENDING, F.trfGateStatus_ACTIVE_VALID, F.trfGateStatus_ACTIVE_BANK,
    Nat.reduceAdd, Nat.reduceSub, Nat.pow_one, hbank, hgap', Nat.reduceMod, List.mem_cons, List.not_mem_nil, or_false]
  grind

theorem exec_gateSwapTake (g : Fin 16) (s : State) (hp : s.flag (F.trfGateStatus_PENDING g) = true) (h : s.reaches (s.arm g).t) :
    exec (.gateSwapTake g) s = .next ((s.momentOf (s.arm g).t).takeSwap g) := by
  simp only [exec, execGateSwapTake, hp, if_true, s.atCadence_reaches _ h]

/-- Settles O20: the armed list is taken at its moment, its registers as `State.swapFields` names them. -/
theorem gateSwapTaken : Obligations.GateSwapTaken := by
  unfold Obligations.GateSwapTaken
  intro g s hp hreach
  let l : GateList := ⟨(s.arm g).t, (s.arm g).cycle, s.gateEnts g (s.nextBank g) (s.arm g).len⟩
  have hlist : s.pendingList g = some l := if_pos hp
  have htaken : (s.momentOf (s.arm g).t).takeSwap g = _ := State.takeSwap_some (s.momentOf (s.arm g).t) g l hlist
  refine ⟨_, l, exec_gateSwapTake g s hp hreach, hlist, rfl, rfl, by simp [l, State.gateEnts], ?_, ?_, ?_⟩
  all_goals rw [htaken]
  · exact (State.arm_disarmed _ g g).trans (if_pos rfl)
  · exact fun h hne => (State.arm_disarmed _ g h).trans (if_neg hne.symm)
  · refine State.sets_disarmed _ _ g _ ?_
    rw [State.swapRegs_eq]
    exact State.sets_perm _ _ _ _ (State.mem_swapFields_cut _ g l _ (c7Gap_lt _ l))
      (State.sets_puts_cut _ _ (State.swapFields_ok _ _ _ _) (State.swapFields_apart _ _ _ _))

end Sys2Proof.Machine

/-! PROOFS. The Capo (R193 to R196): how an ingress output follows its Capo sources, and the steps of a hold. -/

namespace Sys2Proof.Machine

/-! ### Records kept per physical PC -/

theorem pcIx_inj {k p j q : Nat} (hp : p < 64) (hq : q < 64) : pcIx k p = pcIx j q ↔ k = j ∧ p = q := by
  unfold pcIx; omega

theorem State.out_setOut (s : State) (k p j q : Nat) (o : Output) (hp : p < 64) (hq : q < 64) :
    (s.setOut k p o).out j q = if k = j ∧ p = q then o else s.out j q := by
  unfold State.out State.setOut
  rw [SMap.get_put]
  simp only [pcIx_inj hp hq]

theorem State.out_fset (s : State) (f : Fld) (v j q : Nat) : (s.fset f v).out j q = s.out j q := rfl

/-! ### An output and its Capo sources (Table 6.6) -/

/-- An output after it has followed its Capo sources: `held` where one is set. -/
def Output.settled (o : Output) (held : Bool) (now : Nat) : Output :=
  if held then (if o.st = .run then { o with st := .soft, holdAt := now, warned := false } else o)
  else { o with st := .run }

theorem Output.settled_st (o : Output) (held : Bool) (now : Nat) :
    (o.settled held now).st = if held then (if o.st = .run then .soft else o.st) else .run := by
  unfold Output.settled
  repeat' split
  all_goals rfl

section
variable (s : State) (k p : Nat)

/-- The output as it follows its Capo sources now. -/
def State.outSettled (s : State) (k p : Nat) : Output := (s.out k p).settled (s.underCapo k p) s.cadence

/-- An output stays as it is, is settled, or is settled with its stretch counted for HARD_MAX (R197). -/
theorem State.settleOutput_cases :
    s.settleOutput k p = s ∧ s.outSettled k p = s.out k p ∨ s.settleOutput k p = s.setOut k p (s.outSettled k p) ∨
      ∃ v, s.settleOutput k p = (s.setOut k p (s.outSettled k p)).fset (F.arbStkHardMax_COUNT k) v := by
  unfold State.settleOutput State.outSettled Output.settled
  cases hheld : s.underCapo k p with
  | true =>
    by_cases hrun : (s.out k p).st = .run
    · exact .inr (.inl (by simp only [hrun, if_true]))
    · exact .inl (by simp only [hrun, if_true, if_false, and_self])
  | false =>
    simp only [Bool.false_eq_true, if_false]
    cases hst : (s.out k p).st with
    | run => exact .inl ⟨rfl, by rw [← hst]⟩
    | soft => exact .inr (.inl rfl)
    | hard => exact .inr (.inr ⟨_, rfl⟩)
    | drained => exact .inr (.inr ⟨_, rfl⟩)

theorem State.settleOutput_frame : s.settleOutput k p =
    { s with regs := (s.settleOutput k p).regs, outputs := (s.settleOutput k p).outputs } := by
  obtain ⟨h, _⟩ | h | ⟨_, h⟩ := s.settleOutput_cases k p
  · rw [h]
  · rw [h]; rfl
  · rw [h]; rfl

theorem State.keepsRegs_settleOutput : s.keepsRegs (s.settleOutput k p) [F.arbStkHardMax_COUNT k] := by
  obtain ⟨h, _⟩ | h | ⟨_, h⟩ := s.settleOutput_cases k p
  · rw [h]; exact s.keepsRegs_refl _
  · rw [h]; exact s.keepsRegs_of_regs _ _ rfl
  · rw [h]; exact s.keepsRegs_fset _ _ _ _ (Fld.ok_mk (by decide)) (by simp) (s.keepsRegs_of_regs _ _ rfl)

theorem State.out_settleOutput (j q : Nat) (hp : p < 64) (hq : q < 64) :
    (s.settleOutput k p).out j q = if k = j ∧ p = q then s.outSettled k p else s.out j q := by
  obtain ⟨h, hsame⟩ | h | ⟨_, h⟩ := s.settleOutput_cases k p
  · rw [h]
    split
    next heq => rw [hsame, heq.1, heq.2]
    next => rfl
  · rw [h, State.out_setOut _ _ _ _ _ _ hp hq]
  · rw [h, State.out_fset, State.out_setOut _ _ _ _ _ _ hp hq]

theorem State.fget_capoMask_settleOutput : (s.settleOutput k p).fget (F.arbStkIngCapo_MASK k) = s.fget (F.arbStkIngCapo_MASK k) :=
  s.keepsRegs_settleOutput k p _ (Fld.ok_mk (by decide)) (by simp [F.arbStkHardMax_COUNT, F.arbStkIngCapo_MASK, A.arbStkHardMax, A.arbStkIngCapo])

/-- One output's change is nothing to another. -/
theorem State.outSettled_settleOutput (q : Nat) (hp : p < 64) (hq : q < 64) (hne : p ≠ q) :
    (s.settleOutput k p).outSettled k q = s.outSettled k q := by
  have hout : (s.settleOutput k p).out k q = s.out k q := by
    rw [s.out_settleOutput k p k q hp hq, if_neg (fun h => hne h.2)]
  have hnow : (s.settleOutput k p).cadence = s.cadence := by rw [s.settleOutput_frame k p]
  unfold State.outSettled State.underCapo State.maskBit
  rw [hout, hnow, s.fget_capoMask_settleOutput k p]

end

/-! ### All outputs of a stack -/

/-- The outputs of `l` follow their Capo sources. -/
def State.settleList (s : State) (k : Nat) (l : List Nat) : State := s.forEach l fun s p => s.settleOutput k p

section
variable (s : State) (k : Nat)

theorem State.out_settleList (l : List Nat) (hl : ∀ p ∈ l, p < 64) (hnodup : l.Nodup) (j q : Nat) (hq : q < 64) :
    (s.settleList k l).out j q = if k = j ∧ q ∈ l then s.outSettled k q else s.out j q := by
  induction l generalizing s with
  | nil => simp [State.settleList, State.forEach]
  | cons p l ih =>
    obtain ⟨hp, hrest⟩ := List.forall_mem_cons.1 hl
    obtain ⟨hfresh, hnodup'⟩ := List.nodup_cons.1 hnodup
    have hstep : s.settleList k (p :: l) = (s.settleOutput k p).settleList k l := rfl
    rw [hstep, ih (s.settleOutput k p) hrest hnodup', s.out_settleOutput k p j q hp hq]
    by_cases hpq : p = q
    · subst hpq
      simp [hfresh]
    · simp [hpq, Ne.symm hpq, s.outSettled_settleOutput k p q hp hq hpq]

theorem State.settleList_frame (l : List Nat) :
    s.settleList k l = { s with regs := (s.settleList k l).regs, outputs := (s.settleList k l).outputs } := by
  induction l generalizing s with
  | nil => rfl
  | cons p l ih =>
    have hstep : s.settleList k (p :: l) = (s.settleOutput k p).settleList k l := rfl
    rw [hstep]
    refine (ih (s.settleOutput k p)).trans ?_
    rw [s.settleOutput_frame k p]

theorem State.keepsRegs_settleList (l : List Nat) : s.keepsRegs (s.settleList k l) [F.arbStkHardMax_COUNT k] := by
  induction l generalizing s with
  | nil => exact s.keepsRegs_refl _
  | cons p l ih => exact State.keepsRegs_trans _ _ _ _ (s.keepsRegs_settleOutput k p) (ih (s.settleOutput k p))

end

theorem State.ingCapoWrite_eq (s : State) (k w : Nat) :
    s.ingCapoWrite k w = (s.fset (F.arbStkIngCapo_MASK k) w).settleList k (List.range 64) := rfl

theorem State.fget_capoMask_write (s : State) (k : Nat) (m : Word) :
    (s.fset (F.arbStkIngCapo_MASK k) m.toNat).fget (F.arbStkIngCapo_MASK k) = m.toNat :=
  (s.fget_fset_same (F.arbStkIngCapo_MASK k) m.toNat (Fld.ok_mk (by decide))).trans (Nat.mod_eq_of_lt m.isLt)

theorem State.underCapo_write (s : State) (k p : Nat) (m : Word) :
    (s.fset (F.arbStkIngCapo_MASK k) m.toNat).underCapo k p = (m.getLsbD p || (s.out k p).hwIng != []) := by
  unfold State.underCapo State.maskBit
  rw [s.fget_capoMask_write k m]
  rfl

theorem State.keepsRegs_ingCapoWrite (s : State) (k w : Nat) :
    s.keepsRegs (s.ingCapoWrite k w) [F.arbStkIngCapo_MASK k, F.arbStkHardMax_COUNT k] :=
  State.keepsRegs_trans _ _ _ _ (s.keepsRegs_fset _ _ (F.arbStkIngCapo_MASK k) _ (Fld.ok_mk (by decide)) List.mem_cons_self (s.keepsRegs_refl _))
    (State.keepsRegs_mono _ _ _ _ (by simp) (State.keepsRegs_settleList _ k (List.range 64)))

/-! ### The statement -/

theorem exec_ingCapoWrite_ready (k : Fin 8) (m : Word) (s : State) (h : s.cpReady) (hk : k.val < s.build.nStacks) :
    exec (.ingCapoWrite k m) s = .next (s.cpOk.ingCapoWrite k m.toNat) := s.cpStk_ready k _ (fun u => u.ingCapoWrite k m.toNat) h hk

theorem exec_pccCapoWrite_ready (k : Fin 8) (m : Word) (s : State) (h : s.cpReady) (hk : k.val < s.build.nStacks) :
    exec (.pccCapoWrite k m) s = .next (s.cpOk.fset (F.arbStkPccCapo_MASK k) m.toNat) :=
  s.cpStk_ready k _ (fun u => u.fset (F.arbStkPccCapo_MASK k) m.toNat) h hk

theorem exec_pgCapoWrite_ready (m : BitVec 16) (s : State) (h : s.cpReady) :
    exec (.pgCapoWrite m) s = .next (s.cpOk.fset F.arbPgCapo_CAPO m.toNat) :=
  s.cpDo_ready _ (fun u => u.fset F.arbPgCapo_CAPO m.toNat) h

/-- A write of one field that the value fits. -/
theorem State.sets_fset_alone (s : State) (f : Fld) (v : Nat) (hf : f.Ok) (hv : v < 2 ^ (f.hi + 1 - f.lo)) :
    s.sets (s.fset f v) [(f, v)] := s.sets_fset s [] f v v hf (Nat.mod_eq_of_lt hv) (by simp) s.sets_nil

theorem State.emptied_of (s : State) (k p : Nat) (hbuf : (s.pcc k p).buf = []) (hmerges : (s.pcc k p).merges = [])
    (hfret : (s.pcc k p).fretQ = []) (hrb : (s.pcc k p).rb = []) (hrow : (s.pcc k p).rowCmd = none) (hrun : (s.pcc k p).replay = .run)
    (hlines : ∀ z ∈ (s.pcc k p).lines, z.st ≠ .filling) : s.emptied k p = true := by
  simpa [State.emptied, hbuf, hmerges, hfret, hrb, hrow, hrun] using hlines

theorem State.noResidue_of (s : State) (k p : Nat) (hbuf : ∀ q ∈ (s.pcc k p).buf, q.cls = 7) (hmerges : ∀ m ∈ (s.pcc k p).merges, m.cls = 7)
    (hfret : (s.pcc k p).fretQ = []) : s.noResidue k p = true := by
  simp only [State.noResidue, Bool.and_eq_true, List.all_eq_true, beq_iff_eq]
  exact ⟨⟨hbuf, hmerges⟩, hfret⟩

theorem exec_capoDrainSlow_due (k : Fin 8) (p : Fin 64) (s : State) (due : Nat) (hslow : s.slowAt k p = some due) (h : s.reaches due) :
    exec (.capoDrainSlow k p) s = .next (((s.momentOf due).setOut k p { s.out k p with warned := true }).post 0x0302 (unitPc k p) (argPc k p)
      (s.out k p).holdAt) := by
  simp only [exec, execCapoDrainSlow, hslow, Option.bind_some, s.atCadence_reaches due h]
  rfl

/-- Settles O21: the mask is written and every output settled; the other rows are the branches of their operations. -/
theorem capoHolds : Obligations.CapoHolds := by
  unfold Obligations.CapoHolds
  refine ⟨fun k m s hready hk => ⟨_, exec_ingCapoWrite_ready k m s hready hk, ?_⟩,
    fun k m s hready hk => ⟨_, exec_pccCapoWrite_ready k m s hready hk, s.cpOk.sets_fset_alone _ _ (Fld.ok_mk (by decide)) m.isLt⟩,
    fun m s hready => ⟨_, exec_pgCapoWrite_ready m s hready, s.cpOk.sets_fset_alone _ _ (by decide) m.isLt⟩,
    fun k p s hst hbuf hmerges hfret => congrArg Host.Outcome.next (if_pos ?_),
    fun k p s hst hbuf hmerges hfret hrb hrow hrun hlines => congrArg Host.Outcome.next (if_pos ?_),
    fun k p s hst hwarn hdw hreach => exec_capoDrainSlow_due k p s _ ?_ hreach, fun k p s hwarn => ?_⟩
  · rw [State.ingCapoWrite_eq]
    have hout := State.out_settleList (s.cpOk.fset (F.arbStkIngCapo_MASK k) m.toNat) k (List.range 64) (by simp) List.nodup_range
    refine ⟨?_, fun p hp => ?_, fun j p hp hj => ?_, ?_, s.cpOk.keepsRegs_ingCapoWrite k m.toNat⟩
    · rw [State.keepsRegs_settleList _ k _ (F.arbStkIngCapo_MASK k) (Fld.ok_mk (by decide)) (by
        simp [F.arbStkHardMax_COUNT, F.arbStkIngCapo_MASK, A.arbStkHardMax, A.arbStkIngCapo])]
      exact s.cpOk.fget_capoMask_write k m
    · rw [hout k p hp, if_pos ⟨rfl, List.mem_range.2 hp⟩, State.outSettled, Output.settled_st, State.underCapo_write]
      rfl
    · rw [hout j p hp, if_neg (fun h => hj (Fin.ext h.1.symm))]
      rfl
    · rw [State.settleList_frame]
      rfl
  · rw [s.noResidue_of k p hbuf hmerges hfret, hst]; rfl
  · rw [s.emptied_of k p hbuf hmerges hfret hrb hrow hrun hlines, hst]; rfl
  · simp only [State.slowAt, hwarn]
    rw [if_pos]
    simpa using ⟨hst, hdw⟩
  · have hslow : s.slowAt k p = none := by simp [State.slowAt, hwarn]
    simp only [exec, execCapoDrainSlow, hslow, Option.bind_none]

end Sys2Proof.Machine

/-! PROOFS. The data ports: headers that are held, requests that are accepted, and the checks of Table 2.13. -/

namespace Sys2Proof.Machine

/-! ### Sparse maps and the records of ports -/

theorem SMap.insert_insert {α : Type} (m : SMap α) (i : Nat) (v w : α) : SMap.insert (SMap.insert m i v) i w = SMap.insert m i w := by
  induction m with
  | nil => simp [SMap.insert]
  | cons e m ih =>
    obtain ⟨k, x⟩ := e
    by_cases hlt : i < k
    · simp [SMap.insert, hlt]
    · by_cases heq : i = k
      · simp [SMap.insert, heq]
      · simp [SMap.insert, hlt, heq, ih]

theorem SMap.erase_insert {α : Type} (m : SMap α) (i : Nat) (v : α) : SMap.erase (SMap.insert m i v) i = SMap.erase m i := by
  induction m with
  | nil => simp [SMap.insert, SMap.erase]
  | cons e m ih =>
    obtain ⟨k, x⟩ := e
    simp only [SMap.erase, ne_eq, decide_not] at ih
    by_cases hlt : i < k
    · simp [SMap.insert, SMap.erase, hlt]
    · by_cases heq : i = k
      · simp [SMap.insert, SMap.erase, heq]
      · simp [SMap.insert, SMap.erase, hlt, heq, ih, Ne.symm heq]

/-- The second of two writes at a key stands, where the first lists the key. -/
theorem SMap.put_put {α : Type} [DecidableEq α] (m : SMap α) (d : α) (i : Nat) (v w : α) (hv : v ≠ d) :
    SMap.put (SMap.put m d i v) d i w = SMap.put m d i w := by
  rw [SMap.put_eq m d i v, if_neg hv, SMap.put_eq, SMap.put_eq m, SMap.erase_insert, SMap.insert_insert]

@[simp] theorem State.port_setPort_same (s : State) (n : Nat) (p : Port) : (s.setPort n p).port n = p := SMap.get_put_same _ _ _ _

theorem State.port_setPort_other (s : State) (n m : Nat) (p : Port) (h : m ≠ n) : (s.setPort n p).port m = s.port m :=
  SMap.get_put_other _ _ _ _ _ _ h.symm

theorem State.setPort_setPort (s : State) (n : Nat) (p q : Port) (h : p ≠ Port.init) : (s.setPort n p).setPort n q = s.setPort n q := by
  unfold State.setPort
  rw [SMap.put_put _ _ _ _ _ h]

theorem Port.ne_init_of_everEn (p : Port) (h : p.everEn = true) : p ≠ Port.init := by
  rintro rfl
  cases h

theorem Port.ne_init_of_credits (p : Port) (l : Nat) (h : 0 < SMap.get p.credits 0 l) : p ≠ Port.init := by
  rintro rfl
  cases h

/-- Ports are no register. -/
theorem State.sets_setPort (s t : State) (l : List (Fld × Nat)) (n : Nat) (p : Port) (h : s.sets t l) :
    (s.setPort n p).sets (t.setPort n p) l :=
  s.sets_congr t _ _ l h rfl (by rw [State.setPort, h.1]; rfl)

theorem State.port_post (s : State) (c u x y n : Nat) : (s.post c u x y).port n = s.port n := by
  unfold State.port
  rw [State.post_ports]

/-- The address of a port's status register lies apart from the event queue's. -/
theorem glbPortStatus_ne_evStatus (n : Nat) : A.glbPortStatus n ≠ A.glbEvStatus := by
  unfold A.glbPortStatus A.glbEvStatus; omega

/-! ### The checks of Table 2.13 -/

theorem sizeBad_iff (op size addr : Nat) :
    sizeBad op size addr = true ↔ op ≠ opFence ∧ op ≠ opProbe ∧ (7 ≤ size ∨ (op = opPartial ∧ 3 ≤ size) ∨ addr % (64 * 2 ^ size) ≠ 0) := by
  simp [sizeBad, and_assoc, or_assoc]

/-- A master is turned away in check mode 2 alone (R61). -/
theorem State.resolveMid_isNone (s : State) (n mid : Nat) :
    (s.resolveMid n mid).isNone = true ↔ s.fget (F.glbPortCfg_MID_MODE n) = 2 ∧
      mid &&& s.fget (F.glbPortCfg_MID_MASK n) ≠ s.fget (F.glbPortCfg_MID n) &&& s.fget (F.glbPortCfg_MID_MASK n) := by
  unfold State.resolveMid
  by_cases h0 : s.fget (F.glbPortCfg_MID_MODE n) = 0
  · simp [h0]
  · by_cases h2 : s.fget (F.glbPortCfg_MID_MODE n) = 2
    · by_cases hm : mid &&& s.fget (F.glbPortCfg_MID_MASK n) = s.fget (F.glbPortCfg_MID n) &&& s.fget (F.glbPortCfg_MID_MASK n) <;>
        simp [h2, hm]
    · simp [h0, h2]

theorem State.inSibling_iff (s : State) (a n : Nat) :
    s.inSibling a n = true ↔ s.build.bridge = true ∧ (1 - s.build.sibling) * 2 ^ 41 ≤ a ∧
      a + n ≤ (1 - s.build.sibling) * 2 ^ 41 + s.fget F.glbSiblingSize_SIZE := by
  simp only [State.inSibling, Bool.and_eq_true, decide_eq_true_eq, and_assoc]
  rfl

theorem Build.inRange_iff (b : Build) (a n : Nat) : b.inRange a n = true ↔ b.addrBase ≤ a ∧ a + n ≤ b.addrBase + b.addrSize := by
  simp [Build.inRange]

/-- Settles O24: the branches of `State.portRefusal` in the order of the table. -/
theorem portChecks : Obligations.PortChecks := by
  unfold Obligations.PortChecks
  intro s n op h len a mode turned misfit here there
  have hsize : sizeBad op (hdrSize h) (hdrAddr h) = true ↔ misfit := sizeBad_iff _ _ _
  have hmid : (s.resolveMid n (hdrMid h)).isNone = true ↔ turned := s.resolveMid_isNone n (hdrMid h)
  have hhere : s.build.inRange a len = true ↔ here := Build.inRange_iff _ _ _
  have hthere : there ↔ s.inSibling a len = true ∧ s.flag F.glbBridgeStatus_UP = true := by
    rw [s.inSibling_iff]; simp only [there, and_assoc]
  have hrefusal : s.portRefusal n op h =
      if op ≥ 6 then some stDecode
      else if sizeBad op (hdrSize h) (hdrAddr h) then some stSize
      else if (s.resolveMid n (hdrMid h)).isNone then some stDenied
      else if op = opFence then none
      else if s.build.inRange a len then none
      else if !s.inSibling a len then some stDecode
      else if s.flag F.glbBridgeStatus_UP then none else some stDecode := rfl
  rw [hrefusal]
  refine ⟨fun hop => if_pos hop, fun hop hbad => ?_, fun hop hfit hturn => ?_, fun hop hfit hok hfence => ?_,
    fun hop hfit hok hnot hin => ?_, fun hop hfit hok hnot hout => ?_⟩
  all_goals rw [if_neg (Nat.not_le.2 hop)]
  · rw [if_pos (hsize.2 hbad)]; rfl
  all_goals rw [if_neg (mt hsize.1 hfit)]
  · rw [if_pos (hmid.2 hturn)]; rfl
  all_goals rw [if_neg (mt hmid.1 hok)]
  · rw [if_pos hfence]
  all_goals rw [if_neg hnot]
  · by_cases hin' : here
    · rw [if_pos (hhere.2 hin')]
    · obtain ⟨hsib, hup⟩ := hthere.1 (hin.resolve_left hin')
      rw [if_neg (mt hhere.1 hin'), hsib, hup]; rfl
  · obtain ⟨hout', hnotthere⟩ := not_or.1 hout
    rw [if_neg (mt hhere.1 hout')]
    cases hsib : s.inSibling a len with
    | false => rfl
    | true =>
      have hdown : s.flag F.glbBridgeStatus_UP ≠ true := fun hup => hnotthere (hthere.2 ⟨hsib, hup⟩)
      rw [if_neg hdown]; rfl

/-- The statuses of the port's checks (Table 2.13). -/
theorem State.portRefusal_cases (s : State) (n op : Nat) (h : BitVec 128) (c : Nat) (hc : s.portRefusal n op h = some c) :
    c = stDecode ∨ c = stSize ∨ c = stDenied := by
  unfold State.portRefusal at hc
  simp only at hc
  repeat' split at hc
  all_goals cases hc
  all_goals simp

/-- A request that the checks pass has an opcode of the table (R55). -/
theorem State.op_lt_of_portRefusal (s : State) (n op : Nat) (h : BitVec 128) (hc : s.portRefusal n op h = none) : op < 6 := by
  refine Nat.lt_of_not_le fun hop => ?_
  rw [State.portRefusal, if_pos hop] at hc
  cases hc

end Sys2Proof.Machine

/-! PROOFS. Requests that arrive at a port: header flits that wait, requests that are accepted or refused. -/

namespace Sys2Proof.Machine

theorem hdrOp_eq (h : BitVec 128) : hdrOp h = h.toNat % 8 := by simp [hdrOp, hdr, bitsOf]

/-- Every request command is an arrival at its port. -/
theorem exec_arrives (c : Instr) (s : State) (n : Nat) (x : HeldHdr) (h : c.arrives? = some (n, x)) :
    exec c s = .next (s.arrive n x) := by
  cases c
  case bridgeRequest h _ _ _ _ => cases h; rw [← hdrOp_eq]; rfl
  all_goals cases h
  all_goals rfl

/-- A request of an open data port waits for a slot when nothing else holds it up. -/
theorem State.needsSlot_eq (s : State) (n : Nat) (x : HeldHdr) (hn : n < 112) (hop : x.op ≠ opFence)
    (hbad : flitBad n x.op (hdrSize x.header) x.flits x.cut = false) (hok : s.portRefusal n x.op x.header = none) :
    s.needsSlot n x = s.missSlotShort n (hdrStream x.header) := by
  have h6 : x.op < 6 := s.op_lt_of_portRefusal n _ _ hok
  have h112 : n ≠ 112 := by omega
  simp [State.needsSlot, HeldHdr.bad, h112, hop, h6, hbad, hok]

/-- With a credit the request takes it. -/
theorem State.arrive_credit (s : State) (n : Nat) (x : HeldHdr) (hcore : s.coreOn = true) (hbuilt : s.portBuilt n = true)
    (hidle : (s.port n).hdr = none) (hever : (s.port n).everEn = true) (hcr : 0 < SMap.get (s.port n).credits 0 (hdrLabel x.header)) :
    s.arrive n x = (s.useCredit n (hdrLabel x.header)).credited n x := by
  simp [State.arrive, hcore, hbuilt, hidle, hever, Nat.ne_of_gt hcr]

theorem State.portBuilt_of_lt (s : State) (n : Nat) (hn : n < 112) : s.portBuilt n = true := by simp [State.portBuilt, hn]

/-- Settles O22: the branches of `State.arrive`. -/
theorem headerHeld : Obligations.HeaderHeld := by
  unfold Obligations.HeaderHeld
  intro c s n x harr l credits
  rw [exec_arrives c s n x harr]
  refine ⟨fun hheld => ?_, fun hcore hbuilt hidle hever => ?_, fun hcore hbuilt hidle hever hcr => ⟨_, rfl, ?_⟩,
    fun hcore hn hidle hever hcr hop hbad hok hshort => ⟨_, rfl, ?_⟩⟩
  · simp [State.arrive, Option.isSome_iff_ne_none.2 hheld]
  · simp [State.arrive, hcore, hbuilt, hidle, hever, State.holdHdr]
  · have hport : ((s.countSat (F.glbPortStatus_CREDIT_VIOL n) 1).iriProtocol n l 0).port n = s.port n := State.port_post _ _ _ _ _ _
    have harrive : s.arrive n x =
        ((s.countSat (F.glbPortStatus_CREDIT_VIOL n) 1).iriProtocol n l 0).setPort n { s.port n with hdr := some { x with why := .noCredit } } := by
      rw [← hport]
      simp [State.arrive, hcore, hbuilt, hidle, hever, show SMap.get (s.port n).credits 0 (hdrLabel x.header) = 0 from hcr, State.holdHdr, l]
    rw [harrive]
    refine State.sets_setPort _ _ _ _ _ (s.sets_post _ _ _ _ _ _ (List.forall_mem_singleton.2 (glbPortStatus_ne_evStatus n)) ?_)
    exact s.sets_countSat s [] _ (Fld.ok_mk (by decide)) (by simp) s.sets_nil
  · have hslot : (s.useCredit n l).needsSlot n x = true := by
      rw [State.needsSlot_eq (s.useCredit n l) n x hn hop hbad hok]; exact hshort
    rw [s.arrive_credit n x hcore (s.portBuilt_of_lt n hn) hidle hever hcr, State.credited, if_pos hslot]
    have hheld : (s.useCredit n l).holdHdr n .noMissSlot x = s.setPort n { s.port n with
        credits := SMap.put credits 0 l (SMap.get credits 0 l - 1), hdr := some { x with why := .noMissSlot } } := by
      simp only [State.holdHdr, State.useCredit, State.modPort, State.port_setPort_same]
      exact State.setPort_setPort _ _ _ _ (Port.ne_init_of_everEn _ hever)
    rw [hheld]
    exact State.sets_fset _ _ [] _ _ _ (by decide) rfl (by simp) (State.sets_nil _)

/-! ### A refusal: one response flit -/

/-- A request that has not aged counts nothing (R166). -/
theorem State.flitSent_young (s : State) (f : Flit) (r : Req) (hreq : s.req? f.req = some r) (hage : s.cadence ≤ r.arrival) :
    s.flitSent f = s := by
  have hzero : s.cadence - r.arrival = 0 := Nat.sub_eq_zero_of_le hage
  simp [State.flitSent, hreq, hzero]

@[simp] theorem State.req?_putReq_same (s : State) (i : Nat) (r : Req) : (s.putReq i r).req? i = some r := by
  simp [State.req?, State.putReq, SMap.get?_insert]

theorem State.req?_putReq_other (s : State) (i j : Nat) (r : Req) (h : j ≠ i) : (s.putReq i r).req? j = s.req? j := by
  simp [State.req?, State.putReq, SMap.get?_insert, h.symm]

/-- The one flit of a refused request (R68). -/
def Req.refusal (r : Req) (id c : Nat) : Flit := ⟨id, r.label, 0, true, false, r.op, c, r.mid, r.tag, 0, 0⟩

theorem Req.flit_refused (r : Req) (id n c : Nat) (href : r.refused = some c) (hc : c ≠ stOk) : r.flit id n 0 = r.refusal id c := by
  have hdata : r.dataFlits = false := by simp [Req.dataFlits, href]
  simp [Req.flit, Req.flitCount, Req.status, Req.refusal, href, hdata, hc]

/-- The response channel with one more flit on it. -/
def State.pushed (s : State) (n : Nat) (f : Flit) : Port :=
  { s.port n with rsq := (s.port n).rsq ++ [f], since := if (s.port n).rsq == [] then s.cadence else (s.port n).since }

theorem State.sendFlits_refused (s : State) (id n c : Nat) (r : Req) (hreq : s.req? id = some r) (hsrc : r.src = .port n)
    (href : r.refused = some c) (hc : c ≠ stOk) (hlast : r.lastSent = false) (hflits : r.flits = 0) (hage : s.cadence ≤ r.arrival) :
    s.sendFlits id = (s.setPort n (s.pushed n (r.refusal id c))).putReq id { r with flits := 1, lastSent := true } := by
  have hcount : ∀ m, r.flitCount m = 1 := fun m => by simp [Req.flitCount, Req.dataFlits, href]
  have hready : r.flitReady n 0 = true := by simp [Req.flitReady, href]
  have hpush : s.pushFlit n (r.refusal id c) = s.setPort n (s.pushed n (r.refusal id c)) := by
    have hyoung : ∀ p, (s.setPort n p).flitSent (r.refusal id c) = s.setPort n p := fun p => State.flitSent_young _ _ r hreq hage
    simp [State.pushFlit, State.pushed, hyoung]
  have hsend : s.sendFlit id = (s.setPort n (s.pushed n (r.refusal id c))).putReq id { r with flits := 1, lastSent := true } := by
    simp [State.sendFlit, hreq, hsrc, Src.port?, hlast, hflits, hready, hcount, r.flit_refused id n c href hc, hpush, State.lastFlitSent]
  simp [State.sendFlits, hreq, hcount, State.forEach, List.range_succ, hsend]

end Sys2Proof.Machine

/-! PROOFS. Requests that are accepted at a data port. -/

namespace Sys2Proof.Machine

/-- Requests and ports are no business of the event queue. -/
theorem State.post_books (s : State) (p : SMap Port) (q : SMap Req) (k c u x y : Nat) :
    ({ s with ports := p, reqs := q, nextReq := k } : State).post c u x y = { s.post c u x y with ports := p, reqs := q, nextReq := k } := by
  unfold State.post
  simp only
  split <;> rfl

/-- The state with a request just accepted and its credit to be returned. -/
def State.accepted (s : State) (n : Nat) (r : Req) : State :=
  ({ s with reqs := SMap.insert s.reqs s.nextReq r, nextReq := s.nextReq + 1 } : State).setPort n { s.port n with
    credits := SMap.put (s.port n).credits 0 r.label (SMap.get (s.port n).credits 0 r.label - 1)
    spent := (s.port n).spent ++ [⟨s.nextReq, r.label, false⟩] }

/-- A request as a port accepts it: nothing of it is answered yet. -/
structure Req.Fresh (r : Req) (s : State) (n : Nat) : Prop where
  src : r.src = .port n
  lastSent : r.lastSent = false
  flits : r.flits = 0
  age : s.cadence ≤ r.arrival
  forwarded : r.forwarded = false

/-- A refusal at the port sends one flit (R68). -/
theorem State.refuse_fresh (a : State) (n id c : Nat) (r : Req) (hreq : a.req? id = some r) (hfresh : r.Fresh a n) (hc : c ≠ stOk) :
    a.refuse id c = (((a.putReq id { r with refused := some c }).setPort n (a.pushed n (r.refusal id c))).putReq id
      { r with refused := some c, flits := 1, lastSent := true }) := by
  obtain ⟨hsrc, hlast, hflits, hage, hforw⟩ := hfresh
  have hmod : a.modReq id (fun q => { q with refused := some c, forwarded := false }) = a.putReq id { r with refused := some c } := by
    simp only [State.modReq, hreq]
    rw [← hforw]
  rw [State.refuse, hmod, State.sendFlits_refused (a.putReq id { r with refused := some c }) id n c { r with refused := some c }
    (State.req?_putReq_same _ _ _) hsrc rfl hc hlast hflits hage]
  rfl

/-- What a refusal leaves: the answered request, its flit on the channel, and nothing else changed. -/
theorem State.refuse_leaves (a : State) (n id c : Nat) (r : Req) (hreq : a.req? id = some r) (hfresh : r.Fresh a n) (hc : c ≠ stOk) :
    let t := a.refuse id c
    t.req? id = some { r with refused := some c, flits := 1, lastSent := true } ∧ t.port n = a.pushed n (r.refusal id c) ∧
      (∀ i, i ≠ id → t.req? i = a.req? i) ∧ (∀ m, m ≠ n → t.port m = a.port m) ∧ t = { a with ports := t.ports, reqs := t.reqs } := by
  intro t
  have ht : t = _ := a.refuse_fresh n id c r hreq hfresh hc
  rw [ht]
  refine ⟨State.req?_putReq_same _ _ _, State.port_setPort_same _ _ _, fun i hi => ?_, fun m hm => ?_, rfl⟩
  · rw [State.req?_putReq_other _ _ _ _ hi]
    exact State.req?_putReq_other _ _ _ _ hi
  · exact State.port_setPort_other _ _ _ _ hm

theorem State.accept_eq (s : State) (n : Nat) (x : HeldHdr) (r : Req) (hlost : x.lost = false) :
    s.accept n x r = (({ s with reqs := SMap.insert s.reqs s.nextReq r, nextReq := s.nextReq + 1 } : State).setPort n
      { s.port n with spent := (s.port n).spent ++ [⟨s.nextReq, hdrLabel x.header, false⟩] }, s.nextReq) := by
  rw [State.accept, hlost]; rfl

/-- The request that arrived takes a credit and is recorded. -/
theorem State.accept_useCredit (s : State) (n : Nat) (x : HeldHdr) (r : Req) (hlost : x.lost = false) (hlabel : r.label = hdrLabel x.header)
    (hever : (s.port n).everEn = true) :
    (s.useCredit n (hdrLabel x.header)).accept n x r = (s.accepted n r, s.nextReq) := by
  rw [State.accept_eq _ _ _ _ hlost, State.accepted, hlabel]
  refine Prod.ext ?_ rfl
  simp only [State.useCredit, State.modPort, State.port_setPort_same]
  exact State.setPort_setPort ({ s with reqs := SMap.insert s.reqs s.nextReq r, nextReq := s.nextReq + 1 } : State) n _ _
    (Port.ne_init_of_everEn _ hever)

/-- What the acceptance leaves. -/
theorem State.req?_accepted (s : State) (n : Nat) (r : Req) : (s.accepted n r).req? s.nextReq = some r := State.req?_putReq_same _ _ _

theorem State.req?_accepted_other (s : State) (n i : Nat) (r : Req) (hi : i ≠ s.nextReq) : (s.accepted n r).req? i = s.req? i :=
  State.req?_putReq_other _ _ _ _ hi

theorem State.port_accepted_other (s : State) (n m : Nat) (r : Req) (hm : m ≠ n) : (s.accepted n r).port m = s.port m :=
  State.port_setPort_other _ _ _ _ hm

/-- A request that is served, by its checks in order. -/
theorem State.arrive_served (s : State) (n : Nat) (x : HeldHdr) (hn : n < 112) (hlost : x.lost = false) (hcore : s.coreOn = true)
    (hidle : (s.port n).hdr = none) (hever : (s.port n).everEn = true) (hcr : 0 < SMap.get (s.port n).credits 0 (hdrLabel x.header))
    (hslot : s.needsSlot n x = false) :
    s.arrive n x = (let a := s.accepted n (s.newReq n x.op x.header x.data x.be)
      if x.bad n then a.mismatch n s.nextReq x
      else match s.portRefusal n x.op x.header with
        | some c => a.refuse s.nextReq c
        | none => if x.op = opFence then a else a.toStream s.nextReq (hdrStream x.header)) := by
  have h112 : n ≠ 112 := by omega
  have hslot' : (s.useCredit n (hdrLabel x.header)).needsSlot n x = false := hslot
  rw [s.arrive_credit n x hcore (s.portBuilt_of_lt n hn) hidle hever hcr, State.credited, hslot', if_neg Bool.false_ne_true, if_neg h112,
    State.serveReq, s.accept_useCredit n x _ hlost rfl hever]
  rfl

theorem lost_of_arrives (c : Instr) (n : Nat) (x : HeldHdr) (h : c.arrives? = some (n, x)) : x.lost = false := by
  cases c
  all_goals cases h
  all_goals rfl

/-- A mismatch of the flits is counted and reported before the refusal. -/
theorem State.mismatch_eq (s : State) (n id : Nat) (x : HeldHdr) :
    s.mismatch n id x = ((s.countSat (F.glbPortStatus_FLIT_MISMATCH n) 1).post 0x0406 n n (hdrLabel x.header + 2 ^ 16)).refuse id stSize := rfl

/-- Settles O23: the request is recorded, and what its checks find decides. -/
theorem requestAccepted : Obligations.RequestAccepted := by
  unfold Obligations.RequestAccepted
  intro c s n x harr hn hcore hidle hever hcr l bad p r a refused
  have hserve := s.arrive_served n x hn (lost_of_arrives c n x harr) hcore hidle hever hcr
  have hbadx : x.bad n = bad := rfl
  have hafter : s.accepted n r = a := rfl
  rw [exec_arrives c s n x harr]
  have hrefuse : ∀ (b u : State) (c : Nat), u = { b with ports := a.ports, reqs := a.reqs, nextReq := s.nextReq + 1, regs := u.regs } →
      u.cadence = s.cadence → c ≠ stOk → refused c b (u.refuse s.nextReq c) ∧ (u.refuse s.nextReq c).regs = u.regs := by
    intro b u c hu hcad hc
    have hreqs : u.reqs = a.reqs := by rw [hu]
    have hports : u.ports = a.ports := by rw [hu]
    have hreq : ∀ i, u.req? i = a.req? i := fun i => by rw [State.req?, hreqs]; rfl
    have hport : ∀ m, u.port m = a.port m := fun m => by rw [State.port, hports]; rfl
    have hfresh : r.Fresh u n := ⟨rfl, rfl, rfl, Nat.le_of_eq hcad, rfl⟩
    obtain ⟨hid, hn', hothers, hports', hrest⟩ := u.refuse_leaves n s.nextReq c r ((hreq _).trans (s.req?_accepted n r)) hfresh hc
    have hpn : a.port n = p := State.port_setPort_same _ _ _
    have hregs : (u.refuse s.nextReq c).regs = u.regs := (congrArg State.regs hrest :)
    refine ⟨⟨hid, ?_, ?_, ?_, fun i hi => ?_, fun m hm => ?_, ?_⟩, hregs⟩
    · rw [hn', State.pushed, hport, hpn]; rfl
    · rw [hn', State.pushed, hport, hpn]
    · rw [hn', State.pushed, hport, hpn]
    · rw [hothers i hi, hreq, ← hafter, s.req?_accepted_other n i r hi]
    · rw [hports' m hm, hport, ← hafter, s.port_accepted_other n m r hm]
    · rw [hregs]
      exact hrest.trans (by rw [hu])
  refine ⟨fun hbad => ⟨_, rfl, ?_⟩, fun hfit c' hc' => ⟨_, rfl, ?_⟩, fun hfit hok hfence => ?_, fun hfit hok hop hshort => ?_⟩
  · have hslot : s.needsSlot n x = false := by simp [State.needsSlot, hbadx, hbad]
    rw [hserve hslot, if_pos (hbadx.trans hbad), State.mismatch_eq]
    change refused stSize _ ((((s.accepted n r).countSat _ 1).post _ n n _).refuse _ stSize) ∧ _
    rw [hafter]
    have hposted := s.sets_post _ _ 0x0406 n n (l + 2 ^ 16) (List.forall_mem_singleton.2 (glbPortStatus_ne_evStatus n))
      (s.sets_countSat s [] (F.glbPortStatus_FLIT_MISMATCH n) (Fld.ok_mk (by decide)) (by simp) s.sets_nil)
    have hu : (a.countSat (F.glbPortStatus_FLIT_MISMATCH n) 1).post 0x0406 n n (l + 2 ^ 16) =
        { (s.countSat (F.glbPortStatus_FLIT_MISMATCH n) 1).post 0x0406 n n (l + 2 ^ 16) with
          ports := a.ports, reqs := a.reqs, nextReq := s.nextReq + 1 } :=
      State.post_books (s.countSat (F.glbPortStatus_FLIT_MISMATCH n) 1) a.ports a.reqs _ _ _ _ _
    obtain ⟨href, hregs⟩ := hrefuse (s.post 0x0406 n n (l + 2 ^ 16))
      ((a.countSat (F.glbPortStatus_FLIT_MISMATCH n) 1).post 0x0406 n n (l + 2 ^ 16)) stSize (by rw [hu, hposted.1]) (by rw [hu]; simp) (by decide)
    have hfields : ∀ f, (((a.countSat (F.glbPortStatus_FLIT_MISMATCH n) 1).post 0x0406 n n (l + 2 ^ 16)).refuse s.nextReq stSize).fget f =
        ((s.countSat (F.glbPortStatus_FLIT_MISMATCH n) 1).post 0x0406 n n (l + 2 ^ 16)).fget f :=
      fun f => by unfold State.fget State.reg; rw [hregs, hu]
    refine ⟨href, (hfields _).trans (hposted.2.1 _ (List.mem_singleton_self _)), fun g hg ha => (hfields g).trans (hposted.2.2 g hg ha)⟩
  · have hslot : s.needsSlot n x = false := by simp [State.needsSlot, hc']
    rw [hserve hslot, if_neg (by rw [hbadx, hfit]; exact Bool.false_ne_true), hc']
    have hne : c' ≠ stOk := by
      rcases s.portRefusal_cases n _ _ c' hc' with rfl | rfl | rfl <;> decide
    exact hrefuse s a c' rfl rfl hne
  · have hslot : s.needsSlot n x = false := by simp [State.needsSlot, hfence]
    rw [hserve hslot, if_neg (by rw [hbadx, hfit]; exact Bool.false_ne_true), hok]
    exact congrArg _ (if_pos hfence)
  · have hslot : s.needsSlot n x = false := by simp [State.needsSlot, hshort]
    rw [hserve hslot, if_neg (by rw [hbadx, hfit]; exact Bool.false_ne_true), hok]
    exact congrArg _ (if_neg hop)

end Sys2Proof.Machine

/-! PROOFS. Held headers that are served, the response channel, and the return of credits. -/

namespace Sys2Proof.Machine

theorem State.sets_flitMismatch (s : State) (n a : Nat) :
    (s.post 0x0406 n n a).sets ((s.countSat (F.glbPortStatus_FLIT_MISMATCH n) 1).post 0x0406 n n a)
      [(F.glbPortStatus_FLIT_MISMATCH n, s.topped (F.glbPortStatus_FLIT_MISMATCH n) 1)] :=
  s.sets_post _ _ 0x0406 n n a (List.forall_mem_singleton.2 (glbPortStatus_ne_evStatus n))
    (s.sets_countSat s [] (F.glbPortStatus_FLIT_MISMATCH n) (Fld.ok_mk (by decide)) (by simp) s.sets_nil)

theorem Port.waitsCredit_eq (p : Port) (x : HeldHdr) (hx : p.hdr = some x) (hwhy : x.why ≠ .noMissSlot) : p.waitsCredit = some x := by
  simp [Port.waitsCredit, hx, hwhy]

theorem Port.returnable_eq (p : Port) (l : Nat) : p.returnable l = p.spent.find? fun e => e.acked && e.label == l := rfl

theorem Port.returnable_eq_none (p : Port) (l : Nat) (h : ∀ e ∈ p.spent, ¬ (e.acked = true ∧ e.label = l)) : p.returnable l = none := by
  rw [Port.returnable_eq, List.find?_eq_none]
  simpa using h

/-- A credit is returned at an enabled port, of a label that is not over share, once one may be (R76, R165). -/
theorem State.mayReturn_iff (s : State) (n l : Nat) :
    s.mayReturn n l = true ↔ s.flag (F.glbPortCfg_EN n) = true ∧ s.overShare l = false ∧ ∃ r, (s.port n).returnable l = some r := by
  simp [State.mayReturn, Option.isSome_iff_exists, and_assoc]

/-- Where no request is kept back, none is dispatched. -/
theorem State.dispatchKept_none (s : State) (n : Nat) (h : ∀ e ∈ s.reqs, e.2.src = .port n → s.keptBack e.1 e.2 = false) :
    s.dispatchKept n = s := by
  have hnone : (s.reqs.filter fun e => e.2.src == .port n && s.keptBack e.1 e.2) = [] := by
    rw [List.filter_eq_nil_iff]
    intro e he hkept
    obtain ⟨hsrc, hkept⟩ := Bool.and_eq_true_iff.1 hkept
    rw [h e he (by simpa using hsrc)] at hkept
    cases hkept
  simp [State.dispatchKept, hnone, State.forEach]

/-- MISS_HOLD_RELEASE once the requests that a fence kept back are dispatched. -/
theorem exec_missHoldRelease_waits (n : Fin 112) (s : State)
    (h : ∀ x, ((s.dispatchKept n.val).port n.val).hdr = some x →
      x.why ≠ .noMissSlot ∨ (s.dispatchKept n.val).missSlotShort n.val (hdrStream x.header) = true) :
    exec (.missHoldRelease n) s = .next (s.dispatchKept n.val) := by
  change execMissHoldRelease n s = _
  unfold execMissHoldRelease
  cases hx : ((s.dispatchKept n.val).port n.val).hdr with
  | none => simp [hx]
  | some x =>
    rcases h x hx with hwhy | hshort
    · simp [hx, hwhy]
    · simp [hx, hshort]

theorem exec_missHoldRelease_serves (n : Fin 112) (s : State) (x : HeldHdr) (hx : ((s.dispatchKept n.val).port n.val).hdr = some x)
    (hwhy : x.why = .noMissSlot) (hshort : (s.dispatchKept n.val).missSlotShort n.val (hdrStream x.header) = false) :
    exec (.missHoldRelease n) s = .next (((s.dispatchKept n.val).setPort n.val { (s.dispatchKept n.val).port n.val with hdr := none }).serveReq n.val x) := by
  change execMissHoldRelease n s = _
  unfold execMissHoldRelease
  simp [hx, hwhy, hshort]

/-- Settles O25: the branches of the three commands. -/
theorem heldHeaderServed : Obligations.HeldHeaderServed := by
  unfold Obligations.HeldHeaderServed
  refine ⟨fun n s hcore hbuilt hidle => ⟨_, rfl, ?_⟩, ?_, fun n s x hx hwhy hkept => ?_, ?_⟩
  · rw [hcore, hbuilt, hidle]
    exact s.sets_flitMismatch n.val _
  · intro n s x hx hwhy l credits
    have hexec : exec (.heldHeaderAccepted n) s =
        if !s.flag (F.glbPortCfg_EN n.val) then .next s
        else if 0 < SMap.get credits 0 l then
          .next (((s.modPort n.val fun p => { p with hdr := none }).useCredit n.val l).credited n.val x)
        else if s.mayReturn n.val l then
          .next ((s.modPort n.val fun p =>
            { p with hdr := none, spent := p.spent.erase ((p.returnable l).getD ⟨0, l, true⟩) }).credited n.val x)
        else .next s := by
      change execHeldHeaderAccepted n s = _
      unfold execHeldHeaderAccepted
      simp only [Port.waitsCredit_eq _ x hx hwhy]
      rfl
    rw [hexec]
    refine ⟨fun hen => by simp [hen], fun hen hcr => ?_, fun hen hcr hshare r hr => ?_, fun hcr hwait => ?_⟩
    · have hne : ({ s.port n.val with hdr := none } : Port) ≠ Port.init := Port.ne_init_of_credits _ l hcr
      simp only [hen, hcr, State.useCredit, State.modPort, State.port_setPort_same, State.setPort_setPort _ _ _ _ hne]
      rfl
    · have hret : s.mayReturn n.val l = true := (s.mayReturn_iff _ _).2 ⟨hen, hshare, r, hr⟩
      simp only [hen, hcr, hret, State.modPort, Port.returnable_eq, hr]
      rfl
    · have hret : s.mayReturn n.val l ≠ true := by
        intro hret
        obtain ⟨_, hshare, r, hr⟩ := (s.mayReturn_iff _ _).1 hret
        rcases hwait with hover | hnone
        · rw [hover] at hshare; cases hshare
        · rw [Port.returnable_eq_none _ _ hnone] at hr; cases hr
      simp [hcr, hret]
  · have hnone := s.dispatchKept_none n.val hkept
    refine ⟨fun hshort => ?_, fun hshort => ?_⟩
    · have hwaits := exec_missHoldRelease_waits n s
      rw [hnone] at hwaits
      exact hwaits fun y hy => .inr (by cases hx.symm.trans hy; exact hshort)
    · have hserves := exec_missHoldRelease_serves n s x
      rw [hnone] at hserves
      exact hserves hx hwhy hshort
  · intro n s u
    exact ⟨exec_missHoldRelease_waits n s, exec_missHoldRelease_serves n s⟩

/-! ### The response channel -/

/-- Flit `g` of request `r` heads the channel, is the LAST of its response, and comes after the label's target (R166). -/
def State.Late (s : State) (n : Nat) (g : Flit) (r : Req) : Prop :=
  (s.port n).rsq.head? = some g ∧ s.req? g.req = some r ∧ g.last = true ∧ s.fget (F.trfLabelCfg_TARGET r.label) ≠ 0 ∧
    s.fget (F.trfLabelCfg_TARGET r.label) < s.cadence - r.arrival

theorem State.nextFlit_late (s : State) (n : Nat) (g : Flit) (r : Req) (h : s.Late n g r) :
    s.nextFlit n = s.countSat (F.trfLabelStat_LATE r.label) 1 := by
  obtain ⟨hhead, hreq, hlast, hset, hold⟩ := h
  unfold State.nextFlit
  cases hq : (s.port n).rsq with
  | nil => rw [hq] at hhead; cases hhead
  | cons f l =>
    rw [hq] at hhead
    cases hhead
    simp [State.flitSent, hreq, hlast, hset, hold]

theorem State.nextFlit_onTime (s : State) (n : Nat) (h : ∀ g r, ¬ s.Late n g r) : s.nextFlit n = s := by
  unfold State.nextFlit
  cases hq : (s.port n).rsq with
  | nil => rfl
  | cons f l =>
    cases hreq : s.req? f.req with
    | none => simp [State.flitSent, hreq]
    | some r =>
      have hnot : ¬ (f.last = true ∧ s.fget (F.trfLabelCfg_TARGET r.label) ≠ 0 ∧ s.fget (F.trfLabelCfg_TARGET r.label) < s.cadence - r.arrival) :=
        fun hlate => h f r ⟨by rw [hq]; rfl, hreq, hlate⟩
      simp only [State.flitSent, hreq]
      rw [if_neg]
      simpa [and_assoc] using hnot

theorem State.nextFlit_frame (s : State) (n : Nat) : s.nextFlit n = { s with regs := (s.nextFlit n).regs } := by
  by_cases h : ∃ g r, s.Late n g r
  · obtain ⟨g, r, hlate⟩ := h
    rw [s.nextFlit_late n g r hlate]; rfl
  · rw [s.nextFlit_onTime n fun g r hlate => h ⟨g, r, hlate⟩]

/-- The port once its pending flit `f` is acknowledged: `l` are behind it (R74, R76). -/
def Port.afterAck (p : Port) (f : Flit) (l : List Flit) (now : Nat) : Port :=
  { p with
    rsq := l, since := now
    spent := if f.last then p.spent.map fun c => if c.req = f.req then { c with acked := true } else c else p.spent }

/-- The acknowledgement itself; the flit behind is not looked at yet. -/
def State.acked (s : State) (n : Nat) (f : Flit) (l : List Flit) : State :=
  let t := s.setPort n ((s.port n).afterAck f l s.cadence)
  (if f.last then t.dropReq f.req else t).fset (F.glbPortStatus_STALLED n) 0

theorem exec_responseFlitAck (n : Fin 113) (s : State) (f : Flit) (l : List Flit) (hq : (s.port n.val).rsq = f :: l) :
    exec (.responseFlitAck n) s = .next ((s.acked n.val f l).nextFlit n.val) := by
  change execResponseFlitAck n s = _
  unfold execResponseFlitAck
  simp only [hq]
  have hport : (s.port n.val).afterAck f l s.cadence = { s.port n.val with
      rsq := (s.port n.val).rsq.drop 1, since := s.cadence
      spent := if f.last then (s.port n.val).spent.map fun c => if c.req = f.req then { c with acked := true } else c
        else (s.port n.val).spent } := by rw [hq]; rfl
  rw [State.acked, hport]
  cases f.last <;> rfl

theorem State.port_acked (s : State) (n m : Nat) (f : Flit) (l : List Flit) :
    (s.acked n f l).port m = if m = n then (s.port n).afterAck f l s.cadence else s.port m := by
  have hports : (s.acked n f l).ports = (s.setPort n ((s.port n).afterAck f l s.cadence)).ports := by
    unfold State.acked; cases f.last <;> rfl
  unfold State.port
  rw [hports]
  split
  next h => rw [h]; exact State.port_setPort_same _ _ _
  next h => exact State.port_setPort_other _ _ _ _ h

theorem State.req?_acked (s : State) (n i : Nat) (f : Flit) (l : List Flit) :
    (s.acked n f l).req? i = if f.last = true ∧ i = f.req then none else s.req? i := by
  unfold State.acked
  cases f.last with
  | false => simp; rfl
  | true =>
    change SMap.get? (SMap.erase s.reqs f.req) i = _
    rw [SMap.get?_erase]
    simp [eq_comm, State.req?]

theorem State.sets_acked (s : State) (n : Nat) (f : Flit) (l : List Flit) :
    ({ s with ports := (s.acked n f l).ports, reqs := (s.acked n f l).reqs } : State).sets (s.acked n f l) [(F.glbPortStatus_STALLED n, 0)] := by
  have hfset : s.acked n f l = ({ s with ports := (s.acked n f l).ports, reqs := (s.acked n f l).reqs } : State).fset (F.glbPortStatus_STALLED n) 0 := by
    unfold State.acked; cases f.last <;> rfl
  have hset := State.sets_fset_alone { s with ports := (s.acked n f l).ports, reqs := (s.acked n f l).reqs } (F.glbPortStatus_STALLED n) 0
    (Fld.ok_mk (by decide)) (Nat.two_pow_pos _)
  rw [← hfset] at hset
  exact hset

/-- The registers of labels lie behind those of the ports. -/
theorem glbPortStatus_lt_trfLabel (n : Fin 113) (l : Nat) : A.glbPortStatus n.val < A.trfLabelCfg l ∧ A.glbPortStatus n.val < A.trfLabelStat l := by
  unfold A.glbPortStatus A.trfLabelCfg A.trfLabelStat
  omega

/-- Settles O26: the branches of the three commands. -/
theorem responseChannel : Obligations.ResponseChannel := by
  unfold Obligations.ResponseChannel
  refine ⟨fun n s hq => ?_, fun n s f l hq => ?_, ?_, fun n s hidle => ?_, ?_, fun n l s hnone => ?_⟩
  · change execResponseFlitAck n s = _
    unfold execResponseFlitAck
    simp only [hq]
  · refine ⟨_, exec_responseFlitAck n s f l hq, ?_⟩
    generalize ht : (s.acked n.val f l).nextFlit n.val = t
    have hframe : t = { s.acked n.val f l with regs := t.regs } := by rw [← ht]; exact State.nextFlit_frame _ _
    have hport : ∀ m, t.port m = (s.acked n.val f l).port m := fun m => by rw [hframe]; rfl
    have hreq : ∀ i, t.req? i = (s.acked n.val f l).req? i := fun i => by rw [hframe]; rfl
    have hsets : ({ s with ports := t.ports, reqs := t.reqs } : State).sets (s.acked n.val f l) [(F.glbPortStatus_STALLED n.val, 0)] := by
      rw [hframe]; exact s.sets_acked n.val f l
    have hlate : ∀ g r, (l.head? = some g ∧ t.req? g.req = some r ∧ g.last = true ∧ s.fget (F.trfLabelCfg_TARGET r.label) ≠ 0 ∧
        s.fget (F.trfLabelCfg_TARGET r.label) < s.cadence - r.arrival) ↔ (s.acked n.val f l).Late n.val g r := by
      intro g r
      have htarget : (s.acked n.val f l).fget (F.trfLabelCfg_TARGET r.label) = s.fget (F.trfLabelCfg_TARGET r.label) :=
        (s.sets_acked n.val f l).2.2 _ (Fld.ok_mk (by decide))
          (List.forall_mem_singleton.2 (.inl (Nat.ne_of_lt (glbPortStatus_lt_trfLabel n r.label).1)))
      have hcad : (s.acked n.val f l).cadence = s.cadence := by unfold State.acked; cases f.last <;> rfl
      unfold State.Late
      rw [htarget, hcad, ← hreq, s.port_acked, if_pos rfl]
      rfl
    refine ⟨?_, fun m hm => ?_, fun i => ?_, fun hno => ?_, fun g r hg hl => ?_⟩
    · rw [hport, s.port_acked, if_pos rfl]; rfl
    · rw [hport, s.port_acked, if_neg hm]
    · rw [hreq, s.req?_acked]
    · rw [State.nextFlit_onTime _ _ fun g r h => hno g r ((hlate g r).2 h)] at ht
      rw [ht] at hsets
      exact hsets
    · rw [State.nextFlit_late _ _ g r ((hlate g r).1 hg)] at ht
      have hapart : (F.glbPortStatus_STALLED n.val).Apart (F.trfLabelStat_LATE r.label) :=
        .inl (Nat.ne_of_lt (glbPortStatus_lt_trfLabel n r.label).2)
      have hbefore : (s.acked n.val f l).topped (F.trfLabelStat_LATE r.label) 1 = s.topped (F.trfLabelStat_LATE r.label) 1 := by
        have hkept := (s.sets_acked n.val f l).2.2 _ (Fld.ok_mk (by decide)) (List.forall_mem_singleton.2 hapart)
        exact congrArg (fun v => min _ (v + 1)) hkept
      have hcounted := State.sets_countSat _ _ _ (F.trfLabelStat_LATE r.label) (Fld.ok_mk (by decide))
        (List.forall_mem_singleton.2 hapart.symm) hsets
      rw [ht, hbefore] at hcounted
      exact State.sets_perm _ _ _ _ (fun e => by simp [or_comm]) hcounted
  · intro n s hq hstall due hdue
    refine ⟨((s.momentOf due).raise (F.glbPortStatus_STALLED n.val)).post 0x0405 n.val n.val 0, ?_, ?_⟩
    · change execResponseStall n s = _
      unfold execResponseStall
      simp only [hstall, hq, Bool.false_eq_true, or_self, if_false]
      rw [s.atCadence_reaches _ hdue]
    · exact State.sets_post _ _ _ _ _ _ _ (List.forall_mem_singleton.2 (glbPortStatus_ne_evStatus n.val))
        (State.sets_raise _ _ [] _ (Fld.ok_mk (by decide)) (by simp) (State.sets_nil _))
  · change execResponseStall n s = _
    unfold execResponseStall
    exact if_pos hidle
  · intro n l s r hr wanted
    have hret : (s.port n.val).returnable l.val = some r := hr
    have hwanted : ((s.port n.val).waitsCredit.any fun h => hdrLabel h.header == l.val) = true ↔ wanted := by
      simp only [wanted, Port.waitsCredit]
      cases (s.port n.val).hdr with
      | none => simp
      | some x => by_cases hwhy : x.why = .noMissSlot <;> simp [Option.filter, hwhy]
    have hexec : exec (.creditReturn n l) s =
        if s.mayReturn n.val l.val && !((s.port n.val).waitsCredit.any fun h => hdrLabel h.header == l.val) then
          .next (s.setPort n.val { s.port n.val with
            spent := (s.port n.val).spent.erase r
            credits := SMap.put (s.port n.val).credits 0 l.val (SMap.get (s.port n.val).credits 0 l.val + 1)
            crs := [⟨false, 1, l.val⟩] })
        else .next s := by
      change execCreditReturn n l s = _
      unfold execCreditReturn
      simp only [hret]
      rfl
    rw [hexec]
    refine ⟨fun hen hshare hfree => if_pos ?_, fun hbar => if_neg ?_⟩
    · rw [(s.mayReturn_iff _ _).2 ⟨hen, hshare, r, hret⟩, Bool.eq_false_iff.2 (mt hwanted.1 hfree)]; rfl
    · intro hgo
      obtain ⟨hmay, hfree⟩ := Bool.and_eq_true_iff.1 hgo
      obtain ⟨hen, hshare, -⟩ := (s.mayReturn_iff _ _).1 hmay
      rcases hbar with hoff | hover | hwant
      · rw [hoff] at hen; cases hen
      · rw [hover] at hshare; cases hshare
      · rw [hwanted.2 hwant] at hfree; cases hfree
  · change execCreditReturn n l s = _
    unfold execCreditReturn
    simp only [Port.returnable_eq_none _ _ hnone]

end Sys2Proof.Machine

/-! PROOFS. Ports that are enabled and disabled. -/

namespace Sys2Proof.Machine

/-! ### The exit from QUIET and the response line -/

/-- SCRUB of a stack follows SCRUB_EN again, and its rates start anew (Table 13.2). -/
def State.scrubResumed (s : State) (k : Nat) : State :=
  let s := s.fset (F.bowStatus_SCRUB k) (bit (s.flag (F.bowCfg_SCRUB_EN k)))
  s.setBow k { s.bow k with scrub := ⟨s.cadence, 0⟩, copy := ⟨s.cadence, 0⟩ }

/-- What the exit from QUIET starts at the Bow engines changes registers and the engines alone. -/
theorem State.scrubOn_frame (s : State) : s.scrubOn = { s with regs := s.scrubOn.regs, bows := s.scrubOn.bows } := by
  suffices h : ∀ (l : List Nat) (t : State), t = { s with regs := t.regs, bows := t.bows } →
      l.foldl State.scrubResumed t = { s with regs := (l.foldl State.scrubResumed t).regs, bows := (l.foldl State.scrubResumed t).bows } from
    h s.stacks s rfl
  intro l
  induction l with
  | nil => exact fun t ht => ht
  | cons k l ih => exact fun t ht => ih (t.scrubResumed k) (by rw [ht]; rfl)

theorem State.quietExit_frame (s : State) (src : Nat) :
    let t := s.quietExit src
    t = { s with
      regs := t.regs, bows := t.bows, events := t.events, dropCount := t.dropCount, dropStamp := t.dropStamp, power := .active } := by
  have hscrub := State.scrubOn_frame ({ (s.wakeStatus src 1) with power := .active } : State)
  have hpost := State.post_frame (State.scrubOn ({ (s.wakeStatus src 1) with power := .active } : State)) 0x0414 0 (src + 1 * 2 ^ 4) 0
  intro t
  have ht : t = ((State.scrubOn ({ (s.wakeStatus src 1) with power := .active } : State)).post 0x0414 0 (src + 1 * 2 ^ 4) 0).enterGroup 0 := rfl
  rw [ht, hpost, hscrub]
  rfl

theorem State.quietExit_cpOk (s : State) (src : Nat) : s.cpOk.quietExit src = (s.quietExit src).cpOk := by
  have hscrub : ∀ (l : List Nat) (t : State), l.foldl State.scrubResumed t.cpOk = (l.foldl State.scrubResumed t).cpOk := by
    intro l
    induction l with
    | nil => exact fun _ => rfl
    | cons k l ih => exact fun t => ih (t.scrubResumed k)
  have hpost : ∀ (t : State) (c u x y : Nat), t.cpOk.post c u x y = (t.post c u x y).cpOk := by
    intro t c u x y
    unfold State.post State.cpOk
    simp only
    split <;> rfl
  have hon : State.scrubOn (State.cpOk { (s.wakeStatus src 1) with power := .active }) =
      (State.scrubOn { (s.wakeStatus src 1) with power := .active }).cpOk := hscrub _ _
  have hexit : s.cpOk.quietExit src =
      ((State.scrubOn (State.cpOk { (s.wakeStatus src 1) with power := .active })).post 0x0414 0 (src + 1 * 2 ^ 4) 0).enterGroup 0 := rfl
  rw [hexit, hon, hpost]
  rfl

theorem State.cpReady_quietExit (s : State) (src : Nat) (h : s.cpReady) : (s.quietExit src).cpReady := by
  obtain ⟨_, hwait, hstream⟩ := h
  unfold State.cpReady
  rw [s.quietExit_frame src]
  exact ⟨rfl, hwait, hstream⟩

/-! ### A write of PORT_CFG -/

/-- The fields of PORT_CFG that a write takes beside EN (R115). -/
def State.cfgFields (s : State) (n w : Nat) : List (Fld × Nat) :=
  (F.glbPortCfg_STALL_LIMIT n, bitsOf w 31 16) ::
    if s.flag F.glbAccLock_LOCK then [] else [(F.glbPortCfg_MID n, bitsOf w 63 52), (F.glbPortCfg_MID_MASK n, bitsOf w 51 40),
      (F.glbPortCfg_MID_MODE n, bitsOf w 39 38)]

theorem glbPortCfg_ne_glbAccLock (n : Fin 113) : A.glbPortCfg n.val ≠ A.glbAccLock := by
  unfold A.glbPortCfg A.glbAccLock; omega

theorem State.sets_portFields (s : State) (n : Fin 113) (w : Nat) : s.sets (s.portFields n.val w) (s.cfgFields n.val w) := by
  have hstall := s.sets_fset s [] (F.glbPortCfg_STALL_LIMIT n.val) _ _ (Fld.ok_mk (by decide)) (Nat.mod_eq_of_lt (bitsOf_fits w 31 16))
    (by simp) s.sets_nil
  have hlock : (s.fset (F.glbPortCfg_STALL_LIMIT n.val) (bitsOf w 31 16)).flag F.glbAccLock_LOCK = s.flag F.glbAccLock_LOCK := by
    unfold State.flag
    rw [s.fget_fset_apart (F.glbPortCfg_STALL_LIMIT n.val) F.glbAccLock_LOCK _ (Fld.ok_mk (by decide)) (.inl (glbPortCfg_ne_glbAccLock n))]
  unfold State.portFields State.cfgFields
  simp only [hlock]
  split
  · exact hstall
  · have hmid := s.sets_fset _ _ (F.glbPortCfg_MID n.val) _ _ (Fld.ok_mk (by decide)) (Nat.mod_eq_of_lt (bitsOf_fits w 63 52))
      (by simp [F.glbPortCfg_MID, F.glbPortCfg_STALL_LIMIT]) hstall
    have hmask := s.sets_fset _ _ (F.glbPortCfg_MID_MASK n.val) _ _ (Fld.ok_mk (by decide)) (Nat.mod_eq_of_lt (bitsOf_fits w 51 40))
      (by simp [F.glbPortCfg_MID, F.glbPortCfg_STALL_LIMIT, F.glbPortCfg_MID_MASK]) hmid
    have hmode := s.sets_fset _ _ (F.glbPortCfg_MID_MODE n.val) _ _ (Fld.ok_mk (by decide)) (Nat.mod_eq_of_lt (bitsOf_fits w 39 38))
      (by simp [F.glbPortCfg_MID, F.glbPortCfg_STALL_LIMIT, F.glbPortCfg_MID_MASK, F.glbPortCfg_MID_MODE]) hmask
    exact s.sets_perm _ _ _ (fun e => by simp only [List.mem_cons, List.not_mem_nil, or_false]; grind) hmode

/-- EN lies apart from the other fields. -/
theorem State.en_apart_cfgFields (s : State) (n w : Nat) : ∀ f ∈ (s.cfgFields n w).map (·.1), f.Apart (F.glbPortCfg_EN n) := by
  unfold State.cfgFields
  cases s.flag F.glbAccLock_LOCK <;>
    simp [F.glbPortCfg_EN, F.glbPortCfg_MID, F.glbPortCfg_STALL_LIMIT, F.glbPortCfg_MID_MASK, F.glbPortCfg_MID_MODE]

/-- Every field of PORT_CFG stands at its address. -/
theorem State.addr_cfgFields (s : State) (n w : Nat) : ∀ f ∈ (s.cfgFields n w).map (·.1), f.addr = A.glbPortCfg n := by
  unfold State.cfgFields
  cases s.flag F.glbAccLock_LOCK <;>
    simp [F.glbPortCfg_MID, F.glbPortCfg_STALL_LIMIT, F.glbPortCfg_MID_MASK, F.glbPortCfg_MID_MODE]

/-- A field of another register is as it was. -/
theorem State.fget_portFields (s : State) (n : Fin 113) (w : Nat) (g : Fld) (hg : g.Ok) (ha : A.glbPortCfg n.val ≠ g.addr) :
    (s.portFields n.val w).fget g = s.fget g :=
  (s.sets_portFields n w).2.2 g hg fun f hf => .inl (by rw [s.addr_cfgFields n.val w f hf]; exact ha)

theorem State.flag_en_portFields (s : State) (n : Fin 113) (w : Nat) :
    (s.portFields n.val w).flag (F.glbPortCfg_EN n.val) = s.flag (F.glbPortCfg_EN n.val) :=
  congrArg (· == 1) ((s.sets_portFields n w).2.2 _ (Fld.ok_mk (by decide)) (s.en_apart_cfgFields n.val w))

theorem State.flag_ready_portFields (s : State) (n : Fin 113) (w : Nat) :
    (s.portFields n.val w).flag F.glbResetStatus_READY = s.flag F.glbResetStatus_READY :=
  congrArg (· == 1) (s.fget_portFields n w _ (by decide) (by
    show A.glbPortCfg n.val ≠ A.glbResetStatus
    unfold A.glbPortCfg A.glbResetStatus; omega))

/-- The initial credits are fields of the label registers. -/
theorem State.initialCredits_portFields (s : State) (n : Fin 113) (w : Nat) :
    (s.portFields n.val w).initialCredits n.val = s.initialCredits n.val := by
  have happart : ∀ l, A.glbPortCfg n.val ≠ A.trfLabelCfg l := fun l => by unfold A.glbPortCfg A.trfLabelCfg; omega
  have ht : ∀ l, (s.portFields n.val w).fget (F.trfLabelCfg_T_CREDITS l) = s.fget (F.trfLabelCfg_T_CREDITS l) :=
    fun l => s.fget_portFields n w _ (Fld.ok_mk (by decide)) (happart l)
  have hl : ∀ l, (s.portFields n.val w).fget (F.trfLabelCfg_L_CREDITS l) = s.fget (F.trfLabelCfg_L_CREDITS l) :=
    fun l => s.fget_portFields n w _ (Fld.ok_mk (by decide)) (happart l)
  have hconsumed : (s.portFields n.val w).consumed n.val = s.consumed n.val := by
    rw [(s.sets_portFields n w).1]; rfl
  unfold State.initialCredits
  simp only [ht, hl, hconsumed]

end Sys2Proof.Machine

/-! PROOFS. PORT_ENABLE and PORT_DISABLE. -/

namespace Sys2Proof.Machine

/-- Setting EN in the value written leaves its other fields. -/
theorem bitsOf_or_one (w hi lo : Nat) (h : 0 < lo) : bitsOf (w ||| 1) hi lo = bitsOf w hi lo := by
  have hone : 1 / 2 ^ lo = 0 := Nat.div_eq_of_lt (Nat.one_lt_two_pow (by omega))
  have hdiv : (w ||| 1) / 2 ^ lo = w / 2 ^ lo := by rw [Nat.or_div_two_pow, hone, Nat.or_zero]
  rw [bitsOf, hdiv]; rfl

theorem State.cfgFields_or_one (s : State) (n w : Nat) : s.cfgFields n (w ||| 1) = s.cfgFields n w := by
  simp [State.cfgFields, bitsOf_or_one]

theorem or_one_of_testBit (w : Nat) (h : w.testBit 0 = true) : w ||| 1 = w := by
  apply Nat.eq_of_testBit_eq
  intro i
  cases i with
  | zero => simp [h]
  | succ i => simp [Nat.testBit_succ, Nat.or_div_two]

/-- EN as a port is switched on or off is set beside the other fields. -/
theorem State.sets_switched (s : State) (n : Fin 113) (w en : Nat) (p : Port) (hen : en < 2) :
    (s.setPort n.val p).sets (((s.portFields n.val w).setPort n.val p).fset (F.glbPortCfg_EN n.val) en)
      ((F.glbPortCfg_EN n.val, en) :: s.cfgFields n.val w) :=
  State.sets_fset _ _ _ _ _ _ (Fld.ok_mk (by decide)) (Nat.mod_eq_of_lt hen)
    (fun e he => (s.en_apart_cfgFields n.val w _ (List.mem_map_of_mem he)).symm) (State.sets_setPort _ _ _ _ _ (s.sets_portFields n w))

theorem State.sets_enSet (s : State) (n : Fin 113) (w en : Nat) (hen : en < 2) :
    s.sets ((s.portFields n.val w).fset (F.glbPortCfg_EN n.val) en) ((F.glbPortCfg_EN n.val, en) :: s.cfgFields n.val w) :=
  State.sets_fset _ _ _ _ _ _ (Fld.ok_mk (by decide)) (Nat.mod_eq_of_lt hen)
    (fun e he => (s.en_apart_cfgFields n.val w _ (List.mem_map_of_mem he)).symm) (s.sets_portFields n w)

theorem State.fget_of_not_flag (s : State) (f : Fld) (hbit : f.hi = f.lo) (h : s.flag f = false) : s.fget f = 0 := by
  have hlt : s.fget f < 2 ^ (f.hi + 1 - f.lo) := bitsOf_lt _ _ _
  have hne : s.fget f ≠ 1 := by simpa [State.flag] using h
  rw [hbit, Nat.add_sub_cancel_left] at hlt
  omega

/-- A field that is not written may be named with its value. -/
theorem State.sets_kept (s t : State) (l : List (Fld × Nat)) (f : Fld) (hf : f.Ok) (ha : ∀ g ∈ l.map (·.1), g.Apart f) (h : s.sets t l) :
    s.sets t ((f, s.fget f) :: l) := by
  obtain ⟨hrest, hvals, hregs⟩ := h
  refine ⟨hrest, fun e he => ?_, State.keepsRegs_mono _ _ _ _ (fun g hg => List.mem_cons_of_mem _ hg) hregs⟩
  rcases List.mem_cons.1 he with rfl | he
  · exact hregs f hf ha
  · exact hvals e he

/-- The port whose EN changes from 0 to 1 (R78, R164). -/
def State.enabledPort (s : State) (n : Nat) : Port :=
  { (s.port n).loseHeld with
    everEn := true, credited := true, credits := s.initialCredits n, spent := []
    crs := ⟨true, 0, 0⟩ :: (List.range 64).map fun l => ⟨false, SMap.get (s.initialCredits n) 0 l, l⟩ }

/-- The port whose EN changes from 1 to 0 (R76, R78). -/
def State.disabledPort (s : State) (n : Nat) : Port := { (s.port n).loseHeld with credited := false, spent := [] }

theorem Port.loseHeld_some (p : Port) (x : HeldHdr) (h : p.hdr = some x) :
    p.loseHeld.hdr = some { x with lost := x.lost || x.why == .noMissSlot } := by
  by_cases hwhy : x.why = .noMissSlot
  · simp [Port.loseHeld, h, hwhy]
  · have hkeep : (x.lost || x.why == .noMissSlot) = x.lost := by simp [hwhy]
    rw [hkeep, Port.loseHeld, h]
    exact congrArg some (if_neg hwhy)

theorem Port.loseHeld_none (p : Port) (h : p.hdr = none) : p.loseHeld.hdr = none := by simp [Port.loseHeld, h]

theorem State.port_portFields (s : State) (n : Fin 113) (w m : Nat) : (s.portFields n.val w).port m = s.port m := by
  rw [(s.sets_portFields n w).1]; rfl

theorem State.portOn_built (s : State) (n : Fin 113) (w : Nat) (hbuilt : s.portBuilt n.val = true) :
    (s.portFields n.val w).portOn n.val = ((s.portFields n.val w).setPort n.val (s.enabledPort n.val)).fset (F.glbPortCfg_EN n.val) 1 := by
  have hb : (s.portFields n.val w).portBuilt n.val = true := by rw [(s.sets_portFields n w).1]; exact hbuilt
  unfold State.portOn State.modPort
  simp only [hb, s.initialCredits_portFields n w, s.port_portFields n w, if_true]
  rfl

theorem State.portOn_notBuilt (s : State) (n : Fin 113) (w : Nat) (hbuilt : s.portBuilt n.val = false) :
    (s.portFields n.val w).portOn n.val = (s.portFields n.val w).fset (F.glbPortCfg_EN n.val) 1 := by
  have hb : (s.portFields n.val w).portBuilt n.val = false := by rw [(s.sets_portFields n w).1]; exact hbuilt
  unfold State.portOn
  simp only [hb]
  rfl

theorem State.portOff_eq (s : State) (n : Fin 113) (w : Nat) : (s.portFields n.val w).portOff n.val =
    ((s.portFields n.val w).setPort n.val (s.disabledPort n.val)).fset (F.glbPortCfg_EN n.val) 0 := by
  unfold State.portOff State.modPort
  rw [s.port_portFields n w]
  rfl

theorem State.power_portFields (s : State) (n : Fin 113) (w : Nat) : (s.portFields n.val w).power = s.power := by
  rw [(s.sets_portFields n w).1]

/-- A write of PORT_CFG, by EN before and in the value. -/
theorem State.portCfgWrite_on (s : State) (n : Fin 113) (w : Nat) (hw : w.testBit 0 = true) (hen : s.flag (F.glbPortCfg_EN n.val) = false)
    (hready : s.flag F.glbResetStatus_READY = true) : s.portCfgWrite n.val w = (s.portFields n.val w).portEn n.val := by
  simp [State.portCfgWrite, hw, s.flag_en_portFields n w, s.flag_ready_portFields n w, hen, hready]

theorem State.portCfgWrite_kept (s : State) (n : Fin 113) (w : Nat) (hw : w.testBit 0 = true)
    (h : s.flag (F.glbPortCfg_EN n.val) = true ∨ s.flag F.glbResetStatus_READY = false) : s.portCfgWrite n.val w = s.portFields n.val w := by
  rcases h with hen | hready
  · simp [State.portCfgWrite, hw, s.flag_en_portFields n w, hen]
  · simp [State.portCfgWrite, hw, s.flag_ready_portFields n w, hready]

theorem State.portCfgWrite_off (s : State) (n : Fin 113) (w : Nat) (hw : w.testBit 0 = false) :
    s.portCfgWrite n.val w = if s.flag (F.glbPortCfg_EN n.val) then (s.portFields n.val w).portOff n.val else s.portFields n.val w := by
  simp [State.portCfgWrite, hw, s.flag_en_portFields n w]

theorem exec_portEnable_ready (n : Fin 113) (w : Word) (s : State) (h : s.cpReady) :
    exec (.portEnable n w) s = .next (s.cpOk.portWrite n.val (w.toNat ||| 1)) :=
  s.cpDo_ready _ (fun u => u.portWrite n.val (w.toNat ||| 1)) h

theorem exec_portDisable_ready (n : Fin 113) (w : Word) (s : State) (h : s.cpReady) :
    exec (.portDisable n w) s = .next (s.cpOk.portCfgWrite n.val w.toNat) :=
  s.cpDo_ready _ (fun u => u.portCfgWrite n.val w.toNat) h

theorem testBit_or_one (w : Nat) : (w ||| 1).testBit 0 = true := by simp

/-- Outside QUIET the enable is a write of PORT_CFG. -/
theorem exec_portEnable_write (n : Fin 113) (w : Word) (s : State) (h : s.cpReady) (hq : s.power ≠ .quiet) :
    exec (.portEnable n w) s = .next (s.cpOk.portCfgWrite n.val (w.toNat ||| 1)) := by
  have hstart : s.cpOk.started = s.cpOk := if_neg hq
  rw [exec_portEnable_ready n w s h, State.portWrite, if_pos (testBit_or_one _), hstart]

/-- Settles O27: a write of PORT_CFG by EN before, EN in the value, READY and the power state. -/
theorem portSwitched : Obligations.PortSwitched := by
  unfold Obligations.PortSwitched
  intro fields
  have hfields : ∀ (n : Nat) (w : Word) (en : Nat) (s t : State),
      s.sets t ((F.glbPortCfg_EN n, en) :: s.cfgFields n w.toNat) → fields n w en s t := fun _ _ _ _ _ h => h
  refine ⟨fun n w s hcp hq hen hready hbuilt hnr hnc => ?_, fun n w s hcp hq hen hready hwait => ?_, fun n w s hcp hq hkept => ?_,
    fun n w s hcp hq => ?_, fun n w s hcp hw hen => ?_, fun n w s hcp hw hen => ?_, fun n w s hcp hw hq => ?_⟩
  · refine ⟨_, s.enabledPort n.val, exec_portEnable_write n w s hcp hq, rfl, rfl, rfl, rfl, rfl, rfl, rfl,
      fun x hx => Port.loseHeld_some _ x hx, Port.loseHeld_none _, hfields _ _ _ _ _ ?_⟩
    have hpow : ¬ ((s.cpOk.portFields n.val (w.toNat ||| 1)).power = .restored ∨ (s.cpOk.portFields n.val (w.toNat ||| 1)).power = .checking) := by
      rw [State.power_portFields]; exact not_or.2 ⟨hnr, hnc⟩
    have hb : s.cpOk.portBuilt n.val = true := by
      rcases hbuilt with hlt | hbr
      · exact s.cpOk.portBuilt_of_lt _ hlt
      · exact Bool.or_eq_true_iff.2 (.inr hbr)
    rw [s.cpOk.portCfgWrite_on n _ (testBit_or_one _) hen hready, State.portEn, if_neg hpow, s.cpOk.portOn_built n _ hb]
    have hset := s.cpOk.sets_switched n (w.toNat ||| 1) 1 (s.enabledPort n.val) (by decide)
    rw [State.cfgFields_or_one] at hset
    exact hset
  · refine ⟨_, exec_portEnable_write n w s hcp hq, hfields _ _ _ _ _ ?_⟩
    have hset := s.cpOk.sets_enSet n (w.toNat ||| 1) 1 (by decide)
    rw [State.cfgFields_or_one] at hset
    rw [s.cpOk.portCfgWrite_on n _ (testBit_or_one _) hen hready, State.portEn]
    split
    next => exact hset
    next hpow =>
      have hb : s.cpOk.portBuilt n.val = false := by
        rcases hwait with ⟨hn, hbr⟩ | hst | hst
        · exact Bool.or_eq_false_iff.2 ⟨by simp [hn], hbr⟩
        · exact absurd (Or.inl ((s.cpOk.power_portFields _ _).trans hst)) hpow
        · exact absurd (Or.inr ((s.cpOk.power_portFields _ _).trans hst)) hpow
      rw [s.cpOk.portOn_notBuilt n _ hb]
      exact hset
  · refine ⟨_, exec_portEnable_write n w s hcp hq, hfields _ _ _ _ _ ?_⟩
    rw [s.cpOk.portCfgWrite_kept n _ (testBit_or_one _) hkept]
    have hset := s.cpOk.sets_kept _ _ (F.glbPortCfg_EN n.val) (Fld.ok_mk (by decide)) (s.cpOk.en_apart_cfgFields n.val _)
      (s.cpOk.sets_portFields n (w.toNat ||| 1))
    rw [State.cfgFields_or_one] at hset
    exact hset
  · have hactive : (s.quietExit 0).power = .active := by rw [s.quietExit_frame 0]
    rw [exec_portEnable_write n w _ (s.cpReady_quietExit 0 hcp) (by rw [hactive]; decide), exec_portEnable_ready n w s hcp,
      State.portWrite, if_pos (testBit_or_one _)]
    have hstart : s.cpOk.started = s.cpOk.quietExit 0 := if_pos hq
    rw [hstart, s.quietExit_cpOk]
  · refine ⟨_, s.disabledPort n.val, exec_portDisable_ready n w s hcp, rfl, rfl, rfl, rfl, rfl, rfl, rfl,
      fun x hx => Port.loseHeld_some _ x hx, Port.loseHeld_none _, hfields _ _ _ _ _ ?_⟩
    rw [s.cpOk.portCfgWrite_off n _ hw, if_pos (show s.cpOk.flag (F.glbPortCfg_EN n.val) = true from hen), s.cpOk.portOff_eq]
    exact s.cpOk.sets_switched n _ 0 _ (by decide)
  · refine ⟨_, exec_portDisable_ready n w s hcp, hfields _ _ _ _ _ ?_⟩
    rw [s.cpOk.portCfgWrite_off n _ hw, if_neg (by rw [show s.cpOk.flag (F.glbPortCfg_EN n.val) = false from hen]; exact Bool.false_ne_true)]
    have hset := s.cpOk.sets_kept _ _ (F.glbPortCfg_EN n.val) (Fld.ok_mk (by decide)) (s.cpOk.en_apart_cfgFields n.val _)
      (s.cpOk.sets_portFields n w.toNat)
    rw [s.cpOk.fget_of_not_flag (F.glbPortCfg_EN n.val) rfl hen] at hset
    exact hset
  · rw [exec_portEnable_write n w s hcp hq, exec_portDisable_ready n w s hcp, or_one_of_testBit w.toNat hw]

end Sys2Proof.Machine

/-! PROOFS. Fences. -/

namespace Sys2Proof.Machine

/-- Steps that change nothing. -/
theorem State.forEach_same {α : Type} (s : State) (l : List α) (f : State → α → State) (h : ∀ a ∈ l, f s a = s) : s.forEach l f = s := by
  unfold State.forEach
  induction l with
  | nil => rfl
  | cons a l ih =>
    rw [List.foldl_cons, h a (List.mem_cons_self ..)]
    exact ih fun b hb => h b (List.mem_cons_of_mem _ hb)

/-- Where every request that is kept back is fenced, none is dispatched. -/
theorem State.dispatchKept_fenced (s : State) (n : Nat)
    (h : ∀ e ∈ s.reqs, e.2.src = .port n → s.keptBack e.1 e.2 = false ∨ s.fenced e.1 e.2 = true) : s.dispatchKept n = s := by
  refine s.forEach_same _ _ fun e he => ?_
  obtain ⟨hin, hkept⟩ := List.mem_filter.1 he
  obtain ⟨hsrc, hkept⟩ := Bool.and_eq_true_iff.1 hkept
  have hfence : s.fenced e.1 e.2 = true := (h e hin (by simpa using hsrc)).resolve_left (by rw [hkept]; decide)
  simp [hfence]

/-- The first fence that can complete, and what that says. -/
theorem State.readyFence_some (s : State) (n id : Nat) (r : Req) (h : s.readyFence n = some (id, r)) :
    r.op = opFence ∧ r.src = .port n ∧ r.fenceDone = false ∧ r.refused = none ∧ s.fenceReady id r = true := by
  have hp := List.find?_some h
  simp only [Bool.and_eq_true, beq_iff_eq, Bool.not_eq_true', Option.isNone_iff_eq_none] at hp
  obtain ⟨⟨⟨⟨hop, hdone⟩, href⟩, hsrc⟩, hready⟩ := hp
  exact ⟨hop, hsrc, hdone, href, hready⟩

/-- The one flit of a fence that has completed (R71). -/
def Req.fenceFlit (r : Req) (id : Nat) : Flit := ⟨id, r.label, 0, true, false, opFence, stOk, r.mid, r.tag, 0, 0⟩

theorem Req.flitCount_fence (r : Req) (n : Nat) (hop : r.op = opFence) : r.flitCount n = 1 := by
  simp [Req.flitCount, Req.dataFlits, hop, opFence, opRead]

theorem Req.flit_fence (r : Req) (id n : Nat) (hop : r.op = opFence) (href : r.refused = none) (hres : r.res = []) :
    r.flit id n 0 = r.fenceFlit id := by
  simp [Req.flit, Req.flitCount, Req.status, Req.dataFlits, Req.flitRes, Req.fenceFlit, hop, href, hres, opFence, opRead, opProbe, atomsPoison,
    worstStatus]

theorem State.flitSent_ports (s : State) (f : Flit) : (s.flitSent f).ports = s.ports := by
  unfold State.flitSent
  cases s.req? f.req with
  | none => rfl
  | some r =>
    simp only
    split <;> rfl

theorem State.pushFlit_eq (s : State) (n : Nat) (f : Flit) : s.pushFlit n f =
    if (s.port n).rsq == [] then (s.setPort n (s.pushed n f)).flitSent f else s.setPort n (s.pushed n f) := by
  unfold State.pushFlit State.pushed State.modPort
  cases (s.port n).rsq == [] <;> rfl

theorem State.rsq_pushFlit (s : State) (n : Nat) (f : Flit) : ((s.pushFlit n f).port n).rsq = (s.port n).rsq ++ [f] := by
  have hports : (s.pushFlit n f).ports = (s.setPort n (s.pushed n f)).ports := by
    rw [s.pushFlit_eq]
    split
    · exact State.flitSent_ports _ _
    · rfl
  rw [State.port, hports]
  exact congrArg Port.rsq (State.port_setPort_same s n _)

/-- A completed fence answers with one flit (R71). -/
theorem State.rsq_fenceAnswered (s : State) (n id : Nat) (r : Req) (hreq : s.req? id = some r) (hop : r.op = opFence) (hsrc : r.src = .port n)
    (hdone : r.fenceDone = true) (href : r.refused = none) (hflits : r.flits = 0) (hlast : r.lastSent = false) (hres : r.res = []) :
    ((s.sendFlits id).port n).rsq = (s.port n).rsq ++ [r.fenceFlit id] := by
  have hready : r.flitReady n 0 = true := by simp [Req.flitReady, hop, hdone]
  have hsend : s.sendFlit id = (s.pushFlit n (r.fenceFlit id)).lastFlitSent id r := by
    simp [State.sendFlit, hreq, hsrc, Src.port?, hlast, hflits, hready, r.flitCount_fence n hop, r.flit_fence id n hop href hres]
  have hsends : s.sendFlits id = (s.pushFlit n (r.fenceFlit id)).lastFlitSent id r := by
    simp [State.sendFlits, hreq, Req.flitCount_fence r _ hop, State.forEach, List.range_succ, hsend]
  rw [hsends]
  exact s.rsq_pushFlit n _

/-- Settles O28: the fence that is found completes. -/
theorem fenceCompletes : Obligations.FenceCompletes := by
  unfold Obligations.FenceCompletes
  refine fun n s => ⟨fun id r hfound => ?_, fun hnone => ?_⟩
  · obtain ⟨hop, hsrc, hdone, href, hready⟩ := s.readyFence_some n.val id r hfound
    have hexec : exec (.fenceComplete n) s =
        .next (((s.putReq id { r with fenceDone := true }).sendFlits id).dispatchKept n.val) := by
      change execFenceComplete n s = _
      unfold execFenceComplete
      simp only [hfound]
    refine ⟨hop, hsrc, hdone, fun e he hlt hsame hmid => ?_, hexec, fun hflits hlast hres => ?_, fun hfenced => ?_⟩
    · have hall := List.all_eq_true.1 hready e he
      simpa [hlt, hsame, hmid] using hall
    · exact State.rsq_fenceAnswered _ n.val id { r with fenceDone := true } (State.req?_putReq_same _ _ _) hop hsrc rfl href hflits hlast hres
    · rw [hexec, State.dispatchKept_fenced _ _ hfenced]
  · change execFenceComplete n s = _
    unfold execFenceComplete
    simp only [hnone]

end Sys2Proof.Machine

/-! PROOFS. The interleave order, the edits of a PC map, the access lock and the capacity configuration. -/

namespace Sys2Proof.Machine

/-- A field that was written is written again. -/
theorem State.sets_again (s t : State) (l : List (Fld × Nat)) (f : Fld) (u v w : Nat) (hf : f.Ok) (hw : v % 2 ^ (f.hi + 1 - f.lo) = w)
    (ha : ∀ e ∈ l, f.Apart e.1) (h : s.sets t ((f, u) :: l)) : s.sets (t.fset f v) ((f, w) :: l) := by
  obtain ⟨hrest, hvals, hregs⟩ := h
  refine ⟨by rw [hrest]; rfl, fun e he => ?_, fun g hg hx => ?_⟩
  · rcases List.mem_cons.1 he with rfl | he
    · rw [State.fget_fset_same _ _ _ hf, hw]
    · rw [State.fget_fset_apart _ _ _ _ hf (ha e he)]
      exact hvals e (List.mem_cons_of_mem _ he)
  · rw [State.fget_fset_apart _ _ _ _ hf (hx f (List.mem_cons_self ..))]
    exact hregs g hg hx

/-! ### The interleave order (R102) -/

/-- A write of ADDR_CFG does not touch what R102 asks for. -/
theorem State.orderFree_fset (s : State) (v : Nat) : (s.fset F.glbAddrCfg_ORDER_REFUSED v).orderFree = s.orderFree := by
  have hport : ∀ n, (s.fset F.glbAddrCfg_ORDER_REFUSED v).flag (F.glbPortCfg_EN n) = s.flag (F.glbPortCfg_EN n) := fun n => by
    rw [State.flag, State.fget_fset_apart _ _ _ _ (by decide) (.inl (by
      show A.glbAddrCfg ≠ A.glbPortCfg n
      unfold A.glbAddrCfg A.glbPortCfg; omega))]
    rfl
  have hbow : ∀ (k hi lo : Nat), lo ≤ hi ∧ hi < 64 →
      (s.fset F.glbAddrCfg_ORDER_REFUSED v).flag ⟨A.bowStatus k, hi, lo⟩ = s.flag ⟨A.bowStatus k, hi, lo⟩ := fun k hi lo h => by
    rw [State.flag, State.fget_fset_apart _ _ _ _ (by decide) (.inl (by
      show A.glbAddrCfg ≠ A.bowStatus k
      unfold A.glbAddrCfg A.bowStatus; omega))]
    rfl
  have hbusy : ∀ k, (s.fset F.glbAddrCfg_ORDER_REFUSED v).bowBusy k = s.bowBusy k := fun k => by
    unfold State.bowBusy F.bowStatus_SCAN F.bowStatus_SANITISE F.bowStatus_COPY F.bowStatus_SCRUB
    simp only [hbow k 4 4 (by decide), hbow k 3 3 (by decide), hbow k 1 1 (by decide), hbow k 0 0 (by decide)]
    rfl
  unfold State.orderFree
  simp only [hport, hbusy]
  rfl

theorem State.orderFree_iff (s : State) : s.orderFree = true ↔ (∀ n < 113, s.flag (F.glbPortCfg_EN n) = false) ∧
    (∀ e ∈ s.slots, e.2.st = .free) ∧ ∀ k < s.build.nStacks, s.bowBusy k = false := by
  simp [State.orderFree, State.stacks, and_assoc]

/-- A 1 at bit 8 clears ORDER_REFUSED. -/
theorem State.sets_orderCleared (s : State) (w : Word) :
    s.sets (if w.toNat.testBit 8 then s.fset F.glbAddrCfg_ORDER_REFUSED 0 else s)
      [(F.glbAddrCfg_ORDER_REFUSED, if w.getLsbD 8 then 0 else s.fget F.glbAddrCfg_ORDER_REFUSED)] := by
  rw [BitVec.testBit_toNat]
  split
  · exact s.sets_fset s [] _ _ _ (by decide) rfl (by simp) s.sets_nil
  · exact s.sets_kept s [] _ (by decide) (by simp) s.sets_nil

/-- Settles O30: ORDER_REFUSED is cleared first; then the lock and the conditions of R102 decide. -/
theorem orderWritten : Obligations.OrderWritten := by
  unfold Obligations.OrderWritten
  intro w s hcp quiet cleared
  have hexec : exec (.addrOrderWrite w) s = .next (s.cpOk.addrOrderWrite w.toNat) := s.cpDo_ready _ (fun u => u.addrOrderWrite w.toNat) hcp
  generalize hu : (if w.toNat.testBit 8 then s.cpOk.fset F.glbAddrCfg_ORDER_REFUSED 0 else s.cpOk) = u
  have hset : s.cpOk.sets u [(F.glbAddrCfg_ORDER_REFUSED, cleared)] := by rw [← hu]; exact s.cpOk.sets_orderCleared w
  have hlock : u.locked = s.flag F.glbAccLock_LOCK := congrArg (· == 1) (hset.2.2 F.glbAccLock_LOCK (by decide) (by simp +decide))
  have hfree : u.orderFree = s.orderFree := by
    rw [← hu]
    split
    · exact s.cpOk.orderFree_fset 0
    · rfl
  have hwrite : s.cpOk.addrOrderWrite w.toNat =
      if u.locked then u else if u.orderFree then u.fset F.glbAddrCfg_ORDER w.toNat else u.raise F.glbAddrCfg_ORDER_REFUSED := by
    rw [← hu]; rfl
  rw [hexec, hwrite, hlock, hfree]
  refine ⟨fun hl => ⟨u, ?_, hset⟩, fun hl hq => ⟨u.fset F.glbAddrCfg_ORDER w.toNat, ?_, ?_⟩,
    fun hl hq => ⟨u.raise F.glbAddrCfg_ORDER_REFUSED, ?_, ?_⟩⟩
  · simp [hl]
  · simp [hl, s.orderFree_iff.2 hq]
  · exact State.sets_fset _ _ _ _ _ _ (by decide) rfl (by simp +decide) hset
  · have hnot : s.orderFree = false := Bool.eq_false_iff.2 (mt s.orderFree_iff.1 hq)
    simp [hl, hnot]
  · exact State.sets_again _ _ _ _ _ _ _ (by decide) rfl (by simp) hset

/-! ### Opening an edit and writing the map (R106) -/

theorem State.ingDrained_iff (s : State) (k : Nat) : s.ingDrained k = true ↔ ∀ p < 64, (s.out k p).st = .drained := by
  simp [State.ingDrained, State.drained]

theorem exec_pcmapEditOpen_ready (k : Fin 8) (s : State) (h : s.cpReady) (hk : k.val < s.build.nStacks) :
    exec (.pcmapEditOpen k) s = .next (s.cpOk.editOpen k.val) := s.cpStk_ready k _ (fun u => u.editOpen k.val) h hk

theorem exec_pcmapEntryWrite_ready (k : Fin 8) (l : Fin 64) (w : Word) (s : State) (h : s.cpReady) (hk : k.val < s.build.nStacks) :
    exec (.pcmapEntryWrite k l w) s = .next (s.cpOk.entryWrite k.val l.val w.toNat) :=
  s.cpStk_ready k _ (fun u => u.entryWrite k.val l.val w.toNat) h hk

theorem exec_pcmapFailedWrite_ready (k : Fin 8) (w : Word) (s : State) (h : s.cpReady) (hk : k.val < s.build.nStacks) :
    exec (.pcmapFailedWrite k w) s = .next (s.cpOk.failedWrite k.val w.toNat) :=
  s.cpStk_ready k _ (fun u => u.failedWrite k.val w.toNat) h hk

/-- Settles O31: the branches of the three writes. -/
theorem mapEdited : Obligations.MapEdited := by
  unfold Obligations.MapEdited
  intro k s hcp hk
  refine ⟨fun hedit => ⟨fun hbar => ?_, fun hdrained hmig hlock => ?_, fun l w => ?_, fun w => ?_⟩,
    fun hedit => ⟨?_, fun l w hl => ?_, fun l w hl => ?_, fun w => ?_⟩⟩
  all_goals have hflag : s.cpOk.flag (F.pcmapEdit_EDIT k.val) = _ := hedit
  · have hbarred : (!s.cpOk.ingDrained k.val || s.cpOk.flag (F.migStatus_ACTIVE k.val) || s.cpOk.locked) = true := by
      rcases hbar with ⟨p, hp, hst⟩ | hmig | hlock
      · have hnot : s.cpOk.ingDrained k.val = false := Bool.eq_false_iff.2 fun h => hst ((s.ingDrained_iff k.val).1 h p hp)
        simp [hnot]
      · have hmig' : s.cpOk.flag (F.migStatus_ACTIVE k.val) = true := hmig
        simp [hmig']
      · have hlock' : s.cpOk.locked = true := hlock
        simp [hlock']
    refine ⟨_, exec_pcmapEditOpen_ready k s hcp hk, ?_⟩
    rw [State.editOpen, hflag, if_neg Bool.false_ne_true, if_pos hbarred]
    exact s.cpOk.sets_raise_alone _ (Fld.ok_mk (by decide))
  · have hopen : (!s.cpOk.ingDrained k.val || s.cpOk.flag (F.migStatus_ACTIVE k.val) || s.cpOk.locked) = false := by
      have hdr : s.cpOk.ingDrained k.val = true := (s.ingDrained_iff k.val).2 hdrained
      have hmig' : s.cpOk.flag (F.migStatus_ACTIVE k.val) = false := hmig
      have hlock' : s.cpOk.locked = false := hlock
      simp [hdr, hmig', hlock']
    refine ⟨_, exec_pcmapEditOpen_ready k s hcp hk, ?_⟩
    rw [State.editOpen, hflag, if_neg Bool.false_ne_true, hopen, if_neg Bool.false_ne_true]
    exact State.sets_congr _ _ _ _ _ (s.cpOk.sets_raise_alone (F.pcmapEdit_EDIT k.val) (Fld.ok_mk (by decide))) rfl rfl
  · rw [exec_pcmapEntryWrite_ready k l w s hcp hk, State.entryWrite, hflag]
    rfl
  · rw [exec_pcmapFailedWrite_ready k w s hcp hk, State.failedWrite, hflag]
    rfl
  · rw [exec_pcmapEditOpen_ready k s hcp hk, State.editOpen, hflag]
    rfl
  · refine ⟨_, exec_pcmapEntryWrite_ready k l w s hcp hk, ?_⟩
    have hin : l.val < s.cpOk.build.N := hl
    rw [State.entryWrite, hflag, if_pos (by simp [hin]), BitVec.testBit_toNat]
    have hppc := s.cpOk.sets_fset s.cpOk [] (F.pcmapEntry_PPC k.val l.val) w.toNat (w.toNat % 64) (Fld.ok_mk (by decide)) rfl (by simp)
      s.cpOk.sets_nil
    have hstate : (if w.getLsbD 61 then 3 else 0) % 2 ^ 2 = if w.getLsbD 61 then 3 else 0 := by split <;> rfl
    exact s.cpOk.sets_perm _ _ _ (fun e => by simp only [List.mem_cons, List.not_mem_nil, or_false]; exact or_comm)
      (s.cpOk.sets_fset _ _ (F.pcmapEntry_STATE k.val l.val) _ _ (Fld.ok_mk (by decide)) hstate
        (by simp [F.pcmapEntry_PPC, F.pcmapEntry_STATE]) hppc)
  · have hout : ¬ l.val < s.cpOk.build.N := Nat.not_lt.2 hl
    rw [exec_pcmapEntryWrite_ready k l w s hcp hk, State.entryWrite, if_neg (by simp [hout])]
  · refine ⟨_, exec_pcmapFailedWrite_ready k w s hcp hk, ?_⟩
    rw [State.failedWrite, hflag, if_pos rfl]
    exact s.cpOk.sets_fset_alone (F.pcmapFailed_MASK k.val) _ (Fld.ok_mk (by decide)) w.isLt

end Sys2Proof.Machine

/-! PROOFS. Closing an edit of a PC map; the access lock; the capacity configuration. -/

namespace Sys2Proof.Machine

/-! ### SPARE and the validity of a map (R105, R106) -/

/-- A mask built bit by bit. -/
theorem testBit_foldl_mask (c : Nat → Bool) (n : Nat) :
    (List.range n).foldl (fun m p => if c p then m else m + 2 ^ p) 0 < 2 ^ n ∧
      ∀ i, ((List.range n).foldl (fun m p => if c p then m else m + 2 ^ p) 0).testBit i = (decide (i < n) && !c i) := by
  induction n with
  | zero => simp
  | succ n ih =>
    obtain ⟨hlt, hbits⟩ := ih
    rw [List.range_succ, List.foldl_append, List.foldl_cons, List.foldl_nil]
    generalize (List.range n).foldl (fun m p => if c p then m else m + 2 ^ p) 0 = m at hlt hbits
    by_cases hc : c n = true
    · rw [if_pos hc]
      refine ⟨by omega, fun i => ?_⟩
      rw [hbits]
      by_cases hi : i = n
      · simp [hi, hc]
      · have hiff : i < n ↔ i < n + 1 := by omega
        simp [hiff]
    · rw [if_neg hc]
      refine ⟨by omega, fun i => ?_⟩
      rw [Nat.add_comm, ← Nat.mul_one (2 ^ n), Nat.two_pow_add_eq_or_of_lt hlt, Nat.mul_one, Nat.testBit_or, Nat.testBit_two_pow, hbits]
      by_cases hi : n = i
      · subst hi; simp [hc]
      · have hiff : i < n ↔ i < n + 1 := by omega
        simp [hi, hiff]

theorem State.mem_inService (s : State) (k p : Nat) : p ∈ s.inService k ↔
    ∃ l < s.build.N, s.fget (F.pcmapEntry_STATE k l) = 0 ∧ s.fget (F.pcmapEntry_PPC k l) = p := by
  simp [State.inService, List.mem_filterMap]

theorem State.nodup_inService (s : State) (k : Nat) : (s.inService k).Nodup ↔
    ∀ i < s.build.N, ∀ j < s.build.N, i ≠ j → s.fget (F.pcmapEntry_STATE k i) = 0 → s.fget (F.pcmapEntry_STATE k j) = 0 →
      s.fget (F.pcmapEntry_PPC k i) ≠ s.fget (F.pcmapEntry_PPC k j) := by
  unfold State.inService List.Nodup
  rw [List.pairwise_filterMap]
  constructor
  · intro h i hi j hj hne hsi hsj
    have hsymm : ∀ {a b : Nat}, a < b → b < s.build.N → s.fget (F.pcmapEntry_STATE k a) = 0 → s.fget (F.pcmapEntry_STATE k b) = 0 →
        s.fget (F.pcmapEntry_PPC k a) ≠ s.fget (F.pcmapEntry_PPC k b) := by
      intro a b hab hb hsa hsb
      have hpair := List.pairwise_iff_getElem.1 h a b (by simp; omega) (by simpa using hb) hab
      simp only [List.getElem_range, hsa, hsb, if_true] at hpair
      exact hpair _ rfl _ rfl
    rcases Nat.lt_or_gt_of_ne hne with hlt | hgt
    · exact hsymm hlt hj hsi hsj
    · exact (hsymm hgt hi hsj hsi).symm
  · intro h
    refine List.pairwise_iff_getElem.2 fun i j hi hj hij b hb b' hb' => ?_
    simp only [List.getElem_range] at hb hb'
    simp only [List.length_range] at hi hj
    split at hb
    next hsi =>
      split at hb'
      next hsj =>
        cases hb; cases hb'
        exact h i hi j hj (Nat.ne_of_lt hij) hsi hsj
      next => cases hb'
    next => cases hb

theorem State.mapValid_iff (s : State) (k : Nat) : s.mapValid k = true ↔
    (∀ i < s.build.N, ∀ j < s.build.N, i ≠ j → s.fget (F.pcmapEntry_STATE k i) = 0 → s.fget (F.pcmapEntry_STATE k j) = 0 →
      s.fget (F.pcmapEntry_PPC k i) ≠ s.fget (F.pcmapEntry_PPC k j)) ∧
      ∀ p, (∃ l < s.build.N, s.fget (F.pcmapEntry_STATE k l) = 0 ∧ s.fget (F.pcmapEntry_PPC k l) = p) →
        (s.fget (F.pcmapFailed_MASK k)).testBit p = false := by
  simp only [State.mapValid, Bool.and_eq_true, decide_eq_true_eq, s.nodup_inService, List.all_eq_true, s.mem_inService, Bool.not_eq_true',
    State.maskBit]

theorem State.spareNow_lt (s : State) (k : Nat) : s.spareNow k < 2 ^ 64 :=
  (testBit_foldl_mask (fun p => s.maskBit (F.pcmapFailed_MASK k) p || (s.inService k).contains p) 64).1

theorem State.testBit_spareNow (s : State) (k p : Nat) (hp : p < 64) : (s.spareNow k).testBit p = true ↔
    (s.fget (F.pcmapFailed_MASK k)).testBit p = false ∧
      ¬ ∃ l < s.build.N, s.fget (F.pcmapEntry_STATE k l) = 0 ∧ s.fget (F.pcmapEntry_PPC k l) = p := by
  have hbit := (testBit_foldl_mask (fun p => s.maskBit (F.pcmapFailed_MASK k) p || (s.inService k).contains p) 64).2 p
  rw [← s.mem_inService]
  unfold State.spareNow
  rw [hbit]
  simp [hp, State.maskBit]

/-! ### The registers of a map -/

theorem State.reg_forEach_setReg (a : Nat → Nat) (v : Nat → Word) (n b : Nat) (s : State) (hinj : ∀ i < n, ∀ j < n, a i = a j → i = j) :
    (∀ i < n, (s.forEach (List.range n) fun s l => s.setReg (a l) (v l)).reg (a i) = v i) ∧
      ((∀ i < n, a i ≠ b) → (s.forEach (List.range n) fun s l => s.setReg (a l) (v l)).reg b = s.reg b) := by
  unfold State.forEach
  induction n with
  | zero => exact ⟨fun i hi => by omega, fun _ => rfl⟩
  | succ n ih =>
    obtain ⟨hin, hout⟩ := ih fun i hi j hj => hinj i (by omega) j (by omega)
    rw [List.range_succ, List.foldl_append, List.foldl_cons, List.foldl_nil]
    refine ⟨fun i hi => ?_, fun hb => ?_⟩
    · rw [State.reg_setReg]
      by_cases hne : a n = a i
      · rw [if_pos hne, hinj n (by omega) i hi hne]
      · rw [if_neg hne]
        have : i ≠ n := fun h => hne (by rw [h])
        exact hin i (by omega)
    · rw [State.reg_setReg, if_neg (hb n (by omega))]
      exact hout fun i hi => hb i (by omega)

theorem State.forEach_setReg_frame {α : Type} (l : List α) (a : α → Nat) (v : α → Word) (s : State) :
    let t := s.forEach l fun s x => s.setReg (a x) (v x)
    t = { s with regs := t.regs } := by
  unfold State.forEach
  induction l generalizing s with
  | nil => rfl
  | cons x l ih => exact State.regsOnly_trans rfl (ih (s.setReg (a x) (v x)))

/-- What a return to the saved map leaves in its registers. -/
theorem State.reg_mapRevert (s : State) (k : Nat) (m : MapSave) :
    (∀ l < 64, (s.mapRevert k m).reg (A.pcmapEntry k l) = m.entries.getD l 0) ∧ (s.mapRevert k m).reg (A.pcmapFailed k) = m.failed ∧
      (s.mapRevert k m).reg (A.pcmapSpare k) = m.spare ∧
      ∀ a, (∀ l < 64, A.pcmapEntry k l ≠ a) → A.pcmapFailed k ≠ a → A.pcmapSpare k ≠ a → (s.mapRevert k m).reg a = s.reg a := by
  have hregs := fun b => State.reg_forEach_setReg (A.pcmapEntry k) (fun l => m.entries.getD l 0) 64 b s
    fun i _ j _ h => by unfold A.pcmapEntry at h; omega
  unfold State.mapRevert
  refine ⟨fun l hl => ?_, ?_, State.reg_setReg_same _ _ _, fun a he hf hs => ?_⟩
  · rw [State.reg_setReg, if_neg, State.reg_setReg, if_neg]
    · exact (hregs 0).1 l hl
    · unfold A.pcmapFailed A.pcmapEntry; omega
    · unfold A.pcmapSpare A.pcmapEntry; omega
  · rw [State.reg_setReg, if_neg, State.reg_setReg_same]
    unfold A.pcmapSpare A.pcmapFailed; omega
  · rw [State.reg_setReg, if_neg hs, State.reg_setReg, if_neg hf]
    exact (hregs a).2 he

theorem State.mapRevert_frame (s : State) (k : Nat) (m : MapSave) : s.mapRevert k m = { s with regs := (s.mapRevert k m).regs } :=
  State.regsOnly_trans (State.forEach_setReg_frame _ (A.pcmapEntry k) (fun l => m.entries.getD l 0) s) rfl

/-! ### Closing an edit -/

/-- The edit of stack `k` is over; the map still stands as it was edited. -/
def State.editEnded (s : State) (k : Nat) : State :=
  { (s.fset (F.pcmapEdit_EDIT k) 0) with mapSave := SMap.put s.mapSave none k none }

theorem State.sets_editEnded (s : State) (k : Nat) :
    ({ s with mapSave := SMap.put s.mapSave none k none } : State).sets (s.editEnded k) [(F.pcmapEdit_EDIT k, 0)] :=
  State.sets_congr _ _ _ _ _ (s.sets_fset_alone (F.pcmapEdit_EDIT k) 0 (Fld.ok_mk (by decide)) (Nat.two_pow_pos _)) rfl rfl

theorem pcmapSpare_MASK_ok (k : Nat) : (F.pcmapSpare_MASK k).Ok := Fld.ok_mk (by decide)
theorem pcmapEdit_EDIT_REFUSED_ok (k : Nat) : (F.pcmapEdit_EDIT_REFUSED k).Ok := Fld.ok_mk (by decide)

theorem Build.N_le (b : Build) : b.N ≤ 64 := Nat.sub_le ..

/-- The end of the edit leaves the map. -/
theorem State.fget_editEnded (s : State) (k : Nat) :
    (∀ l < s.build.N, (s.editEnded k).fget (F.pcmapEntry_STATE k l) = s.fget (F.pcmapEntry_STATE k l) ∧
      (s.editEnded k).fget (F.pcmapEntry_PPC k l) = s.fget (F.pcmapEntry_PPC k l)) ∧
      (s.editEnded k).fget (F.pcmapFailed_MASK k) = s.fget (F.pcmapFailed_MASK k) := by
  have hregs := (s.sets_editEnded k).2.2
  refine ⟨fun l hl => ?_, hregs _ (Fld.ok_mk (by decide)) (List.forall_mem_singleton.2 (.inl ?_))⟩
  · have hl64 := Nat.lt_of_lt_of_le hl s.build.N_le
    have hne : A.pcmapEdit k ≠ A.pcmapEntry k l := by unfold A.pcmapEdit A.pcmapEntry; omega
    exact ⟨hregs _ (Fld.ok_mk (by decide)) (List.forall_mem_singleton.2 (.inl hne)),
      hregs _ (Fld.ok_mk (by decide)) (List.forall_mem_singleton.2 (.inl hne))⟩
  · show A.pcmapEdit k ≠ A.pcmapFailed k
    unfold A.pcmapEdit A.pcmapFailed; omega

theorem State.editClose_eq (s : State) (k : Nat) (m : MapSave) (hedit : s.flag (F.pcmapEdit_EDIT k) = true)
    (hsave : SMap.get s.mapSave none k = some m) : s.editClose k =
      if (s.editEnded k).mapValid k then (s.editEnded k).fset (F.pcmapSpare_MASK k) ((s.editEnded k).spareNow k)
      else ((s.editEnded k).mapRevert k m).raise (F.pcmapEdit_EDIT_REFUSED k) := by
  unfold State.editClose
  rw [hedit, hsave]
  rfl

/-- Settles O32: the edited map is valid or it is not. -/
theorem mapEditClosed : Obligations.MapEditClosed := by
  unfold Obligations.MapEditClosed
  intro k s m hcp hk hedit hsave inUse failed good
  obtain ⟨hentries, hfailed⟩ := s.cpOk.fget_editEnded k.val
  have huse : ∀ p, (∃ l < s.build.N, (s.cpOk.editEnded k.val).fget (F.pcmapEntry_STATE k.val l) = 0 ∧
      (s.cpOk.editEnded k.val).fget (F.pcmapEntry_PPC k.val l) = p) ↔ inUse p := fun p =>
    exists_congr fun l => and_congr_right fun hl => by rw [(hentries l hl).1, (hentries l hl).2]; rfl
  have hfail : ∀ p, ((s.cpOk.editEnded k.val).fget (F.pcmapFailed_MASK k.val)).testBit p = failed p := fun p => by rw [hfailed]; rfl
  have hvalid : (s.cpOk.editEnded k.val).mapValid k.val = true ↔ good := by
    rw [State.mapValid_iff]
    refine and_congr (forall_congr' fun i => forall_congr' fun hi => forall_congr' fun j => forall_congr' fun hj => ?_)
      (forall_congr' fun p => ?_)
    · rw [(hentries i hi).1, (hentries i hi).2, (hentries j hj).1, (hentries j hj).2]; rfl
    · rw [hfail, ← huse]; rfl
  have hended := s.cpOk.sets_editEnded k.val
  have hsaveNone : SMap.get (s.cpOk.editEnded k.val).mapSave none k.val = none := SMap.get_put_same _ _ _ _
  refine ⟨_, s.cpStk_ready k _ (fun u => u.editClose k.val) hcp hk, ?_⟩
  rw [s.cpOk.editClose_eq k.val m hedit hsave]
  by_cases hgood : good
  · rw [if_pos (hvalid.2 hgood)]
    have hlt := (s.cpOk.editEnded k.val).spareNow_lt k.val
    have hspare : ((s.cpOk.editEnded k.val).fset (F.pcmapSpare_MASK k.val) ((s.cpOk.editEnded k.val).spareNow k.val)).fget (F.pcmapSpare_MASK k.val) =
        (s.cpOk.editEnded k.val).spareNow k.val := by
      rw [State.fget_fset_same _ _ _ (pcmapSpare_MASK_ok k.val)]
      exact Nat.mod_eq_of_lt hlt
    have hapart : (F.pcmapSpare_MASK k.val).Apart (F.pcmapEdit_EDIT k.val) := .inl (by
      show A.pcmapSpare k.val ≠ A.pcmapEdit k.val
      unfold A.pcmapSpare A.pcmapEdit; omega)
    have hset := State.sets_fset _ _ _ (F.pcmapSpare_MASK k.val) _ _ (Fld.ok_mk (by decide)) (Nat.mod_eq_of_lt hlt)
      (List.forall_mem_singleton.2 hapart) hended
    refine ⟨hsaveNone, rfl, ?_, fun _ => ⟨?_, fun p hp => ?_⟩, fun hbad => absurd hgood hbad⟩
    · exact congrArg (· == 1) (hset.2.1 (F.pcmapEdit_EDIT k.val, 0) (by simp))
    · rw [hspare]
      exact State.sets_perm _ _ _ _ (fun e => by simp only [List.mem_cons, List.not_mem_nil, or_false]; exact or_comm) hset
    · rw [hspare, State.testBit_spareNow _ _ _ hp, hfail]
      exact and_congr_right fun _ => not_congr (huse p)
  · rw [if_neg (mt hvalid.1 hgood)]
    obtain ⟨hent, hfl, hsp, hother⟩ := (s.cpOk.editEnded k.val).reg_mapRevert k.val m
    have hframe := State.mapRevert_frame (s.cpOk.editEnded k.val) k.val m
    have hedited : ∀ a, A.pcmapEdit k.val ≠ a →
        (((s.cpOk.editEnded k.val).mapRevert k.val m).raise (F.pcmapEdit_EDIT_REFUSED k.val)).reg a =
          ((s.cpOk.editEnded k.val).mapRevert k.val m).reg a := fun a ha => State.reg_fset_other _ _ _ _ ha
    have hclear : ((s.cpOk.editEnded k.val).mapRevert k.val m).reg (A.pcmapEdit k.val) = (s.cpOk.editEnded k.val).reg (A.pcmapEdit k.val) := by
      refine hother _ (fun l hl => ?_) ?_ ?_
      · unfold A.pcmapEntry A.pcmapEdit; omega
      · unfold A.pcmapFailed A.pcmapEdit; omega
      · unfold A.pcmapSpare A.pcmapEdit; omega
    refine ⟨?_, ?_, ?_, fun h => absurd h hgood, fun _ => ⟨?_, fun l hl => ?_, ?_, ?_⟩⟩
    · rw [hframe]; exact hsaveNone
    · rw [hframe]; rfl
    · rw [State.flag, State.raise, State.fget_fset_apart _ _ _ _ (pcmapEdit_EDIT_REFUSED_ok k.val) (by simp [F.pcmapEdit_EDIT_REFUSED, F.pcmapEdit_EDIT])]
      have hval : ((s.cpOk.editEnded k.val).mapRevert k.val m).fget (F.pcmapEdit_EDIT k.val) = 0 := by
        unfold State.fget
        rw [show (F.pcmapEdit_EDIT k.val).addr = A.pcmapEdit k.val from rfl, hclear]
        exact hended.2.1 (F.pcmapEdit_EDIT k.val, 0) (List.mem_singleton_self _)
      rw [hval]; rfl
    · exact State.flag_raise _ _ (Fld.ok_mk (by decide))
    · rw [hedited _ (by unfold A.pcmapEntry A.pcmapEdit; omega)]; exact hent l hl
    · rw [hedited _ (by unfold A.pcmapFailed A.pcmapEdit; omega)]; exact hfl
    · rw [hedited _ (by unfold A.pcmapSpare A.pcmapEdit; omega)]; exact hsp

end Sys2Proof.Machine

/-! PROOFS. The access lock ends every open edit; the capacity configuration. -/

namespace Sys2Proof.Machine

/-- The end of an edit changes the registers of its map, and no others. -/
theorem State.editClose_spec (s : State) (k : Nat) :
    s.editClose k = { s with regs := (s.editClose k).regs, mapSave := (s.editClose k).mapSave } ∧
      (s.editClose k).flag (F.pcmapEdit_EDIT k) = false ∧
      ∀ a, A.pcmapEdit k ≠ a → (∀ l < 64, A.pcmapEntry k l ≠ a) → A.pcmapFailed k ≠ a → A.pcmapSpare k ≠ a →
        (s.editClose k).reg a = s.reg a := by
  cases hedit : s.flag (F.pcmapEdit_EDIT k) with
  | false =>
    have hclose : s.editClose k = s := by rw [State.editClose, hedit]; rfl
    rw [hclose]
    exact ⟨rfl, hedit, fun _ _ _ _ _ => rfl⟩
  | true =>
    have hends : (s.editEnded k).flag (F.pcmapEdit_EDIT k) = false :=
      congrArg (· == 1) ((s.sets_editEnded k).2.1 (F.pcmapEdit_EDIT k, 0) (List.mem_singleton_self _))
    have hreg : ∀ a, A.pcmapEdit k ≠ a → (s.editEnded k).reg a = s.reg a := fun a ha => s.reg_fset_other (F.pcmapEdit_EDIT k) 0 a ha
    have hraise : ∀ t : State, (t.raise (F.pcmapEdit_EDIT_REFUSED k)).flag (F.pcmapEdit_EDIT k) = t.flag (F.pcmapEdit_EDIT k) := fun t => by
      rw [State.flag, State.raise, State.fget_fset_apart _ _ _ _ (pcmapEdit_EDIT_REFUSED_ok k) (by simp [F.pcmapEdit_EDIT_REFUSED, F.pcmapEdit_EDIT])]
      rfl
    have hreverted : ∀ m, ((s.editEnded k).mapRevert k m).flag (F.pcmapEdit_EDIT k) = false := fun m => by
      rw [← hends]
      unfold State.flag State.fget
      rw [((s.editEnded k).reg_mapRevert k m).2.2.2 (F.pcmapEdit_EDIT k).addr]
      · intro l hl; show A.pcmapEntry k l ≠ A.pcmapEdit k; unfold A.pcmapEntry A.pcmapEdit; omega
      · show A.pcmapFailed k ≠ A.pcmapEdit k; unfold A.pcmapFailed A.pcmapEdit; omega
      · show A.pcmapSpare k ≠ A.pcmapEdit k; unfold A.pcmapSpare A.pcmapEdit; omega
    have hclose : s.editClose k = if (s.editEnded k).mapValid k then (s.editEnded k).fset (F.pcmapSpare_MASK k) ((s.editEnded k).spareNow k)
        else (match SMap.get s.mapSave none k with | some m => (s.editEnded k).mapRevert k m | none => s.editEnded k).raise
          (F.pcmapEdit_EDIT_REFUSED k) := by
      rw [State.editClose, hedit]
      rfl
    rw [hclose]
    split
    next hvalid =>
      refine ⟨rfl, ?_, fun a hedit _ _ hspare => ?_⟩
      · rw [State.flag, State.fget_fset_apart _ _ _ _ (pcmapSpare_MASK_ok k)]
        · exact hends
        · exact .inl (by show A.pcmapSpare k ≠ A.pcmapEdit k; unfold A.pcmapSpare A.pcmapEdit; omega)
      · rw [State.reg_fset_other _ (F.pcmapSpare_MASK k) _ _ hspare, hreg a hedit]
    next hbad =>
      cases SMap.get s.mapSave none k with
      | none => exact ⟨rfl, (hraise _).trans hends, fun a hedit _ _ _ => (State.reg_fset_other _ (F.pcmapEdit_EDIT_REFUSED k) _ _ hedit).trans (hreg a hedit)⟩
      | some m =>
        refine ⟨?_, (hraise _).trans (hreverted m), fun a hedit hentry hfailed hspare => ?_⟩
        · simp only
          rw [State.mapRevert_frame]
          rfl
        · simp only
          rw [State.raise, State.reg_fset_other _ (F.pcmapEdit_EDIT_REFUSED k) _ _ hedit, ((s.editEnded k).reg_mapRevert k m).2.2.2 a hentry hfailed hspare, hreg a hedit]

/-- The maps of different stacks lie apart. -/
theorem State.flag_edit_editClose (s : State) (k j : Nat) :
    (s.editClose k).flag (F.pcmapEdit_EDIT j) = if j = k then false else s.flag (F.pcmapEdit_EDIT j) := by
  obtain ⟨_, hends, hother⟩ := s.editClose_spec k
  split
  next h => rw [h]; exact hends
  next h =>
    unfold State.flag State.fget
    rw [hother (F.pcmapEdit_EDIT j).addr]
    · show A.pcmapEdit k ≠ A.pcmapEdit j; unfold A.pcmapEdit; omega
    · intro l hl; show A.pcmapEntry k l ≠ A.pcmapEdit j; unfold A.pcmapEntry A.pcmapEdit; omega
    · show A.pcmapFailed k ≠ A.pcmapEdit j; unfold A.pcmapFailed A.pcmapEdit; omega
    · show A.pcmapSpare k ≠ A.pcmapEdit j; unfold A.pcmapSpare A.pcmapEdit; omega

theorem State.flag_lock_editClose (s : State) (k : Nat) : (s.editClose k).flag F.glbAccLock_LOCK = s.flag F.glbAccLock_LOCK := by
  obtain ⟨_, _, hother⟩ := s.editClose_spec k
  unfold State.flag State.fget
  rw [hother F.glbAccLock_LOCK.addr]
  · show A.pcmapEdit k ≠ A.glbAccLock; unfold A.pcmapEdit A.glbAccLock; omega
  · intro l hl; show A.pcmapEntry k l ≠ A.glbAccLock; unfold A.pcmapEntry A.glbAccLock; omega
  · show A.pcmapFailed k ≠ A.glbAccLock; unfold A.pcmapFailed A.glbAccLock; omega
  · show A.pcmapSpare k ≠ A.glbAccLock; unfold A.pcmapSpare A.glbAccLock; omega

/-- Every open edit of the stacks listed ends. -/
theorem State.editsClosed (s : State) (l : List Nat) :
    let t := s.forEach l fun s k => s.editClose k
    t = { s with regs := t.regs, mapSave := t.mapSave } ∧ t.flag F.glbAccLock_LOCK = s.flag F.glbAccLock_LOCK ∧
      ∀ k, t.flag (F.pcmapEdit_EDIT k) = (!decide (k ∈ l) && s.flag (F.pcmapEdit_EDIT k)) := by
  induction l generalizing s with
  | nil => exact ⟨rfl, rfl, fun k => by simp [State.forEach]⟩
  | cons j l ih =>
    obtain ⟨hframe, hlock, hedits⟩ := ih (s.editClose j)
    intro t
    have ht : t = (s.editClose j).forEach l fun s k => s.editClose k := rfl
    rw [ht]
    refine ⟨hframe.trans ?_, hlock.trans (s.flag_lock_editClose j), fun k => ?_⟩
    · rw [(s.editClose_spec j).1]
    · rw [hedits, s.flag_edit_editClose]
      by_cases hj : k = j
      · simp [hj]
      · simp [hj]

/-- Settles O34: LOCK is set and the edits end one by one; CAP_CFG is written and SCALE compared. -/
theorem lockAndCapacity : Obligations.LockAndCapacity := by
  unfold Obligations.LockAndCapacity
  refine ⟨fun s hcp => ⟨_, s.cpDo_ready _ (fun u => u.accLock) hcp, ?_⟩, fun w s hcp => ?_⟩
  · have hraise := s.cpOk.sets_raise_alone F.glbAccLock_LOCK (by decide)
    have hedit : ∀ k, (s.cpOk.raise F.glbAccLock_LOCK).flag (F.pcmapEdit_EDIT k) = s.flag (F.pcmapEdit_EDIT k) := fun k =>
      congrArg (· == 1) (hraise.2.2 _ (Fld.ok_mk (by decide)) (List.forall_mem_singleton.2 (.inl (by
        show A.glbAccLock ≠ A.pcmapEdit k; unfold A.glbAccLock A.pcmapEdit; omega))))
    obtain ⟨hframe, hlock, hedits⟩ := (s.cpOk.raise F.glbAccLock_LOCK).editsClosed s.stacks
    refine ⟨hlock.trans (State.flag_raise _ _ (by decide)), hframe, fun k hk => ?_, fun hnone => ?_⟩
    · refine (hedits k).trans ?_
      simp [State.stacks, hk]
    · have hsame : s.cpOk.accLock = s.cpOk.raise F.glbAccLock_LOCK := by
        refine State.forEach_same _ _ _ fun k hk => ?_
        have hoff : (s.cpOk.raise F.glbAccLock_LOCK).flag (F.pcmapEdit_EDIT k) = false := (hedit k).trans (hnone k (List.mem_range.1 hk))
        rw [State.editClose, hoff]
        rfl
      rw [hsame]
      exact hraise
  · have hutil := s.cpOk.sets_fset_alone F.trfCapCfg_UTIL (bitsOf w.toNat 15 8) (by decide) (bitsOf_fits _ _ _)
    have hboth := s.cpOk.sets_fset _ _ F.trfCapCfg_REF_LOSS (bitsOf w.toNat 7 0) _ (by decide) (Nat.mod_eq_of_lt (bitsOf_fits _ _ _))
      (by simp +decide) hutil
    have hexec : exec (.capCfgWrite w) s = .next (((s.cpOk.fset F.trfCapCfg_UTIL (bitsOf w.toNat 15 8)).fset F.trfCapCfg_REF_LOSS
        (bitsOf w.toNat 7 0)).scaleNote s.scale.1) := s.cpDo_ready _ (fun u => u.capCfgWrite w.toNat) hcp
    refine ⟨_, s.cpOk.sets_perm _ _ _ (fun e => by simp only [List.mem_cons, List.not_mem_nil, or_false]; exact or_comm) hboth,
      fun hsame => ?_, fun hne => ?_⟩
    · rw [hexec]
      exact congrArg _ (if_pos hsame)
    · rw [hexec]
      exact congrArg _ (if_neg hne)

end Sys2Proof.Machine

/-! PROOFS. The stream cache: fetches that begin and return, write-backs. -/

namespace Sys2Proof.Machine

/-! ### The entry of a stream -/

theorem State.entry?_some (s : State) (i j : Nat) (e : Entry) (h : s.entry? i = some (j, e)) : e.st ≠ .free ∧ e.stream = i := by
  have hp := List.find?_some h
  simpa using hp

/-- An entry that is written at the place where the stream's entry was found is found there. -/
theorem SMap.find?_insert_eq {α : Type} (m : SMap α) (p : Nat × α → Bool) (j : Nat) (e x : α) (hp : p (j, x) = true)
    (h : m.find? p = some (j, e)) : (SMap.insert m j x).find? p = some (j, x) := by
  induction m with
  | nil => cases h
  | cons a m ih =>
    obtain ⟨k, v⟩ := a
    by_cases hlt : j < k
    · simp [SMap.insert, hlt, hp]
    · by_cases heq : j = k
      · subst heq
        simp [SMap.insert, hp]
      · cases hv : p (k, v) with
        | true =>
          rw [List.find?_cons_of_pos hv] at h
          cases h
          exact absurd rfl heq
        | false =>
          have hnot : ¬ p (k, v) = true := by rw [hv]; exact Bool.false_ne_true
          rw [List.find?_cons_of_neg hnot] at h
          simp [SMap.insert, hlt, heq, hv, ih h]

theorem State.setEntry_cache (s : State) (j : Nat) (x : Entry) (hx : x.st ≠ .free) : (s.setEntry j x).cache = SMap.insert s.cache j x := by
  have hne : x ≠ Entry.init := by rintro rfl; exact hx rfl
  show SMap.put s.cache Entry.init j x = _
  rw [SMap.put_eq, if_neg hne]

theorem State.entry?_setEntry (s : State) (i j : Nat) (e x : Entry) (h : s.entry? i = some (j, e)) (hx : x.st ≠ .free) (hi : x.stream = i) :
    (s.setEntry j x).entry? i = some (j, x) := by
  unfold State.entry?
  rw [s.setEntry_cache j x hx]
  exact SMap.find?_insert_eq _ _ _ e _ (by simp [hx, hi]) h

theorem State.setEntry_setEntry (s : State) (j : Nat) (x y : Entry) (hx : x.st ≠ .free) : (s.setEntry j x).setEntry j y = s.setEntry j y := by
  have hne : x ≠ Entry.init := by rintro rfl; exact hx rfl
  unfold State.setEntry
  rw [SMap.put_put _ _ _ _ _ hne]

theorem State.get_setEntry (s : State) (j : Nat) (x : Entry) : SMap.get (s.setEntry j x).cache Entry.init j = x := SMap.get_put_same _ _ _ _

/-- An entry that is not marked for eviction, or not idle, stays. -/
theorem State.evictIdle_stays (s : State) (i j : Nat) (e : Entry) (h : s.entry? i = some (j, e)) (hstay : e.st = .idle → e.evict = false) :
    s.evictIdle i = s := by
  unfold State.evictIdle
  rw [h]
  by_cases hidle : e.st = .idle
  · simp [hstay hidle]
  · simp [hidle]

/-! ### Commands of a stream -/

theorem State.commanded_eq_false (s : State) (i : Nat) : s.commanded i = false ↔ ∀ c ∈ s.scmds, c.stream ≠ i := by
  simp [State.commanded]

theorem State.findCmd_none (s : State) (i : Nat) (h : s.commanded i = false) : (s.scmds.find? fun c => c.stream == i) = none := by
  rw [List.find?_eq_none]
  simpa using (s.commanded_eq_false i).1 h

/-! ### DESCRIPTOR_FETCH_START -/

theorem exec_descriptorFetchStart (i : BitVec 20) (s : State) (m : Miss) (hnone : s.entry? i.toNat = none)
    (hm : s.misses.find? (fun x => x.stream == i.toNat && !x.started) = some m) :
    exec (.descriptorFetchStart i) s = .next (
      if freeIndex s.cache 0 < cacheSize then s.fetchInto i.toNat (freeIndex s.cache 0) m
      else if (s.misses.filter fun x => !x.started).length ≤ (s.cache.filter fun e => e.2.st == .writeback).length then s
      else match s.victim with
        | some v => (s.settleSample v.1).writeback v.1
        | none =>
          let s := { s with misses := s.misses.map fun (x : Miss) => if x.stream = i.toNat then { x with waited := true } else x }
          if s.cacheFull then s else { (s.post 0x0408 0 i.toNat 0) with cacheFull := true }) := by
  change Host.Outcome.next (s.fetchStart i.toNat) = _
  rw [State.fetchStart, hm, hnone]
  rfl

/-- Entry `j` is being filled for the miss on stream `i` (Table 4.2). -/
def State.filling (s : State) (i j : Nat) (m : Miss) : State :=
  { s.setEntry j { Entry.init with st := .filling, stream := i, last := s.cadence } with
    misses := s.misses.map fun x => if x.stream = i then { x with started := true } else x
    cacheFull := s.cacheFull && m.waited }

theorem State.fetchInto_eq (s : State) (i j : Nat) (m : Miss) : s.fetchInto i j m =
    State.ownStart (if m.reqs.all fun id => (s.req? id).all Req.looks then s.filling i j m
      else (s.filling i j m).count F.trfCacheMisses_COUNT 1) (.fetch i) (serviceAccess 7) .read (s.descAddr i) 1 [] [] [] := by
  have hreqs : ∀ id, (s.filling i j m).req? id = s.req? id := fun _ => rfl
  have hinto : s.fetchInto i j m = State.ownStart (if m.reqs.all fun id => ((s.filling i j m).req? id).all Req.looks then s.filling i j m
      else (s.filling i j m).count F.trfCacheMisses_COUNT 1) (.fetch i) (serviceAccess 7) .read
        (State.descAddr (if m.reqs.all fun id => ((s.filling i j m).req? id).all Req.looks then s.filling i j m
          else (s.filling i j m).count F.trfCacheMisses_COUNT 1) i) 1 [] [] [] := rfl
  rw [hinto]
  simp only [hreqs]
  split <;> rfl

/-- Settles O35: the branches of `State.fetchStart`. -/
theorem fetchStarted : Obligations.FetchStarted := by
  unfold Obligations.FetchStarted
  intro i s m hnone hm marked
  rw [exec_descriptorFetchStart i s m hnone hm]
  refine ⟨fun hfree => ?_, fun hfull hleaving => ?_, fun hfull hleaving => ?_⟩
  · rw [if_pos (show freeIndex s.cache 0 < cacheSize from hfree), s.fetchInto_eq]
    refine ⟨_, ?_, rfl⟩
    generalize hv : s.filling i.toNat (freeIndex s.cache 0) m = v
    have hcount : s.fget F.trfCacheMisses_COUNT = v.fget F.trfCacheMisses_COUNT := by rw [← hv]; rfl
    have hlt : v.fget F.trfCacheMisses_COUNT < 2 ^ 64 := bitsOf_lt _ _ _
    rw [show ({ s.setEntry (freeIndex s.cache 0) { Entry.init with st := .filling, stream := i.toNat, last := s.cadence } with
        misses := s.misses.map fun x => if x.stream = i.toNat then { x with started := true } else x
        cacheFull := s.cacheFull && m.waited } : State) = v from hv, hcount]
    split
    · rw [Nat.add_zero, Nat.mod_eq_of_lt hlt]
      exact v.sets_kept v [] F.trfCacheMisses_COUNT (by decide) (by simp) v.sets_nil
    · exact v.sets_fset v [] _ _ _ (by decide) rfl (by simp) v.sets_nil
  · rw [if_neg (show ¬ freeIndex s.cache 0 < cacheSize from Nat.not_lt.2 hfull), if_neg (Nat.not_le.2 hleaving)]
    refine ⟨fun v hv => ?_, fun hv hfirst => ?_, fun hv hlater => ?_⟩
    · rw [hv]
    · rw [hv]
      exact congrArg _ (if_neg (by show ¬ s.cacheFull = true; rw [hfirst]; exact Bool.false_ne_true))
    · rw [hv]
      exact congrArg _ (if_pos hlater)
  · rw [if_neg (show ¬ freeIndex s.cache 0 < cacheSize from Nat.not_lt.2 hfull), if_pos hleaving]

/-! ### The block's own accesses -/

theorem State.ownGo_of_has (s : State) (o : Own) (id : Nat) (d : Direct) (f : State → State) (h : s.has o id d) (hd : d ≠ .blocked) :
    s.ownGo o f = (s.dropReq id, d) := by
  obtain ⟨r, hfind, hdir⟩ := h
  unfold State.ownGo
  rw [hfind]
  simp only [hdir]

theorem State.ownGo_blocked (s : State) (o : Own) (id : Nat) (f : State → State) (h : s.has o id .blocked) : s.ownGo o f = (s, .blocked) := by
  obtain ⟨r, hfind, hdir⟩ := h
  unfold State.ownGo
  rw [hfind]
  simp only [hdir]

/-! ### DESCRIPTOR_FETCH_RETURN and WRITEBACK_DONE while the block enters RETAIN

Both commands end with a look at an entry to RETAIN that waits for them (`State.retainProceed`). Statements that name the whole next
state and do not ask for a power state outside that entry fail there. -/

/-- The state a command answers, or the state before where it answers none. -/
def nextOr (s : State) (o : Host.Outcome State Fault Refusal) : State :=
  match o with
  | .next t => t
  | _ => s

/-- One stack; step 1 of an entry to RETAIN (Table 13.3); entry 0 of the stream cache as given. -/
def enteringWith (e : Entry) : State :=
  { State.reset with
    build := { Build.largest with nStacks := 1 }, power := .entering, drone := { State.reset.drone with step := 1 }, cache := [(0, e)] }

/-- Refutes O36: WRITEBACK_DONE of a stream whose entry is not being written back changes more than `evictIdle` does while an entry
to RETAIN stands at its step 1: it takes the entry on to step 2. -/
theorem not_fetchAndWriteback : ¬ Obligations.FetchAndWriteback := by
  unfold Obligations.FetchAndWriteback
  rintro ⟨-, -, -, hreturn⟩
  let e : Entry := { Entry.init with st := .filling }
  obtain ⟨-, -, hother, -⟩ := hreturn 0 (enteringWith e) 0 0 e (by decide +kernel)
  have hclaim : nextOr (enteringWith e) (exec (.writebackDone 0) (enteringWith e)) = (enteringWith e).evictIdle 0 := by
    rw [hother (by decide)]
    rfl
  have hstep := congrArg (fun s : State => s.drone.step) hclaim
  have hnot : (nextOr (enteringWith e) (exec (.writebackDone 0) (enteringWith e))).drone.step ≠ ((enteringWith e).evictIdle 0).drone.step := by
    decide +kernel
  exact hnot hstep

/-- A read of the store by a LOAD of stream 0 whose PC is lost, and the command that waits for it. -/
def loadLost : State :=
  { enteringWith { Entry.init with st := .idle } with
    reqs := [(5, { ownReq (.load 0) opRead 1 0 0 0 0 with res := [⟨.lost, true, 0⟩] })], scmds := [⟨0, 1, false, false, none, false⟩] }

/-- Refutes O38: a LOAD whose read of the store is lost ends with RESULT 4, but while an entry to RETAIN stands at its step 1 the entry
goes on to step 2 at the same DESCRIPTOR_FETCH_RETURN. -/
theorem not_streamLoaded : ¬ Obligations.StreamLoaded := by
  unfold Obligations.StreamLoaded
  intro h
  obtain ⟨-, -, hlost⟩ := h 0 false false false loadLost 0 5 { Entry.init with st := .idle } .lost (by decide +kernel) (by decide +kernel)
    (by decide) (fun _ => rfl) (by decide +kernel) ⟨_, rfl, rfl⟩
  obtain ⟨t, hexec, hframe, -, -⟩ := hlost (.inr rfl)
  have hstep : t.drone.step = 1 := by rw [hframe]; rfl
  have hnot : (nextOr loadLost (exec (.descriptorFetchReturn 0) loadLost)).drone.step ≠ 1 := by decide +kernel
  rw [hexec] at hnot
  exact hnot hstep

end Sys2Proof.Machine

/-! PROOFS. The stream commands of the control port (R141, Table 4.3). -/

namespace Sys2Proof.Machine

/-! ### Commands that arrive and complete -/

/-- A command of the control port that has not begun. -/
def cpCmd (i : BitVec 20) (op : Nat) (z f : Bool) : SCmd := ⟨i.toNat, op, z, f, none, false⟩

/-- The state in which a command of the control port is looked at: its stream is named, and it is queued (R130, R141). -/
def State.queued (s : State) (c : SCmd) : State := { s.named c.stream with scmds := s.scmds ++ [c] }

theorem State.streamCmd_behind (s : State) (c : SCmd) (h : s.commanded c.stream = true) : s.streamCmd c = s.queued c := by
  unfold State.streamCmd
  rw [h]
  rfl

/-- A command with none before it on its stream is looked at, at once. -/
theorem State.streamCmd_first (s : State) (c : SCmd) (h : s.commanded c.stream = false) : s.streamCmd c =
    match (s.queued c).applyCmd c with
    | (t, .wait) => t
    | (t, .done r) => (t.cmdDone c r).evictIdle c.stream := by
  have hfind : ((s.queued c).scmds.find? fun x => x.stream == c.stream) = some c := by
    show (s.scmds ++ [c]).find? _ = some c
    rw [List.find?_append, s.findCmd_none _ h]
    simp
  have hrun : s.streamCmd c = State.runCmds 1 c.stream (s.queued c) := by
    unfold State.streamCmd
    rw [h]
    rfl
  rw [hrun, State.runCmds, hfind]
  rfl

/-- What the completion of a control-port command shows (R141). -/
def State.shown (s : State) (i r : Nat) : State := (s.fset F.trfStreamStatus_ID i).fset F.trfStreamStatus_RESULT r

theorem State.sets_shown (s : State) (i : BitVec 20) (r : Nat) (hr : r < 8) :
    s.sets (s.shown i.toNat r) [(F.trfStreamStatus_ID, i.toNat), (F.trfStreamStatus_RESULT, r)] := by
  have hid := s.sets_fset_alone F.trfStreamStatus_ID i.toNat (by decide) i.isLt
  have hboth := s.sets_fset _ _ F.trfStreamStatus_RESULT r r (by decide) (Nat.mod_eq_of_lt hr) (by simp +decide) hid
  exact s.sets_perm _ _ _ (fun e => by simp only [List.mem_cons, List.not_mem_nil, or_false]; exact or_comm) hboth

/-- A command of the control port leaves the list as it completes, and names its stream. -/
theorem State.cmdDone_cp (s t : State) (c : SCmd) (r : Nat) (hctx : c.ctx = none) (hcmd : s.commanded c.stream = false)
    (hscmds : t.scmds = s.scmds ++ [c]) :
    t.cmdDone c r = State.named (State.shown { t with scmds := s.scmds } c.stream r) c.stream := by
  have hkeep : (t.scmds.filter fun x => !(x.stream == c.stream && x.ctx == c.ctx)) = s.scmds := by
    rw [hscmds, List.filter_append, List.filter_eq_self.2]
    · simp
    · intro x hx
      simp [(s.commanded_eq_false c.stream).1 hcmd x hx]
  unfold State.cmdDone State.cmdResult
  rw [hkeep, hctx]
  rfl

theorem State.named_none (s : State) (i : Nat) (h : s.entry? i = none) : s.named i = s := by
  unfold State.named
  rw [h]

theorem State.named_some (s : State) (i j : Nat) (e : Entry) (h : s.entry? i = some (j, e)) :
    s.named i = s.setEntry j { e with last := s.cadence } := by
  unfold State.named
  rw [h]

theorem State.evictIdle_none (s : State) (i : Nat) (h : s.entry? i = none) : s.evictIdle i = s := by
  unfold State.evictIdle
  rw [h]

/-- A command of a stream that is not cached completes with a result alone. -/
theorem State.streamCmd_gone (s : State) (c : SCmd) (r : Nat) (hctx : c.ctx = none) (hcmd : s.commanded c.stream = false)
    (hnone : s.entry? c.stream = none) (happly : (s.queued c).applyCmd c = (s.queued c, .done r)) :
    s.streamCmd c = s.shown c.stream r := by
  have hq : (s.queued c) = { s with scmds := s.scmds ++ [c] } := by rw [State.queued, s.named_none _ hnone]
  have hshown : (s.shown c.stream r).entry? c.stream = none := hnone
  rw [s.streamCmd_first c hcmd, happly, hq]
  have hdone := s.cmdDone_cp { s with scmds := s.scmds ++ [c] } c r hctx hcmd rfl
  simp only
  rw [hdone]
  show (State.named (s.shown c.stream r) c.stream).evictIdle c.stream = _
  rw [State.named_none _ _ hshown, State.evictIdle_none _ _ hshown]

theorem State.fset_setEntry (s : State) (f : Fld) (v j : Nat) (x : Entry) : (s.fset f v).setEntry j x = (s.setEntry j x).fset f v := rfl
theorem State.shown_setEntry (s : State) (i r j : Nat) (x : Entry) : (s.shown i r).setEntry j x = (s.setEntry j x).shown i r := by
  rw [State.shown, State.fset_setEntry, State.fset_setEntry, State.shown]
theorem State.shown_entry? (s : State) (i r n : Nat) : (s.shown i r).entry? n = s.entry? n := by
  simp only [State.shown, State.entry?, State.fset_cache]
theorem State.shown_cadence (s : State) (i r : Nat) : (s.shown i r).cadence = s.cadence := by
  simp only [State.shown, State.fset_cadence]

/-- A command of a cached stream that completes at once leaves the entry as `x`, used now. -/
theorem State.streamCmd_done (s t : State) (c : SCmd) (r j : Nat) (e x : Entry) (hctx : c.ctx = none) (hcmd : s.commanded c.stream = false)
    (hentry : s.entry? c.stream = some (j, e)) (happly : (s.queued c).applyCmd c = (t, .done r))
    (ht : t = { s.setEntry j x with regs := t.regs, scmds := s.scmds ++ [c] }) (hx : x.st ≠ .free) (hi : x.stream = c.stream)
    (hlast : x.last = s.cadence) (hstay : x.st = .idle → x.evict = false) :
    s.streamCmd c = State.shown { s.setEntry j x with regs := t.regs } c.stream r := by
  have hdone := s.cmdDone_cp t c r hctx hcmd (by rw [ht])
  have hleft : ({ t with scmds := s.scmds } : State) = { s.setEntry j x with regs := t.regs } :=
    congrArg (fun u : State => ({ u with scmds := s.scmds } : State)) ht
  rw [hleft] at hdone
  have hfound : ({ s.setEntry j x with regs := t.regs } : State).entry? c.stream = some (j, x) := s.entry?_setEntry c.stream j e x hentry hx hi
  have hcad : ({ s.setEntry j x with regs := t.regs } : State).cadence = s.cadence := rfl
  have hagain : State.setEntry { s.setEntry j x with regs := t.regs } j x = { s.setEntry j x with regs := t.regs } := by
    have htwice : State.setEntry { s.setEntry j x with regs := t.regs } j x = { (s.setEntry j x).setEntry j x with regs := t.regs } := rfl
    rw [htwice, s.setEntry_setEntry j x x hx]
  rw [s.streamCmd_first c hcmd, happly]
  simp only
  rw [hdone]
  generalize ({ s.setEntry j x with regs := t.regs } : State) = v at hfound hagain hcad
  have hsame : { x with last := v.cadence } = x := by rw [hcad, ← hlast]
  rw [State.named_some _ _ j x (by rw [State.shown_entry?]; exact hfound), State.shown_cadence, hsame, State.shown_setEntry, hagain,
    State.evictIdle_stays _ _ j x (by rw [State.shown_entry?]; exact hfound) hstay]

/-! ### Pinned entries -/

theorem SMap.countP_insert {α : Type} (m : SMap α) (p : Nat × α → Bool) (j : Nat) (e x : α) (hget : SMap.get? m j = some e)
    (he : p (j, e) = false) (hx : p (j, x) = false) : ((SMap.insert m j x).filter p).length = (m.filter p).length := by
  induction m with
  | nil => cases hget
  | cons a m ih =>
    obtain ⟨k, v⟩ := a
    by_cases hlt : j < k
    · simp [SMap.insert, hlt, hx, List.filter_cons]
    · by_cases heq : j = k
      · subst heq
        have hv : v = e := by simpa [SMap.get?] using hget
        subst hv
        simp [SMap.insert, hx, he]
      · have hrest : SMap.get? m j = some e := by simpa [SMap.get?, Ne.symm heq] using hget
        simp only [SMap.insert, hlt, heq, if_false, List.filter_cons]
        split <;> simp [ih hrest]

/-- Using an entry that is not pinned pins none. -/
theorem State.pinned_setEntry (s : State) (j : Nat) (e x : Entry) (hget : SMap.get? s.cache j = some e) (he : e.pinned = false)
    (hx : x.pinned = false) (hst : x.st ≠ .free) : (s.setEntry j x).pinned = s.pinned := by
  unfold State.pinned
  rw [s.setEntry_cache j x hst]
  exact SMap.countP_insert _ _ j e x hget he hx

/-! ### The commands -/

theorem exec_streamLoad_ready (i : BitVec 20) (z f : Bool) (s : State) (h : s.cpReady) :
    exec (.streamLoad i z f) s = .next (s.cpOk.streamCmd (cpCmd i 1 z f)) := s.cpDo_ready _ (fun u => u.streamCmd (cpCmd i 1 z f)) h
theorem exec_streamFlush_ready (i : BitVec 20) (s : State) (h : s.cpReady) :
    exec (.streamFlush i) s = .next (s.cpOk.streamCmd (cpCmd i 2 false false)) := s.cpDo_ready _ (fun u => u.streamCmd (cpCmd i 2 false false)) h
theorem exec_streamPin_ready (i : BitVec 20) (s : State) (h : s.cpReady) :
    exec (.streamPin i) s = .next (s.cpOk.streamCmd (cpCmd i 3 false false)) := s.cpDo_ready _ (fun u => u.streamCmd (cpCmd i 3 false false)) h
theorem exec_streamUnpin_ready (i : BitVec 20) (s : State) (h : s.cpReady) :
    exec (.streamUnpin i) s = .next (s.cpOk.streamCmd (cpCmd i 4 false false)) := s.cpDo_ready _ (fun u => u.streamCmd (cpCmd i 4 false false)) h
theorem exec_streamView_ready (i : BitVec 20) (s : State) (h : s.cpReady) :
    exec (.streamView i) s = .next (s.cpOk.streamCmd (cpCmd i 5 false false)) := s.cpDo_ready _ (fun u => u.streamCmd (cpCmd i 5 false false)) h

/-- The command that stands last has begun. -/
theorem begun_last (l : List SCmd) (c : SCmd) (hcmd : ∀ x ∈ l, x.stream ≠ c.stream) :
    ((l ++ [c]).map fun x => if x = c then { x with begun := true } else x) = l ++ [{ c with begun := true }] := by
  rw [List.map_append]
  congr 1
  · refine (List.map_congr_left fun x hx => if_neg fun h => hcmd x hx (by rw [h])).trans (List.map_id l)
  · simp

/-- A command that asks for a fetch has begun, and waits for it (Table 4.2). -/
theorem State.cmdFetch_eq (s : State) (c : SCmd) (l : List SCmd) (hl : s.scmds = l ++ [c]) (hcmd : ∀ x ∈ l, x.stream ≠ c.stream) :
    s.cmdFetch c = (State.miss { s with scmds := l ++ [{ c with begun := true }] } c.stream none, .wait) := by
  have hmap := begun_last l c hcmd
  rw [← hl] at hmap
  unfold State.cmdFetch State.beginCmd State.miss
  simp only
  split
  · simp only [hmap]
  · simp only [hmap]
    rfl

/-- LOAD and PIN of a stream that is not cached. -/
theorem State.streamCmd_fetches (s : State) (i : BitVec 20) (op : Nat) (z f : Bool) (hop : op = 1 ∨ op = 3) (hcmd : s.commanded i.toNat = false)
    (hnone : s.entry? i.toNat = none) : s.streamCmd (cpCmd i op z f) =
      State.miss { s with scmds := s.scmds ++ [⟨i.toNat, op, z, f, none, true⟩] } i.toNat none := by
  have hq : s.queued (cpCmd i op z f) = { s with scmds := s.scmds ++ [cpCmd i op z f] } := by
    rw [State.queued, s.named_none (cpCmd i op z f).stream hnone]
  have happly : (s.queued (cpCmd i op z f)).applyCmd (cpCmd i op z f) = (s.queued (cpCmd i op z f)).cmdFetch (cpCmd i op z f) := by
    rw [hq]
    unfold State.applyCmd
    rw [show State.entry? { s with scmds := s.scmds ++ [cpCmd i op z f] } (cpCmd i op z f).stream = none from hnone]
    exact if_pos hop
  rw [s.streamCmd_first _ hcmd, happly, State.cmdFetch_eq _ _ s.scmds (by rw [hq]) ((s.commanded_eq_false _).1 hcmd), hq]
  rfl

/-- FLUSH, UNPIN and VIEW of a stream that is not cached. -/
theorem State.streamCmd_absent (s : State) (i : BitVec 20) (op : Nat) (hop : op ≠ 1 ∧ op ≠ 3) (hcmd : s.commanded i.toNat = false)
    (hnone : s.entry? i.toNat = none) : s.streamCmd (cpCmd i op false false) = s.shown i.toNat (if op = 5 then 5 else 0) := by
  refine s.streamCmd_gone (cpCmd i op false false) _ rfl hcmd hnone ?_
  unfold State.applyCmd
  have hq : (s.queued (cpCmd i op false false)).entry? (cpCmd i op false false).stream = none := by
    rw [State.queued, s.named_none (cpCmd i op false false).stream hnone]; exact hnone
  rw [hq]
  exact if_neg (not_or.2 hop)

end Sys2Proof.Machine

/-! PROOFS. The stream commands of cached streams (Table 4.2, Table 4.3). -/

namespace Sys2Proof.Machine

/-! ### A command looked at by the state of its entry -/

theorem State.queued_cached (s : State) (c : SCmd) (j : Nat) (e : Entry) (h : s.entry? c.stream = some (j, e)) :
    s.queued c = { s.setEntry j { e with last := s.cadence } with scmds := s.scmds ++ [c] } := by
  rw [State.queued, s.named_some _ j e h]

theorem State.entry?_queued (s : State) (c : SCmd) (j : Nat) (e : Entry) (h : s.entry? c.stream = some (j, e)) :
    (s.queued c).entry? c.stream = some (j, { e with last := s.cadence }) := by
  obtain ⟨hst, hi⟩ := s.entry?_some _ _ _ h
  rw [s.queued_cached c j e h]
  exact s.entry?_setEntry c.stream j e _ h hst hi

theorem Entry.resident_iff (e : Entry) : e.resident = true ↔ e.st ≠ .free ∧ e.st ≠ .filling ∧ e.st ≠ .writeback := by
  unfold Entry.resident
  cases e.st <;> decide

/-- A command of a stream that is being fetched waits. -/
theorem State.applyCmd_filling (t : State) (c : SCmd) (j : Nat) (e : Entry) (h : t.entry? c.stream = some (j, e)) (hst : e.st = .filling) :
    t.applyCmd c = (t, .wait) := by
  unfold State.applyCmd
  rw [h]
  exact if_pos hst

/-- A command of a stream that is being written back. -/
theorem State.applyCmd_leaving (t : State) (c : SCmd) (j : Nat) (e : Entry) (h : t.entry? c.stream = some (j, e)) (hst : e.st = .writeback)
    (hbegun : c.begun = false) :
    t.applyCmd c = if c.op = 1 ∨ c.op = 3 then t.cmdFetch c else (t, .done (if c.op = 5 then 5 else 0)) := by
  unfold State.applyCmd
  rw [h]
  refine (if_neg (by rw [hst]; decide)).trans ((if_pos hst).trans ?_)
  rw [hbegun]
  rfl

/-- A command of a resident stream (Table 4.3). -/
theorem State.applyCmd_resident (t : State) (c : SCmd) (j : Nat) (e : Entry) (h : t.entry? c.stream = some (j, e)) (hres : e.resident = true) :
    t.applyCmd c =
      if c.op = 1 then
        match t.serviceRead (.load c.stream) (t.descAddr c.stream) with
        | (s, .data w false) => let r := s.applyLoad j w c; (r.1, .done r.2)
        | (s, .data _ true) => (s, .done 4)
        | (s, .lost) => (s, .done 4)
        | (s, _) => (s, .wait)
      else if c.op = 2 then
        if e.st = .idle then ((t.writeback j).beginCmd c, .wait)
        else (t.setEntry j { e with evict := true, pinned := false }, .done 0)
      else if c.op = 3 then let r := t.applyPin j; (r.1, .done r.2)
      else if c.op = 4 then (t.setEntry j { e with pinned := false }, .done 0)
      else (t.applyView j, .done 0) := by
  obtain ⟨_, hfill, hleave⟩ := e.resident_iff.1 hres
  unfold State.applyCmd
  rw [h]
  exact (if_neg hfill).trans (if_neg hleave)

/-! ### Commands that wait -/

theorem State.streamCmd_waits (s : State) (c : SCmd) (t : State) (hcmd : s.commanded c.stream = false)
    (happly : (s.queued c).applyCmd c = (t, .wait)) : s.streamCmd c = t := by
  rw [s.streamCmd_first c hcmd, happly]

/-! ### What PIN and VIEW do -/

theorem State.applyPin_takes (t : State) (j : Nat) (e : Entry) (hget : SMap.get t.cache Entry.init j = e) (hlast : e.last = t.cadence)
    (h : e.pinned = true ∨ t.pinned < t.pinMax) : t.applyPin j = (t.setEntry j { e with pinned := true }, 0) := by
  unfold State.applyPin
  simp only [hget]
  by_cases hp : e.pinned = true
  · rw [if_pos hp, ← hlast, ← hp]
  · rw [if_neg hp, if_neg (Nat.not_le.2 (h.resolve_left hp)), ← hlast]

theorem State.applyPin_full (t : State) (j : Nat) (e : Entry) (hget : SMap.get t.cache Entry.init j = e) (he : e.pinned = false)
    (h : t.pinMax ≤ t.pinned) : t.applyPin j = (t, 2) := by
  unfold State.applyPin
  simp only [hget, he, h, if_true]
  rfl

theorem dWord_lt (d : Atom) (n : Nat) : dWord d n < 2 ^ 64 := Nat.mod_lt _ (Nat.two_pow_pos 64)

/-- The words that a VIEW shows. -/
theorem State.viewed (t : State) (d : Atom) :
    let v := t.forEach (List.range 8) fun s k => s.setReg (A.trfStreamView k) (BitVec.ofNat 64 (dWord d k))
    v = { t with regs := v.regs } ∧ (∀ n < 8, (v.reg (A.trfStreamView n)).toNat = dWord d n) ∧
      ∀ a, (∀ n < 8, a ≠ A.trfStreamView n) → v.reg a = t.reg a := by
  have hregs := fun b => State.reg_forEach_setReg A.trfStreamView (fun k => BitVec.ofNat 64 (dWord d k)) 8 b t
    fun i _ j _ h => by unfold A.trfStreamView at h; omega
  refine ⟨State.forEach_setReg_frame _ A.trfStreamView (fun k => BitVec.ofNat 64 (dWord d k)) t, fun n hn => ?_, fun a ha =>
    (hregs a).2 fun n hn => (ha n hn).symm⟩
  rw [(hregs 0).1 n hn, BitVec.toNat_ofNat, Nat.mod_eq_of_lt (dWord_lt d n)]

/-! ### The completed commands of a cached stream -/

/-- A command that changes the entry alone: the entry is `x` and its result is shown. -/
theorem State.sets_streamCmd (s : State) (i : BitVec 20) (op j r : Nat) (e x : Entry) (t : State) (hr : r < 8) (hcmd : s.commanded i.toNat = false)
    (hentry : s.entry? i.toNat = some (j, e)) (happly : (s.queued (cpCmd i op false false)).applyCmd (cpCmd i op false false) = (t, .done r))
    (ht : t = { s.setEntry j x with scmds := s.scmds ++ [cpCmd i op false false] }) (hx : x.st ≠ .free) (hi : x.stream = i.toNat)
    (hlast : x.last = s.cadence) (hstay : x.st = .idle → x.evict = false) :
    (s.setEntry j x).sets (s.streamCmd (cpCmd i op false false)) [(F.trfStreamStatus_ID, i.toNat), (F.trfStreamStatus_RESULT, r)] := by
  have hregs : t.regs = (s.setEntry j x).regs := by rw [ht]
  have hdone := s.streamCmd_done t (cpCmd i op false false) r j e x rfl hcmd hentry happly (by rw [hregs]; exact ht) hx hi hlast hstay
  have hsame : ({ s.setEntry j x with regs := t.regs } : State) = s.setEntry j x := by rw [hregs]
  rw [hdone, hsame]
  exact State.sets_shown _ i r hr

theorem State.writeback_eq (t : State) (j : Nat) (e : Entry) (hget : SMap.get t.cache Entry.init j = e) : t.writeback j =
    (t.setEntry j { e with st := .writeback, evict := false, pinned := false }).ownStart (.writeback e.stream) (serviceAccess 0) .partialWrite
      (t.descAddr e.stream) 1 [e.desc] [false] [0xFFFFFFFF00000000] := by
  rw [State.writeback, hget]
  rfl

/-- The command that waits for an access of the block's own has begun. -/
theorem State.beginCmd_ownStart (t : State) (c : SCmd) (l : List SCmd) (hl : t.scmds = l ++ [c]) (hcmd : ∀ x ∈ l, x.stream ≠ c.stream)
    {o : Own} {x : Access} {k : PKind} {a n : Nat} {d : List Atom} {p : List Bool} {b : List (BitVec 64)} :
    (t.ownStart o x k a n d p b).beginCmd c = State.ownStart { t with scmds := l ++ [{ c with begun := true }] } o x k a n d p b := by
  have hmap := begun_last l c hcmd
  rw [← hl] at hmap
  rw [← hmap]
  rfl

/-! ### Commands of a cached stream, by the state of its entry -/

section
variable (s : State) (i : BitVec 20) (j : Nat) (e : Entry) (hcmd : s.commanded i.toNat = false) (hentry : s.entry? i.toNat = some (j, e))
include hcmd hentry

theorem State.streamCmd_filling (hst : e.st = .filling) (op : Nat) (z f : Bool) : s.streamCmd (cpCmd i op z f) =
    { s.setEntry j { e with last := s.cadence } with scmds := s.scmds ++ [⟨i.toNat, op, z, f, none, false⟩] } := by
  refine s.streamCmd_waits (cpCmd i op z f) _ hcmd ?_
  rw [State.applyCmd_filling _ _ j _ (s.entry?_queued (cpCmd i op z f) j e hentry) hst, s.queued_cached (cpCmd i op z f) j e hentry]
  rfl

theorem State.streamCmd_leavingFetches (hst : e.st = .writeback) (op : Nat) (z f : Bool) (hop : op = 1 ∨ op = 3) :
    s.streamCmd (cpCmd i op z f) =
      State.miss { s.setEntry j { e with last := s.cadence } with scmds := s.scmds ++ [⟨i.toNat, op, z, f, none, true⟩] } i.toNat none := by
  refine s.streamCmd_waits (cpCmd i op z f) _ hcmd ?_
  rw [State.applyCmd_leaving _ _ j _ (s.entry?_queued (cpCmd i op z f) j e hentry) hst rfl]
  refine (if_pos hop).trans ?_
  rw [s.queued_cached (cpCmd i op z f) j e hentry, State.cmdFetch_eq _ _ s.scmds rfl ((s.commanded_eq_false _).1 hcmd)]
  rfl

theorem State.sets_streamCmd_leaving (hst : e.st = .writeback) (op : Nat) (hop : op ≠ 1 ∧ op ≠ 3) :
    (s.setEntry j { e with last := s.cadence }).sets (s.streamCmd (cpCmd i op false false))
      [(F.trfStreamStatus_ID, i.toNat), (F.trfStreamStatus_RESULT, if op = 5 then 5 else 0)] := by
  obtain ⟨hfree, hi⟩ := s.entry?_some _ _ _ hentry
  refine s.sets_streamCmd i op j _ e { e with last := s.cadence } (s.queued (cpCmd i op false false)) (by split <;> decide) hcmd hentry ?_ ?_
    hfree hi rfl (fun h => by rw [show e.st = .idle from h] at hst; cases hst)
  · rw [State.applyCmd_leaving _ _ j _ (s.entry?_queued (cpCmd i op false false) j e hentry) hst rfl]
    exact if_neg (not_or.2 hop)
  · exact s.queued_cached (cpCmd i op false false) j e hentry

/-- A LOAD of a resident stream reads the store. -/
theorem State.streamCmd_load (hres : e.resident = true) (z f : Bool) (hown : s.ownFind (.load i.toNat) = none) : s.streamCmd (cpCmd i 1 z f) =
    State.ownStart { s.setEntry j { e with last := s.cadence } with scmds := s.scmds ++ [⟨i.toNat, 1, z, f, none, false⟩] }
      (.load i.toNat) (serviceAccess 7) .read (s.descAddr i.toNat / 64 * 64) 1 [] [] [] := by
  refine s.streamCmd_waits (cpCmd i 1 z f) _ hcmd ?_
  rw [State.applyCmd_resident _ _ j _ (s.entry?_queued (cpCmd i 1 z f) j e hentry) hres, s.queued_cached (cpCmd i 1 z f) j e hentry]
  refine (if_pos rfl).trans ?_
  have hgo : State.serviceRead { s.setEntry j { e with last := s.cadence } with scmds := s.scmds ++ [cpCmd i 1 z f] } (.load i.toNat)
      (s.descAddr i.toNat) = (State.ownStart { s.setEntry j { e with last := s.cadence } with scmds := s.scmds ++ [cpCmd i 1 z f] }
        (.load i.toNat) (serviceAccess 7) .read (s.descAddr i.toNat / 64 * 64) 1 [] [] [], .blocked) := by
    unfold State.serviceRead State.ownRead State.ownGo
    rw [show State.ownFind { s.setEntry j { e with last := s.cadence } with scmds := s.scmds ++ [cpCmd i 1 z f] } (.load i.toNat) = none from hown]
  rw [show State.descAddr { s.setEntry j { e with last := s.cadence } with scmds := s.scmds ++ [cpCmd i 1 z f] } (cpCmd i 1 z f).stream =
    s.descAddr i.toNat from rfl, show (cpCmd i 1 z f).stream = i.toNat from rfl, hgo]
  rfl

/-- A FLUSH of an idle stream writes it back. -/
theorem State.streamCmd_flushIdle (hst : e.st = .idle) : s.streamCmd (cpCmd i 2 false false) =
    State.ownStart (State.setEntry { s.setEntry j { e with last := s.cadence } with scmds := s.scmds ++ [⟨i.toNat, 2, false, false, none, true⟩] } j
        { e with last := s.cadence, st := .writeback, evict := false, pinned := false })
      (.writeback i.toNat) (serviceAccess 0) .partialWrite (s.descAddr i.toNat) 1 [e.desc] [false] [0xFFFFFFFF00000000] := by
  obtain ⟨_, hi⟩ := s.entry?_some _ _ _ hentry
  have hres : e.resident = true := by rw [Entry.resident, hst]; rfl
  refine s.streamCmd_waits (cpCmd i 2 false false) _ hcmd ?_
  rw [State.applyCmd_resident _ _ j _ (s.entry?_queued (cpCmd i 2 false false) j e hentry) hres,
    s.queued_cached (cpCmd i 2 false false) j e hentry]
  refine (if_neg (show ¬ (2 : Nat) = 1 by decide)).trans ((if_pos rfl).trans ((if_pos hst).trans ?_))
  have hget : SMap.get (State.cache { s.setEntry j { e with last := s.cadence } with scmds := s.scmds ++ [cpCmd i 2 false false] }) Entry.init j =
      { e with last := s.cadence } := s.get_setEntry j _
  have hmap := begun_last s.scmds (cpCmd i 2 false false) ((s.commanded_eq_false _).1 hcmd)
  rw [State.writeback_eq _ j _ hget, State.beginCmd_ownStart _ _ s.scmds rfl ((s.commanded_eq_false _).1 hcmd), hi]
  rfl

omit hcmd in
/-- The entry of a queued command is written anew. -/
theorem State.setEntry_queued (c : SCmd) (hc : c.stream = i.toNat) (x : Entry) :
    (s.queued c).setEntry j x = { s.setEntry j x with scmds := s.scmds ++ [c] } := by
  obtain ⟨hfree, _⟩ := s.entry?_some _ _ _ hentry
  rw [s.queued_cached c j e (by rw [hc]; exact hentry)]
  have htwice : State.setEntry { s.setEntry j { e with last := s.cadence } with scmds := s.scmds ++ [c] } j x =
      { (s.setEntry j { e with last := s.cadence }).setEntry j x with scmds := s.scmds ++ [c] } := rfl
  rw [htwice, s.setEntry_setEntry j { e with last := s.cadence } x hfree]

section
variable (hres : e.resident = true)
include hres

/-- A FLUSH of a stream in use marks its entry. -/
theorem State.sets_streamCmd_flushBusy (hst : e.st ≠ .idle) :
    (s.setEntry j { e with last := s.cadence, evict := true, pinned := false }).sets (s.streamCmd (cpCmd i 2 false false))
      [(F.trfStreamStatus_ID, i.toNat), (F.trfStreamStatus_RESULT, 0)] := by
  obtain ⟨hfree, hi⟩ := s.entry?_some _ _ _ hentry
  refine s.sets_streamCmd i 2 j 0 e _ _ (by decide) hcmd hentry ?_ (s.setEntry_queued i j e hentry (cpCmd i 2 false false) rfl _)
    hfree hi rfl (fun h => absurd h hst)
  rw [State.applyCmd_resident _ _ j _ (s.entry?_queued (cpCmd i 2 false false) j e hentry) hres]
  exact (if_neg (show ¬ (2 : Nat) = 1 by decide)).trans ((if_pos rfl).trans (if_neg hst))

/-- A PIN of a stream that is pinned, or may be. -/
theorem State.sets_streamCmd_pin (hstay : e.st = .idle → e.evict = false) (hget : SMap.get? s.cache j = some e)
    (hpin : e.pinned = true ∨ s.pinned < s.pinMax) :
    (s.setEntry j { e with last := s.cadence, pinned := true }).sets (s.streamCmd (cpCmd i 3 false false))
      [(F.trfStreamStatus_ID, i.toNat), (F.trfStreamStatus_RESULT, 0)] := by
  obtain ⟨hfree, hi⟩ := s.entry?_some _ _ _ hentry
  have hused : SMap.get (s.queued (cpCmd i 3 false false)).cache Entry.init j = { e with last := s.cadence } := by
    rw [s.queued_cached (cpCmd i 3 false false) j e hentry]
    exact s.get_setEntry j _
  have hroom : ({ e with last := s.cadence } : Entry).pinned = true ∨
      (s.queued (cpCmd i 3 false false)).pinned < (s.queued (cpCmd i 3 false false)).pinMax := by
    rw [s.queued_cached (cpCmd i 3 false false) j e hentry]
    by_cases hp : e.pinned = true
    · exact .inl hp
    · right
      have hcount := s.pinned_setEntry j e { e with last := s.cadence } hget (Bool.eq_false_iff.2 hp) (Bool.eq_false_iff.2 hp) hfree
      show (s.setEntry j { e with last := s.cadence }).pinned < s.pinMax
      rw [hcount]
      exact hpin.resolve_left hp
  refine s.sets_streamCmd i 3 j 0 e _ _ (by decide) hcmd hentry ?_ (s.setEntry_queued i j e hentry (cpCmd i 3 false false) rfl _)
    hfree hi rfl hstay
  rw [State.applyCmd_resident _ _ j _ (s.entry?_queued (cpCmd i 3 false false) j e hentry) hres]
  refine (if_neg (show ¬ (3 : Nat) = 1 by decide)).trans ((if_neg (show ¬ (3 : Nat) = 2 by decide)).trans ((if_pos rfl).trans ?_))
  have hlast : ({ e with last := s.cadence } : Entry).last = (s.queued (cpCmd i 3 false false)).cadence := by
    rw [s.queued_cached (cpCmd i 3 false false) j e hentry]
    rfl
  rw [State.applyPin_takes _ j _ hused hlast hroom]

/-- A PIN with PIN_MAX entries pinned. -/
theorem State.sets_streamCmd_pinFull (hstay : e.st = .idle → e.evict = false) (hget : SMap.get? s.cache j = some e)
    (hp : e.pinned = false) (hfull : s.pinMax ≤ s.pinned) :
    (s.setEntry j { e with last := s.cadence }).sets (s.streamCmd (cpCmd i 3 false false))
      [(F.trfStreamStatus_ID, i.toNat), (F.trfStreamStatus_RESULT, 2)] := by
  obtain ⟨hfree, hi⟩ := s.entry?_some _ _ _ hentry
  have hq := s.queued_cached (cpCmd i 3 false false) j e hentry
  have hused : SMap.get (s.queued (cpCmd i 3 false false)).cache Entry.init j = { e with last := s.cadence } := by
    rw [hq]
    exact s.get_setEntry j _
  have hcount := s.pinned_setEntry j e { e with last := s.cadence } hget hp hp hfree
  have hnone : (s.queued (cpCmd i 3 false false)).pinMax ≤ (s.queued (cpCmd i 3 false false)).pinned := by
    rw [hq]
    show s.pinMax ≤ (s.setEntry j { e with last := s.cadence }).pinned
    rw [hcount]
    exact hfull
  refine s.sets_streamCmd i 3 j 2 e { e with last := s.cadence } (s.queued (cpCmd i 3 false false)) (by decide) hcmd hentry ?_ hq
    hfree hi rfl hstay
  rw [State.applyCmd_resident _ _ j _ (s.entry?_queued (cpCmd i 3 false false) j e hentry) hres]
  refine (if_neg (show ¬ (3 : Nat) = 1 by decide)).trans ((if_neg (show ¬ (3 : Nat) = 2 by decide)).trans ((if_pos rfl).trans ?_))
  rw [State.applyPin_full _ j _ hused hp hnone]

theorem State.sets_streamCmd_unpin (hstay : e.st = .idle → e.evict = false) :
    (s.setEntry j { e with last := s.cadence, pinned := false }).sets (s.streamCmd (cpCmd i 4 false false))
      [(F.trfStreamStatus_ID, i.toNat), (F.trfStreamStatus_RESULT, 0)] := by
  obtain ⟨hfree, hi⟩ := s.entry?_some _ _ _ hentry
  refine s.sets_streamCmd i 4 j 0 e _ _ (by decide) hcmd hentry ?_ (s.setEntry_queued i j e hentry (cpCmd i 4 false false) rfl _)
    hfree hi rfl hstay
  rw [State.applyCmd_resident _ _ j _ (s.entry?_queued (cpCmd i 4 false false) j e hentry) hres]
  exact (if_neg (show ¬ (4 : Nat) = 1 by decide)).trans ((if_neg (show ¬ (4 : Nat) = 2 by decide)).trans
    ((if_neg (show ¬ (4 : Nat) = 3 by decide)).trans (if_pos rfl)))

/-- A VIEW shows the words with the tokens refilled. -/
theorem State.streamCmd_view (hstay : e.st = .idle → e.evict = false) :
    let d := s.refill e.served e.desc
    let t := s.streamCmd (cpCmd i 5 false false)
    t = { s.setEntry j { e with last := s.cadence, desc := d } with regs := t.regs } ∧
      (∀ n < 8, (t.reg (A.trfStreamView n)).toNat = dWord d n) ∧ t.fget F.trfStreamStatus_ID = i.toNat ∧ t.fget F.trfStreamStatus_RESULT = 0 ∧
      ∀ a, (∀ n < 8, a ≠ A.trfStreamView n) → a ≠ A.trfStreamStatus → t.reg a = s.reg a := by
  intro d t
  obtain ⟨hfree, hi⟩ := s.entry?_some _ _ _ hentry
  have hq := s.queued_cached (cpCmd i 5 false false) j e hentry
  let x : Entry := { e with last := s.cadence, desc := d }
  let b : State := { s.setEntry j x with scmds := s.scmds ++ [cpCmd i 5 false false] }
  obtain ⟨hframe, hwords, hothers⟩ := b.viewed d
  generalize hv : (b.forEach (List.range 8) fun s k => s.setReg (A.trfStreamView k) (BitVec.ofNat 64 (dWord d k))) = v at hframe hwords hothers
  have happly : (s.queued (cpCmd i 5 false false)).applyCmd (cpCmd i 5 false false) = (v, .done 0) := by
    rw [State.applyCmd_resident _ _ j _ (s.entry?_queued (cpCmd i 5 false false) j e hentry) hres]
    refine (if_neg (show ¬ (5 : Nat) = 1 by decide)).trans ((if_neg (show ¬ (5 : Nat) = 2 by decide)).trans
      ((if_neg (show ¬ (5 : Nat) = 3 by decide)).trans ((if_neg (show ¬ (5 : Nat) = 4 by decide)).trans ?_)))
    have hused : SMap.get (s.queued (cpCmd i 5 false false)).cache Entry.init j = { e with last := s.cadence } := by
      rw [hq]
      exact s.get_setEntry j _
    have hcad : (s.queued (cpCmd i 5 false false)).cadence = s.cadence := by rw [hq]; rfl
    have hrefill : (s.queued (cpCmd i 5 false false)).refill e.served e.desc = d := by rw [hq]; rfl
    have hview : (s.queued (cpCmd i 5 false false)).applyView j = v := by
      unfold State.applyView
      rw [hused]
      have hserved : ({ e with last := s.cadence } : Entry).served = e.served := rfl
      simp only [hserved, hrefill, hcad]
      rw [s.setEntry_queued i j e hentry (cpCmd i 5 false false) rfl]
      exact hv
    rw [hview]
  have ht : t = State.shown { s.setEntry j x with regs := v.regs } i.toNat 0 :=
    s.streamCmd_done v (cpCmd i 5 false false) 0 j e x rfl hcmd hentry happly hframe hfree hi rfl hstay
  have hshown := State.sets_shown { s.setEntry j x with regs := v.regs } i 0 (by decide)
  rw [← ht] at hshown
  obtain ⟨hrest, hvals, hregs⟩ := hshown
  have hreg : ∀ a, A.trfStreamStatus ≠ a → t.reg a = v.reg a := fun a ha =>
    State.reg_of_keepsRegs { s.setEntry j x with regs := v.regs } t _ a hregs (by simpa [F.trfStreamStatus_ID, F.trfStreamStatus_RESULT] using ha)
  refine ⟨hrest, fun n hn => ?_, hvals (F.trfStreamStatus_ID, i.toNat) (by simp), hvals (F.trfStreamStatus_RESULT, 0) (by simp), fun a hview hst => ?_⟩
  · rw [hreg _ (by unfold A.trfStreamStatus A.trfStreamView; omega)]
    exact hwords n hn
  · rw [hreg a hst.symm]
    exact hothers a hview

end

end

/-- Settles O37: a command looked at by what the stream cache holds of its stream. -/
theorem streamCommands : Obligations.StreamCommands := by
  unfold Obligations.StreamCommands
  refine ⟨fun b i s hcp => ⟨_, s.cpDo_ready _ (fun u => u.shown i.toNat 6) hcp, s.cpOk.sets_shown i 6 (by decide)⟩,
    fun i s hcp hcmd hnone => ?_, ?_, ?_⟩
  · exact ⟨⟨_, exec_streamFlush_ready i s hcp, by
        rw [s.cpOk.streamCmd_absent i 2 (by decide) hcmd hnone]; exact s.cpOk.sets_shown i 0 (by decide)⟩,
      ⟨_, exec_streamUnpin_ready i s hcp, by
        rw [s.cpOk.streamCmd_absent i 4 (by decide) hcmd hnone]; exact s.cpOk.sets_shown i 0 (by decide)⟩,
      ⟨_, exec_streamView_ready i s hcp, by
        rw [s.cpOk.streamCmd_absent i 5 (by decide) hcmd hnone]; exact s.cpOk.sets_shown i 5 (by decide)⟩,
      fun z f => by rw [exec_streamLoad_ready i z f s hcp, s.cpOk.streamCmd_fetches i 1 z f (.inl rfl) hcmd hnone]; rfl,
      by rw [exec_streamPin_ready i s hcp, s.cpOk.streamCmd_fetches i 3 false false (.inr rfl) hcmd hnone]; rfl⟩
  · intro i s j e hcp hcmd hentry hget hstay used waits result
    refine ⟨fun hres => ⟨fun z f hown => ?_, fun hst => ?_, fun hst => ?_, fun hpin => ?_, fun hp hfull => ?_, ?_, ?_⟩,
      fun hst => ⟨fun z f => ?_, ?_, ?_, ?_, ?_⟩, fun hst => ⟨fun z f => ?_, ?_, ?_, ?_, ?_⟩⟩
    · rw [exec_streamLoad_ready i z f s hcp, s.cpOk.streamCmd_load i j e hcmd hentry hres z f hown]; rfl
    · rw [exec_streamFlush_ready i s hcp, s.cpOk.streamCmd_flushIdle i j e hcmd hentry hst]; rfl
    · exact ⟨_, exec_streamFlush_ready i s hcp, s.cpOk.sets_streamCmd_flushBusy i j e hcmd hentry hres hst⟩
    · exact ⟨_, exec_streamPin_ready i s hcp, s.cpOk.sets_streamCmd_pin i j e hcmd hentry hres hstay hget hpin⟩
    · exact ⟨_, exec_streamPin_ready i s hcp, s.cpOk.sets_streamCmd_pinFull i j e hcmd hentry hres hstay hget hp hfull⟩
    · exact ⟨_, exec_streamUnpin_ready i s hcp, s.cpOk.sets_streamCmd_unpin i j e hcmd hentry hres hstay⟩
    · exact ⟨_, exec_streamView_ready i s hcp, s.cpOk.streamCmd_view i j e hcmd hentry hres hstay⟩
    · rw [exec_streamLoad_ready i z f s hcp, s.cpOk.streamCmd_filling i j e hcmd hentry hst]; rfl
    · rw [exec_streamFlush_ready i s hcp, s.cpOk.streamCmd_filling i j e hcmd hentry hst]; rfl
    · rw [exec_streamPin_ready i s hcp, s.cpOk.streamCmd_filling i j e hcmd hentry hst]; rfl
    · rw [exec_streamUnpin_ready i s hcp, s.cpOk.streamCmd_filling i j e hcmd hentry hst]; rfl
    · rw [exec_streamView_ready i s hcp, s.cpOk.streamCmd_filling i j e hcmd hentry hst]; rfl
    · rw [exec_streamLoad_ready i z f s hcp, s.cpOk.streamCmd_leavingFetches i j e hcmd hentry hst 1 z f (.inl rfl)]; rfl
    · exact ⟨_, exec_streamFlush_ready i s hcp, s.cpOk.sets_streamCmd_leaving i j e hcmd hentry hst 2 (by decide)⟩
    · rw [exec_streamPin_ready i s hcp, s.cpOk.streamCmd_leavingFetches i j e hcmd hentry hst 3 false false (.inr rfl)]; rfl
    · exact ⟨_, exec_streamUnpin_ready i s hcp, s.cpOk.sets_streamCmd_leaving i j e hcmd hentry hst 4 (by decide)⟩
    · exact ⟨_, exec_streamView_ready i s hcp, s.cpOk.sets_streamCmd_leaving i j e hcmd hentry hst 5 (by decide)⟩
  · intro i s hcp hcmd waits
    have hbehind : ∀ op z f, s.cpOk.streamCmd (cpCmd i op z f) = waits op z f := fun op z f => s.cpOk.streamCmd_behind (cpCmd i op z f) hcmd
    refine ⟨fun z f => ?_, ?_, ?_, ?_, ?_⟩
    · rw [exec_streamLoad_ready i z f s hcp, hbehind]
    · rw [exec_streamFlush_ready i s hcp, hbehind]
    · rw [exec_streamPin_ready i s hcp, hbehind]
    · rw [exec_streamUnpin_ready i s hcp, hbehind]
    · rw [exec_streamView_ready i s hcp, hbehind]

end Sys2Proof.Machine

/-! PROOFS. Descriptors as words of bits; red heads that are coloured again, and samples. -/

namespace Sys2Proof.Machine

/-! ### Fields of a descriptor -/

theorem bitsOf_bitsOf (v hi lo h l : Nat) (hh : h ≤ hi - lo) (hlo : lo ≤ hi) : bitsOf (bitsOf v hi lo) h l = bitsOf v (lo + h) (lo + l) := by
  apply Nat.eq_of_testBit_eq
  intro i
  rw [bitsOf_eq_testBit, bitsOf_eq_testBit, bitsOf_eq_testBit]
  by_cases hi' : i < h + 1 - l
  · have h1 : i < lo + h + 1 - (lo + l) := by omega
    have h2 : l + i < hi + 1 - lo := by omega
    rw [decide_eq_true hi', decide_eq_true h2, decide_eq_true h1, Nat.add_assoc]
    rfl
  · have h1 : ¬ i < lo + h + 1 - (lo + l) := by omega
    rw [decide_eq_false hi', decide_eq_false h1]
    rfl

theorem dWord_eq (d : Atom) (k : Nat) : dWord d k = bitsOf d.toNat (64 * k + 63) (64 * k) := by
  unfold dWord bitsOf
  congr 2
  omega

theorem dField_eq (d : Atom) (k hi lo : Nat) (h : hi < 64) : dField d k hi lo = bitsOf d.toNat (64 * k + hi) (64 * k + lo) := by
  rw [dField, dWord_eq, bitsOf_bitsOf _ _ _ _ _ (by omega) (by omega)]

theorem toNat_dPut (d : Atom) (k hi lo v : Nat) (hk : k < 8) (h : lo ≤ hi ∧ hi < 64) :
    (dPut d k hi lo v).toNat = bitsPut d.toNat (64 * k + hi) (64 * k + lo) v := by
  rw [dPut, BitVec.toNat_ofNat]
  refine Nat.mod_eq_of_lt (Nat.lt_pow_two_of_testBit _ fun i hi' => ?_)
  rw [testBit_bitsPut _ _ _ _ _ (by omega), if_neg (by omega), if_neg (by omega)]
  exact Nat.testBit_lt_two_pow (Nat.lt_of_lt_of_le d.isLt (Nat.pow_le_pow_right (by decide) hi'))

theorem dField_dPut_same (d : Atom) (k hi lo v : Nat) (hk : k < 8) (h : lo ≤ hi ∧ hi < 64) :
    dField (dPut d k hi lo v) k hi lo = v % 2 ^ (hi + 1 - lo) := by
  rw [dField_eq _ _ _ _ h.2, toNat_dPut d k hi lo v hk h, bitsOf_bitsPut_same _ _ _ _ (by omega)]
  congr 2
  omega

theorem dField_dPut_apart (d : Atom) (k hi lo v n h l : Nat) (hk : k < 8) (hf : lo ≤ hi ∧ hi < 64) (hh : l ≤ h ∧ h < 64)
    (hapart : n ≠ k ∨ h < lo ∨ hi < l) : dField (dPut d k hi lo v) n h l = dField d n h l := by
  rw [dField_eq _ _ _ _ hh.2, dField_eq _ _ _ _ hh.2, toNat_dPut d k hi lo v hk hf, bitsOf_bitsPut_other _ _ _ _ _ _ (by omega)]
  omega

theorem dWord_dPut_other (d : Atom) (k hi lo v n : Nat) (hk : k < 8) (hf : lo ≤ hi ∧ hi < 64) (hn : n ≠ k) :
    dWord (dPut d k hi lo v) n = dWord d n := by
  rw [dWord_eq, dWord_eq, toNat_dPut d k hi lo v hk hf, bitsOf_bitsPut_other _ _ _ _ _ _ (by omega)]
  omega

theorem unsigned_mod (w : Nat) (v : Int) : unsigned w v % 2 ^ w = unsigned w v := Nat.mod_eq_of_lt (unsigned_lt w v)

/-- The buckets of a descriptor, each written alone. -/
theorem dCTok_put (d : Atom) (v : Int) : dCTok (dPut d 4 39 0 (unsigned 40 v)) = signed 40 (unsigned 40 v) := by
  rw [dCTok, dField_dPut_same _ _ _ _ _ (by decide) (by decide), unsigned_mod]
theorem dETok_put (d : Atom) (v : Int) : dETok (dPut d 5 39 0 (unsigned 40 v)) = signed 40 (unsigned 40 v) := by
  rw [dETok, dField_dPut_same _ _ _ _ _ (by decide) (by decide), unsigned_mod]
theorem dETok_putC (d : Atom) (v : Nat) : dETok (dPut d 4 39 0 v) = dETok d := by
  rw [dETok, dField_dPut_apart _ _ _ _ _ _ _ _ (by decide) (by decide) (by decide) (.inl (by decide))]; rfl
theorem dCTok_putE (d : Atom) (v : Nat) : dCTok (dPut d 5 39 0 v) = dCTok d := by
  rw [dCTok, dField_dPut_apart _ _ _ _ _ _ _ _ (by decide) (by decide) (by decide) (.inl (by decide))]; rfl

/-! ### Colours (R136) -/

theorem Req.cost_eq (r : Req) (w : Atom) (hop : r.op ≠ opProbe) : r.cost w = r.atoms * (64 + dOverhead w) := if_neg hop

theorem colourOf_green (w d : Atom) (r : Req) (hop : r.op ≠ opProbe) (hpol : dPolice w ≠ 2) (hc : (dPolice w ≠ 1 ∨ r.colour < 2) ∧ 0 < dCTok d) :
    colourOf w d r = (.green, dPut d 4 39 0 (unsigned 40 (dCTok d - (r.cost w * 1000 : Nat)))) := by
  have hcond : ((dPolice w != 1 || r.colour == 0 || r.colour == 1) && decide (0 < dCTok d)) = true := by
    have : dPolice w ≠ 1 ∨ r.colour = 0 ∨ r.colour = 1 := hc.1.imp id (by omega)
    simpa [hc.2, or_assoc] using this
  rw [colourOf, if_neg (not_or.2 ⟨hpol, hop⟩), if_pos hcond]

theorem not_greenCond (w d : Atom) (r : Req) (hc : ¬ ((dPolice w ≠ 1 ∨ r.colour < 2) ∧ 0 < dCTok d)) :
    ((dPolice w != 1 || r.colour == 0 || r.colour == 1) && decide (0 < dCTok d)) = false := by
  refine Bool.eq_false_iff.2 fun h => hc ?_
  simp only [Bool.and_eq_true, Bool.or_eq_true, bne_iff_ne, beq_iff_eq, decide_eq_true_eq] at h
  exact ⟨by omega, h.2⟩

theorem colourOf_yellow (w d : Atom) (r : Req) (hop : r.op ≠ opProbe) (hpol : dPolice w ≠ 2)
    (hc : ¬ ((dPolice w ≠ 1 ∨ r.colour < 2) ∧ 0 < dCTok d)) (he : 0 < dETok d) :
    colourOf w d r = (.yellow, dPut d 5 39 0 (unsigned 40 (dETok d - (r.cost w * 1000 : Nat)))) := by
  rw [colourOf, if_neg (not_or.2 ⟨hpol, hop⟩), not_greenCond w d r hc, if_neg Bool.false_ne_true, if_pos he]

theorem colourOf_red (w d : Atom) (r : Req) (hop : r.op ≠ opProbe) (hpol : dPolice w ≠ 2)
    (hc : ¬ ((dPolice w ≠ 1 ∨ r.colour < 2) ∧ 0 < dCTok d)) (he : ¬ 0 < dETok d) : colourOf w d r = (.red, d) := by
  rw [colourOf, if_neg (not_or.2 ⟨hpol, hop⟩), not_greenCond w d r hc, if_neg Bool.false_ne_true, if_neg he]

/-- The entry of a head that has the colour and the descriptor of `c` (R136, R138). -/
def State.headColoured (s : State) (e : Entry) (r : Req) (c : Colour × Atom) : Entry :=
  let w := e.served
  let start := tagMax (s.vt (dPgroup w) (dClass w)) e.fin
  if c.1 = .red then { e with desc := c.2, colour := .red }
  else { e with
    desc := c.2, colour := c.1, start := start, fin := (start + (if r.op = opProbe then 64 else r.cost w) * 4096 / dWeight w) % 2 ^ 64
    hcls := dClass w, hpg := dPgroup w, head := w }

theorem State.colourHead_red (s : State) (j id : Nat) (l : List Nat) (e : Entry) (r : Req) (hget : SMap.get s.cache Entry.init j = e)
    (hq : e.queue = id :: l) (hreq : s.req? id = some r) (hcol : e.colour = .red) (hsvc : r.service? = none) :
    s.colourHead j = s.setEntry j (s.headColoured e r (colourOf e.served (s.refill e.served e.desc) r)) := by
  unfold State.colourHead State.headColoured
  simp only [hget, hq, hreq, hcol, hsvc, Option.map_none, Option.isSome_none, Option.getD_none]
  simp only [reduceCtorEq, or_self, if_false, Bool.false_eq_true]
  split <;> rfl

/-! ### RED_HEAD_REEVAL and STREAM_SAMPLE -/

theorem exec_redHeadReeval (i : BitVec 20) (s : State) (j id due : Nat) (l : List Nat) (e : Entry) (r : Req)
    (hentry : s.entry? i.toNat = some (j, e)) (hcol : e.colour = .red) (hq : e.queue = id :: l) (hreq : s.req? id = some r)
    (hdue : s.redDue e r = some due) (hreach : s.reaches due) : exec (.redHeadReeval i) s = .next ((s.momentOf due).colourHead j) := by
  change execRedHeadReeval i s = _
  unfold execRedHeadReeval
  simp only [hentry, hcol, ne_eq, not_true_eq_false, if_false, hq, List.head?_cons, Option.bind_some, hreq, hdue, s.atCadence_reaches due hreach]

theorem exec_streamSample (i : BitVec 20) (s : State) (j : Nat) (e : Entry) (hentry : s.entry? i.toNat = some (j, e)) (hres : e.resident = true)
    (hk : dShift e.served ≠ 0) (hreach : s.reaches (sampleDue e s.cadence (dShift e.served))) :
    exec (.streamSample i) s = .next ((s.momentOf (sampleDue e s.cadence (dShift e.served))).takeSample j) := by
  change execStreamSample i s = _
  unfold execStreamSample
  simp only [hentry, hres, hk, Bool.not_true, s.atCadence_reaches _ hreach]
  rfl

/-- Word 7 as a sample leaves it (R146). -/
def sampledDesc (d : Atom) (depth delay : Nat) : Atom :=
  dPut (dPut (dPut d 7 15 0 (dField d 7 15 0 + 1)) 7 63 40 (min (2 ^ 24 - 1) depth)) 7 39 16 (min 0xFFFFFF delay)

theorem sampledDesc_spec (d : Atom) (depth delay : Nat) :
    (∀ n < 7, dWord (sampledDesc d depth delay) n = dWord d n) ∧ dField (sampledDesc d depth delay) 7 15 0 = (dField d 7 15 0 + 1) % 2 ^ 16 ∧
      dField (sampledDesc d depth delay) 7 63 40 = min (2 ^ 24 - 1) depth ∧ dField (sampledDesc d depth delay) 7 39 16 = min (2 ^ 24 - 1) delay := by
  unfold sampledDesc
  refine ⟨fun n hn => ?_, ?_, ?_, ?_⟩
  · rw [dWord_dPut_other _ _ _ _ _ _ (by decide) (by decide) (by omega), dWord_dPut_other _ _ _ _ _ _ (by decide) (by decide) (by omega),
      dWord_dPut_other _ _ _ _ _ _ (by decide) (by decide) (by omega)]
  · rw [dField_dPut_apart _ _ _ _ _ _ _ _ (by decide) (by decide) (by decide) (by decide),
      dField_dPut_apart _ _ _ _ _ _ _ _ (by decide) (by decide) (by decide) (by decide), dField_dPut_same _ _ _ _ _ (by decide) (by decide)]
  · rw [dField_dPut_apart _ _ _ _ _ _ _ _ (by decide) (by decide) (by decide) (by decide), dField_dPut_same _ _ _ _ _ (by decide) (by decide)]
    exact Nat.mod_eq_of_lt (by omega)
  · rw [dField_dPut_same _ _ _ _ _ (by decide) (by decide)]
    exact Nat.mod_eq_of_lt (by omega)

theorem State.takeSample_eq (s : State) (j : Nat) (e : Entry) (hget : SMap.get s.cache Entry.init j = e) : s.takeSample j =
    (s.setEntry j { e with desc := sampledDesc e.desc (s.depth e) (s.delay e), sampled := some s.cadence }).ownStart (.sample e.stream)
      (serviceAccess 0) .partialWrite (s.descAddr e.stream) 1 [sampledDesc e.desc (s.depth e) (s.delay e)] [false] [0xFF00000000000000] := by
  rw [State.takeSample, hget]
  rfl

/-- Settles O39: the colours of R136 in turn; the words of a sample; the end of its write. -/
theorem streamMoments : Obligations.StreamMoments := by
  unfold Obligations.StreamMoments
  refine ⟨?_, ?_, fun s id i r hreq hsrc => ⟨fun hdone => ?_, fun hgone => ?_⟩⟩
  · intro i s j id due l e r hentry hget hcol hq hreq hsvc hdue hreach w m d cost
    have hmget : SMap.get m.cache Entry.init j = e := by
      show (SMap.get? s.cache j).getD Entry.init = e
      rw [hget]; rfl
    have hcolour := m.colourHead_red j id l e r hmget hq hreq hcol hsvc
    refine ⟨m.headColoured e r (colourOf w d r), ?_, fun hop hpol hc hpos => ?_, fun hop hpol hc hpos => ?_, fun hop hpol hc hneg => ?_,
      fun hne => ?_, ?_⟩
    · rw [exec_redHeadReeval i s j id due l e r hentry hcol hq hreq hdue hreach]
      exact congrArg _ hcolour
    · rw [colourOf_green w d r hop hpol ⟨hc, hpos⟩, r.cost_eq w hop]
      exact ⟨rfl, by rw [Int.natCast_mul (r.atoms * (64 + dOverhead w)) 1000]; exact dCTok_put _ _, dETok_putC _ _⟩
    · rw [colourOf_yellow w d r hop hpol hc hpos, r.cost_eq w hop]
      exact ⟨rfl, dCTok_putE _ _, by rw [Int.natCast_mul (r.atoms * (64 + dOverhead w)) 1000]; exact dETok_put _ _⟩
    · rw [colourOf_red w d r hop hpol hc hneg, State.headColoured, if_pos rfl, ← hcol]
    · have hnot : (colourOf w d r).1 ≠ .red := fun h => hne (by rw [State.headColoured, if_pos h])
      rw [State.headColoured, if_neg hnot]
      refine ⟨rfl, ?_, rfl, rfl⟩
      by_cases hop : r.op = opProbe
      · rw [if_pos hop, if_pos hop]
      · rw [if_neg hop, if_neg hop, r.cost_eq w hop]
    · unfold State.headColoured
      split <;> rfl
  · intro i s j e hentry hget hres hk next due hreach m
    have hdue : sampleDue e s.cadence (dShift e.served) = due := rfl
    have hmget : SMap.get m.cache Entry.init j = e := by
      show (SMap.get? s.cache j).getD Entry.init = e
      rw [hget]; rfl
    obtain ⟨hwords, hcount, hdepth, hdelay⟩ := sampledDesc_spec e.desc (m.depth e) (m.delay e)
    refine ⟨_, hwords, hcount, hdepth, hdelay, ?_⟩
    rw [exec_streamSample i s j e hentry hres hk (by rw [hdue]; exact hreach), hdue]
    exact congrArg _ (m.takeSample_eq j e hmget)
  · unfold State.sampleWritten
    rw [hreq]
    simp only [hsrc, hdone]
  · unfold State.sampleWritten
    rw [hreq]
    rcases hgone with hlost | htimeout
    · simp only [hsrc, hlost]
    · simp only [hsrc, htimeout]

end Sys2Proof.Machine

/-! PROOFS. Choices by key, and the port groups: which head starts its next atom. -/

namespace Sys2Proof.Machine

/-! ### Choices -/

/-- The element that comes before every other one is picked. -/
theorem pickFirst_eq {α : Type} (le : α → α → Bool) (l : List α) (x : α) (hmem : x ∈ l)
    (hbest : ∀ y ∈ l, y ≠ x → le x y = true ∧ le y x = false) : pickFirst le l = some x := by
  have hpick : ∀ m : List α, (∀ y ∈ m, y ≠ x → le x y = true ∧ le y x = false) →
      (x ∈ m → pickFirst le m = some x) ∧ (∀ y, pickFirst le m = some y → y ∈ m) := by
    intro m
    induction m with
    | nil => exact fun _ => ⟨fun h => absurd h (by simp), fun y h => by cases h⟩
    | cons a m ih =>
      intro hm
      obtain ⟨hin, hout⟩ := ih fun y hy => hm y (List.mem_cons_of_mem _ hy)
      refine ⟨fun hx => ?_, fun y hy => ?_⟩
      · by_cases ha : a = x
        · subst ha
          cases hp : pickFirst le m with
          | none => simp [pickFirst, hp]
          | some y =>
            by_cases hy : y = a
            · subst hy
              simp [pickFirst, hp]
            · have hle := (hm y (List.mem_cons_of_mem _ (hout y hp)) hy).1
              simp [pickFirst, hp, hle]
        · have hxm : x ∈ m := (List.mem_cons.1 hx).resolve_left (Ne.symm ha)
          have hle := (hm a (List.mem_cons_self ..) ha).2
          simp [pickFirst, hin hxm, hle]
      · cases hp : pickFirst le m with
        | none =>
          simp only [pickFirst, hp, Option.some.injEq] at hy
          exact hy ▸ List.mem_cons_self ..
        | some z =>
          simp only [pickFirst, hp] at hy
          split at hy
          · cases hy; exact List.mem_cons_self ..
          · cases hy; exact List.mem_cons_of_mem _ (hout _ hp)
  exact (hpick l hbest).1 hmem

/-- The better of the requester found so far and the next one, as `arbitrate` compares them. -/
def arbitrateStep (n last : Nat) (b : Option (Nat × Nat)) (c : Nat × Nat) : Option (Nat × Nat) :=
  match b with
  | none => some c
  | some d => if d.2 < c.2 || (d.2 == c.2 && (c.1 + 2 * n - last - 1) % n < (d.1 + 2 * n - last - 1) % n) then some c else some d

theorem arbitrate_def (n last : Nat) (l : List (Nat × Nat)) :
    arbitrate n last l = (l.foldl (arbitrateStep n last) none).map (·.1) := rfl

/-- The requester of highest key wins (R177). -/
theorem arbitrate_eq (n last : Nat) (l : List (Nat × Nat)) (x : Nat × Nat) (hmem : x ∈ l) (hbest : ∀ y ∈ l, y ≠ x → y.2 < x.2) :
    arbitrate n last l = some x.1 := by
  suffices h : ∀ (l : List (Nat × Nat)) (b : Option (Nat × Nat)), (∀ y ∈ l, y ≠ x → y.2 < x.2) → (∀ d, b = some d → d ≠ x → d.2 < x.2) →
      (x ∈ l ∨ b = some x) → l.foldl (arbitrateStep n last) b = some x by
    rw [arbitrate_def, h l none hbest (fun d hd => by cases hd) (.inl hmem)]
    rfl
  intro l
  induction l with
  | nil => exact fun b _ _ h => h.resolve_left (by simp)
  | cons c l ih =>
    intro b hl hb hx
    rw [List.foldl_cons]
    have hrest := fun y hy => hl y (List.mem_cons_of_mem _ hy)
    have hc := hl c (List.mem_cons_self ..)
    cases b with
    | none =>
      refine ih (some c) hrest (fun d hd => by cases hd; exact hc) ?_
      rcases hx with hx | hx
      · rcases List.mem_cons.1 hx with rfl | hx
        · exact .inr rfl
        · exact .inl hx
      · cases hx
    | some d =>
      have hd := hb d rfl
      dsimp only [arbitrateStep]
      by_cases hcx : c = x
      · refine ih _ hrest (fun e he => ?_) (.inr ?_)
        · split at he
          · cases he; exact hc
          · cases he; exact hd
        · by_cases hdx : d = x
          · rw [hcx, hdx]; split <;> rfl
          · have hlt := hd hdx
            rw [hcx, if_pos (by simp [hlt])]
      · refine ih _ hrest (fun e he => ?_) ?_
        · split at he
          · cases he; exact hc
          · cases he; exact hd
        · rcases hx with hx | hx
          · exact .inl ((List.mem_cons.1 hx).resolve_left (Ne.symm hcx))
          · cases hx
            have hlt := hc hcx
            right
            rw [if_neg]
            simp only [Bool.or_eq_true, Bool.and_eq_true, decide_eq_true_eq, beq_iff_eq, not_or, not_and]
            exact ⟨by omega, by omega⟩

/-! ### A due swap taken first (R154) -/

theorem State.settleSwap_takeSwap (s : State) (g : Nat) : (s.takeSwap g).settleSwap g = s.takeSwap g :=
  State.settleSwap_notDue _ g (by simp [s.flag_pending_takeSwap g])

/-! ### PORT_GROUP_ATOM_START -/

/-- The classes of port group `g` whose offered head can start its next atom. -/
def State.startable (s : State) (g : Nat) : List (Nat × Head) :=
  (List.range 8).filterMap fun c =>
    match s.offered g c with
    | some h => if s.canStart g c h then some (c, h) else none
    | none => none

theorem State.mem_startable (s : State) (g c : Nat) (h : Head) :
    (c, h) ∈ s.startable g ↔ c < 8 ∧ s.offered g c = some h ∧ s.canStart g c h = true := by
  unfold State.startable
  rw [List.mem_filterMap]
  constructor
  · rintro ⟨c', hc', hsome⟩
    cases ho : s.offered g c' with
    | none => rw [ho] at hsome; cases hsome
    | some h' =>
      rw [ho] at hsome
      by_cases hcan : s.canStart g c' h' = true
      · simp only [hcan, if_true, Option.some.injEq, Prod.mk.injEq] at hsome
        obtain ⟨rfl, rfl⟩ := hsome
        exact ⟨List.mem_range.1 hc', ho, hcan⟩
      · simp [hcan] at hsome
  · rintro ⟨hc, ho, hcan⟩
    exact ⟨c, List.mem_range.2 hc, by simp [ho, hcan]⟩

/-- The order of classes at a port group's choice (R161). -/
def State.classFirst (s : State) (a b : Nat × Head) : Bool :=
  decide (s.classKey b.1 b.2 < s.classKey a.1 a.2 ∨ (s.classKey a.1 a.2 = s.classKey b.1 b.2 ∧ b.1 ≤ a.1))

theorem State.atomStart_eq (s : State) (g : Nat) : s.atomStart g =
    if ((s.settleSwap g).fget F.arbPgCapo_CAPO).testBit g then s.settleSwap g
    else match pickFirst ((s.settleSwap g).deferHeads g).classFirst (((s.settleSwap g).deferHeads g).startable g) with
      | none => (s.settleSwap g).deferHeads g
      | some (c, h) => ((s.settleSwap g).deferHeads g).startAtom g c h := by
  unfold State.atomStart
  generalize s.settleSwap g = t
  by_cases hcapo : (t.fget F.arbPgCapo_CAPO).testBit g = true
  · exact (if_pos hcapo).trans (if_pos hcapo).symm
  · refine (if_neg hcapo).trans (Eq.trans ?_ (if_neg hcapo).symm)
    generalize t.deferHeads g = u
    change (match pickFirst u.classFirst (u.startable g) with
      | none => u
      | some (c, h) => u.startAtom g c h) = _
    rfl

/-- An atom that ends no piece counts as started, and no more. -/
theorem State.startAtom_within (s : State) (g c : Nat) (h : Head) (hstarted : h.req.started ≠ 0) (hmore : h.req.started + 1 < h.req.atoms)
    (hpart : (h.req.started + 1) % s.reqPieceLen h.req ≠ 0) :
    s.startAtom g c h = s.putReq h.id { h.req with started := h.req.started + 1, deferred := none } := by
  have hlen : (s.putReq h.id { h.req with started := h.req.started + 1, deferred := none }).reqPieceLen
      { h.req with started := h.req.started + 1, deferred := none } = s.reqPieceLen h.req := rfl
  unfold State.startAtom
  simp only [hstarted, if_false, hlen, hpart, Nat.ne_of_lt hmore, decide_false, Bool.and_false, Bool.false_eq_true]

/-- Settles O40: the swap, the Capo, then the choice among the classes. -/
theorem portGroupStarts : Obligations.PortGroupStarts := by
  unfold Obligations.PortGroupStarts
  refine ⟨fun g s hp ht => ?_, fun g s hnot => ⟨fun hcapo => ?_, fun hcapo => ?_⟩⟩
  · change Host.Outcome.next (s.atomStart g.val) = .next ((s.takeSwap g.val).atomStart g.val)
    rw [s.atomStart_eq, State.atomStart_eq, s.settleSwap_due g.val hp ht, s.settleSwap_takeSwap]
  · change Host.Outcome.next (s.atomStart g.val) = _
    rw [s.atomStart_eq, s.settleSwap_notDue g.val hnot, if_pos hcapo]
  · intro u
    have hstart : exec (.portGroupAtomStart g) s = .next (match pickFirst u.classFirst (u.startable g.val) with
        | none => u
        | some (c, h) => u.startAtom g.val c h) := by
      change Host.Outcome.next (s.atomStart g.val) = _
      rw [s.atomStart_eq, s.settleSwap_notDue g.val hnot, if_neg (by rw [hcapo]; exact Bool.false_ne_true)]
    refine ⟨fun c h hc ho hcan hbest => ?_, fun hnone => ?_⟩
    · have hpick : pickFirst u.classFirst (u.startable g.val) = some (c, h) := by
        refine pickFirst_eq _ _ _ ((u.mem_startable g.val c h).2 ⟨hc, ho, hcan⟩) ?_
        rintro ⟨c', h'⟩ hy hne
        obtain ⟨hc', ho', hcan'⟩ := (u.mem_startable g.val c' h').1 hy
        have hcc : c' ≠ c := by
          rintro rfl
          rw [ho] at ho'
          cases ho'
          exact hne rfl
        have hkey := hbest c' h' hc' hcc ho' hcan'
        simp only [State.classFirst, decide_eq_true_eq, decide_eq_false_iff_not]
        omega
      have hexec : exec (.portGroupAtomStart g) s = .next (u.startAtom g.val c h) := by rw [hstart, hpick]
      exact ⟨hexec, fun hstarted hmore hpart => by rw [hexec, u.startAtom_within g.val c h hstarted hmore hpart]⟩
    · have hempty : u.startable g.val = [] := by
        rw [List.eq_nil_iff_forall_not_mem]
        rintro ⟨c, h⟩ hmem
        obtain ⟨hc, ho, hcan⟩ := (u.mem_startable g.val c h).1 hmem
        rw [hnone c hc h ho] at hcan
        cases hcan
      rw [hstart, hempty]
      rfl

end Sys2Proof.Machine

/-! PROOFS. The decision of an ingress output (R110, R154, R186 to R189). -/

namespace Sys2Proof.Machine

/-! ### What a swap of a gate leaves alone -/

theorem State.reg_puts_other (s : State) (l : List (Fld × Nat)) (a : Nat) (h : ∀ e ∈ l, e.1.addr ≠ a) : (s.puts l).reg a = s.reg a := by
  induction l with
  | nil => rfl
  | cons e l ih =>
    rw [State.puts_cons, State.reg_fset_other _ _ _ _ (h e (List.mem_cons_self ..)), ih fun f hf => h f (List.mem_cons_of_mem _ hf)]

theorem State.fget_of_reg {s t : State} {f : Fld} (h : t.reg f.addr = s.reg f.addr) : t.fget f = s.fget f := by
  unfold State.fget
  rw [h]

theorem State.flag_of_reg {s t : State} {f : Fld} (h : t.reg f.addr = s.reg f.addr) : t.flag f = s.flag f := by
  unfold State.flag
  rw [State.fget_of_reg h]

theorem State.reg_disarmed (s : State) (g a : Nat) : (s.disarmed g).reg a = s.reg a := rfl

theorem State.cadence_disarmed (s : State) (g : Nat) : (s.disarmed g).cadence = s.cadence := rfl

theorem State.gates_puts (s : State) (l : List (Fld × Nat)) : (s.puts l).gates = s.gates := by
  induction l with
  | nil => rfl
  | cons e l ih => exact ih

theorem State.cadence_puts (s : State) (l : List (Fld × Nat)) : (s.puts l).cadence = s.cadence := by
  induction l with
  | nil => rfl
  | cons e l ih => exact ih

theorem State.arm_puts (s : State) (l : List (Fld × Nat)) (j : Nat) : (s.puts l).arm j = s.arm j := by
  unfold State.arm
  rw [s.gates_puts l]

/-- A swap changes registers of its own gate alone. -/
theorem State.reg_takeSwap_other (s : State) (g a : Nat) (h : a / 0x40 ≠ 0x840 + g) : (s.takeSwap g).reg a = s.reg a := by
  cases hp : s.pendingList g with
  | none => rw [s.takeSwap_none g hp]
  | some l =>
    rw [s.takeSwap_some g l hp, State.swapRegs_eq, State.reg_disarmed]
    refine State.reg_puts_other s _ a fun e he => ?_
    simp only [State.swapFields, List.mem_cons, List.not_mem_nil, or_false] at he
    rcases he with rfl | rfl | rfl | rfl | rfl | rfl | rfl | rfl
    all_goals
      simp only [F.trfGateSwaps_COUNT, F.trfGateActCfg_LEN, F.trfGateActCfg_CYCLE, F.trfGateActBase_T, F.trfGateStatus_C7_GAP,
        F.trfGateStatus_PENDING, F.trfGateStatus_ACTIVE_VALID, F.trfGateStatus_ACTIVE_BANK, A.trfGateSwaps, A.trfGateActCfg,
        A.trfGateActBase, A.trfGateStatus]
      omega

theorem State.arm_takeSwap_other (s : State) (g j : Nat) (h : j ≠ g) : (s.takeSwap g).arm j = s.arm j := by
  cases hp : s.pendingList g with
  | none => rw [s.takeSwap_none g hp]
  | some l =>
    rw [s.takeSwap_some g l hp, State.arm_disarmed, if_neg h.symm, State.swapRegs_eq, State.arm_puts]

theorem State.cadence_takeSwap (s : State) (g : Nat) : (s.takeSwap g).cadence = s.cadence := by
  cases hp : s.pendingList g with
  | none => rw [s.takeSwap_none g hp]
  | some l =>
    rw [s.takeSwap_some g l hp, State.swapRegs_eq, State.cadence_disarmed, State.cadence_puts]

/-- A pending swap of gate `g` whose time has come (R154). -/
def State.swapDue (s : State) (g : Nat) : Prop := s.flag (F.trfGateStatus_PENDING g) = true ∧ (s.arm g).t ≤ s.cadence

theorem State.swapDue_takeSwap (s : State) (g j : Nat) (h : (s.takeSwap g).swapDue j) : s.swapDue j := by
  obtain ⟨hflag, ht⟩ := h
  by_cases hj : j = g
  · subst hj
    rw [s.flag_pending_takeSwap j] at hflag
    cases hflag
  · rw [State.flag_of_reg (s.reg_takeSwap_other g _ (by show (0x021008 + j * 0x40) / 0x40 ≠ _; omega))] at hflag
    rw [s.arm_takeSwap_other g j hj, s.cadence_takeSwap] at ht
    exact ⟨hflag, ht⟩

/-! ### The quota of a class -/

theorem State.reg_count_other (s : State) (f : Fld) (n a : Nat) (h : f.addr ≠ a) : (s.count f n).reg a = s.reg a :=
  s.reg_fset_other f _ a h

theorem State.quotaSettle_over (s : State) (k : Nat)
    (h : ∀ c < 8, s.quotaOver k c (s.quotaNow k) = true → c ∈ (s.quotaNow k).masked) : s.quotaSettle k = s := by
  refine if_pos (List.filter_eq_nil_iff.2 fun c hc => ?_)
  have hin := h c (List.mem_range.1 hc)
  simp only [Bool.and_eq_true, Bool.not_eq_true', List.contains_eq_mem, decide_eq_false_iff_not, not_and, Classical.not_not]
  exact hin

/-- Nothing that the settling of stack `k`'s quotas reads is in the count of its maskings. -/
theorem State.quotaOver_of_reg {s t : State} (k c : Nat) (q : Quota) (h : ∀ a, a ≠ A.arbStkQuotaMasks k → t.reg a = s.reg a) :
    t.quotaOver k c q = s.quotaOver k c q := by
  have hlim : t.fget (F.arbQuota k c) = s.fget (F.arbQuota k c) := by
    refine State.fget_of_reg (h _ ?_)
    unfold F.arbQuota A.arbStkQuotaMasks
    split <;> simp only [A.arbStkQuotaLo, A.arbStkQuotaHi] <;> omega
  have hwin : t.fget (F.arbStkCfg_QWIN k) = s.fget (F.arbStkCfg_QWIN k) :=
    State.fget_of_reg (h _ (by show 0x031000 + k * 0x100 ≠ 0x031058 + k * 0x100; omega))
  unfold State.quotaOver
  rw [hlim, hwin]

/-- The classes of stack `k` that have come over their quotas and are not masked yet. -/
def State.quotaNew (s : State) (k : Nat) : List Nat :=
  (List.range 8).filter fun c => s.quotaOver k c (s.quotaNow k) && !(s.quotaNow k).masked.contains c

/-- The window of stack `k` with the classes that have come over their quotas masked. -/
def State.quotaThen (s : State) (k : Nat) : Quota := { s.quotaNow k with masked := (s.quotaNow k).masked ++ s.quotaNew k }

theorem State.quotaSettle_new (s : State) (k : Nat) (h : s.quotaNew k ≠ []) :
    s.quotaSettle k = (s.setQuota k (s.quotaThen k)).count (F.arbStkQuotaMasks_COUNT k) (s.quotaNew k).length := if_neg h

theorem State.quotaOver_window {s : State} {k c : Nat} {q : Quota} (h : s.quotaOver k c q = true) : s.fget (F.arbStkCfg_QWIN k) ≠ 0 := by
  simp only [State.quotaOver, Bool.and_eq_true, bne_iff_ne] at h
  exact h.1.1

theorem State.quotaNow_window (s : State) (k : Nat) (h : s.fget (F.arbStkCfg_QWIN k) ≠ 0) :
    (s.quotaNow k).window = s.cadence / s.fget (F.arbStkCfg_QWIN k) := by
  refine (congrArg Quota.window (if_neg h)).trans ?_
  by_cases hw : (SMap.get s.quota Quota.init k).window = s.cadence / s.fget (F.arbStkCfg_QWIN k)
  · rw [if_pos hw, hw]
  · rw [if_neg hw]

/-- A window that is set is the one in which a decision lies. -/
theorem State.quotaNow_same (s : State) (k : Nat) (q : Quota) (hwin : s.fget (F.arbStkCfg_QWIN k) ≠ 0)
    (hq : SMap.get s.quota Quota.init k = q) (h : q.window = s.cadence / s.fget (F.arbStkCfg_QWIN k)) : s.quotaNow k = q := by
  subst hq
  exact (if_neg hwin).trans (if_pos h)

/-- A class over its quota is masked once it has been settled. -/
theorem State.quotaOver_then (s : State) (k c : Nat) (hc : c < 8) (h : s.quotaOver k c (s.quotaThen k) = true) :
    c ∈ (s.quotaThen k).masked := by
  by_cases hmem : c ∈ (s.quotaNow k).masked
  · exact List.mem_append_left _ hmem
  by_cases hnew : c ∈ s.quotaNew k
  · exact List.mem_append_right _ hnew
  · have hover : s.quotaOver k c (s.quotaNow k) = true := by
      simp only [State.quotaOver, State.quotaThen, Bool.and_eq_true, Bool.or_eq_true, List.contains_eq_mem, decide_eq_true_eq,
        List.mem_append, hmem, hnew, or_self, false_or] at h ⊢
      exact h.imp_right of_decide_eq_true
    exact absurd (List.mem_filter.2 ⟨List.mem_range.2 hc, by simp [hover, hmem]⟩) hnew

/-- A class masked is masked for the rest of its window: settling twice masks no more. -/
theorem State.quotaSettle_again (s : State) (k : Nat) : (s.quotaSettle k).quotaSettle k = s.quotaSettle k := by
  by_cases hnew : s.quotaNew k = []
  · have hsame : s.quotaSettle k = s := if_pos hnew
    rw [hsame, hsame]
  · rw [s.quotaSettle_new k hnew]
    refine State.quotaSettle_over _ k fun c hc hover => ?_
    have hreg : ∀ a, a ≠ A.arbStkQuotaMasks k → ((s.setQuota k (s.quotaThen k)).count (F.arbStkQuotaMasks_COUNT k)
        (s.quotaNew k).length).reg a = s.reg a := fun a ha => State.reg_count_other _ (F.arbStkQuotaMasks_COUNT k) _ a ha.symm
    have hquota : SMap.get ((s.setQuota k (s.quotaThen k)).count (F.arbStkQuotaMasks_COUNT k) (s.quotaNew k).length).quota Quota.init k =
        s.quotaThen k := SMap.get_put_same _ _ _ _
    have hcad : ((s.setQuota k (s.quotaThen k)).count (F.arbStkQuotaMasks_COUNT k) (s.quotaNew k).length).cadence = s.cadence := rfl
    generalize (s.setQuota k (s.quotaThen k)).count (F.arbStkQuotaMasks_COUNT k) (s.quotaNew k).length = t at hover hreg hquota hcad ⊢
    have hwin : t.fget (F.arbStkCfg_QWIN k) = s.fget (F.arbStkCfg_QWIN k) :=
      State.fget_of_reg (hreg _ (by show 0x031000 + k * 0x100 ≠ 0x031058 + k * 0x100; omega))
    have hne := State.quotaOver_window hover
    have hnow : t.quotaNow k = s.quotaThen k :=
      t.quotaNow_same k _ hne hquota (by rw [hcad, hwin]; exact s.quotaNow_window k (hwin ▸ hne))
    rw [hnow] at hover ⊢
    exact s.quotaOver_then k c hc ((State.quotaOver_of_reg k c _ hreg).symm.trans hover)

/-! ### The pieces that the lanes offer -/

theorem State.lane_laneFirst (s : State) (k p l : Nat) (f : POrigin → Bool) (q : Piece) (h : s.laneFirst k p l f = some q) : q.lane = l := by
  have hq := List.find?_some h
  simp only [Bool.and_eq_true, beq_iff_eq] at hq
  exact hq.1.1.1

theorem State.lane_laneHead (s : State) (k p l : Nat) (q : Piece) (h : s.laneHead k p l = some q) : q.lane = l := by
  unfold State.laneHead at h
  split at h
  next hl =>
    obtain ⟨j, -, hj⟩ := Option.bind_eq_some_iff.1 h
    rw [hl]
    exact s.lane_laneFirst k p 17 _ q hj
  next => exact s.lane_laneFirst k p l _ q (Option.eq_some_of_filter_eq_some h)

/-- A lane offers one piece. -/
theorem State.laneHeads_inj (s : State) (k p : Nat) (o q : Piece) (ho : o ∈ s.laneHeads k p) (hq : q ∈ s.laneHeads k p)
    (h : o.lane = q.lane) : o = q := by
  obtain ⟨i, -, hi⟩ := List.mem_filterMap.1 ho
  obtain ⟨j, -, hj⟩ := List.mem_filterMap.1 hq
  rw [s.lane_laneHead k p i o hi, s.lane_laneHead k p j q hj] at h
  subst h
  exact Option.some.inj (hi.symm.trans hj)

/-- Pieces that age change no output. -/
theorem State.out_age (s : State) (l : List Piece) (k p : Nat) :
    (s.forEach l fun s o => s.modLane o.id fun x => { x with aging := x.aging + 1 }).out k p = s.out k p := by
  unfold State.forEach
  induction l generalizing s with
  | nil => rfl
  | cons a l ih => exact (ih _).trans rfl

/-! ### The decision -/

/-- The pieces that output `p` of stack `k` can admit. -/
def State.admitted (s : State) (k p : Nat) : List Piece := (s.laneHeads k p).filter fun q => s.admits k p q

theorem State.mem_admitted (s : State) (k p : Nat) (q : Piece) :
    q ∈ s.admitted k p ↔ q ∈ s.laneHeads k p ∧ s.admits k p q = true := List.mem_filter

theorem State.out_dropLane (s : State) (id k p : Nat) : (s.dropLane id).out k p = s.out k p := rfl

theorem State.forEach_nil {α : Type} (s : State) (f : State → α → State) : s.forEach [] f = s := rfl

/-- The state in which piece `q` has won output `p` and left its lane, the others admitted having aged (R187). -/
def State.ingressWin (s : State) (k p : Nat) (q : Piece) : State :=
  ((s.forEach ((s.admitted k p).filter fun o => o.id != q.id) fun s o => s.modLane o.id fun x => { x with aging := x.aging + 1 }).dropLane
    q.id).setOut k p { s.out k p with rot := q.lane, nmuRot := match q.org with | .nmu n => n % 4 | _ => (s.out k p).nmuRot }

/-- No piece that could be admitted is kept back by the thermal window. -/
theorem State.thermHeld_cold (s : State) (k p : Nat) (h : ∀ o ∈ s.laneHeads k p, s.thermMasked k p o = false) :
    ((s.laneHeads k p).filter fun q => s.admitsCold k p q && s.thermMasked k p q && !q.hold) = [] :=
  List.filter_eq_nil_iff.2 fun o ho => by simp [h o ho]

theorem State.ingressDecide_won (s : State) (k p : Nat) (q : Piece) (h : ∀ o ∈ s.laneHeads k p, s.thermMasked k p o = false)
    (hwin : arbitrate 20 (s.out k p).rot ((s.admitted k p).map fun o => (o.lane, s.lanePriority o)) = some q.lane)
    (hfind : (s.admitted k p).find? (fun o => o.lane == q.lane) = some q) :
    s.ingressDecide k p = (s.ingressWin k p q).place k p { q with aging := 0 } := by
  have hout := s.out_age ((s.admitted k p).filter fun o => o.id != q.id) k p
  unfold State.admitted at hwin hfind hout
  unfold State.ingressDecide State.ingressWin State.admitted
  simp only [s.thermHeld_cold k p h, State.forEach_nil, hwin, hfind, hout, State.modOut, State.out_dropLane] <;> rfl


theorem State.ingressDecide_idle (s : State) (k p : Nat) (h : ∀ o ∈ s.laneHeads k p, s.admits k p o = false) (hcold :
    ∀ o ∈ s.laneHeads k p, s.thermMasked k p o = false) : s.ingressDecide k p = s := by
  have hnone : (s.laneHeads k p).filter (fun q => s.admits k p q) = [] := List.filter_eq_nil_iff.2 fun o ho => by simp [h o ho]
  unfold State.ingressDecide
  simp only [s.thermHeld_cold k p hcold, State.forEach_nil, hnone]
  rfl

/-- The admitted piece of highest priority wins its output. -/
theorem State.ingress_won (s : State) (k p : Nat) (q : Piece) (hq : q ∈ s.laneHeads k p) (had : s.admits k p q = true)
    (hbest : ∀ o ∈ s.laneHeads k p, s.admits k p o = true → o ≠ q → s.lanePriority o < s.lanePriority q) :
    arbitrate 20 (s.out k p).rot ((s.admitted k p).map fun o => (o.lane, s.lanePriority o)) = some q.lane ∧
      (s.admitted k p).find? (fun o => o.lane == q.lane) = some q := by
  have hmem : q ∈ s.admitted k p := (s.mem_admitted k p q).2 ⟨hq, had⟩
  refine ⟨arbitrate_eq 20 _ _ (q.lane, s.lanePriority q) (List.mem_map.2 ⟨q, hmem, rfl⟩) fun y hy hne => ?_, ?_⟩
  · obtain ⟨o, ho, rfl⟩ := List.mem_map.1 hy
    obtain ⟨hoin, hoad⟩ := (s.mem_admitted k p o).1 ho
    exact hbest o hoin hoad fun h => hne (by rw [h])
  · cases hf : (s.admitted k p).find? fun o => o.lane == q.lane with
    | none => exact absurd (List.find?_eq_none.1 hf q hmem) (by simp)
    | some o =>
      obtain ⟨hoin, -⟩ := (s.mem_admitted k p o).1 (List.mem_of_find?_eq_some hf)
      exact congrArg some (s.laneHeads_inj k p o q hoin hq (by simpa using List.find?_some hf))

/-! ### A piece that has won its output (R110) -/

/-- The state after the class of a granted piece has been counted against its quota (R189). -/
theorem State.place_granted (s : State) (k p : Nat) (q : Piece) (hkind : q.kind = .read ∨ q.kind = .write)
    (h : (s.quotaCount k (s.laneClass q) q.n).access k q.addr (s.group q.mid) q.checks = none) :
    s.place k p q = (s.quotaCount k (s.laneClass q) q.n).enter k p { q with cls := s.laneClass q } := by
  unfold State.place
  rcases hkind with hk | hk <;> simp [hk, h]

theorem State.place_denied (s : State) (k p : Nat) (q : Piece) (d : Denial) (hkind : q.kind = .read ∨ q.kind = .write)
    (h : (s.quotaCount k (s.laneClass q) q.n).access k q.addr (s.group q.mid) q.checks = some d) :
    s.place k p q = ((s.quotaCount k (s.laneClass q) q.n).deny k q.addr q.mid q.org d).setAtoms q.req q.first q.n (.of .denied) := by
  unfold State.place
  rcases hkind with hk | hk <;> simp [hk, h]

/-! ### INGRESS_GRANT -/

theorem exec_ingressGrant (k : Fin 8) (p : Fin 64) (s : State) : exec (.ingressGrant k p) s =
    .next ((((s.settleSwap (s.fget F.trfNmuBind_PGROUP)).settleSwap (s.fget F.trfBowBind_PGROUP)).quotaSettle k.val).ingressDecide
      k.val p.val) := rfl

/-- A swap changes no binding of a gate. -/
theorem State.fget_bind_takeSwap (s : State) (g : Nat) :
    (s.takeSwap g).fget F.trfNmuBind_PGROUP = s.fget F.trfNmuBind_PGROUP ∧
      (s.takeSwap g).fget F.trfBowBind_PGROUP = s.fget F.trfBowBind_PGROUP := by
  have hother : ∀ a, a / 0x40 < 0x840 → (s.takeSwap g).reg a = s.reg a := fun a ha => s.reg_takeSwap_other g a (by omega)
  exact ⟨State.fget_of_reg (hother _ (by decide)), State.fget_of_reg (hother _ (by decide))⟩

/-- The settling of quotas changes nothing of the gates. -/
theorem State.gates_quotaSettle (s : State) (k : Nat) : (s.quotaSettle k).fget F.trfNmuBind_PGROUP = s.fget F.trfNmuBind_PGROUP ∧
    (s.quotaSettle k).fget F.trfBowBind_PGROUP = s.fget F.trfBowBind_PGROUP ∧
      ∀ g < 16, (s.quotaSettle k).swapDue g → s.swapDue g := by
  by_cases hnew : s.quotaNew k = []
  · have hsame : s.quotaSettle k = s := if_pos hnew
    rw [hsame]
    exact ⟨rfl, rfl, fun _ _ h => h⟩
  · rw [s.quotaSettle_new k hnew]
    have hreg : ∀ a, a < 0x031000 → ((s.setQuota k (s.quotaThen k)).count (F.arbStkQuotaMasks_COUNT k) (s.quotaNew k).length).reg a =
        s.reg a := fun a ha => State.reg_count_other _ (F.arbStkQuotaMasks_COUNT k) _ a (by
          show 0x031058 + k * 0x100 ≠ a; omega)
    refine ⟨State.fget_of_reg (hreg _ (by decide)), State.fget_of_reg (hreg _ (by decide)), fun g hg hdue => ⟨?_, hdue.2⟩⟩
    rw [← hdue.1]
    exact (State.flag_of_reg (hreg _ (by show 0x021008 + g * 0x40 < _; omega))).symm

/-- Settles O41: the swaps, the quotas, then the choice. -/
theorem ingressGranted : Obligations.IngressGranted := by
  unfold Obligations.IngressGranted
  intro k p s due nmu bow
  have hdue : ∀ g, due g ↔ s.swapDue g := fun g => Iff.rfl
  refine ⟨fun h => ?_, fun hn hb => ?_, fun hn hb => ⟨?_, fun hquota hcold => ⟨fun q hq had hbest => ?_, fun hnone => ?_⟩⟩⟩
  · obtain ⟨hnmu, hbow⟩ := s.fget_bind_takeSwap nmu
    rw [exec_ingressGrant, exec_ingressGrant, hnmu, hbow, s.settleSwap_due nmu h.1 h.2, State.settleSwap_takeSwap]
  · obtain ⟨hnmu, hbow⟩ := s.fget_bind_takeSwap bow
    rw [exec_ingressGrant, exec_ingressGrant, hnmu, hbow, s.settleSwap_notDue nmu hn, s.settleSwap_due bow hb.1 hb.2,
      State.settleSwap_notDue _ nmu fun h => hn (s.swapDue_takeSwap bow nmu h), State.settleSwap_takeSwap]
  · obtain ⟨hnmu, hbow, hswap⟩ := s.gates_quotaSettle k.val
    rw [exec_ingressGrant, exec_ingressGrant, hnmu, hbow, s.settleSwap_notDue nmu hn, s.settleSwap_notDue bow hb,
      State.settleSwap_notDue _ nmu fun h => hn (hswap nmu (bitsOf_lt ..) h),
      State.settleSwap_notDue _ bow fun h => hb (hswap bow (bitsOf_lt ..) h), State.quotaSettle_again]
  · have hexec : exec (.ingressGrant k p) s = .next ((s.ingressWin k.val p.val q).place k.val p.val { q with aging := 0 }) := by
      obtain ⟨hwin, hfind⟩ := s.ingress_won k.val p.val q hq had hbest
      rw [exec_ingressGrant, s.settleSwap_notDue nmu hn, s.settleSwap_notDue bow hb, s.quotaSettle_over k.val hquota,
        s.ingressDecide_won k.val p.val q hcold hwin hfind]
    intro others turn u q' v
    have hu : s.ingressWin k.val p.val q = u := by
      have hothers : ((s.admitted k.val p.val).filter fun o => o.id != q.id) = others :=
        List.filter_filter.trans (List.filter_congr fun o _ => Bool.and_comm _ _)
      unfold State.ingressWin
      rw [hothers] <;> rfl
    rw [hu] at hexec
    refine ⟨hexec, fun hkind hacc => ?_, fun d hkind hacc => ?_⟩
    · rw [hexec, u.place_granted k.val p.val { q with aging := 0 } hkind hacc]
    · rw [hexec, u.place_denied k.val p.val { q with aging := 0 } d hkind hacc]
      rfl
  · rw [exec_ingressGrant, s.settleSwap_notDue nmu hn, s.settleSwap_notDue bow hb, s.quotaSettle_over k.val hquota,
      s.ingressDecide_idle k.val p.val hnone hcold]

end Sys2Proof.Machine

/-! PROOFS. Lost answers, quota windows, sort groups and hold time-outs (R104, R189, R219, R220, R404). -/

namespace Sys2Proof.Machine

/-! ### RETIRED_LOSS_ANSWER -/

theorem exec_retiredLossAnswer_some (k : Fin 8) (s : State) (q : Piece) (h : s.lostPiece k.val = some q) :
    exec (.retiredLossAnswer k) s = .next (if q.kind = .probe then (s.dropLane q.id).place k.val 0 q
      else (s.dropLane q.id).setAtoms q.req q.first q.n (.of .lost)) := by
  change execRetiredLossAnswer k s = _
  unfold execRetiredLossAnswer
  simp only [h]

theorem State.lostPiece_spec (s : State) (k : Nat) (q : Piece) (h : s.lostPiece k = some q) : q.stack = k ∧ s.pieceRoute q = .lost := by
  have hq := List.find?_some h
  simpa using hq

theorem exec_retiredLossAnswer_none (k : Fin 8) (s : State) (h : ∀ q ∈ s.lanes, q.stack = k.val → s.pieceRoute q ≠ .lost) :
    exec (.retiredLossAnswer k) s = .next s := by
  have hnone : s.lostPiece k.val = none := List.find?_eq_none.2 fun q hq => by simpa using h q hq
  change execRetiredLossAnswer k s = _
  unfold execRetiredLossAnswer
  simp only [hnone]

/-! ### QUOTA_WINDOW_START -/

/-- The quota window that begins at a cadence value outside the last one has nothing granted. -/
theorem State.quotaNow_fresh (s : State) (k : Nat) (hw : s.fget (F.arbStkCfg_QWIN k) ≠ 0)
    (h : (SMap.get s.quota Quota.init k).window ≠ s.cadence / s.fget (F.arbStkCfg_QWIN k)) :
    s.quotaNow k = ⟨s.cadence / s.fget (F.arbStkCfg_QWIN k), [0, 0, 0, 0, 0, 0, 0, 0], []⟩ := (if_neg hw).trans (if_neg h)

theorem exec_quotaWindowStart_off (k : Fin 8) (s : State) (hw : s.fget (F.arbStkCfg_QWIN k.val) = 0) :
    exec (.quotaWindowStart k) s = .next s := if_pos hw

theorem exec_quotaWindowStart_now (k : Fin 8) (s : State) (hw : s.fget (F.arbStkCfg_QWIN k.val) ≠ 0)
    (h : (SMap.get s.quota Quota.init k.val).window ≠ s.cadence / s.fget (F.arbStkCfg_QWIN k.val)) :
    exec (.quotaWindowStart k) s = .next (s.setQuota k.val (s.quotaNow k.val)) := (if_neg hw).trans (if_pos h)

theorem exec_quotaWindowStart_next (k : Fin 8) (s : State) (hw : s.fget (F.arbStkCfg_QWIN k.val) ≠ 0)
    (h : (SMap.get s.quota Quota.init k.val).window = s.cadence / s.fget (F.arbStkCfg_QWIN k.val))
    (hreach : s.reaches ((s.cadence / s.fget (F.arbStkCfg_QWIN k.val) + 1) * s.fget (F.arbStkCfg_QWIN k.val))) :
    exec (.quotaWindowStart k) s = .next ((s.momentOf ((s.cadence / s.fget (F.arbStkCfg_QWIN k.val) + 1) *
      s.fget (F.arbStkCfg_QWIN k.val))).setQuota k.val ((s.momentOf ((s.cadence / s.fget (F.arbStkCfg_QWIN k.val) + 1) *
        s.fget (F.arbStkCfg_QWIN k.val))).quotaNow k.val)) := by
  change execQuotaWindowStart k s = _
  unfold execQuotaWindowStart
  simp only [hw, if_false, h, ne_eq, not_true_eq_false, s.atCadence_reaches _ hreach]

theorem State.quotaNow_next (s : State) (k : Nat) (hw : s.fget (F.arbStkCfg_QWIN k) ≠ 0)
    (h : (SMap.get s.quota Quota.init k).window = s.cadence / s.fget (F.arbStkCfg_QWIN k)) :
    (s.momentOf ((s.cadence / s.fget (F.arbStkCfg_QWIN k) + 1) * s.fget (F.arbStkCfg_QWIN k))).quotaNow k =
      ⟨s.cadence / s.fget (F.arbStkCfg_QWIN k) + 1, [0, 0, 0, 0, 0, 0, 0, 0], []⟩ := by
  have hfget : ∀ due, (s.momentOf due).fget (F.arbStkCfg_QWIN k) = s.fget (F.arbStkCfg_QWIN k) := fun _ => rfl
  have hquota : ∀ due, (s.momentOf due).quota = s.quota := fun _ => rfl
  have hcad : ∀ due, (s.momentOf due).cadence = max s.cadence due := fun _ => rfl
  have hlt := Nat.lt_mul_of_div_lt (Nat.lt_succ_self (s.cadence / s.fget (F.arbStkCfg_QWIN k))) (Nat.pos_of_ne_zero hw)
  have hthen : (s.momentOf ((s.cadence / s.fget (F.arbStkCfg_QWIN k) + 1) * s.fget (F.arbStkCfg_QWIN k))).cadence /
      s.fget (F.arbStkCfg_QWIN k) = s.cadence / s.fget (F.arbStkCfg_QWIN k) + 1 := by
    rw [hcad, Nat.max_eq_right (Nat.le_of_lt hlt), Nat.mul_div_cancel _ (Nat.pos_of_ne_zero hw)]
  rw [State.quotaNow_fresh _ k (by rw [hfget]; exact hw) (by rw [hquota, hfget, hthen, h]; exact Nat.ne_of_lt (Nat.lt_succ_self _)), hfget, hthen]

/-! ### SORT_GROUP_RELEASE -/

/-- The groups released are counted. -/
theorem State.releaseGroup_spec (s : State) (k : Nat) (q : Piece) :
    (State.fillSort { s with
      sorting := s.sorting.filter fun o => !(o.stack == k && q.sameGroup o)
      lanes := (((s.sortOf k).filter q.sameGroup).map fun o => { o with sortable := false }).foldl insertLane s.lanes } k).sets
        (s.releaseGroup k q) [(F.trfSortStat_GROUPS k, s.wrapped (F.trfSortStat_GROUPS k) 1)] :=
  State.sets_fset _ _ [] (F.trfSortStat_GROUPS k) _ _ (Fld.ok_mk (by decide)) rfl (by simp) (State.sets_nil _)

/-- Settles O42: each command by its cases. -/
theorem ingressMoments : Obligations.IngressMoments := by
  unfold Obligations.IngressMoments
  refine ⟨fun k s => ⟨fun q hq => ?_, exec_retiredLossAnswer_none k s⟩, fun k s => ?_, fun k s q => ?_, fun k p s q hq => ?_⟩
  · obtain ⟨hstack, hroute⟩ := s.lostPiece_spec k.val q hq
    rw [exec_retiredLossAnswer_some k s q hq]
    exact ⟨hstack, hroute, fun hne => by rw [if_neg hne]; rfl, fun he => by rw [if_pos he]⟩
  · intro w
    refine ⟨exec_quotaWindowStart_off k s, fun hw hne => ?_, fun hw hsame hreach => ?_⟩
    · rw [exec_quotaWindowStart_now k s hw hne, s.quotaNow_fresh k.val hw hne]
    · rw [exec_quotaWindowStart_next k s hw hsame hreach]
      exact congrArg (fun q => Host.Outcome.next (State.setQuota _ _ q)) (s.quotaNow_next k.val hw hsame)
  · intro released
    refine ⟨fun hdue => ⟨_, ?_, s.releaseGroup_spec k.val q⟩, fun hnone hnext hreach => ⟨_, ?_,
      (s.momentOf (q.since + s.fget F.trfSortCfg_SORT_WAIT)).releaseGroup_spec k.val q⟩⟩
    · change execSortGroupRelease k s = _
      unfold execSortGroupRelease
      simp only [hdue]
    · change execSortGroupRelease k s = _
      unfold execSortGroupRelease
      simp only [hnone, hnext, s.atCadence_reaches _ hreach]
  · intro due hreach
    refine ⟨(s.momentOf due).countSat (F.thmStk_HOLD_TIMEOUTS k.val) 1,
      State.sets_countSat _ _ [] _ (Fld.ok_mk (by decide)) (by simp) (State.sets_nil _), ?_⟩
    change execHoldTimeout k p s = _
    unfold execHoldTimeout
    simp only [hq]
    rw [show q.holdAt + s.holdTo = due from rfl, s.atCadence_reaches due hreach]
    rfl

end Sys2Proof.Machine

/-! PROOFS. Bank, row and column grants, and preemption (R177, R181 to R185, R206, R211). -/

namespace Sys2Proof.Machine

/-! ### Keys -/

theorem pccKey_le (c u : Nat) : pccKey c u ≤ 7 := by
  unfold pccKey
  split
  · exact Nat.le_refl 7
  · split <;> omega

theorem foldl_max_le {α : Type} (f : α → Nat) (l : List α) (m x : Nat) (hm : m ≤ x) (h : ∀ a, f a ≤ x) :
    l.foldl (fun m a => max m (f a)) m ≤ x := by
  induction l generalizing m with
  | nil => exact hm
  | cons a l ih => exact ih _ (Nat.max_le.2 ⟨hm, h a⟩)

/-- A piece's key is below the key of a bank at its refresh limit. -/
theorem State.keyOf_le (s : State) (q : Piece) : s.keyOf q ≤ 7 := by
  unfold State.keyOf State.zWaitKey
  split
  · exact foldl_max_le _ _ 0 7 (Nat.zero_le 7) fun _ => pccKey_le _ _
  · exact pccKey_le _ _

/-- The largest of a list of numbers is the one no other exceeds. -/
theorem foldl_max_eq (l : List Nat) (m x : Nat) (hm : m ≤ x) (hmem : x ∈ l ∨ m = x) (hle : ∀ y ∈ l, y ≤ x) : l.foldl max m = x := by
  induction l generalizing m with
  | nil => exact hmem.resolve_left (by simp)
  | cons a l ih =>
    obtain ⟨ha, hl⟩ := List.forall_mem_cons.1 hle
    refine ih (max m a) (Nat.max_le.2 ⟨hm, ha⟩) ?_ hl
    rcases hmem with hmem | hmem
    · rcases List.mem_cons.1 hmem with rfl | hmem
      · exact .inr (Nat.max_eq_right hm)
      · exact .inl hmem
    · exact .inr (by omega)

/-! ### BANK_GRANT -/

/-- The pieces that can own bank `b`. -/
def Pcc.contenders (c : Pcc) (b : Nat) : List Piece := c.buf.filter fun q => q.bankEligible b

/-- What the bank-engine decision chooses from (R206): a miss is masked while hits run on. -/
def State.bankCands (s : State) (k p b : Nat) : List Piece :=
  let c := s.pcc k p
  let x := c.bank b
  let el := c.contenders b
  let top := (el.map s.keyOf).foldl max 0
  let missWaits := x.row.isSome && el.any fun q => !(x.row == some q.row) && s.keyOf q == top
  let count := if missWaits && x.missKey == some top then x.hits else 0
  el.filter fun q => x.row == some q.row ||
    !(x.row.isSome && (el.any fun q => x.row == some q.row && s.keyOf q == top) && count < s.fget (F.pccRqCfg_HIT_RUN k p))

theorem State.bankChoice_eq (s : State) (k p b : Nat) : s.bankChoice k p b =
    ((arbitrate 192 ((s.pcc k p).bank b).rot ((s.bankCands k p b).map fun q => (q.slot, s.keyOf q))).bind fun i =>
        (s.bankCands k p b).find? fun q => q.slot == i && s.keyOf q == ((s.bankCands k p b).map s.keyOf).foldl max 0,
      ((s.pcc k p).bank b).row.isSome && ((s.pcc k p).contenders b).any fun q => !(((s.pcc k p).bank b).row == some q.row) &&
        s.keyOf q == (((s.pcc k p).contenders b).map s.keyOf).foldl max 0,
      (((s.pcc k p).contenders b).map s.keyOf).foldl max 0) := rfl

/-- Bank `b` has one piece of highest key, which finds no row of another piece open. -/
structure State.WinsBank (s : State) (k p b : Nat) (q : Piece) : Prop where
  mem : q ∈ (s.pcc k p).contenders b
  best : ∀ o ∈ (s.pcc k p).contenders b, o ≠ q → s.keyOf o < s.keyOf q
  fits : ((s.pcc k p).bank b).row = none ∨ ((s.pcc k p).bank b).row = some q.row

section
variable {s : State} {k p b : Nat} {q : Piece} (h : s.WinsBank k p b q)
include h

theorem State.WinsBank.top : (((s.pcc k p).contenders b).map s.keyOf).foldl max 0 = s.keyOf q := by
  refine foldl_max_eq _ 0 _ (Nat.zero_le _) (.inl (List.mem_map.2 ⟨q, h.mem, rfl⟩)) fun y hy => ?_
  obtain ⟨o, ho, rfl⟩ := List.mem_map.1 hy
  by_cases hoq : o = q
  · exact Nat.le_of_eq (by rw [hoq])
  · exact Nat.le_of_lt (h.best o ho hoq)

theorem State.WinsBank.noMiss : (((s.pcc k p).bank b).row.isSome && ((s.pcc k p).contenders b).any fun o =>
    !(((s.pcc k p).bank b).row == some o.row) && s.keyOf o == (((s.pcc k p).contenders b).map s.keyOf).foldl max 0) = false := by
  rw [h.top]
  rcases h.fits with hrow | hrow
  · simp [hrow]
  · rw [hrow, Bool.and_eq_false_iff]
    refine .inr (List.any_eq_false.2 fun o ho hmiss => ?_)
    simp only [Bool.and_eq_true, Bool.not_eq_true', beq_eq_false_iff_ne, beq_iff_eq] at hmiss
    by_cases hoq : o = q
    · exact hmiss.1 (by rw [hoq])
    · exact absurd hmiss.2 (Nat.ne_of_lt (h.best o ho hoq))

theorem State.WinsBank.mem_cands : q ∈ s.bankCands k p b := by
  refine List.mem_filter.2 ⟨h.mem, ?_⟩
  rcases h.fits with hrow | hrow <;> simp [hrow]

theorem State.WinsBank.bankChoice : s.bankChoice k p b = (some q, false, s.keyOf q) := by
  have hbest : ∀ o ∈ s.bankCands k p b, o ≠ q → s.keyOf o < s.keyOf q := fun o ho => h.best o (List.mem_filter.1 ho).1
  have hmax : ((s.bankCands k p b).map s.keyOf).foldl max 0 = s.keyOf q := by
    refine foldl_max_eq _ 0 _ (Nat.zero_le _) (.inl (List.mem_map.2 ⟨q, h.mem_cands, rfl⟩)) fun y hy => ?_
    obtain ⟨o, ho, rfl⟩ := List.mem_map.1 hy
    by_cases hoq : o = q
    · exact Nat.le_of_eq (by rw [hoq])
    · exact Nat.le_of_lt (hbest o ho hoq)
  have hwin : arbitrate 192 ((s.pcc k p).bank b).rot ((s.bankCands k p b).map fun o => (o.slot, s.keyOf o)) = some q.slot := by
    refine arbitrate_eq 192 _ _ (q.slot, s.keyOf q) (List.mem_map.2 ⟨q, h.mem_cands, rfl⟩) fun y hy hne => ?_
    obtain ⟨o, ho, rfl⟩ := List.mem_map.1 hy
    exact hbest o ho fun hoq => hne (by rw [hoq])
  have hfind : (s.bankCands k p b).find? (fun o => o.slot == q.slot && s.keyOf o == s.keyOf q) = some q := by
    cases hf : (s.bankCands k p b).find? fun o => o.slot == q.slot && s.keyOf o == s.keyOf q with
    | none => exact absurd (List.find?_eq_none.1 hf q h.mem_cands) (by simp)
    | some o =>
      have hkey := List.find?_some hf
      simp only [Bool.and_eq_true, beq_iff_eq] at hkey
      exact congrArg some (Classical.byContradiction fun hoq => absurd hkey.2 (Nat.ne_of_lt (hbest o (List.mem_of_find?_eq_some hf) hoq)))
  rw [s.bankChoice_eq, h.noMiss, h.top, hmax, hwin, Option.bind_some, hfind]

end

/-- A bank at which no grant is made. -/
theorem State.bankGrant_closed (s : State) (k p b : Nat)
    (h : s.pccCapo k p = true ∨ (s.pcc k p).replay ≠ .run ∨ ((s.pcc k p).bank b).owner ≠ none) : s.bankGrant k p b = s := by
  refine if_pos ?_
  simp only [Bool.or_eq_true, bne_iff_ne, Option.isSome_iff_ne_none]
  grind

section
variable (s : State) (k p b : Nat) (hcapo : s.pccCapo k p = false) (hrun : (s.pcc k p).replay = .run)
  (howner : ((s.pcc k p).bank b).owner = none) (hst : ((s.pcc k p).bank b).st ≠ .refreshing) (hb : b < 16 * s.build.H)
include hcapo hrun howner hst hb

theorem State.bankGrant_won (q : Piece) (h : s.WinsBank k p b q) :
    s.bankGrant k p b = s.setPcc k p (((s.pcc k p).modBank b fun x => { x with
      st := .owned, owner := some q.id, hint := q.page, expired := false, rot := q.slot, hits := 0, missKey := none }).modPiece q.id
        fun y => { y with st := if ((s.pcc k p).bank b).row == some q.row then .column else .opening }) := by
  unfold State.bankGrant
  simp only [hcapo, hrun, howner, h.bankChoice, Option.isSome_none, bne_self_eq_false, beq_eq_false_iff_ne.2 hst, decide_eq_false (Nat.not_le.2 hb), Bool.or_false,
    Bool.false_eq_true, if_false, Bool.and_false, Bool.false_and]
  rfl

theorem State.bankGrant_none (hnone : ∀ q ∈ (s.pcc k p).buf, q.bankEligible b = false) (htrack : s.flag (F.phyCfg_TRACK_EN k) = false) :
    s.bankGrant k p b = s := by
  have hcands : s.bankCands k p b = [] := List.eq_nil_iff_forall_not_mem.2 fun q hq => by
    obtain ⟨hmem, hel⟩ := List.mem_filter.1 (List.mem_filter.1 hq).1
    rw [hnone q hmem] at hel
    cases hel
  have hchoice : (s.bankChoice k p b).1 = none := by
    rw [s.bankChoice_eq, hcands]
    rfl
  unfold State.bankGrant
  simp only [hcapo, hrun, howner, hchoice, Option.isSome_none, bne_self_eq_false, beq_eq_false_iff_ne.2 hst, decide_eq_false (Nat.not_le.2 hb), Bool.or_false,
    Bool.false_eq_true, if_false, State.trackStart, htrack, Bool.false_and]

end

/-! ### ROW_GRANT -/

theorem State.pcc_setPcc_same (s : State) (k p : Nat) (c : Pcc) : (s.setPcc k p c).pcc k p = c := SMap.get_put_same _ _ _ _

theorem State.pcc_fset (s : State) (f : Fld) (v k p : Nat) : (s.fset f v).pcc k p = s.pcc k p := rfl

theorem State.reg_setPcc (s : State) (k p a : Nat) (c : Pcc) : (s.setPcc k p c).reg a = s.reg a := rfl

theorem State.out_setPcc (s : State) (k p j i : Nat) (c : Pcc) : (s.setPcc k p c).out j i = s.out j i := rfl

/-- The hints of PCC `p` that are kept. -/
def State.hintsKept (s : State) (k p : Nat) : Pcc :=
  { s.pcc k p with hints := (s.pcc k p).hints.filter fun h => !((s.pcc k p).hints.filter fun h => !s.hintOk k p h.1).contains h }

theorem State.dropHints_eq (s : State) (k p : Nat) : s.dropHints k p = (s.setPcc k p (s.hintsKept k p)).count (F.pccHintsDrop_COUNT k p)
    ((s.pcc k p).hints.filter fun h => !s.hintOk k p h.1).length := rfl

theorem State.pcc_dropHints (s : State) (k p : Nat) : (s.dropHints k p).pcc k p = s.hintsKept k p := by
  rw [s.dropHints_eq, State.count_eq, State.pcc_fset, State.pcc_setPcc_same]

theorem State.reg_dropHints_other (s : State) (k p a : Nat) (h : A.pccHintsDrop k p ≠ a) : (s.dropHints k p).reg a = s.reg a := by
  rw [s.dropHints_eq, State.reg_count_other _ (F.pccHintsDrop_COUNT k p) _ a h, State.reg_setPcc]

theorem State.out_dropHints (s : State) (k p j i : Nat) : (s.dropHints k p).out j i = s.out j i := by
  rw [s.dropHints_eq, State.count_eq, State.out_fset, State.out_setPcc]

theorem State.build_dropHints (s : State) (k p : Nat) : (s.dropHints k p).build = s.build := by
  rw [s.dropHints_eq, State.count_eq]
  rfl

theorem State.ppl_dropHints (s : State) (k p : Nat) : (s.dropHints k p).ppl k = s.ppl k := by
  have hactive : (s.dropHints k p).fget (F.phyFreqStatus_ACTIVE k) = s.fget (F.phyFreqStatus_ACTIVE k) :=
    State.fget_of_reg (s.reg_dropHints_other k p _ (by show 0x108078 + k * 0x20000 + p * 0x200 ≠ 0x104108 + k * 0x20000; omega))
  have hset : s.fget (F.phyFreqStatus_ACTIVE k) < 4 := bitsOf_lt ..
  have hppl : (s.dropHints k p).fget (F.phyTsetRef_PPL k (s.fget (F.phyFreqStatus_ACTIVE k))) =
      s.fget (F.phyTsetRef_PPL k (s.fget (F.phyFreqStatus_ACTIVE k))) :=
    State.fget_of_reg (s.reg_dropHints_other k p _ (by
      show 0x108078 + k * 0x20000 + p * 0x200 ≠ 0x104018 + k * 0x20000 + s.fget (F.phyFreqStatus_ACTIVE k) * 0x20
      omega))
  unfold State.ppl State.tset
  rw [hactive, hppl]

theorem State.pccCapo_dropHints (s : State) (k : Fin 8) (p : Nat) : (s.dropHints k p).pccCapo k p = s.pccCapo k p := by
  have hmask : (s.dropHints k p).fget (F.arbStkPccCapo_MASK k) = s.fget (F.arbStkPccCapo_MASK k) :=
    State.fget_of_reg (s.reg_dropHints_other k p _ (by
      show 0x108078 + k.val * 0x20000 + p * 0x200 ≠ 0x031028 + k.val * 0x100
      omega))
  unfold State.pccCapo State.maskBit
  rw [hmask, s.out_dropHints]

/-- The row path's requests by the bank engines. -/
def State.rowBanks (s : State) (k p : Nat) : List (Nat × RowCmd × Nat) :=
  (List.range 64).filterMap fun b => if s.pccCapo k p then none else (s.bankRow k p b).map fun r => (b, r)

/-- The row path's request by the refresh machine. -/
def State.rowRefresh (s : State) (k p : Nat) : List (Nat × RowCmd × Nat) :=
  match s.refreshRow k p with
  | some r => if s.pccCapo k p && r.2 != 8 then [] else [(64, r)]
  | none => []

/-- The row path's choice, once the hints that fail are dropped. -/
def State.rowChoose (s : State) (k p : Nat) : State :=
  if (s.pcc k p).rowCmd.isSome || (s.pcc k p).replay != .run then s
  else
    match arbitrate 65 (s.pcc k p).rotRow ((s.rowBanks k p ++ s.rowRefresh k p).map fun e => (e.1, e.2.2)) with
    | none => s
    | some i =>
      match (s.rowBanks k p ++ s.rowRefresh k p).find? fun e => e.1 == i with
      | none => s
      | some e => s.modPcc k p fun c => { c with rowCmd := some e.2.1, rotRow := i }

theorem State.rowChoose_busy (s : State) (k p : Nat) (h : (s.pcc k p).rowCmd ≠ none ∨ (s.pcc k p).replay ≠ .run) : s.rowChoose k p = s := by
  refine if_pos ?_
  simp only [Bool.or_eq_true, bne_iff_ne, Option.isSome_iff_ne_none]
  exact h

section
variable (s : State) (k p : Nat) (hfree : (s.pcc k p).rowCmd = none) (hrun : (s.pcc k p).replay = .run)
include hfree hrun

theorem State.rowFree : ((s.pcc k p).rowCmd.isSome || (s.pcc k p).replay != .run) = false := by
  rw [hfree, hrun]
  rfl

/-- The request of highest key takes the row path. -/
theorem State.rowChoose_won (i : Nat) (r : RowCmd × Nat) (hmem : (i, r) ∈ s.rowBanks k p ++ s.rowRefresh k p)
    (hbest : ∀ e ∈ s.rowBanks k p ++ s.rowRefresh k p, e ≠ (i, r) → e.1 ≠ i ∧ e.2.2 < r.2) :
    s.rowChoose k p = s.setPcc k p { s.pcc k p with rowCmd := some r.1, rotRow := i } := by
  have hwin : arbitrate 65 (s.pcc k p).rotRow ((s.rowBanks k p ++ s.rowRefresh k p).map fun e => (e.1, e.2.2)) = some i := by
    refine arbitrate_eq 65 _ _ (i, r.2) (List.mem_map.2 ⟨_, hmem, rfl⟩) fun y hy hne => ?_
    obtain ⟨e, he, rfl⟩ := List.mem_map.1 hy
    exact (hbest e he fun h => hne (by rw [h])).2
  have hfind : (s.rowBanks k p ++ s.rowRefresh k p).find? (fun e => e.1 == i) = some (i, r) := by
    cases hf : (s.rowBanks k p ++ s.rowRefresh k p).find? fun e => e.1 == i with
    | none => exact absurd (List.find?_eq_none.1 hf _ hmem) (by simp)
    | some e => exact congrArg some (Classical.byContradiction fun hne => (hbest e (List.mem_of_find?_eq_some hf) hne).1 (by simpa using List.find?_some hf))
  unfold State.rowChoose
  simp only [s.rowFree k p hfree hrun, hwin, hfind, Bool.false_eq_true, if_false]
  rfl

theorem State.rowChoose_none (hnone : s.rowBanks k p ++ s.rowRefresh k p = []) : s.rowChoose k p = s := by
  unfold State.rowChoose
  simp only [s.rowFree k p hfree hrun, hnone, Bool.false_eq_true, if_false]
  rfl

end

theorem State.mem_rowBanks (s : State) (k p : Nat) (e : Nat × RowCmd × Nat) :
    e ∈ s.rowBanks k p ↔ s.pccCapo k p = false ∧ e.1 < 64 ∧ s.bankRow k p e.1 = some e.2 := by
  obtain ⟨b, r⟩ := e
  simp only [State.rowBanks, List.mem_filterMap, List.mem_range]
  constructor
  · rintro ⟨b', hb', he⟩
    split at he
    · cases he
    next hcapo =>
      obtain ⟨r', hr', hpair⟩ := Option.map_eq_some_iff.1 he
      cases hpair
      exact ⟨by simpa using hcapo, hb', hr'⟩
  · rintro ⟨hcapo, hb, hr⟩
    exact ⟨b, hb, by simp [hcapo, hr]⟩

/-- The key of a bank engine's request is that of its piece, or 0. -/
theorem State.bankRow_key (s : State) (k p b : Nat) (r : RowCmd × Nat) (h : s.bankRow k p b = some r) : r.2 ≤ 7 := by
  unfold State.bankRow at h
  dsimp only at h
  split at h
  · cases h
  · split at h
    · split at h
      · cases h; exact s.keyOf_le _
      · cases h
    · split at h
      · cases h; exact Nat.zero_le 7
      · split at h
        · split at h
          · cases h; exact Nat.zero_le 7
          · cases h
        · cases h

/-- A bank at its refresh limit asks at key 8. -/
theorem State.refreshAt_due (s : State) (k p b : Nat) (hhand : ((s.pcc k p).bank b).refHanded = false)
    (howed : s.ppl k ≤ ((s.pcc k p).bank b).owed) : s.refreshAt k p b =
      some (⟨if ((s.pcc k p).bank b).row.isSome then .pre else .ref, b, 0, true, false, true⟩, 8) := by
  unfold State.refreshAt
  simp only [hhand, Bool.false_eq_true, if_false, if_pos howed]

/-- A bank below its limit does not ask at key 8. -/
theorem State.refreshAt_early (s : State) (k p b : Nat) (h : ((s.pcc k p).bank b).refHanded = true ∨ ((s.pcc k p).bank b).owed < s.ppl k)
    (r : RowCmd × Nat) (hr : s.refreshAt k p b = some r) : r.2 ≠ 8 := by
  unfold State.refreshAt at hr
  dsimp only at hr
  split at hr
  · cases hr
  next hhand =>
    rw [if_neg (Nat.not_le.2 (h.resolve_left hhand))] at hr
    split at hr
    · cases hr; exact (by decide : (0 : Nat) ≠ 8)
    · cases hr

/-- The refresh machine asks for the lowest bank at its limit. -/
theorem State.refreshRow_due (s : State) (k p b : Nat) (hb : b < 16 * s.build.H) (hhand : ((s.pcc k p).bank b).refHanded = false)
    (howed : s.ppl k ≤ ((s.pcc k p).bank b).owed)
    (hbefore : ∀ a < b, ((s.pcc k p).bank a).refHanded = true ∨ ((s.pcc k p).bank a).owed < s.ppl k) : s.refreshRow k p =
      some (⟨if ((s.pcc k p).bank b).row.isSome then .pre else .ref, b, 0, true, false, true⟩, 8) := by
  have hsplit : List.range (16 * s.build.H) = List.range b ++ b :: List.range' (b + 1) (16 * s.build.H - (b + 1)) := by
    have hlen : 16 * s.build.H = b + (1 + (16 * s.build.H - (b + 1))) := by omega
    rw [List.range_eq_range', List.range_eq_range']
    conv => lhs; rw [hlen]
    rw [← List.range'_append_1, ← List.range'_append_1]
    simp
  have hfind : ((List.range (16 * s.build.H)).filterMap (s.refreshAt k p)).find? (fun r => r.2 == 8) =
      some (⟨if ((s.pcc k p).bank b).row.isSome then .pre else .ref, b, 0, true, false, true⟩, 8) := by
    rw [hsplit, List.filterMap_append, List.find?_append, List.filterMap_cons, s.refreshAt_due k p b hhand howed]
    have hnone : ((List.range b).filterMap (s.refreshAt k p)).find? (fun r => r.2 == 8) = none := by
      refine List.find?_eq_none.2 fun r hr => ?_
      obtain ⟨a, ha, hra⟩ := List.mem_filterMap.1 hr
      simpa using s.refreshAt_early k p a (hbefore a (List.mem_range.1 ha)) r hra
    rw [hnone]
    rfl
  unfold State.refreshRow
  simp only [hfind]

/-- A refresh at its limit takes the row path, even under Capo. -/
theorem State.rowChoose_refresh (s : State) (k p : Nat) (hfree : (s.pcc k p).rowCmd = none) (hrun : (s.pcc k p).replay = .run) (r : RowCmd)
    (href : s.refreshRow k p = some (r, 8)) : s.rowChoose k p = s.setPcc k p { s.pcc k p with rowCmd := some r, rotRow := 64 } := by
  have hlist : s.rowRefresh k p = [(64, r, 8)] := by
    unfold State.rowRefresh
    simp [href]
  refine s.rowChoose_won k p hfree hrun 64 (r, 8) (by simp [hlist]) fun e he hne => ?_
  rcases List.mem_append.1 he with he | he
  · obtain ⟨-, hlt, hrow⟩ := (s.mem_rowBanks k p e).1 he
    have hkey := s.bankRow_key k p e.1 e.2 hrow
    exact ⟨Nat.ne_of_lt hlt, Nat.lt_succ_of_le hkey⟩
  · rw [hlist, List.mem_singleton] at he
    exact absurd he hne

theorem State.rowRefresh_none (s : State) (k p : Nat) (href : s.refreshRow k p = none) : s.rowRefresh k p = [] := by
  unfold State.rowRefresh
  simp only [href]

/-- Without a refresh the bank engine of highest key takes the row path. -/
theorem State.rowChoose_bank (s : State) (k p : Nat) (hfree : (s.pcc k p).rowCmd = none) (hrun : (s.pcc k p).replay = .run)
    (hcapo : s.pccCapo k p = false) (href : s.refreshRow k p = none) (b : Nat) (hb : b < 64) (r : RowCmd) (key : Nat)
    (hrow : s.bankRow k p b = some (r, key)) (hbest : ∀ a < 64, a ≠ b → ∀ x, s.bankRow k p a = some x → x.2 < key) :
    s.rowChoose k p = s.setPcc k p { s.pcc k p with rowCmd := some r, rotRow := b } := by
  refine s.rowChoose_won k p hfree hrun b (r, key) (List.mem_append_left _ ((s.mem_rowBanks k p _).2 ⟨hcapo, hb, hrow⟩)) fun e he hne => ?_
  rw [s.rowRefresh_none k p href, List.append_nil] at he
  obtain ⟨-, hlt, he'⟩ := (s.mem_rowBanks k p e).1 he
  have hother : e.1 ≠ b := fun heq => hne (by
    rw [heq, hrow] at he'
    exact Prod.ext heq (Option.some.inj he').symm)
  exact ⟨hother, hbest e.1 hlt hother e.2 he'⟩

/-! ### COLUMN_GRANT and COLUMN_PREEMPT -/

section
variable (s : State) (k p : Nat) (hfree : (s.pcc k p).column = none) (hrun : (s.pcc k p).replay = .run)
  (hcapo : s.pccCapo k p = false)
include hfree hrun hcapo

theorem State.columnFree : ((s.pcc k p).column.isSome || (s.pcc k p).replay != .run || s.pccCapo k p) = false := by
  rw [hfree, hrun, hcapo]
  rfl

theorem State.columnGrant_won (q : Piece) (hmem : q ∈ (s.pcc k p).modeEligible)
    (hbest : ∀ o ∈ (s.pcc k p).modeEligible, o ≠ q → s.keyOf o < s.keyOf q ∧ o.bank ≠ q.bank) :
    s.columnGrant k p = s.setPcc k p (Pcc.modPiece { s.pcc k p with column := some q.id, rotCol := q.bank, writeMode := (s.pcc k p).writing }
      q.id fun x => { x with st := .column }) := by
  have hwin : arbitrate 65 (s.pcc k p).rotCol ((s.pcc k p).modeEligible.map fun q => (q.bank, s.keyOf q)) = some q.bank := by
    refine arbitrate_eq 65 _ _ (q.bank, s.keyOf q) (List.mem_map.2 ⟨q, hmem, rfl⟩) fun y hy hne => ?_
    obtain ⟨o, ho, rfl⟩ := List.mem_map.1 hy
    exact (hbest o ho fun h => hne (by rw [h])).1
  have hfind : (s.pcc k p).modeEligible.find? (fun o => o.bank == q.bank) = some q := by
    cases hf : (s.pcc k p).modeEligible.find? fun o => o.bank == q.bank with
    | none => exact absurd (List.find?_eq_none.1 hf q hmem) (by simp)
    | some o => exact congrArg some (Classical.byContradiction fun hne => (hbest o (List.mem_of_find?_eq_some hf) hne).2 (by simpa using List.find?_some hf))
  unfold State.columnGrant
  simp only [s.columnFree k p hfree hrun hcapo, hwin, hfind, Option.bind_some, Bool.false_eq_true, if_false]

theorem State.columnGrant_none (hnone : (s.pcc k p).modeEligible = []) :
    s.columnGrant k p = s.setPcc k p { s.pcc k p with writeMode := (s.pcc k p).writing } := by
  unfold State.columnGrant
  simp only [s.columnFree k p hfree hrun hcapo, hnone, Bool.false_eq_true, if_false]
  rfl

end

theorem State.columnGrant_closed (s : State) (k p : Nat)
    (h : (s.pcc k p).column ≠ none ∨ (s.pcc k p).replay ≠ .run ∨ s.pccCapo k p = true) : s.columnGrant k p = s := by
  refine if_pos ?_
  simp only [Bool.or_eq_true, bne_iff_ne, Option.isSome_iff_ne_none]
  grind

theorem State.columnPreempt_eq (s : State) (k p b : Nat) (h w : Piece) (hh : (s.pcc k p).holder = some h)
    (hw : (s.pcc k p).modeEligible.find? (fun q => q.bank == b) = some w) (hrun : (s.pcc k p).replay = .run) (hcapo : s.pccCapo k p = false) :
    s.columnPreempt k p b = if s.preempts k p w h then
      (s.setPcc k p ((Pcc.modPiece { s.pcc k p with column := some w.id, rotCol := w.bank, writeMode := (s.pcc k p).writing } h.id
        fun x => { x with st := .parked }).modPiece w.id fun x => { x with st := .column })).count (F.arbStkPreempts_COUNT k) 1 else s := by
  unfold State.columnPreempt
  simp only [hh, hw, hcapo, beq_iff_eq.2 hrun, Bool.not_false, Bool.true_and]

theorem State.preempts_iff (s : State) (k p : Nat) (w h : Piece) : s.preempts k p w h = true ↔
    w.bank ≠ h.bank ∧ h.todo ≠ [] ∧ (s.pcc k p).parked < s.parkMax k ∧ h.cls ≠ 7 ∧
      (w.cls = 7 ∨ s.keyOf h + max 1 (s.fget (F.arbStkCfg_DELTA k)) ≤ s.keyOf w) := by
  simp only [State.preempts, Bool.and_eq_true, Bool.or_eq_true, bne_iff_ne, beq_iff_eq, decide_eq_true_eq, and_assoc]

theorem State.columnPreempt_closed (s : State) (k p b : Nat) (h : (s.pcc k p).column.bind (s.pcc k p).piece? = none ∨
    (∀ w ∈ (s.pcc k p).modeEligible, w.bank ≠ b) ∨ (s.pcc k p).replay ≠ .run ∨ s.pccCapo k p = true) : s.columnPreempt k p b = s := by
  unfold State.columnPreempt
  dsimp only
  split
  next o w ho hw =>
    refine if_neg fun hall => ?_
    simp only [Bool.and_eq_true, Bool.not_eq_true', beq_iff_eq] at hall
    obtain ⟨⟨hrun, hcapo⟩, -⟩ := hall
    have hbank := List.find?_some hw
    rcases h with h | h | h | h
    · exact absurd (ho.symm.trans h) (by simp)
    · exact h w (List.mem_of_find?_eq_some hw) (by simpa using hbank)
    · exact h hrun
    · rw [h] at hcapo; cases hcapo
  next => rfl

/-- Settles O43: the four choices, each by its winner. -/
theorem pccGrants : Obligations.PccGrants := by
  unfold Obligations.PccGrants
  refine ⟨fun k p b s => ?_, fun k p b s => ?_, fun k p s => ?_, fun k p s => ?_, fun k p b s => ?_⟩
  · intro c hcapo hrun howner hst hb
    have hgrant := s.bankGrant_won k.val p.val b.val hcapo hrun howner hst hb
    refine ⟨?_, fun hnone htrack => ?_⟩
    · intro q hq hel hbest granted
      have hmem : q ∈ c.contenders b.val := List.mem_filter.2 ⟨hq, hel⟩
      have hbest' : ∀ o ∈ c.contenders b.val, o ≠ q → s.keyOf o < s.keyOf q := fun o ho =>
        hbest o (List.mem_filter.1 ho).1 (List.mem_filter.1 ho).2
      refine ⟨fun hrow => ?_, fun hrow => ?_⟩
      · refine congrArg Host.Outcome.next ((hgrant q ⟨hmem, hbest', .inl hrow⟩).trans ?_)
        rw [if_neg (by rw [hrow]; simp)]
      · refine congrArg Host.Outcome.next ((hgrant q ⟨hmem, hbest', .inr hrow⟩).trans ?_)
        rw [if_pos (by rw [hrow]; simp)]
    · exact congrArg Host.Outcome.next (s.bankGrant_none k.val p.val b.val hcapo hrun howner hst hb hnone htrack)
  · intro c h
    exact congrArg Host.Outcome.next (s.bankGrant_closed k.val p.val b.val h)
  · intro u c
    have hpcc : u.pcc k.val p.val = s.hintsKept k.val p.val := s.pcc_dropHints k.val p.val
    have hexec : exec (.rowGrant k p) s = .next (u.rowChoose k.val p.val) := rfl
    refine ⟨fun hfree hrun b hb hhand howed hbefore => ?_, fun hfree hrun hcapo href => ?_, fun h => ?_⟩
    · have hbank : ∀ a, (u.pcc k.val p.val).bank a = c.bank a := fun a => by rw [hpcc]; rfl
      have hppl : u.ppl k.val = s.ppl k.val := s.ppl_dropHints k.val p.val
      have href := u.refreshRow_due k.val p.val b (by rw [s.build_dropHints]; exact hb) (by rw [hbank]; exact hhand)
        (by rw [hbank, hppl]; exact howed) (fun a ha => by rw [hbank, hppl]; exact hbefore a ha)
      rw [hexec, u.rowChoose_refresh k.val p.val (by rw [hpcc]; exact hfree) (by rw [hpcc]; exact hrun) _ href, hbank]
    · have hcapo' : u.pccCapo k.val p.val = false := (s.pccCapo_dropHints k p.val).trans hcapo
      refine ⟨fun b r key hrow hbest => ?_, fun hnone => ?_⟩
      · rw [hexec, u.rowChoose_bank k.val p.val (by rw [hpcc]; exact hfree) (by rw [hpcc]; exact hrun) hcapo' href b.val b.isLt r key hrow
          fun a ha hab x hx => hbest ⟨a, ha⟩ (fun h => hab (congrArg Fin.val h)) x hx]
      · have hempty : u.rowBanks k.val p.val = [] := List.eq_nil_iff_forall_not_mem.2 fun e he => by
          obtain ⟨-, hlt, hrow⟩ := (u.mem_rowBanks k.val p.val e).1 he
          rw [hnone ⟨e.1, hlt⟩] at hrow
          cases hrow
        rw [hexec, u.rowChoose_none k.val p.val (by rw [hpcc]; exact hfree) (by rw [hpcc]; exact hrun)
          (by rw [hempty, u.rowRefresh_none k.val p.val href]; rfl)]
    · rw [hexec, u.rowChoose_busy k.val p.val (by rw [hpcc]; exact h)]
  · intro c
    refine ⟨fun hfree hrun hcapo => ⟨fun q hq hbest => ?_, fun hnone => ?_⟩, fun h => ?_⟩
    · exact congrArg Host.Outcome.next (s.columnGrant_won k.val p.val hfree hrun hcapo q hq hbest)
    · exact congrArg Host.Outcome.next (s.columnGrant_none k.val p.val hfree hrun hcapo hnone)
    · exact congrArg Host.Outcome.next (s.columnGrant_closed k.val p.val h)
  · intro c
    refine ⟨fun h w hh hw hrun hcapo => ?_, fun h => congrArg Host.Outcome.next (s.columnPreempt_closed k.val p.val b.val h)⟩
    have hexec : exec (.columnPreempt k p b) s = _ := congrArg Host.Outcome.next (s.columnPreempt_eq k.val p.val b.val h w hh hw hrun hcapo)
    refine ⟨fun hbank htodo hpark hcls hkey => ?_, fun hnot => ?_⟩
    · rw [if_pos ((s.preempts_iff k.val p.val w h).2 ⟨hbank, htodo, hpark, hcls, hkey⟩)] at hexec
      exact ⟨_, hexec, State.sets_fset _ _ [] (F.arbStkPreempts_COUNT k.val) _ _ (Fld.ok_mk (by decide)) rfl (by simp) (State.sets_nil _)⟩
    · rw [if_neg] at hexec
      · exact hexec
      · intro hyes
        obtain ⟨hbank, htodo, hpark, hcls, hkey⟩ := (s.preempts_iff k.val p.val w h).1 hyes
        rcases hnot with hn | hn | hn | hn | hn
        · exact hbank hn
        · exact htodo hn
        · exact absurd hpark (Nat.not_lt.2 hn)
        · exact hcls hn
        · rcases hkey with hkey | hkey
          · exact hn.1 hkey
          · exact absurd hn.2 (Nat.not_lt.2 hkey)

end Sys2Proof.Machine

/-! PROOFS. Commands handed to the warden (R23, R24, R243). -/

namespace Sys2Proof.Machine

/-! ### Two writes of a PCC's record -/

theorem State.setPcc_setPcc (s : State) (k p : Nat) (c d : Pcc) (h : c ≠ Pcc.init) : (s.setPcc k p c).setPcc k p d = s.setPcc k p d := by
  unfold State.setPcc
  rw [SMap.put_put _ _ _ _ _ h]

theorem State.pcc_modPcc_same (s : State) (k p : Nat) (f : Pcc → Pcc) : (s.modPcc k p f).pcc k p = f (s.pcc k p) :=
  s.pcc_setPcc_same k p _

theorem Pcc.ne_init_of_rb {c : Pcc} (h : c.rb ≠ []) : c ≠ Pcc.init := by
  rintro rfl
  exact h rfl

theorem Pcc.ne_init_of_owed {c : Pcc} {b : Nat} (h : 1 ≤ (c.bank b).owed) : c ≠ Pcc.init := by
  rintro rfl
  exact absurd h (by show ¬ 1 ≤ 0; decide)

/-- A count of one event, of the width of its field. -/
theorem State.sets_count (s : State) (f : Fld) (hf : f.Ok) : s.sets (s.count f 1) [(f, (s.fget f + 1) % 2 ^ (f.hi + 1 - f.lo))] :=
  s.sets_fset s [] f _ _ hf rfl (by simp) s.sets_nil

/-! ### The warden declines (R24) -/

theorem State.ppl_pos (s : State) (k : Nat) : 1 ≤ s.ppl k := by
  unfold State.ppl
  omega

theorem State.declines_iff (s : State) (k p b : Nat) (kind : CmdKind) : s.declines k p b kind = true ↔
    s.ppl k ≤ ((s.pcc k p).bank b).owed ∧ ((s.pcc k p).bank b).refHanded = false ∧ kind ≠ .pre ∧ kind ≠ .ref := by
  simp only [State.declines, Bool.and_eq_true, decide_eq_true_eq, Bool.not_eq_true', bne_iff_ne, and_assoc]

theorem State.decline_sets (s : State) (k p b : Nat) :
    (s.setPcc k p ((s.pcc k p).modBank b fun y => { y with declined := true })).sets (s.decline k p b)
      [(F.pccWardenRefreshHolds_COUNT k p, (s.fget (F.pccWardenRefreshHolds_COUNT k p) + 1) % 2 ^ 64)] :=
  State.sets_count _ (F.pccWardenRefreshHolds_COUNT k p) (Fld.ok_mk (by decide))

theorem State.decline_setPcc (s : State) (k p b : Nat) (c : Pcc) (h : 1 ≤ (c.bank b).owed) :
    (s.setPcc k p (c.modBank b fun y => { y with declined := true })).sets ((s.setPcc k p c).decline k p b)
      [(F.pccWardenRefreshHolds_COUNT k p, (s.fget (F.pccWardenRefreshHolds_COUNT k p) + 1) % 2 ^ 64)] := by
  have hset := (s.setPcc k p c).decline_sets k p b
  rwa [State.pcc_setPcc_same, State.setPcc_setPcc _ _ _ _ _ (Pcc.ne_init_of_owed h)] at hset

/-! ### The row path -/

theorem State.handRow_idle (s : State) (k p slot : Nat) (h : (s.pcc k p).rowCmd = none ∨ (s.pcc k p).replay ≠ .run) :
    s.handRow k p slot = s := by
  unfold State.handRow
  dsimp only
  split
  · rfl
  next r hr => exact if_pos (by simpa [hr] using h)

section
variable (s : State) (k p slot : Nat) (r : RowCmd) (hr : (s.pcc k p).rowCmd = some r) (hrun : (s.pcc k p).replay = .run)
include hr hrun

theorem State.handRow_unwanted (h : s.rowNow k p r = none) : s.handRow k p slot = s.setPcc k p { s.pcc k p with rowCmd := none } := by
  have hrunning : ((s.pcc k p).replay != .run) = false := by rw [hrun]; rfl
  unfold State.handRow
  simp only [hr, hrunning, h, Bool.false_eq_true, if_false]

variable (x : RowCmd) (hx : s.rowNow k p r = some x)
include hx

theorem State.handRow_wanted : s.handRow k p slot =
    if 32 ≤ (s.pcc k p).rb.length then s.count (F.pccReplayFull_COUNT k p) 1
    else if s.declines k p x.bank x.kind then (s.setPcc k p { s.pcc k p with rowCmd := none }).decline k p x.bank
    else if x.hint then
      (s.setPcc k p (Pcc.rowHanded { s.pcc k p with rowCmd := none, rb := (s.pcc k p).rb ++ [rowCmdOf x ((s.pcc k p).ownerOf x.bank) slot] }
        x s.cadence)).count (F.pccHintsAct_COUNT k p) 1
    else s.setPcc k p (Pcc.rowHanded { s.pcc k p with rowCmd := none, rb := (s.pcc k p).rb ++ [rowCmdOf x ((s.pcc k p).ownerOf x.bank) slot] }
      x s.cadence) := by
  have hrunning : ((s.pcc k p).replay != .run) = false := by rw [hrun]; rfl
  unfold State.handRow
  simp only [hr, hrunning, hx, Bool.false_eq_true, if_false]

/-- The declined command leaves its grant, and its bank knows. -/
theorem State.handRow_declined (hroom : (s.pcc k p).rb.length < 32) (hd : s.declines k p x.bank x.kind = true) :
    (s.setPcc k p (Pcc.modBank { s.pcc k p with rowCmd := none } x.bank fun y => { y with declined := true })).sets (s.handRow k p slot)
      [(F.pccWardenRefreshHolds_COUNT k p, (s.fget (F.pccWardenRefreshHolds_COUNT k p) + 1) % 2 ^ 64)] := by
  rw [s.handRow_wanted k p slot r hr hrun x hx, if_neg (Nat.not_le.2 hroom), if_pos hd]
  have howed : 1 ≤ ((s.pcc k p).bank x.bank).owed := Nat.le_trans (s.ppl_pos k) ((s.declines_iff k p x.bank x.kind).1 hd).1
  exact s.decline_setPcc k p x.bank _ howed

end

/-! ### The column path -/

theorem State.handColumn_idle (s : State) (k p slot : Nat) (h : (s.pcc k p).holder = none ∨ (s.pcc k p).replay ≠ .run) :
    s.handColumn k p slot = s := by
  unfold State.handColumn
  dsimp only
  split
  · rfl
  next q hq =>
    split
    · rfl
    · exact if_pos (by simpa [hq] using h)

section
variable (s : State) (k p slot : Nat) (q : Piece) (i : Nat) (l : List Nat) (hq : (s.pcc k p).holder = some q) (htodo : q.todo = i :: l)
  (hrun : (s.pcc k p).replay = .run)
include hq htodo hrun

theorem State.handColumn_eq : s.handColumn k p slot =
    if s.declines k p q.bank .rd then (if ((s.pcc k p).bank q.bank).declined then s else s.decline k p q.bank)
    else if 32 ≤ (s.pcc k p).rb.length then s.count (F.pccReplayFull_COUNT k p) 1
    else if q.nextReads then s.handRead k p q i slot
    else s.handWrite k p q i slot := by
  have hrunning : ((s.pcc k p).replay != .run) = false := by rw [hrun]; rfl
  unfold State.handColumn
  simp only [hq, htodo, hrunning, Bool.false_eq_true, if_false]

end

/-- A train that goes on keeps its bank and the column path. -/
theorem Piece.lastBurst_of_more (q : Piece) (i : Nat) (l : List Nat) (htodo : q.todo = i :: l) (hl : l ≠ []) : q.lastBurst = false := by
  have hlen : ¬ q.todo.length ≤ 1 := by
    rw [htodo, List.length_cons]
    have := List.length_pos_iff.2 hl
    omega
  simp [Piece.lastBurst, hlen]

theorem Piece.todo_ne_of_more (q : Piece) (i : Nat) (l : List Nat) (htodo : q.todo = i :: l) (hl : l ≠ []) : q.todo ≠ [i] := by
  rw [htodo]
  simpa using hl

/-- A piece of a request's data. -/
structure Piece.OfData (q : Piece) : Prop where
  kind : q.kind = .read ∨ q.kind = .write
  inMeta : q.inMeta = false
  dest : q.dest = none

theorem State.pieceAddr_ofData (s : State) (k p : Nat) (q : Piece) (i : Nat) (h : q.OfData) : s.pieceAddr k p q i = q.addr + 64 * i := by
  have hpoison : q.kind ≠ .poisonWrite := by rcases h.kind with hk | hk <;> rw [hk] <;> decide
  unfold State.pieceAddr
  simp [h.inMeta, h.dest, hpoison]

theorem State.pieceFold_ofData (s : State) (k p : Nat) (q : Piece) (i : Nat) (h : q.OfData) :
    s.pieceFold k p q i = dataFold (q.addr + 64 * i) := by
  have hsan : q.kind ≠ .sanWrite := by rcases h.kind with hk | hk <;> rw [hk] <;> decide
  unfold State.pieceFold
  simp [h.inMeta, hsan, s.pieceAddr_ofData k p q i h]

theorem Piece.raw_ofData (q : Piece) (h : q.OfData) : q.raw = false := by
  unfold Piece.raw
  rcases h.kind with hk | hk <;> rw [hk] <;> rfl

/-- A column command of a train that goes on joins the replay buffer. -/
theorem State.pushColumn_more (s : State) (k p : Nat) (q : Piece) (kind : CmdKind) (i : Nat) (w : Stored) (slot : Nat) (h : q.OfData)
    (hmore : q.lastBurst = false) : s.pushColumn k p q kind i w slot = s.setPcc k p { s.pcc k p with
      rb := (s.pcc k p).rb ++ [⟨kind, q.bank, q.row, q.id, i, q.u + i, false, q.addr + 64 * i, dataFold (q.addr + 64 * i), w, q.lane, slot,
        false, false, 0, false, q.cls, q.label, q.arrival, q.aged⟩] } := by
  unfold State.pushColumn
  simp only [hmore, Bool.false_eq_true, if_false, h.inMeta, s.pieceAddr_ofData k p q i h, s.pieceFold_ofData k p q i h]

/-- The read burst of a train that goes on. -/
theorem State.handRead_more (s : State) (k p slot : Nat) (q : Piece) (i : Nat) (l : List Nat) (htodo : q.todo = i :: l) (hl : l ≠ [])
    (h : q.OfData) (hbow : q.org ≠ .bow) : s.handRead k p q i slot = s.setPcc k p (Pcc.modPiece { s.pcc k p with
      rb := (s.pcc k p).rb ++ [⟨.rd, q.bank, q.row, q.id, i, q.u + i, false, q.addr + 64 * i, dataFold (q.addr + 64 * i),
        s.atomWord k p (q.u + i), q.lane, slot, false, false, 0, false, q.cls, q.label, q.arrival, q.aged⟩] } q.id
      fun x => { x with todo := x.todo.filter (· != i), pend := x.pend ++ [i], beats := x.beats + 1 }) := by
  have hscrub : q.scrubs = false := by simp [Piece.scrubs, hbow]
  unfold State.handRead
  simp only [hscrub, Bool.false_eq_true, if_false, q.todo_ne_of_more i l htodo hl, s.pushColumn_more k p q .rd i _ slot h
    (q.lastBurst_of_more i l htodo hl), State.wordAt, h.inMeta, q.raw_ofData h, State.modPiece, State.modPcc, State.pcc_setPcc_same]
  exact State.setPcc_setPcc _ _ _ _ _ (Pcc.ne_init_of_rb (by simp))

/-! ### The write burst -/

/-- What an access to a data atom reaches is decided by the Fret table and the cells. -/
theorem State.atomWord_congr {s t : State} (k p u : Nat) (hreg : ∀ i, t.reg (A.pccFretEnt k p i) = s.reg (A.pccFretEnt k p i))
    (hdram : t.dram = s.dram) (hfills : t.fills = s.fills) : t.atomWord k p u = s.atomWord k p u := by
  have hfret : t.fretOf k p u = s.fretOf k p u := by
    unfold State.fretOf
    refine congrArg (fun f => List.find? f (List.range 16)) (funext fun i => ?_)
    rw [State.flag_of_reg (f := F.pccFretEnt_VALID k p i) (hreg i), State.fget_of_reg (f := F.pccFretEnt_ATOM k p i) (hreg i)]
  have hcell : ∀ m i, t.cell k p m i = s.cell k p m i := by
    intro m i
    unfold State.cell State.unlisted State.unlistedAt
    rw [hdram, hfills]
  unfold State.atomWord
  simp only [hfret, hcell]

/-- A data atom reads as it was written. -/
theorem State.atomWord_setAtomWord (s : State) (k p u : Nat) (w : Stored) : (s.setAtomWord k p u w).atomWord k p u = w := by
  unfold State.setAtomWord
  cases hf : s.fretOf k p u with
  | none =>
    have hf' : (s.setCell k p false u w).fretOf k p u = none := hf
    unfold State.atomWord
    simp only [hf', State.cell_setCell_same]
  | some i =>
    have hf' : (s.setCell k p true i w).fretOf k p u = some i := hf
    unfold State.atomWord
    simp only [hf', State.cell_setCell_same]

/-- A data atom's write burst has written it, and the PC holds it as written (R212). -/
theorem State.burstEffect_ofData (s : State) (k p : Nat) (q : Piece) (i : Nat) (w : Stored) (h : q.OfData) :
    (s.burstEffect k p q i w).atomWord k p (q.u + i) = w ∧ (s.burstEffect k p q i w).flag (F.pccZmapCtl_WRITTEN k p) = true ∧
      (s.burstEffect k p q i w).pcc k p = (s.pcc k p).onBurstWrite (q.u + i) := by
  have hsan : q.kind ≠ .sanWrite := by rcases h.kind with hk | hk <;> rw [hk] <;> decide
  have heq : s.burstEffect k p q i w = (State.raise (State.setSalvage ((s.setAtomWord k p (q.u + i) w).modPcc k p fun c => c.onBurstWrite (q.u + i)) k p
      ((((s.setAtomWord k p (q.u + i) w).modPcc k p fun c => c.onBurstWrite (q.u + i)).salvageOf k p).filter (· != q.u + i)))
        (F.pccZmapCtl_WRITTEN k p)) := by
    unfold State.burstEffect
    simp only [h.inMeta, Bool.false_eq_true, if_false, hsan, State.setWordAt, q.raw_ofData h]
  rw [heq]
  have hpcc : (s.setAtomWord k p (q.u + i) w).pcc k p = s.pcc k p := by
    unfold State.setAtomWord
    split <;> rfl
  refine ⟨?_, State.flag_raise _ _ (Fld.ok_mk (by decide)), ?_⟩
  · refine Eq.trans (State.atomWord_congr (s := s.setAtomWord k p (q.u + i) w) k p (q.u + i) (fun j => ?_) ?_ ?_)
      (s.atomWord_setAtomWord k p (q.u + i) w)
    case refine_2 => rfl
    case refine_3 => rfl
    exact State.reg_fset_other _ (F.pccZmapCtl_WRITTEN k p) 1 (A.pccFretEnt k p j)
      (by show 0x108010 + k * 0x20000 + p * 0x200 ≠ 0x108140 + k * 0x20000 + p * 0x200 + j * 0x8; omega)
  · rw [State.raise_eq, State.pcc_fset]
    exact (State.pcc_setPcc_same _ _ _ _).trans (by rw [hpcc])

/-- The mode a PCC falls to is no part of its cells, its registers and its replay buffer. -/
theorem State.modeFall_frame (s : State) (k p before : Nat) : (s.modeFall k p before).regs = s.regs ∧ (s.modeFall k p before).dram = s.dram ∧
    (s.modeFall k p before).fills = s.fills ∧ ((s.modeFall k p before).pcc k p).rb = (s.pcc k p).rb := by
  unfold State.modeFall
  dsimp only
  split
  · exact ⟨rfl, rfl, rfl, by rw [State.pcc_modPcc_same]⟩
  · exact ⟨rfl, rfl, rfl, rfl⟩

/-- The write burst of a train that goes on (R212, R261, R266). -/
theorem State.handWrite_more (s : State) (k p slot : Nat) (q : Piece) (i : Nat) (l : List Nat) (htodo : q.todo = i :: l) (hl : l ≠ [])
    (h : q.OfData) (hkind : q.kind = .write) (w : Stored)
    (hw : w = encodeAtom (dataFold (q.addr + 64 * i)) (if q.poison.getD i false then 0 else q.data.getD i 0) (q.poison.getD i false)) :
    (s.handWrite k p q i slot).atomWord k p (q.u + i) = w ∧
      ((s.handWrite k p q i slot).pcc k p).rb = (s.pcc k p).rb ++ [⟨.wr, q.bank, q.row, q.id, i, q.u + i, false, q.addr + 64 * i,
        dataFold (q.addr + 64 * i), w, q.lane, slot, false, false, 0, false, q.cls, q.label, q.arrival, q.aged⟩] ∧
      (s.handWrite k p q i slot).flag (F.pccZmapCtl_WRITTEN k p) = true := by
  have hburst : s.burstWord k p q i = w := by
    unfold State.burstWord Piece.writeData
    simp only [hkind, reduceCtorEq, if_false, or_self, true_and, s.pieceFold_ofData k p q i h, hw]
  have hbow : ∀ t : State, t.countBow k q = t := fun t => by unfold State.countBow; rw [hkind]
  obtain ⟨hword, hflag, hpcc⟩ := s.burstEffect_ofData k p q i w h
  have heq : s.handWrite k p q i slot = (State.modPiece ((s.burstEffect k p q i w).pushColumn k p q .wr i w slot) k p q.id fun x =>
      { x with todo := x.todo.filter (· != i), left := x.left.filter (· != i), beats := x.beats + 1 }).modeFall k p
        (s.pcc k p).burstWrites.length := by
    unfold State.handWrite
    simp only [hburst, hbow, hkind, q.todo_ne_of_more i l htodo hl, if_false, reduceCtorEq]
  rw [heq, State.pushColumn_more _ k p q .wr i w slot h (q.lastBurst_of_more i l htodo hl), hpcc]
  generalize s.burstEffect k p q i w = t at hword hflag
  generalize hu : State.modPiece (t.setPcc k p _) k p q.id _ = u
  obtain ⟨hregs, hdram, hfills, hrb⟩ := u.modeFall_frame k p (s.pcc k p).burstWrites.length
  generalize u.modeFall k p _ = v at hregs hdram hfills hrb
  have hreg : ∀ a, v.reg a = t.reg a := fun a => by
    unfold State.reg
    rw [hregs, ← hu]
    rfl
  refine ⟨?_, ?_, ?_⟩
  · rw [← hword]
    exact State.atomWord_congr k p _ (fun _ => hreg _) (by rw [hdram, ← hu]; rfl) (by rw [hfills, ← hu]; rfl)
  · rw [hrb, ← hu]
    unfold State.modPiece State.modPcc
    rw [State.pcc_setPcc_same, State.pcc_setPcc_same]
    rfl
  · rw [State.flag_of_reg (hreg _), hflag]

end Sys2Proof.Machine

/-! PROOFS. The warden's issue of commands, their confirmation and their read data (R22, R237, R242, R243). -/

namespace Sys2Proof.Machine

/-! ### The slot of an issue -/

theorem gapAt_le (r d slot : Nat) : gapAt r d ≤ slot ↔ r = 0 ∨ r - 1 + d ≤ slot := by
  unfold gapAt
  split
  next h => simp [h]
  next h => simp [h]

/-- The throttle holds a command back to the fourth slot after the third last (R237). -/
theorem State.throttleSlot_le (s : State) (k p slot : Nat) : s.throttleSlot k p ≤ slot ↔
    (s.throttled k = true → ∀ a e r, (s.pcc k p).recent = [a, e, r] → r + 4 ≤ slot) := by
  unfold State.throttleSlot
  cases ht : s.throttled k with
  | false => simp
  | true =>
    simp only [Bool.not_true, Bool.false_eq_true, if_false, true_implies]
    split
    next a e r hrec =>
      rw [hrec]
      exact ⟨fun h a' e' r' heq => by cases heq; exact h, fun h => h a e r rfl⟩
    next hno => exact ⟨fun _ a e r heq => absurd heq (hno a e r), fun _ => Nat.zero_le _⟩

theorem State.issueSlot_le (s : State) (k p : Nat) (kind : CmdKind) (b hand slot : Nat) (ap : Bool) : s.issueSlot k p kind b hand ap ≤ slot ↔
    hand ≤ slot ∧ (s.pcc k p).slot ≤ slot ∧ s.throttleSlot k p ≤ slot ∧ s.intervalSlot k p kind b ap ≤ slot := by
  simp only [State.issueSlot, Nat.max_le]
  grind

/-- An interval that binds only a command with auto-precharge. -/
theorem autoGap_le (ap : Bool) (r d slot : Nat) : (if ap = true then gapAt r d else 0) ≤ slot ↔ (ap = true → r = 0 ∨ r - 1 + d ≤ slot) := by
  cases ap <;> simp [gapAt_le]

/-! ### WARDEN_ISSUE -/

theorem Pcc.nextIssue_mem (c : Pcc) (m : Cmd) (h : c.nextIssue = some m) : m ∈ c.rb ∧ m.ord = 0 :=
  ⟨List.mem_of_find?_eq_some h, by simpa using List.find?_some h⟩

theorem Pcc.nextIssue_none (c : Pcc) (h : ∀ m ∈ c.rb, m.ord ≠ 0) : c.nextIssue = none :=
  List.find?_eq_none.2 fun m hm => by simpa using h m hm

theorem State.wardenIssue_run (s : State) (k p slot : Nat) (hrun : (s.pcc k p).replay = .run) : s.wardenIssue k p slot = s.runIssue k p slot :=
  if_pos hrun

theorem State.runIssue_none (s : State) (k p slot : Nat) (h : (s.pcc k p).nextIssue = none) : s.runIssue k p slot = s := by
  unfold State.runIssue
  simp only [h]

/-- The warden's count of a command that it held back. -/
def State.heldBack (s : State) (k p slot : Nat) (m : Cmd) : State :=
  if m.hand < slot then s.count (F.pccWardenHolds_COUNT k p) 1 else s

theorem State.sets_heldBack (s : State) (k p slot : Nat) (m : Cmd) : s.sets (s.heldBack k p slot m)
    [(F.pccWardenHolds_COUNT k p, (s.fget (F.pccWardenHolds_COUNT k p) + if m.hand < slot then 1 else 0) % 2 ^ 64)] := by
  unfold State.heldBack
  split
  · exact s.sets_count _ (Fld.ok_mk (by decide))
  · have hfit : s.fget (F.pccWardenHolds_COUNT k p) < 2 ^ 64 := bitsOf_lt ..
    rw [Nat.add_zero, Nat.mod_eq_of_lt hfit]
    exact s.sets_kept s [] (F.pccWardenHolds_COUNT k p) (Fld.ok_mk (by decide)) (by simp) s.sets_nil

theorem State.runIssue_some (s : State) (k p slot : Nat) (m : Cmd) (h : (s.pcc k p).nextIssue = some m) : s.runIssue k p slot =
    if slot = s.issueSlot k p m.kind m.bank m.hand m.ap then
      ((s.setPcc k p (((s.pcc k p).markIssued m).recordIssue m.kind m.bank slot m.ap)).heldBack k p slot m).afterIssue k p m
    else s := by
  unfold State.runIssue
  simp only [h]
  rfl

/-! ### Confirmations -/

/-- The command out with the lowest place is the first. -/
theorem Pcc.firstOut_eq (c : Pcc) (f : Cmd → Bool) (m : Cmd) (hm : m ∈ c.rb) (hord : m.ord ≠ 0) (hconf : m.confirmed = false) (hf : f m = true)
    (hfirst : ∀ o ∈ c.rb, o ≠ m → o.ord ≠ 0 → o.confirmed = false → f o = true → m.ord < o.ord) : c.firstOut f = some m := by
  have hmem : ∀ o, o ∈ c.rb.filter (fun m => m.ord != 0 && !m.confirmed && f m) ↔ o ∈ c.rb ∧ o.ord ≠ 0 ∧ o.confirmed = false ∧ f o = true := by
    intro o
    simp only [List.mem_filter, Bool.and_eq_true, bne_iff_ne, Bool.not_eq_true', and_assoc]
  have hin := (hmem m).2 ⟨hm, hord, hconf, hf⟩
  have hle : ∀ o ∈ c.rb.filter (fun m => m.ord != 0 && !m.confirmed && f m), m.ord ≤ o.ord := by
    intro o ho
    obtain ⟨horb, hoord, hoconf, hof⟩ := (hmem o).1 ho
    by_cases hom : o = m
    · exact Nat.le_of_eq (by rw [hom])
    · exact Nat.le_of_lt (hfirst o horb hom hoord hoconf hof)
  unfold Pcc.firstOut
  dsimp only
  generalize c.rb.filter (fun m => m.ord != 0 && !m.confirmed && f m) = l at hmem hin hle
  cases hfind : l.find? fun m => l.all fun o => decide (m.ord ≤ o.ord) with
  | none => exact absurd (List.find?_eq_none.1 hfind m hin) (by simpa using hle)
  | some o =>
    obtain ⟨horb, hoord, hoconf, hof⟩ := (hmem o).1 (List.mem_of_find?_eq_some hfind)
    have hom : o.ord ≤ m.ord := by
      have hall := List.find?_some hfind
      simp only [List.all_eq_true, decide_eq_true_eq] at hall
      exact hall m hin
    exact congrArg some (Classical.byContradiction fun hne => absurd (hfirst o horb hne hoord hoconf hof) (Nat.not_lt.2 hom))

theorem Pcc.firstOut_none (c : Pcc) (f : Cmd → Bool) (h : ∀ m ∈ c.rb, m.ord = 0 ∨ m.confirmed = true ∨ f m = false) : c.firstOut f = none := by
  have hnil : c.rb.filter (fun m => m.ord != 0 && !m.confirmed && f m) = [] := List.filter_eq_nil_iff.2 fun m hm => by
    rcases h m hm with h | h | h <;> simp [h]
  unfold Pcc.firstOut
  rw [hnil]
  rfl

theorem exec_commandConfirmed (k : Fin 8) (p : Fin 64) (s : State) (hc : (s.pcc k.val p.val).confirming = true) :
    exec (.commandConfirmed k p) s = .next (match (s.pcc k.val p.val).firstOut fun m => m.kind != .rd with
      | some m => s.setPcc k.val p.val ((s.pcc k.val p.val).confirm m)
      | none => s) := congrArg Host.Outcome.next (if_pos hc)

theorem exec_stackReadData (k : Fin 8) (p : Fin 64) (fault : Stored) (s : State) (m : Cmd) (hc : (s.pcc k.val p.val).confirming = true)
    (hm : (s.pcc k.val p.val).firstOut (fun _ => true) = some m) (hkind : m.kind = .rd) : exec (.stackReadData k p fault) s =
      .next (((s.setPcc k.val p.val ((s.pcc k.val p.val).confirm m)).faultWord k.val p.val m fault).readData k.val p.val m (m.stored ^^^ fault)) := by
  change execStackReadData k p fault s = _
  unfold execStackReadData
  simp only [hm, hkind, hc, beq_self_eq_true, Bool.and_self, if_true]

theorem exec_confirmations_halted (k : Fin 8) (p : Fin 64) (fault : Stored) (s : State) (hc : (s.pcc k.val p.val).confirming = false) :
    exec (.commandConfirmed k p) s = .next s ∧ exec (.stackReadData k p fault) s = .next s := by
  refine ⟨congrArg Host.Outcome.next (if_neg (by rw [hc]; exact Bool.false_ne_true)), ?_⟩
  change execStackReadData k p fault s = _
  unfold execStackReadData
  dsimp only
  split
  · rfl
  · rw [hc, Bool.and_false]
    rfl

/-- A fault-free word, or one that has been written since, stays in its cell. -/
theorem State.faultWord_kept (s : State) (k p : Nat) (m : Cmd) (fault : Stored) (q : Piece) (hq : (s.pcc k p).piece? m.piece = some q)
    (hraw : q.raw = false) (hmeta : m.inMeta = false) (h : fault = 0 ∨ s.atomWord k p m.u ≠ m.stored) : s.faultWord k p m fault = s := by
  refine if_pos ?_
  simpa only [hq, Option.any_some, hraw, hmeta, State.wordAt, Bool.false_eq_true, if_false] using h

/-- The read data of a request's atom is decoded, counted and delivered (R262, R69). -/
theorem State.readData_read (s : State) (k p : Nat) (m : Cmd) (w : Stored) (q : Piece) (hq : (s.pcc k p).piece? m.piece = some q)
    (hkind : q.kind = .read) (hconf : q.conf = false) (hpend : q.pend.contains m.atom = true) (hmeta : m.inMeta = false) (hlane : m.lane < 18) :
    s.readData k p m w = ((((s.modPiece k p q.id fun x => { x with pend := x.pend.filter (· != m.atom) }).countDecode k p false m.u m.addr m.lane
      true (decodeAtom m.fold w)).deliver q m.atom (decodeAtom m.fold w).data (decodeAtom m.fold w).poison).goOn k p q.id) := by
  have h18 : m.lane ≠ 18 := Nat.ne_of_lt hlane
  have h20 : (m.lane != 20) = true := by simp only [bne_iff_ne]; omega
  unfold State.readData
  simp only [hq, hpend, hkind, hconf, hmeta, h18, h20, reduceCtorEq, Bool.not_true, Bool.false_eq_true, if_false, State.take,
    decide_false, Bool.false_and]

theorem Pcc.confirming_iff (c : Pcc) : c.confirming = true ↔ c.replay = .run ∨ c.replay = .reissue := by
  simp [Pcc.confirming]

/-- Settles O44: the two paths, the slot of an issue, the issue, and the confirmations. -/
theorem commandsHandedAndIssued : Obligations.CommandsHandedAndIssued := by
  unfold Obligations.CommandsHandedAndIssued
  refine ⟨fun k p slot s => ?_, fun k p slot s => ?_, fun k p b hand slot kind ap s => ?_, fun k p slot s hrun => ?_, fun k p s => ?_,
    fun k p fault s hrun hre => exec_confirmations_halted k p fault s ?_⟩
  · intro c
    have hexec : exec (.schedulerHandover k p false slot) s = .next (s.handRow k.val p.val slot) := rfl
    refine ⟨fun h => hexec.trans (congrArg _ (s.handRow_idle k.val p.val slot h)), fun r hr hrun => ⟨fun hno => ?_, fun x hx => ?_⟩⟩
    · exact hexec.trans (congrArg _ (s.handRow_unwanted k.val p.val slot r hr hrun hno))
    · intro declined handed
      have hwant := s.handRow_wanted k.val p.val slot r hr hrun x hx
      have hdec : s.declines k.val p.val x.bank x.kind = true ↔ declined := s.declines_iff k.val p.val x.bank x.kind
      refine ⟨fun hfull => ⟨_, hexec, ?_⟩, fun hroom hd => ⟨_, hexec, ?_⟩, fun hroom hd hhint => ?_, fun hroom hd hhint => ⟨_, hexec, ?_⟩⟩
      · rw [hwant, if_pos hfull]
        exact s.sets_count (F.pccReplayFull_COUNT k.val p.val) (Fld.ok_mk (by decide))
      · exact s.handRow_declined k.val p.val slot r hr hrun x hx hroom (hdec.2 hd)
      · rw [hexec, hwant, if_neg (Nat.not_le.2 hroom), if_neg (fun h => hd (hdec.1 h)), if_neg (by rw [hhint]; exact Bool.false_ne_true)]
      · rw [hwant, if_neg (Nat.not_le.2 hroom), if_neg (fun h => hd (hdec.1 h)), if_pos hhint]
        exact State.sets_count _ (F.pccHintsAct_COUNT k.val p.val) (Fld.ok_mk (by decide))
  · intro c
    have hexec : exec (.schedulerHandover k p true slot) s = .next (s.handColumn k.val p.val slot) := rfl
    refine ⟨fun h => hexec.trans (congrArg _ (s.handColumn_idle k.val p.val slot h)), fun q i l hq htodo hrun => ?_⟩
    intro declined
    rw [hexec, s.handColumn_eq k.val p.val slot q i l hq htodo hrun]
    have hdec : s.declines k.val p.val q.bank .rd = true ↔ declined :=
      (s.declines_iff k.val p.val q.bank .rd).trans ⟨fun h => ⟨h.1, h.2.1⟩, fun h => ⟨h.1, h.2, by decide, by decide⟩⟩
    refine ⟨fun hd hyes => ?_, fun hd hno => ⟨_, rfl, ?_⟩, fun hd hfull => ⟨_, rfl, ?_⟩, fun hd hroom hreads => ?_, fun hd hroom hwrites => ?_⟩
    · rw [if_pos (hdec.2 hd), if_pos hyes]
    · rw [if_pos (hdec.2 hd), if_neg (by rw [hno]; exact Bool.false_ne_true)]
      exact s.decline_sets k.val p.val q.bank
    · rw [if_neg (fun h => hd (hdec.1 h)), if_pos hfull]
      exact s.sets_count (F.pccReplayFull_COUNT k.val p.val) (Fld.ok_mk (by decide))
    · rw [if_neg (fun h => hd (hdec.1 h)), if_neg (Nat.not_le.2 hroom), if_pos hreads]
      refine ⟨rfl, fun hkind hmeta hdest hbow hl => ?_⟩
      rw [s.handRead_more k.val p.val slot q i l htodo hl ⟨.inl hkind, hmeta, hdest⟩ hbow]
    · rw [if_neg (fun h => hd (hdec.1 h)), if_neg (Nat.not_le.2 hroom), if_neg (by rw [hwrites]; exact Bool.false_ne_true)]
      refine ⟨rfl, fun hkind hmeta hdest hl => ⟨_, rfl, ?_⟩⟩
      exact s.handWrite_more k.val p.val slot q i l htodo hl ⟨.inr hkind, hmeta, hdest⟩ hkind _ rfl
  · intro c x t past
    rw [s.issueSlot_le, s.throttleSlot_le]
    refine and_congr Iff.rfl (and_congr Iff.rfl (and_congr Iff.rfl ?_))
    cases kind <;> simp only [State.intervalSlot, Nat.max_le, gapAt_le, autoGap_le, past, and_assoc] <;> exact Iff.rfl
  · intro c
    have hexec : exec (.wardenIssue k p slot) s = .next (s.runIssue k.val p.val slot) :=
      congrArg Host.Outcome.next (s.wardenIssue_run k.val p.val slot hrun)
    refine ⟨fun hno => hexec.trans (congrArg _ (s.runIssue_none k.val p.val slot (c.nextIssue_none hno))), fun m hm => ?_⟩
    obtain ⟨hin, hord⟩ := c.nextIssue_mem m hm
    rw [hexec, s.runIssue_some k.val p.val slot m hm]
    refine ⟨hin, hord, fun hslot => ⟨_, ?_, State.sets_heldBack _ k.val p.val slot m⟩, fun hslot => by rw [if_neg hslot]⟩
    rw [if_pos hslot]
  · intro c hc
    have hconf : c.confirming = true := c.confirming_iff.2 hc
    refine ⟨⟨fun m hm hord hun hkind hfirst => ?_, fun hnone => ?_⟩, fun m hm hord hun hkind hfirst fault => ?_⟩
    · have hout : c.firstOut (fun m => m.kind != .rd) = some m := c.firstOut_eq _ m hm hord hun (by simpa using hkind)
        fun o ho hne hoord hoconf hof => hfirst o ho hne hoord hoconf (by simpa using hof)
      rw [exec_commandConfirmed k p s hconf, hout]
    · have hout : c.firstOut (fun m => m.kind != .rd) = none := c.firstOut_none _ fun m hm =>
        (hnone m hm).imp_right (Or.imp_right fun h => by simp [h])
      rw [exec_commandConfirmed k p s hconf, hout]
    · intro u
      have hout : c.firstOut (fun _ => true) = some m := c.firstOut_eq _ m hm hord hun rfl fun o ho hne hoord hoconf _ =>
        hfirst o ho hne hoord hoconf
      have hexec := exec_stackReadData k p fault s m hconf hout hkind
      refine ⟨hexec, fun q hq hread hqconf hpend hmeta hlane hfault => ?_⟩
      intro d v
      have hupcc : u.pcc k.val p.val = c.confirm m := s.pcc_setPcc_same _ _ _
      have hraw : q.raw = false := by unfold Piece.raw; rw [hread]; rfl
      rw [hexec, u.faultWord_kept k.val p.val m fault q (by rw [hupcc]; exact hq) hraw hmeta hfault,
        u.readData_read k.val p.val m _ q (by rw [hupcc]; exact hq) hread hqconf hpend hmeta hlane]
  · rw [← Bool.not_eq_true, Pcc.confirming_iff]
    exact fun h => h.elim hrun hre

end Sys2Proof.Machine

/-! PROOFS. The moments of a PC controller: hazards, timers, refresh, hints, merges (R202, R205, R211, R215, R221, R234, R267). -/

namespace Sys2Proof.Machine

/-! ### HAZARD_CLEAR, MERGE_READ_DONE and the timers -/

theorem State.released_spec (s : State) (k p : Nat) (q : Piece) (h : s.released k p = some q) :
    q ∈ (s.pcc k p).buf ∧ q.st = .held ∧ q.hold = false ∧ (s.pcc k p).hazard q = false := by
  refine ⟨List.mem_of_find?_eq_some h, ?_⟩
  have hq := List.find?_some h
  simpa only [Bool.and_eq_true, beq_iff_eq, Bool.not_eq_true', and_assoc] using hq

theorem State.released_none (s : State) (k p : Nat) (h : ∀ q ∈ (s.pcc k p).buf, q.st = .held → q.hold = true ∨ (s.pcc k p).hazard q = true) :
    s.released k p = none := by
  refine List.find?_eq_none.2 fun q hq hyes => ?_
  simp only [Bool.and_eq_true, beq_iff_eq, Bool.not_eq_true'] at hyes
  obtain ⟨⟨hst, hhold⟩, hhaz⟩ := hyes
  rcases h q hq hst with h | h
  · rw [hhold] at h; cases h
  · rw [hhaz] at h; cases h

theorem exec_hazardClear (k : Fin 8) (p : Fin 64) (s : State) : exec (.hazardClear k p) s =
    .next (match s.released k.val p.val with | some q => s.evaluate k.val p.val q | none => s) := by
  change execHazardClear k p s = _
  unfold execHazardClear
  cases hr : s.released k.val p.val <;> rfl

theorem Pcc.mergeReady_spec (c : Pcc) (m : Merge) (h : c.mergeReady = some m) : m ∈ c.merges ∧ m.st = .reading := by
  have hm := List.find?_some h
  simp only [Bool.and_eq_true, beq_iff_eq] at hm
  exact ⟨List.mem_of_find?_eq_some h, hm.1⟩

theorem Pcc.mergeReady_none (c : Pcc) (h : ∀ m ∈ c.merges, m.st ≠ .reading ∨ m.old = none) : c.mergeReady = none :=
  List.find?_eq_none.2 fun m hm hyes => by
    simp only [Bool.and_eq_true, beq_iff_eq] at hyes
    rcases h m hm with h | h
    · exact h hyes.1
    · simp [h] at hyes

theorem exec_pageTimerExpiry (k : Fin 8) (p b : Fin 64) (s : State) : exec (.pageTimerExpiry k p b) s =
    let x := (s.pcc k.val p.val).bank b.val
    let wait := if x.hint = 1 then s.fget (F.pccPageCfg_KEEP_TO k.val p.val) else s.fget (F.pccPageCfg_IDLE_TO k.val p.val)
    if x.st = .openIdle ∧ ¬ (x.hint = 1 ∧ wait = 0) then
      match s.atCadence (x.idleAt + wait) with
      | some s => .next (s.modPcc k.val p.val fun c => c.modBank b.val fun y => { y with expired := true })
      | none => .next s
    else .next s := rfl

theorem exec_writeModeAge (k : Fin 8) (p : Fin 64) (s : State) (q : Piece) (hq : (s.pcc k.val p.val).burstWrites.head? = some q) :
    exec (.writeModeAge k p) s = if s.fget (F.pccRqCfg_WR_AGE k.val p.val) = 0 then .next s
      else match s.atCadence (q.since + s.fget (F.pccRqCfg_WR_AGE k.val p.val)) with
        | some s => .next (s.modPcc k.val p.val fun c => { c with writeMode := true })
        | none => .next s := by
  have hold : (s.pcc k.val p.val).oldestBurst = some q := hq
  change execWriteModeAge k p s = _
  unfold execWriteModeAge
  simp only [hold] <;> rfl

theorem exec_writeModeAge_none (k : Fin 8) (p : Fin 64) (s : State) (h : (s.pcc k.val p.val).burstWrites = []) :
    exec (.writeModeAge k p) s = .next s := by
  have hold : (s.pcc k.val p.val).oldestBurst = none := congrArg List.head? h
  change execWriteModeAge k p s = _
  unfold execWriteModeAge
  simp only [hold]

/-! ### REFRESH_DUE -/

/-- The bank's engine and its PCC's clock once a refresh has fallen due (R234). -/
def State.dueBank (s : State) (k p b : Nat) : State :=
  s.setPcc k p { (s.pcc k p).setBank b { (s.pcc k p).bank b with
    owed := ((s.pcc k p).bank b).owed + 1, due := some (s.bankDue k p b + s.tset k F.phyTsetRef_TREFI / s.refMult k) } with
      clock := max (s.pcc k p).clock (s.bankDue k p b) }

theorem State.refreshDue_eq (s : State) (k p b : Nat) : s.refreshDue k p b =
    ((if s.ppl k < ((s.pcc k p).bank b).owed + 1 then (s.dueBank k p b).countSat (F.pccRefStatus_REF_LATE k p) 1 else s.dueBank k p b).fset
      (F.pccRefStatus_OWED_MAX k p)
      (max ((if s.ppl k < ((s.pcc k p).bank b).owed + 1 then (s.dueBank k p b).countSat (F.pccRefStatus_REF_LATE k p) 1
        else s.dueBank k p b).fget (F.pccRefStatus_OWED_MAX k p)) (min 15 (((s.pcc k p).bank b).owed + 1)))) := rfl

/-- A count that saturates is taken where `c` holds. -/
theorem State.sets_countSat_if (s : State) (c : Prop) [Decidable c] (f : Fld) (hf : f.Ok) :
    s.sets (if c then s.countSat f 1 else s) [(f, if c then s.topped f 1 else s.fget f)] := by
  split
  · exact s.sets_countSat s [] f hf (by simp) s.sets_nil
  · exact s.sets_kept s [] f hf (by simp) s.sets_nil

/-- Two fields of a list, the other way round. -/
theorem State.sets_swap (s t : State) (e f : Fld × Nat) (h : s.sets t [e, f]) : s.sets t [f, e] :=
  State.sets_perm _ _ _ _ (fun x => by simp only [List.mem_cons, List.not_mem_nil, or_false]; exact or_comm) h

theorem State.refreshDue_spec (s : State) (k p b : Nat) : (s.dueBank k p b).sets (s.refreshDue k p b)
    [(F.pccRefStatus_REF_LATE k p, if s.ppl k < ((s.pcc k p).bank b).owed + 1 then s.topped (F.pccRefStatus_REF_LATE k p) 1
        else s.fget (F.pccRefStatus_REF_LATE k p)),
     (F.pccRefStatus_OWED_MAX k p, max (s.fget (F.pccRefStatus_OWED_MAX k p)) (min 15 (((s.pcc k p).bank b).owed + 1)))] := by
  have hlate := (s.dueBank k p b).sets_countSat_if (s.ppl k < ((s.pcc k p).bank b).owed + 1) (F.pccRefStatus_REF_LATE k p) (Fld.ok_mk (by decide))
  have happ : (F.pccRefStatus_REF_LATE k p).Apart (F.pccRefStatus_OWED_MAX k p) := .inr (.inl (by decide : 7 < 32))
  rw [s.refreshDue_eq]
  generalize (if s.ppl k < ((s.pcc k p).bank b).owed + 1 then (s.dueBank k p b).countSat (F.pccRefStatus_REF_LATE k p) 1
    else s.dueBank k p b) = t at hlate ⊢
  have hmax : t.fget (F.pccRefStatus_OWED_MAX k p) = s.fget (F.pccRefStatus_OWED_MAX k p) :=
    hlate.2.2 (F.pccRefStatus_OWED_MAX k p) (Fld.ok_mk (by decide)) (by simpa using happ)
  have hfit : s.fget (F.pccRefStatus_OWED_MAX k p) < 16 := bitsOf_lt ..
  refine State.sets_swap _ _ _ _ (State.sets_fset _ _ _ (F.pccRefStatus_OWED_MAX k p) _ _ (Fld.ok_mk (by decide)) ?_ ?_ hlate)
  · rw [hmax]
    exact Nat.mod_eq_of_lt (show _ < 16 by omega)
  · simpa using happ.symm

theorem State.dueFirst_iff (s : State) (k p b : Nat) : s.dueFirst k p b = true ↔ ∀ i < 16 * s.build.H, s.bankDue k p b ≤ s.bankDue k p i := by
  simp [State.dueFirst]

/-! ### Hints and the predictor -/

theorem State.sets_predWrite (s : State) (k p : Nat) (en : Bool) : (s.setPcc k p { s.pcc k p with pred := [] }).sets (s.predWrite k p en)
    [(F.pccZmapCtl_PRED_EN k p, if en then 1 else 0)] := by
  have hset : s.sets (s.fset (F.pccZmapCtl_PRED_EN k p) (bit en)) [(F.pccZmapCtl_PRED_EN k p, bit en)] :=
    s.sets_fset_alone _ _ (Fld.ok_mk (by decide)) (bit_lt en)
  rw [show (if en then 1 else 0) = bit en by cases en <;> rfl]
  exact State.sets_congr s _ (s.setPcc k p { s.pcc k p with pred := [] }) _ _ hset rfl rfl

/-- Settles O45: each command by its cases. -/
theorem pccMoments : Obligations.PccMoments := by
  unfold Obligations.PccMoments
  refine ⟨fun k p s => ⟨fun q hq => ?_, fun hno => ?_⟩, fun k p b s => ?_, fun k p s => ?_, fun k p b s hon hk hb => ?_, fun k p b s h => ?_,
    fun a s hin => ?_, fun a s hout => ?_, fun k p s => ⟨fun m d bad hm hold => ?_, fun hno => ?_⟩, fun k p en s hready hk => ?_⟩
  · obtain ⟨hmem, hst, hhold, hhaz⟩ := s.released_spec k.val p.val q hq
    exact ⟨hmem, hst, hhold, hhaz, by rw [exec_hazardClear, hq]⟩
  · rw [exec_hazardClear, s.released_none k.val p.val hno]
  · intro x wait
    rw [exec_pageTimerExpiry]
    refine ⟨fun hst hhint hreach => ?_, fun h => ?_⟩
    · refine (if_pos ⟨hst, fun hno => hhint.elim (fun hh => hh hno.1) (fun hw => hw hno.2)⟩).trans ?_
      rw [s.atCadence_reaches _ hreach]
      rfl
    · exact if_neg fun hno => h.elim (fun hst => hst hno.1) (fun hw => hno.2 hw)
  · intro age
    refine ⟨fun q hq hage hreach => ?_, fun h => ?_⟩
    · rw [exec_writeModeAge k p s q hq, if_neg hage, s.atCadence_reaches _ hreach]
      rfl
    · cases hhead : (s.pcc k.val p.val).burstWrites.head? with
      | none => exact exec_writeModeAge_none k p s (List.head?_eq_none_iff.1 hhead)
      | some q =>
        have hage : age = 0 := h.resolve_right fun hnil => by rw [hnil] at hhead; cases hhead
        rw [exec_writeModeAge k p s q hhead, if_pos hage]
  · intro x due
    have hexec : exec (.refreshDue k p b) s = .next (if s.dueFirst k.val p.val b.val then s.refreshDue k.val p.val b.val else s) := by
      change execRefreshDue k p b s = _
      unfold execRefreshDue
      simp only [hon, hk, hb, decide_true, Bool.true_and]
    refine ⟨fun hnone => ?_, fun ⟨i, hi, hlt⟩ => ?_, fun hall => ⟨_, hexec.trans (by rw [if_pos ((s.dueFirst_iff _ _ _).2 hall)]), ?_⟩⟩
    · change (((s.pcc k.val p.val).bank b.val).due).getD _ = _
      rw [show ((s.pcc k.val p.val).bank b.val).due = none from hnone]
      rfl
    · rw [hexec, if_neg fun hfirst => absurd ((s.dueFirst_iff _ _ _).1 hfirst i hi) (Nat.not_le.2 hlt)]
    · exact s.refreshDue_spec k.val p.val b.val
  · refine congrArg Host.Outcome.next (if_neg fun hyes => ?_)
    simp only [Bool.and_eq_true, decide_eq_true_eq] at hyes
    obtain ⟨⟨⟨hon, hk⟩, hb⟩, -⟩ := hyes
    rcases h with h | h | h
    · rw [hon] at h; cases h
    · omega
    · omega
  · intro l p
    have hexec : exec (.activateHint a) s = .next (s.activateHint a.toNat) := rfl
    have hgo : s.activateHint a.toNat = if s.fget (F.pcmapEntry_STATE l.stack l.lpc) = 0 ∧ (s.pcc l.stack p).hints.length < 8 ∧
        s.hintOk l.stack p l.lin then s.setPcc l.stack p { s.pcc l.stack p with hints := (s.pcc l.stack p).hints ++ [(l.lin, l.row)] }
        else s.count (F.pccHintsDrop_COUNT l.stack p) 1 := if_neg (by rw [hin]; decide)
    refine ⟨fun hst hroom hok => ?_, fun hno => ⟨_, hexec, ?_⟩⟩
    · rw [hexec, hgo, if_pos ⟨hst, hroom, hok⟩]
    · rw [hgo, if_neg]
      · exact s.sets_count (F.pccHintsDrop_COUNT l.stack p) (Fld.ok_mk (by decide))
      · rintro ⟨hst, hroom, hok⟩
        rcases hno with h | h | h
        · exact h hst
        · omega
        · rw [hok] at h; cases h
  · exact congrArg Host.Outcome.next (if_pos (by rw [hout]; rfl))
  · obtain ⟨hmem, hst⟩ := Pcc.mergeReady_spec _ m hm
    refine ⟨hmem, hst, ?_⟩
    change execMergeReadDone k p s = _
    unfold execMergeReadDone
    simp only [hm, hold, Option.getD_some]
  · change execMergeReadDone k p s = _
    unfold execMergeReadDone
    simp only [Pcc.mergeReady_none _ hno]
  · exact ⟨_, s.cpStk_ready k _ (fun u => u.predWrite k.val p.val en) hready hk, s.cpOk.sets_predWrite k.val p.val en⟩

end Sys2Proof.Machine

/-! PROOFS. The zero map: its operations, passes, fills and write-backs (R212, R213, R216 to R218). -/

namespace Sys2Proof.Machine

/-! ### The operations (Table 7.4) -/

theorem State.sets_zmRefuse (s : State) (k p : Nat) : s.sets (s.zmRefuse k p) [(F.pccZmapStatus_REFUSED k p, 1)] :=
  s.sets_raise_alone _ (Fld.ok_mk (by decide))

theorem State.sets_setZm (s : State) (k p v : Nat) (hv : v < 4) : s.sets (s.setZm k p v) [(F.pccZmapCtl_STATE k p, v)] :=
  s.sets_fset_alone _ _ (Fld.ok_mk (by decide)) hv

theorem State.setPcc_frame (s : State) (k p : Nat) (c : Pcc) : s.setPcc k p c = { s with pccs := (s.setPcc k p c).pccs } := rfl

/-! ### Write-backs -/

/-- The lines after those that `f` names have gone to write-back. -/
def writtenBack (f : Nat → Bool) (l : List ZLine) : List ZLine := l.map fun z => if f z.line then { z with st := .writeback } else z

theorem writtenBack_writtenBack (f g : Nat → Bool) (l : List ZLine) : writtenBack g (writtenBack f l) = writtenBack (fun n => f n || g n) l := by
  unfold writtenBack
  rw [List.map_map]
  refine List.map_congr_left fun z _ => ?_
  simp only [Function.comp_apply]
  by_cases hf : f z.line = true <;> by_cases hg : g z.line = true <;> simp [hf, hg]

theorem Pcc.mem_insertOwn (c : Pcc) (q o : Piece) : o ∈ (c.insertOwn q).buf ↔ o = { q with slot := c.freeTurn } ∨ o ∈ c.buf := by
  simp only [Pcc.insertOwn, Pcc.insertPiece, List.mem_append, List.mem_filter, List.mem_cons, decide_eq_true_eq]
  constructor
  · rintro (⟨h, -⟩ | h | ⟨h, -⟩)
    · exact .inr h
    · exact .inl h
    · exact .inr h
  · rintro (h | h)
    · exact .inr (.inl h)
    · rcases Nat.lt_or_ge o.id q.id with hlt | hge
      · exact .inl ⟨h, hlt⟩
      · exact .inr (.inr ⟨h, hge⟩)

theorem Pcc.lines_insertOwn (c : Pcc) (q : Piece) : (c.insertOwn q).lines = c.lines := rfl

theorem Pcc.writesLine_iff (c : Pcc) (l : Nat) : c.writesLine l = true ↔ ∃ q ∈ c.buf, q.kind = .lineWrite ∧ q.u = l := by
  simp [Pcc.writesLine]

/-- A piece of the PCC's own as it takes its place (R218, R401). -/
def State.ownPlaced (s : State) (k : Nat) (q : Piece) : Piece :=
  { q with id := s.nextPiece, since := s.cadence, hold := q.isWrite && s.windowClosed k, holdAt := s.cadence
           st := if q.isWrite && s.windowClosed k then .held else q.st }

theorem State.pcc_pushOwn (s : State) (k p : Nat) (q : Piece) : (s.pushOwn k p q).pcc k p = (s.pcc k p).insertOwn (s.ownPlaced k q) :=
  s.pcc_setPcc_same k p _

/-- The lines of a PCC whose line `l` goes to write-back. -/
def Pcc.lineBack (c : Pcc) (l : Nat) : Pcc := { c with lines := c.lines.map fun z => if z.line = l then { z with st := .writeback } else z }

theorem Pcc.lines_lineBack (c : Pcc) (l : Nat) : (c.lineBack l).lines = writtenBack (fun n => decide (n = l)) c.lines :=
  List.map_congr_left fun z _ => by by_cases h : z.line = l <;> simp [h]

theorem State.startWriteback_eq (s : State) (k p l : Nat) : s.startWriteback k p l =
    if (s.pcc k p).writesLine l then s.setPcc k p ((s.pcc k p).lineBack l)
    else (s.setPcc k p ((s.pcc k p).lineBack l)).pushOwn k p ((Piece.own k p .lineWrite).atMeta s.build l) := by
  have hpcc : (s.modPcc k p fun c => c.lineBack l).pcc k p = (s.pcc k p).lineBack l := s.pcc_modPcc_same k p _
  have hwrites : ((s.pcc k p).lineBack l).writesLine l = (s.pcc k p).writesLine l := rfl
  change (if ((s.modPcc k p fun c => c.lineBack l).pcc k p).writesLine l then _ else _) = _
  rw [hpcc, hwrites]
  rfl

/-- The PCC's record once the write-back of line `l` has begun. -/
theorem State.startWriteback_spec (s : State) (k p l : Nat) :
    ((s.startWriteback k p l).pcc k p).lines = writtenBack (fun n => decide (n = l)) (s.pcc k p).lines ∧
      ((s.startWriteback k p l).pcc k p).writesLine l = true ∧
      (∀ n, (s.pcc k p).writesLine n = true → ((s.startWriteback k p l).pcc k p).writesLine n = true) ∧
      s.startWriteback k p l = { s with pccs := (s.startWriteback k p l).pccs, nextPiece := (s.startWriteback k p l).nextPiece } := by
  rw [s.startWriteback_eq]
  by_cases hw : (s.pcc k p).writesLine l = true
  · rw [if_pos hw, State.pcc_setPcc_same]
    exact ⟨Pcc.lines_lineBack _ l, hw, fun n hn => hn, rfl⟩
  · rw [if_neg hw, State.pcc_pushOwn, State.pcc_setPcc_same, Pcc.lines_insertOwn]
    refine ⟨Pcc.lines_lineBack _ l, ?_, fun n hn => ?_, rfl⟩
    · exact (Pcc.writesLine_iff _ l).2 ⟨_, (Pcc.mem_insertOwn _ _ _).2 (.inl rfl), rfl, rfl⟩
    · obtain ⟨q, hq, hkind, hu⟩ := (Pcc.writesLine_iff _ n).1 hn
      exact (Pcc.writesLine_iff _ n).2 ⟨q, (Pcc.mem_insertOwn _ _ _).2 (.inr hq), hkind, hu⟩

/-- The write-backs of a list of lines begin. -/
theorem State.startWritebacks_spec (s : State) (k p : Nat) (ls : List Nat) :
    ((s.forEach ls fun s l => s.startWriteback k p l).pcc k p).lines = writtenBack (fun n => ls.contains n) (s.pcc k p).lines ∧
      (∀ n, n ∈ ls ∨ (s.pcc k p).writesLine n = true → ((s.forEach ls fun s l => s.startWriteback k p l).pcc k p).writesLine n = true) ∧
      (s.forEach ls fun s l => s.startWriteback k p l) = { s with
        pccs := (s.forEach ls fun s l => s.startWriteback k p l).pccs
        nextPiece := (s.forEach ls fun s l => s.startWriteback k p l).nextPiece } := by
  induction ls generalizing s with
  | nil =>
    refine ⟨?_, fun n hn => hn.resolve_left (by simp), rfl⟩
    have hid : (fun z : ZLine => if List.contains ([] : List Nat) z.line then ({ z with st := .writeback } : ZLine) else z) = id := by
      funext z
      rfl
    exact (List.map_id _).symm.trans (congrArg (fun f => List.map f (s.pcc k p).lines) hid.symm)
  | cons l ls ih =>
    obtain ⟨hlines, hwrites, hframe⟩ := ih (s.startWriteback k p l)
    obtain ⟨hlines', hnow, hkept, hframe'⟩ := s.startWriteback_spec k p l
    change ((State.forEach (s.startWriteback k p l) ls fun s l => s.startWriteback k p l).pcc k p).lines = _ ∧ _
    refine ⟨?_, fun n hn => ?_, ?_⟩
    · rw [hlines, hlines', writtenBack_writtenBack]
      refine congrArg (fun f => writtenBack f _) (funext fun n => ?_)
      rw [List.contains_cons]
      rfl
    · refine hwrites n ?_
      rcases hn with hn | hn
      · rcases List.mem_cons.1 hn with rfl | hn
        · exact .inr hnow
        · exact .inl hn
      · exact .inr (hkept n hn)
    · change (State.forEach (s.startWriteback k p l) ls fun s l => s.startWriteback k p l) = { s with
        pccs := (State.forEach (s.startWriteback k p l) ls fun s l => s.startWriteback k p l).pccs
        nextPiece := (State.forEach (s.startWriteback k p l) ls fun s l => s.startWriteback k p l).nextPiece }
      generalize (State.forEach (s.startWriteback k p l) ls fun s l => s.startWriteback k p l) = t at hframe
      rw [hframe, hframe']

/-- A line is DIRTY in the cache. -/
def dirtyIn (lines : List ZLine) (l : Nat) : Bool := lines.any fun y => y.st == .dirty && y.line == l

/-- FLUSH (Table 7.4): every line whose number a DIRTY line has goes to write-back. -/
theorem State.zmFlush_spec (s : State) (k p : Nat) :
    ((s.zmFlush k p).pcc k p).lines = writtenBack (dirtyIn (s.pcc k p).lines) (s.pcc k p).lines ∧
      ((s.zmFlush k p).pcc k p).zflush = (writtenBack (dirtyIn (s.pcc k p).lines) (s.pcc k p).lines).any (fun z => z.st == .writeback) ∧
      (∀ z ∈ (s.pcc k p).lines, z.st = .dirty → ((s.zmFlush k p).pcc k p).writesLine z.line = true) ∧
      s.zmFlush k p = { s with pccs := (s.zmFlush k p).pccs, nextPiece := (s.zmFlush k p).nextPiece } := by
  obtain ⟨hlines, hwrites, hframe⟩ := s.startWritebacks_spec k p (((s.pcc k p).lines.filter fun z => z.st == .dirty).map (·.line))
  have hdirty : (fun n => (((s.pcc k p).lines.filter fun z => z.st == .dirty).map (·.line)).contains n) = dirtyIn (s.pcc k p).lines := by
    funext n
    rw [Bool.eq_iff_iff]
    simp [dirtyIn, and_assoc]
  have heq : s.zmFlush k p = (s.forEach (((s.pcc k p).lines.filter fun z => z.st == .dirty).map (·.line)) fun s l =>
    s.startWriteback k p l).modPcc k p fun c => { c with zflush := c.lines.any fun z => z.st == .writeback } := rfl
  rw [heq]
  rw [hdirty] at hlines
  have hmem : ∀ z ∈ (s.pcc k p).lines, z.st = .dirty → z.line ∈ ((s.pcc k p).lines.filter fun z => z.st == .dirty).map (·.line) :=
    fun z hz hst => List.mem_map.2 ⟨z, List.mem_filter.2 ⟨hz, by simp [hst]⟩, rfl⟩
  generalize (s.forEach (((s.pcc k p).lines.filter fun z => z.st == .dirty).map (·.line)) fun s l => s.startWriteback k p l) = t
    at hlines hwrites hframe ⊢
  rw [State.pcc_modPcc_same]
  refine ⟨hlines, by rw [hlines], fun z hz hst => hwrites z.line (.inl (hmem z hz hst)), ?_⟩
  rw [hframe]
  rfl

/-! ### The passes -/

theorem State.passGoes_iff (s : State) (k p : Nat) : s.passGoes k p = true ↔ s.flag (F.thmStk_WINDOW_CLOSED k) = false ∧ s.pccCapo k p = false ∧
    (∀ q ∈ (s.pcc k p).buf, q.kind ≠ .fill ∧ q.kind ≠ .lineWrite) ∧ ∀ z ∈ (s.pcc k p).lines, z.st ≠ .filling := by
  simp only [State.passGoes, State.windowClosed, Bool.and_eq_true, Bool.not_eq_true', List.all_eq_true, bne_iff_ne, and_assoc]

theorem exec_zmapClearDone_waits (k : Fin 8) (p : Fin 64) (s : State)
    (h : ¬ s.passGoes k.val p.val = true ∨ s.fget (F.pccZmapCtl_STATE k.val p.val) ≠ 2) : exec (.zmapClearDone k p) s = .next s := by
  refine if_neg fun hyes => ?_
  simp only [Bool.and_eq_true, decide_eq_true_eq] at hyes
  exact h.elim (fun hn => hn hyes.2) (fun hn => hn hyes.1)

theorem exec_zmapClearDone (k : Fin 8) (p : Fin 64) (s : State) (hgo : s.passGoes k.val p.val = true)
    (hst : s.fget (F.pccZmapCtl_STATE k.val p.val) = 2) : exec (.zmapClearDone k p) s = .next (match s.migClearing k.val p.val with
      | some m => ((s.clearMap k.val p.val m.lpc).setZm k.val p.val 1).migHold k.val m
      | none => (s.clearMap k.val p.val (s.metaLpc k.val p.val)).setZm k.val p.val 1) := by
  have hzm : s.zmState k.val p.val = zmClearing := hst
  change execZmapClearDone k p s = _
  unfold execZmapClearDone
  simp only [hzm, hgo, decide_true, Bool.and_self, if_true]
  cases s.migClearing k.val p.val <;> rfl

theorem exec_zmapDisableDone (k : Fin 8) (p : Fin 64) (s : State) : exec (.zmapDisableDone k p) s =
    .next (if s.zmState k.val p.val = zmDisabling && s.passGoes k.val p.val then s.zmDisableDone k.val p.val else s) := rfl

theorem State.lines_clearMap (s : State) (k p l : Nat) : ((s.clearMap k p l).pcc k p).lines = [] := by
  unfold State.clearMap
  rw [State.pcc_modPcc_same]

theorem SMap.get?_filter_none {α : Type} (m : SMap α) (f : Nat × α → Bool) (i : Nat) (h : ∀ e ∈ m, e.1 = i → f e = false) :
    SMap.get? (m.filter f) i = none := by
  induction m with
  | nil => rfl
  | cons e m ih =>
    obtain ⟨hhead, htail⟩ := List.forall_mem_cons.1 h
    rw [List.filter_cons]
    split
    next hf =>
      rw [SMap.get?_cons, if_neg fun he => by rw [hhead he] at hf; cases hf]
      exact ih htail
    next => exact ih htail

/-- Every map word of a cleared map codes zeros (R212). -/
theorem State.cell_clearMap (s : State) (k p lpc l : Nat) (hp : p < 64) (hlo : 16 ≤ l) (hhi : l < lastBase) :
    (s.clearMap k p lpc).cell k p true l = encodeAtom (metaFold k lpc l) 0 false := by
  have hbase : lastBase = 2 ^ 24 := rfl
  have hkey : ∀ i, cellKey k p true i = (2 * pcIx k p + 1) * 2 ^ 25 + i := fun i => by
    unfold cellKey
    rw [bit_true]
    omega
  have hnone : SMap.get? (s.clearMap k p lpc).dram (cellKey k p true l) = none := by
    refine SMap.get?_filter_none _ _ _ fun e _ he => ?_
    rw [decide_eq_false_iff_not, he, hkey, hkey, hkey]
    omega
  have hfill : SMap.get (s.clearMap k p lpc).fills none (pcIx k p) = some lpc := SMap.get_put_same _ _ _ _
  have hpc : cellKey k p true l / 2 ^ 26 = pcIx k p := by rw [hkey]; omega
  have hstack : pcIx k p / 64 = k := by unfold pcIx; omega
  have hmeta : cellKey k p true l / 2 ^ 25 % 2 = 1 := by rw [hkey]; omega
  have hmod : cellKey k p true l % 2 ^ 25 = l := by rw [hkey]; omega
  unfold State.cell State.unlisted State.unlistedAt SMap.get
  rw [hnone, Option.getD_none]
  change unlistedWord (SMap.get (s.clearMap k p lpc).fills none (cellKey k p true l / 2 ^ 26)) _ = _
  rw [hpc, hfill]
  unfold unlistedWord
  simp only [hmod, hmeta, hpc, hstack, if_neg (Nat.not_le.2 hhi), if_true, if_pos hlo]

theorem State.fget_setZm (s : State) (k p v : Nat) (hv : v < 4) : (s.setZm k p v).fget (F.pccZmapCtl_STATE k p) = v :=
  (State.fget_fset_same s (F.pccZmapCtl_STATE k p) v (Fld.ok_mk (by decide))).trans (Nat.mod_eq_of_lt hv)

theorem State.pcc_setZm (s : State) (k p v : Nat) : (s.setZm k p v).pcc k p = s.pcc k p := rfl

theorem State.cell_setZm (s : State) (k p v : Nat) (m : Bool) (i : Nat) : (s.setZm k p v).cell k p m i = s.cell k p m i := rfl

/-! ### The ends of write-backs and fills -/

theorem Pcc.line_spec (c : Pcc) (l : Nat) (z : ZLine) (h : c.line l = some z) : z.line = l := by simpa using List.find?_some h

/-- Nothing at the PCC waits for a line or for a map update. -/
def Pcc.idle (c : Pcc) : Prop := ∀ q ∈ c.buf, q.zpend = [] ∧ q.conf = false

theorem State.zRetry_idle (s : State) (k p : Nat) (h : (s.pcc k p).idle) : s.zRetry k p = s := by
  refine s.forEach_same _ _ fun id _ => ?_
  split
  · rfl
  next q hq =>
    obtain ⟨hz, hc⟩ := h q (List.mem_of_find?_eq_some hq)
    rw [if_neg (by simp [hz]), if_neg (by simp [hc])]

theorem find?_map_line (ls : List ZLine) (f : ZLine → ZLine) (l : Nat) (hf : ∀ z, (f z).line = z.line) :
    (ls.map f).find? (fun z => z.line == l) = (ls.find? fun z => z.line == l).map f := by
  rw [List.find?_map]
  refine congrArg (fun g => (List.find? g ls).map f) (funext fun z => ?_)
  simp [hf]

/-- The line that is replaced stands in its place. -/
theorem Pcc.line_setLine (c : Pcc) (l : Nat) (z y : ZLine) (h : c.line l = some z) (hy : y.line = l) : (c.setLine y).line l = some y := by
  have hz := c.line_spec l z h
  unfold Pcc.line Pcc.setLine at *
  rw [find?_map_line _ _ _ (fun x => by split <;> simp_all), h, Option.map_some, if_pos (by rw [hz, hy])]

theorem Pcc.line_writtenBack (c : Pcc) (l : Nat) (z : ZLine) (h : c.line l = some z) :
    (writtenBack (fun n => decide (n = l)) c.lines).find? (fun z => z.line == l) = some { z with st := .writeback } := by
  have hz := c.line_spec l z h
  unfold Pcc.line at h
  unfold writtenBack
  rw [find?_map_line _ _ _ (fun x => by split <;> rfl), h, Option.map_some, if_pos (by simp [hz])]

/-- State `t` is `s` with other registers. -/
def State.RegsOnly (s t : State) : Prop := t = { s with regs := t.regs }

theorem State.RegsOnly.refl (s : State) : s.RegsOnly s := rfl

theorem State.RegsOnly.pcc {s t : State} (h : s.RegsOnly t) (k p : Nat) : t.pcc k p = s.pcc k p := by
  rw [show t = { s with regs := t.regs } from h]
  rfl

theorem State.RegsOnly.cadence {s t : State} (h : s.RegsOnly t) : t.cadence = s.cadence := by
  rw [show t = { s with regs := t.regs } from h]

theorem State.RegsOnly.fset {s t : State} (h : s.RegsOnly t) (f : Fld) (v : Nat) : s.RegsOnly (t.fset f v) := State.regsOnly_trans h rfl

theorem State.RegsOnly.count {s t : State} (h : s.RegsOnly t) (f : Fld) (n : Nat) : s.RegsOnly (t.count f n) := h.fset f _

theorem State.RegsOnly.countSat {s t : State} (h : s.RegsOnly t) (f : Fld) (n : Nat) : s.RegsOnly (t.countSat f n) := h.fset f _

theorem State.RegsOnly.ite {s t u : State} (c : Prop) [Decidable c] (ht : s.RegsOnly t) (hu : s.RegsOnly u) : s.RegsOnly (if c then t else u) := by
  split <;> assumption

theorem State.RegsOnly.setReg {s t : State} (h : s.RegsOnly t) (a : Nat) (v : Word) : s.RegsOnly (t.setReg a v) := State.regsOnly_trans h rfl

theorem State.RegsOnly.errLog {s t : State} (h : s.RegsOnly t) (k ty src ppc syms first : Nat) (m : Bool) (a : Nat) :
    s.RegsOnly (t.errLog k ty src ppc syms first m a) :=
  (((State.RegsOnly.ite _ (h.countSat _ 1) h).setReg _ _).setReg _ _).fset _ _

/-- The accounting of a metadata word's decode is in registers alone. -/
theorem State.countDecode_meta (s : State) (k p i a lane : Nat) (feed : Bool) (d : Decoded) :
    s.RegsOnly (s.countDecode k p true i a lane feed d) := by
  have hpoison : s.RegsOnly (if (d.poison && d.out != .uncorrectable) = true then s.count (F.pccPoisonReads_COUNT k p) 1 else s) :=
    .ite _ (.count (.refl s) _ 1) (.refl s)
  unfold State.countDecode
  simp only [Bool.true_or, if_true]
  generalize (if (d.poison && d.out != .uncorrectable) = true then s.count (F.pccPoisonReads_COUNT k p) 1 else s) = t at hpoison
  cases d.out with
  | clean => exact hpoison
  | check =>
    have hcount := hpoison.count (F.pccCheckSymbol_COUNT k p) 1
    generalize t.count (F.pccCheckSymbol_COUNT k p) 1 = u at hcount ⊢
    exact .ite _ (hcount.errLog ..) hcount
  | corrected =>
    have hcount := (hpoison.count (F.pccCeCount_COUNT k p) 1).countSat
      (if d.syms.length = 1 then F.pccCeBySyms_ONE k p else if d.syms.length = 2 then F.pccCeBySyms_TWO k p else F.pccCeBySyms_THREE k p) 1
    generalize (t.count (F.pccCeCount_COUNT k p) 1).countSat _ 1 = u at hcount ⊢
    exact .ite _ (hcount.errLog ..) hcount
  | uncorrectable => exact hpoison.count (F.pccUeCount_COUNT k p) 1

/-! ### ZMAP_LINE_WRITEBACK_DONE -/

section
variable (s : State) (k p l : Nat) (z : ZLine) (hz : (s.pcc k p).line l = some z)
include hz

theorem State.lineWritten_dirty (hst : z.st = .dirty) : s.lineWritten k p l = s.startWriteback k p l := by
  unfold State.lineWritten
  simp only [hz, hst, if_true]

/-- The PCC's record once line `z` has been handed over. -/
def Pcc.lineClean (c : Pcc) (z : ZLine) : Pcc :=
  { c.setLine { z with st := .clean } with zflush := (c.setLine { z with st := .clean }).zflush && (c.setLine { z with st := .clean }).lines.any fun y => y.st == .writeback }

theorem State.lineWritten_clean (hst : z.st = .writeback) (hw : (s.pcc k p).writesLine l = false) (hidle : (s.pcc k p).idle) :
    s.lineWritten k p l = s.setPcc k p ((s.pcc k p).lineClean z) := by
  have hretry : (s.setPcc k p ((s.pcc k p).lineClean z)).zRetry k p = s.setPcc k p ((s.pcc k p).lineClean z) :=
    State.zRetry_idle _ k p (by rw [State.pcc_setPcc_same]; exact hidle)
  rw [← hretry]
  unfold State.lineWritten
  simp only [hz, hst, hw, reduceCtorEq, if_false, decide_true, Bool.not_false, Bool.and_self, if_true]
  rfl

theorem State.lineWritten_waits (h : (z.st = .writeback ∧ (s.pcc k p).writesLine l = true) ∨ z.st = .clean ∨ z.st = .filling) :
    s.lineWritten k p l = s := by
  unfold State.lineWritten
  rcases h with ⟨hst, hw⟩ | hst | hst
  · simp [hz, hst, hw]
  · simp [hz, hst]
  · simp [hz, hst]

/-! ### ZMAP_LINE_FILL -/

theorem State.lineFill_waits (hbad : z.bad = false) (hword : z.word = none) : s.lineFill k p l = s := by
  unfold State.lineFill
  simp only [hz, hbad, hword, Bool.false_eq_true, if_false]

section
variable (hst : z.st = .filling) (hbad : z.bad = false) (w : Stored) (hword : z.word = some w) (d : Decoded)
  (hd : decodeAtom (metaFold k (s.metaLpc k p) l) w = d)
include hst hbad hword hd

theorem State.lineFill_read (hout : d.out ≠ .uncorrectable) :
    s.lineFill k p l = ((s.countDecode k p true l (l * 64) 20 false d).installLine k p z d.data).zRetry k p := by
  unfold State.lineFill
  simp only [hz, hbad, hword, hst, hd, Bool.false_eq_true, if_false, Bool.false_or, beq_eq_false_iff_ne.2 hout, bne_self_eq_false, Bool.false_and]

theorem State.lineFill_lost (hout : d.out = .uncorrectable) (hopen : s.flag (F.thmStk_WINDOW_CLOSED k) = false)
    (hroom : z.upds ≠ [] ∨ (s.pcc k p).dirtyLines < 14) :
    s.lineFill k p l = ((s.countDecode k p true l (l * 64) 20 false d).installLost k p z).zRetry k p := by
  have hfull : (decide (z.upds = []) && decide (14 ≤ (s.pcc k p).dirtyLines)) = false := by
    rw [Bool.and_eq_false_iff, decide_eq_false_iff_not, decide_eq_false_iff_not]
    exact hroom.imp_right Nat.not_le.2
  have hwin : s.windowClosed k = false := hopen
  unfold State.lineFill
  simp only [hz, hbad, hword, hst, hd, hout, hwin, hfull, Bool.false_eq_true, if_false, Bool.false_or, Bool.or_false, beq_self_eq_true,
    bne_self_eq_false, Bool.and_false, if_true]

end

/-- The line as its fill leaves it (R216). -/
def ZLine.filled (z : ZLine) (bits : BitVec 512) (now : Nat) : ZLine :=
  { z with st := if z.upds = [] then .clean else .dirty, bits := z.upds.foldl (fun b e => lineSet b e.bit e.v) bits, upds := [], used := now
           word := none, bad := false }

/-- With nothing waiting for it a line is installed, and no more. -/
theorem State.installLine_idle (hidle : (s.pcc k p).idle) (bits : BitVec 512) :
    (((s.installLine k p z bits).zRetry k p).pcc k p).line l = some (z.filled bits s.cadence) := by
  have hnone : (s.pcc k p).waitingOn z.line = [] := List.filter_eq_nil_iff.2 fun q hq => by simp [(hidle q hq).2]
  have hinst : s.installLine k p z bits = s.setPcc k p ((s.pcc k p).setLine (z.filled bits s.cadence)) := by
    unfold State.installLine
    rw [hnone]
    rfl
  rw [hinst, State.zRetry_idle _ k p (by rw [State.pcc_setPcc_same]; exact hidle), State.pcc_setPcc_same]
  exact Pcc.line_setLine _ l z _ hz ((s.pcc k p).line_spec l z hz)

end

/-- Settles O46: the operations, the passes, and the ends of write-backs and fills. -/
theorem zeroMap : Obligations.ZeroMap := by
  unfold Obligations.ZeroMap
  refine ⟨fun k p s hready hk => ?_, fun k p s => ?_, fun k p l s z hz => ?_⟩
  · intro st moves refused
    have hst : s.cpOk.zmState k.val p.val = st := rfl
    have hoff : s.cpOk.zmState k.val p.val = zmOff ↔ st = 0 := Iff.rfl
    have hon : s.cpOk.zmState k.val p.val = zmOn ↔ st = 1 := Iff.rfl
    have hwr : s.cpOk.flag (F.pccZmapCtl_WRITTEN k.val p.val) = s.flag (F.pccZmapCtl_WRITTEN k.val p.val) := rfl
    have hrefuse := s.cpOk.sets_zmRefuse k.val p.val
    have hadopt := s.cpStk_ready k (.zmapAdopt k p) (fun u => u.zmAdopt k.val p.val) hready hk
    have hclear := s.cpStk_ready k (.zmapClear k p) (fun u => u.zmClear k.val p.val) hready hk
    have hdisable := s.cpStk_ready k (.zmapDisable k p) (fun u => u.zmDisable k.val p.val) hready hk
    refine ⟨fun h => ⟨_, hadopt, ?_⟩, fun h => ⟨_, hadopt, ?_⟩, fun h => ⟨_, hclear, ?_⟩, fun h => ⟨_, hclear, ?_⟩, fun h => ⟨_, hdisable, ?_⟩,
      fun h => ⟨_, hdisable, ?_⟩, fun op => ⟨_, s.cpStk_ready k _ (fun u => u.zmRefuse k.val p.val) hready hk, hrefuse⟩, ?_⟩
    · rw [State.zmAdopt, if_pos (by rw [hst, hwr, h.1, h.2]; rfl)]
      exact s.cpOk.sets_setZm k.val p.val 1 (by decide)
    · rw [State.zmAdopt, if_neg (fun hyes => h (by
        simp only [hst, hwr, Bool.and_eq_true, decide_eq_true_eq, Bool.not_eq_true'] at hyes
        exact hyes))]
      exact hrefuse
    · rw [State.zmClear, if_pos (hoff.2 h)]
      exact s.cpOk.sets_setZm k.val p.val 2 (by decide)
    · rw [State.zmClear, if_neg fun hyes => h (hoff.1 hyes)]
      exact hrefuse
    · rw [State.zmDisable, if_pos (hon.2 h)]
      exact s.cpOk.sets_setZm k.val p.val 3 (by decide)
    · rw [State.zmDisable, if_neg fun hyes => h (hon.1 hyes)]
      exact hrefuse
    · obtain ⟨hlines, hflush, hwritten, hframe⟩ := s.cpOk.zmFlush_spec k.val p.val
      exact ⟨_, s.cpStk_ready k _ (fun u => u.zmFlush k.val p.val) hready hk, hlines, hflush,
        fun z hz hd => (Pcc.writesLine_iff _ _).1 (hwritten z hz hd), hframe⟩
  · intro goes
    have hgoes : goes ↔ s.passGoes k.val p.val = true := (s.passGoes_iff k.val p.val).symm
    refine ⟨fun hst hgo hmig => ⟨_, exec_zmapClearDone k p s (hgoes.1 hgo) hst, ?_⟩, fun m hst hgo hmig => ?_, fun hst hgo => ?_,
      fun h => exec_zmapClearDone_waits k p s (h.imp_left fun hn hy => hn (hgoes.2 hy)), fun h => ?_⟩
    · rw [hmig]
      refine ⟨State.fget_setZm _ k.val p.val 1 (by decide), ?_, ?_, fun l hlo hhi => ?_⟩
      · rw [State.pcc_setZm, State.lines_clearMap]
      · exact State.keepsRegs_fset s _ [F.pccZmapCtl_STATE k.val p.val] _ 1 (Fld.ok_mk (by decide)) (by simp) (State.keepsRegs_of_regs _ _ _ rfl)
      · rw [State.cell_setZm]
        exact s.cell_clearMap k.val p.val _ l p.isLt hlo hhi
    · rw [exec_zmapClearDone k p s (hgoes.1 hgo) hst, hmig]
    · refine ⟨_, (exec_zmapDisableDone k p s).trans (congrArg _ (if_pos ?_)), State.fget_setZm _ k.val p.val 0 (by decide), ?_⟩
      · rw [show s.zmState k.val p.val = zmDisabling from hst, hgoes.1 hgo]
        rfl
      · rw [State.zmDisableDone, State.pcc_setZm, State.lines_clearMap]
    · refine (exec_zmapDisableDone k p s).trans (congrArg _ (if_neg fun hyes => ?_))
      simp only [Bool.and_eq_true, decide_eq_true_eq] at hyes
      exact h.elim (fun hn => hn (hgoes.2 hyes.2)) (fun hn => hn hyes.1)
  · intro idle writing
    have hwriting : writing ↔ (s.pcc k.val p.val).writesLine l.toNat = true := (Pcc.writesLine_iff _ _).symm
    have hexec : exec (.zmapLineWritebackDone k p l) s = .next (s.lineWritten k.val p.val l.toNat) := rfl
    have hfill : exec (.zmapLineFill k p l) s = .next (s.lineFill k.val p.val l.toNat) := rfl
    refine ⟨fun hst => ⟨_, hexec, ?_⟩, fun hst hno hidle => ⟨_, hexec, ?_⟩, fun h => ?_, fun hst hbad hword => ?_, fun w hst hbad hword => ?_⟩
    · rw [s.lineWritten_dirty k.val p.val l.toNat z hz hst]
      obtain ⟨hlines, hnow, -, -⟩ := s.startWriteback_spec k.val p.val l.toNat
      refine ⟨?_, (Pcc.writesLine_iff _ _).1 hnow⟩
      unfold Pcc.line
      rw [hlines]
      exact Pcc.line_writtenBack _ l.toNat z hz
    · rw [s.lineWritten_clean k.val p.val l.toNat z hz hst (by rw [← Bool.not_eq_true, ← hwriting]; exact hno) hidle]
      refine ⟨?_, State.setPcc_frame _ _ _ _⟩
      rw [State.pcc_setPcc_same]
      exact Pcc.line_setLine _ l.toNat z { z with st := .clean } hz (Pcc.line_spec _ l.toNat z hz)
    · rw [hexec, s.lineWritten_waits k.val p.val l.toNat z hz (h.imp_left fun ⟨hst, hw⟩ => ⟨hst, hwriting.1 hw⟩)]
    · rw [hfill, s.lineFill_waits k.val p.val l.toNat z hz hbad hword]
    · intro d counted
      refine ⟨fun hout => ?_, fun hout hopen hroom => ?_⟩
      · have hread : exec (.zmapLineFill k p l) s = .next ((counted.installLine k.val p.val z d.data).zRetry k.val p.val) :=
          hfill.trans (congrArg _ (s.lineFill_read k.val p.val l.toNat z hz hst hbad w hword d rfl hout))
        refine ⟨hread, fun hidle => ⟨_, hread, ?_⟩⟩
        have hregs : s.RegsOnly counted := s.countDecode_meta k.val p.val l.toNat (l.toNat * 64) 20 false d
        have hpcc := hregs.pcc k.val p.val
        have hcad := hregs.cadence
        have hline := counted.installLine_idle k.val p.val l.toNat z (by rw [hpcc]; exact hz) (by rw [hpcc]; exact hidle) d.data
        rw [hline, hcad]
        simp only [ZLine.filled, hbad]
      · exact hfill.trans (congrArg _ (s.lineFill_lost k.val p.val l.toNat z hz hst hbad w hword d rfl hout hopen hroom))

end Sys2Proof.Machine

/-! PROOFS. Changes of timing set, and writes of timing registers (R232, R240, R241, Table 8.5). -/

namespace Sys2Proof.Machine

/-! ### What holds and restarts leave alone -/

/-- From `s` to `t` no register changes but HARD_MAX of stack `k`, no event is posted, no time passes and no change of set begins or ends. -/
structure State.Calm (k : Nat) (s t : State) : Prop where
  reg : ∀ a, a ≠ A.arbStkHardMax k → t.reg a = s.reg a
  events : t.events = s.events
  cadence : t.cadence = s.cadence
  phyJobs : t.phyJobs = s.phyJobs

theorem State.Calm.refl (k : Nat) (s : State) : State.Calm k s s := ⟨fun _ _ => rfl, rfl, rfl, rfl⟩

theorem State.Calm.trans {k : Nat} {s t u : State} (h : State.Calm k s t) (h' : State.Calm k t u) : State.Calm k s u :=
  ⟨fun a ha => (h'.reg a ha).trans (h.reg a ha), h'.events.trans h.events, h'.cadence.trans h.cadence, h'.phyJobs.trans h.phyJobs⟩

theorem State.Calm.forEach {α : Type} {k : Nat} (f : State → α → State) (hf : ∀ t a, State.Calm k t (f t a)) (l : List α) (s : State) :
    State.Calm k s (s.forEach l f) := by
  induction l generalizing s with
  | nil => exact .refl k s
  | cons a l ih => exact (hf s a).trans (ih (f s a))

theorem State.Calm.setOut (k : Nat) (s : State) (j p : Nat) (o : Output) : State.Calm k s (s.setOut j p o) := ⟨fun _ _ => rfl, rfl, rfl, rfl⟩

theorem State.Calm.setPcc (k : Nat) (s : State) (j p : Nat) (c : Pcc) : State.Calm k s (s.setPcc j p c) := ⟨fun _ _ => rfl, rfl, rfl, rfl⟩

theorem State.Calm.settleOutput (k : Nat) (s : State) (p : Nat) : State.Calm k s (s.settleOutput k p) := by
  obtain ⟨h, -⟩ | h | ⟨v, h⟩ := s.settleOutput_cases k p
  · rw [h]; exact .refl k s
  · rw [h]; exact .setOut k s k p _
  · rw [h]
    exact ⟨fun a ha => State.reg_fset_other _ (F.arbStkHardMax_COUNT k) _ a (Ne.symm ha), rfl, rfl, rfl⟩

theorem State.Calm.freeStack (s : State) (k : Nat) (h : HwHold) : State.Calm k s (s.freeStack k h) :=
  State.Calm.forEach _ (fun t p => ((State.Calm.setOut k t k p _).trans (.settleOutput k _ p)).trans (.setOut k _ k p _)) _ s

theorem State.Calm.holdStack (s : State) (k : Nat) (h : HwHold) : State.Calm k s (s.holdStack k h) :=
  State.Calm.forEach _ (fun t p => ((State.Calm.setOut k t k p _).trans (.settleOutput k _ p)).trans (.setOut k _ k p _)) _ s

theorem State.Calm.mults (k : Nat) (s : State) (m : SMap Nat) : State.Calm k s { s with mults := m } := ⟨fun _ _ => rfl, rfl, rfl, rfl⟩

theorem State.Calm.restartRefresh (s : State) (k : Nat) : State.Calm k s (s.restartRefresh k) :=
  (State.Calm.forEach _ (fun t p => .setPcc k t k p _) _ s).trans (.mults k _ _)

theorem State.Calm.settleMult (s : State) (k : Nat) : State.Calm k s (s.settleMult k) := by
  unfold State.settleMult
  dsimp only
  split
  · exact .refl k s
  · exact (State.Calm.forEach _ (fun t p => .setPcc k t k p _) _ s).trans (.mults k _ _)

theorem State.Calm.fget {k : Nat} {s t : State} (h : State.Calm k s t) (f : Fld) (hf : f.addr ≠ A.arbStkHardMax k) : t.fget f = s.fget f :=
  State.fget_of_reg (h.reg f.addr hf)

/-! ### The end of a change -/

/-- A field of FREQ_STATUS but LAST_TIME and BUSY is the same when the change ends, and no event is posted then (Table 8.5). -/
theorem State.jobEnds_spec (s : State) (k began : Nat) (hk : k < 8) :
    (∀ f : Fld, f.addr = A.phyFreqStatus k → f.Ok → (F.phyFreqStatus_LAST_TIME k).Apart f → (F.phyFreqStatus_BUSY k).Apart f →
      ((s.lastTime k began).jobEnds k).fget f = s.fget f) ∧
    ((s.lastTime k began).jobEnds k).flag (F.phyFreqStatus_BUSY k) = false ∧ ((s.lastTime k began).jobEnds k).events = s.events := by
  have hcalm : State.Calm k (((s.lastTime k began).setJob k none).fset (F.phyFreqStatus_BUSY k) 0) ((s.lastTime k began).jobEnds k) :=
    (State.Calm.freeStack _ k .freq).trans (.settleMult _ k)
  have haddr : A.phyFreqStatus k ≠ A.arbStkHardMax k := by show 0x104108 + k * 0x20000 ≠ 0x031060 + k * 0x100; omega
  refine ⟨fun f hf hok hlast hbusy => ?_, ?_, hcalm.events⟩
  · rw [hcalm.fget f (hf ▸ haddr), State.fget_fset_apart _ (F.phyFreqStatus_BUSY k) f 0 (Fld.ok_mk (by decide)) hbusy]
    exact State.fget_fset_apart s (F.phyFreqStatus_LAST_TIME k) f _ (Fld.ok_mk (by decide)) hlast
  · unfold State.flag
    rw [hcalm.fget (F.phyFreqStatus_BUSY k) haddr, State.fget_fset_same _ (F.phyFreqStatus_BUSY k) 0 (Fld.ok_mk (by decide))]
    rfl

/-! ### A change of set -/

/-- A change whose set is not valid any more is abandoned (R232, R241). -/
theorem State.changeSet_invalid (s : State) (k t : Nat) (env : TrainEnv) (began : Nat) (h : s.flag (F.phyTsetCtl_VALID k t) = false) :
    s.changeSet k t env began = (((s.changeFails k (s.fget (F.phyFreqStatus_ACTIVE k)) t).lastTime k began).jobEnds k) := by
  unfold State.changeSet
  simp only [h, Bool.not_false, if_true]

/-- With no lane failing the change succeeds. -/
theorem State.changeSet_valid (s : State) (k t : Nat) (env : TrainEnv) (began : Nat) (h : s.flag (F.phyTsetCtl_VALID k t) = true)
    (henv : env.fails = []) : s.changeSet k t env began =
      (((((s.toSet k t).fset (F.phyFreqStatus_FALLEN k) 0).post 0x0303 (unitPc k 0) k (s.fget (F.phyFreqStatus_ACTIVE k) + t * 2 ^ 8)).lastTime
        k began).jobEnds k) := by
  have htrain : s.trainAt k t env [] = (s, []) := by
    unfold State.trainAt State.failsAt
    rw [henv]
    rfl
  unfold State.changeSet
  simp only [h, htrain, Bool.not_true, Bool.false_eq_true, if_false, if_true]

theorem State.calm_toSet (s : State) (k t : Nat) : State.Calm k (s.fset (F.phyFreqStatus_ACTIVE k) t) (s.toSet k t) :=
  State.Calm.restartRefresh _ k

theorem phyFreqStatus_ne_hardMax {k : Nat} (hk : k < 8) : A.phyFreqStatus k ≠ A.arbStkHardMax k := by
  show 0x104108 + k * 0x20000 ≠ 0x031060 + k * 0x100
  omega

theorem phyFreqStatus_ne_events (k : Nat) : A.phyFreqStatus k ≠ A.glbEvStatus := by
  show 0x104108 + k * 0x20000 ≠ A.glbEvStatus
  unfold A.glbEvStatus
  omega

theorem State.fget_post (s : State) (c u x y : Nat) (f : Fld) (h : f.addr ≠ A.glbEvStatus) : (s.post c u x y).fget f = s.fget f :=
  State.fget_of_reg (s.reg_post c u x y f.addr h)

/-- The set is active, and FREQ_CHANGED names both (R240, R241). -/
theorem State.changeSet_valid_spec (s : State) (k t : Nat) (env : TrainEnv) (began : Nat) (hk : k < 8) (ht : t < 4)
    (h : s.flag (F.phyTsetCtl_VALID k t) = true) (henv : env.fails = []) :
    (s.changeSet k t env began).fget (F.phyFreqStatus_ACTIVE k) = t ∧ (s.changeSet k t env began).flag (F.phyFreqStatus_BUSY k) = false ∧
      (s.changeSet k t env began).flag (F.phyFreqStatus_FALLEN k) = false ∧ (s.changeSet k t env began).events =
        (s.post 0x0303 (unitPc k 0) k (s.fget (F.phyFreqStatus_ACTIVE k) + t * 2 ^ 8)).events := by
  rw [s.changeSet_valid k t env began h henv]
  have hcalm := s.calm_toSet k t
  generalize s.toSet k t = v at hcalm ⊢
  have hactive : v.fget (F.phyFreqStatus_ACTIVE k) = t := by
    rw [hcalm.fget (F.phyFreqStatus_ACTIVE k) (phyFreqStatus_ne_hardMax hk),
      State.fget_fset_same s (F.phyFreqStatus_ACTIVE k) t (Fld.ok_mk (by decide))]
    exact Nat.mod_eq_of_lt ht
  have hpost : ((v.fset (F.phyFreqStatus_FALLEN k) 0).post 0x0303 (unitPc k 0) k (s.fget (F.phyFreqStatus_ACTIVE k) +
      t * 2 ^ 8)).events = (s.post 0x0303 (unitPc k 0) k (s.fget (F.phyFreqStatus_ACTIVE k) + t * 2 ^ 8)).events :=
    State.events_post_congr s _ _ _ _ _ ((State.fset_events ..).trans hcalm.events) ((State.fset_cadence ..).trans hcalm.cadence)
  have hpostget : ∀ f : Fld, f.addr = A.phyFreqStatus k → ((v.fset (F.phyFreqStatus_FALLEN k) 0).post 0x0303 (unitPc k 0) k
      (s.fget (F.phyFreqStatus_ACTIVE k) + t * 2 ^ 8)).fget f = (v.fset (F.phyFreqStatus_FALLEN k) 0).fget f :=
    fun f hf => State.fget_post _ _ _ _ _ f (hf ▸ phyFreqStatus_ne_events k)
  generalize (v.fset (F.phyFreqStatus_FALLEN k) 0).post 0x0303 (unitPc k 0) k (s.fget (F.phyFreqStatus_ACTIVE k) + t * 2 ^ 8) = u
    at hpost hpostget ⊢
  obtain ⟨hget, hbusy, hev⟩ := u.jobEnds_spec k began hk
  refine ⟨?_, hbusy, ?_, hev.trans hpost⟩
  · rw [hget (F.phyFreqStatus_ACTIVE k) rfl (Fld.ok_mk (by decide)) (.inr (.inl (by decide : 1 < 32))) (.inr (.inl (by decide : 1 < 6))),
      hpostget (F.phyFreqStatus_ACTIVE k) rfl, State.fget_fset_apart _ (F.phyFreqStatus_FALLEN k) _ 0 (Fld.ok_mk (by decide))
        (.inr (.inl (by decide : 1 < 11))), hactive]
  · unfold State.flag
    rw [hget (F.phyFreqStatus_FALLEN k) rfl (Fld.ok_mk (by decide)) (.inr (.inl (by decide : 11 < 32))) (.inr (.inr (by decide : 6 < 11))),
      hpostget (F.phyFreqStatus_FALLEN k) rfl, State.fget_fset_same _ (F.phyFreqStatus_FALLEN k) 0 (Fld.ok_mk (by decide))]
    rfl

/-- FREQ_FAILED names both sets, and the old one stays active (R232, R241). -/
theorem State.changeSet_invalid_spec (s : State) (k t : Nat) (env : TrainEnv) (began : Nat) (hk : k < 8)
    (h : s.flag (F.phyTsetCtl_VALID k t) = false) :
    (s.changeSet k t env began).fget (F.phyFreqStatus_ACTIVE k) = s.fget (F.phyFreqStatus_ACTIVE k) ∧
      (s.changeSet k t env began).flag (F.phyFreqStatus_FAILED k) = true ∧ (s.changeSet k t env began).flag (F.phyFreqStatus_BUSY k) = false ∧
      (s.changeSet k t env began).events = (s.post 0x0304 (unitPc k 0) k (s.fget (F.phyFreqStatus_ACTIVE k) + t * 2 ^ 8)).events := by
  have hpost : (s.changeFails k (s.fget (F.phyFreqStatus_ACTIVE k)) t).events =
      (s.post 0x0304 (unitPc k 0) k (s.fget (F.phyFreqStatus_ACTIVE k) + t * 2 ^ 8)).events := State.events_post_congr s _ _ _ _ _ rfl rfl
  have hpostget : ∀ f : Fld, f.addr = A.phyFreqStatus k →
      (s.changeFails k (s.fget (F.phyFreqStatus_ACTIVE k)) t).fget f = (s.raise (F.phyFreqStatus_FAILED k)).fget f :=
    fun f hf => State.fget_post _ _ _ _ _ f (hf ▸ phyFreqStatus_ne_events k)
  rw [s.changeSet_invalid k t env began h]
  generalize s.changeFails k (s.fget (F.phyFreqStatus_ACTIVE k)) t = u at hpost hpostget ⊢
  obtain ⟨hget, hbusy, hev⟩ := u.jobEnds_spec k began hk
  refine ⟨?_, ?_, hbusy, hev.trans hpost⟩
  · rw [hget (F.phyFreqStatus_ACTIVE k) rfl (Fld.ok_mk (by decide)) (.inr (.inl (by decide : 1 < 32))) (.inr (.inl (by decide : 1 < 6))),
      hpostget (F.phyFreqStatus_ACTIVE k) rfl]
    exact State.fget_fset_apart s (F.phyFreqStatus_FAILED k) _ 1 (Fld.ok_mk (by decide)) (.inr (.inl (by decide : 1 < 9)))
  · rw [State.flag, hget (F.phyFreqStatus_FAILED k) rfl (Fld.ok_mk (by decide)) (.inr (.inl (by decide : 9 < 32)))
      (.inr (.inr (by decide : 6 < 9))), hpostget (F.phyFreqStatus_FAILED k) rfl]
    exact s.flag_raise (F.phyFreqStatus_FAILED k) (Fld.ok_mk (by decide))

/-! ### The hold of a drained stack -/

/-- Every output of stack `k` is drained, and the change alone can hold its PCCs. -/
def State.Quiesced (k : Nat) (s : State) : Prop := (∀ p < 64, (s.out k p).st = .drained) ∧ ∀ h ∈ (s.out k 0).hwPcc, h = .freq

/-- The hold of a drained output leaves it drained. -/
theorem State.Quiesced.hold {k : Nat} {s : State} (hs : State.Quiesced k s) (p : Nat) (hp : p < 64) :
    State.Quiesced k ((s.holdIng k .freq p).modOut k p fun o => { o with hwPcc := if o.hwPcc.contains .freq then o.hwPcc else o.hwPcc ++ [.freq] }) := by
  let held : Output := { s.out k p with hwIng := if (s.out k p).hwIng.contains .freq then (s.out k p).hwIng else (s.out k p).hwIng ++ [.freq] }
  have hout : ∀ q < 64, (s.setOut k p held).out k q = if p = q then held else s.out k q := fun q hq => by
    rw [State.out_setOut s k p k q held hp hq]
    simp
  have hcapo : (s.setOut k p held).underCapo k p = true := by
    have hne : held.hwIng ≠ [] := by
      show (if (s.out k p).hwIng.contains .freq then (s.out k p).hwIng else (s.out k p).hwIng ++ [.freq]) ≠ []
      split
      next hc => exact fun hnil => by rw [hnil] at hc; cases hc
      · simp
    unfold State.underCapo
    rw [hout p hp, if_pos rfl, Bool.or_eq_true]
    exact .inr (by simpa using hne)
  have hsettled : (s.setOut k p held).outSettled k p = held := by
    unfold State.outSettled Output.settled
    rw [hout p hp, if_pos rfl, hcapo, if_pos rfl, if_neg (by rw [show held.st = _ from hs.1 p hp]; decide)]
  have hing : ∀ q < 64, (s.holdIng k .freq p).out k q = if p = q then held else s.out k q := fun q hq => by
    change ((s.setOut k p held).settleOutput k p).out k q = _
    rw [State.out_settleOutput _ k p k q hp hq, hsettled, hout q hq]
    by_cases hpq : p = q <;> simp [hpq]
  have hthen : ∀ q < 64, ((s.holdIng k .freq p).modOut k p fun o =>
      { o with hwPcc := if o.hwPcc.contains .freq then o.hwPcc else o.hwPcc ++ [.freq] }).out k q =
        if p = q then { held with hwPcc := if held.hwPcc.contains .freq then held.hwPcc else held.hwPcc ++ [.freq] } else s.out k q := fun q hq => by
    unfold State.modOut
    rw [State.out_setOut _ k p k q _ hp hq, hing p hp, hing q hq]
    by_cases hpq : p = q <;> simp [hpq]
  refine ⟨fun q hq => ?_, fun h hh => ?_⟩
  · rw [hthen q hq]
    split
    · exact hs.1 p hp
    · exact hs.1 q hq
  · rw [hthen 0 (by decide)] at hh
    split at hh
    next hp0 =>
      subst hp0
      have hall : ∀ x ∈ held.hwPcc, x = .freq := hs.2
      change h ∈ (if held.hwPcc.contains .freq then held.hwPcc else held.hwPcc ++ [.freq]) at hh
      split at hh
      · exact hall h hh
      · rcases List.mem_append.1 hh with hh | hh
        · exact hall h hh
        · exact List.mem_singleton.1 hh
    next => exact hs.2 h hh

theorem State.Quiesced.holdStack {k : Nat} {s : State} (hs : State.Quiesced k s) : State.Quiesced k (s.holdStack k .freq) := by
  unfold State.holdStack
  have hall : ∀ p ∈ List.range 64, p < 64 := fun p hp => List.mem_range.1 hp
  generalize List.range 64 = l at hall
  induction l generalizing s with
  | nil => exact hs
  | cons p l ih =>
    obtain ⟨hp, hrest⟩ := List.forall_mem_cons.1 hall
    exact ih (hs.hold p hp) hrest

theorem State.Quiesced.jobDrained {k : Nat} {s : State} (hs : State.Quiesced k s) : s.jobDrained k = true := by
  unfold State.jobDrained State.drained
  simp only [List.all_eq_true, List.mem_range, Bool.or_eq_true, beq_iff_eq]
  exact fun p hp => .inl (hs.1 p hp)

/-- A change at a drained stack proceeds at once. -/
theorem State.Quiesced.jobProceed {k : Nat} {s : State} (hs : State.Quiesced k s) (t : Nat) (env : TrainEnv) (began : Nat)
    (hjob : s.job k = some ⟨false, t, env, began, none⟩) : s.jobProceed k = s.changeSet k t env began := by
  have htrim : (s.out k 0).hwPcc.contains .trim = false := by
    rw [← Bool.not_eq_true, List.contains_iff_mem]
    exact fun hmem => by cases hs.2 _ hmem
  unfold State.jobProceed
  simp only [hjob, hs.jobDrained, htrim, Bool.not_true, Bool.or_self, Bool.false_eq_true, if_false]

/-! ### FREQ_CHANGE and TSET_WRITE -/

theorem State.changeRefused_iff (s : State) (k t : Nat) : s.changeRefused k t = true ↔
    s.flag (F.phyTsetCtl_VALID k t) = false ∨ s.fget (F.phyFreqStatus_ACTIVE k) = t ∨ s.flag (F.phyFreqStatus_BUSY k) = true ∨
      s.flag (F.phyFreqStatus_CHAIN k) = true ∨ s.power = .entering ∨ s.power = .restored ∨ s.power = .checking ∨
      (s.flag F.glbAccLock_LOCK = true ∧ s.setBin k (s.fget (F.phyFreqStatus_ACTIVE k)) < s.setBin k t) := by
  simp only [State.changeRefused, Bool.or_eq_true, Bool.not_eq_true', beq_iff_eq, Bool.and_eq_true, decide_eq_true_eq, or_assoc]

/-- The change as it begins (Table 8.5). -/
def State.changeBegun (s : State) (k t : Nat) (env : TrainEnv) : State :=
  ((s.raise (F.phyFreqStatus_BUSY k)).setJob k (some ⟨false, t, env, s.cadence, none⟩)).holdStack k .freq

theorem State.freqChange_begun (s : State) (k t : Nat) (env : TrainEnv) (h : ¬ s.changeRefused k t = true) :
    s.freqChange k t env = (s.changeBegun k t env).jobProceed k := if_neg h

/-- The beginning of a change marks the stack busy, and changes nothing else of FREQ_STATUS and the timing sets. -/
theorem State.changeBegun_spec (s : State) (k t : Nat) (env : TrainEnv) :
    (s.changeBegun k t env).job k = some ⟨false, t, env, s.cadence, none⟩ ∧ (s.changeBegun k t env).events = s.events ∧
      (s.changeBegun k t env).cadence = s.cadence ∧
      ∀ f : Fld, f.addr ≠ A.arbStkHardMax k → (F.phyFreqStatus_BUSY k).Apart f → (s.changeBegun k t env).fget f = s.fget f := by
  have hcalm : State.Calm k ((s.raise (F.phyFreqStatus_BUSY k)).setJob k (some ⟨false, t, env, s.cadence, none⟩)) (s.changeBegun k t env) :=
    State.Calm.holdStack _ k .freq
  refine ⟨?_, hcalm.events, hcalm.cadence, fun f hf hapart => ?_⟩
  · unfold State.job
    rw [hcalm.phyJobs]
    exact SMap.get_put_same _ _ _ _
  · rw [hcalm.fget f hf]
    exact State.fget_fset_apart s (F.phyFreqStatus_BUSY k) f 1 (Fld.ok_mk (by decide)) hapart

theorem State.takesRw_putRw (s : State) (a : Nat) (w : Word) : s.takesRw (s.putRw a w) a w := by
  unfold State.putRw
  cases hr : RegFile.find a with
  | none => exact ⟨fun r h => (by rw [hr] at h; cases h), fun _ _ => rfl⟩
  | some r =>
    refine ⟨fun r' h => ?_, fun b hb => ?_⟩
    · rw [hr] at h
      cases h
      exact s.reg_setReg_same a _
    · rw [s.reg_setReg]
      exact if_neg (Ne.symm hb)

theorem State.putRw_frame (s : State) (a : Nat) (w : Word) : s.putRw a w = { s with regs := (s.putRw a w).regs } := by
  unfold State.putRw
  split <;> rfl

/-- Settles O47: a change refused, begun, made or abandoned, and the writes. -/
theorem timingChanged : Obligations.TimingChanged := by
  unfold Obligations.TimingChanged
  refine ⟨fun k t env s hready hk => ?_, fun k t env began s => ?_, fun k t reg w s hready hk => ⟨fun hactive => ?_, fun hother => ?_⟩⟩
  · intro u old refused
    have hexec : exec (.freqChange k t env) s = .next (u.freqChange k.val t.val env) :=
      s.cpStk_ready k _ (fun x => x.started.freqChange k.val t.val env) hready hk
    have href : u.changeRefused k.val t.val = true ↔ refused := u.changeRefused_iff k.val t.val
    refine ⟨fun h => ⟨_, hexec, ?_⟩, fun h => ⟨u.raise (F.phyFreqStatus_BUSY k.val), u.sets_raise_alone _ (Fld.ok_mk (by decide)), ?_⟩,
      fun h hdrained hpcc henv => ⟨_, hexec, ?_⟩⟩
    · rw [State.freqChange, if_pos (href.2 h)]
      exact u.sets_raise_alone _ (Fld.ok_mk (by decide))
    · rw [hexec, u.freqChange_begun k.val t.val env fun hr => h (href.1 hr)]
      rfl
    · have hquiet : State.Quiesced k.val (u.changeBegun k.val t.val env) :=
        State.Quiesced.holdStack (s := (u.raise (F.phyFreqStatus_BUSY k.val)).setJob k.val (some ⟨false, t.val, env, u.cadence, none⟩))
          ⟨hdrained, fun x hx => by
            change x ∈ (u.out k.val 0).hwPcc at hx
            rw [hpcc] at hx
            cases hx⟩
      obtain ⟨hjob, hev, hcad, hget⟩ := u.changeBegun_spec k.val t.val env
      have hactive : (u.changeBegun k.val t.val env).fget (F.phyFreqStatus_ACTIVE k.val) = old :=
        hget _ (phyFreqStatus_ne_hardMax k.isLt) (.inr (.inl (by decide : 1 < 6)))
      have hvalid : (u.changeBegun k.val t.val env).flag (F.phyTsetCtl_VALID k.val t.val) = true := by
        have hv : u.flag (F.phyTsetCtl_VALID k.val t.val) = true := by
          rw [← Bool.not_eq_false]
          exact fun hno => h (.inl hno)
        have ht := t.isLt
        rw [← hv, State.flag, State.flag, hget (F.phyTsetCtl_VALID k.val t.val)]
        · show 0x104000 + k.val * 0x20000 + t.val * 0x20 ≠ 0x031060 + k.val * 0x100
          omega
        · exact .inl (by show 0x104108 + k.val * 0x20000 ≠ 0x104000 + k.val * 0x20000 + t.val * 0x20; omega)
      rw [u.freqChange_begun k.val t.val env fun hr => h (href.1 hr), hquiet.jobProceed t.val env u.cadence hjob]
      obtain ⟨hset, hbusy, hfallen, hevents⟩ := State.changeSet_valid_spec _ k.val t.val env u.cadence k.isLt t.isLt hvalid henv
      refine ⟨hset, hbusy, hfallen, hevents.trans ?_⟩
      rw [hactive]
      exact State.events_post_congr u _ _ _ _ _ hev hcad
  · intro old h
    exact ⟨_, rfl, State.changeSet_invalid_spec s k.val t.val env began k.isLt h⟩
  · refine ⟨_, s.cpStk_ready k _ (fun u => u.tsetWrite k.val t.val reg.val w) hready hk, ?_⟩
    have heq : s.cpOk.tsetWrite k.val t.val reg.val w = s.cpOk.raise (F.phyFreqStatus_WRITE_REFUSED k.val) := if_pos hactive
    rw [heq]
    exact s.cpOk.sets_raise_alone _ (Fld.ok_mk (by decide))
  · have heq : s.cpOk.tsetWrite k.val t.val reg.val w = s.cpOk.putRw (A.phyTsetCtl k.val t.val + 8 * reg.val) w := if_neg hother
    refine ⟨_, s.cpStk_ready k _ (fun u => u.tsetWrite k.val t.val reg.val w) hready hk, ?_⟩
    rw [heq]
    exact ⟨s.cpOk.putRw_frame _ w, s.cpOk.takesRw_putRw _ w⟩

end Sys2Proof.Machine

/-! PROOFS. A parity error at two PCCs: what the replay engine writes is not what the statement names (R244, Table 8.6). -/
namespace Sys2Proof.Machine

/-- PCC 0 of stack 0 differs from an unwritten one by its count of attempts alone, and its entry stands behind that of PCC 1. -/
def attemptLeft : State :=
  { State.reset with
    build := { Build.largest with nStacks := 1 }, pccs := [(pcIx 0 1, { Pcc.init with attempts := 1 }), (pcIx 0 0, Pcc.init)] }

/-- PCC `p` of stack 0 of `attemptLeft` halted by an error. -/
def haltedPcc (p : Nat) : Pcc := { attemptLeft.pcc 0 p with replay := .halt, attempts := 1, env := ⟨[], []⟩, fullOnce := false }

/-- Refutes O48: in a state whose map of PCCs holds an entry equal to an unwritten one, a parity error writes PCC 0 twice, and the
first of the writes takes that entry away; the statement writes PCC 0 once and keeps it, so the two maps differ in length. -/
theorem not_replayRuns : ¬ Obligations.ReplayRuns := by
  unfold Obligations.ReplayRuns
  rintro ⟨-, hparity, -⟩
  obtain ⟨t, hexec, hframe, -⟩ := hparity 0 0 ⟨[], []⟩ attemptLeft (by rintro q (rfl | rfl) <;> decide +kernel)
  have hmap := congrArg State.pccs hframe
  change t.pccs = ((attemptLeft.setPcc 0 0 (haltedPcc 0)).setPcc 0 1 (haltedPcc 1)).pccs at hmap
  have hclaim : t.pccs.length = 3 := by rw [hmap]; decide +kernel
  have hmodel : (nextOr attemptLeft (exec (.replayError 0 0 true ⟨[], []⟩) attemptLeft)).pccs.length ≠ 3 := by decide +kernel
  rw [hexec] at hmodel
  exact hmodel hclaim

end Sys2Proof.Machine

/-! PROOFS. The Fret commands and FRET_INSTALL, HISTORY_CLEAR (R271, R272, R275). -/
namespace Sys2Proof.Machine

/-! ### A job of the Fret table takes its place -/

/-- The place of a piece without a slot is found again by its number. -/
theorem Pcc.piece?_insertOwn (c : Pcc) (q : Piece) : (c.insertOwn q).piece? q.id = some { q with slot := c.freeTurn } := by
  change ((c.buf.filter fun o => o.id < q.id) ++ { q with slot := c.freeTurn } :: c.buf.filter fun o => q.id ≤ o.id).find?
    (fun o => o.id == q.id) = _
  have hold : (c.buf.filter fun o => o.id < q.id).find? (fun o => o.id == q.id) = none := by
    rw [List.find?_eq_none]
    intro o ho
    simpa using Nat.ne_of_lt (by simpa using (List.mem_filter.1 ho).2)
  rw [List.find?_append, hold, List.find?_cons_of_pos (by simp)]
  rfl

theorem State.fretPut_frame (s : State) (k p u e : Nat) (byCmd remove : Bool) :
    s.fretPut k p u e byCmd remove = { s with pccs := (s.fretPut k p u e byCmd remove).pccs, nextPiece := s.nextPiece + 64 } := rfl

/-- What a Fret job adds to its PCC: the job, and its piece at its place. -/
theorem State.fretPut_pcc (s : State) (k p u e : Nat) (byCmd remove : Bool) :
    ((s.fretPut k p u e byCmd remove).pcc k p).fretQ = (s.pcc k p).fretQ ++ [⟨s.nextPiece, u, e, byCmd, remove, .reading, false⟩] ∧
      ∃ q, ((s.fretPut k p u e byCmd remove).pcc k p).piece? s.nextPiece = some q ∧ q.id = s.nextPiece ∧ q.u = u ∧ q.slotless = true ∧
        q.kind = if remove then .fretTake else .fretRead := by
  unfold State.fretPut
  dsimp only
  rw [State.pcc_pushOwn, State.pcc_modPcc_same]
  exact ⟨rfl, _, Pcc.piece?_insertOwn _ _, rfl, rfl, rfl, rfl⟩

/-! ### What a Fret command meets -/

theorem State.fretRefused_iff (s : State) (k p u : Nat) :
    s.fretRefused k p u = true ↔ (∃ f ∈ (s.pcc k p).fretQ, f.byCmd = true) ∨ s.lpcOf k p = none ∨ s.build.dataAtoms ≤ u := by
  unfold State.fretRefused
  simp only [Bool.or_eq_true, List.any_eq_true, Option.isNone_iff_eq_none, decide_eq_true_eq, or_assoc]

/-- An entry that an install may take is neither valid nor taken by one that is due. -/
theorem State.fretFree_iff (s : State) (k p i : Nat) :
    (!s.flag (F.pccFretEnt_VALID k p i) && !((s.pcc k p).fretQ.any fun f => !f.remove && f.entry == i)) = true ↔
      s.flag (F.pccFretEnt_VALID k p i) = false ∧ ∀ f ∈ (s.pcc k p).fretQ, f.remove = true ∨ f.entry ≠ i := by
  simp only [Bool.and_eq_true, Bool.not_eq_true', List.any_eq_false, beq_iff_eq, not_and, ne_eq]
  refine and_congr_right fun _ => forall₂_congr fun f _ => ?_
  cases f.remove <;> simp

/-! ### The entry that an install makes -/

/-- The error log writes its own registers alone. -/
theorem State.reg_errLog_other (s : State) (k ty src ppc syms first : Nat) (m : Bool) (addr a : Nat) (hhead : A.errlogHead k ≠ a)
    (h0 : ∀ i < 16, a ≠ A.errlog0 k i) (h1 : ∀ i < 16, a ≠ A.errlog1 k i) : (s.errLog k ty src ppc syms first m addr).reg a = s.reg a := by
  have hi : s.fget (F.errlogHead_NEXT k) < 16 := bitsOf_lt ..
  unfold State.errLog
  dsimp only
  rw [State.reg_fset_other _ _ _ _ hhead, State.reg_setReg, if_neg (Ne.symm (h1 _ hi)), State.reg_setReg, if_neg (Ne.symm (h0 _ hi))]
  split
  · exact State.reg_fset_other _ _ _ _ hhead
  · rfl

/-- The registers as an install leaves them, before its entry in the error log. -/
def State.fretEntered (s : State) (k p : Nat) (f : FretJob) : State :=
  (((s.fset (F.pccFretEnt_ATOM k p f.entry) f.u).fset (F.pccFretEnt_POISONED k p f.entry) (bit f.lost)).raise
    (F.pccFretEnt_VALID k p f.entry)).count (F.pccFretStatus_INSTALLS k p) 1

theorem State.fretMake_eq (s : State) (k p : Nat) (f : FretJob) : s.fretMake k p f =
    ((s.fretEntered k p f).errLog k 4 3 p 0 0 false (s.addrAt k p f.u)).post 0x0202 (unitPc k p) (argPc k p) (s.addrAt k p f.u) := rfl

/-- The error log and the event leave the registers of the Fret table as the install wrote them. -/
theorem State.fget_fretMake (s : State) (k p : Nat) (f : FretJob) (g : Fld) (hlow : 0x108000 + k * 0x20000 ≤ g.addr) :
    (s.fretMake k p f).fget g = (s.fretEntered k p f).fget g := by
  rw [s.fretMake_eq, State.fget_post _ _ _ _ _ _ (by change _ ≠ 0x000320; omega)]
  refine State.fget_of_reg (State.reg_errLog_other _ k 4 3 p 0 0 false _ _ ?_ (fun i hi => ?_) fun i hi => ?_)
  · change 0x102300 + k * 0x20000 ≠ _
    omega
  · change _ ≠ 0x102400 + k * 0x20000 + i * 0x10
    omega
  · change _ ≠ 0x102408 + k * 0x20000 + i * 0x10
    omega

/-- Step 3 of an install in its registers (R271). -/
theorem State.fretEntered_fields (s : State) (k p : Nat) (f : FretJob) (hu : f.u < 2 ^ 25) :
    (s.fretEntered k p f).flag (F.pccFretEnt_VALID k p f.entry) = true ∧ (s.fretEntered k p f).fget (F.pccFretEnt_ATOM k p f.entry) = f.u ∧
      (s.fretEntered k p f).flag (F.pccFretEnt_POISONED k p f.entry) = f.lost ∧
      (s.fretEntered k p f).fget (F.pccFretStatus_INSTALLS k p) = s.wrapped (F.pccFretStatus_INSTALLS k p) 1 := by
  let v := s.puts [(F.pccFretEnt_VALID k p f.entry, 1), (F.pccFretEnt_POISONED k p f.entry, bit f.lost), (F.pccFretEnt_ATOM k p f.entry, f.u)]
  have hv : s.sets v [(F.pccFretEnt_VALID k p f.entry, 1), (F.pccFretEnt_POISONED k p f.entry, bit f.lost), (F.pccFretEnt_ATOM k p f.entry, f.u)] :=
    s.sets_puts _ (by simp [Fld.Fits, F.pccFretEnt_VALID, F.pccFretEnt_POISONED, F.pccFretEnt_ATOM, bit_lt f.lost, Nat.le_of_lt_succ (bit_lt f.lost), show f.u < 33554432 from hu])
      (by simp [F.pccFretEnt_VALID, F.pccFretEnt_POISONED, F.pccFretEnt_ATOM])
  obtain ⟨-, hval, hkeeps⟩ := hv
  have hword : A.pccFretStatus k p ≠ A.pccFretEnt k p f.entry := by
    change 0x1080D0 + k * 0x20000 + p * 0x200 ≠ 0x108140 + k * 0x20000 + p * 0x200 + f.entry * 8
    omega
  have hcounted : ∀ g : Fld, g.addr = A.pccFretEnt k p f.entry → (s.fretEntered k p f).fget g = v.fget g := fun g hg =>
    v.fget_fset_apart (F.pccFretStatus_INSTALLS k p) g _ (Fld.ok_mk (by decide)) (.inl (by rw [hg]; exact hword))
  have hstart : v.fget (F.pccFretStatus_INSTALLS k p) = s.fget (F.pccFretStatus_INSTALLS k p) :=
    hkeeps _ (Fld.ok_mk (by decide)) (by simpa using ⟨.inl hword.symm, .inl hword.symm, .inl hword.symm⟩)
  refine ⟨?_, ?_, ?_, ?_⟩
  · rw [State.flag, hcounted _ rfl, hval _ (List.mem_cons_self)]
    rfl
  · rw [hcounted _ rfl, hval (F.pccFretEnt_ATOM k p f.entry, f.u) (by simp)]
  · rw [State.flag, hcounted _ rfl, hval (F.pccFretEnt_POISONED k p f.entry, bit f.lost) (by simp)]
    cases f.lost <;> rfl
  · exact (v.fget_fset_same (F.pccFretStatus_INSTALLS k p) _ (Fld.ok_mk (by decide))).trans (congrArg (fun n => (n + 1) % 2 ^ 32) hstart)

theorem State.errLog_events (s : State) (k ty src ppc syms first : Nat) (m : Bool) (a : Nat) :
    (s.errLog k ty src ppc syms first m a).events = s.events ∧ (s.errLog k ty src ppc syms first m a).cadence = s.cadence := by
  have h : s.RegsOnly (s.errLog k ty src ppc syms first m a) := .errLog (.refl s) ..
  exact ⟨(congrArg State.events h :), (congrArg State.cadence h :)⟩

theorem State.fretMake_events (s : State) (k p : Nat) (f : FretJob) :
    (s.fretMake k p f).events = (s.post 0x0202 (unitPc k p) (argPc k p) (s.addrAt k p f.u)).events := by
  rw [s.fretMake_eq]
  obtain ⟨hev, hcad⟩ := (s.fretEntered k p f).errLog_events k 4 3 p 0 0 false (s.addrAt k p f.u)
  exact State.events_post_congr s _ _ _ _ _ (hev.trans rfl) (hcad.trans rfl)

theorem State.fretMake_frame (s : State) (k p : Nat) (f : FretJob) :
    let t := s.fretMake k p f
    t = { s with regs := t.regs, events := t.events, dropCount := t.dropCount, dropStamp := t.dropStamp } := by
  intro t
  have hlog : s.RegsOnly ((s.fretEntered k p f).errLog k 4 3 p 0 0 false (s.addrAt k p f.u)) :=
    .errLog (.count (.fset (.fset (.fset (.refl s) _ _) _ _) _ _) _ _) ..
  have ht : t = State.post _ 0x0202 (unitPc k p) (argPc k p) (s.addrAt k p f.u) := s.fretMake_eq k p f
  generalize State.errLog _ k 4 3 p 0 0 false (s.addrAt k p f.u) = u at hlog ht
  rw [ht, State.post_frame, hlog]

/-- The first install whose write has been handed over takes its leave of the queue and is made, unless an entry has the atom. -/
theorem exec_fretInstall (k : Fin 8) (p : Fin 64) (s : State) (f : FretJob)
    (h : (s.pcc k.val p.val).fretQ.find? (fun f => f.st == .written && !f.remove) = some f) :
    exec (.fretInstall k p) s = .next (if (s.fretOf k.val p.val f.u).isSome
      then s.setPcc k.val p.val { s.pcc k.val p.val with fretQ := (s.pcc k.val p.val).fretQ.erase f }
      else (s.setPcc k.val p.val { s.pcc k.val p.val with fretQ := (s.pcc k.val p.val).fretQ.erase f }).fretMake k.val p.val f) := by
  change execFretInstall k p s = _
  unfold execFretInstall
  rw [h] <;> rfl

theorem exec_fretInstall_none (k : Fin 8) (p : Fin 64) (s : State)
    (h : (s.pcc k.val p.val).fretQ.find? (fun f => f.st == .written && !f.remove) = none) : exec (.fretInstall k p) s = .next s := by
  change execFretInstall k p s = _
  unfold execFretInstall
  rw [h]

/-- What the made install leaves: its entry and its count in the registers, its event, all else as it was. -/
theorem State.fretMake_spec (s : State) (k p : Nat) (f : FretJob) (hu : f.u < 2 ^ 25) :
    (s.fretMake k p f).flag (F.pccFretEnt_VALID k p f.entry) = true ∧ (s.fretMake k p f).fget (F.pccFretEnt_ATOM k p f.entry) = f.u ∧
      (s.fretMake k p f).flag (F.pccFretEnt_POISONED k p f.entry) = f.lost ∧
      (s.fretMake k p f).fget (F.pccFretStatus_INSTALLS k p) = s.wrapped (F.pccFretStatus_INSTALLS k p) 1 := by
  obtain ⟨hvalid, hatom, hpoisoned, hcount⟩ := s.fretEntered_fields k p f hu
  have hent : 0x108000 + k * 0x20000 ≤ A.pccFretEnt k p f.entry := by
    change _ ≤ 0x108140 + k * 0x20000 + p * 0x200 + f.entry * 8
    omega
  have hstat : 0x108000 + k * 0x20000 ≤ A.pccFretStatus k p := by
    change _ ≤ 0x1080D0 + k * 0x20000 + p * 0x200
    omega
  exact ⟨(congrArg (fun n => n == 1) (s.fget_fretMake k p f (F.pccFretEnt_VALID k p f.entry) hent)).trans hvalid,
    (s.fget_fretMake k p f _ hent).trans hatom,
    (congrArg (fun n => n == 1) (s.fget_fretMake k p f (F.pccFretEnt_POISONED k p f.entry) hent)).trans hpoisoned,
    (s.fget_fretMake k p f _ hstat).trans hcount⟩

/-! ### The commands -/

theorem State.fretCmdInstall_refused (s : State) (k p u : Nat) (h : s.fretRefused k p u = true ∨ s.fretOf k p u ≠ none) :
    s.fretCmdInstall k p u = s.raise (F.pccFretStatus_REFUSED k p) :=
  if_pos (by rw [Bool.or_eq_true, Option.isSome_iff_ne_none]; exact h)

theorem State.fretCmdInstall_free (s : State) (k p u : Nat) (h : ¬ s.fretRefused k p u = true) (hnone : s.fretOf k p u = none) :
    s.fretCmdInstall k p u = s.fretDue k p u true :=
  if_neg (by simp [h, hnone])

theorem State.fretCmdRemove_refused (s : State) (k p u : Nat) (h : s.fretRefused k p u = true ∨ s.fretOf k p u = none) :
    s.fretCmdRemove k p u = s.raise (F.pccFretStatus_REFUSED k p) := by
  unfold State.fretCmdRemove
  cases hof : s.fretOf k p u with
  | none => rfl
  | some e => exact if_pos (h.resolve_right (by simp [hof]))

/-- A removal evaluates the piece that it has put at its place. -/
theorem State.fretCmdRemove_taken (s : State) (k p u e : Nat) (q : Piece) (h : ¬ s.fretRefused k p u = true) (he : s.fretOf k p u = some e)
    (hq : ((s.fretPut k p u e true true).pcc k p).piece? s.nextPiece = some q) :
    s.fretCmdRemove k p u = (s.fretPut k p u e true true).evaluate k p q := by
  unfold State.fretCmdRemove
  simp only [he, h, if_false, hq, Bool.false_eq_true]

/-- Where no migration forbids it, an install that is due takes the lowest free entry or overflows (R272, Table 9.5). -/
theorem State.fretDue_eq (s : State) (k p u : Nat) (byCmd : Bool) (hmig : ∀ m, s.mig k = some m → m.st ≠ .swapHold ∨ m.src ≠ p) :
    (s.fretFree k p = none → s.fretDue k p u byCmd = s.fretOverflow k p u) ∧
      ∀ i, s.fretFree k p = some i → s.fretDue k p u byCmd = s.fretPut k p u i byCmd false := by
  have hhold : ((s.mig k).any fun m => m.st == .swapHold && m.src == p) = false := by
    cases hm : s.mig k with
    | none => rfl
    | some m =>
      rw [Option.any_some, Bool.and_eq_false_iff, beq_eq_false_iff_ne, beq_eq_false_iff_ne]
      exact hmig m hm
  unfold State.fretDue
  rw [hhold]
  exact ⟨fun h => by rw [h] <;> rfl, fun i h => by rw [h] <;> rfl⟩

theorem State.setPcc_fset (s : State) (k p : Nat) (c : Pcc) (f : Fld) (v : Nat) : (s.fset f v).setPcc k p c = (s.setPcc k p c).fset f v := rfl

/-- HISTORY.CLEAR clears the three counts and the list behind one of them (R275). -/
theorem State.historyClear_sets (s : State) (k p : Nat) (c : Pcc) (hc : s.pcc k p = c) :
    (s.setPcc k p { c with ueList := [] }).sets (s.historyClear k p)
      [(F.pccHistory_UE_ATOMS k p, 0), (F.pccHistory_FRET_OVF k p, 0), (F.pccHistory_STRANDED k p, 0)] := by
  have heq : s.historyClear k p = (s.setPcc k p { c with ueList := [] }).puts
      [(F.pccHistory_STRANDED k p, 0), (F.pccHistory_FRET_OVF k p, 0), (F.pccHistory_UE_ATOMS k p, 0)] := by
    unfold State.historyClear State.modPcc
    rw [State.pcc_fset, State.pcc_fset, State.pcc_fset, hc, State.setPcc_fset, State.setPcc_fset, State.setPcc_fset,
      State.puts_cons, State.puts_cons, State.puts_cons, State.puts_nil]
  rw [heq]
  refine State.sets_puts_perm _ _ _ ?_ ?_ (fun e => by simp only [List.mem_cons, List.not_mem_nil, or_false]; grind)
  · simp [Fld.Fits, F.pccHistory_STRANDED, F.pccHistory_FRET_OVF, F.pccHistory_UE_ATOMS]
  · simp [F.pccHistory_STRANDED, F.pccHistory_FRET_OVF, F.pccHistory_UE_ATOMS]

theorem exec_historyClear (k : Fin 8) (p : Fin 64) (s : State) (hready : s.cpReady) (hk : k.val < s.build.nStacks) :
    exec (.historyClear k p) s = .next (s.cpOk.historyClear k.val p.val) :=
  s.cpStk_ready k (.historyClear k p) (fun u => u.historyClear k.val p.val) hready hk

/-- Settles O49: each command meets its refusals first; a job takes its place once (`fretPut_pcc`), and an install writes its entry
and counts itself, which the error log and the event leave alone. -/
theorem fretEntries : Obligations.FretEntries := by
  unfold Obligations.FretEntries
  refine ⟨fun k p i s hready hk => ?_, fun k p u byCmd s => ?_, fun k p u e byCmd remove s => ?_, fun k p s => ?_, fun k p s hready hk => ?_⟩
  · intro bad
    have hbad : bad ↔ s.cpOk.fretRefused k.val p.val i.toNat = true := (s.cpOk.fretRefused_iff k.val p.val i.toNat).symm
    have hinstall := s.cpStk_ready k (.fretCmdInstall k p i) (fun u => u.fretCmdInstall k.val p.val i.toNat) hready hk
    have hremove := s.cpStk_ready k (.fretCmdRemove k p i) (fun u => u.fretCmdRemove k.val p.val i.toNat) hready hk
    have hrefused : s.cpOk.sets (s.cpOk.raise (F.pccFretStatus_REFUSED k.val p.val)) [(F.pccFretStatus_REFUSED k.val p.val, 1)] :=
      s.cpOk.sets_raise_alone _ (Fld.ok_mk (by decide))
    rw [hbad]
    refine ⟨fun h => ⟨_, hinstall.trans (congrArg _ (State.fretCmdInstall_refused _ _ _ _ h)), hrefused⟩,
      fun h hnone => hinstall.trans (congrArg _ (State.fretCmdInstall_free _ _ _ _ h hnone)),
      fun h => ⟨_, hremove.trans (congrArg _ (State.fretCmdRemove_refused _ _ _ _ h)), hrefused⟩, fun e h he => ?_⟩
    obtain ⟨-, q, hq, -, hu, -, hkind⟩ := s.cpOk.fretPut_pcc k.val p.val i.toNat e true true
    exact ⟨q, hq, hkind, hu, hremove.trans (congrArg _ (State.fretCmdRemove_taken _ _ _ _ e q h he hq))⟩
  · intro c hmig free
    have hfree : ∀ i, (!s.flag (F.pccFretEnt_VALID k.val p.val i) && !((s.pcc k.val p.val).fretQ.any fun f => !f.remove && f.entry == i)) = true ↔
        free i := s.fretFree_iff k.val p.val
    obtain ⟨hfull, htaken⟩ := s.fretDue_eq k.val p.val u byCmd hmig
    refine ⟨fun i hi hit hfirst => htaken i ?_, fun h => hfull ?_⟩
    · exact List.find?_range_eq_some.2 ⟨(hfree i).2 hit, List.mem_range.2 hi, fun j hj => by
        rw [Bool.not_eq_true', ← Bool.not_eq_true, hfree j]; exact hfirst j hj⟩
    · exact List.find?_range_eq_none.2 fun i hi => by rw [Bool.not_eq_true', ← Bool.not_eq_true, hfree i]; exact h i hi
  · obtain ⟨hqueue, q, hq, hid, hu, hless, hkind⟩ := s.fretPut_pcc k.val p.val u e byCmd remove
    exact ⟨s.fretPut_frame k.val p.val u e byCmd remove, hqueue, q, List.mem_of_find?_eq_some hq, hid, hu, hless, hkind⟩
  · refine ⟨exec_fretInstall_none k p s, fun f h => ?_⟩
    have hexec := exec_fretInstall k p s f h
    refine ⟨fun hsome => hexec.trans (congrArg _ (if_pos (Option.isSome_iff_ne_none.2 hsome))), fun hnone _ hu =>
      ⟨_, hexec.trans (congrArg _ (if_neg (by simp [hnone]))), State.fretMake_frame _ _ _ _, ?_⟩⟩
    obtain ⟨hvalid, hatom, hpoisoned, hcount⟩ := State.fretMake_spec
      (s.setPcc k.val p.val { s.pcc k.val p.val with fretQ := (s.pcc k.val p.val).fretQ.erase f }) k.val p.val f hu
    exact ⟨hvalid, hatom, hpoisoned, hcount, (State.fretMake_events _ k.val p.val f).trans (State.events_post_congr s _ _ _ _ _ rfl rfl)⟩
  · exact ⟨_, exec_historyClear k p s hready hk, s.cpOk.historyClear_sets k.val p.val _ rfl⟩

end Sys2Proof.Machine

/-! PROOFS. Retirements requested and started; a chunk of a migration (R276 to R279, Table 9.4). -/
namespace Sys2Proof.Machine

/-! ### What keeps the power state -/

theorem State.forEach_power {α : Type} (f : State → α → State) (hf : ∀ t a, (f t a).power = t.power) (l : List α) (s : State) :
    (s.forEach l f).power = s.power := by
  induction l generalizing s with
  | nil => rfl
  | cons a l ih => exact (ih (f s a)).trans (hf s a)

theorem State.settleOutput_power (s : State) (k p : Nat) : (s.settleOutput k p).power = s.power := by rw [s.settleOutput_frame k p]

theorem State.holdIng_power (s : State) (k p : Nat) (h : HwHold) : (s.holdIng k h p).power = s.power := State.settleOutput_power _ k p

theorem State.freeIng_power (s : State) (k p : Nat) (h : HwHold) : (s.freeIng k h p).power = s.power := State.settleOutput_power _ k p

theorem State.errLog_power (s : State) (k ty src ppc syms first : Nat) (m : Bool) (a : Nat) :
    (s.errLog k ty src ppc syms first m a).power = s.power := by
  have h : s.RegsOnly (s.errLog k ty src ppc syms first m a) := .errLog (.refl s) ..
  exact (congrArg State.power h :)

theorem State.ownDrop_power (s : State) (o : Own) : (s.ownDrop o).power = s.power := by
  unfold State.ownDrop
  split <;> rfl

theorem State.clearFret_power (s : State) (k p : Nat) : (s.clearFret k p).power = s.power :=
  State.forEach_power (fun t i => t.setReg (A.pccFretEnt k p i) 0) (fun t _ => t.setReg_power _ _) _ s

theorem State.endMig_power (s : State) (k : Nat) : (s.endMig k).power = s.power := by
  unfold State.endMig
  split
  · rfl
  · simp only [State.freeIng_power, State.ownDrop_power, State.fset_power, State.setMig_power]

theorem State.migStart_power (s : State) (k : Nat) (m : Mig) : (s.migStart k m).power = s.power := by
  unfold State.migStart
  simp only [State.freeIng_power, State.setBow_power, State.setMig_power, State.post_power, State.raise_eq, State.fset_power]

theorem State.migSwap_power (s : State) (k : Nat) (m : Mig) : (s.migSwap k m).power = s.power := by
  unfold State.migSwap
  rw [State.endMig_power, State.post_power, State.fset_power, State.setSalvage_power, State.fset_power, State.modPcc, State.setPcc_power,
    State.setZm, State.fset_power, State.clearFret_power, State.setMaskBit_eq, State.fset_power, State.fset_power, State.fset_power]

theorem State.migProceed_power (s : State) (k : Nat) : (s.migProceed k).power = s.power := by
  unfold State.migProceed
  split
  · rfl
  · split
    · exact s.migStart_power k _
    · split
      · exact s.migSwap_power k _
      · rfl

theorem State.chunkWrite_power (s : State) (k : Nat) (m : Mig) (c : Nat) (d : List (Atom × Bool)) : (s.chunkWrite k m c d).power = s.power :=
  (State.forEach_power _ (fun t i => t.errLog_power k 7 2 m.src 0 0 false (addrOfU t.build t.order k m.lpc (c + i))) _ _).trans
    (s.ownDrop_power _)

theorem State.chunkDone_power (s : State) (k : Nat) (m : Mig) (c : Nat) : (s.chunkDone k m c).power = s.power := by
  unfold State.chunkDone
  dsimp only
  split
  · rfl
  · rw [State.migProceed_power, State.holdIng_power, State.holdIng_power]
    rfl

/-- A look at an entry to RETAIN changes nothing where there is none. -/
theorem State.retainProceed_rest (s : State) (h : s.power ≠ .entering) : s.retainProceed = s :=
  State.forEach_same s _ _ fun _ _ => if_pos (by simpa using h)

/-! ### The masks of pending retirements and of spares -/

/-- The lowest bit of a mask, where there is one. -/
theorem lowestBit_eq (m t : Nat) (ht : t < 64) (hbit : m.testBit t = true) (hlow : ∀ j < t, m.testBit j = false) : lowestBit m = some t :=
  List.find?_range_eq_some.2 ⟨hbit, List.mem_range.2 ht, fun j hj => by rw [hlow j hj]; rfl⟩

theorem lowestBit_none (m : Nat) (h : ∀ t < 64, m.testBit t = false) : lowestBit m = none :=
  List.find?_range_eq_none.2 fun t ht => by rw [h t ht]; rfl

theorem lowestBit_lt (m t : Nat) (h : lowestBit m = some t) : t < 64 := List.mem_range.1 (List.mem_of_find?_eq_some h)

/-- A bit of a mask register that fills its word, written alone. -/
theorem State.setMaskBit_sets (s : State) (f : Fld) (i : Nat) (b : Bool) (hhi : f.hi = 63) (hlo : f.lo = 0) (hi : i < 64) :
    s.sets (s.setMaskBit f i b) [(f, bitsPut (s.fget f) i i (bit b))] ∧
      ∀ j, (bitsPut (s.fget f) i i (bit b)).testBit j = if j = i then b else (s.fget f).testBit j := by
  have hwidth : 2 ^ (f.hi + 1 - f.lo) = 2 ^ 64 := by rw [hhi, hlo]
  have hlt : s.fget f < 2 ^ 64 := hwidth ▸ bitsOf_lt ..
  refine ⟨s.sets_fset_alone _ _ ⟨by omega, by omega⟩ (hwidth ▸ bitsPut_lt _ _ _ _ (by omega) hi hlt), fun j => ?_⟩
  rw [testBit_bitsPut _ _ _ _ _ (by omega)]
  rcases Nat.lt_trichotomy j i with h | rfl | h
  · rw [if_pos h, if_neg (by omega)]
  · rw [if_neg (by omega), if_pos (Nat.le_refl j), if_pos rfl, Nat.sub_self]
    cases b <;> rfl
  · rw [if_neg (by omega), if_neg (by omega), if_neg (by omega)]

/-! ### A retirement falls due, is refused, or starts -/

theorem State.retireRefused_iff (s : State) (k l : Nat) : s.retireRefused k l = true ↔
    s.build.N ≤ l ∨ s.fget (F.pcmapEntry_STATE k l) ≠ 0 ∨ (s.fget (F.migPending_MASK k)).testBit l = true ∨
      (s.flag (F.migStatus_ACTIVE k) = true ∧ s.fget (F.migStatus_LPC k) = l) := by
  unfold State.retireRefused State.maskBit State.migrating
  simp [or_assoc]

/-- A retirement that nothing forbids is pending with its reason (R276). -/
theorem State.retireDue_sets (s : State) (k p l reason : Nat) (hl : l < 64) (hlpc : s.lpcOf k p = some l) (hreason : reason < 256)
    (hpending : (s.fget (F.migPending_MASK k)).testBit l = false)
    (hmigrating : ¬ (s.flag (F.migStatus_ACTIVE k) = true ∧ s.fget (F.migStatus_LPC k) = l)) :
    ∃ m, ({ s with migReasons := SMap.put s.migReasons 0 (k * 64 + l) reason } : State).sets (s.retireDue k p reason)
        [(F.migPending_MASK k, m), (F.pccHistory_REASON k p, reason)] ∧
      ∀ i, m.testBit i = ((s.fget (F.migPending_MASK k)).testBit i || i == l) := by
  obtain ⟨hsets, hbits⟩ := s.setMaskBit_sets (F.migPending_MASK k) l true rfl rfl hl
  have heq : s.retireDue k p reason = ({ ((s.setMaskBit (F.migPending_MASK k) l true).fset (F.pccHistory_REASON k p) reason) with
      migReasons := SMap.put s.migReasons 0 (k * 64 + l) reason } : State) := by
    unfold State.retireDue
    rw [hlpc]
    exact if_neg (by simpa [State.maskBit, hpending] using hmigrating)
  have hne : A.pccHistory k p ≠ A.migPending k := by
    change 0x108108 + k * 0x20000 + p * 0x200 ≠ 0x102230 + k * 0x20000
    omega
  have hboth := s.sets_fset _ _ (F.pccHistory_REASON k p) reason reason (Fld.ok_mk (by decide)) (Nat.mod_eq_of_lt hreason)
    (by simpa using .inl hne) hsets
  refine ⟨_, ?_, fun i => (hbits i).trans ?_⟩
  · rw [heq]
    refine State.sets_perm _ _ _ _ (fun e => by simp only [List.mem_cons, List.not_mem_nil, or_false]; grind) (s.sets_congr _ _ _ _ hboth rfl rfl)
  · by_cases hi : i = l <;> simp [hi]

theorem State.retireNext_none (s : State) (k : Nat) (h : s.power ≠ .active ∨ s.flag (F.migStatus_ACTIVE k) = true ∨
    s.flag (F.pcmapEdit_EDIT k) = true ∨ s.flag (F.bowStatus_SANITISE k) = true ∨ s.fget (F.migPending_MASK k) = 0) :
    s.retireNext k = none := by
  unfold State.retireNext
  rw [ite_eq_left_iff]
  intro hgo
  simp only [Bool.or_eq_true, bne_iff_ne, not_or] at hgo
  obtain ⟨⟨⟨hpower, hactive⟩, hedit⟩, hsan⟩ := hgo
  have hzero : s.fget (F.migPending_MASK k) = 0 :=
    (((h.resolve_left hpower).resolve_left hactive).resolve_left hedit).resolve_left hsan
  rw [hzero]
  exact lowestBit_none _ fun t _ => Nat.zero_testBit t

/-- The state in which the retirement that starts is looked at: it is pending no more. -/
def State.retireTaken (s : State) (k l : Nat) : State := s.setMaskBit (F.migPending_MASK k) l false

theorem exec_retirementStart (k : Fin 8) (s : State) (l : Nat) (h : s.retireNext k.val = some l) :
    exec (.retirementStart k) s =
      if (s.retireTaken k.val l).fget (F.pcmapEntry_STATE k.val l) = 3 then .next (s.retireTaken k.val l)
      else match lowestBit ((s.retireTaken k.val l).fget (F.pcmapSpare_MASK k.val)) with
        | some t => .next ((s.retireTaken k.val l).migBegin k.val l t)
        | none => .next ((s.retireTaken k.val l).noSpare k.val l) := by
  change execRetirementStart k s = _
  unfold execRetirementStart
  rw [h] <;> rfl

/-- The mask of pending retirements shares no register with the map's entry nor with SPARE. -/
theorem State.fget_retireTaken (s : State) (k l : Nat) (hl : l < 64) :
    (s.retireTaken k l).fget (F.pcmapEntry_STATE k l) = s.fget (F.pcmapEntry_STATE k l) ∧
      (s.retireTaken k l).fget (F.pcmapSpare_MASK k) = s.fget (F.pcmapSpare_MASK k) := by
  refine ⟨s.fget_fset_apart (F.migPending_MASK k) _ _ (Fld.ok_mk (by decide)) (.inl ?_),
    s.fget_fset_apart (F.migPending_MASK k) _ _ (Fld.ok_mk (by decide)) (.inl ?_)⟩
  · change 0x102230 + k * 0x20000 ≠ 0x102000 + k * 0x20000 + l * 8
    omega
  · change 0x102230 + k * 0x20000 ≠ 0x102200 + k * 0x20000
    omega

theorem State.retireNext_lt (s : State) (k l : Nat) (h : s.retireNext k = some l) : l < 64 := by
  unfold State.retireNext at h
  split at h
  · cases h
  · exact lowestBit_lt _ l h

/-! ### MIGRATION_CHUNK_DONE -/

theorem exec_migrationChunkDone (k : Fin 8) (s t : State) (h : s.migChunkDone k.val = t) (hpower : t.power ≠ .entering) :
    exec (.migrationChunkDone k) s = .next t := by
  change Host.Outcome.next (s.migChunkDone k.val).retainProceed = _
  rw [h, t.retainProceed_rest hpower]

section
variable (s : State) (k : Nat) (m : Mig) (c : Nat) (hm : s.mig k = some m) (hc : m.chunk = some c)
include hm hc

theorem State.migChunkDone_written (id : Nat) (d : Direct) (h : s.has (.copyWrite k) id d) :
    s.migChunkDone k = if d = .done then (s.dropReq id).chunkDone k m c else s := by
  obtain ⟨r, hfind, hd⟩ := h
  unfold State.migChunkDone
  simp only [hm, hc, hfind, hd]
  cases d <;> rfl

theorem State.migChunkDone_read (h : s.ownFind (.copyWrite k) = none) :
    s.migChunkDone k = match s.chunkData k m with
      | some d => s.chunkWrite k m c d
      | none => s := by
  unfold State.migChunkDone
  simp only [hm, hc, h] <;> rfl

end

/-- What the copy read has brought, by how it stands. -/
theorem State.chunkData_lost (s : State) (k : Nat) (m : Mig) (h : m.oldLost = true) :
    s.chunkData k m = some (List.replicate 16 (0, true)) := if_pos h

theorem State.chunkData_unread (s : State) (k : Nat) (m : Mig) (h : m.oldLost = false) (hfind : s.ownFind (.copyRead k) = none) :
    s.chunkData k m = none := by
  unfold State.chunkData
  simp only [h, hfind, Bool.false_eq_true, if_false]

theorem State.chunkData_read (s : State) (k : Nat) (m : Mig) (id : Nat) (r : Req) (h : m.oldLost = false)
    (hfind : s.ownFind (.copyRead k) = some (id, r)) :
    s.chunkData k m = if ∃ a ∈ r.res, a.st = .waiting then none
      else some (r.res.map fun a => if a.st = .ok then (a.data, false) else (0, true)) := by
  unfold State.chunkData
  simp only [h, hfind, Bool.false_eq_true, if_false, List.any_eq_true, beq_iff_eq]

theorem State.setMig_fset (s : State) (k : Nat) (m : Option Mig) (f : Fld) (v : Nat) : (s.fset f v).setMig k m = (s.setMig k m).fset f v := rfl

theorem State.setMig_count (s : State) (k : Nat) (m : Option Mig) (f : Fld) (n : Nat) : (s.count f n).setMig k m = (s.setMig k m).count f n := rfl

/-- A chunk that is not the last moves the pointer and counts its atoms (R279). -/
theorem State.chunkDone_more (s : State) (k : Nat) (m : Mig) (c : Nat) (hmore : c + 16 < s.build.dataAtoms) (hfit : c + 16 < 2 ^ 25) :
    (s.setMig k (some { m with chunk := none })).sets (s.chunkDone k m c)
      [(F.migStatus_POINTER k, c + 16), (F.bowCopyAtoms_COUNT k, s.wrapped (F.bowCopyAtoms_COUNT k) 16)] := by
  have heq : s.chunkDone k m c = ((s.setMig k (some { m with chunk := none })).count (F.bowCopyAtoms_COUNT k) 16).fset
      (F.migStatus_POINTER k) (c + 16) := by
    rw [← State.setMig_count, ← State.setMig_fset]
    exact if_pos hmore
  have hne : A.migStatus k ≠ A.bowCopyAtoms k := by
    change 0x102228 + k * 0x20000 ≠ 0x103048 + k * 0x20000
    omega
  rw [heq]
  refine State.sets_fset _ _ _ _ _ _ (Fld.ok_mk (by decide)) (Nat.mod_eq_of_lt hfit) (by simpa using .inl hne) ?_
  exact State.sets_fset _ _ [] _ _ _ (Fld.ok_mk (by decide)) rfl (by simp) (State.sets_nil _)

/-- A write of 16 sound atoms logs nothing. -/
theorem State.chunkWrite_sound (s : State) (k : Nat) (m : Mig) (c : Nat) (d : List (Atom × Bool))
    (h : ∀ i < 16, (d.getD i (0, false)).2 = false) :
    s.chunkWrite k m c d = (s.ownDrop (.copyRead k)).ownStart (.copyWrite k) (s.bowAccess (some m.dst)) .write
      (addrOfU s.build s.order k m.lpc c) 16 (d.map (·.1)) (d.map (·.2)) [] := by
  have hnone : ((List.range 16).filter fun i => (d.getD i (0, false)).2) = [] :=
    List.filter_eq_nil_iff.2 fun i hi => by rw [h i (List.mem_range.1 hi)]; exact Bool.false_ne_true
  have hdrop : ∀ o, (s.ownDrop o).bowAccess (some m.dst) = s.bowAccess (some m.dst) ∧ (s.ownDrop o).build = s.build ∧
      (s.ownDrop o).order = s.order := fun o => by
    unfold State.ownDrop
    split <;> exact ⟨rfl, rfl, rfl⟩
  obtain ⟨haccess, hbuild, horder⟩ := hdrop (.copyRead k)
  unfold State.chunkWrite
  dsimp only
  rw [hnone, State.forEach_nil, haccess, hbuild, horder]

/-- With no spare a retirement strands, and its event is posted (R277). -/
theorem State.noSpare_strands (s : State) (k l : Nat) (h : SMap.get s.migReasons 0 (k * 64 + l) ≠ 3) :
    (s.post 0x030A (unitPc k (s.fget (F.pcmapEntry_PPC k l))) (argPc k (s.fget (F.pcmapEntry_PPC k l))) l).sets (s.noSpare k l)
      [(F.pccHistory_STRANDED k (s.fget (F.pcmapEntry_PPC k l)), 1)] := by
  have heq : s.noSpare k l = (s.raise (F.pccHistory_STRANDED k (s.fget (F.pcmapEntry_PPC k l)))).post 0x030A
      (unitPc k (s.fget (F.pcmapEntry_PPC k l))) (argPc k (s.fget (F.pcmapEntry_PPC k l))) l := if_neg h
  rw [heq]
  refine State.sets_post _ _ _ _ _ _ _ (List.forall_mem_singleton.2 ?_) (s.sets_raise_alone _ (Fld.ok_mk (by decide)))
  change 0x108108 + k * 0x20000 + _ * 0x200 ≠ 0x000320
  omega

/-- Settles O50: a retirement is refused or pending; the lowest pending one starts by what the masks hold; a chunk goes on by how its two
accesses stand, and an entry to RETAIN looks at nothing where there is none (`retainProceed_rest`). -/
theorem retirementRuns : Obligations.RetirementRuns := by
  unfold Obligations.RetirementRuns
  refine ⟨fun k l s hready hk => ?_, fun k s => ⟨fun h => ?_, fun l hl => ?_⟩, fun k l s => ⟨fun h => if_pos h, fun h => ⟨_, rfl, s.noSpare_strands k.val l h⟩⟩,
    fun k s hpower hno => ?_, fun k s m c hpower hm hc => ⟨fun id hdone => ?_, fun id d hwrite hd => ?_, fun hnone => ⟨fun hlost => ?_,
      fun hkept hread => ?_, fun id r hkept hread => ⟨fun hwait => ?_, fun hall => ?_⟩⟩⟩, fun k c s m d h => s.chunkWrite_sound k m c d h⟩
  · have hexec := s.cpStk_ready k (.migRetireCmd k l) (fun u => u.started.migRetire k.val l.val) hready hk
    intro u p refused
    have hrefused : refused ↔ u.retireRefused k.val l.val = true := (u.retireRefused_iff k.val l.val).symm
    refine ⟨fun h => ⟨_, hexec.trans (congrArg _ (if_pos (hrefused.1 h))), u.sets_raise_alone _ (Fld.ok_mk (by decide))⟩, fun h hlpc => ?_⟩
    obtain ⟨-, -, hpending, hmigrating⟩ : _ ∧ _ ∧ _ ∧ _ := by simpa only [refused, not_or] using h
    obtain ⟨m, hsets, hbits⟩ := u.retireDue_sets k.val p l.val 4 l.isLt hlpc (by omega) (Bool.not_eq_true _ ▸ hpending) hmigrating
    exact ⟨_, m, hexec.trans (congrArg _ (if_neg (mt hrefused.2 h))), hsets, fun i _ => hbits i⟩
  · change execRetirementStart k s = _
    unfold execRetirementStart
    rw [s.retireNext_none k.val h]
  · have hlt := s.retireNext_lt k.val l hl
    obtain ⟨hstate, hspare⟩ := s.fget_retireTaken k.val l hlt
    obtain ⟨hsets, hbits⟩ := s.setMaskBit_sets (F.migPending_MASK k.val) l false rfl rfl hlt
    have hexec := exec_retirementStart k s l hl
    rw [hstate, hspare] at hexec
    refine ⟨s.retireTaken k.val l, _, hsets, fun i _ => ?_, fun h => ?_, fun h hno => ?_, fun t ht h hbit hlow => ?_⟩
    · rw [hbits]
      by_cases hi : i = l <;> simp [hi]
    · rw [hexec, if_pos h]
    · rw [hexec, if_neg h, lowestBit_none _ hno]
    · rw [hexec, if_neg h, lowestBit_eq _ t ht hbit hlow]
  · refine exec_migrationChunkDone k s s ?_ hpower
    unfold State.migChunkDone
    split
    · rfl
    · next m hm => rw [hno m hm]
  · have hgo := exec_migrationChunkDone k s _ ((s.migChunkDone_written k.val m c hm hc id .done hdone).trans (if_pos rfl))
      (by rw [State.chunkDone_power]; exact hpower)
    exact ⟨hgo, fun hmore hfit => ⟨_, hgo, (s.dropReq id).chunkDone_more k.val m c hmore hfit⟩⟩
  · exact exec_migrationChunkDone k s s ((s.migChunkDone_written k.val m c hm hc id d hwrite).trans (if_neg hd)) hpower
  all_goals have hgo := s.migChunkDone_read k.val m c hm hc hnone
  · rw [s.chunkData_lost k.val m hlost] at hgo
    exact exec_migrationChunkDone k s _ hgo (by rw [State.chunkWrite_power]; exact hpower)
  · rw [s.chunkData_unread k.val m hkept hread] at hgo
    exact exec_migrationChunkDone k s s hgo hpower
  · rw [s.chunkData_read k.val m id r hkept hread, if_pos hwait] at hgo
    exact exec_migrationChunkDone k s s hgo hpower
  · rw [s.chunkData_read k.val m id r hkept hread, if_neg (fun ⟨a, ha, hst⟩ => hall a ha hst)] at hgo
    exact exec_migrationChunkDone k s _ hgo (by rw [State.chunkWrite_power]; exact hpower)

end Sys2Proof.Machine

/-! PROOFS. The duties of a Bow engine: the choice of a chunk, the canaries, sanitisation (R363 to R369, Tables 12.2, 12.3). -/
namespace Sys2Proof.Machine

/-! ### The duties keep the power state -/

theorem State.retainChunk_power (s u : State) (k i row : Nat) (h : s.retainChunk k i row = some u) : u.power = s.power := by
  obtain ⟨n, -, rfl⟩ := Option.map_eq_some_iff.1 h
  rfl

theorem State.canaryChunk_power (s u : State) (k : Nat) (h : s.canaryChunk k = some u) : u.power = s.power := by
  unfold State.canaryChunk at h
  split at h
  · cases h
  split at h
  · cases h
  · obtain ⟨n, -, rfl⟩ := Option.map_eq_some_iff.1 h
    rfl
  · split at h
    · cases h
      rfl
    · split at h
      · exact s.retainChunk_power u k 0 0 h
      · cases h
  · exact s.retainChunk_power u k _ _ h

theorem State.sanChunk_power (s u : State) (k : Nat) (h : s.sanChunk k = some u) : u.power = s.power := by
  unfold State.sanChunk at h
  split at h
  · cases h
  · obtain ⟨n, -, rfl⟩ := Option.map_eq_some_iff.1 h
    rfl

theorem State.chunkRead_power (s : State) (k : Nat) (m : Mig) (c : Nat) : (s.chunkRead k m c).power = s.power := by
  unfold State.chunkRead
  split <;> rfl

theorem State.copyStart_power (s u : State) (k : Nat) (h : s.copyStart k = some u) : u.power = s.power := by
  unfold State.copyStart at h
  split at h
  · cases h
  · split at h
    · obtain ⟨d, -, rfl⟩ := Option.map_eq_some_iff.1 h
      exact State.chunkRead_power _ k _ _
    · cases h

theorem State.ownStart_power (s : State) (o : Own) (x : Access) (kind : PKind) (a n : Nat) (data : List Atom) (poison : List Bool)
    (be : List (BitVec 64)) : (s.ownStart o x kind a n data poison be).power = s.power := rfl

theorem State.scanStart_power (s v : State) (k u : Nat) (h : s.scanStart k u = some v) : v.power = s.power := by
  unfold State.scanStart at h
  dsimp only at h
  split at h
  · obtain ⟨d, -, rfl⟩ := Option.map_eq_some_iff.1 h
    rw [State.ownStart_power, State.setBow_power, State.setChk_power]
  · cases h

theorem State.scrubPast_power (s : State) (k p : Nat) : (s.scrubPast k p).power = s.power := by
  unfold State.scrubPast
  split
  · rfl
  · unfold State.scrubNextBank
    dsimp only
    split
    · rfl
    · split <;> rfl

theorem State.scrubStart_power (s u : State) (k : Nat) (h : s.scrubStart k = some u) : u.power = s.power := by
  unfold State.scrubStart at h
  split at h
  · cases h
  split at h
  · cases h
    exact s.scrubPast_power k 63
  · dsimp only at h
    split at h
    · cases h
    · obtain ⟨d, -, rfl⟩ := Option.map_eq_some_iff.1 h
      exact State.scrubPast_power _ k _

/-! ### BOW_CHUNK_START -/

theorem exec_bowChunkStart (k : Fin 8) (s u : State) (hk : k.val < s.build.nStacks) (h : s.bowChunk k.val = u) (hpower : u.power ≠ .entering) :
    exec (.bowChunkStart k) s = .next u := by
  change Host.Outcome.next (if k.val < s.build.nStacks then (s.bowChunk k.val).retainProceed else s) = _
  rw [if_pos hk, h, u.retainProceed_rest hpower]

/-- Outside ACTIVE only canary work is done. -/
theorem State.bowChunk_inactive (s : State) (k : Nat) (h : s.power ≠ .active) :
    s.bowChunk k = (if s.coreOn then s.canaryChunk k else none).getD s := if_pos (by simpa using h)

/-- The scan of lowest unit that is ready. -/
def State.scanFirst (s : State) (k : Nat) : Option State := (List.range 4).foldl (fun o u => orElse2 o (s.scanStart k u)) none

theorem foldl_orElse2 (f : Nat → Option State) (l : List Nat) (o : Option State) :
    l.foldl (fun o u => orElse2 o (f u)) o = orElse2 o (l.findSome? f) := by
  induction l generalizing o with
  | nil => cases o <;> rfl
  | cons a l ih =>
    rw [List.foldl_cons, ih, List.findSome?_cons]
    cases o with
    | some s => rfl
    | none => cases f a <;> rfl

theorem State.scanFirst_none (s : State) (k : Nat) (h : ∀ j < 4, s.scanStart k j = none) : s.scanFirst k = none := by
  unfold State.scanFirst
  rw [foldl_orElse2, List.findSome?_eq_none_iff.2 fun j hj => h j (List.mem_range.1 hj)]
  rfl

theorem State.scanFirst_some (s u : State) (k i : Nat) (hi : i < 4) (h : s.scanStart k i = some u) (hlow : ∀ j < i, s.scanStart k j = none) :
    s.scanFirst k = some u := by
  unfold State.scanFirst
  rw [foldl_orElse2]
  have hsplit : List.range 4 = List.range i ++ i :: (List.range' (i + 1) (3 - i)) := by
    obtain rfl | rfl | rfl | rfl : i = 0 ∨ i = 1 ∨ i = 2 ∨ i = 3 := by omega
    all_goals rfl
  rw [hsplit, List.findSome?_append, List.findSome?_eq_none_iff.2 fun j hj => hlow j (List.mem_range.1 hj), List.findSome?_cons, h]
  rfl

/-- In ACTIVE the first duty of Table 12.2 that is ready. -/
theorem State.bowChunk_active (s : State) (k : Nat) (h : s.power = .active) :
    s.bowChunk k = (orElse2 (s.canaryChunk k) (orElse2 (s.sanChunk k) (orElse2 (s.copyStart k)
      (orElse2 (s.scanFirst k) (s.scrubStart k))))).getD s := by
  have hon : s.coreOn = true := by
    unfold State.coreOn
    rw [h]
  have hpower : ¬ (s.power != .active) = true := by rw [h]; decide
  have heq : s.bowChunk k = if s.power != .active then (if s.coreOn then s.canaryChunk k else none).getD s
      else (orElse2 (if s.coreOn then s.canaryChunk k else none) (orElse2 (s.sanChunk k) (orElse2 (s.copyStart k)
        (orElse2 (s.scanFirst k) (s.scrubStart k))))).getD s := rfl
  rw [heq, hon, if_neg hpower, if_pos rfl]

/-- BOW_CHUNK_START of a stack that is built, by what is ready (R364). -/
theorem exec_bowChunkStart_active (k : Fin 8) (s u : State) (hk : k.val < s.build.nStacks) (hactive : s.power = .active)
    (hchoice : orElse2 (s.canaryChunk k.val) (orElse2 (s.sanChunk k.val) (orElse2 (s.copyStart k.val)
      (orElse2 (s.scanFirst k.val) (s.scrubStart k.val)))) = some u) (hpower : u.power = s.power) :
    exec (.bowChunkStart k) s = .next u := by
  refine exec_bowChunkStart k s u hk ?_ (by rw [hpower, hactive]; decide)
  rw [s.bowChunk_active k.val hactive, hchoice]
  rfl

/-! ### Pacing (R364) -/

theorem Pace.mayStart_free (d : Pace) (now : Nat) : d.mayStart 0 now = some d := if_pos rfl

theorem Pace.mayStart_eq (d : Pace) (rate now : Nat) (h : 0 < rate) : d.mayStart rate now =
    if now < d.t0 + ceilDiv (d.bytes * 1000) rate then none
    else if 1024 * 1000 / rate < now - (d.t0 + ceilDiv (d.bytes * 1000) rate) then some ⟨now, 0⟩ else some d :=
  if_neg (Nat.ne_of_gt h)

/-! ### The registers and PCCs that sanitisation and the canaries clear -/

theorem State.pcc_setPcc_other (s : State) (k p q : Nat) (c : Pcc) (hp : p < 64) (hq : q < 64) (h : p ≠ q) :
    (s.setPcc k p c).pcc k q = s.pcc k q :=
  SMap.get_put_other _ _ _ _ _ _ fun he => h ((pcIx_inj hp hq).1 he).2

theorem State.clearFret_reg (s : State) (k p : Nat) :
    (∀ i < 16, (s.clearFret k p).reg (A.pccFretEnt k p i) = 0) ∧
      ∀ a, (∀ i < 16, A.pccFretEnt k p i ≠ a) → (s.clearFret k p).reg a = s.reg a := by
  have hregs := fun b => State.reg_forEach_setReg (A.pccFretEnt k p) (fun _ => 0) 16 b s fun i _ j _ h => by
    unfold A.pccFretEnt at h
    omega
  exact ⟨(hregs 0).1, fun a => (hregs a).2⟩

theorem State.clearFret_frame (s : State) (k p : Nat) : s.RegsOnly (s.clearFret k p) :=
  State.forEach_setReg_frame (List.range 16) (A.pccFretEnt k p) (fun _ => 0) s

/-- A PC's Fret table and zero-map lines are cleared (R368, step 2). -/
def State.sanClear (s : State) (k p : Nat) : State := (s.clearFret k p).modPcc k p fun c => { c with lines := [], zflush := false }

theorem State.sanClear_frame (s : State) (k p : Nat) : s.sanClear k p = { s with regs := (s.sanClear k p).regs, pccs := (s.sanClear k p).pccs } := by
  have h := s.clearFret_frame k p
  unfold State.sanClear State.modPcc
  generalize s.clearFret k p = u at h
  rw [h]
  rfl

theorem State.sanClear_reg (s : State) (k p a : Nat) : (s.sanClear k p).reg a = (s.clearFret k p).reg a := State.reg_setPcc _ k p a _

theorem State.sanClear_lines (s : State) (k p : Nat) : ((s.sanClear k p).pcc k p).lines = [] := by
  unfold State.sanClear
  rw [State.pcc_modPcc_same]

/-- The first `n` PCs cleared. -/
theorem State.sanClear_list (s : State) (k n : Nat) (hn : n ≤ 64) : let t := s.forEach (List.range n) fun s p => s.sanClear k p
    t = { s with regs := t.regs, pccs := t.pccs } ∧
      (∀ p < n, (t.pcc k p).lines = [] ∧ ∀ i < 16, t.reg (A.pccFretEnt k p i) = 0) ∧
      ∀ a, (∀ p < n, ∀ i < 16, A.pccFretEnt k p i ≠ a) → t.reg a = s.reg a := by
  unfold State.forEach
  induction n with
  | zero => exact ⟨rfl, fun p hp => by omega, fun _ _ => rfl⟩
  | succ n ih =>
    obtain ⟨hframe, hcleared, hkept⟩ := ih (by omega)
    rw [List.range_succ, List.foldl_append, List.foldl_cons, List.foldl_nil]
    generalize (List.range n).foldl (fun s p => s.sanClear k p) s = u at hframe hcleared hkept
    obtain ⟨hzero, hother⟩ := u.clearFret_reg k n
    have hpcc : ∀ p, (u.clearFret k n).pcc k p = u.pcc k p := (u.clearFret_frame k n).pcc k
    change (u.sanClear k n = { s with regs := (u.sanClear k n).regs, pccs := (u.sanClear k n).pccs }) ∧
      (∀ p < n + 1, ((u.sanClear k n).pcc k p).lines = [] ∧ ∀ i < 16, (u.sanClear k n).reg (A.pccFretEnt k p i) = 0) ∧
      ∀ a, (∀ p < n + 1, ∀ i < 16, A.pccFretEnt k p i ≠ a) → (u.sanClear k n).reg a = s.reg a
    refine ⟨?_, fun p hp => ?_, fun a ha => ((u.sanClear_reg k n a).trans (hother a (ha n (by omega)))).trans (hkept a fun p hp => ha p (by omega))⟩
    · rw [u.sanClear_frame k n, hframe]
    · by_cases hpn : p = n
      · subst hpn
        exact ⟨u.sanClear_lines k p, fun i hi => (u.sanClear_reg k p _).trans (hzero i hi)⟩
      · obtain ⟨hlines, hregs⟩ := hcleared p (by omega)
        refine ⟨?_, fun i hi => ((u.sanClear_reg k n _).trans (hother _ fun j hj => ?_)).trans (hregs i hi)⟩
        · have hsame : (u.sanClear k n).pcc k p = u.pcc k p :=
            (State.pcc_setPcc_other _ k n p _ (by omega) (by omega) (by omega)).trans (hpcc p)
          rw [hsame]
          exact hlines
        · unfold A.pccFretEnt
          omega

/-! ### BOW.CFG and BOW.CMD -/

theorem State.setBow_if_frame {s v : State} (h : s.RegsOnly v) (c : Prop) [Decidable c] (k : Nat) (b : Bow) :
    (if c then v.setBow k b else v) =
      { s with regs := (if c then v.setBow k b else v).regs, bows := (if c then v.setBow k b else v).bows } := by
  unfold State.RegsOnly at h
  generalize v.regs = r at h
  subst h
  split <;> rfl

/-- What a write of BOW.CFG leaves (R365). -/
theorem State.bowCfgWrite_spec (s : State) (k : Nat) (w : Word) : let t := s.bowCfgWrite k w
    t = { s with regs := t.regs, bows := t.bows } ∧
      (∀ r, RegFile.find (A.bowCfg k) = some r → t.reg (A.bowCfg k) =
        (s.reg (A.bowCfg k) &&& ~~~(BitVec.ofNat 64 r.rw)) ||| (w &&& BitVec.ofNat 64 r.rw)) ∧
      (∀ a, a ≠ A.bowCfg k → a ≠ A.bowStatus k → t.reg a = s.reg a) ∧
      t.flag (F.bowStatus_SCRUB k) = (t.flag (F.bowCfg_SCRUB_EN k) && s.flag F.glbResetStatus_READY && s.power == .active) ∧
      (t.flag (F.bowStatus_SCRUB k) = true → s.flag (F.bowStatus_SCRUB k) = false → (t.bow k).scrub = ⟨s.cadence, 0⟩) := by
  obtain ⟨htaken, hkept⟩ := s.takesRw_putRw (A.bowCfg k) w
  have hframe := s.putRw_frame (A.bowCfg k) w
  have heq : s.bowCfgWrite k w =
      let u := s.putRw (A.bowCfg k) w
      let on := u.flag (F.bowCfg_SCRUB_EN k) && u.flag F.glbResetStatus_READY && u.power == .active
      let v := u.fset (F.bowStatus_SCRUB k) (bit on)
      if on && !s.flag (F.bowStatus_SCRUB k) then v.setBow k { v.bow k with scrub := ⟨v.cadence, 0⟩ } else v := rfl
  have hcfg : A.bowStatus k ≠ A.bowCfg k := by
    change 0x103018 + k * 0x20000 ≠ 0x103000 + k * 0x20000
    omega
  have hready : (s.putRw (A.bowCfg k) w).flag F.glbResetStatus_READY = s.flag F.glbResetStatus_READY :=
    State.flag_of_reg (hkept _ (by change 0x000028 ≠ 0x103000 + k * 0x20000; omega))
  have hpower : (s.putRw (A.bowCfg k) w).power = s.power := by rw [hframe]
  have hcad : (s.putRw (A.bowCfg k) w).cadence = s.cadence := by rw [hframe]
  intro t
  dsimp only at heq
  rw [hready, hpower] at heq
  generalize s.putRw (A.bowCfg k) w = u at *
  generalize hon : (u.flag (F.bowCfg_SCRUB_EN k) && s.flag F.glbResetStatus_READY && s.power == .active) = on at heq
  have hreg : ∀ a, t.reg a = (u.fset (F.bowStatus_SCRUB k) (bit on)).reg a := fun a => by
    change (s.bowCfgWrite k w).reg a = _
    rw [heq]
    split <;> rfl
  have hother : ∀ a, A.bowStatus k ≠ a → t.reg a = u.reg a := fun a ha => (hreg a).trans (State.reg_fset_other _ _ _ _ ha)
  have hscrub : t.flag (F.bowStatus_SCRUB k) = on :=
    (State.flag_of_reg (hreg _)).trans (u.flag_fset_bit (F.bowStatus_SCRUB k) on (Fld.ok_mk (by decide)) rfl)
  refine ⟨?_, fun r hr => (hother _ hcfg).trans (htaken r hr), fun a ha hs => (hother a (Ne.symm hs)).trans (hkept a ha), ?_, fun h hwas => ?_⟩
  · have hv : s.RegsOnly (u.fset (F.bowStatus_SCRUB k) (bit on)) := State.RegsOnly.fset hframe _ _
    change s.bowCfgWrite k w = { s with regs := (s.bowCfgWrite k w).regs, bows := (s.bowCfgWrite k w).bows }
    rw [heq]
    exact State.setBow_if_frame hv _ k _
  · rw [hscrub, ← hon, State.flag_of_reg (hother _ hcfg)]
  · rw [hscrub] at h
    change ((s.bowCfgWrite k w).bow k).scrub = _
    rw [heq, if_pos (by rw [h, hwas]; rfl)]
    refine (congrArg Bow.scrub (SMap.get_put_same _ _ _ _)).trans ?_
    exact congrArg (fun n => (⟨n, 0⟩ : Pace)) hcad

/-- What refuses BOW.CMD OP = 1 (R369). -/
theorem State.sanRefused_iff (s : State) (k : Nat) :
    (s.flag (F.bowStatus_SANITISE k) || !s.ingDrained k || s.flag (F.migStatus_ACTIVE k) || s.flag (F.pcmapEdit_EDIT k)) = true ↔
      s.flag (F.bowStatus_SANITISE k) = true ∨ (∃ p < 64, (s.out k p).st ≠ .drained) ∨ s.flag (F.migStatus_ACTIVE k) = true ∨
        s.flag (F.pcmapEdit_EDIT k) = true := by
  rw [Bool.or_eq_true, Bool.or_eq_true, Bool.or_eq_true, Bool.not_eq_true', ← Bool.not_eq_true, s.ingDrained_iff, or_assoc, or_assoc]
  simp only [Classical.not_forall, Classical.not_imp, exists_prop, ne_eq]

theorem State.frame_setBow {s u v : State} (k : Nat) (b : Bow) (hu : s.RegsOnly u)
    (hv : v = { u.setBow k b with regs := v.regs, pccs := v.pccs }) : v = { s with regs := v.regs, pccs := v.pccs, bows := v.bows } := by
  unfold State.RegsOnly at hu
  generalize u.regs = r at hu
  subst hu
  generalize v.regs = r at hv
  generalize v.pccs = m at hv
  subst hv
  rfl

/-- Clearing the PCs leaves the registers of the Bow engine and its own state (R368). -/
theorem State.sanClear_all {s u : State} (k : Nat) (b : Bow) (hu : s.RegsOnly u) (hflag : u.flag (F.bowStatus_SANITISE k) = true)
    (hfail : u.fget (F.bowSanFail_MASK k) = 0) : let t := (u.setBow k b).forEach (List.range 64) fun s p => s.sanClear k p
    t = { s with regs := t.regs, pccs := t.pccs, bows := t.bows } ∧
      t.flag (F.bowStatus_SANITISE k) = true ∧ t.fget (F.bowSanFail_MASK k) = 0 ∧ t.bow k = b ∧
      ∀ p < 64, (t.pcc k p).lines = [] ∧ ∀ i < 16, t.reg (A.pccFretEnt k p i) = 0 := by
  obtain ⟨hframe, hcleared, hkept⟩ := (u.setBow k b).sanClear_list k 64 (Nat.le_refl 64)
  have hstatus : ∀ p < 64, ∀ i < 16, A.pccFretEnt k p i ≠ A.bowStatus k := fun p _ i _ => by
    change 0x108140 + k * 0x20000 + p * 0x200 + i * 8 ≠ 0x103018 + k * 0x20000
    omega
  have hmask : ∀ p < 64, ∀ i < 16, A.pccFretEnt k p i ≠ A.bowSanFail k := fun p _ i _ => by
    change 0x108140 + k * 0x20000 + p * 0x200 + i * 8 ≠ 0x103028 + k * 0x20000
    omega
  generalize (u.setBow k b).forEach (List.range 64) (fun s p => s.sanClear k p) = v at hframe hcleared hkept
  exact ⟨State.frame_setBow k b hu hframe, (State.flag_of_reg (hkept _ hstatus)).trans hflag, (State.fget_of_reg (hkept _ hmask)).trans hfail,
    (congrArg (fun w : State => w.bow k) hframe).trans (SMap.get_put_same _ _ _ _), hcleared⟩

/-- The registers as the beginning of a sanitisation leaves them, before the PCs are cleared. -/
def State.sanMarked (s : State) (k : Nat) : State := (s.raise (F.bowStatus_SANITISE k)).fset (F.bowSanFail_MASK k) 0

theorem State.sanBegin_eq (s : State) (k : Nat) : s.sanBegin k =
    ((s.sanMarked k).setBow k { s.bow k with san := 0 }).forEach (List.range 64) fun s p => s.sanClear k p := rfl

/-- What the beginning of a sanitisation leaves (R368, steps 1 and 2). -/
theorem State.sanBegin_spec (s : State) (k : Nat) : let t := s.sanBegin k
    t = { s with regs := t.regs, pccs := t.pccs, bows := t.bows } ∧
      t.flag (F.bowStatus_SANITISE k) = true ∧ t.fget (F.bowSanFail_MASK k) = 0 ∧ t.bow k = { s.bow k with san := 0 } ∧
      ∀ p < 64, (t.pcc k p).lines = [] ∧ ∀ i < 16, t.reg (A.pccFretEnt k p i) = 0 := by
  have hfail : (s.sanMarked k).fget (F.bowSanFail_MASK k) = 0 :=
    (s.raise (F.bowStatus_SANITISE k)).fget_fset_same (F.bowSanFail_MASK k) 0 (Fld.ok_mk (by decide))
  have hne : A.bowSanFail k ≠ A.bowStatus k := by
    change 0x103028 + k * 0x20000 ≠ 0x103018 + k * 0x20000
    omega
  have hflag : (s.sanMarked k).flag (F.bowStatus_SANITISE k) = true :=
    (State.flag_fset_apart _ _ _ _ (Fld.ok_mk (by decide)) (.inl hne)).trans (s.flag_raise _ (Fld.ok_mk (by decide)))
  have hregs : s.RegsOnly (s.sanMarked k) := .fset (.fset (.refl s) _ _) _ _
  rw [s.sanBegin_eq k]
  exact State.sanClear_all k _ hregs hflag hfail

/-- A search meets the same element where the tests agree. -/
theorem find?_of_agree {α : Type} (f g : α → Bool) (l : List α) (h : ∀ a ∈ l, f a = g a) : l.find? f = l.find? g := by
  induction l with
  | nil => rfl
  | cons a l ih => rw [List.find?_cons, List.find?_cons, h a List.mem_cons_self, ih fun b hb => h b (List.mem_cons_of_mem _ hb)]

theorem State.lpcOf_congr {s t : State} (k : Nat) (hb : t.build = s.build) (h : ∀ l < 64, t.reg (A.pcmapEntry k l) = s.reg (A.pcmapEntry k l))
    (p : Nat) : t.lpcOf k p = s.lpcOf k p := by
  have hn : s.build.N ≤ 64 := Nat.sub_le ..
  unfold State.lpcOf
  rw [hb]
  refine find?_of_agree _ _ _ fun l hl => ?_
  have hreg := h l (by have := List.mem_range.1 hl; omega)
  dsimp only
  rw [State.fget_of_reg (f := F.pcmapEntry_STATE k l) hreg, State.fget_of_reg (f := F.pcmapEntry_PPC k l) hreg,
    State.fget_of_reg (f := F.pcmapEntry_TARGET k l) hreg]

/-- The PCs that are lost depend on the entries of the map alone. -/
theorem State.liveMask_congr {s t : State} (k : Nat) (hb : t.build = s.build) (h : ∀ l < 64, t.reg (A.pcmapEntry k l) = s.reg (A.pcmapEntry k l)) :
    t.liveMask k = s.liveMask k := by
  have hn : s.build.N ≤ 64 := Nat.sub_le ..
  refine congrArg (fun f => List.foldl f 0 (List.range 64)) (funext fun m => funext fun p => ?_)
  have hlost : t.pcLost k p = s.pcLost k p := by
    unfold State.pcLost
    rw [State.lpcOf_congr k hb h p, hb, Bool.eq_iff_iff]
    simp only [Bool.and_eq_true, List.any_eq_true, beq_iff_eq]
    refine and_congr_right fun _ => exists_congr fun l => and_congr_right fun hl => ?_
    have hreg := h l (by have := List.mem_range.1 hl; omega)
    rw [State.fget_of_reg (f := F.pcmapEntry_STATE k l) hreg, State.fget_of_reg (f := F.pcmapEntry_PPC k l) hreg]
  rw [hlost]

/-- BOW.CMD OP = 2 (R366). -/
theorem State.canaryWrite_sets (s : State) (k : Nat) :
    (s.setBow k { s.bow k with covered := s.liveMask k, canary := .writing 0 }).sets (s.canaryWrite k)
      [(F.bowCanaryGen_GEN k, (s.fget (F.bowCanaryGen_GEN k) + 1) % 256)] := by
  have hlive : (s.fset (F.bowCanaryGen_GEN k) (s.fget (F.bowCanaryGen_GEN k) + 1)).liveMask k = s.liveMask k :=
    State.liveMask_congr k rfl fun l hl => State.reg_fset_other _ _ _ _
      (by change 0x103020 + k * 0x20000 ≠ 0x102000 + k * 0x20000 + l * 8; omega)
  have heq : s.canaryWrite k = (s.fset (F.bowCanaryGen_GEN k) (s.fget (F.bowCanaryGen_GEN k) + 1)).setBow k
      { s.bow k with covered := (s.fset (F.bowCanaryGen_GEN k) (s.fget (F.bowCanaryGen_GEN k) + 1)).liveMask k, canary := .writing 0 } := rfl
  rw [heq, hlive]
  generalize ({ s.bow k with covered := s.liveMask k, canary := .writing 0 } : Bow) = b
  exact State.sets_fset (s.setBow k b) (s.setBow k b) [] (F.bowCanaryGen_GEN k) _ _ (Fld.ok_mk (by decide)) rfl (by simp) (State.sets_nil _)

/-- The masks of a stack are cleared, and its Bow engine begins a check. -/
theorem State.sets_masksCleared (s u : State) (k : Nat) (hframe : u = { s with regs := u.regs })
    (hzero : ∀ p < 64, u.reg (A.bowCanaryMask k p) = 0) (hrest : ∀ a, (∀ p < 64, A.bowCanaryMask k p ≠ a) → u.reg a = s.reg a) :
    (s.setBow k { s.bow k with canary := .checking 0 }).sets (u.setBow k { u.bow k with canary := .checking 0 })
      ((List.range 64).map fun p => (F.bowCanaryMask_BANKS k p, 0)) := by
  have hbow : u.bow k = s.bow k := by rw [hframe]; rfl
  rw [hbow]
  generalize ({ s.bow k with canary := .checking 0 } : Bow) = b
  refine ⟨?_, fun e he => ?_, fun g hg hapart => ?_⟩
  · rw [hframe]
    rfl
  · obtain ⟨p, hp, rfl⟩ := List.mem_map.1 he
    change bitsOf (u.reg (A.bowCanaryMask k p)).toNat 63 0 = 0
    rw [hzero p (List.mem_range.1 hp)]
    rfl
  · refine State.fget_of_reg (hrest g.addr fun p hp he => ?_)
    have hcut : (F.bowCanaryMask_BANKS k p).Apart g := hapart _ (List.mem_map.2 ⟨_, List.mem_map.2 ⟨p, List.mem_range.2 hp, rfl⟩, rfl⟩)
    rcases hcut with h | h | h
    · exact h he
    · exact Nat.not_lt_zero _ h
    · exact absurd (Nat.lt_of_lt_of_le h hg.1) (Nat.not_lt.2 (Nat.le_of_lt_succ hg.2))

/-- The state with the masks of a stack cleared. -/
def State.masksCleared (s : State) (k : Nat) : State := s.forEach (List.range 64) fun s p => s.setReg (A.bowCanaryMask k p) 0

theorem State.masksCleared_reg (s : State) (k a : Nat) : (∀ p < 64, (s.masksCleared k).reg (A.bowCanaryMask k p) = 0) ∧
    ((∀ p < 64, A.bowCanaryMask k p ≠ a) → (s.masksCleared k).reg a = s.reg a) := by
  unfold State.masksCleared
  have hinj : ∀ i < 64, ∀ j < 64, A.bowCanaryMask k i = A.bowCanaryMask k j → i = j := fun i _ j _ h => by
    unfold A.bowCanaryMask at h; omega
  exact State.reg_forEach_setReg (A.bowCanaryMask k) (fun _ => 0) 64 a s hinj

theorem State.masksCleared_frame (s : State) (k : Nat) : s.masksCleared k = { s with regs := (s.masksCleared k).regs } :=
  State.forEach_setReg_frame (List.range 64) (A.bowCanaryMask k) (fun _ => 0) s

/-- BOW.CMD OP = 3: the masks are cleared (R367). -/
theorem State.canaryCheck_sets (s : State) (k : Nat) :
    (s.setBow k { s.bow k with canary := .checking 0 }).sets (s.canaryCheck k) ((List.range 64).map fun p => (F.bowCanaryMask_BANKS k p, 0)) := by
  exact s.sets_masksCleared (s.masksCleared k) k (s.masksCleared_frame k) (s.masksCleared_reg k 0).1 fun a => (s.masksCleared_reg k a).2

end Sys2Proof.Machine

/-! PROOFS. The ends of sanitisation and of a canary check, and the duties of a Bow engine together (R363 to R369). -/
namespace Sys2Proof.Machine

/-! ### SANITISE_DONE -/

/-- Sanitisation still goes on, or none runs (R368). -/
def State.sanGoing (s : State) (k : Nat) : Prop :=
  s.flag (F.bowStatus_SANITISE k) = false ∨ (s.sanNext k).isSome = true ∨ s.bowOut k (fun q => q.kind == .sanWrite) ≠ 0

theorem State.sanDone_going (s : State) (k : Nat) (h : s.sanGoing k) : s.sanDone k = none := by
  refine if_neg fun hdone => ?_
  rw [Bool.and_eq_true, Bool.and_eq_true, beq_iff_eq] at hdone
  obtain ⟨⟨hflag, hnext⟩, hout⟩ := hdone
  rcases h with h | h | h
  · rw [hflag] at h; cases h
  · rw [Option.isNone_iff_eq_none.1 hnext] at h; cases h
  · exact h hout

/-- The state in which a sanitisation has ended: its event names the PCs that failed or are lost. -/
def State.sanEnded (s : State) (k : Nat) : State :=
  (s.fset (F.bowStatus_SANITISE k) 0).post 0x030C (unitPc k 0) k (s.fget (F.bowSanFail_MASK k) ||| s.lostMask k)

theorem State.sanDone_ended (s : State) (k : Nat) (h : ¬ s.sanGoing k) : s.sanDone k = some (s.sanEnded k) := by
  simp only [State.sanGoing, not_or, Bool.not_eq_false, Bool.not_eq_true, Option.isSome_eq_false_iff, Classical.not_not, ne_eq] at h
  obtain ⟨hflag, hnext, hout⟩ := h
  exact if_pos (by rw [hflag, hnext, hout]; rfl)

theorem exec_sanitiseDone_ended (k : Fin 8) (s : State) (h : ¬ s.sanGoing k.val) : exec (.sanitiseDone k) s =
    .next (if (s.sanEnded k.val).flag F.glbResetStatus_SANITISING &&
      (s.sanEnded k.val).stacks.all fun j => !(s.sanEnded k.val).flag (F.bowStatus_SANITISE j)
      then ((s.sanEnded k.val).fset F.glbResetStatus_SANITISING 0).resetDone else s.sanEnded k.val) := by
  change execSanitiseDone k s = _
  unfold execSanitiseDone
  rw [s.sanDone_ended k.val h]

theorem exec_sanitiseDone_going (k : Fin 8) (s : State) (h : s.sanGoing k.val) : exec (.sanitiseDone k) s = .next s := by
  change execSanitiseDone k s = _
  unfold execSanitiseDone
  rw [s.sanDone_going k.val h]

/-- The reset that waits for sanitisation is done with the last stack (R368, R434). -/
theorem State.resetWaits_iff (u : State) : (u.flag F.glbResetStatus_SANITISING && u.stacks.all fun j => !u.flag (F.bowStatus_SANITISE j)) = true ↔
    u.flag F.glbResetStatus_SANITISING = true ∧ ∀ j < u.build.nStacks, u.flag (F.bowStatus_SANITISE j) = false := by
  unfold State.stacks
  simp

/-! ### CANARY_CHECK_DONE -/

/-- What a canary check still has to do. -/
def State.canaryLeft (s : State) (k : Nat) : Bool :=
  match (s.bow k).canary with
  | .checking pos => (s.canaryNext k pos).isSome || (s.retainNext k 0).isSome
  | .scanning i _ => (s.retainNext k i).isSome
  | _ => true

theorem State.canaryDone_eq (s : State) (k : Nat) :
    s.canaryDone k = if s.canaryLeft k || s.bowOut k Piece.ofCanary != 0 then none else some (s.setBow k { s.bow k with canary := .idle }) := rfl

theorem exec_canaryCheckDone (k : Fin 8) (s : State) (hpower : s.power ≠ .checking) :
    exec (.canaryCheckDone k) s = .next ((s.canaryDone k.val).getD s) := by
  have hrest : ∀ t : State, t.power = s.power → t.checkingDone = t := fun t ht => if_neg (by simp [ht, hpower])
  refine congrArg Host.Outcome.next (hrest _ ?_)
  rw [s.canaryDone_eq]
  split <;> rfl

theorem State.canaryDone_left (s : State) (k : Nat) (h : s.canaryLeft k = true) : s.canaryDone k = none := by
  rw [s.canaryDone_eq, h] <;> rfl

theorem State.canaryDone_out (s : State) (k : Nat) (h : s.bowOut k Piece.ofCanary ≠ 0) : s.canaryDone k = none := by
  rw [s.canaryDone_eq]
  exact if_pos (by simp [h])

theorem State.canaryDone_ends (s : State) (k : Nat) (h : s.canaryLeft k = false) (hout : s.bowOut k Piece.ofCanary = 0) :
    s.canaryDone k = some (s.setBow k { s.bow k with canary := .idle }) := by
  rw [s.canaryDone_eq]
  exact if_neg (by simp [h, hout])

/-! ### The pieces of the duties -/

theorem State.canaryChunk_writing (s : State) (k pos n : Nat) (hst : (s.bow k).canary = .writing pos) (hout : s.bowOut k Piece.ofCanary < 4)
    (hn : s.canaryNext k pos = some n) : s.canaryChunk k =
      some ((s.toLane (s.canaryPiece k (n % 64) (n / 64) .canaryWrite)).setBow k { s.bow k with canary := .writing (n + 1) }) := by
  unfold State.canaryChunk
  rw [if_neg (Nat.not_le.2 hout), hst]
  dsimp only
  rw [hn]
  rfl

theorem State.sanChunk_goes (s : State) (k n : Nat) (hst : s.flag (F.bowStatus_SANITISE k) = true)
    (hout : s.bowOut k (fun q => q.kind == .sanWrite) < 4) (hn : s.sanNext k = some n) : s.sanChunk k =
      some ((s.toLane (s.rowPiece k (n % 64) (n / 64 / (16 * s.build.H)) (n / 64 % (16 * s.build.H)) .sanWrite)).setBow k
        { s.bow k with san := n + 1 }) := by
  unfold State.sanChunk
  rw [if_neg (by simp [hst, Nat.not_le.2 hout]), hn]
  rfl

theorem State.sanChunk_none (s : State) (k : Nat) (h : s.flag (F.bowStatus_SANITISE k) = false ∨
    4 ≤ s.bowOut k (fun q => q.kind == .sanWrite) ∨ s.sanNext k = none) : s.sanChunk k = none := by
  unfold State.sanChunk
  rw [ite_eq_left_iff]
  intro hgo
  have hrun : s.flag (F.bowStatus_SANITISE k) = true ∧ ¬ 4 ≤ s.bowOut k (fun q => q.kind == .sanWrite) := by simpa using hgo
  rw [(h.resolve_left (by simp [hrun.1])).resolve_left hrun.2]
  rfl

theorem State.canaryChunk_none (s : State) (k : Nat) (h : (s.bow k).canary = .idle ∨ 4 ≤ s.bowOut k Piece.ofCanary) :
    s.canaryChunk k = none := by
  unfold State.canaryChunk
  rw [ite_eq_left_iff]
  intro hgo
  rw [h.resolve_right hgo]

theorem State.copyStart_none (s : State) (k : Nat) (m : Mig) (hm : s.mig k = some m) (h : m.chunk ≠ none ∨ s.job k ≠ none ∨ m.st ≠ .copying) :
    s.copyStart k = none := by
  unfold State.copyStart
  simp only [hm]
  refine if_neg fun hgo => ?_
  simp only [Bool.and_eq_true, decide_eq_true_eq, Option.isNone_iff_eq_none] at hgo
  obtain ⟨⟨hst, hchunk⟩, hjob⟩ := hgo
  exact h.elim (fun h => h hchunk) fun h => h.elim (fun h => h hjob) fun h => h hst

theorem State.scanStart_none (s : State) (k u : Nat) (h : 4 ≤ s.scanOut k ∨ (s.chk u).st ≠ .scanning k) : s.scanStart k u = none := by
  unfold State.scanStart
  refine if_neg fun hgo => ?_
  simp only [Bool.and_eq_true, decide_eq_true_eq] at hgo
  obtain ⟨⟨hst, -⟩, hout⟩ := hgo
  exact h.elim (fun h => Nat.not_lt.2 h hout) fun h => h hst

theorem State.scrubStart_none (s : State) (k : Nat) (h : s.flag (F.bowStatus_SCRUB k) = false ∨ 4 ≤ s.bowOut k Piece.scrubs) :
    s.scrubStart k = none := if_pos (by simpa using h)

/-- Sanitisation of a data atom of a PC that serves a logical PC writes coded zeros (R368). -/
theorem State.burstWord_sanWrite (s : State) (k p i : Nat) (q : Piece) (hkind : q.kind = .sanWrite) (hdata : q.inMeta = false)
    (hlpc : q.lpc < 64) : s.burstWord k p q i = encodeAtom (dataFold (s.pieceAddr k p q i)) 0 false := by
  unfold State.burstWord State.pieceFold
  simp [hkind, hdata, Nat.not_le.2 hlpc]

/-- A canary that differs sets its bank's bit (R367). -/
theorem State.canaryRead_sets (s : State) (k p i : Nat) (q : Piece) (w : Stored) (hbank : q.bank < 64)
    (h : w ≠ canaryStored (s.fget (F.bowCanaryGen_GEN k)) k p q.bank (8 + i)) :
    ∃ m, s.sets (s.canaryRead k p q i w) [(F.bowCanaryMask_BANKS k p, m)] ∧
      ∀ b < 64, m.testBit b = ((s.fget (F.bowCanaryMask_BANKS k p)).testBit b || b == q.bank) := by
  obtain ⟨hsets, hbits⟩ := s.setMaskBit_sets (F.bowCanaryMask_BANKS k p) q.bank true rfl rfl hbank
  have heq : s.canaryRead k p q i w = s.setMaskBit (F.bowCanaryMask_BANKS k p) q.bank true := if_neg h
  refine ⟨_, heq ▸ hsets, fun b _ => (hbits b).trans ?_⟩
  by_cases hb : b = q.bank <;> simp [hb]

/-- Settles O51: a chunk start takes the first duty of Table 12.2 that is ready (`exec_bowChunkStart_active`); sanitisation and the canaries
clear their registers first (`sanBegin_spec`, `canaryCheck_sets`) and end when nothing of theirs is left. -/
theorem bowDuties : Obligations.BowDuties := by
  unfold Obligations.BowDuties
  refine ⟨fun k w s hready hk => ?_, fun k s => ⟨fun hk => ?_, fun hk hactive => ?_, fun hk hinactive hentering => ?_⟩, fun k s => ?_,
    fun d rate now => ?_, fun k s hready hk => ?_, fun k s => ?_, fun k s hpower => ?_, fun k p i q w s hbank => ?_⟩
  · exact ⟨_, s.cpStk_ready k (.scrubEnWrite k w) (fun u => u.bowCfgWrite k.val w) hready hk, s.cpOk.bowCfgWrite_spec k.val w⟩
  · exact congrArg Host.Outcome.next (if_neg (Nat.not_lt.2 hk))
  · have hgo := fun u => exec_bowChunkStart_active k s u hk hactive
    refine ⟨fun u h => hgo u (by rw [h]; rfl) (s.canaryChunk_power u k.val h), fun hcanary => ?_⟩
    refine ⟨fun u h => hgo u (by rw [hcanary, h]; rfl) (s.sanChunk_power u k.val h), fun hsan => ?_⟩
    refine ⟨fun u h => hgo u (by rw [hcanary, hsan, h]; rfl) (s.copyStart_power u k.val h), fun i u hcopy h hlow => ?_, fun hcopy hscans => ?_⟩
    · exact hgo u (by rw [hcanary, hsan, hcopy, s.scanFirst_some u k.val i.val i.isLt h hlow]; rfl) (s.scanStart_power u k.val i.val h)
    · refine ⟨fun u h => hgo u (by rw [hcanary, hsan, hcopy, s.scanFirst_none k.val hscans, h]; rfl) (s.scrubStart_power u k.val h), fun h => ?_⟩
      refine exec_bowChunkStart k s s hk ?_ (by rw [hactive]; decide)
      rw [s.bowChunk_active k.val hactive, hcanary, hsan, hcopy, s.scanFirst_none k.val hscans, h]
      rfl
  · have hchunk := s.bowChunk_inactive k.val hinactive
    refine ⟨fun u hon h => exec_bowChunkStart k s u hk ?_ (by rw [s.canaryChunk_power u k.val h]; exact hentering),
      fun h => exec_bowChunkStart k s s hk ?_ hentering⟩
    · rw [hchunk, if_pos hon, h]
      rfl
    · rw [hchunk]
      rcases h with h | h
      · rw [h]
        rfl
      · rw [h]
        split <;> rfl
  · exact ⟨s.canaryChunk_none k, s.sanChunk_none k, s.copyStart_none k, s.scanStart_none k, s.scrubStart_none k,
      s.canaryChunk_writing k, s.sanChunk_goes k, s.burstWord_sanWrite k⟩
  · refine ⟨d.mayStart_free now, fun hrate => ?_⟩
    rw [d.mayStart_eq rate now hrate]
    exact ⟨fun h => if_pos h, fun h hnear => by rw [if_neg (Nat.not_lt.2 h), if_neg (Nat.not_lt.2 hnear)],
      fun h hfar => by rw [if_neg (Nat.not_lt.2 h), if_pos hfar]⟩
  · intro u refused
    have hsan := s.cpStk_ready k (.bowSanitise k) (fun u => u.started.bowSanitise k.val) hready hk
    have hwrite := s.cpStk_ready k (.bowCanaryWrite k) (fun u => u.started.bowCanaryWrite k.val) hready hk
    have hcheck := s.cpStk_ready k (.bowCanaryCheck k) (fun u => u.started.bowCanaryCheck k.val) hready hk
    have hrefuse : u.sets (u.bowRefuse k.val) [(F.bowStatus_REFUSED k.val, 1)] := u.sets_raise_alone _ (Fld.ok_mk (by decide))
    refine ⟨fun h => ⟨_, hsan.trans (congrArg _ (if_pos ((u.sanRefused_iff k.val).2 h))), hrefuse⟩,
      fun h => ⟨_, hsan.trans (congrArg _ (if_neg (mt (u.sanRefused_iff k.val).1 h))), u.sanBegin_spec k.val⟩, fun hruns => ?_, fun hrests => ?_⟩
    · exact ⟨⟨_, hwrite.trans (congrArg _ (if_pos hruns)), hrefuse⟩, _, hcheck.trans (congrArg _ (if_pos hruns)), hrefuse⟩
    · have hno : ¬ u.canaryRuns k.val = true := by simp [hrests]
      exact ⟨⟨_, hwrite.trans (congrArg _ (if_neg hno)), u.canaryWrite_sets k.val⟩, _, hcheck.trans (congrArg _ (if_neg hno)), u.canaryCheck_sets k.val⟩
  · intro going u
    refine ⟨exec_sanitiseDone_going k s, fun h hother => ?_, fun h hwaits hall => ?_⟩
    · refine (exec_sanitiseDone_ended k s h).trans (congrArg _ (if_neg fun hdone => ?_))
      obtain ⟨hwaits, hall⟩ := (State.resetWaits_iff _).1 hdone
      rcases hother with hother | ⟨j, hj, hruns⟩
      · exact Bool.false_ne_true (hother.symm.trans hwaits)
      · exact Bool.false_ne_true ((hall j hj).symm.trans hruns)
    · exact ⟨_, (exec_sanitiseDone_ended k s h).trans (congrArg _ (if_pos ((State.resetWaits_iff _).2 ⟨hwaits, hall⟩))),
        State.sets_fset_alone _ _ _ (Fld.ok_mk (by decide)) (by decide)⟩
  · intro rests
    have hexec := exec_canaryCheckDone k s hpower
    have hrest : s.canaryDone k.val = none → exec (.canaryCheckDone k) s = .next s := fun h => by rw [hexec, h]; rfl
    have hend : s.canaryLeft k.val = false → rests →
        exec (.canaryCheckDone k) s = .next (s.setBow k.val { s.bow k.val with canary := .idle }) := fun h hout => by
      rw [hexec, s.canaryDone_ends k.val h hout]
      rfl
    refine ⟨fun h => ?_, fun pos hst hout => ⟨fun h => ?_, fun hnext hretain => hend ?_ hout⟩, fun i row hst hout => ⟨fun h => ?_, fun h => hend ?_ hout⟩⟩
    · rcases h with h | h | ⟨pos, h⟩
      · exact hrest (s.canaryDone_out k.val h)
      all_goals
        refine hrest (s.canaryDone_left k.val ?_)
        unfold State.canaryLeft
        rw [h]
    · refine hrest (s.canaryDone_left k.val ?_)
      unfold State.canaryLeft
      rw [hst]
      exact Bool.or_eq_true _ _ ▸ h
    · unfold State.canaryLeft
      rw [hst]
      dsimp only
      rw [hnext, hretain]
      rfl
    · refine hrest (s.canaryDone_left k.val ?_)
      unfold State.canaryLeft
      rw [hst]
      exact h
    · unfold State.canaryLeft
      rw [hst]
      dsimp only
      rw [h]
      rfl
  · exact ⟨fun h => if_pos h, s.canaryRead_sets k p i q w hbank⟩

end Sys2Proof.Machine

/-! PROOFS. The check units: start, feed, scan, finish and abort (R355 to R362, Tables 12.1, 12.9). -/
namespace Sys2Proof.Machine

/-! ### A unit returns to IDLE -/

/-- A unit that is IDLE, its scan reads discarded (R358). -/
def State.freedChk (s : State) (u : Nat) : State := ({ s with reqs := s.reqs.filter fun e => !e.2.scans u } : State).setChk u Chk.init

theorem chkStatus_ne_bowStatus (u k : Nat) : A.chkStatus u ≠ A.bowStatus k := by
  change 0x00C060 + u * 0x80 ≠ 0x103018 + k * 0x20000
  omega

theorem State.chkLast_sets (s : State) (u n : Nat) (hn : n < 8) : s.sets (s.chkLast u n) [(F.chkStatus_LAST u, n)] :=
  s.sets_fset_alone _ _ (Fld.ok_mk (by decide)) hn

section
variable {b t : State} {l : List (Fld × Nat)} (u : Nat) (h : b.sets t l) (hl : ∀ e ∈ l, e.1.addr ≠ A.chkStatus u ∨ 18 < e.1.lo)
include h hl

/-- OWNER, OWNER_ID and LAST written on top of other fields. -/
theorem State.sets_chkOwner (owner id last : Nat) (howner : owner < 4) (hid : id < 256) (hlast : last < 8) :
    b.sets ((t.chkOwner u owner id).chkLast u last)
      ((F.chkStatus_LAST u, last) :: (F.chkStatus_OWNER_ID u, id) :: (F.chkStatus_OWNER u, owner) :: l) := by
  have hne : ∀ f : Fld, f.addr = A.chkStatus u → f.hi ≤ 18 → ∀ e ∈ l, f.Apart e.1 := fun f hf hhi e he => (hl e he).elim
    (fun hne => .inl (hf ▸ hne.symm)) fun hlo => .inr (.inr (Nat.lt_of_le_of_lt hhi hlo))
  have howned := State.sets_fset _ _ l (F.chkStatus_OWNER u) owner owner (Fld.ok_mk (by decide)) (Nat.mod_eq_of_lt howner) (hne _ rfl (by decide : 1 ≤ 18)) h
  have hnamed := State.sets_fset _ _ _ (F.chkStatus_OWNER_ID u) id id (Fld.ok_mk (by decide)) (Nat.mod_eq_of_lt hid)
    (List.forall_mem_cons.2 ⟨.inr (.inl (by decide : 1 < 8)), hne _ rfl (by decide : 15 ≤ 18)⟩) howned
  exact State.sets_fset _ _ _ (F.chkStatus_LAST u) last last (Fld.ok_mk (by decide)) (Nat.mod_eq_of_lt hlast)
    (List.forall_mem_cons.2 ⟨.inr (.inl (by decide : 15 < 16)), List.forall_mem_cons.2 ⟨.inr (.inl (by decide : 1 < 16)), hne _ rfl (by decide : 18 ≤ 18)⟩⟩) hnamed

theorem State.sets_chkIdle (last : Nat) (hlast : last < 8) :
    (b.freedChk u).sets (t.chkIdle u last)
      ((F.chkStatus_LAST u, last) :: (F.chkStatus_OWNER_ID u, 0) :: (F.chkStatus_OWNER u, 0) :: l) := by
  have hfreed : (b.freedChk u).sets (t.freedChk u) l := by
    obtain ⟨hframe, -, -⟩ := id h
    exact State.sets_congr _ _ _ _ l h rfl (by rw [hframe]; rfl)
  exact State.sets_chkOwner u hfreed hl 0 0 last (by omega) (by omega) hlast

/-- A scan's unit is IDLE again, and BOW.STATUS.SCAN says whether another scan uses the engine. -/
theorem State.sets_scanOver (k last : Nat) (hlast : last < 8) (hk : ∀ e ∈ l, e.1.addr ≠ A.bowStatus k) :
    (b.freedChk u).sets ((t.chkIdle u last).noteScan k) (l ++ [(F.chkStatus_OWNER u, 0), (F.chkStatus_OWNER_ID u, 0), (F.chkStatus_LAST u, last),
      (F.bowStatus_SCAN k, bit ((List.range 4).any fun j => j != u && (b.chk j).st == .scanning k))]) := by
  have hidle := State.sets_chkIdle u h hl last hlast
  have hchk : ∀ j, (t.chkIdle u last).chk j = if j = u then Chk.init else b.chk j := fun j => by
    obtain ⟨hframe, -, -⟩ := hidle
    rw [hframe]
    by_cases hj : j = u
    · subst hj
      rw [if_pos rfl]
      exact SMap.get_put_same _ _ _ _
    · rw [if_neg hj]
      exact SMap.get_put_other _ _ _ _ _ _ (Ne.symm hj)
  have hscan : (t.chkIdle u last).scanned k = (List.range 4).any fun j => j != u && (b.chk j).st == .scanning k := by
    unfold State.scanned
    congr 1
    funext j
    rw [hchk j]
    by_cases hj : j = u
    · simp [hj, Chk.init]
    · simp [hj]
  have hap : ∀ e ∈ (F.chkStatus_LAST u, last) :: (F.chkStatus_OWNER_ID u, 0) :: (F.chkStatus_OWNER u, 0) :: l, (F.bowStatus_SCAN k).Apart e.1 := by
    have hne := (chkStatus_ne_bowStatus u k).symm
    exact List.forall_mem_cons.2 ⟨.inl hne, List.forall_mem_cons.2 ⟨.inl hne, List.forall_mem_cons.2 ⟨.inl hne, fun e he => .inl (hk e he).symm⟩⟩⟩
  have hall := State.sets_fset _ _ _ (F.bowStatus_SCAN k) (bit ((t.chkIdle u last).scanned k)) _ (Fld.ok_mk (by decide))
    (Nat.mod_eq_of_lt (bit_lt _)) hap hidle
  rw [← hscan]
  exact State.sets_perm _ _ _ _ (fun e => by simp only [List.mem_cons, List.mem_append, List.not_mem_nil, or_false]; grind) hall

end

/-! ### The commands of the control port at a unit -/

theorem State.chkAbort_scanning (s : State) (u k : Nat) (h : (s.chk u).st = .scanning k) : s.chkAbort u = (s.chkIdle u 6).noteScan k := by
  unfold State.chkAbort
  rw [h]

/-- The commands by the unit's state (Table 12.1). -/
theorem State.chkFinish_eq (s : State) (u : Nat) :
    ((s.chk u).st = .idle → s.chkFinish u = s.chkLast u 2) ∧
    ((s.chk u).st = .heldCp → s.chkFinish u = (s.fset (F.chkResult_VALUE u) (s.chk u).result).chkIdle u 0) ∧
    ((s.chk u).st ≠ .idle → (s.chk u).st ≠ .heldCp → s.chkFinish u = s.chkLast u 1) := by
  unfold State.chkFinish
  cases h : (s.chk u).st <;> simp

theorem State.feed_eq (s : State) (u n : Nat) (f : Chk → Chk) :
    ((s.chk u).st = .idle → s.feed u n f = s.chkLast u 2) ∧
    ((s.chk u).st = .heldCp → s.feed u n f =
      ((s.setChk u (f (s.chk u))).fset (F.chkStatus_FED u) (s.fget (F.chkStatus_FED u) + n)).chkLast u 0) ∧
    ((s.chk u).st ≠ .idle → (s.chk u).st ≠ .heldCp → s.feed u n f = s.chkLast u 1) := by
  unfold State.feed
  cases h : (s.chk u).st <;> simp

theorem State.feed_held_sets (s : State) (u n : Nat) (f : Chk → Chk) (h : (s.chk u).st = .heldCp) :
    (s.setChk u (f (s.chk u))).sets (s.feed u n f)
      [(F.chkStatus_FED u, s.wrapped (F.chkStatus_FED u) n), (F.chkStatus_LAST u, 0)] := by
  rw [(s.feed_eq u n f).2.1 h]
  generalize f (s.chk u) = c
  have hfed := State.sets_fset (s.setChk u c) _ [] (F.chkStatus_FED u) (s.fget (F.chkStatus_FED u) + n) _ (Fld.ok_mk (by decide)) rfl (by simp)
    (State.sets_nil _)
  have hap : ∀ e ∈ [(F.chkStatus_FED u, s.wrapped (F.chkStatus_FED u) n)], (F.chkStatus_LAST u).Apart e.1 :=
    List.forall_mem_singleton.2 (.inr (.inr (by decide : 18 < 24)))
  have hlast := State.sets_fset _ _ _ (F.chkStatus_LAST u) 0 0 (Fld.ok_mk (by decide)) rfl hap hfed
  exact State.sets_perm _ _ _ _ (fun e => by simp only [List.mem_cons, List.not_mem_nil, or_false]; grind) hlast

/-- The unit as it leaves IDLE, its configuration latched (R355, R356). -/
def State.latched (s : State) (u : Nat) (st : ChkSt) : Chk :=
  ⟨st, s.chkWidth u, s.fget (F.chkPoly_VALUE u) % 2 ^ s.chkWidth u, s.fget (F.chkXorout_VALUE u) % 2 ^ s.chkWidth u,
    s.flag (F.chkCfg_REFIN u), s.flag (F.chkCfg_REFOUT u), if s.fget (F.chkCfg_FOLD u) = 3 then 0 else s.fget (F.chkCfg_FOLD u),
    s.fget (F.chkFoldBase_VALUE u), s.fget (F.chkInit_VALUE u) % 2 ^ s.chkWidth u, 0, s.fget (F.chkScanStart_ADDR u),
    s.fget (F.chkScanStart_ADDR u)⟩

theorem State.chkLatch_eq (s : State) (u : Nat) (st : ChkSt) :
    s.chkLatch u st (s.fget (F.chkCfg_FOLD u)) = (s.setChk u (s.latched u st)).fset (F.chkStatus_FED u) 0 := rfl

/-- A unit that leaves IDLE for its new owner. -/
theorem State.chkLatch_sets (s : State) (u owner id : Nat) (st : ChkSt) (howner : owner < 4) (hid : id < 256) :
    (s.setChk u (s.latched u st)).sets (((s.chkLatch u st (s.fget (F.chkCfg_FOLD u))).chkOwner u owner id).chkLast u 0)
      [(F.chkStatus_LAST u, 0), (F.chkStatus_OWNER_ID u, id), (F.chkStatus_OWNER u, owner), (F.chkStatus_FED u, 0)] := by
  rw [s.chkLatch_eq]
  generalize s.setChk u (s.latched u st) = b
  exact State.sets_chkOwner u (b.sets_fset_alone (F.chkStatus_FED u) 0 (Fld.ok_mk (by decide)) (Nat.two_pow_pos _))
    (List.forall_mem_singleton.2 (.inr (by decide : 18 < 24))) owner id 0 howner hid (by omega)

theorem State.chkStart_sets (s : State) (u : Nat) (h : (s.chk u).st = .idle) :
    (s.setChk u (s.latched u .heldCp)).sets (s.chkStart u)
      [(F.chkStatus_FED u, 0), (F.chkStatus_OWNER u, 1), (F.chkStatus_OWNER_ID u, 0), (F.chkStatus_LAST u, 0)] := by
  have heq : s.chkStart u = ((s.chkLatch u .heldCp (s.fget (F.chkCfg_FOLD u))).chkOwner u 1 0).chkLast u 0 := if_pos h
  rw [heq]
  exact State.sets_perm _ _ _ _ (fun e => by simp only [List.mem_cons, List.not_mem_nil, or_false]; grind)
    (s.chkLatch_sets u 1 0 .heldCp (by omega) (by omega))

/-- The engine of stack `k` with its scan pacing restarted, unless a scan already uses it (R364). -/
def State.scanPaced (s : State) (k : Nat) : State := if s.scanned k then s else s.setBow k { s.bow k with scan := ⟨s.cadence, 0⟩ }

theorem State.scanPaced_latched (s : State) (k u : Nat) (st : ChkSt) : (s.scanPaced k).latched u st = s.latched u st := by
  unfold State.scanPaced
  split <;> rfl

theorem State.chkScan_sets (s : State) (u k : Nat) (hu : u < 4) (hk : k < 8) (hidle : (s.chk u).st = .idle) (hvalid : s.scanValid u k = true) :
    ((s.scanPaced k).setChk u (s.latched u (.scanning k))).sets (s.chkScan u k)
      [(F.chkStatus_FED u, 0), (F.chkStatus_OWNER u, 3), (F.chkStatus_OWNER_ID u, k), (F.chkStatus_LAST u, 0), (F.bowStatus_SCAN k, 1)] := by
  have heq : s.chkScan u k = ((((s.scanPaced k).chkLatch u (.scanning k) ((s.scanPaced k).fget (F.chkCfg_FOLD u))).chkOwner u 3 k).chkLast u 0).noteScan k :=
    (if_neg (Classical.not_not.2 hidle)).trans (if_neg (by simp [hvalid]))
  have hset := (s.scanPaced k).chkLatch_sets u 3 k (.scanning k) (by omega) (by omega)
  rw [heq]
  rw [s.scanPaced_latched] at hset
  generalize (((s.scanPaced k).chkLatch u (.scanning k) ((s.scanPaced k).fget (F.chkCfg_FOLD u))).chkOwner u 3 k).chkLast u 0 = t at hset
  have hst : (t.chk u).st = .scanning k := by
    obtain ⟨hframe, -, -⟩ := hset
    rw [hframe]
    exact congrArg Chk.st (SMap.get_put_same _ _ _ _)
  have hscan : t.scanned k = true := List.any_eq_true.2 ⟨u, List.mem_range.2 hu, by rw [hst]; exact beq_self_eq_true _⟩
  have hap : ∀ e ∈ [(F.chkStatus_LAST u, 0), (F.chkStatus_OWNER_ID u, k), (F.chkStatus_OWNER u, 3), (F.chkStatus_FED u, 0)],
      (F.bowStatus_SCAN k).Apart e.1 := by
    have hne := (chkStatus_ne_bowStatus u k).symm
    simpa using ⟨.inl hne, .inl hne, .inl hne, .inl hne⟩
  have hall := State.sets_fset _ _ _ (F.bowStatus_SCAN k) 1 1 (Fld.ok_mk (by decide)) rfl hap hset
  unfold State.noteScan
  rw [hscan]
  exact State.sets_perm _ _ _ _ (fun e => by simp only [List.mem_cons, List.not_mem_nil, or_false]; grind) hall

/-- A configuration register of an IDLE unit is written, and LAST cleared (R358). -/
theorem State.chkConfig_idle (s : State) (u reg : Nat) (w : Word) (h : (s.chk u).st = .idle) :
    ∃ v, v = { s with regs := v.regs } ∧ s.takesRw v (chkCfgAddr u reg) w ∧ v.sets (s.chkConfig u reg w) [(F.chkStatus_LAST u, 0)] :=
  ⟨_, s.putRw_frame _ w, s.takesRw_putRw _ w, by rw [State.chkConfig, if_pos h]; exact State.chkLast_sets _ u 0 (by omega)⟩

/-! ### Scans -/

theorem chkResult_ne_chkStatus (u : Nat) : A.chkResult u ≠ A.chkStatus u ∧ A.chkStored u ≠ A.chkStatus u ∧ A.chkHaltAddr u ≠ A.chkStatus u := by
  unfold A.chkResult A.chkStored A.chkHaltAddr A.chkStatus
  omega

theorem chkResult_ne_bowStatus (u k : Nat) : A.chkResult u ≠ A.bowStatus k ∧ A.chkStored u ≠ A.bowStatus k ∧ A.chkHaltAddr u ≠ A.bowStatus k := by
  unfold A.chkResult A.chkStored A.chkHaltAddr A.bowStatus
  omega

/-- A unit's register is not EV_STATUS. -/
theorem chkResult_ne_events (u : Nat) : A.chkResult u ≠ A.glbEvStatus ∧ A.chkStored u ≠ A.glbEvStatus ∧ A.chkHaltAddr u ≠ A.glbEvStatus := by
  unfold A.chkResult A.chkStored A.chkHaltAddr A.glbEvStatus
  omega

/-- A scan that ends with an event, its fields written (R361, R362). -/
theorem State.sets_scanPosted {s t : State} {l : List (Fld × Nat)} (u k c x y last : Nat) (hlast : last < 8) (h : s.sets t l)
    (hl : ∀ e ∈ l, e.1.addr = A.chkResult u ∨ e.1.addr = A.chkStored u ∨ e.1.addr = A.chkHaltAddr u) :
    ((s.post c u x y).freedChk u).sets (((t.post c u x y).chkIdle u last).noteScan k)
      (l ++ [(F.chkStatus_OWNER u, 0), (F.chkStatus_OWNER_ID u, 0), (F.chkStatus_LAST u, last),
        (F.bowStatus_SCAN k, bit ((List.range 4).any fun j => j != u && (s.chk j).st == .scanning k))]) := by
  have hne : ∀ a, A.chkResult u ≠ a ∧ A.chkStored u ≠ a ∧ A.chkHaltAddr u ≠ a → ∀ e ∈ l, e.1.addr ≠ a := fun a ⟨hr, hs, hh⟩ e he => by
    rcases hl e he with heq | heq | heq <;> rw [heq]
    · exact hr
    · exact hs
    · exact hh
  have hover := State.sets_scanOver u (State.sets_post _ _ _ c u x y (hne _ (chkResult_ne_events u)) h)
    (fun e he => .inl (hne _ (chkResult_ne_chkStatus u) e he)) k last hlast (hne _ (chkResult_ne_bowStatus u k))
  have hchk : ∀ j, (s.post c u x y).chk j = s.chk j := fun j => congrArg (fun m => SMap.get m Chk.init j) (s.post_chks c u x y)
  simpa only [hchk] using hover

/-- A scan that halts names the atom and the status of its read (Table 12.1). -/
theorem State.scanHalt_sets (s : State) (u k a st : Nat) :
    ((s.post 0x0413 u a st).freedChk u).sets (s.scanHalt u k a st) [(F.chkHaltAddr_ADDR u, a % 2 ^ 42), (F.chkStatus_OWNER u, 0),
      (F.chkStatus_OWNER_ID u, 0), (F.chkStatus_LAST u, 4),
      (F.bowStatus_SCAN k, bit ((List.range 4).any fun j => j != u && (s.chk j).st == .scanning k))] := by
  have hat : s.sets (s.fset (F.chkHaltAddr_ADDR u) a) [(F.chkHaltAddr_ADDR u, a % 2 ^ 42)] :=
    s.sets_fset s [] _ _ _ (Fld.ok_mk (by decide)) rfl (by simp) s.sets_nil
  exact State.sets_scanPosted u k 0x0413 a st 4 (by omega) hat (List.forall_mem_singleton.2 (.inr (.inr rfl)))

/-- The unit's result, in its register. -/
def State.resulted (s : State) (u : Nat) : State := s.fset (F.chkResult_VALUE u) (s.chk u).result

theorem State.resulted_sets (s : State) (u : Nat) : s.sets (s.resulted u) [(F.chkResult_VALUE u, (s.chk u).result % 2 ^ 64)] :=
  s.sets_fset s [] _ _ _ (Fld.ok_mk (by decide)) rfl (by simp) s.sets_nil

/-- The length of a scan is in no register that its end writes. -/
theorem State.fget_scanLen (s : State) (u : Nat) (f : Fld) (v : Nat) (hok : f.Ok) (h : f.addr = A.chkResult u ∨ f.addr = A.chkStored u) :
    (s.fset f v).fget (F.chkScanLen_LEN u) = s.fget (F.chkScanLen_LEN u) := by
  refine s.fget_fset_apart _ _ _ hok (.inl ?_)
  rcases h with h | h <;> rw [h]
  · change 0x00C068 + u * 0x80 ≠ 0x00C050 + u * 0x80
    omega
  · change 0x00C070 + u * 0x80 ≠ 0x00C050 + u * 0x80
    omega

/-- A scan that ends without a compare (R362). -/
theorem State.scanEnd_plain (s : State) (u k : Nat) :
    ((s.post 0x0411 u (s.chk u).result (s.fget (F.chkScanLen_LEN u))).freedChk u).sets (s.scanEnd u k none)
      [(F.chkResult_VALUE u, (s.chk u).result % 2 ^ 64), (F.chkStatus_OWNER u, 0), (F.chkStatus_OWNER_ID u, 0), (F.chkStatus_LAST u, 0),
        (F.bowStatus_SCAN k, bit ((List.range 4).any fun j => j != u && (s.chk j).st == .scanning k))] := by
  have hlen : (s.resulted u).fget (F.chkScanLen_LEN u) = s.fget (F.chkScanLen_LEN u) := s.fget_scanLen u _ _ (Fld.ok_mk (by decide)) (.inl rfl)
  have heq : s.scanEnd u k none = (((s.resulted u).post 0x0411 u (s.chk u).result ((s.resulted u).fget (F.chkScanLen_LEN u))).chkIdle u 0).noteScan k := rfl
  rw [heq, hlen]
  exact State.sets_scanPosted u k 0x0411 _ _ 0 (by omega) (s.resulted_sets u) (List.forall_mem_singleton.2 (.inl rfl))

/-- A scan that ends with a compare: the stored word, and CHECK_DONE where it agrees, CHECK_MISMATCH where not (R362). -/
theorem State.scanEnd_compared (s : State) (u k v : Nat) (hv : v < 2 ^ 64) :
    let l := [(F.chkStored_VALUE u, v), (F.chkResult_VALUE u, (s.chk u).result % 2 ^ 64), (F.chkStatus_OWNER u, 0), (F.chkStatus_OWNER_ID u, 0),
      (F.chkStatus_LAST u, 0), (F.bowStatus_SCAN k, bit ((List.range 4).any fun j => j != u && (s.chk j).st == .scanning k))]
    (v % 2 ^ (s.chk u).width = (s.chk u).result →
      ((s.post 0x0411 u (s.chk u).result (s.fget (F.chkScanLen_LEN u))).freedChk u).sets (s.scanEnd u k (some v)) l) ∧
    (v % 2 ^ (s.chk u).width ≠ (s.chk u).result →
      ((s.post 0x0412 u (s.chk u).result v).freedChk u).sets (s.scanEnd u k (some v)) l) := by
  have hap : (F.chkStored_VALUE u).Apart (F.chkResult_VALUE u) := .inl (by change 0x00C070 + u * 0x80 ≠ 0x00C068 + u * 0x80; omega)
  have hset : s.sets ((s.resulted u).fset (F.chkStored_VALUE u) v)
      [(F.chkStored_VALUE u, v), (F.chkResult_VALUE u, (s.chk u).result % 2 ^ 64)] :=
    State.sets_fset _ _ _ _ _ _ (Fld.ok_mk (by decide)) (Nat.mod_eq_of_lt hv) (List.forall_mem_singleton.2 hap) (s.resulted_sets u)
  have hl : ∀ e ∈ [(F.chkStored_VALUE u, v), (F.chkResult_VALUE u, (s.chk u).result % 2 ^ 64)],
      e.1.addr = A.chkResult u ∨ e.1.addr = A.chkStored u ∨ e.1.addr = A.chkHaltAddr u :=
    List.forall_mem_cons.2 ⟨.inr (.inl rfl), List.forall_mem_singleton.2 (.inl rfl)⟩
  have hlen : ((s.resulted u).fset (F.chkStored_VALUE u) v).fget (F.chkScanLen_LEN u) = s.fget (F.chkScanLen_LEN u) :=
    (State.fget_scanLen _ u _ _ (Fld.ok_mk (by decide)) (.inr rfl)).trans (s.fget_scanLen u _ _ (Fld.ok_mk (by decide)) (.inl rfl))
  have heq : s.scanEnd u k (some v) = ((if v % 2 ^ (s.chk u).width = (s.chk u).result
      then ((s.resulted u).fset (F.chkStored_VALUE u) v).post 0x0411 u (s.chk u).result
        (((s.resulted u).fset (F.chkStored_VALUE u) v).fget (F.chkScanLen_LEN u))
      else ((s.resulted u).fset (F.chkStored_VALUE u) v).post 0x0412 u (s.chk u).result v).chkIdle u 0).noteScan k := rfl
  rw [hlen] at heq
  intro l
  refine ⟨fun h => ?_, fun h => ?_⟩
  · rw [heq, if_pos h]
    exact State.sets_scanPosted u k 0x0411 _ _ 0 (by omega) hset hl
  · rw [heq, if_neg h]
    exact State.sets_scanPosted u k 0x0412 _ _ 0 (by omega) hset hl

end Sys2Proof.Machine

/-! PROOFS. SCAN_READ_RETURN, and the check units together (R355 to R362). -/
namespace Sys2Proof.Machine

theorem exec_scanReadReturn_rest (i : Fin 4) (s : State) (h : ∀ k, (s.chk i.val).st ≠ .scanning k) : exec (.scanReadReturn i) s = .next s := by
  change Host.Outcome.next (s.scanReturn i.val) = _
  unfold State.scanReturn
  dsimp only
  split
  · next k hst => exact absurd hst (h k)
  · rfl

section
variable (s : State) (u k : Nat) (hst : (s.chk u).st = .scanning k)
include hst

/-- With every data word fed the scan ends, or has its stored word read. -/
theorem State.scanReturn_over (h : s.fget (F.chkScanStart_ADDR u) + s.fget (F.chkScanLen_LEN u) ≤ (s.chk u).pos) :
    s.scanReturn u = s.scanFinish u k := by
  unfold State.scanReturn
  simp only [hst]
  exact if_pos h

theorem State.scanReturn_unread (h : (s.chk u).pos < s.fget (F.chkScanStart_ADDR u) + s.fget (F.chkScanLen_LEN u))
    (hread : s.scanRead u (s.chk u).pos = none) : s.scanReturn u = s := by
  unfold State.scanReturn
  simp only [hst, hread]
  exact if_neg (Nat.not_le.2 h)

/-- The next atom's read, by its outcome. -/
theorem State.scanReturn_read (id : Nat) (r : Req) (h : (s.chk u).pos < s.fget (F.chkScanStart_ADDR u) + s.fget (F.chkScanLen_LEN u))
    (hread : s.scanRead u (s.chk u).pos = some (id, r)) :
    let a := r.res.getD (((s.chk u).pos - r.addr) / 64) ⟨.waiting, false, 0⟩
    (a.st = .waiting → s.scanReturn u = s) ∧
    (a.st = .ok → s.scanReturn u =
      if s.fget (F.chkScanStart_ADDR u) + s.fget (F.chkScanLen_LEN u) ≤ (s.chk u).pos + 64
      then (s.scanFeed u (s.chk u).pos (id, r) a.data).scanFinish u k else s.scanFeed u (s.chk u).pos (id, r) a.data) ∧
    (a.st = .poison → s.scanReturn u = s.scanHalt u k (s.chk u).pos stPoison) ∧
    (a.st = .lost → s.scanReturn u = s.scanHalt u k (s.chk u).pos stLost) := by
  intro a
  unfold State.scanReturn
  simp only [hst, hread, if_neg (Nat.not_le.2 h)]
  refine ⟨fun ha => ?_, fun ha => ?_, fun ha => ?_, fun ha => ?_⟩
  all_goals
    rw [show (r.res.getD (((s.chk u).pos - r.addr) / 64) ⟨.waiting, false, 0⟩).st = _ from ha]

end

/-- What feeding an atom leaves (R361). -/
theorem State.scanFeed_sets (s : State) (u a id : Nat) (r : Req) (d : Atom) :
    (({ s with reqs := if r.addr + 64 * r.atoms ≤ a + 64 then SMap.erase s.reqs id else s.reqs } : State).setChk u
      { feedAtom (s.chk u) a d with pos := a + 64 }).sets (s.scanFeed u a (id, r) d)
      [(F.chkStatus_FED u, s.wrapped (F.chkStatus_FED u) 64)] := by
  have hbase : ({ s with reqs := if r.addr + 64 * r.atoms ≤ a + 64 then SMap.erase s.reqs id else s.reqs } : State) =
      if r.addr + 64 * r.atoms ≤ a + 64 then s.dropReq id else s := by split <;> rfl
  have heq : ∀ c, (if r.addr + 64 * r.atoms ≤ a + 64
      then ((s.setChk u c).fset (F.chkStatus_FED u) (s.fget (F.chkStatus_FED u) + 64)).dropReq id
      else (s.setChk u c).fset (F.chkStatus_FED u) (s.fget (F.chkStatus_FED u) + 64)) =
      ((if r.addr + 64 * r.atoms ≤ a + 64 then s.dropReq id else s).setChk u c).fset (F.chkStatus_FED u) (s.fget (F.chkStatus_FED u) + 64) :=
    fun c => by split <;> rfl
  unfold State.scanFeed
  dsimp only
  rw [hbase, heq]
  exact State.sets_fset _ _ [] _ _ _ (Fld.ok_mk (by decide)) rfl (by simp) (State.sets_nil _)

/-! ### The stored word (R362) -/

section
variable (s : State) (u k : Nat) (hcmp : s.flag (F.chkScanCmp_VALID u) = true)
include hcmp

/-- The end of a scan with a compare goes by what the read of the stored word has come to. -/
theorem State.scanFinish_of (t : State) (d : Direct) (h : s.ownRead (.stored u) (s.bowAccess none) (8 * s.fget (F.chkScanCmp_ADDR u)) = (t, d)) :
    (d = .blocked → s.scanFinish u k = t) ∧
    (∀ x, d = .data x false → s.scanFinish u k = t.scanEnd u k (some (x.toNat / 2 ^ (8 * s.fget (F.chkScanCmp_ADDR u) % 64 * 8) % 2 ^ 64))) ∧
    (∀ x, d = .data x true → s.scanFinish u k = t.scanHalt u k (8 * s.fget (F.chkScanCmp_ADDR u) / 64 * 64) stPoison) ∧
    (d = .lost → s.scanFinish u k = t.scanHalt u k (8 * s.fget (F.chkScanCmp_ADDR u) / 64 * 64) stLost) := by
  unfold State.scanFinish
  rw [if_pos hcmp]
  dsimp only
  rw [h]
  exact ⟨fun hd => by rw [hd], fun x hd => by rw [hd], fun x hd => by rw [hd], fun hd => by rw [hd]⟩

end

theorem State.scanFinish_plain (s : State) (u k : Nat) (h : s.flag (F.chkScanCmp_VALID u) = false) : s.scanFinish u k = s.scanEnd u k none :=
  if_neg (by simp [h])

theorem State.ownGo_none (s : State) (o : Own) (f : State → State) (h : s.ownFind o = none) : s.ownGo o f = (f s, .blocked) := by
  unfold State.ownGo
  rw [h]

theorem State.chkAbort_eq (s : State) (u : Nat) :
    ((s.chk u).st = .idle → s.chkAbort u = s.chkLast u 0) ∧ ((s.chk u).st = .heldCp → s.chkAbort u = s.chkIdle u 6) ∧
      ∀ c, (s.chk u).st = .heldSeq c → s.chkAbort u = s.chkLast u 1 := by
  unfold State.chkAbort
  cases h : (s.chk u).st <;> simp

/-- Settles O52: each command by the unit's state (Table 12.1); what returns a unit to IDLE and what ends a scan is written once
(`sets_scanOver`, `sets_scanPosted`), and a scan goes on by its next read. -/
theorem checkUnits : Obligations.CheckUnits := by
  unfold Obligations.CheckUnits
  refine ⟨fun i s hready => ?_, fun i k s hready => ?_, fun i s k hk => ?_, fun i s h => exec_scanReadReturn_rest i s h, fun i s k hk => ?_⟩
  · intro last st freed f
    have hlast : ∀ n < 8, s.cpOk.sets (s.cpOk.chkLast i.val n) [(F.chkStatus_LAST i.val, n)] := fun n hn => s.cpOk.chkLast_sets i.val n hn
    have hfinish := s.cpDo_ready (.chkFinish i) (fun u => u.chkFinish i.val) hready
    have habort := s.cpDo_ready (.chkAbort i) (fun u => u.chkAbort i.val) hready
    have hb := fun b => s.cpDo_ready (.feedB i b) (fun u => u.feedB i.val b.toNat) hready
    have hh := fun h => s.cpDo_ready (.feedH i h) (fun u => u.feedH i.val h.toNat) hready
    have hw := fun w => s.cpDo_ready (.feedW i w) (fun u => u.feedW i.val w.toNat) hready
    have hconfig := fun reg w => s.cpDo_ready (.chkConfigWrite i reg w) (fun u => u.chkConfig i.val reg.val w) hready
    obtain ⟨hfidle, hfheld, hfother⟩ := s.cpOk.chkFinish_eq i.val
    obtain ⟨haidle, haheld, haseq⟩ := s.cpOk.chkAbort_eq i.val
    have hfeed := fun n g => s.cpOk.feed_eq i.val n g
    refine ⟨fun op => ⟨_, s.cpDo_ready (.chkOpReserved i op) (fun u => u.chkLast i.val 3) hready, hlast 3 (by omega)⟩, fun hst => ?_,
      fun hst => ?_, fun hst reg w => ?_, fun hst hheld => ?_, fun c hst => ?_, fun k hk hst => ?_⟩
    · refine ⟨⟨_, hfinish.trans (congrArg _ (hfidle hst)), hlast 2 (by omega)⟩, ⟨_, habort.trans (congrArg _ (haidle hst)), hlast 0 (by omega)⟩,
        fun b => ⟨_, (hb b).trans (congrArg _ ((hfeed 1 _).1 hst)), hlast 2 (by omega)⟩,
        fun h => ⟨_, (hh h).trans (congrArg _ ((hfeed 4 _).1 hst)), hlast 2 (by omega)⟩,
        fun w => ⟨_, (hw w).trans (congrArg _ ((hfeed 8 _).1 hst)), hlast 2 (by omega)⟩, fun reg w => ?_⟩
      obtain ⟨v, hframe, htaken, hset⟩ := s.cpOk.chkConfig_idle i.val reg.val w hst
      exact ⟨_, v, hconfig reg w, hframe, htaken, hset⟩
    · refine ⟨⟨_, hfinish.trans (congrArg _ (hfheld hst)), ?_⟩, ⟨_, habort.trans (congrArg _ (haheld hst)), ?_⟩,
        fun b => ⟨_, hb b, s.cpOk.feed_held_sets i.val 1 _ hst⟩, fun h => ⟨_, hh h, s.cpOk.feed_held_sets i.val 4 _ hst⟩,
        fun w => ⟨_, hw w, s.cpOk.feed_held_sets i.val 8 _ hst⟩⟩
      · have hidle := State.sets_chkIdle i.val (s.cpOk.resulted_sets i.val) (List.forall_mem_singleton.2 (.inl (chkResult_ne_chkStatus i.val).1))
          0 (by omega)
        exact State.sets_perm _ _ _ _ (fun e => List.mem_reverse (as := [_, _, _, _])) hidle
      · have hidle := State.sets_chkIdle (l := []) i.val s.cpOk.sets_nil (by simp) 6 (by omega)
        exact State.sets_perm _ _ _ _ (fun e => by simp only [List.mem_cons, List.not_mem_nil, or_false]; grind) hidle
    · exact ⟨_, (hconfig reg w).trans (congrArg _ (if_neg hst)), hlast 1 (by omega)⟩
    · exact ⟨⟨_, hfinish.trans (congrArg _ (hfother hst hheld)), hlast 1 (by omega)⟩,
        fun b => ⟨_, (hb b).trans (congrArg _ ((hfeed 1 _).2.2 hst hheld)), hlast 1 (by omega)⟩,
        fun h => ⟨_, (hh h).trans (congrArg _ ((hfeed 4 _).2.2 hst hheld)), hlast 1 (by omega)⟩,
        fun w => ⟨_, (hw w).trans (congrArg _ ((hfeed 8 _).2.2 hst hheld)), hlast 1 (by omega)⟩⟩
    · exact ⟨_, habort.trans (congrArg _ (haseq c hst)), hlast 1 (by omega)⟩
    · exact ⟨_, habort.trans (congrArg _ (s.cpOk.chkAbort_scanning i.val k hst)),
        State.sets_scanOver (l := []) i.val s.cpOk.sets_nil (by simp) k 6 (by omega) (by simp)⟩
  · intro u w latched paced
    have hstart := s.cpDo_ready (.chkStart i) (fun v => v.started.chkStart i.val) hready
    have hscan := s.cpDo_ready (.chkScan i k) (fun v => v.started.chkScan i.val k.val) hready
    refine ⟨fun h => ⟨_, hstart, u.chkStart_sets i.val h⟩, fun h => ⟨⟨_, hstart.trans (congrArg _ (if_neg h)), u.chkLast_sets i.val 1 (by omega)⟩,
      _, hscan.trans (congrArg _ (if_pos h)), u.chkLast_sets i.val 1 (by omega)⟩, fun h hinvalid => ⟨_, hscan.trans (congrArg _ ?_),
      u.chkLast_sets i.val 7 (by omega)⟩, fun h hvalid => ⟨_, hscan, u.chkScan_sets i.val k.val i.isLt k.isLt h hvalid⟩⟩
    exact (if_neg (Classical.not_not.2 h)).trans (if_pos ((Bool.not_eq_true' _).mpr hinvalid))
  · intro c hst fin freed halted
    have hexec : ∀ t, s.scanReturn i.val = t → exec (.scanReadReturn i) s = .next t := fun t h => congrArg Host.Outcome.next h
    refine ⟨fun h hread => hexec _ (s.scanReturn_unread i.val k hst h hread), fun id r h hread => ?_, fun h hcmp => ?_, fun h hcmp => ?_⟩
    · intro a
      obtain ⟨hwait, hok, hpoison, hlost⟩ := s.scanReturn_read i.val k hst id r h hread
      refine ⟨fun ha => hexec _ (hwait ha), fun ha => ⟨_, s.scanFeed_sets i.val c.pos id r a.data, fun hmore => ?_, fun hover => ?_⟩,
        fun ha => ⟨_, hexec _ (hpoison ha), s.scanHalt_sets i.val k c.pos stPoison⟩, fun ha => ⟨_, hexec _ (hlost ha), s.scanHalt_sets i.val k c.pos stLost⟩⟩
      · exact hexec _ ((hok ha).trans (if_neg (Nat.not_le.2 hmore)))
      · exact hexec _ ((hok ha).trans (if_pos hover))
    · exact hexec _ ((s.scanReturn_over i.val k hst h).trans (s.scanFinish_plain i.val k hcmp))
    · intro at8
      have hover := s.scanReturn_over i.val k hst h
      have hread := fun t d => s.scanFinish_of i.val k hcmp t d
      refine ⟨fun hnone => ?_, fun id hblocked => ?_, fun id d hdata => ?_, fun id d hdata => ?_, fun id hlost => ?_⟩
      · exact hexec _ (hover.trans ((hread _ _ (s.ownGo_none _ _ hnone)).1 rfl))
      · exact hexec _ (hover.trans ((hread _ _ (s.ownGo_blocked _ id _ hblocked)).1 rfl))
      all_goals have hgo := fun (d : Direct) (h : s.has (.stored i.val) id d) (hd : d ≠ .blocked) => hread _ _ (s.ownGo_of_has _ id d _ h hd)
      · exact hexec _ (hover.trans ((hgo _ hdata (by simp)).2.1 d rfl))
      · exact ⟨_, hexec _ (hover.trans ((hgo _ hdata (by simp)).2.2.1 d rfl)), State.scanHalt_sets _ i.val k _ _⟩
      · exact ⟨_, hexec _ (hover.trans ((hgo _ hlost (by simp)).2.2.2 rfl)), State.scanHalt_sets _ i.val k _ _⟩
  · intro r ended
    refine ⟨s.scanEnd_plain i.val k, fun v hv => ?_⟩
    exact s.scanEnd_compared i.val k v hv

end Sys2Proof.Machine

/-! PROOFS. Program slots: the doorbell, the load of a slot, the swap out of a context (R287 to R293, Tables 10.2, 10.3). -/
namespace Sys2Proof.Machine

/-! ### Requests that join a stream

A request of service traffic is recorded and enters its stream, or waits for its stream's descriptor: the cache, the requests, the pieces at
the ingress and the misses may change with it. -/

/-- From `s` to `t` requests may have been recorded and taken their streams; those recorded in `s` are there, and the rest is as it was. -/
structure State.Joins (s t : State) : Prop where
  regs : t.regs = s.regs
  build : t.build = s.build
  slots : t.slots = s.slots
  launchQ : t.launchQ = s.launchQ
  ctxs : t.ctxs = s.ctxs
  cadence : t.cadence = s.cadence
  cpWaiting : t.cpWaiting = s.cpWaiting
  nextReq : s.nextReq ≤ t.nextReq
  kept : ∀ id r, id < s.nextReq → s.req? id = some r → ∃ x, t.req? id = some x ∧ x.src = r.src ∧ x.addr = r.addr ∧ x.op = r.op

theorem State.Joins.refl (s : State) : s.Joins s := ⟨rfl, rfl, rfl, rfl, rfl, rfl, rfl, Nat.le_refl _, fun _ r _ h => ⟨r, h, rfl, rfl, rfl⟩⟩

theorem State.Joins.trans {s t u : State} (h : s.Joins t) (g : t.Joins u) : s.Joins u where
  regs := g.regs.trans h.regs
  build := g.build.trans h.build
  slots := g.slots.trans h.slots
  launchQ := g.launchQ.trans h.launchQ
  ctxs := g.ctxs.trans h.ctxs
  cadence := g.cadence.trans h.cadence
  cpWaiting := g.cpWaiting.trans h.cpWaiting
  nextReq := Nat.le_trans h.nextReq g.nextReq
  kept id r hid hr := by
    obtain ⟨x, hx, hsrc, haddr, hop⟩ := h.kept id r hid hr
    obtain ⟨y, hy, hsrc', haddr', hop'⟩ := g.kept id x (Nat.lt_of_lt_of_le hid h.nextReq) hx
    exact ⟨y, hy, hsrc'.trans hsrc, haddr'.trans haddr, hop'.trans hop⟩

theorem State.Joins.setEntry (s : State) (j : Nat) (e : Entry) : s.Joins (s.setEntry j e) :=
  ⟨rfl, rfl, rfl, rfl, rfl, rfl, rfl, Nat.le_refl _, fun _ r _ h => ⟨r, h, rfl, rfl, rfl⟩⟩

theorem State.Joins.miss (s : State) (i : Nat) (id : Option Nat) : s.Joins (s.miss i id) := by
  unfold State.miss
  split <;> exact ⟨rfl, rfl, rfl, rfl, rfl, rfl, rfl, Nat.le_refl _, fun _ r _ h => ⟨r, h, rfl, rfl, rfl⟩⟩

/-- A new record leaves those before it. -/
theorem State.Joins.addReq (s : State) (r : Req) : s.Joins (s.addReq r).1 :=
  ⟨rfl, rfl, rfl, rfl, rfl, rfl, rfl, Nat.le_succ _, fun id x hid h => ⟨x, (s.req?_putReq_other s.nextReq id r (Nat.ne_of_lt hid)).trans h, rfl, rfl, rfl⟩⟩

theorem State.Joins.ownStart (s : State) (o : Own) (x : Access) (kind : PKind) (a n : Nat) (data : List Atom) (poison : List Bool)
    (be : List (BitVec 64)) : s.Joins (s.ownStart o x kind a n data poison be) :=
  ⟨rfl, rfl, rfl, rfl, rfl, rfl, rfl, Nat.le_succ _, fun id y hid h => ⟨y, (s.req?_putReq_other s.nextReq id _ (Nat.ne_of_lt hid)).trans h, rfl, rfl, rfl⟩⟩

/-- A record changed in what is not its source, address or operation. -/
theorem State.Joins.modReq (s : State) (i : Nat) (f : Req → Req) (hf : ∀ r, (f r).src = r.src ∧ (f r).addr = r.addr ∧ (f r).op = r.op) :
    s.Joins (s.modReq i f) := by
  unfold State.modReq
  split
  · next x hx =>
    refine ⟨rfl, rfl, rfl, rfl, rfl, rfl, rfl, Nat.le_refl _, fun id r _ hr => ?_⟩
    by_cases hid : id = i
    · subst hid
      rw [hx] at hr
      cases hr
      exact ⟨f x, s.req?_putReq_same id (f x), hf x⟩
    · exact ⟨r, (s.req?_putReq_other i id (f x) hid).trans hr, rfl, rfl, rfl⟩
  · exact .refl s

theorem State.Joins.takeSample (s : State) (j : Nat) : s.Joins (s.takeSample j) := by
  unfold State.takeSample
  exact (State.Joins.setEntry s j _).trans (.ownStart _ _ _ _ _ _ _ _ _)

theorem State.Joins.settleSample (s : State) (j : Nat) : s.Joins (s.settleSample j) := by
  unfold State.settleSample
  dsimp only
  split
  · exact .takeSample s j
  · exact .refl s

theorem State.Joins.colourHead (s : State) (j : Nat) : s.Joins (s.colourHead j) := by
  unfold State.colourHead
  dsimp only
  split
  · exact .refl s
  · split
    · exact .refl s
    · split
      · exact .refl s
      · split
        · exact .setEntry s j _
        · split <;> exact .setEntry s j _

theorem State.Joins.enterStream (s : State) (j id : Nat) : s.Joins (s.enterStream j id) := by
  have hsample := State.Joins.settleSample s j
  unfold State.enterStream
  dsimp only
  generalize s.settleSample j = t at hsample
  have hentered : ∀ e, s.Joins ((t.setEntry j e).modReq id fun r => { r with entered := t.cadence }) := fun e =>
    (hsample.trans (.setEntry t j e)).trans (.modReq (t.setEntry j e) id _ fun _ => ⟨rfl, rfl, rfl⟩)
  split
  · exact (hentered _).trans (.colourHead _ j)
  · exact hentered _

/-- Service traffic is not refused at its stream (R287). -/
theorem State.Joins.toStream (s : State) (id i : Nat) (r : Req) (hr : s.req? id = some r) (hsvc : r.service?.isSome = true) (hlook : r.looks = false) :
    s.Joins (s.toStream id i) := by
  have hmeet : ∀ j, s.Joins (s.meetStream j id) := fun j => by
    unfold State.meetStream
    simp only [hr, hlook, hsvc, if_true, Bool.false_eq_true, if_false]
    exact .enterStream s j id
  unfold State.toStream
  split
  · split
    · exact hmeet _
    · exact .miss s i _
  · exact .miss s i _

/-- A request of a program's service traffic is recorded, and its record kept. -/
theorem State.svcStart_joins (s : State) (i n c op a : Nat) (data : Payload) (be : BitVec 256) :
    s.Joins (s.svcStart (.prog n i) n c op a data be) ∧
      ∃ x, (s.svcStart (.prog n i) n c op a data be).req? s.nextReq = some x ∧ x.src = .own (.prog n i) ∧ x.addr = a ∧ x.op = op ∧
        s.nextReq < (s.svcStart (.prog n i) n c op a data be).nextReq := by
  unfold State.svcStart
  dsimp only
  have hadd := State.Joins.addReq s { ownReq (.prog n i) op 1 a (s.slot n).mid s.cadence be with
    origin := c, stream := (s.slot n).stream, label := (s.slot n).label, started := 0, data := data }
  have hfind := s.req?_putReq_same s.nextReq { ownReq (.prog n i) op 1 a (s.slot n).mid s.cadence be with
    origin := c, stream := (s.slot n).stream, label := (s.slot n).label, started := 0, data := data }
  have hjoin := State.Joins.toStream (s.addReq { ownReq (.prog n i) op 1 a (s.slot n).mid s.cadence be with
    origin := c, stream := (s.slot n).stream, label := (s.slot n).label, started := 0, data := data }).1 s.nextReq (s.slot n).stream _ hfind rfl rfl
  obtain ⟨x, hx, hsrc, haddr, hop⟩ := hjoin.kept s.nextReq _ (Nat.lt_succ_self _) hfind
  exact ⟨hadd.trans hjoin, x, hx, hsrc, haddr, hop, Nat.lt_of_lt_of_le (Nat.lt_succ_self _) hjoin.nextReq⟩

theorem State.Joins.slotAddr {s t : State} (h : s.Joins t) (n o : Nat) : t.slotAddr n o = s.slotAddr n o := by
  unfold State.slotAddr State.fget State.reg
  rw [h.regs]

/-- The reads of one slot begin in turn. -/
theorem State.svcReads_spec (n c : Nat) (l : List Nat) (s : State) :
    let t := s.forEach l fun s i => s.svcStart (.prog n i) n c opRead (s.slotAddr n (64 * i)) 0 0
    s.Joins t ∧ ∀ i ∈ l, ∃ id x, id < t.nextReq ∧ t.req? id = some x ∧ x.src = .own (.prog n i) ∧ x.addr = s.slotAddr n (64 * i) ∧ x.op = opRead := by
  unfold State.forEach
  induction l generalizing s with
  | nil => exact ⟨.refl s, by simp⟩
  | cons j l ih =>
    obtain ⟨hjoin, x, hx, hsrc, haddr, hop, hlt⟩ := s.svcStart_joins j n c opRead (s.slotAddr n (64 * j)) 0 0
    obtain ⟨hrest, hall⟩ := ih (s.svcStart (.prog n j) n c opRead (s.slotAddr n (64 * j)) 0 0)
    rw [List.foldl_cons]
    refine ⟨hjoin.trans hrest, fun i hi => ?_⟩
    rcases List.mem_cons.1 hi with rfl | hi
    · obtain ⟨y, hy, hsrc', haddr', hop'⟩ := hrest.kept s.nextReq x hlt hx
      exact ⟨s.nextReq, y, Nat.lt_of_lt_of_le hlt hrest.nextReq, hy, hsrc'.trans hsrc, haddr'.trans haddr, hop'.trans hop⟩
    · obtain ⟨id, y, hid, hy, hsrc', haddr', hop'⟩ := hall i hi
      exact ⟨id, y, hid, hy, hsrc', haddr'.trans (hjoin.slotAddr n _), hop'⟩

theorem SMap.mem_of_get? {α : Type} (m : SMap α) (i : Nat) (v : α) (h : SMap.get? m i = some v) : (i, v) ∈ m := by
  induction m with
  | nil => cases h
  | cons e m ih =>
    rw [SMap.get?_cons] at h
    split at h
    · next he =>
      cases h
      exact List.mem_cons.2 (.inl (by rw [← he]))
    · exact List.mem_cons_of_mem _ (ih h)

/-! ### SLOT_LOAD (R291) -/

/-- The slot that leaves the launch queue, before its reads begin. -/
def State.loadTaken (s : State) (n c : Nat) (q : List Nat) : State :=
  ({ (s.setSlot n { s.slot n with st := .loading, ctx := some c }) with launchQ := q } : State).setCtx c (some (blankCtx n))

theorem State.loadStart_spec (s : State) (n c : Nat) (q : List Nat) : let t := s.loadStart n c q
    t.slot n = { s.slot n with st := .loading, ctx := some c } ∧ t.launchQ = q ∧
      ∀ i ∈ (if (s.slot n).saved then [0, 1, 2, 3, 4] else [1, 2, 3]), ∃ e ∈ t.reqs,
        e.2.src = .own (.prog n i) ∧ e.2.addr = s.slotAddr n (64 * i) ∧ e.2.op = 0 := by
  have hslot : (s.loadTaken n c q).slot n = { s.slot n with st := .loading, ctx := some c } := SMap.get_put_same _ _ _ _
  have heq : s.loadStart n c q = (s.loadTaken n c q).forEach ((s.loadTaken n c q).slot n).loads
      fun u i => u.svcStart (.prog n i) n c opRead (u.slotAddr n (64 * i)) 0 0 := rfl
  have hloads : ((s.loadTaken n c q).slot n).loads = (s.slot n).loads := by rw [hslot]; rfl
  rw [hloads] at heq
  intro t
  obtain ⟨hjoin, hall⟩ := State.svcReads_spec n c (s.slot n).loads (s.loadTaken n c q)
  rw [← heq] at hjoin hall
  refine ⟨?_, hjoin.launchQ, fun i hi => ?_⟩
  · exact (congrArg (fun m => SMap.get m Slot.init n) hjoin.slots).trans hslot
  · obtain ⟨id, x, -, hx, hsrc, haddr, hop⟩ := hall i hi
    exact ⟨(id, x), SMap.mem_of_get? _ _ _ hx, hsrc, haddr, hop⟩

theorem exec_slotLoad_next (s : State) (h : s.loadReady = none) :
    (s.launchQ = [] ∨ s.freeCtx = none → exec .slotLoad s = .next s) ∧
      ∀ n q c, s.launchQ = n :: q → s.freeCtx = some c → exec .slotLoad s = .next (s.loadStart n c q) := by
  change (_ → Host.Outcome.next s.slotLoad = _) ∧ ∀ n q c, _ → _ → Host.Outcome.next s.slotLoad = _
  unfold State.slotLoad
  rw [h]
  refine ⟨fun hidle => ?_, fun n q c hq hc => ?_⟩
  · rcases hidle with hq | hc
    · rw [hq]
    · rw [hc]
      cases s.launchQ <;> rfl
  · rw [hq, hc]

/-- What atom `i` of a slot has given to a load: its data where it decoded (R291). -/
def goodRead (e : Nat × Option Direct) : Option Atom := match e.2 with | some (.data d false) => some d | _ => none

/-- The reads of a load, as they stand. -/
def State.loadReads (s : State) (n : Nat) : List (Nat × Option Direct) := (s.slot n).loads.map fun i => (i, s.progAt n i)

/-- The atoms of a slot as its load holds them; what a lost one would have given is open. -/
def State.loadAtoms (s : State) (n : Nat) : List Atom :=
  (List.range 5).map fun i => match (s.loadReads n).find? fun e => e.1 == i with
    | some e => (goodRead e).getD (Config.freeAtom s.free)
    | none => 0

theorem exec_slotLoad_ready (s : State) (n c : Nat) (h : s.loadReady = some (n, c)) :
    exec .slotLoad s = .next (s.loaded n c (s.loadReads n)) := by
  change Host.Outcome.next s.slotLoad = _
  unfold State.slotLoad
  rw [h] <;> rfl

/-- The context that a load gives, from the atoms it holds. -/
def State.loadedCtx (s : State) (n : Nat) : Ctx := loadCtx n (s.slot n) (!(s.slot n).saved) (s.loadAtoms n) s.cadence

/-- How a load ends, over its reads. -/
theorem State.loaded_eq (s : State) (n c : Nat) : s.loaded n c (s.loadReads n) =
    (let bad := (s.loadReads n).find? fun e => (goodRead e).isNone
    let x := if bad.isSome then { s.loadedCtx n with pc := (s.slot n).heldPc } else s.loadedCtx n
    let u := ((if bad.isSome then s.freed else s).setCtx c (some x)).progDrop n
    if (s.slot n).abort then u.finish n ⟨true, 0x1A, 0, 0, x.pc, true⟩
    else match bad with
      | some e => u.finish n ⟨true, 0x19, u.slotAddr n (64 * e.1), 0, x.pc, true⟩
      | none =>
        let v := u.modSlot n fun sl => { sl with st := .running }
        if (s.slot n).tokWait then (v.modSlot n fun sl => { sl with tokWait := false }).modCtx c Ctx.advance else v) := rfl

theorem State.setSlot_setSlot (s : State) (n : Nat) (x y : Slot) (h : x.st ≠ .free) : (s.setSlot n x).setSlot n y = s.setSlot n y := by
  have hne : x ≠ Slot.init := fun he => h (by rw [he]; rfl)
  unfold State.setSlot
  rw [SMap.put_put _ _ _ _ _ hne]

theorem State.slot_setSlot_same (s : State) (n : Nat) (x : Slot) : (s.setSlot n x).slot n = x := SMap.get_put_same _ _ _ _

theorem State.ctx?_setCtx_same (s : State) (c : Nat) (x : Option Ctx) : (s.setCtx c x).ctx? c = x := SMap.get_put_same _ _ _ _

theorem State.modCtx_of (s : State) (c : Nat) (x : Ctx) (f : Ctx → Ctx) (h : s.ctx? c = some x) : s.modCtx c f = s.setCtx c (some (f x)) := by
  unfold State.modCtx
  rw [h]

/-- A load whose reads have all decoded makes its context run; an abort that waited is taken first (R291, Table 10.10). -/
theorem State.loaded_good (s : State) (n c : Nat) (hgood : (s.loadReads n).find? (fun e => (goodRead e).isNone) = none) :
    let u := (s.setCtx c (some (s.loadedCtx n))).progDrop n
    ((s.slot n).abort = true → s.loaded n c (s.loadReads n) = u.finish n ⟨true, 0x1A, 0, 0, (s.loadedCtx n).pc, true⟩) ∧
    ((s.slot n).abort = false → (s.slot n).tokWait = false → s.loaded n c (s.loadReads n) = u.setSlot n { s.slot n with st := .running }) ∧
    ((s.slot n).abort = false → (s.slot n).tokWait = true →
      s.loaded n c (s.loadReads n) = (u.setSlot n { s.slot n with st := .running, tokWait := false }).setCtx c (some (s.loadedCtx n).advance)) := by
  intro u
  rw [s.loaded_eq n c, hgood]
  refine ⟨fun ha => if_pos ha, fun ha htok => ?_, fun ha htok => ?_⟩
  · rw [ha, htok]
    rfl
  · have hctx : ((u.setSlot n { s.slot n with st := .running }).setSlot n { s.slot n with st := .running, tokWait := false }).ctx? c =
        some (s.loadedCtx n) := State.ctx?_setCtx_same _ c _
    have hslot : (u.setSlot n { s.slot n with st := .running }).slot n = { s.slot n with st := .running } := State.slot_setSlot_same _ n _
    have hset := State.modCtx_of _ c _ Ctx.advance hctx
    rw [State.setSlot_setSlot _ n _ _ (show SlotSt.running ≠ .free by decide)] at hset
    rw [← hset, ← State.setSlot_setSlot u n { s.slot n with st := .running } _ (show SlotSt.running ≠ .free by decide), ha, htok]
    have hmod : (u.setSlot n { s.slot n with st := .running }).modSlot n (fun sl => { sl with tokWait := false }) =
        (u.setSlot n { s.slot n with st := .running }).setSlot n { s.slot n with st := .running, tokWait := false } := by
      rw [State.modSlot_eq, hslot]
    exact congrArg (fun t : State => t.modCtx c Ctx.advance) hmod

/-- A load traps at the first of its atoms that did not decode. -/
theorem State.loaded_bad (s : State) (n c : Nat) (e : Nat × Option Direct) (ha : (s.slot n).abort = false)
    (hbad : (s.loadReads n).find? (fun e => (goodRead e).isNone) = some e) :
    s.loaded n c (s.loadReads n) = ((s.freed.setCtx c (some { s.loadedCtx n with pc := (s.slot n).heldPc })).progDrop n).finish n
      ⟨true, 0x19, s.slotAddr n (64 * e.1), 0, (s.slot n).heldPc, true⟩ := by
  rw [s.loaded_eq n c, hbad, ha]
  rfl

end Sys2Proof.Machine

/-! PROOFS. A doorbell and its checks; a program swapped out, saved and queued again (R288 to R293, Tables 10.2, 10.3). -/
namespace Sys2Proof.Machine

/-! ### The doorbell (R288) -/

theorem State.descNow_cpWaiting (s : State) (who : Option Nat) (i : Nat) : (s.descNow who i).1.cpWaiting = s.cpWaiting := by
  have hlook : ∀ t : State, (t.lookStart who i).cpWaiting = t.cpWaiting := fun t =>
    (State.Joins.miss _ _ _).cpWaiting.trans (State.Joins.addReq t _).cpWaiting
  unfold State.descNow
  split
  · split
    · rfl
    · split
      · split
        · split
          · rfl
          · exact hlook _
        · exact hlook _
      · rfl
  · split
    · split
      · rfl
      · exact hlook _
    · exact hlook _

theorem State.started_cpWaiting (s : State) : s.started.cpWaiting = s.cpWaiting := by
  unfold State.started
  split
  · rw [s.quietExit_frame 0]
  · rfl

theorem exec_doorbell (v : Word) (s : State) (h : s.cpReady) (hup : s.flag F.glbResetStatus_READY = true) :
    (∀ y, s.cpOk.started.doorbell v.toNat = (y, true) → exec (.doorbell v) s = .next y) ∧
      ∀ y, s.cpOk.started.doorbell v.toNat = (y, false) → y.cpWaiting = s.cpOk.started.cpWaiting →
        exec (.doorbell v) s = .next { y with cpWaiting := [.doorbell v] } := by
  have hexec : exec (.doorbell v) s = .next (s.cpOk.ring (.doorbell v) v.toNat) := s.cpDo_ready _ (fun u => u.ring (.doorbell v) v.toNat) h
  have hring : s.cpOk.ring (.doorbell v) v.toNat =
      if (s.cpOk.started.doorbell v.toNat).2 then (s.cpOk.started.doorbell v.toNat).1
      else { (s.cpOk.started.doorbell v.toNat).1 with cpWaiting := (s.cpOk.started.doorbell v.toNat).1.cpWaiting ++ [.doorbell v] } := by
    unfold State.ring
    rw [show s.cpOk.flag F.glbResetStatus_READY = true from hup]
    rfl
  have hnone : s.cpOk.started.cpWaiting = [] := s.cpOk.started_cpWaiting.trans h.2.1
  refine ⟨fun y hy => ?_, fun y hy hwait => ?_⟩
  · rw [hexec, hring, hy]
    rfl
  · rw [hexec, hring, hy, hwait.trans hnone]
    rfl

theorem State.doorbell_outOfRange (s : State) (w : Nat) (h : s.build.inRange (s.slotAddr (bitsOf w 11 0) 0) 512 = false) :
    s.doorbell w = (s.launchChecked w none none, true) := by
  unfold State.doorbell
  dsimp only
  rw [h]
  rfl

theorem State.doorbell_start (s : State) (w : Nat) (h : s.build.inRange (s.slotAddr (bitsOf w 11 0) 0) 512 = true)
    (hfind : s.ownFind (.bell 0) = none) :
    s.doorbell w = (s.ownStart (.bell 0) (serviceAccess 7) .read (s.slotAddr (bitsOf w 11 0) 0) 1 [] [] [], false) := by
  unfold State.doorbell
  dsimp only
  rw [h, hfind]
  rfl

/-- A doorbell whose read is under way, as the read has come. -/
theorem State.doorbell_has (s : State) (w id : Nat) (h : s.build.inRange (s.slotAddr (bitsOf w 11 0) 0) 512 = true) :
    (s.has (.bell 0) id .blocked → s.doorbell w = (s, false)) ∧
    (∀ d, s.has (.bell 0) id (.data d true) → s.doorbell w = ((s.dropReq id).launchChecked w none none, true)) ∧
    (s.has (.bell 0) id .lost → s.doorbell w = ((s.dropReq id).launchChecked w none none, true)) ∧
    ∀ d, s.has (.bell 0) id (.data d false) →
      (∀ y, s.descNow none (dField d 1 63 44) = (y, .wait) → s.doorbell w = (y, false)) ∧
      (∀ y, s.descNow none (dField d 1 63 44) = (y, .bad) → s.doorbell w = ((y.dropReq id).launchChecked w (some d) none, true)) ∧
      ∀ y desc, s.descNow none (dField d 1 63 44) = (y, .words desc) →
        s.doorbell w = ((y.dropReq id).launchChecked w (some d) (some desc), true) := by
  unfold State.doorbell
  dsimp only
  rw [h]
  refine ⟨?_, fun d => ?_, ?_, fun d => ?_⟩
  · rintro ⟨r, hfind, hd⟩
    rw [hfind]
    dsimp only
    rw [hd] <;> rfl
  · rintro ⟨r, hfind, hd⟩
    rw [hfind]
    dsimp only
    rw [hd] <;> rfl
  · rintro ⟨r, hfind, hd⟩
    rw [hfind]
    dsimp only
    rw [hd] <;> rfl
  · rintro ⟨r, hfind, hd⟩
    rw [hfind]
    dsimp only
    rw [hd]
    refine ⟨fun y hy => ?_, fun y hy => ?_, fun y desc hy => ?_⟩ <;> simp only [hy] <;> rfl

/-! ### The checks of a doorbell (Table 10.2) -/

theorem State.launchResult_sets (s : State) (n r : Nat) (hn : n < 4096) (hr : r < 8) :
    s.sets (s.launchResult n r) [(F.seqLaunchStatus_SLOT, n), (F.seqLaunchStatus_RESULT, r)] :=
  s.sets_puts_perm [(F.seqLaunchStatus_RESULT, r), (F.seqLaunchStatus_SLOT, n)] _
    (by
      simp only [List.forall_mem_cons]
      exact ⟨⟨Fld.ok_mk (by decide), hr⟩, ⟨Fld.ok_mk (by decide), hn⟩, by simp⟩)
    (by
      simp only [List.pairwise_cons, List.forall_mem_cons]
      exact ⟨⟨.inr (.inr (by decide)), by simp⟩, by simp, .nil⟩)
    (by simp [or_comm])

theorem State.launchChecked_refused (y : State) (w : Nat) (words desc : Option Atom) :
    (y.flag F.seqCfg_EN = false → y.launchChecked w words desc = y.launchResult (bitsOf w 11 0) 6) ∧
    (y.flag F.seqCfg_EN = true → (y.slot (bitsOf w 11 0)).st ≠ .free → y.launchChecked w words desc = y.launchResult (bitsOf w 11 0) 1) ∧
    (y.flag F.seqCfg_EN = true → (y.slot (bitsOf w 11 0)).st = .free → words = none →
      y.launchChecked w words desc = y.launchResult (bitsOf w 11 0) 3) := by
  unfold State.launchChecked
  refine ⟨fun hen => ?_, fun hen hst => ?_, fun hen hst hw => ?_⟩
  · rw [hen]
    rfl
  · simp only [hen, Bool.not_true, Bool.false_eq_true, if_false, bne_iff_ne, ne_eq, hst, not_false_iff, if_true]
  · subst hw
    simp only [hen, Bool.not_true, Bool.false_eq_true, if_false, hst, bne_self_eq_false]

/-- With the block enabled and the slot free, words 0 to 3 decide, then the launch stream. -/
theorem State.launchChecked_read (y : State) (w : Nat) (d : Atom) (desc : Option Atom) (hen : y.flag F.seqCfg_EN = true)
    (hst : (y.slot (bitsOf w 11 0)).st = .free) :
    (∀ r, y.launchWords d = some r → y.launchChecked w (some d) desc = y.launchResult (bitsOf w 11 0) r) ∧
    (y.launchWords d = none → desc = none → y.launchChecked w (some d) desc = y.launchResult (bitsOf w 11 0) 7) ∧
    (∀ e, y.launchWords d = none → desc = some e → y.launchChecked w (some d) desc =
      if dValid e && dGroupOk e (y.group (bitsOf w 27 16)) then y.launchAccept (bitsOf w 11 0) w d e
      else y.launchResult (bitsOf w 11 0) 7) := by
  unfold State.launchChecked
  simp only [hen, Bool.not_true, Bool.false_eq_true, if_false, hst, bne_self_eq_false]
  refine ⟨fun r hr => ?_, fun hw hd => ?_, fun e hw hd => ?_⟩
  · rw [hr]
  · rw [hw, hd]
  · rw [hw, hd]

/-- Words 0 to 3 by Table 10.2, checks 4 to 6. -/
theorem State.launchWords_eq (y : State) (d : Atom) : y.launchWords d =
    if dField d 0 63 60 = 0 ∨ 3 < dField d 0 63 60 then some 2
    else if dField d 0 41 0 % 16 ≠ 0 ∨ y.build.inRange (dField d 0 41 0) 16 = false ∨ dField d 0 59 42 ≠ 0 then some 4
    else if dField d 2 41 0 % 64 ≠ 0 ∨ y.build.inRange (dField d 2 41 0) 64 = false then some 5 else none := by
  unfold State.launchWords
  simp only [Bool.or_eq_true, decide_eq_true_eq, Bool.not_eq_true', or_assoc]

theorem State.fget_fset_other (s : State) (f g : Fld) (v : Nat) (h : f.addr ≠ g.addr) : (s.fset f v).fget g = s.fget g := by
  unfold State.fget
  rw [s.reg_fset_other f v g.addr h]

/-- The state in which an accepted launch has written the registers. -/
def State.launchRegs (y : State) (n : Nat) : State :=
  ((y.launchResult n 0).fset F.seqLaunchStatus_SEQNUM (y.fget F.seqLaunchStatus_SEQNUM + 1)).count F.seqLaunches_COUNT 1

/-- What an accepted launch puts in the registers (R289). -/
theorem State.launchRegs_sets (s : State) (n : Nat) (hn : n < 4096) :
    s.sets (s.launchRegs n)
      [(F.seqLaunchStatus_SLOT, n), (F.seqLaunchStatus_RESULT, 0),
       (F.seqLaunchStatus_SEQNUM, s.wrapped F.seqLaunchStatus_SEQNUM 1), (F.seqLaunches_COUNT, s.wrapped F.seqLaunches_COUNT 1)] := by
  have hres := s.launchResult_sets n 0 hn (by decide)
  have hseq := State.sets_fset s _ _ F.seqLaunchStatus_SEQNUM (s.fget F.seqLaunchStatus_SEQNUM + 1) _ (Fld.ok_mk (by decide)) rfl
    (by
      simp only [List.forall_mem_cons]
      exact ⟨.inr (.inl (by decide)), .inr (.inl (by decide)), by simp⟩) hres
  have hcount : (((s.launchResult n 0).fset F.seqLaunchStatus_SEQNUM (s.fget F.seqLaunchStatus_SEQNUM + 1)).fget F.seqLaunches_COUNT) =
      s.fget F.seqLaunches_COUNT :=
    have hap (f : Fld) (h : f.addr = A.seqLaunchStatus) : f.addr ≠ F.seqLaunches_COUNT.addr := by rw [h]; decide
    ((State.fget_fset_other _ _ _ _ (hap _ rfl)).trans (State.fget_fset_other _ _ _ _ (hap _ rfl))).trans (State.fget_fset_other _ _ _ _ (hap _ rfl))
  have hall := State.sets_fset s _ _ F.seqLaunches_COUNT (s.fget F.seqLaunches_COUNT + 1) _ (Fld.ok_mk (by decide)) rfl
    (by
      simp only [List.forall_mem_cons]
      exact ⟨.inl (by decide), .inl (by decide), .inl (by decide), by simp⟩) hseq
  rw [← hcount] at hall
  refine State.sets_perm _ _ _ _ (fun e => ?_) hall
  simp only [List.mem_cons, List.not_mem_nil, or_false]
  rw [hcount]
  unfold State.wrapped
  grind

/-- The slot of an accepted launch (R289). -/
def State.launchSlot (y : State) (w : Nat) (d desc : Atom) : Slot := { Slot.init with
  st := .queued, mid := bitsOf w 27 16, priv := w.testBit 32, pin := w.testBit 33
  event := w.testBit 34, launch := y.cadence, seqnum := (y.fget F.seqLaunchStatus_SEQNUM + 1) % 2 ^ 32
  code := dField d 0 41 0, tb0 := dWord d 3, stream := dField d 1 63 44, label := dField d 1 43 38, done := dField d 2 41 0
  cls := dClass desc, pg := dPgroup desc }

/-- The slot of a launch that `y` accepts joins the queue. -/
def State.launchQueued (u y : State) (w : Nat) (d desc : Atom) : State :=
  let s := u.setSlot (bitsOf w 11 0) { Slot.init with
    st := .queued, mid := bitsOf w 27 16, priv := w.testBit 32, pin := w.testBit 33
    event := w.testBit 34, launch := u.cadence, seqnum := (y.fget F.seqLaunchStatus_SEQNUM + 1) % 2 ^ 32
    code := dField d 0 41 0, tb0 := dWord d 3, stream := dField d 1 63 44, label := dField d 1 43 38, done := dField d 2 41 0
    cls := dClass desc, pg := dPgroup desc }
  { s with launchQ := s.launchQ ++ [bitsOf w 11 0] }

theorem State.launchQueued_sets (u y : State) (w : Nat) (d desc : Atom) (l : List (Fld × Nat)) (h : y.sets u l) :
    (({ y with launchQ := y.launchQ ++ [bitsOf w 11 0] } : State).setSlot (bitsOf w 11 0) (y.launchSlot w d desc)).sets
      (u.launchQueued y w d desc) l := by
  obtain ⟨hframe, hvals, hkept⟩ := h
  refine ⟨?_, hvals, hkept⟩
  generalize u.regs = r at hframe
  subst hframe
  rfl

theorem State.launchAccept_eq (y : State) (w : Nat) (d desc : Atom) :
    y.launchAccept (bitsOf w 11 0) w d desc = (y.launchRegs (bitsOf w 11 0)).launchQueued y w d desc := rfl

theorem State.launchAccept_spec (y : State) (w : Nat) (d desc : Atom) :
    (({ y with launchQ := y.launchQ ++ [bitsOf w 11 0] } : State).setSlot (bitsOf w 11 0) (y.launchSlot w d desc)).sets
      (y.launchAccept (bitsOf w 11 0) w d desc)
      [(F.seqLaunchStatus_SLOT, bitsOf w 11 0), (F.seqLaunchStatus_RESULT, 0),
       (F.seqLaunchStatus_SEQNUM, y.wrapped F.seqLaunchStatus_SEQNUM 1), (F.seqLaunches_COUNT, y.wrapped F.seqLaunches_COUNT 1)] := by
  rw [y.launchAccept_eq w d desc]
  exact (y.launchRegs (bitsOf w 11 0)).launchQueued_sets y w d desc _ (y.launchRegs_sets (bitsOf w 11 0) (bitsOf_lt w 11 0))

/-! ### SWAP_OUT and SAVE_DONE (R292, R293) -/

theorem exec_swapOut (c : Fin 256) (s : State) (x : Ctx) (hx : s.ctx? c.val = some x) :
    (s.swapAt x (s.slot x.slot) = none → exec (.swapOut c) s = .next s) ∧
    ∀ due, s.swapAt x (s.slot x.slot) = some due → s.reaches due → exec (.swapOut c) s =
      .next ((s.momentOf due).setSlot x.slot { s.slot x.slot with st := .saving, tokWait := (s.slot x.slot).st == .waiting }) := by
  change (_ → Host.Outcome.next (s.swapOut c.val) = _) ∧ ∀ due, _ → _ → Host.Outcome.next (s.swapOut c.val) = _
  unfold State.swapOut
  rw [hx]
  refine ⟨fun h => ?_, fun due h hdue => ?_⟩
  · simp only [h, Option.bind_none]
  · simp only [h, Option.bind_some, s.atCadence_reaches due hdue]
    rfl

/-- The writes of a saved slot, of which none has begun. -/
theorem range5_all_none (s : State) (n : Nat) : ((List.range 5).map (s.progAt n)).all (·.isNone) = true ↔ ∀ i < 5, s.progAt n i = none := by
  simp only [List.all_map, List.all_eq_true, List.mem_range, Function.comp, Option.isNone_iff_eq_none]

theorem range5_all_done (s : State) (n : Nat) :
    ((List.range 5).map (s.progAt n)).all (· == some .done) = true ↔ ∀ i < 5, s.progAt n i = some .done := by
  simp only [List.all_map, List.all_eq_true, List.mem_range, Function.comp, beq_iff_eq]

theorem exec_saveDone (c : Fin 256) (s : State) (x : Ctx) (hx : s.ctx? c.val = some x) :
    ((s.slot x.slot).st ≠ .saving → exec (.saveDone c) s = .next s) ∧
    ((s.slot x.slot).st = .saving → (∀ i < 5, s.progAt x.slot i = none) →
      exec (.saveDone c) s = .next (if s.fenceDone c.val then s.saveWords x.slot c.val x else s)) ∧
    ((∃ i < 5, s.progAt x.slot i ≠ none) → (∃ i < 5, s.progAt x.slot i ≠ some .done) → exec (.saveDone c) s = .next s) ∧
    ((s.slot x.slot).st = .saving → (∀ i < 5, s.progAt x.slot i = some .done) →
      exec (.saveDone c) s = .next (s.saved x.slot c.val x)) := by
  change (_ → Host.Outcome.next (s.saveDone c.val) = _) ∧ (_ → _ → Host.Outcome.next (s.saveDone c.val) = _) ∧
    (_ → _ → Host.Outcome.next (s.saveDone c.val) = _) ∧ (_ → _ → Host.Outcome.next (s.saveDone c.val) = _)
  unfold State.saveDone
  rw [hx]
  simp only [range5_all_none, range5_all_done, bne_iff_ne]
  refine ⟨fun hst => by rw [if_pos hst], fun hst hnone => ?_, fun ⟨i, hi, hne⟩ ⟨j, hj, hnd⟩ => ?_, fun hst hdone => ?_⟩
  · rw [if_neg (Classical.not_not.2 hst), if_pos hnone]
  · have hsome : ¬ ∀ i < 5, s.progAt x.slot i = none := fun h => hne (h i hi)
    have hopen : ¬ ∀ i < 5, s.progAt x.slot i = some .done := fun h => hnd (h j hj)
    rw [if_neg hsome, if_neg hopen, ite_self]
  · have hsome : ¬ ∀ i < 5, s.progAt x.slot i = none := fun h => by
      have h0 := (h 0 (by decide)).symm.trans (hdone 0 (by decide))
      cases h0
    rw [if_neg (Classical.not_not.2 hst), if_neg hsome, if_pos hdone]

/-- A program whose state is saved gives up its context (Table 10.3). -/
def State.savedGone (s : State) (n c : Nat) (x : Ctx) : State :=
  (((s.progDrop n).ownDrop (.code n)).setCtx c none).setSlot n { s.slot n with ctx := none, saved := true, pc := x.pc }

theorem State.ownDrop_setRegs (s : State) (o : Own) (r : SMap Word) :
    ({ s with regs := r } : State).ownDrop o = { s.ownDrop o with regs := r } := by
  unfold State.ownDrop
  rw [show ({ s with regs := r } : State).ownFind o = s.ownFind o from rfl]
  cases s.ownFind o <;> rfl

theorem State.ownDrop_slot (s : State) (o : Own) (n : Nat) : (s.ownDrop o).slot n = s.slot n := by
  unfold State.ownDrop
  split <;> rfl

theorem State.ownDrop_regs (s : State) (o : Own) : (s.ownDrop o).regs = s.regs := by
  unfold State.ownDrop
  split <;> rfl

theorem State.savedGone_setRegs (s : State) (n c : Nat) (x : Ctx) (r : SMap Word) :
    (((({ s with regs := r } : State).progDrop n).ownDrop (.code n)).setCtx c none).modSlot n
      (fun y => { y with ctx := none, saved := true, pc := x.pc }) = { s.savedGone n c x with regs := r } := by
  have hdrop : (({ s with regs := r } : State).progDrop n).ownDrop (.code n) = { (s.progDrop n).ownDrop (.code n) with regs := r } :=
    (s.progDrop n).ownDrop_setRegs (.code n) r
  have hslot : ((s.progDrop n).ownDrop (.code n)).slot n = s.slot n := (s.progDrop n).ownDrop_slot (.code n) n
  rw [hdrop]
  unfold State.savedGone
  rw [← hslot]
  rfl

theorem State.savedGone_slot (s : State) (n c : Nat) (x : Ctx) (r : SMap Word) :
    ({ s.savedGone n c x with regs := r } : State).slot n = { s.slot n with ctx := none, saved := true, pc := x.pc } :=
  SMap.get_put_same _ _ _ _

/-- The slot of a saved program is written anew where its program goes on. -/
theorem State.savedGone_modSlot (s : State) (n c : Nat) (x : Ctx) (r : SMap Word) (st : SlotSt) :
    ({ s.savedGone n c x with regs := r } : State).modSlot n (fun y => { y with st := st }) =
      { (((s.progDrop n).ownDrop (.code n)).setCtx c none).setSlot n { s.slot n with ctx := none, saved := true, pc := x.pc, st := st }
        with regs := r } := by
  have hne : ({ s.slot n with ctx := none, saved := true, pc := x.pc } : Slot) ≠ Slot.init := fun he => by
    have hsaved := congrArg Slot.saved he
    cases hsaved
  rw [State.modSlot_eq, s.savedGone_slot n c x r]
  unfold State.savedGone State.setSlot
  dsimp only
  rw [SMap.put_put _ _ _ _ _ hne]

theorem State.saved_spec (s : State) (n c : Nat) (x : Ctx) :
    let r := (s.count F.seqSwaps_COUNT 1).regs
    ((s.slot n).abort = true → s.saved n c x = ({ s.savedGone n c x with regs := r } : State).finish n ⟨true, 0x1A, 0, 0, x.pc, false⟩) ∧
    (∀ e, (s.slot n).abort = false → x.asyncTrap = some e → s.saved n c x = ({ s.progDrop n with regs := r } : State).finish n e) ∧
    (x.asyncTrap = none → (s.slot n).abort = false → (s.slot n).tokWait = true → s.onToken n = true →
      s.saved n c x = ({ s.savedGone n c x with regs := r } : State).modSlot n fun y => { y with st := .swapped }) ∧
    (x.asyncTrap = none → (s.slot n).abort = false → (s.slot n).tokWait = false ∨ s.onToken n = false →
      s.saved n c x = { (({ s.savedGone n c x with regs := r } : State).modSlot n fun y => { y with st := .queued }) with
        launchQ := s.launchQ ++ [n] }) := by
  intro r
  have hgone := s.savedGone_setRegs n c x r
  have htok : (({ s with regs := r } : State).progDrop n).onToken n = s.onToken n := rfl
  unfold State.saved
  rw [show s.count F.seqSwaps_COUNT 1 = ({ s with regs := r } : State) from rfl]
  dsimp only
  rw [hgone]
  refine ⟨fun ha => if_pos ha, fun e ha he => ?_, fun he ha ht ho => ?_, fun he ha hor => ?_⟩
  · rw [if_neg (by simp [ha]), he]
    rfl
  · rw [if_neg (by simp [ha]), he]
    dsimp only
    rw [if_pos (by simp [ht, htok, ho])]
  · rw [if_neg (by simp [ha]), he]
    dsimp only
    rw [if_neg (by rcases hor with h | h <;> simp [h, htok])]
    rfl

/-! ### The obligation -/

theorem find?_beq_eq (l : List Nat) (i : Nat) : l.find? (· == i) = if i ∈ l then some i else none := by
  induction l with
  | nil => rfl
  | cons j l ih =>
    by_cases h : j = i
    · rw [List.find?_cons_of_pos (by simp [h]), if_pos (by simp [h]), h]
    · rw [List.find?_cons_of_neg (by simp [h]), ih]
      simp [Ne.symm h]

/-- In a list that ascends the first of a kind is the least. -/
theorem find?_of_least (l : List Nat) (p : Nat → Bool) (i : Nat) (hl : l.Pairwise (· < ·)) (hi : i ∈ l) (hp : p i = true)
    (hless : ∀ j ∈ l, j < i → p j = false) : l.find? p = some i := by
  induction l with
  | nil => cases hi
  | cons j l ih =>
    obtain ⟨hj, hl⟩ := List.pairwise_cons.1 hl
    rcases List.mem_cons.1 hi with rfl | hi
    · exact List.find?_cons_of_pos hp
    · rw [List.find?_cons_of_neg (by rw [hless j List.mem_cons_self (hj i hi)]; decide)]
      exact ih hl hi fun m hm => hless m (List.mem_cons_of_mem _ hm)

theorem Slot.loads_pairwise (sl : Slot) : sl.loads.Pairwise (· < ·) := by
  unfold Slot.loads
  split <;> decide

theorem goodRead_data (i : Nat) (d : Atom) : goodRead (i, some (.data d false)) = some d := rfl

theorem goodRead_isNone (i : Nat) (r : Option Direct) (h : ¬ ∃ d, r = some (.data d false)) : (goodRead (i, r)).isNone = true := by
  unfold goodRead
  split
  · next d hr => exact absurd ⟨d, hr⟩ h
  · rfl

/-- The atoms of a load all of whose reads decoded. -/
theorem State.loadAtoms_eq (s : State) (n : Nat) (f : Nat → Atom)
    (hgood : ∀ i ∈ (s.slot n).loads, ∃ d, s.progAt n i = some (.data d false) ∧ f i = d) (hrest : ∀ i, i ∉ (s.slot n).loads → f i = 0) :
    s.loadAtoms n = (List.range 5).map f := by
  unfold State.loadAtoms State.loadReads
  refine List.map_congr_left fun i _ => ?_
  rw [List.find?_map, show ((fun e : Nat × Option Direct => e.1 == i) ∘ fun i => (i, s.progAt n i)) = (· == i) from rfl, find?_beq_eq]
  by_cases hi : i ∈ (s.slot n).loads
  · obtain ⟨d, hd, hf⟩ := hgood i hi
    simp only [hi, if_true, Option.map_some, hd, goodRead_data, Option.getD_some, hf]
  · simp only [hi, if_false, Option.map_none, hrest i hi]

theorem State.loadReads_good (s : State) (n : Nat) (h : ∀ i ∈ (s.slot n).loads, ∃ d, s.progAt n i = some (.data d false)) :
    (s.loadReads n).find? (fun e => (goodRead e).isNone) = none := by
  unfold State.loadReads
  rw [List.find?_eq_none]
  intro e he
  obtain ⟨i, hi, rfl⟩ := List.mem_map.1 he
  obtain ⟨d, hd⟩ := h i hi
  rw [hd, goodRead_data]
  exact Bool.false_ne_true

theorem State.loadReads_bad (s : State) (n i : Nat) (hi : i ∈ (s.slot n).loads) (hbad : ¬ ∃ d, s.progAt n i = some (.data d false))
    (hless : ∀ j ∈ (s.slot n).loads, j < i → ∃ d, s.progAt n j = some (.data d false)) :
    (s.loadReads n).find? (fun e => (goodRead e).isNone) = some (i, s.progAt n i) := by
  have hfind := find?_of_least _ (fun i => (goodRead (i, s.progAt n i)).isNone) i (s.slot n).loads_pairwise hi (goodRead_isNone i _ hbad)
    fun j hj hlt => by
      obtain ⟨d, hd⟩ := hless j hj hlt
      rw [hd, goodRead_data]
      rfl
  unfold State.loadReads
  rw [List.find?_map, show ((fun e : Nat × Option Direct => (goodRead e).isNone) ∘ fun i => (i, s.progAt n i)) =
    fun i => (goodRead (i, s.progAt n i)).isNone from rfl, hfind]
  rfl

/-- Settles O53: the doorbell by its checks, the load by its reads, the save by its writes. -/
theorem slotsServed : Obligations.SlotsServed := by
  unfold Obligations.SlotsServed
  refine ⟨fun v s h hdown => ?_, fun v s h hup => ?_, fun y w words desc => ?_, fun s hno => ?_, fun s n c hready => ?_, fun c s x hx => ?_,
    fun v s h => ⟨fun hfree => ?_, fun hbusy => ?_⟩⟩
  · refine (s.cpDo_ready _ (fun u => u.ring (.doorbell v) v.toNat) h).trans (congrArg Host.Outcome.next ?_)
    unfold State.ring
    rw [show s.cpOk.flag F.glbResetStatus_READY = false from hdown]
    rfl
  · intro u a waits
    obtain ⟨hdone, hwait⟩ := exec_doorbell v s h hup
    refine ⟨fun hr => hdone _ (u.doorbell_outOfRange _ hr), fun hr => ⟨fun hnone => hwait _ (u.doorbell_start _ hr hnone) rfl, fun id hb => ?_,
      fun id d hd => ?_, fun id hl => ?_, fun id d hd => ?_⟩⟩
    · exact hwait _ ((u.doorbell_has _ id hr).1 hb) rfl
    · exact hdone _ ((u.doorbell_has _ id hr).2.1 d hd)
    · exact hdone _ ((u.doorbell_has _ id hr).2.2.1 hl)
    · obtain ⟨hw, hbad, hwords⟩ := (u.doorbell_has _ id hr).2.2.2 d hd
      refine ⟨fun y hy => hwait _ (hw y hy) ?_, fun y hy => hdone _ (hbad y hy), fun y desc hy => hdone _ (hwords y desc hy)⟩
      exact (congrArg (fun e => e.1.cpWaiting) hy).symm.trans (u.descNow_cpWaiting none (dField d 1 63 44))
  · intro n result
    have hresult (r : Nat) (hr : r < 8) (heq : y.launchChecked w words desc = y.launchResult n r) : result r := by
      change y.sets (y.launchChecked w words desc) _
      rw [heq]
      exact y.launchResult_sets n r (bitsOf_lt w 11 0) hr
    obtain ⟨hoff, hheld, hunread⟩ := y.launchChecked_refused w words desc
    refine ⟨fun hen => hresult 6 (by decide) (hoff hen), fun hen hst => hresult 1 (by decide) (hheld hen hst),
      fun hen hst hw => hresult 3 (by decide) (hunread hen hst hw), fun d hen hst hw => ?_⟩
    subst hw
    intro isa code fin isaBad codeBad finBad
    obtain ⟨hword, hnone, hdesc⟩ := y.launchChecked_read w d desc hen hst
    rw [y.launchWords_eq d] at hword hnone hdesc
    refine ⟨fun hi => hresult 2 (by decide) (hword 2 (if_pos hi)), fun hi hc => hresult 4 (by decide) (hword 4 ?_),
      fun hi hc hf => hresult 5 (by decide) (hword 5 ?_), fun hi hc hf => ?_⟩
    · rw [if_neg hi, if_pos hc]
    · rw [if_neg hi, if_neg hc, if_pos hf]
    · rw [if_neg hi, if_neg hc, if_neg hf] at hnone hdesc
      refine ⟨fun hd => hresult 7 (by decide) (hnone rfl hd), fun e he => ?_⟩
      intro ok
      have heq := hdesc e rfl he
      refine ⟨fun hok => hresult 7 (by decide) (heq.trans (if_neg ?_)), fun hok => ?_⟩
      · rw [show (dValid e && dGroupOk e (y.group (bitsOf w 27 16))) = false from hok]
        decide
      · rw [heq, if_pos hok]
        exact y.launchAccept_spec w d e
  · obtain ⟨hidle, hstart⟩ := exec_slotLoad_next s hno
    refine ⟨hidle, fun n q c hq hc => ?_⟩
    intro t
    obtain ⟨hslot, hlaunch, hreads⟩ := s.loadStart_spec n c q
    exact ⟨hstart n q c hq hc, hslot, hlaunch, hreads⟩
  · intro sl reads good x u
    have hexec := exec_slotLoad_ready s n c hready
    refine ⟨fun hgood => ?_, fun i hi hbad hless ha => ?_⟩
    · have hx : s.loadedCtx n = x := by
        refine congrArg (fun l => loadCtx n sl (!sl.saved) l s.cadence) (s.loadAtoms_eq n _ (fun i hi => ?_) fun i hi =>
          if_neg fun h => hi (List.contains_iff_mem.1 h))
        obtain ⟨d, hd⟩ := hgood i hi
        refine ⟨d, hd, ?_⟩
        have hmem : reads.contains i = true := List.contains_iff_mem.2 hi
        rw [if_pos hmem, hd]
      obtain ⟨habort, hrun, htok⟩ := s.loaded_good n c (s.loadReads_good n hgood)
      rw [hexec]
      rw [hx] at habort hrun htok
      exact ⟨fun ha => congrArg _ (habort ha), fun ha ht => congrArg _ (hrun ha ht), fun ha ht => congrArg _ (htok ha ht)⟩
    · exact ⟨_, rfl, rfl, hexec.trans (congrArg _ (s.loaded_bad n c _ ha (s.loadReads_bad n i hi hbad hless)))⟩
  · intro n
    obtain ⟨hstay, hgo⟩ := exec_swapOut c s x hx
    obtain ⟨hother, hnone, hpart, hdone⟩ := exec_saveDone c s x hx
    refine ⟨hstay, hgo, hother, fun hst hno => ⟨fun hf => ?_, fun hf => ?_⟩, hpart, fun hst hall => ?_⟩
    · rw [hnone hst hno, hf]
      rfl
    · rw [hnone hst hno, hf]
      rfl
    · intro y gone swaps
      obtain ⟨habort, htrap, hswap, hqueue⟩ := s.saved_spec n c.val x
      rw [hdone hst hall]
      have hcount : ∀ b : State, b.regs = s.regs →
          b.sets ({ b with regs := (s.count F.seqSwaps_COUNT 1).regs } : State) swaps := fun b hb => by
        obtain ⟨-, hvals, hkept⟩ := s.sets_count F.seqSwaps_COUNT (Fld.ok_mk (by decide))
        exact ⟨rfl, hvals, fun g hg hap => (hkept g hg hap).trans (by unfold State.fget State.reg; rw [hb])⟩
      have hregs : ((s.progDrop n).ownDrop (.code n)).regs = s.regs := (s.progDrop n).ownDrop_regs _
      refine ⟨fun ha => ⟨_, hcount _ hregs, congrArg _ (habort ha)⟩, fun e ha he => ⟨_, hcount _ rfl, congrArg _ (htrap e ha he)⟩,
        fun he ha ht ho => ⟨_, congrArg _ (hswap he ha ht ho), ?_⟩, fun he ha hor => ⟨_, congrArg _ (hqueue he ha hor), ?_⟩⟩
      · rw [s.savedGone_modSlot n c.val x _ .swapped]
        exact hcount _ hregs
      · rw [s.savedGone_modSlot n c.val x _ .queued]
        exact hcount _ hregs
  · refine ⟨_, s.cpDo_ready _ (fun u => u.slotBaseWrite v) h, ?_⟩
    have hall : s.cpOk.slotBaseWrite v = s.cpOk.putRw A.seqSlotBase v := if_pos (List.all_eq_true.2 fun e he => by simp [hfree e he])
    rw [hall]
    exact ⟨s.cpOk.putRw_frame _ v, s.cpOk.takesRw_putRw _ v⟩
  · refine ⟨_, s.cpDo_ready _ (fun u => u.slotBaseWrite v) h, ?_⟩
    obtain ⟨e, he, hst⟩ := hbusy
    have hall : s.cpOk.slotBaseWrite v = s.cpOk.raise F.seqStatus_BASE_REFUSED :=
      if_neg fun h => hst (by simpa using List.all_eq_true.1 h e he)
    rw [hall]
    exact s.cpOk.sets_raise_alone _ (Fld.ok_mk (by decide))

end Sys2Proof.Machine

/-! PROOFS. How programs end, and tokens (R309, R316 to R320, Tables 10.8, 10.10). -/
namespace Sys2Proof.Machine

/-! ### The end of a program (R316) -/

/-- What no step of the list changes, the whole does not change. -/
theorem State.forEach_keeps {α β : Type} (g : State → β) (f : State → α → State) (h : ∀ s a, g (f s a) = g s) (s : State) (l : List α) :
    g (s.forEach l f) = g s := by
  unfold State.forEach
  induction l generalizing s with
  | nil => rfl
  | cons a l ih => exact (ih (f s a)).trans (h s a)

/-- The program in slot `n` is in no queue. -/
def State.unqueued (s : State) (n : Nat) : State := { (s.leaveTokens n) with launchQ := s.launchQ.filter (· != n) }

/-- The check units that context `c` holds are released. -/
def State.unitsFreed (s : State) (c : Nat) : State :=
  s.forEach (List.range 4) fun s u => if (s.chk u).st = ChkSt.heldSeq c then (s.setChk u Chk.init).chkOwner u 0 0 else s

/-- Context `c` holds nothing more of its instruction, nor the check units. -/
def State.ctxEnded (s : State) (c : Nat) : State :=
  (((s.unitsFreed c).ownDrop (.look (some c))).modCtx c fun x => { x with wait := none, cur := none, asyncTrap := none })

theorem State.finish_eq (s : State) (n : Nat) (e : Ending) : s.finish n e =
    (match (s.slot n).ctx with
      | none => s.unqueued n
      | some c => (s.unqueued n).ctxEnded c).modSlot n fun sl => { sl with st := .finishing, fin := some e } := rfl

/-- The parts of the state that the release of the units leaves. -/
def State.programs (s : State) : SMap Slot × List Nat × SMap (List Waiter) × SMap (Option Ctx) := (s.slots, s.launchQ, s.waiters, s.ctxs)

theorem State.unitsFreed_programs (s : State) (c : Nat) : (s.unitsFreed c).programs = s.programs :=
  State.forEach_keeps State.programs _ (fun t u => by split <;> rfl) s _

theorem State.ownDrop_programs (s : State) (o : Own) : (s.ownDrop o).programs = s.programs := by
  unfold State.ownDrop
  split <;> rfl

theorem State.modCtx_slots (s : State) (c : Nat) (f : Ctx → Ctx) :
    (s.modCtx c f).slots = s.slots ∧ (s.modCtx c f).launchQ = s.launchQ ∧ (s.modCtx c f).waiters = s.waiters := by
  unfold State.modCtx
  split <;> exact ⟨rfl, rfl, rfl⟩

theorem State.ctxEnded_spec (s : State) (c : Nat) : (s.ctxEnded c).slots = s.slots ∧ (s.ctxEnded c).launchQ = s.launchQ ∧
    (s.ctxEnded c).waiters = s.waiters ∧
    ∀ x, s.ctx? c = some x → (s.ctxEnded c).ctx? c = some { x with wait := none, cur := none, asyncTrap := none } := by
  have hprog : ((s.unitsFreed c).ownDrop (.look (some c))).programs = s.programs := (State.ownDrop_programs _ _).trans (s.unitsFreed_programs c)
  have hslots := congrArg (·.1) hprog
  have hq := congrArg (·.2.1) hprog
  have hw := congrArg (·.2.2.1) hprog
  have hctx := congrArg (·.2.2.2) hprog
  unfold State.ctxEnded
  generalize (s.unitsFreed c).ownDrop (.look (some c)) = u at *
  obtain ⟨hs, hl, ht⟩ := u.modCtx_slots c fun x => { x with wait := none, cur := none, asyncTrap := none }
  refine ⟨hs.trans hslots, hl.trans hq, ht.trans hw, fun x hx => ?_⟩
  have hux : u.ctx? c = some x := (congrArg (fun m => SMap.get m none c) hctx).trans hx
  rw [State.modCtx_of u c x _ hux]
  exact State.ctx?_setCtx_same _ _ _

theorem State.tokenQ_unqueued (s : State) (n k : Nat) : ∀ q ∈ (s.unqueued n).tokenQ k, q.slot ≠ n := by
  intro q hq
  unfold State.tokenQ SMap.get at hq
  cases hfind : SMap.get? (s.unqueued n).waiters k with
  | none =>
    rw [hfind] at hq
    cases hq
  | some l =>
    rw [hfind] at hq
    have hmem : (k, l) ∈ (s.unqueued n).waiters := SMap.mem_of_get? _ _ _ hfind
    obtain ⟨e, -, he⟩ := List.mem_map.1 (List.mem_filter.1 hmem).1
    have hl : l = e.2.filter fun q => q.slot != n := (congrArg (·.2) he).symm
    have hq' : q ∈ l := hq
    rw [hl] at hq'
    simpa using (List.mem_filter.1 hq').2

/-- A program that ends: its slot finishes, and it waits in no queue. -/
theorem State.finish_spec (s : State) (n : Nat) (e : Ending) : let t := s.finish n e
    t.slot n = { s.slot n with st := .finishing, fin := some e } ∧ n ∉ t.launchQ ∧ (∀ k, ∀ q ∈ t.tokenQ k, q.slot ≠ n) ∧
      ∀ c x, (s.slot n).ctx = some c → s.ctx? c = some x → t.ctx? c = some { x with wait := none, cur := none, asyncTrap := none } := by
  intro t
  obtain ⟨u, ht, hslots, hq, hw, hctx⟩ : ∃ u : State, t = u.modSlot n (fun sl => { sl with st := .finishing, fin := some e }) ∧
      u.slots = s.slots ∧ u.launchQ = s.launchQ.filter (· != n) ∧ u.waiters = (s.unqueued n).waiters ∧
      ∀ c x, (s.slot n).ctx = some c → s.ctx? c = some x → u.ctx? c = some { x with wait := none, cur := none, asyncTrap := none } := by
    refine ⟨_, s.finish_eq n e, ?_⟩
    cases hc : (s.slot n).ctx with
    | none => exact ⟨rfl, rfl, rfl, fun c x h => by cases h⟩
    | some c =>
      obtain ⟨hs, hl, hw, hx⟩ := (s.unqueued n).ctxEnded_spec c
      refine ⟨hs, hl, hw, fun d x hd hget => ?_⟩
      cases hd
      exact hx x hget
  rw [ht]
  refine ⟨?_, fun hmem => ?_, fun k q hmem => ?_, hctx⟩
  · rw [State.modSlot_eq, State.slot_setSlot_same, show u.slot n = s.slot n from congrArg (fun m => SMap.get m Slot.init n) hslots]
  · have hin : n ∈ s.launchQ.filter (· != n) := by
      rw [← hq]
      exact hmem
    simp at hin
  · exact s.tokenQ_unqueued n k q (by
      rw [show (s.unqueued n).tokenQ k = u.tokenQ k from congrArg (fun m => SMap.get m [] k) hw.symm]
      exact hmem)

/-! ### SLOT_FINISHED (R316) -/

/-- What is left of a finishing program's requests has been taken (R316, step 1). -/
def State.reaped (s : State) (n : Nat) : State := match (s.slot n).ctx with | some c => s.reapReqs n c | none => s

theorem exec_slotFinished (n : Fin 4096) (s : State) :
    ((s.slot n.val).st ≠ .finishing ∨ (s.slot n.val).wedged = true → exec (.slotFinished n) s = .next s) ∧
    ∀ e, (s.slot n.val).st = .finishing → (s.slot n.val).wedged = false → ((s.reaped n.val).slot n.val).fin = some e →
      ((∃ c, ((s.reaped n.val).slot n.val).ctx = some c ∧ (s.reaped n.val).fenceDone c = false) →
        exec (.slotFinished n) s = .next (s.reaped n.val)) ∧
      ((∀ c, ((s.reaped n.val).slot n.val).ctx = some c → (s.reaped n.val).fenceDone c = true) →
        exec (.slotFinished n) s = .next ((s.reaped n.val).finishWrites n.val ((s.reaped n.val).slot n.val) e)) := by
  change (_ → Host.Outcome.next (s.slotFinished n.val) = _) ∧ ∀ e, _ → _ → _ →
    (_ → Host.Outcome.next (s.slotFinished n.val) = _) ∧ (_ → Host.Outcome.next (s.slotFinished n.val) = _)
  have hdef : s.slotFinished n.val = if (s.slot n.val).st != .finishing || (s.slot n.val).wedged then s
      else
        let quiet := match ((s.reaped n.val).slot n.val).ctx with | some c => (s.reaped n.val).fenceDone c | none => true
        match ((s.reaped n.val).slot n.val).fin with
        | some e => if quiet then (s.reaped n.val).finishWrites n.val ((s.reaped n.val).slot n.val) e else s.reaped n.val
        | none => s.reaped n.val := rfl
  rw [hdef]
  refine ⟨fun h => congrArg _ (if_pos (by simpa using h)), fun e hst hw hfin => ?_⟩
  rw [if_neg (by simp [hst, hw])]
  generalize s.reaped n.val = u at *
  dsimp only
  rw [hfin]
  refine ⟨fun ⟨c, hc, hf⟩ => ?_, fun hall => ?_⟩
  · rw [hc]
    exact congrArg _ (if_neg (by simp [hf]))
  · cases hc : (u.slot n.val).ctx with
    | none => rfl
    | some c => exact congrArg _ (if_pos (hall c hc))

/-- The slot of a program that has ended is FREE, and its context free (R316, step 5). -/
def State.slotGone (s : State) (n : Nat) (ctx : Option Nat) : State :=
  ((match ctx with | some c => s.setCtx c none | none => s).ownDrop (.code n)).setSlot n Slot.init

theorem State.slotGone_sets (s t : State) (n : Nat) (ctx : Option Nat) (l : List (Fld × Nat)) (h : s.sets t l) :
    (s.slotGone n ctx).sets (t.slotGone n ctx) l := by
  obtain ⟨hframe, hvals, hkept⟩ := h
  have hregs : ∀ u : State, (u.slotGone n ctx).regs = u.regs := fun u => by
    cases ctx <;> exact State.ownDrop_regs _ _
  have hfget : ∀ (u : State) (g : Fld), (u.slotGone n ctx).fget g = u.fget g := fun u g => by
    unfold State.fget State.reg
    rw [hregs u]
  have heq : t.slotGone n ctx = { s.slotGone n ctx with regs := t.regs } := by
    generalize t.regs = r at hframe
    subst hframe
    cases ctx with
    | none => exact congrArg (fun u : State => u.setSlot n Slot.init) (s.ownDrop_setRegs (.code n) r)
    | some c => exact congrArg (fun u : State => u.setSlot n Slot.init) ((s.setCtx c none).ownDrop_setRegs (.code n) r)
  refine ⟨?_, fun e he => ?_, fun g hg hap => ?_⟩
  · rw [hregs t]
    exact heq
  · exact (hfget t e.1).trans (hvals e he)
  · rw [hfget t g, hfget s g]
    exact hkept g hg hap

theorem State.slotFree_eq (s : State) (n : Nat) (sl : Slot) (e : Ending) : s.slotFree n sl e =
    (if e.trapped then (s.count F.seqTraps_COUNT 1).post 0x040D n (n + e.code * 2 ^ 16) (e.pc % 2 ^ 42)
      else if sl.event then (s.count F.seqDone_COUNT 1).post 0x040C n n sl.seqnum else s.count F.seqDone_COUNT 1).slotGone n sl.ctx := rfl

/-- Steps 3 to 5 of R316, as the writes stand. -/
theorem State.finishWrites_spec (s : State) (n : Nat) (sl : Slot) (e : Ending) : let go := s.finishWrites n sl e
    (s.progAt n 5 = some .done → go = (s.progDrop n).slotFree n sl e) ∧
    (∀ r, s.progAt n 5 = some r → r ≠ .done → go = s) ∧
    (s.progAt n 5 = none → (∀ i < 5, s.progAt n i = none) →
      (∀ x, e.words = true → sl.ctx.bind s.ctx? = some x → go = s.saveWords n (sl.ctx.getD 0) { x with pc := e.pc }) ∧
      (e.words = false ∨ sl.ctx.bind s.ctx? = none → go = (s.progDrop n).completionWrite n sl e)) ∧
    (s.progAt n 5 = none → e.words = true → (∀ i < 5, s.progAt n i = some .done) → go = (s.progDrop n).completionWrite n sl e) ∧
    (∀ i < 5, ∀ r, s.progAt n 5 = none → e.words = true → s.progAt n i = some r → r ≠ .done → go = s) := by
  dsimp only
  unfold State.finishWrites
  refine ⟨fun h => ?_, fun r h hr => ?_, fun h hno => ?_, fun h hw hall => ?_, fun i hi r h hw hr hne => ?_⟩
  · rw [h]
    exact if_pos rfl
  · rw [h]
    exact if_neg hr
  · have hnil : (List.range 5).filterMap (s.progAt n) = [] := List.filterMap_eq_nil_iff.2 fun i hi => hno i (List.mem_range.1 hi)
    rw [h, hnil]
    refine ⟨fun x hw hx => ?_, fun hor => ?_⟩
    · rw [hw, hx]
    · rcases hor with hw | hx
      · rw [hw]
        cases sl.ctx.bind s.ctx? <;> rfl
      · rw [hx]
        rfl
  · have hmem : ∀ r ∈ (List.range 5).filterMap (s.progAt n), r = .done := fun r hr => by
      obtain ⟨i, hi, hri⟩ := List.mem_filterMap.1 hr
      exact Option.some.inj (hri.symm.trans (hall i (List.mem_range.1 hi)))
    have hfirst : Direct.done ∈ (List.range 5).filterMap (s.progAt n) := List.mem_filterMap.2 ⟨0, by decide, hall 0 (by decide)⟩
    rw [h, hw]
    generalize (List.range 5).filterMap (s.progAt n) = l at hmem hfirst
    cases l with
    | nil => cases hfirst
    | cons r l => exact if_pos (List.all_eq_true.2 fun q hq => by simp [hmem q hq])
  · have hmem : r ∈ (List.range 5).filterMap (s.progAt n) := List.mem_filterMap.2 ⟨i, List.mem_range.2 hi, hr⟩
    rw [h, hw]
    generalize (List.range 5).filterMap (s.progAt n) = l at hmem
    cases l with
    | nil => cases hmem
    | cons q l => exact if_neg fun hall => hne (by simpa using List.all_eq_true.1 hall r hmem)

/-! ### Tokens (R309) -/

theorem State.tokenPass_spec (s : State) (n : Nat) : let sl := s.slot n
    (∀ c x, sl.st = .waiting → sl.ctx = some c → s.ctx? c = some x → s.tokenPass n =
      (s.setSlot n { sl with st := .running }).setCtx c (some ({ x with wait := none } : Ctx).advance)) ∧
    (sl.st = .swapped → s.tokenPass n = { s.setSlot n { sl with st := .queued } with launchQ := s.launchQ ++ [n] }) ∧
    (sl.st ≠ .waiting → sl.st ≠ .swapped → s.tokenPass n = s) := by
  intro sl
  unfold State.tokenPass
  dsimp only
  refine ⟨fun c x hst hc hx => ?_, fun hst => ?_, fun hw hs => ?_⟩
  · change _ = (s.modSlot n fun y => { y with st := .running }).setCtx c _
    rw [show (s.slot n).st = .waiting from hst, show (s.slot n).ctx = some c from hc]
    exact State.modCtx_of (s.modSlot n fun y => { y with st := .running }) c x (fun x => ({ x with wait := none } : Ctx).advance) hx
  · rw [show (s.slot n).st = .swapped from hst]
    rfl
  · split
    · next h => exact absurd h hw
    · next h => exact absurd h hs
    · rfl

/-- The value of a token once it has served its first waiter. -/
theorem exec_tokenWrite (k : Fin 1024) (v : BitVec 32) (s : State) (h : s.cpReady) :
    ((∀ q l, s.tokenQ k.val = q :: l → v.toNat < q.n) → ∃ t, exec (.tokenWrite k v) s = .next t ∧
      s.cpOk.sets t [(F.seqToken_VALUE k.val, v.toNat)]) ∧
    (∀ q l, s.tokenQ k.val = q :: l → q.n ≤ v.toNat → ∃ u, s.cpOk.sets u [(F.seqToken_VALUE k.val, v.toNat - q.n)] ∧
      exec (.tokenWrite k v) s = .next (State.serveToken l.length k.val ((u.setTokenQ k.val l).tokenPass q.slot))) := by
  have hexec : exec (.tokenWrite k v) s = .next (State.serveToken (s.tokenQ k.val).length k.val
    (s.cpOk.fset (F.seqToken_VALUE k.val) v.toNat)) := s.cpDo_ready _ (fun u => u.setToken k.val v.toNat) h
  have hOk : (F.seqToken_VALUE k.val).Ok := Fld.ok_mk (by decide)
  have hset := s.cpOk.sets_fset_alone (F.seqToken_VALUE k.val) v.toNat hOk v.isLt
  have hval : (s.cpOk.fset (F.seqToken_VALUE k.val) v.toNat).fget (F.seqToken_VALUE k.val) = v.toNat := hset.2.1 _ List.mem_cons_self
  refine ⟨fun hless => ⟨_, hexec, ?_⟩, fun q l hq hle => ⟨(s.cpOk.fset (F.seqToken_VALUE k.val) v.toNat).fset (F.seqToken_VALUE k.val)
    (v.toNat - q.n), State.sets_again _ _ [] _ _ _ _ hOk (Nat.mod_eq_of_lt (Nat.lt_of_le_of_lt (Nat.sub_le _ _) v.isLt)) (by simp) hset, ?_⟩⟩
  · cases hq : s.tokenQ k.val with
    | nil => exact hset
    | cons q l =>
      have hqueue : (s.cpOk.fset (F.seqToken_VALUE k.val) v.toNat).tokenQ k.val = q :: l := hq
      have hserve : State.serveToken (l.length + 1) k.val (s.cpOk.fset (F.seqToken_VALUE k.val) v.toNat) =
          s.cpOk.fset (F.seqToken_VALUE k.val) v.toNat := by
        unfold State.serveToken
        rw [hqueue]
        dsimp only
        rw [hval, if_neg (Nat.not_le.2 (hless q l hq))]
      rw [List.length_cons, hserve]
      exact hset
  · have hqueue : (s.cpOk.fset (F.seqToken_VALUE k.val) v.toNat).tokenQ k.val = q :: l := hq
    rw [hexec, hq, List.length_cons, State.serveToken.eq_2, hqueue]
    dsimp only
    rw [hval, if_pos hle]

/-! ### Aborts (R319) -/

theorem State.seqAbort_spec (s : State) (n : Nat) : let sl := s.slot n
    (sl.wedged = true ∨ sl.st = .free ∨ sl.st = .finishing → s.seqAbort n = s) ∧
    (∀ c x, sl.wedged = false → sl.st = .running ∨ sl.st = .waiting → sl.ctx = some c → s.ctx? c = some x →
      s.seqAbort n = s.finish n ⟨true, 0x1A, 0, 0, x.pc, true⟩) ∧
    (sl.wedged = false → sl.st = .loading ∨ sl.st = .saving → s.seqAbort n = s.setSlot n { sl with abort := true }) ∧
    (sl.wedged = false → sl.st = .queued ∨ sl.st = .swapped → s.seqAbort n = s.finish n ⟨true, 0x1A, 0, 0, sl.heldPc, false⟩) := by
  intro sl
  unfold State.seqAbort
  dsimp only
  refine ⟨fun h => ?_, fun c x hw hst hc hx => ?_, fun hw hst => ?_, fun hw hst => ?_⟩
  · rcases h with hw | hst | hst
    · exact if_pos hw
    · rw [show (s.slot n).st = .free from hst, ite_self]
    · rw [show (s.slot n).st = .finishing from hst, ite_self]
  · rw [if_neg (by rw [show (s.slot n).wedged = false from hw]; decide)]
    rcases hst with hst | hst <;> rw [show (s.slot n).st = _ from hst, show (s.slot n).ctx = some c from hc, Option.bind_some, hx]
  · rw [if_neg (by rw [show (s.slot n).wedged = false from hw]; decide)]
    change _ = s.modSlot n fun y => { y with abort := true }
    rcases hst with hst | hst <;> rw [show (s.slot n).st = _ from hst]
  · rw [if_neg (by rw [show (s.slot n).wedged = false from hw]; decide)]
    rcases hst with hst | hst <;> rw [show (s.slot n).st = _ from hst]

/-- Settles O54: the ends of a program by its steps, aborts, parity errors and tokens. -/
theorem programsEnd : Obligations.ProgramsEnd := by
  unfold Obligations.ProgramsEnd
  refine ⟨fun s n e => s.finish_spec n e, fun n s h => (exec_slotFinished n s).1 h, fun n s u e hst hw hu hfin => ?_, fun n s sl e => ?_,
    fun n s h => ?_, fun c s => ⟨fun hno => ?_, fun x hx => ⟨fun hor => ?_, fun hw hno => ?_⟩⟩, fun n s => ⟨_, rfl, ?_⟩,
    fun k v s h => exec_tokenWrite k v s h, fun s n => s.tokenPass_spec n⟩
  · have hreap : s.reaped n.val = u := hu
    subst hreap
    exact (exec_slotFinished n s).2 e hst hw hfin
  · intro go u gone
    obtain ⟨hfree, hrest⟩ := s.finishWrites_spec n sl e
    have hgone : ∀ b : State, gone b = b.slotGone n sl.ctx := fun b => by cases hc : sl.ctx <;> simp only [gone, hc] <;> rfl
    refine ⟨fun h5 ht => ?_, fun h5 ht => ?_, hrest⟩
    · rw [hgone, show go = _ from hfree h5, State.slotFree_eq, ht, if_pos rfl]
      refine State.slotGone_sets _ _ n sl.ctx _ (State.sets_post _ _ _ _ _ _ _ ?_ ?_)
      · simp only [List.forall_mem_cons]
        exact ⟨by decide, by simp⟩
      · exact u.sets_count _ (Fld.ok_mk (by decide))
    · rw [hgone, show go = _ from hfree h5, State.slotFree_eq, ht, if_neg Bool.false_ne_true]
      have hcount := u.sets_count F.seqDone_COUNT (Fld.ok_mk (by decide))
      refine State.slotGone_sets _ _ n sl.ctx _ ?_
      split
      · refine State.sets_post _ _ _ _ _ _ _ ?_ hcount
        simp only [List.forall_mem_cons]
        exact ⟨by decide, by simp⟩
      · exact hcount
  · intro sl
    have hexec : exec (.seqAbort n) s = .next (s.cpOk.seqAbort n.val) := s.cpDo_ready _ (fun u => u.seqAbort n.val) h
    obtain ⟨hnot, hrun, hload, hqueue⟩ := s.cpOk.seqAbort_spec n.val
    rw [hexec]
    exact ⟨fun h => congrArg _ (hnot h), fun c x hw hst hc hx => congrArg _ (hrun c x hw hst hc hx), fun hw hst => congrArg _ (hload hw hst),
      fun hw hst => congrArg _ (hqueue hw hst)⟩
  · change Host.Outcome.next (s.contextParity c.val) = _
    unfold State.contextParity
    rw [hno]
  · change Host.Outcome.next (s.contextParity c.val) = _
    unfold State.contextParity
    rw [hx]
    exact congrArg _ (if_pos (by simpa [Option.isSome_iff_ne_none] using hor))
  · change Host.Outcome.next (s.contextParity c.val) = _
    unfold State.contextParity
    rw [hx]
    exact congrArg _ (if_neg (by simp [hw, hno]))
  · obtain ⟨hslot, -⟩ := s.finish_spec n.val ⟨true, 0x18, 0, 0, 0, false⟩
    refine (State.slot_setSlot_same _ _ _).trans ?_
    rw [hslot]

end Sys2Proof.Machine

/-! PROOFS. Instructions that wait, signal, fence, select a stream and steer (R308 to R315). -/
namespace Sys2Proof.Machine

/-! ### An instruction past its launch (R296, R297) -/

theorem State.checksA_isSome (s : State) (x : Ctx) (sl : Slot) (w : Nat) (h : insBits (insOp w) = none) : (s.checksA x sl w).isSome = true := by
  unfold State.checksA
  dsimp only
  rw [h]
  rfl

/-- Only a defined opcode passes the checks of its launch. -/
theorem State.insBits_of_launchChecks (s u : State) (c : Nat) (x : Ctx) (sl : Slot) (w : Nat) (h : s.launchChecks c x sl w = (u, .ok)) :
    (insBits (insOp w)).isNone = false := by
  cases hbits : insBits (insOp w) with
  | some l => rfl
  | none =>
    obtain ⟨t, ht⟩ := Option.isSome_iff_exists.1 (s.checksA_isSome x sl w hbits)
    unfold State.launchChecks at h
    rw [ht] at h
    cases h

theorem State.launch_of (s u : State) (c w : Nat) (x : Ctx) (want : Nat → Bool) (h : s.launches c x w u) (hw : want w = true) :
    s.launch c want = (u, some (x, w)) := by
  obtain ⟨y, v, d, hy, hst, hwedge, hcur, hwait, htrap, hfetch, rfl, hcheck, hx⟩ := h
  have hfl : s.fetchLaunch c y want = (u, some (insAt d y.pc)) := by
    unfold State.fetchLaunch
    rw [hfetch]
    dsimp only
    rw [v.insBits_of_launchChecks u c y _ _ hcheck, hw, hcheck]
    rfl
  unfold State.launch
  rw [hy]
  dsimp only
  rw [hst, hwedge, hcur, hwait, htrap, hfl]
  dsimp only
  rw [hx] <;> rfl

theorem State.control_of (s u : State) (c w : Nat) (x : Ctx) (want : Nat → Bool) (act : State → Ctx → Nat → State) (h : s.launches c x w u)
    (hw : want w = true) : s.control c want act = act u x w := by
  unfold State.control
  rw [s.launch_of u c w x want h hw]

/-- While an instruction is in progress none is launched. -/
theorem State.launch_busy (s : State) (c : Nat) (x : Ctx) (want : Nat → Bool) (hx : s.ctx? c = some x) (hcur : x.cur.isSome = true) :
    s.launch c want = (s, none) := by
  unfold State.launch
  rw [hx]
  exact if_pos (by simp [hcur])

theorem State.begin_of (s u : State) (c w : Nat) (x : Ctx) (want : Nat → Bool) (h : s.onward c x w u) (hw : want w = true) :
    s.begin c want = u := by
  obtain ⟨hx, hst, hcur, hor⟩ := h
  obtain ⟨k, hk, hword⟩ := Option.map_eq_some_iff.1 hcur
  unfold State.begin
  rcases hor with rfl | ⟨y, v, hlaunch, rfl⟩
  · rw [u.launch_busy c x want hx (by rw [hk]; rfl)]
  · rw [s.launch_of v c w y want hlaunch hw]
    obtain ⟨-, -, -, -, -, -, -, -, -, -, -, -, hy⟩ := hlaunch
    exact State.modCtx_of v c y _ hy

/-- An instruction in progress, or launched now, goes on. -/
theorem State.inProgress_of (s u : State) (c w : Nat) (x : Ctx) (want : Nat → Bool) (h : s.onward c x w u) (hw : want w = true) :
    ∃ k : Cur, u.inProgress c want = some (x, k) ∧ k.word.toNat = w ∧ x.cur = some k := by
  obtain ⟨hx, hst, hcur, -⟩ := h
  obtain ⟨k, hk, hword⟩ := Option.map_eq_some_iff.1 hcur
  refine ⟨k, ?_, hword, hk⟩
  unfold State.inProgress
  rw [hx]
  dsimp only
  rw [hk]
  exact if_pos (by rw [hst, hword, hw]; rfl)

theorem State.timed_of (s u : State) (c w : Nat) (x : Ctx) (want : Nat → Bool) (act : State → Ctx → Nat → State) (h : s.onward c x w u)
    (hw : want w = true) : s.timed c want act = act u x w := by
  obtain ⟨k, hk, hword, -⟩ := s.inProgress_of u c w x want h hw
  unfold State.timed
  dsimp only
  rw [s.begin_of u c w x want h hw, hk]
  dsimp only
  rw [hword]

/-! ### Waits (R308, R309) -/

theorem State.waitOn_eq (s : State) (c n : Nat) (x : Ctx) (v : Wait) (hn : x.slot = n) : s.waitOn c x v =
    (s.setCtx c (some { x with wait := some v, waitAt := s.cadence })).setSlot n { s.slot n with st := .waiting } := by
  subst hn
  rfl

/-- The state of a program that has joined the empty queue of a token. -/
def State.tokenJoined (u : State) (c : Nat) (x : Ctx) (w : Nat) : State :=
  (u.waitOn c x (.token (bitsOf w 111 102))).setTokenQ (bitsOf w 111 102) (u.tokenQ (bitsOf w 111 102) ++ [⟨x.slot, bitsOf w 31 0⟩])

theorem State.tokenQ_setTokenQ (s : State) (k : Nat) (l : List Waiter) : (s.setTokenQ k l).tokenQ k = l := SMap.get_put_same _ _ _ _

/-- The program in a slot that waits on a token goes on (Table 10.3). -/
theorem State.tokenPass_waiting (t : State) (n c k : Nat) (f : Fld) (y : Ctx) (sl : Slot) (hslot : t.slot n = { sl with st := .waiting })
    (hc : sl.ctx = some c) (hy : t.ctx? c = some y) :
    (t.tokenPass n).fget f = t.fget f ∧ (t.tokenPass n).tokenQ k = t.tokenQ k ∧
      (t.tokenPass n).ctx? c = some ({ y with wait := none } : Ctx).advance ∧ (t.tokenPass n).slot n = { sl with st := .running } := by
  have hpass := (t.tokenPass_spec n).1 c y (by rw [hslot]) (by rw [hslot]; exact hc) hy
  rw [hslot] at hpass
  rw [hpass]
  exact ⟨rfl, rfl, State.ctx?_setCtx_same _ _ _, State.slot_setSlot_same _ _ _⟩

theorem State.tokenJoined_tokenQ (u : State) (c : Nat) (x : Ctx) (w : Nat) (hq : u.tokenQ (bitsOf w 111 102) = []) :
    (u.tokenJoined c x w).tokenQ (bitsOf w 111 102) = [⟨x.slot, bitsOf w 31 0⟩] := by
  unfold State.tokenJoined
  rw [State.tokenQ_setTokenQ, hq]
  rfl

theorem State.tokenJoined_slot (u : State) (c : Nat) (x : Ctx) (w : Nat) :
    (u.tokenJoined c x w).slot x.slot = { u.slot x.slot with st := .waiting } := State.slot_setSlot_same _ _ _

theorem State.tokenJoined_ctx (u : State) (c : Nat) (x : Ctx) (w : Nat) :
    (u.tokenJoined c x w).ctx? c = some { x with wait := some (.token (bitsOf w 111 102)), waitAt := u.cadence } := State.ctx?_setCtx_same _ _ _

/-- A program that joins a queue that it need not wait in is served at once. -/
theorem State.tokenServed (u : State) (c : Nat) (x : Ctx) (w : Nat) (hq : u.tokenQ (bitsOf w 111 102) = [])
    (hv : bitsOf w 31 0 ≤ u.fget (F.seqToken_VALUE (bitsOf w 111 102))) (hc : (u.slot x.slot).ctx = some c) :
    let t := State.serveToken 1 (bitsOf w 111 102) (u.tokenJoined c x w)
    t.fget (F.seqToken_VALUE (bitsOf w 111 102)) = u.fget (F.seqToken_VALUE (bitsOf w 111 102)) - bitsOf w 31 0 ∧
      t.tokenQ (bitsOf w 111 102) = [] ∧ t.ctx? c = some ({ x with wait := none, waitAt := u.cadence } : Ctx).advance ∧
      t.slot x.slot = { u.slot x.slot with st := .running } := by
  have hjoin := u.tokenJoined_tokenQ c x w hq
  have hslot := u.tokenJoined_slot c x w
  have hctx := u.tokenJoined_ctx c x w
  have hfget : (u.tokenJoined c x w).fget (F.seqToken_VALUE (bitsOf w 111 102)) = u.fget (F.seqToken_VALUE (bitsOf w 111 102)) := rfl
  generalize u.tokenJoined c x w = b at *
  have hserve : State.serveToken 1 (bitsOf w 111 102) b = ((b.fset (F.seqToken_VALUE (bitsOf w 111 102))
      (u.fget (F.seqToken_VALUE (bitsOf w 111 102)) - bitsOf w 31 0)).setTokenQ (bitsOf w 111 102) []).tokenPass x.slot := by
    rw [State.serveToken.eq_2, hjoin]
    dsimp only
    rw [hfget, if_pos hv]
    rfl
  obtain ⟨hf, hk, hx, hs⟩ := ((b.fset (F.seqToken_VALUE (bitsOf w 111 102))
    (u.fget (F.seqToken_VALUE (bitsOf w 111 102)) - bitsOf w 31 0)).setTokenQ (bitsOf w 111 102) []).tokenPass_waiting x.slot c
    (bitsOf w 111 102) (F.seqToken_VALUE (bitsOf w 111 102)) _ _ hslot hc hctx
  have hlt : u.fget (F.seqToken_VALUE (bitsOf w 111 102)) - bitsOf w 31 0 < 2 ^ 32 :=
    Nat.lt_of_le_of_lt (Nat.sub_le _ _) (bitsOf_lt _ 31 0)
  intro t
  rw [show t = _ from hserve]
  exact ⟨hf.trans ((b.sets_fset_alone _ _ (Fld.ok_mk (by decide)) hlt).2.1 _ List.mem_cons_self), hk.trans (State.tokenQ_setTokenQ _ _ []), hx, hs⟩

theorem State.waitToken_spec (u : State) (c : Nat) (x : Ctx) (w : Nat) : let k := bitsOf w 111 102
    (bitsOf w 31 0 = 0 → u.waitToken c x w = u.setCtx c (some x.advance)) ∧
    (bitsOf w 31 0 ≠ 0 → u.tokenQ k ≠ [] ∨ u.fget (F.seqToken_VALUE k) < bitsOf w 31 0 → u.waitToken c x w = u.tokenJoined c x w) ∧
    (bitsOf w 31 0 ≠ 0 → u.tokenQ k = [] → u.waitToken c x w = State.serveToken 1 k (u.tokenJoined c x w)) := by
  intro k
  unfold State.waitToken
  dsimp only
  refine ⟨fun h => if_pos h, fun h hor => ?_, fun h hq => ?_⟩
  · rw [if_neg h]
    by_cases hq : u.tokenQ k = []
    · have hless := hor.resolve_left (Classical.not_not.2 hq)
      have hjoin := u.tokenJoined_tokenQ c x w hq
      have hstay : State.serveToken 1 k (u.tokenJoined c x w) = u.tokenJoined c x w := by
        rw [State.serveToken.eq_2, hjoin]
        exact if_neg (Nat.not_le.2 hless)
      exact (if_pos hq).trans hstay
    · exact if_neg hq
  · rw [if_neg h]
    exact if_pos hq

/-! ### Steering (R313, R314) -/

theorem branchTaken_iff (cond v cmp : Nat) : branchTaken cond v cmp = true ↔
    cond = 0 ∨ (cond = 1 ∧ v = cmp) ∨ (cond = 2 ∧ v ≠ cmp) ∨ (cond = 3 ∧ v < cmp) ∨ (4 ≤ cond ∧ cmp ≤ v) := by
  unfold branchTaken
  split
  · next h => simp [h]
  · split
    · next h => simp [h]
    · split
      · next h => simp [h]
      · split
        · next h => simp [h]
        · next h0 h1 h2 h3 =>
          have h4 : 4 ≤ cond := by omega
          simp [h0, h1, h2, h3, h4]

theorem Ctx.doBranch_eq (x : Ctx) (w : Nat) :
    let cn := bitsOf w 111 109
    let v := if w.testBit 105 then (x.creg cn + unsigned 40 (signed 24 (bitsOf w 103 80))) % 2 ^ 40 else x.creg cn
    let y := if w.testBit 105 then x.setC cn v else x
    x.doBranch w = if branchTaken (bitsOf w 108 106) v (bitsOf w 79 40) then y.jump ((x.pc + 16 * sext42 24 (bitsOf w 23 0)) % 2 ^ 42)
      else y.advance := by
  unfold Ctx.doBranch
  dsimp only
  cases w.testBit 105 <;> rfl

/-- The loop stack at the end of an instruction (R314). -/
theorem Ctx.advance_spec (x : Ctx) (l : LoopEnt) (ls : List LoopEnt) : let n := (x.pc + 16) % 2 ^ 42
    (x.loops = [] → x.advance.pc = n ∧ x.advance.loops = []) ∧
    (x.loops = l :: ls → n = l.start + 16 * l.body → l.remaining ≠ 1 →
      x.advance.pc = l.start ∧ x.advance.loops = { l with remaining := l.remaining - 1 } :: ls) ∧
    (x.loops = l :: ls → n = l.start + 16 * l.body → l.remaining = 1 → (x.advance.pc, x.advance.loops) = nextPc false n ls) ∧
    (x.loops = l :: ls → l.start ≤ n → n < l.start + 16 * l.body → x.advance.pc = n ∧ x.advance.loops = l :: ls) := by
  intro n
  have hpc : x.advance.pc = (nextPc false n x.loops).1 := rfl
  have hloops : x.advance.loops = (nextPc false n x.loops).2 := rfl
  rw [hpc, hloops]
  refine ⟨fun h => by rw [h]; exact ⟨rfl, rfl⟩, fun h hn hr => ?_, fun h hn hr => ?_, fun h hlo hhi => ?_⟩
  · rw [h, nextPc]
    simp [hn, hr]
  · rw [h, nextPc]
    simp [hn, hr]
  · rw [h, nextPc]
    have hne : n ≠ l.start + 16 * l.body := Nat.ne_of_lt hhi
    simp [hne, hlo, hhi]

/-! ### A stream named (R312) -/

theorem State.setStream_spec (u v : State) (c : Nat) (x : Ctx) (w : Nat) (r : Option Bool) (hf : u.fenceDone c = true)
    (hok : u.streamOk c (setStreamId x w) (u.slot x.slot).mid = (v, r)) :
    (r = none → u.setStream c x w = v) ∧
    (r = some true → u.setStream c x w = (v.named (setStreamId x w)).setCtx c
      (some ({ x.setC (bitsOf w 105 103) 0 with stream := setStreamId x w } : Ctx).advance)) ∧
    (r = some false → u.setStream c x w = (v.named (setStreamId x w)).setCtx c (some (x.setC (bitsOf w 105 103) 3).advance)) := by
  unfold State.setStream
  dsimp only
  rw [hf, hok]
  refine ⟨?_, ?_, ?_⟩ <;> rintro rfl <;> rfl

/-- Settles O55: each instruction past its launch, from the operation that it is launched to do. -/
theorem programSteps : Obligations.ProgramSteps := by
  unfold Obligations.ProgramSteps
  refine ⟨fun c s u x w h => ⟨fun hop => ?_, fun hop => ?_, fun hop hload => ?_, fun hop => ?_, fun hop => ?_, fun hop => ?_⟩,
    fun c s u x w h => ⟨fun hop => ?_, fun hop => ?_, fun hop hload => ?_, fun hop => ?_⟩, fun c s x k hx hst hwait hk => ?_,
    fun x l ls => x.advance_spec l ls⟩
  · intro target y
    have hexec : exec (.waitCadence c) s = .next (u.waitCadence c.val x w) :=
      congrArg Host.Outcome.next (s.control_of u c.val w x (fun w => insOp w == iWaitCadence) _ h (by rw [hop]; rfl))
    rw [hexec]
    refine ⟨fun hle => congrArg _ (if_pos hle), fun hlt => congrArg _ ((if_neg (Nat.not_le.2 hlt)).trans ?_)⟩
    have hslot : y.slot = x.slot := by
      change (if w.testBit 110 then { x with tb := target } else x).slot = x.slot
      split <;> rfl
    exact u.waitOn_eq c.val x.slot y (.cadence target) hslot
  · intro k n
    have hexec : exec (.waitToken c) s = .next (u.waitToken c.val x w) :=
      congrArg Host.Outcome.next (s.control_of u c.val w x (fun w => insOp w == iWaitToken) _ h (by rw [hop]; rfl))
    obtain ⟨hzero, hwait, hserve⟩ := u.waitToken_spec c.val x w
    rw [hexec]
    refine ⟨fun hn => congrArg _ (hzero hn), fun hn hor => congrArg _ (hwait hn hor), fun hn hq hv hc => ⟨_, congrArg _ (hserve hn hq), ?_⟩⟩
    exact u.tokenServed c.val x w hq hv hc
  · exact congrArg Host.Outcome.next (s.control_of u c.val w x (fun w => insOp w == iSetStream && w.testBit 111) _ h (by rw [hop, hload]; rfl))
  · intro n body
    have hexec : exec (.seqLoop c) s = .next (u.setCtx c.val (some (x.doLoop w))) :=
      congrArg Host.Outcome.next (s.control_of u c.val w x (fun w => insOp w == iLoop) _ h (by rw [hop]; rfl))
    rw [hexec]
    exact ⟨fun hn => congrArg (fun y => Host.Outcome.next (u.setCtx c.val (some y))) (if_neg hn),
      fun hn => congrArg (fun y => Host.Outcome.next (u.setCtx c.val (some y))) (if_pos hn)⟩
  · intro cn v y cmp cond taken
    have hexec : exec (.seqBranch c) s = .next (u.setCtx c.val (some (x.doBranch w))) :=
      congrArg Host.Outcome.next (s.control_of u c.val w x (fun w => insOp w == iBranch) _ h (by rw [hop]; rfl))
    rw [hexec, x.doBranch_eq w]
    exact ⟨fun ht => congrArg (fun y => Host.Outcome.next (u.setCtx c.val (some y))) (if_pos ((branchTaken_iff _ _ _).2 ht)),
      fun ht => congrArg (fun y => Host.Outcome.next (u.setCtx c.val (some y))) (if_neg fun hb => ht ((branchTaken_iff _ _ _).1 hb))⟩
  · exact congrArg Host.Outcome.next (s.control_of u c.val w x (fun w => insOp w == iTrap) _ h (by rw [hop]; rfl))
  · intro k v
    have hexec : exec (.seqSignal c) s = .next (u.seqSignal c.val x w) :=
      congrArg Host.Outcome.next (s.timed_of u c.val w x (fun w => insOp w == iSignal) _ h (by rw [hop]; rfl))
    rw [hexec]
    exact ⟨fun hf => congrArg _ (if_pos (by rw [hf]; rfl)), fun hf => congrArg _ (if_neg (by rw [hf]; decide))⟩
  · have hexec : exec (.seqFence c) s = .next (u.seqFence c.val x) :=
      congrArg Host.Outcome.next (s.timed_of u c.val w x (fun w => insOp w == iFence) _ h (by rw [hop]; rfl))
    rw [hexec]
    exact ⟨fun hf => congrArg _ (if_neg (by rw [hf]; decide)), fun hf => congrArg _ (if_pos hf)⟩
  · have hexec : exec (.setStream c) s = .next (u.setStream c.val x w) :=
      congrArg Host.Outcome.next (s.timed_of u c.val w x (fun w => insOp w == iSetStream && !w.testBit 111) _ h (by rw [hop, hload]; rfl))
    rw [hexec]
    refine ⟨fun hf => congrArg _ (if_pos (by rw [hf]; rfl)), fun hf v r hok => ?_⟩
    obtain ⟨hnone, htrue, hfalse⟩ := u.setStream_spec v c.val x w r hf hok
    exact ⟨fun hr => congrArg _ (hnone hr), fun hr => congrArg _ (htrue hr), fun hr => congrArg _ (hfalse hr)⟩
  · have hexec : exec (.seqEnd c) s = .next (u.seqEnd c.val x) :=
      congrArg Host.Outcome.next (s.timed_of u c.val w x (fun w => insOp w == iEnd) _ h (by rw [hop]; rfl))
    rw [hexec]
    refine ⟨fun hf => congrArg _ (if_neg (by rw [hf]; decide)), fun hf => ⟨fun ha => ?_, fun e ha => ?_⟩⟩
    · refine congrArg _ ((if_pos hf).trans ?_)
      rw [ha]
      rfl
    · refine congrArg _ ((if_pos hf).trans ?_)
      rw [ha]
      rfl
  · change Host.Outcome.next (s.waitRelease c.val) = _
    unfold State.waitRelease
    rw [hx]
    dsimp only
    rw [hst, hwait]
    dsimp only
    rw [s.atCadence_reaches k hk]
    rfl

end Sys2Proof.Machine

/-! PROOFS. Instructions that move data, check it, and swap gate lists (R298 to R304, R307, R311). -/
namespace Sys2Proof.Machine

/-! ### The split of a run into requests (R298) -/

theorem le_foldl_max (l : List Nat) (m : Nat) : m ≤ l.foldl max m ∧ (∀ j ∈ l, j ≤ l.foldl max m) ∧ (l.foldl max m = m ∨ l.foldl max m ∈ l) := by
  induction l generalizing m with
  | nil => exact ⟨Nat.le_refl _, by simp, .inl rfl⟩
  | cons j l ih =>
    obtain ⟨hle, hall, hmem⟩ := ih (max m j)
    rw [List.foldl_cons]
    refine ⟨Nat.le_trans (Nat.le_max_left _ _) hle, fun i hi => ?_, ?_⟩
    · rcases List.mem_cons.1 hi with rfl | hi
      · exact Nat.le_trans (Nat.le_max_right _ _) hle
      · exact hall i hi
    · rcases hmem with h | h
      · rw [h]
        rcases Nat.le_total m j with hmj | hmj
        · exact .inr (by rw [Nat.max_eq_right hmj]; exact List.mem_cons_self)
        · exact .inl (Nat.max_eq_left hmj)
      · exact .inr (List.mem_cons_of_mem _ h)

/-- A request is the largest aligned power of two of atoms that fits, at most 64 (R298). -/
theorem splitCode_spec (a n : Nat) (hn : 64 ≤ n) (ha : a % 64 = 0) : let m := splitCode a n
    m ≤ 6 ∧ 64 * 2 ^ m ≤ n ∧ a % (64 * 2 ^ m) = 0 ∧ ∀ j ≤ 6, 64 * 2 ^ j ≤ n → a % (64 * 2 ^ j) = 0 → j ≤ m := by
  intro m
  have hmem : ∀ j, j ∈ (List.range 7).filter (fun n' => 64 * 2 ^ n' ≤ n && a % (64 * 2 ^ n') == 0) ↔
      j < 7 ∧ 64 * 2 ^ j ≤ n ∧ a % (64 * 2 ^ j) = 0 := fun j => by
    rw [List.mem_filter, List.mem_range, Bool.and_eq_true, decide_eq_true_eq, beq_iff_eq]
  obtain ⟨-, hall, hor⟩ := le_foldl_max ((List.range 7).filter fun n' => 64 * 2 ^ n' ≤ n && a % (64 * 2 ^ n') == 0) 0
  have hm : m ∈ (List.range 7).filter (fun n' => 64 * 2 ^ n' ≤ n && a % (64 * 2 ^ n') == 0) := by
    rcases hor with h | h
    · rw [show m = 0 from h, hmem]
      exact ⟨by decide, by simpa using hn, by simpa using ha⟩
    · exact h
  obtain ⟨hlt, hfit, halign⟩ := (hmem m).1 hm
  exact ⟨Nat.le_of_lt_succ hlt, hfit, halign, fun j hj hf hal => hall j ((hmem j).2 ⟨Nat.lt_succ_of_le hj, hf, hal⟩)⟩

/-! ### INC (R297) -/

/-- Register `i` advanced by what its extents name. -/
def Ctx.advanced (x : Ctx) (n : Nat → Nat) (y : Ctx) (i : Nat) : Ctx := if n i = 0 then y else y.setA i (x.areg i + n i)

theorem Ctx.areg_setA (y : Ctx) (i j v : Nat) (hi : i < y.a.length) :
    (y.setA i v).areg j = if j = i then v % 2 ^ 42 else y.areg j := by
  unfold Ctx.areg Ctx.setA
  rw [List.getD_eq_getElem?_getD, List.getD_eq_getElem?_getD, List.getElem?_set]
  by_cases h : i = j
  · subst h
    simp [hi]
  · simp [h, Ne.symm h]

theorem Ctx.foldl_advanced (x : Ctx) (n : Nat → Nat) (l : List Nat) (y : Ctx) (hl : l.Nodup) (hlen : ∀ i ∈ l, i < y.a.length) (j : Nat) :
    (l.foldl (x.advanced n) y).areg j = if j ∈ l ∧ n j ≠ 0 then (x.areg j + n j) % 2 ^ 42 else y.areg j := by
  induction l generalizing y with
  | nil => simp
  | cons i l ih =>
    obtain ⟨hi, hl⟩ := List.nodup_cons.1 hl
    have hsame : (x.advanced n y i).a.length = y.a.length := by
      unfold Ctx.advanced Ctx.setA
      split
      · rfl
      · exact List.length_set
    rw [List.foldl_cons, ih _ hl fun k hk => by rw [hsame]; exact hlen k (List.mem_cons_of_mem _ hk)]
    have hstep : (x.advanced n y i).areg j = if j = i ∧ n j ≠ 0 then (x.areg j + n j) % 2 ^ 42 else y.areg j := by
      unfold Ctx.advanced
      split
      · next h0 => rw [if_neg fun h => h.2 (h.1 ▸ h0)]
      · next h0 =>
        rw [y.areg_setA i j _ (hlen i List.mem_cons_self)]
        by_cases hj : j = i
        · subst hj
          rw [if_pos rfl, if_pos ⟨rfl, h0⟩]
        · rw [if_neg hj, if_neg fun h => hj h.1]
    rw [hstep]
    by_cases hj : j = i
    · subst hj
      simp [hi]
    · simp [hj]

/-- The bytes by which INC advances register `i`: the longest of the extents that it names. -/
def incBytes (x : Ctx) (w i : Nat) : Nat :=
  (((extents x w (insLen x w)).filter (·.inc)).filter fun e => e.reg == i).foldl (fun m e => max m e.len) 0

theorem Ctx.incAll_areg (x : Ctx) (w j : Nat) (hinc : flInc w = true) (hlen : x.a.length = 16) (hj : j < 16) :
    (x.incAll w).areg j = if incBytes x w j = 0 then x.areg j else (x.areg j + incBytes x w j) % 2 ^ 42 := by
  have hdef : x.incAll w = (List.range 16).foldl (x.advanced (incBytes x w)) x := by
    unfold Ctx.incAll
    rw [hinc]
    rfl
  rw [hdef, x.foldl_advanced (incBytes x w) _ x List.nodup_range (fun i hi => by rw [hlen]; exact List.mem_range.1 hi) j]
  by_cases h : incBytes x w j = 0 <;> simp [h, hj]

/-- A MOVE advances its two registers by its length, and no other. -/
theorem incBytes_move (x : Ctx) (w i : Nat) (hop : insOp w = iMove) :
    incBytes x w i = if fR1 w = i ∨ fR2 w = i then insLen x w else 0 := by
  have hext : extents x w (insLen x w) = [⟨fR2 w, x.areg (fR2 w), insLen x w, [.read], true⟩, ⟨fR1 w, x.areg (fR1 w), insLen x w, [.write], true⟩] := by
    unfold extents
    exact if_pos hop
  unfold incBytes
  rw [hext]
  by_cases h1 : fR1 w = i <;> by_cases h2 : fR2 w = i <;> simp [h1, h2]

/-! ### Data instructions (R298 to R301) -/

theorem exec_dataOp (i : Instr) (c op : Nat) (s : State) (h : i.dataOp? = some (c, op)) : exec i s = .next (s.dataIns c op) := by
  unfold Instr.dataOp? at h
  split at h
  all_goals cases h
  all_goals rfl

theorem State.indexTrap_spec (s : State) (c : Nat) (x : Ctx) (k : Cur) (j v : Nat) (h : k.index j = some v) :
    (x.creg (fCb k.word.toNat) ≤ elemSize k.word.toNat * v → s.indexTrap c x k j = some ⟨0x13, j, v⟩) ∧
    (elemSize k.word.toNat * v < x.creg (fCb k.word.toNat) → s.indexTrap c x k j = none) := by
  unfold State.indexTrap
  dsimp only
  rw [h]
  exact ⟨fun hle => if_neg (Nat.not_lt.2 hle), fun hlt => if_pos hlt⟩

theorem State.launch_noCtx (s : State) (c : Nat) (want : Nat → Bool) (h : s.ctx? c = none) : s.launch c want = (s, none) := by
  unfold State.launch
  rw [h]

theorem State.begin_noCtx (s : State) (c : Nat) (want : Nat → Bool) (h : s.ctx? c = none) : s.begin c want = s := by
  unfold State.begin
  rw [s.launch_noCtx c want h]

theorem State.inProgress_noCtx (s : State) (c : Nat) (want : Nat → Bool) (h : s.ctx? c = none) : s.inProgress c want = none := by
  unfold State.inProgress
  rw [h]

theorem State.dataIns_noCtx (s : State) (c op : Nat) (h : s.ctx? c = none) : s.dataIns c op = s := by
  unfold State.dataIns
  dsimp only
  rw [s.begin_noCtx c _ h, s.inProgress_noCtx c _ h]

/-- A data instruction launched or in progress takes the answers and issues its requests; it ends when all is answered. -/
theorem State.dataIns_onward (s b : State) (c op w : Nat) (x : Ctx) (h : s.onward c x w b) (hop : insOp w = op) :
    ((b.advanceData c).inProgress c (fun w => insOp w == op) = none → s.dataIns c op = b.advanceData c) ∧
    ∀ y k, (b.advanceData c).inProgress c (fun w => insOp w == op) = some (y, k) →
      s.dataIns c op = if (b.advanceData c).dataDone c y k then (b.advanceData c).setCtx c (some (y.complete k.word.toNat)) else b.advanceData c := by
  have hw : (insOp w == op) = true := by rw [hop]; exact beq_self_eq_true op
  obtain ⟨k0, hk0, -⟩ := s.inProgress_of b c w x (fun w => insOp w == op) h hw
  unfold State.dataIns
  dsimp only
  rw [s.begin_of b c w x (fun w => insOp w == op) h hw, hk0]
  dsimp only
  refine ⟨fun hno => ?_, fun y k hk => ?_⟩
  · rw [hno]
  · rw [hk]

theorem exec_seqRequestFailed (c : Fin 256) (s : State) :
    (∀ x t, s.ctx? c.val = some x → s.ctxFailed c.val = some t → (s.slot x.slot).st = .running →
      exec (.seqRequestFailed c) s = .next (s.finish x.slot ⟨true, t.code, t.arg0, t.arg1, x.pc, true⟩)) ∧
    (s.ctx? c.val = none ∨ s.ctxFailed c.val = none → exec (.seqRequestFailed c) s = .next s) := by
  change (∀ x t, _ → _ → _ → Host.Outcome.next (s.requestFailed c.val) = _) ∧ (_ → Host.Outcome.next (s.requestFailed c.val) = _)
  unfold State.requestFailed
  refine ⟨fun x t hx ht hst => ?_, fun hor => ?_⟩
  · rw [hx, ht]
    refine congrArg _ ((if_pos (by rw [hst]; rfl)).trans ?_)
    unfold State.trapNow
    rw [hx]
  · rcases hor with h | h
    · rw [h]
    · rw [h]
      cases s.ctx? c.val <;> rfl

/-! ### CHECK (R307) -/

/-- The state in which a CHECK launched now holds its unit. -/
def State.checkHeld (u : State) (c : Nat) (x : Ctx) (w : Nat) : State :=
  (((u.chkLatch (checkUnitOf w) (.heldSeq c) (bitsOf w 101 100)).chkOwner (checkUnitOf w) 2 c).chkLast (checkUnitOf w) 0).setCtx c
    (some (x.busyWith w))

/-- A CHECK goes on from the state `b`: launched now, or in progress already. -/
def State.checkOn (s b : State) (c : Nat) : Prop :=
  (∃ u x w, s.launches c x w u ∧ insOp w = iCheck ∧ (u.slot x.slot).st = .running ∧ b = u.checkHeld c x w) ∨
    ∃ x k, s.ctx? c = some x ∧ x.cur = some k ∧ (s.slot x.slot).st = .running ∧ insOp k.word.toNat = iCheck ∧ b = s

/-- The state in which the instruction of a CHECK is in progress. -/
def State.checkBegin (s : State) (c : Nat) : State :=
  match s.launch c fun w => insOp w == iCheck with
  | (s, some (_, w)) =>
    (((s.chkLatch (checkUnitOf w) (.heldSeq c) (bitsOf w 101 100)).chkOwner (checkUnitOf w) 2 c).chkLast (checkUnitOf w) 0).modCtx c fun x =>
      { x with cur := some ⟨BitVec.ofNat 128 w, 0, 0, 0, 0, 0, [], [], none⟩ }
  | (s, none) => s

/-- What has been read and fed. -/
def State.checkFed (b : State) (c : Nat) : State := (b.advanceData c).forEach (List.range 64) fun s _ => s.feed1 c

/-- A CHECK in progress goes on. -/
def State.checkFrom (s : State) (c : Nat) : State :=
  let want := fun w => insOp w == iCheck
  match s.inProgress c want with
  | none => s
  | some _ =>
    let s := s.checkFed c
    match s.inProgress c want with
    | none => s
    | some (x, k) =>
      if (s.ctxFailed c).isSome then s
      else if k.wpos = dataLen x k.word.toNat / 64 then s.checkResult c x k else s

theorem State.checkIns_eq (s : State) (c : Nat) : s.checkIns c = (s.checkBegin c).checkFrom c := by
  unfold State.checkIns State.checkBegin
  dsimp only
  generalize s.launch c (fun w => insOp w == iCheck) = r
  obtain ⟨u, _ | ⟨x, w⟩⟩ := r
  all_goals
    unfold State.checkFrom State.checkFed <;> dsimp only <;> generalize (State.forEach _ (List.range 64) fun s _ => s.feed1 c) = v <;>
      generalize State.inProgress v c _ = g <;> obtain _ | ⟨y, k⟩ := g <;> rfl

theorem State.inProgress_eq (s : State) (c : Nat) (x : Ctx) (k : Cur) (want : Nat → Bool) (hx : s.ctx? c = some x) (hk : x.cur = some k)
    (hst : (s.slot x.slot).st = .running) (hw : want k.word.toNat = true) : s.inProgress c want = some (x, k) := by
  unfold State.inProgress
  rw [hx]
  dsimp only
  rw [hk]
  exact if_pos (by rw [hst, hw]; rfl)

theorem State.checkBegin_of (s b : State) (c : Nat) (h : s.checkOn b c) :
    s.checkBegin c = b ∧ ((s.checkBegin c).inProgress c fun w => insOp w == iCheck).isSome = true := by
  rcases h with ⟨u, x, w, hlaunch, hop, hst, rfl⟩ | ⟨x, k, hx, hk, hst, hop, rfl⟩
  · have hbegin : s.checkBegin c = u.checkHeld c x w := by
      unfold State.checkBegin
      rw [s.launch_of u c w x _ hlaunch (by rw [hop]; rfl)]
      obtain ⟨-, -, -, -, -, -, -, -, -, -, -, -, hx⟩ := hlaunch
      exact State.modCtx_of (((u.chkLatch (checkUnitOf w) (.heldSeq c) (bitsOf w 101 100)).chkOwner (checkUnitOf w) 2 c).chkLast
        (checkUnitOf w) 0) c x (fun x => x.busyWith w) hx
    have hlt : w < 2 ^ 128 := by
      obtain ⟨y, -, d, -, -, -, -, -, -, -, rfl, -⟩ := hlaunch
      exact Nat.mod_lt _ (by decide)
    rw [hbegin]
    refine ⟨rfl, ?_⟩
    rw [(u.checkHeld c x w).inProgress_eq c (x.busyWith w) _ _ (State.ctx?_setCtx_same _ _ _) rfl hst
      (by rw [BitVec.toNat_ofNat, Nat.mod_eq_of_lt hlt, hop]; rfl)]
    rfl
  · have hbegin : b.checkBegin c = b := by
      unfold State.checkBegin
      rw [b.launch_busy c x _ hx (by rw [hk]; rfl)]
    rw [hbegin, b.inProgress_eq c x k _ hx hk hst (by rw [hop]; rfl)]
    exact ⟨rfl, rfl⟩

theorem exec_seqCheck (c : Fin 256) (s b : State) (h : s.checkOn b c.val) : let v := b.checkFed c.val
    (v.inProgress c.val (fun w => insOp w == iCheck) = none → exec (.seqCheck c) s = .next v) ∧
    ∀ y k, v.inProgress c.val (fun w => insOp w == iCheck) = some (y, k) →
      ((v.ctxFailed c.val).isSome = true ∨ k.wpos ≠ dataLen y k.word.toNat / 64 → exec (.seqCheck c) s = .next v) ∧
      (v.ctxFailed c.val = none → k.wpos = dataLen y k.word.toNat / 64 → exec (.seqCheck c) s = .next (v.checkResult c.val y k)) := by
  obtain ⟨hbegin, hsome⟩ := s.checkBegin_of b c.val h
  obtain ⟨e, he⟩ := Option.isSome_iff_exists.1 hsome
  intro v
  change (_ → Host.Outcome.next (s.checkIns c.val) = _) ∧ ∀ y k, _ → (_ → Host.Outcome.next (s.checkIns c.val) = _) ∧
    (_ → _ → Host.Outcome.next (s.checkIns c.val) = _)
  rw [hbegin] at he
  rw [s.checkIns_eq c.val, hbegin]
  unfold State.checkFrom
  dsimp only
  rw [he]
  dsimp only
  refine ⟨fun hno => ?_, fun y k hk => ⟨fun hor => ?_, fun hok hpos => ?_⟩⟩
  · rw [show (b.checkFed c.val).inProgress c.val (fun w => insOp w == iCheck) = none from hno]
  · rw [show (b.checkFed c.val).inProgress c.val (fun w => insOp w == iCheck) = some (y, k) from hk]
    refine congrArg _ ?_
    by_cases hf : (v.ctxFailed c.val).isSome = true
    · exact if_pos hf
    · exact (if_neg hf).trans (if_neg (hor.resolve_left hf))
  · rw [show (b.checkFed c.val).inProgress c.val (fun w => insOp w == iCheck) = some (y, k) from hk]
    exact congrArg _ ((if_neg (by rw [show (b.checkFed c.val).ctxFailed c.val = none from hok]; decide)).trans (if_pos hpos))

/-- The state in which the value of a CHECK is written, or the stored word asked for. -/
theorem State.checkResult_first (s : State) (c : Nat) (x : Ctx) (k : Cur) (h : k.stored = none) : let u := checkUnitOf k.word.toNat
    let v := (s.chk u).result
    let a := x.areg (fR1 k.word.toNat)
    let b := s.fset (F.chkResult_VALUE u) v
    (s.mayIssue c x = false → s.checkResult c x k = s) ∧
    (s.mayIssue c x = true →
      (k.word.toNat.testBit 99 = true → s.checkResult c x k =
        (b.ctxIssue c x roleCompare opRead a 0 0 0 0 false false).modCur c fun k => { k with stored := some v }) ∧
      (k.word.toNat.testBit 99 = false → s.checkResult c x k =
        (b.ctxIssue c x roleWrite opWrite a 0 0 (BitVec.ofNat 32768 v) 0 false false).modCur c fun k => { k with stored := some v })) := by
  intro u v a b
  unfold State.checkResult
  dsimp only
  rw [h]
  dsimp only
  refine ⟨fun hno => if_pos (by rw [hno]; rfl), fun hmay => ?_⟩
  rw [hmay]
  refine ⟨fun hcmp => ?_, fun hcmp => ?_⟩ <;> rw [hcmp] <;> rfl

theorem State.checkEnd_sets (s : State) (c u : Nat) (x : Ctx) (w : Nat) :
    ((s.setChk u Chk.init).setCtx c (some (x.complete w))).sets (s.checkEnd c u x w) [(F.chkStatus_OWNER u, 0), (F.chkStatus_OWNER_ID u, 0)] :=
  State.sets_puts_perm _ [(F.chkStatus_OWNER_ID u, 0), (F.chkStatus_OWNER u, 0)] _
    (by
      simp only [List.forall_mem_cons]
      exact ⟨⟨Fld.ok_mk (by decide), Nat.two_pow_pos _⟩, ⟨Fld.ok_mk (by decide), Nat.two_pow_pos _⟩, by simp⟩)
    (by
      simp only [List.pairwise_cons, List.forall_mem_cons]
      exact ⟨⟨.inr (.inl (by decide : 1 < 8)), by simp⟩, by simp, .nil⟩)
    (by simp [or_comm])

/-- What the answer to a CHECK comes to. -/
theorem State.checkResult_answered (s : State) (c : Nat) (x : Ctx) (k : Cur) (v : Nat) (h : k.stored = some v) : let u := checkUnitOf k.word.toNat
    let a := x.areg (fR1 k.word.toNat)
    (s.ctxReqs c = [] → s.checkResult c x k = s.checkEnd c u x k.word.toNat) ∧
    (∀ id r l, s.ctxReqs c = (id, r) :: l → r.origin = roleCompare → r.decided = true → let z := r.res.getD 0 (.of .ok)
      (z.st = .poison → s.checkResult c x k = (s.dropReq id).trapNow c ⟨0x16, a, 0⟩) ∧
      (z.st ≠ .poison → z.data.toNat % 2 ^ 64 % 2 ^ (s.chk u).width = v → s.checkResult c x k = (s.dropReq id).checkEnd c u x k.word.toNat) ∧
      (z.st ≠ .poison → z.data.toNat % 2 ^ 64 % 2 ^ (s.chk u).width ≠ v →
        s.checkResult c x k = (s.dropReq id).trapNow c ⟨0x17, v, z.data.toNat % 2 ^ 64⟩)) := by
  intro u a
  unfold State.checkResult
  dsimp only
  rw [h]
  dsimp only
  refine ⟨fun hno => by rw [hno], fun id r l hreq horigin hdec => ?_⟩
  rw [hreq]
  dsimp only
  rw [if_neg (by rw [horigin, hdec]; decide)]
  refine ⟨fun hp => if_pos (by rw [hp]; rfl), fun hp hv => ?_, fun hp hv => ?_⟩
  · exact (if_neg (by simpa using hp)).trans (if_pos hv)
  · exact (if_neg (by simpa using hp)).trans (if_neg hv)

/-! ### GATE_SWAP (R311) -/

theorem State.gateSwapIns_onward (s b : State) (c w : Nat) (x : Ctx) (h : s.onward c x w b) (hop : insOp w = iGateSwap) :
    ((b.advanceData c).inProgress c (fun w => insOp w == iGateSwap) = none → s.gateSwapIns c = b.advanceData c) ∧
    ∀ y k, (b.advanceData c).inProgress c (fun w => insOp w == iGateSwap) = some (y, k) →
      s.gateSwapIns c = if (b.advanceData c).dataDone c y k
        then ((b.advanceData c).gateSwapAct y k).1.setCtx c (some ((y.setC (bitsOf k.word.toNat 103 101) ((b.advanceData c).gateSwapAct y k).2).advance))
        else b.advanceData c := by
  have hw : (insOp w == iGateSwap) = true := by rw [hop]; rfl
  obtain ⟨k0, hk0, -⟩ := s.inProgress_of b c w x (fun w => insOp w == iGateSwap) h hw
  unfold State.gateSwapIns
  dsimp only
  rw [s.begin_of b c w x (fun w => insOp w == iGateSwap) h hw, hk0]
  dsimp only
  refine ⟨fun hno => ?_, fun y k hk => ?_⟩
  · rw [hno]
  · rw [hk]

/-- A pending swap, and a poisoned list, are outcomes that change nothing (R311). -/
theorem State.gateSwapAct_refused (v : State) (x : Ctx) (k : Cur) : let g := fR2 k.word.toNat
    (v.flag (F.trfGateStatus_PENDING g) = true → v.cadence < (v.arm g).t → v.gateSwapAct x k = (v, 2)) ∧
    (v.flag (F.trfGateStatus_PENDING g) = false → (∃ e ∈ k.got, e.2.2 = true) → v.gateSwapAct x k = (v, 4)) := by
  intro g
  unfold State.gateSwapAct
  dsimp only
  refine ⟨fun hp hlt => ?_, fun hp hbad => ?_⟩
  · rw [v.settleSwap_notDue g fun h => absurd h.2 (Nat.not_le.2 hlt)]
    exact if_pos hp
  · rw [v.settleSwap_notDue g fun h => by rw [hp] at h; cases h.1]
    refine (if_neg (by rw [hp]; decide)).trans (if_pos ?_)
    obtain ⟨e, he, hpoison⟩ := hbad
    exact List.any_eq_true.2 ⟨e, he, hpoison⟩

/-- Settles O56: each data instruction from where it goes on, by what has been answered. -/
theorem dataInstructions : Obligations.DataInstructions := by
  unfold Obligations.DataInstructions
  refine ⟨fun i c op s b x w hi h hop => ?_, fun i c op s hi hno => ?_, splitCode_spec, fun x w hop hinc hne hlen hpos => ?_,
    fun s c x k j v h => s.indexTrap_spec c x k j v h, exec_seqRequestFailed, fun c s b h => exec_seqCheck c s b h, fun s c x k h => ?_,
    fun s c x k v h => ?_, fun c s b x0 w h hop => ?_⟩
  · intro v
    obtain ⟨hnone, hsome⟩ := s.dataIns_onward b c op w x h hop
    rw [exec_dataOp i c op s hi]
    refine ⟨fun hno => congrArg _ (hnone hno), fun y k hk => ⟨fun hd => congrArg _ ((hsome y k hk).trans (if_neg ?_)),
      fun hd => congrArg _ ((hsome y k hk).trans (if_pos hd))⟩⟩
    rw [show (b.advanceData c).dataDone c y k = false from hd]
    decide
  · rw [exec_dataOp i c op s hi, s.dataIns_noCtx c op hno]
  · have hreg : ∀ i < 16, (x.incAll w).areg i = if fR1 w = i ∨ fR2 w = i then (x.areg i + insLen x w) % 2 ^ 42 else x.areg i := fun i hi => by
      rw [x.incAll_areg w i hinc hlen hi, incBytes_move x w i hop]
      by_cases hin : fR1 w = i ∨ fR2 w = i
      · rw [if_pos hin, if_neg hpos, if_pos hin]
      · rw [if_neg hin, if_pos rfl, if_neg hin]
    refine ⟨(hreg _ (bitsOf_lt w 111 108)).trans (if_pos (.inl rfl)), (hreg _ (bitsOf_lt w 107 104)).trans (if_pos (.inr rfl)), fun i hi h1 h2 => ?_⟩
    rw [hreg i hi, if_neg fun h => h.elim (fun h => h1 h.symm) fun h => h2 h.symm]
  · intro u v a
    obtain ⟨hno, hmay⟩ := s.checkResult_first c x k h
    exact ⟨hno, fun hm => ⟨_, s.sets_fset s [] _ _ _ (Fld.ok_mk (by decide)) rfl (by simp) s.sets_nil, hmay hm⟩⟩
  · intro u a ended
    obtain ⟨hnone, hsome⟩ := s.checkResult_answered c x k v h
    refine ⟨fun hno => ?_, fun id r l hreq horigin hdec => ?_⟩
    · change State.sets _ (s.checkResult c x k) _
      rw [hnone hno]
      exact s.checkEnd_sets c u x _
    · intro z
      obtain ⟨hpoison, hequal, hother⟩ := hsome id r l hreq horigin hdec
      refine ⟨hpoison, fun hp hv => ?_, hother⟩
      change State.sets _ (s.checkResult c x k) _
      rw [hequal hp hv]
      exact (s.dropReq id).checkEnd_sets c u x _
  · intro v
    obtain ⟨hnone, hsome⟩ := s.gateSwapIns_onward b c.val w x0 h hop
    refine ⟨fun hno => congrArg Host.Outcome.next (hnone hno), fun y k hk => ⟨fun hd => ?_, fun hd => ?_⟩⟩
    · refine congrArg Host.Outcome.next ((hsome y k hk).trans (if_neg ?_))
      rw [show (b.advanceData c.val).dataDone c.val y k = false from hd]
      decide
    · obtain ⟨hpend, hbad⟩ := v.gateSwapAct_refused y k
      refine ⟨(v.gateSwapAct y k).1, (v.gateSwapAct y k).2, rfl, congrArg Host.Outcome.next ((hsome y k hk).trans (if_pos hd)), ?_⟩
      intro g
      exact ⟨fun hp hlt => ⟨congrArg Prod.fst (hpend hp hlt), congrArg Prod.snd (hpend hp hlt)⟩,
        fun hp hb => ⟨congrArg Prod.fst (hbad hp hb), congrArg Prod.snd (hbad hp hb)⟩⟩

end Sys2Proof.Machine

/-! PROOFS. The thermal watch, the lifecycle fuses and the trims (R395 to R414). -/
namespace Sys2Proof.Machine

/-! ### A sample's parts -/

theorem exec_thermalSample_on (d : List Conv) (r : List (BitVec 16)) (ro : BitVec 16) (s : State) (h : s.power ≠ .dead) :
    exec (.thermalSample d r ro) s = .next ((s.sample d r ro.toNat).retainProceed.slowTick (s.fget F.pwrRtc_TICKS)
      (decide (s.drone.step = 7 ∧ (ro ≠ 0 ∨ s.flag F.pwrRoCal_STOPPED = false)))) := by
  have hedge : (s.drone.step == 7 && (ro != 0 || !s.flag F.pwrRoCal_STOPPED)) =
      decide (s.drone.step = 7 ∧ (ro ≠ 0 ∨ s.flag F.pwrRoCal_STOPPED = false)) := by
    rw [Bool.eq_iff_iff]; simp
  have hon : s.droneOn = true := by simp [State.droneOn, h]
  rw [← hedge]
  exact congrArg Host.Outcome.next (if_pos hon)

theorem State.reg_watchTick (s : State) (n a : Nat) (h : a ≠ A.pwrRoCal) : (s.watchTick n).reg a = s.reg a := by
  have hset : ∀ (u : State) (f : Fld) (v : Nat), f.addr = A.pwrRoCal → (u.fset f v).reg a = u.reg a := fun u f v hf =>
    u.reg_fset_other f v a (by rw [hf]; exact h.symm)
  have hcycles : (if n = 0 then s else s.fset F.pwrRoCal_CYCLES n).reg a = s.reg a := by
    split
    · rfl
    · exact hset s _ _ rfl
  unfold State.watchTick
  dsimp only
  generalize (if n = 0 then s else s.fset F.pwrRoCal_CYCLES n) = u at *
  split
  · rfl
  · split
    · split
      · exact (hset u F.pwrRoCal_STOPPED 0 rfl).trans hcycles
      · exact hcycles
    · exact hcycles

theorem State.fget_rtcTick (s : State) (n : Nat) : (s.rtcTick n).fget F.pwrRtc_TICKS = s.wrapped F.pwrRtc_TICKS 1 := by
  have hres : A.pwrRes s.power.group ≠ A.pwrRtc := by change 0x004100 + _ * 0x8 ≠ 0x004028; omega
  unfold State.rtcTick
  rw [State.fget_of_reg (State.reg_watchTick _ n A.pwrRtc (by decide)), State.fget_fset_other _ _ _ _ hres,
    State.fget_fset_same _ _ _ (by decide)]
  rfl

theorem State.sets_convert (s : State) (c : Nat) (t : BitVec 16) :
    s.sets (s.convert c (.reading t)) [(F.thmDiode_TEMP c, unsigned 16 (calibrate (signed 16 t.toNat)
      (signed 8 (s.fget (F.fusDiodeTrimActive_GAIN c))) (signed 8 (s.fget (F.fusDiodeTrimActive_OFFSET c))))), (F.thmDiode_FAULT c, 0)] := by
  have hlt : ∀ x : Int, unsigned 16 x < 2 ^ 16 := fun x => by unfold unsigned; omega
  refine s.sets_puts_perm [(F.thmDiode_FAULT c, 0), (F.thmDiode_TEMP c, _)] _ ?_ ?_ (fun e => List.mem_reverse (as := [_, _]))
  · simp only [List.forall_mem_cons]
    exact ⟨⟨Fld.ok_mk (by decide), Nat.two_pow_pos _⟩, ⟨Fld.ok_mk (by decide), hlt _⟩, by simp⟩
  · simp only [List.pairwise_cons, List.forall_mem_cons]
    exact ⟨⟨.inr (.inl (by decide : (15 : Nat) < 17)), by simp⟩, by simp, .nil⟩

/-- A channel that has no conversion. -/
theorem State.convert_fails (s : State) (c : Nat) (v : Conv) (hv : v = .openCircuit ∨ v = .shortCircuit) :
    s.convert c v = if s.flag (F.thmDiode_FAULT c) then s
      else if (s.raise (F.thmDiode_FAULT c)).flag (F.thmDiode_IGNORE c) then s.raise (F.thmDiode_FAULT c)
      else (s.raise (F.thmDiode_FAULT c)).post 0x0311 (unitPc (c / 2) 0) c (if v = .openCircuit then 1 else 2) := by
  rcases hv with rfl | rfl <;> rfl

theorem State.ignore_raise_fault (s : State) (c : Nat) :
    (s.raise (F.thmDiode_FAULT c)).flag (F.thmDiode_IGNORE c) = s.flag (F.thmDiode_IGNORE c) :=
  s.flag_fset_apart _ _ _ (Fld.ok_mk (by decide)) (.inr (.inl (by decide : (16 : Nat) < 17)))

theorem flatMap_stackDiodes (n : Nat) : (List.range n).flatMap stackDiodes = List.range (2 * n) := by
  induction n with
  | zero => rfl
  | succ n ih => rw [List.range_succ, List.flatMap_append, ih, show 2 * (n + 1) = 2 * n + 1 + 1 from rfl, List.range_succ, List.range_succ]; simp [stackDiodes]

theorem find?_range_least (n c : Nat) (q : Nat → Bool) (hc : c < n) (hq : q c = true) (hless : ∀ e < c, q e = false) :
    (List.range n).find? q = some c := by
  rw [List.find?_range_eq_some]
  exact ⟨hq, by simpa using hc, fun e he => by simp [hless e he]⟩

theorem thmStatus_TRIP_CH_fits {c : Nat} (h : c < 16) : Fld.Fits (F.thmStatus_TRIP_CH, c) := ⟨Fld.ok_mk (by decide), h⟩

theorem State.sets_tripCheck (s : State) (c : Nat) (hc : c < 16) (htrip : s.flag F.thmStatus_TRIPPED = false) (hn : c < 2 * s.build.nStacks)
    (hcount : s.counted c = true) (hhot : 1760 ≤ s.temp c) (hless : ∀ e < c, s.counted e = false ∨ s.temp e < 1760) :
    (s.post 0x0416 0 (c / 2) (c * 2 ^ 16 + s.fget (F.thmDiode_TEMP c))).sets s.tripCheck [(F.thmStatus_TRIPPED, 1), (F.thmStatus_TRIP_CH, c)] := by
  have hfind : (s.stacks.flatMap stackDiodes).find? (fun c => s.counted c && 1760 ≤ s.temp c) = some c := by
    unfold State.stacks
    rw [flatMap_stackDiodes]
    refine find?_range_least _ c _ hn (by simp [hcount, hhot]) fun e he => ?_
    rcases hless e he with h | h
    · simp [h]
    · simp [Int.not_le.2 h]
  have heq : s.tripCheck = (s.puts [(F.thmStatus_TRIP_CH, c), (F.thmStatus_TRIPPED, 1)]).post 0x0416 0 (c / 2) (s.argDiode c) := by
    unfold State.tripCheck
    rw [if_neg (by simp [htrip]), hfind]
    rfl
  rw [heq]
  refine State.sets_post _ _ _ _ _ _ _ (by simp only [List.forall_mem_cons]; exact ⟨by decide, by decide, by simp⟩) (s.sets_puts_perm _ _ ?_ ?_ (fun e => by simp only [List.mem_cons, List.not_mem_nil, or_false]; grind))
  · simp only [List.forall_mem_cons]
    exact ⟨thmStatus_TRIP_CH_fits hc, ⟨by decide, by decide⟩, by simp⟩
  · simp only [List.pairwise_cons, List.forall_mem_cons]
    exact ⟨⟨.inr (.inl (by decide)), by simp⟩, by simp, .nil⟩

/-! ### The window, the levels and the thermistors -/

theorem State.windowCheck_open (s : State) (k : Nat) (was : List Nat) (hopen : s.flag (F.thmStk_WINDOW_CLOSED k) = false) :
    s.windowCheck k was = match ((stackDiodes k).filter s.counted).find? s.diodeOutside with
      | some c => (s.raise (F.thmStk_WINDOW_CLOSED k)).post 0x030F (unitPc k 0) k (s.argDiode c)
      | none => s := by
  unfold State.windowCheck
  exact if_neg (show ¬ s.windowClosed k = true by rw [State.windowClosed, hopen]; decide)

theorem State.windowCheck_closes (s : State) (k : Nat) (was : List Nat) (hopen : s.flag (F.thmStk_WINDOW_CLOSED k) = false)
    (hcount : s.counted (2 * k) = true) (hout : s.temp (2 * k) < 0 ∨ 1600 < s.temp (2 * k)) :
    (s.post 0x030F (unitPc k 0) k (2 * k * 2 ^ 16 + s.fget (F.thmDiode_TEMP (2 * k)))).sets (s.windowCheck k was)
      [(F.thmStk_WINDOW_CLOSED k, 1)] := by
  have houtside : s.diodeOutside (2 * k) = true := by simpa [State.diodeOutside] using hout
  have hfind : ((stackDiodes k).filter s.counted).find? s.diodeOutside = some (2 * k) := by
    unfold stackDiodes
    rw [List.filter_cons_of_pos hcount, List.find?_cons_of_pos houtside]
  rw [s.windowCheck_open k was hopen, hfind]
  refine State.sets_post _ _ _ _ _ _ _ (List.forall_mem_singleton.2 ?_) (s.sets_raise_alone _ (Fld.ok_mk (by decide)))
  change 0x006200 + k * 0x8 ≠ 0x000320
  omega

theorem State.windowCheck_stays (s : State) (k : Nat) (was : List Nat) (hopen : s.flag (F.thmStk_WINDOW_CLOSED k) = false)
    (hin : ∀ c ∈ [2 * k, 2 * k + 1], s.counted c = true → 0 ≤ s.temp c ∧ s.temp c ≤ 1600) : s.windowCheck k was = s := by
  have hfind : ((stackDiodes k).filter s.counted).find? s.diodeOutside = none := List.find?_eq_none.2 fun c hc => by
    obtain ⟨hmem, hcount⟩ := List.mem_filter.1 hc
    obtain ⟨hlo, hhi⟩ := hin c hmem hcount
    simp only [State.diodeOutside, Bool.or_eq_true, decide_eq_true_eq]
    omega
  rw [s.windowCheck_open k was hopen, hfind]

theorem State.levelTemp_counted (s : State) (c : Nat) (h : s.counted c = true) : s.levelTemp c = some (s.temp c) := by
  obtain ⟨hfault, hignore⟩ : s.flag (F.thmDiode_FAULT c) = false ∧ s.flag (F.thmDiode_IGNORE c) = false := by simpa [State.counted] using h
  simp [State.levelTemp, hfault, hignore]

theorem State.nextLevel_counted (s : State) (k : Nat) (h0 : s.counted (2 * k) = true) (h1 : s.counted (2 * k + 1) = true) :
    let t := max (s.temp (2 * k)) (s.temp (2 * k + 1))
    s.nextLevel k = if s.fget (F.thmStk_LEVEL k) < levelAt t 0 then levelAt t 0 else min (s.fget (F.thmStk_LEVEL k)) (levelAt t s.hyst) := by
  intro t
  have htemp : ∃ c, s.stackTemp k = some (c, t) := by
    unfold State.stackTemp
    rw [s.levelTemp_counted _ h0, s.levelTemp_counted _ h1]
    dsimp only
    by_cases hlt : s.temp (2 * k) < s.temp (2 * k + 1)
    · exact ⟨2 * k + 1, by rw [if_pos hlt, show t = _ from Int.max_eq_right (Int.le_of_lt hlt)]⟩
    · exact ⟨2 * k, by rw [if_neg hlt, show t = _ from Int.max_eq_left (Int.not_lt.1 hlt)]⟩
  obtain ⟨c, htemp⟩ := htemp
  unfold State.nextLevel
  rw [if_neg (by simp [h0]), htemp]

/-- The level by the hottest temperature and HYST (Table 14.1). -/
theorem level_cases (t h : Int) (now : Nat) (hh : 0 ≤ h) :
    let next := if now < levelAt t 0 then levelAt t 0 else min now (levelAt t h)
    (1520 ≤ t → now ≤ 2 → next = 2) ∧ (t < 1360 - h → next = 0) ∧ (1360 ≤ t → t < 1520 - h → next = 1) := by
  intro next
  have hnext : next = if now < levelAt t 0 then levelAt t 0 else min now (levelAt t h) := rfl
  refine ⟨fun hhot hnow => ?_, fun hcold => ?_, fun hlo hhi => ?_⟩
  · have h0 : levelAt t 0 = 2 := if_pos (by omega)
    have h1 : levelAt t h = 2 := if_pos (by omega)
    rw [hnext, h0, h1]; split <;> omega
  · have h0 : levelAt t 0 = 0 := (if_neg (by omega)).trans (if_neg (by omega))
    have h1 : levelAt t h = 0 := (if_neg (by omega)).trans (if_neg (by omega))
    rw [hnext, h0, h1]; split <;> omega
  · have h0 : levelAt t 0 = 1 := (if_neg (by omega)).trans (if_pos (by omega))
    have h1 : levelAt t h = 1 := (if_neg (by omega)).trans (if_pos (by omega))
    rw [hnext, h0, h1]; split <;> omega

theorem thmPkg_RAW_fits (i : Nat) (raw : BitVec 16) : Fld.Fits (F.thmPkg_RAW i, raw.toNat) := ⟨Fld.ok_mk (by decide), raw.isLt⟩

theorem State.sets_raw (s : State) (i : Nat) (raw : BitVec 16) (v : Nat) (hv : v < 2) :
    s.sets ((s.fset (F.thmPkg_RAW i) raw.toNat).fset (F.thmPkg_OVER i) v) [(F.thmPkg_RAW i, raw.toNat), (F.thmPkg_OVER i, v)] := by
  refine s.sets_puts_perm [(F.thmPkg_OVER i, v), (F.thmPkg_RAW i, raw.toNat)] _ ?_ ?_ (fun e => by simp only [List.mem_cons, List.not_mem_nil, or_false]; grind)
  · simp only [List.forall_mem_cons]
    exact ⟨⟨Fld.ok_mk (by decide), hv⟩, thmPkg_RAW_fits i raw, by simp⟩
  · simp only [List.pairwise_cons, List.forall_mem_cons]
    exact ⟨⟨.inr (.inl (by decide : (15 : Nat) < 16)), by simp⟩, by simp, .nil⟩

theorem State.thermistor_over (s : State) (i : Nat) (raw : BitVec 16) (hlim : s.fget (F.thmPkg_LIMIT i) ≠ 0)
    (hlow : raw.toNat < s.fget (F.thmPkg_LIMIT i)) (hover : s.flag (F.thmPkg_OVER i) = false) :
    (s.post 0x0417 0 i raw.toNat).sets (s.thermistor i raw.toNat) [(F.thmPkg_RAW i, raw.toNat), (F.thmPkg_OVER i, 1)] := by
  have hkept : (s.fset (F.thmPkg_RAW i) raw.toNat).flag (F.thmPkg_OVER i) = false :=
    (s.flag_fset_apart _ _ _ (Fld.ok_mk (by decide)) (.inr (.inr (by decide : (15 : Nat) < 16)))).trans hover
  have heq : s.thermistor i raw.toNat = ((s.fset (F.thmPkg_RAW i) raw.toNat).fset (F.thmPkg_OVER i) 1).post 0x0417 0 i raw.toNat := by
    unfold State.thermistor
    dsimp only
    rw [if_pos (by simp [hlim, hlow]), hkept]
    rfl
  rw [heq]
  refine State.sets_post _ _ _ _ _ _ _ ?_ (s.sets_raw i raw 1 (by decide))
  have hne : A.thmPkg i ≠ A.glbEvStatus := by change 0x006300 + i * 0x8 ≠ 0x000320; omega
  simp only [List.forall_mem_cons]
  exact ⟨hne, hne, by simp⟩

theorem State.thermistor_clears (s : State) (i : Nat) (raw : BitVec 16)
    (h : s.fget (F.thmPkg_LIMIT i) + s.fget (F.thmPkg_LIMIT i) / 64 ≤ raw.toNat) :
    s.sets (s.thermistor i raw.toNat) [(F.thmPkg_RAW i, raw.toNat), (F.thmPkg_OVER i, 0)] := by
  have heq : s.thermistor i raw.toNat = (s.fset (F.thmPkg_RAW i) raw.toNat).fset (F.thmPkg_OVER i) 0 := by
    unfold State.thermistor
    dsimp only
    rw [if_neg (by simp; omega), if_pos h]
  rw [heq]
  exact s.sets_raw i raw 0 (by decide)

/-! ### The lifecycle fuses -/

theorem exec_lcCmd_ready (w : Word) (s : State) (h : s.cpReady) : exec (.lcCmd w) s = .next (s.cpOk.lcCmd w.toNat) :=
  s.cpDo_ready _ (fun u => u.lcCmd w.toNat) h

theorem State.lcRefused_iff (s : State) (target : Nat) (san : Bool) : s.lcRefused target san = true ↔
    s.flag F.glbAccLock_LOCK = true ∨ target < s.fget F.fusLifecycle_PENDING ∨
      (target = s.fget F.fusLifecycle_PENDING ∧ (san = false ∨ s.flag F.fusLifecycle_SAN_PENDING = true)) ∨ s.flag F.fusStatus_PROG_BUSY = true := by
  simp [State.lcRefused, State.locked, or_assoc]

/-- An LC_CMD with GO that is not refused. -/
def State.lcTaken (s : State) (target : Nat) (san : Bool) : State :=
  let u := (s.raise F.fusStatus_PROG_BUSY).fset F.fusLifecycle_PENDING target
  if san then u.raise F.fusLifecycle_SAN_PENDING else u

theorem State.lcCmd_eq (s : State) (w : Nat) : s.lcCmd w = if !w.testBit 63 then s
    else if s.lcRefused (w % 4) (w.testBit 2) then s.raise F.fusStatus_LC_REFUSED
    else { s.lcTaken (w % 4) (w.testBit 2) with prog := BitVec.ofNat 64 (blowMask (s.fget F.fusLifecycle_STATE) (w % 4) (w.testBit 2)) } := rfl

theorem State.sets_lcTaken (s : State) (target : Nat) (san : Bool) (ht : target < 4) : s.sets (s.lcTaken target san)
    [(F.fusStatus_PROG_BUSY, 1), (F.fusLifecycle_PENDING, target),
      (F.fusLifecycle_SAN_PENDING, if san then 1 else s.fget F.fusLifecycle_SAN_PENDING)] := by
  have htwo : s.sets ((s.raise F.fusStatus_PROG_BUSY).fset F.fusLifecycle_PENDING target)
      [(F.fusLifecycle_PENDING, target), (F.fusStatus_PROG_BUSY, 1)] :=
    s.sets_fset _ _ _ _ _ (by decide) (Nat.mod_eq_of_lt ht) (List.forall_mem_singleton.2 (.inl (by decide)))
      (s.sets_raise_alone _ (by decide))
  have hapart : ∀ g ∈ [F.fusLifecycle_PENDING, F.fusStatus_PROG_BUSY], g.Apart F.fusLifecycle_SAN_PENDING := by decide
  cases san with
  | true =>
    refine s.sets_perm _ _ _ ?_ (s.sets_raise _ _ F.fusLifecycle_SAN_PENDING (by decide) ?_ htwo)
    · exact fun e => by simp only [List.mem_cons, List.not_mem_nil, or_false]; grind
    · exact fun e he => (hapart e.1 (by simpa using List.mem_map_of_mem (f := Prod.fst) he)).symm
  | false =>
    exact s.sets_perm _ _ _ (fun e => by simp only [List.mem_cons, List.not_mem_nil, or_false]; grind) (s.sets_kept _ _ F.fusLifecycle_SAN_PENDING (by decide) (by simpa using hapart) htwo)

/-! ### The trims -/

/-- A register that the loop does not write. -/
theorem State.reg_forEach_setReg_miss (a : Nat → Nat) (v : Nat → Word) (b : Nat) (l : List Nat) (s : State) (h : ∀ c ∈ l, a c ≠ b) :
    (s.forEach l fun s c => s.setReg (a c) (v c)).reg b = s.reg b := by
  unfold State.forEach
  induction l generalizing s with
  | nil => rfl
  | cons c l ih =>
    rw [List.foldl_cons, ih _ fun d hd => h d (List.mem_cons_of_mem _ hd), State.reg_setReg, if_neg (h c List.mem_cons_self)]

/-- A register that the loop writes holds the value it was given. -/
theorem State.reg_forEach_setReg_hit (a : Nat → Nat) (v : Nat → Word) (c : Nat) (l : List Nat) (s : State) (hinj : Function.Injective a)
    (hc : c ∈ l) : (s.forEach l fun s c => s.setReg (a c) (v c)).reg (a c) = v c := by
  induction l generalizing s with
  | nil => cases hc
  | cons d l ih =>
    by_cases hl : c ∈ l
    · exact ih _ hl
    · obtain rfl := (List.mem_cons.1 hc).resolve_right hl
      have hmiss := State.reg_forEach_setReg_miss a v (a c) l (s.setReg (a c) (v c)) fun x hx heq => hl (hinj heq ▸ hx)
      exact hmiss.trans (by rw [State.reg_setReg, if_pos rfl])

/-- Two loops agree where their steps agree on the states that the loop reaches. -/
theorem State.forEach_congr_on {α : Type} (P : State → Prop) (f g : State → α → State) (l : List α) (s : State) (hs : P s)
    (hstep : ∀ t a, P t → P (g t a)) (heq : ∀ t a, P t → f t a = g t a) : s.forEach l f = s.forEach l g := by
  unfold State.forEach
  induction l generalizing s with
  | nil => rfl
  | cons a l ih => rw [List.foldl_cons, List.foldl_cons, heq s a hs]; exact ih _ (hstep s a hs)

/-- The Peg bank as loaded and LOAD_ERR are those of `s`. -/
def State.SamePeg (s t : State) : Prop := t.fuses = s.fuses ∧ t.reg A.fusStatus = s.reg A.fusStatus

theorem State.SamePeg.trims {s t : State} (h : s.SamePeg t) : t.pegPhyTrim = s.pegPhyTrim ∧ t.pegDiodeTrim = s.pegDiodeTrim := by
  obtain ⟨hfuses, hreg⟩ := h
  have hflag : t.flag F.fusStatus_LOAD_ERR = s.flag F.fusStatus_LOAD_ERR := State.flag_of_reg hreg
  constructor <;> funext k
  · unfold State.pegPhyTrim State.fuseWord; rw [hflag, hfuses]
  · unfold State.pegDiodeTrim State.fuseWord; rw [hflag, hfuses]

theorem State.SamePeg.setReg {s t : State} (h : s.SamePeg t) (a : Nat) (w : Word) (ha : a ≠ A.fusStatus) : s.SamePeg (t.setReg a w) :=
  ⟨h.1, by rw [State.reg_setReg, if_neg ha]; exact h.2⟩

theorem fusPhyTrim_ne_status (k : Nat) : A.fusPhyTrim k ≠ A.fusStatus := by change 0x008100 + k * 0x10 ≠ 0x008010; omega
theorem fusDiodeTrim_ne_status (c : Nat) : A.fusDiodeTrim c ≠ A.fusStatus := by change 0x008200 + c * 0x10 ≠ 0x008010; omega

theorem State.trimReload_eq (s : State) : s.trimReload =
    ((s.forEach s.stacks fun u k => u.setReg (A.fusPhyTrim k) (s.pegPhyTrim k)).forEach (List.range (2 * s.build.nStacks)) fun u c =>
      u.setReg (A.fusDiodeTrim c) (s.pegDiodeTrim c)) := by
  have hphy : (s.forEach s.stacks fun s k => s.setReg (A.fusPhyTrim k) (s.pegPhyTrim k)) =
      s.forEach s.stacks fun u k => u.setReg (A.fusPhyTrim k) (s.pegPhyTrim k) :=
    State.forEach_congr_on s.SamePeg _ _ _ _ ⟨rfl, rfl⟩ (fun t k ht => ht.setReg _ _ (fusPhyTrim_ne_status k))
      fun t k ht => by rw [ht.trims.1]
  unfold State.trimReload
  rw [hphy, show s.stacks.flatMap stackDiodes = List.range (2 * s.build.nStacks) from flatMap_stackDiodes _]
  refine State.forEach_congr_on s.SamePeg _ _ _ _ ⟨?_, ?_⟩ (fun t c ht => ht.setReg _ _ (fusDiodeTrim_ne_status c))
    fun t c ht => by rw [ht.trims.2]
  · rw [State.forEach_setReg_frame]
  · exact State.reg_forEach_setReg_miss _ _ _ _ _ fun k _ => fusPhyTrim_ne_status k

theorem State.trimReload_spec (s : State) (hn : s.build.nStacks ≤ 8) : let t := s.trimReload
    t = { s with regs := t.regs } ∧ (∀ k < s.build.nStacks, t.reg (A.fusPhyTrim k) = s.pegPhyTrim k) ∧
      (∀ c < 2 * s.build.nStacks, t.reg (A.fusDiodeTrim c) = s.pegDiodeTrim c) ∧
      ∀ a, (∀ k < s.build.nStacks, a ≠ A.fusPhyTrim k) → (∀ c < 2 * s.build.nStacks, a ≠ A.fusDiodeTrim c) → t.reg a = s.reg a := by
  intro t
  have ht : t = _ := s.trimReload_eq
  generalize hu : (s.forEach s.stacks fun u k => u.setReg (A.fusPhyTrim k) (s.pegPhyTrim k)) = u at ht
  have hcross : ∀ k c, k < 8 → A.fusDiodeTrim c ≠ A.fusPhyTrim k := fun k c hk => by
    change 0x008200 + c * 0x10 ≠ 0x008100 + k * 0x10; omega
  have hphy : Function.Injective A.fusPhyTrim := fun j k heq => by
    change 0x008100 + j * 0x10 = 0x008100 + k * 0x10 at heq; omega
  have hdiode : Function.Injective A.fusDiodeTrim := fun c d heq => by
    change 0x008200 + c * 0x10 = 0x008200 + d * 0x10 at heq; omega
  rw [ht]
  refine ⟨?_, fun k hk => ?_, fun c hc => ?_, fun a hk hc => ?_⟩
  · refine State.regsOnly_trans ?_ (State.forEach_setReg_frame (List.range (2 * s.build.nStacks)) A.fusDiodeTrim s.pegDiodeTrim u)
    rw [← hu]
    exact State.forEach_setReg_frame s.stacks A.fusPhyTrim s.pegPhyTrim s
  · rw [State.reg_forEach_setReg_miss _ _ _ _ _ fun c _ => hcross k c (by omega), ← hu]
    exact State.reg_forEach_setReg_hit _ _ k _ _ hphy (List.mem_range.2 hk)
  · exact State.reg_forEach_setReg_hit _ _ c _ _ hdiode (List.mem_range.2 hc)
  · rw [State.reg_forEach_setReg_miss _ _ _ _ _ fun c hmem => (hc c (List.mem_range.1 hmem)).symm, ← hu]
    exact State.reg_forEach_setReg_miss _ _ _ _ _ fun k hmem => (hk k (List.mem_range.1 hmem)).symm

theorem State.commitRefused_iff (s : State) : s.commitRefused = true ↔ s.power ≠ .active ∨ s.flag F.fusStatus_COMMIT_BUSY = true ∨
    ∃ k < s.build.nStacks, s.reg (A.fusPhyTrim k) ≠ s.reg (A.fusPhyTrimActive k) ∧
      (s.flag (F.phyFreqStatus_BUSY k) = true ∨ s.flag (F.phyFreqStatus_CHAIN k) = true) := by
  simp [State.commitRefused, State.phyDiffs, State.stacks, or_assoc]

/-- The diode trims of the shadows are taken. -/
def State.diodesTaken (s : State) (l : List Nat) : State :=
  s.forEach l fun s c => s.setReg (A.fusDiodeTrimActive c) (s.reg (A.fusDiodeTrim c))

theorem State.diodesTaken_eq (s : State) (l : List Nat) : s.diodesTaken l =
    s.forEach l fun u c => u.setReg (A.fusDiodeTrimActive c) (s.reg (A.fusDiodeTrim c)) := by
  refine State.forEach_congr_on (fun t => ∀ c, t.reg (A.fusDiodeTrim c) = s.reg (A.fusDiodeTrim c)) _ _ _ _ (fun _ => rfl)
    (fun t c ht d => ?_) fun t c ht => by rw [ht c]
  have hne : A.fusDiodeTrimActive c ≠ A.fusDiodeTrim d := by change 0x008208 + c * 0x10 ≠ 0x008200 + d * 0x10; omega
  rw [State.reg_setReg, if_neg hne]
  exact ht d

theorem State.reg_diodesTaken (s : State) (c : Nat) (hc : c < 2 * s.build.nStacks) :
    (s.diodesTaken s.diodeDiffs).reg (A.fusDiodeTrimActive c) = s.reg (A.fusDiodeTrim c) := by
  have hinj : Function.Injective A.fusDiodeTrimActive := fun c d heq => by
    change 0x008208 + c * 0x10 = 0x008208 + d * 0x10 at heq; omega
  rw [s.diodesTaken_eq]
  by_cases hmem : c ∈ s.diodeDiffs
  · exact State.reg_forEach_setReg_hit _ _ c _ _ hinj hmem
  · rw [State.reg_forEach_setReg_miss _ _ _ _ _ fun d hd heq => hmem (by rwa [← hinj heq])]
    refine Classical.byContradiction fun hne => hmem (List.mem_filter.2 ⟨?_, by simpa using Ne.symm hne⟩)
    unfold State.stacks
    rw [flatMap_stackDiodes]
    exact List.mem_range.2 hc

/-- A commit with no stack to hold ends at once. -/
theorem State.trimProceed_free (s : State) (hbusy : s.flag F.fusStatus_COMMIT_BUSY = true) (hheld : s.trimHeld = []) :
    s.trimProceed = ((s.diodesTaken s.diodeDiffs).fset F.fusStatus_COMMIT_BUSY 0).post 0x0418 0 0 (maskOf s.diodeDiffs) := by
  unfold State.trimProceed
  rw [hheld, hbusy]
  rfl

/-- What a trim commit reads beside COMMIT_BUSY. -/
theorem State.trim_raise (s : State) : (s.raise F.fusStatus_COMMIT_BUSY).phyDiffs = s.phyDiffs ∧
    (s.raise F.fusStatus_COMMIT_BUSY).diodeDiffs = s.diodeDiffs ∧ (s.raise F.fusStatus_COMMIT_BUSY).trimHeld = s.trimHeld := by
  have hreg : ∀ a, A.fusStatus ≠ a → (s.raise F.fusStatus_COMMIT_BUSY).reg a = s.reg a := fun a ha => s.reg_fset_other F.fusStatus_COMMIT_BUSY 1 a ha
  have hphy : ∀ k, A.fusStatus ≠ A.fusPhyTrimActive k := fun k => by change 0x008010 ≠ 0x008108 + k * 0x10; omega
  have hdiode : ∀ c, A.fusStatus ≠ A.fusDiodeTrimActive c := fun c => by change 0x008010 ≠ 0x008208 + c * 0x10; omega
  refine ⟨?_, ?_, rfl⟩
  · unfold State.phyDiffs
    simp only [hreg _ (fusPhyTrim_ne_status _).symm, hreg _ (hphy _)]
    rfl
  · unfold State.diodeDiffs
    simp only [hreg _ (fusDiodeTrim_ne_status _).symm, hreg _ (hdiode _)]
    rfl

/-- A commit of diode trims alone. -/
theorem State.trimCommit_diodes (s : State) (hok : s.commitRefused = false) (hphy : s.phyDiffs = []) (hheld : s.trimHeld = []) :
    let t := s.trimCommit
    t = { s.post 0x0418 0 0 (maskOf s.diodeDiffs) with regs := t.regs } ∧ t.flag F.fusStatus_COMMIT_BUSY = false ∧
      ∀ c < 2 * s.build.nStacks, t.reg (A.fusDiodeTrimActive c) = s.reg (A.fusDiodeTrim c) := by
  obtain ⟨_, hdiffs, hheld'⟩ := s.trim_raise
  generalize hb : s.raise F.fusStatus_COMMIT_BUSY = b at hdiffs hheld'
  have hbusy : b.flag F.fusStatus_COMMIT_BUSY = true := hb ▸ s.flag_raise _ (by decide)
  have htrims : ∀ c, b.reg (A.fusDiodeTrim c) = s.reg (A.fusDiodeTrim c) := fun c => by
    rw [← hb]
    exact s.reg_fset_other F.fusStatus_COMMIT_BUSY 1 _ (fusDiodeTrim_ne_status c).symm
  have hbuild : b.build = s.build := by rw [← hb]; rfl
  have htaken := b.reg_diodesTaken
  have hframe : s.RegsOnly ((b.diodesTaken b.diodeDiffs).fset F.fusStatus_COMMIT_BUSY 0) := by
    have hdiodes : b.RegsOnly (b.diodesTaken b.diodeDiffs) := by
      rw [b.diodesTaken_eq]; exact State.forEach_setReg_frame b.diodeDiffs A.fusDiodeTrimActive (fun c => b.reg (A.fusDiodeTrim c)) b
    exact State.RegsOnly.fset (State.regsOnly_trans (hb ▸ rfl) hdiodes) _ _
  generalize hv : (b.diodesTaken b.diodeDiffs).fset F.fusStatus_COMMIT_BUSY 0 = v at hframe
  have hend : s.trimCommit = v.post 0x0418 0 0 (maskOf s.diodeDiffs) := by
    unfold State.trimCommit
    rw [if_neg (by rw [hok]; decide), hphy, State.forEach_nil, hb, b.trimProceed_free hbusy (hheld'.trans hheld), hv, hdiffs]
  intro t
  have ht : t = v.post 0x0418 0 0 (maskOf s.diodeDiffs) := hend
  have hclear : v.flag F.fusStatus_COMMIT_BUSY = false := by
    rw [← hv]; exact State.flag_fset_bit _ F.fusStatus_COMMIT_BUSY false (by decide) rfl
  refine ⟨?_, ?_, fun c hc => ?_⟩
  · rw [ht, hframe]
    unfold State.post
    split <;> rfl
  · rw [ht, State.flag_of_reg (State.reg_post v _ _ _ _ A.fusStatus (by decide))]
    exact hclear
  · rw [ht, State.reg_post _ _ _ _ _ _ (by change 0x008208 + c * 0x10 ≠ 0x000320; omega), ← hv,
      State.reg_fset_other _ F.fusStatus_COMMIT_BUSY _ _ (by change 0x008010 ≠ 0x008208 + c * 0x10; omega), htaken c (hbuild ▸ hc), htrims]

theorem exec_trimReload_ready (s : State) (h : s.cpReady) : exec .trimReload s = .next s.cpOk.trimReload :=
  s.cpDo_ready _ (fun u => u.trimReload) h

theorem exec_trimCommit_ready (s : State) (h : s.cpReady) : exec .trimCommit s = .next s.cpOk.trimCommit :=
  s.cpDo_ready _ (fun u => u.trimCommit) h

/-- Settles O59. -/
theorem thermalAndFuses : Obligations.ThermalAndFuses := by
  unfold Obligations.ThermalAndFuses
  refine ⟨fun d r ro s => ⟨fun hdead => ?_, fun hon => exec_thermalSample_on d r ro s hon, s.fget_rtcTick, fun c t => s.sets_convert c.val t,
      fun c v hv => ⟨fun hfault => ?_, fun hfault hignore => ?_, fun hfault hignore => ?_⟩,
      fun c hc _ htrip hn hcount hhot hless => s.sets_tripCheck c hc htrip hn hcount hhot hless, fun htrip => if_pos htrip,
      fun k was hopen => ⟨s.windowCheck_closes k.val was hopen, s.windowCheck_stays k.val was hopen⟩, fun k h0 h1 => ?_,
      fun i raw => ⟨s.thermistor_over i.val raw, s.thermistor_clears i.val raw⟩⟩,
    fun w s h => ?_, fun s => ⟨fun hno => ?_, fun hbusy hup => ?_⟩, fun s h hn => ⟨?_, fun hrefused => ?_, fun hok => ?_, fun hok hphy hheld => ?_⟩⟩
  · exact congrArg Host.Outcome.next (if_neg (by simp [State.droneOn, hdead]))
  · rw [s.convert_fails c.val v hv, if_pos hfault]
  · rw [s.convert_fails c.val v hv, s.ignore_raise_fault, hfault, hignore]
    exact s.sets_raise_alone _ (Fld.ok_mk (by decide))
  · rw [s.convert_fails c.val v hv, s.ignore_raise_fault, hfault, hignore]
    refine State.sets_post _ _ _ _ _ _ _ (List.forall_mem_singleton.2 ?_) (s.sets_raise_alone _ (Fld.ok_mk (by decide)))
    change 0x006100 + c.val * 0x8 ≠ 0x000320
    omega
  · intro t h now
    rw [s.nextLevel_counted k.val h0 h1]
    exact level_cases t h now (Int.natCast_nonneg _)
  · intro target san pend refused
    rw [exec_lcCmd_ready w s h, State.lcCmd_eq, show w.toNat.testBit 63 = w.getLsbD 63 from BitVec.testBit_toNat w,
      show w.toNat.testBit 2 = san from BitVec.testBit_toNat w]
    have hrefused : s.cpOk.lcRefused target san = true ↔ refused := s.cpOk.lcRefused_iff target san
    refine ⟨fun hgo => ?_, fun hgo hr => ⟨_, rfl, ?_⟩, fun hgo hr => ⟨_, rfl, ?_⟩⟩
    · rw [hgo]; rfl
    · rw [hgo, if_neg (by decide), if_pos (hrefused.2 hr)]
      exact State.sets_raise_alone _ _ (by decide)
    · rw [hgo, if_neg (by decide), if_neg (fun hx => hr (hrefused.1 hx))]
      exact State.sets_congr _ _ _ _ _ (s.cpOk.sets_lcTaken target san (Nat.mod_lt _ (by decide))) rfl
        (by rw [(s.cpOk.sets_lcTaken target san (Nat.mod_lt _ (by decide))).1]; rfl)
  · refine congrArg Host.Outcome.next (if_neg ?_)
    rcases hno with h | h <;> simp [h]
  · refine ⟨_, congrArg Host.Outcome.next (if_pos (by simp [hbusy, hup])), ?_⟩
    exact State.sets_congr _ _ _ _ _ ((s.setPeg 3 (s.pegWord 3 ||| s.prog)).sets_fset_alone F.fusStatus_PROG_BUSY 0 (by decide) (by decide)) rfl rfl
  · exact ⟨_, exec_trimReload_ready s h, s.cpOk.trimReload_spec hn⟩
  · exact ⟨_, exec_trimCommit_ready s h, by
      rw [State.trimCommit, if_pos (s.cpOk.commitRefused_iff.2 hrefused)]; exact State.sets_raise_alone _ _ (by decide)⟩
  · refine ⟨_, State.sets_raise_alone _ F.fusStatus_COMMIT_BUSY (by decide), ?_⟩
    rw [exec_trimCommit_ready s h, State.trimCommit, if_neg (fun hx => hok (s.cpOk.commitRefused_iff.1 hx))]
    rfl
  · have hno : s.cpOk.commitRefused = false := Bool.eq_false_iff.2 fun hx => hok (s.cpOk.commitRefused_iff.1 hx)
    exact ⟨_, exec_trimCommit_ready s h, s.cpOk.trimCommit_diodes hno hphy hheld⟩

end Sys2Proof.Machine

/-! PROOFS. What the answering of pieces and the ends of programs leave alone: the power state, the counter, the windows, the image,
and the registers of the power manager, of the reset and of NMU service. -/
namespace Sys2Proof.Machine

/-- The registers PWR.STATE, GLB.RESET_STATUS, and CTL and STATUS of the NMUs. -/
def StillReg (a : Nat) : Prop :=
  a = A.pwrState ∨ a = A.glbResetStatus ∨ (0x40000 ≤ a ∧ a < 0x50000 ∧ (a % 0x800 = 0 ∨ a % 0x800 = 0x10))

/-- `t` comes from `s` with these left alone, and, where `live`, with every program and every cached stream as it was. -/
structure State.Still (s : State) (live : Bool) (t : State) : Prop where
  power : t.power = s.power
  cadence : t.cadence = s.cadence
  windows : t.windows = s.windows
  image : t.image = s.image
  cache : t.cache = s.cache
  slots : live = true → t.slots = s.slots
  regs : ∀ a, StillReg a → t.reg a = s.reg a

theorem notStill_of_stack {a : Nat} (h : 0x100000 ≤ a) : ¬ StillReg a := fun hs => by
  simp only [StillReg, A.pwrState, A.glbResetStatus] at hs; omega

section
variable {live : Bool} {σ s t : State} {α : Type}

theorem State.Still.refl (s : State) : s.Still live s := ⟨rfl, rfl, rfl, rfl, rfl, fun _ => rfl, fun _ _ => rfl⟩

theorem State.Still.trans (h : σ.Still live s) (h' : s.Still live t) : σ.Still live t :=
  ⟨h'.power.trans h.power, h'.cadence.trans h.cadence, h'.windows.trans h.windows, h'.image.trans h.image,
    h'.cache.trans h.cache, fun hl => (h'.slots hl).trans (h.slots hl), fun a ha => (h'.regs a ha).trans (h.regs a ha)⟩

/-- An update of what is no register, nor named here. -/
theorem State.Still.upd (h : σ.Still live s) (hsame : (t.regs, t.power, t.cadence, t.windows, t.image, t.cache, t.slots) =
    (s.regs, s.power, s.cadence, s.windows, s.image, s.cache, s.slots)) : σ.Still live t := by
  obtain ⟨hregs, hpower, hcadence, hwindows, himage, hcache, hslots⟩ : t.regs = s.regs ∧ t.power = s.power ∧ t.cadence = s.cadence ∧
    t.windows = s.windows ∧ t.image = s.image ∧ t.cache = s.cache ∧ t.slots = s.slots := by simpa using hsame
  exact h.trans ⟨hpower, hcadence, hwindows, himage, hcache, fun _ => hslots, fun a _ => by unfold State.reg; rw [hregs]⟩

theorem State.Still.ite {c : Prop} [Decidable c] (h : σ.Still live s) (h' : σ.Still live t) : σ.Still live (if c then s else t) := by
  split <;> assumption

theorem State.Still.forEach {f : State → α → State} (l : List α) (h : σ.Still live s) (hf : ∀ u a, σ.Still live u → σ.Still live (f u a)) :
    σ.Still live (s.forEach l f) := by
  unfold State.forEach
  induction l generalizing s with
  | nil => exact h
  | cons a l ih => exact ih (hf s a h)

theorem State.Still.setReg (h : σ.Still live s) (a : Nat) (w : Word) (ha : ¬ StillReg a) : σ.Still live (s.setReg a w) :=
  h.trans ⟨rfl, rfl, rfl, rfl, rfl, fun _ => rfl, fun b hb => by rw [State.reg_setReg, if_neg fun heq : a = b => ha (heq ▸ hb)]⟩

theorem State.Still.fset (h : σ.Still live s) (f : Fld) (v : Nat) (hf : ¬ StillReg f.addr) : σ.Still live (s.fset f v) := h.setReg _ _ hf
theorem State.Still.raise (h : σ.Still live s) (f : Fld) (hf : ¬ StillReg f.addr) : σ.Still live (s.raise f) := h.fset f 1 hf
theorem State.Still.count (h : σ.Still live s) (f : Fld) (n : Nat) (hf : ¬ StillReg f.addr) : σ.Still live (s.count f n) := h.fset f _ hf
theorem State.Still.countSat (h : σ.Still live s) (f : Fld) (n : Nat) (hf : ¬ StillReg f.addr) : σ.Still live (s.countSat f n) := h.fset f _ hf
theorem State.Still.setMaskBit (h : σ.Still live s) (f : Fld) (i : Nat) (b : Bool) (hf : ¬ StillReg f.addr) : σ.Still live (s.setMaskBit f i b) :=
  h.fset f _ hf

theorem State.Still.post (h : σ.Still live s) (c u x y : Nat) : σ.Still live (s.post c u x y) := by
  unfold State.post
  have hdropped := h.countSat F.glbEvStatus_DROPPED 1
    (by simp only [StillReg, F.glbEvStatus_DROPPED, A.glbEvStatus, A.pwrState, A.glbResetStatus]; omega)
  exact .ite (h.upd rfl) (hdropped.upd rfl)

/-! ### Answers -/

theorem State.Still.modReq (h : σ.Still live s) (i : Nat) (f : Req → Req) : σ.Still live (s.modReq i f) := by
  unfold State.modReq
  split
  · exact h.upd rfl
  · exact h

theorem State.Still.flitSent (h : σ.Still live s) (f : Flit) : σ.Still live (s.flitSent f) := by
  unfold State.flitSent
  split
  · exact .ite (h.countSat _ _ (by
      simp only [StillReg, F.trfLabelStat_LATE, A.trfLabelStat, A.pwrState, A.glbResetStatus]; omega)) h
  · exact h

theorem State.Still.pushFlit (h : σ.Still live s) (n : Nat) (f : Flit) : σ.Still live (s.pushFlit n f) :=
  have hport : σ.Still live (s.modPort n fun p =>
      { p with rsq := p.rsq ++ [f], since := if (s.port n).rsq == [] then s.cadence else p.since }) := h.upd rfl
  .ite (hport.flitSent f) hport

theorem State.Still.sendFlit (h : σ.Still live s) (id : Nat) : σ.Still live (s.sendFlit id) := by
  unfold State.sendFlit
  split
  · exact h
  · split
    · exact h
    next n _ => exact .ite h (.ite ((h.pushFlit n _).upd rfl) ((h.pushFlit n _).upd rfl))

theorem State.Still.sendFlits (h : σ.Still live s) (id : Nat) : σ.Still live (s.sendFlits id) := by
  unfold State.sendFlits
  split
  · exact h
  · exact h.forEach _ fun u _ hu => hu.sendFlit id

theorem State.Still.sampleWritten (h : σ.Still live s) (id : Nat) : σ.Still live (s.sampleWritten id) := by
  have hdrop : σ.Still live (s.dropReq id) := h.upd rfl
  unfold State.sampleWritten
  split
  · exact h
  · split
    · exact hdrop
    · exact hdrop.post _ _ _ _
    · exact hdrop.post _ _ _ _
    · exact h

theorem State.Still.workWritten (h : σ.Still live s) (id : Nat) : σ.Still live (s.workWritten id) := by
  unfold State.workWritten
  split
  · exact h
  · split
    · refine .ite h ?_
      split
      · exact h.upd rfl
      · exact .ite h (h.upd rfl)
    · exact h

theorem State.Still.ownWritten (h : σ.Still live s) (id : Nat) : σ.Still live (s.ownWritten id) := (h.sampleWritten id).workWritten id
theorem State.Still.answered (h : σ.Still live s) (id : Nat) : σ.Still live (s.answered id) := (h.sendFlits id).ownWritten id
theorem State.Still.setAtom (h : σ.Still live s) (id i : Nat) (r : AtomRes) : σ.Still live (s.setAtom id i r) := (h.modReq id _).answered id
theorem State.Still.setVisible (h : σ.Still live s) (id i : Nat) : σ.Still live (s.setVisible id i) := (h.modReq id _).ownWritten id

theorem State.Still.setOpenAtoms (h : σ.Still live s) (q : Piece) (r : AtomRes) : σ.Still live (s.setOpenAtoms q r) := by
  refine h.forEach _ fun u i hu => ?_
  split
  · exact hu
  · exact .ite (hu.setAtom _ _ r) hu

theorem State.Still.loseWrite (h : σ.Still live s) (q : Piece) : σ.Still live (s.loseWrite q) :=
  .ite h (h.forEach _ fun _ _ hu => hu.setAtom _ _ _)

theorem State.Still.answer (h : σ.Still live s) (q : Piece) (i : Nat) (r : AtomRes) : σ.Still live (s.answer q i r) := .ite h (h.setAtom _ _ r)

/-! ### The PCC's buffer -/

theorem State.Still.modPcc (h : σ.Still live s) (k p : Nat) (f : Pcc → Pcc) : σ.Still live (s.modPcc k p f) := h.upd rfl
theorem State.Still.modPiece (h : σ.Still live s) (k p id : Nat) (f : Piece → Piece) : σ.Still live (s.modPiece k p id f) := h.upd rfl
theorem State.Still.retire (h : σ.Still live s) (k p id : Nat) : σ.Still live (s.retire k p id) := h.upd rfl

theorem State.Still.losePcc (h : σ.Still live s) (k p l : Nat) : σ.Still live (s.losePcc k p l) := by
  unfold State.losePcc
  refine State.Still.modPcc (.forEach _ (.forEach _ (h.forEach _ fun u q hu => (hu.setOpenAtoms q _).loseWrite q) fun u m hu => ?_)
    fun u q hu => hu.retire k p q.id) k p _
  exact .ite hu (hu.setAtom _ _ _)

theorem State.Still.take (h : σ.Still live s) (k p : Nat) (q : Piece) (i : Nat) (d : Atom) (poison lost : Bool) :
    σ.Still live (s.take k p q i d poison lost) := by
  unfold State.take
  split
  · exact .ite ((h.answer q i _).modPiece k p _ _) (h.modPiece k p _ _)
  · exact .ite h (h.modPiece k p _ _)
  · exact h.modPiece k p _ _
  · exact h.modPcc k p _
  · exact h.modPcc k p _
  · exact h.modPcc k p _
  · exact h.answer q i _

theorem State.Still.takeAll (h : σ.Still live s) (k p : Nat) (q : Piece) (l : List (Nat × Atom × Bool)) : σ.Still live (s.takeAll k p q l) :=
  h.forEach l fun _ e hu => hu.take k p q e.1 e.2.1 e.2.2 false

theorem State.Still.modeRise (h : σ.Still live s) (k p : Nat) : σ.Still live (s.modeRise k p) := .ite (h.modPcc k p _) h
theorem State.Still.pushOwn (h : σ.Still live s) (k p : Nat) (q : Piece) : σ.Still live (s.pushOwn k p q) := h.upd rfl

theorem State.Still.startFill (h : σ.Still live s) (k p : Nat) (q : Piece) (l : Nat) (upds : List ZUpd) (hs : s.startFill k p q l upds = some t) :
    σ.Still live t := by
  unfold State.startFill at hs
  extract_lets c at hs
  by_cases hfree : c.freeLines < (if q.cls = 7 then 1 else 2)
  · rw [if_pos hfree] at hs; cases hs
  · rw [if_neg hfree] at hs
    obtain ⟨c', _, rfl⟩ := Option.map_eq_some_iff.1 hs
    exact State.Still.pushOwn (s := s.setPcc k p c') (h.upd rfl) k p _

theorem State.Still.zWrite (h : σ.Still live s) (k p : Nat) (q : Piece) (u : Nat) (v : Bool) (hs : s.zWrite k p q u v = some t) : σ.Still live t := by
  unfold State.zWrite at hs
  dsimp only at hs
  split at hs
  · cases hs; exact h
  · split at hs
    · split at hs
      · split at hs
        · cases hs
        · cases hs; exact h.upd rfl
      · split at hs
        · cases hs; exact h.upd rfl
        · split at hs
          · cases hs
          · cases hs; exact h.upd rfl
    · split at hs
      · cases hs
      · exact h.startFill k p q _ _ hs

theorem State.Still.mapWrites (h : σ.Still live s) (k p : Nat) (q : Piece) : σ.Still live (s.mapWrites k p q) := by
  refine h.forEach _ fun u i hu => ?_
  split
  next v hv => exact (hu.zWrite k p q _ _ hv).modPiece k p _ _
  · exact hu

theorem State.Still.elide (h : σ.Still live s) (k p : Nat) (q : Piece) : σ.Still live (s.elide k p q) :=
  have hcount : σ.Still live (s.count (F.pccZmElidedWr_COUNT k p) (q.todo.filter fun i => s.elides k p q i).length) :=
    h.count _ _ (notStill_of_stack (by change 0x100000 ≤ 0x108040 + k * 0x20000 + p * 0x200; omega))
  hcount.upd rfl

theorem State.Still.fretRemoved (h : σ.Still live s) (k p id : Nat) : σ.Still live (s.fretRemoved k p id) := by
  unfold State.fretRemoved
  split
  · exact h
  next f _ =>
    exact (h.setReg _ _ (notStill_of_stack (by change 0x100000 ≤ 0x108140 + k * 0x20000 + p * 0x200 + f.entry * 0x8; omega))).modPcc k p _

theorem State.Still.finishPiece (h : σ.Still live s) (k p : Nat) (q : Piece) : σ.Still live (s.finishPiece k p q) := by
  have hretire := h.retire k p q.id
  have hread : σ.Still live (match ((s.retire k p q.id).pcc k p).fretJob q.id with
      | some f => (s.retire k p q.id).fretWrite k p q f
      | none => s.retire k p q.id) := by
    split
    · exact hretire.upd rfl
    · exact hretire
  unfold State.finishPiece
  split
  · exact hread
  · exact hread
  · exact hretire.upd rfl
  · exact hretire.fretRemoved k p q.id
  · exact .ite hretire (.ite (h.upd rfl) (h.upd rfl))
  · exact .ite hretire (.ite (h.upd rfl) (h.upd rfl))
  · exact .ite hretire (.ite (h.upd rfl) (h.upd rfl))
  · exact hretire

theorem State.Still.settle (h : σ.Still live s) (k p id : Nat) : σ.Still live (s.settle k p id) := by
  unfold State.settle
  split
  · exact h
  next q _ => exact .ite h (.ite (h.upd rfl) (.ite (h.upd rfl) (h.finishPiece k p q)))

theorem State.Still.startWrites (h : σ.Still live s) (k p id : Nat) : σ.Still live (s.startWrites k p id) := by
  unfold State.startWrites
  split
  · exact h
  next q _ =>
    have helide := h.elide k p q
    dsimp only
    split
    next q' _ => exact ((helide.mapWrites k p q').settle k p id).modeRise k p
    · exact (helide.settle k p id).modeRise k p

theorem State.Still.goOn (h : σ.Still live s) (k p id : Nat) : σ.Still live (s.goOn k p id) := by
  have hsettle := h.settle k p id
  unfold State.goOn
  dsimp only
  split
  · exact .ite (hsettle.startWrites k p id) hsettle
  · split
    · exact .ite (hsettle.startWrites k p _) hsettle
    · exact hsettle

/-! ### Reads, merges and the end of a train -/

/-- A counter of a PCC. -/
theorem State.Still.countPcc (h : σ.Still live s) (f : Fld) (n : Nat) (hf : 0x100000 ≤ f.addr) : σ.Still live (s.count f n) :=
  h.count f n (notStill_of_stack hf)

theorem State.Still.evalRead (h : σ.Still live s) (k p : Nat) (q : Piece) : σ.Still live (s.evalRead k p q) := by
  have hmisses : ∀ {u : State}, σ.Still live u → σ.Still live (if q.kind = .read then u.count (F.pccZmMisses_COUNT k p) 1 else u) := fun hu =>
    .ite (hu.countPcc _ _ (by change 0x100000 ≤ 0x108050 + k * 0x20000 + p * 0x200; omega)) hu
  have helided : ∀ {u : State} (n : Nat), σ.Still live u → σ.Still live (if q.kind = .read then u.count (F.pccZmElidedRd_COUNT k p) n else u) :=
    fun n hu => .ite (hu.countPcc _ _ (by change 0x100000 ≤ 0x108048 + k * 0x20000 + p * 0x200; omega)) hu
  unfold State.evalRead
  extract_lets c fw rest lost need s1 s2
  have h1 : σ.Still live s1 := (h.takeAll k p q fw).countPcc _ _ (by change 0x100000 ≤ 0x108068 + k * 0x20000 + p * 0x200; omega)
  have h2 : σ.Still live s2 := h1.forEach _ fun u i hu => hu.take k p q i 0 true _
  clear_value s2
  refine .ite ((h2.modPiece k p _ _).goOn k p _) ?_
  split
  next z _ =>
    refine .ite (h2.upd rfl) ?_
    exact State.Still.goOn (State.Still.modPiece (State.Still.modPcc (helided _ (h2.takeAll k p q _)) k p _) k p _ _) k p _
  next =>
    split
    next v hv =>
      have hfilled := hmisses (h2.startFill k p q _ _ hv)
      exact hfilled.upd rfl
    · exact h2.upd rfl

theorem State.Still.mergeStart (h : σ.Still live s) (k p : Nat) (m : Merge) : σ.Still live (s.mergeStart k p m) := by
  unfold State.mergeStart
  split
  · exact .ite (h.modPcc k p _) h
  · exact (h.modPcc k p _).evalRead k p _

theorem State.Still.takePartial (h : σ.Still live s) (k p : Nat) (q : Piece) : σ.Still live (s.takePartial k p q) := by
  unfold State.takePartial
  refine .ite ?_ h
  exact .forEach _ (.forEach _ ((h.retire k p _).modPcc k p _) fun _ m hu => hu.mergeStart k p m) fun _ i hu => hu.setVisible _ _

theorem State.Still.trainDone (h : σ.Still live s) (k p : Nat) (q : Piece) : σ.Still live (s.trainDone k p q) :=
  State.Still.forEach _ ((h.modPcc k p _).goOn k p q.id) fun _ q hu => hu.takePartial k p q

/-! ### The ends of programs and jobs -/

theorem State.Still.modCtx (h : σ.Still live s) (c : Nat) (f : Ctx → Ctx) : σ.Still live (s.modCtx c f) := by
  unfold State.modCtx
  split
  · exact h.upd rfl
  · exact h

theorem State.Still.ownDrop (h : σ.Still live s) (o : Own) : σ.Still live (s.ownDrop o) := by
  unfold State.ownDrop
  split
  · exact h
  · exact h.upd rfl

theorem notStill_chkStatus (u : Nat) : ¬ StillReg (A.chkStatus u) := fun hs => by
  simp only [StillReg, A.pwrState, A.glbResetStatus, A.chkStatus] at hs; omega

theorem State.Still.modSlot (h : σ.Still false s) (n : Nat) (f : Slot → Slot) : σ.Still false (s.modSlot n f) :=
  h.trans ⟨rfl, rfl, rfl, rfl, rfl, fun hl => absurd hl (by decide), fun _ _ => rfl⟩

theorem State.Still.unitsFreed (h : σ.Still false s) (c : Nat) : σ.Still false (s.unitsFreed c) :=
  h.forEach _ fun u i hu => .ite (State.Still.fset (.fset (s := u.setChk i Chk.init) (hu.upd rfl) _ 0 (notStill_chkStatus i)) _ 0
    (notStill_chkStatus i)) hu

theorem State.Still.finish (h : σ.Still false s) (n : Nat) (e : Ending) : σ.Still false (s.finish n e) := by
  have hun : σ.Still false (s.unqueued n) := h.upd rfl
  have hended : ∀ c, σ.Still false ((s.unqueued n).ctxEnded c) := fun c => ((hun.unitsFreed c).ownDrop _).modCtx c _
  rw [State.finish_eq]
  split
  · exact hun.modSlot n _
  · exact (hended _).modSlot n _

theorem State.Still.dropJob (h : σ.Still false s) (id : Nat) : σ.Still false (s.dropJob id) := h.upd rfl

theorem State.Still.jobTrap (h : σ.Still false s) (id : Nat) (j : Job) (x : Trap) : σ.Still false (s.jobTrap id j x) := by
  have hdrop := h.dropJob id
  exact .ite (hdrop.modCtx _ _) (.ite hdrop (hdrop.finish _ _))

theorem State.Still.haltJobs (h : σ.Still false s) (cause : Nat) (p : Nat → Job → Option Nat) : σ.Still false (s.haltJobs cause p) := by
  refine h.forEach _ fun u e hu => ?_
  split
  · exact hu.jobTrap _ _ _
  · exact hu

end
end Sys2Proof.Machine

/-! PROOFS. What training, lost PCs, holds and migrations leave alone. -/
namespace Sys2Proof.Machine

section
variable {live : Bool} {σ s t : State}

/-- A register of a stack. -/
theorem State.Still.fsetStk (h : σ.Still live s) (f : Fld) (v : Nat) (hf : 0x100000 ≤ f.addr) : σ.Still live (s.fset f v) :=
  h.fset f v (notStill_of_stack hf)

theorem notStill_arbStkHardMax (k : Nat) : ¬ StillReg (A.arbStkHardMax k) := fun hs => by
  simp only [StillReg, A.pwrState, A.glbResetStatus, A.arbStkHardMax] at hs; omega

theorem State.Still.settleOutput (h : σ.Still live s) (k p : Nat) : σ.Still live (s.settleOutput k p) := by
  unfold State.settleOutput
  dsimp only
  split
  · exact .ite (h.upd rfl) h
  · split
    · exact h
    · exact h.upd rfl
    next o _ _ => exact State.Still.fset (s := s.setOut k p { s.out k p with st := .run }) (h.upd rfl) _ _ (notStill_arbStkHardMax k)

theorem State.Still.modOut (h : σ.Still live s) (k p : Nat) (f : Output → Output) : σ.Still live (s.modOut k p f) := h.upd rfl
theorem State.Still.freeIng (h : σ.Still live s) (k : Nat) (x : HwHold) (p : Nat) : σ.Still live (s.freeIng k x p) := (h.modOut k p _).settleOutput k p
theorem State.Still.holdIng (h : σ.Still live s) (k : Nat) (x : HwHold) (p : Nat) : σ.Still live (s.holdIng k x p) := (h.modOut k p _).settleOutput k p

theorem State.Still.freeStack (h : σ.Still live s) (k : Nat) (x : HwHold) : σ.Still live (s.freeStack k x) :=
  h.forEach _ fun _ p hu => (hu.freeIng k x p).modOut k p _

theorem State.Still.holdStack (h : σ.Still live s) (k : Nat) (x : HwHold) : σ.Still live (s.holdStack k x) :=
  h.forEach _ fun _ p hu => (hu.holdIng k x p).modOut k p _

theorem State.Still.holdMig (h : σ.Still live s) (k : Nat) : σ.Still live (s.holdMig k) := by
  unfold State.holdMig
  split
  · exact h
  · exact .ite (h.holdIng k _ _) (.ite ((h.holdIng k _ _).holdIng k _ _) h)

/-! ### Lost PCs -/

theorem State.Still.setMig (h : σ.Still live s) (k : Nat) (m : Option Mig) : σ.Still live (s.setMig k m) := h.upd rfl

theorem State.Still.endMig (h : σ.Still live s) (k : Nat) : σ.Still live (s.endMig k) := by
  unfold State.endMig
  split
  · exact h
  · have hcleared := ((h.setMig k none).fsetStk (F.migStatus_ACTIVE k) 0 (by change 0x100000 ≤ 0x102228 + k * 0x20000; omega)).fsetStk
      (F.bowStatus_COPY k) 0 (by change 0x100000 ≤ 0x103018 + k * 0x20000; omega)
    exact (((hcleared.ownDrop _).ownDrop _).freeIng k _ _).freeIng k _ _

/-- The entry of the PC map shows the loss, which is posted, and a pending retirement of it is dropped. -/
def State.lpcGone (s : State) (k l cause : Nat) : State :=
  let p := s.fget (F.pcmapEntry_PPC k l)
  ((s.fset (F.pcmapEntry_STATE k l) 3).post 0x0307 (unitPc k p) (argPc k p) cause).setMaskBit (F.migPending_MASK k) l false

theorem State.loseLpc_eq (s : State) (k l cause : Nat) : s.loseLpc k l cause =
    if s.fget (F.pcmapEntry_STATE k l) = 3 then s
    else
      let u := (s.lpcGone k l cause).losePcc k (s.fget (F.pcmapEntry_PPC k l)) l
      match u.mig k with
      | some m => if m.lpc = l then (u.losePcc k m.dst l).endMig k else u
      | none => u := by
  rfl

theorem State.Still.lpcGone (h : σ.Still live s) (k l cause : Nat) : σ.Still live (s.lpcGone k l cause) :=
  ((h.fsetStk _ _ (by change 0x100000 ≤ 0x102000 + k * 0x20000 + l * 0x8; omega)).post _ _ _ _).setMaskBit _ _ _
    (notStill_of_stack (by change 0x100000 ≤ 0x102230 + k * 0x20000; omega))

theorem State.Still.loseLpc (h : σ.Still live s) (k l cause : Nat) : σ.Still live (s.loseLpc k l cause) := by
  have hlost := (h.lpcGone k l cause).losePcc k (s.fget (F.pcmapEntry_PPC k l)) l
  rw [State.loseLpc_eq]
  refine .ite h ?_
  dsimp only
  split
  · exact .ite ((hlost.losePcc k _ l).endMig k) hlost
  · exact hlost

theorem State.Still.losePhysical (h : σ.Still live s) (k p cause : Nat) : σ.Still live (s.losePhysical k p cause) := by
  unfold State.losePhysical
  split
  · exact h.losePcc k p 64
  · split
    · exact .ite ((h.setMig k _).losePcc k p _) (h.loseLpc k _ cause)
    · exact h.loseLpc k _ cause

/-! ### Training -/

/-- What sparing a lane changes: the lane map, the events and the count of drops. -/
theorem State.spareLane_cases (s t : State) (f : LaneFail) (hs : s.spareLane f = some t) : ∃ g h v i, 0x100000 ≤ Fld.addr g ∧ 0x100000 ≤ Fld.addr h ∧
    t = ((s.raise g).fset h v).laneEvent f i := by
  unfold State.spareLane at hs
  dsimp only at hs
  have haddr : ∀ k c, 0x100000 ≤ A.phyLaneMap k c := fun k c => by change 0x100000 ≤ 0x104180 + k * 0x20000 + c * 0x8; omega
  split at hs
  · split at hs
    · cases hs
    · cases hs; exact ⟨_, _, _, _, haddr f.stack (f.pc / 2), haddr f.stack (f.pc / 2), rfl⟩
  · split at hs
    · cases hs
    next i _ =>
      cases hs
      refine ⟨_, _, _, _, ?_, ?_, rfl⟩
      all_goals
        unfold spareFields
        dsimp only
        split <;> split <;> exact haddr _ _

theorem State.Still.spareLane (h : σ.Still live s) (f : LaneFail) (hs : s.spareLane f = some t) : σ.Still live t := by
  obtain ⟨g, x, v, i, hg, hx, rfl⟩ := s.spareLane_cases t f hs
  exact ((h.raise g (notStill_of_stack hg)).fsetStk x v hx).post _ _ _ _

theorem State.Still.spareLanes (h : σ.Still live s) (l : List LaneFail) : σ.Still live (s.spareLanes l).1 := by
  induction l generalizing s with
  | nil => exact h
  | cons f l ih =>
    unfold State.spareLanes
    cases hs : s.spareLane f with
    | some u => exact ih (h.spareLane f hs)
    | none => exact ih h

theorem State.Still.trainAt (h : σ.Still live s) (k t : Nat) (env : TrainEnv) (apart : List Nat) : σ.Still live (s.trainAt k t env apart).1 :=
  h.spareLanes _

theorem State.Still.fallback (h : σ.Still live s) (k : Nat) (env : TrainEnv) (apart : List Nat) (left : List LaneFail) (ts : List Nat) :
    σ.Still live (s.fallback k env apart left ts).1 := by
  induction ts generalizing s left with
  | nil => exact h
  | cons t ts ih =>
    have htrain := h.trainAt k t env apart
    unfold State.fallback
    dsimp only
    split
    · exact htrain
    · exact ih htrain _

theorem State.Still.setMults (h : σ.Still live s) (m : SMap Nat) : σ.Still live { s with mults := m } := h.upd rfl

theorem State.Still.restartRefresh (h : σ.Still live s) (k : Nat) : σ.Still live (s.restartRefresh k) :=
  State.Still.setMults (h.forEach _ fun _ p hu => hu.modPcc k p Pcc.restart) _

theorem State.Still.toSet (h : σ.Still live s) (k t : Nat) : σ.Still live (s.toSet k t) :=
  (h.fsetStk _ _ (by change 0x100000 ≤ 0x104108 + k * 0x20000; omega)).restartRefresh k

theorem State.Still.chainDown (h : σ.Still live s) (k : Nat) (env : TrainEnv) (left : List LaneFail) : σ.Still live (s.chainDown k env left) := by
  have hfallen : ∀ {u : State}, σ.Still live u → σ.Still live (u.raise (F.phyFreqStatus_FALLEN k)) := fun hu =>
    hu.raise _ (notStill_of_stack (by change 0x100000 ≤ 0x104108 + k * 0x20000; omega))
  unfold State.chainDown
  extract_lets old bin r
  have hr : σ.Still live r.1 := h.fallback k env [] left _
  split
  · exact (hfallen (hr.toSet k _)).post _ _ _ _
  next apart u back _ _ =>
    have hu : σ.Still live u := hr.forEach _ fun _ e hv => hv.losePhysical k e.1 e.2
    have hback : σ.Still live back.1 := hu.fallback k env _ [] _
    split
    · exact .ite (hback.toSet k _) (hfallen (hback.toSet k _))
    · exact hu.toSet k old

theorem State.Still.writePatterns (h : σ.Still live s) (k : Nat) : σ.Still live (s.writePatterns k) := h.upd rfl

theorem State.Still.trainStack (h : σ.Still live s) (k : Nat) (env : TrainEnv) : σ.Still live (s.trainStack k env) := by
  have hinfo : ∀ {u : State} (f : Fld) (v : Nat), f.addr = A.phyStackInfo k → σ.Still live u → σ.Still live (u.fset f v) := fun f v hf hu =>
    hu.fsetStk f v (by rw [hf]; change 0x100000 ≤ 0x104118 + k * 0x20000; omega)
  have hread : σ.Still live (s.fset (F.phyStackInfo_REPORTED k) (s.reportedHeight k env)) := hinfo _ _ rfl h
  unfold State.trainStack
  refine .ite (State.Still.forEach _ (hinfo _ _ rfl hread) fun _ l hu => hu.loseLpc k l 3) ?_
  have htrain := hread.trainAt k ((s.fset (F.phyStackInfo_REPORTED k) (s.reportedHeight k env)).fget (F.phyFreqStatus_ACTIVE k)) env []
  exact State.Still.writePatterns (State.Still.restartRefresh (.ite htrain (htrain.chainDown k env _)) k) k

theorem State.Still.settleMult (h : σ.Still live s) (k : Nat) : σ.Still live (s.settleMult k) := by
  unfold State.settleMult
  exact .ite h (State.Still.setMults (h.forEach _ fun _ p hu => hu.modPcc k p _) _)

theorem State.Still.setBow (h : σ.Still live s) (k : Nat) (b : Bow) : σ.Still live (s.setBow k b) := h.upd rfl
theorem State.Still.setSalvage (h : σ.Still live s) (k p : Nat) (l : List Nat) : σ.Still live (s.setSalvage k p l) := h.upd rfl

theorem State.Still.canaryCheck (h : σ.Still live s) (k : Nat) : σ.Still live (s.canaryCheck k) :=
  State.Still.setBow (h.forEach _ fun _ p hu => hu.setReg (A.bowCanaryMask k p) 0
    (notStill_of_stack (by change 0x100000 ≤ 0x103100 + k * 0x20000 + p * 0x8; omega))) k _

/-! ### Migrations, sanitisation, levels and gates -/

theorem State.Still.clearFret (h : σ.Still live s) (k p : Nat) : σ.Still live (s.clearFret k p) :=
  h.forEach _ fun _ i hu => hu.setReg _ 0 (notStill_of_stack (by change 0x100000 ≤ 0x108140 + k * 0x20000 + p * 0x200 + i * 0x8; omega))

theorem State.Still.migStart (h : σ.Still live s) (k : Nat) (m : Mig) : σ.Still live (s.migStart k m) := by
  have hentry : 0x100000 ≤ A.pcmapEntry k m.lpc := by change 0x100000 ≤ 0x102000 + k * 0x20000 + m.lpc * 0x8; omega
  have hcopy : σ.Still live ((((s.fset (F.pcmapEntry_STATE k m.lpc) 1).fset (F.pcmapEntry_TARGET k m.lpc) m.dst).fset (F.migStatus_POINTER k) 0).raise
      (F.bowStatus_COPY k)) :=
    (((h.fsetStk _ _ hentry).fsetStk _ _ hentry).fsetStk _ _ (by change 0x100000 ≤ 0x102228 + k * 0x20000; omega)).raise _
      (notStill_of_stack (by change 0x100000 ≤ 0x103018 + k * 0x20000; omega))
  have hposted := (hcopy.post 0x0308 (unitPc k m.src) (argPc k m.src) (m.lpc + m.dst * 2 ^ 8)).setMig k (some { m with st := .copying })
  exact (hposted.setBow k _).freeIng k .retire m.src

theorem State.Still.migSwap (h : σ.Still live s) (k : Nat) (m : Mig) : σ.Still live (s.migSwap k m) := by
  have hentry : 0x100000 ≤ A.pcmapEntry k m.lpc := by change 0x100000 ≤ 0x102000 + k * 0x20000 + m.lpc * 0x8; omega
  unfold State.migSwap
  extract_lets s1 s2 s3 s4 s5
  have h1 : σ.Still live s1 := (h.fsetStk _ _ hentry).fsetStk _ _ hentry
  have h2 : σ.Still live s2 :=
    (h1.setMaskBit _ _ _ (notStill_of_stack (by change 0x100000 ≤ 0x102208 + k * 0x20000; omega))).clearFret k m.src
  have h3 : σ.Still live s3 := (h2.fsetStk _ _ (by change 0x100000 ≤ 0x108010 + k * 0x20000 + m.src * 0x200; omega)).modPcc k m.src _
  have h4 : σ.Still live s4 :=
    (h3.fsetStk _ _ (by change 0x100000 ≤ 0x108108 + k * 0x20000 + m.src * 0x200; omega)).setSalvage k m.src []
  have h5 : σ.Still live s5 := h4.fsetStk _ _ (by change 0x100000 ≤ 0x102238 + k * 0x20000; omega)
  exact (h5.post _ _ _ _).endMig k

theorem State.Still.migProceed (h : σ.Still live s) (k : Nat) : σ.Still live (s.migProceed k) := by
  unfold State.migProceed
  split
  · exact h
  next m _ => exact .ite (h.migStart k m) (.ite (h.migSwap k m) h)

theorem State.Still.sanBegin (h : σ.Still live s) (k : Nat) : σ.Still live (s.sanBegin k) := by
  have hbegun := ((h.raise (F.bowStatus_SANITISE k) (notStill_of_stack (by change 0x100000 ≤ 0x103018 + k * 0x20000; omega))).fsetStk
    (F.bowSanFail_MASK k) 0 (by change 0x100000 ≤ 0x103028 + k * 0x20000; omega)).setBow k { s.bow k with san := 0 }
  exact hbegun.forEach _ fun _ p hu => (hu.clearFret k p).modPcc k p _

theorem State.Still.scrubOn (h : σ.Still live s) : σ.Still live s.scrubOn :=
  h.forEach _ fun _ k hu => (hu.fsetStk _ _ (by change 0x100000 ≤ 0x103018 + k * 0x20000; omega)).setBow k _

theorem State.Still.scaleNote (h : σ.Still live s) (old : Nat) : σ.Still live (s.scaleNote old) := .ite h (h.post _ _ _ _)

theorem State.Still.setLevels (h : σ.Still live s) (m : SMap Nat) : σ.Still live { s with levels := m } := h.upd rfl

theorem State.Still.reportLevels (h : σ.Still live s) : σ.Still live s.reportLevels := by
  refine State.Still.scaleNote (h.forEach _ fun u k hu => ?_) _
  exact .ite hu ((hu.post _ _ _ _).setLevels _)

/-- The registers of a gate. -/
theorem notStill_gate {a g : Nat} (hg : g < 16) (h : 0x021000 + g * 0x40 ≤ a) (h' : a < 0x021000 + g * 0x40 + 0x40) : ¬ StillReg a := fun hs => by
  simp only [StillReg, A.pwrState, A.glbResetStatus] at hs; omega

theorem State.Still.setGates (h : σ.Still live s) (m : SMap GateArm) : σ.Still live { s with gates := m } := h.upd rfl

theorem State.Still.takeSwap (h : σ.Still live s) (g : Nat) (hg : g < 16) : σ.Still live (s.takeSwap g) := by
  have hstatus : ¬ StillReg (A.trfGateStatus g) := notStill_gate hg (by change _ ≤ 0x021008 + _; omega) (by change 0x021008 + _ < _; omega)
  have hbase : ¬ StillReg (A.trfGateActBase g) := notStill_gate hg (by change _ ≤ 0x021020 + _; omega) (by change 0x021020 + _ < _; omega)
  have hcfg : ¬ StillReg (A.trfGateActCfg g) := notStill_gate hg (by change _ ≤ 0x021028 + _; omega) (by change 0x021028 + _ < _; omega)
  have hswaps : ¬ StillReg (A.trfGateSwaps g) := notStill_gate hg (by change _ ≤ 0x021030 + _; omega) (by change 0x021030 + _ < _; omega)
  unfold State.takeSwap
  split
  · exact h
  · exact State.Still.setGates (State.Still.count (.fset (.fset (.fset (.fset (.fset (.raise (h.fset _ _ hstatus) _ hstatus) _ _ hstatus)
      _ _ hstatus) _ _ hbase) _ _ hcfg) _ _ hcfg) _ 1 hswaps) _

theorem State.Still.settleSwap (h : σ.Still live s) (g : Nat) (hg : g < 16) : σ.Still live (s.settleSwap g) := .ite (h.takeSwap g hg) h

theorem State.Still.holdTraining (h : σ.Still live s) : σ.Still live s.holdTraining :=
  h.forEach _ fun _ k hu => ((hu.holdMig k).holdStack k .train).forEach _ fun _ p hv => hv.modOut k p _

end
end Sys2Proof.Machine

/-! PROOFS. The Tally, the event ring and microcode data (R418 to R432, R439). -/
namespace Sys2Proof.Machine

/-! ### The Tally sweep -/

/-- A sweep asked for starts, is skipped or is refused (R422). -/
theorem State.sweepStart_spec (b : State) :
    (b.sweep ≠ none → b.sets b.sweepStart [(F.talStatus_OVERRUN, 1)]) ∧
    (b.sweep = none → b.bufferFits = false → b.sets b.sweepStart [(F.talStatus_REFUSED, 1)]) ∧
    (b.sweep = none → b.bufferFits = true → ({ b with
      sweep := some ⟨64 * b.fget F.talBufBase_BASE, 0, 0, 0, false, true⟩ } : State).sets b.sweepStart [(F.talStatus_BUSY, 1)]) := by
  unfold State.sweepStart
  refine ⟨fun hruns => ?_, fun hno hfits => ?_, fun hno hfits => ?_⟩
  · rw [if_pos (Option.isSome_iff_ne_none.2 hruns)]
    exact b.sets_raise_alone _ (by decide)
  · rw [hno, if_neg (by decide), hfits]
    exact b.sets_raise_alone _ (by decide)
  · rw [hno, if_neg (by decide), hfits]
    have hbase : (b.raise F.talStatus_BUSY).fget F.talBufBase_BASE = b.fget F.talBufBase_BASE := b.fget_fset_other _ _ _ (by decide)
    exact State.sets_congr _ _ _ _ _ (b.sets_raise_alone F.talStatus_BUSY (by decide)) rfl (by rw [← hbase]; rfl)

theorem exec_tallyPeriodic_due (s : State) (hen : s.flag F.talCfg_EN = true) (h : s.reaches s.tallyDue) :
    exec .tallyPeriodic s = .next (s.momentOf s.tallyDue).tallyPass := by
  change (if s.flag F.talCfg_EN then (match s.atCadence s.tallyDue with
    | some s => Host.Outcome.next s.tallyPass
    | none => .next s) else .next s) = _
  rw [if_pos hen, State.atCadence_reaches _ _ h]

/-- One write of the sweep is accounted for. -/
def settleOne (r : State × Sweep) (e : Nat × Req) : State × Sweep :=
  match e.2.direct with
  | .blocked => r
  | .done => (r.1.dropReq e.1, r.2)
  | _ => (r.1.dropReq e.1, { r.2 with lost := true })

theorem State.sweepSettle_eq (s : State) (w : Sweep) : s.sweepSettle w = s.sweepOut.foldl settleOne (s, w) := rfl

theorem settleOne_spec (r : State × Sweep) (e : Nat × Req) :
    (e.2.direct = .blocked → settleOne r e = r) ∧
    (settleOne r e).2 = { r.2 with lost := r.2.lost || decide (e.2.direct ≠ .blocked ∧ e.2.direct ≠ .done) } ∧
    (settleOne r e).1 = { r.1 with reqs := (settleOne r e).1.reqs } := by
  unfold settleOne
  cases e.2.direct <;> simp [State.dropReq]

theorem foldl_settleOne (l : List (Nat × Req)) (r : State × Sweep) :
    ((∀ e ∈ l, e.2.direct = .blocked) → l.foldl settleOne r = r) ∧
    (l.foldl settleOne r).2 = { r.2 with lost := r.2.lost || l.any fun e => decide (e.2.direct ≠ .blocked ∧ e.2.direct ≠ .done) } ∧
    (l.foldl settleOne r).1 = { r.1 with reqs := (l.foldl settleOne r).1.reqs } := by
  induction l generalizing r with
  | nil => exact ⟨fun _ => rfl, by simp, rfl⟩
  | cons e l ih =>
    obtain ⟨hblocked, hlost, hstate⟩ := settleOne_spec r e
    obtain ⟨ihblocked, ihlost, ihstate⟩ := ih (settleOne r e)
    refine ⟨fun hall => ?_, ?_, ?_⟩
    · rw [List.foldl_cons, ihblocked fun x hx => hall x (List.mem_cons_of_mem _ hx)]
      exact hblocked (hall e List.mem_cons_self)
    · rw [List.foldl_cons, ihlost, hlost, List.any_cons, Bool.or_assoc]
    · rw [List.foldl_cons]
      conv => lhs; rw [ihstate, hstate]

theorem State.sweepSettle_spec (s : State) (w : Sweep) :
    ((∀ e ∈ s.sweepOut, e.2.direct = .blocked) → s.sweepSettle w = (s, w)) ∧
    (s.sweepSettle w).2 = { w with lost := w.lost || s.sweepOut.any fun e => decide (e.2.direct ≠ .blocked ∧ e.2.direct ≠ .done) } ∧
    (s.sweepSettle w).1 = { s with reqs := (s.sweepSettle w).1.reqs } := by
  rw [s.sweepSettle_eq w]
  exact foldl_settleOne _ (s, w)

/-- The sweep with what has come of its writes. -/
def State.sweepSettled (s : State) (w : Sweep) : State := { (s.sweepSettle w).1 with sweep := some (s.sweepSettle w).2 }

theorem State.sweepSettled_build (s : State) (w : Sweep) : (s.sweepSettled w).build = s.build := by
  unfold State.sweepSettled
  rw [(s.sweepSettle_spec w).2.2]

/-- A running sweep's next step, by what it is to do (R423). -/
theorem State.sweepGo_running (s : State) (w : Sweep) (h : s.sweep = some w) :
    let u := s.sweepSettled w
    let w' := (s.sweepSettle w).2
    (w'.opened = true → s.sweepGo = { (u.serviceWrite (.sweep 0) w'.base (u.sweepHeader w' false) none).1 with
      sweep := some { w' with opened := false } }) ∧
    (∀ a, w'.opened = false → u.build.swept[w'.next]? = some a → s.sweepGo = u.sweepCounter w' a) ∧
    (w'.opened = false → u.build.swept[w'.next]? = none → s.sweepGo =
      if u.sweepOut != [] then u
      else if (s.ownFind (.sweep (s.build.sweptCount + 1))).isSome then u.sweepEnd w'
      else (u.serviceWrite (.sweep (s.build.sweptCount + 1)) w'.base (u.sweepHeader w' true) none).1) := by
  intro u w'
  have hgo : s.sweepGo = if w'.opened then
      { (u.serviceWrite (.sweep 0) w'.base (u.sweepHeader w' false) none).1 with sweep := some { w' with opened := false } }
    else match u.build.swept[w'.next]? with
      | some c => u.sweepCounter w' c
      | none =>
        if u.sweepOut != [] then u
        else if (s.ownFind (.sweep (s.build.sweptCount + 1))).isSome then u.sweepEnd w'
        else (u.serviceWrite (.sweep (s.build.sweptCount + 1)) w'.base (u.sweepHeader w' true) none).1 := by
    unfold State.sweepGo
    rw [h] <;> rfl
  rw [hgo]
  refine ⟨fun ho => if_pos ho, fun a ho ha => ?_, fun ho ha => ?_⟩
  · rw [ho, ha]; rfl
  · rw [ho, ha]; rfl

/-- The fields that the end of a sweep writes. -/
def Sweep.endFields (u : State) (w : Sweep) : List (Fld × Nat) :=
  [(F.talLast_CT, w.last), (F.talFirst_CT, w.first), (F.talStatus_BUSY, 0), (F.talStatus_SEQ, u.fget F.talStatus_SEQ + 1)]

theorem Fld.cut_eq (f : Fld) (v n : Nat) (h : f.hi + 1 - f.lo = n) : Fld.cut (f, v) = (f, v % 2 ^ n) := by unfold Fld.cut; rw [h]

theorem Sweep.endFields_cut (u : State) (w : Sweep) : (w.endFields u).map Fld.cut = [(F.talLast_CT, w.last % 2 ^ 64),
    (F.talFirst_CT, w.first % 2 ^ 64), (F.talStatus_BUSY, 0), (F.talStatus_SEQ, (u.fget F.talStatus_SEQ + 1) % 2 ^ 32)] := by
  unfold Sweep.endFields
  rw [List.map_cons, List.map_cons, List.map_cons, List.map_cons, List.map_nil, Fld.cut_eq F.talLast_CT _ 64 rfl,
    Fld.cut_eq F.talFirst_CT _ 64 rfl, Fld.cut_eq F.talStatus_BUSY _ 1 rfl, Fld.cut_eq F.talStatus_SEQ _ 32 rfl, Nat.zero_mod]

theorem State.sets_endFields (b u : State) (w : Sweep) : b.sets (b.puts (w.endFields u)) ((w.endFields u).map Fld.cut) := by
  refine b.sets_puts_cut _ ?_ ?_
  · simp only [Sweep.endFields, List.forall_mem_cons]; exact ⟨by decide, by decide, by decide, by decide, by simp⟩
  · simp only [Sweep.endFields, List.pairwise_cons, List.forall_mem_cons]
    exact ⟨⟨.inl (by decide), .inl (by decide), .inl (by decide), by simp⟩, ⟨.inl (by decide), .inl (by decide), by simp⟩,
      ⟨.inr (.inr (by decide)), by simp⟩, by simp, .nil⟩

theorem State.fset_noSweep (s : State) (f : Fld) (v : Nat) :
    ({ s.fset f v with sweep := none } : State) = ({ s with sweep := none } : State).fset f v := rfl

theorem State.sweepEnd_eq (u : State) (w : Sweep) : u.sweepEnd w =
    let v := ({ u with sweep := none } : State).puts (w.endFields u)
    if v.flag F.talCfg_DONE_EV then v.post 0x041A 0 ((u.fget F.talStatus_SEQ + 1) % 2 ^ 32) (w.last - w.first) else v := by
  unfold State.sweepEnd Sweep.endFields
  dsimp only [State.puts_cons, State.puts_nil]
  rw [State.fset_noSweep, State.fset_noSweep]

theorem State.sets_sweepEnd (u : State) (w : Sweep) :
    (if u.flag F.talCfg_DONE_EV then ({ u with sweep := none } : State).post 0x041A 0 ((u.fget F.talStatus_SEQ + 1) % 2 ^ 32) (w.last - w.first)
      else { u with sweep := none }).sets (u.sweepEnd w)
      [(F.talStatus_SEQ, (u.fget F.talStatus_SEQ + 1) % 2 ^ 32), (F.talStatus_BUSY, 0), (F.talFirst_CT, w.first % 2 ^ 64),
        (F.talLast_CT, w.last % 2 ^ 64)] := by
  rw [State.sweepEnd_eq]
  have hcut := State.sets_endFields { u with sweep := none } u w
  rw [Sweep.endFields_cut] at hcut
  have hflag : ({ u with sweep := none } : State).flag F.talCfg_DONE_EV = u.flag F.talCfg_DONE_EV := rfl
  generalize ({ u with sweep := none } : State) = b at *
  generalize b.puts (w.endFields u) = v at *
  generalize (u.fget F.talStatus_SEQ + 1) % 2 ^ 32 = seq at *
  have hkept : v.flag F.talCfg_DONE_EV = u.flag F.talCfg_DONE_EV := by
    rw [← hflag]
    refine State.flag_of_reg (b.reg_of_keepsRegs v _ _ hcut.2.2 fun g hg => ?_)
    simp only [List.map_cons, List.map_nil, List.mem_cons, List.not_mem_nil, or_false] at hg
    rcases hg with rfl | rfl | rfl | rfl <;> decide
  have hsets := b.sets_perm v _ [(F.talStatus_SEQ, seq), (F.talStatus_BUSY, 0), (F.talFirst_CT, w.first % 2 ^ 64),
    (F.talLast_CT, w.last % 2 ^ 64)] (fun e => by
      simp only [List.mem_cons, List.not_mem_nil, or_false]
      grind) hcut
  dsimp only
  rw [hkept]
  split
  · refine State.sets_post _ _ _ _ _ _ _ ?_ hsets
    simp only [List.forall_mem_cons]
    exact ⟨by decide, by decide, by decide, by decide, by simp⟩
  · exact hsets

/-! ### The event ring -/

theorem State.recordWrite_nil (s : State) (h : s.events = []) : s.recordWrite = s := by
  unfold State.recordWrite
  rw [h]

theorem State.recordWrite_waits (s : State) (hfind : s.ownFind .event = none)
    (h : s.coreOn = false ∨ s.flag F.glbEvCfg_EN = false ∨ s.ringUsed = 2 ^ s.ringLog) : s.recordWrite = s := by
  unfold State.recordWrite
  split
  · rfl
  · refine if_pos ?_
    rcases h with h | h | h <;> simp [hfind, h, State.ringOpen]

/-- The write of the record at the head of the queue: where and what it writes. -/
def State.recordStart (s : State) (e : Event) : State × Direct :=
  let n := s.fget F.glbEvHead_HEAD
  let a := s.ringAddr n
  s.serviceWrite .event a (BitVec.ofNat 512 (ringRecord s.ringLog n e * 2 ^ (8 * (a % 64)))) (some (byteEnables (a % 64) 32))

/-- What comes of it. -/
def recordEnds : State × Direct → State
  | (s, .done) => s.popEvent
  | (s, .lost) => (s.countSat F.glbEvStatus_WRITE_LOST 1).popEvent
  | (s, _) => s

theorem State.recordWrite_go (s : State) (e : Event) (l : List Event) (hev : s.events = e :: l)
    (h : ((s.ownFind .event).isNone && (!s.ringOpen || !s.coreOn)) = false) : s.recordWrite = recordEnds (s.recordStart e) := by
  unfold State.recordWrite
  rw [hev]
  dsimp only
  rw [if_neg (by rw [h]; decide)]
  unfold recordEnds State.recordStart
  rfl

theorem State.recordWrite_of_has (s : State) (e : Event) (l : List Event) (id : Nat) (d : Direct) (hev : s.events = e :: l)
    (h : s.has .event id d) (hd : d ≠ .blocked) : s.recordWrite = recordEnds (s.dropReq id, d) := by
  have hfind : ((s.ownFind .event).isNone && (!s.ringOpen || !s.coreOn)) = false := by
    obtain ⟨r, hr, _⟩ := h
    rw [hr]; rfl
  rw [s.recordWrite_go e l hev hfind]
  unfold State.recordStart State.serviceWrite State.ownWrite
  rw [s.ownGo_of_has _ id d _ h hd]

theorem State.recordWrite_blocked (s : State) (e : Event) (l : List Event) (id : Nat) (hev : s.events = e :: l)
    (h : s.has .event id .blocked) : s.recordWrite = s := by
  have hfind : ((s.ownFind .event).isNone && (!s.ringOpen || !s.coreOn)) = false := by
    obtain ⟨r, hr, _⟩ := h
    rw [hr]; rfl
  rw [s.recordWrite_go e l hev hfind]
  unfold State.recordStart State.serviceWrite State.ownWrite
  rw [s.ownGo_blocked _ id _ h]
  rfl

theorem State.recordWrite_starts (s : State) (e : Event) (l : List Event) (hev : s.events = e :: l) (hfind : s.ownFind .event = none)
    (hon : s.coreOn = true) (hopen : s.ringOpen = true) : let n := s.fget F.glbEvHead_HEAD
    let a := s.ringAddr n
    s.recordWrite = s.ownStart .event (serviceAccess 0) .partialWrite (a / 64 * 64) 1
      [BitVec.ofNat 512 (ringRecord s.ringLog n e * 2 ^ (8 * (a % 64)))] [false] [byteEnables (a % 64) 32] := by
  intro n a
  rw [s.recordWrite_go e l hev (by simp [hopen, hon])]
  unfold State.recordStart State.serviceWrite State.ownWrite
  rw [s.ownGo_none _ _ hfind]
  rfl

/-- The record at the head has been dealt with: HEAD moves on, and a drop that waited for room is posted. -/
theorem State.sets_popEvent (u w : State) (e : Event) (l : List Event) (f : List (Fld × Nat)) (hev : u.events = e :: l) (hset : u.sets w f)
    (hapart : ∀ g ∈ f, g.1.addr ≠ A.glbEvHead) :
    (u.dropCount = 0 ∨ 64 ≤ l.length → ({ u with events := l } : State).sets w.popEvent
      ((F.glbEvHead_HEAD, u.wrapped F.glbEvHead_HEAD 1) :: f)) ∧
    (u.dropCount ≠ 0 → l.length < 64 →
      ({ ({ u with events := l } : State).post 0x041B 0 u.dropCount u.dropStamp with dropCount := 0, dropStamp := 0 } : State).sets w.popEvent
        ((F.glbEvHead_HEAD, u.wrapped F.glbEvHead_HEAD 1) :: f)) := by
  have hframe := hset.1
  have hhead : w.fget F.glbEvHead_HEAD = u.fget F.glbEvHead_HEAD := State.fget_of_reg (u.reg_of_keepsRegs w _ _ hset.2.2 fun g hg => by
    obtain ⟨x, hx, rfl⟩ := List.mem_map.1 hg
    exact hapart x hx)
  have hmoved : u.sets (w.fset F.glbEvHead_HEAD (w.fget F.glbEvHead_HEAD + 1)) ((F.glbEvHead_HEAD, u.wrapped F.glbEvHead_HEAD 1) :: f) :=
    u.sets_fset w f _ _ _ (by decide) (by rw [hhead]; rfl) (fun g hg => .inl fun heq => hapart g hg heq.symm) hset
  generalize hm : w.fset F.glbEvHead_HEAD (w.fget F.glbEvHead_HEAD + 1) = m at hmoved
  have hmframe := hmoved.1
  have hpop : w.popEvent = ({ m with events := l } : State).noteDropped := by
    have hrest : w.events.drop 1 = l := by rw [hframe]; change u.events.drop 1 = l; rw [hev]; rfl
    rw [← hm, ← hrest]
    rfl
  rw [hpop]
  unfold State.noteDropped
  refine ⟨fun hno => ?_, fun hdrop hroom => ?_⟩
  · rw [if_pos (by
      rcases hno with h | h
      · have : m.dropCount = 0 := by rw [hmframe]; exact h
        simp [this]
      · simp [h])]
    exact State.sets_congr _ _ _ _ _ hmoved rfl (by rw [hmframe])
  · have hc : m.dropCount = u.dropCount := by rw [hmframe]
    rw [if_neg (by simp [hc, hdrop, hroom])]
    have hpost : ∀ x : State, x.events = l → ∀ a b, x.post 0x041B 0 a b =
        { x with events := l ++ [⟨0x041B, 0, x.cadence, BitVec.ofNat 64 a, BitVec.ofNat 64 b⟩] } := fun x hx a b => by
      unfold State.post; rw [if_pos (by rw [hx]; exact hroom), hx]
    rw [hpost { m with events := l } rfl, hpost { u with events := l } rfl]
    exact State.sets_congr _ _ _ _ _ hmoved rfl (by rw [hmframe])

theorem exec_eventIrqAge_due (s : State) (due : Nat) (hage : s.irqAgeAt = some due) (h : s.reaches due) :
    exec .eventIrqAge s = .next (s.momentOf due) ∧ (s.cpUp = true → (s.momentOf due).eventLow = true) := by
  refine ⟨?_, fun hup => ?_⟩
  · change Host.Outcome.next ((s.irqAgeAt.bind s.atCadence).getD s) = _
    rw [hage, Option.bind_some, State.atCadence_reaches _ _ h]
    rfl
  · have hsame : (s.momentOf due).irqAgeAt = some due := hage
    have hup' : (s.momentOf due).cpUp = true := hup
    unfold State.eventLow
    rw [hup', hsame]
    exact Bool.or_eq_true_iff.2 (.inr (decide_eq_true (Nat.le_max_right s.cadence due)))

/-! ### EV_CFG, EV_TAIL, RESET and UCODE_DATA -/

/-- The fields that EV_CFG takes in any case. -/
def ringCommon (w : Nat) : List (Fld × Nat) := [(F.glbEvCfg_IRQ_LEVEL, bitsOf w 19 0), (F.glbEvCfg_IRQ_AGE, bitsOf w 47 32)]

theorem State.sets_ringCommon (s : State) (w : Nat) : s.sets (s.puts (ringCommon w)) (ringCommon w) := by
  refine s.sets_puts _ ?_ ?_
  · simp only [ringCommon, List.forall_mem_cons]
    exact ⟨⟨Fld.ok_mk (by decide), bitsOf_lt w 19 0⟩, ⟨Fld.ok_mk (by decide), bitsOf_lt w 47 32⟩, by simp⟩
  · simp only [ringCommon, List.pairwise_cons, List.forall_mem_cons]
    exact ⟨⟨.inr (.inr (by decide)), by simp⟩, by simp, .nil⟩

theorem bitsOf_or_high (w hi lo : Nat) (h : hi < 63) (hle : lo ≤ hi) : bitsOf (w ||| 2 ^ 63) hi lo = bitsOf w hi lo := by
  apply Nat.eq_of_testBit_eq
  intro i
  rw [bitsOf_eq_testBit, bitsOf_eq_testBit, Nat.testBit_or, Nat.testBit_two_pow]
  by_cases hi' : i < hi + 1 - lo
  · rw [show decide (63 = lo + i) = false from decide_eq_false (by omega), Bool.or_false]
  · simp [hi']

theorem testBit_or_high (w : Nat) : (w ||| 2 ^ 63).testBit 63 = true := by
  rw [Nat.testBit_or, Nat.testBit_two_pow]; simp

theorem bitsOf_or_top (w : Nat) : bitsOf (w ||| 2 ^ 63) 63 63 = 1 := by
  have h : (bitsOf (w ||| 2 ^ 63) 63 63).testBit 0 = true := by
    rw [bitsOf_eq_testBit, testBit_or_high]; rfl
  have hlt : bitsOf (w ||| 2 ^ 63) 63 63 < 2 := bitsOf_lt _ 63 63
  generalize bitsOf (w ||| 2 ^ 63) 63 63 = n at *
  obtain rfl | rfl : n = 0 ∨ n = 1 := by omega
  · exact absurd h (by decide)
  · rfl

end Sys2Proof.Machine

/-! PROOFS. The ring's set-up and the full reset (R430, R433 to R437). -/
namespace Sys2Proof.Machine

theorem exec_evRingEnable_ready (w : Word) (s : State) (h : s.cpReady) :
    exec (.evRingEnable w) s = .next (s.cpOk.evCfgWrite (w.toNat ||| 2 ^ 63)) := s.cpDo_ready _ (fun u => u.evCfgWrite (w.toNat ||| 2 ^ 63)) h

theorem exec_evTailWrite_ready (w : Word) (s : State) (h : s.cpReady) : exec (.evTailWrite w) s = .next (s.cpOk.evTailWrite w.toNat) :=
  s.cpDo_ready _ (fun u => u.evTailWrite w.toNat) h

theorem exec_resetCmd_ready (w : Word) (env : TrainEnv) (s : State) (h : s.cpReady) :
    exec (.resetCmd w env) s = .next (s.cpOk.resetWrite w.toNat env) := s.cpDo_ready _ (fun u => u.resetWrite w.toNat env) h

theorem exec_ucodeDataWrite_ready (w : Word) (s : State) (h : s.cpReady) : exec (.ucodeDataWrite w) s = .next (s.cpOk.ucodeData w) :=
  s.cpDo_ready _ (fun u => u.ucodeData w) h

/-! ### EV_CFG with EN = 1 -/

/-- LOG2_SIZE, IRQ_AGE and IRQ_LEVEL as written. -/
def ringSized (w : Nat) : List (Fld × Nat) := (F.glbEvCfg_LOG2_SIZE, bitsOf w 52 48) :: ringCommon w

theorem State.sets_ringSized (s : State) (w : Nat) : s.sets (s.puts (ringSized w)) (ringSized w) := by
  refine s.sets_fset _ (ringCommon w) F.glbEvCfg_LOG2_SIZE _ _ (Fld.ok_mk (by decide)) (Nat.mod_eq_of_lt (bitsOf_lt w 52 48)) ?_ (s.sets_ringCommon w)
  simp only [ringCommon, List.forall_mem_cons]
  exact ⟨.inr (.inl (by decide)), .inr (.inl (by decide)), by simp⟩

theorem State.evCfgWrite_enables (s : State) (w : Nat) : s.evCfgWrite (w ||| 2 ^ 63) =
    if s.flag F.glbEvCfg_EN then (s.puts (ringCommon w)).fset F.glbEvCfg_EN 1
    else if (s.puts (ringSized w)).ringFits then
      ((((s.puts (ringSized w)).ownDrop .event).fset F.glbEvHead_HEAD 0).fset F.glbEvTail_TAIL 0).raise F.glbEvCfg_EN
    else (s.puts (ringSized w)).raise F.glbEvStatus_CFG_REFUSED := by
  unfold State.evCfgWrite
  rw [bitsOf_or_high w 47 32 (by decide) (by decide), bitsOf_or_high w 19 0 (by decide) (by decide),
    bitsOf_or_high w 52 48 (by decide) (by decide), bitsOf_or_top, testBit_or_high]
  rfl

/-- The ring fits by its base and the size written. -/
theorem State.ringFits_sized (s : State) (w : Nat) : (s.puts (ringSized w)).ringFits = true ↔
    s.fget F.glbEvBase_BASE % 64 = 0 ∧
      s.build.inRange (s.fget F.glbEvBase_BASE) (32 * 2 ^ min 20 (max 6 (bitsOf w 52 48))) = true := by
  have hset := s.sets_ringSized w
  have hbase : (s.puts (ringSized w)).fget F.glbEvBase_BASE = s.fget F.glbEvBase_BASE :=
    State.fget_of_reg (s.reg_of_keepsRegs _ _ _ hset.2.2 fun g hg => by
      simp only [ringSized, ringCommon, List.map_cons, List.map_nil, List.mem_cons, List.not_mem_nil, or_false] at hg
      rcases hg with rfl | rfl | rfl <;> decide)
  have hsize : (s.puts (ringSized w)).fget F.glbEvCfg_LOG2_SIZE = bitsOf w 52 48 := hset.2.1 _ List.mem_cons_self
  have hbuild : (s.puts (ringSized w)).build = s.build := by rw [hset.1]
  unfold State.ringFits State.ringLog
  rw [hbase, hsize, hbuild]
  simp

theorem State.sets_evEnabled (s : State) (w : Nat) (hen : s.flag F.glbEvCfg_EN = true) :
    s.sets (s.evCfgWrite (w ||| 2 ^ 63)) ((F.glbEvCfg_EN, 1) :: [(F.glbEvCfg_IRQ_AGE, bitsOf w 47 32), (F.glbEvCfg_IRQ_LEVEL, bitsOf w 19 0)]) := by
  rw [s.evCfgWrite_enables, if_pos hen]
  refine s.sets_perm _ _ _ ?_ (s.sets_raise _ (ringCommon w) F.glbEvCfg_EN (by decide) ?_ (s.sets_ringCommon w))
  · simp only [ringCommon, List.mem_cons, List.not_mem_nil, or_false]; grind
  · simp only [ringCommon, List.forall_mem_cons]
    exact ⟨.inr (.inl (by decide)), .inr (.inl (by decide)), by simp⟩

theorem State.sets_evRefused (s : State) (w : Nat) (hen : s.flag F.glbEvCfg_EN = false) (hfit : (s.puts (ringSized w)).ringFits = false) :
    s.sets (s.evCfgWrite (w ||| 2 ^ 63)) ([(F.glbEvStatus_CFG_REFUSED, 1), (F.glbEvCfg_LOG2_SIZE, bitsOf w 52 48)] ++
      [(F.glbEvCfg_IRQ_AGE, bitsOf w 47 32), (F.glbEvCfg_IRQ_LEVEL, bitsOf w 19 0)]) := by
  rw [s.evCfgWrite_enables, hen, hfit]
  refine s.sets_perm _ _ _ ?_ (s.sets_raise _ (ringSized w) F.glbEvStatus_CFG_REFUSED (by decide) ?_ (s.sets_ringSized w))
  · simp only [ringSized, ringCommon, List.mem_append, List.mem_cons, List.not_mem_nil, or_false]; grind
  · simp only [ringSized, ringCommon, List.forall_mem_cons]
    exact ⟨.inl (by decide), .inl (by decide), .inl (by decide), by simp⟩

theorem State.sets_evOpened (s : State) (w : Nat) (hen : s.flag F.glbEvCfg_EN = false) (hfit : (s.puts (ringSized w)).ringFits = true) :
    (s.ownDrop .event).sets (s.evCfgWrite (w ||| 2 ^ 63)) ([(F.glbEvHead_HEAD, 0), (F.glbEvTail_TAIL, 0), (F.glbEvCfg_EN, 1),
      (F.glbEvCfg_LOG2_SIZE, bitsOf w 52 48)] ++ [(F.glbEvCfg_IRQ_AGE, bitsOf w 47 32), (F.glbEvCfg_IRQ_LEVEL, bitsOf w 19 0)]) := by
  rw [s.evCfgWrite_enables, hen, hfit]
  have hsized := s.sets_ringSized w
  have hdrop : (s.ownDrop .event).sets ((s.puts (ringSized w)).ownDrop .event) (ringSized w) := by
    refine State.sets_congr _ _ _ _ _ hsized (s.ownDrop_regs .event) ?_
    conv => lhs; rw [hsized.1, State.ownDrop_setRegs]
  generalize (s.puts (ringSized w)).ownDrop .event = v at hdrop ⊢
  generalize s.ownDrop .event = b at hdrop ⊢
  have hne : ∀ a, a ≠ A.glbEvCfg → ∀ e ∈ ringSized w, a ≠ e.1.addr := fun a ha => by
    simp only [ringSized, ringCommon, List.forall_mem_cons]
    exact ⟨ha, ha, ha, by simp⟩
  have hhead := b.sets_fset _ _ F.glbEvHead_HEAD 0 0 (by decide) rfl (fun e he => .inl (hne _ (by decide) e he)) hdrop
  have htail := b.sets_fset _ _ F.glbEvTail_TAIL 0 0 (by decide) rfl
    (List.forall_mem_cons.2 ⟨.inl (by decide), fun e he => .inl (hne _ (by decide) e he)⟩) hhead
  refine b.sets_perm _ _ _ ?_ (b.sets_raise _ _ F.glbEvCfg_EN (by decide) ?_ htail)
  · simp only [ringSized, ringCommon, List.mem_append, List.mem_cons, List.not_mem_nil, or_false]; grind
  · simp only [ringSized, ringCommon, List.forall_mem_cons]
    exact ⟨.inl (by decide), .inl (by decide), .inr (.inl (by decide)), .inr (.inl (by decide)), .inr (.inl (by decide)), by simp⟩

/-! ### The full reset -/

/-- What is looked at of a full reset. -/
def State.resetView (s : State) : PwrSt × Nat × SMap Window × Option Image × SMap Entry × SMap Slot × Word :=
  (s.power, s.cadence, s.windows, s.image, s.cache, s.slots, s.reg A.glbResetStatus)

theorem State.Still.resetView {s t : State} (h : s.Still true t) : t.resetView = s.resetView := by
  unfold State.resetView
  rw [h.power, h.cadence, h.windows, h.image, h.cache, h.slots rfl, h.regs _ (.inr (.inl rfl))]

theorem State.resetView_setReg (s : State) (a : Nat) (w : Word) (h : a ≠ A.glbResetStatus) : (s.setReg a w).resetView = s.resetView := by
  have hreg : (s.setReg a w).reg A.glbResetStatus = s.reg A.glbResetStatus := by rw [State.reg_setReg, if_neg h]
  unfold State.resetView
  rw [hreg]
  rfl

theorem State.resetView_fset (s : State) (f : Fld) (v : Nat) (h : f.addr ≠ A.glbResetStatus) : (s.fset f v).resetView = s.resetView :=
  s.resetView_setReg _ _ h

theorem State.resetView_post (s : State) (c u x y : Nat) : (s.post c u x y).resetView = s.resetView :=
  ((State.Still.refl s).post c u x y).resetView

theorem State.resetView_pegLoad (s : State) : s.pegLoad.resetView = s.resetView := by
  unfold State.pegLoad
  dsimp only
  split <;> split
  · rfl
  · exact (State.resetView_post _ _ _ _ _).trans ((State.resetView_fset _ F.fusStatus_LOAD_ERR 1 (by decide)).trans rfl)
  · rfl
  · exact (State.resetView_post _ _ _ _ _).trans ((State.resetView_fset _ F.fusStatus_LOAD_ERR 1 (by decide)).trans rfl)

theorem State.resetView_mapLoad (s : State) (k : Nat) : (s.mapLoad k).resetView = s.resetView := by
  have hentry : ∀ l, A.pcmapEntry k l ≠ A.glbResetStatus := fun l => by
    change 0x102000 + k * 0x20000 + l * 0x8 ≠ 0x000028; omega
  unfold State.mapLoad
  dsimp only
  refine (State.resetView_fset _ _ _ (by change 0x102200 + k * 0x20000 ≠ 0x000028; omega)).trans ((State.forEach_keeps State.resetView _
    (fun u l => ?_) _ _).trans (s.resetView_fset _ _ (by change 0x102208 + k * 0x20000 ≠ 0x000028; omega)))
  split
  · exact u.resetView_fset _ _ (hentry l)
  · exact (State.resetView_fset _ _ _ (hentry l)).trans (u.resetView_fset _ _ (hentry l))

theorem State.resetView_repairLane (s : State) (used lane : Fld) (v : Nat) (hu : used.addr ≠ A.glbResetStatus) (hl : lane.addr ≠ A.glbResetStatus) :
    (s.repairLane used lane v).resetView = s.resetView := by
  unfold State.repairLane
  split
  · rfl
  · exact (State.resetView_fset _ _ _ hl).trans (s.resetView_fset _ _ hu)

theorem State.resetView_repairChannel (s : State) (k c : Nat) : (s.repairChannel k c).resetView = s.resetView := by
  have h : A.phyLaneMap k c ≠ A.glbResetStatus := by change 0x104180 + k * 0x20000 + c * 0x8 ≠ 0x000028; omega
  unfold State.repairChannel
  exact (State.resetView_repairLane _ _ _ _ h h).trans ((State.resetView_repairLane _ _ _ _ h h).trans
    ((State.resetView_repairLane _ _ _ _ h h).trans ((State.resetView_repairLane _ _ _ _ h h).trans (State.resetView_repairLane _ _ _ _ h h))))

theorem State.resetView_lifecycleLoad (s : State) : s.lifecycleLoad.resetView = s.resetView := by
  unfold State.lifecycleLoad
  exact (State.resetView_fset _ F.fusLifecycle_SAN_PENDING _ (by decide)).trans ((State.resetView_fset _ F.fusLifecycle_SAN _ (by decide)).trans
    ((State.resetView_fset _ F.fusLifecycle_PENDING _ (by decide)).trans (State.resetView_fset _ F.fusLifecycle_STATE _ (by decide))))

theorem State.resetView_pegApply (s : State) : s.pegApply.resetView = s.resetView := by
  have htrim : ∀ k, A.fusPhyTrim k ≠ A.glbResetStatus ∧ A.fusPhyTrimActive k ≠ A.glbResetStatus := fun k =>
    ⟨by change 0x008100 + k * 0x10 ≠ 0x000028; omega, by change 0x008108 + k * 0x10 ≠ 0x000028; omega⟩
  have hdiode : ∀ c, A.fusDiodeTrim c ≠ A.glbResetStatus ∧ A.fusDiodeTrimActive c ≠ A.glbResetStatus := fun c =>
    ⟨by change 0x008200 + c * 0x10 ≠ 0x000028; omega, by change 0x008208 + c * 0x10 ≠ 0x000028; omega⟩
  unfold State.pegApply
  extract_lets s1 s2 s3 s4 s5
  have h2 : s2.resetView = s.resetView := (State.forEach_keeps State.resetView _ (fun u k => u.resetView_mapLoad k) _ _).trans s.resetView_pegLoad
  have h3 : s3.resetView = s2.resetView := by
    change (if _ then s2 else _ : State).resetView = _
    split
    · rfl
    · exact State.forEach_keeps State.resetView _ (fun u k => State.forEach_keeps State.resetView _ (fun v c => v.resetView_repairChannel k c) _ _) _ _
  have h4 : s4.resetView = s3.resetView := State.forEach_keeps State.resetView _ (fun u k =>
    (State.resetView_setReg _ _ _ (htrim k).2).trans (State.resetView_setReg _ _ _ (htrim k).1)) _ _
  have h5 : s5.resetView = s4.resetView := State.forEach_keeps State.resetView _ (fun u c =>
    (State.resetView_setReg _ _ _ (hdiode c).2).trans (State.resetView_setReg _ _ _ (hdiode c).1)) _ _
  exact s5.resetView_lifecycleLoad.trans (h5.trans (h4.trans (h3.trans h2)))

theorem State.resetView_imageSelect (s : State) : s.imageSelect.resetView = s.resetView := by
  unfold State.imageSelect
  dsimp only
  split
  · rfl
  · split
    · exact (State.resetView_fset _ F.glbUcodeVer_TRAINING _ (by decide)).trans ((State.resetView_fset _ F.glbUcodeVer_LOADER _ (by decide)).trans
        (State.resetView_fset _ F.glbUcodeStatus_STAGED_USED _ (by decide)))
    · exact (State.resetView_post _ _ _ _ _).trans ((State.resetView_fset _ F.glbUcodeStatus_REASON _ (by decide)).trans
        (State.resetView_fset _ F.glbUcodeStatus_FALLBACK _ (by decide)))

theorem State.resetView_resetTrain (s : State) (env : TrainEnv) : (s.resetTrain env).resetView = s.resetView :=
  ((State.Still.refl s).forEach s.stacks fun _ k hu => hu.trainStack k env).resetView

/-- What is looked at, with CAUSE in the place of the whole register. -/
def State.resetEnd (s : State) : PwrSt × Nat × SMap Window × Option Image × SMap Entry × SMap Slot × Nat :=
  (s.power, s.cadence, s.windows, s.image, s.cache, s.slots, s.fget F.glbResetStatus_CAUSE)

theorem State.resetEnd_of_view {s t : State} (h : t.resetView = s.resetView) : t.resetEnd = s.resetEnd :=
  congrArg (fun v : PwrSt × Nat × SMap Window × Option Image × SMap Entry × SMap Slot × Word =>
    (v.1, v.2.1, v.2.2.1, v.2.2.2.1, v.2.2.2.2.1, v.2.2.2.2.2.1, bitsOf v.2.2.2.2.2.2.toNat 3 0)) h

theorem State.resetEnd_fset (s : State) (f : Fld) (v : Nat) (hok : f.Ok) (h : f.Apart F.glbResetStatus_CAUSE) :
    (s.fset f v).resetEnd = s.resetEnd := by
  unfold State.resetEnd
  rw [s.fget_fset_apart f _ v hok h]
  rfl

theorem State.resetEnd_resetDone (s : State) : s.resetDone.resetEnd = s.resetEnd := by
  have hready : (s.raise F.glbResetStatus_READY).resetEnd = s.resetEnd := s.resetEnd_fset _ 1 (by decide) (.inr (.inl (by decide)))
  have hscrub := State.resetEnd_of_view (State.Still.scrubOn (live := true) (State.Still.refl (s.raise F.glbResetStatus_READY))).resetView
  exact (State.resetEnd_of_view (State.resetView_post _ _ _ _ _)).trans (hscrub.trans hready)

theorem State.resetEnd_resetSanitise (s : State) : s.resetSanitise.resetEnd = s.resetEnd := by
  unfold State.resetSanitise
  split
  · have hsan := State.resetEnd_of_view (State.Still.forEach (live := true) s.stacks (State.Still.refl ((s.raise F.glbResetStatus_SANITISING).fset
      F.glbResetStatus_SAN_STACKS (maskOf s.stacks))) fun _ k hu => hu.sanBegin k).resetView
    exact hsan.trans ((State.resetEnd_fset _ F.glbResetStatus_SAN_STACKS _ (by decide) (.inr (.inl (by decide)))).trans
      (s.resetEnd_fset F.glbResetStatus_SANITISING 1 (by decide) (.inr (.inl (by decide)))))
  · exact s.resetEnd_resetDone

/-- The core at reset values, ACTIVE, its levels and refresh multipliers set, its cause not yet recorded. -/
def State.coreAwake (s : State) (cause : Nat) : State :=
  let staged := cause = 2
  let was := s.power.group
  let s := { s.coreReset (fun a => isDrone a || (staged && a == A.glbUcodeCtl)) with
    image := none, ucode := if staged then s.ucode else [], power := .active, drone := s.drone.awake }
  let s := { s with levels := (List.range 8).filterMap fun k =>
    let l := s.fget (F.thmStk_LEVEL k)
    if l = 0 then none else some (k, l) }
  let s := s.forEach (List.range 8) fun s k => s.settleMult k
  if was = 0 then s else s.enterGroup 0

theorem State.fullReset_eq (s : State) (cause : Nat) (env : TrainEnv) : s.fullReset cause env =
    (((((s.coreAwake cause).fset F.glbResetStatus_CAUSE cause).pegApply.imageSelect).resetTrain env).resetSanitise) := rfl

theorem State.coreAwake_spec (s : State) (cause : Nat) : let t := s.coreAwake cause
    t.power = .active ∧ t.cadence = 0 ∧ t.windows = [] ∧ t.image = none ∧ t.cache = [] ∧ t.slots = [] := by
  unfold State.coreAwake
  extract_lets staged was s0 s1 s2 s3 t
  have h3 : s2.Still true s3 := (State.Still.refl s2).forEach _ fun _ k hu => hu.settleMult k
  have ht : s2.Still true t := .ite h3 (h3.count _ _ (by
    simp only [StillReg, F.pwrEnt_COUNT, A.pwrEnt, A.pwrState, A.glbResetStatus]; omega))
  exact ⟨ht.power, ht.cadence, ht.windows, ht.image, ht.cache, ht.slots rfl⟩

theorem State.resetEnd_fullReset (s : State) (cause : Nat) (env : TrainEnv) (hle : cause ≤ 4) :
    (s.fullReset cause env).resetEnd = (.active, 0, [], none, [], [], cause) := by
  obtain ⟨hpower, hcadence, hwindows, himage, hcache, hslots⟩ := s.coreAwake_spec cause
  rw [State.fullReset_eq]
  generalize s.coreAwake cause = b at *
  have hcause : (b.fset F.glbResetStatus_CAUSE cause).resetEnd = (.active, 0, [], none, [], [], cause) := by
    unfold State.resetEnd
    rw [b.fget_fset_same _ _ (by decide), show cause % 2 ^ (F.glbResetStatus_CAUSE.hi + 1 - F.glbResetStatus_CAUSE.lo) = cause from Nat.mod_eq_of_lt (show cause < 2 ^ 4 by omega)]
    change (b.power, b.cadence, b.windows, b.image, b.cache, b.slots, cause) = _
    rw [hpower, hcadence, hwindows, himage, hcache, hslots]
  generalize b.fset F.glbResetStatus_CAUSE cause = c at *
  rw [State.resetEnd_resetSanitise, State.resetEnd_of_view (State.resetView_resetTrain _ env), State.resetEnd_of_view c.pegApply.resetView_imageSelect,
    State.resetEnd_of_view c.resetView_pegApply, hcause]

theorem State.fullReset_spec (s : State) (cause : Nat) (env : TrainEnv) (hle : cause ≤ 4) : let t := s.fullReset cause env
    t.power = .active ∧ t.cadence = 0 ∧ t.slots = [] ∧ t.windows = [] ∧ t.cache = [] ∧ t.image = none ∧
      t.pending = s.pending ∧ t.fget F.glbResetStatus_CAUSE = cause := by
  intro t
  have hend : t.resetEnd = _ := s.resetEnd_fullReset cause env hle
  unfold State.resetEnd at hend
  simp only [Prod.mk.injEq] at hend
  obtain ⟨hpower, hcadence, hwindows, himage, hcache, hslots, hcause⟩ := hend
  exact ⟨hpower, hcadence, hslots, hwindows, hcache, himage, (State.keeps_fullReset State.Keeps.refl).pending, hcause⟩

/-- Settles O60. -/
theorem observeAndReset : Obligations.ObserveAndReset := by
  unfold Obligations.ObserveAndReset
  refine ⟨fun s => ?_, fun s w hrun => ?_, fun s => ?_, fun w s h => ?_, fun env s => ?_, fun s cause env _ hle => s.fullReset_spec cause env hle⟩
  · intro begun
    refine ⟨fun h => ⟨_, s.cpDo_ready _ (fun u => u.sweepStart) h, s.cpOk.sweepStart_spec⟩, fun hen => ?_, fun hen h => ?_, fun hoff => ?_,
      fun hon => ?_, fun hno => ?_⟩
    · exact if_neg (by rw [hen]; decide)
    · intro m
      have hexec : exec .tallyPeriodic s = .next (if m.power = .active then m.sweepStart else m) := exec_tallyPeriodic_due s hen h
      exact ⟨fun hp => hexec.trans (congrArg _ (if_neg hp)), fun hp => ⟨_, hexec.trans (congrArg _ (if_pos hp)), m.sweepStart_spec⟩⟩
    · exact congrArg Host.Outcome.next (if_neg (by rw [hoff]; decide))
    · exact congrArg Host.Outcome.next (if_pos hon)
    · unfold State.sweepGo
      rw [hno]
  · intro n r u
    obtain ⟨hblocked, hlost, hframe⟩ := s.sweepSettle_spec w
    obtain ⟨hopens, hcounts, hlast⟩ := s.sweepGo_running w hrun
    have hopened : r.2.opened = w.opened := by change (s.sweepSettle w).2.opened = _; rw [hlost]
    have hbase : r.2.base = w.base := by change (s.sweepSettle w).2.base = _; rw [hlost]
    have hnext : r.2.next = w.next := by change (s.sweepSettle w).2.next = _; rw [hlost]
    have hfirst : r.2.first = w.first := by change (s.sweepSettle w).2.first = _; rw [hlost]
    have hlastct : r.2.last = w.last := by change (s.sweepSettle w).2.last = _; rw [hlost]
    have hbuild : u.build = s.build := s.sweepSettled_build w
    have hlist : ∀ x, s.build.swept[w.next]? = x → u.build.swept[r.2.next]? = x := fun x hx => by rw [hbuild, hnext]; exact hx
    refine ⟨hblocked, hlost, hframe, fun ho => ?_, fun a ho ha => hcounts a (hopened.trans ho) (hlist _ ha), fun ho hlen => ?_⟩
    · rw [← hbase]
      exact hopens (hopened.trans ho)
    · have hgo := hlast (hopened.trans ho) (hlist _ (List.getElem?_eq_none hlen))
      have hsome : u.sweepOut ≠ [] → (u.sweepOut != []) = true := fun hout => by simpa using hout
      have hnone : u.sweepOut = [] → ¬ (u.sweepOut != []) = true := fun hout => by simpa using hout
      refine ⟨fun hout => hgo.trans (if_pos (hsome hout)), fun hout hfind => ?_, fun hout hfind => ?_⟩
      · rw [← hbase]
        exact hgo.trans ((if_neg (hnone hout)).trans (if_neg (by rw [hfind]; decide)))
      · refine ⟨_, hgo.trans ((if_neg (hnone hout)).trans (if_pos (Option.isSome_iff_ne_none.2 hfind))), ?_⟩
        rw [← hfirst, ← hlastct]
        exact u.sets_sweepEnd r.2
  · refine ⟨fun hno => congrArg _ (s.recordWrite_nil hno), fun hfind hwait => congrArg _ (s.recordWrite_waits hfind hwait), fun e l hev => ?_,
      fun hno => ?_, fun due hage h => exec_eventIrqAge_due s due hage h⟩
    · intro n a popped
      refine ⟨fun hfind hon hopen => congrArg _ (s.recordWrite_starts e l hev hfind hon hopen),
        fun id hhas => congrArg _ (s.recordWrite_blocked e l id hev hhas), fun id hhas => ?_, fun id hhas => ?_, fun id d hhas hb hd hl => ?_⟩
      · refine ⟨_, congrArg Host.Outcome.next (s.recordWrite_of_has e l id _ hev hhas (by decide)), ?_⟩
        exact State.sets_popEvent (s.dropReq id) (s.dropReq id) e l [] hev (State.sets_nil _) (by simp)
      · refine ⟨_, congrArg Host.Outcome.next (s.recordWrite_of_has e l id _ hev hhas (by decide)), ?_⟩
        exact State.sets_popEvent (s.dropReq id) _ e l _ hev (State.sets_countSat _ _ [] F.glbEvStatus_WRITE_LOST (by decide) (by simp) (State.sets_nil _))
          (List.forall_mem_singleton.2 (show A.glbEvStatus ≠ A.glbEvHead by decide))
      · refine congrArg _ ((s.recordWrite_of_has e l id d hev hhas hb).trans ?_)
        cases d with
        | done => exact absurd rfl hd
        | lost => exact absurd rfl hl
        | data => rfl
        | blocked => rfl
        | denied => rfl
        | timeout => rfl
    · change Host.Outcome.next ((s.irqAgeAt.bind s.atCadence).getD s) = _
      rw [hno]
      rfl
  · intro common size base fits
    have hfits : (s.cpOk.puts (ringSized w.toNat)).ringFits = true ↔ fits := s.cpOk.ringFits_sized w.toNat
    refine ⟨fun hen => ⟨_, exec_evRingEnable_ready w s h, s.cpOk.sets_evEnabled w.toNat hen⟩,
      fun hen hf => ⟨_, exec_evRingEnable_ready w s h, s.cpOk.sets_evOpened w.toNat hen (hfits.2 hf)⟩,
      fun hen hf => ⟨_, exec_evRingEnable_ready w s h, s.cpOk.sets_evRefused w.toNat hen (Bool.eq_false_iff.2 fun hx => hf (hfits.1 hx))⟩,
      ?_, fun env => ⟨fun hkey hword => ?_, fun hno => ?_⟩, fun hlock => ?_, fun hlock => ?_⟩
    · intro far used
      refine ⟨fun hle => ⟨_, exec_evTailWrite_ready w s h, ?_⟩, fun hlt => ⟨_, exec_evTailWrite_ready w s h, ?_⟩⟩
      · have htaken : s.cpOk.evTailWrite w.toNat = s.cpOk.fset F.glbEvTail_TAIL w.toNat := if_pos hle
        rw [htaken]
        exact State.sets_fset _ _ [] _ _ _ (by decide) rfl (by simp) (State.sets_nil _)
      · have hrefused : s.cpOk.evTailWrite w.toNat = s.cpOk.raise F.glbEvStatus_TAIL_REFUSED := if_neg (Nat.not_le.2 hlt)
        rw [hrefused]
        exact State.sets_raise_alone _ _ (by decide)
    · rw [exec_resetCmd_ready w env s h, State.resetWrite, BitVec.testBit_toNat, hkey, hword]
      rfl
    · rw [exec_resetCmd_ready w env s h, State.resetWrite, BitVec.testBit_toNat, if_neg]
      rcases hno with hx | hx
      · rw [hx]; exact Bool.false_ne_true
      · rw [Bool.and_eq_true, beq_iff_eq]; exact fun hy => hx hy.2
    · rw [exec_ucodeDataWrite_ready w s h, State.ucodeData, if_pos (show s.cpOk.locked = true from hlock)]
    · refine ⟨_, exec_ucodeDataWrite_ready w s h, ?_⟩
      rw [State.ucodeData, if_neg (show ¬ s.cpOk.locked = true from by rw [show s.cpOk.locked = false from hlock]; decide)]
      exact State.sets_congr _ _ _ _ _ (s.cpOk.sets_fset _ [] F.glbUcodeAddr_OFFSET _ _ (by decide) rfl (by simp) (State.sets_nil _)) rfl rfl
  · intro u
    refine ⟨fun hdead => congrArg _ (if_neg ?_), fun hon => congrArg _ (if_pos ?_)⟩
    · simp [State.droneOn, hdead]
    · simp [State.droneOn, hon]

end Sys2Proof.Machine

/-! PROOFS. The entry to QUIET, RETAIN and OFF, and the exit from QUIET (R373 to R377, R385, R386). -/
namespace Sys2Proof.Machine

/-- What the step for `a` brings about, and no step undoes, holds after the loop. -/
theorem State.forEach_hits {α : Type} (Q P : State → Prop) (f : State → α → State) (l : List α) (a : α) (s : State) (ha : a ∈ l) (hs : Q s)
    (hhit : ∀ u, Q u → P (f u a)) (hkeep : ∀ u b, P u → P (f u b)) (hwait : ∀ u b, Q u → Q (f u b) ∨ P (f u b)) : P (s.forEach l f) := by
  have hafter : ∀ (l : List α) (u : State), P u → P (u.forEach l f) := fun l => by
    induction l with
    | nil => exact fun u hu => hu
    | cons b l ih => exact fun u hu => ih _ (hkeep u b hu)
  induction l generalizing s with
  | nil => cases ha
  | cons b l ih =>
    rcases List.mem_cons.1 ha with rfl | ha
    · exact hafter l _ (hhit s hs)
    · rcases hwait s b hs with hq | hp
      · exact ih _ ha hq
      · exact hafter l _ hp

/-- A loop whose steps touch registers alone. -/
theorem State.RegsOnly.forEach {α : Type} {s : State} (f : State → α → State) (hf : ∀ u a, s.RegsOnly u → s.RegsOnly (f u a)) (l : List α)
    (u : State) (hu : s.RegsOnly u) : s.RegsOnly (u.forEach l f) := by
  unfold State.forEach
  induction l generalizing u with
  | nil => exact hu
  | cons a l ih => exact ih _ (hf u a hu)

/-! ### Refusals and their reasons -/

theorem State.sets_pwrRefuse (s : State) (r : Nat) (h : r < 16) : s.sets (s.pwrRefuse r) [(F.pwrState_REFUSED, 1), (F.pwrState_REASON, r)] := by
  refine s.sets_puts_perm [(F.pwrState_REASON, r), (F.pwrState_REFUSED, 1)] _ ?_ ?_ (fun e => by simp only [List.mem_cons, List.not_mem_nil, or_false]; grind)
  · simp only [List.forall_mem_cons]
    exact ⟨⟨Fld.ok_mk (by decide), h⟩, ⟨by decide, by decide⟩, by simp⟩
  · simp only [List.pairwise_cons, List.forall_mem_cons]
    exact ⟨⟨.inr (.inr (by decide : (7 : Nat) < 8)), by simp⟩, by simp, .nil⟩

/-- The first of seven conditions that holds, by number; 0 when none does. -/
theorem firstOf7 (a b c d e f g : Prop) [Decidable a] [Decidable b] [Decidable c] [Decidable d] [Decidable e] [Decidable f] [Decidable g] :
    let n := if a then 1 else if b then 2 else if c then 3 else if d then 4 else if e then 5 else if f then 6 else if g then 7 else 0
    n < 16 ∧ (n = 0 ↔ ¬ a ∧ ¬ b ∧ ¬ c ∧ ¬ d ∧ ¬ e ∧ ¬ f ∧ ¬ g) := by
  dsimp only
  by_cases ha : a
  · simp [ha]
  by_cases hb : b
  · simp [ha, hb]
  by_cases hc : c
  · simp [ha, hb, hc]
  by_cases hd : d
  · simp [ha, hb, hc, hd]
  by_cases he : e
  · simp [ha, hb, hc, hd, he]
  by_cases hf : f <;> by_cases hg : g <;> simp [ha, hb, hc, hd, he, hf, hg]

theorem State.pwrReason_lt (s : State) (q : Bool) : s.pwrReason q < 16 := by
  unfold State.pwrReason
  exact (firstOf7 _ _ _ _ _ _ _).1

theorem State.pwrReason_none (s : State) (q : Bool) : s.pwrReason q = 0 ↔
    (s.power = .active ∧ (∀ n < 113, s.flag (F.glbPortCfg_EN n) = false ∧ s.outstanding n = 0) ∧
      (∀ e ∈ s.slots, e.2.st = .free) ∧ (∀ i < 4, (s.chk i).st = .idle) ∧ (∀ k < s.build.nStacks, s.stackBusy k = false ∧
        (q = true → s.flag (F.migStatus_ACTIVE k) = false) ∧ s.flag (F.pcmapEdit_EDIT k) = false) ∧
      (s.flag F.pwrCfg_JOINT = true → s.flag F.glbBridgeStatus_UP = true)) := by
  unfold State.pwrReason
  rw [(firstOf7 _ _ _ _ _ _ _).2]
  simp only [State.stacks, Bool.not_eq_true, List.any_eq_false, List.mem_range, bne_iff_ne, ne_eq, Classical.not_not, Bool.or_eq_true, Bool.and_eq_true,
    Bool.not_eq_eq_eq_not, Bool.not_true, not_or, not_and]
  constructor
  · rintro ⟨hp, hports, hslots, hchks, hbusy, hedit, hjoint⟩
    exact ⟨hp, hports, fun e he => hslots e he, hchks, fun k hk => ⟨(hbusy k hk).1, (hbusy k hk).2, hedit k hk⟩, fun hj => by
      simpa using hjoint hj⟩
  · rintro ⟨hp, hports, hslots, hchks, hstacks, hjoint⟩
    exact ⟨hp, hports, fun e he => hslots e he, hchks, fun k hk => ⟨(hstacks k hk).1, (hstacks k hk).2.1⟩, fun k hk => (hstacks k hk).2.2,
      fun hj => by simpa using hjoint hj⟩

/-! ### The entry to QUIET -/

theorem State.scrubOff_spec (s : State) : s.RegsOnly s.scrubOff ∧ ∀ k < s.build.nStacks, s.scrubOff.flag (F.bowStatus_SCRUB k) = false := by
  refine ⟨State.RegsOnly.forEach _ (fun u k hu => hu.fset _ _) _ _ (State.RegsOnly.refl s), fun k hk => ?_⟩
  have hsame : ∀ u : State, (u.fset (F.bowStatus_SCRUB k) 0).flag (F.bowStatus_SCRUB k) = false := fun u =>
    u.flag_fset_bit (F.bowStatus_SCRUB k) false (Fld.ok_mk (by decide)) rfl
  refine State.forEach_hits (fun _ => True) (fun u => u.flag (F.bowStatus_SCRUB k) = false) _ s.stacks k s (List.mem_range.2 hk) trivial
    (fun u _ => hsame u) (fun u j hu => ?_) fun u j _ => .inl trivial
  by_cases hj : j = k
  · rw [hj]; exact hsame u
  · rw [State.flag_of_reg (u.reg_fset_other (F.bowStatus_SCRUB j) 0 (A.bowStatus k) (by
      change 0x103018 + j * 0x20000 ≠ 0x103018 + k * 0x20000; omega))]
    exact hu

theorem exec_pwrQuiet_ready (s : State) (h : s.cpReady) : exec .pwrQuiet s = .next s.cpOk.pwrQuiet := s.cpDo_ready _ (fun u => u.pwrQuiet) h
theorem exec_pwrRetain_ready (s : State) (h : s.cpReady) : exec .pwrRetain s = .next s.cpOk.pwrRetain := s.cpDo_ready _ (fun u => u.pwrRetain) h
theorem exec_pwrOff_ready (s : State) (h : s.cpReady) : exec .pwrOff s = .next s.cpOk.pwrOff := s.cpDo_ready _ (fun u => u.pwrOff) h
theorem exec_pwrActive_ready (s : State) (h : s.cpReady) : exec .pwrActive s = .next s.cpOk.pwrActive := s.cpDo_ready _ (fun u => u.pwrActive) h

theorem exec_padRelease_ready (env : TrainEnv) (s : State) (h : s.cpReady) : exec (.padRelease env) s = .next (s.cpOk.padRelease env) :=
  s.cpDo_ready _ (fun u => u.padRelease env) h

/-- One bank is precharged where it stands open. -/
def prechargeOne (m : SMap Bank) (b : Nat) : SMap Bank :=
  let x := SMap.get m Bank.init b
  if x.st = .openIdle then SMap.put m Bank.init b { x with st := .closed, row := none } else m

/-- What precharging does to bank `j`. -/
theorem get_prechargeOne (m : SMap Bank) (b j : Nat) : SMap.get (prechargeOne m b) Bank.init j =
    if b = j ∧ (SMap.get m Bank.init j).st = .openIdle then { SMap.get m Bank.init j with st := .closed, row := none } else SMap.get m Bank.init j := by
  unfold prechargeOne
  dsimp only
  by_cases hb : b = j
  · subst hb
    by_cases hst : (SMap.get m Bank.init b).st = .openIdle
    · rw [if_pos hst, if_pos ⟨rfl, hst⟩, SMap.get_put_same]
    · rw [if_neg hst, if_neg fun h => hst h.2]
  · rw [if_neg (c := b = j ∧ _) fun h => hb h.1]
    split
    · exact SMap.get_put_other _ _ _ _ _ _ hb
    · rfl

/-- A bank that stands open is closed. -/
def Pcc.Closed (b : Nat) (c : Pcc) : Prop := (c.bank b).st = .closed ∧ (c.bank b).row = none

theorem Pcc.precharged_banks (c : Pcc) : c.precharged.banks = (List.range 64).foldl prechargeOne c.banks := by
  unfold Pcc.precharged prechargeOne
  generalize List.range 64 = l
  rfl

theorem Pcc.precharged_bank (c : Pcc) (b : Nat) : (Pcc.Closed b c → Pcc.Closed b c.precharged) ∧
    (b < 64 → (c.bank b).st = .openIdle → Pcc.Closed b c.precharged) := by
  have hkeep : ∀ (l : List Nat) (m : SMap Bank), (SMap.get m Bank.init b).st = .closed → SMap.get (l.foldl prechargeOne m) Bank.init b = SMap.get m Bank.init b := by
    intro l
    induction l with
    | nil => exact fun m _ => rfl
    | cons a l ih =>
      intro m hm
      have hone : SMap.get (prechargeOne m a) Bank.init b = SMap.get m Bank.init b := by
        rw [get_prechargeOne, if_neg fun h => by rw [hm] at h; exact absurd h.2 (by decide)]
      rw [List.foldl_cons, ih _ (by rw [hone]; exact hm), hone]
  have hhit : ∀ (l : List Nat) (m : SMap Bank), b ∈ l → (SMap.get m Bank.init b).st = .openIdle →
      (SMap.get (l.foldl prechargeOne m) Bank.init b).st = .closed ∧ (SMap.get (l.foldl prechargeOne m) Bank.init b).row = none := by
    intro l
    induction l with
    | nil => exact fun m hmem => by cases hmem
    | cons a l ih =>
      intro m hmem hm
      rw [List.foldl_cons]
      by_cases ha : a = b
      · have hone := get_prechargeOne m a b
        rw [if_pos ⟨ha, hm⟩] at hone
        rw [hkeep l _ (by rw [hone]), hone]
        exact ⟨rfl, rfl⟩
      · have hone := get_prechargeOne m a b
        rw [if_neg fun h => ha h.1] at hone
        exact ih _ ((List.mem_cons.1 hmem).resolve_left fun h => ha h.symm) (by rw [hone]; exact hm)
  unfold Pcc.Closed Pcc.bank
  rw [c.precharged_banks]
  refine ⟨fun hc => ?_, fun hb hopen => hhit (List.range 64) c.banks (List.mem_range.2 hb) hopen⟩
  rw [hkeep (List.range 64) c.banks hc.1]
  exact hc

/-- Every open bank of the built stacks is precharged. -/
def State.prechargeAll (s : State) : State := s.forEach s.stacks fun s k => s.forEach (List.range 64) fun s p => s.modPcc k p Pcc.precharged

theorem State.pcc_modPcc (s : State) (k p j q : Nat) (f : Pcc → Pcc) :
    (s.modPcc k p f).pcc j q = if pcIx k p = pcIx j q then f (s.pcc j q) else s.pcc j q := by
  by_cases h : pcIx k p = pcIx j q
  · have hsame : (s.modPcc k p f).pcc j q = (s.modPcc k p f).pcc k p := congrArg (SMap.get (s.modPcc k p f).pccs Pcc.init) h.symm
    have hold : s.pcc k p = s.pcc j q := congrArg (SMap.get s.pccs Pcc.init) h
    rw [if_pos h, hsame, State.pcc_modPcc_same, hold]
  · rw [if_neg h]
    exact SMap.get_put_other _ _ _ _ _ _ h

theorem State.prechargeAll_spec (s : State) : s.prechargeAll = { s with pccs := s.prechargeAll.pccs } ∧
    ∀ k < s.build.nStacks, ∀ p < 64, ∀ b < 64, ((s.pcc k p).bank b).st = .openIdle → Pcc.Closed b (s.prechargeAll.pcc k p) := by
  have hframe : ∀ (f : State → Nat → State), (∀ u a, u = { s with pccs := u.pccs } → f u a = { s with pccs := (f u a).pccs }) →
      ∀ (l : List Nat) (u : State), u = { s with pccs := u.pccs } → u.forEach l f = { s with pccs := (u.forEach l f).pccs } := by
    intro f hf l
    induction l with
    | nil => exact fun u hu => hu
    | cons a l ih => exact fun u hu => ih _ (hf u a hu)
  refine ⟨hframe _ (fun u k hu => hframe _ (fun v p hv => by rw [hv]; rfl) _ u hu) s.stacks s rfl, fun k hk p hp b hb hopen => ?_⟩
  have hkeep : ∀ (u : State) (j q : Nat), Pcc.Closed b (u.pcc k p) → Pcc.Closed b ((u.modPcc j q Pcc.precharged).pcc k p) := fun u j q hu => by
    rw [State.pcc_modPcc]
    split
    · exact (Pcc.precharged_bank _ b).1 hu
    · exact hu
  have hwait : ∀ (u : State) (j q : Nat), ((u.pcc k p).bank b).st = .openIdle →
      (((u.modPcc j q Pcc.precharged).pcc k p).bank b).st = .openIdle ∨ Pcc.Closed b ((u.modPcc j q Pcc.precharged).pcc k p) := fun u j q hu => by
    rw [State.pcc_modPcc]
    split
    · exact .inr ((Pcc.precharged_bank _ b).2 hb hu)
    · exact .inl hu
  have hkeeps : ∀ (l : List Nat) (u : State) (j : Nat), Pcc.Closed b (u.pcc k p) →
      Pcc.Closed b ((u.forEach l fun s q => s.modPcc j q Pcc.precharged).pcc k p) := fun l => by
    induction l with
    | nil => exact fun u j hu => hu
    | cons a l ih => exact fun u j hu => ih _ j (hkeep u j a hu)
  have hwaits : ∀ (l : List Nat) (u : State) (j : Nat), ((u.pcc k p).bank b).st = .openIdle →
      (((u.forEach l fun s q => s.modPcc j q Pcc.precharged).pcc k p).bank b).st = .openIdle ∨
        Pcc.Closed b ((u.forEach l fun s q => s.modPcc j q Pcc.precharged).pcc k p) := fun l => by
    induction l with
    | nil => exact fun u j hu => .inl hu
    | cons a l ih =>
      intro u j hu
      rcases hwait u j a hu with h | h
      · exact ih _ j h
      · exact .inr (hkeeps l _ j h)
  refine State.forEach_hits (fun u => ((u.pcc k p).bank b).st = .openIdle) (fun u => Pcc.Closed b (u.pcc k p)) _ s.stacks k s
    (List.mem_range.2 hk) hopen (fun u hu => ?_) (fun u j => hkeeps _ u j) fun u j => hwaits _ u j
  refine State.forEach_hits (fun u => ((u.pcc k p).bank b).st = .openIdle) (fun u => Pcc.Closed b (u.pcc k p)) _ (List.range 64) p u
    (List.mem_range.2 hp) hu (fun v hv => ?_) (fun v q => hkeep v k q) fun v q => hwait v k q
  rw [State.pcc_modPcc, if_pos rfl]
  exact (Pcc.precharged_bank _ b).2 hb hv

/-- QUIET has been reached. -/
theorem State.quietReached_spec (s : State) : let t := State.enterGroup { s.prechargeAll with power := .quiet } 1
    t = { s with power := .quiet, regs := t.regs, pccs := t.pccs } ∧ t.fget (F.pwrEnt_COUNT 1) = s.wrapped (F.pwrEnt_COUNT 1) 1 ∧
      ∀ k < s.build.nStacks, ∀ p < 64, ∀ b < 64, ((s.pcc k p).bank b).st = .openIdle →
        ((t.pcc k p).bank b).st = .closed ∧ ((t.pcc k p).bank b).row = none := by
  obtain ⟨hframe, hclosed⟩ := s.prechargeAll_spec
  generalize s.prechargeAll = u at *
  generalize u.pccs = m at hframe
  subst hframe
  intro t
  have hcount : t.fget (F.pwrEnt_COUNT 1) = _ := State.fget_fset_same _ (F.pwrEnt_COUNT 1) _ (Fld.ok_mk (by decide))
  exact ⟨rfl, hcount, hclosed⟩

theorem exec_quietEntryDone (s : State) : exec .quietEntryDone s = .next
    (if s.power = .quietEntry && s.bowRests && s.stacks.all s.stackRests then State.enterGroup { s.prechargeAll with power := .quiet } 1 else s) := rfl

/-! ### The exit from QUIET -/

theorem State.quietExit_spec (s : State) (src : Nat) : (s.quietExit src).power = .active ∧
    (s.quietExit src).fget F.pwrWakeStatus_SOURCES = src % 16 ∧ (s.quietExit src).fget F.pwrWakeStatus_FROM = 1 ∧
    (s.quietExit src).events = (s.post 0x0414 0 (src + 16) 0).events := by
  let b : State := { (s.wakeStatus src 1) with power := .active }
  have hexit : s.quietExit src = (b.scrubOn.post 0x0414 0 (src + 1 * 2 ^ 4) 0).enterGroup 0 := rfl
  have hscrub : b.scrubOn = { b with regs := b.scrubOn.regs, bows := b.scrubOn.bows } := b.scrubOn_frame
  have hregs : b.scrubOn.reg A.pwrWakeStatus = b.reg A.pwrWakeStatus := by
    refine State.forEach_keeps (fun u => u.reg A.pwrWakeStatus) _ (fun u k => ?_) b b.stacks
    exact u.reg_fset_other (F.bowStatus_SCRUB k) _ _ (by change 0x103018 + k * 0x20000 ≠ 0x004020; omega)
  have hreg : (s.quietExit src).reg A.pwrWakeStatus = b.reg A.pwrWakeStatus := by
    rw [hexit]
    exact (State.reg_fset_other _ (F.pwrEnt_COUNT 0) _ _ (by decide)).trans ((State.reg_post _ _ _ _ _ _ (by decide)).trans hregs)
  have hfget : ∀ f : Fld, f.addr = A.pwrWakeStatus → (s.quietExit src).fget f = (s.wakeStatus src 1).fget f := fun f hf =>
    State.fget_of_reg (by rw [hf]; exact hreg)
  refine ⟨by rw [s.quietExit_frame src], ?_, ?_, ?_⟩
  · rw [hfget _ rfl, State.wakeStatus, State.fget_fset_apart _ _ _ _ (by decide) (.inr (.inl (by decide))), State.fget_fset_same _ _ _ (by decide)]
    rfl
  · rw [hfget _ rfl, State.wakeStatus, State.fget_fset_same _ _ _ (by decide)]
    rfl
  · rw [hexit]
    refine State.events_post_congr s b.scrubOn _ _ _ _ ?_ ?_ <;> rw [hscrub] <;> rfl

end Sys2Proof.Machine

/-! PROOFS. The entry to RETAIN and OFF, waking, the release of the pads and the supplies (R377 to R394). -/
namespace Sys2Proof.Machine

/-! ### The steps of the entry -/

theorem State.retainProceed_other (s : State) (h : s.power ≠ .entering) : s.retainProceed = s :=
  State.forEach_same _ _ _ fun _ _ => if_pos (by simpa using h)

/-- One pass of an entry that goes on. -/
def State.entryPass (s : State) (_ : Nat) : State := if s.power != .entering then s else s.entryNext

theorem State.entryPass_entering (s : State) (n : Nat) (h : s.power = .entering) : s.entryPass n = s.entryNext := if_neg (by simp [h])
theorem State.entryPass_other (s : State) (n : Nat) (h : s.power ≠ .entering) : s.entryPass n = s := if_pos (by simpa using h)

theorem State.retainProceed_eq (s : State) : s.retainProceed = ((((s.entryPass 0).entryPass 1).entryPass 2).entryPass 3).entryPass 4 := by
  have hloop : s.retainProceed = s.forEach [0, 1, 2, 3, 4] State.entryPass := rfl
  rw [hloop]
  simp only [State.forEach, List.foldl_cons, List.foldl_nil]

/-- An entry that a condition stops stays where it is. -/
theorem State.retainProceed_stuck (s : State) (h : s.entryNext = s) : s.retainProceed = s :=
  State.forEach_same _ _ _ fun _ _ => by
    split
    · rfl
    · exact h

theorem State.entryNext_1 (s : State) (h : s.drone.step = 1) : s.entryNext = if s.bowRests then s.flushStreams.entryStep 2 else s := if_pos h

theorem State.entryNext_2 (s : State) (h : s.drone.step = 2) : s.entryNext = if !s.streamsGone then s else if s.drone.toOff then s.goOff
    else (s.forEach s.stacks fun s k => s.flushLines k).entryStep 3 :=
  (if_neg (by omega)).trans (if_pos h)

theorem State.entryNext_3 (s : State) (h : s.drone.step = 3) : s.entryNext = if !s.stacks.all s.stackEmpty then s
    else if !s.stacks.all s.linesClean then s.forEach s.stacks fun s k => s.flushLines k
    else (s.forEach s.stacks fun s k => s.canaryWrite k).entryStep 4 :=
  (if_neg (by omega)).trans ((if_neg (by omega)).trans (if_pos h))

theorem State.entryNext_4 (s : State) (h : s.drone.step ≠ 1 ∧ s.drone.step ≠ 2 ∧ s.drone.step ≠ 3) : s.entryNext =
    if s.drone.step = 4 ∧ s.stacks.all fun k => !s.canaryRuns k && s.stackEmpty k then s.retainImage else s :=
  (if_neg h.1).trans ((if_neg h.2.1).trans (if_neg h.2.2))

theorem State.allStacks (s : State) (f : Nat → Bool) : s.stacks.all f = true ↔ ∀ k < s.build.nStacks, f k = true := by
  simp [State.stacks]

theorem State.notAllStacks (s : State) (f : Nat → Bool) (h : ∃ k < s.build.nStacks, f k = false) : s.stacks.all f = false := by
  rw [List.all_eq_false]
  obtain ⟨k, hk, hf⟩ := h
  exact ⟨k, List.mem_range.2 hk, by rw [hf]; decide⟩

theorem State.entryNext_stuck (s : State) (h : (s.drone.step = 1 ∧ s.bowRests = false) ∨ (s.drone.step = 2 ∧ s.streamsGone = false) ∨
    (s.drone.step = 3 ∧ ∃ k < s.build.nStacks, s.stackEmpty k = false) ∨ 4 < s.drone.step ∨
    (s.drone.step = 4 ∧ ∃ k < s.build.nStacks, s.canaryRuns k = true ∨ s.stackEmpty k = false)) : s.entryNext = s := by
  rcases h with ⟨hstep, h⟩ | ⟨hstep, h⟩ | ⟨hstep, h⟩ | hstep | ⟨hstep, k, hk, h⟩
  · rw [s.entryNext_1 hstep, h]; rfl
  · rw [s.entryNext_2 hstep, h]; rfl
  · rw [s.entryNext_3 hstep, s.notAllStacks _ h]; rfl
  · rw [s.entryNext_4 ⟨by omega, by omega, by omega⟩, if_neg fun hx => by omega]
  · have hno : (s.stacks.all fun k => !s.canaryRuns k && s.stackEmpty k) = false := s.notAllStacks _ ⟨k, hk, by rcases h with h | h <;> simp [h]⟩
    rw [s.entryNext_4 ⟨by omega, by omega, by omega⟩, hno, if_neg fun hx => absurd hx.2 (by decide)]

theorem State.padsLatch_sets (s : State) :
    ({ s with drone := { s.drone with step := 7, joint := none, sibReady := false } } : State).sets s.padsLatch [(F.pwrState_PADS_LATCHED, 1)] :=
  State.sets_congr _ _ _ _ _ (s.sets_raise_alone F.pwrState_PADS_LATCHED (by decide)) rfl rfl

/-- The image is made (Table 13.3, step 6). -/
def State.imageMade (s : State) : State := { s with image := some s.makeImage, drone := { s.drone with cLast := s.cadence, step := 6 } }

theorem State.retainImage_eq (s : State) : s.retainImage =
    if s.flag F.pwrCfg_JOINT && !s.drone.sibReady then
      { s with image := some s.makeImage, drone := { s.drone with cLast := s.cadence, step := 6, joint := some s.cadence } }
    else s.imageMade.padsLatch := rfl

/-- The state of an entry that begins, before its first pass. -/
def State.entryBegun (s : State) (off : Bool) : State :=
  { s.scrubOff with power := .entering, drone := { s.drone with held := 0, step := 1, toOff := off, locked := none } }

theorem State.entryBegun_spec (s : State) (off : Bool) : s.entryBegun off = { s with
      power := .entering, regs := (s.entryBegun off).regs, drone := { s.drone with held := 0, step := 1, toOff := off, locked := none } } ∧
    ∀ k < s.build.nStacks, (s.entryBegun off).flag (F.bowStatus_SCRUB k) = false := by
  obtain ⟨hframe, hflags⟩ := s.scrubOff_spec
  unfold State.entryBegun
  generalize s.scrubOff = u at *
  refine ⟨?_, hflags⟩
  rw [hframe]

theorem State.entryBegin_eq (s : State) (off : Bool) : s.entryBegin off = (s.entryBegun off).retainProceed := by
  have hdrone : s.scrubOff.drone = s.drone := by rw [s.scrubOff_spec.1]
  unfold State.entryBegin State.entryBegun
  rw [← hdrone]

theorem State.goOff_spec (s : State) : s.goOff.power = .off ∧ s.goOff.image = none ∧ s.goOff.dram = [] ∧ s.goOff.cadence = 0 ∧
    s.goOff.drone.supplied = s.drone.supplied ∧ (s.ports = [] → s.goOff.ports = []) :=
  ⟨rfl, rfl, rfl, rfl, rfl, fun h => by
    change ((s.ports.map fun e => (e.1, e.2.afterReset)).filter fun e => e.2 != Port.init) = []
    rw [h]; rfl⟩

/-- With nothing to wait for an entry to OFF is over at once. -/
theorem State.entryBegin_off (s : State) (hrests : s.bowRests = true) (hcache : s.cache = []) (hmisses : s.misses = []) :
    ∃ u, s.entryBegin true = State.goOff u := by
  obtain ⟨hframe, _⟩ := s.entryBegun_spec true
  rw [s.entryBegin_eq]
  generalize s.entryBegun true = b at *
  have h0 : b.entryPass 0 = b.entryStep 2 := by
    have hrests' : b.bowRests = true := by rw [hframe]; exact hrests
    have hflush : b.flushStreams = b := by
      have hnone : b.cache = [] := by rw [hframe]; exact hcache
      unfold State.flushStreams
      rw [hnone]
      rfl
    rw [b.entryPass_entering 0 (by rw [hframe]), b.entryNext_1 (by rw [hframe]), hrests', hflush]
    rfl
  have h1 : (b.entryStep 2).entryPass 1 = (b.entryStep 2).goOff := by
    have hgone : (b.entryStep 2).streamsGone = true := by
      have hnone : b.cache = [] := by rw [hframe]; exact hcache
      have hno : b.misses = [] := by rw [hframe]; exact hmisses
      change (b.misses == [] && b.cache.all fun e => e.2.st == .free) = true
      rw [hnone, hno]
      rfl
    have hoff : (b.entryStep 2).drone.toOff = true := by rw [hframe]; rfl
    rw [State.entryPass_entering _ 1 (by rw [hframe]; rfl), State.entryNext_2 _ rfl, hgone, hoff]
    rfl
  have hpower : (b.entryStep 2).goOff.power ≠ .entering := by rw [(b.entryStep 2).goOff_spec.1]; decide
  refine ⟨b.entryStep 2, ?_⟩
  rw [State.retainProceed_eq, h0, h1]
  generalize (b.entryStep 2).goOff = g at *
  rw [g.entryPass_other 2 hpower, g.entryPass_other 3 hpower, g.entryPass_other 4 hpower]

/-! ### The SLOWCLK edge -/

/-- The core without its power, in RETAIN. -/
def State.asleep (s : State) (rtc : Nat) : State :=
  State.enterGroup { (s.coreReset keptAsleep) with
    drone := { s.drone with rEntry := rtc, cEntry := s.cadence, step := 0, estTicks := 0 }, power := .retain
    bows := (s.bows.map fun e => (e.1, { Bow.init with covered := e.2.covered })).filter fun e => e.2 != Bow.init } 2

theorem State.retainEnd_eq (s : State) (rtc : Nat) : s.retainEnd rtc = if s.drone.held = 0 then s.asleep rtc else (s.asleep rtc).wakeBegin s.drone.held := rfl

/-! ### Wake sources -/

theorem State.wake_disabled (s : State) (src : Nat) (env : TrainEnv) (h : src &&& s.fget F.pwrCfg_WAKE_EN = 0) : s.wake src env = s := if_pos h

theorem State.wake_enabled (s : State) (src : Nat) (env : TrainEnv) (h : src &&& s.fget F.pwrCfg_WAKE_EN ≠ 0) :
    (s.power = .quiet → s.wake src env = s.quietExit (s.wakeSources src)) ∧
    (s.power = .entering → s.wake src env =
      if s.drone.step = 7 ∧ edgeWake src then s else { s with drone := { s.drone with held := s.drone.held ||| src } }) ∧
    (s.power = .retain → s.wake src env = s.wakeBegin src) ∧
    (s.power = .off → s.wake src env = if s.drone.supplied then (s.wakeStatus (s.wakeSources src) 3).fullReset 3 env else s) ∧
    (s.power ≠ .quiet → s.power ≠ .entering → s.power ≠ .retain → s.power ≠ .off → s.wake src env = s) := by
  have hwake : s.wake src env = _ := if_neg h
  rw [hwake]
  refine ⟨fun hp => by rw [hp], fun hp => by rw [hp], fun hp => by rw [hp], fun hp => by rw [hp], fun h1 h2 h3 h4 => ?_⟩
  cases hp : s.power with
  | quiet => exact absurd hp h1
  | entering => exact absurd hp h2
  | retain => exact absurd hp h3
  | off => exact absurd hp h4
  | active => rfl
  | quietEntry => rfl
  | waking => rfl
  | restored => rfl
  | checking => rfl
  | dead => rfl

theorem State.sets_wakeStatus (s : State) (src left : Nat) (hleft : left < 8) :
    s.sets (s.wakeStatus src left) [(F.pwrWakeStatus_SOURCES, src % 16), (F.pwrWakeStatus_FROM, left)] := by
  have hsrc : s.sets (s.fset F.pwrWakeStatus_SOURCES src) [(F.pwrWakeStatus_SOURCES, src % 16)] :=
    s.sets_fset _ [] _ _ _ (by decide) rfl (by simp) s.sets_nil
  exact s.sets_perm _ _ _ (fun e => by simp only [List.mem_cons, List.not_mem_nil, or_false]; grind) (s.sets_fset _ _ F.pwrWakeStatus_FROM left _ (by decide) (Nat.mod_eq_of_lt hleft)
    (List.forall_mem_singleton.2 (.inr (.inl (by decide : (3 : Nat) < 4)))) hsrc)

/-! ### The image comes back -/

theorem notStill_pwr {a : Nat} (h : 0x4010 ≤ a) (h' : a < 0x4200) : ¬ StillReg a := fun hs => by
  simp only [StillReg, A.pwrState, A.glbResetStatus] at hs; omega

/-- The image restored, the pads still latched, the exit recorded. -/
def State.restoredTo (s : State) (i : Image) : State :=
  (State.raise { (s.restoreImage i) with
    power := .restored, events := s.events.map fun (e : Event) => ({ e with stamp := s.cadence } : Event) } F.pwrState_PADS_LATCHED).wakeStatus
      s.drone.waking 2

theorem State.restoredTo_spec (s : State) (i : Image) : (s.restoredTo i).power = .restored ∧ (s.restoredTo i).image = none ∧
    (s.restoredTo i).windows = i.windows ∧ (s.restoredTo i).cadence = s.cadence ∧ (s.restoredTo i).flag F.pwrState_PADS_LATCHED = true := by
  refine ⟨rfl, rfl, rfl, rfl, ?_⟩
  unfold State.restoredTo
  rw [State.flag_of_reg (((State.reg_fset_other _ F.pwrWakeStatus_FROM _ A.pwrState (by decide)).trans
    (State.reg_fset_other _ F.pwrWakeStatus_SOURCES _ A.pwrState (by decide))))]
  exact State.flag_raise _ _ (by decide)

theorem State.Still.setAsleep {live : Bool} {σ s : State} (h : σ.Still live s) (t : Nat) (x : Headroom) (d : Drone) :
    σ.Still live { s with tallyAt := t, headroom := x, drone := d } := h.upd rfl

theorem State.restore_still (s : State) (i : Image) : (s.restoredTo i).Still true (s.restore i) := by
  unfold State.restore
  extract_lets left src s0 s1 s2 s3 s4 s5
  have h2 : (s.restoredTo i).Still true s2 := (State.Still.refl (s.restoredTo i)).holdTraining
  have h3 : (s.restoredTo i).Still true s3 := h2.post _ _ _ _
  have h4 : (s.restoredTo i).Still true s4 := h3.reportLevels
  have h5 : (s.restoredTo i).Still true s5 := by
    have hgates : ∀ (l : List Nat) (u : State), (∀ g ∈ l, g < 16) → (s.restoredTo i).Still true u →
        (s.restoredTo i).Still true (u.forEach l fun s g => s.settleSwap g) := fun l => by
      induction l with
      | nil => exact fun u _ hu => hu
      | cons g l ih => exact fun u hl hu => ih _ (fun x hx => hl x (List.mem_cons_of_mem _ hx)) (hu.settleSwap g (hl g List.mem_cons_self))
    exact hgates _ _ (fun g hg => List.mem_range.1 hg) h4
  exact h5.setAsleep _ _ _

theorem State.wakeTick_image (s : State) (rtc : Nat) (env : TrainEnv) (i : Image) (h : s.image = some i) :
    s.wakeTick rtc env = (s.loadCadence rtc).restore i := by
  unfold State.wakeTick
  rw [h]

theorem State.wakeTick_spec (s : State) (rtc : Nat) (env : TrainEnv) (i : Image) (h : s.image = some i) : let t := s.wakeTick rtc env
    t.power = .restored ∧ t.image = none ∧ t.windows = i.windows ∧ t.cadence = (s.cadenceOnWake rtc).1 ∧
      t.flag F.pwrState_PADS_LATCHED = true := by
  have hload : (s.loadCadence rtc).cadence = (s.cadenceOnWake rtc).1 := rfl
  rw [s.wakeTick_image rtc env i h]
  generalize s.loadCadence rtc = u at *
  obtain ⟨hpower, himage, hwindows, hcadence, hpads⟩ := u.restoredTo_spec i
  have hstill := u.restore_still i
  exact ⟨hstill.power.trans hpower, hstill.image.trans himage, hstill.windows.trans hwindows, hstill.cadence.trans (hcadence.trans hload),
    (State.flag_of_reg (hstill.regs A.pwrState (.inl rfl))).trans hpads⟩

/-! ### The release of the pads -/

/-- A loop whose steps leave these alone for the members of the list. -/
theorem State.Still.forEach_mem {live : Bool} {α : Type} {σ s : State} {f : State → α → State} (l : List α) (h : σ.Still live s)
    (hf : ∀ u, ∀ a ∈ l, σ.Still live u → σ.Still live (f u a)) : σ.Still live (s.forEach l f) := by
  unfold State.forEach
  induction l generalizing s with
  | nil => exact h
  | cons a l ih => exact ih (hf s a List.mem_cons_self h) fun u b hb => hf u b (List.mem_cons_of_mem _ hb)

theorem State.Still.portOn {live : Bool} {σ s : State} (h : σ.Still live s) (n : Nat) (hn : n < 113) : σ.Still live (s.portOn n) := by
  have hport : σ.Still live (if s.portBuilt n then s.modPort n fun p =>
      { p.loseHeld with everEn := true, credited := true, credits := s.initialCredits n, spent := []
                        crs := ⟨true, 0, 0⟩ :: (List.range 64).map fun l => ⟨false, SMap.get (s.initialCredits n) 0 l, l⟩ }
      else s) := .ite (h.upd rfl) h
  exact hport.raise (F.glbPortCfg_EN n) (by
    simp only [StillReg, F.glbPortCfg_EN, A.glbPortCfg, A.pwrState, A.glbResetStatus]; omega)

theorem State.Still.enterGroup {live : Bool} {σ s : State} (h : σ.Still live s) (g : Nat) (hg : g < 4) : σ.Still live (s.enterGroup g) :=
  h.count _ _ (notStill_pwr (by change 0x4010 ≤ 0x004120 + g * 0x8; omega) (by change 0x004120 + g * 0x8 < 0x4200; omega))

/-- The end of the checks leaves PWR.STATE, and the block CHECKING or ACTIVE. -/
theorem State.checkingDone_spec (s : State) (h : s.power = .checking) :
    (s.checkingDone.power = .checking ∨ s.checkingDone.power = .active) ∧ s.checkingDone.reg A.pwrState = s.reg A.pwrState := by
  unfold State.checkingDone
  split
  · extract_lets s1 s2 s3 s4
    have h2 : s.Still true s2 :=
      State.Still.post (.forEach _ (.refl s) fun _ k hu => .forEach _ hu fun _ p hv => hv.post _ _ _ _) _ _ _ _
    let b : State := { s2 with power := .active }
    have h3 : b.Still true s3 := ((State.Still.refl b).enterGroup 0 (by decide)).scrubOn
    have h4 : b.Still true s4 := h3.forEach_mem _ fun u n hn hu => hu.portOn n (List.mem_range.1 (List.mem_filter.1 hn).1)
    have h5 := h4.forEach s4.stacks (f := fun s k => (s.fset (F.bowStatus_COPY k) (bit ((s.mig k).any fun m => m.st == .copying))).migProceed k)
      fun _ k hu => (hu.fsetStk _ _ (by change 0x100000 ≤ 0x103018 + k * 0x20000; omega)).migProceed k
    exact ⟨.inr h5.power, (h5.regs _ (.inl rfl)).trans (h2.regs _ (.inl rfl))⟩
  · exact ⟨.inl h, rfl⟩

theorem State.Still.setTrainLost {live : Bool} {σ s : State} (h : σ.Still live s) (n : Nat) : σ.Still live { s with trainLost := n } := h.upd rfl

theorem State.padRelease_spec (s : State) (env : TrainEnv) (h : s.power = .restored) :
    (s.padRelease env).flag F.pwrState_PADS_LATCHED = false ∧ ((s.padRelease env).power = .checking ∨ (s.padRelease env).power = .active) := by
  unfold State.padRelease
  rw [if_neg (by simp [h])]
  extract_lets gone b0 b s1 s2 s3
  have h1 : b.Still true s1 := (State.Still.refl b).forEach _ fun _ k hu => ((hu.settleMult k).trainStack k env).freeStack k .train
  have h2 : b.Still true s2 := h1.setTrainLost _
  have h3 : b.Still true s3 := h2.forEach _ fun _ k hu => hu.canaryCheck k
  obtain ⟨hpower, hreg⟩ := s3.checkingDone_spec h3.power
  refine ⟨?_, hpower⟩
  rw [State.flag_of_reg (hreg.trans (h3.regs _ (.inl rfl)))]
  exact s.flag_fset_bit F.pwrState_PADS_LATCHED false (by decide) rfl

end Sys2Proof.Machine

/-! PROOFS. What the steps of an entry, the sibling, the wake sources and the supplies do (R377 to R394), and O58. -/
namespace Sys2Proof.Machine

/-- Step 4 of the entry: with nothing under way at the stacks the image is made. -/
theorem State.entryNext_image (s : State) (hstep : s.drone.step = 4)
    (hrest : ∀ k < s.build.nStacks, s.canaryRuns k = false ∧ s.stackEmpty k = true) : s.entryNext = s.retainImage := by
  have hall : (s.stacks.all fun k => !s.canaryRuns k && s.stackEmpty k) = true := (s.allStacks _).2 fun k hk => by
    rw [(hrest k hk).1, (hrest k hk).2]; rfl
  rw [s.entryNext_4 ⟨by omega, by omega, by omega⟩, if_pos ⟨hstep, hall⟩]

theorem State.retainImage_waits (s : State) (hjoint : s.flag F.pwrCfg_JOINT = true) (hready : s.drone.sibReady = false) : s.retainImage =
    { s with image := some s.makeImage, drone := { s.drone with cLast := s.cadence, step := 6, joint := some s.cadence } } := by
  rw [s.retainImage_eq, hjoint, hready]; rfl

theorem State.retainImage_latches (s : State) (h : s.flag F.pwrCfg_JOINT = false ∨ s.drone.sibReady = true) : s.retainImage = s.imageMade.padsLatch := by
  rw [s.retainImage_eq, if_neg]
  rcases h with h | h <;> simp [h]

/-- Step 3 of the entry: with the stacks empty and no line DIRTY the canaries are written. -/
theorem State.entryNext_canaries (s : State) (hstep : s.drone.step = 3)
    (h : ∀ k < s.build.nStacks, s.stackEmpty k = true ∧ s.linesClean k = true) :
    s.entryNext = (s.forEach s.stacks fun s k => s.canaryWrite k).entryStep 4 := by
  rw [s.entryNext_3 hstep, (s.allStacks _).2 fun k hk => (h k hk).1, (s.allStacks _).2 fun k hk => (h k hk).2]
  rfl

/-- An entry that a duty of the Bow engines stops at its first step. -/
theorem State.entryBegin_waits (s : State) (off : Bool) (h : s.bowRests = false) : s.entryBegin off = s.entryBegun off := by
  obtain ⟨hframe, _⟩ := s.entryBegun_spec off
  rw [s.entryBegin_eq]
  generalize s.entryBegun off = b at *
  refine b.retainProceed_stuck (b.entryNext_stuck (.inl ⟨by rw [hframe], ?_⟩))
  rw [hframe]
  exact h

theorem State.slowTick_cases (s : State) (rtc : Nat) (edge : Bool) :
    (s.power = .entering → edge = true → s.slowTick rtc edge = s.retainEnd rtc) ∧
    (s.power = .entering → edge = false → s.slowTick rtc edge = s) ∧
    (∀ env, s.power = .waking → s.drone.locked = some env → s.slowTick rtc edge = s.wakeTick rtc env) ∧
    (s.power = .waking → s.drone.locked = none → s.slowTick rtc edge = s) ∧
    (s.power ≠ .entering → s.power ≠ .waking → s.slowTick rtc edge = s) := by
  unfold State.slowTick
  refine ⟨fun hp he => ?_, fun hp he => ?_, fun env hp hl => ?_, fun hp hl => ?_, fun h1 h2 => ?_⟩
  · rw [if_pos hp, he]; rfl
  · rw [if_pos hp, he]; rfl
  · rw [if_neg (by rw [hp]; decide), if_pos hp, hl]
  · rw [if_neg (by rw [hp]; decide), if_pos hp, hl]
  · rw [if_neg h1, if_neg h2]

theorem State.retainEnd_asleep (s : State) (rtc : Nat) (h : s.drone.held = 0) : let t := s.retainEnd rtc
    t.power = .retain ∧ t.drone.rEntry = rtc ∧ t.drone.cEntry = s.cadence ∧ t.image = s.image ∧ t.cache = [] ∧ t.slots = [] ∧ t.pccs = [] ∧
      t.dram = s.dram := by
  intro t
  have heq : t = s.asleep rtc := (s.retainEnd_eq rtc).trans (if_pos h)
  rw [heq]
  exact ⟨rfl, rfl, rfl, rfl, rfl, rfl, rfl, rfl⟩

theorem State.retainEnd_held (s : State) (rtc : Nat) (h : s.drone.held ≠ 0) :
    (s.retainEnd rtc).power = .waking ∧ (s.retainEnd rtc).drone.held = 0 := by
  rw [(s.retainEnd_eq rtc).trans (if_neg h)]
  exact ⟨rfl, rfl⟩

/-! ### The sibling -/

theorem exec_jointTimeout_none (s : State) (h : s.drone.joint = none) : exec .jointTimeout s = .next s := by
  change execJointTimeout s = _
  unfold execJointTimeout
  rw [h]

theorem exec_jointTimeout_due (s : State) (t : Nat) (h : s.drone.joint = some t)
    (hdue : s.reaches (t + max 1 (s.fget F.pwrCfg_JOINT_TO) * 1000)) : exec .jointTimeout s =
      .next ((s.momentOf (t + max 1 (s.fget F.pwrCfg_JOINT_TO) * 1000)).raise F.pwrWakeStatus_JOINT_ALONE).padsLatch := by
  change execJointTimeout s = _
  unfold execJointTimeout
  simp only [h, s.atCadence_reaches _ hdue]

theorem exec_siblingReady (s : State) : exec .siblingReady s = .next
    (if s.build.bridge && s.power = .entering && s.drone.joint.isSome then s.padsLatch
      else if s.build.bridge && s.coreOn then { s with drone := { s.drone with sibReady := true } } else s) := rfl

theorem siblingReady_latches (s : State) (hb : s.build.bridge = true) (hp : s.power = .entering) (hj : s.drone.joint ≠ none) :
    exec .siblingReady s = .next s.padsLatch := by
  rw [exec_siblingReady, if_pos]
  simp [hb, hp, Option.isSome_iff_ne_none, hj]

theorem siblingReady_noted (s : State) (hb : s.build.bridge = true) (h : s.power ≠ .entering ∨ s.drone.joint = none) (hon : s.coreOn = true) :
    exec .siblingReady s = .next { s with drone := { s.drone with sibReady := true } } := by
  rw [exec_siblingReady, if_neg, hb, hon]
  · rfl
  · rcases h with h | h <;> simp [h]

/-! ### The wake commands -/

/-- A wake command is the wake source it stands for. -/
theorem exec_wakes (c : Instr) (src : Nat) (env : TrainEnv) (s : State) (h : (c = .wakeN env ∧ src = 1) ∨ (c = .wakeEdge env ∧ src = 2) ∨
    (c = .droneAlarm env ∧ src = 4 ∧ s.alarmHolds = true) ∨ (c = .siblingWake env ∧ src = 8 ∧ s.build.bridge = true)) :
    exec c s = .next (s.wake src env) ∧ (edgeWake src = true ↔ src = 2 ∨ src = 8) := by
  rcases h with ⟨rfl, rfl⟩ | ⟨rfl, rfl⟩ | ⟨rfl, rfl, hholds⟩ | ⟨rfl, rfl, hbridge⟩
  · exact ⟨rfl, by decide⟩
  · exact ⟨rfl, by decide⟩
  · exact ⟨congrArg Host.Outcome.next (if_pos hholds), by decide⟩
  · exact ⟨congrArg Host.Outcome.next (if_pos hbridge), by decide⟩

theorem exec_cadencePllLock (env : TrainEnv) (s : State) : exec (.cadencePllLock env) s = .next
    (if s.power = .waking then { s with drone := { s.drone with locked := some (s.drone.locked.getD env) } }
      else if s.cpUp then s.raise F.glbCadStatus_LOCKED else s) := rfl

/-- A wake without an image is a full reset that records the failure (R384). -/
theorem State.wakeTick_noImage (s : State) (rtc : Nat) (env : TrainEnv) (h : s.image = none) : ∃ u, s.wakeTick rtc env = u.fullReset 4 env ∧
    s.sets u [(F.pwrWakeStatus_SOURCES, s.drone.waking % 16), (F.pwrWakeStatus_FROM, 2), (F.pwrWakeStatus_RESTORE_FAIL, 1)] := by
  refine ⟨(s.wakeStatus s.drone.waking 2).raise F.pwrWakeStatus_RESTORE_FAIL, by unfold State.wakeTick; rw [h], ?_⟩
  have hset : s.sets ((s.wakeStatus s.drone.waking 2).raise F.pwrWakeStatus_RESTORE_FAIL)
      [(F.pwrWakeStatus_RESTORE_FAIL, 1), (F.pwrWakeStatus_SOURCES, s.drone.waking % 16), (F.pwrWakeStatus_FROM, 2)] := by
    refine State.sets_raise _ _ _ _ (by decide) ?_ (s.sets_wakeStatus s.drone.waking 2 (by decide))
    simp only [List.forall_mem_cons]
    exact ⟨.inr (.inl (by decide : (3 : Nat) < 8)), .inr (.inl (by decide : (6 : Nat) < 8)), by simp⟩
  exact s.sets_perm _ _ _ (fun e => by simp only [List.mem_cons, List.not_mem_nil, or_false]; grind) hset

theorem State.cadenceOnWake_cases (s : State) (rtc : Nat) :
    let ticks := (rtc + 2 ^ 48 - s.drone.rEntry) % 2 ^ 48
    let num := ticks * 1953125 + s.fget F.pwrCadFrac_FRAC
    let v := (s.drone.cEntry + num / 64) % 2 ^ 64
    (s.drone.cLast < v → s.cadenceOnWake rtc = (v, num % 64)) ∧
    (v ≤ s.drone.cLast → s.cadenceOnWake rtc = (s.drone.cLast + 1, num % 64)) := by
  intro ticks num v
  have heq : s.cadenceOnWake rtc = (if v ≤ s.drone.cLast then s.drone.cLast + 1 else v, num % 64) := rfl
  rw [heq]
  exact ⟨fun h => by rw [if_neg (by omega)], fun h => by rw [if_pos h]⟩

/-! ### The supplies -/

theorem exec_coreSupplyLost_down (s : State) (h : s.power = .dead ∨ s.power = .off) :
    exec .coreSupplyLost s = .next { s with drone := { s.drone with supplied := false } } := by
  change execCoreSupplyLost s = _
  unfold execCoreSupplyLost
  rcases h with h | h <;> rw [h]

theorem exec_coreSupplyLost_up (s : State) (hdead : s.power ≠ .dead) (hoff : s.power ≠ .off) :
    exec .coreSupplyLost s = .next (State.goOff { s with drone := { s.drone with supplied := false }, ports := [] }) := by
  change execCoreSupplyLost s = _
  unfold execCoreSupplyLost
  cases h : s.power with
  | dead => exact absurd h hdead
  | off => exact absurd h hoff
  | active => rfl
  | quietEntry => rfl
  | quiet => rfl
  | entering => rfl
  | retain => rfl
  | waking => rfl
  | restored => rfl
  | checking => rfl

theorem State.coreReset_reg (s : State) (a : Nat) : (s.coreReset fun _ => false).reg a = RegFile.reset a := by
  have hnone : (s.coreReset fun _ => false).regs = [] := List.filter_eq_nil_iff.2 fun _ _ => Bool.false_ne_true
  unfold State.reg
  rw [hnone]
  rfl

theorem exec_dronePowerOn_dead (s : State) (h : s.power = .dead) : exec .dronePowerOn s = .next
    (State.enterGroup { (s.coreReset fun _ => false) with power := .off, image := none, drone := Drone.init s.drone.supplied } 3) :=
  congrArg Host.Outcome.next (if_pos h)

theorem State.dronePowerOn_counts (s : State) : (State.enterGroup { (s.coreReset fun _ => false) with
    power := .off, image := none, drone := Drone.init s.drone.supplied } 3).fget (F.pwrEnt_COUNT 3) = 1 := by
  have hreg : ∀ u : State, u.reg (A.pwrEnt 3) = RegFile.reset (A.pwrEnt 3) → (u.enterGroup 3).fget (F.pwrEnt_COUNT 3) = 1 := fun u hu => by
    have hzero : u.fget (F.pwrEnt_COUNT 3) = 0 := by
      have hword : RegFile.reset (A.pwrEnt 3) = 0 := by decide +kernel
      change bitsOf (u.reg (A.pwrEnt 3)).toNat _ _ = 0
      rw [hu, hword]
      decide
    refine (State.fget_fset_same _ (F.pwrEnt_COUNT 3) _ (Fld.ok_mk (by decide))).trans ?_
    rw [hzero]
    decide
  exact hreg _ (s.coreReset_reg _)

end Sys2Proof.Machine

/-! PROOFS. O58: the power states and their wake sources. -/
namespace Sys2Proof.Machine

theorem powerCommands (s : State) (h : s.cpReady) (u : State) (hu : u = s.cpOk) :
    let refused := fun (c : Instr) (r : Nat) => ∃ t, exec c s = .next t ∧ u.sets t [(F.pwrState_REFUSED, 1), (F.pwrState_REASON, r)]
    (u.pwrReason true ≠ 0 → refused .pwrQuiet (u.pwrReason true)) ∧
    (u.pwrReason false ≠ 0 → refused .pwrRetain (u.pwrReason false) ∧ refused .pwrOff (u.pwrReason false)) ∧
    (u.pwrReason true = 0 → ∃ t, exec .pwrQuiet s = .next t ∧ t = { u with power := .quietEntry, regs := t.regs } ∧
      ∀ k < u.build.nStacks, t.flag (F.bowStatus_SCRUB k) = false) ∧
    (u.pwrReason false = 0 → exec .pwrRetain s = .next (u.entryBegin false) ∧ exec .pwrOff s = .next (u.entryBegin true)) ∧
    (u.power = .quiet → exec .pwrActive s = .next (u.quietExit 0)) ∧ (u.power ≠ .quiet → refused .pwrActive 1) ∧
    (∀ op, refused (.pwrCmdReserved op) 1) ∧
    (∀ env, u.power ≠ .restored → refused (.padRelease env) 1) := by
  subst hu
  intro refused
  have hquiet := exec_pwrQuiet_ready s h
  have hretain := exec_pwrRetain_ready s h
  have hoff := exec_pwrOff_ready s h
  have hactive := exec_pwrActive_ready s h
  refine ⟨fun hr => ⟨_, hquiet.trans (congrArg Host.Outcome.next (if_neg hr)), s.cpOk.sets_pwrRefuse _ (s.cpOk.pwrReason_lt _)⟩,
    fun hr => ⟨⟨_, hretain.trans (congrArg Host.Outcome.next (if_neg hr)), s.cpOk.sets_pwrRefuse _ (s.cpOk.pwrReason_lt _)⟩,
      ⟨_, hoff.trans (congrArg Host.Outcome.next (if_neg hr)), s.cpOk.sets_pwrRefuse _ (s.cpOk.pwrReason_lt _)⟩⟩,
    fun hr => ⟨_, hquiet.trans (congrArg Host.Outcome.next (if_pos hr)), ?_, s.cpOk.scrubOff_spec.2⟩,
    fun hr => ⟨hretain.trans (congrArg Host.Outcome.next (if_pos hr)), hoff.trans (congrArg Host.Outcome.next (if_pos hr))⟩,
    fun hp => hactive.trans (congrArg Host.Outcome.next (if_pos hp)),
    fun hp => ⟨_, hactive.trans (congrArg Host.Outcome.next (if_neg hp)), s.cpOk.sets_pwrRefuse 1 (by decide)⟩,
    fun op => ⟨_, s.cpDo_ready (.pwrCmdReserved op) (fun u => u.pwrRefuse 1) h, s.cpOk.sets_pwrRefuse 1 (by decide)⟩,
    fun env hp => ⟨_, (exec_padRelease_ready env s h).trans (congrArg Host.Outcome.next (if_pos (by simpa using hp))),
      s.cpOk.sets_pwrRefuse 1 (by decide)⟩⟩
  generalize s.cpOk = u
  have hframe := u.scrubOff_spec.1
  generalize u.scrubOff = v at *
  rw [hframe]

/-- What a wake source does in each power state. -/
theorem wakeCommands (c : Instr) (src : Nat) (env : TrainEnv) (s : State) (h : (c = .wakeN env ∧ src = 1) ∨ (c = .wakeEdge env ∧ src = 2) ∨
      (c = .droneAlarm env ∧ src = 4 ∧ s.alarmHolds = true) ∨ (c = .siblingWake env ∧ src = 8 ∧ s.build.bridge = true)) :
    (src &&& s.fget F.pwrCfg_WAKE_EN = 0 → exec c s = .next s) ∧
    (src &&& s.fget F.pwrCfg_WAKE_EN ≠ 0 →
      (s.power = .quiet → exec c s = .next (s.quietExit (s.wakeSources src))) ∧
      (s.power = .entering → s.drone.step = 7 → src = 2 ∨ src = 8 → exec c s = .next s) ∧
      (s.power = .entering → s.drone.step ≠ 7 ∨ (src ≠ 2 ∧ src ≠ 8) →
        exec c s = .next { s with drone := { s.drone with held := s.drone.held ||| src } }) ∧
      (s.power = .retain → exec c s = .next { s with
        power := .waking, drone := { s.drone with waking := s.wakeSources src, held := 0 } }) ∧
      (s.power = .off → s.drone.supplied = false → exec c s = .next s) ∧
      (s.power = .off → s.drone.supplied = true → ∃ u, exec c s = .next (u.fullReset 3 env) ∧
        s.sets u [(F.pwrWakeStatus_SOURCES, s.wakeSources src % 16), (F.pwrWakeStatus_FROM, 3)]) ∧
      (s.power ≠ .quiet → s.power ≠ .entering → s.power ≠ .retain → s.power ≠ .off → exec c s = .next s)) := by
  obtain ⟨hexec, hedge⟩ := exec_wakes c src env s h
  rw [hexec]
  refine ⟨fun hno => congrArg Host.Outcome.next (s.wake_disabled src env hno), fun hon => ?_⟩
  obtain ⟨hquiet, hentering, hretain, hoff, helse⟩ := s.wake_enabled src env hon
  refine ⟨fun hp => congrArg Host.Outcome.next (hquiet hp), fun hp hstep hsrc => congrArg Host.Outcome.next ((hentering hp).trans
      (if_pos ⟨hstep, hedge.2 hsrc⟩)),
    fun hp hgo => congrArg Host.Outcome.next ((hentering hp).trans (if_neg fun hlost => ?_)),
    fun hp => congrArg Host.Outcome.next (hretain hp),
    fun hp hsup => congrArg Host.Outcome.next ((hoff hp).trans (if_neg (by rw [hsup]; decide))),
    fun hp hsup => ⟨_, congrArg Host.Outcome.next ((hoff hp).trans (if_pos hsup)), s.sets_wakeStatus _ 3 (by decide)⟩,
    fun h1 h2 h3 h4 => congrArg Host.Outcome.next (helse h1 h2 h3 h4)⟩
  obtain ⟨hstep, hlost⟩ := hlost
  rcases hgo with hgo | ⟨h2, h8⟩
  · exact hgo hstep
  · exact (hedge.1 hlost).elim h2 h8

/-- Settles O58: the first condition of R374 that fails is the reason of a refusal; the steps of an entry, the SLOWCLK edge, the exits and
the supplies each by its own lemma, and the restored image by what its way back leaves alone (`restore_still`). -/
theorem powerStates : Obligations.PowerStates := by
  unfold Obligations.PowerStates
  refine ⟨fun s h => ?_, fun s => ?_, fun s => ?_, wakeCommands, fun env s => ?_, fun s => ?_⟩
  · intro u refused
    obtain ⟨hquiet, hoffs, hquietOk, hentry, hactive, hactiveNo, hreserved, hpads⟩ := powerCommands s h u rfl
    refine ⟨u.pwrReason_none, hquiet, hoffs, hquietOk, hentry, fun hr hrests hcache hmisses => ?_, hactive, hactiveNo, hreserved, hpads,
      fun env hp => ⟨_, exec_padRelease_ready env s h, u.padRelease_spec env hp⟩⟩
    obtain ⟨v, hv⟩ := u.entryBegin_off hrests hcache hmisses
    obtain ⟨hpower, himage, hdram, hcadence, _, _⟩ := v.goOff_spec
    exact ⟨v.goOff, (hentry hr).2.trans (congrArg Host.Outcome.next hv), hpower, himage, hdram, hcadence⟩
  · refine ⟨s.retainProceed_other, fun off hno => ?_, fun hstep hrests => ?_, fun hstep hgone hoff => ?_, fun hstep hgone hoff => ?_,
      s.entryNext_canaries, s.entryNext_stuck, fun hstep hrest => ⟨fun hjoint hready => ?_, fun hgo => ?_⟩,
      fun rtc hheld => ⟨_, rfl, s.retainEnd_asleep rtc hheld⟩, s.retainEnd_held, s.slowTick_cases⟩
    · exact ⟨_, s.entryBegin_waits off hno, s.entryBegun_spec off⟩
    · rw [s.entryNext_1 hstep, hrests]; rfl
    · rw [s.entryNext_2 hstep, hgone, hoff]; rfl
    · rw [s.entryNext_2 hstep, hgone, hoff]; rfl
    · exact (s.entryNext_image hstep hrest).trans (s.retainImage_waits hjoint hready)
    · exact ⟨_, (s.entryNext_image hstep hrest).trans (s.retainImage_latches hgo), s.imageMade.padsLatch_sets⟩
  · refine ⟨fun hp => if_pos hp, fun hp => if_neg hp, s.quietExit_spec, fun hno => ?_, fun hp hrests hstacks => ?_, exec_jointTimeout_none s,
      fun t ht hdue => ?_, siblingReady_latches s, siblingReady_noted s, fun hb => ⟨?_, fun env => ?_⟩, fun hno env => ?_⟩
    · rw [exec_quietEntryDone, if_neg]
      rcases hno with hp | hrests | hstacks
      · simp [hp]
      · simp [hrests]
      · simp [s.notAllStacks _ hstacks]
    · rw [exec_quietEntryDone, if_pos (by simp [hp, hrests, (s.allStacks _).2 hstacks])]
      exact ⟨_, rfl, s.quietReached_spec⟩
    · exact ⟨_, State.sets_raise_alone _ _ (by decide), exec_jointTimeout_due s t ht hdue⟩
    · rw [exec_siblingReady, hb]; rfl
    · exact congrArg Host.Outcome.next (if_neg (by rw [hb]; decide))
    · exact congrArg Host.Outcome.next (if_neg (by rw [hno]; decide))
  · rw [exec_cadencePllLock]
    refine ⟨fun hp => congrArg Host.Outcome.next (if_pos hp),
      fun hp hup => congrArg Host.Outcome.next ((if_neg hp).trans (if_neg (by rw [hup]; decide))),
      fun hp hup => ⟨_, congrArg Host.Outcome.next ((if_neg hp).trans (if_pos hup)), s.sets_raise_alone _ (by decide)⟩,
      fun i rtc hi => ⟨_, rfl, s.wakeTick_spec rtc env i hi⟩, fun rtc hi => s.wakeTick_noImage rtc env hi, s.cadenceOnWake_cases⟩
  · refine ⟨exec_coreSupplyLost_down s, fun hdead hoff => ?_, ⟨_, rfl, rfl, rfl, rfl, s.coreReset_reg⟩,
      fun hp => congrArg Host.Outcome.next (if_neg hp), fun hp => ?_, fun hp => ?_, fun hp => ?_⟩
    · obtain ⟨hpower, himage, hdram, _, hsupplied, hports⟩ :=
        State.goOff_spec { s with drone := { s.drone with supplied := false }, ports := [] }
      exact ⟨_, exec_coreSupplyLost_up s hdead hoff, hpower, hsupplied, himage, hdram, hports rfl⟩
    · exact ⟨_, exec_dronePowerOn_dead s hp, rfl, rfl, rfl, s.dronePowerOn_counts⟩
    · exact congrArg Host.Outcome.next (if_neg (by simp [State.droneOn, hp]))
    · exact ⟨_, congrArg Host.Outcome.next (if_pos (by simp [State.droneOn, hp])),
        s.sets_congr _ _ _ _ (s.sets_raise_alone F.pwrRoCal_STOPPED (by decide)) rfl rfl⟩

end Sys2Proof.Machine

/-! PROOFS. What the work of the near-memory units leaves alone: which of them are in service, and which are to leave it. -/
namespace Sys2Proof.Machine

section
variable {live : Bool} {σ s t : State}

/-- The counters of an NMU. -/
theorem notStill_nmuCount {a : Nat} (i c : Nat) (ha : a = c + i * 0x800) (hc : 0x40010 < c) (hc' : c < 0x40800) : ¬ StillReg a := fun hs => by
  simp only [StillReg, A.pwrState, A.glbResetStatus] at hs; omega

theorem State.Still.countNmu (h : σ.Still live s) (f : Fld) (n i c : Nat) (hf : f.addr = c + i * 0x800) (hc : 0x40010 < c) (hc' : c < 0x40800) :
    σ.Still live (s.count f n) := h.count f n (notStill_nmuCount i c hf hc hc')

theorem State.Still.countHalts (h : σ.Still live s) (i n : Nat) : σ.Still live (s.count (F.nmuHalts_COUNT i) n) :=
  h.countNmu _ _ i 0x40078 rfl (by decide) (by decide)

/-! ### Work atoms -/

theorem State.Still.ownStart (h : σ.Still live s) (o : Own) (x : Access) (kind : PKind) (a n : Nat) (data : List Atom) (poison : List Bool)
    (be : List (BitVec 64)) : σ.Still live (s.ownStart o x kind a n data poison be) := h.upd rfl

theorem State.Still.nmuIssue (h : σ.Still live s) (o : Own) (n m : Nat) (j : Job) (kind : PKind) (a : Nat) (data : List Atom) (be : List (BitVec 64)) :
    σ.Still live (s.nmuIssue o n m j kind a data be) := (h.ownStart ..).modReq _ _

theorem State.Still.setReqs (h : σ.Still live s) (l : SMap Req) : σ.Still live { s with reqs := l } := h.upd rfl
theorem State.Still.setJobs (h : σ.Still live s) (m : SMap Job) : σ.Still live { s with jobs := m } := h.upd rfl
theorem State.Still.nmuDid (h : σ.Still live s) (n : Nat) : σ.Still live (s.nmuDid n) := h.upd rfl
theorem State.Still.nmuServed (h : σ.Still live s) (n r : Nat) : σ.Still live (s.nmuServed n r) := h.upd rfl
theorem State.Still.readsDrop (h : σ.Still live s) (id : Nat) (k : Option Nat) : σ.Still live (s.readsDrop id k) := h.upd rfl

theorem State.Still.exchange (h : σ.Still live s) (n a : Nat) : σ.Still live (s.exchange n a) := by
  unfold State.exchange
  split
  next m _ =>
    exact .ite h ((h.countNmu _ 1 n 0x40050 rfl (by decide) (by decide)).countNmu _ 1 m 0x40050 rfl (by decide) (by decide))
  · exact h

theorem State.Still.countWork (h : σ.Still live s) (n elems : Nat) (res : List Res) : σ.Still live (s.countWork n elems res) :=
  State.Still.countNmu (.countNmu (.countNmu (h.countNmu _ _ n 0x40040 rfl (by decide) (by decide)) _ _ n 0x40058 rfl (by decide) (by decide))
    _ _ n 0x40060 rfl (by decide) (by decide)) _ _ n 0x40068 rfl (by decide) (by decide)

theorem State.Still.itemDone (h : σ.Still live s) (id k : Nat) (j : Job) : σ.Still live (s.itemDone id k j) := by
  have hjob := h.setJobs (SMap.insert s.jobs id { j with done := j.done ++ [k] })
  exact .ite (hjob.count _ _ fun hs => by simp only [StillReg, A.pwrState, A.glbResetStatus, F.seqNmuDiverged_COUNT, A.seqNmuDiverged] at hs; omega) hjob

theorem State.Still.resultWrite (h : σ.Still live s) (n id k : Nat) (j : Job) (w : AtomW × Nat) : σ.Still live (s.resultWrite n id k j w) :=
  (h.nmuIssue ..).exchange _ _

/-- One write of a work atom as it is made. -/
def Job.openOne (j : Job) (r : State × List AtomW) (w : AtomW) : State × List AtomW :=
  if j.overlapped w.addr then (r.1.freed, r.2 ++ [⟨w.addr, (Config.freeAtom r.1.free).toNat, 2 ^ 512 - 1⟩]) else (r.1, r.2 ++ [w])

/-- Opening atoms draws free values alone. -/
theorem State.opened_frame (s : State) (j : Job) (l : List AtomW) : (s.opened j l).1 = { s with free := (s.opened j l).1.free } := by
  have hopened : s.opened j l = l.foldl j.openOne (s, []) := rfl
  have hone : ∀ (r : State × List AtomW) (w : AtomW), r.1 = { s with free := r.1.free } → (j.openOne r w).1 = { s with free := (j.openOne r w).1.free } := by
    intro r w hr
    unfold Job.openOne
    split
    · change r.1.freed = { s with free := r.1.freed.free }
      rw [hr]
      rfl
    · exact hr
  have hall : ∀ (l : List AtomW) (r : State × List AtomW), r.1 = { s with free := r.1.free } →
      (l.foldl j.openOne r).1 = { s with free := (l.foldl j.openOne r).1.free } := fun l => by
    induction l with
    | nil => exact fun r hr => hr
    | cons w l ih => exact fun r hr => ih _ (hone r w hr)
  rw [hopened]
  exact hall l (s, []) rfl

theorem State.Still.setFree (h : σ.Still live s) (n : Nat) : σ.Still live { s with free := n } := h.upd rfl

theorem State.Still.opened (h : σ.Still live s) (j : Job) (l : List AtomW) : σ.Still live (s.opened j l).1 := by
  rw [s.opened_frame j l]
  exact h.setFree _

theorem State.Still.itemCompute (h : σ.Still false s) (n id k : Nat) (j : Job) (reads : List Nat) (v : View) :
    σ.Still false (s.itemCompute n id k j reads v) := by
  unfold State.itemCompute
  extract_lets x j' o s0 s1 s2
  have h1 : σ.Still false s1 := (h.opened j _).setJobs _
  have h2 : σ.Still false s2 := (h1.forEach _ fun _ a hu => hu.exchange n a).countWork n _ _
  clear_value s2
  exact .ite (h.jobTrap id j _) (.ite ((h2.nmuDid n).itemDone id k j') (h2.forEach _ fun _ w hu => hu.resultWrite n id k j' w))

theorem State.Still.itemGo (h : σ.Still false s) (n id k : Nat) (j : Job) : σ.Still false (s.itemGo n id k j) := by
  have hread := h.readsDrop id (some k)
  have hwrote := h.setReqs (s.reqs.filter fun e => !e.2.writesWork id k)
  unfold State.itemGo
  refine .ite (.ite h ?_) (.ite h ?_)
  · dsimp only
    split
    · exact .jobTrap (.ite (hread.countHalts n 1) hread) id j _
    · exact hread.itemCompute n id k j _ _
  · dsimp only
    split
    · exact hwrote.jobTrap id j _
    · exact hwrote.itemDone id k j

theorem State.Still.itemStart (h : σ.Still false s) (n id k : Nat) (j : Job) : σ.Still false (s.itemStart n id k j) :=
  .ite (h.jobTrap id j _) (h.forEach _ fun _ _ hu => hu.nmuIssue ..)

theorem State.Still.nmuWorkAtom (h : σ.Still false s) (n id k : Nat) : σ.Still false (s.nmuWorkAtom n id k) := by
  unfold State.nmuWorkAtom
  split
  · exact h
  next j _ =>
    refine .ite (h.itemGo n id k j) (.ite h ?_)
    split
    · exact h.jobTrap id j _
    · exact .ite ((h.nmuServed n _).itemStart n id k j) h

/-! ### Atomic-add-beside -/

theorem State.Still.deny (h : σ.Still live s) (k a mid : Nat) (o : POrigin) (d : Denial) : σ.Still live (s.deny k a mid o d) := by
  have haddr : 0x100000 ≤ A.accDenyAddr k := by change 0x100000 ≤ 0x100118 + k * 0x20000; omega
  have hcount := h.count (F.accDenied_COUNT k) 1 (notStill_of_stack (by change 0x100000 ≤ 0x100110 + k * 0x20000; omega))
  unfold State.deny
  dsimp only
  exact .ite hcount (State.Still.post (.setReg (.raise (hcount.fsetStk _ _ haddr) _ (notStill_of_stack haddr)) _ _
    (notStill_of_stack (by change 0x100000 ≤ 0x100120 + k * 0x20000; omega))) _ _ _ _)

theorem State.Still.addAtom (h : σ.Still live s) (k p n : Nat) (q : Piece) (e : Nat × Atom × Bool × Bool) : σ.Still live (s.addAtom k p n q e) := by
  have hdid := (h.nmuDid n).nmuServed n 4
  have hcount := (hdid.countNmu (F.nmuAtomicAtoms_COUNT n) 1 n 0x40048 rfl (by decide) (by decide)).countWork n
  exact .ite (((hdid.modPiece k p _ _).goOn k p _).setAtom _ _ _) ((((hcount _ _).modPiece k p _ _).goOn k p _).setAtom _ _ _)

theorem State.Still.addDenied (h : σ.Still live s) (k p : Nat) (q : Piece) : σ.Still live (s.addDenied k p q) := by
  unfold State.addDenied
  extract_lets s1 gone x s2 s3
  have h1 : σ.Still live s1 := h.deny ..
  have h2 : σ.Still live s2 := h1.modPiece k p _ _
  have h3 : σ.Still live s3 := .ite (h2.trainDone k p x) (h2.goOn k p _)
  exact h3.forEach _ fun _ _ hu => hu.setAtom _ _ _

end
end Sys2Proof.Machine

/-! PROOFS. NMUs taken out of service (R350, R351): what leaving changes, and what the other commands keep. -/
namespace Sys2Proof.Machine

/-- A loop whose steps all keep a property. -/
theorem State.forEach_inv {α : Type} (P : State → Prop) (f : State → α → State) (h : ∀ u a, P u → P (f u a)) (l : List α) (s : State) (hs : P s) :
    P (s.forEach l f) := by
  unfold State.forEach
  induction l generalizing s with
  | nil => exact hs
  | cons a l ih => exact ih (f s a) (h s a hs)

/-- A loop of which one step alone acts. -/
theorem State.forEach_only {α : Type} [DecidableEq α] (s : State) (f : State → α → State) (l : List α) (n : α) (hn : n ∈ l)
    (hbefore : ∀ a ∈ l, a ≠ n → f s a = s) (hafter : ∀ a ∈ l, f (f s n) a = f s n) : s.forEach l f = f s n := by
  induction l with
  | nil => cases hn
  | cons a l ih =>
    have hstep : s.forEach (a :: l) f = (f s a).forEach l f := rfl
    rw [hstep]
    by_cases ha : a = n
    · subst ha
      exact State.forEach_same _ _ _ fun b hb => hafter b (List.mem_cons_of_mem _ hb)
    · rw [hbefore a List.mem_cons_self ha]
      exact ih ((List.mem_cons.1 hn).resolve_left fun h => ha h.symm) (fun b hb => hbefore b (List.mem_cons_of_mem _ hb))
        fun b hb => hafter b (List.mem_cons_of_mem _ hb)

/-! ### Who is in service -/

theorem stillReg_nmuCtl {n : Nat} (h : n < 32) : StillReg (A.nmuCtl n) := by
  simp only [StillReg, A.nmuCtl, A.pwrState, A.glbResetStatus]; omega

theorem stillReg_nmuStatus {n : Nat} (h : n < 32) : StillReg (A.nmuStatus n) := by
  simp only [StillReg, A.nmuStatus, A.pwrState, A.glbResetStatus]; omega

/-- NMU `n` is not to leave service. -/
def State.stays (s : State) (n : Nat) : Prop := s.flag (F.nmuCtl_OFFLINE n) = false ∨ s.fget (F.nmuStatus_STATE n) ≠ 0

theorem State.Still.stays {live : Bool} {s t : State} (h : s.Still live t) {n : Nat} (hn : n < 32) (hs : s.stays n) : t.stays n :=
  hs.imp (fun hflag => (State.flag_of_reg (h.regs _ (stillReg_nmuCtl hn))).trans hflag)
    fun hst => by rw [State.fget_of_reg (h.regs _ (stillReg_nmuStatus hn))]; exact hst

theorem State.Still.noneLeaving {live : Bool} {s t : State} (h : s.Still live t) (hs : s.noneLeaving) : t.noneLeaving :=
  fun n hn => h.stays hn (hs n hn)

/-- What `offlines` does for one NMU. -/
def State.offline1 (s : State) (n : Nat) : State :=
  if s.flag (F.nmuCtl_OFFLINE n) && s.nmuActive n && (s.nmuItem n).isNone then s.nmuLeave n 3 3 else s

theorem State.offlines_eq (s : State) : s.offlines = s.forEach (List.range 32) State.offline1 := rfl

theorem State.offline1_of_stays (s : State) (n : Nat) (h : s.stays n) : s.offline1 n = s := by
  refine if_neg ?_
  rcases h with h | h <;> simp [h, State.nmuActive]

theorem State.offlines_same (s : State) (h : s.noneLeaving) : s.offlines = s :=
  State.forEach_same s _ _ fun n hn => s.offline1_of_stays n (h n (List.mem_range.1 hn))

theorem State.Still.offlines {live : Bool} {s t : State} (h : s.Still live t) (hs : s.noneLeaving) : t.offlines = t :=
  t.offlines_same (h.noneLeaving hs)

/-! ### Leaving -/

/-- NMU `n` out of service, serving nothing. -/
def State.nmuDown (s : State) (n st : Nat) : State := (s.fset (F.nmuStatus_STATE n) st).fset (F.nmuStatus_SERVES n) 0

/-- Share `j` of stack `k` passes to the NMU that takes it. -/
def State.sharePass (k : Nat) (s : State) (j : Nat) : State :=
  match s.adopter k j with
  | some m => s.fset (F.nmuStatus_SERVES m) (s.fget (F.nmuStatus_SERVES m) ||| 2 ^ j)
  | none => s

/-- The shares of NMU `n` have passed on. -/
def State.sharesPassed (s : State) (n st : Nat) : State :=
  (s.nmuDown n st).forEach ((List.range 4).filter fun j => (s.fget (F.nmuStatus_SERVES n)).testBit j) (State.sharePass (n / 4))

/-- Its items have passed on too, and the event is posted. -/
def State.leavePosted (s : State) (n st cause : Nat) : State :=
  State.post { (s.sharesPassed n st).itemsPass n with nmuLast := SMap.put (s.sharesPassed n st).nmuLast 0 (n / 4) n } 0x030B
    (unitPc (n / 4) 0) (n + cause * 2 ^ 8) (((s.nmuDown n st).adopter (n / 4) (n % 4)).getD 0x1F)

theorem State.nmuLeave_eq (s : State) (n st cause : Nat) : s.nmuLeave n st cause =
    if ((s.nmuDown n st).adopter (n / 4) (n % 4)).isSome then s.leavePosted n st cause
    else (s.leavePosted n st cause).haltJobs 3 fun _ j => (s.leavePosted n st cause).undoneAt j (n / 4) := rfl

/-- The two fields of an NMU's status do not meet. -/
theorem nmuStatus_apart (m n : Nat) : (F.nmuStatus_SERVES m).Apart (F.nmuStatus_STATE n) := .inr (.inl (by decide : (1 : Nat) < 8))

theorem nmuStatus_other {m n : Nat} (h : m ≠ n) : A.nmuStatus m ≠ A.nmuStatus n := by
  change 0x040010 + m * 0x800 ≠ 0x040010 + n * 0x800; omega

theorem State.nmuDown_state (s : State) (n st : Nat) (h : st < 4) : (s.nmuDown n st).fget (F.nmuStatus_STATE n) = st ∧
    (s.nmuDown n st).fget (F.nmuStatus_SERVES n) = 0 := by
  refine ⟨?_, State.fget_fset_same _ _ _ (Fld.ok_mk (by decide))⟩
  exact (State.fget_fset_apart _ _ _ _ (Fld.ok_mk (by decide)) (nmuStatus_apart n n)).trans
    ((State.fget_fset_same _ _ _ (Fld.ok_mk (by decide))).trans (Nat.mod_eq_of_lt h))

theorem State.nmuDown_reg (s : State) (n st a : Nat) (h : a ≠ A.nmuStatus n) : (s.nmuDown n st).reg a = s.reg a :=
  (State.reg_fset_other _ (F.nmuStatus_SERVES n) 0 a h.symm).trans (State.reg_fset_other s (F.nmuStatus_STATE n) st a h.symm)

theorem State.sharePass_state (k : Nat) (s : State) (j n : Nat) : (s.sharePass k j).fget (F.nmuStatus_STATE n) = s.fget (F.nmuStatus_STATE n) := by
  unfold State.sharePass
  split
  · exact State.fget_fset_apart _ _ _ _ (Fld.ok_mk (by decide)) (nmuStatus_apart _ n)
  · rfl

theorem State.sharePass_offline (k : Nat) (s : State) (j n : Nat) : (s.sharePass k j).flag (F.nmuCtl_OFFLINE n) = s.flag (F.nmuCtl_OFFLINE n) := by
  unfold State.sharePass
  split
  next m _ =>
    exact State.flag_of_reg (State.reg_fset_other _ (F.nmuStatus_SERVES m) _ (A.nmuCtl n) (by
      change 0x040010 + m * 0x800 ≠ 0x040000 + n * 0x800; omega))
  · rfl

/-- An NMU that takes a share is in service. -/
theorem State.adopter_active (s : State) (k j m : Nat) (h : s.adopter k j = some m) : s.fget (F.nmuStatus_STATE m) = 0 := by
  have hactive := List.find?_some h
  exact eq_of_beq hactive

/-- An NMU out of service takes no share. -/
theorem State.sharePass_serves (k : Nat) (s : State) (j n : Nat) (h : s.fget (F.nmuStatus_STATE n) ≠ 0) :
    (s.sharePass k j).fget (F.nmuStatus_SERVES n) = s.fget (F.nmuStatus_SERVES n) := by
  unfold State.sharePass
  split
  next m hm =>
    have hne : m ≠ n := fun heq => h (heq ▸ s.adopter_active k j m hm)
    exact State.fget_fset_apart _ _ _ _ (Fld.ok_mk (by decide)) (.inl (nmuStatus_other hne))
  · rfl

theorem State.sharePass_rest (k : Nat) (s : State) (j : Nat) :
    ((s.sharePass k j).events, (s.sharePass k j).cadence, (s.sharePass k j).jobs) = (s.events, s.cadence, s.jobs) := by
  unfold State.sharePass
  split <;> rfl

theorem State.sharesPassed_rest (s : State) (n st : Nat) :
    (s.sharesPassed n st).events = s.events ∧ (s.sharesPassed n st).cadence = s.cadence ∧ (s.sharesPassed n st).jobs = s.jobs := by
  have h := State.forEach_keeps (fun u : State => (u.events, u.cadence, u.jobs)) (State.sharePass (n / 4)) (fun u j => u.sharePass_rest _ j)
    (s.nmuDown n st) ((List.range 4).filter fun j => (s.fget (F.nmuStatus_SERVES n)).testBit j)
  exact ⟨congrArg (·.1) h, congrArg (·.2.1) h, congrArg (·.2.2) h⟩

theorem State.sharesPassed_state (s : State) (n st m : Nat) :
    (s.sharesPassed n st).fget (F.nmuStatus_STATE m) = (s.nmuDown n st).fget (F.nmuStatus_STATE m) :=
  State.forEach_keeps (fun u : State => u.fget (F.nmuStatus_STATE m)) _ (fun u j => State.sharePass_state _ u j m) _ _

theorem State.sharesPassed_serves (s : State) (n st : Nat) (h : st < 4) (h0 : st ≠ 0) : (s.sharesPassed n st).fget (F.nmuStatus_SERVES n) = 0 := by
  obtain ⟨hstate, hserves⟩ := s.nmuDown_state n st h
  have hinv := State.forEach_inv (fun u => u.fget (F.nmuStatus_STATE n) ≠ 0 ∧ u.fget (F.nmuStatus_SERVES n) = 0) (State.sharePass (n / 4))
    (fun u j hu => ⟨by rw [State.sharePass_state]; exact hu.1, (State.sharePass_serves _ u j n hu.1).trans hu.2⟩)
    ((List.range 4).filter fun j => (s.fget (F.nmuStatus_SERVES n)).testBit j) (s.nmuDown n st) ⟨by rw [hstate]; exact h0, hserves⟩
  exact hinv.2

theorem State.sharesPassed_stays (s : State) (n st m : Nat) (h : st < 4) (h0 : st ≠ 0) (hm : m = n ∨ s.stays m) : (s.sharesPassed n st).stays m := by
  by_cases heq : m = n
  · subst heq
    exact .inr (by rw [State.sharesPassed_state, (s.nmuDown_state m st h).1]; exact h0)
  · refine (hm.resolve_left heq).imp (fun hflag => ?_) fun hst => ?_
    · refine (State.forEach_keeps (fun u : State => u.flag (F.nmuCtl_OFFLINE m)) _ (fun u j => State.sharePass_offline _ u j m) _ _).trans ?_
      exact (State.flag_of_reg (s.nmuDown_reg n st (A.nmuCtl m) (by
        change 0x040000 + m * 0x800 ≠ 0x040010 + n * 0x800; omega))).trans hflag
    · rw [State.sharesPassed_state, State.fget_of_reg (s.nmuDown_reg n st (A.nmuStatus m) (nmuStatus_other heq))]
      exact hst

theorem State.Still.nmuPassed {live : Bool} {σ s : State} (h : σ.Still live s) (n : Nat) (m : SMap Nat) :
    σ.Still live { s.itemsPass n with nmuLast := m } := h.upd rfl

theorem State.leavePosted_still (s : State) (n st cause : Nat) : (s.sharesPassed n st).Still false (s.leavePosted n st cause) :=
  ((State.Still.refl (s.sharesPassed n st)).nmuPassed n _).post _ _ _ _

theorem State.nmuLeave_still (s : State) (n st cause : Nat) : (s.sharesPassed n st).Still false (s.nmuLeave n st cause) := by
  have hposted := s.leavePosted_still n st cause
  rw [s.nmuLeave_eq]
  exact .ite hposted (hposted.haltJobs 3 _)

/-- Of an NMU that leaves service no other is made to leave. -/
theorem State.nmuLeave_noneLeaving (s : State) (n st cause : Nat) (h : st < 4) (h0 : st ≠ 0) (hothers : ∀ m < 32, m = n ∨ s.stays m) :
    (s.nmuLeave n st cause).noneLeaving := fun m hm =>
  (s.nmuLeave_still n st cause).stays hm (s.sharesPassed_stays n st m h h0 (hothers m hm))

theorem State.nmuLeave_offlines (s : State) (n st cause : Nat) (h : st < 4) (h0 : st ≠ 0) (hothers : s.noneLeaving) :
    (s.nmuLeave n st cause).offlines = s.nmuLeave n st cause :=
  State.offlines_same _ (s.nmuLeave_noneLeaving n st cause h h0 fun m hm => .inr (hothers m hm))

/-- The next NMU in service after `n` at its stack takes its shares. -/
theorem State.adopter_of (s : State) (n d m : Nat) (hd : d ∈ [1, 2, 3]) (hm : m = 4 * (n / 4) + (n % 4 + d) % 4)
    (hactive : s.fget (F.nmuStatus_STATE m) = 0)
    (hfirst : ∀ e < d, 0 < e → s.fget (F.nmuStatus_STATE (4 * (n / 4) + (n % 4 + e) % 4)) ≠ 0) (st : Nat) :
    (s.nmuDown n st).adopter (n / 4) (n % 4) = some m := by
  have hsame : ∀ e, 0 < e → e < 4 → (s.nmuDown n st).nmuActive (4 * (n / 4) + (n % 4 + e) % 4) = s.nmuActive (4 * (n / 4) + (n % 4 + e) % 4) := by
    intro e he he'
    unfold State.nmuActive
    rw [State.fget_of_reg (s.nmuDown_reg n st _ (nmuStatus_other (by omega)))]
  have hno : ∀ e < d, 0 < e → s.nmuActive (4 * (n / 4) + (n % 4 + e) % 4) = false := fun e he he' => by
    simpa [State.nmuActive] using hfirst e he he'
  have hyes : s.nmuActive (4 * (n / 4) + (n % 4 + d) % 4) = true := by
    rw [← hm]; simp [State.nmuActive, hactive]
  unfold State.adopter
  simp only [List.map_cons, List.map_nil, List.find?_cons, hsame 1 (by decide) (by decide), hsame 2 (by decide) (by decide),
    hsame 3 (by decide) (by decide)]
  rcases List.mem_cons.1 hd with rfl | hd
  · rw [hyes, hm]
  rcases List.mem_cons.1 hd with rfl | hd
  · rw [hno 1 (by decide) (by decide), hyes, hm]
  · obtain rfl := List.mem_singleton.1 hd
    rw [hno 1 (by decide) (by decide), hno 2 (by decide) (by decide), hyes, hm]

/-- An NMU leaves service while another at its stack stays in it. -/
theorem State.nmuLeave_spec (n : Fin 32) (s : State) (st cause m : Nat) (hst : st < 4) (h0 : st ≠ 0)
    (hm : ∃ d ∈ [1, 2, 3], m = 4 * (n.val / 4) + (n.val % 4 + d) % 4 ∧ s.fget (F.nmuStatus_STATE m) = 0 ∧
      ∀ e < d, 0 < e → s.fget (F.nmuStatus_STATE (4 * (n.val / 4) + (n.val % 4 + e) % 4)) ≠ 0) :
    let t := s.nmuLeave n.val st cause
    t.fget (F.nmuStatus_STATE n.val) = st ∧ t.fget (F.nmuStatus_SERVES n.val) = 0 ∧
      t.events = (s.post 0x030B (unitPc (n.val / 4) 0) (n.val + cause * 2 ^ 8) m).events ∧ t.jobs = s.jobs := by
  obtain ⟨d, hd, hmd, hactive, hfirst⟩ := hm
  have hown := s.adopter_of n.val d m hd hmd hactive hfirst st
  have hleave : s.nmuLeave n.val st cause = s.leavePosted n.val st cause := by
    rw [s.nmuLeave_eq]; exact if_pos (by rw [hown]; rfl)
  have hstill := s.leavePosted_still n.val st cause
  obtain ⟨hevents, hcadence, hjobs⟩ := s.sharesPassed_rest n.val st
  intro t
  rw [show t = _ from hleave]
  have hreg := hstill.regs _ (stillReg_nmuStatus n.isLt)
  refine ⟨?_, ?_, ?_, ?_⟩
  · exact (State.fget_of_reg hreg).trans ((s.sharesPassed_state n.val st n.val).trans (s.nmuDown_state n.val st hst).1)
  · exact (State.fget_of_reg hreg).trans (s.sharesPassed_serves n.val st hst h0)
  · unfold State.leavePosted
    rw [hown]
    exact s.events_post_congr _ _ _ _ _ hevents hcadence
  · unfold State.leavePosted
    generalize s.sharesPassed n.val st = u at *
    rw [← hjobs]
    unfold State.post
    split <;> rfl

end Sys2Proof.Machine

/-! PROOFS. NMU instructions and their work atoms (R305, R306, R331, R338, R349). -/
namespace Sys2Proof.Machine

/-! ### The parameter block (R338) -/

theorem State.paramGo_none (s : State) (id : Nat) (h : SMap.get? s.jobs id = none) : s.paramGo id = s := by
  unfold State.paramGo; rw [h]

theorem Job.ready_iff (j : Job) : j.ready = true ↔ insOp j.w ≠ iUpdate ∨ j.params ≠ none := by
  unfold Job.ready
  rw [Bool.or_eq_true, bne_iff_ne, Option.isSome_iff_ne_none]

theorem State.paramGo_ready (s : State) (id : Nat) (j : Job) (h : SMap.get? s.jobs id = some j) (hready : j.ready = true) : s.paramGo id = s := by
  unfold State.paramGo
  rw [h]
  exact if_pos hready

/-- A job whose parameter block has not been read. -/
theorem State.paramGo_unread (s : State) (id : Nat) (j : Job) (h : SMap.get? s.jobs id = some j) (hop : insOp j.w = iUpdate) (hnone : j.params = none) :
    (s.servingAt j.upd.p = none → s.paramGo id = s.jobTrap id j ⟨0x15, j.atomAt 0, 3⟩) ∧
    (∀ m, s.servingAt j.upd.p = some m →
      (s.ownFind (.param id) = none → s.paramGo id = s.nmuIssue (.param id) m m j .read j.upd.p [] []) ∧
      (∀ r, s.has (.param id) r .blocked → s.paramGo id = s) ∧
      (∀ r d, s.has (.param id) r (.data d false) → s.paramGo id =
        ({ s.dropReq r with jobs := SMap.insert s.jobs id { j with params := some d } } : State)) ∧
      (∀ r d, s.has (.param id) r (.data d true) → s.paramGo id = (s.dropReq r).jobTrap id j ⟨0x15, j.upd.p, 2⟩) ∧
      (∀ r, s.has (.param id) r .denied → s.paramGo id = (s.dropReq r).jobTrap id j ⟨0x10, j.upd.p, 2⟩) ∧
      (∀ r, s.has (.param id) r .lost → s.paramGo id = (s.dropReq r).jobTrap id j ⟨0x11, j.upd.p, 0⟩)) := by
  have hunready : j.ready = false := by
    rw [← Bool.not_eq_true, j.ready_iff]
    exact fun hor => hor.elim (fun hne => hne hop) fun hne => hne hnone
  have hgo : s.paramGo id = match s.servingAt j.upd.p with
      | none => s.jobTrap id j ⟨0x15, j.atomAt 0, 3⟩
      | some m => match s.ownGo (.param id) fun s => s.nmuIssue (.param id) m m j .read j.upd.p [] [] with
        | (s, .data d false) => { s with jobs := SMap.insert s.jobs id { j with params := some d } }
        | (s, .data _ true) => s.jobTrap id j ⟨0x15, j.upd.p, 2⟩
        | (s, .denied) => s.jobTrap id j ⟨0x10, j.upd.p, 2⟩
        | (s, .lost) => s.jobTrap id j ⟨0x11, j.upd.p, 0⟩
        | (s, _) => s := by
    unfold State.paramGo
    rw [h]
    dsimp only
    rw [hunready]
    rfl
  rw [hgo]
  refine ⟨fun hno => by rw [hno], fun m hm => ?_⟩
  rw [hm]
  dsimp only
  refine ⟨fun hno => ?_, fun r hr => ?_, fun r d hr => ?_, fun r d hr => ?_, fun r hr => ?_, fun r hr => ?_⟩
  · rw [s.ownGo_none _ _ hno]
  · rw [s.ownGo_blocked _ r _ hr]
  · rw [s.ownGo_of_has _ r _ _ hr nofun] <;> rfl
  · rw [s.ownGo_of_has _ r _ _ hr nofun] <;> rfl
  · rw [s.ownGo_of_has _ r _ _ hr nofun] <;> rfl
  · rw [s.ownGo_of_has _ r _ _ hr nofun] <;> rfl

/-! ### Instructions (R305, R306) -/

theorem exec_nmuOp (i : Instr) (c op : Nat) (s : State) (h : i.nmuOp? = some (c, op)) : exec i s = .next (s.nmuIns c op) := by
  unfold Instr.nmuOp? at h
  split at h <;> cases h <;> rfl

theorem State.nmuIns_onward (s b : State) (c op w : Nat) (x : Ctx) (h : s.onward c x w b) (hop : insOp w = op) :
    s.nmuIns c op = b.nmuStart c x w := s.timed_of b c w x _ _ h (by rw [hop]; exact beq_self_eq_true op)

theorem newJob_w (c : Nat) (x : Ctx) (w now : Nat) (h : w < 2 ^ 128) : (newJob c x w now).w = w := by
  change (BitVec.ofNat 128 w).toNat = w
  rw [BitVec.toNat_ofNat, Nat.mod_eq_of_lt h]

/-- What an instruction past its launch becomes. -/
theorem State.jobStart_spec (b : State) (c : Nat) (x : Ctx) (w : Nat) (hw : w < 2 ^ 128) : let j := newJob c x w b.cadence
    (∀ k < j.atoms, b.servingAt (j.atomAt k) = none → (∀ i < k, b.servingAt (j.atomAt i) ≠ none) →
      b.jobStart c x w = b.trapNow c ⟨0x15, j.atomAt k, 3⟩) ∧
    ((∀ k < j.atoms, b.servingAt (j.atomAt k) ≠ none) →
      let u : State := { b with jobs := SMap.insert b.jobs b.nextJob j, nextJob := b.nextJob + 1 }
      let t := if flAsync w then u.setCtx c (some (x.complete w)) else u
      (insOp w ≠ iUpdate → b.jobStart c x w = t) ∧ (insOp w = iUpdate → b.jobStart c x w = t.paramGo b.nextJob)) := by
  intro j
  have hstart : b.jobStart c x w = match (List.range j.atoms).find? fun k => (b.servingAt (j.atomAt k)).isNone with
      | some k => b.trapNow c ⟨0x15, j.atomAt k, 3⟩
      | none => State.paramGo (if flAsync w then
            State.setCtx { b with jobs := SMap.insert b.jobs b.nextJob j, nextJob := b.nextJob + 1 } c (some (x.complete w))
          else { b with jobs := SMap.insert b.jobs b.nextJob j, nextJob := b.nextJob + 1 }) b.nextJob := rfl
  refine ⟨fun k hk hno hbefore => ?_, fun hall => ?_⟩
  · have hfind := find?_range_least j.atoms k (fun k => (b.servingAt (j.atomAt k)).isNone) hk (by rw [hno]; rfl)
      fun i hi => Option.isNone_eq_false_iff.2 (Option.isSome_iff_ne_none.2 (hbefore i hi))
    rw [hstart, hfind]
  · have hnone : ((List.range j.atoms).find? fun k => (b.servingAt (j.atomAt k)).isNone) = none :=
      List.find?_eq_none.2 fun k hk => by simpa using hall k (List.mem_range.1 hk)
    rw [hnone] at hstart
    intro u t
    have hjob : SMap.get? t.jobs b.nextJob = some j := by
      have hjobs : t.jobs = SMap.insert b.jobs b.nextJob j := by
        change (if flAsync w then u.setCtx c (some (x.complete w)) else u).jobs = _
        split <;> rfl
      rw [hjobs, SMap.get?_insert, if_pos rfl]
    refine ⟨fun hop => ?_, fun _ => hstart⟩
    exact hstart.trans (t.paramGo_ready _ j hjob (j.ready_iff.2 (.inl (by rw [newJob_w c x w _ hw]; exact hop))))

theorem State.nmuStart_waits (b : State) (c : Nat) (x : Ctx) (w : Nat)
    (h : if flAsync w then 4 ≤ ((b.ctxJobs c).filter fun e => e.2.async).length else ∃ e ∈ b.ctxJobs c, e.2.async = false) :
    b.nmuStart c x w = b := by
  unfold State.nmuStart
  refine if_pos ?_
  by_cases ha : flAsync w = true
  · rw [if_pos ha] at h ⊢
    simpa [State.asyncFull] using h
  · rw [if_neg ha] at h ⊢
    simpa using h

theorem State.nmuStart_goes (b : State) (c : Nat) (x : Ctx) (w : Nat)
    (h : ¬ if flAsync w then 4 ≤ ((b.ctxJobs c).filter fun e => e.2.async).length else ∃ e ∈ b.ctxJobs c, e.2.async = false) :
    b.nmuStart c x w = b.jobStart c x w := by
  unfold State.nmuStart
  refine if_neg ?_
  by_cases ha : flAsync w = true
  · rw [if_pos ha] at h ⊢
    simpa [State.asyncFull] using h
  · rw [if_neg ha] at h ⊢
    simpa using h

/-- The instructions of the near-memory units (R305, R306). -/
theorem nmuInstructions (i : Instr) (c op : Nat) (s b : State) (x : Ctx) (w : Nat) (h : i.nmuOp? = some (c, op)) (hon : s.onward c x w b)
    (hop : insOp w = op) : let j := newJob c x w b.cadence
    let waits := if flAsync w then 4 ≤ ((b.ctxJobs c).filter fun e => e.2.async).length else ∃ e ∈ b.ctxJobs c, e.2.async = false
    (waits → exec i s = .next b) ∧
    (¬ waits →
      (∀ k < j.atoms, b.servingAt (j.atomAt k) = none → (∀ i < k, b.servingAt (j.atomAt i) ≠ none) →
        exec i s = .next (b.trapNow c ⟨0x15, j.atomAt k, 3⟩)) ∧
      ((∀ k < j.atoms, b.servingAt (j.atomAt k) ≠ none) →
        let u : State := { b with jobs := SMap.insert b.jobs b.nextJob j, nextJob := b.nextJob + 1 }
        let t := if flAsync w then u.setCtx c (some (x.complete w)) else u
        (op ≠ iUpdate → exec i s = .next t) ∧ (op = iUpdate → exec i s = .next (t.paramGo b.nextJob)))) := by
  intro j waits
  have hexec : exec i s = .next (b.nmuStart c x w) := (exec_nmuOp i c op s h).trans (congrArg Host.Outcome.next (s.nmuIns_onward b c op w x hon hop))
  have hw : w < 2 ^ 128 := by
    obtain ⟨-, -, hcur, -⟩ := hon
    obtain ⟨k, -, hword⟩ := Option.map_eq_some_iff.1 hcur
    rw [← hword]
    exact k.word.isLt
  obtain ⟨htrap, hgo⟩ := b.jobStart_spec c x w hw
  subst hop
  refine ⟨fun hwait => hexec.trans (congrArg Host.Outcome.next (b.nmuStart_waits c x w hwait)), fun hwait => ?_⟩
  rw [hexec, b.nmuStart_goes c x w hwait]
  refine ⟨fun k hk hno hbefore => congrArg Host.Outcome.next (htrap k hk hno hbefore), fun hall => ?_⟩
  obtain ⟨hother, hupd⟩ := hgo hall
  exact ⟨fun hne => congrArg Host.Outcome.next (hother hne), fun heq => congrArg Host.Outcome.next (hupd heq)⟩

end Sys2Proof.Machine

/-! PROOFS. Work atoms, atomic-add-beside and the units taken out of service (R331 to R335, R347 to R352). -/
namespace Sys2Proof.Machine

/-! ### A work atom in its turn (R331, R335) -/

theorem State.dogSettle_rests (s : State) (n : Nat) (h : s.dogRests n) : s.dogSettle n = s := by
  unfold State.dogSettle
  cases hdue : s.dogDue n with
  | none => rfl
  | some t => exact if_neg (Nat.not_le.2 (h t hdue))

theorem exec_nmuWorkAtom_off (n : Fin 32) (id k : Nat) (s : State) (h : s.coreOn = false) : exec (.nmuWorkAtom n id k) s = .next s :=
  congrArg Host.Outcome.next (if_neg (by rw [h]; decide))

/-- With no watchdog run out and no NMU to leave, the command does the work atom alone. -/
theorem exec_nmuWorkAtom_on (n : Fin 32) (id k : Nat) (s : State) (hon : s.coreOn = true) (hstay : s.noneLeaving) (hdog : s.dogRests n.val)
    (hparam : s.paramGo id = s) : exec (.nmuWorkAtom n id k) s = .next (s.nmuWorkAtom n.val id k) := by
  have hexec : exec (.nmuWorkAtom n id k) s = .next (((s.paramGo id).dogSettle n.val).nmuWorkAtom n.val id k).offlines :=
    congrArg Host.Outcome.next (if_pos hon)
  rw [hexec, hparam, s.dogSettle_rests n.val hdog, ((State.Still.refl s).nmuWorkAtom n.val id k).offlines hstay]

theorem State.nmuWorkAtom_none (s : State) (n id k : Nat) (h : SMap.get? s.jobs id = none) : s.nmuWorkAtom n id k = s := by
  unfold State.nmuWorkAtom; rw [h]

/-- The item in progress goes on. -/
theorem State.nmuWorkAtom_item (s : State) (n id k : Nat) (j : Job) (h : SMap.get? s.jobs id = some j) (hitem : s.nmuItem n = some (id, k)) :
    s.nmuWorkAtom n id k = s.itemGo n id k j := by
  unfold State.nmuWorkAtom
  rw [h]
  exact if_pos hitem

/-- A work atom that is not in progress begins in its turn. -/
theorem State.nmuWorkAtom_begins (s : State) (n id k : Nat) (j : Job) (h : SMap.get? s.jobs id = some j) (hready : j.ready = true)
    (hitem : s.nmuItem n ≠ some (id, k)) : let l := s.locOf (j.atomAt k)
    (j.atoms ≤ k ∨ j.done.contains k = true ∨ s.jobWaits id j l.stack = true → s.nmuWorkAtom n id k = s) ∧
    (k < j.atoms → j.done.contains k = false → s.jobWaits id j l.stack = false →
      (s.serving l.stack (l.lpc % 4) = none →
        s.nmuWorkAtom n id k = s.jobTrap id j ⟨0x15, j.atomAt ((s.undoneAt j l.stack).getD k), 3⟩) ∧
      (∀ m, s.serving l.stack (l.lpc % 4) = some m →
        (m ≠ n ∨ s.nmuTurnIs n (l.lpc % 4) = false → s.nmuWorkAtom n id k = s) ∧
        (m = n → s.nmuTurnIs n (l.lpc % 4) = true → s.nmuWorkAtom n id k = (s.nmuServed n (l.lpc % 4)).itemStart n id k j))) := by
  intro l
  have hgo : s.nmuWorkAtom n id k = if j.atoms ≤ k || j.done.contains k || !j.ready || s.jobWaits id j l.stack then s
      else match s.serving l.stack (l.lpc % 4) with
        | none => s.jobTrap id j ⟨0x15, j.atomAt ((s.undoneAt j l.stack).getD k), 3⟩
        | some m => if m = n ∧ s.nmuTurnIs n (l.lpc % 4) then (s.nmuServed n (l.lpc % 4)).itemStart n id k j else s := by
    unfold State.nmuWorkAtom
    rw [h]
    exact if_neg hitem
  refine ⟨fun hno => hgo.trans (if_pos ?_), fun hk hdone hwait => ?_⟩
  · simp only [Bool.or_eq_true, decide_eq_true_eq]
    grind
  · rw [if_neg (by simp [Nat.not_le.2 hk, hready, hwait, show k ∉ j.done by simpa using hdone])] at hgo
    refine ⟨fun hno => by rw [hgo, hno], fun m hm => ?_⟩
    rw [hm] at hgo
    refine ⟨fun hno => hgo.trans (if_neg fun hyes => ?_), fun heq hturn => hgo.trans (if_pos ⟨heq, hturn⟩)⟩
    exact hno.elim (fun hne => hne hyes.1) fun hturn => absurd hyes.2 (by rw [hturn]; decide)

/-- A work atom whose operands are served begins with its reads. -/
theorem State.itemStart_cases (s : State) (n id k : Nat) (j : Job) : let reads := (j.reads k).eraseDups
    (s.unserved n reads = true → s.itemStart n id k j = s.jobTrap id j ⟨0x15, j.atomAt k, 3⟩) ∧
    (s.unserved n reads = false → s.itemStart n id k j = s.forEach reads.zipIdx fun s e =>
      s.nmuIssue (.nmuRead id k e.2) n ((s.accessor n e.1).getD n) j .read e.1 [] []) :=
  ⟨fun h => if_pos h, fun h => if_neg (by rw [h]; decide)⟩

theorem nmuWorkAtoms (n : Fin 32) (id k : Nat) (s : State) :
    (s.coreOn = false → exec (.nmuWorkAtom n id k) s = .next s) ∧
    (s.coreOn = true → s.noneLeaving → s.dogRests n.val →
      (SMap.get? s.jobs id = none → exec (.nmuWorkAtom n id k) s = .next s) ∧
      (∀ j, SMap.get? s.jobs id = some j → j.ready = true →
        let l := s.locOf (j.atomAt k)
        let turn := s.nmuTurnIs n.val (l.lpc % 4)
        let reads := (j.reads k).eraseDups
        (s.nmuItem n.val = some (id, k) → exec (.nmuWorkAtom n id k) s = .next (s.itemGo n.val id k j)) ∧
        (s.nmuItem n.val ≠ some (id, k) →
          (j.atoms ≤ k ∨ j.done.contains k = true ∨ s.jobWaits id j l.stack = true → exec (.nmuWorkAtom n id k) s = .next s) ∧
          (k < j.atoms → j.done.contains k = false → s.jobWaits id j l.stack = false →
            (s.serving l.stack (l.lpc % 4) = none →
              exec (.nmuWorkAtom n id k) s = .next (s.jobTrap id j ⟨0x15, j.atomAt ((s.undoneAt j l.stack).getD k), 3⟩)) ∧
            ((∃ m, s.serving l.stack (l.lpc % 4) = some m ∧ (m ≠ n.val ∨ turn = false)) → exec (.nmuWorkAtom n id k) s = .next s) ∧
            (s.serving l.stack (l.lpc % 4) = some n.val → turn = true →
              let u : State := { s with nmuTurn := SMap.put s.nmuTurn 4 n.val (l.lpc % 4) }
              (u.unserved n.val reads = true → exec (.nmuWorkAtom n id k) s = .next (u.jobTrap id j ⟨0x15, j.atomAt k, 3⟩)) ∧
              (u.unserved n.val reads = false → exec (.nmuWorkAtom n id k) s = .next (u.forEach reads.zipIdx fun s e =>
                s.nmuIssue (.nmuRead id k e.2) n.val ((s.accessor n.val e.1).getD n.val) j .read e.1 [] []))))))) := by
  refine ⟨exec_nmuWorkAtom_off n id k s, fun hon hstay hdog => ⟨fun hno => ?_, fun j hj hready => ?_⟩⟩
  · rw [exec_nmuWorkAtom_on n id k s hon hstay hdog (s.paramGo_none id hno), s.nmuWorkAtom_none n.val id k hno]
  · intro l turn reads
    rw [exec_nmuWorkAtom_on n id k s hon hstay hdog (s.paramGo_ready id j hj hready)]
    refine ⟨fun hitem => congrArg Host.Outcome.next (s.nmuWorkAtom_item n.val id k j hj hitem), fun hitem => ?_⟩
    obtain ⟨hrests, hbegins⟩ := s.nmuWorkAtom_begins n.val id k j hj hready hitem
    refine ⟨fun hno => congrArg Host.Outcome.next (hrests hno), fun hk hdone hwait => ?_⟩
    obtain ⟨htrap, hserved⟩ := hbegins hk hdone hwait
    refine ⟨fun hno => congrArg Host.Outcome.next (htrap hno), fun ⟨m, hm, hno⟩ => congrArg Host.Outcome.next ((hserved m hm).1 hno),
      fun hm hturn => ?_⟩
    rw [(hserved n.val hm).2 rfl hturn]
    obtain ⟨hbad, hgood⟩ := (s.nmuServed n.val (l.lpc % 4)).itemStart_cases n.val id k j
    exact ⟨fun hu => congrArg Host.Outcome.next (hbad hu), fun hu => congrArg Host.Outcome.next (hgood hu)⟩

/-! ### An instruction that is done (R347, R348) -/

theorem exec_nmuInstructionDone_none (id : Nat) (s : State) (h : SMap.get? s.jobs id = none) : exec (.nmuInstructionDone id) s = .next s := by
  change Host.Outcome.next (s.nmuDone id) = _
  unfold State.nmuDone
  rw [h]

theorem exec_nmuInstructionDone (id : Nat) (s : State) (j : Job) (h : SMap.get? s.jobs id = some j) :
    let u := ((s.dropJob id).noteDiverge j).noteUnderflow j
    (j.done.length < j.atoms → exec (.nmuInstructionDone id) s = .next s) ∧
    (j.atoms ≤ j.done.length → j.async = true ∨ (u.slot j.slot).st ≠ .running → exec (.nmuInstructionDone id) s = .next u) ∧
    (∀ x, j.atoms ≤ j.done.length → j.async = false → (u.slot j.slot).st = .running → u.ctx? j.ctx = some x →
      exec (.nmuInstructionDone id) s = .next (u.setCtx j.ctx (some (x.complete j.w)))) := by
  intro u
  have hdone : s.nmuDone id = if j.done.length < j.atoms then s
      else if j.async then u else if (u.slot j.slot).st = .running then u.modCtx j.ctx fun x => x.complete j.w else u := by
    unfold State.nmuDone
    rw [h]
  have hexec : exec (.nmuInstructionDone id) s = .next (s.nmuDone id) := rfl
  rw [hexec, hdone]
  refine ⟨fun hlt => congrArg Host.Outcome.next (if_pos hlt), fun hle hor => congrArg Host.Outcome.next ((if_neg (Nat.not_lt.2 hle)).trans ?_),
    fun x hle hasync hst hx => congrArg Host.Outcome.next ((if_neg (Nat.not_lt.2 hle)).trans ?_)⟩
  · by_cases ha : j.async = true
    · exact if_pos ha
    · exact (if_neg ha).trans (if_neg (hor.resolve_left ha))
  · rw [if_neg (by rw [hasync]; decide), if_pos hst]
    exact u.modCtx_of j.ctx x _ hx

/-! ### Atomic-add-beside (R333, R352) -/

theorem State.atomicAdd_cases (k p : Nat) (s : State) :
    ((∀ q ∈ (s.pcc k p).buf, q.addable = false) → s.atomicAdd k p = s) ∧
    (∀ q, (s.pcc k p).buf.find? Piece.addable = some q →
      (s.serving k (q.lpc % 4) = none → s.atomicAdd k p = s.addDenied k p q) ∧
      (∀ n e l, s.serving k (q.lpc % 4) = some n → s.dogRests n → q.got = e :: l →
        (s.nmuTurnIs n 4 = true → s.atomicAdd k p = s.addAtom k p n q e) ∧
        (s.nmuTurnIs n 4 = false → s.atomicAdd k p = s))) := by
  unfold State.atomicAdd
  refine ⟨fun hno => ?_, fun q hq => ?_⟩
  · rw [List.find?_eq_none.2 fun q hq => by rw [hno q hq]; decide]
  · rw [hq]
    dsimp only
    refine ⟨fun hno => by rw [hno], fun n e l hn hdog hgot => ?_⟩
    rw [hn]
    dsimp only
    rw [s.dogSettle_rests n hdog, hgot, hn]
    exact ⟨fun hturn => if_pos (by rw [hturn]; simp), fun hturn => if_neg (by rw [hturn]; simp)⟩

theorem exec_atomicAddNmu (k : Fin 8) (p : Fin 64) (s : State) (hstay : s.noneLeaving) :
    ((∀ q ∈ (s.pcc k.val p.val).buf, q.addable = false) → exec (.atomicAddNmu k p) s = .next s) ∧
    (∀ q, (s.pcc k.val p.val).buf.find? Piece.addable = some q →
      (s.serving k.val (q.lpc % 4) = none → exec (.atomicAddNmu k p) s = .next (s.addDenied k.val p.val q)) ∧
      (∀ n e l, s.serving k.val (q.lpc % 4) = some n → s.dogRests n → q.got = e :: l →
        (s.nmuTurnIs n 4 = true → exec (.atomicAddNmu k p) s = .next (s.addAtom k.val p.val n q e)) ∧
        (s.nmuTurnIs n 4 = false → exec (.atomicAddNmu k p) s = .next s))) := by
  have hexec : exec (.atomicAddNmu k p) s = .next (s.atomicAdd k.val p.val).offlines := rfl
  have hstill := State.Still.refl (live := true) s
  have hrest := s.offlines_same hstay
  obtain ⟨hnone, hpiece⟩ := State.atomicAdd_cases k.val p.val s
  rw [hexec]
  refine ⟨fun hno => by rw [hnone hno, hrest], fun q hq => ?_⟩
  obtain ⟨hdenied, hserved⟩ := hpiece q hq
  refine ⟨fun hno => by rw [hdenied hno, (hstill.addDenied _ _ q).offlines hstay], fun n e l hn hdog hgot => ?_⟩
  obtain ⟨hadd, hwait⟩ := hserved n e l hn hdog hgot
  exact ⟨fun hturn => by rw [hadd hturn, (hstill.addAtom _ _ n q e).offlines hstay], fun hturn => by rw [hwait hturn, hrest]⟩

end Sys2Proof.Machine

/-! PROOFS. O57: the results of a work atom, and the near-memory units out of service. -/
namespace Sys2Proof.Machine

/-! ### The writes of a work atom (R330, R331) -/

/-- The request `o` for address `a` is recorded. -/
def State.recorded (s : State) (o : Own) (a : Nat) : Prop := ∃ id r, id < s.nextReq ∧ s.req? id = some r ∧ r.src = .own o ∧ r.addr = a

theorem State.Joins.recorded {s t : State} (h : s.Joins t) {o : Own} {a : Nat} (hs : s.recorded o a) : t.recorded o a := by
  obtain ⟨id, r, hid, hr, hsrc, haddr⟩ := hs
  obtain ⟨x, hx, hsrc', haddr', _⟩ := h.kept id r hid hr
  exact ⟨id, x, Nat.lt_of_lt_of_le hid h.nextReq, hx, hsrc'.trans hsrc, haddr'.trans haddr⟩

theorem State.ownStart_recorded (s : State) (o : Own) (x : Access) (kind : PKind) (a n : Nat) (data : List Atom) (poison : List Bool)
    (be : List (BitVec 64)) : (s.ownStart o x kind a n data poison be).recorded o a :=
  ⟨s.nextReq, _, Nat.lt_succ_self _, s.req?_putReq_same _ _, rfl, rfl⟩

/-- The access of a work atom joins those recorded. -/
theorem State.Joins.tagged (s : State) (i c n : Nat) : s.Joins (s.modReq i fun r => { r with origin := c, tag := n }) :=
  .modReq s i _ fun _ => ⟨rfl, rfl, rfl⟩

theorem State.nmuIssue_joins (s : State) (o : Own) (n m : Nat) (j : Job) (kind : PKind) (a : Nat) (data : List Atom) (be : List (BitVec 64)) :
    s.Joins (s.nmuIssue o n m j kind a data be) ∧ (s.nmuIssue o n m j kind a data be).recorded o a :=
  ⟨(State.Joins.ownStart s ..).trans (.tagged ..), State.Joins.recorded (.tagged ..) (s.ownStart_recorded ..)⟩

/-- Counting the exchange of an atom leaves the requests and the jobs. -/
theorem State.exchange_rest (s : State) (n a : Nat) :
    (s.exchange n a).reqs = s.reqs ∧ (s.exchange n a).nextReq = s.nextReq ∧ (s.exchange n a).jobs = s.jobs := by
  unfold State.exchange
  split
  · split <;> exact ⟨rfl, rfl, rfl⟩
  · exact ⟨rfl, rfl, rfl⟩

theorem State.recorded_exchange (s : State) (n b : Nat) {o : Own} {a : Nat} (h : s.recorded o a) : (s.exchange n b).recorded o a := by
  obtain ⟨hreqs, hnext, _⟩ := s.exchange_rest n b
  unfold State.recorded State.req? at *
  rw [hreqs, hnext]
  exact h

theorem State.jobs_modReq (s : State) (i : Nat) (f : Req → Req) : (s.modReq i f).jobs = s.jobs := by
  unfold State.modReq
  split <;> rfl

theorem State.jobs_resultWrite (s : State) (n id k : Nat) (j : Job) (w : AtomW × Nat) : (s.resultWrite n id k j w).jobs = s.jobs :=
  (State.exchange_rest _ _ _).2.2.trans (State.jobs_modReq _ _ _)

theorem State.resultWrite_recorded (s : State) (n id k : Nat) (j : Job) (w : AtomW × Nat) :
    (s.resultWrite n id k j w).recorded (.nmuWrite id k w.2) w.1.addr := State.recorded_exchange _ _ _ (s.nmuIssue_joins ..).2

theorem State.recorded_resultWrite (s : State) (n id k : Nat) (j : Job) (w : AtomW × Nat) {o : Own} {a : Nat} (h : s.recorded o a) :
    (s.resultWrite n id k j w).recorded o a := State.recorded_exchange _ _ _ ((s.nmuIssue_joins ..).1.recorded h)

/-- Once a work atom's results have been issued its job stands, and every write is recorded. -/
theorem State.resultWrites_spec (s : State) (n id k : Nat) (j : Job) (l : List (AtomW × Nat)) :
    let t := s.forEach l fun s w => s.resultWrite n id k j w
    t.jobs = s.jobs ∧ ∀ e ∈ l, ∃ r ∈ t.reqs, r.2.src = .own (.nmuWrite id k e.2) ∧ r.2.addr = e.1.addr := by
  intro t
  refine ⟨State.forEach_keeps State.jobs _ (fun u w => u.jobs_resultWrite n id k j w) _ _, fun e he => ?_⟩
  obtain ⟨i, r, _, hr, hsrc, haddr⟩ : t.recorded (.nmuWrite id k e.2) e.1.addr :=
    State.forEach_hits (fun _ => True) (fun u => u.recorded (.nmuWrite id k e.2) e.1.addr) _ l e s he trivial
      (fun u _ => u.resultWrite_recorded n id k j e) (fun u w => u.recorded_resultWrite n id k j w) fun _ _ _ => .inl trivial
  exact ⟨(i, r), SMap.mem_of_get? _ _ _ hr, hsrc, haddr⟩

theorem State.itemDone_spec (s : State) (id k : Nat) (j : Job) : s.itemDone id k j = { s with
      regs := (s.itemDone id k j).regs, jobs := (s.itemDone id k j).jobs } ∧
    SMap.get? (s.itemDone id k j).jobs id = some { j with done := j.done ++ [k] } := by
  have hjobs : (s.itemDone id k j).jobs = SMap.insert s.jobs id { j with done := j.done ++ [k] } := by
    unfold State.itemDone
    dsimp only
    split <;> rfl
  refine ⟨?_, by rw [hjobs, SMap.get?_insert, if_pos rfl]⟩
  unfold State.itemDone
  dsimp only
  split <;> rfl

/-- NMU `n` computes a work atom whose operands it has read (R331). -/
theorem State.itemCompute_spec (n id k : Nat) (j : Job) (reads : List Nat) (v : View) (s : State) :
    let x := j.work v k
    let j' := j.after k x (s.sampled j (k * j.per / 256))
    let o := s.opened j (gather x.res ++ j'.lastWrite)
    let t := s.itemCompute n id k j reads v
    (s.unserved n (o.2.map (·.addr)) = true → t = s.jobTrap id j ⟨0x15, j.atomAt k, 3⟩) ∧
    (s.unserved n (o.2.map (·.addr)) = false →
      SMap.get? t.jobs id = some (if o.2 = [] then { j' with done := j'.done ++ [k] } else j') ∧
      ∀ e ∈ o.2.zipIdx, ∃ r ∈ t.reqs, r.2.src = .own (.nmuWrite id k e.2) ∧ r.2.addr = e.1.addr) := by
  intro x j' o t
  let b : State := { o.1 with jobs := SMap.insert o.1.jobs id j' }
  let u := (b.forEach reads fun s a => s.exchange n a).countWork n j.per x.res
  have ht : t = if s.unserved n (o.2.map (·.addr)) then s.jobTrap id j ⟨0x15, j.atomAt k, 3⟩
      else if o.2 = [] then (u.nmuDid n).itemDone id k j' else u.forEach o.2.zipIdx fun s w => s.resultWrite n id k j' w := rfl
  have hjob : SMap.get? u.jobs id = some j' := by
    have hkept : u.jobs = b.jobs := State.forEach_keeps State.jobs _ (fun v a => (v.exchange_rest n a).2.2) b reads
    rw [hkept]
    exact (SMap.get?_insert _ _ _ _).trans (if_pos rfl)
  refine ⟨fun hno => ht.trans (if_pos hno), fun hyes => ?_⟩
  rw [if_neg (by rw [hyes]; decide)] at ht
  clear_value t u
  by_cases hempty : o.2 = []
  · rw [if_pos hempty] at ht
    refine ⟨?_, fun e he => ?_⟩
    · rw [if_pos hempty, ht]
      exact ((u.nmuDid n).itemDone_spec id k j').2
    · rw [hempty] at he
      cases he
  · rw [if_neg hempty] at ht
    obtain ⟨hjobs, hwrites⟩ := u.resultWrites_spec n id k j' o.2.zipIdx
    rw [ht, if_neg hempty]
    exact ⟨by rw [hjobs]; exact hjob, hwrites⟩

/-! ### A work atom goes on (R331, R349) -/

theorem State.itemGo_spec (n id k : Nat) (j : Job) (s : State) : let reads := (j.reads k).eraseDups
    let l := s.itemReads id k reads
    let reading := ∃ e ∈ s.reqs, e.2.readsWork id (some k) = true
    let wrote := (s.reqs.filter fun e => e.2.writesWork id k).map fun e => (e.2.addr, e.2.direct)
    (reading → (∃ e ∈ l, e.2 = .blocked) → s.itemGo n id k j = s) ∧
    (reading → (∀ e ∈ l, e.2 ≠ .blocked) → let u := s.readsDrop id (some k)
      (accessTrap l = none → s.itemGo n id k j = u.itemCompute n id k j reads (l.map fun e => (e.1, e.2.atom))) ∧
      (∀ t, accessTrap l = some t → t.code ≠ 0x15 → s.itemGo n id k j = u.jobTrap id j t) ∧
      (∀ t, accessTrap l = some t → t.code = 0x15 → ∃ x, u.sets x [(F.nmuHalts_COUNT n, u.wrapped (F.nmuHalts_COUNT n) 1)] ∧
        s.itemGo n id k j = x.jobTrap id j t)) ∧
    (¬ reading → (∃ e ∈ wrote, e.2 = .blocked) → s.itemGo n id k j = s) ∧
    (¬ reading → (∀ e ∈ wrote, e.2 ≠ .blocked) →
      let u : State := { s with reqs := s.reqs.filter fun e => !e.2.writesWork id k }
      (∀ t, accessTrap wrote = some t → s.itemGo n id k j = u.jobTrap id j t) ∧
      (accessTrap wrote = none → ∃ t, s.itemGo n id k j = t ∧ SMap.get? t.jobs id = some { j with done := j.done ++ [k] } ∧
        t = { u with regs := t.regs, jobs := t.jobs })) := by
  intro reads l reading wrote
  have hgo : s.itemGo n id k j =
      if s.reqs.any fun e => e.2.readsWork id (some k) then
        if l.any fun e => e.2 == .blocked then s
        else match accessTrap l with
          | some t => (if t.code = 0x15 then (s.readsDrop id (some k)).count (F.nmuHalts_COUNT n) 1 else s.readsDrop id (some k)).jobTrap id j t
          | none => (s.readsDrop id (some k)).itemCompute n id k j reads (l.map fun e => (e.1, e.2.atom))
      else if wrote.any fun e => e.2 == .blocked then s
      else match accessTrap wrote with
        | some t => State.jobTrap { s with reqs := s.reqs.filter fun e => !e.2.writesWork id k } id j t
        | none => State.itemDone { s with reqs := s.reqs.filter fun e => !e.2.writesWork id k } id k j := rfl
  have hany : ∀ m : List (Nat × Direct), (m.any fun e => e.2 == .blocked) = true ↔ ∃ e ∈ m, e.2 = .blocked := fun m => by
    simp only [List.any_eq_true, beq_iff_eq]
  have hreading : (s.reqs.any fun e => e.2.readsWork id (some k)) = true ↔ reading := List.any_eq_true
  rw [hgo]
  refine ⟨fun hr hblocked => ?_, fun hr hdone => ?_, fun hr hblocked => ?_, fun hr hdone => ?_⟩
  · rw [if_pos (hreading.2 hr), if_pos ((hany l).2 hblocked)]
  · rw [if_pos (hreading.2 hr), if_neg fun h => (hany l).1 h |>.elim fun e he => hdone e he.1 he.2]
    refine ⟨fun hno => by rw [hno], fun t ht hcode => by rw [ht]; exact congrArg (fun u => State.jobTrap u id j t) (if_neg hcode),
      fun t ht hcode => ⟨_, State.sets_count _ _ (Fld.ok_mk (by decide)), ?_⟩⟩
    rw [ht]
    exact congrArg (fun u => State.jobTrap u id j t) (if_pos hcode)
  · rw [if_neg fun h => hr (hreading.1 h), if_pos ((hany wrote).2 hblocked)]
  · rw [if_neg fun h => hr (hreading.1 h), if_neg fun h => (hany wrote).1 h |>.elim fun e he => hdone e he.1 he.2]
    refine ⟨fun t ht => by rw [ht], fun hno => ?_⟩
    rw [hno]
    obtain ⟨hframe, hjob⟩ := State.itemDone_spec { s with reqs := s.reqs.filter fun e => !e.2.writesWork id k } id k j
    exact ⟨_, rfl, hjob, hframe⟩

/-! ### Out of service (R350, R351) -/

theorem exec_nmuParityError (n : Fin 32) (s : State) (hstay : s.noneLeaving) :
    let can := s.build.nmus = true ∧ s.fget (F.nmuStatus_STATE n.val) = 0 ∧ n.val / 4 < s.build.nStacks
    (¬ can → exec (.nmuParityError n) s = .next s) ∧
    (can → ∃ u, s.sets u [(F.nmuParityErrs_COUNT n.val, s.wrapped (F.nmuParityErrs_COUNT n.val) 1)] ∧
      exec (.nmuParityError n) s = .next (u.nmuLeave n.val 1 1)) := by
  intro can
  have hexec : exec (.nmuParityError n) s = .next (s.nmuParity n.val).offlines := rfl
  have hcan : (s.build.nmus && s.nmuActive n.val && n.val / 4 < s.build.nStacks) = true ↔ can := by
    simp only [Bool.and_eq_true, decide_eq_true_eq, State.nmuActive, beq_iff_eq, and_assoc, can]
  rw [hexec]
  refine ⟨fun hno => ?_, fun hyes => ⟨_, s.sets_count (F.nmuParityErrs_COUNT n.val) (Fld.ok_mk (by decide)), ?_⟩⟩
  · have hsame : s.nmuParity n.val = s := if_neg fun h => hno (hcan.1 h)
    rw [hsame, s.offlines_same hstay]
  · have hgo : s.nmuParity n.val = (s.count (F.nmuParityErrs_COUNT n.val) 1).nmuLeave n.val 1 1 := if_pos (hcan.2 hyes)
    have hstill := (State.Still.refl (live := true) s).countNmu (F.nmuParityErrs_COUNT n.val) 1 n.val 0x40070 rfl (by decide) (by decide)
    rw [hgo, State.nmuLeave_offlines _ _ _ _ (by decide) (by decide) (hstill.noneLeaving hstay)]

theorem exec_nmuOffline (n : Fin 32) (s : State) (hstay : s.noneLeaving) (h : s.cpReady) :
    (s.build.nmus = false ∨ s.build.nStacks ≤ n.val / 4 → exec (.nmuOffline n) s = .next s.cpOk) ∧
    (s.build.nmus = true → n.val / 4 < s.build.nStacks → ∃ u, s.cpOk.sets u [(F.nmuCtl_OFFLINE n.val, 1)] ∧
      (s.fget (F.nmuStatus_STATE n.val) = 0 → s.nmuItem n.val = none → exec (.nmuOffline n) s = .next (u.nmuLeave n.val 3 3)) ∧
      (s.fget (F.nmuStatus_STATE n.val) ≠ 0 ∨ s.nmuItem n.val ≠ none → exec (.nmuOffline n) s = .next u)) := by
  have hexec : exec (.nmuOffline n) s = .next (s.cpOk.nmuOffline n.val) := s.cpDo_ready (.nmuOffline n) (fun u => u.nmuOffline n.val) h
  refine ⟨fun hno => hexec.trans (congrArg Host.Outcome.next (if_neg ?_)), fun hnmus hk =>
    ⟨_, s.cpOk.sets_raise_alone (F.nmuCtl_OFFLINE n.val) (Fld.ok_mk (by decide)), ?_⟩⟩
  · rcases hno with hno | hno
    · simp [State.cpOk, hno]
    · simp [State.cpOk, Nat.not_lt.2 hno]
  · have hgo : s.cpOk.nmuOffline n.val = (s.cpOk.raise (F.nmuCtl_OFFLINE n.val)).offlines :=
      if_pos (by simp [State.cpOk, hnmus, hk])
    rw [hexec, hgo, State.offlines_eq]
    have hflag : (s.cpOk.raise (F.nmuCtl_OFFLINE n.val)).flag (F.nmuCtl_OFFLINE n.val) = true := s.cpOk.flag_raise _ (Fld.ok_mk (by decide))
    have hitem : (s.cpOk.raise (F.nmuCtl_OFFLINE n.val)).nmuItem n.val = s.nmuItem n.val := rfl
    have hreg : ∀ a, a ≠ A.nmuCtl n.val → (s.cpOk.raise (F.nmuCtl_OFFLINE n.val)).reg a = s.reg a := fun a ha =>
      State.reg_fset_other s.cpOk (F.nmuCtl_OFFLINE n.val) 1 a ha.symm
    generalize s.cpOk.raise (F.nmuCtl_OFFLINE n.val) = u at *
    have hstate : ∀ m, u.fget (F.nmuStatus_STATE m) = s.fget (F.nmuStatus_STATE m) := fun m =>
      State.fget_of_reg (hreg _ (by change 0x040010 + m * 0x800 ≠ 0x040000 + n.val * 0x800; omega))
    have hothers : ∀ m < 32, m = n.val ∨ u.stays m := fun m hm => by
      by_cases hmn : m = n.val
      · exact .inl hmn
      · refine .inr ((hstay m hm).imp (fun hoff => (State.flag_of_reg (hreg _ ?_)).trans hoff) fun hst => by rw [hstate]; exact hst)
        change 0x040000 + m * 0x800 ≠ 0x040000 + n.val * 0x800
        omega
    have hbefore : ∀ m ∈ List.range 32, m ≠ n.val → u.offline1 m = u := fun m hm hmn =>
      u.offline1_of_stays m ((hothers m (List.mem_range.1 hm)).resolve_left hmn)
    refine ⟨fun hst hno => ?_, fun hor => ?_⟩
    · have hleave : u.offline1 n.val = u.nmuLeave n.val 3 3 := if_pos (by simp [State.nmuActive, hflag, hstate, hst, hitem, hno])
      refine congrArg Host.Outcome.next ((u.forEach_only State.offline1 (List.range 32) n.val (List.mem_range.2 n.isLt) hbefore ?_).trans hleave)
      rw [hleave]
      exact fun m hm => State.offline1_of_stays _ m (u.nmuLeave_noneLeaving n.val 3 3 (by decide) (by decide) hothers m (List.mem_range.1 hm))
    · have hsame : u.offline1 n.val = u := if_neg (by
        rcases hor with hor | hor
        · simp [State.nmuActive, hstate, hor]
        · simp [hitem, hor])
      refine congrArg Host.Outcome.next (u.forEach_same _ _ fun m hm => ?_)
      by_cases hmn : m = n.val
      · rw [hmn, hsame]
      · exact hbefore m hm hmn

theorem State.nmuWatchdog_none (s : State) (n : Nat) (h : s.dogDue n = none) : s.nmuWatchdog n = s := by
  unfold State.nmuWatchdog; rw [h]; rfl

theorem State.dogDue_none (s : State) (n : Nat)
    (h : s.itemsSince n = [] ∨ s.fget (F.nmuCfg_WATCHDOG n) = 0 ∨ s.fget (F.nmuStatus_STATE n) ≠ 0 ∨ s.nmuHeld n = true) : s.dogDue n = none := by
  unfold State.dogDue
  rcases h with h | h | h | h
  · have hsince : s.dogSince n = none := by unfold State.dogSince; rw [h]
    dsimp only
    rw [hsince]
    split <;> rfl
  · exact if_pos (by simp [h])
  · exact if_pos (by simp [State.nmuActive, h])
  · exact if_pos (by simp [h])

theorem State.dogDue_some (s : State) (n a : Nat) (l : List Nat) (hitems : s.itemsSince n = a :: l) (hdog : s.fget (F.nmuCfg_WATCHDOG n) ≠ 0)
    (hst : s.fget (F.nmuStatus_STATE n) = 0) (hheld : s.nmuHeld n = false) :
    s.dogDue n = some (max (SMap.get s.nmuSince 0 n) (l.foldl min a) + s.fget (F.nmuCfg_WATCHDOG n) * 1024) := by
  have hsince : s.dogSince n = some (max (SMap.get s.nmuSince 0 n) (l.foldl min a)) := by unfold State.dogSince; rw [hitems]
  unfold State.dogDue
  dsimp only
  rw [hsince]
  exact if_neg (by simp [hdog, State.nmuActive, hst, hheld])

theorem exec_nmuWatchdog (n : Fin 32) (s : State) (hstay : s.noneLeaving) :
    (s.itemsSince n.val = [] ∨ s.fget (F.nmuCfg_WATCHDOG n.val) = 0 ∨ s.fget (F.nmuStatus_STATE n.val) ≠ 0 ∨ s.nmuHeld n.val = true →
      exec (.nmuWatchdog n) s = .next s) ∧
    (∀ a l, s.itemsSince n.val = a :: l → s.fget (F.nmuCfg_WATCHDOG n.val) ≠ 0 → s.fget (F.nmuStatus_STATE n.val) = 0 →
      s.nmuHeld n.val = false →
      let due := max (SMap.get s.nmuSince 0 n.val) (l.foldl min a) + s.fget (F.nmuCfg_WATCHDOG n.val) * 1024
      s.reaches due → let u := (s.momentOf due).haltJobs 4 ((s.momentOf due).workOf n.val)
      (u.jobs = s.jobs → exec (.nmuWatchdog n) s = .next (u.nmuLeave n.val 2 2)) ∧
      (u.jobs ≠ s.jobs → ∃ v, u.sets v [(F.nmuHalts_COUNT n.val, u.wrapped (F.nmuHalts_COUNT n.val) (s.jobs.length - u.jobs.length))] ∧
        exec (.nmuWatchdog n) s = .next (v.nmuLeave n.val 2 2))) := by
  have hexec : exec (.nmuWatchdog n) s = .next (s.nmuWatchdog n.val).offlines := rfl
  rw [hexec]
  refine ⟨fun hno => by rw [s.nmuWatchdog_none n.val (s.dogDue_none n.val hno), s.offlines_same hstay], fun a l hitems hdog hst hheld => ?_⟩
  intro due hreach u
  have hwatch : s.nmuWatchdog n.val = (s.momentOf due).wedge n.val := by
    unfold State.nmuWatchdog
    rw [s.dogDue_some n.val a l hitems hdog hst hheld, Option.bind_some, s.atCadence_reaches _ hreach]
  have hwedge : (s.momentOf due).wedge n.val =
      (if u.jobs = s.jobs then u else u.count (F.nmuHalts_COUNT n.val) (s.jobs.length - u.jobs.length)).nmuLeave n.val 2 2 := rfl
  have hmoment : (s.momentOf due).noneLeaving := hstay
  have hu : u.noneLeaving := ((State.Still.refl (s.momentOf due)).haltJobs 4 _).noneLeaving hmoment
  rw [hwatch, hwedge]
  clear_value u
  refine ⟨fun heq => ?_, fun hne => ⟨_, State.sets_fset u u [] (F.nmuHalts_COUNT n.val) _ _ (Fld.ok_mk (by decide)) rfl (by simp) u.sets_nil, ?_⟩⟩
  · rw [if_pos heq, u.nmuLeave_offlines _ _ _ (by decide) (by decide) hu]
  · rw [if_neg hne]
    have hv := ((State.Still.refl (live := true) u).countHalts n.val (s.jobs.length - u.jobs.length)).noneLeaving hu
    exact congrArg Host.Outcome.next (State.nmuLeave_offlines _ _ _ _ (by decide) (by decide) hv)

/-- Settles O57: an instruction past its launch becomes a job (`nmuInstructions`), its work atoms go in turn (`nmuWorkAtoms`,
`State.itemGo_spec`); no command but leaving service changes who serves, so that nothing else happens where none is to leave
(`State.Still.offlines`). -/
theorem nmuWork : Obligations.NmuWork := by
  unfold Obligations.NmuWork
  refine ⟨nmuInstructions, fun s id j hj => ⟨fun hready => s.paramGo_ready id j hj (j.ready_iff.2 hready), s.paramGo_unread id j hj⟩,
    nmuWorkAtoms, State.itemCompute_spec, State.itemGo_spec, fun id s => ⟨exec_nmuInstructionDone_none id s, exec_nmuInstructionDone id s⟩,
    exec_atomicAddNmu, fun n s hstay => ?_, fun n s st cause m hst h0 hm => s.nmuLeave_spec n st cause m hst h0 hm⟩
  obtain ⟨hno, hcan⟩ := exec_nmuParityError n s hstay
  obtain ⟨hrests, hruns⟩ := exec_nmuWatchdog n s hstay
  exact ⟨hno, hcan, exec_nmuOffline n s hstay, hrests, hruns⟩

end Sys2Proof.Machine
